-- ==== Sys2Proof/Word.lean ====
section
/-! DEFINITION. The word types of the K3264: registers are 32 bits wide (R251), bytes make up descriptors,
completions, events, records and line frames. -/

namespace Sys2Proof

/-- A register word (R251). -/
abbrev Word := BitVec 32

/-- A byte of a descriptor, an entry, a record or a frame. -/
abbrev Byte := BitVec 8

end Sys2Proof
end

