-- ==== Sys2Proof/Machine/RegMap.lean ====
section
/-! DEFINITION. The register map of BAR0 (register index of spec/20_register_index.md, R359; field tables of
the owning chapters): one address function per register, one field constant per field, and the table
that says which fields a register has, their type codes (R256), whether they are static (R259) and
covered by the privet scan (R265), and the value they take at reset. The names are the manual's. -/

namespace Sys2Proof.Machine

/-- A field of a register: its lowest bit and its width. -/
structure Fld where
  lo : Nat
  width : Nat
  deriving DecidableEq, Repr

/-- The type codes of a register table (R256). -/
inductive RegTy where
  | rw | ro | rs | rk | wo | rc
  deriving DecidableEq, Repr

/-- One field of a register as its table gives it. -/
structure FieldSpec where
  fld : Fld
  ty : RegTy
  /-- The table marks the field static (R259). -/
  isStatic : Bool
  /-- The field is covered by the privet scan (R265). -/
  covered : Bool
  deriving DecidableEq, Repr

/-- One row of the register index: the lowest address, the strides and instance counts, the reset value
and the fields. A bit of no field is reserved and reads 0 (R251). -/
structure RegSpec where
  base : Nat
  dims : List (Nat × Nat)
  reset : Nat
  fields : List FieldSpec
  deriving DecidableEq, Repr

/-- A read-only field, a status field or a result. -/
def fRo (hi lo : Nat) : FieldSpec := ⟨⟨lo, hi + 1 - lo⟩, .ro, false, false⟩
/-- A counter-class field. -/
def fRc (hi lo : Nat) : FieldSpec := ⟨⟨lo, hi + 1 - lo⟩, .rc, false, false⟩
/-- A shadowed field. -/
def fRs (hi lo : Nat) : FieldSpec := ⟨⟨lo, hi + 1 - lo⟩, .rs, false, false⟩
/-- A covered control field. -/
def fCtl (hi lo : Nat) (ty : RegTy) : FieldSpec := ⟨⟨lo, hi + 1 - lo⟩, ty, false, true⟩
/-- A covered control field that is static. -/
def fSta (hi lo : Nat) (ty : RegTy) : FieldSpec := ⟨⟨lo, hi + 1 - lo⟩, ty, true, true⟩
/-- A control field that the privet scan does not cover (R265). -/
def fUnc (hi lo : Nat) (ty : RegTy) : FieldSpec := ⟨⟨lo, hi + 1 - lo⟩, ty, false, false⟩

/-- spec/00_scope.md. -/
def GLB_REV : Nat := 0x4
def GLB_REV_SI_LETTER : Fld := ⟨24, 8⟩
def GLB_REV_SI_NUM : Fld := ⟨16, 8⟩
def GLB_REV_KEY_CLASS : Fld := ⟨8, 8⟩
/-- spec/15_startup.md. -/
def GLB_STATE : Nat := 0x8
def GLB_STATE_LIB_BAD : Fld := ⟨16, 1⟩
def GLB_STATE_CAUSE : Fld := ⟨8, 8⟩
def GLB_STATE_STATE : Fld := ⟨0, 4⟩
/-- spec/15_startup.md. -/
def GLB_BOOT : Nat := 0xC
def GLB_BOOT_MIN_SVN : Fld := ⟨16, 16⟩
def GLB_BOOT_PREF : Fld := ⟨10, 1⟩
def GLB_BOOT_FALLBACK : Fld := ⟨9, 1⟩
def GLB_BOOT_IMG : Fld := ⟨8, 1⟩
def GLB_BOOT_CAUSE_B : Fld := ⟨4, 4⟩
def GLB_BOOT_CAUSE_A : Fld := ⟨0, 4⟩
/-- spec/15_startup.md. -/
def GLB_FW : Nat := 0x10
def GLB_FW_VERSION : Fld := ⟨0, 32⟩
/-- spec/15_startup.md. -/
def GLB_RECOV_CTRL : Nat := 0x14
def GLB_RECOV_CTRL_GO : Fld := ⟨31, 1⟩
def GLB_RECOV_CTRL_STATUS : Fld := ⟨28, 3⟩
def GLB_RECOV_CTRL_LEN : Fld := ⟨0, 26⟩
/-- spec/15_startup.md. -/
def GLB_RECOV_ADDR_LO : Nat := 0x18
def GLB_RECOV_ADDR_LO_ADDR : Fld := ⟨0, 32⟩
/-- spec/15_startup.md. -/
def GLB_RECOV_ADDR_HI : Nat := 0x1C
def GLB_RECOV_ADDR_HI_ADDR : Fld := ⟨0, 32⟩
/-- spec/16_migration.md. -/
def GLB_FWUP_CTRL : Nat := 0x20
def GLB_FWUP_CTRL_GO : Fld := ⟨31, 1⟩
def GLB_FWUP_CTRL_SETPREF : Fld := ⟨30, 1⟩
def GLB_FWUP_CTRL_LEN : Fld := ⟨0, 26⟩
/-- spec/16_migration.md. -/
def GLB_FWUP_ADDR_LO : Nat := 0x24
def GLB_FWUP_ADDR_LO_ADDR : Fld := ⟨0, 32⟩
/-- spec/16_migration.md. -/
def GLB_FWUP_ADDR_HI : Nat := 0x28
def GLB_FWUP_ADDR_HI_ADDR : Fld := ⟨0, 32⟩
/-- spec/16_migration.md. -/
def GLB_FWUP_STAT : Nat := 0x2C
def GLB_FWUP_STAT_CAUSE : Fld := ⟨4, 4⟩
def GLB_FWUP_STAT_STATUS : Fld := ⟨0, 3⟩
/-- spec/01_architecture.md. -/
def GLB_HEDGE_STAT : Nat := 0x40
def GLB_HEDGE_STAT_FOREIGN (i : Nat) : Fld := ⟨i * 8 + 3, 1⟩
def GLB_HEDGE_STAT_XING_FAULT (i : Nat) : Fld := ⟨i * 8 + 2, 1⟩
def GLB_HEDGE_STAT_FREEWHEEL (i : Nat) : Fld := ⟨i * 8 + 1, 1⟩
def GLB_HEDGE_STAT_RUN (i : Nat) : Fld := ⟨i * 8 + 0, 1⟩
/-- spec/01_architecture.md. -/
def GLB_XING_CNT (h : Nat) : Nat := 0x50 + h * 0x4
def GLB_XING_CNT_MISSED : Fld := ⟨16, 16⟩
def GLB_XING_CNT_RETRY : Fld := ⟨0, 16⟩
/-- spec/16_migration.md. -/
def GLB_MIG_CFG : Nat := 0x60
def GLB_MIG_CFG_CE_LIMIT : Fld := ⟨8, 8⟩
def GLB_MIG_CFG_REPAIR : Fld := ⟨0, 1⟩
/-- spec/16_migration.md. -/
def GLB_SPARE : Nat := 0x64
def GLB_SPARE_SLOT_FREE : Fld := ⟨16, 8⟩
def GLB_SPARE_ENG_FREE : Fld := ⟨8, 8⟩
def GLB_SPARE_SLOT_RET : Fld := ⟨4, 4⟩
def GLB_SPARE_ENG_RET : Fld := ⟨0, 4⟩
/-- spec/16_migration.md. -/
def GLB_MIG_CNT : Nat := 0x68
def GLB_MIG_CNT_REPAIRS : Fld := ⟨16, 16⟩
def GLB_MIG_CNT_ABORTS : Fld := ⟨0, 16⟩
/-- spec/17_faults.md. -/
def GLB_RET_CNT : Nat := 0x70
def GLB_RET_CNT_STAGES : Fld := ⟨24, 8⟩
def GLB_RET_CNT_CONVERTERS : Fld := ⟨16, 8⟩
def GLB_RET_CNT_COMPARATORS : Fld := ⟨8, 8⟩
def GLB_RET_CNT_PORTS : Fld := ⟨0, 8⟩
/-- spec/17_faults.md. -/
def GLB_RET_CNT2 : Nat := 0x74
def GLB_RET_CNT2_SUPERVISORS : Fld := ⟨24, 8⟩
def GLB_RET_CNT2_FILTERS : Fld := ⟨16, 8⟩
def GLB_RET_CNT2_ID_BUSES : Fld := ⟨8, 8⟩
def GLB_RET_CNT2_NET_PORTS : Fld := ⟨0, 8⟩
/-- spec/01_architecture.md. -/
def GLB_XING_HCNT : Nat := 0x78
def GLB_XING_HCNT_RETRY : Fld := ⟨16, 16⟩
def GLB_XING_HCNT_LOST : Fld := ⟨0, 16⟩
/-- spec/13_host_interface.md. -/
def HIF_OWN_AX (i : Nat) : Nat := 0x100 + i * 0x4
def HIF_OWN_AX_CAB (i : Nat) : Fld := ⟨i * 2 + 0, 2⟩
/-- spec/13_host_interface.md. -/
def HIF_OWN_TILE : Nat := 0x108
def HIF_OWN_TILE_TILE (i : Nat) : Fld := ⟨i * 2 + 0, 2⟩
/-- spec/13_host_interface.md. -/
def HIF_PORT_STAT (h : Nat) : Nat := 0x110 + h * 0x4
def HIF_PORT_STAT_WIDTH : Fld := ⟨12, 4⟩
def HIF_PORT_STAT_SPEED : Fld := ⟨8, 4⟩
def HIF_PORT_STAT_L0 : Fld := ⟨1, 1⟩
def HIF_PORT_STAT_LINK : Fld := ⟨0, 1⟩
/-- spec/13_host_interface.md. -/
def HIF_GCNT : Nat := 0x118
def HIF_GCNT_RD_RETRY : Fld := ⟨16, 16⟩
def HIF_GCNT_ROUTE_FAIL : Fld := ⟨0, 16⟩
/-- spec/14_registers.md. -/
def GLB_LOCK : Nat := 0x200
def GLB_LOCK_GLOBAL_LOCK : Fld := ⟨0, 1⟩
/-- spec/14_registers.md. -/
def CFG_SCAN_INFO : Nat := 0x204
def CFG_SCAN_INFO_LAST_US : Fld := ⟨16, 16⟩
def CFG_SCAN_INFO_COVERED : Fld := ⟨0, 13⟩
/-- spec/14_registers.md. -/
def CFG_SCAN_CNT : Nat := 0x208
def CFG_SCAN_CNT_TRANSIENT : Fld := ⟨16, 16⟩
def CFG_SCAN_CNT_PERMANENT : Fld := ⟨0, 16⟩
/-- spec/14_registers.md. -/
def CFG_XING_CNT : Nat := 0x20C
def CFG_XING_CNT_REG_ABORT : Fld := ⟨0, 16⟩
/-- spec/19_electrical.md. -/
def GLB_ENC_CFG (n : Nat) : Nat := 0x300 + n * 0x4
def GLB_ENC_CFG_IVL : Fld := ⟨20, 12⟩
def GLB_ENC_CFG_CLK : Fld := ⟨16, 3⟩
def GLB_ENC_CFG_GRAY : Fld := ⟨14, 1⟩
def GLB_ENC_CFG_BITS : Fld := ⟨8, 6⟩
def GLB_ENC_CFG_FILT : Fld := ⟨4, 4⟩
def GLB_ENC_CFG_INV : Fld := ⟨2, 1⟩
def GLB_ENC_CFG_MODE : Fld := ⟨0, 2⟩
/-- spec/19_electrical.md. -/
def GLB_ENC_STAT (n : Nat) : Nat := 0x340 + n * 0x4
def GLB_ENC_STAT_ZSEEN : Fld := ⟨2, 1⟩
def GLB_ENC_STAT_FAULT : Fld := ⟨1, 1⟩
def GLB_ENC_STAT_SIG : Fld := ⟨0, 1⟩
/-- spec/19_electrical.md. -/
def GLB_ENC_CNT (n : Nat) : Nat := 0x380 + n * 0x4
def GLB_ENC_CNT_ERR : Fld := ⟨16, 16⟩
def GLB_ENC_CNT_FRAMES : Fld := ⟨0, 16⟩
/-- spec/19_electrical.md. -/
def GLB_ENC_POS (n : Nat) : Nat := 0x3C0 + n * 0x4
def GLB_ENC_POS_POS : Fld := ⟨0, 32⟩
/-- spec/02_line_time.md. -/
def NET_CTRL : Nat := 0x10000
def NET_CTRL_ANN_TO : Fld := ⟨16, 4⟩
def NET_CTRL_DOMAIN : Fld := ⟨8, 8⟩
def NET_CTRL_LOCAL_OK : Fld := ⟨2, 1⟩
def NET_CTRL_PROFILE : Fld := ⟨0, 2⟩
/-- spec/02_line_time.md. -/
def NET_SEG : Nat := 0x10004
def NET_SEG_SEG_ID : Fld := ⟨16, 16⟩
def NET_SEG_HB_MS : Fld := ⟨8, 8⟩
def NET_SEG_DEVNUM : Fld := ⟨0, 6⟩
/-- spec/02_line_time.md. -/
def NET_MEMBER_LO : Nat := 0x10008
def NET_MEMBER_LO_MEMBER : Fld := ⟨0, 32⟩
/-- spec/02_line_time.md. -/
def NET_MEMBER_HI : Nat := 0x1000C
def NET_MEMBER_HI_MEMBER : Fld := ⟨0, 32⟩
/-- spec/02_line_time.md. -/
def NET_PORT_CTRL (n : Nat) : Nat := 0x10010 + n * 0x4
def NET_PORT_CTRL_VID : Fld := ⟨20, 12⟩
def NET_PORT_CTRL_PCP : Fld := ⟨17, 3⟩
def NET_PORT_CTRL_VLAN_EN : Fld := ⟨2, 1⟩
def NET_PORT_CTRL_BLOCK : Fld := ⟨1, 1⟩
def NET_PORT_CTRL_EN : Fld := ⟨0, 1⟩
/-- spec/02_line_time.md. -/
def NET_PORT_STAT (n : Nat) : Nat := 0x10018 + n * 0x4
def NET_PORT_STAT_BLOCK_OPEN : Fld := ⟨2, 1⟩
def NET_PORT_STAT_PARENT : Fld := ⟨1, 1⟩
def NET_PORT_STAT_LINK : Fld := ⟨0, 1⟩
/-- spec/02_line_time.md. -/
def NET_ASYM (n : Nat) : Nat := 0x10020 + n * 0x4
def NET_ASYM_ASYM : Fld := ⟨0, 16⟩
/-- spec/02_line_time.md. -/
def NET_LF_VER : Nat := 0x10028
def NET_LF_VER_MAX : Fld := ⟨8, 8⟩
def NET_LF_VER_USED : Fld := ⟨0, 8⟩
/-- spec/02_line_time.md. -/
def LT_EPOCH_LO : Nat := 0x10030
def LT_EPOCH_LO_EPOCH : Fld := ⟨0, 32⟩
/-- spec/02_line_time.md. -/
def LT_EPOCH_HI : Nat := 0x10034
def LT_EPOCH_HI_EPOCH : Fld := ⟨0, 32⟩
/-- spec/02_line_time.md. -/
def LT_NOW_LO : Nat := 0x10038
def LT_NOW_LO_NOW : Fld := ⟨0, 32⟩
/-- spec/02_line_time.md. -/
def LT_NOW_HI : Nat := 0x1003C
def LT_NOW_HI_NOW : Fld := ⟨0, 32⟩
/-- spec/02_line_time.md. -/
def LT_STAT : Nat := 0x10040
def LT_STAT_STEP_PENDING : Fld := ⟨7, 1⟩
def LT_STAT_HOLD_LIMIT : Fld := ⟨6, 1⟩
def LT_STAT_SLEWING : Fld := ⟨5, 1⟩
def LT_STAT_QUALITY : Fld := ⟨0, 2⟩
/-- spec/02_line_time.md. -/
def LT_OFFSET : Nat := 0x10044
def LT_OFFSET_OFFSET : Fld := ⟨0, 32⟩
/-- spec/02_line_time.md. -/
def LT_HOLD : Nat := 0x10048
def LT_HOLD_LIMIT : Fld := ⟨0, 10⟩
/-- spec/02_line_time.md. -/
def LT_MODE_DEV : Nat := 0x1004C
def LT_MODE_DEV_MIXED : Fld := ⟨8, 1⟩
def LT_MODE_DEV_MODE : Fld := ⟨0, 8⟩
/-- spec/02_line_time.md. -/
def NET_FRAME_CNT : Nat := 0x10060
def NET_FRAME_CNT_PTP_DROP : Fld := ⟨24, 8⟩
def NET_FRAME_CNT_VER_DROP : Fld := ⟨16, 8⟩
def NET_FRAME_CNT_EPOCH_DROP : Fld := ⟨8, 8⟩
def NET_FRAME_CNT_DUP_DROP : Fld := ⟨0, 8⟩
/-- spec/02_line_time.md. -/
def NET_SAMPLE_CNT : Nat := 0x10064
def NET_SAMPLE_CNT_REJECT : Fld := ⟨16, 16⟩
def NET_SAMPLE_CNT_LATE_ACK : Fld := ⟨0, 16⟩
/-- spec/02_line_time.md. -/
def NET_VM_CFG (v : Nat) : Nat := 0x10080 + v * 0x4
def NET_VM_CFG_EN : Fld := ⟨15, 1⟩
def NET_VM_CFG_IVL : Fld := ⟨12, 3⟩
def NET_VM_CFG_CHAN : Fld := ⟨8, 4⟩
def NET_VM_CFG_SRC : Fld := ⟨0, 6⟩
/-- spec/02_line_time.md. -/
def NET_VM_STAT (v : Nat) : Nat := 0x100A0 + v * 0x4
def NET_VM_STAT_LAST_SEQ : Fld := ⟨16, 16⟩
def NET_VM_STAT_SRC_TQ : Fld := ⟨2, 2⟩
def NET_VM_STAT_ORDER2 : Fld := ⟨1, 1⟩
def NET_VM_STAT_STALE : Fld := ⟨0, 1⟩
/-- spec/02_line_time.md. -/
def NET_PUB_CFG (n : Nat) : Nat := 0x100C0 + n * 0x4
def NET_PUB_CFG_EN : Fld := ⟨15, 1⟩
def NET_PUB_CFG_IVL : Fld := ⟨12, 3⟩
def NET_PUB_CFG_CHAN : Fld := ⟨8, 4⟩
def NET_PUB_CFG_KIND : Fld := ⟨7, 1⟩
def NET_PUB_CFG_INDEX : Fld := ⟨0, 5⟩
/-- spec/18_recorder.md. -/
def REC_STAT : Nat := 0x20000
def REC_STAT_FILL : Fld := ⟨24, 8⟩
def REC_STAT_STAGE : Fld := ⟨16, 8⟩
def REC_STAT_PFAIL : Fld := ⟨5, 1⟩
def REC_STAT_RTC_VALID : Fld := ⟨4, 1⟩
def REC_STAT_BYPASS : Fld := ⟨3, 1⟩
def REC_STAT_RAM_ONLY : Fld := ⟨2, 1⟩
def REC_STAT_FLUSH_PEND : Fld := ⟨1, 1⟩
def REC_STAT_FLUSHING : Fld := ⟨0, 1⟩
/-- spec/18_recorder.md. -/
def REC_SEQ : Nat := 0x20004
def REC_SEQ_NEXT : Fld := ⟨0, 32⟩
/-- spec/18_recorder.md. -/
def REC_FLUSHED : Nat := 0x20008
def REC_FLUSHED_SEQ : Fld := ⟨0, 32⟩
/-- spec/18_recorder.md. -/
def REC_CNT : Nat := 0x2000C
def REC_CNT_DROPPED_CNT : Fld := ⟨16, 16⟩
def REC_CNT_LOST : Fld := ⟨0, 16⟩
/-- spec/18_recorder.md. -/
def REC_CNT2 : Nat := 0x20010
def REC_CNT2_MERGED : Fld := ⟨16, 16⟩
def REC_CNT2_EVICTED : Fld := ⟨0, 16⟩
/-- spec/18_recorder.md. -/
def REC_ARM : Nat := 0x20014
def REC_ARM_RESERVE : Fld := ⟨16, 16⟩
def REC_ARM_RETIRED : Fld := ⟨0, 16⟩
/-- spec/18_recorder.md. -/
def REC_DRAWER : Nat := 0x20018
def REC_DRAWER_USED : Fld := ⟨0, 12⟩
/-- spec/18_recorder.md. -/
def REC_RD_CTRL : Nat := 0x20020
def REC_RD_CTRL_GO : Fld := ⟨31, 1⟩
def REC_RD_CTRL_STATUS : Fld := ⟨28, 3⟩
def REC_RD_CTRL_AREA : Fld := ⟨27, 1⟩
def REC_RD_CTRL_PIECE : Fld := ⟨0, 5⟩
/-- spec/18_recorder.md. -/
def REC_RD_SEQ : Nat := 0x20024
def REC_RD_SEQ_SEQ : Fld := ⟨0, 32⟩
/-- spec/18_recorder.md. -/
def REC_RD (i : Nat) : Nat := 0x20030 + i * 0x4
def REC_RD_DATA : Fld := ⟨0, 32⟩
/-- spec/12_engines.md. -/
def ENG_STAT (e : Nat) : Nat := 0x30000 + e * 0x40
def ENG_STAT_CAUSE : Fld := ⟨24, 8⟩
def ENG_STAT_AXIS : Fld := ⟨16, 8⟩
def ENG_STAT_IMG_B : Fld := ⟨7, 1⟩
def ENG_STAT_SB_VALID : Fld := ⟨6, 1⟩
def ENG_STAT_STATE : Fld := ⟨0, 3⟩
/-- spec/12_engines.md. -/
def ENG_PC (e : Nat) : Nat := 0x30004 + e * 0x40
def ENG_PC_ID : Fld := ⟨16, 16⟩
def ENG_PC_PC : Fld := ⟨0, 16⟩
/-- spec/12_engines.md. -/
def ENG_EVLATCH (e : Nat) : Nat := 0x30008 + e * 0x40
def ENG_EVLATCH_EV : Fld := ⟨0, 17⟩
/-- spec/12_engines.md. -/
def ENG_HOSTEV (e : Nat) : Nat := 0x3000C + e * 0x40
def ENG_HOSTEV_PARAM : Fld := ⟨16, 16⟩
def ENG_HOSTEV_SET : Fld := ⟨0, 1⟩
/-- spec/12_engines.md. -/
def ENG_CFG (e : Nat) : Nat := 0x30010 + e * 0x40
def ENG_CFG_STOPEV : Fld := ⟨8, 1⟩
def ENG_CFG_ENC : Fld := ⟨0, 4⟩
/-- spec/12_engines.md. -/
def ENG_WDOG (e : Nat) : Nat := 0x30014 + e * 0x40
def ENG_WDOG_N : Fld := ⟨0, 16⟩
/-- spec/12_engines.md. -/
def ENG_USE (e : Nat) : Nat := 0x30018 + e * 0x40
def ENG_USE_PEAK : Fld := ⟨16, 16⟩
def ENG_USE_LAST : Fld := ⟨0, 16⟩
/-- spec/12_engines.md. -/
def ENG_CNT (e : Nat) : Nat := 0x3001C + e * 0x40
def ENG_CNT_FYIELD : Fld := ⟨16, 16⟩
def ENG_CNT_EVOVER : Fld := ⟨8, 8⟩
def ENG_CNT_STOPS : Fld := ⟨0, 8⟩
/-- spec/12_engines.md. -/
def ENG_CNT2 (e : Nat) : Nat := 0x30020 + e * 0x40
def ENG_CNT2_CMDS : Fld := ⟨16, 16⟩
def ENG_CNT2_BUSY : Fld := ⟨0, 16⟩
/-- spec/12_engines.md. -/
def ENG_DADDR (e : Nat) : Nat := 0x30024 + e * 0x40
def ENG_DADDR_WORD : Fld := ⟨2, 9⟩
/-- spec/12_engines.md. -/
def ENG_DDATA (e : Nat) : Nat := 0x30028 + e * 0x40
def ENG_DDATA_DATA : Fld := ⟨0, 32⟩
/-- spec/13_host_interface.md. -/
def HIF_CAB_CTRL (c : Nat) : Nat := 0x40000 + c * 0x1000
def HIF_CAB_CTRL_LINKLOSS : Fld := ⟨10, 1⟩
def HIF_CAB_CTRL_EVRING_F : Fld := ⟨5, 5⟩
def HIF_CAB_CTRL_EVRING : Fld := ⟨0, 5⟩
/-- spec/13_host_interface.md. -/
def HIF_CAB_STAT (c : Nat) : Nat := 0x40004 + c * 0x1000
def HIF_CAB_STAT_WDOG_EXP : Fld := ⟨2, 1⟩
def HIF_CAB_STAT_RESETTING : Fld := ⟨1, 1⟩
def HIF_CAB_STAT_LINK : Fld := ⟨0, 1⟩
/-- spec/13_host_interface.md. -/
def HIF_CAB_AXES (c : Nat) : Nat := 0x40008 + c * 0x1000
def HIF_CAB_AXES_AXES : Fld := ⟨0, 32⟩
/-- spec/13_host_interface.md. -/
def HIF_CAB_WDOG (c : Nat) : Nat := 0x4000C + c * 0x1000
def HIF_CAB_WDOG_KICK : Fld := ⟨31, 1⟩
def HIF_CAB_WDOG_MS : Fld := ⟨0, 16⟩
/-- spec/13_host_interface.md. -/
def HIF_CAB_CNT (c : Nat) : Nat := 0x40010 + c * 0x1000
def HIF_CAB_CNT_EV_LOST : Fld := ⟨16, 16⟩
def HIF_CAB_CNT_DB_BAD : Fld := ⟨0, 16⟩
/-- spec/13_host_interface.md. -/
def HIF_CAB_CNT2 (c : Nat) : Nat := 0x40014 + c * 0x1000
def HIF_CAB_CNT2_DB_MERGED : Fld := ⟨16, 16⟩
def HIF_CAB_CNT2_TR_LOST : Fld := ⟨0, 16⟩
/-- spec/13_host_interface.md. -/
def HIF_CAB_EVSEQ (c : Nat) : Nat := 0x40018 + c * 0x1000
def HIF_CAB_EVSEQ_SEQ : Fld := ⟨0, 32⟩
/-- spec/14_registers.md. -/
def CFG_LOCK (c : Nat) : Nat := 0x40030 + c * 0x1000
def CFG_LOCK_REF_SEL : Fld := ⟨8, 3⟩
def CFG_LOCK_LOCK : Fld := ⟨0, 1⟩
/-- spec/14_registers.md. -/
def CFG_STAT (c : Nat) : Nat := 0x40034 + c * 0x1000
def CFG_STAT_PARITY : Fld := ⟨24, 1⟩
def CFG_STAT_FAULT : Fld := ⟨16, 5⟩
def CFG_STAT_MISMATCH : Fld := ⟨8, 5⟩
def CFG_STAT_ARMED : Fld := ⟨0, 5⟩
/-- spec/14_registers.md. -/
def CFG_CNT (c : Nat) : Nat := 0x40038 + c * 0x1000
def CFG_CNT_LOCK_VIOL_CNT : Fld := ⟨16, 16⟩
def CFG_CNT_STATIC_WR_CNT : Fld := ⟨0, 16⟩
/-- spec/14_registers.md. -/
def CFG_REF (c : Nat) : Nat := 0x4003C + c * 0x1000
def CFG_REF_REF : Fld := ⟨0, 32⟩
/-- spec/13_host_interface.md. -/
def HIF_RING_BASE_LO (c n : Nat) : Nat := 0x40040 + c * 0x1000 + n * 0x1C
def HIF_RING_BASE_LO_BASE : Fld := ⟨0, 32⟩
/-- spec/13_host_interface.md. -/
def HIF_RING_BASE_HI (c n : Nat) : Nat := 0x40044 + c * 0x1000 + n * 0x1C
def HIF_RING_BASE_HI_BASE : Fld := ⟨0, 32⟩
/-- spec/13_host_interface.md. -/
def HIF_RING_CFG (c n : Nat) : Nat := 0x40048 + c * 0x1000 + n * 0x1C
def HIF_RING_CFG_MOD : Fld := ⟨24, 8⟩
def HIF_RING_CFG_CPL : Fld := ⟨20, 4⟩
def HIF_RING_CFG_VEC : Fld := ⟨17, 3⟩
def HIF_RING_CFG_VER_REQ : Fld := ⟨13, 4⟩
def HIF_RING_CFG_SIZE : Fld := ⟨9, 4⟩
def HIF_RING_CFG_TYPE : Fld := ⟨6, 3⟩
def HIF_RING_CFG_EN : Fld := ⟨0, 1⟩
/-- spec/13_host_interface.md. -/
def HIF_RING_STAT (c n : Nat) : Nat := 0x4004C + c * 0x1000 + n * 0x1C
def HIF_RING_STAT_CAUSE : Fld := ⟨12, 4⟩
def HIF_RING_STAT_VER : Fld := ⟨8, 4⟩
def HIF_RING_STAT_CREDIT_WAIT : Fld := ⟨3, 1⟩
def HIF_RING_STAT_STATE : Fld := ⟨0, 3⟩
/-- spec/13_host_interface.md. -/
def HIF_RING_DEV (c n : Nat) : Nat := 0x40050 + c * 0x1000 + n * 0x1C
def HIF_RING_DEV_IDX : Fld := ⟨0, 13⟩
/-- spec/13_host_interface.md. -/
def HIF_RING_HOST (c n : Nat) : Nat := 0x40054 + c * 0x1000 + n * 0x1C
def HIF_RING_HOST_IDX : Fld := ⟨0, 13⟩
/-- spec/13_host_interface.md. -/
def HIF_RING_CNT (c n : Nat) : Nat := 0x40058 + c * 0x1000 + n * 0x1C
def HIF_RING_CNT_CNT : Fld := ⟨0, 32⟩
/-- spec/15_startup.md. -/
def CFG_CAB_STAT (c : Nat) : Nat := 0x40200 + c * 0x1000
def CFG_CAB_STAT_COMMITTED : Fld := ⟨0, 1⟩
/-- spec/03_motion_profiles.md. -/
def MP_CTRL (a : Nat) : Nat := 0x100000 + a * 0x800
def MP_CTRL_BANK_SEL : Fld := ⟨8, 2⟩
def MP_CTRL_SOFT_EN : Fld := ⟨4, 1⟩
def MP_CTRL_EV_ARRIVE : Fld := ⟨3, 1⟩
/-- spec/03_motion_profiles.md. -/
def MP_STAT (a : Nat) : Nat := 0x100004 + a * 0x800
def MP_STAT_HEAD_TAG : Fld := ⟨16, 16⟩
def MP_STAT_QDEPTH : Fld := ⟨12, 4⟩
def MP_STAT_DWELL : Fld := ⟨11, 1⟩
def MP_STAT_AT_SOFT : Fld := ⟨10, 1⟩
def MP_STAT_DECEL_RAISED : Fld := ⟨9, 1⟩
def MP_STAT_DERATED : Fld := ⟨8, 1⟩
def MP_STAT_MOVING : Fld := ⟨3, 1⟩
def MP_STAT_STATE : Fld := ⟨0, 3⟩
/-- spec/03_motion_profiles.md. -/
def MP_CMD_POS_LO (a : Nat) : Nat := 0x100008 + a * 0x800
def MP_CMD_POS_LO_POS : Fld := ⟨0, 32⟩
/-- spec/03_motion_profiles.md. -/
def MP_CMD_POS_HI (a : Nat) : Nat := 0x10000C + a * 0x800
def MP_CMD_POS_HI_POS : Fld := ⟨0, 32⟩
/-- spec/03_motion_profiles.md. -/
def MP_TARGET_LO (a : Nat) : Nat := 0x100010 + a * 0x800
def MP_TARGET_LO_TARGET : Fld := ⟨0, 32⟩
/-- spec/03_motion_profiles.md. -/
def MP_TARGET_HI (a : Nat) : Nat := 0x100014 + a * 0x800
def MP_TARGET_HI_TARGET : Fld := ⟨0, 32⟩
/-- spec/03_motion_profiles.md. -/
def MP_CMD_VEL_LO (a : Nat) : Nat := 0x100018 + a * 0x800
def MP_CMD_VEL_LO_VEL : Fld := ⟨0, 32⟩
/-- spec/03_motion_profiles.md. -/
def MP_CMD_VEL_HI (a : Nat) : Nat := 0x10001C + a * 0x800
def MP_CMD_VEL_HI_VEL : Fld := ⟨0, 32⟩
/-- spec/03_motion_profiles.md. -/
def MP_CMD_ACC_LO (a : Nat) : Nat := 0x100020 + a * 0x800
def MP_CMD_ACC_LO_ACC : Fld := ⟨0, 32⟩
/-- spec/03_motion_profiles.md. -/
def MP_CMD_ACC_HI (a : Nat) : Nat := 0x100024 + a * 0x800
def MP_CMD_ACC_HI_ACC : Fld := ⟨0, 32⟩
/-- spec/03_motion_profiles.md. -/
def MP_PV_LO (a : Nat) : Nat := 0x100030 + a * 0x800
def MP_PV_LO_VALUE : Fld := ⟨0, 32⟩
/-- spec/03_motion_profiles.md. -/
def MP_PV_HI (a : Nat) : Nat := 0x100034 + a * 0x800
def MP_PV_HI_VALUE : Fld := ⟨0, 32⟩
/-- spec/03_motion_profiles.md. -/
def MP_PA_LO (a : Nat) : Nat := 0x100038 + a * 0x800
def MP_PA_LO_VALUE : Fld := ⟨0, 32⟩
/-- spec/03_motion_profiles.md. -/
def MP_PA_HI (a : Nat) : Nat := 0x10003C + a * 0x800
def MP_PA_HI_VALUE : Fld := ⟨0, 32⟩
/-- spec/03_motion_profiles.md. -/
def MP_PD_LO (a : Nat) : Nat := 0x100040 + a * 0x800
def MP_PD_LO_VALUE : Fld := ⟨0, 32⟩
/-- spec/03_motion_profiles.md. -/
def MP_PD_HI (a : Nat) : Nat := 0x100044 + a * 0x800
def MP_PD_HI_VALUE : Fld := ⟨0, 32⟩
/-- spec/03_motion_profiles.md. -/
def MP_PJ_LO (a : Nat) : Nat := 0x100048 + a * 0x800
def MP_PJ_LO_VALUE : Fld := ⟨0, 32⟩
/-- spec/03_motion_profiles.md. -/
def MP_PJ_HI (a : Nat) : Nat := 0x10004C + a * 0x800
def MP_PJ_HI_VALUE : Fld := ⟨0, 32⟩
/-- spec/03_motion_profiles.md. -/
def MP_EMERG_LO (a : Nat) : Nat := 0x100050 + a * 0x800
def MP_EMERG_LO_EMERG_DECEL : Fld := ⟨0, 32⟩
/-- spec/03_motion_profiles.md. -/
def MP_EMERG_HI (a : Nat) : Nat := 0x100054 + a * 0x800
def MP_EMERG_HI_EMERG_DECEL : Fld := ⟨0, 32⟩
/-- spec/03_motion_profiles.md. -/
def MP_VLIM_LO (a : Nat) : Nat := 0x100058 + a * 0x800
def MP_VLIM_LO_VLIM : Fld := ⟨0, 32⟩
/-- spec/03_motion_profiles.md. -/
def MP_VLIM_HI (a : Nat) : Nat := 0x10005C + a * 0x800
def MP_VLIM_HI_VLIM : Fld := ⟨0, 32⟩
/-- spec/03_motion_profiles.md. -/
def MP_ALIM_LO (a : Nat) : Nat := 0x100060 + a * 0x800
def MP_ALIM_LO_ALIM : Fld := ⟨0, 32⟩
/-- spec/03_motion_profiles.md. -/
def MP_ALIM_HI (a : Nat) : Nat := 0x100064 + a * 0x800
def MP_ALIM_HI_ALIM : Fld := ⟨0, 32⟩
/-- spec/03_motion_profiles.md. -/
def MP_SLIM_NEG_LO (a : Nat) : Nat := 0x100068 + a * 0x800
def MP_SLIM_NEG_LO_SLIM_NEG : Fld := ⟨0, 32⟩
/-- spec/03_motion_profiles.md. -/
def MP_SLIM_NEG_HI (a : Nat) : Nat := 0x10006C + a * 0x800
def MP_SLIM_NEG_HI_SLIM_NEG : Fld := ⟨0, 32⟩
/-- spec/03_motion_profiles.md. -/
def MP_SLIM_POS_LO (a : Nat) : Nat := 0x100070 + a * 0x800
def MP_SLIM_POS_LO_SLIM_POS : Fld := ⟨0, 32⟩
/-- spec/03_motion_profiles.md. -/
def MP_SLIM_POS_HI (a : Nat) : Nat := 0x100074 + a * 0x800
def MP_SLIM_POS_HI_SLIM_POS : Fld := ⟨0, 32⟩
/-- spec/03_motion_profiles.md. -/
def MP_DERATE (a : Nat) : Nat := 0x100078 + a * 0x800
def MP_DERATE_FACTOR : Fld := ⟨0, 9⟩
/-- spec/03_motion_profiles.md. -/
def MP_CNT (a : Nat) : Nat := 0x10007C + a * 0x800
def MP_CNT_RAISED : Fld := ⟨16, 16⟩
def MP_CNT_REFUSED : Fld := ⟨0, 16⟩
/-- spec/04_gearing.md. -/
def GR_CFG (a : Nat) : Nat := 0x100100 + a * 0x800
def GR_CFG_COAST_MS : Fld := ⟨16, 16⟩
def GR_CFG_EV_TAKE : Fld := ⟨2, 1⟩
def GR_CFG_EV_LIMIT : Fld := ⟨1, 1⟩
def GR_CFG_RESYNC : Fld := ⟨0, 1⟩
/-- spec/04_gearing.md. -/
def GR_STAT (a : Nat) : Nat := 0x100104 + a * 0x800
def GR_STAT_SRC_KIND : Fld := ⟨30, 2⟩
def GR_STAT_SRC_IDX : Fld := ⟨25, 5⟩
def GR_STAT_QDEPTH : Fld := ⟨20, 5⟩
def GR_STAT_REL_PEND : Fld := ⟨7, 1⟩
def GR_STAT_ENG_PEND : Fld := ⟨6, 1⟩
def GR_STAT_COAST : Fld := ⟨5, 1⟩
def GR_STAT_LAG_WARN : Fld := ⟨4, 1⟩
def GR_STAT_LIMITED : Fld := ⟨3, 1⟩
def GR_STAT_BLENDING : Fld := ⟨2, 1⟩
def GR_STAT_ENGAGED : Fld := ⟨0, 1⟩
/-- spec/04_gearing.md. -/
def GR_NUM (a : Nat) : Nat := 0x100108 + a * 0x800
def GR_NUM_NUM : Fld := ⟨0, 32⟩
/-- spec/04_gearing.md. -/
def GR_DEN (a : Nat) : Nat := 0x10010C + a * 0x800
def GR_DEN_DEN : Fld := ⟨0, 32⟩
/-- spec/04_gearing.md. -/
def GR_MPOS_LO (a : Nat) : Nat := 0x100110 + a * 0x800
def GR_MPOS_LO_MPOS : Fld := ⟨0, 32⟩
/-- spec/04_gearing.md. -/
def GR_MPOS_HI (a : Nat) : Nat := 0x100114 + a * 0x800
def GR_MPOS_HI_MPOS : Fld := ⟨0, 32⟩
/-- spec/04_gearing.md. -/
def GR_LAG (a : Nat) : Nat := 0x100118 + a * 0x800
def GR_LAG_LAG : Fld := ⟨0, 32⟩
/-- spec/04_gearing.md. -/
def GR_LAGPEAK (a : Nat) : Nat := 0x10011C + a * 0x800
def GR_LAGPEAK_PEAK : Fld := ⟨0, 32⟩
/-- spec/04_gearing.md. -/
def GR_CATCHUP_LO (a : Nat) : Nat := 0x100120 + a * 0x800
def GR_CATCHUP_LO_C : Fld := ⟨0, 32⟩
/-- spec/04_gearing.md. -/
def GR_CATCHUP_HI (a : Nat) : Nat := 0x100124 + a * 0x800
def GR_CATCHUP_HI_C : Fld := ⟨0, 32⟩
/-- spec/04_gearing.md. -/
def GR_LAGWARN (a : Nat) : Nat := 0x100128 + a * 0x800
def GR_LAGWARN_WARN : Fld := ⟨0, 32⟩
/-- spec/04_gearing.md. -/
def GR_LAGMAX (a : Nat) : Nat := 0x10012C + a * 0x800
def GR_LAGMAX_MAX : Fld := ⟨0, 32⟩
/-- spec/04_gearing.md. -/
def GR_CNT (a : Nat) : Nat := 0x100130 + a * 0x800
def GR_CNT_TAKEN : Fld := ⟨16, 16⟩
def GR_CNT_LIMSAMP : Fld := ⟨0, 16⟩
/-- spec/05_step_follow_homing.md. -/
def SF_CFG (a : Nat) : Nat := 0x100180 + a * 0x800
def SF_CFG_SCALE : Fld := ⟨16, 16⟩
def SF_CFG_MINPW : Fld := ⟨8, 8⟩
def SF_CFG_DIRINV : Fld := ⟨3, 1⟩
def SF_CFG_EDGE : Fld := ⟨2, 1⟩
def SF_CFG_EN : Fld := ⟨0, 1⟩
/-- spec/05_step_follow_homing.md. -/
def SF_WIN (a : Nat) : Nat := 0x100184 + a * 0x800
def SF_WIN_W : Fld := ⟨0, 10⟩
/-- spec/05_step_follow_homing.md. -/
def SF_STAT (a : Nat) : Nat := 0x100188 + a * 0x800
def SF_STAT_DRAIN : Fld := ⟨2, 1⟩
def SF_STAT_OVERSPEED : Fld := ⟨1, 1⟩
def SF_STAT_HOLDING : Fld := ⟨0, 1⟩
/-- spec/05_step_follow_homing.md. -/
def SF_PCOUNT_LO (a : Nat) : Nat := 0x100190 + a * 0x800
def SF_PCOUNT_LO_COUNT : Fld := ⟨0, 32⟩
/-- spec/05_step_follow_homing.md. -/
def SF_PCOUNT_HI (a : Nat) : Nat := 0x100194 + a * 0x800
def SF_PCOUNT_HI_COUNT : Fld := ⟨0, 32⟩
/-- spec/05_step_follow_homing.md. -/
def SF_CNT (a : Nat) : Nat := 0x100198 + a * 0x800
def SF_CNT_GLITCH : Fld := ⟨16, 16⟩
def SF_CNT_OVERRATE : Fld := ⟨0, 16⟩
/-- spec/05_step_follow_homing.md. -/
def SF_IO_FILT (a : Nat) : Nat := 0x1001A0 + a * 0x800
def SF_IO_FILT_DIV : Fld := ⟨20, 12⟩
def SF_IO_FILT_M : Fld := ⟨16, 4⟩
def SF_IO_FILT_N : Fld := ⟨12, 4⟩
def SF_IO_FILT_LIMN_EN : Fld := ⟨5, 1⟩
def SF_IO_FILT_LIMP_EN : Fld := ⟨4, 1⟩
def SF_IO_FILT_POL_LIMN : Fld := ⟨2, 1⟩
def SF_IO_FILT_POL_LIMP : Fld := ⟨1, 1⟩
def SF_IO_FILT_POL_HOME : Fld := ⟨0, 1⟩
/-- spec/05_step_follow_homing.md. -/
def SF_IO_STAT (a : Nat) : Nat := 0x1001A4 + a * 0x800
def SF_IO_STAT_LOCKN : Fld := ⟨4, 1⟩
def SF_IO_STAT_LOCKP : Fld := ⟨3, 1⟩
def SF_IO_STAT_LIMN : Fld := ⟨2, 1⟩
def SF_IO_STAT_LIMP : Fld := ⟨1, 1⟩
def SF_IO_STAT_HOME : Fld := ⟨0, 1⟩
/-- spec/05_step_follow_homing.md. -/
def SF_IO_CNT (a : Nat) : Nat := 0x1001A8 + a * 0x800
def SF_IO_CNT_LIMTRIP : Fld := ⟨16, 16⟩
def SF_IO_CNT_CHATTER : Fld := ⟨0, 16⟩
/-- spec/05_step_follow_homing.md. -/
def SF_HOME_STAT (a : Nat) : Nat := 0x1001B0 + a * 0x800
def SF_HOME_STAT_REASON : Fld := ⟨24, 8⟩
def SF_HOME_STAT_PHASE : Fld := ⟨16, 8⟩
def SF_HOME_STAT_METHOD : Fld := ⟨8, 8⟩
def SF_HOME_STAT_HOMING : Fld := ⟨1, 1⟩
def SF_HOME_STAT_HOMED : Fld := ⟨0, 1⟩
/-- spec/05_step_follow_homing.md. -/
def SF_HOME_REF_LO (a : Nat) : Nat := 0x1001B8 + a * 0x800
def SF_HOME_REF_LO_REF : Fld := ⟨0, 32⟩
/-- spec/05_step_follow_homing.md. -/
def SF_HOME_REF_HI (a : Nat) : Nat := 0x1001BC + a * 0x800
def SF_HOME_REF_HI_REF : Fld := ⟨0, 32⟩
/-- spec/06_current_regulation.md. -/
def CR_CFG (a : Nat) : Nat := 0x100200 + a * 0x800
def CR_CFG_FF_BEMF : Fld := ⟨7, 1⟩
def CR_CFG_FF_R : Fld := ⟨6, 1⟩
def CR_CFG_LEAD : Fld := ⟨5, 1⟩
def CR_CFG_PHINV : Fld := ⟨4, 1⟩
def CR_CFG_STEPMODE : Fld := ⟨0, 2⟩
/-- spec/06_current_regulation.md. -/
def CR_IRUN (a : Nat) : Nat := 0x100204 + a * 0x800
def CR_IRUN_IRUN : Fld := ⟨0, 16⟩
/-- spec/06_current_regulation.md. -/
def CR_IMAX (a : Nat) : Nat := 0x100208 + a * 0x800
def CR_IMAX_IMAX : Fld := ⟨0, 16⟩
/-- spec/06_current_regulation.md. -/
def CR_KP (a : Nat) : Nat := 0x10020C + a * 0x800
def CR_KP_INJ_SCALE : Fld := ⟨24, 8⟩
def CR_KP_KP : Fld := ⟨0, 16⟩
/-- spec/06_current_regulation.md. -/
def CR_KI (a : Nat) : Nat := 0x100210 + a * 0x800
def CR_KI_KI : Fld := ⟨0, 24⟩
/-- spec/06_current_regulation.md. -/
def CR_RCOIL (a : Nat) : Nat := 0x100214 + a * 0x800
def CR_RCOIL_SRC : Fld := ⟨31, 1⟩
def CR_RCOIL_R : Fld := ⟨0, 20⟩
/-- spec/06_current_regulation.md. -/
def CR_DECAY (a : Nat) : Nat := 0x100218 + a * 0x800
def CR_DECAY_AUTO_TH : Fld := ⟨16, 16⟩
def CR_DECAY_MIX : Fld := ⟨4, 9⟩
def CR_DECAY_MODE : Fld := ⟨0, 2⟩
/-- spec/06_current_regulation.md. -/
def CR_STAT (a : Nat) : Nat := 0x10021C + a * 0x800
def CR_STAT_INJ : Fld := ⟨4, 1⟩
def CR_STAT_AVG4 : Fld := ⟨3, 1⟩
def CR_STAT_VSAT_B : Fld := ⟨2, 1⟩
def CR_STAT_VSAT_A : Fld := ⟨1, 1⟩
def CR_STAT_TAB_ALT : Fld := ⟨0, 1⟩
/-- spec/06_current_regulation.md. -/
def CR_TAB (a : Nat) : Nat := 0x100220 + a * 0x800
def CR_TAB_ID : Fld := ⟨16, 16⟩
def CR_TAB_SB_VALID : Fld := ⟨1, 1⟩
def CR_TAB_ACTIVE_BUF : Fld := ⟨0, 1⟩
/-- spec/06_current_regulation.md. -/
def CR_TAB_RD (a : Nat) : Nat := 0x100224 + a * 0x800
def CR_TAB_RD_DATA : Fld := ⟨16, 16⟩
def CR_TAB_RD_BUF : Fld := ⟨10, 1⟩
def CR_TAB_RD_IDX : Fld := ⟨0, 10⟩
/-- spec/07_observer.md. -/
def OB_CFG (a : Nat) : Nat := 0x100280 + a * 0x800
def OB_CFG_ENC : Fld := ⟨8, 4⟩
def OB_CFG_STALL_RX : Fld := ⟨4, 2⟩
def OB_CFG_INJ_EN : Fld := ⟨2, 1⟩
def OB_CFG_MODE : Fld := ⟨0, 2⟩
/-- spec/07_observer.md. -/
def OB_HO (a : Nat) : Nat := 0x100284 + a * 0x800
def OB_HO_HYS : Fld := ⟨16, 8⟩
def OB_HO_SPEED : Fld := ⟨0, 16⟩
/-- spec/07_observer.md. -/
def OB_INJ (a : Nat) : Nat := 0x100288 + a * 0x800
def OB_INJ_SALMIN : Fld := ⟨24, 8⟩
def OB_INJ_PHASE : Fld := ⟨16, 2⟩
def OB_INJ_VINJ : Fld := ⟨0, 16⟩
/-- spec/07_observer.md. -/
def OB_PLL (a : Nat) : Nat := 0x10028C + a * 0x800
def OB_PLL_BW_BEMF : Fld := ⟨16, 16⟩
def OB_PLL_BW_INJ : Fld := ⟨0, 16⟩
/-- spec/07_observer.md. -/
def OB_STALL_TH (a : Nat) : Nat := 0x100290 + a * 0x800
def OB_STALL_TH_TH : Fld := ⟨0, 32⟩
/-- spec/07_observer.md. -/
def OB_STALL_N (a : Nat) : Nat := 0x100294 + a * 0x800
def OB_STALL_N_N : Fld := ⟨0, 10⟩
/-- spec/07_observer.md. -/
def OB_LMAX (a : Nat) : Nat := 0x100298 + a * 0x800
def OB_LMAX_LMAX : Fld := ⟨0, 32⟩
/-- spec/07_observer.md. -/
def OB_MOTOR (a : Nat) : Nat := 0x10029C + a * 0x800
def OB_MOTOR_SRC : Fld := ⟨31, 1⟩
def OB_MOTOR_SALCLASS : Fld := ⟨28, 2⟩
def OB_MOTOR_L : Fld := ⟨0, 20⟩
/-- spec/07_observer.md. -/
def OB_SPR (a : Nat) : Nat := 0x1002A0 + a * 0x800
def OB_SPR_SPR : Fld := ⟨0, 16⟩
/-- spec/07_observer.md. -/
def OB_HF_OFS (a : Nat) : Nat := 0x1002A4 + a * 0x800
def OB_HF_OFS_OFS : Fld := ⟨0, 18⟩
/-- spec/07_observer.md. -/
def OB_ENC_NUM (a : Nat) : Nat := 0x1002B0 + a * 0x800
def OB_ENC_NUM_VALUE : Fld := ⟨0, 32⟩
/-- spec/07_observer.md. -/
def OB_ENC_DEN (a : Nat) : Nat := 0x1002B4 + a * 0x800
def OB_ENC_DEN_VALUE : Fld := ⟨0, 32⟩
/-- spec/07_observer.md. -/
def OB_STAT (a : Nat) : Nat := 0x1002B8 + a * 0x800
def OB_STAT_CORR : Fld := ⟨7, 1⟩
def OB_STAT_STALLED : Fld := ⟨6, 1⟩
def OB_STAT_WEAK : Fld := ⟨5, 1⟩
def OB_STAT_VALID : Fld := ⟨4, 1⟩
def OB_STAT_BLEND : Fld := ⟨3, 1⟩
def OB_STAT_REGIME : Fld := ⟨0, 3⟩
/-- spec/07_observer.md. -/
def OB_EST_POS_LO (a : Nat) : Nat := 0x1002C0 + a * 0x800
def OB_EST_POS_LO_POS : Fld := ⟨0, 32⟩
/-- spec/07_observer.md. -/
def OB_EST_POS_HI (a : Nat) : Nat := 0x1002C4 + a * 0x800
def OB_EST_POS_HI_POS : Fld := ⟨0, 32⟩
/-- spec/07_observer.md. -/
def OB_SPEED_LO (a : Nat) : Nat := 0x1002C8 + a * 0x800
def OB_SPEED_LO_W : Fld := ⟨0, 32⟩
/-- spec/07_observer.md. -/
def OB_SPEED_HI (a : Nat) : Nat := 0x1002CC + a * 0x800
def OB_SPEED_HI_W : Fld := ⟨0, 32⟩
/-- spec/07_observer.md. -/
def OB_LOAD (a : Nat) : Nat := 0x1002D0 + a * 0x800
def OB_LOAD_LAMBDA : Fld := ⟨0, 32⟩
/-- spec/07_observer.md. -/
def OB_SAL (a : Nat) : Nat := 0x1002D4 + a * 0x800
def OB_SAL_SAL : Fld := ⟨0, 16⟩
/-- spec/07_observer.md. -/
def OB_KE (a : Nat) : Nat := 0x1002D8 + a * 0x800
def OB_KE_K : Fld := ⟨0, 32⟩
/-- spec/07_observer.md. -/
def OB_EVCFG (a : Nat) : Nat := 0x1002DC + a * 0x800
def OB_EVCFG_EN : Fld := ⟨0, 7⟩
/-- spec/07_observer.md. -/
def OB_BRAKE (a : Nat) : Nat := 0x1002E0 + a * 0x800
def OB_BRAKE_REQ : Fld := ⟨0, 1⟩
/-- spec/07_observer.md. -/
def OB_SLIP (a : Nat) : Nat := 0x1002E4 + a * 0x800
def OB_SLIP_CYC : Fld := ⟨0, 32⟩
/-- spec/07_observer.md. -/
def OB_CNT (a : Nat) : Nat := 0x1002E8 + a * 0x800
def OB_CNT_STALLS : Fld := ⟨16, 16⟩
def OB_CNT_HFSKIP : Fld := ⟨0, 16⟩
/-- spec/16_migration.md. -/
def MP_PLACE (a : Nat) : Nat := 0x100300 + a * 0x800
def MP_PLACE_EPOCH : Fld := ⟨24, 8⟩
def MP_PLACE_SLOT : Fld := ⟨16, 6⟩
def MP_PLACE_ENGINE : Fld := ⟨8, 6⟩
def MP_PLACE_MSTATE : Fld := ⟨0, 3⟩
/-- spec/16_migration.md. -/
def MP_MIG_TGT (a : Nat) : Nat := 0x100304 + a * 0x800
def MP_MIG_TGT_DSLOT : Fld := ⟨16, 6⟩
def MP_MIG_TGT_DENG : Fld := ⟨8, 6⟩
def MP_MIG_TGT_ATTEMPT : Fld := ⟨0, 2⟩
/-- spec/16_migration.md. -/
def MP_MIG_CNT (a : Nat) : Nat := 0x100308 + a * 0x800
def MP_MIG_CNT_LATE : Fld := ⟨16, 16⟩
def MP_MIG_CNT_MISMATCH : Fld := ⟨8, 8⟩
def MP_MIG_CNT_DONE : Fld := ⟨0, 8⟩
/-- spec/17_faults.md. -/
def MP_RX (a r : Nat) : Nat := 0x100380 + a * 0x800 + r * 0x4
def MP_RX_ENTRY (i : Nat) : Fld := ⟨i * 4 + 0, 4⟩
/-- spec/17_faults.md. -/
def MP_FLT_STAT (a : Nat) : Nat := 0x100390 + a * 0x800
def MP_FLT_STAT_FIRST : Fld := ⟨24, 8⟩
def MP_FLT_STAT_TOP : Fld := ⟨16, 8⟩
def MP_FLT_STAT_REPORTS : Fld := ⟨8, 8⟩
def MP_FLT_STAT_CAUSE : Fld := ⟨7, 1⟩
def MP_FLT_STAT_SETTLED : Fld := ⟨6, 1⟩
def MP_FLT_STAT_EPISODE : Fld := ⟨5, 1⟩
def MP_FLT_STAT_RX : Fld := ⟨0, 3⟩
/-- spec/17_faults.md. -/
def MP_FLT_CNT (a : Nat) : Nat := 0x100398 + a * 0x800
def MP_FLT_CNT_FAULTS : Fld := ⟨16, 16⟩
def MP_FLT_CNT_EPISODES : Fld := ⟨8, 8⟩
def MP_FLT_CNT_CLIMBS : Fld := ⟨0, 8⟩
/-- spec/01_architecture.md. -/
def LT_TILE_PERIOD (t : Nat) : Nat := 0x200010 + t * 0x40000
def LT_TILE_PERIOD_PERIOD_CLK : Fld := ⟨16, 16⟩
def LT_TILE_PERIOD_PSEL : Fld := ⟨0, 3⟩
/-- spec/01_architecture.md. -/
def LT_TILE_KIDX (t : Nat) : Nat := 0x200014 + t * 0x40000
def LT_TILE_KIDX_KIDX : Fld := ⟨0, 32⟩
/-- spec/02_line_time.md. -/
def LT_TILE_MODE (t : Nat) : Nat := 0x200018 + t * 0x40000
def LT_TILE_MODE_REQ_ID : Fld := ⟨16, 16⟩
def LT_TILE_MODE_PENDING : Fld := ⟨8, 8⟩
def LT_TILE_MODE_MODE : Fld := ⟨0, 8⟩
/-- spec/14_registers.md. -/
def CFG_PAR_FIRST (t : Nat) : Nat := 0x200020 + t * 0x40000
def CFG_PAR_FIRST_VALID : Fld := ⟨31, 1⟩
def CFG_PAR_FIRST_OFFSET : Fld := ⟨2, 16⟩
/-- spec/14_registers.md. -/
def CFG_PAR_CNT (t : Nat) : Nat := 0x200024 + t * 0x40000
def CFG_PAR_CNT_FAULTED : Fld := ⟨24, 8⟩
def CFG_PAR_CNT_EVENTS : Fld := ⟨0, 16⟩
/-- spec/15_startup.md. -/
def CFG_XBAR_A (t : Nat) : Nat := 0x200028 + t * 0x40000
def CFG_XBAR_A_PORT (i : Nat) : Fld := ⟨i * 4 + 0, 4⟩
/-- spec/15_startup.md. -/
def CFG_XBAR_B (t : Nat) : Nat := 0x20002C + t * 0x40000
def CFG_XBAR_B_PORT (i : Nat) : Fld := ⟨i * 4 + 0, 4⟩
/-- spec/08_pwm.md. -/
def PWM_TCTRL (t : Nat) : Nat := 0x200100 + t * 0x40000
def PWM_TCTRL_GANG : Fld := ⟨0, 1⟩
/-- spec/08_pwm.md. -/
def PWM_LOADALL (t : Nat) : Nat := 0x200104 + t * 0x40000
def PWM_LOADALL_AT : Fld := ⟨1, 1⟩
def PWM_LOADALL_LOAD : Fld := ⟨0, 1⟩
/-- spec/08_pwm.md. -/
def PWM_LOADAT_LO (t : Nat) : Nat := 0x200108 + t * 0x40000
def PWM_LOADAT_LO_L : Fld := ⟨0, 32⟩
/-- spec/08_pwm.md. -/
def PWM_LOADAT_HI (t : Nat) : Nat := 0x20010C + t * 0x40000
def PWM_LOADAT_HI_L : Fld := ⟨0, 32⟩
/-- spec/08_pwm.md. -/
def PWM_DTMIN (t : Nat) : Nat := 0x200110 + t * 0x40000
def PWM_DTMIN_DTMIN : Fld := ⟨0, 13⟩
/-- spec/15_startup.md. -/
def ID_TCFG (t : Nat) : Nat := 0x200200 + t * 0x40000
def ID_TCFG_BUSRET : Fld := ⟨1, 1⟩
def ID_TCFG_SPEED : Fld := ⟨0, 1⟩
/-- spec/15_startup.md. -/
def ID_ACC (t : Nat) : Nat := 0x200204 + t * 0x40000
def ID_ACC_GO : Fld := ⟨31, 1⟩
def ID_ACC_STATUS : Fld := ⟨29, 2⟩
def ID_ACC_DEV : Fld := ⟨16, 7⟩
def ID_ACC_OFFSET : Fld := ⟨0, 16⟩
/-- spec/15_startup.md. -/
def ID_DATA (t : Nat) : Nat := 0x200208 + t * 0x40000
def ID_DATA_DATA : Fld := ⟨0, 32⟩
/-- spec/15_startup.md. -/
def ID_STAT (t j : Nat) : Nat := 0x200210 + t * 0x40000 + j * 0x4
def ID_STAT_MISMATCH : Fld := ⟨16, 1⟩
def ID_STAT_BRD_VER : Fld := ⟨12, 4⟩
def ID_STAT_MOTOR : Fld := ⟨4, 4⟩
def ID_STAT_BOARD : Fld := ⟨0, 4⟩
/-- spec/15_startup.md. -/
def ID_EXPECT (t j : Nat) : Nat := 0x200230 + t * 0x40000 + j * 0x4
def ID_EXPECT_VMIN : Fld := ⟨16, 16⟩
def ID_EXPECT_CLASS : Fld := ⟨0, 16⟩
/-- spec/15_startup.md. -/
def ID_BRD_W (t j w : Nat) : Nat := 0x200300 + t * 0x40000 + j * 0x80 + w * 0x4
def ID_BRD_W_DATA : Fld := ⟨0, 32⟩
/-- spec/15_startup.md. -/
def ID_MOT_W (t j w : Nat) : Nat := 0x200340 + t * 0x40000 + j * 0x80 + w * 0x4
def ID_MOT_W_DATA : Fld := ⟨0, 32⟩
/-- spec/08_pwm.md. -/
def PWM_CTRL (t p : Nat) : Nat := 0x201000 + t * 0x40000 + p * 0x100
def PWM_CTRL_TRIP_ACT : Fld := ⟨4, 1⟩
def PWM_CTRL_SPOL : Fld := ⟨2, 2⟩
def PWM_CTRL_DIRECT : Fld := ⟨1, 1⟩
def PWM_CTRL_EN : Fld := ⟨0, 1⟩
/-- spec/08_pwm.md. -/
def PWM_STAT (t p : Nat) : Nat := 0x201004 + t * 0x40000 + p * 0x100
def PWM_STAT_REFUSE : Fld := ⟨12, 4⟩
def PWM_STAT_MASK : Fld := ⟨8, 3⟩
def PWM_STAT_CLAMPED : Fld := ⟨5, 1⟩
def PWM_STAT_TRIPPING : Fld := ⟨4, 1⟩
def PWM_STAT_SKEW : Fld := ⟨3, 1⟩
def PWM_STAT_STATE : Fld := ⟨0, 3⟩
/-- spec/08_pwm.md. -/
def PWM_STAGGER (t p : Nat) : Nat := 0x201008 + t * 0x40000 + p * 0x100
def PWM_STAGGER_STAG : Fld := ⟨0, 13⟩
/-- spec/08_pwm.md. -/
def PWM_DT (t p : Nat) : Nat := 0x20100C + t * 0x40000 + p * 0x100
def PWM_DT_MINP : Fld := ⟨16, 14⟩
def PWM_DT_DT : Fld := ⟨0, 13⟩
/-- spec/08_pwm.md. -/
def PWM_DCFG (t p : Nat) : Nat := 0x201010 + t * 0x40000 + p * 0x100
def PWM_DCFG_CEN_B : Fld := ⟨5, 1⟩
def PWM_DCFG_CEN_A : Fld := ⟨4, 1⟩
def PWM_DCFG_NDIV : Fld := ⟨0, 2⟩
/-- spec/08_pwm.md. -/
def PWM_DHA (t p : Nat) : Nat := 0x201014 + t * 0x40000 + p * 0x100
def PWM_DHA_H : Fld := ⟨0, 19⟩
/-- spec/08_pwm.md. -/
def PWM_DHB (t p : Nat) : Nat := 0x201018 + t * 0x40000 + p * 0x100
def PWM_DHB_H : Fld := ⟨0, 19⟩
/-- spec/08_pwm.md. -/
def PWM_MASKS (t p : Nat) : Nat := 0x20101C + t * 0x40000 + p * 0x100
def PWM_MASKS_MASK (i : Nat) : Fld := ⟨i * 4 + 0, 4⟩
/-- spec/08_pwm.md. -/
def PWM_MASKEV (t p : Nat) : Nat := 0x201020 + t * 0x40000 + p * 0x100
def PWM_MASKEV_EN (i : Nat) : Fld := ⟨i * 4 + 3, 1⟩
def PWM_MASKEV_SEL (i : Nat) : Fld := ⟨i * 4 + 0, 3⟩
/-- spec/08_pwm.md. -/
def PWM_MASKSEL (t p : Nat) : Nat := 0x201024 + t * 0x40000 + p * 0x100
def PWM_MASKSEL_SEL : Fld := ⟨0, 3⟩
/-- spec/08_pwm.md. -/
def PWM_TRIP (t p : Nat) : Nat := 0x201028 + t * 0x40000 + p * 0x100
def PWM_TRIP_MCLEAN : Fld := ⟨8, 8⟩
def PWM_TRIP_NTRIP : Fld := ⟨0, 8⟩
/-- spec/08_pwm.md. -/
def PWM_TRIPSTAT (t p : Nat) : Nat := 0x20102C + t * 0x40000 + p * 0x100
def PWM_TRIPSTAT_CLEAN : Fld := ⟨8, 8⟩
def PWM_TRIPSTAT_TRIP_CNT : Fld := ⟨0, 8⟩
/-- spec/08_pwm.md. -/
def PWM_CNT (t p : Nat) : Nat := 0x201030 + t * 0x40000 + p * 0x100
def PWM_CNT_TRIPS : Fld := ⟨16, 16⟩
def PWM_CNT_SKEW : Fld := ⟨8, 8⟩
def PWM_CNT_CLAMP : Fld := ⟨0, 8⟩
/-- spec/08_pwm.md. -/
def PWM_CNT2 (t p : Nat) : Nat := 0x201034 + t * 0x40000 + p * 0x100
def PWM_CNT2_SHORT : Fld := ⟨16, 16⟩
def PWM_CNT2_MASKEV : Fld := ⟨0, 16⟩
/-- spec/08_pwm.md. -/
def PWM_CARRY (t p : Nat) : Nat := 0x201038 + t * 0x40000 + p * 0x100
def PWM_CARRY_CB : Fld := ⟨16, 16⟩
def PWM_CARRY_CA : Fld := ⟨0, 16⟩
/-- spec/06_current_regulation.md. -/
def CR_PORT_CFG (t p : Nat) : Nat := 0x201060 + t * 0x40000 + p * 0x100
def CR_PORT_CFG_DMAX : Fld := ⟨16, 16⟩
def CR_PORT_CFG_SRANGE : Fld := ⟨0, 2⟩
/-- spec/06_current_regulation.md. -/
def CR_IFS (t p : Nat) : Nat := 0x201064 + t * 0x40000 + p * 0x100
def CR_IFS_VALID : Fld := ⟨31, 1⟩
def CR_IFS_IFS_MA : Fld := ⟨0, 24⟩
/-- spec/06_current_regulation.md. -/
def CR_MEAS (t p : Nat) : Nat := 0x201068 + t * 0x40000 + p * 0x100
def CR_MEAS_IM : Fld := ⟨0, 32⟩
/-- spec/06_current_regulation.md. -/
def CR_REF (t p : Nat) : Nat := 0x20106C + t * 0x40000 + p * 0x100
def CR_REF_IREF : Fld := ⟨0, 32⟩
/-- spec/06_current_regulation.md. -/
def CR_DUTY (t p : Nat) : Nat := 0x201070 + t * 0x40000 + p * 0x100
def CR_DUTY_M : Fld := ⟨16, 9⟩
def CR_DUTY_D : Fld := ⟨0, 16⟩
/-- spec/06_current_regulation.md. -/
def CR_INTEG (t p : Nat) : Nat := 0x201074 + t * 0x40000 + p * 0x100
def CR_INTEG_S : Fld := ⟨0, 32⟩
/-- spec/06_current_regulation.md. -/
def CR_CNT (t p : Nat) : Nat := 0x201078 + t * 0x40000 + p * 0x100
def CR_CNT_SAT : Fld := ⟨24, 8⟩
def CR_CNT_NOSAMPLE : Fld := ⟨16, 8⟩
def CR_CNT_VSAT : Fld := ⟨0, 16⟩
/-- spec/09_gate_drive.md. -/
def GD_CFG (t p : Nat) : Nat := 0x201080 + t * 0x40000 + p * 0x100
def GD_CFG_DB : Fld := ⟨8, 4⟩
def GD_CFG_FREEZE : Fld := ⟨1, 1⟩
def GD_CFG_ADAPT : Fld := ⟨0, 1⟩
/-- spec/09_gate_drive.md. -/
def GD_TARGET (t p : Nat) : Nat := 0x201084 + t * 0x40000 + p * 0x100
def GD_TARGET_LOFF : Fld := ⟨24, 8⟩
def GD_TARGET_LON : Fld := ⟨16, 8⟩
def GD_TARGET_HOFF : Fld := ⟨8, 8⟩
def GD_TARGET_HON : Fld := ⟨0, 8⟩
/-- spec/09_gate_drive.md. -/
def GD_CODE_INIT (t p : Nat) : Nat := 0x201088 + t * 0x40000 + p * 0x100
def GD_CODE_INIT_CODES : Fld := ⟨0, 32⟩
/-- spec/09_gate_drive.md. -/
def GD_LIM (t p : Nat) : Nat := 0x20108C + t * 0x40000 + p * 0x100
def GD_LIM_LS_SNK_MAX : Fld := ⟨28, 4⟩
def GD_LIM_LS_SNK_MIN : Fld := ⟨24, 4⟩
def GD_LIM_LS_SRC_MAX : Fld := ⟨20, 4⟩
def GD_LIM_LS_SRC_MIN : Fld := ⟨16, 4⟩
def GD_LIM_HS_SNK_MAX : Fld := ⟨12, 4⟩
def GD_LIM_HS_SNK_MIN : Fld := ⟨8, 4⟩
def GD_LIM_HS_SRC_MAX : Fld := ⟨4, 4⟩
def GD_LIM_HS_SRC_MIN : Fld := ⟨0, 4⟩
/-- spec/09_gate_drive.md. -/
def GD_PROT (t p : Nat) : Nat := 0x201090 + t * 0x40000 + p * 0x100
def GD_PROT_SOFT : Fld := ⟨28, 4⟩
def GD_PROT_DSBLANK : Fld := ⟨16, 9⟩
def GD_PROT_ITBLANK : Fld := ⟨8, 8⟩
def GD_PROT_UVTIME : Fld := ⟨0, 8⟩
/-- spec/09_gate_drive.md. -/
def GD_REFRESH (t p : Nat) : Nat := 0x201094 + t * 0x40000 + p * 0x100
def GD_REFRESH_WR : Fld := ⟨0, 8⟩
/-- spec/09_gate_drive.md. -/
def GD_STAT (t p : Nat) : Nat := 0x201098 + t * 0x40000 + p * 0x100
def GD_STAT_DIAG_REQ : Fld := ⟨13, 1⟩
def GD_STAT_ADAPT_OK : Fld := ⟨12, 1⟩
def GD_STAT_AT_LIMIT : Fld := ⟨11, 1⟩
def GD_STAT_REFRESHING : Fld := ⟨10, 1⟩
def GD_STAT_BSLOW_B : Fld := ⟨9, 1⟩
def GD_STAT_BSLOW_A : Fld := ⟨8, 1⟩
def GD_STAT_UV : Fld := ⟨4, 4⟩
def GD_STAT_LATCH : Fld := ⟨0, 4⟩
/-- spec/09_gate_drive.md. -/
def GD_CNT (t p : Nat) : Nat := 0x20109C + t * 0x40000 + p * 0x100
def GD_CNT_SHORT : Fld := ⟨24, 8⟩
def GD_CNT_DESAT : Fld := ⟨16, 8⟩
def GD_CNT_UV : Fld := ⟨8, 8⟩
def GD_CNT_NOEDGE : Fld := ⟨0, 8⟩
/-- spec/09_gate_drive.md. -/
def GD_CNT2 (t p : Nat) : Nat := 0x2010A0 + t * 0x40000 + p * 0x100
def GD_CNT2_REFRESH : Fld := ⟨16, 16⟩
def GD_CNT2_ADJ : Fld := ⟨0, 16⟩
/-- spec/09_gate_drive.md. -/
def GD_DIAG (t p : Nat) : Nat := 0x2010A4 + t * 0x40000 + p * 0x100
def GD_DIAG_VA : Fld := ⟨24, 8⟩
def GD_DIAG_VB : Fld := ⟨16, 8⟩
def GD_DIAG_STEP : Fld := ⟨4, 3⟩
def GD_DIAG_RESULT : Fld := ⟨0, 4⟩
/-- spec/10_comparators.md. -/
def CMP_CFG_SN (t p i : Nat) : Nat := 0x203000 + t * 0x40000 + p * 0x40 + i * 0x4
def CMP_CFG_DIV : Fld := ⟨20, 12⟩
def CMP_CFG_M : Fld := ⟨16, 4⟩
def CMP_CFG_N : Fld := ⟨12, 4⟩
def CMP_CFG_HYS : Fld := ⟨8, 2⟩
def CMP_CFG_MODE : Fld := ⟨4, 2⟩
/-- spec/10_comparators.md. -/
def CMP_CFG_IT (t p i : Nat) : Nat := 0x203008 + t * 0x40000 + p * 0x40 + i * 0x4
/-- spec/10_comparators.md. -/
def CMP_CFG_DS (t p i : Nat) : Nat := 0x203010 + t * 0x40000 + p * 0x40 + i * 0x4
/-- spec/10_comparators.md. -/
def CMP_CFG_HS (t p i : Nat) : Nat := 0x203020 + t * 0x40000 + p * 0x40 + i * 0x4
/-- spec/10_comparators.md. -/
def CMP_STAT (t p : Nat) : Nat := 0x203028 + t * 0x40000 + p * 0x40
def CMP_STAT_UNKNOWN : Fld := ⟨16, 10⟩
def CMP_STAT_OUT : Fld := ⟨0, 10⟩
/-- spec/10_comparators.md. -/
def CMP_CHKRES (t p : Nat) : Nat := 0x20302C + t * 0x40000 + p * 0x40
def CMP_CHKRES_RETIRED : Fld := ⟨20, 10⟩
def CMP_CHKRES_RES : Fld := ⟨0, 20⟩
/-- spec/10_comparators.md. -/
def CMP_CNT (t p : Nat) : Nat := 0x203030 + t * 0x40000 + p * 0x40
def CMP_CNT_CHKFAIL : Fld := ⟨16, 16⟩
/-- spec/10_comparators.md. -/
def CMP_WCFG (t j i : Nat) : Nat := 0x203800 + t * 0x40000 + j * 0x8 + i * 0x4
/-- spec/10_comparators.md. -/
def CMP_WCTRL (t j : Nat) : Nat := 0x203840 + t * 0x40000 + j * 0x4
def CMP_WCTRL_AXMASK : Fld := ⟨24, 8⟩
def CMP_WCTRL_FAILSAFE : Fld := ⟨2, 1⟩
def CMP_WCTRL_FAULT_EN : Fld := ⟨1, 1⟩
def CMP_WCTRL_EV_EN : Fld := ⟨0, 1⟩
/-- spec/10_comparators.md. -/
def CMP_WSTAT (t : Nat) : Nat := 0x203860 + t * 0x40000
def CMP_WSTAT_STATE (i : Nat) : Fld := ⟨i * 4 + 0, 4⟩
/-- spec/10_comparators.md. -/
def CMP_WCHK (t : Nat) : Nat := 0x203864 + t * 0x40000
def CMP_WCHK_RETIRED : Fld := ⟨24, 8⟩
def CMP_WCHK_RES : Fld := ⟨8, 16⟩
def CMP_WCHK_REQ : Fld := ⟨0, 8⟩
/-- spec/10_comparators.md. -/
def CMP_WCNT (t : Nat) : Nat := 0x203868 + t * 0x40000
def CMP_WCNT_EXITS : Fld := ⟨16, 16⟩
def CMP_WCNT_CHKFAIL : Fld := ⟨0, 16⟩
/-- spec/11_adc.md. -/
def ADC_CTRL (t x : Nat) : Nat := 0x204000 + t * 0x40000 + x * 0x1000
def ADC_CTRL_BGCAL : Fld := ⟨0, 1⟩
/-- spec/11_adc.md. -/
def ADC_STAT (t x : Nat) : Nat := 0x204004 + t * 0x40000 + x * 0x1000
def ADC_STAT_SPARE_AT : Fld := ⟨28, 4⟩
def ADC_STAT_RET_STAGE : Fld := ⟨24, 4⟩
def ADC_STAT_NOSPARE : Fld := ⟨3, 1⟩
def ADC_STAT_STATE : Fld := ⟨0, 3⟩
/-- spec/11_adc.md. -/
def ADC_CNT (t x : Nat) : Nat := 0x204008 + t * 0x40000 + x * 0x1000
def ADC_CNT_XCHK : Fld := ⟨24, 8⟩
def ADC_CNT_OVR : Fld := ⟨16, 8⟩
def ADC_CNT_MISSED : Fld := ⟨8, 8⟩
def ADC_CNT_CALFAIL : Fld := ⟨4, 4⟩
def ADC_CNT_INJDROP : Fld := ⟨0, 4⟩
/-- spec/11_adc.md. -/
def ADC_INJ (t x : Nat) : Nat := 0x204020 + t * 0x40000 + x * 0x1000
def ADC_INJ_GO : Fld := ⟨31, 1⟩
def ADC_INJ_ARM : Fld := ⟨30, 1⟩
def ADC_INJ_SRC : Fld := ⟨29, 1⟩
def ADC_INJ_CMPSEL : Fld := ⟨16, 8⟩
def ADC_INJ_CH : Fld := ⟨0, 7⟩
/-- spec/11_adc.md. -/
def ADC_TCFG (t : Nat) : Nat := 0x204010 + t * 0x40000
def ADC_TCFG_BGTOL : Fld := ⟨16, 8⟩
def ADC_TCFG_TOL : Fld := ⟨0, 16⟩
/-- spec/11_adc.md. -/
def ADC_TSTAT (t : Nat) : Nat := 0x204014 + t * 0x40000
def ADC_TSTAT_XCHK_UNRES : Fld := ⟨1, 1⟩
def ADC_TSTAT_SINGLE : Fld := ⟨0, 1⟩
/-- spec/11_adc.md. -/
def ADC_TCNT (t : Nat) : Nat := 0x204018 + t * 0x40000
def ADC_TCNT_WSHIFT : Fld := ⟨0, 16⟩
/-- spec/11_adc.md. -/
def ADC_INJ_RES (t x : Nat) : Nat := 0x204024 + t * 0x40000 + x * 0x1000
def ADC_INJ_RES_CNT : Fld := ⟨28, 4⟩
def ADC_INJ_RES_INVALID : Fld := ⟨26, 1⟩
def ADC_INJ_RES_SRC : Fld := ⟨25, 1⟩
def ADC_INJ_RES_OVR : Fld := ⟨24, 1⟩
def ADC_INJ_RES_SETTLE : Fld := ⟨23, 1⟩
def ADC_INJ_RES_MISSED : Fld := ⟨22, 1⟩
def ADC_INJ_RES_VALUE : Fld := ⟨0, 22⟩
def ADC_SEQ_CFG_EN : Fld := ⟨31, 1⟩
def ADC_SEQ_CFG_TRIG : Fld := ⟨29, 2⟩
def ADC_SEQ_CFG_PORT : Fld := ⟨25, 4⟩
def ADC_SEQ_CFG_CH : Fld := ⟨16, 7⟩
def ADC_SEQ_CFG_DELAY : Fld := ⟨0, 16⟩
def ADC_SEQ_FLT_ORDER : Fld := ⟨8, 3⟩
def ADC_SEQ_FLT_DEC : Fld := ⟨0, 8⟩
/-- spec/11_adc.md. -/
def ADC_RES (t x e : Nat) : Nat := 0x204200 + t * 0x40000 + x * 0x1000 + e * 0x4
def ADC_RES_CNT : Fld := ⟨28, 4⟩
def ADC_RES_INVALID : Fld := ⟨26, 1⟩
def ADC_RES_SRC : Fld := ⟨25, 1⟩
def ADC_RES_OVR : Fld := ⟨24, 1⟩
def ADC_RES_SETTLE : Fld := ⟨23, 1⟩
def ADC_RES_MISSED : Fld := ⟨22, 1⟩
def ADC_RES_VALUE : Fld := ⟨0, 22⟩
/-- spec/09_gate_drive.md. -/
def GD_ACODE (t p : Nat) : Nat := 0x206000 + t * 0x40000 + p * 0x20
def GD_ACODE_CODES : Fld := ⟨0, 32⟩
/-- spec/09_gate_drive.md. -/
def GD_TSW (t p k : Nat) : Nat := 0x206004 + t * 0x40000 + p * 0x20 + k * 0x4
def GD_TSW_TOFF : Fld := ⟨16, 16⟩
def GD_TSW_TON : Fld := ⟨0, 16⟩
/-- spec/09_gate_drive.md. -/
def GD_TSTAT (t : Nat) : Nat := 0x206400 + t * 0x40000
def GD_TSTAT_DIAG_RUN : Fld := ⟨1, 1⟩
def GD_TSTAT_VGD_UV : Fld := ⟨0, 1⟩
/-- spec/09_gate_drive.md. -/
def GD_TCNT (t : Nat) : Nat := 0x206404 + t * 0x40000
def GD_TCNT_VGD_UV : Fld := ⟨0, 16⟩

/-- spec/11_adc.md: sequence entry e of converter x (0 X, 1 Y) of tile t. -/
def ADC_SEQ_CFG (t x e : Nat) : Nat := 0x204100 + t * 0x40000 + x * 0x1000 + e * 0x4
/-- spec/11_adc.md. -/
def ADC_SEQ_FLT (t x e : Nat) : Nat := 0x204180 + t * 0x40000 + x * 0x1000 + e * 0x4
/-- spec/10_comparators.md: comparator i (0 SNA … 9 HSB) of tile port p. -/
def CMP_CFG (t p i : Nat) : Nat := 0x203000 + t * 0x40000 + p * 0x40 + i * 0x4

/-- Rows 0 to 24 of the register table: GLB_REV to CFG_SCAN_INFO. -/
def regTable0 : List RegSpec := [
  ⟨0x4, [], 0x42010000,
    [fRo 31 24, fRo 23 16, fRo 15 8]⟩,
  ⟨0x8, [], 0x1,
    [fRo 16 16, fRo 15 8, fRo 3 0]⟩,
  ⟨0xC, [], 0x0,
    [fRo 31 16, fRo 10 10, fRo 9 9, fRo 8 8, fRo 7 4, fRo 3 0]⟩,
  ⟨0x10, [], 0x0,
    [fRo 31 0]⟩,
  ⟨0x14, [], 0x0,
    [fUnc 31 31 .rw, fRo 30 28, fCtl 25 0 .rw]⟩,
  ⟨0x18, [], 0x0,
    [fCtl 31 0 .rw]⟩,
  ⟨0x1C, [], 0x0,
    [fCtl 31 0 .rw]⟩,
  ⟨0x20, [], 0x0,
    [fUnc 31 31 .rw, fCtl 30 30 .rw, fCtl 25 0 .rw]⟩,
  ⟨0x24, [], 0x0,
    [fCtl 31 0 .rw]⟩,
  ⟨0x28, [], 0x0,
    [fCtl 31 0 .rw]⟩,
  ⟨0x2C, [], 0x0,
    [fRo 7 4, fRo 2 0]⟩,
  ⟨0x40, [], 0x0,
    [fRo 3 3, fRo 11 11, fRo 19 19, fRo 27 27, fRo 2 2, fRo 10 10, fRo 18 18, fRo 26 26, fRo 1 1, fRo 9 9, fRo 17 17, fRo 25 25, fRo 0 0, fRo 8 8, fRo 16 16, fRo 24 24]⟩,
  ⟨0x50, [(0x4, 4)], 0x0,
    [fRc 31 16, fRc 15 0]⟩,
  ⟨0x60, [], 0x1001,
    [fCtl 15 8 .rk, fCtl 0 0 .rk]⟩,
  ⟨0x64, [], 0x40800,
    [fRo 23 16, fRo 15 8, fRo 7 4, fRo 3 0]⟩,
  ⟨0x68, [], 0x0,
    [fRc 31 16, fRc 15 0]⟩,
  ⟨0x70, [], 0x0,
    [fRc 31 24, fRc 23 16, fRc 15 8, fRc 7 0]⟩,
  ⟨0x74, [], 0x0,
    [fRc 31 24, fRc 23 16, fRc 15 8, fRc 7 0]⟩,
  ⟨0x78, [], 0x0,
    [fRc 31 16, fRc 15 0]⟩,
  ⟨0x100, [(0x4, 2)], 0x0,
    [fSta 1 0 .rk, fSta 3 2 .rk, fSta 5 4 .rk, fSta 7 6 .rk, fSta 9 8 .rk, fSta 11 10 .rk, fSta 13 12 .rk, fSta 15 14 .rk, fSta 17 16 .rk, fSta 19 18 .rk, fSta 21 20 .rk, fSta 23 22 .rk, fSta 25 24 .rk, fSta 27 26 .rk, fSta 29 28 .rk, fSta 31 30 .rk]⟩,
  ⟨0x108, [], 0x0,
    [fCtl 1 0 .rk, fCtl 3 2 .rk, fCtl 5 4 .rk, fCtl 7 6 .rk]⟩,
  ⟨0x110, [(0x4, 2)], 0x0,
    [fRo 15 12, fRo 11 8, fRo 1 1, fRo 0 0]⟩,
  ⟨0x118, [], 0x0,
    [fRc 31 16, fRc 15 0]⟩,
  ⟨0x200, [], 0x0,
    [fUnc 0 0 .wo]⟩,
  ⟨0x204, [], 0xEA5,
    [fRo 31 16, fRo 12 0]⟩]

/-- Rows 25 to 49 of the register table: CFG_SCAN_CNT to NET_VM_CFG. -/
def regTable1 : List RegSpec := [
  ⟨0x208, [], 0x0,
    [fRc 31 16, fRc 15 0]⟩,
  ⟨0x20C, [], 0x0,
    [fRc 15 0]⟩,
  ⟨0x300, [(0x4, 16)], 0x6435920,
    [fSta 31 20 .rk, fSta 18 16 .rk, fSta 14 14 .rk, fSta 13 8 .rk, fSta 7 4 .rk, fSta 2 2 .rk, fCtl 1 0 .rk]⟩,
  ⟨0x340, [(0x4, 16)], 0x0,
    [fRo 2 2, fRo 1 1, fRo 0 0]⟩,
  ⟨0x380, [(0x4, 16)], 0x0,
    [fRc 31 16, fRc 15 0]⟩,
  ⟨0x3C0, [(0x4, 16)], 0x0,
    [fRo 31 0]⟩,
  ⟨0x10000, [], 0x30000,
    [fCtl 19 16 .rw, fSta 15 8 .rk, fCtl 2 2 .rk, fSta 1 0 .rk]⟩,
  ⟨0x10004, [], 0xA00,
    [fSta 31 16 .rk, fCtl 15 8 .rk, fSta 5 0 .rk]⟩,
  ⟨0x10008, [], 0x0,
    [fCtl 31 0 .rk]⟩,
  ⟨0x1000C, [], 0x0,
    [fCtl 31 0 .rk]⟩,
  ⟨0x10010, [(0x4, 2)], 0xC0001,
    [fCtl 31 20 .rw, fCtl 19 17 .rw, fCtl 2 2 .rw, fCtl 1 1 .rk, fCtl 0 0 .rw]⟩,
  ⟨0x10018, [(0x4, 2)], 0x0,
    [fRo 2 2, fRo 1 1, fRo 0 0]⟩,
  ⟨0x10020, [(0x4, 2)], 0x0,
    [fCtl 15 0 .rk]⟩,
  ⟨0x10028, [], 0x202,
    [fRo 15 8, fRo 7 0]⟩,
  ⟨0x10030, [], 0x0,
    [fSta 31 0 .rk]⟩,
  ⟨0x10034, [], 0x0,
    [fSta 31 0 .rk]⟩,
  ⟨0x10038, [], 0x0,
    [fRo 31 0]⟩,
  ⟨0x1003C, [], 0x0,
    [fRo 31 0]⟩,
  ⟨0x10040, [], 0x3,
    [fRo 7 7, fRo 6 6, fRo 5 5, fRo 1 0]⟩,
  ⟨0x10044, [], 0x0,
    [fRo 31 0]⟩,
  ⟨0x10048, [], 0xA,
    [fCtl 9 0 .rk]⟩,
  ⟨0x1004C, [], 0x0,
    [fRo 8 8, fRo 7 0]⟩,
  ⟨0x10060, [], 0x0,
    [fRc 31 24, fRc 23 16, fRc 15 8, fRc 7 0]⟩,
  ⟨0x10064, [], 0x0,
    [fRc 31 16, fRc 15 0]⟩,
  ⟨0x10080, [(0x4, 8)], 0x0,
    [fSta 15 15 .rw, fSta 14 12 .rw, fSta 11 8 .rw, fSta 5 0 .rw]⟩]

/-- Rows 50 to 74 of the register table: NET_VM_STAT to HIF_CAB_STAT. -/
def regTable2 : List RegSpec := [
  ⟨0x100A0, [(0x4, 8)], 0xD,
    [fRo 31 16, fRo 3 2, fRo 1 1, fRo 0 0]⟩,
  ⟨0x100C0, [(0x4, 8)], 0x0,
    [fSta 15 15 .rw, fSta 14 12 .rw, fSta 11 8 .rw, fSta 7 7 .rw, fSta 4 0 .rw]⟩,
  ⟨0x20000, [], 0x0,
    [fRo 31 24, fRo 23 16, fRo 5 5, fRo 4 4, fRo 3 3, fRo 2 2, fRo 1 1, fRo 0 0]⟩,
  ⟨0x20004, [], 0x0,
    [fRo 31 0]⟩,
  ⟨0x20008, [], 0x0,
    [fRo 31 0]⟩,
  ⟨0x2000C, [], 0x0,
    [fRc 31 16, fRc 15 0]⟩,
  ⟨0x20010, [], 0x0,
    [fRc 31 16, fRc 15 0]⟩,
  ⟨0x20014, [], 0x8000000,
    [fRo 31 16, fRo 15 0]⟩,
  ⟨0x20018, [], 0x0,
    [fRo 11 0]⟩,
  ⟨0x20020, [], 0x0,
    [fUnc 31 31 .rw, fRo 30 28, fCtl 27 27 .rw, fCtl 4 0 .rw]⟩,
  ⟨0x20024, [], 0x0,
    [fCtl 31 0 .rw]⟩,
  ⟨0x20030, [(0x4, 8)], 0x0,
    [fRo 31 0]⟩,
  ⟨0x30000, [(0x40, 46)], 0xFF0000,
    [fRo 31 24, fRo 23 16, fRo 7 7, fRo 6 6, fRo 2 0]⟩,
  ⟨0x30004, [(0x40, 46)], 0x0,
    [fRo 31 16, fRo 15 0]⟩,
  ⟨0x30008, [(0x40, 46)], 0x0,
    [fRo 16 0]⟩,
  ⟨0x3000C, [(0x40, 46)], 0x0,
    [fCtl 31 16 .rw, fUnc 0 0 .rw]⟩,
  ⟨0x30010, [(0x40, 46)], 0x0,
    [fCtl 8 8 .rw, fCtl 3 0 .rw]⟩,
  ⟨0x30014, [(0x40, 46)], 0x3E8,
    [fCtl 15 0 .rk]⟩,
  ⟨0x30018, [(0x40, 46)], 0x0,
    [fRc 31 16, fRo 15 0]⟩,
  ⟨0x3001C, [(0x40, 46)], 0x0,
    [fRc 31 16, fRc 15 8, fRc 7 0]⟩,
  ⟨0x30020, [(0x40, 46)], 0x0,
    [fRc 31 16, fRc 15 0]⟩,
  ⟨0x30024, [(0x40, 46)], 0x0,
    [fUnc 10 2 .rw]⟩,
  ⟨0x30028, [(0x40, 46)], 0x0,
    [fRo 31 0]⟩,
  ⟨0x40000, [(0x1000, 4)], 0x210,
    [fCtl 10 10 .rk, fCtl 9 5 .rw, fCtl 4 0 .rw]⟩,
  ⟨0x40004, [(0x1000, 4)], 0x0,
    [fRo 2 2, fRo 1 1, fRo 0 0]⟩]

/-- Rows 75 to 99 of the register table: HIF_CAB_AXES to MP_CMD_VEL_HI. -/
def regTable3 : List RegSpec := [
  ⟨0x40008, [(0x1000, 4)], 0x0,
    [fRo 31 0]⟩,
  ⟨0x4000C, [(0x1000, 4)], 0x0,
    [fUnc 31 31 .rw, fCtl 15 0 .rk]⟩,
  ⟨0x40010, [(0x1000, 4)], 0x0,
    [fRc 31 16, fRc 15 0]⟩,
  ⟨0x40014, [(0x1000, 4)], 0x0,
    [fRc 31 16, fRc 15 0]⟩,
  ⟨0x40018, [(0x1000, 4)], 0x0,
    [fRo 31 0]⟩,
  ⟨0x40030, [(0x1000, 4)], 0x0,
    [fUnc 10 8 .rw, fUnc 0 0 .wo]⟩,
  ⟨0x40034, [(0x1000, 4)], 0x0,
    [fRo 24 24, fRo 20 16, fRo 12 8, fRo 4 0]⟩,
  ⟨0x40038, [(0x1000, 4)], 0x0,
    [fRc 31 16, fRc 15 0]⟩,
  ⟨0x4003C, [(0x1000, 4)], 0x0,
    [fRo 31 0]⟩,
  ⟨0x40040, [(0x1000, 4), (0x1C, 16)], 0x0,
    [fSta 31 0 .rw]⟩,
  ⟨0x40044, [(0x1000, 4), (0x1C, 16)], 0x0,
    [fSta 31 0 .rw]⟩,
  ⟨0x40048, [(0x1000, 4), (0x1C, 16)], 0x0,
    [fSta 31 24 .rw, fSta 23 20 .rw, fSta 19 17 .rw, fSta 16 13 .rw, fSta 12 9 .rw, fSta 8 6 .rw, fCtl 0 0 .rw]⟩,
  ⟨0x4004C, [(0x1000, 4), (0x1C, 16)], 0x0,
    [fRo 15 12, fRo 11 8, fRo 3 3, fRo 2 0]⟩,
  ⟨0x40050, [(0x1000, 4), (0x1C, 16)], 0x0,
    [fRo 12 0]⟩,
  ⟨0x40054, [(0x1000, 4), (0x1C, 16)], 0x0,
    [fRo 12 0]⟩,
  ⟨0x40058, [(0x1000, 4), (0x1C, 16)], 0x0,
    [fRc 31 0]⟩,
  ⟨0x40200, [(0x1000, 4)], 0x0,
    [fRo 0 0]⟩,
  ⟨0x100000, [(0x800, 32)], 0x0,
    [fUnc 9 8 .rw, fCtl 4 4 .rk, fCtl 3 3 .rw]⟩,
  ⟨0x100004, [(0x800, 32)], 0x0,
    [fRo 31 16, fRo 15 12, fRo 11 11, fRo 10 10, fRo 9 9, fRo 8 8, fRo 3 3, fRo 2 0]⟩,
  ⟨0x100008, [(0x800, 32)], 0x0,
    [fUnc 31 0 .rw]⟩,
  ⟨0x10000C, [(0x800, 32)], 0x0,
    [fUnc 31 0 .rw]⟩,
  ⟨0x100010, [(0x800, 32)], 0x0,
    [fRo 31 0]⟩,
  ⟨0x100014, [(0x800, 32)], 0x0,
    [fRo 31 0]⟩,
  ⟨0x100018, [(0x800, 32)], 0x0,
    [fRo 31 0]⟩,
  ⟨0x10001C, [(0x800, 32)], 0x0,
    [fRo 31 0]⟩]

/-- Rows 100 to 124 of the register table: MP_CMD_ACC_LO to GR_NUM. -/
def regTable4 : List RegSpec := [
  ⟨0x100020, [(0x800, 32)], 0x0,
    [fRo 31 0]⟩,
  ⟨0x100024, [(0x800, 32)], 0x0,
    [fRo 31 0]⟩,
  ⟨0x100030, [(0x800, 32)], 0x0,
    [fSta 31 0 .rw]⟩,
  ⟨0x100034, [(0x800, 32)], 0x1,
    [fSta 31 0 .rw]⟩,
  ⟨0x100038, [(0x800, 32)], 0x0,
    [fSta 31 0 .rw]⟩,
  ⟨0x10003C, [(0x800, 32)], 0x1,
    [fSta 31 0 .rw]⟩,
  ⟨0x100040, [(0x800, 32)], 0x0,
    [fSta 31 0 .rw]⟩,
  ⟨0x100044, [(0x800, 32)], 0x1,
    [fSta 31 0 .rw]⟩,
  ⟨0x100048, [(0x800, 32)], 0x0,
    [fSta 31 0 .rw]⟩,
  ⟨0x10004C, [(0x800, 32)], 0x0,
    [fSta 31 0 .rw]⟩,
  ⟨0x100050, [(0x800, 32)], 0x0,
    [fCtl 31 0 .rk]⟩,
  ⟨0x100054, [(0x800, 32)], 0x10,
    [fCtl 31 0 .rk]⟩,
  ⟨0x100058, [(0x800, 32)], 0x0,
    [fCtl 31 0 .rk]⟩,
  ⟨0x10005C, [(0x800, 32)], 0x190,
    [fCtl 31 0 .rk]⟩,
  ⟨0x100060, [(0x800, 32)], 0x0,
    [fCtl 31 0 .rk]⟩,
  ⟨0x100064, [(0x800, 32)], 0x10,
    [fCtl 31 0 .rk]⟩,
  ⟨0x100068, [(0x800, 32)], 0x0,
    [fCtl 31 0 .rk]⟩,
  ⟨0x10006C, [(0x800, 32)], 0x80000000,
    [fCtl 31 0 .rk]⟩,
  ⟨0x100070, [(0x800, 32)], 0xFFFFFFFF,
    [fCtl 31 0 .rk]⟩,
  ⟨0x100074, [(0x800, 32)], 0x7FFFFFFF,
    [fCtl 31 0 .rk]⟩,
  ⟨0x100078, [(0x800, 32)], 0x80,
    [fCtl 8 0 .rk]⟩,
  ⟨0x10007C, [(0x800, 32)], 0x0,
    [fRc 31 16, fRc 15 0]⟩,
  ⟨0x100100, [(0x800, 32)], 0x640002,
    [fCtl 31 16 .rk, fCtl 2 2 .rw, fCtl 1 1 .rw, fCtl 0 0 .rw]⟩,
  ⟨0x100104, [(0x800, 32)], 0x0,
    [fRo 31 30, fRo 29 25, fRo 24 20, fRo 7 7, fRo 6 6, fRo 5 5, fRo 4 4, fRo 3 3, fRo 2 2, fRo 0 0]⟩,
  ⟨0x100108, [(0x800, 32)], 0x0,
    [fRo 31 0]⟩]

/-- Rows 125 to 149 of the register table: GR_DEN to CR_IMAX. -/
def regTable5 : List RegSpec := [
  ⟨0x10010C, [(0x800, 32)], 0x1,
    [fRo 31 0]⟩,
  ⟨0x100110, [(0x800, 32)], 0x0,
    [fRo 31 0]⟩,
  ⟨0x100114, [(0x800, 32)], 0x0,
    [fRo 31 0]⟩,
  ⟨0x100118, [(0x800, 32)], 0x0,
    [fRo 31 0]⟩,
  ⟨0x10011C, [(0x800, 32)], 0x0,
    [fRc 31 0]⟩,
  ⟨0x100120, [(0x800, 32)], 0x0,
    [fCtl 31 0 .rw]⟩,
  ⟨0x100124, [(0x800, 32)], 0x0,
    [fCtl 31 0 .rw]⟩,
  ⟨0x100128, [(0x800, 32)], 0x10000,
    [fCtl 31 0 .rw]⟩,
  ⟨0x10012C, [(0x800, 32)], 0x100000,
    [fCtl 31 0 .rk]⟩,
  ⟨0x100130, [(0x800, 32)], 0x0,
    [fRc 31 16, fRc 15 0]⟩,
  ⟨0x100180, [(0x800, 32)], 0xFF0A00,
    [fSta 31 16 .rw, fSta 15 8 .rw, fSta 3 3 .rw, fSta 2 2 .rw, fSta 0 0 .rw]⟩,
  ⟨0x100184, [(0x800, 32)], 0x64,
    [fSta 9 0 .rw]⟩,
  ⟨0x100188, [(0x800, 32)], 0x0,
    [fRo 2 2, fRo 1 1, fRo 0 0]⟩,
  ⟨0x100190, [(0x800, 32)], 0x0,
    [fRo 31 0]⟩,
  ⟨0x100194, [(0x800, 32)], 0x0,
    [fRo 31 0]⟩,
  ⟨0x100198, [(0x800, 32)], 0x0,
    [fRc 31 16, fRc 15 0]⟩,
  ⟨0x1001A0, [(0x800, 32)], 0xC754030,
    [fCtl 31 20 .rk, fCtl 19 16 .rk, fCtl 15 12 .rk, fCtl 5 5 .rk, fCtl 4 4 .rk, fCtl 2 2 .rk, fCtl 1 1 .rk, fCtl 0 0 .rk]⟩,
  ⟨0x1001A4, [(0x800, 32)], 0x0,
    [fRo 4 4, fRo 3 3, fRo 2 2, fRo 1 1, fRo 0 0]⟩,
  ⟨0x1001A8, [(0x800, 32)], 0x0,
    [fRc 31 16, fRc 15 0]⟩,
  ⟨0x1001B0, [(0x800, 32)], 0x0,
    [fRo 31 24, fRo 23 16, fRo 15 8, fRo 1 1, fRo 0 0]⟩,
  ⟨0x1001B8, [(0x800, 32)], 0x0,
    [fRo 31 0]⟩,
  ⟨0x1001BC, [(0x800, 32)], 0x0,
    [fRo 31 0]⟩,
  ⟨0x100200, [(0x800, 32)], 0xE0,
    [fSta 7 7 .rw, fSta 6 6 .rw, fSta 5 5 .rw, fSta 4 4 .rw, fSta 1 0 .rw]⟩,
  ⟨0x100204, [(0x800, 32)], 0x0,
    [fSta 15 0 .rw]⟩,
  ⟨0x100208, [(0x800, 32)], 0xE666,
    [fCtl 15 0 .rk]⟩]

/-- Rows 150 to 174 of the register table: CR_KP to OB_LOAD. -/
def regTable6 : List RegSpec := [
  ⟨0x10020C, [(0x800, 32)], 0x800003E8,
    [fSta 31 24 .rw, fSta 15 0 .rw]⟩,
  ⟨0x100210, [(0x800, 32)], 0x2710,
    [fSta 23 0 .rw]⟩,
  ⟨0x100214, [(0x800, 32)], 0x0,
    [fRo 31 31, fSta 19 0 .rw]⟩,
  ⟨0x100218, [(0x800, 32)], 0x2000403,
    [fSta 31 16 .rw, fSta 12 4 .rw, fSta 1 0 .rw]⟩,
  ⟨0x10021C, [(0x800, 32)], 0x0,
    [fRo 4 4, fRo 3 3, fRo 2 2, fRo 1 1, fRo 0 0]⟩,
  ⟨0x100220, [(0x800, 32)], 0x0,
    [fRo 31 16, fRo 1 1, fRo 0 0]⟩,
  ⟨0x100224, [(0x800, 32)], 0x0,
    [fRo 31 16, fUnc 10 10 .rw, fUnc 9 0 .rw]⟩,
  ⟨0x100280, [(0x800, 32)], 0x10,
    [fSta 11 8 .rw, fCtl 5 4 .rk, fSta 2 2 .rw, fSta 1 0 .rw]⟩,
  ⟨0x100284, [(0x800, 32)], 0x1401F4,
    [fSta 23 16 .rw, fSta 15 0 .rw]⟩,
  ⟨0x100288, [(0x800, 32)], 0x28000FA0,
    [fSta 31 24 .rw, fSta 17 16 .rw, fSta 15 0 .rw]⟩,
  ⟨0x10028C, [(0x800, 32)], 0x1F400C8,
    [fSta 31 16 .rw, fSta 15 0 .rw]⟩,
  ⟨0x100290, [(0x800, 32)], 0x1CCCD,
    [fCtl 31 0 .rk]⟩,
  ⟨0x100294, [(0x800, 32)], 0x8,
    [fCtl 9 0 .rk]⟩,
  ⟨0x100298, [(0x800, 32)], 0x10000,
    [fCtl 31 0 .rk]⟩,
  ⟨0x10029C, [(0x800, 32)], 0x0,
    [fRo 31 31, fSta 29 28 .rw, fSta 19 0 .rw]⟩,
  ⟨0x1002A0, [(0x800, 32)], 0xC8,
    [fSta 15 0 .rw]⟩,
  ⟨0x1002A4, [(0x800, 32)], 0x0,
    [fSta 17 0 .rw]⟩,
  ⟨0x1002B0, [(0x800, 32)], 0x1,
    [fSta 31 0 .rw]⟩,
  ⟨0x1002B4, [(0x800, 32)], 0x1,
    [fSta 31 0 .rw]⟩,
  ⟨0x1002B8, [(0x800, 32)], 0x0,
    [fRo 7 7, fRo 6 6, fRo 5 5, fRo 4 4, fRo 3 3, fRo 2 0]⟩,
  ⟨0x1002C0, [(0x800, 32)], 0x0,
    [fRo 31 0]⟩,
  ⟨0x1002C4, [(0x800, 32)], 0x0,
    [fRo 31 0]⟩,
  ⟨0x1002C8, [(0x800, 32)], 0x0,
    [fRo 31 0]⟩,
  ⟨0x1002CC, [(0x800, 32)], 0x0,
    [fRo 31 0]⟩,
  ⟨0x1002D0, [(0x800, 32)], 0x0,
    [fRo 31 0]⟩]

/-- Rows 175 to 199 of the register table: OB_SAL to ID_TCFG. -/
def regTable7 : List RegSpec := [
  ⟨0x1002D4, [(0x800, 32)], 0x0,
    [fRo 15 0]⟩,
  ⟨0x1002D8, [(0x800, 32)], 0x0,
    [fRo 31 0]⟩,
  ⟨0x1002DC, [(0x800, 32)], 0x0,
    [fCtl 6 0 .rw]⟩,
  ⟨0x1002E0, [(0x800, 32)], 0x0,
    [fCtl 0 0 .rw]⟩,
  ⟨0x1002E4, [(0x800, 32)], 0x0,
    [fRc 31 0]⟩,
  ⟨0x1002E8, [(0x800, 32)], 0x0,
    [fRc 31 16, fRc 15 0]⟩,
  ⟨0x100300, [(0x800, 32)], 0x0,
    [fRo 31 24, fRo 21 16, fRo 13 8, fRo 2 0]⟩,
  ⟨0x100304, [(0x800, 32)], 0x3F3F00,
    [fRo 21 16, fRo 13 8, fRo 1 0]⟩,
  ⟨0x100308, [(0x800, 32)], 0x0,
    [fRc 31 16, fRc 15 8, fRc 7 0]⟩,
  ⟨0x100380, [(0x800, 32)], 0x33331113,
    [fCtl 3 0 .rk, fCtl 7 4 .rk, fCtl 11 8 .rk, fCtl 15 12 .rk, fCtl 19 16 .rk, fCtl 23 20 .rk, fCtl 27 24 .rk, fCtl 31 28 .rk]⟩,
  ⟨0x100384, [(0x800, 32)], 0x44655555,
    [fCtl 3 0 .rk, fCtl 7 4 .rk, fCtl 11 8 .rk, fCtl 15 12 .rk, fCtl 19 16 .rk, fCtl 23 20 .rk, fCtl 27 24 .rk, fCtl 31 28 .rk]⟩,
  ⟨0x100388, [(0x800, 32)], 0x53155131,
    [fCtl 3 0 .rk, fCtl 7 4 .rk, fCtl 11 8 .rk, fCtl 15 12 .rk, fCtl 19 16 .rk, fCtl 23 20 .rk, fCtl 27 24 .rk, fCtl 31 28 .rk]⟩,
  ⟨0x10038C, [(0x800, 32)], 0x4431,
    [fCtl 3 0 .rk, fCtl 7 4 .rk, fCtl 11 8 .rk, fCtl 15 12 .rk]⟩,
  ⟨0x100390, [(0x800, 32)], 0x0,
    [fRo 31 24, fRo 23 16, fRo 15 8, fRo 7 7, fRo 6 6, fRo 5 5, fRo 2 0]⟩,
  ⟨0x100398, [(0x800, 32)], 0x0,
    [fRc 31 16, fRc 15 8, fRc 7 0]⟩,
  ⟨0x200010, [(0x40000, 4)], 0x13880004,
    [fRo 31 16, fSta 2 0 .rk]⟩,
  ⟨0x200014, [(0x40000, 4)], 0x0,
    [fRo 31 0]⟩,
  ⟨0x200018, [(0x40000, 4)], 0x0,
    [fRo 31 16, fRo 15 8, fRo 7 0]⟩,
  ⟨0x200020, [(0x40000, 4)], 0x0,
    [fRo 31 31, fRo 17 2]⟩,
  ⟨0x200024, [(0x40000, 4)], 0x0,
    [fRo 31 24, fRc 15 0]⟩,
  ⟨0x200028, [(0x40000, 4)], 0xECA86420,
    [fSta 3 0 .rk, fSta 7 4 .rk, fSta 11 8 .rk, fSta 15 12 .rk, fSta 19 16 .rk, fSta 23 20 .rk, fSta 27 24 .rk, fSta 31 28 .rk]⟩,
  ⟨0x20002C, [(0x40000, 4)], 0xFDB97531,
    [fSta 3 0 .rk, fSta 7 4 .rk, fSta 11 8 .rk, fSta 15 12 .rk, fSta 19 16 .rk, fSta 23 20 .rk, fSta 27 24 .rk, fSta 31 28 .rk]⟩,
  ⟨0x200100, [(0x40000, 4)], 0x0,
    [fSta 0 0 .rw]⟩,
  ⟨0x200104, [(0x40000, 4)], 0x0,
    [fCtl 1 1 .rw, fUnc 0 0 .rw]⟩,
  ⟨0x200108, [(0x40000, 4)], 0x0,
    [fCtl 31 0 .rw]⟩,
  ⟨0x20010C, [(0x40000, 4)], 0x0,
    [fCtl 31 0 .rw]⟩,
  ⟨0x200110, [(0x40000, 4)], 0x280,
    [fCtl 12 0 .rk]⟩,
  ⟨0x200200, [(0x40000, 4)], 0x0,
    [fRo 1 1, fCtl 0 0 .rw]⟩]

/-- Rows 200 to 224 of the register table: ID_ACC to CR_REF. -/
def regTable8 : List RegSpec := [
  ⟨0x200204, [(0x40000, 4)], 0x500000,
    [fUnc 31 31 .rw, fRo 30 29, fCtl 22 16 .rw, fCtl 15 0 .rw]⟩,
  ⟨0x200208, [(0x40000, 4)], 0x0,
    [fRo 31 0]⟩,
  ⟨0x200210, [(0x40000, 4), (0x4, 8)], 0x0,
    [fRo 16 16, fRo 15 12, fRo 7 4, fRo 3 0]⟩,
  ⟨0x200230, [(0x40000, 4), (0x4, 8)], 0x0,
    [fSta 31 16 .rk, fSta 15 0 .rk]⟩,
  ⟨0x200300, [(0x40000, 4), (0x80, 8), (0x4, 12)], 0x0,
    [fRo 31 0]⟩,
  ⟨0x200340, [(0x40000, 4), (0x80, 8), (0x4, 8)], 0x0,
    [fRo 31 0]⟩,
  ⟨0x201000, [(0x40000, 4), (0x100, 16)], 0x0,
    [fSta 4 4 .rw, fSta 3 2 .rw, fSta 1 1 .rw, fRs 0 0]⟩,
  ⟨0x201004, [(0x40000, 4), (0x100, 16)], 0x0,
    [fRo 15 12, fRo 10 8, fRo 5 5, fRo 4 4, fRo 3 3, fRo 2 0]⟩,
  ⟨0x201008, [(0x40000, 4), (0x100, 16)], 0x0,
    [fSta 12 0 .rw]⟩,
  ⟨0x20100C, [(0x40000, 4), (0x100, 16)], 0x2800500,
    [fSta 29 16 .rw, fSta 12 0 .rw]⟩,
  ⟨0x201010, [(0x40000, 4), (0x100, 16)], 0x20,
    [fRs 5 5, fRs 4 4, fRs 1 0]⟩,
  ⟨0x201014, [(0x40000, 4), (0x100, 16)], 0x0,
    [fRs 18 0]⟩,
  ⟨0x201018, [(0x40000, 4), (0x100, 16)], 0x0,
    [fRs 18 0]⟩,
  ⟨0x20101C, [(0x40000, 4), (0x100, 16)], 0x0,
    [fSta 3 0 .rw, fSta 7 4 .rw, fSta 11 8 .rw, fSta 15 12 .rw, fSta 19 16 .rw, fSta 23 20 .rw, fSta 27 24 .rw, fSta 31 28 .rw]⟩,
  ⟨0x201020, [(0x40000, 4), (0x100, 16)], 0x0,
    [fSta 3 3 .rw, fSta 7 7 .rw, fSta 11 11 .rw, fSta 15 15 .rw, fSta 19 19 .rw, fSta 23 23 .rw, fSta 27 27 .rw, fSta 2 0 .rw, fSta 6 4 .rw, fSta 10 8 .rw, fSta 14 12 .rw, fSta 18 16 .rw, fSta 22 20 .rw, fSta 26 24 .rw]⟩,
  ⟨0x201024, [(0x40000, 4), (0x100, 16)], 0x0,
    [fRs 2 0]⟩,
  ⟨0x201028, [(0x40000, 4), (0x100, 16)], 0x4010,
    [fCtl 15 8 .rk, fCtl 7 0 .rk]⟩,
  ⟨0x20102C, [(0x40000, 4), (0x100, 16)], 0x0,
    [fRo 15 8, fRo 7 0]⟩,
  ⟨0x201030, [(0x40000, 4), (0x100, 16)], 0x0,
    [fRc 31 16, fRc 15 8, fRc 7 0]⟩,
  ⟨0x201034, [(0x40000, 4), (0x100, 16)], 0x0,
    [fRc 31 16, fRc 15 0]⟩,
  ⟨0x201038, [(0x40000, 4), (0x100, 16)], 0x0,
    [fRo 31 16, fRo 15 0]⟩,
  ⟨0x201060, [(0x40000, 4), (0x100, 16)], 0x7AE10001,
    [fCtl 31 16 .rk, fSta 1 0 .rk]⟩,
  ⟨0x201064, [(0x40000, 4), (0x100, 16)], 0x0,
    [fRo 31 31, fRo 23 0]⟩,
  ⟨0x201068, [(0x40000, 4), (0x100, 16)], 0x0,
    [fRo 31 0]⟩,
  ⟨0x20106C, [(0x40000, 4), (0x100, 16)], 0x0,
    [fRo 31 0]⟩]

/-- Rows 225 to 249 of the register table: CR_DUTY to CMP_WCNT. -/
def regTable9 : List RegSpec := [
  ⟨0x201070, [(0x40000, 4), (0x100, 16)], 0x0,
    [fRo 24 16, fRo 15 0]⟩,
  ⟨0x201074, [(0x40000, 4), (0x100, 16)], 0x0,
    [fRo 31 0]⟩,
  ⟨0x201078, [(0x40000, 4), (0x100, 16)], 0x0,
    [fRc 31 24, fRc 23 16, fRc 15 0]⟩,
  ⟨0x201080, [(0x40000, 4), (0x100, 16)], 0x201,
    [fCtl 11 8 .rw, fCtl 1 1 .rw, fSta 0 0 .rw]⟩,
  ⟨0x201084, [(0x40000, 4), (0x100, 16)], 0x1E281E28,
    [fCtl 31 24 .rw, fCtl 23 16 .rw, fCtl 15 8 .rw, fCtl 7 0 .rw]⟩,
  ⟨0x201088, [(0x40000, 4), (0x100, 16)], 0x66666666,
    [fSta 31 0 .rw]⟩,
  ⟨0x20108C, [(0x40000, 4), (0x100, 16)], 0xF0F0F0F0,
    [fCtl 31 28 .rk, fCtl 27 24 .rk, fCtl 23 20 .rk, fCtl 19 16 .rk, fCtl 15 12 .rk, fCtl 11 8 .rk, fCtl 7 4 .rk, fCtl 3 0 .rk]⟩,
  ⟨0x201090, [(0x40000, 4), (0x100, 16)], 0x30642808,
    [fCtl 31 28 .rk, fSta 24 16 .rk, fSta 15 8 .rk, fCtl 7 0 .rk]⟩,
  ⟨0x201094, [(0x40000, 4), (0x100, 16)], 0x50,
    [fSta 7 0 .rk]⟩,
  ⟨0x201098, [(0x40000, 4), (0x100, 16)], 0x0,
    [fRo 13 13, fRo 12 12, fRo 11 11, fRo 10 10, fRo 9 9, fRo 8 8, fRo 7 4, fRo 3 0]⟩,
  ⟨0x20109C, [(0x40000, 4), (0x100, 16)], 0x0,
    [fRc 31 24, fRc 23 16, fRc 15 8, fRc 7 0]⟩,
  ⟨0x2010A0, [(0x40000, 4), (0x100, 16)], 0x0,
    [fRc 31 16, fRc 15 0]⟩,
  ⟨0x2010A4, [(0x40000, 4), (0x100, 16)], 0x0,
    [fRo 31 24, fRo 23 16, fRo 6 4, fRo 3 0]⟩,
  ⟨0x203000, [(0x40000, 4), (0x40, 16), (0x4, 2)], 0x11200,
    [fSta 31 20 .rw, fSta 19 16 .rw, fSta 15 12 .rw, fSta 9 8 .rw, fSta 5 4 .rw]⟩,
  ⟨0x203008, [(0x40000, 4), (0x40, 16), (0x4, 2)], 0x32100,
    [fSta 31 20 .rk, fSta 19 16 .rk, fSta 15 12 .rk, fSta 9 8 .rk, fSta 5 4 .rk]⟩,
  ⟨0x203010, [(0x40000, 4), (0x40, 16), (0x4, 4)], 0x32200,
    [fSta 31 20 .rk, fSta 19 16 .rk, fSta 15 12 .rk, fSta 9 8 .rk, fSta 5 4 .rk]⟩,
  ⟨0x203020, [(0x40000, 4), (0x40, 16), (0x4, 2)], 0x11100,
    [fSta 31 20 .rk, fSta 19 16 .rk, fSta 15 12 .rk, fSta 9 8 .rk, fSta 5 4 .rk]⟩,
  ⟨0x203028, [(0x40000, 4), (0x40, 16)], 0x3FF0000,
    [fRo 25 16, fRo 9 0]⟩,
  ⟨0x20302C, [(0x40000, 4), (0x40, 16)], 0x0,
    [fRo 29 20, fRo 19 0]⟩,
  ⟨0x203030, [(0x40000, 4), (0x40, 16)], 0x0,
    [fRc 31 16]⟩,
  ⟨0x203800, [(0x40000, 4), (0x8, 8), (0x4, 2)], 0xC754120,
    [fCtl 31 20 .rw, fCtl 19 16 .rw, fCtl 15 12 .rw, fCtl 9 8 .rw, fCtl 5 4 .rw]⟩,
  ⟨0x203840, [(0x40000, 4), (0x4, 8)], 0x0,
    [fCtl 31 24 .rk, fCtl 2 2 .rk, fCtl 1 1 .rk, fCtl 0 0 .rw]⟩,
  ⟨0x203860, [(0x40000, 4)], 0x0,
    [fRo 3 0, fRo 7 4, fRo 11 8, fRo 15 12, fRo 19 16, fRo 23 20, fRo 27 24, fRo 31 28]⟩,
  ⟨0x203864, [(0x40000, 4)], 0x0,
    [fRo 31 24, fRo 23 8, fUnc 7 0 .rw]⟩,
  ⟨0x203868, [(0x40000, 4)], 0x0,
    [fRc 31 16, fRc 15 0]⟩]

/-- Rows 250 to 274 of the register table: ADC_CTRL to GD_TCNT. -/
def regTable10 : List RegSpec := [
  ⟨0x204000, [(0x40000, 4), (0x1000, 2)], 0x1,
    [fCtl 0 0 .rw]⟩,
  ⟨0x204004, [(0x40000, 4), (0x1000, 2)], 0x4,
    [fRo 31 28, fRo 27 24, fRo 3 3, fRo 2 0]⟩,
  ⟨0x204008, [(0x40000, 4), (0x1000, 2)], 0x0,
    [fRc 31 24, fRc 23 16, fRc 15 8, fRc 7 4, fRc 3 0]⟩,
  ⟨0x204020, [(0x40000, 4), (0x1000, 2)], 0x0,
    [fUnc 31 31 .rw, fUnc 30 30 .rw, fCtl 29 29 .rw, fCtl 23 16 .rw, fCtl 6 0 .rw]⟩,
  ⟨0x204010, [(0x40000, 4)], 0x180010,
    [fCtl 23 16 .rk, fCtl 15 0 .rk]⟩,
  ⟨0x204014, [(0x40000, 4)], 0x0,
    [fRo 1 1, fRo 0 0]⟩,
  ⟨0x204018, [(0x40000, 4)], 0x0,
    [fRc 15 0]⟩,
  ⟨0x204024, [(0x40000, 4), (0x1000, 2)], 0x0,
    [fRo 31 28, fRo 26 26, fRo 25 25, fRo 24 24, fRo 23 23, fRo 22 22, fRo 21 0]⟩,
  ⟨0x204100, [(0x40000, 4), (0x1000, 2)], 0x80400000,
    [fRo 31 31, fRo 30 29, fRo 28 25, fRo 22 16, fRo 15 0]⟩,
  ⟨0x204104, [(0x40000, 4), (0x1000, 2)], 0x80500064,
    [fRs 31 31, fRs 30 29, fRs 28 25, fRs 22 16, fRs 15 0]⟩,
  ⟨0x204108, [(0x40000, 4), (0x1000, 2)], 0x804100C8,
    [fRs 31 31, fRs 30 29, fRs 28 25, fRs 22 16, fRs 15 0]⟩,
  ⟨0x20410C, [(0x40000, 4), (0x1000, 2)], 0x8042012C,
    [fRs 31 31, fRs 30 29, fRs 28 25, fRs 22 16, fRs 15 0]⟩,
  ⟨0x204110, [(0x40000, 4), (0x1000, 2)], 0x80430190,
    [fRs 31 31, fRs 30 29, fRs 28 25, fRs 22 16, fRs 15 0]⟩,
  ⟨0x204114, [(0x40000, 4), (0x1000, 2)], 0x804401F4,
    [fRs 31 31, fRs 30 29, fRs 28 25, fRs 22 16, fRs 15 0]⟩,
  ⟨0x204118, [(0x40000, 4), (0x1000, 2)], 0x80450258,
    [fRs 31 31, fRs 30 29, fRs 28 25, fRs 22 16, fRs 15 0]⟩,
  ⟨0x20411C, [(0x40000, 4), (0x1000, 2)], 0x804602BC,
    [fRs 31 31, fRs 30 29, fRs 28 25, fRs 22 16, fRs 15 0]⟩,
  ⟨0x204120, [(0x40000, 4), (0x1000, 2)], 0x80510320,
    [fRs 31 31, fRs 30 29, fRs 28 25, fRs 22 16, fRs 15 0]⟩,
  ⟨0x204124, [(0x40000, 4), (0x1000, 2), (0x4, 23)], 0x0,
    [fRs 31 31, fRs 30 29, fRs 28 25, fRs 22 16, fRs 15 0]⟩,
  ⟨0x204180, [(0x40000, 4), (0x1000, 2)], 0x0,
    [fRo 10 8, fRo 7 0]⟩,
  ⟨0x204184, [(0x40000, 4), (0x1000, 2), (0x4, 31)], 0x0,
    [fRs 10 8, fRs 7 0]⟩,
  ⟨0x204200, [(0x40000, 4), (0x1000, 2), (0x4, 32)], 0x0,
    [fRo 31 28, fRo 26 26, fRo 25 25, fRo 24 24, fRo 23 23, fRo 22 22, fRo 21 0]⟩,
  ⟨0x206000, [(0x40000, 4), (0x20, 16)], 0x0,
    [fRo 31 0]⟩,
  ⟨0x206004, [(0x40000, 4), (0x20, 16), (0x4, 4)], 0xFFFFFFFF,
    [fRo 31 16, fRo 15 0]⟩,
  ⟨0x206400, [(0x40000, 4)], 0x0,
    [fRo 1 1, fRo 0 0]⟩,
  ⟨0x206404, [(0x40000, 4)], 0x0,
    [fRc 15 0]⟩]

/-- The register index of BAR0 (R359). -/
def regTable : List RegSpec :=
  regTable0 ++ regTable1 ++ regTable2 ++ regTable3 ++ regTable4 ++ regTable5 ++ regTable6 ++ regTable7 ++ regTable8 ++ regTable9 ++ regTable10

/-- The indices of the instance at offset `d` of a row with strides and counts `dims`, if there is one. -/
def dimIndex : List (Nat × Nat) → Nat → Option (List Nat)
  | [], d => if d = 0 then some [] else none
  | (s, n) :: rest, d =>
    if d / s < n then (dimIndex rest (d % s)).map (d / s :: ·) else none

/-- The row of the register index that holds BAR0 offset `a`, and the instance. -/
def lookupIn : List RegSpec → Nat → Option (RegSpec × List Nat)
  | [], _ => none
  | r :: rs, a =>
    if r.base ≤ a then
      match dimIndex r.dims (a - r.base) with
      | some ix => some (r, ix)
      | none => lookupIn rs a
    else lookupIn rs a

/-- The row of the register index that holds BAR0 offset `a` (R359). -/
def regLookup (a : Nat) : Option (RegSpec × List Nat) := lookupIn regTable a

/-- Reset values that depend on the instance: the placement of R5 in MP_PLACE, and ENG_STAT, where an engine
that serves an axis reads IDLE with that axis, and a spare reads SPARE with axis 0xFF (R5, R221). -/
def instanceReset (a : Nat) : Option Nat :=
  if 0x100300 ≤ a ∧ a < 0x100300 + 32 * 0x800 ∧ (a - 0x100300) % 0x800 = 0 then
    let x := (a - 0x100300) / 0x800
    some ((9 * (x / 8) + x % 8) * 0x10000 + (10 * (x / 8) + x % 8) * 0x100)
  else if 0x30000 ≤ a ∧ a < 0x30000 + 46 * 0x40 ∧ (a - 0x30000) % 0x40 = 0 then
    let e := (a - 0x30000) / 0x40
    if e < 40 then
      if e % 10 < 8 then some ((8 * (e / 10) + e % 10) * 0x10000) else some 0xFF0005
    else some 0xFF0000
  else none

/-- The value a register holds at reset; 0 where no register is. -/
def regReset (a : Nat) : BitVec 32 :=
  match instanceReset a with
  | some v => BitVec.ofNat 32 v
  | none =>
    match regLookup a with
    | some (r, _) => BitVec.ofNat 32 r.reset
    | none => 0

end Sys2Proof.Machine
end

