-- ==== Sys2Proof/Config.lean ====
section
/-! DEFINITION. What the manual leaves open: free values, contents that no source gives, and the codes of the
records that the manual names without a number. Each is an opaque constant, so that no statement can rest on
a value of it. -/

namespace Sys2Proof

/-- The kinds of record that the manual asks for without giving an event code (spec/18 numbers only the
recorder's own records, and R213 those of engines). One name for each place that writes one. -/
inductive RecKind where
  -- crossings, strobes and the control period (spec/01)
  | strobeRealign | crossingRetry | crossingAbandoned
  -- line time and network (spec/02)
  | frameRefused | modeUndecided | ringKeeper | linkTransient | netSelfTest
  -- motion, gearing, homing (spec/03–05)
  | decelRaised | stepOverrate | limitHit | limitBoth | softLimit | resync | homing
  -- observer and regulation (spec/06, spec/07)
  | weakSaliency | slip | boardMismatch | missedSample
  -- PWM, gate drive, comparators, converters (spec/08–11)
  | skew | loadLate | portRefused | refreshPulse | adaptLimit | refreshFail | uvLockout | latchShort | latchDesat | diagResult | selfCheckRetry
  | selfCheckRetire | windowWarn | calRetry | stageRetired | converterRetired | vbusMismatch | adcCal
  -- engines (spec/12)
  | engStopped | engBudget | swapSkipped
  -- host interface and configuration (spec/13, spec/14)
  | doorbellBad | routeFail | eventLost | traceLost | ringError | regAbort | lockViolation | staticWrite
  | parity | scanTransient | scanPermanent
  -- start-up, migration, repair, update (spec/15, spec/16)
  | deviceState | boot | bootFallback | inventory | diagnostics | identity | identityBusRetired | recovery | firmware
  | migration | mismatch | epochDiscard | repair | partRetired | correctedErrors | supervisor
  -- faults (spec/17): one for each class code
  | fault (cls : Nat)
  | encoder | netRetired
  deriving DecidableEq, Repr

/-- The event code of a record: a number the manual gives, or a kind it gives no number for. -/
inductive RecCode where
  | num (n : Nat)
  | dev (k : RecKind)
  deriving DecidableEq, Repr

/-- The event code of a kind of record; the manual gives none. -/
opaque Config.recordCode : RecKind → BitVec 16

/-- The length of the body of a summary record, in pieces of 32 bytes less one, and its bytes: the manual gives these records no
layout (R323). Arguments: the kind, the model's counter `freeCtr`, and the place of the byte. -/
opaque Config.summaryPieces : RecKind → Nat → Fin 31
opaque Config.summaryByte : RecKind → Nat → Nat → BitVec 8

/-- A value the manual leaves open, fresh for each index (the model's counter `freeCtr`). -/
opaque Config.freeWord : Nat → BitVec 32

/-- The address of the payload of a HOME in the context of its axis (R216): the manual gives none. -/
opaque Config.homePayloadAt : Nat → BitVec 32

/-- An integer the manual leaves open, fresh for each index. -/
opaque Config.freeInt : Nat → Int

/-- A choice the manual leaves open, fresh for each index. -/
opaque Config.freeBool : Nat → Bool

/-- The severity, info or warning, of an event whose chapter states none (R307): 0 or 1, by event code. -/
opaque Config.eventSeverity : Nat → BitVec 1

/-- The parameter of engine event 10 (R209): the manual names monitor, old code and new code and gives no layout. -/
opaque Config.windowParam : Nat → Nat → Nat → BitVec 56

/-- Whether the library of the flash holds an image or table of an identifier that the manual does not list one by
one (R219). Arguments: kind 0–3 of R218, identifier. -/
opaque Config.libraryHas : Nat → Nat → Bool

/-- An image of the library: instruction words, entry word and initial data (R217, R219). -/
opaque Config.libraryImage : Nat → Nat → List (BitVec 32) × Nat × List (BitVec 32)

/-- The fused public key of the boot ROM, a point of P-256 (R279). -/
opaque Config.fusedKey : Nat × Nat

/-- Words of the PCI Express configuration space that the manual does not give, by function and offset (R222). -/
opaque Config.pciWord : Nat → Nat → BitVec 32

/-- An entry of a detent-compensated table of the library: identifier, index (R101, R219). -/
opaque Config.libraryTable : Nat → Nat → BitVec 16

end Sys2Proof
end

