-- ==== Sys2Proof/Syntax.lean ====
section
/-! DEFINITION. The commands of the K3264: one constructor of `Instr` for each row of the table of operations
and events, with the operands that come from outside the block. -/

namespace Sys2Proof

/-- The 48 payload bytes of a descriptor (R232). -/
abbrev Payload := Vector Byte 48

/-- A descriptor as a command carries it: the fields of R232 after the checks of R233 on its header, the ring it
came by, the ring its completion slot is reserved on, and the line time of its acceptance. -/
structure Desc where
  cab : Fin 4
  ring : Fin 16
  cpl : Fin 16
  index : Nat
  /-- The version of the ring in force. -/
  ver : Nat
  tag : Nat
  irq : Bool
  accept : Nat
  /-- Target kind: 0 axis, 1 port, 2 cabinet. -/
  kind : Nat
  target : Nat
  opcode : Nat
  /-- The engine that executed the CMD, and the number of the CMD; `none` for a descriptor of a ring (R212). -/
  engine : Option (Fin 46 × Nat)
  /-- Its result failed to return: the completion is UNCONFIRMED (R236). -/
  unconfirmed : Bool
  /-- Its cabinet was reset after it had been routed: its completion is discarded (R247). -/
  muted : Bool
  /-- The image a PROG_LOAD read from host memory before its acceptance (R218); empty otherwise. -/
  image : List Byte
  payload : Payload
  deriving DecidableEq, Repr

/-- Who writes a register (R225, R211). -/
inductive Writer where
  | host (cab : Fin 4)
  | engine (e : Fin 46)
  deriving DecidableEq, Repr

/-- A failure of the flash that the recorder meets while it stores or reads records (R339): the block, 1 program, 2 erase or
3 read, and the sequence numbers of the records that cannot be read any more; or an armoire that cannot be used, with the cause of
REC_ARMOIRE_LOST. -/
inductive FlashFail where
  | block (number kind : Nat) (gone : List Nat)
  | unusable (cause : Nat)
  deriving DecidableEq, Repr

/-- The header of a received line frame (R33). -/
structure LineHdr where
  ver : Nat
  seg : Nat
  src : Nat
  seq : Nat
  time : Nat
  deriving DecidableEq, Repr

/-- The payload of a heartbeat (R34). -/
structure Heartbeat where
  maxVer : Nat
  quality : Nat
  epoch : Nat
  modes : List Nat
  reqId : Nat
  orig : Nat
  flags : Nat
  deriving DecidableEq, Repr

/-- An entry of a virtual-master frame (R37). -/
structure VmEntry where
  chan : Nat
  valid : Bool
  restart : Bool
  tq : Nat
  seq : Nat
  time : Nat
  pos : Int
  deriving DecidableEq, Repr

/-- The message types that PTP options distinguish (R25–R27). -/
inductive PtpMsg where
  | sync (twoStep : Bool) | followUp | delayReq | delayResp | announce | peerDelay (request : Bool) | other
  deriving DecidableEq, Repr

/-- A frame received for forwarding (R27–R29): its class, source, sequence number and residence time in ns. -/
inductive FwdFrame where
  | ptp (msg : PtpMsg) (src seq residence : Nat)
  | line (type src seq : Nat)
  | other (multicast : Bool)
  deriving DecidableEq, Repr

/-- A PTP Sync with its follow-up as the servo uses it (R23, R25): the sender and its sequence number, the port it came by, one-step
or two-step, its domain and logSyncInterval, its origin timestamp in PTP ns, its correctionField in ns and the local
line time at which it was received. -/
structure SyncIn where
  src : Nat
  seq : Nat
  port : Fin 2
  twoStep : Bool
  domain : Nat
  logIvl : Int
  origin : Nat
  corr : Int
  rx : Nat
  deriving DecidableEq, Repr

/-- What a converter took in: its input in codes of the channel, unlimited, at its three clocks before the first sample of a
conversion or a group and at each of its samples (R193). -/
abbrev Intake := List Int

/-- What the control schedule sampled at one port in a period (R186): the coil-current window, the injection burst and
the reads of the bridge voltage; and the raw outputs of its ten comparators, in the order of CMP_STAT, at their filter clocks from
the end of the period back, bit 0 the latest (R176). -/
structure PortIn where
  window : Intake
  burst : Intake
  bridge : List Intake
  comps : List (BitVec 15)
  deriving DecidableEq, Repr

/-- What a tile sampled in the period that ends at a boundary: its ports in ascending order, the shared VBUS pairs of
X and Y, the repeats of a mismatch, and the bandgap codes of X and Y (R186, R196, R197); and the axes of the tile, 0–7, whose
shadow comparison of that period differed, with the first differing word (R297, R298). -/
structure TileIn where
  ports : List PortIn
  vbus : List (Intake × Intake)
  again : List (Intake × Intake)
  bandgap : Int × Int
  differs : List (Nat × Nat)
  deriving DecidableEq, Repr

/-- A comparator that can be self-checked (R179): one of the ten of a port in the order of CMP_STAT, or one of the 16 of
a tile's window monitors, 2j for H and 2j + 1 for L of monitor j. -/
inductive CmpRef where
  | port (p : Fin 64) (i : Fin 10)
  | window (t : Fin 4) (i : Fin 16)
  deriving DecidableEq, Repr

/-- A supply as UVLO_ENTRY and UVLO_EXIT name it: the bootstrap of a leg against 7.0 V and 7.6 V, the bootstrap of a leg
whose refresh failed against 8.5 V, or VGD of the tile (R158). -/
inductive Supply where
  | boot (leg : Fin 2) | refresh (leg : Fin 2) | vgd
  deriving DecidableEq, Repr

/-- A firmware image (R278): its 128 header bytes and its body. -/
structure BootImage where
  head : List Byte
  body : List Byte
  deriving DecidableEq, Repr

/-- Flash pages that failed their ECC while an image was checked (R279): the check, 1 to 5, that read the page, and in how many
attempts in a row it failed. -/
abbrev PageReads := List (Nat × Nat)

/-- What the device reads from host memory (R246): descriptors of a ring or the image of the PROG_LOAD at its head, the recovery image
(R281), or the image of a firmware update (R306). -/
inductive HostRead where
  | ring (c : Fin 4) (n : Fin 16)
  | recovery
  | firmware
  deriving DecidableEq, Repr

/-- A bit upset (R262, R267): bits of a register that flip without a write, in what it holds (for an rs field the shadow) or in its
values in force. -/
structure Upset where
  addr : Nat
  inForce : Bool
  bits : Word
  deriving DecidableEq, Repr

/-- An attempt of an identity-memory read (R286): the address was not acknowledged, a data byte was not or SCL stayed low, or
the bytes read. -/
inductive IdTry where
  | noAck | broken
  | bytes (l : List Byte)
  deriving DecidableEq, Repr

/-- A motion slot or an axis engine (R5). -/
inductive HwPart where
  | slot (n : Fin 36) | engine (n : Fin 40)
  deriving DecidableEq, Repr

/-- A hardware fault of a part (R302): one in bulk state not used in the current period, or one that stops the part, with
whether a snapshot copy and the bulk copy survive. -/
inductive HwFault where
  | bulk
  | stopping (snapshot bulk : Bool)
  deriving DecidableEq, Repr

/-- What a failed attempt of a crossing carried (R10): the period results of a port, the samples of an axis's ports, a
register access, the descriptor that is first on its way from a ring, the result of the descriptor first in the intake of
an axis or of a tile, the record first on its way to the recorder, a strobe, a result or engine write of the old placement of an
axis (R299), or anything else. -/
inductive XTraffic where
  | results (p : Fin 64)
  | samples (a : Fin 32)
  /-- An access of a host function to a register: the function that reads, none for a write (R255). -/
  | register (reader : Option (Fin 4))
  | route (c : Fin 4) (n : Fin 16)
  | result (a : Fin 32)
  | tileResult (t : Fin 4)
  | record
  | strobe (t : Fin 4)
  /-- `arrives`: the attempt that follows is good. -/
  | late (a : Fin 32) (arrives : Bool)
  | other
  deriving DecidableEq, Repr

/-- A command of the block: one constructor for each row of the table of operations and events.
Operands named `time` or `t : Nat` are the line time in ns at which the event happens; `t : Fin 4` is a tile, `a` an axis, `p` a
port, `e` an engine, `c` a cabinet, `n` a ring, a network port or an encoder port, `x` one of the two converters of a tile, `w` who
writes. Engine instructions carry the fields of their word, and `d` of a descriptor command is the descriptor. -/
inductive Instr where
  /-- `NOP` (R248): NOP descriptor is checked and completes DONE in the host island at acceptance without being
  routed. -/
  | nop (d : Desc)
  /-- `MOVE` (R53): MOVE descriptor starts, queues or refuses a point-to-point move of an axis. -/
  | move (d : Desc)
  /-- `VELOCITY` (R54): VELOCITY descriptor starts or replans a velocity ramp towards a signed target velocity. -/
  | velocity (d : Desc)
  /-- `STOP` (R55): STOP descriptor ramps a moving axis to rest with bank D and J, or releases HOLD with RELEASE. -/
  | stop (d : Desc)
  /-- `ESTOP` (R55): ESTOP descriptor ramps the axis to rest at EMERG_DECEL with no jerk limit and replaces any stop
  in progress. -/
  | estop (d : Desc)
  /-- `SET_POS` (R56): SET_POS descriptor shifts the axis position and every reported position by one offset at the
  landing boundary. -/
  | setPos (d : Desc)
  /-- `SET_PARAM` (R57): SET_PARAM descriptor stores a parameter into a bank and/or applies it to the running move. -/
  | setParam (d : Desc)
  /-- `GEAR_ENGAGE` (R73): GEAR_ENGAGE descriptor arms or lands an engagement of the axis to a master source. -/
  | gearEngage (d : Desc)
  /-- `GEAR_ARM` (R75): GEAR_ARM descriptor queues a ratio or offset change taken when the master crosses an arm
  position. -/
  | gearArm (d : Desc)
  /-- `GEAR_RELEASE` (R81): GEAR_RELEASE descriptor ends gearing at landing, at a master position or at a line-time
  instant. -/
  | gearRelease (d : Desc)
  /-- `HOME` (R93): HOME descriptor starts a library homing method in the axis engine's homing context. -/
  | home (d : Desc)
  /-- `FOLLOW_STEP` (R89): FOLLOW_STEP descriptor starts step-pulse following, or with END starts the drain. -/
  | followStep (d : Desc)
  /-- `MODE_PREPARE` (R42): MODE_PREPARE descriptor opens a tile, device or line-scope mode change request. -/
  | modePrepare (d : Desc)
  /-- `MODE_COMMIT` (R43): MODE_COMMIT descriptor commits or aborts a mode request this device originated. -/
  | modeCommit (d : Desc)
  /-- `MIGRATE` (R294): MIGRATE descriptor starts moving an axis's slot and/or engine to a spare. -/
  | migrate (d : Desc)
  /-- `PROG_LOAD` (R218): PROG_LOAD descriptor reads, checks and writes an image or table into the standby buffer. -/
  | progLoad (d : Desc)
  /-- `PROG_SWAP` (R220): PROG_SWAP descriptor exchanges active and standby images or restarts the active image at a
  boundary. -/
  | progSwap (d : Desc)
  /-- `DIAG_OFFSTATE` (R171): DIAG_OFFSTATE descriptor starts off-state diagnostics runs on a bitmap of ports. -/
  | diagOffstate (d : Desc)
  /-- `ADC_CAL` (R198): ADC_CAL descriptor starts a foreground calibration of one converter of a tile. -/
  | adcCal (d : Desc)
  /-- `TRACE_START` (R244): TRACE_START descriptor starts streaming register values into a trace ring. -/
  | traceStart (d : Desc)
  /-- `TRACE_STOP` (R244): TRACE_STOP descriptor ends the trace on a ring at its landing boundary. -/
  | traceStop (d : Desc)
  /-- `REC_QUERY` (R337): REC_QUERY descriptor starts exporting records into a recorder-export ring. -/
  | recQuery (d : Desc)
  /-- `REC_FLUSH` (R330): REC_FLUSH descriptor requests a flush of the journal into the armoire. -/
  | recFlush (d : Desc)
  /-- `CFG_COMMIT` (R291): CFG_COMMIT descriptor arms privet-scan segments, optionally sets locks and marks the
  cabinet committed. -/
  | cfgCommit (d : Desc)
  /-- `DOORBELL_WRITE` (R229): A host write of `size` bytes, `v`, at offset `off` of the doorbell page of cabinet `c` is validated,
  taken or held for merging. -/
  | doorbellWrite (t : Nat) (c : Fin 4) (off : Nat) (v : Word) (size : Nat)
  /-- `DOORBELL_MERGE_TAKE` (R229): When 500 ns have passed since the last doorbell taken, the latest held value of
  each ring is taken. -/
  | doorbellMergeTake (t : Nat) (c : Fin 4)
  /-- `DESCRIPTOR_FETCH` (R235): The device issues a fetch of up to 8 descriptors when no fetch of the ring is
  outstanding and room exists. -/
  | descriptorFetch (t : Nat) (c : Fin 4) (n : Fin 16)
  /-- `FETCH_COMPLETE` (R235): A descriptor fetch of ring `n` completes with the descriptors `ds`, or with `image` where the image of
  the PROG_LOAD at the ring's head was being read (R218). -/
  | fetchComplete (t : Nat) (c : Fin 4) (n : Fin 16) (ds : List (Vector Byte 64)) (image : List Byte)
  /-- `HOST_READ_RETRY` (R246): A host-memory read answered with error or unanswered within 1 ms is retried, and after
  3 attempts the ring goes to ERROR. -/
  | hostReadRetry (t : Nat) (x : HostRead)
  /-- `DESCRIPTOR_ACCEPT` (R233): The host island takes the descriptor whose turn it is at cabinet `c`, reserves its
  completion slot and checks it. -/
  | descriptorAccept (t : Nat) (c : Fin 4)
  /-- `DESCRIPTOR_ROUTE` (R236): The descriptor first on its way from ring `n` crosses to where it goes, or is
  ABANDONED where `ok` is false. -/
  | descriptorRoute (t : Nat) (c : Fin 4) (n : Fin 16) (ok : Bool)
  /-- `MSIX_MODERATION_EXPIRY` (R245): At the end of a ring's moderation interval a held interrupt request is
  signalled once. -/
  | msixModerationExpiry (t : Nat) (c : Fin 4) (n : Fin 16)
  /-- `MSIX_VECTOR_UNMASK` (R245): A host write of `size` bytes, `v`, at offset `off` of BAR4 of cabinet `c`, where the MSI-X table
  stands: unmasking a vector with its pending bit set sends one MSI-X message. -/
  | msixVectorUnmask (t : Nat) (c : Fin 4) (off : Nat) (v : Word) (size : Nat)
  /-- `RING_ENABLE` (R230): Setting EN of a ring checks its configuration and makes it ACTIVE or REFUSED within 2 µs. -/
  | ringEnable (t : Nat) (c : Fin 4) (n : Fin 16)
  /-- `RING_DISABLE` (R231): Clearing EN of a ring stops acceptance and drains a command ring or disables a
  device-written ring. -/
  | ringDisable (t : Nat) (c : Fin 4) (n : Fin 16)
  /-- `RING_DRAIN_END` (R231): A DRAINING command ring becomes DISABLED, or lands a pending re-enable, once every
  accepted descriptor has its completion. -/
  | ringDrainEnd (t : Nat) (c : Fin 4) (n : Fin 16)
  /-- `CABINET_WDOG_KICK` (R247): A doorbell write, kick-offset write or KICK write restarts the cabinet watchdog. -/
  | cabinetWdogKick (t : Nat) (c : Fin 4)
  /-- `CABINET_WDOG_EXPIRY` (R247): Cabinet watchdog expiry sets WDOG_EXP and raises HIF_WDOG against every axis of
  the cabinet. -/
  | cabinetWdogExpiry (t : Nat) (c : Fin 4)
  /-- `FUNCTION_LEVEL_RESET` (R247): A function-level reset resets the cabinet's ring and cabinet registers and stops
  its axes. -/
  | functionLevelReset (t : Nat) (c : Fin 4)
  /-- `D3HOT_ENTRY` (R223): Entry of a function into D3hot acts as a function-level reset of its cabinet. -/
  | d3hotEntry (t : Nat) (c : Fin 4)
  /-- `HOT_RESET` (R247): A hot reset, link-down (`linkDown`) or PERST of host port `h` resets both its cabinets, with
  axes as LINKLOSS decides. -/
  | hotReset (t : Nat) (h : Fin 2) (linkDown : Bool)
  /-- `TRACE_CAPTURE` (R244): At every N-th boundary of the clock tile a trace reads its signals and writes one entry
  or counts a loss. -/
  | traceCapture (c : Fin 4) (n : Fin 16)
  /-- `REGISTER_WRITE` (R252): A write of `size` bytes, `v`, at offset `a` of BAR0 by `w` is checked and applied. -/
  | registerWrite (t : Nat) (w : Writer) (a : Nat) (v : Word) (size : Nat)
  /-- `CROSSING_ATTEMPT_FAIL` (R10): An attempt of a crossing fails; `hedge` is the hedge that counts it (none for one
  without a hedge), `x` what it carried, `third` whether it was the third attempt. -/
  | crossingAttemptFail (t : Nat) (hedge : Option (Fin 4)) (x : XTraffic) (third : Bool)
  /-- `MP_CMD_POS_WRITE` (R56): A committed write of `v` to MP_CMD_POS acts as SET_POS in DISABLED, STANDSTILL and
  VELOCITY. -/
  | mpCmdPosWrite (t : Nat) (w : Writer) (a : Fin 32) (v : BitVec 64)
  /-- `LOAD_ALL` (R142): A write of PWM_LOADALL.LOAD requests a gang load of all port shadows of the tile at the next
  boundary or (`byTime`) at PWM_LOADAT. -/
  | loadAll (time : Nat) (w : Writer) (t : Fin 4) (byTime : Bool)
  /-- `ADC_INJ_GO` (R190): A software write of GO triggers the armed injected conversion. -/
  | adcInjGo (time : Nat) (w : Writer) (t : Fin 4) (x : Fin 2)
  /-- `ADC_INJ_CMP_TRIGGER` (R190): The comparator that CMPSEL names takes its raw output at its last filter clocks,
  bit 0 the latest; going active it triggers the armed injected conversion. -/
  | adcInjCmpTrigger (time : Nat) (t : Fin 4) (x : Fin 2) (raw : BitVec 15)
  /-- `CMP_WCHK_REQ` (R180): Writing 1 to a CMP_WCHK.REQ bit starts a self-check of that window monitor. -/
  | cmpWchkReq (time : Nat) (w : Writer) (t : Fin 4) (j : Fin 8)
  /-- `ENG_HOSTEV_SET` (R209): Writing SET raises event 14 with PARAM in the engine's event latch. -/
  | engHostevSet (t : Nat) (c : Fin 4) (e : Fin 46) (param : BitVec 16)
  /-- `GLB_RECOV_GO` (R281): Writing GO in HALT starts reading a recovery image of `len` bytes from the memory of host
  `c`. -/
  | glbRecovGo (t : Nat) (c : Fin 4) (len : BitVec 26)
  /-- `RECOVERY_IMAGE_CHECKED` (R281): The recovery image has been read, `f` from its address on, and is checked. -/
  | recoveryImageChecked (t : Nat) (f : BootImage)
  /-- `GLB_FWUP_GO` (R306): Writing GO starts a firmware update of `len` bytes into the slot not booted; `setpref` is
  SETPREF. -/
  | glbFwupGo (t : Nat) (c : Fin 4) (setpref : Bool) (len : BitVec 26)
  /-- `FWUP_COMPLETE` (R306): The firmware update ends: the image, `f` from its address on or in the slot, was checked with the page
  reads `reads`, and programmed (`flashOk`). -/
  | fwupComplete (t : Nat) (f : BootImage) (flashOk : Bool) (reads : PageReads)
  /-- `REC_RD_GO` (R336): Writing GO to REC_RD_CTRL starts a lookup of one record; `area` selects the armoire, `piece`
  the piece of a snapshot. -/
  | recRdGo (t : Nat) (c : Fin 4) (area : Bool) (piece : BitVec 5)
  /-- `REC_RD_LOOKUP_DONE` (R336): The record lookup completes and REC_RD0–REC_RD7 hold the record or piece found. -/
  | recRdLookupDone (t : Nat)
  /-- `ID_ACC_GO` (R286): Writing GO to ID_ACC starts a 4-byte read at offset `off` of identity memory `dev`. -/
  | idAccGo (time : Nat) (w : Writer) (t : Fin 4) (dev : BitVec 7) (off : BitVec 16)
  /-- `ID_ACC_DONE` (R286): The read of ID_ACC of tile `t` ends after the attempts `tries`. -/
  | idAccDone (time : Nat) (t : Fin 4) (tries : List IdTry)
  /-- `GLOBAL_LOCK` (R257): Writing 1 to GLB_LOCK sets the global lock over the global rk fields. -/
  | globalLock (t : Nat) (c : Fin 4)
  /-- `CFG_LOCK` (R257): Writing 1 to CFG_LOCK.LOCK sets the cabinet lock over its rk fields. -/
  | cfgLock (t : Nat) (c : Fin 4)
  /-- `CFG_XBAR_COMMIT` (R288): A write to CFG_XBAR_A commits the held crossbar pair and reloads motor data for
  remapped axes. -/
  | cfgXbarCommit (time : Nat) (w : Writer) (t : Fin 4) (v : Word)
  /-- `ENC_MODE_WRITE` (R354): A write of GLB_ENC_CFG.MODE leaving OFF initialises the extended count from the port
  value. -/
  | encModeWrite (t : Nat) (c : Fin 4) (n : Fin 16) (mode : BitVec 2)
  /-- `TILE_BOUNDARY` (R20): Boundary `k` of tile `t`; `inp` is what was sampled in the period that ends. -/
  | tileBoundary (t : Fin 4) (k : Nat) (inp : TileIn)
  /-- `ARMED` (R210): An engine's armed trigger is met at a boundary and event bit 8 is latched. -/
  | armed (e : Fin 46)
  /-- `PRECOPY_END` (R295): Pre-copy of the bulk state completes and boundary k is the next boundary. -/
  | precopyEnd (t : Nat) (a : Fin 32)
  /-- `MISSED_RESULTS` (R18): At the latch deadline no results of port `p` were accepted: the tile keeps the angle and
  repeats the previous duty. -/
  | missedResults (t : Nat) (p : Fin 64)
  /-- `MISSED_RESULTS_HOLD` (R18): After 3 consecutive missed periods the axis freezes at HOLD and a fault is raised. -/
  | missedResultsHold (t : Nat) (p : Fin 64)
  /-- `PERIOD_STROBE` (R15): A period strobe arrives at tile `t`; `ofs` is by how many ns the tile stands off it. -/
  | periodStrobe (time : Nat) (t : Fin 4) (ofs : Int)
  /-- `STROBE_LOSS_FAULT` (R15): After 1,000 consecutive boundaries without a strobe the tile raises LT_STROBE. -/
  | strobeLossFault (t : Fin 4)
  /-- `PATH_DELAY_ECHO` (R13): The echo of tile `t` measures a round trip of `ns`. -/
  | pathDelayEcho (time : Nat) (t : Fin 4) (ns : Nat)
  /-- `SYNC_RECEIVE` (R23): A PTP Sync with its follow-up updates the servo, the lock state and line time. -/
  | syncReceive (x : SyncIn)
  /-- `ANNOUNCE_RECEIVE` (R26): An Announce with the priority vector `vec` and the interval `logIvl` feeds the choice
  of the parent. -/
  | announceReceive (t : Nat) (port : Fin 2) (seq domain : Nat) (vec : List Nat) (logIvl : Int)
  /-- `SYNC_TIMEOUT` (R30): No Sync for 3 Sync intervals moves a locked device into holdover. -/
  | syncTimeout (t : Nat)
  /-- `ANNOUNCE_TIMEOUT` (R30): An Announce receipt timeout moves a locked device into holdover. -/
  | announceTimeout (t : Nat)
  /-- `HOLDOVER_LIMIT` (R30): Holdover lasting LT_HOLD.LIMIT raises LT_HOLDOVER and stops line-scope acknowledgements. -/
  | holdoverLimit (t : Nat)
  /-- `DEFERRED_STEP` (R31): A pending offset step above 1 ms is made once no port is enabled. -/
  | deferredStep (t : Nat)
  /-- `FRAME_FORWARD` (R28): The frame `f` received on port `n` is sent on by the other network port, with the PTP
  correction. -/
  | frameForward (t : Nat) (n : Fin 2) (f : FwdFrame)
  /-- `HEARTBEAT_TX` (R34): Every HB_MS the device sends a heartbeat line frame on both ports. -/
  | heartbeatTx (t : Nat)
  /-- `HEARTBEAT_RECEIVE` (R36): A heartbeat received on port `n` refreshes its source's acceptance, the version set
  and the ring keeper's return. -/
  | heartbeatReceive (t : Nat) (n : Fin 2) (h : LineHdr) (b : Heartbeat)
  /-- `HEARTBEAT_TIMEOUT` (R36): A source `src` not heard within 3 of its heartbeat intervals loses acceptance of its
  frames. -/
  | heartbeatTimeout (t : Nat) (src : Nat)
  /-- `RING_KEEPER_OPEN` (R29): The ring keeper opens its block when none of its heartbeats returns for 3 intervals. -/
  | ringKeeperOpen (t : Nat)
  /-- `VM_SAMPLES_RECEIVE` (R38): A virtual-master frame's entries are tested and accepted samples update their
  virtual masters. -/
  | vmSamplesReceive (t : Nat) (n : Fin 2) (h : LineHdr) (es : List VmEntry)
  /-- `VM_STALE` (R40): A virtual master passes its last fresh instant and starts coasting; VM_STALE is raised. -/
  | vmStale (t : Nat) (v : Fin 8)
  /-- `GR_MASTER_LOST` (R82): A master still stale after GR_CFG.COAST_MS raises GR_MASTER_LOST. -/
  | grMasterLost (t : Nat) (a : Fin 32)
  /-- `PUBLISH_SAMPLE` (R41): At each publication interval the device samples and multicasts a published channel. -/
  | publishSample (t : Nat) (n : Fin 8)
  /-- `MODE_PREPARE_FRAME` (R43): A mode prepare frame with request `id`, originator `orig`, mode, L_c and L_d is
  acknowledged or refused. -/
  | modePrepareFrame (t : Nat) (n : Fin 2) (h : LineHdr) (id orig mode lc ld : Nat)
  /-- `MODE_ACK_FRAME` (R44): A mode acknowledge frame is counted by the originator if before L_d. -/
  | modeAckFrame (t : Nat) (n : Fin 2) (h : LineHdr) (id orig result : Nat)
  /-- `MODE_DECISION_FRAME` (R45): A mode decision frame delivers commit or abort to a participating device. -/
  | modeDecisionFrame (t : Nat) (n : Fin 2) (h : LineHdr) (id orig decision : Nat)
  /-- `ACK_DEADLINE` (R45): At L_d with any unit missing the originator decides abort. -/
  | ackDeadline (t : Nat)
  /-- `COMMIT_DEADLINE` (R45): At L_c − 400 µs without an accepted MODE_COMMIT the originator decides abort. -/
  | commitDeadline (t : Nat)
  /-- `DECISION_REPEAT` (R45): Every 100 µs until L_c the originator repeats the mode decision frame. -/
  | decisionRepeat (t : Nat)
  /-- `MODE_UNDECIDED` (R46): A device that acknowledged but has no decision at L_c does not commit and flags
  MODE_UNDECIDED. -/
  | modeUndecided (t : Nat)
  /-- `MODE_OUTCOME` (R46): The originator raises the COMMITTED, MODE_ABORTED or MODE_SPLIT outcome event. -/
  | modeOutcome (t : Nat)
  /-- `STEP_PULSE` (R86): A STEP level, `high` or low with direction `dir`, has been held for `held` clocks of 5 ns
  when a glitch filter takes it; `short` are the lengths in clocks of the shorter levels before it. -/
  | stepPulse (t : Nat) (a : Fin 32) (high dir : Bool) (short : List Nat) (held : Nat)
  /-- `HOME_INPUT_CHANGE` (R85): The HOME input has the raw levels `raw` at its last filter clocks, bit 0 the latest:
  its filtered level raises HOME_ON or HOME_OFF where it changes. -/
  | homeInputChange (t : Nat) (a : Fin 32) (raw : BitVec 15)
  /-- `LIMIT_HIT` (R91): LIMN (`neg`) or LIMP goes active by its raw levels `raw` at the last filter clocks, bit 0 the
  latest, sets its lock and stops motion into it at EMERG_DECEL. -/
  | limitHit (t : Nat) (a : Fin 32) (neg : Bool) (raw : BitVec 15)
  /-- `HOMING_TIMEOUT` (R96): A homing exceeding its timeout fails with reason 4. -/
  | homingTimeout (t : Nat) (a : Fin 32)
  /-- `STALL` (R130): The stall counter reaches OB_STALL_N and a stall is declared with its reaction. -/
  | stall (t : Nat) (a : Fin 32)
  /-- `OB_SLIP` (R131): A rested stalled rotor within LMAX of whole cycles for 16 periods has its slip booked into
  q_est. -/
  | obSlip (t : Nat) (a : Fin 32)
  /-- `WEAK` (R126): Saliency below SALMIN for 256 demodulations sets WEAK and invalidates the estimate. -/
  | weak (t : Nat) (a : Fin 32)
  /-- `ESTIMATE_TIMEOUT` (R126): 64 consecutive periods without a measurement in regime 1 or 2 make the estimate
  invalid. -/
  | estimateTimeout (t : Nat) (a : Fin 32)
  /-- `COMMUTATION_EVENT` (R132): The commutation event `code` of axis `a` applies its selected output mask at its
  instant. -/
  | commutationEvent (t : Nat) (a : Fin 32) (code : Nat)
  /-- `CR_OVERRANGE` (R107): 16 consecutive windows with OVR raise CR_OVERRANGE. -/
  | crOverrange (t : Nat) (p : Fin 64)
  /-- `CR_NOSAMPLE` (R107): 3 consecutive windows without a valid sample raise CR_NOSAMPLE. -/
  | crNosample (t : Nat) (p : Fin 64)
  /-- `CARRIER_START` (R147): A new carrier begins at the pins, ending a trip and letting locked-out switches rejoin. -/
  | carrierStart (t : Nat) (p : Fin 64)
  /-- `CYCLE_TRIP` (R147): ITH, or ITL where `low`, fires by its raw output at the last filter clocks, bit 0 the
  latest, after blanking, and the port holds its high sides off for the rest of the carrier. -/
  | cycleTrip (t : Nat) (p : Fin 64) (low : Bool) (raw : BitVec 15)
  /-- `PWM_TRIP_LATCH` (R147): TRIP_CNT reaches NTRIP and the port enters LATCHED at once. -/
  | pwmTripLatch (t : Nat) (p : Fin 64)
  /-- `TRIP_CNT_CLEAR` (R147): CLEAN reaches MCLEAN and TRIP_CNT is set to 0. -/
  | tripCntClear (t : Nat) (p : Fin 64)
  /-- `SWITCH_NODE_CROSSING` (R152): The comparator SNA, or SNB where `b`, has a `rising` or falling edge at `u` (in
  units of 5/32 ns), which is attributed to a gate command. -/
  | switchNodeCrossing (u : Nat) (p : Fin 64) (b rising : Bool)
  /-- `GD_ADAPT_LIM` (R154): A code held at its limit with out-of-band measurements for 256 periods sets AT_LIMIT. -/
  | gdAdaptLim (t : Nat) (p : Fin 64)
  /-- `BOOTSTRAP_LOW` (R156): The bootstrap-low detection of leg `l` changes to `low`; a low one schedules a refresh
  pulse. -/
  | bootstrapLow (t : Nat) (p : Fin 64) (l : Fin 2) (low : Bool)
  /-- `REFRESH_PULSE` (R156): The end of a refresh pulse on leg `l` samples whether the bootstrap is `above` its
  threshold. -/
  | refreshPulse (t : Nat) (p : Fin 64) (l : Fin 2) (above : Bool)
  /-- `REFRESH_FAIL_LOCKOUT` (R157): After the fourth pulse without restoring, the high side is locked out under rank
  4. -/
  | refreshFailLockout (t : Nat) (p : Fin 64) (l : Fin 2)
  /-- `UVLO_ENTRY` (R158): The supply `x` of port `p` falls below its falling threshold and its switches are held off. -/
  | uvloEntry (t : Nat) (p : Fin 64) (x : Supply)
  /-- `UVLO_EXIT` (R159): The locked-out supply `x` of port `p` rises above its rising threshold and its switches
  rejoin at the next carrier. -/
  | uvloExit (t : Nat) (p : Fin 64) (x : Supply)
  /-- `GD_BOOT_UV` (R159): Lockout `lock` of port `p` (0 and 1 its legs, 2 VGD) lasts GD_PROT.UVTIME periods and
  raises GD_BOOT_UV or GD_VGD_UV. -/
  | gdBootUv (t : Nat) (p : Fin 64) (lock : Fin 3)
  /-- `HARD_SHORT` (R162): HSA, or HSB where `b`, fires: the high side is turned off softly within 30 ns and latched. -/
  | hardShort (t : Nat) (p : Fin 64) (b : Bool)
  /-- `DESATURATION` (R163): The desaturation comparator of switch `sw` fires by its raw output at the last filter
  clocks after blanking: its FET is turned off and latched. -/
  | desaturation (t : Nat) (p : Fin 64) (sw : Fin 4) (raw : BitVec 15)
  /-- `DIAG_STEP_END` (R170): The running off-state diagnostic step of tile `t` settles or times out with the outputs
  at `va` and `vb`. -/
  | diagStepEnd (time : Nat) (t : Fin 4) (va vb : Int)
  /-- `SELF_CHECK_STEP_END` (R179): A step of the self-check of comparator `c` ends with the sample `raw`; `normal` is
  the output of normal operation. -/
  | selfCheckStepEnd (t : Nat) (c : CmpRef) (normal raw : Bool)
  /-- `WINDOW` (R183): Window monitor `j` of tile `t` has the raw outputs `rawH` and `rawL` at the last filter clocks
  of its comparators, bit 0 the latest, raising WINDOW and possibly CMP_WINDOW. -/
  | window (time : Nat) (t : Fin 4) (j : Fin 8) (rawH rawL : BitVec 15)
  /-- `SEQ_ENTRY_TRIGGER` (R188): A trigger of sequence entry `e` is due: one conversion with the intake `raw` at the
  first free instant, or MISSED where the next trigger has come. -/
  | seqEntryTrigger (time : Nat) (t : Fin 4) (x : Fin 2) (e : Fin 32) (raw : Intake)
  /-- `CAL_SLOT_END` (R194): The calibration slot of converter `x` ends with the `gain`, in parts per million of
  nominal, and the `offset` measured, and the bandgap code `bg`. -/
  | calSlotEnd (time : Nat) (t : Fin 4) (x : Fin 2) (gain offset bg : Int)
  /-- `ADC_LOST` (R197): Three consecutive bandgap failures of the carrying converter raise ADC_LOST. -/
  | adcLost (time : Nat) (t : Fin 4)
  /-- `FGCAL_END` (R199): The foreground calibration of converter `x` ends; `cal` are the gain and offset measured in
  the slots that no CAL_SLOT_END has ended, `bg` is the bandgap code after it. -/
  | fgcalEnd (time : Nat) (t : Fin 4) (x : Fin 2) (cal : List (Int × Int)) (bg : Int)
  /-- `FORCED_YIELD` (R205): An engine run reaches its instruction or cycle budget or the boundary and is forced to
  yield. -/
  | forcedYield (e : Fin 46)
  /-- `ENG_WDOG` (R207): ENG_WDOG.N consecutive forced yields stop the engine with cause WDOG. -/
  | engWdog (e : Fin 46)
  /-- `WAIT_TIMEOUT` (R208): A WAIT's timeout in runs expires and returns event 31. -/
  | waitTimeout (e : Fin 46) (d a : Fin 16) (imm : BitVec 18)
  /-- `ENG_NOP` (R203): Engine NOP instruction does nothing. -/
  | engNop (e : Fin 46)
  /-- `ADD` (R203): Engine ADD instruction. -/
  | add (e : Fin 46) (d a b : Fin 16)
  /-- `SUB` (R203): Engine SUB instruction. -/
  | sub (e : Fin 46) (d a b : Fin 16)
  /-- `AND` (R203): Engine AND instruction. -/
  | and (e : Fin 46) (d a b : Fin 16)
  /-- `OR` (R203): Engine OR instruction. -/
  | or (e : Fin 46) (d a b : Fin 16)
  /-- `XOR` (R203): Engine XOR instruction. -/
  | xor (e : Fin 46) (d a b : Fin 16)
  /-- `SHL` (R203): Engine shift-left instruction. -/
  | shl (e : Fin 46) (d a b : Fin 16)
  /-- `SHR` (R203): Engine logical shift-right instruction. -/
  | shr (e : Fin 46) (d a b : Fin 16)
  /-- `SAR` (R203): Engine arithmetic shift-right instruction. -/
  | sar (e : Fin 46) (d a b : Fin 16)
  /-- `MUL` (R203): Engine multiply, low 32 bits. -/
  | mul (e : Fin 46) (d a b : Fin 16)
  /-- `MULH` (R203): Engine multiply, high 32 bits of the signed product. -/
  | mulh (e : Fin 46) (d a b : Fin 16)
  /-- `DIV` (R203): Engine signed division truncated towards zero. -/
  | div (e : Fin 46) (d a b : Fin 16)
  /-- `REM` (R203): Engine signed remainder. -/
  | rem (e : Fin 46) (d a b : Fin 16)
  /-- `SLTU` (R203): Engine unsigned set-less-than. -/
  | sltu (e : Fin 46) (d a b : Fin 16)
  /-- `ADDI` (R203): Engine add immediate. -/
  | addi (e : Fin 46) (d a : Fin 16) (imm : BitVec 18)
  /-- `ANDI` (R203): Engine AND immediate. -/
  | andi (e : Fin 46) (d a : Fin 16) (imm : BitVec 18)
  /-- `ORI` (R203): Engine OR immediate. -/
  | ori (e : Fin 46) (d a : Fin 16) (imm : BitVec 18)
  /-- `XORI` (R203): Engine XOR immediate. -/
  | xori (e : Fin 46) (d a : Fin 16) (imm : BitVec 18)
  /-- `SHLI` (R203): Engine shift-left by immediate. -/
  | shli (e : Fin 46) (d a : Fin 16) (imm : BitVec 18)
  /-- `SHRI` (R203): Engine logical shift-right by immediate. -/
  | shri (e : Fin 46) (d a : Fin 16) (imm : BitVec 18)
  /-- `SARI` (R203): Engine arithmetic shift-right by immediate. -/
  | sari (e : Fin 46) (d a : Fin 16) (imm : BitVec 18)
  /-- `LUI` (R203): Engine load upper immediate. -/
  | lui (e : Fin 46) (d : Fin 16) (imm : BitVec 18)
  /-- `LD` (R203): Engine load of a data-memory word. -/
  | ld (e : Fin 46) (d a : Fin 16) (imm : BitVec 18)
  /-- `ST` (R203): Engine store of a data-memory word. -/
  | st (e : Fin 46) (d a : Fin 16) (imm : BitVec 18)
  /-- `BEQ` (R203): Engine branch if equal. -/
  | beq (e : Fin 46) (a b : Fin 16) (off : BitVec 18)
  /-- `BNE` (R203): Engine branch if not equal. -/
  | bne (e : Fin 46) (a b : Fin 16) (off : BitVec 18)
  /-- `BLT` (R203): Engine branch if signed less than. -/
  | blt (e : Fin 46) (a b : Fin 16) (off : BitVec 18)
  /-- `BGE` (R203): Engine branch if signed greater or equal. -/
  | bge (e : Fin 46) (a b : Fin 16) (off : BitVec 18)
  /-- `BLTU` (R203): Engine branch if unsigned less than. -/
  | bltu (e : Fin 46) (a b : Fin 16) (off : BitVec 18)
  /-- `BGEU` (R203): Engine branch if unsigned greater or equal. -/
  | bgeu (e : Fin 46) (a b : Fin 16) (off : BitVec 18)
  /-- `JMP` (R203): Engine unconditional branch. -/
  | jmp (e : Fin 46) (off : BitVec 18)
  /-- `CALL` (R203): Engine call saving the return address in k15. -/
  | call (e : Fin 46) (off : BitVec 18)
  /-- `RET` (R203): Engine return to word k15. -/
  | ret (e : Fin 46)
  /-- `ABRD` (R211): Engine axis-bus read of a register in its windows; `cross` counts the cycles of its crossing,
  `lost` says that all its attempts failed. -/
  | abrd (e : Fin 46) (d a : Fin 16) (imm : BitVec 18) (cross : Nat) (lost : Bool)
  /-- `ABWR` (R212): Engine posted axis-bus write, landing as a software write; `lost`: all its attempts failed. -/
  | abwr (e : Fin 46) (d a : Fin 16) (imm : BitVec 18) (cross : Nat) (lost : Bool)
  /-- `ABRDP` (R211): Engine read of a _LO register with its latched _HI word; `cross` and `lost` as for ABRD. -/
  | abrdp (e : Fin 46) (d a : Fin 16) (imm : BitVec 18) (cross : Nat) (lost : Bool)
  /-- `ABWRP` (R212): Engine write of a _HI/_LO register pair that commits both halves; `lost` as for ABWR. -/
  | abwrp (e : Fin 46) (d a : Fin 16) (imm : BitVec 18) (cross : Nat) (lost : Bool)
  /-- `WAIT` (R208): Engine takes the lowest latched event in its mask or ends the run. -/
  | wait (e : Fin 46) (d a : Fin 16) (imm : BitVec 18)
  /-- `YIELD` (R205): Engine ends its run. -/
  | yield (e : Fin 46)
  /-- `ARM` (R210): Engine sets its single trigger. -/
  | arm (e : Fin 46) (d a : Fin 16) (imm : BitVec 18)
  /-- `EMIT` (R213): Engine emits a record with code 0xE000 + code. -/
  | emit (e : Fin 46) (d a b : Fin 16) (sev : BitVec 2) (code : BitVec 12)
  /-- `CMD` (R212): Engine submits a descriptor image from data memory to the hedge intake. -/
  | cmd (e : Fin 46) (d a : Fin 16) (imm : BitVec 18)
  /-- `TIME` (R203): Engine reads the line time of the current boundary. -/
  | time (e : Fin 46) (d : Fin 16) (imm : BitVec 18) (a : Fin 16)
  /-- `SIGNAL` (R213): Engine raises ENG_SIGNAL with a code and parameter. -/
  | signal (e : Fin 46) (d a : Fin 16) (imm : BitVec 18)
  /-- `REACT` (R213): Engine requests a reaction on the ladder as a fault of class ENG_REACT. -/
  | react (e : Fin 46) (d a : Fin 16) (imm : BitVec 18)
  /-- `VERDICT` (R215): Recorder filter decides the candidate as ACCEPT, DROP or MERGE. -/
  | verdict (e : Fin 46) (d a : Fin 16) (imm : BitVec 18)
  /-- `HALT` (R203): Engine stops its program with cause HALT. -/
  | halt (e : Fin 46)
  /-- `RECORD_CANDIDATE` (R326): A candidate record reaches the recorder, is merged or joins the staging FIFO, or is
  lost. -/
  | recordCandidate (t : Nat)
  /-- `RECORDER_FILTER_RUN` (R206): A recorder filter runs on a staged candidate and the accepted record enters the
  journal. -/
  | recorderFilterRun (t : Nat)
  /-- `LOST_EVENTS` (R327): At the first staging entry that frees after losses a LOST_EVENTS record is placed. -/
  | lostEvents (t : Nat)
  /-- `FLUSH_START` (R329): A requested or pending flush copies the unflushed journal records; `fs` are the failures
  of the flash that it meets. -/
  | flushStart (t : Nat) (fs : List FlashFail)
  /-- `FLUSH_END` (R329): A flush ends after its last copy is verified, updating REC_FLUSHED and starting a pending
  flush. -/
  | flushEnd (t : Nat)
  /-- `EXPORT_ENTRY` (R338): The next record of export ring `n` is read (`bad`: the bytes last read where it fails its check in 3
  reads) and written once there is room; `fs` are failures of the flash. -/
  | exportEntry (t : Nat) (c : Fin 4) (n : Fin 16) (bad : Option (List Byte)) (fs : List FlashFail)
  /-- `JOURNAL_ECC_ERROR` (R339): An uncorrectable journal error at offset `off` makes the records `unreadable`; the
  readable ones are flushed and the recorder goes to bypass. -/
  | journalEccError (t : Nat) (off : Nat) (unreadable : List Nat) (fs : List FlashFail)
  /-- `PFAIL_FALL` (R331): PFAIL_N falls for `low` ns: after a filter of 1 microsecond REC_PFAIL is written and a
  covering flush is requested. -/
  | pfailFall (t low : Nat)
  /-- `PFAIL_RISE` (R331): PFAIL_N rises again and nothing beyond the running flush changes. -/
  | pfailRise (t : Nat)
  /-- `RTC_SET` (R325): Once per second while locked the backup clock is set from PTP time. -/
  | rtcSet (t : Nat)
  /-- `VBAK_LOW` (R346): VBAK falls below its threshold and RTC_VALID clears. -/
  | vbakLow (t : Nat)
  /-- `POWER_ON_TIMER` (R272): The supplies have been good for 10 ms with RESET_N high and the device leaves OFF for
  BOOT; `vhold` says whether VHOLD is above its rising threshold too, `fs` are the flash blocks that could not be read as the
  recorder rebuilt its index. -/
  | powerOnTimer (t : Nat) (vhold : Bool) (fs : List FlashFail)
  /-- `RESET_N_FALL` (R277): RESET_N falls for `low` ns: a pulse of at least 10 microseconds holds all gate outputs
  off and takes the device to OFF. -/
  | resetNFall (t low : Nat)
  /-- `SUPPLY_LOSS` (R346): VAUX or VIO falls below its threshold, the device goes OFF and gates are held off. -/
  | supplyLoss (t : Nat)
  /-- `VHOLD_LOW` (R346): VHOLD falls below 6.0 V and the recorder island stops. -/
  | vholdLow (t : Nat)
  /-- `IMAGE_CHECKED` (R279): The boot ROM has checked the images of both slots and boots one or enters HALT;
  `readsA` and `readsB`: the page reads of the slots that failed. -/
  | imageChecked (t : Nat) (refclk drawer : Bool) (a b : BootImage) (readsA readsB : PageReads)
  /-- `IDENTITY_READ_DONE` (R286): The read of identity memory `m` of tile `t` ends after the attempts `tries`;
  `sdaLow`: SDA stayed low. -/
  | identityReadDone (time : Nat) (t : Fin 4) (m : Fin 16) (tries : List IdTry) (sdaLow : Bool)
  /-- `INVENTORY_DONE` (R272): All tiles finish inventory and start-up calibration and the device enters DIAG;
  `libBad`: the library images fail their check. -/
  | inventoryDone (t : Nat) (libBad : Bool)
  /-- `DIAG_STATE_END` (R272): Every diagnostics run of DIAG ends and the device becomes CONFIGURABLE. -/
  | diagStateEnd (t : Nat)
  /-- `REACTION_LAND` (R309): A fault reaction lands at the first boundary at least 0.5 µs after its arrival. -/
  | reactionLand (t : Nat) (a : Fin 32)
  /-- `FAULT_REPORT` (R318): The settled reaction of an episode raises FAULT_REPORT to the owning cabinet. -/
  | faultReport (t : Nat) (a : Fin 32)
  /-- `EPISODE_END` (R313): A handling episode ends once its reaction settled and its causes cleared, or as release
  rules give. -/
  | episodeEnd (t : Nat) (a : Fin 32)
  /-- `SLOT_HW_FAULT` (R302): A hardware fault `f` of part `x` starts a repair. -/
  | slotHwFault (t : Nat) (x : HwPart) (f : HwFault)
  /-- `PREVENTIVE_REPAIR` (R302): `n` corrected errors at one word of part `x` within 1 s may start a preventive
  migration. -/
  | preventiveRepair (t : Nat) (x : HwPart) (n : Nat)
  /-- `SUPERVISOR_FAULT` (R305): A stopping fault of a supervisor or filter restarts or retires it. -/
  | supervisorFault (t : Nat) (e : Fin 46)
  /-- `HOST_CRIT` (R321): A critical host-island failure records itself and moves the device to SAFE_HOLD. -/
  | hostCrit (t : Nat)
  /-- `REC_CRIT` (R321): A recorder-island failure that nothing covers moves the device to SAFE_HOLD; `fs` are
  failures of the flash in its flush. -/
  | recCrit (t : Nat) (fs : List FlashFail)
  /-- `PRIVET_SCAN_END` (R269): A privet scan of `us` microseconds ends, with the bit upsets `ups` since the last sweep or scan;
  `misread` gives, for a cabinet and a segment, by how much the computed CRC stands off that of what the registers hold, where the
  scan misread a register or had read it before its upset. -/
  | privetScanEnd (t us : Nat) (ups : List Upset) (misread : List (Fin 4 × Nat × Word))
  /-- `RESCAN_END` (R270): The rescan of the mismatching segments ends, with upsets and misreads as in a scan. -/
  | rescanEnd (t : Nat) (ups : List Upset) (misread : List (Fin 4 × Nat × Word))
  /-- `PARITY_SWEEP` (R262): The periodic sweep of tile `t` ends, with the bit upsets `ups` since the last one. -/
  | paritySweep (time : Nat) (t : Fin 4) (ups : List Upset)
  /-- `ENC_Z_EDGE` (R354): The samples of Z of QUAD port `n` up to an instant, bit 0 the latest, end in a rising edge
  after the filter, which is timestamped and raises INDEX. -/
  | encZEdge (t : Nat) (n : Fin 16) (raw : BitVec 11)
  /-- `SSI_FRAME` (R354): An SSI frame with the raw value `raw` is clocked, with the data line at its first falling
  clock edge and after its last bit; a good one updates the extended count. -/
  | ssiFrame (t : Nat) (n : Fin 16) (raw : Nat) (first last : Bool)
  /-- `ENC_SIGNAL_ERROR` (R355): An encoder signal error is counted and sets FAULT. -/
  | encSignalError (t : Nat) (n : Fin 16)
  /-- `ENC_FAULT_CLEAR` (R355): 1 ms without an encoder error clears FAULT. -/
  | encFaultClear (t : Nat) (n : Fin 16)
  /-- `NET_PORT_SELF_TEST_FAIL` (R319): A network port failing its self-test 3 times within 10 s is retired. -/
  | netPortSelfTestFail (t : Nat) (n : Fin 2)
  /-- `LIMIT_INACTIVE` (R92): LIMN (`neg`) or LIMP goes inactive by its raw levels `raw` at the last filter clocks,
  which gives homing method 2 its edge instant and lets the direction lock clear. -/
  | limitInactive (t : Nat) (a : Fin 32) (neg : Bool) (raw : BitVec 15)
  /-- `QUADRATURE_EDGE` (R354): The samples of A and B of QUAD port `n` up to an instant, bit 0 the latest: after the
  filter an edge moves the count, and edges of both at once are a signal error. -/
  | quadratureEdge (t : Nat) (n : Fin 16) (rawA rawB : BitVec 10)
  /-- `INJECTED_CONVERSION_DONE` (R190): The injected conversion of converter `x` is taken with the intake `raw`. -/
  | injectedConversionDone (time : Nat) (t : Fin 4) (x : Fin 2) (raw : Intake)
  /-- `DELAY_RESPONSE_RECEIVE` (R25): A delay response, or the last message of a peer-delay exchange, with its four
  timestamps and its correction updates the path delay. -/
  | delayResponseReceive (t : Nat) (port : Fin 2) (peer : Bool) (domain : Nat) (t1 t2 t3 t4 corr : Int)
  /-- `NETWORK_LINK_CHANGE` (R319): The link of network port `n` comes up or goes down. -/
  | networkLinkChange (t : Nat) (n : Fin 2) (up : Bool)
  /-- `PCIE_LINK_UP` (R247): The link of host port `h` comes up with its width and speed, or while it is up goes to L0 (`l0`) or,
  where the host has enabled ASPM, to L1 (R222). -/
  | pcieLinkUp (t : Nat) (h : Fin 2) (width speed : Nat) (l0 : Bool)
  /-- `UNDEFINED_OPCODE` (R204): An engine executes the word `w` with an undefined opcode, or an instruction its kind
  cannot use, and stops with cause ILLEGAL. -/
  | undefinedOpcode (e : Fin 46) (w : Word)
  /-- `SPARE_FILL_END` (R304): A spare in another hedge finishes being filled from the surviving snapshot and bulk
  copy, within 1 ms, and takes the axis over in HOLD. -/
  | spareFillEnd (t : Nat) (a : Fin 32)
  deriving DecidableEq, Repr

end Sys2Proof
end

