-- ==== Sys2Proof/Machine/State.lean ====
section
/-! DEFINITION. The state of the K3264 as plain data, and the state right after reset. Every register field lives
in the register file `regs`; the structures beside it hold what the manual gives the machine and no register
shows: exact motion, queues, counters inside rules, images, the journal. -/

namespace Sys2Proof.Machine

/-! ## Exact motion state (spec/03, spec/04, spec/05) -/

/-- Where a segment belongs in its plan: the up ramp, the cruise and the down ramp of a move (R59), the
ramps of a VELOCITY (R54), a stop ramp (R66), or rest. -/
inductive SegPhase where
  | up | cruise | down | ramp | stop | rest
  deriving DecidableEq, Repr

/-- One segment of constant jerk (R48): start instant in ns of line time, duration in ns (`none` is without
end), and the exact start values in ticks, ticks/ms, ticks/ms² and ticks/ms³. -/
structure Seg where
  start : Rat
  dur : Option Rat
  p : Rat
  v : Rat
  a : Rat
  j : Rat
  phase : SegPhase
  deriving DecidableEq, Repr

/-- The exact state of an axis at an instant: position, velocity, acceleration (R48). -/
structure Kin where
  p : Rat
  v : Rat
  a : Rat
  deriving DecidableEq, Repr

/-- The V, A, D and J a move, a ramp or a stop copied when it started, as Q32.16 codes, and whether a
descriptor field or a SET_PARAM with MOVE gave each of V, A and D, so that a bank switch keeps it (R57, R65). -/
structure Limits where
  v : Nat
  a : Nat
  d : Nat
  j : Nat
  gv : Bool
  ga : Bool
  gd : Bool
  deriving DecidableEq, Repr

/-- A banked parameter set of an axis (R46, R57): V, A, D and J as Q32.16 codes. -/
structure Bank where
  v : Nat
  a : Nat
  d : Nat
  j : Nat
  deriving DecidableEq, Repr

/-- A move that waits in the queue (R52, R53, R62). -/
structure MoveReq where
  tag : Nat
  /-- The target, or the distance while `rel`. -/
  target : Int
  /-- A relative target not yet resolved (R52). -/
  rel : Bool
  v : Option Nat
  a : Option Nat
  d : Option Nat
  j : Option Nat
  dwell : Nat
  event : Bool
  /-- A move of a homing method: it raises no MOVE_DONE. -/
  internal : Bool
  deriving DecidableEq, Repr

/-- The move in progress (R59, R61). -/
structure MoveRun where
  tag : Nat
  target : Int
  lim : Limits
  event : Bool
  internal : Bool
  /-- The end E of its last segment, in ns. -/
  endAt : Rat
  /-- The deceleration in force, a Q32.16 code: D_eff, or the raised d of R60; and whether R60 raised it. -/
  dUsed : Nat
  raised : Bool
  deriving DecidableEq, Repr

/-- What set up the stop ramp in force (R55, R63, R66). -/
inductive StopKind where
  | none | stop | estop | limit | soft | reaction | homing
  deriving DecidableEq, Repr

/-- What a boundary's changes are planned from (R63, R64): the exact state before the first of them, whether a down ramp was in
force, and what DECEL_RAISED and RAISED read then. -/
structure PlanBase where
  kin : Kin
  down : Bool
  raised : Bool
  count : Nat
  deriving DecidableEq, Repr

/-- The profile generator of an axis (R48–R69). -/
structure Profile where
  /-- The commanded position over time, oldest segment first: what was in force in the last 1 ms, then the plan in force, whose
  last segment has no end. -/
  plan : List Seg
  move : Option MoveRun
  queue : List MoveReq
  /-- The limits a VELOCITY ramp or a stop copied. -/
  lim : Limits
  /-- The exact target velocity of VELOCITY, in ticks/ms. -/
  velTarget : Rat
  stopKind : StopKind
  /-- The start instant of the next queued move, while a dwell runs (R62). -/
  dwellEnd : Option Rat
  /-- The direction of the soft limit at which the stop in progress ends, or at which the axis rests: true positive
  (R69). -/
  softDir : Option Bool
  /-- A homing has failed within the period, so that the axis stops at D at the next boundary (R96). -/
  stopDue : Bool
  /-- Once a change has landed at the last boundary: what every change of the boundary is planned from (R63, R64). -/
  base : Option PlanBase
  deriving DecidableEq, Repr

/-! ## Gearing (spec/04) -/

/-- A pending or landed engagement (R73, R74). -/
structure EngReq where
  tag : Nat
  kind : Nat
  idx : Nat
  cond : Nat
  ofsCur : Bool
  refCur : Bool
  neg : Bool
  event : Bool
  num : Int
  den : Nat
  mref : Int
  offset : Int
  value : Int
  deriving DecidableEq, Repr

/-- An armed entry (R75). -/
structure ArmEntry where
  tag : Nat
  a : Int
  num : Int
  den : Nat
  dOfs : Int
  blend : Nat
  /-- 0 positive, 1 negative, 2 either. -/
  dir : Nat
  event : Bool
  deriving DecidableEq, Repr

/-- The gear law in force (R72). -/
structure GearLaw where
  num : Int
  den : Nat
  mref : Int
  offset : Rat
  deriving DecidableEq, Repr

/-- A blend in progress (R78): the entry taken and the exact old-law value at its arm position. -/
structure BlendRun where
  entry : ArmEntry
  ga : Rat
  deriving DecidableEq, Repr

/-- A pending release (R81). -/
structure RelReq where
  tag : Nat
  cond : Nat
  halt : Bool
  neg : Bool
  event : Bool
  value : Int
  deriving DecidableEq, Repr

/-- The gearing of an axis (R70–R83). -/
structure Gear where
  engPend : Option EngReq
  relPend : Option RelReq
  kind : Nat
  idx : Nat
  law : GearLaw
  blend : Option BlendRun
  queue : List ArmEntry
  /-- Master value of the last fresh sample (R76, R82). -/
  mFresh : Int
  gPrev : Int
  pPrev : Int
  uPrev : Rat
  /-- Acceleration of the latest sample (R79). -/
  acc : Rat
  /-- The instant of the latest geared sample (R71, R79). -/
  smpAt : Nat
  limited : Bool
  /-- Largest |lag| since the GEAR_LIMITED in force. -/
  lagMax : Nat
  /-- |lag| exceeds GR_LAGMAX at the latest sample (R80). -/
  lagOver : Bool
  /-- Instant of the first stale sample of the coasting in force (R82). -/
  coastFrom : Option Nat
  /-- GR_MASTER_LOST was raised for this coasting. -/
  lost : Bool
  /-- The ends of staleness, or the losses of signal, of the master that the latest evaluation knew of (R82). -/
  seen : Nat
  deriving DecidableEq, Repr

/-! ## Step following, axis I/O and homing (spec/05) -/

/-- One accepted pulse: raw edge instant, accepted instant and q after it (R86, R88). -/
structure Pulse where
  edge : Nat
  accepted : Nat
  q : Int
  deriving DecidableEq, Repr

/-- Step following of an axis (R86–R89). -/
structure StepFollow where
  pBase : Rat
  /-- t_a of the landing values. -/
  landEdge : Int
  /-- The boundary at which the following landed, in ns. -/
  landAt : Nat
  /-- The last 8,192 pulses, newest first. -/
  pulses : List Pulse
  q : Int
  /-- The raw edge instant of the last pulse, dropped ones included (R86). -/
  lastEdge : Option Nat
  /-- The last control period that wrote the overrate record. -/
  overPeriod : Option Nat
  /-- A drain in progress: its landing boundary, EVENT and the tag. -/
  drain : Option (Nat × Bool × Nat)
  /-- The exact state of the latest sample (R88). -/
  smp : Kin
  /-- The level of STEP accepted last (R86). -/
  level : Bool
  deriving DecidableEq, Repr

/-- Axis inputs (R84, R85, R92): the instant the filters were preloaded inactive, the end of the chatter hold of HOME, LIMP and
LIMN, and p_trip of both locks. -/
structure AxisIo where
  preAt : Nat
  holdHome : Nat
  holdP : Nat
  holdN : Nat
  tripP : Rat
  tripN : Rat
  /-- A limit stop that lands at the next boundary at least 0.5 µs after this filtered change (R91). -/
  stopPend : Option Nat
  deriving DecidableEq, Repr

/-- A running homing (R93–R96). -/
structure HomeRun where
  tag : Nat
  method : Nat
  neg : Bool
  event : Bool
  encPort : Nat
  search : Nat
  creep : Nat
  value : Int
  maxDist : Nat
  timeout : Nat
  backoff : Nat
  /-- 1 search, 2 reversed search, 3 stopping, 4 creep, 5 index search, 6 back-off, 7 setting position. -/
  phase : Nat
  /-- The direction of the search in force is negative. -/
  curNeg : Bool
  startAt : Nat
  startPos : Rat
  /-- Position at which the index search began (R94, method 1). -/
  indexFrom : Rat
  ref : Option Int
  /-- What the stop in progress is followed by: the phase of the next move. -/
  nextPhase : Nat
  /-- The boundary at which HOME landed; the method begins at the next one (R216). -/
  landB : Nat
  /-- The context of the method: its registers as its start loads them, its payload and its data area, word index and
  value (R201, R216). -/
  k : Vector Word 16
  payload : Payload
  data : List (Nat × Word)
  deriving DecidableEq, Repr

/-! ## Line time and the plant network (spec/01, spec/02) -/

/-- What the last heartbeat of a source said (R34–R36). -/
structure HbSource where
  dev : Nat
  /-- The frame sequence number of that heartbeat. -/
  seq : Nat
  heardAt : Nat
  /-- Its own heartbeat interval in ns, from the two last heartbeats; the receiver's own before two are heard. -/
  interval : Nat
  /-- Version of the frame, and the line epoch it carried. -/
  ver : Nat
  maxVer : Nat
  quality : Nat
  epoch : Nat
  modes : List Nat
  reqId : Nat
  orig : Nat
  flags : Nat
  /-- Line time of transmission in the header. -/
  txTime : Nat
  /-- Frames of the source were accepted last, so that the next refusal writes a record (R36). -/
  accepted : Bool
  deriving DecidableEq, Repr

/-- A frame forwarded within the last 1 ms, for the duplicate filter (R29), with the port it came by. -/
structure DupEntry where
  port : Nat
  src : Nat
  kind : Nat
  seq : Nat
  seenAt : Nat
  deriving DecidableEq, Repr

/-- A mode request that this device originated (R42–R46). -/
structure OwnRequest where
  cab : Nat
  tag : Nat
  id : Nat
  scope : Nat
  mask : Nat
  mode : Nat
  auto : Bool
  lc : Nat
  ld : Nat
  /-- Tiles (local scope) or devices (line scope) that acknowledged. -/
  acks : List Nat
  /-- Units that refused, with the result code of R44. -/
  refusals : List (Nat × Nat)
  /-- `some true` commit, `some false` abort. -/
  decision : Option Bool
  /-- The abort was asked by the host, or the commit was asked before the last acknowledgement (R45). -/
  hostAbort : Bool
  asked : Bool
  /-- Next repeat number and the instant of the last transmission of the decision frame. -/
  repeats : Nat
  lastTx : Nat
  deriving DecidableEq, Repr

/-- A line-scope request of another device in which this device takes part (R43–R46). -/
structure PeerRequest where
  id : Nat
  orig : Nat
  mode : Nat
  lc : Nat
  acked : Bool
  decided : Bool
  deriving DecidableEq, Repr

/-- The network island (spec/02). -/
structure Net where
  /-- Consecutive Syncs with an offset below 200 ns (R23). -/
  goodSyncs : Nat
  /-- Measured path delay of each port in ns: to the grandmaster in the 1588 profile, of the link in 802.1AS (R25). -/
  pathDelay : Vector Int 2
  lastSync : Option Nat
  syncInterval : Nat
  lastAnnounce : Option Nat
  annInterval : Nat
  /-- Priority vector of the selected parent and the port it is reached through (R26): priority 1, class, accuracy,
  variance, priority 2, grandmaster identity, steps removed, sender. -/
  parent : Option (List Nat × Nat)
  /-- The first good offset of a new lock has been corrected (R31). -/
  corrected : Bool
  holdSince : Option Nat
  /-- An offset step not yet applied (R31). -/
  stepOfs : Option Int
  /-- What is still to be slewed (R31). -/
  slew : Int
  slewAt : Nat
  /-- Next frame sequence number of each line-frame type 1 to 5 (R33). -/
  txSeq : Vector Nat 5
  /-- Next sample sequence number of each published channel (R37, R41). -/
  pubSeq : Vector Nat 8
  dup : List DupEntry
  /-- Residence times of forwarded two-step Syncs whose Follow_Up is to come: source, sequence number, ns (R27). -/
  syncRes : List (Nat × Nat × Nat)
  sources : List HbSource
  lastHb : Nat
  /-- Ring keeper: instant of the last own heartbeat that returned, and consecutive returns (R29). -/
  lastReturn : Nat
  returns : Nat
  /-- The last own heartbeat has not returned yet (R29). -/
  hbOut : Bool
  own : Option OwnRequest
  /-- Requests of this device already decided and reported: their identifiers (R43). -/
  ownDone : List Nat
  peers : List PeerRequest
  undecided : Bool
  /-- Failed self-tests of each port, newest first, in ns (R319). -/
  selfTest : Vector (List Nat) 2
  retired : Vector Bool 2
  /-- Instant a port's link went down (R319). -/
  downAt : Vector (Option Nat) 2
  deriving DecidableEq, Repr

/-- A virtual master (R37–R40). -/
structure VMaster where
  /-- The last three accepted samples, newest first: line time and position. -/
  samples : List (Nat × Int)
  /-- Samples accepted since the last restart or the end of staleness, at most 3. -/
  fresh : Nat
  lastSeq : Nat
  /-- The ends of staleness (R40, R82). -/
  stales : Nat
  /-- The line of the latest coasting: t_s, the exact p_s and v_s in ticks per ns (R40, R82). -/
  coast : Option (Nat × Rat × Rat)
  deriving DecidableEq, Repr

/-! ## Host interface (spec/13) -/

/-- A descriptor as the host island fetched it (R232): its 64 bytes and its index in the ring. -/
structure RawDesc where
  index : Nat
  bytes : Vector Byte 64
  deriving DecidableEq, Repr

/-- A running trace (R244). -/
structure Trace where
  signals : List Nat
  decim : Nat
  tile : Fin 4
  /-- The boundary index of the clock tile from which captures count; `none` until it lands. -/
  startK : Option Nat
  /-- The boundary index of the latest capture. -/
  doneK : Nat
  seq : Nat
  lost : Nat
  deriving DecidableEq, Repr

/-- A running export of records (R337, R338). -/
structure Export where
  cab : Fin 4
  ring : Fin 16
  tag : Nat
  event : Bool
  drawer : Bool
  minSev : Nat
  kind : Nat
  idx : Nat
  next : Nat
  /-- Records left to export; `none` up to `last`. -/
  left : Option Nat
  last : Nat
  exported : Nat
  skipped : Nat
  lastSeq : Nat
  gap : Bool
  piece : Nat
  deriving DecidableEq, Repr

/-- What the device keeps of a ring beside its registers (R228–R246). -/
structure Ring where
  fetched : List RawDesc
  /-- Index of the next descriptor to fetch, modulo 2 × size. -/
  fetchIdx : Nat
  /-- A fetch outstanding: its descriptor count, the instant it was issued and the attempts made. -/
  fetching : Option (Nat × Nat × Nat)
  /-- Completion slots reserved (R239). -/
  reserved : Nat
  /-- Descriptors accepted whose completion is not written, oldest first: index, target kind, target. -/
  open_ : List (Nat × Nat × Nat)
  /-- Decided completions that wait for earlier ones of the same ring and target (R233): descriptor, status,
  landing line time. -/
  waitCpl : List (Desc × Nat × Nat)
  /-- Accepted descriptors on their way to their hedge, oldest first (R236). -/
  toRoute : List Desc
  /-- Setting EN again while the ring drains (R231). -/
  reEnable : Bool
  /-- The instant of the last signalled interrupt request, and a request held (R245). -/
  lastIrq : Option Nat
  irqHeld : Bool
  trace : Option Trace
  /-- The image of the PROG_LOAD at the head is being read: the attempts made; and the image once read (R218, R246). -/
  imgRead : Option Nat
  img : List Byte
  deriving DecidableEq, Repr

/-- An MSI-X vector in BAR4 (R222, R245): its table entry, whose vector control holds the mask bit, and its pending bit. -/
structure MsixVec where
  addrLo : Word
  addrHi : Word
  data : Word
  masked : Bool
  pending : Bool
  deriving DecidableEq, Repr

/-- A cabinet (spec/13). -/
structure Cabinet where
  rings : Vector Ring 16
  vecs : Vector MsixVec 8
  /-- The instant of the last doorbell taken, and the doorbells held, newest first (R229). -/
  dbLast : Option Nat
  dbHeld : List (Nat × Nat)
  /-- The instant the watchdog was last restarted (R247). -/
  wdogAt : Nat
  /-- Events lost since the last EVENTS_LOST (R242). -/
  evLost : Nat
  /-- The next ring to serve (R235). -/
  turn : Nat
  /-- Descriptors routed with the cabinet as target that wait for an earlier one of their ring to land, oldest first, with the
  instant each reached its hedge (R235). -/
  waiting : List (Nat × Desc)
  deriving DecidableEq, Repr

/-- A completion entry (R237). -/
structure Completion where
  opcode : Nat
  ver : Nat
  kind : Nat
  phase : Bool
  status : Nat
  tag : Nat
  ring : Nat
  target : Nat
  flags : Nat
  index : Nat
  land : Nat
  accept : Nat
  deriving DecidableEq, Repr

/-- An event entry (R240). -/
structure Event where
  code : Nat
  sev : Nat
  phase : Bool
  kind : Nat
  idx : Nat
  tag : Nat
  time : Nat
  seq : Nat
  params : List Nat
  deriving DecidableEq, Repr

/-- A trace entry (R244). -/
structure TraceEntry where
  time : Nat
  seq : Nat
  gap : Bool
  phase : Bool
  lost : Nat
  values : List Word
  deriving DecidableEq, Repr

/-! ## Records (spec/18) -/

/-- A candidate or a record (R322, R323): a variable record has a body. -/
structure Record where
  code : RecCode
  sev : Nat
  tq : Nat
  kind : Nat
  idx : Nat
  seq : Nat
  secs : Nat
  frac : Nat
  params : List Nat
  rep : Nat
  body : List Byte
  /-- Emitted by a recorder filter, so that no filter runs on it (R206). -/
  fromFilter : Bool
  deriving DecidableEq, Repr

/-- An export entry (R338). -/
structure ExportEntry where
  bytes : List Byte
  seq : Nat
  piece : Nat
  pieces : Nat
  isOpen : Bool
  gap : Bool
  bad : Bool
  drawer : Bool
  phase : Bool
  time : Nat
  deriving DecidableEq, Repr

/-- A record in the journal (R326, R329). -/
structure JRec where
  record : Record
  /-- Not yet read by a flush, so that merges are taken (R326). -/
  isOpen : Bool
  flushed : Bool
  deriving DecidableEq, Repr

/-- A candidate in the staging FIFO, and the recorder filter that runs on it (R206, R326). -/
structure Staged where
  record : Record
  filter : Option (Fin 46)
  deriving DecidableEq, Repr

/-- One erase block of the armoire that holds records of one severity, oldest first (R333). -/
structure ArmBlock where
  sev : Nat
  recs : List Record
  deriving DecidableEq, Repr

/-- A flush that runs (R329): the sequence numbers it copies, and the blocks of the logs and the erased blocks as they were before
it, for a reset that cuts it short. -/
structure FlushRun where
  seqs : List Nat
  before : List ArmBlock
  erased : Nat
  deriving DecidableEq, Repr

/-- The recorder island (spec/18). -/
structure Recorder where
  /-- Candidates on their way to the recorder island, oldest first. -/
  transit : List Record
  /-- The staging FIFO, oldest first (R326). -/
  staging : List Staged
  /-- The journal, oldest first (R329). -/
  journal : List JRec
  /-- Losses since the last LOST_EVENTS: number, highest severity, code, kind and index of the first (R327). -/
  lost : Option (Nat × Nat × RecCode × Nat × Nat)
  /-- An entry of the staging FIFO has become free since, which LOST_EVENTS takes (R327). -/
  lostFree : Bool
  /-- The running flush (R329). -/
  flush : Option FlushRun
  /-- The blocks of the logs, oldest first, and the erased blocks left (R333). -/
  armoire : List ArmBlock
  erased : Nat
  /-- Consecutive block failures (R339). -/
  blockFails : Nat
  /-- Records torn by a reset and not yet reported by REC_START (R328, R335). -/
  torn : Nat
  /-- The self-failure area, oldest first (R340). -/
  drawer : List Record
  exports : List Export
  /-- Backup clock (R325): calendar time in units of 2^-15 s at an instant of the device's own time. -/
  rtc : Option (Nat × Nat)
  /-- A lookup of the register window in progress: sequence number, area and piece (R336). -/
  lookup : Option (Nat × Nat × Nat)
  deriving DecidableEq, Repr

/-! ## Faults (spec/17) -/

/-- A reaction on its way to its landing boundary (R309). -/
structure PendRx where
  cls : Nat
  rx : Nat
  arrival : Nat
  scope : Nat
  scopeIdx : Nat
  detail : Nat
  deriving DecidableEq, Repr

/-- A fault of an episode, whose cause may persist: its class, reaction, scope code, unit index and detail (R313). -/
structure FaultMark where
  cls : Nat
  rx : Nat
  scope : Nat
  idx : Nat
  detail : Nat
  deriving DecidableEq, Repr

/-- The handling episode of an axis (R311–R318), beside MP_FLT_STAT. -/
structure Episode where
  firstAt : Nat
  detail : Nat
  /-- Faults recorded in the episode. -/
  count : Nat
  /-- Highest severity recorded. -/
  sev : Nat
  /-- Class and scope of the fault that set the reaction in force. -/
  scope : Nat
  scopeIdx : Nat
  landAt : Nat
  pend : List PendRx
  /-- The faults of the episode, newest first (R313). -/
  classes : List FaultMark
  /-- The faults of an episode that ended with both ports OFF, until the axis is enabled again (R313). -/
  past : List FaultMark
  /-- A report of the reaction in force was raised (R318). -/
  reported : Bool
  deriving DecidableEq, Repr

/-! ## Current loop, observer and PWM (spec/06, spec/07, spec/08) -/

/-- A conversion: its code and its flags OVR and SETTLE (R193). -/
structure Sample where
  code : Int
  ovr : Bool
  settle : Bool
  deriving DecidableEq, Repr

/-- The current loop of a port (R106–R115), beside CR_MEAS (i_m), CR_REF (i_ref in force), CR_DUTY (d and m
latched for the next period) and CR_INTEG (s). -/
structure Loop where
  /-- i_ref, e_bemf (1/256 mV) and u_inj (mV) of the next period, as the slot results brought them (step 6). -/
  refNext : Int
  bemfNext : Int
  injNext : Int
  /-- i_m of the period before the latest (R122). -/
  imPrev : Int
  /-- Raw errors of the last periods, newest first, at most 4 (R115). -/
  errs : List Int
  /-- d and m (0–256) in force in the running period. -/
  dNow : Int
  mNow : Nat
  /-- u was clamped for the duty in force, and for the duty latched (R110, R120). -/
  clampNow : Bool
  clampNext : Bool
  /-- Consecutive windows with OVR and consecutive windows without a sample (R107), and whether the fault of
  the run was raised. -/
  ovrRun : Nat
  noRun : Nat
  ovrRaised : Bool
  noRaised : Bool
  /-- The events of the running period that hold the integrator (R110). -/
  tripped : Bool
  masked : Bool
  heldOff : Bool
  /-- The running period's results were missed, and consecutive missed periods (R18). -/
  missed : Bool
  missRun : Nat
  /-- The bridge-voltage reads of the period before the latest, in their order (R116). -/
  bridgeLast : List Sample
  deriving DecidableEq, Repr

/-- One tracking loop (R123): position in 1/65,536 tick and speed as a Q32.16 code. -/
structure Estimate where
  q : Int
  w : Int
  deriving DecidableEq, Repr

/-- One period of injection readings of an axis (R120, R121): the pattern values applied and the rise r of
both coils, `none` where invalid. -/
structure Rise where
  cA : Int
  cB : Int
  rA : Option Int
  rB : Option Int
  deriving DecidableEq, Repr

/-- The observer of an axis (R116–R132), beside its registers. -/
structure Observer where
  inj : Estimate
  bemf : Estimate
  /-- The published estimate q_est in 1/65,536 tick and speed w. -/
  est : Estimate
  /-- δ of a running blend and the periods left (R125). -/
  blend : Int
  blendLeft : Nat
  /-- Consecutive periods without a measurement (R126). -/
  noMeas : Nat
  weakRun : Nat
  okRun : Nat
  /-- Stall counter (R130). -/
  stallCnt : Nat
  /-- Consecutive periods near n whole cycles, and n (R131). -/
  slipRun : Nat
  slipN : Int
  /-- The last readings, newest first, at most 4. -/
  rises : List Rise
  /-- The pattern applied in the running period, in units of VINJ. -/
  patA : Int
  patB : Int
  injOn : Bool
  /-- Periods since the last injected one, up to 5 (R119). -/
  injTail : Nat
  /-- ofs of ENCODER mode in ticks (R128). -/
  encOfs : Rat
  /-- Load angle and corr in ticks. -/
  lambda : Int
  corr : Int
  /-- q_out in ticks. -/
  qOut : Int
  /-- θ of the running period, kept in HOLD (R97). -/
  theta : Nat
  /-- The first measurement since STANDSTILL was entered from DISABLED is still awaited (R121). -/
  first : Bool
  /-- A stall declared in step 3, whose mask event and reaction are due (R130, R132). -/
  stallDue : Bool
  /-- The BRAKE level in force (R132). -/
  brake : Bool
  /-- Predicted zero crossings of the next period: event code and instant in ns. -/
  crossings : List (Nat × Nat)
  /-- The last measured e_A and e_B, in mV (R129). -/
  eA : Rat
  eB : Rat
  /-- The run of periods without a measurement has made the estimate invalid (R126). -/
  timedOut : Bool
  /-- The extended encoder count latched at the last boundary (R116, R128). -/
  encLatch : Int
  /-- The samples of the running period did not reach the slot (R10). -/
  lostSamples : Bool
  deriving DecidableEq, Repr

/-- A change of a switch at the gate pins (R149): instant in ns, switch 0–3 (GHA, GLA, GHB, GLB), on or off, the source or sink
code used, and its current in mA (R150). -/
structure PinEdge where
  time : Rat
  sw : Nat
  on : Bool
  code : Nat
  ma : Nat
  deriving DecidableEq, Repr

/-- A mask selection (R148): its instant at the timebase, 0 for PWM_MASKSEL or one more than the code of a commutation event, and
the mask. -/
structure MaskSel where
  time : Rat
  rank : Nat
  mask : Nat
  deriving DecidableEq, Repr

/-- Where an emitted interval stands: about its own centre, or with one end held at a valley (R138, R140). -/
inductive Anchor where
  | centre | startAt | endAt
  deriving DecidableEq, Repr

/-- A pulse of a leg as the schedule asks for it: the carrier it lies in, the start and the length of its high interval, and which end
is held (R138–R141). -/
structure Planned where
  carrier : Nat
  x0 : Rat
  h : Nat
  anchor : Anchor
  deriving DecidableEq, Repr

/-- What the edge generator keeps of a leg (R137–R141), beside PWM_CARRY. -/
structure LegGen where
  /-- Emitted commanded high intervals at the timebase, in ns of line time, the latest first; the running and the
  previous port period are kept. -/
  high : List (Rat × Rat)
  /-- The end half of the running port period that waits for the start half of the next, in 156.25 ps units (R138). -/
  endHalf : Nat
  /-- The end half before the next valley was decided alone (R138). -/
  alone : Bool
  /-- The leg is valley placed in the running port period, and the first port period of a RUN has been built. -/
  valley : Bool
  built : Bool
  /-- The pulses of the running port period that wait for the instant of their turn-on, in their order (R138). -/
  planned : List Planned
  deriving DecidableEq, Repr

/-- The edge generator of a port (R135–R149), beside its registers. Vectors over legs run A, B. -/
structure Pwm where
  leg : Vector LegGen 2
  /-- The port period at the pins has counted a trip, and its index (R147). -/
  tripSeen : Bool
  carK : Nat
  /-- Mask selections, the latest first (R148). -/
  masks : List MaskSel
  /-- Refresh pulses: leg and port valley at the timebase, the latest first (R156). -/
  pulses : List (Nat × Rat)
  /-- The line time up to which the pins below have been followed. -/
  pinAt : Rat
  /-- The side of each leg that is on at the pins: 0 none, 1 low, 2 high (R149). -/
  on : Vector Nat 2
  /-- The instant at which each switch turned off last, for the DT that the other switch of its leg waits (R149). -/
  offs : Vector (Option Rat) 4
  /-- Changes at the pins, the latest first. -/
  edges : List PinEdge
  /-- The drive codes and the instant of the timebase from which each governs, the latest first (R153). -/
  codes : List (Rat × Nat)
  /-- The port valley of the running tile period while it is to come (R135). -/
  valleyAt : Option Nat
  /-- What that valley brings to the pins has been carried out. -/
  valleyDone : Bool
  /-- What lands at that valley: an entry to OFF, a selection of PWM_MASKSEL (R145, R148), and what PWM_STAT.SKEW shows of the port
  period that it begins (R143); and the clamp has acted in the running port period (R140). -/
  offDue : Bool
  selDue : Bool
  clampSeen : Bool
  skewNext : Bool
  /-- The port valley at which RUN ended by an entry to OFF, until the carrier has ended at the pins (R145). -/
  tail : Option Rat
  deriving DecidableEq, Repr

/-! ## Gate drive, comparators and converters (spec/09, spec/10, spec/11) -/

/-- The gate drive of a port, beside GD_STAT, GD_ACODE and GD_TSW. Vectors over switches run GHA, GLA, GHB,
GLB; vectors over legs run A, B. -/
structure GateDrive where
  /-- Measurements of the running port period: turn-on and turn-off t_sw of each switch, in 156.25 ps units. -/
  tOn : Vector (Option Nat) 4
  tOff : Vector (Option Nat) 4
  /-- A crossing of the leg was not attributed in this period, so that NOEDGE counts once (R152). -/
  noEdge : Vector Bool 2
  /-- Consecutive measured periods at a limit out of band, for the eight codes (R154). -/
  limRun : Vector Nat 8
  /-- The codes that set AT_LIMIT and have had no measurement within the band since (R154). -/
  atLim : Vector Bool 8
  /-- The FREEZE value in force, and the one that the last boundary brought for the port period it begins (R153). -/
  freeze : Bool
  freezeNext : Bool
  /-- A refresh pulse scheduled: the port period index it belongs to (R156). -/
  refreshAt : Vector (Option Nat) 2
  /-- Consecutive pulses without restoring (R157), and a pulse inserted whose sample is to come (R156). -/
  refreshRun : Vector Nat 2
  pulseDue : Vector Bool 2
  /-- The lockouts of each high side that are in force: bootstrap below 7.0 V, refresh failed (R158). -/
  uvBoot : Vector Bool 2
  uvRefresh : Vector Bool 2
  /-- Switches whose lockout ended and that wait for the next carrier (R159). -/
  rejoin : Vector Bool 4
  /-- Port valleys since the lockouts of bootstrap A, bootstrap B and VGD began, and whether the fault of each was raised
  (R159). -/
  uvRun : Vector Nat 3
  uvFault : Vector Bool 3
  /-- A hard short has latched a switch in this RUN episode (R110, R164). -/
  shortLatch : Bool
  deriving DecidableEq, Repr

/-- A running off-state diagnostics run of a tile (R169–R171). -/
structure DiagRun where
  /-- `none` for the automatic run of the DIAG state. -/
  cab : Option (Fin 4)
  tag : Nat
  event : Bool
  /-- Tile ports still to test, ascending; the head is under test at `step`. -/
  ports : List Nat
  step : Nat
  deriving DecidableEq, Repr

/-- A DIAG_OFFSTATE request over the device (R171). -/
structure DiagReq where
  cab : Option (Fin 4)
  tag : Nat
  event : Bool
  left : List Nat
  passed : List Nat
  failed : List Nat
  deriving DecidableEq, Repr

/-- A running self-check of one comparator (R179): the step, the attempt, the normal-order sample and
whether step 1 was undetermined. -/
structure CmpCheck where
  step : Nat
  attempt : Nat
  normal : Bool
  undet : Bool
  bad : Bool
  deriving DecidableEq, Repr

/-- The window monitors of a tile (R178–R183): for the 16 comparators 2j (H) and 2j + 1 (L) the filtered
output, UNKNOWN, RETIRED, the check running and its last result. -/
structure Windows where
  out : Vector Bool 16
  unknown : Vector Bool 16
  retired : Vector Bool 16
  check : Vector (Option CmpCheck) 16
  res : Vector Nat 16
  /-- The instant until which each monitor raises nothing after a reconfiguration (R178). -/
  quiet : Vector Nat 8
  /-- The FAILSAFE fault of the monitor was raised (R183). -/
  failed : Vector Bool 8
  /-- The instant at which the filter of each comparator was preloaded (R178). -/
  preAt : Vector Nat 16
  /-- The state of each monitor at its latest evaluation, from which a change is reported (R183). -/
  seen : Vector Nat 8
  deriving DecidableEq, Repr

/-- A sinc filter of a sequence entry (R191, R192): the integrators, the comb delays, the inputs since the
landing, the previous input, and the numbers of the inputs that carried OVR and SETTLE, the latest first. -/
structure Sinc where
  acc : List Int
  comb : List Int
  n : Nat
  prev : Int
  ovrAt : List Nat
  settleAt : List Nat
  deriving DecidableEq, Repr

/-- What takes a converter, in the order of priority of R186. -/
inductive Taker where
  | window | burst | injected | bridge | shared | entry
  deriving DecidableEq, Repr

/-- A converter is taken for a conversion or a group, from an instant up to another on the timebase of line time in units of
156.25 ps (R184); the port or the entry, and whether a group was displaced (R187). -/
structure Taken where
  conv : Fin 2
  start : Nat
  stop : Nat
  taker : Taker
  idx : Nat
  shifted : Bool
  deriving DecidableEq, Repr

/-- A converter (R184–R199), beside its registers. -/
structure Converter where
  sinc : Vector Sinc 32
  /-- The boundary at which the configuration of each entry landed, and the scheduled instant of its latest trigger that gave a
  conversion or was missed, in units of 156.25 ps (R188, R189). -/
  landed : Vector Nat 32
  served : Vector Nat 32
  /-- The injected conversion is pending, with its channel and the instant at which it is taken (R190). -/
  injPend : Option (Nat × Nat)
  /-- Gain in parts per million of nominal and offset in codes of the stages 1–11 and of the spare (R194). -/
  gain : Vector Int 12
  offset : Vector Int 12
  /-- The calibration slot 0–15 and the attempts made in it (R194, R195). -/
  slot : Nat
  attempts : Nat
  /-- Foreground calibration: its end instant once started (R199). -/
  fgEnd : Option Nat
  /-- A foreground calibration that starts at the next boundary (R199). -/
  fgDefer : Bool
  fgCab : Option (Fin 4)
  fgTag : Nat
  fgEvent : Bool
  /-- The bandgap reference code of R194. -/
  bgRef : Int
  /-- Consecutive bandgap failures while carrying (R197). -/
  bgFail : Nat
  /-- The ADC_LOST of the run was raised (R197). -/
  lostRaised : Bool
  /-- The stage retired in the bottom drawer (R195). -/
  lostStages : Nat
  /-- The converter retires at the next boundary (R195, R197). -/
  retireDue : Bool
  /-- What the foreground calibration in progress has found: 0 nothing, 1 a stage or the spare lost, 2 the converter lost (R199). -/
  found : Nat
  /-- Gain, offset and bandgap reference as they were when the foreground calibration in progress began (R199). -/
  prior : Option (Vector Int 12 × Vector Int 12 × Int)
  /-- The instants of the over-range samples of the last two periods, in units of 156.25 ps (R193). -/
  overs : List Nat
  deriving DecidableEq, Repr

/-! ## Program engines (spec/12) -/

/-- An image of an engine (R217): words, entry and initial data. -/
structure Image where
  valid : Bool
  /-- Library identifier, or 0xFFFF for an image from host memory. -/
  id : Nat
  words : List Word
  entry : Nat
  data : List Word
  deriving DecidableEq, Repr

/-- The trigger of an engine (R210): condition 0–4, value, axis, the runs started since the ARM, and whether the last boundary met
it. -/
structure Trigger where
  cond : Nat
  value : Nat
  axis : Nat
  runs : Nat
  met : Bool
  deriving DecidableEq, Repr

/-- A swap or a restart consumed and not yet landed (R220). -/
structure SwapReq where
  restart : Bool
  keep : Bool
  arg : Word
  desc : Desc
  deriving DecidableEq, Repr

/-- An engine (R200–R221), beside its registers. -/
structure Engine where
  img : Vector Image 2
  /-- The data memory of each image: word index and value, where it is not 0. -/
  data : Vector (List (Nat × Word)) 2
  k : Vector Word 16
  /-- Parameters of the latched events (R208), and the latch as sampled at the last boundary. -/
  params : Vector (BitVec 64) 17
  sampled : BitVec 17
  /-- The parameters sampled with it, and the events that have occurred since (R208). -/
  sampledP : Vector (BitVec 64) 17
  since : BitVec 17
  /-- Runs left of the timeout of the WAIT that is executing (R208). -/
  waitLeft : Option Nat
  trig : Option Trigger
  /-- A run is in progress, its instructions and cycles. -/
  running : Bool
  count : Nat
  cycles : Nat
  /-- The cycles of the run at which its posted writes complete (R212). -/
  posted : List Nat
  /-- Writes to slot parameters that land at the next boundary, the oldest first (R20). -/
  due : List (Nat × Word)
  /-- Consecutive runs that ended in a forced yield (R207). -/
  forced : Nat
  /-- Commands without completion, and the identifier of the most recent CMD (R212). -/
  cmds : Nat
  lastCmd : Nat
  swap : Option SwapReq
  /-- A homing has ended at the running boundary, so that the resident program resumes at the next one, and the
  resident STATE to resume (R216). -/
  homePend : Bool
  resume : Nat
  /-- The start argument in k5 of the latest program start (R201). -/
  startArg : Option Word
  /-- Restarts of a supervisor after stopping faults (R305). -/
  restarts : Nat
  deriving DecidableEq, Repr

/-! ## Axes, ports, tiles, encoders -/

/-- A migration or repair of an axis in progress (R294–R304), beside MP_PLACE and MP_MIG_TGT. -/
structure Migration where
  /-- The cabinet and tag of the MIGRATE, and EVENT. -/
  cab : Fin 4
  tag : Nat
  event : Bool
  /-- The parts that move. -/
  slot : Bool
  eng : Bool
  /-- The device's own repair: no MIGRATE_DONE, and the old part is retired at the fence (R299, R303). -/
  repair : Bool
  /-- Boundaries since the capture at boundary k; `none` before it. -/
  phase : Option Nat
  /-- Pre-copy has ended (R295). -/
  copied : Bool
  /-- Compared periods that matched in this attempt (R297). -/
  matched : Nat
  /-- The axis was DISABLED at the last boundary (R300, R301). -/
  idle : Bool
  /-- The boundaries left to the fence of a snapshot repair, or of a take-over (R301, R303). -/
  fenceIn : Option Nat
  /-- A spare is being filled for an axis in HOLD (R304). -/
  fill : Bool
  /-- A function-level reset of the cabinet discarded its MIGRATE_DONE (R301). -/
  mute : Bool
  deriving DecidableEq, Repr

/-- The contents of a topiary buffer (R98, R101): nothing accepted yet, a table of the library by identifier, or the
entries w[0]–w[1023] of a table from host memory. -/
inductive Table where
  | empty
  | library (id : Nat)
  | data (w : List Nat)
  deriving DecidableEq, Repr

/-- An axis (spec/03–spec/07, spec/16, spec/17), beside its registers. -/
structure Axis where
  prof : Profile
  gear : Gear
  sf : StepFollow
  io : AxisIo
  home : Option HomeRun
  obs : Observer
  bank : Vector Bank 4
  /-- The two topiary buffers; CR_TAB.ACTIVE_BUF names the one in use (R101). -/
  table : Vector Table 2
  ep : Episode
  /-- The descriptor intake (R234), oldest first, with the instant each reached the hedge. -/
  intake : List (Nat × Desc)
  mig : Option Migration
  /-- Parts in use by the axis against which a fault is raised that asks for a preventive repair (R298, R302). -/
  faulty : List HwPart
  /-- The boundary of the latest fence, if there was one, and that of the latest PROG_SWAP that landed (R294, R299). -/
  fenceAt : Option Nat
  swapAt : Option Nat
  /-- Rated motor current in mA of the motor record, if there is one (R103, R287). -/
  rated : Option Nat
  /-- Steps per revolution of the motor record, 200 without one (R94). -/
  spr : Nat
  deriving DecidableEq, Repr

/-- A bridge port, beside its registers. -/
structure Port where
  loop : Loop
  pwm : Pwm
  gd : GateDrive
  /-- Self-checks of the ten port comparators (R179) and the attempt results. -/
  check : Vector (Option CmpCheck) 10
  /-- The instant at which the filter of each comparator was preloaded (R178). -/
  preAt : Vector Nat 10
  deriving DecidableEq, Repr

/-- A mode request as a tile holds it (R42–R46). -/
structure TileMode where
  mode : Nat
  /-- The line-time instant at which it lands once committed. -/
  lc : Nat
  committed : Bool
  deriving DecidableEq, Repr

/-- A tile with its hedge, beside its registers. -/
structure Tile where
  /-- The boundary index and the line time of the last boundary (R13). -/
  k : Nat
  lastB : Nat
  /-- A strobe has been received, so that the tile has a valid period. -/
  seen : Bool
  /-- A strobe arrived for the running period, and consecutive boundaries without one (R15). -/
  strobe : Bool
  missRun : Nat
  /-- Measured path delay of the strobe in ns. -/
  pathDelay : Nat
  /-- The LT_STROBE fault of the run was raised. -/
  strobeFault : Bool
  /-- A strobe further off than 50 ns realigns the tile at the next boundary. -/
  realign : Bool
  mode : Option TileMode
  /-- The load-alls requested: the line time from which each applies (R142). -/
  loadAll : List Nat
  diag : Option DiagRun
  /-- Descriptors with a cabinet target that land at the next boundary of this tile: traces on its clock and swaps
  of its supervisor, with the instant each reached the hedge. -/
  intake : List (Nat × Desc)
  win : Windows
  conv : Vector Converter 2
  /-- What takes the converters in the running and the ended period (R186). -/
  taken : List Taken
  /-- BAR0 offsets of registers whose parity failed and that were not yet written (R264). -/
  parBad : List Nat
  /-- vbus_mv of the latest period (R109). -/
  vbusLast : Rat
  /-- A comparison of the latest period mismatched, so that its samples are not valid for R109. -/
  vbusBad : Bool
  /-- The virtual masters as held when step 3 of the running period began (R39). -/
  vms : Vector VMaster 8
  /-- The extended counts latched at the last boundary (R70, R74). -/
  encX : Vector Int 16
  /-- The last two good counts of each encoder port at the boundaries of the tile, newest first (R82). -/
  encGood : Vector (List (Nat × Int)) 16
  /-- What a period of the tile found is being carried out: the boundary that ends the period (R309). -/
  closing : Option Nat
  /-- Step 1 of a boundary is being carried out. -/
  stepping : Bool
  deriving DecidableEq, Repr

/-- An encoder port, beside its registers (R354, R355). -/
structure Encoder where
  /-- The levels of A and B after the filter. -/
  a : Bool
  b : Bool
  /-- The extended count X. -/
  x : Int
  /-- The last raw frame or count the extension follows. -/
  last : Int
  /-- A good SSI frame has come since MODE left OFF. -/
  good : Bool
  /-- The instant of the latest signal error. -/
  lastErr : Nat
  /-- The timestamp of the latest Z edge. -/
  zAt : Option Nat
  /-- How often the signal has been lost (R82). -/
  losses : Nat
  /-- The latch instant of the latest SSI frame, at which it began (R354). -/
  frameAt : Option Nat
  deriving DecidableEq, Repr

/-- What the device as a whole keeps beside its registers (spec/15, spec/16, spec/18, spec/19). -/
structure Device where
  /-- The pins. -/
  resetN : Bool
  pfailN : Bool
  /-- VAUX and VIO stand above their thresholds, and VHOLD does (R346). -/
  supplies : Bool
  vhold : Bool
  /-- The images that the device wrote to slots A and B; `none` for one as it was before (R278, R281, R306). -/
  slotA : Option BootImage
  slotB : Option BootImage
  /-- The fused public key of the bottom drawer (R279). -/
  key : Nat × Nat
  /-- The attempts made of the read of a recovery image or of an update in progress (R246). -/
  readTries : Nat
  /-- A firmware update in progress: SETPREF, and a re-check of the image already in the slot (R306). -/
  fwup : Option (Bool × Bool)
  /-- Bottom drawer: preferred slot B, minimum security version. -/
  pref : Bool
  minSvn : Nat
  /-- Slots retired and axis engines retired until RESET_N. -/
  slotRet : List Nat
  engRet : List Nat
  /-- Supervisors and recorder filters retired until RESET_N (R320). -/
  supRet : List Nat
  /-- Transients that no counter register of the manual counts (R319). -/
  transients : Nat
  /-- Per cabinet and segment: by how much the reference stands off the CRC of the register values, once a scan has given a
  new reference (R267, R268), and whether the segment awaits a new reference. -/
  upset : Vector (Vector Word 5) 4
  awaitRef : Vector (Vector Bool 5) 4
  /-- Armed by a CFG_COMMIT and awaiting the scan that sets the reference (R268). -/
  newRef : Vector (Vector Bool 5) 4
  diagReq : List DiagReq
  /-- The line time at which RESET_N was released; it moves with every step of line time (R325). -/
  relAt : Int
  /-- The next cabinet to serve (R235). -/
  turn : Nat
  deriving DecidableEq, Repr

/-! ## What the block sends -/

/-- An entry a ring receives. -/
inductive Entry where
  | completion (c : Completion)
  | event (e : Event)
  | trace (t : TraceEntry)
  | exported (x : ExportEntry)
  deriving DecidableEq, Repr

/-- What the block sends outside, in order of occurrence, the latest first. -/
inductive Out where
  /-- The status of an accepted descriptor was decided: the completion of R237 without its ring position. -/
  | status (cab : Nat) (ring : Nat) (tag : Nat) (opcode : Nat) (target : Nat) (status : Nat) (flags : Nat) (land : Nat)
  /-- One 64-byte memory write: cabinet, ring, host address, entry (R228). -/
  | entry (cab ring addr : Nat) (e : Entry)
  /-- An MSI-X message of a vector of a function (R245). -/
  | msix (cab vec : Nat)
  /-- A read of host memory: address, bytes (R235). -/
  | read (cab ring addr bytes : Nat)
  /-- Reads of at most 512 bytes each that take an image from host memory: address, bytes (R218, R222, R281, R306). -/
  | imageRead (cab addr bytes : Nat)
  /-- A host access completed as an unsupported request, and a read completed with Completer Abort (R223, R251, R255). -/
  | unsupported (cab : Nat)
  | abort (cab : Nat)
  /-- An identity bus is freed: 9 SCL pulses and a STOP (R286). -/
  | freeBus (tile : Nat)
  /-- A line frame or a forwarded frame on an Ethernet port: kind, sequence number, PCP and VID of the 802.1Q tag a line
  frame of the device's own carries (R33), and its fields. -/
  | frame (port kind seq : Nat) (vlan : Option (Nat × Nat)) (fields : List Int)
  /-- READY and FAULT_N (R271). -/
  | pins (ready faultN : Bool)
  deriving DecidableEq, Repr

/-- A half of a _HI and _LO pair that waits for its _LO write: who wrote it, the _HI offset and the value. -/
structure HeldHi where
  by_ : Writer
  addr : Nat
  value : Word
  deriving DecidableEq, Repr

/-- The state of the block. -/
structure State where
  /-- The commands that wait, the front first. -/
  pending : List Instr
  /-- The device's line time in ns (R22). -/
  now : Nat
  /-- The model's own counter of free values. -/
  freeCtr : Nat
  /-- The register file: BAR0 offset and value, strictly rising, no entry equal to the reset value. For an rs
  field it holds the shadow (R256). -/
  regs : List (Nat × Word)
  /-- The values in force of registers with rs fields, in the same form (R256). -/
  inForce : List (Nat × Word)
  /-- Shadow values that a write in the last tile clock of a period must not hand to the next apply (R20, R261):
  offset and the previous shadow. -/
  late : List (Nat × Word)
  /-- Offsets of port rs registers written since the last apply (R143, R148). -/
  written : List Nat
  held : List HeldHi
  axes : Vector Axis 32
  ports : Vector Port 64
  tiles : Vector Tile 4
  engines : Vector Engine 46
  encs : Vector Encoder 16
  net : Net
  vms : Vector VMaster 8
  cabs : Vector Cabinet 4
  recorder : Recorder
  dev : Device
  /-- What the block sent, the latest first. -/
  out : List Out
  deriving DecidableEq, Repr


/-! ## Why a step stops -/

/-- Why a step faults. No command of this block faults: every effect the manual gives leads to a next state. The
one constructor is kept so that the type is inhabited; nothing raises it (safe). -/
inductive Fault where
  /-- Raised by nothing (safe). -/
  | none
  deriving DecidableEq, Repr

/-- Why a step refuses. -/
inductive Refusal where
  /-- Raised by an arm of `exec` whose command has no meaning yet (safe: the run ends). -/
  | notModelled (mnemonic : String)
  deriving DecidableEq, Repr

/-! ## The state right after reset -/

/-- An axis at rest at position 0. -/
def Seg.rest0 : Seg := ⟨0, none, 0, 0, 0, 0, .rest⟩

def Limits.zero : Limits := ⟨0, 0, 0, 0, false, false, false⟩

/-- The profile at reset: DISABLED at position 0 (R50, R51). -/
def Profile.init : Profile := ⟨[Seg.rest0], none, [], Limits.zero, 0, .none, none, none, false, none⟩

def Gear.init : Gear :=
  ⟨none, none, 0, 0, ⟨0, 1, 0, 0⟩, none, [], 0, 0, 0, 0, 0, 0, false, 0, false, none, false, 0⟩

def StepFollow.init : StepFollow := ⟨0, 0, 0, [], 0, none, none, none, ⟨0, 0, 0⟩, false⟩

def AxisIo.init : AxisIo := ⟨0, 0, 0, 0, 0, 0, none⟩

def Observer.init : Observer :=
  ⟨⟨0, 0⟩, ⟨0, 0⟩, ⟨0, 0⟩, 0, 0, 0, 0, 0, 0, 0, 0, [], 0, 0, false, 5, 0, 0, 0, 0, 0, true, false, false, [], 0, 0, false, 0, false⟩

/-- The reset values of V, A, D and J (MP_PV, MP_PA, MP_PD, MP_PJ). -/
def Bank.init : Bank := ⟨65536 * 65536, 65536 * 65536, 65536 * 65536, 0⟩

def Episode.init : Episode := ⟨0, 0, 0, 0, 0, 0, 0, [], [], [], false⟩

def Axis.init : Axis :=
  ⟨Profile.init, Gear.init, StepFollow.init, AxisIo.init, none, Observer.init, Vector.replicate 4 Bank.init,
    #v[.library 0, .empty], Episode.init, [], none, [], none, none, none, 200⟩

def Loop.init : Loop := ⟨0, 0, 0, 0, [], 0, 256, false, false, 0, 0, false, false, false, false, false, false, 0, []⟩

def LegGen.init : LegGen := ⟨[], 0, false, false, false, []⟩

def Pwm.init : Pwm :=
  ⟨Vector.replicate 2 LegGen.init, false, 0, [], [], 0, Vector.replicate 2 0, Vector.replicate 4 none, [], [], none, false,
    false, false, false, false, none⟩

def GateDrive.init : GateDrive :=
  ⟨Vector.replicate 4 none, Vector.replicate 4 none, Vector.replicate 2 false, Vector.replicate 8 0, Vector.replicate 8 false,
    false, false, Vector.replicate 2 none, Vector.replicate 2 0, Vector.replicate 2 false, Vector.replicate 2 false, Vector.replicate 2 false,
    Vector.replicate 4 false, Vector.replicate 3 0, Vector.replicate 3 false, false⟩

def Port.init : Port := ⟨Loop.init, Pwm.init, GateDrive.init, Vector.replicate 10 none, Vector.replicate 10 0⟩

/-- The window monitors after power-up or RESET_N: every comparator is preloaded inactive and, since its hysteresis is 10 mV, UNKNOWN
(R178). -/
def Windows.init : Windows :=
  ⟨Vector.replicate 16 false, Vector.replicate 16 true, Vector.replicate 16 false, Vector.replicate 16 none,
    Vector.replicate 16 0, Vector.replicate 8 0, Vector.replicate 8 false, Vector.replicate 16 0, Vector.replicate 8 0⟩

def Sinc.init : Sinc := ⟨[], [], 0, 0, [], []⟩

def Converter.init : Converter :=
  ⟨Vector.replicate 32 Sinc.init, Vector.replicate 32 0, Vector.replicate 32 0, none, Vector.replicate 12 1000000,
    Vector.replicate 12 0, 0, 0, none, false, none, 0, false, 0, 0, false, 0, false, 0, none, []⟩

def VMaster.init : VMaster := ⟨[], 0, 0, 0, none⟩

def Tile.init : Tile :=
  ⟨0, 0, false, false, 0, 0, false, false, none, [], none, [], Windows.init, Vector.replicate 2 Converter.init, [], [], 0, false,
    Vector.replicate 8 VMaster.init, Vector.replicate 16 0, Vector.replicate 16 [], none, false⟩

def Image.empty : Image := ⟨false, 0, [], 0, []⟩

def Engine.init : Engine :=
  ⟨Vector.replicate 2 Image.empty, Vector.replicate 2 [], Vector.replicate 16 0, Vector.replicate 17 0, 0,
    Vector.replicate 17 0, 0, none, none, false, 0, 0, [], [], 0, 0, 0, none, false, 0, none, 0⟩

def Encoder.init : Encoder := ⟨false, false, 0, 0, false, 0, none, 0, none⟩

def Net.init : Net :=
  ⟨0, Vector.replicate 2 0, none, 0, none, 0, none, false, none, none, 0, 0, Vector.replicate 5 0, Vector.replicate 8 0, [], [], [],
    0, 0, 0, false, none, [], [], false,
    Vector.replicate 2 [], Vector.replicate 2 false, Vector.replicate 2 none⟩

def Ring.init : Ring := ⟨[], 0, none, 0, [], [], [], false, none, false, none, none, []⟩

/-- Vectors are masked after reset, as PCI Express gives for MSI-X (PRESUMED). -/
def Cabinet.init : Cabinet :=
  ⟨Vector.replicate 16 Ring.init, Vector.replicate 8 ⟨0, 0, 0, true, false⟩, none, [], 0, 0, 0, []⟩

/-- Nothing is stored, every block of the armoire is erased (DESIGN CHOICE: a new flash). -/
def Recorder.init : Recorder := ⟨[], [], [], none, false, none, [], 24576, 0, 0, [], [], none, none⟩

/-- The bottom drawer holds slot A and minimum security version 0 (DESIGN CHOICE). -/
def Device.init : Device :=
  ⟨true, true, true, true, none, none, Config.fusedKey, 0, none, false, 0, [], [], [], 0,
    Vector.replicate 4 (Vector.replicate 5 0), Vector.replicate 4 (Vector.replicate 5 false),
    Vector.replicate 4 (Vector.replicate 5 false), [], 0, 0⟩

/-- The machine right after the release of RESET_N: state BOOT, every axis DISABLED, every gate output off, every
register at its reset value (R271, R272, R276). -/
def State.reset : State where
  pending := []
  now := 0
  freeCtr := 0
  regs := []
  inForce := []
  late := []
  written := []
  held := []
  axes := Vector.replicate 32 Axis.init
  ports := Vector.replicate 64 Port.init
  tiles := Vector.replicate 4 Tile.init
  engines := Vector.replicate 46 Engine.init
  encs := Vector.replicate 16 Encoder.init
  net := Net.init
  vms := Vector.replicate 8 VMaster.init
  cabs := Vector.replicate 4 Cabinet.init
  recorder := Recorder.init
  dev := Device.init
  out := []

end Sys2Proof.Machine
end

