-- ==== Sys2Proof/Machine/Operands.lean ====
section
/-! DEFINITION. Operand forms: little-endian fields of a descriptor payload (R232), register fields, two's
complement and Q32.16 readings (Notation of spec/00), and the exact arithmetic that several chapters share. -/

namespace Sys2Proof.Machine

/-! ## Signed readings and saturation -/

/-- The low `w` bits of `n` as a two's complement number. -/
def signedOf (w n : Nat) : Int :=
  let m := n % 2 ^ w
  if m < 2 ^ (w - 1) then (m : Int) else (m : Int) - (2 : Int) ^ w

/-- A number as `w` bits of two's complement. -/
def toBits (w : Nat) (x : Int) : Nat := (x % (2 : Int) ^ w).toNat

/-- A number wrapped to `w` bits of two's complement. -/
def wrapInt (w : Nat) (x : Int) : Int := signedOf w (toBits w x)

/-- A number held within two bounds. -/
def clampInt (lo hi x : Int) : Int := if x < lo then lo else if hi < x then hi else x

/-- A signed 32-bit value that saturates. -/
def sat32 (x : Int) : Int := clampInt (-2147483648) 2147483647 x

/-- Rounding half up of a rational to an integer. -/
def roundHalfUp (q : Rat) : Int := (q + 1 / 2).floor

/-- Rounding half away from zero. -/
def roundHalfAway (q : Rat) : Int := if q < 0 then -((-q + 1 / 2).floor) else (q + 1 / 2).floor

/-- Truncation towards zero. -/
def truncRat (q : Rat) : Int := if q < 0 then -((-q).floor) else q.floor

def ratAbs (q : Rat) : Rat := if q < 0 then -q else q
def ratMin (p q : Rat) : Rat := if p ≤ q then p else q
def ratMax (p q : Rat) : Rat := if p ≤ q then q else p
def ratSign (q : Rat) : Rat := if q < 0 then -1 else if q = 0 then 0 else 1

/-- The least natural number not below a rational. -/
def ceilNat (q : Rat) : Nat := (-((-q).floor)).toNat

/-- A Q32.16 code as the exact number it stands for (spec/00, Notation). -/
def q16 (code : Int) : Rat := (code : Rat) / 65536

/-- Bit by bit integer square root: `isqrtGo b r n` tries the bits below `b` on the root `r`. -/
def isqrtGo : Nat → Nat → Nat → Nat
  | 0, r, _ => r
  | b + 1, r, n =>
    let c := r + 2 ^ b
    if c * c ≤ n then isqrtGo b c n else isqrtGo b r n

/-- The largest natural number whose square is at most `n`. -/
def isqrt (n : Nat) : Nat := isqrtGo (n.log2 / 2 + 1) 0 n

/-! ## Sine and the default table (R101) -/

/-- π to 40 decimal places. -/
def piQ : Rat := 31415926535897932384626433832795028841972 / 10000000000000000000000000000000000000000

/-- The terms of the sine series from term `n` on, `k` of them: `t` is the current term. -/
def sinTerms (x2 : Rat) : Nat → Nat → Rat → Rat
  | 0, _, _ => 0
  | k + 1, n, t => t + sinTerms x2 k (n + 1) (-(t * x2) / ((2 * n + 2) * (2 * n + 3) : Nat))

/-- The sine of an angle of at most a quarter turn, to far more places than any rounding here needs. -/
def sinQ (x : Rat) : Rat := sinTerms (x * x) 14 0 x

/-- Entry `i` of the default sine table: round_half_away(65,535 × sin(π × i / 2,048)) (R101). -/
def sineEntry (i : Nat) : Nat := (roundHalfAway (65535 * sinQ (piQ * i / 2048))).toNat

/-- Entry `i` of a topiary buffer; the point 1,024 is 65,535 (R98). An empty buffer reads 0. -/
def Table.entry (t : Table) (i : Nat) : Nat :=
  if i = 1024 then 65535
  else match t with
    | .empty => 0
    | .library 0 => sineEntry i
    | .library n => (Config.libraryTable n i).toNat
    | .data w => w.getD i 0

/-! ## Angles (R121, R122, R129) -/

/-- One in the fixed-point format of the trigonometry: 96 fraction bits. -/
def fxOne : Int := 79228162514264337593543950336

def fxMul (a b : Int) : Int := a * b / fxOne

/-- The tangent of half an angle from the tangent of the angle. -/
def fxHalve (z : Int) : Int := z * fxOne / (fxOne + isqrt (fxOne * fxOne + z * z).toNat)

/-- The terms of the arctangent series, `k` of them, from the power `t` of the odd exponent `n`. -/
def atanTerms (z2 : Int) : Nat → Int → Int → Int
  | 0, _, _ => 0
  | k + 1, n, t => t / n + atanTerms z2 k (n + 2) (-(fxMul t z2))

/-- The arctangent of a number from 0 to 1, in radians. -/
def atanQ (q : Rat) : Rat :=
  let z := fxHalve (fxHalve (q * fxOne).floor)
  (4 * atanTerms (fxMul z z) 24 1 z : Int) / (fxOne : Rat)

/-- The angle of a vector in turns, from 0 up to 1; the vector is not null. -/
def atan2Turn (y x : Rat) : Rat :=
  let ax := ratAbs x
  let ay := ratAbs y
  let first : Rat := if ay ≤ ax then atanQ (ay / ax) / (2 * piQ) else 1 / 4 - atanQ (ax / ay) / (2 * piQ)
  if 0 ≤ x then if 0 ≤ y then first else (if first = 0 then 0 else 1 - first)
  else if 0 ≤ y then 1 / 2 - first else 1 / 2 + first

/-- The sine of an angle in units of 1/262,144 turn. -/
def sinTick (th : Rat) : Rat :=
  let m := th - (262144 * (th / 262144).floor : Int)
  let h := if m < 131072 then m else m - 131072
  let f := if h ≤ 65536 then h else 131072 - h
  let x := ((piQ * f / 131072) * fxOne).floor
  let v : Rat := (go (fxMul x x) 16 1 x : Int) / (fxOne : Rat)
  if m < 131072 then v else -v
where
  go (x2 : Int) : Nat → Int → Int → Int
    | 0, _, _ => 0
    | k + 1, n, t => t + go x2 k (n + 2) (-(fxMul t x2 / ((n + 1) * (n + 2))))

def cosTick (th : Rat) : Rat := sinTick (th + 65536)

/-- A value wrapped to the half-open range of ±131,072 ticks, in units of a tick (R123). -/
def wrapHalf (x : Rat) : Rat := x - (262144 * ((x + 131072) / 262144).floor : Int)

/-! ## Payload bytes -/

/-- Byte `i` of a payload, 0 beyond its end. Descriptor byte 16 is payload byte 0. -/
def payByte (p : Payload) (i : Nat) : Nat := (p.toArray.getD i 0).toNat

/-- `n` little-endian bytes from byte `i`. -/
def payLE (p : Payload) (i : Nat) : Nat → Nat
  | 0 => 0
  | n + 1 => payByte p i + 256 * payLE p (i + 1) n

def pay16 (p : Payload) (i : Nat) : Nat := payLE p i 2
def pay32 (p : Payload) (i : Nat) : Nat := payLE p i 4
def pay64 (p : Payload) (i : Nat) : Nat := payLE p i 8
/-- A signed 64-bit field. -/
def payI64 (p : Payload) (i : Nat) : Int := signedOf 64 (pay64 p i)
/-- A signed 32-bit field. -/
def payI32 (p : Payload) (i : Nat) : Int := signedOf 32 (pay32 p i)
/-- A 48-bit magnitude, a Q32.16 code. -/
def pay48 (p : Payload) (i : Nat) : Nat := payLE p i 6
/-- A signed Q32.16 code of 48 bits. -/
def payI48 (p : Payload) (i : Nat) : Int := signedOf 48 (pay48 p i)
/-- Bit `b` of byte `i`. -/
def payBit (p : Payload) (i b : Nat) : Bool := (payByte p i).testBit b
/-- Every byte from `i` up to, but not including, `j` is zero. -/
def payZero (p : Payload) (i j : Nat) : Bool := (List.range (j - i)).all fun n => payByte p (i + n) == 0

/-- A payload of zeros but for the bytes given. -/
def payloadOf (l : List Nat) : Payload := Vector.ofFn fun i => BitVec.ofNat 8 (l.getD i.1 0)

/-- `n` little-endian bytes of a number. -/
def leBytes (x : Nat) : Nat → List Byte
  | 0 => []
  | n + 1 => BitVec.ofNat 8 x :: leBytes (x / 256) n

/-- The number that little-endian bytes spell. -/
def leNat : List Byte → Nat
  | [] => 0
  | b :: bs => b.toNat + 256 * leNat bs

/-! ## Register fields -/

/-- The bits of a field, in place. -/
def Fld.mask (f : Fld) : Word := BitVec.ofNat 32 (2 ^ f.width - 1) <<< f.lo

/-- The value of a field of a word. -/
def Fld.get (f : Fld) (v : Word) : Nat := ((v >>> f.lo) &&& BitVec.ofNat 32 (2 ^ f.width - 1)).toNat

/-- A word with a field replaced by the low bits of a number. -/
def Fld.put (f : Fld) (v : Word) (x : Nat) : Word :=
  (v &&& ~~~f.mask) ||| ((BitVec.ofNat 32 x <<< f.lo) &&& f.mask)

/-! ## Cyclic redundancy checks -/

/-- One step of CRC-16 with polynomial 0x1021 (R284, R322). -/
def crc16Bit (c : Nat) : Nat := if c.testBit 15 then (c * 2 % 65536) ^^^ 0x1021 else c * 2 % 65536

def crc16Byte (c : Nat) (b : Byte) : Nat :=
  crc16Bit (crc16Bit (crc16Bit (crc16Bit (crc16Bit (crc16Bit (crc16Bit (crc16Bit (c ^^^ (b.toNat * 256)))))))))

/-- CRC-16, initial value 0xFFFF, no reflection, no final XOR (R284). -/
def crc16 (bs : List Byte) : Nat := bs.foldl crc16Byte 0xFFFF

/-- One step of reflected CRC-32C, polynomial 0x1EDC_6F41 (R266). -/
def crc32Bit (c : Nat) : Nat := if c.testBit 0 then (c / 2) ^^^ 0x82F63B78 else c / 2

def crc32Byte (c : Nat) (b : Byte) : Nat :=
  crc32Bit (crc32Bit (crc32Bit (crc32Bit (crc32Bit (crc32Bit (crc32Bit (crc32Bit (c ^^^ b.toNat))))))))

/-- CRC-32C, initial value and final XOR 0xFFFF_FFFF (R266). -/
def crc32c (bs : List Byte) : Nat := (bs.foldl crc32Byte 0xFFFFFFFF) ^^^ 0xFFFFFFFF

end Sys2Proof.Machine
end

