-- ==== Sys2Proof/Machine/Ops.lean ====
section
/-! DEFINITION. The named operations every command shares: the register file, counters, ownership, event latches
of the engines, records, ring entries, interrupts, events, completions, and raising a fault. -/

namespace Sys2Proof.Machine

/-! ## Sparse register files -/

/-- The value listed for an address. -/
def cellGet : List (Nat × Word) → Nat → Option Word
  | [], _ => none
  | c :: cs, a => if c.1 = a then some c.2 else cellGet cs a

/-- A list without the entry of an address. -/
def cellErase : List (Nat × Word) → Nat → List (Nat × Word)
  | [], _ => []
  | c :: cs, a => if c.1 = a then cellErase cs a else c :: cellErase cs a

/-- An entry put in its place in a rising list. -/
def cellInsert : List (Nat × Word) → Nat → Word → List (Nat × Word)
  | [], a, v => [(a, v)]
  | c :: cs, a, v => if a < c.1 then (a, v) :: c :: cs else c :: cellInsert cs a v

/-- The value of a register: the one listed, or the reset value. -/
def fileGet (l : List (Nat × Word)) (a : Nat) : Word := (cellGet l a).getD (regReset a)

/-- A register written; the canonical form is kept, so that writing the reset value removes the entry. -/
def fileSet (l : List (Nat × Word)) (a : Nat) (v : Word) : List (Nat × Word) :=
  if v = regReset a then cellErase l a else cellInsert (cellErase l a) a v

/-- The canonical form: addresses strictly rising. -/
def fileSorted : List (Nat × Word) → Bool
  | [] => true
  | [_] => true
  | c :: d :: cs => decide (c.1 < d.1) && fileSorted (d :: cs)

/-- The canonical form of a register file: addresses strictly rising and no entry equal to the reset value. -/
def fileWf (l : List (Nat × Word)) : Bool := fileSorted l && l.all fun c => c.2 != regReset c.1

/-! ## Registers of a state -/

/-- The register at a BAR0 offset. For an rs register this is the shadow. -/
def State.reg (s : State) (a : Nat) : Word := fileGet s.regs a

/-- A register set by the device. -/
def State.setReg (s : State) (a : Nat) (v : Word) : State := { s with regs := fileSet s.regs a v }

/-- A field of a register. -/
def State.fld (s : State) (a : Nat) (f : Fld) : Nat := f.get (s.reg a)

/-- A one-bit field. -/
def State.bit (s : State) (a : Nat) (f : Fld) : Bool := s.fld a f != 0

/-- A field read as two's complement. -/
def State.fldI (s : State) (a : Nat) (f : Fld) : Int := signedOf f.width (s.fld a f)

/-- A field set by the device. -/
def State.setFld (s : State) (a : Nat) (f : Fld) (x : Nat) : State := s.setReg a (f.put (s.reg a) x)

/-- A one-bit field set by the device. -/
def State.setBit (s : State) (a : Nat) (f : Fld) (b : Bool) : State := s.setFld a f (if b then 1 else 0)

/-- A two's complement field set by the device. -/
def State.setFldI (s : State) (a : Nat) (f : Fld) (x : Int) : State := s.setFld a f (toBits f.width x)

/-- A counter that saturates counts `n` (R260). -/
def State.countN (s : State) (a : Nat) (f : Fld) (n : Nat) : State :=
  s.setFld a f (min (s.fld a f + n) (2 ^ f.width - 1))

/-- A counter that saturates counts once (R260). -/
def State.count (s : State) (a : Nat) (f : Fld) : State := s.countN a f 1

/-- A counter-class peak field (R260, R261). -/
def State.peak (s : State) (a : Nat) (f : Fld) (x : Nat) : State :=
  if s.fld a f < x then s.setFld a f (min x (2 ^ f.width - 1)) else s

/-- A _LO and _HI pair at `lo` and `lo + 4`. -/
def State.pair (s : State) (lo : Nat) : Nat := (s.reg lo).toNat + 4294967296 * (s.reg (lo + 4)).toNat

/-- A pair as a signed number. -/
def State.pairI (s : State) (lo : Nat) : Int := signedOf 64 (s.pair lo)

/-- A pair set by the device. -/
def State.setPair (s : State) (lo : Nat) (x : Int) : State :=
  (s.setReg lo (BitVec.ofNat 32 (toBits 64 x))).setReg (lo + 4) (BitVec.ofNat 32 (toBits 64 x / 4294967296))

/-- The value in force of a register with rs fields (R256). -/
def State.force (s : State) (a : Nat) : Word := fileGet s.inForce a

/-- A field in force. -/
def State.forceFld (s : State) (a : Nat) (f : Fld) : Nat := f.get (s.force a)

def State.forceBit (s : State) (a : Nat) (f : Fld) : Bool := s.forceFld a f != 0

/-- A value put in force. -/
def State.setForce (s : State) (a : Nat) (v : Word) : State := { s with inForce := fileSet s.inForce a v }

/-! ## Parts of a state -/

def State.axis (s : State) (a : Fin 32) : Axis := s.axes[a]
def State.setAxis (s : State) (a : Fin 32) (x : Axis) : State := { s with axes := s.axes.set a.1 x }
def State.modAxis (s : State) (a : Fin 32) (f : Axis → Axis) : State := s.setAxis a (f (s.axis a))

def State.port (s : State) (p : Fin 64) : Port := s.ports[p]
def State.setPort (s : State) (p : Fin 64) (x : Port) : State := { s with ports := s.ports.set p.1 x }
def State.modPort (s : State) (p : Fin 64) (f : Port → Port) : State := s.setPort p (f (s.port p))

def State.tile (s : State) (t : Fin 4) : Tile := s.tiles[t]
def State.setTile (s : State) (t : Fin 4) (x : Tile) : State := { s with tiles := s.tiles.set t.1 x }
def State.modTile (s : State) (t : Fin 4) (f : Tile → Tile) : State := s.setTile t (f (s.tile t))

def State.eng (s : State) (e : Fin 46) : Engine := s.engines[e]
def State.setEng (s : State) (e : Fin 46) (x : Engine) : State := { s with engines := s.engines.set e.1 x }
def State.modEng (s : State) (e : Fin 46) (f : Engine → Engine) : State := s.setEng e (f (s.eng e))

def State.cab (s : State) (c : Fin 4) : Cabinet := s.cabs[c]
def State.setCab (s : State) (c : Fin 4) (x : Cabinet) : State := { s with cabs := s.cabs.set c.1 x }
def State.modCab (s : State) (c : Fin 4) (f : Cabinet → Cabinet) : State := s.setCab c (f (s.cab c))

def State.ring (s : State) (c : Fin 4) (n : Fin 16) : Ring := (s.cab c).rings[n]
def State.modRing (s : State) (c : Fin 4) (n : Fin 16) (f : Ring → Ring) : State :=
  s.modCab c fun x => { x with rings := x.rings.set n.1 (f x.rings[n]) }

def State.enc (s : State) (n : Fin 16) : Encoder := s.encs[n]
def State.modEnc (s : State) (n : Fin 16) (f : Encoder → Encoder) : State :=
  { s with encs := s.encs.set n.1 (f (s.enc n)) }

def State.vm (s : State) (v : Fin 8) : VMaster := s.vms[v]
def State.modVm (s : State) (v : Fin 8) (f : VMaster → VMaster) : State :=
  { s with vms := s.vms.set v.1 (f (s.vm v)) }

def State.modNet (s : State) (f : Net → Net) : State := { s with net := f s.net }
def State.modRec (s : State) (f : Recorder → Recorder) : State := { s with recorder := f s.recorder }
def State.modDev (s : State) (f : Device → Device) : State := { s with dev := f s.dev }

/-- Line time is set. -/
def State.setNow (s : State) (t : Nat) : State := { s with now := t }

/-- The late shadow writes are replaced (R20, R261). -/
def State.setLate (s : State) (l : List (Nat × Word)) : State := { s with late := l }

/-- The list of port registers written since the last apply is replaced (R143). -/
def State.setWritten (s : State) (l : List Nat) : State := { s with written := l }

/-- The held halves of register pairs are replaced. -/
def State.setHeld (s : State) (l : List HeldHi) : State := { s with held := l }

/-- Something the block sends. -/
def State.emit (s : State) (o : Out) : State := { s with out := o :: s.out }

/-- A transient that no counter register of the manual counts (R319). -/
def State.transient (s : State) : State := s.modDev fun x => { x with transients := x.transients + 1 }

/-- Line time has reached `t`; it never runs backwards but by a step of R31. -/
def State.reach (s : State) (t : Nat) : State := s.setNow (max s.now t)

/-- The device's own time since the release of RESET_N in ns: line time less the instant of release, which moves
with every step of line time (R31). Durations are measured in it. -/
def State.up (s : State) : Nat := ((s.now : Int) - s.dev.relAt).toNat

/-- A step done only where a condition holds. -/
def State.onlyIf (s : State) (c : Bool) (f : State → State) : State := if c then f s else s

/-- A fresh index of the free values. -/
def State.fresh (s : State) : State := { s with freeCtr := s.freeCtr + 1 }

/-! ## Hierarchy and ownership (R3–R5, R224, R225) -/

def finAx (n : Nat) : Fin 32 := Fin.ofNat 32 n
def finPort (n : Nat) : Fin 64 := Fin.ofNat 64 n
def finTile (n : Nat) : Fin 4 := Fin.ofNat 4 n
def finEng (n : Nat) : Fin 46 := Fin.ofNat 46 n
def finCab (n : Nat) : Fin 4 := Fin.ofNat 4 n
def finRing (n : Nat) : Fin 16 := Fin.ofNat 16 n

/-- The tile of an axis (R4). -/
def tileOf (a : Fin 32) : Fin 4 := finTile (a.1 / 8)

/-- The tile of a device port (R3). -/
def tileOfPort (p : Fin 64) : Fin 4 := finTile (p.1 / 16)

/-- Device port P of tile-local port p (R3). -/
def devPort (t : Fin 4) (p : Nat) : Fin 64 := finPort (16 * t.1 + p % 16)

/-- The port that carries phase A (or B) of an axis (R4). -/
def State.portOf (s : State) (a : Fin 32) (phaseB : Bool) : Fin 64 :=
  let t := tileOf a
  devPort t (if phaseB then s.fld (CFG_XBAR_B t) (CFG_XBAR_B_PORT (a.1 % 8))
    else s.fld (CFG_XBAR_A t) (CFG_XBAR_A_PORT (a.1 % 8)))

/-- The axis that the crossbar maps to a port, and whether the port carries its phase B (R4). -/
def State.axisOfPort (s : State) (p : Fin 64) : Option (Fin 32 × Bool) :=
  let t := tileOfPort p
  let cand := (List.range 8).map fun i => finAx (8 * t.1 + i)
  match cand.find? (fun a => s.portOf a false = p) with
  | some a => some (a, false)
  | none =>
    match cand.find? (fun a => s.portOf a true = p) with
    | some a => some (a, true)
    | none => none

/-- The other port of the axis of a port. -/
def State.partner (s : State) (p : Fin 64) : Option (Fin 64) :=
  (s.axisOfPort p).map fun x => s.portOf x.1 (!x.2)

/-- The cabinet that owns an axis (R224). -/
def State.ownerAx (s : State) (a : Fin 32) : Fin 4 :=
  finCab (s.fld (HIF_OWN_AX (a.1 / 16)) (HIF_OWN_AX_CAB (a.1 % 16)))

/-- The cabinet that owns a port: that of the axis mapped to it, cabinet 0 without one (R224). -/
def State.ownerPort (s : State) (p : Fin 64) : Fin 4 :=
  match s.axisOfPort p with
  | some x => s.ownerAx x.1
  | none => 0

/-- The tile owner (R224). -/
def State.ownerTile (s : State) (t : Fin 4) : Fin 4 := finCab (s.fld HIF_OWN_TILE (HIF_OWN_TILE_TILE t.1))

/-- The axes of a tile. -/
def tileAxes (t : Fin 4) : List (Fin 32) := (List.range 8).map fun i => finAx (8 * t.1 + i)

/-- The ports of a tile. -/
def tilePorts (t : Fin 4) : List (Fin 64) := (List.range 16).map fun i => devPort t i

def allAxes : List (Fin 32) := (List.range 32).map finAx
def allPorts : List (Fin 64) := (List.range 64).map finPort
def allTiles : List (Fin 4) := [0, 1, 2, 3]
def allEngs : List (Fin 46) := (List.range 46).map finEng
def allCabs : List (Fin 4) := [0, 1, 2, 3]

/-- Bit i of a list of truth values. -/
def bitsOf : List Bool → Nat
  | [] => 0
  | b :: bs => (if b then 1 else 0) + 2 * bitsOf bs

/-- HIF_CAB_AXES: the axes a cabinet owns (R224). -/
def State.cabAxes (s : State) (c : Fin 4) : Nat := bitsOf (allAxes.map fun a => s.ownerAx a = c)

/-- The slot and the axis engine in use by an axis (R5). -/
def State.slotOf (s : State) (a : Fin 32) : Nat := s.fld (MP_PLACE a) MP_PLACE_SLOT
def State.engOf (s : State) (a : Fin 32) : Fin 46 := finEng (s.fld (MP_PLACE a) MP_PLACE_ENGINE)

/-- The axis an axis engine serves, if any. -/
def State.axisOfEng (s : State) (e : Fin 46) : Option (Fin 32) :=
  let a := s.fld (ENG_STAT e) ENG_STAT_AXIS
  if e.1 < 40 ∧ a < 32 then some (finAx a) else none

/-- The hedges an axis belongs to: those of its tile, its slot and its engine, and of a migration's destination
(R12). -/
def State.inHedge (s : State) (a : Fin 32) (h : Fin 4) : Bool :=
  tileOf a = h || s.slotOf a / 9 = h.1 || (s.engOf a).1 / 10 = h.1 ||
  (s.fld (MP_MIG_TGT a) MP_MIG_TGT_DSLOT < 36 && s.fld (MP_MIG_TGT a) MP_MIG_TGT_DSLOT / 9 = h.1) ||
  (s.fld (MP_MIG_TGT a) MP_MIG_TGT_DENG < 40 && s.fld (MP_MIG_TGT a) MP_MIG_TGT_DENG / 10 = h.1)

/-! ## The axis and port states other chapters ask for -/

/-- MP_STAT.STATE (R50). -/
def State.axState (s : State) (a : Fin 32) : Nat := s.fld (MP_STAT a) MP_STAT_STATE

def axDISABLED : Nat := 0
def axSTANDSTILL : Nat := 1
def axPOSITION : Nat := 2
def axVELOCITY : Nat := 3
def axGEARED : Nat := 4
def axSTEPFOLLOW : Nat := 5
def axSTOPPING : Nat := 6
def axHOLD : Nat := 7

/-- PWM_STAT of a device port. -/
def pwmStat (p : Fin 64) : Nat := PWM_STAT (p.1 / 16) (p.1 % 16)

/-- PWM_STAT.STATE (R144). -/
def State.portState (s : State) (p : Fin 64) : Nat := s.fld (pwmStat p) PWM_STAT_STATE

def pOFF : Nat := 0
def pARMED : Nat := 1
def pRUN : Nat := 2
def pREFUSED : Nat := 3
def pLATCHED : Nat := 4
def pPROTECTED : Nat := 5

def State.setPortState (s : State) (p : Fin 64) (x : Nat) : State := s.setFld (pwmStat p) PWM_STAT_STATE x

/-- The port valley has come at which an entry to OFF lands. -/
def State.offLanded (s : State) (p : Fin 64) : Bool :=
  (s.port p).pwm.offDue && (match (s.port p).pwm.valleyAt with | some v => decide (v ≤ s.now) | none => false)

/-- A port is enabled while it is not OFF. -/
def State.portOn (s : State) (p : Fin 64) : Bool := s.portState p != pOFF && !s.offLanded p

/-- Both ports of an axis are in a state. -/
def State.bothPorts (s : State) (a : Fin 32) (x : Nat) : Bool :=
  s.portState (s.portOf a false) = x && s.portState (s.portOf a true) = x

/-- The eight period choices of PSEL in ns (R13). -/
def psel : Nat → Nat
  | 0 => 10000 | 1 => 12500 | 2 => 16000 | 3 => 20000 | 4 => 25000 | 5 => 40000 | 6 => 50000 | _ => 62500

/-- The period of a tile in force, in ns: PERIOD_CLK in 5 ns clocks (R13). -/
def State.period (s : State) (t : Fin 4) : Nat := 5 * s.fld (LT_TILE_PERIOD t) LT_TILE_PERIOD_PERIOD_CLK

/-- The line time of a tile's last boundary. -/
def State.boundary (s : State) (t : Fin 4) : Nat := (s.tile t).lastB

/-- GLB_STATE.STATE (R271). -/
def State.devState (s : State) : Nat := s.fld GLB_STATE GLB_STATE_STATE

def dOFF : Nat := 0
def dBOOT : Nat := 1
def dINVENTORY : Nat := 2
def dDIAG : Nat := 3
def dCONFIGURABLE : Nat := 4
def dCOMMITTED : Nat := 5
def dRUN : Nat := 6
def dSAFEHOLD : Nat := 7
def dHALT : Nat := 8

/-! ## Event latches of the engines (R208, R209) -/

/-- An occurrence of an event at one engine: the bit is set and the parameter stored; an occurrence while the bit
is set counts in EVOVER (R208). It is seen once the latch is sampled again. -/
def latchEvent (e : Fin 46) (bit : Nat) (param : Nat) (s : State) : State :=
  let l := s.fld (ENG_EVLATCH e) ENG_EVLATCH_EV
  let s := if l.testBit bit then s.count (ENG_CNT e) ENG_CNT_EVOVER
    else s.setFld (ENG_EVLATCH e) ENG_EVLATCH_EV (l + 2 ^ bit)
  s.modEng e fun x => { x with
    params := x.params.setIfInBounds bit (BitVec.ofNat 64 param), since := x.since ||| BitVec.ofNat 17 (2 ^ bit) }

/-- The supervisor of a tile (R200). -/
def supOf (t : Fin 4) : Fin 46 := finEng (40 + t.1)

/-- An event of an axis reaches its engine, and the supervisor of its tile with the axis number in the top byte
of the parameter (R209). -/
def axisEvent (a : Fin 32) (bit : Nat) (param : Int) (s : State) : State :=
  let v := toBits 64 param
  let s := latchEvent (s.engOf a) bit v s
  latchEvent (supOf (tileOf a)) bit (v % 2 ^ 56 + a.1 * 2 ^ 56) s

/-! ## Records (R322–R326) -/

/-- LT_STAT.QUALITY. -/
def State.quality (s : State) : Nat := s.fld LT_STAT LT_STAT_QUALITY

/-- The time quality code of R325. -/
def State.timeQuality (s : State) : Nat :=
  if s.quality = 0 then 0 else if s.quality ≠ 3 then 1 else if s.bit REC_STAT REC_STAT_RTC_VALID then 2 else 3

/-- The line epoch in ns (R22). -/
def State.epoch (s : State) : Nat := s.pair LT_EPOCH_LO

/-- Calendar time of an instant of line time: seconds and 2^-24 s (R325). -/
def State.calendar (s : State) (t : Nat) : Nat × Nat :=
  let ns (n : Nat) : Nat × Nat := (n / 1000000000 % 2 ^ 40, n % 1000000000 * 2 ^ 24 / 1000000000)
  match s.timeQuality with
  | 0 => ns (s.epoch + t)
  | 1 => ns (s.epoch + t)
  | 2 =>
    match s.recorder.rtc with
    | some (c, at_) =>
      let u := c + (s.up - at_) * 32768 / 1000000000
      (u / 32768 % 2 ^ 40, u % 32768 * 512)
    | none => (0, 0)
  | _ => ns s.up

/-- A record as its writer hands it to the recorder (R326): code, severity, source kind and index, parameters and,
for a variable record, the body. -/
def mkRecord (s : State) (code : RecCode) (sev kind idx : Nat) (params : List Nat) (body : List Byte)
    (fromFilter : Bool) : Record :=
  let c := s.calendar s.now
  { code := code, sev := sev, tq := s.timeQuality, kind := kind, idx := idx, seq := 0, secs := c.1, frac := c.2,
    params := params.map (· % 2 ^ 32), rep := 0, body := body, fromFilter := fromFilter }

/-- A candidate sets out for the recorder island (R9, R326). -/
def candidate (r : Record) (s : State) : State :=
  s.modRec fun x => { x with transit := x.transit ++ [r] }

/-- The device writes a fixed record of a kind that the manual gives no code for. -/
def record (k : RecKind) (sev kind idx : Nat) (params : List Nat) (s : State) : State :=
  candidate (mkRecord s (.dev k) sev kind idx params [] false) s

/-- A register access is abandoned after its third failed attempt (R255). -/
def regAbort (s : State) : State := record .regAbort 1 4 0 [] (s.count CFG_XING_CNT CFG_XING_CNT_REG_ABORT)

/-- The device writes a fixed record with an event code. -/
def recordCode (code sev kind idx : Nat) (params : List Nat) (s : State) : State :=
  candidate (mkRecord s (.num code) sev kind idx params [] false) s

/-- The device writes a variable record (R323). The layout of the body is the event code's own, so the words that
the manual names stand in it in order. -/
def recordVar (k : RecKind) (sev kind idx : Nat) (words : List Nat) (s : State) : State :=
  candidate (mkRecord s (.dev k) sev kind idx [] (words.flatMap fun w => leBytes w 4) false) s

/-! ## Ring entries and interrupts (R228, R245) -/

def ringState (c n : Nat) : Nat := HIF_RING_STAT c n

/-- HIF_RING_STAT.STATE. -/
def State.rState (s : State) (c : Fin 4) (n : Fin 16) : Nat := s.fld (HIF_RING_STAT c n) HIF_RING_STAT_STATE

def rDISABLED : Nat := 0
def rACTIVE : Nat := 1
def rDRAINING : Nat := 2
def rERROR : Nat := 3
def rREFUSED : Nat := 4

def State.rType (s : State) (c : Fin 4) (n : Fin 16) : Nat := s.fld (HIF_RING_CFG c n) HIF_RING_CFG_TYPE

/-- The number of entries of a ring, 2^SIZE (R227). -/
def State.rSize (s : State) (c : Fin 4) (n : Fin 16) : Nat := 2 ^ s.fld (HIF_RING_CFG c n) HIF_RING_CFG_SIZE

def State.rDev (s : State) (c : Fin 4) (n : Fin 16) : Nat := s.fld (HIF_RING_DEV c n) HIF_RING_DEV_IDX
def State.rHost (s : State) (c : Fin 4) (n : Fin 16) : Nat := s.fld (HIF_RING_HOST c n) HIF_RING_HOST_IDX
def State.rBase (s : State) (c : Fin 4) (n : Fin 16) : Nat := s.pair (HIF_RING_BASE_LO c n)

/-- A ring is ACTIVE and of a type. -/
def State.rIs (s : State) (c : Fin 4) (n : Fin 16) (ty : Nat) : Bool := s.rState c n = rACTIVE && s.rType c n = ty

/-- Entries of a device-written ring that the host has not consumed (R228). -/
def State.rUsed (s : State) (c : Fin 4) (n : Fin 16) : Nat :=
  (s.rDev c n + 2 * s.rSize c n - s.rHost c n) % (2 * s.rSize c n)

/-- A device-written ring has room for an entry (R228). -/
def State.rRoom (s : State) (c : Fin 4) (n : Fin 16) : Bool := s.rUsed c n < s.rSize c n

/-- The vector of a ring sends its message, or becomes pending while it is masked (R245). -/
def sendVector (c : Fin 4) (v : Nat) (s : State) : State :=
  match (s.cab c).vecs[v]? with
  | some x =>
    if x.masked then s.modCab c fun cb => { cb with vecs := cb.vecs.setIfInBounds v { x with pending := true } }
    else s.emit (.msix c v)
  | none => s

/-- A ring requests its interrupt: at once for a completion with IRQ or when the moderation interval has passed,
otherwise held (R245). -/
def requestIrq (c : Fin 4) (n : Fin 16) (urgent : Bool) (s : State) : State :=
  let cfg := HIF_RING_CFG c n
  let free := match (s.ring c n).lastIrq with
    | some l => decide (l + 1000 * s.fld cfg HIF_RING_CFG_MOD ≤ s.up)
    | none => true
  if urgent || free then
    sendVector c (s.fld cfg HIF_RING_CFG_VEC)
      (s.modRing c n fun r => { r with lastIrq := some s.up, irqHeld := false })
  else s.modRing c n fun r => { r with irqHeld := true }

/-- The phase bit of the entry written next (R228). -/
def State.rPhase (s : State) (c : Fin 4) (n : Fin 16) : Bool := decide (s.rDev c n < s.rSize c n)

/-- One entry is written to a device-written ring and the producer index advances (R228). -/
def writeEntry (c : Fin 4) (n : Fin 16) (e : Entry) (urgent : Bool) (s : State) : State :=
  let i := s.rDev c n
  let s := s.emit (.entry c n (s.rBase c n + 64 * (i % s.rSize c n)) e)
  let s := s.setFld (HIF_RING_DEV c n) HIF_RING_DEV_IDX ((i + 1) % (2 * s.rSize c n))
  requestIrq c n urgent s

/-! ## Events (R240–R242) -/

/-- An event as the step that raises it gives it: code, severity, source kind and index, tag, line time and
parameters. -/
structure EvBody where
  code : Nat
  sev : Nat
  kind : Nat
  idx : Nat
  tag : Nat
  time : Nat
  params : List Int
  deriving DecidableEq, Repr

/-- The severity of an event whose chapter gives none: info or warning (R307). -/
def plainSev (code : Nat) : Nat := (Config.eventSeverity code).toNat

/-- The ring an event goes to: EVRING_F for fault and critical, EVRING otherwise, and EVRING where EVRING_F does
not name an ACTIVE event ring (R241). -/
def State.eventRing (s : State) (c : Fin 4) (sev : Nat) : Option (Fin 16) :=
  let f := s.fld (HIF_CAB_CTRL c) HIF_CAB_CTRL_EVRING_F
  let o := s.fld (HIF_CAB_CTRL c) HIF_CAB_CTRL_EVRING
  if 2 ≤ sev ∧ f < 16 ∧ s.rIs c (finRing f) 2 then some (finRing f)
  else if o < 16 ∧ s.rIs c (finRing o) 2 then some (finRing o) else none

/-- The next event sequence number of a cabinet is taken (R240). -/
def nextEvSeq (c : Fin 4) (s : State) : State :=
  s.setFld (HIF_CAB_EVSEQ c) HIF_CAB_EVSEQ_SEQ (s.fld (HIF_CAB_EVSEQ c) HIF_CAB_EVSEQ_SEQ + 1)

/-- The five parameters of an event entry, those unused 0 (R240). -/
def evParams (l : List Int) : List Nat := ((l ++ List.replicate 5 0).take 5).map fun p => toBits 64 p

/-- One event entry with the sequence number taken last. -/
def writeEvent (c : Fin 4) (n : Fin 16) (b : EvBody) (s : State) : State :=
  writeEntry c n (.event
    { code := b.code, sev := b.sev % 4, phase := s.rPhase c n, kind := b.kind, idx := b.idx,
      tag := b.tag, time := b.time, seq := s.fld (HIF_CAB_EVSEQ c) HIF_CAB_EVSEQ_SEQ,
      params := evParams b.params }) false s

/-- An event is lost: EV_LOST counts and an info record is written (R242). -/
def loseEvent (c : Fin 4) (s : State) : State :=
  let s := s.count (HIF_CAB_CNT c) HIF_CAB_CNT_EV_LOST
  let s := s.modCab c fun x => { x with evLost := x.evLost + 1 }
  record .eventLost 0 3 c [] s

/-- EVENTS_LOST goes first where entries were lost since the last one and the ring has room (R242). -/
def eventsLostFirst (c : Fin 4) (n : Fin 16) (time : Nat) (s : State) : State :=
  if (s.cab c).evLost ≠ 0 ∧ s.rRoom c n then
    let lost := (s.cab c).evLost
    let s := nextEvSeq c s
    let s := writeEvent c n ⟨0x0901, plainSev 0x0901, 3, c, 0, time, [lost]⟩ s
    s.modCab c fun x => { x with evLost := 0 }
  else s

/-- An event is raised to a cabinet (R240–R242). -/
def raiseEvent (c : Fin 4) (b : EvBody) (s : State) : State :=
  match s.eventRing c b.sev with
  | none => loseEvent c (nextEvSeq c s)
  | some n =>
    let s := eventsLostFirst c n b.time s
    let s := nextEvSeq c s
    if s.rRoom c n then writeEvent c n b s
    else loseEvent c (s.count (HIF_RING_CNT c n) HIF_RING_CNT_CNT)

/-- An event of an axis goes to its owner (R241). -/
def raiseAxis (a : Fin 32) (code sev tag time : Nat) (params : List Int) (s : State) : State :=
  raiseEvent (s.ownerAx a) ⟨code, sev, 0, a, tag, time, params⟩ s

/-- An event of the device goes to every cabinet (R241). -/
def raiseDevice (code sev time : Nat) (params : List Int) (s : State) : State :=
  allCabs.foldl (fun s c => raiseEvent c ⟨code, sev, 4, 0, 0, time, params⟩ s) s

/-! ## Completions (R233, R237–R239) -/

def stDONE : Nat := 0x0000
def stSTARTED : Nat := 0x0001
def stQUEUED : Nat := 0x0002
def stARMED : Nat := 0x0003
def stACCEPTED : Nat := 0x0004
def stLOADED : Nat := 0x0005
def stSWAPPED : Nat := 0x0006
def stNO_CHANGE : Nat := 0x0007
def stDECIDED : Nat := 0x0008
def stREFUSED_VALUE : Nat := 0x0100
def stREFUSED_STATE : Nat := 0x0101
def stREFUSED_RANGE : Nat := 0x0102
def stREFUSED_QUEUE_FULL : Nat := 0x0103
def stREFUSED : Nat := 0x0104
def stREFUSED_OWNER : Nat := 0x0105
def stREFUSED_OPCODE : Nat := 0x0106
def stREFUSED_VERSION : Nat := 0x0107
def stABANDONED : Nat := 0x0200
def stUNCONFIRMED : Nat := 0x0201
def stARRIVED : Nat := 0x0300
def stSTOPPED : Nat := 0x0301
def stFLUSHED : Nat := 0x0302
def stHOMED : Nat := 0x0303
def stFAILED : Nat := 0x0304
def stPASSED : Nat := 0x0305
def stSTAGE_RETIRED : Nat := 0x0306
def stCONVERTER_RETIRED : Nat := 0x0307
def stABORTED : Nat := 0x0308
def stCOMMITTED : Nat := 0x0309
def stMODE_ABORTED : Nat := 0x030A
def stMODE_SPLIT : Nat := 0x030B

/-- Free slots of a completion ring (R239). -/
def State.freeSlots (s : State) (c : Fin 4) (n : Fin 16) : Nat :=
  s.rSize c n - s.rUsed c n - (s.ring c n).reserved

/-- Byte `i` of a raw descriptor. -/
def rawByte (r : RawDesc) (i : Nat) : Nat := (r.bytes.toArray.getD i 0).toNat

/-- The completion ring of a raw descriptor under the version in force, and whether byte 3 names one that is an
ACTIVE completion ring (R232). -/
def State.cplOf (s : State) (c : Fin 4) (n : Fin 16) (r : RawDesc) : Fin 16 × Bool :=
  let dflt := finRing (s.fld (HIF_RING_CFG c n) HIF_RING_CFG_CPL)
  let b := rawByte r 3
  if s.fld (HIF_RING_STAT c n) HIF_RING_STAT_VER < 2 ∨ b = 0xFF then (dflt, true)
  else if b < 16 ∧ s.rIs c (finRing b) 1 then (finRing b, true)
  else (dflt, false)

/-- The head of a ring waits for a FENCE: an earlier descriptor of the ring has no completion yet (R232). -/
def State.fenceWaits (s : State) (c : Fin 4) (n : Fin 16) (r : RawDesc) : Bool :=
  (rawByte r 2).testBit 0 && (s.ring c n).open_ != []

/-- A command ring whose head waits for a completion slot (R239). -/
def State.creditWaits (s : State) (c : Fin 4) (n : Fin 16) : Bool :=
  s.rIs c n 0 && match (s.ring c n).fetched with
    | [] => false
    | r :: _ => !s.fenceWaits c n r && s.freeSlots c (s.cplOf c n r).1 == 0

/-- CREDIT_WAIT of every ring of a cabinet follows its cause (R239, R260). -/
def followCredit (c : Fin 4) (s : State) : State :=
  (List.range 16).foldl (fun s n => s.setBit (HIF_RING_STAT c n) HIF_RING_STAT_CREDIT_WAIT
    (s.creditWaits c (finRing n))) s

/-- A REFUSED status, which the command ring counts (HIF_RING_CNT). -/
def isRefused (st : Nat) : Bool := 0x0100 ≤ st && st ≤ 0x0107

/-- The completion entry of a descriptor is written on the ring its slot was reserved on, and the slot is given
back; a ring that is no longer an ACTIVE completion ring receives nothing (R237, R239, R247). -/
def writeCompletion (d : Desc) (st flags land : Nat) (s : State) : State :=
  let s := s.emit (.status d.cab d.ring d.tag d.opcode d.target st flags land)
  let s := if isRefused st then s.count (HIF_RING_CNT d.cab d.ring) HIF_RING_CNT_CNT else s
  let s := s.modRing d.cab d.cpl fun r => { r with reserved := r.reserved - 1 }
  let s := s.modRing d.cab d.ring fun r =>
    { r with open_ := r.open_.filter fun o => o != (d.index, d.kind, d.target) }
  if s.rIs d.cab d.cpl 1 then
    writeEntry d.cab d.cpl (.completion
      { opcode := d.opcode, ver := d.ver, kind := d.kind % 4, phase := s.rPhase d.cab d.cpl, status := st, tag := d.tag,
        ring := d.ring, target := d.target, flags := flags, index := d.index,
        land := if d.ver = 2 then land else 0, accept := d.accept }) d.irq s
  else s

/-- Held completions of a ring whose earlier descriptors of the same target have theirs are written, in order
(R233). The fuel is the number held. -/
def releaseHeld (c : Fin 4) (n : Fin 16) : Nat → State → State
  | 0, s => s
  | k + 1, s =>
    let r := s.ring c n
    let free (w : Desc × Nat × Nat) : Bool :=
      match r.open_.find? (fun o => o.2 == (w.1.kind, w.1.target)) with
      | some o => o.1 == w.1.index
      | none => true
    match r.waitCpl.find? free with
    | some w =>
      let s := s.modRing c n fun x => { x with waitCpl := x.waitCpl.erase w }
      releaseHeld c n k (writeCompletion w.1 w.2.1 0 w.2.2 s)
    | none => s

/-- A summary record of start-up and test (R323): a variable record whose body the manual does not lay out. -/
def summary (k : RecKind) (s : State) : State :=
  let n := 32 * (1 + (Config.summaryPieces k s.freeCtr).1)
  (candidate (mkRecord s (.dev k) 0 4 0 [] ((List.range n).map (Config.summaryByte k s.freeCtr)) false) s).fresh

/-- The status of an accepted descriptor is decided: an engine command reports to event bit 5 of the engine that
executed it, if it is the most recent one, and to no ring (R212); every other descriptor gets its one completion
(R233), UNCONFIRMED where its result failed to return (R236), and none after a reset of its cabinet (R247). -/
def complete (d : Desc) (st flags land : Nat) (s : State) : State :=
  match d.engine with
  | some (e, n) =>
    let s := s.modEng e fun x => { x with cmds := x.cmds - 1 }
    let axis := if 40 ≤ e.1 ∧ e.1 < 44 then d.target % 32 * 2 ^ 56 else 0
    if (s.eng e).lastCmd = n then latchEvent e 5 (st + axis) s else s
  | none =>
    if d.muted then s
    else
      let st := if d.unconfirmed then stUNCONFIRMED else st
      let s := writeCompletion d st (if d.unconfirmed then 0 else flags) land s
      followCredit d.cab (releaseHeld d.cab d.ring (s.ring d.cab d.ring).waitCpl.length s)

/-! ## Device state (R271, R272) -/

/-- READY and FAULT_N follow the device state (R271). -/
def pinsOf (st : Nat) : Bool × Bool := (st == 4 || st == 5 || st == 6, !(st == 7 || st == 8))

/-- A change of the device state: the pins follow, DEVICE_STATE goes to every cabinet and a variable record is
written (R271, R272). -/
def setDevState (new cause : Nat) (s : State) : State :=
  let old := s.devState
  if old = new then s
  else
    let s := (s.setFld GLB_STATE GLB_STATE_STATE new).setFld GLB_STATE GLB_STATE_CAUSE cause
    let s := s.emit (.pins (pinsOf new).1 (pinsOf new).2)
    let s := raiseDevice 0x0804 (plainSev 0x0804) s.now [old, new, cause] s
    recordVar .deviceState (if new = 7 ∨ new = 8 then 3 else 0) 4 0 [old, new, cause] s

/-- Some port of the device is in RUN. -/
def State.anyRun (s : State) : Bool := allPorts.any fun p => s.portState p = pRUN

/-- COMMITTED and RUN follow the ports (R272). -/
def followPorts (s : State) : State :=
  if s.devState = dCOMMITTED ∧ s.anyRun then setDevState dRUN 0 s
  else if s.devState = dRUN ∧ !s.anyRun then setDevState dCOMMITTED 0 s
  else s

end Sys2Proof.Machine
end

