-- ==== Sys2Proof/Machine/Pins.lean ====
section
/-! DEFINITION. The gate pins (spec/08, spec/09): what the layers of R149 drive of a leg at an instant, the changes of the
switches over time with their drive codes. -/

namespace Sys2Proof.Machine

/-! ## Parts of a port -/

def State.loop (s : State) (p : Fin 64) : Loop := (s.port p).loop
def State.modLoop (s : State) (p : Fin 64) (f : Loop → Loop) : State := s.modPort p fun x => { x with loop := f x.loop }
def State.pwm (s : State) (p : Fin 64) : Pwm := (s.port p).pwm
def State.modPwm (s : State) (p : Fin 64) (f : Pwm → Pwm) : State := s.modPort p fun x => { x with pwm := f x.pwm }
def State.gd (s : State) (p : Fin 64) : GateDrive := (s.port p).gd
def State.modGd (s : State) (p : Fin 64) (f : GateDrive → GateDrive) : State := s.modPort p fun x => { x with gd := f x.gd }

/-- The tile and the tile-local index of a device port, as the register addresses take them (R3). -/
def pT (p : Fin 64) : Nat := p.1 / 16
def pI (p : Fin 64) : Nat := p.1 % 16

/-- A port in DIRECT drive (R139). -/
def State.direct (s : State) (p : Fin 64) : Bool := s.bit (PWM_CTRL (pT p) (pI p)) PWM_CTRL_DIRECT

/-! ## Port time and pulse limits (R135–R137) -/

/-- 156.25 ps units as ns. -/
def unitNs (u : Int) : Rat := (u : Rat) * 5 / 32

/-- Stagger of a port in ns (R135). -/
def State.stagger (s : State) (p : Fin 64) : Nat := 5 * s.fld (PWM_STAGGER (pT p) (pI p)) PWM_STAGGER_STAG

/-- The period of a port's tile in ns. -/
def State.portT (s : State) (p : Fin 64) : Nat := s.period (tileOfPort p)

/-- The control period of a port in units: tu of R138. -/
def State.tu (s : State) (p : Fin 64) : Nat := s.portT p * 32 / 5

/-- Dead time and minimum pulse in units (R137). -/
def State.deadTime (s : State) (p : Fin 64) : Nat := s.fld (PWM_DT (pT p) (pI p)) PWM_DT_DT
def State.minPulse (s : State) (p : Fin 64) : Nat := s.fld (PWM_DT (pT p) (pI p)) PWM_DT_MINP

/-- Dead time in ns. -/
def State.dtNs (s : State) (p : Fin 64) : Rat := unitNs (s.deadTime p)

/-- The port valley with which the port period of the last boundary begins (R135). -/
def State.valley (s : State) (p : Fin 64) : Nat := s.boundary (tileOfPort p) + s.stagger p

/-- The largest STAG at a period (R136). -/
def maxStag (t : Nat) : Nat := (t / 2 - 2850) / 5

/-- The index of the port period at an instant of the timebase (R135). -/
def State.portK (s : State) (p : Fin 64) (t : Nat) : Nat := (t - s.stagger p) / s.portT p

/-- The index of the port period that the pins are in: they lag the timebase by 0.75 µs (R19). -/
def State.pinK (s : State) (p : Fin 64) (t : Nat) : Nat := s.portK p (t - 750)

def legIdx (b : Bool) : Fin 2 := if b then 1 else 0

def State.leg (s : State) (p : Fin 64) (b : Bool) : LegGen := (s.pwm p).leg[legIdx b]
def State.modLeg (s : State) (p : Fin 64) (b : Bool) (f : LegGen → LegGen) : State :=
  s.modPwm p fun w => { w with leg := w.leg.set (legIdx b).1 (f w.leg[legIdx b]) (legIdx b).2 }

/-! ## Drive strength (R150, R151) -/

/-- Source and sink current of a drive code in mA (R150). -/
def sourceMa (c : Nat) : Nat :=
  ([100, 150, 200, 300, 400, 500, 650, 800, 1000, 1200, 1500, 1800, 2100, 2400, 2700, 3000] : List Nat).getD c 0
def sinkMa (c : Nat) : Nat :=
  ([200, 300, 400, 550, 700, 900, 1100, 1400, 1700, 2000, 2400, 2900, 3400, 3900, 4400, 5000] : List Nat).getD c 0

/-- Nibble `i` of the eight codes: source and sink of switch 0, then of switch 1, and so on. -/
def nibble (w i : Nat) : Nat := w / 16 ^ i % 16

/-- The eight codes that govern an edge at an instant of the timebase (R153). -/
def State.codesAt (s : State) (p : Fin 64) (x : Rat) : Nat :=
  (((s.pwm p).codes.find? fun c => decide (c.1 ≤ x)).map (·.2)).getD (s.reg (GD_ACODE (pT p) (pI p))).toNat

/-- New codes come into force at an instant of the timebase. -/
def setCodes (p : Fin 64) (x : Rat) (w : Nat) (s : State) : State :=
  (s.setReg (GD_ACODE (pT p) (pI p)) (BitVec.ofNat 32 w)).modPwm p fun y => { y with codes := ((x, w) :: y.codes).take 4 }

/-- The change of a switch at its pin: a turn-on with its source code, a turn-off with its sink code, or with the code of
GD_PROT.SOFT where rank 2 or 3 orders it (R150, R151). -/
def State.pinEdge (s : State) (p : Fin 64) (y : Rat) (sw : Nat) (on soft : Bool) : PinEdge :=
  let w := s.codesAt p (y - 750)
  let c := if on then nibble w (2 * sw) else if soft then s.fld (GD_PROT (pT p) (pI p)) GD_PROT_SOFT else nibble w (2 * sw + 1)
  ⟨y, sw, on, c, if on then sourceMa c else sinkMa c⟩

/-! ## What the layers drive (R137, R147–R149, R156, R167) -/

/-- The two-bit leg state of a mask: 0 PASS, 1 OFF, 2 LOW, 3 HIGH. -/
def State.maskCode (s : State) (p : Fin 64) (m : Nat) (b : Bool) : Nat :=
  s.fld (PWM_MASKS (pT p) (pI p)) (PWM_MASKS_MASK m) / (if b then 4 else 1) % 4

/-- A mask leaves both legs on the schedule. -/
def State.maskPasses (s : State) (p : Fin 64) (m : Nat) : Bool := s.maskCode p m false == 0 && s.maskCode p m true == 0

/-- The mask in force at an instant of the timebase, none before the first port valley of RUN. -/
def State.maskAt (s : State) (p : Fin 64) (x : Rat) : Option Nat :=
  ((s.pwm p).masks.find? fun m => decide (m.time ≤ x)).map (·.mask)

/-- What the schedule drives of a leg at an instant of the timebase: 0 none, 1 the low side, 2 the high side (R137). -/
def State.scheduled (s : State) (p : Fin 64) (b : Bool) (x : Rat) : Nat :=
  let h := s.dtNs p / 2
  let l := (s.leg p b).high
  if l.any fun i => decide (i.1 + h ≤ x) && decide (x < i.2 - h) then 2
  else if l.any fun i => decide (i.1 - h ≤ x) && decide (x < i.2 + h) then 0
  else 1

/-- W_R in ns (R156). -/
def State.refreshNs (s : State) (p : Fin 64) : Rat := (5 * s.fld (GD_REFRESH (pT p) (pI p)) GD_REFRESH_WR : Nat)

/-- The port time into a refresh pulse of a leg at an instant of the timebase (R156). -/
def State.inPulse (s : State) (p : Fin 64) (b : Bool) (x : Rat) : Option Rat :=
  let len := 2 * s.dtNs p + s.refreshNs p
  ((s.pwm p).pulses.find? fun r => r.1 == (legIdx b).1 && decide (r.2 ≤ x) && decide (x < r.2 + len)).map fun r => x - r.2

/-- What ranks 6 to 8 drive of a leg (R149). -/
def State.lowerRanks (s : State) (p : Fin 64) (b : Bool) (x : Rat) : Nat :=
  match s.maskAt p x with
  | none => 0
  | some m =>
    let c := s.maskCode p m b
    if s.bit (pwmStat p) PWM_STAT_TRIPPING then
      (if !s.bit (PWM_CTRL (pT p) (pI p)) PWM_CTRL_TRIP_ACT && (c == 0 || c == 2) then 1 else 0)
    else match c with
      | 0 => s.scheduled p b x
      | 1 => 0
      | 2 => 1
      | _ => 2

/-- What ranks 5 to 8 drive of a leg at an instant of the timebase (R149, R156). -/
def State.driven (s : State) (p : Fin 64) (b : Bool) (x : Rat) : Nat :=
  match s.inPulse p b x with
  | some u =>
    if u < s.dtNs p then (if s.lowerRanks p b x = 1 then 1 else 0)
    else if u < s.dtNs p + s.refreshNs p then 1 else 0
  | none => s.lowerRanks p b x

/-- The switches 0–3 are GHA, GLA, GHB, GLB: the leg of one, and the one of a leg and side, 1 low and 2 high. -/
def swLeg (sw : Nat) : Bool := decide (2 ≤ sw)
def swOf (b : Bool) (side : Nat) : Nat := (if b then 2 else 0) + (if side = 2 then 0 else 1)

/-- Ranks 2 to 4 hold a switch off: its latch, a lockout, or a lockout that ended in this carrier (R158, R159, R164). -/
def State.heldSwitch (s : State) (p : Fin 64) (sw : Nat) : Bool :=
  let st := GD_STAT (pT p) (pI p)
  (s.fld st GD_STAT_LATCH).testBit sw || (s.fld st GD_STAT_UV).testBit sw || (s.gd p).rejoin.toArray.getD sw false

/-- Rank 1 lets the port drive its gates at an instant of the pins: RUN, or up to the end of the carrier in which an entry to
OFF landed (R145, R149). -/
def State.gatesLive (s : State) (p : Fin 64) (y : Rat) : Bool :=
  s.portState p == pRUN || (match (s.pwm p).tail with | some v => decide (y < v + 750) | none => false)

/-- The side of a leg that every rank of R149 together drives at an instant of the pins, 0 for none. -/
def State.want (s : State) (p : Fin 64) (b : Bool) (y : Rat) : Nat :=
  if !s.gatesLive p y then 0
  else
    let w := s.driven p b (y - 750)
    if w = 0 ∨ s.heldSwitch p (swOf b w) then 0 else w

/-! ## The pins over time (R149) -/

/-- A leg at the pins: the side that is on, the instants at which its low and its high side turned off last, and its changes, the
latest first. -/
structure LegPins where
  on : Nat
  offLow : Option Rat
  offHigh : Option Rat
  edges : List PinEdge
  deriving DecidableEq, Repr

/-- A leg from an instant up to another, between which nothing it is driven by changes: a turn-off takes effect at once, and a
turn-on waits until the other side has been off for DT (R149). -/
def State.legStep (s : State) (p : Fin 64) (b soft : Bool) (y : Rat) (before : Rat → Bool) (l : LegPins) : LegPins :=
  let w := s.want p b y
  let l := if l.on = 0 ∨ l.on = w then l
    else
      let e := s.pinEdge p y (swOf b l.on) false soft
      ⟨0, if l.on = 1 then some y else l.offLow, if l.on = 2 then some y else l.offHigh, e :: l.edges⟩
  if w = 0 ∨ l.on = w then l
  else
    let r := match (if w = 2 then l.offLow else l.offHigh) with
      | some o => ratMax y (o + s.dtNs p)
      | none => y
    if before r then { l with on := w, edges := s.pinEdge p r (swOf b w) true false :: l.edges } else l

/-- The instants of the timebase at which what drives a leg may change. -/
def State.breaks (s : State) (p : Fin 64) (b : Bool) : List Rat :=
  let h := s.dtNs p / 2
  let w := s.refreshNs p
  let dt := s.dtNs p
  ((s.leg p b).high.flatMap fun i => [i.1 - h, i.1 + h, i.2 - h, i.2 + h]) ++ ((s.pwm p).masks.map fun m => m.time) ++
  ((s.pwm p).pulses.flatMap fun r => [r.2, r.2 + dt, r.2 + dt + w, r.2 + dt + w + dt]) ++ (s.pwm p).tail.toList

/-- An instant put into its place among rising ones. -/
def insertRat (x : Rat) : List Rat → List Rat
  | [] => [x]
  | y :: ys => if x < y then x :: y :: ys else if x = y then y :: ys else y :: insertRat x ys

/-- The instants of the pins from one on and before another at which what drives a leg may change, rising. -/
def State.pinBreaks (s : State) (p : Fin 64) (b : Bool) (y0 y1 : Rat) : List Rat :=
  (((s.breaks p b).map (· + 750)).filter fun y => decide (y0 ≤ y) && decide (y < y1)).foldr insertRat [y0]

/-- A leg over rising instants, up to a last one. -/
def State.legWalk (s : State) (p : Fin 64) (b : Bool) (last : Rat) : List Rat → LegPins → LegPins
  | [], l => s.legStep p b false last (fun r => decide (r ≤ last)) l
  | y :: ys, l => s.legWalk p b last ys (s.legStep p b false y (fun r => decide (r < ys.headD last)) l)

/-- The pins of a leg as they stand. -/
def Pwm.legPins (w : Pwm) (b : Bool) : LegPins :=
  let i := legIdx b
  ⟨w.on[i], w.offs.toArray.getD (swOf b 1) none, w.offs.toArray.getD (swOf b 2) none, []⟩

/-- The changes kept: the latest eight, those of the last two periods, and the ones of a kind of which no later one is kept, so that
the latest command of each leg is always there (R152). -/
def pruneEdges (keep : Rat) (l : List PinEdge) : List PinEdge :=
  l.take 8 ++ (l.drop 8).filter fun e => decide (keep ≤ e.time) || !(l.take 8).any fun x => x.sw == e.sw && x.on == e.on

/-- A leg takes the pins it has come to. -/
def Pwm.putLeg (w : Pwm) (b : Bool) (keep : Rat) (l : LegPins) : Pwm :=
  let i := legIdx b
  { w with
    on := w.on.set i.1 l.on i.2
    offs := (w.offs.setIfInBounds (swOf b 1) l.offLow).setIfInBounds (swOf b 2) l.offHigh
    edges := pruneEdges keep (l.edges ++ w.edges) }

end Sys2Proof.Machine
end

