-- ==== Sys2Proof/Machine/Ports.lean ====
section
/-! DEFINITION. A bridge port over time (spec/08, spec/09): its planned pulses decided, mask selections and refresh pulses at its
valley, its pins settled, a port that changes its state, and faults raised against axes. -/

namespace Sys2Proof.Machine

def gdStat (p : Fin 64) : Nat := GD_STAT (pT p) (pI p)
def gdCnt (p : Fin 64) : Nat := GD_CNT (pT p) (pI p)

/-! ## Clamp and short pulses (R140, R141) -/

/-- The carry of a leg (R141). -/
def carryFld (b : Bool) : Fld := if b then PWM_CARRY_CB else PWM_CARRY_CA
def State.carry (s : State) (p : Fin 64) (b : Bool) : Nat := s.fld (PWM_CARRY (pT p) (pI p)) (carryFld b)
def State.setCarry (s : State) (p : Fin 64) (b : Bool) (c : Nat) : State := s.setFld (PWM_CARRY (pT p) (pI p)) (carryFld b) c

/-- What a requested high interval comes to: the interval emitted, 0 for none, the carry left, whether the clamp acted,
and whether the short-pulse policy handled it. -/
structure Shaped where
  high : Nat
  carry : Nat
  clamped : Bool
  short : Bool
  deriving DecidableEq, Repr

/-- The steps of R140 in their order: the carry under CARRY, the clamp, the short-pulse test on the clamped value. -/
def shapePulse (spol carrier dt minp carry h : Nat) : Shaped :=
  let top := carrier - dt - minp
  let least := dt + minp
  let asked := if spol = 0 then h + carry else h
  let x := min asked top
  let clamped := decide (top < asked)
  if 0 < x ∧ x < least then
    match spol with
    | 0 => ⟨0, x, clamped, true⟩
    | 1 => ⟨if top < least then 0 else least, 0, clamped, true⟩
    | _ => ⟨0, 0, clamped, true⟩
  else ⟨x, 0, clamped, false⟩

/-- An emitted interval joins the latest one where they meet, so that the leg stays on across a valley (R138); pulses of
the last two periods are kept. -/
def addHigh (keep : Rat) (x : Rat × Rat) : List (Rat × Rat) → List (Rat × Rat)
  | [] => [x]
  | y :: ys =>
    if x.1 ≤ y.2 then (ratMin x.1 y.1, ratMax x.2 y.2) :: ys else x :: (y :: ys).filter fun z => decide (keep ≤ z.2)

/-- A scheduled interval that a refresh window meets keeps no fragment shorter than MINP beside it: one after it, and one before it
that has not begun at the pins (R156). -/
def cutHigh (w0 w1 minp begun : Rat) (x : Rat × Rat) : Rat × Rat :=
  if x.1 < w1 ∧ w0 < x.2 then
    (if x.1 < w0 ∧ w0 - x.1 < minp ∧ begun < x.1 then w0 else x.1, if w1 < x.2 ∧ x.2 - w1 < minp then w1 else x.2)
  else x

/-- The port valleys of the refresh pulses of a leg: of the one scheduled and of those inserted (R156). -/
def State.refreshValleys (s : State) (p : Fin 64) (b : Bool) : List Rat :=
  ((s.gd p).refreshAt[legIdx b].toList.map fun k => ((k * s.portT p + s.stagger p : Nat) : Rat)) ++
  (((s.pwm p).pulses.filter fun r => r.1 == (legIdx b).1).map (·.2))

/-- The fragments of the emitted intervals beside the refresh pulses of a port are dropped (R156). -/
def trimRefresh (p : Fin 64) (s : State) : State :=
  [false, true].foldl (fun (s : State) b =>
    let begun : Rat := (s.now : Rat) - 750 - s.dtNs p / 2
    (s.refreshValleys p b).foldl (fun (s : State) v =>
      s.modLeg p b fun g => { g with
        high := g.high.map (cutHigh v (v + 2 * s.dtNs p + s.refreshNs p) (unitNs (s.minPulse p)) begun) }) s) s

/-- The clamp acts on a pulse: CLAMPED for the running port period, counted once in it (R140). -/
def noteClamp (p : Fin 64) (s : State) : State :=
  if (s.pwm p).clampSeen then s
  else
    let s := (s.modPwm p fun w => { w with clampSeen := true }).count (PWM_CNT (pT p) (pI p)) PWM_CNT_CLAMP
    s.setBit (pwmStat p) PWM_STAT_CLAMPED true

/-- What a planned pulse of a leg comes to with the carry as it stands. -/
def State.shaped (s : State) (p : Fin 64) (b : Bool) (r : Planned) : Shaped :=
  shapePulse (s.fld (PWM_CTRL (pT p) (pI p)) PWM_CTRL_SPOL) r.carrier (s.deadTime p) (s.minPulse p) (s.carry p b) r.h

/-- The commanded high interval of a planned pulse that comes to a length in units. -/
def Planned.emitted (r : Planned) (high : Nat) : Rat × Rat :=
  let x1 := r.x0 + unitNs r.h
  match r.anchor with
  | .centre => ((r.x0 + x1) / 2 - unitNs high / 2, (r.x0 + x1) / 2 + unitNs high / 2)
  | .startAt => (r.x0, r.x0 + unitNs high)
  | .endAt => (x1 - unitNs high, x1)

/-- The turn-on of a planned pulse, the instant at which it is decided; that of its request where nothing is emitted (R138). -/
def State.turnOn (s : State) (p : Fin 64) (b : Bool) (r : Planned) : Rat :=
  let x := s.shaped p b r
  if x.high = 0 then r.x0 else (r.emitted x.high).1

/-- One pulse is decided: shaped, counted, its carry kept, and emitted (R138–R141). -/
def decidePulse (p : Fin 64) (b : Bool) (r : Planned) (s : State) : State :=
  let x := s.shaped p b r
  let s := s.setCarry p b x.carry
  let s := if x.short then s.count (PWM_CNT2 (pT p) (pI p)) PWM_CNT2_SHORT else s
  let s := if x.clamped then noteClamp p s else s
  if x.high = 0 then s
  else
    let y := r.emitted x.high
    trimRefresh p (s.modLeg p b fun l => { l with high := addHigh (y.1 - 2 * s.portT p) y l.high })

/-- The planned pulses of a leg, in their order, whose turn-on lies before an instant of the timebase are decided (R138). -/
def decideLeg (p : Fin 64) (b : Bool) (z : Rat) : List Planned → State → State
  | [], s => s.modLeg p b fun l => { l with planned := [] }
  | r :: rs, s =>
    if s.turnOn p b r < z then decideLeg p b z rs (decidePulse p b r s)
    else s.modLeg p b fun l => { l with planned := r :: rs }

/-! ## Output masks (R148) -/

/-- A selection comes before another: a later instant, or of one instant a higher code. -/
def MaskSel.before (x y : MaskSel) : Bool := decide (y.time < x.time) || (decide (y.time = x.time) && decide (y.rank ≤ x.rank))

/-- A selection put in its place: of one instant PWM_MASKSEL comes first and events follow in increasing code order, the last of
which stays in force (R148). -/
def addMask (x : MaskSel) : List MaskSel → List MaskSel
  | [] => [x]
  | y :: ys => if x.before y then x :: y :: ys else y :: addMask x ys

/-- A mask selection applies at an instant of the timebase, not before the first port valley of RUN, and counts (R148). -/
def selectMask (p : Fin 64) (x : Rat) (rank m : Nat) (s : State) : State :=
  let s := s.count (PWM_CNT2 (pT p) (pI p)) PWM_CNT2_MASKEV
  let x := match (s.pwm p).masks with | [y] => ratMax x y.time | _ => x
  let s := s.modPwm p fun w => { w with masks := (addMask ⟨x, rank, m⟩ w.masks).take 16 }
  let s := if s.maskPasses p m then s else s.modLoop p fun l => { l with masked := true }
  s.setFld (pwmStat p) PWM_STAT_MASK (((s.pwm p).masks.head?.map (·.mask)).getD m)

/-! ## Refresh pulses (R156) -/

/-- GD_STAT.REFRESHING from the first pulse of a sequence of either leg until it is restored or held off (R157). -/
def followRefreshing (p : Fin 64) (s : State) : State :=
  let g := s.gd p
  s.setBit (gdStat p) GD_STAT_REFRESHING (g.refreshRun[0] != 0 || g.refreshRun[1] != 0 || g.pulseDue[0] || g.pulseDue[1])

/-- A refresh pulse that is due begins at the port valley, counted and recorded, unless the mask state of its leg is OFF or LOW, or
the port is not in RUN (R156). -/
def insertPulse (p : Fin 64) (v : Nat) (s : State) (l : Fin 2) : State :=
  let k := (s.tile (tileOfPort p)).k
  match (s.gd p).refreshAt[l] with
  | none => s
  | some due =>
    if k < due ∨ s.portState p ≠ pRUN then s
    else
      let code := (s.maskAt p v).elim 0 fun m => s.maskCode p m (decide (l = 1))
      if code = 1 ∨ code = 2 then s.modGd p fun g => { g with refreshAt := g.refreshAt.set l.1 (some (k + 1)) l.2 }
      else
        let s := trimRefresh p (s.modGd p fun g => { g with refreshAt := g.refreshAt.set l.1 (some k) l.2 })
        let s := s.modPwm p fun x => { x with pulses := (((l.1, (v : Rat)) : Nat × Rat) :: x.pulses).take 4 }
        let s := record .refreshPulse 0 1 p [l] (s.count (GD_CNT2 (pT p) (pI p)) GD_CNT2_REFRESH)
        followRefreshing p (s.modGd p fun g => { g with
          refreshAt := g.refreshAt.set l.1 none l.2, pulseDue := g.pulseDue.set l.1 true l.2 })

/-! ## The pins settled (R149) -/

/-- The pulses decided and the pins of a port followed from where they were settled up to an instant of line time. A port that drives
no gate needs no settling. -/
def walkPins (p : Fin 64) (z : Rat) (s : State) : State :=
  let w := s.pwm p
  if z < w.pinAt ∨ (s.portState p ≠ pRUN ∧ w.tail = none ∧ w.on[0] = 0 ∧ w.on[1] = 0) then s
  else
    let s := decideLeg p false z (s.leg p false).planned s
    let s := decideLeg p true z (s.leg p true).planned s
    let keep := z - 2 * (s.portT p : Rat)
    let walk (b : Bool) : LegPins := s.legWalk p b z (s.pinBreaks p b w.pinAt z) (w.legPins b)
    let a := walk false
    let b := walk true
    s.modPwm p fun w => { (w.putLeg false keep a).putLeg true keep b with pinAt := z }

/-- What a port valley brings to the pins: the end of a carrier in which an entry to OFF landed, a selection of PWM_MASKSEL, or a
refresh pulse (R145, R148, R156). -/
def pinValley (p : Fin 64) (v : Nat) (s : State) : State :=
  let w := s.pwm p
  let s := s.modPwm p fun w => { w with valleyDone := true, selDue := false }
  if w.offDue then (if s.portState p = pRUN then s.modPwm p fun w => { w with tail := some (v : Rat) } else s)
  else
    let s := if w.selDue ∧ s.portState p = pRUN then
        selectMask p v 0 (s.forceFld (PWM_MASKSEL (pT p) (pI p)) PWM_MASKSEL_SEL) s
      else s
    insertPulse p v (insertPulse p v s 0) 1

/-- The pins of a port up to an instant of line time, with the port valley that has come by then (R135). -/
def settlePins (p : Fin 64) (z : Rat) (s : State) : State :=
  let s := match (s.pwm p).valleyAt with
    | some v => if (v : Rat) ≤ z ∧ !(s.pwm p).valleyDone then pinValley p v (walkPins p v s) else s
    | none => s
  walkPins p z s

/-- What has just changed acts on the pins from an instant of line time on. -/
def movePins (p : Fin 64) (soft : Bool) (y : Rat) (s : State) : State :=
  let keep := y - 2 * (s.portT p : Rat)
  let step (b : Bool) : LegPins := s.legStep p b soft y (fun r => decide (r ≤ y)) ((s.pwm p).legPins b)
  let a := step false
  let b := step true
  s.modPwm p fun w => { (w.putLeg false keep a).putLeg true keep b with pinAt := ratMax y w.pinAt }

/-- A change that acts on the pins past the edge pipeline at an instant: what was driven before it has acted up to then, and it acts
from then on (R149). -/
def pinChangeAt (p : Fin 64) (soft : Bool) (y : Rat) (f : State → State) (s : State) : State :=
  movePins p soft y (f (settlePins p y s))

def pinChange (p : Fin 64) (soft : Bool) (f : State → State) (s : State) : State := pinChangeAt p soft s.now f s

/-- A switch is on at its gate pin, as the pins were settled last. -/
def State.gate (s : State) (p : Fin 64) (sw : Nat) : Bool := swOf (swLeg sw) (s.pwm p).on[legIdx (swLeg sw)] == sw &&
  (s.pwm p).on[legIdx (swLeg sw)] != 0

/-! ## A port leaves or changes its state (R144) -/

/-- What a port gives up when it leaves RUN: the carry of R141, a trip in progress, a refresh sequence (R168), and the
loop state, which starts from zero at the next enable (R110). An entry to OFF leaves the trip to the carrier at the pins
(R147). -/
def leaveRun (p : Fin 64) (s : State) : State :=
  let s := s.setReg (PWM_CARRY (pT p) (pI p)) 0
  let s := if (s.pwm p).tail.isSome then s else s.setBit (pwmStat p) PWM_STAT_TRIPPING false
  let s := s.setBit (GD_STAT (pT p) (pI p)) GD_STAT_REFRESHING false
  let s := s.modGd p fun g => { g with
    refreshAt := Vector.replicate 2 none, refreshRun := Vector.replicate 2 0, pulseDue := Vector.replicate 2 false }
  let s := s.modPwm p fun w => { w with leg := w.leg.map fun l =>
    { l with endHalf := 0, alone := false, built := false, planned := [] } }
  (s.setReg (CR_DUTY (pT p) (pI p)) 0).setReg (CR_INTEG (pT p) (pI p)) 0

/-- The comparators of a port lose their power: they read inactive and UNKNOWN, and a self-check of them is over (R347). -/
def unpower (p : Fin 64) (s : State) : State :=
  (s.setReg (CMP_STAT (pT p) (pI p)) (regReset (CMP_STAT (pT p) (pI p)))).modPort p fun x =>
    { x with check := Vector.replicate 10 none }

/-- Off-state diagnostics run on a port (R169). -/
def State.underDiag (s : State) (p : Fin 64) : Bool :=
  match (s.tile (tileOfPort p)).diag with
  | some r => r.ports.head? == some (pI p)
  | none => false

/-- The state of a port changes, with what leaving RUN brings. Outside ARMED and RUN its comparators are unpowered once its gates
are off, but under off-state diagnostics (R347). -/
def movePort (p : Fin 64) (x : Nat) (s : State) : State :=
  let was := s.portState p
  let s := s.setPortState p x
  let s := if x = pARMED ∨ x = pRUN ∨ (s.pwm p).tail.isSome ∨ s.underDiag p then s else unpower p s
  if was = pRUN ∧ x ≠ pRUN then leaveRun p s else s

/-- A port that ran in LOOP has left RUN at an instant: its partner in RUN goes back to ARMED there (R144), unless it has its own entry
to OFF before it. -/
def followPartner (p : Fin 64) (x : Nat) (loopRan : Bool) (y : Rat) (s : State) : State :=
  match s.partner p with
  | some q =>
    if loopRan ∧ x ≠ pRUN ∧ q ≠ p ∧ s.portState q = pRUN ∧ !s.direct q ∧ !(s.pwm q).offDue then
      pinChangeAt q false y (movePort q pARMED) s
    else s
  | none => s

/-- A port leaves what it is in, with a soft turn-off where R165 asks for it; its partner and the device state follow (R144, R272).
Rank 1 acts on the pins at once (R149). -/
def State.enterPortBy (s : State) (p : Fin 64) (x : Nat) (soft : Bool) : State :=
  let loopRan := s.portState p == pRUN && !s.direct p
  followPorts (followPartner p x loopRan s.now (pinChange p soft (movePort p x) s))

def State.enterPort (s : State) (p : Fin 64) (x : Nat) : State := s.enterPortBy p x false

/-! ## Faults (R307–R318) -/

/-- The classes whose records are always critical (R314, R317). -/
def critClass (cls : Nat) : Bool := cls = 19 || cls = 20 || cls = 27 || cls = 48 || cls = 49

/-- The reaction entry of a class on an axis (R316). -/
def State.rxEntry (s : State) (a : Fin 32) (cls : Nat) : Nat :=
  s.fld (MP_RX a (cls / 8)) (MP_RX_ENTRY (cls % 8))

/-- The severity of the record of a fault (R314). -/
def faultSev (cls rx : Nat) : Nat := if critClass cls then 3 else if rx = 0 then 0 else if rx = 1 then 1 else 2

/-- A port that is ARMED or RUN goes to PROTECTED, all off, at once (R144, R309). -/
def protectPort (p : Fin 64) (s : State) : State :=
  if (s.portState p = pARMED ∨ s.portState p = pRUN) ∧ !s.offLanded p then s.enterPort p pPROTECTED else s

/-- Where a fault stands: scope code and unit index of FAULT_REPORT parameter 1 (R318). -/
structure FaultScope where
  scope : Nat
  idx : Nat
  deriving DecidableEq, Repr

/-- The instant at which a fault is taken to have reached the hedge: for one that a period of the tile found, its cut-off, so that its
reaction lands at the boundary that ends the period (R309; the instant within the period is a DESIGN CHOICE, log). -/
def State.faultAt (s : State) (a : Fin 32) : Nat :=
  match (s.tile (tileOf a)).closing with
  | some b => b - 500
  | none => s.now

/-- What the period of a tile that ended at b found is carried out (R309). -/
def ofPeriod (t : Fin 4) (b : Nat) (f : State → State) (s : State) : State :=
  let was := (s.tile t).closing
  (f (s.modTile t fun x => { x with closing := some b })).modTile t fun x => { x with closing := was }

/-- What the period of a tile that ended at its last boundary found is carried out. -/
def onPeriod (t : Fin 4) (f : State → State) (s : State) : State := ofPeriod t (s.boundary t) f s

/-- A fault of a class is raised against one axis at reaction `rx` (R309, R311, R314, R318): the record, FAULTS,
the supervisor's event 16, the episode, the reaction on its way to its boundary, and for DISABLE and PORT_OFF both
ports to PROTECTED at once. -/
def raiseFaultRx (cls rx : Nat) (sc : FaultScope) (detail : Nat) (a : Fin 32) (s : State) : State :=
  let sev := faultSev cls rx
  let s := record (.fault cls) sev 0 a [detail, sc.scope * 256 + sc.idx, rx] s
  let s := s.count (MP_FLT_CNT a) MP_FLT_CNT_FAULTS
  let s := latchEvent (supOf (tileOf a)) 16 (cls + a.1 * 65536) s
  let st := MP_FLT_STAT a
  let pend : PendRx := ⟨cls, rx, s.faultAt a, sc.scope, sc.idx, detail⟩
  let mark : FaultMark := ⟨cls, rx, sc.scope, sc.idx, detail⟩
  if s.bit st MP_FLT_STAT_EPISODE then
    let ep := (s.axis a).ep
    let s := s.modAxis a fun x => { x with ep :=
      { ep with
        count := ep.count + 1, sev := max ep.sev sev, classes := mark :: ep.classes,
        pend := if rx = 0 then ep.pend else ep.pend ++ [pend] } }
    if 5 ≤ rx then protectPort (s.portOf a true) (protectPort (s.portOf a false) s) else s
  else if rx = 0 then s
  else
    let s := s.count (MP_FLT_CNT a) MP_FLT_CNT_EPISODES
    let s := (s.setBit st MP_FLT_STAT_EPISODE true).setFld st MP_FLT_STAT_FIRST cls
    let s := (s.setFld st MP_FLT_STAT_REPORTS 0).setBit st MP_FLT_STAT_SETTLED false
    let s := s.modAxis a fun x => { x with ep :=
      { firstAt := s.faultAt a, detail := detail, count := 1, sev := sev, scope := sc.scope, scopeIdx := sc.idx,
        landAt := 0, pend := (s.axis a).ep.pend ++ [pend], classes := [mark], past := [], reported := false } }
    if 5 ≤ rx then protectPort (s.portOf a true) (protectPort (s.portOf a false) s) else s

/-- A fault of a class is raised against one axis, at its reaction entry (R316). -/
def raiseFault (cls : Nat) (sc : FaultScope) (detail : Nat) (a : Fin 32) (s : State) : State :=
  raiseFaultRx cls (s.rxEntry a cls) sc detail a s

/-- A fault of a class is raised against several axes. -/
def raiseFaultAll (cls : Nat) (sc : FaultScope) (detail : Nat) (axes : List (Fin 32)) (s : State) : State :=
  axes.foldl (fun s a => raiseFault cls sc detail a s) s

/-- A fault of a port is raised against the axis mapped to it (R315). -/
def raisePortFault (cls : Nat) (p : Fin 64) (detail : Nat) (s : State) : State :=
  match s.axisOfPort p with
  | some x => raiseFault cls ⟨1, p⟩ detail x.1 s
  | none => s

/-- A fault of a leg of a port is raised against the axis mapped to it (R315, R318). -/
def raiseLegFault (cls : Nat) (p : Fin 64) (leg : Nat) (detail : Nat) (s : State) : State :=
  match s.axisOfPort p with
  | some x => raiseFault cls ⟨0, 2 * p.1 + leg⟩ detail x.1 s
  | none => s

end Sys2Proof.Machine
end

