-- ==== Sys2Proof/Machine/Schedule.lean ====
section
/-! DEFINITION. The converters of a tile as the rest of the tile sees them (spec/11): what a conversion gives of its input
(R193), the control schedule and its placement on the two converters (R184, R186, R187), and injected conversions (R190). -/

namespace Sys2Proof.Machine

/-! ## Parts of a converter -/

def State.conv (s : State) (t : Fin 4) (x : Fin 2) : Converter := (s.tile t).conv[x]

def State.modConv (s : State) (t : Fin 4) (x : Fin 2) (f : Converter → Converter) : State :=
  s.modTile t fun y => { y with conv := y.conv.set x (f y.conv[x]) }

/-- ADC_STAT.STATE: 0 ACTIVE, 1 CARRYING, 2 FGCAL, 3 RETIRED, 4 INIT. -/
def State.convState (s : State) (t : Fin 4) (x : Fin 2) : Nat := s.fld (ADC_STAT t x) ADC_STAT_STATE

def State.setConvState (s : State) (t : Fin 4) (x : Fin 2) (v : Nat) : State := s.setFld (ADC_STAT t x) ADC_STAT_STATE v

/-- The other converter of a tile. -/
def otherConv (x : Fin 2) : Fin 2 := if x = 0 then 1 else 0

/-- A converter that converts for its tile: ACTIVE or CARRYING. -/
def State.convUp (s : State) (t : Fin 4) (x : Fin 2) : Bool := s.convState t x ≤ 1

/-- The converter that does the work of converter `x`: itself, or its partner in single operation (R190, R197). -/
def State.worker (s : State) (t : Fin 4) (x : Fin 2) : Option (Fin 2) :=
  if s.convUp t x then some x else if s.convUp t (otherConv x) then some (otherConv x) else none

/-- The converters that carry the tile's control schedule: both, one, or none. -/
def State.carriers (s : State) (t : Fin 4) : Option (Option (Fin 2)) :=
  match s.convUp t 0, s.convUp t 1 with
  | true, true => some none
  | true, false => some (some 0)
  | false, true => some (some 1)
  | false, false => none

/-- One converter carries the tile (R197). -/
def State.single (s : State) (t : Fin 4) : Bool := s.bit (ADC_TSTAT t) ADC_TSTAT_SINGLE

/-! ## Conversions (R184, R193) -/

/-- The code of an input: 14 bits, saturated at its ends. -/
def clipCode (v : Int) : Int := max (-8192) (min 8191 v)

/-- An input beyond the range of its channel. -/
def outOfRange (v : Int) : Bool := decide (v < -8192) || decide (8191 < v)

/-- The samples of inputs that follow each other on a converter, after three others: OVR where the input is out of range, SETTLE where
one of the three before it was. A converter samples at every clock (R193, R194). -/
def shots (a b c : Int) : List Int → List Sample
  | [] => []
  | v :: vs => ⟨clipCode v, outOfRange v, outOfRange a || outOfRange b || outOfRange c⟩ :: shots b c v vs

/-- The samples of a conversion or a group. -/
def samplesOf : Intake → List Sample
  | a :: b :: c :: vs => shots a b c vs
  | _ => []

/-- The sample of one conversion. -/
def sampleOf (l : Intake) : Sample := (samplesOf l).headD ⟨0, false, false⟩

/-- What was sampled at a port, as conversions. -/
structure PortRead where
  window : List Sample
  burst : List Sample
  bridge : List Sample
  comps : List (BitVec 15)
  deriving DecidableEq, Repr

def portRead (x : PortIn) : PortRead := ⟨samplesOf x.window, samplesOf x.burst, x.bridge.map sampleOf, x.comps⟩

/-- What a tile sampled in a period, as conversions. -/
structure TileRead where
  ports : List PortRead
  vbus : List (Sample × Sample)
  again : List (Sample × Sample)
  bandgap : Sample × Sample
  deriving DecidableEq, Repr

/-- A conversion without three others before it. -/
def loneSample (v : Int) : Sample := ⟨clipCode v, outOfRange v, false⟩

def tileRead (i : TileIn) : TileRead :=
  let pair (x : Intake × Intake) : Sample × Sample := (sampleOf x.1, sampleOf x.2)
  ⟨i.ports.map portRead, i.vbus.map pair, i.again.map pair, (loneSample i.bandgap.1, loneSample i.bandgap.2)⟩

/-! ## Instants (R184) -/

/-- Instants in units of 156.25 ps: of a multiple of 5 ns, and the first not before an instant in ns. -/
def nsUnits (ns : Nat) : Nat := (ns * 32 + 4) / 5

/-- One conversion takes a converter for 12.5 ns. -/
def shotUnits : Nat := 80

/-- An interval of a length from an instant on meets one at which the converter is taken. -/
def Taken.meets (i : Taken) (len z : Nat) : Bool := decide (i.start < z + len) && decide (z < i.stop)

/-- The first instant from `z` on from which a converter is free for a length. The fuel is the number of intervals. -/
def firstFree (l : List Taken) (len : Nat) : Nat → Nat → Nat
  | 0, z => z
  | n + 1, z => match l.find? fun i => i.meets len z with
    | some i => firstFree l len n i.stop
    | none => z

/-- The first free instant on a converter. -/
def freeOn (l : List Taken) (x : Fin 2) (len z : Nat) : Nat :=
  let m := l.filter fun i => i.conv = x
  firstFree m len (m.length + 1) z

/-! ## Windows and bursts (R106, R120, R187) -/

/-- A group of the control schedule: its first nominal sample instant in units, burst after window, port of the tile. -/
structure Group where
  start : Nat
  burst : Bool
  port : Nat
  deriving DecidableEq, Repr

/-- The order of R187: first nominal instant, windows before bursts, ascending port. -/
def Group.before (g h : Group) : Bool :=
  decide (g.start < h.start) ||
  (g.start == h.start && ((!g.burst && h.burst) || (g.burst == h.burst && decide (g.port < h.port))))

def insertGroup (g : Group) : List Group → List Group
  | [] => [g]
  | h :: hs => if g.before h then g :: h :: hs else h :: insertGroup g hs

/-- The samples of a group (R106, R120, R197). -/
def State.groupLen (s : State) (t : Fin 4) : Nat := if s.single t then 4 else 8

/-- The groups of the period from line time `b`: the window of every port and the bursts of the injected axes, 12.5 ns a
sample around its centre (R106, R120, R186). -/
def State.groups (s : State) (t : Fin 4) (b : Nat) : List Group :=
  let T := nsUnits (s.period t)
  let half := shotUnits * (s.groupLen t - 1) / 2
  (tilePorts t).foldl (fun l p =>
    let c := nsUnits (b + s.stagger p)
    let l := insertGroup ⟨c + T / 2 - half, false, pI p⟩ l
    match s.axisOfPort p with
    | some (a, _) => if (s.axis a).obs.injOn then insertGroup ⟨c + T / 4 - half, true, pI p⟩ l else l
    | none => l) []

/-- The conversions of a group, one by one. -/
def Taken.shots (g : Taken) (n : Nat) : List Taken :=
  (List.range n).map fun j => { g with start := g.start + shotUnits * j, stop := g.start + shotUnits * (j + 1) }

/-- Where the groups go; `x` and `y` are the instants at which the converters are free, and in single operation only one is used
(R187). -/
def placeGroups (len : Nat) (only : Option (Fin 2)) : Nat → Nat → List Group → List Taken
  | _, _, [] => []
  | x, y, g :: gs =>
    let useX := match only with
      | some 0 => true
      | some _ => false
      | none => decide (x ≤ g.start) || (!decide (y ≤ g.start) && decide (x ≤ y))
    let free := if useX then x else y
    let z := max g.start free
    let e := z + shotUnits * len
    ⟨if useX then 0 else 1, z, e, if g.burst then .burst else .window, g.port, decide (g.start < free)⟩ ::
      (if useX then placeGroups len only e y gs else placeGroups len only x e gs)

/-- The windows and bursts of the period that begins take their converters, in place of any placed for it before; what ended before
the period that has ended is forgotten. -/
def openSchedule (t : Fin 4) (s : State) : State :=
  let b := s.boundary t
  let old := nsUnits (b - s.period t)
  let kept := (s.tile t).taken.filter fun i =>
    decide (old ≤ i.stop) && !(decide (nsUnits b ≤ i.start) && (i.taker == .window || i.taker == .burst))
  let s := ([0, 1] : List (Fin 2)).foldl (fun (s : State) x =>
    s.modConv t x fun y => { y with overs := y.overs.filter fun z => decide (old ≤ z) }) s
  let new := match s.carriers t with
    | some only => placeGroups (s.groupLen t) only 0 0 (s.groups t b)
    | none => []
  s.modTile t fun x => { x with taken := kept ++ new }

/-! ## Bridge voltages and shared pairs (R116, R186, R187) -/

def insertRead (r : Nat × Nat) : List (Nat × Nat) → List (Nat × Nat)
  | [] => [r]
  | h :: hs => if r.1 < h.1 ∨ (r.1 = h.1 ∧ r.2 ≤ h.2) then r :: h :: hs else h :: insertRead r hs

/-- The quarter instants of the ports in the period from line time `b`, in their order and ascending port: those of port time 0, T/4,
T/2 and 3T/4 (R116). -/
def State.quarters (s : State) (t : Fin 4) (b : Nat) : List (Nat × Nat) :=
  let T := s.period t
  (tilePorts t).foldl (fun l p =>
    (List.range 4).foldl (fun l j => insertRead (nsUnits (b + (s.stagger p + j * T / 4) % T), pI p) l) l) []

/-- Reads of bridge voltages: each at the first instant from its quarter instant on at which a converter is free, X before Y. -/
def placeReads (only : Option (Fin 2)) : List Taken → List (Nat × Nat) → List Taken
  | _, [] => []
  | l, r :: rs =>
    let f (x : Fin 2) : Nat := freeOn l x shotUnits r.1
    let x : Fin 2 := match only with
      | some x => x
      | none => if f 0 ≤ f 1 then 0 else 1
    let i : Taken := ⟨x, f x, f x + shotUnits, .bridge, r.2, false⟩
    i :: placeReads only (i :: l) rs

/-- Shared pairs of VBUS at tile time T/8, 3T/8, 5T/8, 7T/8: each at the first instant at which both converters are free (R187). -/
def placePairs (only : Option (Fin 2)) (l : List Taken) : List Nat → List Taken
  | [] => []
  | z :: zs =>
    let m := match only with
      | some x => l.filter fun i => i.conv = x
      | none => l
    let f := firstFree m shotUnits (m.length + 1) z
    let i (x : Fin 2) : Taken := ⟨x, f, f + shotUnits, .shared, 0, false⟩
    (match only with
      | some x => [i x]
      | none => [i 0, i 1]) ++ placePairs only l zs

/-- The bridge voltages and the shared pairs of the period from the last boundary, after the windows, the bursts and the injected
conversions, which have priority over them (R186). -/
def State.lowerSchedule (s : State) (t : Fin 4) : List Taken :=
  match s.carriers t with
  | none => []
  | some only =>
    let b := s.boundary t
    let high := (s.tile t).taken.filter fun i => i.taker != .entry && i.taker != .bridge && i.taker != .shared
    let reads := placeReads only high (s.quarters t b)
    let T := nsUnits (s.period t)
    reads ++ placePairs only (reads ++ high) ((List.range 4).map fun j => nsUnits b + (2 * j + 1) * T / 8)

/-! ## Over-range (R193) -/

/-- The first sample that lies so long after an over-range sample of its converter is clean. -/
def settleUnits : Nat := 320

/-- A sample at an instant carries SETTLE where its converter has seen an over-range less than 50 ns before. -/
def settleAfter (overs : List Nat) (z : Nat) (v : Sample) : Sample :=
  { v with settle := v.settle || overs.any fun o => decide (o < z) && decide (z < o + settleUnits) }

/-- An over-range sample is counted, and its instant kept. -/
def noteOver (t : Fin 4) (x : Fin 2) (z : Nat) (v : Sample) (s : State) : State :=
  if v.ovr then (s.count (ADC_CNT t x) ADC_CNT_OVR).modConv t x fun y => { y with overs := z :: y.overs } else s

/-- A conversion whose instant the schedule does not hold counts its over-range alone. -/
def countOver (t : Fin 4) (x : Fin 2) (v : Sample) (s : State) : State := if v.ovr then s.count (ADC_CNT t x) ADC_CNT_OVR else s

/-- The conversions of the control schedule of the period that ends, by what they convert: of the windows and bursts of a port, of its
bridge voltage, and of the shared pairs on a converter. -/
def State.slots (s : State) (t : Fin 4) (low : List Taken) (k : Taker) (p : Nat) : List Taken :=
  let b := nsUnits (s.boundary t)
  match k with
  | .window | .burst =>
    ((s.tile t).taken.filter fun i => decide (b ≤ i.start) && i.taker == k && i.idx == p).flatMap (·.shots (s.groupLen t))
  | .bridge => low.filter fun i => i.taker == .bridge && i.idx == p
  | .shared => low.filter fun i => i.taker == .shared && i.conv.1 == p
  | .injected | .entry => []

/-- What the control schedule of the period that ends converted, each with where it was taken. -/
def State.conversions (s : State) (t : Fin 4) (low : List Taken) (i : TileRead) : List (Taken × Sample) :=
  let port (p : Nat) : PortRead := i.ports.getD p ⟨[], [], [], []⟩
  ((List.range 16).flatMap fun p => (s.slots t low .window p).zip (port p).window ++ (s.slots t low .burst p).zip (port p).burst ++
    (s.slots t low .bridge p).zip (port p).bridge) ++
  (s.slots t low .shared 0).zip (i.vbus.map (·.1)) ++ (s.slots t low .shared 1).zip (i.vbus.map (·.2))

/-- The control schedule of the period that ends is accounted: WSHIFT for each displaced group, and OVR on the converter that took the
sample (R187, R193). -/
def accountSchedule (t : Fin 4) (low : List Taken) (i : TileRead) (s : State) : State :=
  let b := nsUnits (s.boundary t)
  let s := ((s.tile t).taken.filter fun i => decide (b ≤ i.start) && i.shifted).foldl
    (fun (s : State) _ => s.count (ADC_TCNT t) ADC_TCNT_WSHIFT) s
  let s := (s.conversions t low i).foldl (fun (s : State) r => noteOver t r.1.conv r.1.start r.2 s) s
  s.modTile t fun x => { x with taken := x.taken ++ low }

/-- What was sampled, each sample with SETTLE where it followed an over-range of its converter, whatever was converted then. -/
def State.settled (s : State) (t : Fin 4) (low : List Taken) (i : TileRead) : TileRead :=
  let mark (l : List Taken) (vs : List Sample) : List Sample :=
    (l.zip vs).map (fun r => settleAfter (s.conv t r.1.conv).overs r.1.start r.2) ++ vs.drop l.length
  let port (r : Nat × PortRead) : PortRead :=
    ⟨mark (s.slots t low .window r.1) r.2.window, mark (s.slots t low .burst r.1) r.2.burst,
      mark (s.slots t low .bridge r.1) r.2.bridge, r.2.comps⟩
  { i with
    ports := ((List.range 16).zip i.ports).map port
    vbus := (mark (s.slots t low .shared 0) (i.vbus.map (·.1))).zip (mark (s.slots t low .shared 1) (i.vbus.map (·.2))) }

/-! ## Sequence entries (R188, R189) -/

/-- A trigger of an entry of a converter: the instant at which its conversion is scheduled, and that of the next trigger. -/
structure Due where
  conv : Fin 2
  entry : Nat
  instant : Nat
  next : Nat
  deriving DecidableEq, Repr

/-- The order of conversions: their scheduled instants, and at equal instants ascending entry number, X before Y (R189). -/
def Due.before (d e : Due) : Bool :=
  decide (d.instant < e.instant) || (d.instant == e.instant &&
    (decide (d.entry < e.entry) || (d.entry == e.entry && decide (d.conv < e.conv))))

/-- The latest two triggers of an entry whose conversions are scheduled up to an instant, the earlier first. The instants of TRIG 0b00 to
0b10 are tile boundary, port valley and PWM centre plus DELAY; those of TRIG 0b11 follow the boundary at which the entry landed
(R188). -/
def State.entryDue (s : State) (t : Fin 4) (x : Fin 2) (e u : Nat) : List Due :=
  let c := ADC_SEQ_CFG t x e
  let d := s.forceFld c ADC_SEQ_CFG_DELAY
  let land := nsUnits ((s.conv t x).landed.toArray.getD e 0)
  let trig := s.forceFld c ADC_SEQ_CFG_TRIG
  let p := devPort t (s.forceFld c ADC_SEQ_CFG_PORT)
  let T := nsUnits (s.period t)
  let off := if trig = 0 then 0 else nsUnits (s.stagger p) + (if trig = 2 then T / 2 else 0)
  if trig = 3 then two (32 * (d + 1)) land land 0 else two T 0 (off + land) (32 * d)
where
  /-- Of the triggers at `base` and every `ivl` after it, not before `first`, each followed by its conversion after `delay`. -/
  two (ivl base first delay : Nat) : List Due :=
    if u < first + delay ∨ ivl = 0 then []
    else
      let m := (u - delay - base) / ivl
      ((if m = 0 then [0] else [m - 1, m]).map fun m => base + m * ivl).filterMap fun z =>
        if first ≤ z then some ⟨x, e, z + delay, z + ivl⟩ else none

def insertDue (d : Due) : List Due → List Due
  | [] => [d]
  | e :: es => if d.before e then d :: e :: es else e :: insertDue d es

/-- An entry that converts: enabled, and not invalid (R188). -/
def State.entryOn (s : State) (t : Fin 4) (x : Fin 2) (e : Nat) : Bool :=
  e != 0 && s.forceBit (ADC_SEQ_CFG t x e) ADC_SEQ_CFG_EN && !s.bit (ADC_RES t x e) ADC_RES_INVALID

/-- The triggers of the entries of a tile whose conversions are scheduled up to an instant and have given neither a result nor MISSED, in
the order of their conversions. -/
def State.entriesDue (s : State) (t : Fin 4) (u : Nat) : List Due :=
  ([0, 1] : List (Fin 2)).foldl (fun l x => (List.range 32).foldl (fun l e =>
    if s.entryOn t x e then
      ((s.entryDue t x e u).filter fun d => decide ((s.conv t x).served.toArray.getD e 0 < d.instant)).foldl (fun l d => insertDue d l) l
    else l) l) []

/-- Where conversions of entries are taken: each at the first free instant from its own on, and one that cannot start before its next
trigger takes nothing (R189). -/
def State.placeDues (s : State) (t : Fin 4) : List Taken → List Due → List (Due × Taken)
  | _, [] => []
  | busy, d :: ds => match s.worker t d.conv with
    | none => State.placeDues s t busy ds
    | some src =>
      let f := freeOn busy src shotUnits d.instant
      let i : Taken := ⟨src, f, f + shotUnits, .entry, d.entry, false⟩
      (d, i) :: State.placeDues s t (if f < d.next then i :: busy else busy) ds

/-- The conversions of entries due up to an instant, after those of higher priority and those whose results are there (R186, R189). -/
def State.entryPlan (s : State) (t : Fin 4) (u : Nat) : List (Due × Taken) :=
  s.placeDues t ((s.tile t).taken ++ s.lowerSchedule t) (s.entriesDue t u)

/-! ## Injected conversions (R190) -/

/-- What an injected conversion triggered at an instant waits for: windows and bursts, other injected conversions, and any conversion
that has begun, which is at least 12.5 ns away (R184, R190). -/
def State.injBusy (s : State) (t : Fin 4) (u : Nat) : List Taken :=
  let begun (i : Taken) : Bool := decide (i.start ≤ u)
  ((s.tile t).taken.filter fun i => i.taker == .window || i.taker == .burst || i.taker == .injected || begun i) ++
    (s.lowerSchedule t).filter begun ++
    ((s.entryPlan t u).filter fun r => decide (r.2.start < r.1.next) && begun r.2).map (·.2)

/-- A trigger of the injected conversion: taken while armed and not pending, otherwise counted. The conversion is taken at the first
instant that is not inside an open window or burst of the converter that works for it and lies 12.5 ns from every other conversion on
it (R184, R190). -/
def injTrigger (t : Fin 4) (x : Fin 2) (s : State) : State :=
  let r := ADC_INJ t x
  if !s.bit r ADC_INJ_ARM ∨ (s.conv t x).injPend.isSome then s.count (ADC_CNT t x) ADC_CNT_INJDROP
  else
    let ch := s.fld r ADC_INJ_CH
    let w := (s.worker t x).getD x
    let u := nsUnits s.now
    let z := freeOn (s.injBusy t u) w shotUnits u
    let s := (s.setBit r ADC_INJ_ARM false).modConv t x fun y => { y with injPend := some (ch, z) }
    s.modTile t fun y => { y with taken := y.taken ++ [⟨w, z, z + shotUnits, .injected, ch, false⟩] }

/-- The filtered output of a comparator of a tile goes active, 10p + i of its ports and 160 + i of its monitors: a trigger for each
converter that names it in CMPSEL with SRC = 1. -/
def injCompare (t : Fin 4) (c : Nat) (s : State) : State :=
  ([0, 1] : List (Fin 2)).foldl (fun (s : State) (x : Fin 2) =>
    if s.bit (ADC_INJ t x) ADC_INJ_SRC ∧ s.fld (ADC_INJ t x) ADC_INJ_CMPSEL = c then injTrigger t x s else s) s

end Sys2Proof.Machine
end

