-- ==== Sys2Proof/Machine/Views.lean ====
section
/-! DEFINITION. Where a BAR0 offset lies, who may read and write it (R225), and what a read returns (R256): the
register file, but for the registers whose value is computed on a read. -/

namespace Sys2Proof.Machine

/-- The register blocks of R225. -/
inductive Block where
  | global | net | recorder
  | cabinet (c : Fin 4)
  | engine (e : Fin 46)
  | axis (a : Fin 32)
  | port (p : Fin 64)
  /-- The comparator block and the adaptive-state registers of a port. -/
  | portSense (p : Fin 64)
  | tile (t : Fin 4)
  | none
  deriving DecidableEq, Repr

/-- The block that holds a BAR0 offset. -/
def blockOf (a : Nat) : Block :=
  if a < 0x10000 then .global
  else if a < 0x20000 then .net
  else if a < 0x30000 then .recorder
  else if a < 0x30000 + 46 * 0x40 then .engine (finEng ((a - 0x30000) / 0x40))
  else if a < 0x40000 then .none
  else if a < 0x44000 then .cabinet (finCab ((a - 0x40000) / 0x1000))
  else if a < 0x100000 then .none
  else if a < 0x110000 then .axis (finAx ((a - 0x100000) / 0x800))
  else if a < 0x200000 then .none
  else if a < 0x300000 then
    let t := finTile ((a - 0x200000) / 0x40000)
    let o := (a - 0x200000) % 0x40000
    if 0x1000 ≤ o ∧ o < 0x2000 then .port (devPort t ((o - 0x1000) / 0x100))
    else if 0x3000 ≤ o ∧ o < 0x3400 then .portSense (devPort t ((o - 0x3000) / 0x40))
    else if 0x6000 ≤ o ∧ o < 0x6200 then .portSense (devPort t ((o - 0x6000) / 0x20))
    else .tile t
  else .none

/-- The axis engine serves an axis: its owner, otherwise none (R225). -/
def State.engOwner (s : State) (e : Fin 46) : Option (Fin 4) := (s.axisOfEng e).map s.ownerAx

/-- The function of cabinet `c` may read the register (R225). -/
def State.mayRead (s : State) (c : Fin 4) (a : Nat) : Bool :=
  match blockOf a with
  | .global | .net | .recorder => true
  | .cabinet d => c = d
  | .axis x => c = s.ownerAx x
  | .port p | .portSense p => c = s.ownerPort p
  | .tile t => c = s.ownerTile t || (tileAxes t).any fun x => s.ownerAx x = c
  | .engine e => match s.engOwner e with | some d => c = d | none => true
  | .none => true

/-- The function of cabinet `c` may write the register (R225). -/
def State.mayWrite (s : State) (c : Fin 4) (a : Nat) : Bool :=
  match blockOf a with
  | .global | .net | .recorder => c = 0
  | .cabinet d => c = d
  | .axis x => c = s.ownerAx x
  | .port p | .portSense p => c = s.ownerPort p
  | .tile t => c = s.ownerTile t
  | .engine e => match s.engOwner e with | some d => c = d | none => c = 0
  | .none => false

/-- The cabinet that owns a register for writing, for locks and segments (R257, R266). -/
def State.writeOwner (s : State) (a : Nat) : Fin 4 :=
  match blockOf a with
  | .cabinet d => d
  | .axis x => s.ownerAx x
  | .port p | .portSense p => s.ownerPort p
  | .tile t => s.ownerTile t
  | .engine e => (s.engOwner e).getD 0
  | _ => 0

/-- The segment of the privet scan that holds a register (R266). -/
def segmentOf (a : Nat) : Nat :=
  match blockOf a with
  | .axis x => (tileOf x).1
  | .port p | .portSense p => (tileOfPort p).1
  | .tile t => t.1
  | .engine e => if e.1 < 40 then e.1 / 10 else if e.1 < 44 then e.1 - 40 else 4
  | _ => 4

/-- The parameter bank that the MP_PV to MP_PJ window shows (BANK_SEL). -/
def State.winBank (s : State) (a : Fin 32) : Bank :=
  (s.axis a).bank.getD (s.fld (MP_CTRL a) MP_CTRL_BANK_SEL) Bank.init

/-- The word of a window register of an axis, if the offset is one: 0x30 to 0x4C as MP_PV, MP_PA, MP_PD, MP_PJ. -/
def State.windowWord (s : State) (a : Fin 32) (addr : Nat) : Option Nat :=
  let b := s.winBank a
  if addr = MP_PV_LO a then some b.v else if addr = MP_PV_HI a then some (b.v / 2 ^ 32)
  else if addr = MP_PA_LO a then some b.a else if addr = MP_PA_HI a then some (b.a / 2 ^ 32)
  else if addr = MP_PD_LO a then some b.d else if addr = MP_PD_HI a then some (b.d / 2 ^ 32)
  else if addr = MP_PJ_LO a then some b.j else if addr = MP_PJ_HI a then some (b.j / 2 ^ 32)
  else none

/-- The active image of an engine: 0 for A, 1 for B. -/
def State.imgIdx (s : State) (e : Fin 46) : Fin 2 := if s.bit (ENG_STAT e) ENG_STAT_IMG_B then 1 else 0

/-- A word of a sparse data memory. -/
def memWord (l : List (Nat × Word)) (w : Nat) : Word := (cellGet l w).getD 0

/-- The modes in force on the tiles as LT_MODE_DEV shows them. -/
def State.modeDev (s : State) : Nat :=
  let m (t : Nat) := s.fld (LT_TILE_MODE t) LT_TILE_MODE_MODE
  if m 0 = m 1 ∧ m 1 = m 2 ∧ m 2 = m 3 then m 0 else 0x1FF

/-- The bits of a register that the privet scan covers (R265). -/
def coveredMask (a : Nat) : Word :=
  match regLookup a with
  | some (r, _) => r.fields.foldl (fun m f => if f.covered then m ||| f.fld.mask else m) 0
  | none => 0

/-- The number of covered registers (R265). -/
def coveredCount : Nat := ((List.range 0x200000).filter fun i => coveredMask (4 * i) != 0).length

/-- What a register holds, views computed (but CFG_REF). -/
def State.view (s : State) (a : Nat) : Word :=
  if a = LT_NOW_LO then BitVec.ofNat 32 s.now
  else if a = LT_NOW_HI then BitVec.ofNat 32 (s.now / 2 ^ 32)
  else if a = LT_MODE_DEV then BitVec.ofNat 32 s.modeDev
  else if a = CFG_SCAN_INFO then CFG_SCAN_INFO_COVERED.put (s.reg a) coveredCount
  else match blockOf a with
    | .cabinet c => if a = HIF_CAB_AXES c then BitVec.ofNat 32 (s.cabAxes c) else s.reg a
    | .axis x =>
      match s.windowWord x a with
      | some w => BitVec.ofNat 32 w
      | none =>
        if a = CR_TAB_RD x then
          let r := s.reg a
          let b := (s.fld (CR_TAB x) CR_TAB_ACTIVE_BUF + CR_TAB_RD_BUF.get r) % 2
          CR_TAB_RD_DATA.put r ((if b = 0 then (s.axis x).table[0] else (s.axis x).table[1]).entry
            (CR_TAB_RD_IDX.get r))
        else s.reg a
    | .engine e =>
      if a = ENG_DDATA e then
        memWord ((s.eng e).data[s.imgIdx e]) (s.fld (ENG_DADDR e) ENG_DADDR_WORD)
      else s.reg a
    | _ => s.reg a

/-- The registers of a segment of a cabinet in ascending offset (R266). -/
def State.segment (s : State) (c : Fin 4) (seg : Nat) : List Nat :=
  ((List.range 0x200000).map (4 * ·)).filter fun a =>
    coveredMask a != 0 && decide (s.writeOwner a = c) && segmentOf a == seg

/-- The CRC of a segment over the values the registers hold (R266). -/
def State.segCrc (s : State) (c : Fin 4) (seg : Nat) : Word :=
  BitVec.ofNat 32 (crc32c ((s.segment c seg).flatMap fun a => leBytes (s.view a &&& coveredMask a).toNat 4))

/-- The reference of a segment: it follows every write, so it is the CRC of the values written; a bit upset leaves
it and turns up as the syndrome `upset` (R267). -/
def State.segRef (s : State) (c : Fin 4) (seg : Nat) : Word :=
  s.segCrc c seg ^^^ (s.dev.upset[c]).toArray.getD seg 0

/-- What a read of a register returns to one who may read it. -/
def State.read (s : State) (a : Nat) : Word :=
  match blockOf a with
  | .cabinet c => if a = CFG_REF c then s.segRef c (s.fld (CFG_LOCK c) CFG_LOCK_REF_SEL) else s.view a
  | _ => s.view a

/-- The registers a host reads in HALT (R273). -/
def haltReadable (a : Nat) : Bool :=
  a == GLB_REV || a == GLB_STATE || a == GLB_BOOT || a == GLB_FW || a == GLB_RECOV_CTRL ||
  a == GLB_RECOV_ADDR_LO || a == GLB_RECOV_ADDR_HI

/-- A host read of BAR0: 0 where the function does not own the register for reading (R225), and in HALT but for
the registers of R273. -/
def State.hostRead (s : State) (c : Fin 4) (a : Nat) : Word :=
  if s.devState = dHALT ∧ !haltReadable a then 0
  else if s.mayRead c a then s.read a else 0

end Sys2Proof.Machine
end

