-- ==== Sys2Proof/Machine/Rings.lean ====
section
/-! DEFINITION. Host ports, cabinets and rings (spec/13): doorbells, fetching, acceptance and its checks, enabling
and disabling rings, traces, interrupts, the watchdog and the resets of a cabinet. -/

namespace Sys2Proof.Machine

/-! ## Acceptance of descriptors (R232–R235, R239, R248, R273) -/

/-- The target kinds an opcode takes; `none` for an opcode outside the catalogue (R248). -/
def opKinds (op : Nat) : Option (List Nat) :=
  if op = 0x00 then some [0, 1, 2]
  else if (0x01 ≤ op ∧ op ≤ 0x06) ∨ (0x10 ≤ op ∧ op ≤ 0x14) ∨ op = 0x30 then some [0]
  else if op = 0x31 ∨ op = 0x32 then some [0, 2]
  else if op = 0x20 ∨ op = 0x21 ∨ (0x40 ≤ op ∧ op ≤ 0x45) ∨ op = 0x50 then some [2]
  else none

/-- The target index is in range for its kind (R232). -/
def targetInRange (kind target : Nat) : Bool :=
  match kind with
  | 0 => target < 32
  | 1 => target < 64
  | 2 => target < 4
  | _ => false

/-- The target belongs to the cabinet (R226). -/
def State.targetOwned (s : State) (c : Fin 4) (kind target : Nat) : Bool :=
  match kind with
  | 0 => s.ownerAx (finAx target) = c
  | 1 => s.ownerPort (finPort target) = c
  | _ => target = c.1

/-- The descriptors that a device state permits (R273). -/
def State.permits (s : State) (op : Nat) : Bool :=
  let st := s.devState
  if st = dINVENTORY ∨ st = dDIAG then op ∈ [0x00, 0x42, 0x43, 0x44, 0x45, 0x31]
  else if st = dCONFIGURABLE ∨ st = dCOMMITTED ∨ st = dRUN then true
  else if st = dSAFEHOLD then op ∈ [0x00, 0x43, 0x44, 0x45]
  else false

/-- The first of the host-island checks that fails, for a descriptor whose header was read (R233, 3 and 4), and the
permission of the device state (R273). -/
def State.deskCheck (s : State) (d : Desc) : Option Nat :=
  match opKinds d.opcode with
  | none => some stREFUSED_OPCODE
  | some ks =>
    if ¬(d.kind ∈ ks) ∨ !targetInRange d.kind d.target then some stREFUSED_VALUE
    else if !s.targetOwned d.cab d.kind d.target then some stREFUSED_OWNER
    else if !s.permits d.opcode then some stREFUSED_STATE
    else none

/-- The slot of a descriptor is reserved and the descriptor is open until its completion is written (R233,
R239). -/
def openDesc (d : Desc) (s : State) : State :=
  let s := s.modRing d.cab d.cpl fun r => { r with reserved := r.reserved + 1 }
  s.modRing d.cab d.ring fun r => { r with open_ := r.open_ ++ [(d.index, d.kind, d.target)] }

/-- A refusal of the host island: its completion waits for every earlier accepted descriptor of the same ring and
target (R233). -/
def refuseHost (d : Desc) (st : Nat) (s : State) : State :=
  let s := s.modRing d.cab d.ring fun r => { r with waitCpl := r.waitCpl ++ [(d, st, s.now)] }
  releaseHeld d.cab d.ring (s.ring d.cab d.ring).waitCpl.length s

/-- A descriptor command as a whole: where its completion ring has a free slot it is accepted, its slot is reserved, the checks of R233
and R273 are made, and one that passes goes on to `land`; otherwise it waits, and nothing happens (R239). Line time reaches its
acceptance. -/
def submit (d : Desc) (land : State → State) (s : State) : State :=
  let s := s.reach d.accept
  if s.freeSlots d.cab d.cpl = 0 then s
  else
    let s := openDesc d s
    match s.deskCheck d with
    | some st => refuseHost d st s
    | none => land s

/-- A descriptor is accepted and passes the checks of the host island: its completion ring has a free slot, and no check refuses it
(R233, R239, R273). -/
def State.admits (s : State) (d : Desc) : Bool := s.freeSlots d.cab d.cpl != 0 && (s.deskCheck d).isNone

/-- The boundary at which a descriptor for an axis is in force: the last one of the axis's tile (R20). -/
def State.landOf (s : State) (d : Desc) : Nat := s.boundary (tileOf (finAx d.target))

/-- A NOP that passes the checks completes DONE at its acceptance (R248). -/
def landNop (d : Desc) (s : State) : State := complete d stDONE 0 d.accept s

/-- NOP (R248). -/
def execNop (d : Desc) (s : State) : Host.Outcome State Fault Refusal := .next (submit d (landNop d) s)

/-! ## Free slots and turns (R235, R239) -/

/-- The descriptor a ring's raw entry holds (R232). -/
def State.descOf (s : State) (c : Fin 4) (n : Fin 16) (r : RawDesc) : Desc :=
  { cab := c, ring := n, cpl := (s.cplOf c n r).1, index := r.index,
    ver := s.fld (HIF_RING_STAT c n) HIF_RING_STAT_VER, tag := rawByte r 4 + 256 * rawByte r 5,
    irq := (rawByte r 2).testBit 1, accept := s.now, kind := rawByte r 6, target := rawByte r 7,
    opcode := rawByte r 0, engine := none, unconfirmed := false, muted := false, image := (s.ring c n).img,
    payload := Vector.ofFn fun i => BitVec.ofNat 8 (rawByte r (16 + i.1)) }

/-- A ring whose head may be taken now (R235); the image read of a PROG_LOAD is part of its fetch (R218). -/
def State.takable (s : State) (c : Fin 4) (n : Fin 16) : Bool :=
  s.rIs c n 0 && (s.ring c n).fetching.isNone && (s.ring c n).imgRead.isNone && match (s.ring c n).fetched with
    | [] => false
    | r :: _ => !s.fenceWaits c n r && s.freeSlots c (s.cplOf c n r).1 != 0

/-- The ring of a cabinet whose turn it is: the first that may be taken, from the one after the last served
(R235). -/
def State.turnRing (s : State) (c : Fin 4) : Option (Fin 16) :=
  ((List.range 16).map fun i => finRing ((s.cab c).turn + i)).find? fun n => s.takable c n

/-- The cabinet whose turn it is: the first with a ring that may be taken, from the one after the last served (R235). -/
def State.turnCab (s : State) : Option (Fin 4) :=
  ((List.range 4).map fun i => finCab ((s.dev.turn + i) % 4)).find? fun c => (s.turnRing c).isSome

/-- The checks of R233 in their order for a descriptor taken from a ring: opcode, version, target, owner, flags and
header bytes; then the permission of the device state (R273). -/
def State.acceptCheck (s : State) (c : Fin 4) (n : Fin 16) (r : RawDesc) (d : Desc) : Option Nat :=
  match opKinds d.opcode with
  | none => some stREFUSED_OPCODE
  | some ks =>
    if rawByte r 1 % 16 ≠ d.ver then some stREFUSED_VERSION
    else if ¬(d.kind ∈ ks) ∨ !targetInRange d.kind d.target then some stREFUSED_VALUE
    else if !s.targetOwned c d.kind d.target then some stREFUSED_OWNER
    else if rawByte r 1 / 16 ≠ 0 ∨ rawByte r 2 / 4 ≠ 0 ∨ !((List.range 8).all fun i => rawByte r (8 + i) == 0) ∨
      !(s.cplOf c n r).2 then some stREFUSED_VALUE
    else if !s.permits d.opcode then some stREFUSED_STATE
    else none

/-! ## Doorbells (R229) -/

/-- A doorbell value is valid for its ring (R229). -/
def State.doorbellOk (s : State) (c : Fin 4) (n : Fin 16) (v : Nat) : Bool :=
  let size := s.rSize c n
  s.rState c n = rACTIVE && v < 2 * size &&
    (if s.rType c n = 0 then decide ((v + 2 * size - s.rDev c n) % (2 * size) ≤ size)
     else decide ((s.rDev c n + 2 * size - v) % (2 * size) ≤ size))

/-- A doorbell value is taken: a valid one becomes the host index, an invalid one is dropped, counted and recorded
(R229). -/
def takeDoorbell (c : Fin 4) (n : Fin 16) (v : Nat) (s : State) : State :=
  if v < 8192 ∧ s.doorbellOk c n v then
    followCredit c (s.setFld (HIF_RING_HOST c n) HIF_RING_HOST_IDX v)
  else
    let s := s.count (HIF_CAB_CNT c) HIF_CAB_CNT_DB_BAD
    record .doorbellBad 1 3 c [n.1, v] s

/-- The watchdog of a cabinet restarts and WDOG_EXP clears (R247). -/
def kickWatchdog (c : Fin 4) (s : State) : State :=
  (s.modCab c fun x => { x with wdogAt := s.up }).setBit (HIF_CAB_STAT c) HIF_CAB_STAT_WDOG_EXP false

/-- A write to a doorbell: taken when 500 ns have passed since the last one taken, otherwise held, a held value of
the same ring being merged (R229). -/
def doorbell (c : Fin 4) (n : Fin 16) (v : Nat) (s : State) : State :=
  let s := kickWatchdog c s
  let free : Bool := (s.cab c).dbHeld.isEmpty && match (s.cab c).dbLast with
    | some l => decide (l + 500 ≤ s.up)
    | none => true
  if free then takeDoorbell c n v (s.modCab c fun x => { x with dbLast := some s.up })
  else
    let held := (s.cab c).dbHeld
    let s := if held.any (fun h => h.1 == n.1) then s.count (HIF_CAB_CNT2 c) HIF_CAB_CNT2_DB_MERGED else s
    s.modCab c fun x => { x with dbHeld := (n.1, v) :: x.dbHeld.filter fun h => h.1 != n.1 }

/-- A 32-bit write in the doorbell page of a cabinet: doorbells at n × 8, the kick at 0x800, nothing elsewhere (R229,
R247). -/
def bar2Write (c : Fin 4) (off : Nat) (v : Word) (s : State) : State :=
  if off % 8 = 0 ∧ off < 128 then doorbell c (finRing (off / 8)) v.toNat s
  else if off = 0x800 then kickWatchdog c s
  else s

/-- The device answers no host access before the host interface is up (R273). -/
def State.hostUp (s : State) : Bool := s.devState != dOFF && s.devState != dBOOT && s.devState != dHALT

/-- An access of a host function that is not of 32 bits is completed as an unsupported request and changes nothing (R223, R251). -/
def word32 (c : Fin 4) (size : Nat) (f : State → State) (s : State) : State := if size = 4 then f s else s.emit (.unsupported c)

/-- DOORBELL_WRITE (R229). -/
def execDoorbellWrite (t : Nat) (c : Fin 4) (off : Nat) (v : Word) (size : Nat) (s : State) : Host.Outcome State Fault Refusal :=
  .next ((s.reach t).onlyIf s.hostUp (word32 c size (bar2Write c off v)))

/-- The held doorbells are taken, one for each ring, once 500 ns have passed (R229). -/
def mergeTake (c : Fin 4) (s : State) : State :=
  match (s.cab c).dbLast with
  | none => s
  | some l =>
    if (s.cab c).dbHeld = [] ∨ s.up < l + 500 then s
    else
      let held := (s.cab c).dbHeld.reverse
      let s := s.modCab c fun x => { x with dbHeld := [], dbLast := some s.up }
      held.foldl (fun s h => takeDoorbell c (finRing h.1) h.2 s) s

/-- DOORBELL_MERGE_TAKE (R229). -/
def execDoorbellMergeTake (t : Nat) (c : Fin 4) (s : State) : Host.Outcome State Fault Refusal :=
  .next (mergeTake c (s.reach t))

/-! ## Fetching (R235, R246) -/

/-- How many descriptors the next fetch of a ring reads: as many as fit into the 8 held, up to the producer index
and the end of the ring (R235). -/
def State.fetchCount (s : State) (c : Fin 4) (n : Fin 16) : Nat :=
  let size := s.rSize c n
  let r := s.ring c n
  let avail := (s.rHost c n + 2 * size - r.fetchIdx) % (2 * size)
  min (8 - r.fetched.length) (min avail (size - r.fetchIdx % size))

/-- A fetch is issued where none is outstanding and there is something to fetch (R235). -/
def issueFetch (c : Fin 4) (n : Fin 16) (s : State) : State :=
  let cnt := s.fetchCount c n
  if s.rIs c n 0 ∧ (s.ring c n).fetching = none ∧ cnt ≠ 0 then
    let s := s.emit (.read c n (s.rBase c n + 64 * ((s.ring c n).fetchIdx % s.rSize c n)) (64 * cnt))
    s.modRing c n fun r => { r with fetching := some (cnt, s.up, 1) }
  else s

/-- DESCRIPTOR_FETCH (R235). -/
def execDescriptorFetch (t : Nat) (c : Fin 4) (n : Fin 16) (s : State) : Host.Outcome State Fault Refusal :=
  .next (issueFetch c n (s.reach t))

/-- A PROG_LOAD that passes the checks of its acceptance and names an image of a length that an image or a table may have is not
accepted before the device has read that image (R218). -/
def State.needsImage (s : State) (c : Fin 4) (n : Fin 16) (r : RawDesc) : Bool :=
  let d := s.descOf c n r
  d.opcode == 0x31 && payByte d.payload 1 == 0 && pay64 d.payload 8 % 4 == 0 && decide (1 ≤ pay32 d.payload 16) &&
  decide (pay32 d.payload 16 ≤ 16 + 4 * 2048 + 2048) && s.acceptCheck c n r d == none

/-- A read of the image that the head of a ring needs goes out. -/
def emitImageRead (c : Fin 4) (n : Fin 16) (r : RawDesc) (s : State) : State :=
  let d := s.descOf c n r
  s.emit (.imageRead c (pay64 d.payload 8) (pay32 d.payload 16))

/-- The image that a new head of a ring needs begins to be read. -/
def issueImage (c : Fin 4) (n : Fin 16) (s : State) : State :=
  match (s.ring c n).fetched with
  | [] => s
  | r :: _ =>
    if (s.ring c n).imgRead = none ∧ (s.ring c n).img = [] ∧ s.needsImage c n r then
      (emitImageRead c n r s).modRing c n fun x => { x with imgRead := some 1 }
    else s

/-- A read of a ring completes: with the entries of its fetch, or with the image of its head (R218, R235). -/
def fetchDone (c : Fin 4) (n : Fin 16) (ds : List (Vector Byte 64)) (image : List Byte) (s : State) : State :=
  let r := s.ring c n
  match r.fetching with
  | none =>
    if r.imgRead.isSome then followCredit c (s.modRing c n fun r => { r with imgRead := none, img := image }) else s
  | some (cnt, _, _) =>
    if ds.length = cnt then
      let size := 2 * s.rSize c n
      let raws := ds.mapIdx fun i b => (⟨(r.fetchIdx + i) % size, b⟩ : RawDesc)
      followCredit c (issueImage c n (s.modRing c n fun r =>
        { r with fetching := none, fetched := r.fetched ++ raws, fetchIdx := (r.fetchIdx + cnt) % size }))
    else s

/-- FETCH_COMPLETE (R235). -/
def execFetchComplete (t : Nat) (c : Fin 4) (n : Fin 16) (ds : List (Vector Byte 64)) (image : List Byte) (s : State) :
    Host.Outcome State Fault Refusal :=
  .next (fetchDone c n ds image (s.reach t))

/-- A ring goes to ERROR with CAUSE 6, and RING_ERROR is raised (R246). -/
def ringError (c : Fin 4) (n : Fin 16) (s : State) : State :=
  let s := s.modRing c n fun r => { r with fetching := none, fetched := [], imgRead := none, img := [] }
  let s := (s.setFld (HIF_RING_STAT c n) HIF_RING_STAT_STATE rERROR).setFld (HIF_RING_STAT c n)
    HIF_RING_STAT_CAUSE 6
  let s := s.setFld (HIF_RING_STAT c n) HIF_RING_STAT_VER 0
  let s := record .ringError 1 3 c [n.1, 6] s
  followCredit c (raiseEvent c ⟨0x0902, plainSev 0x0902, 3, c, 0, s.now, [n.1]⟩ s)

/-- A read of a ring answered with an error, or not within 1 ms, is tried again; after the third failure the ring goes to
ERROR (R246). -/
def readFailed (c : Fin 4) (n : Fin 16) (s : State) : State :=
  let x := s.ring c n
  match x.fetching, x.imgRead, x.fetched with
  | some (cnt, _, tries), _, _ =>
    if tries < 3 then
      let s := s.count HIF_GCNT HIF_GCNT_RD_RETRY
      let s := s.emit (.read c n (s.rBase c n + 64 * (x.fetchIdx % s.rSize c n)) (64 * cnt))
      s.modRing c n fun r => { r with fetching := some (cnt, s.up, tries + 1) }
    else ringError c n s
  | none, some tries, r :: _ =>
    if tries < 3 then
      (emitImageRead c n r (s.count HIF_GCNT HIF_GCNT_RD_RETRY)).modRing c n fun x => { x with imgRead := some (tries + 1) }
    else ringError c n s
  | _, _, _ => s

/-! ## Interrupts (R245) -/

/-- The moderation interval of a ring ends: a held request is signalled once (R245). -/
def moderationEnd (c : Fin 4) (n : Fin 16) (s : State) : State :=
  match (s.ring c n).lastIrq with
  | none => s
  | some l =>
    if (s.ring c n).irqHeld ∧ l + 1000 * s.fld (HIF_RING_CFG c n) HIF_RING_CFG_MOD ≤ s.up then
      requestIrq c n true s
    else s

/-- MSIX_MODERATION_EXPIRY (R245). -/
def execMsixModerationExpiry (t : Nat) (c : Fin 4) (n : Fin 16) (s : State) : Host.Outcome State Fault Refusal :=
  .next (moderationEnd c n (s.reach t))

/-- A vector is masked or unmasked; one that is pending sends its one message as it is unmasked (R245). -/
def maskVector (c : Fin 4) (v : Fin 8) (mask : Bool) (s : State) : State :=
  let x := (s.cab c).vecs[v]
  let send := x.masked && !mask && x.pending
  let s := s.modCab c fun y => { y with vecs := y.vecs.set v.1 { x with masked := mask, pending := x.pending && !send } }
  if send then s.emit (.msix c v) else s

/-- A 32-bit write in BAR4: an entry of the MSI-X table has 16 bytes, the message address, the message data and the vector control
with the mask in bit 0, as PCI Express lays it out (R222; PRESUMED, log). Nothing else takes a write. -/
def bar4Write (c : Fin 4) (off : Nat) (v : Word) (s : State) : State :=
  let i : Fin 8 := Fin.ofNat 8 (off / 16)
  let put (f : MsixVec → MsixVec) : State := s.modCab c fun y => { y with vecs := y.vecs.set i.1 (f y.vecs[i]) }
  if off % 4 ≠ 0 ∨ 128 ≤ off then s
  else match off / 4 % 4 with
    | 0 => put fun x => { x with addrLo := v &&& 0xFFFFFFFC }
    | 1 => put fun x => { x with addrHi := v }
    | 2 => put fun x => { x with data := v }
    | _ => maskVector c i (v.getLsbD 0) s

/-- MSIX_VECTOR_UNMASK (R245). -/
def execMsixVectorUnmask (t : Nat) (c : Fin 4) (off : Nat) (v : Word) (size : Nat) (s : State) : Host.Outcome State Fault Refusal :=
  .next ((s.reach t).onlyIf s.hostUp (word32 c size (bar4Write c off v)))

/-! ## What the host reads (R222, R223, R229, R251) -/

/-- How the device completes a host read: with data, as an unsupported request, or, where the access was abandoned, with Completer
Abort. -/
inductive ReadAnswer where
  | data (w : Word)
  | unsupported
  | abort
  deriving DecidableEq, Repr

/-- A read of the doorbell page: HIF_RING_DEV of the ring, 0 elsewhere (R229). -/
def State.bar2Read (s : State) (c : Fin 4) (off : Nat) : Word :=
  if off % 8 = 0 ∧ off < 128 then s.reg (HIF_RING_DEV c (finRing (off / 8))) else 0

/-- A read of BAR4: the MSI-X table at 0x0000, the pending bits at 0x1000 (R222). -/
def State.bar4Read (s : State) (c : Fin 4) (off : Nat) : Word :=
  if off < 128 ∧ off % 4 = 0 then
    let x := (s.cab c).vecs[(Fin.ofNat 8 (off / 16) : Fin 8)]
    match off / 4 % 4 with
    | 0 => x.addrLo
    | 1 => x.addrHi
    | 2 => x.data
    | _ => if x.masked then 1 else 0
  else if off = 0x1000 then BitVec.ofNat 32 (bitsOf ((s.cab c).vecs.toList.map fun x => x.pending))
  else 0

/-- The answer to a read of a BAR of a function: 32-bit accesses alone are taken, and in BAR0 aligned ones (R223, R251); one whose
crossing was abandoned is completed with Completer Abort (R255). -/
def State.answerRead (s : State) (c : Fin 4) (bar off size : Nat) (abandoned : Bool) : ReadAnswer :=
  if size ≠ 4 ∨ (bar = 0 ∧ off % 4 ≠ 0) then .unsupported
  else if abandoned then .abort
  else .data (match bar with
    | 0 => s.hostRead c off
    | 2 => s.bar2Read c off
    | 4 => s.bar4Read c off
    | _ => 0)

/-- Device ID and class code of every function (R222). -/
def deviceId : Nat := 0x3264
def classCode : Nat := 0x088000

/-- A word of the configuration space of a function: the Device ID stands above the vendor ID, the class code above the revision, as
PCI Express lays them out (PRESUMED, log); the manual gives no other word. -/
def configRead (c : Fin 4) (off : Nat) : Word :=
  let w := Config.pciWord c.1 off
  if off = 0 then BitVec.ofNat 32 (deviceId * 65536 + w.toNat % 65536)
  else if off = 8 then BitVec.ofNat 32 (classCode * 256 + w.toNat % 256) else w

/-! ## Enabling and disabling rings (R230, R231) -/

/-- The lowest cause that refuses an enable, 0 for none (R230). -/
def State.enableCause (s : State) (c : Fin 4) (n : Fin 16) : Nat :=
  let cfg := HIF_RING_CFG c n
  let size := s.fld cfg HIF_RING_CFG_SIZE
  if s.rBase c n = 0 then 1
  else if size < 6 ∨ 12 < size then 2
  else if 4 < s.rType c n then 3
  else if s.fld cfg HIF_RING_CFG_VER_REQ = 0 then 4
  else if s.rType c n = 0 ∧ !s.rIs c (finRing (s.fld cfg HIF_RING_CFG_CPL)) 1 then 5
  else 0

/-- An enable lands: ACTIVE with the version and both indices 0, or REFUSED with its cause (R228, R230). -/
def landEnable (c : Fin 4) (n : Fin 16) (s : State) : State :=
  let st := HIF_RING_STAT c n
  let cause := s.enableCause c n
  let s := s.modRing c n fun r =>
    { r with fetched := [], fetchIdx := 0, fetching := none, reserved := 0, reEnable := false, lastIrq := none,
             irqHeld := false, trace := none, imgRead := none, img := [] }
  if cause ≠ 0 then ((s.setFld st HIF_RING_STAT_STATE rREFUSED).setFld st HIF_RING_STAT_CAUSE cause)
  else
    let s := (s.setFld st HIF_RING_STAT_STATE rACTIVE).setFld st HIF_RING_STAT_CAUSE 0
    let s := s.setFld st HIF_RING_STAT_VER (min (s.fld (HIF_RING_CFG c n) HIF_RING_CFG_VER_REQ) 2)
    (s.setFld (HIF_RING_DEV c n) HIF_RING_DEV_IDX 0).setFld (HIF_RING_HOST c n) HIF_RING_HOST_IDX 0

/-- EN is written 1 where it reads 0: the enable lands, or waits for the end of a drain (R230, R231). -/
def setRingEn (c : Fin 4) (n : Fin 16) (s : State) : State :=
  if s.bit (HIF_RING_CFG c n) HIF_RING_CFG_EN then s
  else
    let s := s.setBit (HIF_RING_CFG c n) HIF_RING_CFG_EN true
    if s.rState c n = rDRAINING then s.modRing c n fun r => { r with reEnable := true }
    else followCredit c (landEnable c n s)

/-- Rings are enabled from INVENTORY to RUN (R273). -/
def State.ringsMayStart (s : State) : Bool := dINVENTORY ≤ s.devState && s.devState ≤ dRUN

/-- RING_ENABLE (R230). -/
def execRingEnable (t : Nat) (c : Fin 4) (n : Fin 16) (s : State) : Host.Outcome State Fault Refusal :=
  .next ((s.reach t).onlyIf s.ringsMayStart (setRingEn c n))

/-- A ring reads DISABLED; what it held is gone (R231). -/
def ringOff (c : Fin 4) (n : Fin 16) (s : State) : State :=
  let st := HIF_RING_STAT c n
  let s := (s.setFld st HIF_RING_STAT_STATE rDISABLED).setFld st HIF_RING_STAT_CAUSE 0
  let s := (s.setFld st HIF_RING_STAT_VER 0).setBit st HIF_RING_STAT_CREDIT_WAIT false
  s.modRing c n fun r =>
    { r with fetched := [], fetching := none, reEnable := false, irqHeld := false, trace := none, imgRead := none, img := [] }

/-- REC_EXPORT_DONE with its parameters: status, records exported, last sequence number, records skipped (R338). -/
def exportDone (x : Export) (st : Nat) (s : State) : State :=
  raiseEvent x.cab ⟨0x0803, plainSev 0x0803, 3, x.cab, x.tag, s.now, [st, x.exported, x.lastSeq, x.skipped]⟩ s

/-- The exports on a ring end ABORTED (R231, R338). -/
def abortExports (c : Fin 4) (n : Fin 16) (s : State) : State :=
  let mine := s.recorder.exports.filter fun x => x.cab == c && x.ring == n
  let s := s.modRec fun r => { r with exports := r.exports.filter fun x => !(x.cab == c && x.ring == n) }
  mine.foldl (fun s x => exportDone x stABORTED s) s

/-- Some command ring with EN set names ring `n` as CPL (R231). -/
def State.namedCpl (s : State) (c : Fin 4) (n : Fin 16) : Bool :=
  (List.range 16).any fun m =>
    s.bit (HIF_RING_CFG c m) HIF_RING_CFG_EN && s.rType c (finRing m) == 0 &&
      s.fld (HIF_RING_CFG c m) HIF_RING_CFG_CPL == n.1

/-- A static-write violation: counted in the writing cabinet and recorded (R259). -/
def staticViolation (c : Fin 4) (a : Nat) (v : Word) (writer : Nat) (s : State) : State :=
  record .staticWrite 1 3 c [a, v.toNat, writer] (s.count (CFG_CNT c) CFG_CNT_STATIC_WR_CNT)

/-- EN is written 0 where it reads 1 (R231). -/
def clearRingEn (c : Fin 4) (n : Fin 16) (s : State) : State :=
  let cfg := HIF_RING_CFG c n
  if !s.bit cfg HIF_RING_CFG_EN then s
  else if s.rType c n = 1 ∧ s.rState c n = rACTIVE ∧ (s.namedCpl c n ∨ (s.ring c n).reserved ≠ 0) then
    staticViolation c cfg (HIF_RING_CFG_EN.put (s.reg cfg) 0) c s
  else
    let s := s.setBit cfg HIF_RING_CFG_EN false
    if s.rState c n = rDRAINING then s.modRing c n fun r => { r with reEnable := false }
    else if s.rType c n = 0 ∧ (s.rState c n = rACTIVE ∨ s.rState c n = rERROR) ∧ (s.ring c n).open_ ≠ [] then
      followCredit c ((s.setFld (HIF_RING_STAT c n) HIF_RING_STAT_STATE rDRAINING).modRing c n fun r =>
        { r with fetched := [], fetching := none, imgRead := none, img := [] })
    else followCredit c (abortExports c n (ringOff c n s))

/-- RING_DISABLE (R231). -/
def execRingDisable (t : Nat) (c : Fin 4) (n : Fin 16) (s : State) : Host.Outcome State Fault Refusal :=
  .next ((s.reach t).onlyIf s.ringsMayStart (clearRingEn c n))

/-- A draining ring whose accepted descriptors all have their completions reads DISABLED, and a pending enable lands
(R231). -/
def drainEnd (c : Fin 4) (n : Fin 16) (s : State) : State :=
  if s.rState c n = rDRAINING ∧ (s.ring c n).open_ = [] then
    let again := (s.ring c n).reEnable
    let s := ringOff c n s
    if again then followCredit c (landEnable c n s) else s
  else s

/-- RING_DRAIN_END (R231). -/
def execRingDrainEnd (t : Nat) (c : Fin 4) (n : Fin 16) (s : State) : Host.Outcome State Fault Refusal :=
  .next (drainEnd c n (s.reach t))

/-! ## Watchdog, function-level reset and link (R223, R247, R276) -/

/-- The axes a cabinet owns. -/
def State.axesOf (s : State) (c : Fin 4) : List (Fin 32) := allAxes.filter fun a => s.ownerAx a = c

/-- CABINET_WDOG_KICK (R247). -/
def execCabinetWdogKick (t : Nat) (c : Fin 4) (s : State) : Host.Outcome State Fault Refusal :=
  .next ((s.reach t).onlyIf s.hostUp (kickWatchdog c))

/-- The watchdog of a cabinet has run out (R247). -/
def wdogExpire (c : Fin 4) (s : State) : State :=
  let ms := s.fld (HIF_CAB_WDOG c) HIF_CAB_WDOG_MS
  if ms ≠ 0 ∧ !s.bit (HIF_CAB_STAT c) HIF_CAB_STAT_WDOG_EXP ∧ (s.cab c).wdogAt + 1000000 * ms ≤ s.up then
    raiseFaultAll 22 ⟨5, c⟩ c (s.axesOf c) (s.setBit (HIF_CAB_STAT c) HIF_CAB_STAT_WDOG_EXP true)
  else s

/-- CABINET_WDOG_EXPIRY (R247). -/
def execCabinetWdogExpiry (t : Nat) (c : Fin 4) (s : State) : Host.Outcome State Fault Refusal :=
  .next (wdogExpire c (s.reach t))

/-- One ring of a cabinet returns to its reset values; its counter stays (R247). -/
def resetRing (c : Fin 4) (n : Fin 16) (s : State) : State :=
  let s := s.setReg (HIF_RING_BASE_LO c n) 0
  let s := s.setReg (HIF_RING_BASE_HI c n) 0
  let s := s.setReg (HIF_RING_CFG c n) 0
  let s := s.setReg (HIF_RING_STAT c n) 0
  let s := s.setReg (HIF_RING_DEV c n) 0
  let s := s.setReg (HIF_RING_HOST c n) 0
  (s.modRing c n fun _ => Ring.init).modRec fun r =>
    { r with exports := r.exports.filter fun x => !(x.cab == c && x.ring == n) }

/-- A descriptor that came through a cabinet's rings gets no completion any more (R247). -/
def muteDesc (c : Fin 4) (d : Desc) : Desc := if d.cab = c ∧ d.engine = none then { d with muted := true } else d

/-- Descriptors of a cabinet that were routed land without a completion (R247). -/
def muteCabinet (c : Fin 4) (s : State) : State :=
  let s := allAxes.foldl (fun s a => s.modAxis a fun x => { x with
    intake := x.intake.map fun e => (e.1, muteDesc c e.2)
    mig := x.mig.map fun m => if m.cab = c then { m with mute := true } else m }) s
  let s := allTiles.foldl (fun s t => s.modTile t fun x => { x with
    intake := x.intake.map fun e => (e.1, muteDesc c e.2) }) s
  allEngs.foldl (fun s e => s.modEng e fun x => { x with
    swap := x.swap.map fun w => { w with desc := muteDesc c w.desc } }) s

/-- The ring and cabinet registers of a cabinet return to their reset values but for rk fields, locks and
counters; rings are DISABLED, traces end, descriptors not yet routed are dropped (R247). -/
def resetCabinet (c : Fin 4) (s : State) : State :=
  let s := muteCabinet c s
  let ctl := HIF_CAB_CTRL c
  let s := (s.setFld ctl HIF_CAB_CTRL_EVRING 16).setFld ctl HIF_CAB_CTRL_EVRING_F 16
  let s := s.setBit (HIF_CAB_STAT c) HIF_CAB_STAT_WDOG_EXP false
  let s := s.setFld (HIF_CAB_EVSEQ c) HIF_CAB_EVSEQ_SEQ 0
  let s := s.setFld (CFG_LOCK c) CFG_LOCK_REF_SEL 0
  let s := (List.range 16).foldl (fun s n => resetRing c (finRing n) s) s
  s.modCab c fun x => { Cabinet.init with rings := x.rings, wdogAt := s.up, waiting := x.waiting.map fun e => (e.1, muteDesc c e.2) }

/-- A lost host link on the axes of a cabinet: CONTROLLED_STOP, or the reaction NONE, with which it is recorded and counted only
(R247, R311, R316). -/
def linkFault (rx : Nat) (c : Fin 4) (s : State) : State :=
  (s.axesOf c).foldl (fun s a => raiseFaultRx 34 rx ⟨5, c⟩ c a s) s

/-- A function-level reset (R247, R276). -/
def flReset (c : Fin 4) (s : State) : State := linkFault 3 c (resetCabinet c s)

/-- FUNCTION_LEVEL_RESET (R247). -/
def execFunctionLevelReset (t : Nat) (c : Fin 4) (s : State) : Host.Outcome State Fault Refusal :=
  .next (flReset c (s.reach t))

/-- D3HOT_ENTRY (R223): the effect of a function-level reset. -/
def execD3hotEntry (t : Nat) (c : Fin 4) (s : State) : Host.Outcome State Fault Refusal :=
  .next (flReset c (s.reach t))

/-- The two cabinets of a host port (R223). -/
def cabsOf (h : Fin 2) : List (Fin 4) := [finCab (2 * h.1), finCab (2 * h.1 + 1)]

/-- Both cabinets of a port are reset; LINKLOSS of each decides for its axes (R247). -/
def hotReset (h : Fin 2) (linkDown : Bool) (s : State) : State :=
  let s := if linkDown then s.setReg (HIF_PORT_STAT h) 0 else s
  (cabsOf h).foldl (fun (s : State) (c : Fin 4) =>
    let s := if linkDown then s.setBit (HIF_CAB_STAT c) HIF_CAB_STAT_LINK false else s
    let s := resetCabinet c s
    linkFault (if s.bit (HIF_CAB_CTRL c) HIF_CAB_CTRL_LINKLOSS then 0 else 3) c s) s

/-- HOT_RESET (R247): a hot reset, a link-down or PERST of a port. -/
def execHotReset (t : Nat) (h : Fin 2) (linkDown : Bool) (s : State) : Host.Outcome State Fault Refusal :=
  .next (hotReset h linkDown (s.reach t))

/-- The link of a host port is up with a width in lanes and a speed code, in L0 or in L1; whether the host has enabled ASPM is no
register of the manual, and the command says what the link does (HIF_PORT_STAT, R222, R247). -/
def linkUp (h : Fin 2) (width speed : Nat) (l0 : Bool) (s : State) : State :=
  let a := HIF_PORT_STAT h
  let s := (s.setFld a HIF_PORT_STAT_WIDTH width).setFld a HIF_PORT_STAT_SPEED speed
  let s := (s.setBit a HIF_PORT_STAT_L0 l0).setBit a HIF_PORT_STAT_LINK true
  (cabsOf h).foldl (fun (s : State) (c : Fin 4) => s.setBit (HIF_CAB_STAT c) HIF_CAB_STAT_LINK true) s

/-- PCIE_LINK_UP (R247). A width is 1, 2 or 4 lanes and a speed code 1 to 3 (R222). -/
def execPcieLinkUp (t : Nat) (h : Fin 2) (width speed : Nat) (l0 : Bool) (s : State) : Host.Outcome State Fault Refusal :=
  .next ((s.reach t).onlyIf (width ∈ [1, 2, 4] && 1 ≤ speed && speed ≤ 3) (linkUp h width speed l0))

/-! ## Traces (R244) -/

/-- The signal registers a TRACE_START payload names. -/
def traceSignals (p : Payload) : List Nat := (List.range (payByte p 1)).map fun i => pay32 p (8 + 4 * i)

/-- The values of a TRACE_START payload are in range (R244). -/
def State.traceOk (s : State) (d : Desc) : Bool :=
  let p := d.payload
  payByte p 0 < 16 && s.rIs d.cab (finRing (payByte p 0)) 3 && 1 ≤ payByte p 1 && payByte p 1 ≤ 10 &&
  1 ≤ pay16 p 2 && payByte p 4 < 4 && payZero p 5 8 && payZero p (8 + 4 * payByte p 1) 48 &&
  (traceSignals p).all fun a => a % 4 == 0 && a < 0x800000 && s.mayRead d.cab a

/-- TRACE_START as it lands at the next boundary of its clock tile (R244). -/
def landTraceStart (d : Desc) (s : State) : State :=
  if !s.traceOk d then complete d stREFUSED_VALUE 0 s.now s
  else
    let n := finRing (payByte d.payload 0)
    if (s.ring d.cab n).trace.isSome then complete d stREFUSED_STATE 0 s.now s
    else
      let t := finTile (payByte d.payload 4)
      let tr : Trace := ⟨traceSignals d.payload, pay16 d.payload 2, t, some (s.tile t).k, (s.tile t).k, 0, 0⟩
      complete d stSTARTED 0 (s.boundary t) (s.modRing d.cab n fun r => { r with trace := some tr })

/-- TRACE_START (R244). -/
def execTraceStart (d : Desc) (s : State) : Host.Outcome State Fault Refusal :=
  .next (submit d (landTraceStart d) s)

/-- TRACE_STOP as it lands (R244). -/
def landTraceStop (d : Desc) (s : State) : State :=
  if !payZero d.payload 1 48 ∨ 16 ≤ payByte d.payload 0 then complete d stREFUSED_VALUE 0 s.now s
  else
    let n := finRing (payByte d.payload 0)
    match (s.ring d.cab n).trace with
    | none => complete d stNO_CHANGE 0 s.now s
    | some tr => complete d stDONE 0 (s.boundary tr.tile) (s.modRing d.cab n fun r => { r with trace := none })

/-- TRACE_STOP (R244). -/
def execTraceStop (d : Desc) (s : State) : Host.Outcome State Fault Refusal :=
  .next (submit d (landTraceStop d) s)

/-- A capture of a trace at the boundary of its clock tile: one entry, or a loss where the ring is full (R244). -/
def traceCapture (c : Fin 4) (n : Fin 16) (s : State) : State :=
  match (s.ring c n).trace with
  | none => s
  | some tr =>
    let k := (s.tile tr.tile).k
    let k0 := tr.startK.getD 0
    if k0 < k ∧ tr.doneK < k ∧ (k - k0) % tr.decim = 0 then
      let tr := { tr with doneK := k, seq := (tr.seq + 1) % 65536 }
      if s.rRoom c n then
        let e : TraceEntry := ⟨s.boundary tr.tile, tr.seq, tr.lost != 0, s.rPhase c n, tr.lost,
          tr.signals.map fun a => s.hostRead c a⟩
        writeEntry c n (.trace e) false
          (s.modRing c n fun r => { r with trace := some { tr with lost := 0 } })
      else
        let s := (s.count (HIF_CAB_CNT2 c) HIF_CAB_CNT2_TR_LOST).count (HIF_RING_CNT c n) HIF_RING_CNT_CNT
        s.modRing c n fun r => { r with trace := some { tr with lost := tr.lost + 1 } }
    else s

end Sys2Proof.Machine
end

