-- ==== Sys2Proof/Machine/EngineBase.lean ====
section
/-! DEFINITION. Starting and ending the runs of an engine, stops, and landing a swap (R200, R201, R204, R205, R220). -/

namespace Sys2Proof.Machine

/-- The kind of an engine: 0 axis engine, 1 tile supervisor, 2 recorder filter (R217). -/
def engKind (e : Fin 46) : Nat := if e.1 < 40 then 0 else if e.1 < 44 then 1 else 2

/-- The bytes of an engine's data memory (R200). -/
def dataSize (e : Fin 46) : Nat := if engKind e = 1 then 2048 else 1024

/-- The axis an engine is scheduled with: that of an axis engine. -/
def State.engAxis (s : State) (e : Fin 46) : Option (Fin 32) := s.axisOfEng e

/-- The tile an engine belongs to: that of its axis, or of a supervisor (R200). -/
def State.engTile (s : State) (e : Fin 46) : Fin 4 :=
  if engKind e = 1 then finTile (e.1 - 40)
  else match s.axisOfEng e with
    | some a => tileOf a
    | none => finTile (e.1 / 10)

/-- BAR0 offsets of blocks, as the registers of a program start hold them (R201). -/
def axisBase (a : Fin 32) : Nat := 0x100000 + a.1 * 0x800
def tileBase (t : Fin 4) : Nat := 0x200000 + t.1 * 0x40000
def portBase (p : Fin 64) : Nat := tileBase (tileOfPort p) + 0x1000 + (p.1 % 16) * 0x100

/-- The registers at a program start (R201). -/
def State.startRegs (s : State) (e : Fin 46) (arg : Word) : Vector Word 16 :=
  let z : Vector Word 16 := Vector.replicate 16 0
  match engKind e with
  | 0 =>
    match s.axisOfEng e with
    | some a =>
      (((z.set 1 (BitVec.ofNat 32 (axisBase a))).set 2 (BitVec.ofNat 32 (portBase (s.portOf a false)))).set 3
        (BitVec.ofNat 32 (portBase (s.portOf a true)))).set 4 (BitVec.ofNat 32 (tileBase (tileOf a))) |>.set 5 arg
    | none => z.set 5 arg
  | 1 => ((z.set 1 (BitVec.ofNat 32 (tileBase (s.engTile e)))).set 4 (BitVec.ofNat 32 (tileBase (s.engTile e)))).set 5 arg
  | _ => (z.set 1 0x007FFF00).set 5 arg

/-- A program starts at the entry word of the active image: registers preloaded, event latch cleared (R201). -/
def startProgram (e : Fin 46) (arg : Word) (s : State) : State :=
  let im := (s.eng e).img[s.imgIdx e]
  let s := s.setFld (ENG_PC e) ENG_PC_PC im.entry
  let s := s.setFld (ENG_PC e) ENG_PC_ID im.id
  let s := s.setFld (ENG_EVLATCH e) ENG_EVLATCH_EV 0
  let s := (s.setFld (ENG_STAT e) ENG_STAT_STATE 1).setFld (ENG_STAT e) ENG_STAT_CAUSE 0
  let k := s.startRegs e arg
  s.modEng e fun x => { x with k := k, sampled := 0, waitLeft := none, running := false, forced := 0,
                               startArg := some arg }

/-- Initial data of an image as a data memory (R217). -/
def initData (im : Image) : List (Nat × Word) :=
  ((List.range im.data.length).zip im.data).filter fun c => c.2 != 0

/-- A run ends: its instructions are shown (R205, ENG_USE). -/
def endRun (e : Fin 46) (s : State) : State :=
  let n := (s.eng e).count
  let s := (s.setFld (ENG_USE e) ENG_USE_LAST n).peak (ENG_USE e) ENG_USE_PEAK n
  s.modEng e fun x => { x with running := false }

/-- The cabinets that hear of an engine: the owner of the axis, every cabinet that owns an axis of the tile of a
supervisor, cabinet 0 for a filter (R204). -/
def State.engCabs (s : State) (e : Fin 46) : List (Fin 4) :=
  match engKind e with
  | 0 => match s.axisOfEng e with | some a => [s.ownerAx a] | none => [0]
  | 1 => allCabs.filter fun c => (tileAxes (s.engTile e)).any fun a => s.ownerAx a = c
  | _ => [0]

/-- ENG_STOPPED with the engine, the cause and the program counter (R204). -/
def raiseStopped (e : Fin 46) (cause : Nat) (s : State) : State :=
  (s.engCabs e).foldl (fun s c =>
    raiseEvent c ⟨0x0701, plainSev 0x0701, 5, e, 0, s.now, [e, cause, s.fld (ENG_PC e) ENG_PC_PC]⟩ s) s

/-- An engine stops with a cause of R204: the warning record, ENG_STOPPED and the count. -/
def stopEngine (e : Fin 46) (cause : Nat) (s : State) : State :=
  let s := endRun e s
  let s := (s.setFld (ENG_STAT e) ENG_STAT_STATE 4).setFld (ENG_STAT e) ENG_STAT_CAUSE cause
  let s := s.count (ENG_CNT e) ENG_CNT_STOPS
  let s := record .engStopped 1 5 e [cause, s.fld (ENG_PC e) ENG_PC_PC] s
  raiseStopped e cause s

/-- An exchange of images or a restart lands: the program starts at its entry point (R220). -/
def landSwap (e : Fin 46) (restart keep : Bool) (arg : Word) (s : State) : State :=
  let old := s.imgIdx e
  let new : Fin 2 := if restart then old else if old = 0 then 1 else 0
  let x := s.eng e
  let d := if keep then x.data[old] else initData x.img[new]
  let s := s.setBit (ENG_STAT e) ENG_STAT_IMG_B (new = 1)
  let s := if restart then s else s.setBit (ENG_STAT e) ENG_STAT_SB_VALID x.img[old].valid
  let s := s.modEng e fun x => { x with data := x.data.set new.1 d, lastCmd := x.lastCmd + 1 }
  startProgram e arg s

end Sys2Proof.Machine
end

