-- ==== Sys2Proof/Machine/Recorder.lean ====
section
/-! DEFINITION. The event recorder (spec/18) and the assignment of recorder filters (R206, R215). -/

namespace Sys2Proof.Machine

/-! ## Record formats (R322, R323) -/

/-- The 16-bit event code of a record. -/
def codeWord : RecCode → Nat
  | .num n => n % 65536
  | .dev k => (Config.recordCode k).toNat

/-- A variable record has a body (R323). -/
def Record.isVar (r : Record) : Bool := r.body != []

/-- The length in bytes: 32, or the body and 32 bytes padded to a multiple of 32, at least 64 (R323). -/
def Record.len (r : Record) : Nat := if r.isVar then 32 + 32 * ((r.body.length + 31) / 32) else 32

/-- The slots of 32 bytes that a record occupies (R323). -/
def Record.slots (r : Record) : Nat := r.len / 32

/-- Bytes 0 to 29 of a record (R322, R323). -/
def Record.head (r : Record) : List Byte :=
  leBytes (codeWord r.code) 2 ++
  leBytes (r.sev % 4 + 4 * (r.tq % 4) + (if r.isVar then 16 else 0) + 32 * (r.kind % 8)) 1 ++
  leBytes r.idx 1 ++ leBytes r.seq 4 ++ leBytes r.secs 5 ++ leBytes r.frac 3 ++
  leBytes (r.params.getD 0 0) 4 ++ leBytes (r.params.getD 1 0) 4 ++ leBytes (r.params.getD 2 0) 4 ++
  leBytes (if r.isVar then r.len else r.rep) 2

/-- The body padded with zeros to the length (R323). -/
def Record.padded (r : Record) : List Byte := r.body ++ List.replicate (r.len - 32 - r.body.length) 0

/-- The bytes of a record with its CRC-16 (R322, R323). -/
def Record.bytes (r : Record) : List Byte :=
  let b := if r.isVar then r.padded else []
  r.head ++ leBytes (crc16 (r.head ++ b)) 2 ++ b

/-- Piece `n` of a record, 32 bytes (R336, R338). -/
def Record.piece (r : Record) (n : Nat) : List Byte := (r.bytes.drop (32 * n)).take 32

/-! ## The status registers -/

def slotsOf (l : List JRec) : Nat := (l.map fun j => j.record.slots).sum

/-- Unflushed slots of the journal. -/
def Recorder.unflushed (r : Recorder) : Nat := slotsOf (r.journal.filter fun j => !j.flushed)

/-- FILL, STAGE and USED follow their causes (R260). -/
def followRec (s : State) : State :=
  let r := s.recorder
  let s := s.setFld REC_STAT REC_STAT_FILL (r.unflushed * 100 / 65536)
  let s := s.setFld REC_STAT REC_STAT_STAGE r.staging.length
  s.setFld REC_DRAWER REC_DRAWER_USED (min (r.drawer.map Record.slots).sum 2048)

/-- A flush is requested; in RAM-only operation nothing happens (R329, R339). -/
def requestFlush (s : State) : State :=
  if s.bit REC_STAT REC_STAT_RAM_ONLY then s else s.setBit REC_STAT REC_STAT_FLUSH_PEND true

/-- A flush is in progress, or one is requested that PFAIL_N asked for (R346). -/
def State.flushOwed (s : State) : Bool :=
  s.bit REC_STAT REC_STAT_FLUSHING || (s.bit REC_STAT REC_STAT_FLUSH_PEND && s.bit REC_STAT REC_STAT_PFAIL)

/-- The recorder island works: from BOOT on, and after a loss of VAUX or VIO until it has finished a flush in progress or one
requested by PFAIL_N; not once VHOLD has failed or RESET_N has fallen (R346). -/
def State.recUp (s : State) : Bool := s.dev.vhold && s.dev.resetN && (s.devState != dOFF || s.flushOwed)

/-! ## SAFE_HOLD (R272, R315, R321) -/

/-- A record written to the self-failure area of the bottom drawer, which overwrites its oldest when full (R340). -/
def drawerAdd (r : Record) (s : State) : State :=
  s.modRec fun x => { x with drawer := (x.drawer ++ [r]).drop ((x.drawer ++ [r]).length - 2048) }

/-- The sequence number of the next record is assigned (R324). -/
def takeSeq (s : State) : State := s.setFld REC_SEQ REC_SEQ_NEXT (s.fld REC_SEQ REC_SEQ_NEXT + 1)

/-- A record goes straight to the self-failure area with a sequence number of its own, where the recorder still can: not while its
island stands still (R321, R324, R340). -/
def drawerRecord (r : Record) (s : State) : State :=
  takeSeq (drawerAdd { r with seq := s.fld REC_SEQ REC_SEQ_NEXT } s)

/-- A critical failure of the host or the recorder island: recorded in the self-failure area, and from INVENTORY to RUN the device
moves to SAFE_HOLD and every axis that is not DISABLED receives HOLD (R272, R315, R321). -/
def enterSafeHold (cls cause : Nat) (s : State) : State :=
  let s := s.onlyIf s.recUp fun s => followRec (drawerRecord (mkRecord s (.dev (.fault cls)) 3 4 0 [cause] [] false) s)
  if dINVENTORY ≤ s.devState ∧ s.devState ≤ dRUN then
    let s := setDevState dSAFEHOLD cause s
    (allAxes.filter fun a => s.axState a ≠ axDISABLED).foldl (fun s a => raiseFaultRx cls 4 ⟨4, 0⟩ cause a s) s
  else s

/-! ## The armoire (R333, R334, R339) -/

/-- Erased blocks that an ordinary record may take: two are held back (R333). -/
def mayTakeBlock (r : Record) (erased : Nat) : Bool :=
  if r.code = .num 0xF003 ∨ r.code = .num 0xF004 ∨ r.code = .num 0xF005 then 0 < erased else 2 < erased

/-- A record joins the log of its severity in the newest block of that log, if it fits (R333). -/
def appendLog (bs : List ArmBlock) (r : Record) : Option (List ArmBlock) :=
  match bs.reverse.findIdx? (fun b => b.sev == r.sev) with
  | none => none
  | some i =>
    let j := bs.length - 1 - i
    match bs[j]? with
    | some b =>
      if (b.recs.map Record.slots).sum + r.slots ≤ 8192 then some (bs.set j { b with recs := b.recs ++ [r] })
      else none
    | none => none

/-- The lowest severity, at or below that of a record, whose log holds any record (R334). -/
def evictSev (bs : List ArmBlock) (sev : Nat) : Option Nat :=
  (List.range (sev + 1)).find? fun v => bs.any fun b => b.sev == v && b.recs != []

/-- The list without its oldest block of a severity. -/
def dropOldest (bs : List ArmBlock) (sev : Nat) : List ArmBlock :=
  match bs.findIdx? (fun b => b.sev == sev) with
  | some i => bs.eraseIdx i
  | none => bs

/-- A record is stored in the armoire: in its log, in an erased block, or in one freed by eviction; otherwise it is
not stored and counted (R333, R334). -/
def storeRecord (r : Record) (s : State) : State :=
  match appendLog s.recorder.armoire r with
  | some bs => s.modRec fun x => { x with armoire := bs }
  | none =>
    if mayTakeBlock r s.recorder.erased then
      s.modRec fun x => { x with armoire := x.armoire ++ [⟨r.sev, [r]⟩], erased := x.erased - 1 }
    else
      match evictSev s.recorder.armoire r.sev with
      | some v =>
        (s.count REC_CNT2 REC_CNT2_EVICTED).modRec fun x =>
          { x with armoire := dropOldest x.armoire v ++ [⟨r.sev, [r]⟩] }
      | none => s.count REC_CNT REC_CNT_DROPPED_CNT

/-- The records that the armoire holds, without the copies of a flush that has not ended (R329). -/
def Recorder.held (x : Recorder) : List Record :=
  let l := x.armoire.flatMap fun b => b.recs
  match x.flush with
  | some w => l.filter fun r => !w.seqs.contains r.seq
  | none => l

/-- REC_FLUSHED shows the highest sequence number held in the armoire (R329). -/
def followFlushed (s : State) : State :=
  s.setFld REC_FLUSHED REC_FLUSHED_SEQ (s.recorder.held.foldl (fun m r => max m r.seq) 0)

/-! ## The journal (R324, R326, R329, R339) -/

/-- Slots of the journal that its flushed records give back, oldest first, until `need` slots fit (R329). -/
def reuse : List JRec → Nat → List JRec
  | [], _ => []
  | j :: js, need => if 65536 < slotsOf (j :: js) + need ∧ j.flushed then reuse js need else j :: js

/-- In RAM-only operation a full journal gives up its oldest record of the lowest severity at or below that of the
new record (R334, R339). -/
def ramEvictOne (l : List JRec) (sev : Nat) : Option (List JRec) :=
  match (List.range (sev + 1)).find? (fun v => l.any fun j => j.record.sev == v) with
  | some v =>
    match l.findIdx? (fun j => j.record.sev == v) with
    | some i => some (l.eraseIdx i)
    | none => none
  | none => none

/-- One record after another is given up until `need` slots are free: the journal left and how many went, none where they cannot be
freed. The fuel is the slots that a record needs (R339). -/
def ramEvict (l : List JRec) (sev need : Nat) : Nat → Option (List JRec × Nat)
  | 0 => if slotsOf l + need ≤ 65536 then some (l, 0) else none
  | k + 1 =>
    if slotsOf l + need ≤ 65536 then some (l, 0)
    else match ramEvictOne l sev with
      | some l => (ramEvict l sev need k).map fun x => (x.1, x.2 + 1)
      | none => none

/-- There is room in the journal for a record without giving up an unflushed one (R329). -/
def Recorder.roomFor (x : Recorder) (r : Record) : Bool := decide (x.unflushed + r.slots ≤ 65536)

/-- An accepted record receives its sequence number and enters the journal, or goes straight to flash in bypass;
its severity, REC_PFAIL or the fill request a flush (R326, R329, R331, R339). -/
def enterJournal (r : Record) (s : State) : State :=
  let seq := s.fld REC_SEQ REC_SEQ_NEXT
  let r := { r with seq := seq }
  if s.bit REC_STAT REC_STAT_BYPASS then
    followRec (followFlushed (storeRecord r (takeSeq s)))
  else
    let ram := s.bit REC_STAT REC_STAT_RAM_ONLY
    let js := reuse s.recorder.journal r.slots
    match ramEvict js r.sev r.slots (if ram then r.slots else 0) with
    | none => s.count REC_CNT REC_CNT_DROPPED_CNT
    | some (js, gone) =>
      let s := (takeSeq s).countN REC_CNT2 REC_CNT2_EVICTED gone
      let s := s.modRec fun x => { x with journal := js ++ [⟨r, true, false⟩] }
      let s := if 2 ≤ r.sev ∨ r.code = .num 0xF002 ∨ 49152 ≤ s.recorder.unflushed then requestFlush s else s
      followRec s

/-! ## From candidate to record (R326, R327) -/

/-- Two records of the same code and source (R326). -/
def sameSource (r q : Record) : Bool := r.code == q.code && r.kind == q.kind && r.idx == q.idx

/-- The index of the last element that satisfies a test. -/
def lastIdx {α : Type} (l : List α) (p : α → Bool) : Option Nat :=
  (l.reverse.findIdx? p).map fun i => l.length - 1 - i

/-- A candidate merges into the newest entry of its code and source where the parameters are equal and that entry
is in the staging FIFO or open in the journal (R326). -/
def identityMerge (r : Record) (s : State) : Option State :=
  if r.isVar then none
  else
    let hit (q : Record) : Bool := q.params == r.params && q.rep < 65535 && !q.isVar
    match lastIdx s.recorder.staging (fun q => sameSource r q.record) with
    | some i =>
      match s.recorder.staging[i]? with
      | some q =>
        if hit q.record then
          some ((s.count REC_CNT2 REC_CNT2_MERGED).modRec fun x =>
            { x with staging := x.staging.set i { q with record := { q.record with rep := q.record.rep + 1 } } })
        else none
      | none => none
    | none =>
      match lastIdx s.recorder.journal (fun q => sameSource r q.record) with
      | some i =>
        match s.recorder.journal[i]? with
        | some q =>
          if q.isOpen && hit q.record && !s.bit REC_STAT REC_STAT_BYPASS then
            some ((s.count REC_CNT2 REC_CNT2_MERGED).modRec fun x =>
              { x with journal := x.journal.set i { q with record := { q.record with rep := q.record.rep + 1 } } })
          else none
        | none => none
      | none => none

/-- A candidate is lost: counted, and added to the LOST_EVENTS that waits for an entry to free; a candidate lost on its way (R10) finds
one free (R327). -/
def loseCandidate (r : Record) (s : State) : State :=
  (s.count REC_CNT REC_CNT_LOST).modRec fun x =>
    { x with
      lostFree := if x.lost.isNone then decide (x.staging.length < 56) else x.lostFree
      lost := match x.lost with
        | none => some (1, r.sev, r.code, r.kind, r.idx)
        | some (n, v, c, k, i) => some (min (n + 1) 4294967295, max v r.sev, c, k, i) }

/-- The entries of the staging FIFO that are taken, with the one that LOST_EVENTS is about to take (R327). -/
def Recorder.occupied (x : Recorder) : Nat := x.staging.length + if x.lost.isSome && x.lostFree then 1 else 0

/-- A candidate reaches the recorder: merged, staged or lost (R326, R327). -/
def stageRecord (r : Record) (s : State) : State :=
  match identityMerge r s with
  | some s' => s'
  | none =>
    let n := s.recorder.occupied
    if 64 ≤ n ∨ (56 ≤ n ∧ r.sev < 2) then loseCandidate r s
    else followRec (s.modRec fun x => { x with staging := x.staging ++ [⟨r, none⟩] })

/-- RECORD_CANDIDATE (R326): the oldest candidate on its way reaches the recorder. -/
def recordArrives (s : State) : State :=
  match s.recorder.transit with
  | [] => s
  | r :: rest =>
    let s := s.modRec fun x => { x with transit := rest }
    if s.recUp then stageRecord r s else s

def execRecordCandidate (t : Nat) (s : State) : Host.Outcome State Fault Refusal := .next (recordArrives (s.reach t))

/-! ## Recorder filters (R206, R215) -/

/-- A filter takes candidates: it is IDLE between two runs or RUN, and no swap of it waits (R206). -/
def State.filterUp (s : State) (f : Fin 46) : Bool :=
  (s.fld (ENG_STAT f) ENG_STAT_STATE = 1) && (s.eng f).swap.isNone

/-- The hedge of a record's source: tile, axis, port and axis engine sources lie in one. -/
def sourceHedge (r : Record) : Option Nat :=
  match r.kind with
  | 0 => some (r.idx / 8)
  | 1 => some (r.idx / 16)
  | 2 => some r.idx
  | 5 => if r.idx < 40 then some (r.idx / 10) else if r.idx < 44 then some (r.idx - 40) else none
  | _ => none

/-- The filter that takes a candidate: RF1 those of tiles 2 and 3, RF0 the others, and the other one while a filter
is stopped, retired or in a swap (R206). -/
def State.filterFor (s : State) (r : Record) : Option (Fin 46) :=
  let own : Fin 46 := match sourceHedge r with | some h => if 2 ≤ h then 45 else 44 | none => 44
  let other : Fin 46 := if own = 44 then 45 else 44
  if s.filterUp own then some own else if s.filterUp other then some other else none

/-- The entry at an index of the staging FIFO leaves it. -/
def unstage (i : Nat) (s : State) : State := s.modRec fun x => { x with staging := x.staging.eraseIdx i, lostFree := true }

/-- The record of the last journal entry with the same code and source takes the candidate as a repeat (R215). -/
def verdictMerge (r : Record) (s : State) : Option State :=
  match lastIdx s.recorder.journal (fun q => sameSource r q.record) with
  | some i =>
    match s.recorder.journal[i]? with
    | some q =>
      if q.isOpen && q.record.rep < 65535 && !q.record.isVar then
        some ((s.count REC_CNT2 REC_CNT2_MERGED).modRec fun x =>
          { x with journal := x.journal.set i { q with record := { q.record with rep := q.record.rep + 1 } } })
      else none
    | none => none
  | none => none

/-- The journal takes a record now: there is room, or the recorder runs without flushes (R329, R339). -/
def State.journalTakes (s : State) (r : Record) : Bool :=
  s.recorder.roomFor r || s.bit REC_STAT REC_STAT_RAM_ONLY || s.bit REC_STAT REC_STAT_BYPASS

/-- The accepted entry at an index of the staging FIFO enters the journal; while the journal is full it waits there, decided
(R329). -/
def acceptEntry (i : Nat) (r : Record) (s : State) : State :=
  if s.journalTakes r then enterJournal r (unstage i s)
  else s.modRec fun x => { x with staging := x.staging.set i ⟨{ r with fromFilter := true }, none⟩ }

/-- A verdict on the candidate at an index of the staging FIFO: 0 ACCEPT, 1 DROP, 2 MERGE; a candidate of severity fault or
critical is accepted (R215). -/
def decideCandidate (f : Fin 46) (verdict i : Nat) (r : Record) (s : State) : State :=
  let accept := acceptEntry i r s
  if 2 ≤ r.sev then accept
  else if verdict = 1 then followRec ((unstage i s).count (ENG_CNT2 f) ENG_CNT2_CMDS)
  else if verdict = 2 then
    match verdictMerge r (unstage i s) with
    | some s' => followRec (s'.count (ENG_CNT2 f) ENG_CNT2_BUSY)
    | none => accept
  else accept

/-- A swap of a filter that waited for the end of a run lands between two candidates (R220). -/
def landFilterSwap (f : Fin 46) (s : State) : State :=
  match (s.eng f).swap with
  | none => s
  | some w =>
    let s := s.modEng f fun x => { x with swap := none }
    complete w.desc stSWAPPED 0 s.now (landSwap f w.restart w.keep w.arg s)

/-- The run of a filter ends with a verdict on the candidate it holds (R206, R215). -/
def filterVerdict (f : Fin 46) (verdict : Nat) (s : State) : State :=
  let s := endRun f s
  let s := match s.recorder.staging.findIdx? (fun q => q.filter == some f) with
    | none => s
    | some i =>
      match s.recorder.staging[i]? with
      | some q => decideCandidate f verdict i q.record s
      | none => s
  landFilterSwap f s

/-- A filter starts again at its entry point for a candidate (R201). -/
def startFilter (f : Fin 46) (s : State) : State :=
  (startProgram f ((s.eng f).startArg.getD 0) s).modEng f fun x => { x with running := true, count := 0, cycles := 0 }

/-- A staged candidate can go on: no filter has it, and its filter, if it needs one, is between two runs (R206, R326). -/
def State.canDecide (s : State) (q : Staged) : Bool :=
  q.filter.isNone && (q.record.isVar || q.record.fromFilter ||
    match s.filterFor q.record with | none => true | some f => !(s.eng f).running)

/-- The oldest candidate that can go on is decided: variable records and records of a filter enter the journal,
the default filter accepts, any other filter starts its run (R206, R219, R326). Without a filter in service the
candidate is accepted. While the journal is full nothing goes on (R329). -/
def filterRun (s : State) : State :=
  match s.recorder.staging.findIdx? s.canDecide with
  | none => s
  | some i =>
    match s.recorder.staging[i]? with
    | none => s
    | some q =>
      if !s.journalTakes q.record then s
      else if q.record.isVar ∨ q.record.fromFilter then enterJournal q.record (unstage i s)
      else
        match s.filterFor q.record with
        | none => enterJournal q.record (unstage i s)
        | some f =>
          if s.fld (ENG_PC f) ENG_PC_ID = 0x0300 then enterJournal q.record (unstage i s)
          else startFilter f (s.modRec fun x => { x with staging := x.staging.set i { q with filter := some f } })

/-- RECORDER_FILTER_RUN (R206). -/
def execRecorderFilterRun (t : Nat) (s : State) : Host.Outcome State Fault Refusal :=
  .next ((s.reach t).onlyIf s.recUp filterRun)

/-- LOST_EVENTS is placed at the first staging entry that has become free; it takes the identity test and bypasses the filter
(R326, R327). -/
def placeLost (s : State) : State :=
  match s.recorder.lost with
  | none => s
  | some (n, v, c, k, i) =>
    if s.recorder.lostFree ∧ s.recorder.staging.length < 64 then
      let r := mkRecord s (.num 0xF001) v 7 0 [n, codeWord c, 256 * k + i] [] true
      let s := s.modRec fun x => { x with lost := none, lostFree := false }
      match identityMerge r s with
      | some s' => s'
      | none => followRec (s.modRec fun x => { x with staging := x.staging ++ [⟨r, none⟩] })
    else s

/-- LOST_EVENTS (R327). -/
def execLostEvents (t : Nat) (s : State) : Host.Outcome State Fault Refusal := .next ((s.reach t).onlyIf s.recUp placeLost)

/-! ## Flash failures (R339, R340) -/

/-- The armoire is lost: first the self-failure area, then REC_ARMOIRE_LOST into the journal, then RAM-only
operation; together with bypass it is a critical failure of the recorder (R339). -/
def armoireLost (cause : Nat) (s : State) : State :=
  if s.bit REC_STAT REC_STAT_RAM_ONLY then s
  else
    let r := mkRecord s (.num 0xF004) 3 7 0 [cause] [] true
    let s := drawerAdd { r with seq := s.fld REC_SEQ REC_SEQ_NEXT } s
    let s := s.setBit REC_STAT REC_STAT_RAM_ONLY true
    let s := (s.setBit REC_STAT REC_STAT_FLUSH_PEND false).setBit REC_STAT REC_STAT_FLUSHING false
    let s := s.modRec fun x => { x with flush := none }
    if s.bit REC_STAT REC_STAT_BYPASS then enterSafeHold 49 9 (followRec (takeSeq s)) else enterJournal r s

/-- The flash without the records that cannot be read any more; a log block left empty is still in its log (R339). -/
def withoutGone (gone : List Nat) (bs : List ArmBlock) : List ArmBlock :=
  bs.map fun b => { b with recs := b.recs.filter fun r => !gone.contains r.seq }

/-- A record of the recorder itself goes straight to the next erased block of the armoire, with a sequence number of its own (R324,
R339). -/
def storeOwn (r : Record) (s : State) : State :=
  let r := { r with seq := s.fld REC_SEQ REC_SEQ_NEXT }
  let s := takeSeq s
  if 0 < s.recorder.erased then
    s.modRec fun x => { x with armoire := x.armoire ++ [⟨r.sev, [r]⟩], erased := x.erased - 1 }
  else storeRecord r s

/-- A block fails: it is retired and replaced from the reserve, its readable records and REC_BLOCK_RETIRED go to the next erased
block, and three failures in a row, or fewer than 16 usable blocks, lose the armoire (R339). -/
def blockRetired (number kind : Nat) (gone : List Nat) (s : State) : State :=
  let s := (s.modRec fun x => { x with armoire := withoutGone gone x.armoire }).countN REC_ARM REC_ARM_RETIRED 1
  let res := s.fld REC_ARM REC_ARM_RESERVE
  let s := if 0 < res then s.setFld REC_ARM REC_ARM_RESERVE (res - 1)
    else s.modRec fun x => { x with erased := x.erased - 1 }
  let s := s.modRec fun x => { x with blockFails := x.blockFails + 1 }
  let s := followFlushed (storeOwn (mkRecord s (.num 0xF003) 1 7 0 [number, kind] [] true) s)
  if 3 ≤ s.recorder.blockFails then armoireLost 1 s
  else if s.recorder.armoire.length + s.recorder.erased < 16 then armoireLost 3 s
  else s

/-- The failures the flash shows while records are stored (R339). -/
def flashFails (fs : List FlashFail) (s : State) : State :=
  fs.foldl (fun s f => match f with
    | .block n k gone => blockRetired n k gone s
    | .unusable c => armoireLost c s) s

/-! ## Flushing (R329–R331) -/

/-- A requested or pending flush starts: the records unflushed at its start are open no more and are copied in ascending sequence
number; the failures of the flash that it meets are handled (R326, R329, R333, R334, R339). -/
def flushStart (fs : List FlashFail) (s : State) : State :=
  if !s.bit REC_STAT REC_STAT_FLUSH_PEND ∨ s.bit REC_STAT REC_STAT_FLUSHING ∨ s.bit REC_STAT REC_STAT_RAM_ONLY then s
  else
    let todo := (s.recorder.journal.filter fun j => !j.flushed).map fun j => j.record
    let s := (s.setBit REC_STAT REC_STAT_FLUSH_PEND false).setBit REC_STAT REC_STAT_FLUSHING true
    let s := s.modRec fun x =>
      { x with flush := some ⟨todo.map fun r => r.seq, x.armoire, x.erased⟩
               journal := x.journal.map fun j => { j with isOpen := false } }
    let s := todo.foldl (fun s r => storeRecord r s) s
    let s := if fs = [] then s.modRec fun x => { x with blockFails := 0 } else flashFails fs s
    followRec (followFlushed s)

/-- The records a running flush copies, in ascending sequence number. -/
def Recorder.copies (x : Recorder) (seqs : List Nat) : List Record :=
  (x.journal.filter fun j => seqs.contains j.record.seq).map fun j => j.record

/-- FLUSH_START (R329). -/
def execFlushStart (t : Nat) (fs : List FlashFail) (s : State) : Host.Outcome State Fault Refusal :=
  .next ((s.reach t).onlyIf s.recUp (flushStart fs))

/-- The last copy of a flush is verified: its records are in the armoire and REC_FLUSHED moves; a pending flush starts at once (R329,
R346). -/
def flushEnd (s : State) : State :=
  match s.recorder.flush with
  | none => s
  | some ⟨seqs, _, _⟩ =>
    let s := s.modRec fun x =>
      { x with flush := none, journal := x.journal.map fun j =>
          if seqs.contains j.record.seq then { j with flushed := true } else j }
    let s := (followFlushed s).setBit REC_STAT REC_STAT_FLUSHING false
    followRec (s.onlyIf s.recUp (flushStart []))

/-- FLUSH_END (R329). -/
def execFlushEnd (t : Nat) (s : State) : Host.Outcome State Fault Refusal :=
  .next ((s.reach t).onlyIf s.recUp flushEnd)

/-- A running flush stops where it is: some of its copies, the oldest first, are in the armoire. How many is left open: a free value
(R329, R331, R346). -/
def stopFlush (s : State) : State :=
  match s.recorder.flush with
  | none => s
  | some w =>
    let copies := (s.recorder.copies w.seqs).take ((Config.freeWord s.freeCtr).toNat % (w.seqs.length + 1))
    let s := s.fresh.modRec fun x =>
      { x with armoire := w.before, erased := w.erased, flush := none
               journal := x.journal.map fun j => if copies.contains j.record then { j with flushed := true } else j }
    let s := copies.foldl (fun s r => storeRecord r s) s
    (followFlushed s).setBit REC_STAT REC_STAT_FLUSHING false

/-- A flush is cut short as the recorder island stops; the block being programmed may hold a torn record, which is left open too: a
free value (R331, R335, R346). -/
def cutFlush (s : State) : State :=
  match s.recorder.flush with
  | none => s
  | some _ =>
    let torn := Config.freeBool (s.freeCtr + 1)
    (stopFlush s).fresh.modRec fun x => { x with torn := if torn then x.torn + 1 else x.torn }

/-- REC_FLUSH as it lands (R330). -/
def landRecFlush (d : Desc) (s : State) : State :=
  if !payZero d.payload 0 48 then complete d stREFUSED_VALUE 0 s.now s
  else if s.bit REC_STAT REC_STAT_RAM_ONLY then complete d stNO_CHANGE 0 s.now s
  else complete d stSTARTED 0 s.now (requestFlush s)

/-- REC_FLUSH (R330). -/
def execRecFlush (d : Desc) (s : State) : Host.Outcome State Fault Refusal := .next (submit d (landRecFlush d) s)

/-- PFAIL_N falls: REC_PFAIL is written and a flush that covers it is requested (R329, R331). -/
def pfailFall (s : State) : State :=
  let s := (s.modDev fun x => { x with pfailN := false }).setBit REC_STAT REC_STAT_PFAIL true
  let n := (s.recorder.journal.filter fun j => !j.flushed).length
  requestFlush (recordCode 0xF002 0 7 0 [n] s)

/-- PFAIL_FALL (R331), after its 1 µs filter (R349). -/
def execPfailFall (t low : Nat) (s : State) : Host.Outcome State Fault Refusal :=
  .next ((s.reach t).onlyIf (decide (1000 ≤ low) && s.recUp && s.dev.pfailN) pfailFall)

/-- PFAIL_RISE (R331): a running flush completes and nothing else changes. -/
def execPfailRise (t : Nat) (s : State) : Host.Outcome State Fault Refusal :=
  .next (((s.reach t).modDev fun x => { x with pfailN := true }).setBit REC_STAT REC_STAT_PFAIL false)

/-! ## The backup clock (R325, R346) -/

/-- The backup clock is set from PTP time, while QUALITY is 0 (R325). -/
def rtcSet (s : State) : State :=
  if s.quality = 0 then
    let c := s.epoch + s.now
    let s := s.modRec fun x => { x with rtc := some (c * 32768 / 1000000000, s.up) }
    s.setBit REC_STAT REC_STAT_RTC_VALID true
  else s

/-- RTC_SET (R325). -/
def execRtcSet (t : Nat) (s : State) : Host.Outcome State Fault Refusal := .next (rtcSet (s.reach t))

/-- VBAK_LOW (R346): RTC_VALID clears and the backup clock is lost. -/
def execVbakLow (t : Nat) (s : State) : Host.Outcome State Fault Refusal :=
  .next (((s.reach t).modRec fun x => { x with rtc := none }).setBit REC_STAT REC_STAT_RTC_VALID false)

/-! ## Reading records (R336–R338) -/

/-- Every record of the armoire and the journal that is stored, the journal's copy of a record first (R336). -/
def Recorder.stored (x : Recorder) : List (Record × Bool) :=
  x.journal.map (fun j => (j.record, j.isOpen)) ++ (x.armoire.flatMap fun b => b.recs).map fun r => (r, false)

/-- The records an area of the window or an export reads: the self-failure area, or journal and armoire. -/
def Recorder.area (x : Recorder) (drawer : Bool) : List (Record × Bool) :=
  if drawer then x.drawer.map fun r => (r, false) else x.stored

/-- The lookup of REC_RD_CTRL ends: REC_RD0–REC_RD7 hold the record or the piece found, or it is not stored
(R336). -/
def lookupDone (s : State) : State :=
  match s.recorder.lookup with
  | none => s
  | some (seq, area, piece) =>
    let s := s.modRec fun x => { x with lookup := none }
    match (s.recorder.area (area != 0)).find? (fun q => q.1.seq == seq && decide (piece < q.1.slots)) with
    | none => s.setFld REC_RD_CTRL REC_RD_CTRL_STATUS 3
    | some q =>
      let b := q.1.piece piece
      let s := s.setFld REC_RD_CTRL REC_RD_CTRL_STATUS 2
      (List.range 8).foldl (fun s i => s.setFld (REC_RD i) REC_RD_DATA (leNat ((b.drop (4 * i)).take 4))) s

/-- REC_RD_LOOKUP_DONE (R336). -/
def execRecRdLookupDone (t : Nat) (s : State) : Host.Outcome State Fault Refusal := .next ((s.reach t).onlyIf s.recUp lookupDone)

/-- A record is visible to a cabinet (R337). -/
def State.visible (s : State) (c : Fin 4) (r : Record) : Bool :=
  c = 0 || match r.kind with
    | 0 => s.ownerAx (finAx r.idx) = c
    | 1 => s.ownerPort (finPort r.idx) = c
    | 2 => (tileAxes (finTile r.idx)).any fun a => s.ownerAx a = c
    | 3 => r.idx = c.1
    | 4 => true
    | 5 => s.engOwner (finEng r.idx) = some c
    | _ => false

/-- The lowest of a list of numbers, if there is one. -/
def lowest : List Nat → Option Nat
  | [] => none
  | n :: ns => some (ns.foldl min n)

/-- The fields of a REC_QUERY payload are in range and its ring is an ACTIVE recorder-export ring (R337). -/
def State.queryOk (s : State) (d : Desc) : Bool :=
  let p := d.payload
  payByte p 0 < 16 && s.rIs d.cab (finRing (payByte p 0)) 4 && payByte p 1 < 4 && payByte p 2 < 4 &&
  (payByte p 3 < 8 || payByte p 3 = 255) && payZero p 5 8 && payZero p 16 48

/-- REC_QUERY as it lands (R337). -/
def landRecQuery (d : Desc) (s : State) : State :=
  let p := d.payload
  if !s.queryOk d then complete d stREFUSED_VALUE 0 s.now s
  else
    let n := finRing (payByte p 0)
    if s.recorder.exports.any (fun x => x.cab == d.cab && x.ring == n) then complete d stREFUSED_STATE 0 s.now s
    else
      let drawer := payBit p 1 1
      let seqs := (s.recorder.area drawer).map fun q => q.1.seq
      let oldest := (lowest seqs).getD 0
      let first := pay32 p 8
      let cnt := pay32 p 12
      let x : Export :=
        { cab := d.cab, ring := n, tag := d.tag, event := payBit p 1 0, drawer := drawer, minSev := payByte p 2,
          kind := payByte p 3, idx := payByte p 4, next := max first oldest,
          left := if cnt = 0 then none else some cnt, last := seqs.foldl max 0, exported := 0, skipped := 0,
          lastSeq := 0, gap := decide (first < oldest), piece := 0 }
      complete d stSTARTED 0 s.now (s.modRec fun r => { r with exports := r.exports ++ [x] })

/-- REC_QUERY (R337). -/
def execRecQuery (d : Desc) (s : State) : Host.Outcome State Fault Refusal := .next (submit d (landRecQuery d) s)

/-- A record that an export asks for (R337). -/
def State.wanted (s : State) (x : Export) (r : Record) : Bool :=
  x.next ≤ r.seq && (x.left.isSome || r.seq ≤ x.last) && x.minSev ≤ r.sev && (x.kind = 255 || x.kind = r.kind) &&
  (x.idx = 255 || x.idx = r.idx) && s.visible x.cab r

/-- The record an export comes to next: the wanted one of lowest sequence number. -/
def State.nextWanted (s : State) (x : Export) : Option (Record × Bool) :=
  let l := (s.recorder.area x.drawer).filter fun q => s.wanted x q.1
  match lowest (l.map fun q => q.1.seq) with
  | none => none
  | some n => l.find? fun q => q.1.seq == n

/-- Sequence numbers from `a` up to, but not including, `b` that are no longer stored. -/
def missingSeqs (l : List (Record × Bool)) (a b : Nat) : Nat :=
  (b - a) - (((l.map fun q => q.1.seq).filter fun n => decide (a ≤ n) && decide (n < b)).eraseDups).length

/-- An export is replaced by its next state, or leaves the list. -/
def putExport (c : Fin 4) (n : Fin 16) (y : Option Export) (s : State) : State :=
  s.modRec fun r => { r with exports :=
    (r.exports.filter fun x => !(x.cab == c && x.ring == n)) ++ y.toList }

/-- The next piece of an export is written to its ring once it has room; at its count or at the newest record the
export ends and REC_EXPORT_DONE is raised where EVENT asks; a record evicted after its first pieces is skipped too (R338). `bad`: the
bytes as read where the CRC still failed after 3 reads. -/
def exportEntry (c : Fin 4) (n : Fin 16) (bad : Option (List Byte)) (fs : List FlashFail) (s : State) : State :=
  match s.recorder.exports.find? (fun x => x.cab == c && x.ring == n) with
  | none => s
  | some x =>
    let s := if fs = [] then s else flashFails fs s
    match (if x.left = some 0 then none else s.nextWanted x) with
    | none =>
      let miss := if x.left.isNone then missingSeqs (s.recorder.area x.drawer) x.next (x.last + 1) else 0
      let s := putExport c n none s
      if x.event then exportDone { x with skipped := x.skipped + miss } stDONE s else s
    | some (r, isOpen) =>
      if !s.rRoom c n then s
      else
        let x := if r.seq = x.next then x else { x with piece := 0 }
        let miss := if x.piece = 0 then missingSeqs (s.recorder.area x.drawer) x.next r.seq else 0
        let e : ExportEntry :=
          { bytes := bad.getD (r.piece x.piece), seq := r.seq, piece := x.piece, pieces := r.slots, isOpen := isOpen,
            gap := x.gap || miss != 0, bad := bad.isSome, drawer := x.drawer, phase := s.rPhase c n, time := s.now }
        let s := writeEntry c n (.exported e) false s
        let x := { x with gap := false, skipped := x.skipped + miss, lastSeq := r.seq }
        let y : Export :=
          if x.piece + 1 < r.slots then { x with piece := x.piece + 1, next := r.seq }
          else { x with piece := 0, next := r.seq + 1, exported := x.exported + 1, left := x.left.map (· - 1) }
        putExport c n (some y) s

/-- EXPORT_ENTRY (R338). -/
def execExportEntry (t : Nat) (c : Fin 4) (n : Fin 16) (bad : Option (List Byte)) (fs : List FlashFail) (s : State) :
    Host.Outcome State Fault Refusal :=
  .next ((s.reach t).onlyIf s.recUp (exportEntry c n bad fs))

/-! ## Journal failure (R339, R321) -/

/-- An uncorrectable error in the journal SRAM: the self-failure area first, then a running flush stops, the readable unflushed
records go to flash, the unreadable ones are lost, REC_JOURNAL_BYPASS is written and bypass begins; with RAM-only operation it
is a critical failure (R339). -/
def journalError (off : Nat) (unreadable : List Nat) (fs : List FlashFail) (s : State) : State :=
  if s.bit REC_STAT REC_STAT_BYPASS then s
  else
    let r := mkRecord s (.num 0xF005) 3 7 0 [off] [] true
    let s := stopFlush (drawerAdd { r with seq := s.fld REC_SEQ REC_SEQ_NEXT } s)
    let todo := (s.recorder.journal.filter fun j => !j.flushed).map fun j => j.record
    let good := todo.filter fun q => !unreadable.contains q.seq
    let s := s.countN REC_CNT REC_CNT_LOST (todo.length - good.length)
    let s := (s.setBit REC_STAT REC_STAT_FLUSH_PEND false).setBit REC_STAT REC_STAT_FLUSHING false
    if s.bit REC_STAT REC_STAT_RAM_ONLY then
      enterSafeHold 49 9 (followRec ((takeSeq s).setBit REC_STAT REC_STAT_BYPASS true))
    else
      let s := good.foldl (fun s q => storeRecord q s) s
      let s := followFlushed (s.modRec fun x => { x with journal := [] })
      let s := s.setBit REC_STAT REC_STAT_BYPASS true
      let s := enterJournal r s
      followRec (if fs = [] then s else flashFails fs s)

/-- JOURNAL_ECC_ERROR (R339). -/
def execJournalEccError (t : Nat) (off : Nat) (unreadable : List Nat) (fs : List FlashFail) (s : State) :
    Host.Outcome State Fault Refusal :=
  .next ((s.reach t).onlyIf s.recUp (journalError off unreadable fs))

/-- REC_CRIT (R321): a failure of the recorder island that its fallbacks do not cover. -/
def execRecCrit (t : Nat) (fs : List FlashFail) (s : State) : Host.Outcome State Fault Refusal :=
  .next (enterSafeHold 49 9 ((s.reach t).onlyIf s.recUp (flashFails fs)))

/-- HOST_CRIT (R321): a critical failure of the host island. -/
def execHostCrit (t : Nat) (s : State) : Host.Outcome State Fault Refusal := .next (enterSafeHold 48 8 (s.reach t))

/-- The recorder island loses its supply, in the middle of a flush too: what its memory held and no flush has copied is lost, as at a
reset (R332, R346). -/
def vholdLow (s : State) : State :=
  let s := (cutFlush s).modRec fun x =>
    { x with staging := [], journal := [], lost := none, lostFree := false, exports := [], lookup := none }
  followRec (s.modDev fun x => { x with vhold := false })

/-- VHOLD_LOW (R346). -/
def execVholdLow (t : Nat) (s : State) : Host.Outcome State Fault Refusal := .next (vholdLow (s.reach t))

end Sys2Proof.Machine
end

