-- ==== Sys2Proof/Machine/Engine.lean ====
section
/-! DEFINITION. The instructions of the program engines (spec/12), but for the axis-bus accesses: the words of
R202, execution within a run and its budgets (R205–R207), events (R208–R210), commands (R212) and reports (R213).
An engine command executes the word at the engine's program counter: a command whose word is not that one leaves
the state as it is. -/

namespace Sys2Proof.Machine

/-! ## Instruction words (R202, R203) -/

def wR (op : Nat) (d a b : Fin 16) (low : Nat) : Word :=
  BitVec.ofNat 32 (op * 2 ^ 26 + d.1 * 2 ^ 22 + a.1 * 2 ^ 18 + b.1 * 2 ^ 14 + low)

def wI (op : Nat) (d a : Fin 16) (imm : BitVec 18) : Word :=
  BitVec.ofNat 32 (op * 2 ^ 26 + d.1 * 2 ^ 22 + a.1 * 2 ^ 18 + imm.toNat)

/-- Opcodes that R203 defines for an engine kind. -/
def opFor (kind op : Nat) : Bool :=
  op ≤ 0x0D || (0x10 ≤ op && op ≤ 0x19) || (0x20 ≤ op && op ≤ 0x28) || op == 0x2C || op == 0x2E || op == 0x31 ||
  op == 0x33 || op == 0x35 || op == 0x3F ||
  (kind != 2 && (op == 0x2D || op == 0x2F || op == 0x30 || op == 0x32 || op == 0x34 || op == 0x36 || op == 0x37)) ||
  (kind == 2 && op == 0x38)

/-- The opcode and the operand fields of a word (R202). -/
def wOp (w : Word) : Nat := w.toNat / 2 ^ 26
def wD (w : Word) : Nat := w.toNat / 2 ^ 22 % 16
def wA (w : Word) : Nat := w.toNat / 2 ^ 18 % 16
def wImm (w : Word) : Nat := w.toNat % 2 ^ 18

/-- A word without the fields that its instruction does not use (R202, R203). -/
def canonWord (w : Word) : Word :=
  let op := wOp w
  if op = 0x00 ∨ op = 0x28 ∨ op = 0x31 ∨ op = 0x3F then w &&& 0xFC000000
  else if op ≤ 0x0D then w &&& 0xFFFFC000
  else if op = 0x17 then w &&& 0xFFC3FFFF
  else if op = 0x26 ∨ op = 0x27 then w &&& 0xFC03FFFF
  else w

/-! ## Execution within a run -/

/-- What an instruction does: the machine goes on, or the engine stops with a cause and the instruction has no
effect (R204). -/
inductive EngDo where
  | ok (s : State)
  | stop (cause : Nat)

/-- The word at the program counter of the active image. -/
def State.engWord (s : State) (e : Fin 46) : Option Word :=
  ((s.eng e).img[s.imgIdx e]).words[s.fld (ENG_PC e) ENG_PC_PC]?

/-- The instruction and cycle limits of a run (R205, R206). -/
def engLimits (e : Fin 46) : Nat × Nat := if engKind e = 2 then (512, 640) else (2000, 2500)

/-- A run of the engine is in progress and within its budget. An instruction begun within it is executed whole, even where its cost
passes the budget: R21 and R205 do not say whether it is done or deferred (DESIGN CHOICE, log). -/
def State.engCanRun (s : State) (e : Fin 46) : Bool :=
  (s.eng e).running && decide ((s.eng e).count < (engLimits e).1) && decide ((s.eng e).cycles < (engLimits e).2)

/-- A stop within a run: a filter's candidate is decided as ACCEPT (R206). -/
def stopInRun (e : Fin 46) (cause : Nat) (s : State) : State :=
  let s := stopEngine e cause s
  if engKind e = 2 then filterVerdict e 0 s else s

/-- The engine executes the word at its program counter, if it is `w`, at a cost in cycles: the program counter moves
to the next word, then the instruction acts; execution running on outside the words stops the engine with cause PC
(R204, R205). -/
def engExec (e : Fin 46) (w : Word) (cyc : Nat) (act : State → EngDo) (s : State) : State :=
  if s.engCanRun e && (s.engWord e).map canonWord == some w then
    let s1 := s.modEng e fun x => { x with count := x.count + 1, cycles := x.cycles + cyc }
    if !opFor (engKind e) (wOp w) then stopInRun e 2 s
    else
      match act (s1.setFld (ENG_PC e) ENG_PC_PC (s.fld (ENG_PC e) ENG_PC_PC + 1)) with
      | .stop c => stopInRun e c s
      | .ok s2 =>
        if (s2.eng e).running && decide (((s2.eng e).img[s2.imgIdx e]).words.length ≤ s2.fld (ENG_PC e) ENG_PC_PC) then
          stopInRun e 3 s2
        else s2
  else s

/-- A register of an engine. -/
def State.kreg (s : State) (e : Fin 46) (i : Fin 16) : Word := (s.eng e).k[i]

/-- A register of an engine written. -/
def State.setK (s : State) (e : Fin 46) (i : Fin 16) (v : Word) : State :=
  s.modEng e fun x => { x with k := x.k.set i.1 v }

/-- Register k(i + n). -/
def kAfter (i : Fin 16) (n : Nat) : Fin 16 := Fin.ofNat 16 (i.1 + n)

/-- An instruction that writes one register with a value of the registers before it. -/
def engAlu (e : Fin 46) (w : Word) (cyc : Nat) (d : Fin 16) (v : State → Word) (s : State) : State :=
  engExec e w cyc (fun s => .ok (s.setK e d (v s))) s

/-- A sign-extended immediate (R202). -/
def immS (imm : BitVec 18) : Word := imm.signExtend 32

/-- A zero-extended immediate (R202). -/
def immZ (imm : BitVec 18) : Word := imm.zeroExtend 32

/-- Division truncated towards zero: by 0 the quotient is 0, and 0x8000_0000 by −1 gives 0x8000_0000 (R203). -/
def engDiv (a b : Word) : Word :=
  if b = 0 then 0
  else if a = 0x80000000 ∧ b = 0xFFFFFFFF then 0x80000000
  else BitVec.ofInt 32 (Int.tdiv a.toInt b.toInt)

/-- The remainder a − b × (a / b) (R203). -/
def engRem (a b : Word) : Word := a - b * engDiv a b

/-! ## Arithmetic and logic -/

/-- NOP (R203). -/
def execEngNop (e : Fin 46) (s : State) : Host.Outcome State Fault Refusal :=
  .next (engExec e (wR 0x00 0 0 0 0) 1 .ok s)

/-- ADD (R203). -/
def execAdd (e : Fin 46) (d a b : Fin 16) (s : State) : Host.Outcome State Fault Refusal :=
  .next (engAlu e (wR 0x01 d a b 0) 1 d (fun s => s.kreg e a + s.kreg e b) s)

/-- SUB (R203). -/
def execSub (e : Fin 46) (d a b : Fin 16) (s : State) : Host.Outcome State Fault Refusal :=
  .next (engAlu e (wR 0x02 d a b 0) 1 d (fun s => s.kreg e a - s.kreg e b) s)

/-- AND (R203). -/
def execAnd (e : Fin 46) (d a b : Fin 16) (s : State) : Host.Outcome State Fault Refusal :=
  .next (engAlu e (wR 0x03 d a b 0) 1 d (fun s => s.kreg e a &&& s.kreg e b) s)

/-- OR (R203). -/
def execOr (e : Fin 46) (d a b : Fin 16) (s : State) : Host.Outcome State Fault Refusal :=
  .next (engAlu e (wR 0x04 d a b 0) 1 d (fun s => s.kreg e a ||| s.kreg e b) s)

/-- XOR (R203). -/
def execXor (e : Fin 46) (d a b : Fin 16) (s : State) : Host.Outcome State Fault Refusal :=
  .next (engAlu e (wR 0x05 d a b 0) 1 d (fun s => s.kreg e a ^^^ s.kreg e b) s)

/-- SHL by kb[4:0] (R203). -/
def execShl (e : Fin 46) (d a b : Fin 16) (s : State) : Host.Outcome State Fault Refusal :=
  .next (engAlu e (wR 0x06 d a b 0) 1 d (fun s => s.kreg e a <<< ((s.kreg e b).toNat % 32)) s)

/-- SHR by kb[4:0], logical (R203). -/
def execShr (e : Fin 46) (d a b : Fin 16) (s : State) : Host.Outcome State Fault Refusal :=
  .next (engAlu e (wR 0x07 d a b 0) 1 d (fun s => s.kreg e a >>> ((s.kreg e b).toNat % 32)) s)

/-- SAR by kb[4:0], arithmetic (R203). -/
def execSar (e : Fin 46) (d a b : Fin 16) (s : State) : Host.Outcome State Fault Refusal :=
  .next (engAlu e (wR 0x08 d a b 0) 1 d (fun s => (s.kreg e a).sshiftRight ((s.kreg e b).toNat % 32)) s)

/-- MUL: the low 32 bits of the product (R203). -/
def execMul (e : Fin 46) (d a b : Fin 16) (s : State) : Host.Outcome State Fault Refusal :=
  .next (engAlu e (wR 0x09 d a b 0) 2 d (fun s => s.kreg e a * s.kreg e b) s)

/-- MULH: the high 32 bits of the signed product (R203). -/
def execMulh (e : Fin 46) (d a b : Fin 16) (s : State) : Host.Outcome State Fault Refusal :=
  .next (engAlu e (wR 0x0A d a b 0) 2 d
    (fun s => BitVec.ofInt 32 ((s.kreg e a).toInt * (s.kreg e b).toInt / 4294967296)) s)

/-- DIV (R203). -/
def execDiv (e : Fin 46) (d a b : Fin 16) (s : State) : Host.Outcome State Fault Refusal :=
  .next (engAlu e (wR 0x0B d a b 0) 18 d (fun s => engDiv (s.kreg e a) (s.kreg e b)) s)

/-- REM (R203). -/
def execRem (e : Fin 46) (d a b : Fin 16) (s : State) : Host.Outcome State Fault Refusal :=
  .next (engAlu e (wR 0x0C d a b 0) 18 d (fun s => engRem (s.kreg e a) (s.kreg e b)) s)

/-- SLTU (R203). -/
def execSltu (e : Fin 46) (d a b : Fin 16) (s : State) : Host.Outcome State Fault Refusal :=
  .next (engAlu e (wR 0x0D d a b 0) 1 d
    (fun s => if (s.kreg e a).toNat < (s.kreg e b).toNat then 1 else 0) s)

/-- ADDI (R203). -/
def execAddi (e : Fin 46) (d a : Fin 16) (imm : BitVec 18) (s : State) : Host.Outcome State Fault Refusal :=
  .next (engAlu e (wI 0x10 d a imm) 1 d (fun s => s.kreg e a + immS imm) s)

/-- ANDI (R203). -/
def execAndi (e : Fin 46) (d a : Fin 16) (imm : BitVec 18) (s : State) : Host.Outcome State Fault Refusal :=
  .next (engAlu e (wI 0x11 d a imm) 1 d (fun s => s.kreg e a &&& immZ imm) s)

/-- ORI (R203). -/
def execOri (e : Fin 46) (d a : Fin 16) (imm : BitVec 18) (s : State) : Host.Outcome State Fault Refusal :=
  .next (engAlu e (wI 0x12 d a imm) 1 d (fun s => s.kreg e a ||| immZ imm) s)

/-- XORI (R203). -/
def execXori (e : Fin 46) (d a : Fin 16) (imm : BitVec 18) (s : State) : Host.Outcome State Fault Refusal :=
  .next (engAlu e (wI 0x13 d a imm) 1 d (fun s => s.kreg e a ^^^ immZ imm) s)

/-- SHLI by imm[4:0] (R203). -/
def execShli (e : Fin 46) (d a : Fin 16) (imm : BitVec 18) (s : State) : Host.Outcome State Fault Refusal :=
  .next (engAlu e (wI 0x14 d a imm) 1 d (fun s => s.kreg e a <<< (imm.toNat % 32)) s)

/-- SHRI by imm[4:0], logical (R203). -/
def execShri (e : Fin 46) (d a : Fin 16) (imm : BitVec 18) (s : State) : Host.Outcome State Fault Refusal :=
  .next (engAlu e (wI 0x15 d a imm) 1 d (fun s => s.kreg e a >>> (imm.toNat % 32)) s)

/-- SARI by imm[4:0], arithmetic (R203). -/
def execSari (e : Fin 46) (d a : Fin 16) (imm : BitVec 18) (s : State) : Host.Outcome State Fault Refusal :=
  .next (engAlu e (wI 0x16 d a imm) 1 d (fun s => (s.kreg e a).sshiftRight (imm.toNat % 32)) s)

/-- LUI: imm << 14 (R203). -/
def execLui (e : Fin 46) (d : Fin 16) (imm : BitVec 18) (s : State) : Host.Outcome State Fault Refusal :=
  .next (engAlu e (wI 0x17 d 0 imm) 1 d (fun _ => immZ imm <<< 14) s)

/-! ## Data memory (R200, R203, R204) -/

/-- A byte address that an LD or ST may use (R204). -/
def dataOk (e : Fin 46) (addr : Word) : Bool := addr.toNat % 4 == 0 && decide (addr.toNat < dataSize e)

/-- The data word at a byte address of the active image. -/
def State.dataWord (s : State) (e : Fin 46) (addr : Nat) : Word := memWord ((s.eng e).data[s.imgIdx e]) (addr / 4)

/-- A data memory with a word written; words of 0 are not listed. -/
def memSet (l : List (Nat × Word)) (w : Nat) (v : Word) : List (Nat × Word) :=
  if v = 0 then cellErase l w else cellInsert (cellErase l w) w v

/-- LD (R203, R204). -/
def execLd (e : Fin 46) (d a : Fin 16) (imm : BitVec 18) (s : State) : Host.Outcome State Fault Refusal :=
  .next (engExec e (wI 0x18 d a imm) 1 (fun s =>
    let addr := s.kreg e a + immS imm
    if dataOk e addr then .ok (s.setK e d (s.dataWord e addr.toNat)) else .stop 4) s)

/-- ST (R203, R204). -/
def execSt (e : Fin 46) (d a : Fin 16) (imm : BitVec 18) (s : State) : Host.Outcome State Fault Refusal :=
  .next (engExec e (wI 0x19 d a imm) 1 (fun s =>
    let addr := s.kreg e a + immS imm
    if dataOk e addr then
      let i := s.imgIdx e
      .ok (s.modEng e fun x =>
        { x with data := x.data.set i.1 (memSet x.data[i] (addr.toNat / 4) (s.kreg e d)) })
    else .stop 4) s)

/-! ## Control flow -/

/-- The target of a branch: an offset in words from the instruction that follows (R202), in the 16 bits of the program counter,
so that a target before word 0 lies outside every image. -/
def State.branchTo (s : State) (e : Fin 46) (off : BitVec 18) : Nat :=
  toBits 16 ((s.fld (ENG_PC e) ENG_PC_PC : Int) + off.toInt)

/-- The program counter goes to the target of a branch. -/
def State.jump (s : State) (e : Fin 46) (off : BitVec 18) : State :=
  s.setFld (ENG_PC e) ENG_PC_PC (s.branchTo e off)

/-- A conditional branch: 1 cycle, 2 where it is taken (R203). -/
def engBranch (e : Fin 46) (op : Nat) (a b : Fin 16) (off : BitVec 18) (c : Word → Word → Bool) (s : State) : State :=
  let taken := c (s.kreg e a) (s.kreg e b)
  engExec e (wI op a b off) (if taken then 2 else 1) (fun s => .ok (if taken then s.jump e off else s)) s

/-- BEQ (R203). -/
def execBeq (e : Fin 46) (a b : Fin 16) (off : BitVec 18) (s : State) : Host.Outcome State Fault Refusal :=
  .next (engBranch e 0x20 a b off (fun x y => x == y) s)

/-- BNE (R203). -/
def execBne (e : Fin 46) (a b : Fin 16) (off : BitVec 18) (s : State) : Host.Outcome State Fault Refusal :=
  .next (engBranch e 0x21 a b off (fun x y => x != y) s)

/-- BLT, signed (R203). -/
def execBlt (e : Fin 46) (a b : Fin 16) (off : BitVec 18) (s : State) : Host.Outcome State Fault Refusal :=
  .next (engBranch e 0x22 a b off (fun x y => decide (x.toInt < y.toInt)) s)

/-- BGE, signed (R203). -/
def execBge (e : Fin 46) (a b : Fin 16) (off : BitVec 18) (s : State) : Host.Outcome State Fault Refusal :=
  .next (engBranch e 0x23 a b off (fun x y => decide (y.toInt ≤ x.toInt)) s)

/-- BLTU (R203). -/
def execBltu (e : Fin 46) (a b : Fin 16) (off : BitVec 18) (s : State) : Host.Outcome State Fault Refusal :=
  .next (engBranch e 0x24 a b off (fun x y => decide (x.toNat < y.toNat)) s)

/-- BGEU (R203). -/
def execBgeu (e : Fin 46) (a b : Fin 16) (off : BitVec 18) (s : State) : Host.Outcome State Fault Refusal :=
  .next (engBranch e 0x25 a b off (fun x y => decide (y.toNat ≤ x.toNat)) s)

/-- JMP (R203). -/
def execJmp (e : Fin 46) (off : BitVec 18) (s : State) : Host.Outcome State Fault Refusal :=
  .next (engExec e (wI 0x26 0 0 off) 2 (fun s => .ok (s.jump e off)) s)

/-- CALL: k15 = the address of the next word, then the branch (R203). -/
def execCall (e : Fin 46) (off : BitVec 18) (s : State) : Host.Outcome State Fault Refusal :=
  .next (engExec e (wI 0x27 0 0 off) 2 (fun s =>
    .ok ((s.setK e 15 (BitVec.ofNat 32 (s.fld (ENG_PC e) ENG_PC_PC))).jump e off)) s)

/-- RET: continue at word k15; a word outside the image stops the engine with cause PC (R203, R204). -/
def execRet (e : Fin 46) (s : State) : Host.Outcome State Fault Refusal :=
  .next (engExec e (wR 0x28 0 0 0 0) 2 (fun s =>
    let t := (s.kreg e 15).toNat
    if t < ((s.eng e).img[s.imgIdx e]).words.length then .ok (s.setFld (ENG_PC e) ENG_PC_PC t) else .stop 3) s)

/-! ## Runs: YIELD, HALT, forced yields and the program watchdog (R203, R205–R207) -/

/-- A run ends by the program's own will: the forced yields in a row are forgotten (R207), and a filter's candidate
is accepted (R206). -/
def willEnd (e : Fin 46) (s : State) : State :=
  let s := (endRun e s).modEng e fun x => { x with forced := 0 }
  if engKind e = 2 then filterVerdict e 0 s else s

/-- YIELD (R203, R205). -/
def execYield (e : Fin 46) (s : State) : Host.Outcome State Fault Refusal :=
  .next (engExec e (wR 0x31 0 0 0 0) 1 (fun s => .ok (willEnd e (s.setFld (ENG_STAT e) ENG_STAT_STATE 1))) s)

/-- HALT: STOPPED with cause HALT; ENG_STOPPED only with STOPEV (R203, R204). -/
def execHalt (e : Fin 46) (s : State) : Host.Outcome State Fault Refusal :=
  .next (engExec e (wR 0x3F 0 0 0 0) 1 (fun s =>
    let s := (s.setFld (ENG_STAT e) ENG_STAT_STATE 4).setFld (ENG_STAT e) ENG_STAT_CAUSE 1
    let s := if s.bit (ENG_CFG e) ENG_CFG_STOPEV then raiseStopped e 1 s else s
    .ok (willEnd e s)) s)

/-- A forced yield: FYIELD, an info record for axis engines and supervisors, and one more in a row; a filter's
candidate is accepted (R205–R207). -/
def forcedYield (e : Fin 46) (s : State) : State :=
  if (s.eng e).running then
    let s := (endRun e s).count (ENG_CNT e) ENG_CNT_FYIELD
    if engKind e = 2 then filterVerdict e 0 s
    else record .engBudget 0 5 e [] (s.modEng e fun x => { x with forced := x.forced + 1 })
  else s

/-- FORCED_YIELD (R205, R206): a run that has reached its instructions or its cycles. -/
def execForcedYield (e : Fin 46) (s : State) : Host.Outcome State Fault Refusal :=
  .next (s.onlyIf ((s.eng e).running && !s.engCanRun e) (forcedYield e))

/-- N consecutive forced yields stop the engine with cause WDOG and raise ENG_WDOG against its axis, or every axis of
a supervisor's tile (R207). -/
def engWatchdog (e : Fin 46) (s : State) : State :=
  if engKind e ≠ 2 ∧ s.fld (ENG_STAT e) ENG_STAT_STATE ≠ 4 ∧ s.fld (ENG_WDOG e) ENG_WDOG_N ≤ (s.eng e).forced then
    let s := (stopEngine e 6 s).modEng e fun x => { x with forced := 0 }
    if engKind e = 1 then raiseFaultAll 21 ⟨3, e.1 - 40⟩ e (tileAxes (s.engTile e)) s
    else match s.axisOfEng e with
      | some a => raiseFault 21 ⟨2, a⟩ e a s
      | none => s
  else s

/-- ENG_WDOG (R207). -/
def execEngWdog (e : Fin 46) (s : State) : Host.Outcome State Fault Refusal := .next (engWatchdog e s)

/-- UNDEFINED_OPCODE (R204): the word at the program counter is undefined, or one the kind cannot use. -/
def execUndefinedOpcode (e : Fin 46) (w : Word) (s : State) : Host.Outcome State Fault Refusal :=
  .next (s.onlyIf (s.engCanRun e && s.engWord e == some w && !opFor (engKind e) (wOp w)) (stopInRun e 2))

/-! ## Events (R208–R210) -/

/-- The lowest event that is set in the sampled latch and in a mask (R208). -/
def State.evFor (s : State) (e : Fin 46) (mask : BitVec 18) : Option Nat :=
  (List.range 17).find? fun b => (s.eng e).sampled.getLsbD b && mask.getLsbD b

/-- An event number and a 64-bit parameter in kd, k(d + 1) and k(d + 2) (R208). -/
def State.setEvent (s : State) (e : Fin 46) (d : Fin 16) (n : Nat) (p : BitVec 64) : State :=
  ((s.setK e d (BitVec.ofNat 32 n)).setK e (kAfter d 1) (p.extractLsb' 0 32)).setK e (kAfter d 2) (p.extractLsb' 32 32)

/-- A WAIT takes an event: its bit clears, but for an occurrence since the latch was sampled, and the event is delivered as it was
sampled (R208). -/
def takeEvent (e : Fin 46) (d : Fin 16) (b : Nat) (s : State) : State :=
  let l := s.fld (ENG_EVLATCH e) ENG_EVLATCH_EV
  let s := if l.testBit b && !(s.eng e).since.getLsbD b then s.setFld (ENG_EVLATCH e) ENG_EVLATCH_EV (l - 2 ^ b) else s
  let p := (s.eng e).sampledP.toArray.getD b 0
  let s := s.modEng e fun x => { x with sampled := x.sampled &&& ~~~(BitVec.ofNat 17 (2 ^ b)), waitLeft := none }
  (s.setEvent e d b p).setFld (ENG_STAT e) ENG_STAT_STATE 1

/-- A WAIT without an event ends the run and is executed again; its timeout counts from its first execution
(R205, R208). -/
def waitEnds (e : Fin 46) (a : Fin 16) (s : State) : State :=
  let s := s.setFld (ENG_PC e) ENG_PC_PC (s.fld (ENG_PC e) ENG_PC_PC - 1)
  let t := (s.kreg e a).toNat
  let s := s.modEng e fun x => { x with waitLeft := if t = 0 then none else some (x.waitLeft.getD t) }
  willEnd e (s.setFld (ENG_STAT e) ENG_STAT_STATE 2)

/-- The timeout of the WAIT in progress has expired in this run (R208). -/
def State.waitOver (s : State) (e : Fin 46) : Bool := (s.eng e).waitLeft == some 0

/-- WAIT (R208): 2 cycles with an event, 1 without. -/
def execWait (e : Fin 46) (d a : Fin 16) (imm : BitVec 18) (s : State) : Host.Outcome State Fault Refusal :=
  .next (s.onlyIf ((s.evFor e imm).isSome || !s.waitOver e)
    (engExec e (wI 0x30 d a imm) (if (s.evFor e imm).isSome then 2 else 1) fun s =>
      if 13 < d.1 then .stop 2
      else match s.evFor e imm with
        | some b => .ok (takeEvent e d b s)
        | none => .ok (waitEnds e a s)))

/-- WAIT_TIMEOUT (R208): in the run in which the count expires the WAIT returns event 31 with parameter 0. -/
def execWaitTimeout (e : Fin 46) (d a : Fin 16) (imm : BitVec 18) (s : State) : Host.Outcome State Fault Refusal :=
  .next (s.onlyIf ((s.evFor e imm).isNone && s.waitOver e)
    (engExec e (wI 0x30 d a imm) 2 fun s =>
      if 13 < d.1 then .stop 2
      else .ok (((s.modEng e fun x => { x with waitLeft := none }).setEvent e d 31 0).setFld (ENG_STAT e)
        ENG_STAT_STATE 1)))

/-- ARM: the single trigger of the engine (R210). -/
def execArm (e : Fin 46) (d a : Fin 16) (imm : BitVec 18) (s : State) : Host.Outcome State Fault Refusal :=
  .next (engExec e (wI 0x32 d a imm) 2 (fun s =>
    if 14 < a.1 then .stop 2
    else
      let v := (s.kreg e a).toNat + 2 ^ 32 * (s.kreg e (kAfter a 1)).toNat
      let ax := if engKind e = 1 then (s.kreg e d).toNat else ((s.axisOfEng e).getD 0).1
      .ok (s.modEng e fun x =>
        { x with trig := if imm.toNat = 0 then none else some ⟨imm.toNat, v, ax, 0, false⟩ })) s)

/-- A trigger is met with the values at the last boundary of the engine's tile: MP_CMD_POS then holds the position at kT (R210). -/
def State.meets (s : State) (e : Fin 46) (g : Trigger) : Bool :=
  let pos := s.pairI (MP_CMD_POS_LO (finAx g.axis))
  match g.cond with
  | 1 => decide (g.value ≤ s.boundary (s.engTile e))
  | 2 => decide (signedOf 64 g.value ≤ pos)
  | 3 => decide (pos ≤ signedOf 64 g.value)
  | 4 => decide (g.value ≤ g.runs)
  | _ => false

/-- The last boundary met the trigger (R210). -/
def State.trigMet (s : State) (e : Fin 46) : Bool := ((s.eng e).trig.map fun g => g.met).getD false

/-- ARMED (R210): bit 8 is latched at the boundary, before the latch is sampled, and the trigger disarms. A supervisor's carries the
axis (R209). -/
def armedFires (e : Fin 46) (s : State) : State :=
  let axis := if engKind e = 1 then ((s.eng e).trig.map fun g => g.axis % 32 * 2 ^ 56).getD 0 else 0
  let v := s.boundary (s.engTile e) + axis
  let s := latchEvent e 8 v s
  s.modEng e fun x => { x with
    trig := none, sampled := x.sampled ||| 256#17, since := x.since &&& ~~~256#17
    sampledP := x.sampledP.setIfInBounds 8 (BitVec.ofNat 64 v) }

def execArmed (e : Fin 46) (s : State) : Host.Outcome State Fault Refusal :=
  .next (s.onlyIf (s.trigMet e) (armedFires e))

/-! ## Time, reports, commands (R203, R212, R213) -/

/-- TIME: the line time of the current boundary; for a recorder filter that of execution to 8 ns (R203). -/
def execTime (e : Fin 46) (d : Fin 16) (imm : BitVec 18) (a : Fin 16) (s : State) :
    Host.Outcome State Fault Refusal :=
  .next (engExec e (wI 0x35 d a imm) 1 (fun s =>
    if 14 < d.1 then .stop 2
    else
      let t := if engKind e = 2 then s.now / 8 * 8 else s.boundary (s.engTile e)
      .ok ((s.setK e d (BitVec.ofNat 32 t)).setK e (kAfter d 1) (BitVec.ofNat 32 (t / 2 ^ 32)))) s)

/-- SIGNAL: ENG_SIGNAL with the engine, the sign-extended code and ka (R202, R213). -/
def execSignal (e : Fin 46) (d a : Fin 16) (imm : BitVec 18) (s : State) : Host.Outcome State Fault Refusal :=
  .next (engExec e (wI 0x36 d a imm) 2 (fun s =>
    .ok ((s.engCabs e).foldl (fun s c =>
      raiseEvent c ⟨0x0702, plainSev 0x0702, 5, e, 0, s.now, [e, (immS imm).toNat, (s.kreg e a).toNat]⟩ s) s)) s)

/-- EMIT: a record 0xE000 + code of the engine with three parameters; severity 3 is written as 2 (R213). -/
def execEmit (e : Fin 46) (d a b : Fin 16) (sev : BitVec 2) (code : BitVec 12) (s : State) :
    Host.Outcome State Fault Refusal :=
  .next (engExec e (wR 0x33 d a b (sev.toNat * 4096 + code.toNat)) 4 (fun s =>
    .ok (candidate (mkRecord s (.num (0xE000 + code.toNat)) (min sev.toNat 2) 5 e
      [(s.kreg e d).toNat, (s.kreg e a).toNat, (s.kreg e b).toNat] [] (engKind e = 2)) s)) s)

/-- REACT: a fault of class ENG_REACT at reaction imm, for the engine's own axis or the axis of its tile in ka; an
imm outside 1–6 is ignored (R213). -/
def execReact (e : Fin 46) (d a : Fin 16) (imm : BitVec 18) (s : State) : Host.Outcome State Fault Refusal :=
  .next (engExec e (wI 0x37 d a imm) 2 (fun s =>
    let rx := imm.toNat
    if rx < 1 ∨ 6 < rx then .ok s
    else if engKind e = 1 then
      let x := (s.kreg e a).toNat
      if x < 32 ∧ tileOf (finAx x) = s.engTile e then .ok (raiseFaultRx 33 rx ⟨3, e.1 - 40⟩ rx (finAx x) s) else .ok s
    else match s.axisOfEng e with
      | some x => .ok (raiseFaultRx 33 rx ⟨2, x⟩ rx x s)
      | none => .ok s) s)

/-- VERDICT: the run ends and the candidate is decided (R215). -/
def execVerdict (e : Fin 46) (d a : Fin 16) (imm : BitVec 18) (s : State) : Host.Outcome State Fault Refusal :=
  .next (engExec e (wI 0x38 d a imm) 1 (fun s => .ok (filterVerdict e imm.toNat s)) s)

/-- The opcodes a CMD may submit (R212). -/
def cmdAllowed (op : Nat) : Bool := (0x01 ≤ op && op ≤ 0x06) || op == 0x10 || op == 0x11 || op == 0x12 || op == 0x14

/-- Bytes of the data memory of the active image. -/
def State.dataByte (s : State) (e : Fin 46) (addr : Nat) : Nat := (s.dataWord e addr).toNat / 256 ^ (addr % 4) % 256

/-- The instant up to which the run of an engine has come: its cycles of 4 ns after the boundary (R203, R205). -/
def State.engInstant (s : State) (e : Fin 46) : Nat := s.boundary (s.engTile e) + 4 * (s.eng e).cycles

/-- The descriptor image at an address of data memory, for an axis (R212, R232). -/
def State.cmdDesc (s : State) (e : Fin 46) (addr : Nat) (ax : Fin 32) (n : Nat) : Desc :=
  { cab := s.ownerAx ax, ring := 0, cpl := 0, index := 0, ver := 2, tag := 0, irq := false, accept := s.engInstant e,
    kind := 0, target := ax, opcode := s.dataByte e addr, engine := some (e, n), unconfirmed := false, muted := false, image := [],
    payload := Vector.ofFn fun i => BitVec.ofNat 8 (s.dataByte e (addr + 16 + i.1)) }

/-- A descriptor reaches the intake of its axis at an instant; a full intake refuses it at once (R234). -/
def toIntake (t : Nat) (d : Desc) (s : State) : State :=
  let a := finAx d.target
  if (s.axis a).intake.length < 32 then s.modAxis a fun x => { x with intake := x.intake ++ [(t, d)] }
  else complete d stREFUSED_QUEUE_FULL 0 s.now s

/-- The axis that a CMD of an engine names: its own, or for a supervisor that in kd, if it lies in its tile. -/
def State.cmdAxis (s : State) (e : Fin 46) (d : Fin 16) : Option (Fin 32) :=
  if engKind e = 1 then
    let x := (s.kreg e d).toNat
    if x < 32 ∧ tileOf (finAx x) = s.engTile e then some (finAx x) else none
  else s.axisOfEng e

/-- CMD: with 4 commands outstanding kd = 0; otherwise kd = 1 and the command joins the intake, or completes with
REFUSED_VALUE where its opcode is not allowed; event bit 5 clears (R209, R212). -/
def submitCmd (e : Fin 46) (d : Fin 16) (addr : Nat) (ax : Fin 32) (s : State) : State :=
  let l := s.fld (ENG_EVLATCH e) ENG_EVLATCH_EV
  let s := if l.testBit 5 then s.setFld (ENG_EVLATCH e) ENG_EVLATCH_EV (l - 32) else s
  let s := s.modEng e fun x => { x with sampled := x.sampled &&& ~~~32#17, since := x.since &&& ~~~32#17 }
  if 4 ≤ (s.eng e).cmds then (s.setK e d 0).count (ENG_CNT2 e) ENG_CNT2_BUSY
  else
    let n := (s.eng e).lastCmd + 1
    let c := s.cmdDesc e addr ax n
    let s := s.modEng e fun x => { x with cmds := x.cmds + 1, lastCmd := n }
    let s := (s.setK e d 1).count (ENG_CNT2 e) ENG_CNT2_CMDS
    if cmdAllowed c.opcode then toIntake c.accept c s else complete c stREFUSED_VALUE 0 s.now s

/-- CMD (R212). -/
def execCmd (e : Fin 46) (d a : Fin 16) (imm : BitVec 18) (s : State) : Host.Outcome State Fault Refusal :=
  .next (engExec e (wI 0x34 d a imm) 4 (fun s =>
    let addr := s.kreg e a + immS imm
    if addr.toNat % 64 ≠ 0 ∨ dataSize e < addr.toNat + 64 then .stop 4
    else match s.cmdAxis e d with
      | none => .stop 5
      | some ax => .ok (submitCmd e d addr.toNat ax s)) s)

/-! ## The boundary of a period (R205, R208, R220) -/

/-- Posted writes at a boundary: those that complete later go on, by the cycles of the run that begins (R212). -/
def carryPosted (cyc : Nat) (l : List Nat) : List Nat := (l.filter fun c => decide (cyc < c)).map (· - cyc)

/-- At boundary k an engine that still runs is forced to yield; the latch takes PERIOD and is sampled with the trigger tested; an
engine in RUN or WAIT begins its run of the period, and one that a YIELD in the last word left outside the words stops with cause PC
(R204). A program that waits for the watchdog does not run. -/
def engBoundary (k : Nat) (e : Fin 46) (s : State) : State :=
  let s := forcedYield e s
  let s := latchEvent e 15 (k % 2 ^ 32) s
  let st := s.fld (ENG_STAT e) ENG_STAT_STATE
  let go := (st = 1 ∨ st = 2) ∧ !(s.eng e).homePend ∧ (s.eng e).forced < s.fld (ENG_WDOG e) ENG_WDOG_N
  let l := s.fld (ENG_EVLATCH e) ENG_EVLATCH_EV
  let z := s.modEng e fun x =>
    { x with
      sampled := BitVec.ofNat 17 l
      sampledP := x.params
      since := 0
      trig := x.trig.map fun g => { g with met := s.meets e g, runs := if go then g.runs + 1 else g.runs }
      waitLeft := if go then x.waitLeft.map (· - 1) else x.waitLeft
      running := decide go
      homePend := false
      count := 0
      cycles := 0
      posted := carryPosted (s.period (s.engTile e) / 4) x.posted }
  if go ∧ (z.engWord e).isNone then stopInRun e 3 z else z

/-- ENG_HOSTEV_SET as a software write of ENG_HOSTEV with SET (R209): event 14 with PARAM. -/
def hostEvent (e : Fin 46) (s : State) : State := latchEvent e 14 (s.fld (ENG_HOSTEV e) ENG_HOSTEV_PARAM) s

end Sys2Proof.Machine
end

