-- ==== Sys2Proof/Decode.lean ====
section
/-! DEFINITION. Reading words as commands. The table of operations and events gives no row any bits, so no word of the
table's kind spells a command. What the manual does encode are the instruction words of the program engines (R202, R203): the
word of an engine command, and the engine command that executes a word. -/

namespace Sys2Proof

/-- The command that a word spells by the bits of the table of operations and events: the table gives no row any bits. -/
def decodeTableWord (_nbits _w : Nat) : Option Instr := none

namespace Machine

/-- What an engine word does not tell of the command that executes it: whether the timeout of a WAIT has expired (R208), and the
cycles and the failure of the crossing of an axis-bus access (R203, R255). -/
structure EngCtx where
  expired : Bool
  cross : Nat
  lost : Bool
  deriving DecidableEq, Repr

/-- The engine command that executes a word on an engine (R202–R204). -/
def engCommand (e : Fin 46) (x : EngCtx) (w : Word) : Instr :=
  let d : Fin 16 := Fin.ofNat 16 (wD w)
  let a : Fin 16 := Fin.ofNat 16 (wA w)
  let b : Fin 16 := Fin.ofNat 16 (w.toNat / 2 ^ 14)
  let imm : BitVec 18 := w.setWidth 18
  if !opFor (engKind e) (wOp w) then .undefinedOpcode e w
  else match wOp w with
    | 0x00 => .engNop e
    | 0x01 => .add e d a b
    | 0x02 => .sub e d a b
    | 0x03 => .and e d a b
    | 0x04 => .or e d a b
    | 0x05 => .xor e d a b
    | 0x06 => .shl e d a b
    | 0x07 => .shr e d a b
    | 0x08 => .sar e d a b
    | 0x09 => .mul e d a b
    | 0x0A => .mulh e d a b
    | 0x0B => .div e d a b
    | 0x0C => .rem e d a b
    | 0x0D => .sltu e d a b
    | 0x10 => .addi e d a imm
    | 0x11 => .andi e d a imm
    | 0x12 => .ori e d a imm
    | 0x13 => .xori e d a imm
    | 0x14 => .shli e d a imm
    | 0x15 => .shri e d a imm
    | 0x16 => .sari e d a imm
    | 0x17 => .lui e d imm
    | 0x18 => .ld e d a imm
    | 0x19 => .st e d a imm
    | 0x20 => .beq e d a imm
    | 0x21 => .bne e d a imm
    | 0x22 => .blt e d a imm
    | 0x23 => .bge e d a imm
    | 0x24 => .bltu e d a imm
    | 0x25 => .bgeu e d a imm
    | 0x26 => .jmp e imm
    | 0x27 => .call e imm
    | 0x28 => .ret e
    | 0x2C => .abrd e d a imm x.cross x.lost
    | 0x2D => .abwr e d a imm x.cross x.lost
    | 0x2E => .abrdp e d a imm x.cross x.lost
    | 0x2F => .abwrp e d a imm x.cross x.lost
    | 0x30 => if x.expired then .waitTimeout e d a imm else .wait e d a imm
    | 0x31 => .yield e
    | 0x32 => .arm e d a imm
    | 0x33 => .emit e d a b (w.extractLsb' 12 2) (w.setWidth 12)
    | 0x34 => .cmd e d a imm
    | 0x35 => .time e d imm a
    | 0x36 => .signal e d a imm
    | 0x37 => .react e d a imm
    | 0x38 => .verdict e d a imm
    | _ => .halt e

/-- The word of an engine command, with zeros in the fields that its instruction does not use (R202, R203); none for a command that
executes no word. -/
def engWordOf (i : Instr) : Option Word :=
  match i with
  | .engNop _ => some (wR 0x00 0 0 0 0)
  | .add _ d a b => some (wR 0x01 d a b 0)
  | .sub _ d a b => some (wR 0x02 d a b 0)
  | .and _ d a b => some (wR 0x03 d a b 0)
  | .or _ d a b => some (wR 0x04 d a b 0)
  | .xor _ d a b => some (wR 0x05 d a b 0)
  | .shl _ d a b => some (wR 0x06 d a b 0)
  | .shr _ d a b => some (wR 0x07 d a b 0)
  | .sar _ d a b => some (wR 0x08 d a b 0)
  | .mul _ d a b => some (wR 0x09 d a b 0)
  | .mulh _ d a b => some (wR 0x0A d a b 0)
  | .div _ d a b => some (wR 0x0B d a b 0)
  | .rem _ d a b => some (wR 0x0C d a b 0)
  | .sltu _ d a b => some (wR 0x0D d a b 0)
  | .addi _ d a imm => some (wI 0x10 d a imm)
  | .andi _ d a imm => some (wI 0x11 d a imm)
  | .ori _ d a imm => some (wI 0x12 d a imm)
  | .xori _ d a imm => some (wI 0x13 d a imm)
  | .shli _ d a imm => some (wI 0x14 d a imm)
  | .shri _ d a imm => some (wI 0x15 d a imm)
  | .sari _ d a imm => some (wI 0x16 d a imm)
  | .lui _ d imm => some (wI 0x17 d 0 imm)
  | .ld _ d a imm => some (wI 0x18 d a imm)
  | .st _ d a imm => some (wI 0x19 d a imm)
  | .beq _ a b off => some (wI 0x20 a b off)
  | .bne _ a b off => some (wI 0x21 a b off)
  | .blt _ a b off => some (wI 0x22 a b off)
  | .bge _ a b off => some (wI 0x23 a b off)
  | .bltu _ a b off => some (wI 0x24 a b off)
  | .bgeu _ a b off => some (wI 0x25 a b off)
  | .jmp _ off => some (wI 0x26 0 0 off)
  | .call _ off => some (wI 0x27 0 0 off)
  | .ret _ => some (wR 0x28 0 0 0 0)
  | .abrd _ d a imm _ _ => some (wI 0x2C d a imm)
  | .abwr _ d a imm _ _ => some (wI 0x2D d a imm)
  | .abrdp _ d a imm _ _ => some (wI 0x2E d a imm)
  | .abwrp _ d a imm _ _ => some (wI 0x2F d a imm)
  | .wait _ d a imm => some (wI 0x30 d a imm)
  | .waitTimeout _ d a imm => some (wI 0x30 d a imm)
  | .yield _ => some (wR 0x31 0 0 0 0)
  | .arm _ d a imm => some (wI 0x32 d a imm)
  | .emit _ d a b sev code => some (wR 0x33 d a b (sev.toNat * 4096 + code.toNat))
  | .cmd _ d a imm => some (wI 0x34 d a imm)
  | .time _ d imm a => some (wI 0x35 d a imm)
  | .signal _ d a imm => some (wI 0x36 d a imm)
  | .react _ d a imm => some (wI 0x37 d a imm)
  | .verdict _ d a imm => some (wI 0x38 d a imm)
  | .halt _ => some (wR 0x3F 0 0 0 0)
  | .undefinedOpcode _ w => some w
  | _ => none

end Machine

end Sys2Proof
end

