-- ==== Sys2Proof/Machine/Crypto.lean ====
section
/-! DEFINITION. The digest and the signature that the boot ROM checks (R278, R279): SHA-256 as FIPS 180-4 gives it and ECDSA over
P-256 as FIPS 186-4 gives it. The manual names both and repeats neither (PRESUMED, log). -/

namespace Sys2Proof.Machine

/-- A number of big-endian bytes. -/
def beNat (l : List Byte) : Nat := l.foldl (fun n b => n * 256 + b.toNat) 0

/-! ## SHA-256 -/

def shaConst : List Nat :=
  [0x428a2f98, 0x71374491, 0xb5c0fbcf, 0xe9b5dba5, 0x3956c25b, 0x59f111f1, 0x923f82a4, 0xab1c5ed5,
   0xd807aa98, 0x12835b01, 0x243185be, 0x550c7dc3, 0x72be5d74, 0x80deb1fe, 0x9bdc06a7, 0xc19bf174] ++
  [0xe49b69c1, 0xefbe4786, 0x0fc19dc6, 0x240ca1cc, 0x2de92c6f, 0x4a7484aa, 0x5cb0a9dc, 0x76f988da,
   0x983e5152, 0xa831c66d, 0xb00327c8, 0xbf597fc7, 0xc6e00bf3, 0xd5a79147, 0x06ca6351, 0x14292967] ++
  [0x27b70a85, 0x2e1b2138, 0x4d2c6dfc, 0x53380d13, 0x650a7354, 0x766a0abb, 0x81c2c92e, 0x92722c85,
   0xa2bfe8a1, 0xa81a664b, 0xc24b8b70, 0xc76c51a3, 0xd192e819, 0xd6990624, 0xf40e3585, 0x106aa070] ++
  [0x19a4c116, 0x1e376c08, 0x2748774c, 0x34b0bcb5, 0x391c0cb3, 0x4ed8aa4a, 0x5b9cca4f, 0x682e6ff3,
   0x748f82ee, 0x78a5636f, 0x84c87814, 0x8cc70208, 0x90befffa, 0xa4506ceb, 0xbef9a3f7, 0xc67178f2]

def shaInit : List Nat :=
  [0x6a09e667, 0xbb67ae85, 0x3c6ef372, 0xa54ff53a, 0x510e527f, 0x9b05688c, 0x1f83d9ab, 0x5be0cd19]

def add32 (a b : Nat) : Nat := (a + b) % 4294967296

def rotr (x n : Nat) : Nat := (x >>> n ||| x <<< (32 - n)) % 4294967296

/-- The message schedule of a block, the latest word first, from its 16 words. -/
def shaSchedule : Nat → List Nat → List Nat
  | 0, l => l
  | k + 1, l =>
    let x := l.getD 14 0
    let y := l.getD 1 0
    let s0 := rotr x 7 ^^^ rotr x 18 ^^^ (x >>> 3)
    let s1 := rotr y 17 ^^^ rotr y 19 ^^^ (y >>> 10)
    shaSchedule k (add32 (add32 s1 (l.getD 6 0)) (add32 s0 (l.getD 15 0)) :: l)

/-- One round on the eight working words. -/
def shaRound (s : List Nat) (kw : Nat × Nat) : List Nat :=
  match s with
  | [a, b, c, d, e, f, g, h] =>
    let s1 := rotr e 6 ^^^ rotr e 11 ^^^ rotr e 25
    let ch := (e &&& f) ^^^ ((4294967295 - e) &&& g)
    let t1 := add32 (add32 (add32 h s1) (add32 ch kw.1)) kw.2
    let s0 := rotr a 2 ^^^ rotr a 13 ^^^ rotr a 22
    let maj := (a &&& b) ^^^ (a &&& c) ^^^ (b &&& c)
    [add32 t1 (add32 s0 maj), a, b, c, add32 d t1, e, f, g]
  | l => l

/-- The big-endian 32-bit words of bytes. -/
def beWords : List Byte → List Nat
  | a :: b :: c :: d :: l => beNat [a, b, c, d] :: beWords l
  | _ => []

/-- A block is taken into the digest. -/
def shaBlock (s : List Nat) (block : List Byte) : List Nat :=
  let w := (shaSchedule 48 (beWords block).reverse).reverse
  List.zipWith add32 s ((shaConst.zip w).foldl shaRound s)

/-- The padding of a message of `n` bytes to whole blocks of 64. -/
def shaPad (n : Nat) : List Byte :=
  0x80#8 :: (List.replicate ((119 - n % 64) % 64) 0#8 ++ (leBytes (8 * n) 8).reverse)

/-- Blocks of 64 bytes taken into the digest, as many as the fuel. -/
def shaBlocks : Nat → List Nat → List Byte → List Nat
  | 0, s, _ => s
  | k + 1, s, l => shaBlocks k (shaBlock s (l.take 64)) (l.drop 64)

/-- The SHA-256 of a message, as a number of 256 bits. -/
def sha256 (m : List Byte) : Nat :=
  let l := m ++ shaPad m.length
  (shaBlocks (l.length / 64) shaInit l).foldl (fun n w => n * 4294967296 + w) 0

/-! ## ECDSA over P-256 -/

def p256P : Nat := 0xffffffff00000001000000000000000000000000ffffffffffffffffffffffff
def p256N : Nat := 0xffffffff00000000ffffffffffffffffbce6faada7179e84f3b9cac2fc632551
def p256B : Nat := 0x5ac635d8aa3a93e7b3ebbd55769886bc651d06b0cc53b0f63bce3c3e27d2604b
def p256G : Nat × Nat :=
  (0x6b17d1f2e12c4247f8bce6e563a440f277037d812deb33a0f4a13945d898c296,
   0x4fe342e2fe1a7f9b8ee7eb4a7c0f9e162bce33576b315ececbb6406837bf51f5)

def mulP (a b : Nat) : Nat := a * b % p256P
def addP (a b : Nat) : Nat := (a + b) % p256P
def subP (a b : Nat) : Nat := (a + p256P - b) % p256P

/-- A point in Jacobian coordinates; the third is 0 for the point at infinity. -/
abbrev JPoint := Nat × Nat × Nat

def doubleP (q : JPoint) : JPoint :=
  let (x, y, z) := q
  let d := mulP z z
  let g := mulP y y
  let b := mulP x g
  let a := mulP 3 (mulP (subP x d) (addP x d))
  let x3 := subP (mulP a a) (mulP 8 b)
  let yz := addP y z
  (x3, subP (mulP a (subP (mulP 4 b) x3)) (mulP 8 (mulP g g)), subP (subP (mulP yz yz) g) d)

def addPoints (q r : JPoint) : JPoint :=
  let (x1, y1, z1) := q
  let (x2, y2, z2) := r
  if z1 = 0 then r
  else if z2 = 0 then q
  else
    let a := mulP z1 z1
    let b := mulP z2 z2
    let u1 := mulP x1 b
    let s1 := mulP y1 (mulP b z2)
    let h := subP (mulP x2 a) u1
    let k := subP (mulP y2 (mulP a z1)) s1
    if h = 0 then (if k = 0 then doubleP q else (1, 1, 0))
    else
      let hh := mulP h h
      let hhh := mulP h hh
      let v := mulP u1 hh
      let x3 := subP (subP (mulP k k) hhh) (mulP 2 v)
      (x3, subP (mulP k (subP v x3)) (mulP s1 hhh), mulP h (mulP z1 z2))

/-- The bits of a 256-bit number, the highest first. -/
def bits256 (n : Nat) : List Bool := (List.range 256).map fun i => n.testBit (255 - i)

/-- A power modulo `m`. -/
def powMod (m b e : Nat) : Nat := (bits256 e).foldl (fun a x => let q := a * a % m; if x then q * b % m else q) 1

/-- u · G + v · Q. -/
def mulAdd (u v : Nat) (q : Nat × Nat) : JPoint :=
  let g : JPoint := (p256G.1, p256G.2, 1)
  let h : JPoint := (q.1, q.2, 1)
  let gh := addPoints g h
  ((bits256 u).zip (bits256 v)).foldl (fun (a : JPoint) (x : Bool × Bool) =>
    let d := doubleP a
    match x with
    | (false, false) => d
    | (true, false) => addPoints d g
    | (false, true) => addPoints d h
    | (true, true) => addPoints d gh) ((1, 1, 0) : JPoint)

/-- A public key is a point of the curve. -/
def onCurve (q : Nat × Nat) : Bool :=
  decide (q.1 < p256P) && decide (q.2 < p256P) &&
    mulP q.2 q.2 == addP (subP (mulP q.1 (mulP q.1 q.1)) (mulP 3 q.1)) p256B

/-- A signature (r, s) is one of a digest by the holder of a public key. -/
def ecdsaOk (key : Nat × Nat) (digest r s : Nat) : Bool :=
  let w := powMod p256N s (p256N - 2)
  let (x, _, z) := mulAdd (digest * w % p256N) (r * w % p256N) key
  let zz := mulP z z
  onCurve key && decide (1 ≤ r) && decide (r < p256N) && decide (1 ≤ s) && decide (s < p256N) && z != 0 &&
    (mulP r zz == x || (decide (r + p256N < p256P) && mulP (r + p256N) zz == x))

end Sys2Proof.Machine
end

