-- ==== Sys2Proof/Machine/Causes.lean ====
section
/-! DEFINITION. Whether the cause of a fault is present (R313): the status that raised it is set. -/

namespace Sys2Proof.Machine

/-- A register of a port block, or of its comparator block, that a parity fault holds (R263). -/
def State.portParity (s : State) (p : Fin 64) : Bool :=
  (s.tile (tileOfPort p)).parBad.any fun a => blockOf a == .port p || blockOf a == .portSense p

/-- A parity fault of a converter block of the tile. -/
def State.converterParity (s : State) (t : Fin 4) : Bool :=
  (s.tile t).parBad.any fun a => decide (tileBase0 t + 0x4000 ≤ a) && decide (a < tileBase0 t + 0x6000)
where
  tileBase0 (t : Fin 4) : Nat := 0x200000 + t.1 * 0x40000

/-- The window monitors of a tile with a state that raises CMP_WINDOW against the axis (R183). -/
def State.windowBad (s : State) (t : Fin 4) (a : Fin 32) : Bool :=
  (List.range 8).any fun j =>
    let c := CMP_WCTRL t j
    let st := s.fld (CMP_WSTAT t) (CMP_WSTAT_STATE j)
    (s.fld c CMP_WCTRL_AXMASK).testBit (a.1 % 8) && decide (tileOf a = t) &&
    ((s.bit c CMP_WCTRL_FAULT_EN && (st == 1 || st == 3 || st == 4)) ||
     (s.bit c CMP_WCTRL_FAILSAFE && (st == 5 || st == 6)))

/-- The axis's engine, or the supervisor of its tile, stands STOPPED by its watchdog (R204, R207). -/
def State.watchdogStopped (s : State) (a : Fin 32) : Bool :=
  [s.engOf a, supOf (tileOf a)].any fun e => s.fld (ENG_STAT e) ENG_STAT_STATE == 4 && s.fld (ENG_STAT e) ENG_STAT_CAUSE == wdogCause
where
  wdogCause : Nat := 6

/-- The cause of a fault of a class, raised for a scope unit, is present on an axis (R313). A class without a level
status counts as cleared once recorded. -/
def State.causeOf (s : State) (a : Fin 32) (cls idx : Nat) : Bool :=
  let x := s.axis a
  match cls with
  | 0 | 1 => s.bit LT_STAT LT_STAT_HOLD_LIMIT
  | 2 => s.bit LT_STAT LT_STAT_STEP_PENDING
  | 3 => (s.tile (finTile idx)).strobeFault
  | 4 => x.gear.lagOver
  | 5 => x.gear.lost && s.bit (GR_STAT a) GR_STAT_COAST
  | 6 => s.bit (SF_STAT a) SF_STAT_OVERSPEED
  | 7 => !s.bit (GLB_ENC_STAT (s.fld (OB_CFG a) OB_CFG_ENC)) GLB_ENC_STAT_SIG
  | 8 => (s.port (finPort idx)).loop.ovrRaised
  | 9 => (s.port (finPort idx)).loop.noRaised
  | 10 => s.portState (finPort idx) = pLATCHED
  | 11 => (s.fld (GD_STAT (idx / 32) (idx / 2 % 16)) GD_STAT_LATCH).testBit (2 * (idx % 2))
  | 12 => (s.fld (GD_STAT (idx / 32) (idx / 2 % 16)) GD_STAT_LATCH) / 4 ^ (idx % 2) % 4 != 0
  | 13 => s.fld (GD_STAT (idx / 16) (idx % 16)) GD_STAT_LATCH != 0
  | 14 => (s.fld (GD_STAT (idx / 32) (idx / 2 % 16)) GD_STAT_UV).testBit (2 * (idx % 2))
  | 15 => s.bit (GD_TSTAT idx) GD_TSTAT_VGD_UV
  | 16 => s.bit (GD_STAT (idx / 32) (idx / 2 % 16)) GD_STAT_AT_LIMIT
  | 17 => s.windowBad (finTile idx) a
  | 18 => s.bit (ADC_TSTAT idx) ADC_TSTAT_XCHK_UNRES
  | 20 => decide (3 ≤ (s.tile (finTile idx)).conv[0].bgFail) || decide (3 ≤ (s.tile (finTile idx)).conv[1].bgFail)
  | 21 => s.watchdogStopped a
  | 22 => s.bit (HIF_CAB_STAT idx) HIF_CAB_STAT_WDOG_EXP
  | 23 => s.portParity (finPort idx)
  | 24 => s.converterParity (finTile idx)
  | 25 => (s.fld (CFG_STAT (s.ownerAx a)) CFG_STAT_FAULT).testBit idx || (s.fld (CFG_STAT (s.ownerAx a)) CFG_STAT_FAULT).testBit 4
  | 26 => s.bit GLB_HEDGE_STAT (GLB_HEDGE_STAT_XING_FAULT (tileOf a).1)
  | 32 => s.bit (OB_STAT a) OB_STAT_STALLED
  | 34 => !s.bit (HIF_CAB_STAT idx) HIF_CAB_STAT_LINK
  | _ => false

/-- Some fault of the open episode has its cause present (R313). -/
def State.causePresent (s : State) (a : Fin 32) : Bool :=
  (s.axis a).ep.classes.any fun c => s.causeOf a c.cls c.idx

/-- The reaction in force on an axis (R308). -/
def State.rxOf (s : State) (a : Fin 32) : Nat := s.fld (MP_FLT_STAT a) MP_FLT_STAT_RX

end Sys2Proof.Machine
end

