-- ==== Sys2Proof/Machine/Ramp.lean ====
section
/-! DEFINITION. The planning mathematics of the motion slot in exact rationals: the closed form of a segment, ramps,
move plans, velocity ramps and stop ramps (R48, R49, R54, R58–R60, R66). -/

namespace Sys2Proof.Machine

/-! ## Segments (R48, R49) -/

/-- The exact state at an instant inside a segment. -/
def Seg.at (g : Seg) (t : Rat) : Kin :=
  let x := (t - g.start) / 1000000
  { p := g.p + g.v * x + g.a * x * x / 2 + g.j * x * x * x / 6
    v := g.v + g.a * x + g.j * x * x / 2
    a := g.a + g.j * x }

/-- The segment in force at an instant: the last that starts at or before it (R49). -/
def segAt (plan : List Seg) (t : Rat) : Seg :=
  plan.foldl (fun cur g => if g.start ≤ t then g else cur) (plan.headD Seg.rest0)

/-- The exact state of a plan at an instant. -/
def planAt (plan : List Seg) (t : Rat) : Kin := (segAt plan t).at t

/-- The instant at which a plan's last segment starts: the end of its last ramp. -/
def planEnd (plan : List Seg) : Rat := ((plan.getLast?).getD Seg.rest0).start

/-- The position at which a plan ends. -/
def planEndPos (plan : List Seg) : Rat := ((plan.getLast?).getD Seg.rest0).p

/-- A plan laid over another from an instant on: what was in force before stays as it was. -/
def splice (t : Rat) (old new : List Seg) : List Seg := old.filter (fun g => decide (g.start < t)) ++ new

/-- Segments that ended before an instant are dropped. -/
def dropPast (t : Rat) : List Seg → List Seg
  | [] => []
  | [g] => [g]
  | g :: h :: l => if h.start ≤ t then dropPast t (h :: l) else g :: h :: l

/-! ## Ramps (R58) -/

/-- The three durations of a ramp, in whole ns. -/
structure RampNs where
  t1 : Nat
  t2 : Nat
  t3 : Nat
  deriving DecidableEq, Repr

/-- A duration in ms rounded up to whole ns. -/
def ceilMs (x : Rat) : Nat := ceilNat (x * 1000000)

/-- The least whole number of ns at or above (√r − b) / j ms, for √r ≥ b and j > 0, decided by squaring (R58). The
root is bracketed by an integer root, so that one of three numbers is the answer. -/
def rootNs (r b j : Rat) : Nat :=
  let k := 1000000 / j
  let q := k * k * r
  let low : Rat := (isqrt (q.num.toNat * q.den) : Rat) / q.den
  let n0 := (low - k * b).floor.toNat
  let ok (n : Nat) : Bool :=
    let x := (n : Rat) / k + b
    decide (0 ≤ x) && decide (r ≤ x * x)
  if ok n0 then n0 else if ok (n0 + 1) then n0 + 1 else n0 + 2

/-- The rounded durations of a ramp from velocity `v0` and acceleration `a0` to velocity `c` and acceleration 0
(R58). -/
def ramp (v0 a0 c lim j : Rat) : RampNs :=
  if j = 0 then ⟨0, ceilMs (ratAbs (c - v0) / lim), 0⟩
  else
    let dl := c - v0 - a0 * ratAbs a0 / (2 * j)
    let s := if dl = 0 then ratSign a0 else ratSign dl
    if s = 0 then ⟨0, 0, 0⟩
    else
      let r := (2 * j * s * (c - v0) + a0 * a0) / 2
      if lim * lim ≤ r then
        let t1 := ratAbs (s * lim - a0) / j
        let t3 := lim / j
        let t2 := (s * (c - v0) - s * (a0 + s * lim) * t1 / 2 - lim * t3 / 2) / lim
        ⟨ceilMs t1, ceilMs t2, ceilMs t3⟩
      else ⟨rootNs r (s * a0) j, 0, rootNs r 0 j⟩

/-- The signed peak acceleration of the rounded durations; 0 where all are 0 (R58). -/
def rampPeak (v0 a0 c : Rat) (d : RampNs) : Rat :=
  let w : Rat := ((d.t1 : Rat) / 2 + d.t2 + (d.t3 : Rat) / 2) / 1000000
  if w = 0 then 0 else (c - v0 - a0 * d.t1 / 2000000) / w

/-- A piece of a ramp: its duration in ns, the acceleration at its start, its jerk. -/
abbrev Piece := Rat × Rat × Rat

/-- The pieces of a ramp; a duration of zero removes its piece (R58). -/
def rampPieces (v0 a0 c lim j : Rat) : List Piece :=
  let d := ramp v0 a0 c lim j
  let ap := rampPeak v0 a0 c d
  let l : List Piece :=
    [((d.t1 : Rat), a0, (ap - a0) * 1000000 / d.t1), ((d.t2 : Rat), ap, 0), ((d.t3 : Rat), ap, -ap * 1000000 / d.t3)]
  l.filter fun x => x.1 != 0

/-- Pieces chained from an instant, a position and a velocity: the segments and the end. -/
def chain (ph : SegPhase) : List Piece → Rat → Rat → Rat → List Seg × Rat × Rat × Rat
  | [], t, p, v => ([], t, p, v)
  | (n, a, j) :: xs, t, p, v =>
    let g : Seg := ⟨t, some n, p, v, a, j, ph⟩
    let e := g.at (t + n)
    let (l, r) := chain ph xs (t + n) e.p e.v
    (g :: l, r)

/-- The distance of a rounded ramp (R59). -/
def rampDist (v0 a0 c lim j : Rat) : Rat := (chain .ramp (rampPieces v0 a0 c lim j) 0 0 v0).2.2.1

/-! ## Moves (R59, R60) -/

/-- What a plan starts from, in the direction frame: velocity, acceleration, the distance, A_eff and the jerk
limit. -/
structure PlanIn where
  v0 : Rat
  a0 : Rat
  dist : Rat
  aEff : Rat
  j : Rat
  deriving DecidableEq, Repr

/-- The acceleration limit of the up ramp to cruise velocity `c` (R59). -/
def PlanIn.upLim (x : PlanIn) (c d : Rat) : Rat := if x.v0 ≤ c then x.aEff else d

/-- The distance of the two rounded ramps for a cruise code under deceleration `d` (R59). -/
def PlanIn.ramps (x : PlanIn) (d : Rat) (code : Nat) : Rat :=
  rampDist x.v0 x.a0 (q16 code) (x.upLim (q16 code) d) x.j + rampDist (q16 code) 0 0 d x.j

/-- A cruise code meets the distance test of R59. -/
def PlanIn.fits (x : PlanIn) (d : Rat) (code : Nat) : Bool := decide (x.ramps d code ≤ x.dist)

/-- The largest code of `lo … lo + n − 1` that passes a test, looked for from the top. -/
def descend (ok : Nat → Bool) (lo : Nat) : Nat → Option Nat
  | 0 => none
  | n + 1 => if ok (lo + n) then some (lo + n) else descend ok lo n

/-- The largest code in [lo, hi] that passes a test. -/
def largestIn (ok : Nat → Bool) (lo hi : Nat) : Option Nat := descend ok lo (hi + 1 - lo)

/-- Halving between a code that is not over and a code that is. -/
def halve (far : Nat → Bool) : Nat → Nat → Nat → Nat
  | 0, _, hi => hi
  | n + 1, lo, hi =>
    if hi ≤ lo + 1 then hi
    else if far ((lo + hi) / 2) then halve far n lo ((lo + hi) / 2) else halve far n ((lo + hi) / 2) hi

/-- A code is too far by more than rounding can undo: every rounded duration exceeds the exact one by less than
1 ns, so that no larger code of the same span meets R59. -/
def PlanIn.tooFar (x : PlanIn) (d : Rat) (code : Nat) : Bool :=
  let slack := (if x.j = 0 then 2 else 7) * (q16 code + ratAbs x.v0) / 1000000
  decide (x.dist + slack < x.ramps d code)

/-- The largest fitting code of a span in which the exact distance rises with the code: codes that are certainly
over are left out, the rest are tried from the top. -/
def PlanIn.spanLargest (x : PlanIn) (d : Rat) (lo hi : Nat) : Option Nat :=
  if hi < lo then none
  else if x.fits d hi then some hi
  else if x.tooFar d hi then
    if x.tooFar d lo then none else largestIn (x.fits d) lo (halve (x.tooFar d) 64 lo hi - 1)
  else largestIn (x.fits d) lo hi

/-- The cruise velocity of R59: the largest code from 1 to `hi` whose ramps fit, `none` if none does. Above v0, and
below it as far as the ramp first takes the acceleration to 0, the exact distance rises with the code; the codes
below are tried one by one. -/
def PlanIn.cruise (x : PlanIn) (d : Rat) (hi : Nat) : Option Nat :=
  let knee := if x.j = 0 then x.v0 else x.v0 + x.a0 * ratAbs x.a0 / (2 * x.j)
  let k1 := max 1 (ceilNat (ratMax x.v0 knee * 65536))
  let k2 := max 1 (ceilNat (knee * 65536))
  match x.spanLargest d k1 hi with
  | some c => some c
  | none =>
    match x.spanLargest d k2 (min (k1 - 1) hi) with
    | some c => some c
    | none => largestIn (x.fits d) 1 (min (k2 - 1) hi)

/-- The smallest deceleration code from `d` on, `n` codes looked at, for which some cruise code fits, with that cruise
code (R60). -/
def PlanIn.ascend (x : PlanIn) (hi : Nat) : Nat → Nat → Option (Nat × Nat)
  | _, 0 => none
  | d, n + 1 =>
    match x.cruise (q16 d) hi with
    | some c => some (d, c)
    | none => x.ascend hi (d + 1) n

/-- The deceleration at which the search of R60 may begin: towards the target, a smaller one cannot stop within the
distance. -/
def PlanIn.leastDecel (x : PlanIn) (d : Nat) : Nat :=
  let need := x.v0 * x.v0 / (2 * x.dist)
  if x.dist ≤ 0 ∨ x.v0 ≤ 0 ∨ need < ratAbs x.a0 ∧ x.j ≠ 0 then d else max d (ceilNat (need * 65536))

/-- The deceleration and the cruise code of a plan: D_eff where it fits, otherwise the smallest d of R60, at most
EMERG_DECEL. -/
def PlanIn.choose (x : PlanIn) (dEff dMax hi : Nat) : Option (Nat × Nat) :=
  let d0 := x.leastDecel dEff
  x.ascend hi d0 (max dMax dEff + 1 - d0)

/-- A plan made: its segments, its end E, the deceleration code used, and whether R60 raised it. -/
structure PlanOut where
  segs : List Seg
  endAt : Rat
  dUsed : Nat
  raised : Bool
  deriving DecidableEq, Repr

/-- The sign of the direction frame restored (Planning a move). -/
def Seg.sign (g : Seg) (sg p0 : Rat) : Seg := ⟨g.start, g.dur, p0 + sg * g.p, sg * g.v, sg * g.a, sg * g.j, g.phase⟩

/-- The seven segments of a move for a cruise code and a deceleration, and its end (R59). -/
def moveSegs (x : PlanIn) (t0 : Rat) (d code : Nat) : List Seg × Rat :=
  let c := q16 code
  let (up, t1, p1, _) := chain .up (rampPieces x.v0 x.a0 c (x.upLim c (q16 d)) x.j) t0 0 x.v0
  let t4 := (x.dist - x.ramps (q16 d) code) / c * 1000000
  let (cr, t2, p2, _) := chain .cruise ([(t4, 0, 0)].filter fun y => y.1 != 0) t1 p1 c
  let (dn, t3, _, _) := chain .down (rampPieces c 0 0 (q16 d) x.j) t2 p2 c
  (up ++ cr ++ dn, t3)

/-- A move plan from the exact state at `t0` to a target (R59, R60): `hi` is the largest cruise code allowed; `none`
where nothing fits. -/
def planMove (t0 : Rat) (k : Kin) (target : Int) (hi : Nat) (aEff : Rat) (dEff dMax : Nat) (j : Rat) :
    Option PlanOut :=
  let delta := (target : Rat) - k.p
  let sg := if delta < 0 then -1 else 1
  let x : PlanIn := ⟨sg * k.v, sg * k.a, ratAbs delta, aEff, j⟩
  match x.choose dEff dMax hi with
  | none => none
  | some (d, c) =>
    let (l, e) := moveSegs x t0 d c
    let rest : Seg := ⟨e, none, target, 0, 0, 0, .rest⟩
    some ⟨l.map (fun g => g.sign sg k.p) ++ [rest], e, d, d != dEff⟩

/-! ## Velocity ramps and stops (R54, R66) -/

/-- A velocity ramp to `c`: one ramp, or two joined at rest where the signs differ (R54). The last segment is the
constant velocity, or rest for a target of 0. -/
def planVelocity (t0 : Rat) (k : Kin) (c aEff dEff j : Rat) : List Seg :=
  let (l, t, p, v) :=
    if c * k.v < 0 then
      let (l1, t1, p1, _) := chain .ramp (rampPieces k.v k.a 0 dEff j) t0 k.p k.v
      let (l2, t2, p2, v2) := chain .ramp (rampPieces 0 0 c aEff j) t1 p1 0
      (l1 ++ l2, t2, p2, v2)
    else
      chain .ramp (rampPieces k.v k.a c (if ratAbs k.v < ratAbs c then aEff else dEff) j) t0 k.p k.v
  l ++ [⟨t, none, p, v, 0, 0, if c = 0 then .rest else .cruise⟩]

/-- A stop ramp; at its end the position accumulator is rounded (R66). -/
def planStop (t0 : Rat) (k : Kin) (lim j : Rat) : List Seg :=
  let (l, t, p, _) := chain .stop (rampPieces k.v k.a 0 lim j) t0 k.p k.v
  l ++ [⟨t, none, roundHalfAway p, 0, 0, 0, .rest⟩]

/-- The displacement of a stop ramp (R66). -/
def stopDist (k : Kin) (lim j : Rat) : Rat := rampDist k.v k.a 0 lim j

end Sys2Proof.Machine
end

