-- ==== Sys2Proof/Machine/Motion.lean ====
section
/-! DEFINITION. Motion profiles (spec/03): the exact state of an axis, the limits in force, moves and their queue,
velocity ramps, stops, changes in motion, soft limits, and entry to HOLD and DISABLED. -/

namespace Sys2Proof.Machine

/-! ## Parts of an axis -/

def State.prof (s : State) (a : Fin 32) : Profile := (s.axis a).prof
def State.modProf (s : State) (a : Fin 32) (f : Profile → Profile) : State :=
  s.modAxis a fun x => { x with prof := f x.prof }
def State.gear (s : State) (a : Fin 32) : Gear := (s.axis a).gear
def State.modGear (s : State) (a : Fin 32) (f : Gear → Gear) : State :=
  s.modAxis a fun x => { x with gear := f x.gear }
def State.sf (s : State) (a : Fin 32) : StepFollow := (s.axis a).sf
def State.modSf (s : State) (a : Fin 32) (f : StepFollow → StepFollow) : State :=
  s.modAxis a fun x => { x with sf := f x.sf }
def State.modIo (s : State) (a : Fin 32) (f : AxisIo → AxisIo) : State :=
  s.modAxis a fun x => { x with io := f x.io }
def State.obs (s : State) (a : Fin 32) : Observer := (s.axis a).obs
def State.modObs (s : State) (a : Fin 32) (f : Observer → Observer) : State :=
  s.modAxis a fun x => { x with obs := f x.obs }

/-- MP_STAT.STATE set (R51). -/
def State.setAxState (s : State) (a : Fin 32) (x : Nat) : State := s.setFld (MP_STAT a) MP_STAT_STATE x

/-- The last boundary of the axis's tile. -/
def State.axB (s : State) (a : Fin 32) : Nat := s.boundary (tileOf a)

/-- The period of the axis's tile. -/
def State.axT (s : State) (a : Fin 32) : Nat := s.period (tileOf a)

/-- A homing runs on the axis (R93). -/
def State.homing (s : State) (a : Fin 32) : Bool := (s.axis a).home.isSome

/-- The enable of the soft limits, suspended while a homing runs (R68, R93). -/
def State.softOn (s : State) (a : Fin 32) : Bool := s.bit (MP_CTRL a) MP_CTRL_SOFT_EN && !s.homing a

def State.softNeg (s : State) (a : Fin 32) : Int := s.pairI (MP_SLIM_NEG_LO a)
def State.softPos (s : State) (a : Fin 32) : Int := s.pairI (MP_SLIM_POS_LO a)

/-- A target is inside the soft limits, or they are off (R68). -/
def State.softOk (s : State) (a : Fin 32) (target : Int) : Bool :=
  !s.softOn a || (decide (s.softNeg a ≤ target) && decide (target ≤ s.softPos a))

/-- Of an axis at rest against a soft limit, AT_SOFT falls once it no longer stands there (R69). -/
def followSoft (a : Fin 32) (p : Rat) (s : State) : State :=
  let limit := match (s.prof a).softDir with
    | some true => some (s.softPos a)
    | some false => some (s.softNeg a)
    | none => none
  if s.bit (MP_STAT a) MP_STAT_AT_SOFT ∧ limit.map (fun (x : Int) => (x : Rat)) ≠ some p then
    s.setBit (MP_STAT a) MP_STAT_AT_SOFT false
  else s

/-! ## Step following at an instant (R88) -/

/-- SF_WIN in ns. -/
def State.sfWin (s : State) (a : Fin 32) : Nat := 1000 * s.fld (SF_WIN a) SF_WIN_W

/-- The interpolation of R88 for a sample instant, with the pulses accepted by an instant: position, velocity in ticks
per ms, and whether the position holds. -/
def State.sfAt (s : State) (a : Fin 32) (t byT : Nat) : Rat × Rat × Bool :=
  let x := s.sf a
  let lag := s.axT a + s.sfWin a
  let tau : Int := (t : Int) - lag
  let ps := x.pulses.reverse.filter fun p => decide (p.accepted ≤ byT)
  let (ta, qa) := ps.foldl (fun (c : Int × Int) p => if (p.edge : Int) ≤ tau then ((p.edge : Int), p.q) else c)
    (x.landEdge, 0)
  match ps.find? (fun p => decide (tau < p.edge) && decide (ta < p.edge)) with
  | some b =>
    let sl : Rat := ((b.q - qa : Int) : Rat) / ((b.edge : Int) - ta : Int)
    (x.pBase + qa + sl * (tau - ta : Int), sl * 1000000, false)
  | none => (x.pBase + qa, 0, true)

/-! ## The exact state of an axis (R48, R79, R88) -/

/-- An estimate moved by a number of 1/65,536 ticks; q_est keeps 64 integer and 16 fraction bits (R117). -/
def Estimate.shift (e : Estimate) (d : Int) : Estimate := { e with q := wrapInt 80 (e.q + d) }

/-- A position wrapped to signed 64-bit ticks (R68). -/
def wrapPos (p : Rat) : Rat := p - (18446744073709551616 * ((p + 9223372036854775808) / 18446744073709551616).floor : Int)

/-- The exact state of an axis as the latest sample, of an instant, gave it: its plan, its gearing or its step following (R48, R79,
R88). -/
def State.kinSampleAt (s : State) (a : Fin 32) (t : Nat) : Kin :=
  let k : Kin :=
    if s.axState a = axGEARED then
      let g := s.gear a
      ⟨g.pPrev, g.uPrev, g.acc⟩
    else if s.axState a = axSTEPFOLLOW then (s.sf a).smp
    else planAt (s.prof a).plan t
  { k with p := wrapPos k.p }

/-- The exact state of an axis at the last boundary of its tile. -/
def State.kinSample (s : State) (a : Fin 32) : Kin := s.kinSampleAt a (s.axB a)

/-- The exact state at the last boundary from which every change that lands there is planned: the state before the first of
them (R63, R64). -/
def State.kinB (s : State) (a : Fin 32) : Kin :=
  match (s.prof a).base with
  | some x => x.kin
  | none => s.kinSample a

/-- A down ramp of a move was in force at the last boundary before the first change that landed there (R63). -/
def State.downB (s : State) (a : Fin 32) : Bool :=
  match (s.prof a).base with
  | some x => x.down
  | none => s.axState a == axPOSITION && (segAt (s.prof a).plan (s.axB a)).phase == .down

/-- What the changes of the last boundary are planned from: what was kept at the first of them, or what is in force (R64). -/
def State.baseOf (s : State) (a : Fin 32) : PlanBase :=
  match (s.prof a).base with
  | some x => x
  | none => ⟨s.kinB a, s.downB a, s.bit (MP_STAT a) MP_STAT_DECEL_RAISED, s.fld (MP_CNT a) MP_CNT_RAISED⟩

/-- A change lands at the last boundary: the state before it is kept for the others of that boundary (R64). -/
def keepBase (a : Fin 32) (s : State) : State := s.modProf a fun x => { x with base := some (s.baseOf a) }

/-- The rounded commanded position at the last boundary. -/
def State.posB (s : State) (a : Fin 32) : Int := roundHalfAway (s.kinB a).p

/-- The axis rests at a position from an instant on. -/
def restAt (t : Rat) (p : Rat) : List Seg := [⟨t, none, p, 0, 0, 0, .rest⟩]

/-- A plan is in force from an instant on. -/
def layPlan (a : Fin 32) (t : Rat) (l : List Seg) (s : State) : State :=
  s.modProf a fun x => { x with plan := splice t x.plan l }

/-- The registers of the commanded state for a sample (R48). -/
def showKin (a : Fin 32) (k : Kin) (s : State) : State :=
  let s := s.setPair (MP_CMD_POS_LO a) (roundHalfAway k.p)
  let s := s.setPair (MP_CMD_VEL_LO a) (roundHalfAway (k.v * 65536))
  let s := s.setPair (MP_CMD_ACC_LO a) (roundHalfAway (k.a * 65536))
  s.setBit (MP_STAT a) MP_STAT_MOVING (k.v != 0 || k.a != 0)

/-! ## Events of moves, gearing and step following (R61, R360, R89) -/

/-- MOVE_DONE (R61). -/
def moveDone (a : Fin 32) (tag st : Nat) (target : Int) (s : State) : State :=
  raiseAxis a 0x0101 (plainSev 0x0101) tag s.now [st, target] s

/-- A move arrives or ends: event 4 of the engines, whoever started it, and MOVE_DONE but for a move of a homing method
(R61, R209). -/
def moveEnds (a : Fin 32) (internal : Bool) (tag st : Nat) (target : Int) (s : State) : State :=
  let s := axisEvent a 4 st s
  if internal then s else moveDone a tag st target s

/-- The move in progress ends with a status; one of a homing method raises nothing. -/
def endMove (a : Fin 32) (st : Nat) (s : State) : State :=
  match (s.prof a).move with
  | none => s
  | some m =>
    let s := s.modProf a fun x => { x with move := none }
    let s := (s.setFld (MP_STAT a) MP_STAT_HEAD_TAG 0).setBit (MP_STAT a) MP_STAT_DECEL_RAISED false
    moveEnds a m.internal m.tag st m.target s

/-- MP_STAT.QDEPTH and DWELL follow the queue. -/
def followQueue (a : Fin 32) (s : State) : State :=
  (s.setFld (MP_STAT a) MP_STAT_QDEPTH (s.prof a).queue.length).setBit (MP_STAT a) MP_STAT_DWELL
    (s.prof a).dwellEnd.isSome

/-- Every queued move ends with a status (R51, R55). -/
def flushQueue (a : Fin 32) (st : Nat) (s : State) : State :=
  let q := (s.prof a).queue
  let s := s.modProf a fun x => { x with queue := [], dwellEnd := none }
  followQueue a (q.foldl (fun (s : State) r => moveEnds a r.internal r.tag st r.target s) s)

/-- GEAR_ENGAGED (R360). -/
def gearEngaged (a : Fin 32) (tag st t : Nat) (mref ofs : Int) (s : State) : State :=
  raiseAxis a 0x0201 0 tag s.now [st, t, mref, ofs] s

/-- The line time of a flush: the boundary at which what ends the gearing lands, or the sample instant for what step 3 of a period
found (R81, R360). -/
def State.flushAt (s : State) (a : Fin 32) : Nat := (s.tile (tileOf a)).closing.getD (s.axB a)

/-- A pending engagement ends FLUSHED, always reported, and the entries armed behind it with it (R74). -/
def flushArmed (a : Fin 32) (s : State) : State :=
  let q := (s.gear a).queue
  let s := s.modGear a fun x => { x with queue := [] }
  let s := q.foldl (fun (s : State) e => 
    axisEvent a 11 e.a (raiseAxis a 0x0203 0 e.tag s.now [stFLUSHED, e.a, s.flushAt a] s)) s
  s.setFld (GR_STAT a) GR_STAT_QDEPTH 0

/-- A pending engagement is cancelled (R74). -/
def cancelEngage (a : Fin 32) (s : State) : State :=
  match (s.gear a).engPend with
  | none => s
  | some r =>
    let s := s.modGear a fun x => { x with engPend := none }
    let s := s.setBit (GR_STAT a) GR_STAT_ENG_PEND false
    flushArmed a (gearEngaged a r.tag stFLUSHED (s.flushAt a) 0 0 s)

/-- A pending release ends FLUSHED (R81). -/
def cancelRelease (a : Fin 32) (s : State) : State :=
  match (s.gear a).relPend with
  | none => s
  | some r =>
    let s := s.modGear a fun x => { x with relPend := none }
    let s := s.setBit (GR_STAT a) GR_STAT_REL_PEND false
    raiseAxis a 0x0202 0 r.tag s.now [stFLUSHED, s.flushAt a, 0] s

/-- Gearing ends at a landing: armed entries and a pending release are flushed (R81). -/
def leaveGear (a : Fin 32) (s : State) : State :=
  let s := cancelRelease a (flushArmed a s)
  let st := GR_STAT a
  let s := ((s.setBit st GR_STAT_ENGAGED false).setBit st GR_STAT_COAST false).setBit st GR_STAT_BLENDING false
  s.modGear a fun x => { x with blend := none, coastFrom := none, lost := false, lagOver := false }

/-- Step following ends without a drain; pulses not yet interpolated are lost (R89). -/
def leaveFollow (a : Fin 32) (s : State) : State :=
  let s := (s.setBit (SF_STAT a) SF_STAT_DRAIN false).setBit (SF_STAT a) SF_STAT_OVERSPEED false
  s.modSf a fun x => { x with drain := none, pulses := [] }

/-- Whatever follows a master or a pulse stream ends at this boundary: gearing, a pending engagement, step following
(R51, R74, R81, R89). -/
def leaveFollowing (a : Fin 32) (s : State) : State :=
  let s := if s.axState a = axGEARED then leaveGear a s else s
  let s := cancelEngage a s
  if s.axState a = axSTEPFOLLOW then leaveFollow a s else s

/-! ## Limits in force (Planning a move) -/

/-- The bank in force: MODE[1:0] of the tile (R57). -/
def State.bankNo (s : State) (a : Fin 32) : Nat := s.fld (LT_TILE_MODE (tileOf a)) LT_TILE_MODE_MODE % 4
def State.bankOf (s : State) (a : Fin 32) : Bank := (s.axis a).bank.getD (s.bankNo a) Bank.init

/-- The values of a bank copied as a move, a ramp or a stop copies them (R57). -/
def Bank.limits (b : Bank) : Limits := ⟨b.v, b.a, b.d, b.j, false, false, false⟩

def State.vCap (s : State) (a : Fin 32) : Nat := s.pair (MP_VLIM_LO a)
/-- The cap on A and D: the lower of MP_ALIM and EMERG_DECEL (R68). -/
def State.aCap (s : State) (a : Fin 32) : Nat := min (s.pair (MP_ALIM_LO a)) (s.pair (MP_EMERG_LO a))
def State.emerg (s : State) (a : Fin 32) : Nat := s.pair (MP_EMERG_LO a)

def State.vEff (s : State) (a : Fin 32) (l : Limits) : Nat := min l.v (s.vCap a)
/-- A_eff: the lower of A, MP_ALIM and EMERG_DECEL, reduced under DERATE (R66). -/
def State.aEff (s : State) (a : Fin 32) (l : Limits) : Rat :=
  let x := q16 (min l.a (s.aCap a))
  if s.bit (MP_STAT a) MP_STAT_DERATED then x * s.fld (MP_DERATE a) MP_DERATE_FACTOR / 256 else x
/-- D_eff, never derated. -/
def State.dEff (s : State) (a : Fin 32) (l : Limits) : Nat := min l.d (s.aCap a)

/-! ## Moves (R52, R53, R59–R62) -/

/-- MP_TARGET. -/
def showTarget (a : Fin 32) (t : Int) (s : State) : State := s.setPair (MP_TARGET_LO a) t

/-- The info record of R60 with both values. R60 gives the parameters no layout; the two 48-bit codes fill the three words of a
fixed record, the requested one first (DESIGN CHOICE, log). -/
def recordRaised (a : Fin 32) (asked used : Nat) (s : State) : State :=
  record .decelRaised 0 0 a [asked % 2 ^ 32, asked / 2 ^ 32 % 2 ^ 16 + 2 ^ 16 * (used % 2 ^ 16), used / 2 ^ 16 % 2 ^ 32] s

/-- R60 raised the deceleration: the status bit, the counter and the info record. -/
def noteRaised (a : Fin 32) (asked used : Nat) (s : State) : State :=
  recordRaised a asked used ((s.setBit (MP_STAT a) MP_STAT_DECEL_RAISED true).count (MP_CNT a) MP_CNT_RAISED)

/-- DECEL_RAISED and RAISED show the plan of a boundary: as they were before its first change, and one replan more where the
plan as it now stands raises the deceleration (R60, R64). -/
def showRaised (a : Fin 32) (raised : Bool) (s : State) : State :=
  let x := s.baseOf a
  let s := (s.setBit (MP_STAT a) MP_STAT_DECEL_RAISED (x.raised || raised)).setFld (MP_CNT a) MP_CNT_RAISED x.count
  if raised then s.count (MP_CNT a) MP_CNT_RAISED else s

/-- A move starts from an exact state at an instant: it copies its limits and is planned (R57, R59, R60). -/
def startMove (a : Fin 32) (t : Rat) (k : Kin) (r : MoveReq) (s : State) : State :=
  let b := (s.bankOf a).limits
  let l : Limits :=
    ⟨r.v.getD b.v, r.a.getD b.a, r.d.getD b.d, r.j.getD b.j, r.v.isSome, r.a.isSome, r.d.isSome⟩
  let d := s.dEff a l
  match planMove t k r.target (s.vEff a l) (s.aEff a l) d (s.emerg a) (q16 l.j) with
  | none => s
  | some o =>
    let s := if o.raised then noteRaised a d o.dUsed s else s.setBit (MP_STAT a) MP_STAT_DECEL_RAISED false
    let s := layPlan a t o.segs (s.modProf a fun x =>
      { x with
        stopKind := .none, dwellEnd := none, softDir := none
        move := some
          { tag := r.tag, target := r.target, lim := l, event := r.event, internal := r.internal, endAt := o.endAt,
            dUsed := o.dUsed, raised := o.raised } })
    let s := (s.setFld (MP_STAT a) MP_STAT_HEAD_TAG r.tag).setBit (MP_STAT a) MP_STAT_AT_SOFT false
    showTarget a r.target (s.setAxState a axPOSITION)

/-- The arrival of a move (R61): ARRIVED is raised with EVENT or EV_ARRIVE. -/
def arrive (a : Fin 32) (m : MoveRun) (s : State) : State :=
  let s := s.modProf a fun x => { x with move := none }
  let s := (s.setFld (MP_STAT a) MP_STAT_HEAD_TAG 0).setBit (MP_STAT a) MP_STAT_DECEL_RAISED false
  let quiet := m.internal || !(m.event || s.bit (MP_CTRL a) MP_CTRL_EV_ARRIVE)
  moveEnds a quiet m.tag stARRIVED m.target s

/-- The dwell before the next queued move begins, or the axis is at rest (R51, R62). -/
def nextOrRest (a : Fin 32) (t : Rat) (s : State) : State :=
  match (s.prof a).queue with
  | [] => (s.modProf a fun x => { x with stopKind := .none }).setAxState a axSTANDSTILL
  | r :: _ =>
    let s := s.modProf a fun x => { x with dwellEnd := some (t + r.dwell), stopKind := .none }
    s.setAxState a axPOSITION

/-- The dwell has ended at `t`: the next queued move starts, or, found invalid, ends with REFUSED_RANGE, and the next
entry starts in its place (R62). The fuel is the length of the queue. -/
def startQueued (a : Fin 32) (t : Rat) : Nat → State → State
  | 0, s => nextOrRest a t (s.modProf a fun x => { x with dwellEnd := none })
  | n + 1, s =>
    match (s.prof a).queue with
    | [] => nextOrRest a t (s.modProf a fun x => { x with dwellEnd := none })
    | r :: rest =>
      let s := s.modProf a fun x => { x with queue := rest, dwellEnd := none }
      if s.softOk a r.target then
        let k := planAt (s.prof a).plan t
        if (r.target : Rat) = k.p then
          nextOrRest a t (arrive a ⟨r.tag, r.target, Limits.zero, r.event, r.internal, t, 0, false⟩ (showTarget a r.target s))
        else startMove a t k r s
      else startQueued a t n (moveEnds a r.internal r.tag stREFUSED_RANGE r.target s)

/-- Relative targets behind a stop, resolved in turn from the position at which it ends (R52). -/
def resolveQueue (base : Int) : List MoveReq → List MoveReq
  | [] => []
  | r :: rs =>
    let t := if r.rel then base + r.target else r.target
    { r with target := t, rel := false } :: resolveQueue t rs

/-! ## Soft limits (R69) -/

/-- The SOFT_LIMIT event and its warning record. R69 gives the event no severity and the record no parameter: the event is a
warning as the record is, and the parameter is 0 for the positive and 1 for the negative limit (DESIGN CHOICE, log). -/
def noteSoft (a : Fin 32) (pos : Bool) (s : State) : State :=
  let s := record .softLimit 1 0 a [if pos then 0 else 1] s
  raiseAxis a 0x0102 1 0 s.now [] s

/-- A stop that ends exactly at a limit, planned from an exact state at an instant by R59, with R60 where needed. Where no
deceleration up to EMERG_DECEL ends there the plain stop at D is taken, and the axis does not come to rest at the
limit (DESIGN CHOICE, log). -/
def softStop (a : Fin 32) (t : Rat) (k : Kin) (pos : Bool) (limit : Int) (s : State) : State :=
  let l := (s.bankOf a).limits
  let d := s.dEff a l
  let out := planMove t k limit (s.vEff a l) (s.aEff a l) d (s.emerg a) (q16 l.j)
  let plan := match out with
    | some o => o.segs
    | none => planStop t k (q16 d) (q16 l.j)
  let s := match out with
    | some o => if o.raised then noteRaised a d o.dUsed s else s
    | none => s
  let s := leaveFollowing a s
  let s := layPlan a t plan (s.modProf a fun x =>
    { x with lim := l, stopKind := .soft, softDir := if out.isSome then some pos else none })
  noteSoft a pos (s.setAxState a axSTOPPING)

/-- The soft-limit watch of an axis in VELOCITY, GEARED or STEP_FOLLOW at a sample instant: whatever its direction, a stop at
D that would end beyond a limit is replaced by one that ends at it (R69). The position watched is the commanded one, wrapped to
64 bits (R68). R69 does not say whose D and J those are: they are those of the bank in force, as for a STOP (DESIGN CHOICE,
log). -/
def softWatch (a : Fin 32) (t : Rat) (k : Kin) (s : State) : State :=
  let st := s.axState a
  let k := { k with p := wrapPos k.p }
  if s.softOn a ∧ (st = axVELOCITY ∨ st = axGEARED ∨ st = axSTEPFOLLOW) then
    let l := (s.bankOf a).limits
    let e := k.p + stopDist k (q16 (s.dEff a l)) (q16 l.j)
    if (s.softPos a : Rat) < e then softStop a t k true (s.softPos a) s
    else if e < (s.softNeg a : Rat) then softStop a t k false (s.softNeg a) s
    else s
  else s

/-! ## The profile over time (R61, R62, R66) -/

/-- A stop has ended at rest (R66): the position is whole; a queued move follows, otherwise STANDSTILL. AT_SOFT rises where
the stop was planned to end at a soft limit (R69). -/
def stopEnded (a : Fin 32) (s : State) : State :=
  let plan := (s.prof a).plan
  let t := planEnd plan
  let p := roundHalfAway (planEndPos plan)
  let soft := decide ((s.prof a).stopKind = .soft) && (s.prof a).softDir.isSome
  let s := s.modProf a fun x => { x with queue := resolveQueue p x.queue }
  let s := (s.setBit (MP_STAT a) MP_STAT_AT_SOFT soft).setBit (MP_STAT a) MP_STAT_DECEL_RAISED false
  let s := if (s.prof a).queue = [] then axisEvent a 6 p s else s
  nextOrRest a t s

/-- What has ended by a sample instant is carried out, at most `n` times: arrivals, dwells, stops and velocity ramps
to 0 (R51). -/
def progress (a : Fin 32) (t : Nat) : Nat → State → State
  | 0, s => s
  | n + 1, s =>
    let p := s.prof a
    let st := s.axState a
    if st = axPOSITION then
      match p.dwellEnd with
      | some e => if e ≤ t then progress a t n (startQueued a e 9 s) else s
      | none =>
        match p.move with
        | some m => if m.endAt ≤ t then progress a t n (nextOrRest a m.endAt (arrive a m s)) else s
        | none => s
    else if st = axSTOPPING then
      if planEnd p.plan ≤ t then progress a t n (stopEnded a s) else s
    else if st = axVELOCITY ∧ p.velTarget = 0 ∧ planEnd p.plan ≤ t then s.setAxState a axSTANDSTILL
    else s

/-- The plan that the changes of the last boundary left raises the deceleration of the move in progress, which its record says
(R60, R64). -/
def recordReplan (a : Fin 32) (s : State) : State :=
  match (s.prof a).base, (s.prof a).move with
  | some _, some m => if m.raised then recordRaised a (s.dEff a m.lim) m.dUsed s else s
  | _, _ => s

/-- The changes of the last boundary have been planned: a deceleration that R60 raised is recorded and is the D of the rest of the
move, and what lay more than 1 ms back is dropped. -/
def settlePlan (a : Fin 32) (t : Nat) (s : State) : State :=
  (recordReplan a s).modProf a fun x =>
    { x with
      base := none, plan := dropPast ((t : Int) - 1000000 : Int) x.plan
      move := x.move.map fun m => if m.raised then { m with lim := { m.lim with d := m.dUsed }, raised := false } else m }

/-- The profile evaluated for a sample instant: what ended is carried out, the registers show the state, and the soft
limits are watched (R49, R61, R69). -/
def sampleProfile (a : Fin 32) (t : Nat) (s : State) : State :=
  let s := progress a t 24 s
  let k := planAt (s.prof a).plan t
  let s := softWatch a t k s
  followSoft a k.p (followQueue a (showKin a { planAt (s.prof a).plan t with p := wrapPos k.p } s))

/-- The next sample instant of the axis's tile. -/
def State.nextSample (s : State) (a : Fin 32) : Nat := s.axB a + s.axT a

/-! ## Stops (R55, R66) -/

/-- A stop ramp from the exact state at the last boundary: what moved the axis ends, and the state is STOPPING
(R55). -/
def beginStop (a : Fin 32) (kind : StopKind) (s : State) : State :=
  let k := s.kinB a
  let t : Rat := s.axB a
  let l := (s.bankOf a).limits
  let hard := kind = .estop ∨ kind = .limit
  let plan := if hard then planStop t k (q16 (s.emerg a)) 0 else planStop t k (q16 (s.dEff a l)) (q16 l.j)
  let s := showRaised a false (keepBase a s)
  let s := flushQueue a stFLUSHED (endMove a stSTOPPED s)
  let s := leaveFollowing a s
  let s := layPlan a t plan (s.modProf a fun x =>
    { x with lim := l, stopKind := kind, velTarget := 0, dwellEnd := none, softDir := none, stopDue := false })
  (s.setBit (MP_STAT a) MP_STAT_DECEL_RAISED false).setAxState a axSTOPPING

/-- The axis is moving: a stop acts on it (R51). -/
def State.moving (s : State) (a : Fin 32) : Bool :=
  let st := s.axState a
  st == axPOSITION || st == axVELOCITY || st == axGEARED || st == axSTEPFOLLOW

/-! ## Homing results (R94, R96) -/

/-- The homing ends; the resident program resumes at the boundary after HOME_DONE: the next one, not the one that is being
carried out (R216). -/
def endHoming (a : Fin 32) (s : State) : State :=
  let s := s.modAxis a fun x => { x with home := none }
  let s := (s.setBit (SF_HOME_STAT a) SF_HOME_STAT_HOMING false).setFld (SF_HOME_STAT a) SF_HOME_STAT_PHASE 0
  let e := s.engOf a
  let x := s.eng e
  let s := if s.fld (ENG_STAT e) ENG_STAT_STATE = 3 then s.setFld (ENG_STAT e) ENG_STAT_STATE x.resume else s
  s.modEng e fun x => { x with homePend := (s.tile (tileOf a)).stepping }

/-- HOME_DONE (R94, R96): status, then the reference or the reason. -/
def homeDone (a : Fin 32) (tag st : Nat) (v : Int) (s : State) : State :=
  raiseAxis a 0x0304 (plainSev 0x0304) tag s.now [st, v] s

/-- A homing fails with a reason: HOMED stays clear, HOME_DONE is raised and a warning record is written (R96). -/
def failHoming (a : Fin 32) (reason : Nat) (s : State) : State :=
  match (s.axis a).home with
  | none => s
  | some h =>
    let s := s.setFld (SF_HOME_STAT a) SF_HOME_STAT_REASON reason
    let s := s.setBit (SF_HOME_STAT a) SF_HOME_STAT_HOMED false
    let s := record .homing 1 0 a [h.method, reason] (endHoming a s)
    homeDone a h.tag stFAILED reason s

/-! ## HOLD and DISABLED (R51) -/

/-- Entry to HOLD or DISABLED: the position is rounded, every move ends ABANDONED, and gearing, step following and
homing end (R51, R96). -/
def freezeAxis (a : Fin 32) (st : Nat) (s : State) : State :=
  let k := s.kinB a
  let p := roundHalfAway k.p
  let s := showRaised a false (keepBase a s)
  let s := flushQueue a stABANDONED (endMove a stABANDONED s)
  let s := failHoming a 8 (leaveFollowing a s)
  let rests := s.bit (MP_STAT a) MP_STAT_AT_SOFT
  let s := layPlan a (s.axB a) (restAt (s.axB a) p) (s.modProf a fun x =>
    { x with
      stopKind := .none, velTarget := 0, dwellEnd := none, stopDue := false, softDir := if rests then x.softDir else none })
  let s := s.setBit (MP_STAT a) MP_STAT_DECEL_RAISED false
  showKin a ⟨p, 0, 0⟩ (s.setAxState a st)

/-- HOLD lands: in any state but DISABLED (R51). The angle of the running period is kept (R97). -/
def enterHold (a : Fin 32) (s : State) : State :=
  if s.axState a = axDISABLED ∨ s.axState a = axHOLD then s else freezeAxis a axHOLD s

/-- DISABLED is entered; HOMED clears (R51, R96). -/
def enterDisabled (a : Fin 32) (s : State) : State :=
  if s.axState a = axDISABLED then s
  else (freezeAxis a axDISABLED s).setBit (SF_HOME_STAT a) SF_HOME_STAT_HOMED false

/-! ## Changes in motion (R63–R65) -/

/-- Which of V, A and D change. -/
structure Chg where
  v : Bool
  a : Bool
  d : Bool
  deriving DecidableEq, Repr

/-- The move in progress replanned from the exact state at the boundary (R59, R60, R63). In the down ramp only a
change of D acts, V_eff is bounded by v0, and below one code nothing is replanned. Answers whether R60 raised D, as the changes
of the boundary up to this one leave it (DEDUCED, log). -/
def replanMove (a : Fin 32) (c : Chg) (l : Limits) (m : MoveRun) (s : State) : State × Bool :=
  let b := s.axB a
  let k := s.kinB a
  let down := s.downB a
  let l : Limits := if down then { m.lim with d := l.d, gd := l.gd } else l
  let v0 := (ratAbs k.v * 65536).floor.toNat
  let hi := if down then min (s.vEff a l) v0 else s.vEff a l
  let d := s.dEff a l
  if down ∧ (!c.d ∨ v0 = 0) then (s, false)
  else
    match planMove b k m.target hi (s.aEff a l) d (s.emerg a) (q16 l.j) with
    | none => (s, false)
    | some o =>
      let s := layPlan a b o.segs ((keepBase a s).modProf a fun x =>
        { x with move := some { m with lim := l, endAt := o.endAt, dUsed := o.dUsed, raised := o.raised } })
      (showRaised a o.raised s, o.raised)

/-- A velocity ramp replanned to its target after a change of A or D (R63). A ramp that has ended is left. -/
def replanVelocity (a : Fin 32) (l : Limits) (s : State) : State :=
  let b := s.axB a
  let s := (keepBase a s).modProf a fun x => { x with lim := l }
  if planEnd (s.prof a).plan ≤ b then s
  else layPlan a b (planVelocity b (s.kinB a) (s.prof a).velTarget (s.aEff a l) (q16 (s.dEff a l)) (q16 l.j)) s

/-- A stop at D replanned after a change of D (R63). -/
def replanStop (a : Fin 32) (l : Limits) (s : State) : State :=
  let b := s.axB a
  let plan := planStop b (s.kinB a) (q16 (s.dEff a l)) (q16 l.j)
  layPlan a b plan ((keepBase a s).modProf a fun x => { x with lim := l })

/-- A change of V, A or D in force at the last boundary acts on what runs, by the table of R63. Answers whether R60
raised the deceleration. -/
def applyChange (a : Fin 32) (c : Chg) (f : Limits → Limits) (s : State) : State × Bool :=
  let p := s.prof a
  let st := s.axState a
  if st = axPOSITION then
    match p.move with
    | some m => if c.v ∨ c.a ∨ c.d then replanMove a c (f m.lim) m s else (s, false)
    | none => (s, false)
  else if st = axVELOCITY then
    if c.a ∨ c.d then (replanVelocity a (f p.lim) s, false) else (s, false)
  else if st = axSTOPPING ∧ c.d ∧ (p.stopKind = .stop ∨ p.stopKind = .reaction) then (replanStop a (f p.lim) s, false)
  else (s, false)

/-- DERATED is set or cleared, which is a change of A (R66). -/
def setDerated (a : Fin 32) (on : Bool) (s : State) : State :=
  if s.bit (MP_STAT a) MP_STAT_DERATED = on then s
  else (applyChange a ⟨false, true, false⟩ id (s.setBit (MP_STAT a) MP_STAT_DERATED on)).1

/-- The limits with the copied V, A and D that were not given replaced by those of a bank (R65). -/
def Limits.ofBank (l : Limits) (b : Bank) : Limits :=
  { l with v := if l.gv then l.v else b.v, a := if l.ga then l.a else b.a, d := if l.gd then l.d else b.d }

/-- The copied limits of what runs. -/
def Profile.limits (x : Profile) : Limits := (x.move.map fun m => m.lim).getD x.lim

/-- A mode bank switch replaces the copied V, A and D that were not given; each that differs is a change of R63
(R65). -/
def bankSwitch (a : Fin 32) (s : State) : State :=
  let b := s.bankOf a
  let l := (s.prof a).limits
  let n := l.ofBank b
  (applyChange a ⟨n.v != l.v, n.a != l.a, n.d != l.d⟩ (fun l => l.ofBank b) s).1

/-! ## Episodes end (R313) -/

/-- The axis is at rest, so that a CONTROLLED_STOP has settled (R308). -/
def State.rests (s : State) (a : Fin 32) : Bool := !s.moving a && s.axState a != axSTOPPING

/-- SETTLED and CAUSE of an open episode follow the axis and the causes (MP_FLT_STAT). -/
def followEpisode (a : Fin 32) (s : State) : State :=
  let st := MP_FLT_STAT a
  if !s.bit st MP_FLT_STAT_EPISODE then s
  else
    let rx := s.rxOf a
    let settled := rx != 0 && (rx != 3 || s.rests a)
    (s.setBit st MP_FLT_STAT_SETTLED settled).setBit st MP_FLT_STAT_CAUSE (s.causePresent a)

/-- FAULT_REPORT of a settled reaction, once for each reaction in force. -/
def report (a : Fin 32) (s : State) : State :=
  let s := followEpisode a s
  let st := MP_FLT_STAT a
  let ep := (s.axis a).ep
  if s.bit st MP_FLT_STAT_SETTLED ∧ !ep.reported then
    let s := s.setFld st MP_FLT_STAT_REPORTS (min 255 (s.fld st MP_FLT_STAT_REPORTS + 1))
    let s := s.modAxis a fun x => { x with ep := { x.ep with reported := true } }
    let p0 := s.rxOf a + 256 * s.fld st MP_FLT_STAT_REPORTS + 65536 * min 65535 ep.count
    let p1 := s.fld st MP_FLT_STAT_FIRST + 256 * s.fld st MP_FLT_STAT_TOP + 65536 * ep.scope + 16777216 * ep.scopeIdx
    raiseAxis a 0x0801 ep.sev 0 s.now [p0, p1, ep.firstAt, ep.landAt, ep.detail] s
  else s

/-- The handling episode of an axis ends and the reaction in force returns to NONE (R313). Reactions that have not landed
stay on their way, and the faults of an episode at DISABLE or PORT_OFF are kept until the axis is enabled again. -/
def endEpisode (a : Fin 32) (s : State) : State :=
  let off := decide (5 ≤ s.rxOf a)
  let s := s.setReg (MP_FLT_STAT a) 0
  setDerated a false (s.modAxis a fun x => { x with ep :=
    { Episode.init with pend := x.ep.pend, past := if off then x.ep.classes else [] } })

/-- The faults of a list, one for each class and unit, the first of each. -/
def distinctFaults (l : List FaultMark) : List FaultMark :=
  l.foldl (fun (acc : List FaultMark) m => if acc.any fun x => x.cls == m.cls && x.idx == m.idx then acc else acc ++ [m]) []

/-- An axis is enabled again: the faults of the last episode whose cause persists are raised again (R313). A lost encoder is raised by
the start of the observer (R128). -/
def renewFaults (a : Fin 32) (s : State) : State :=
  let due := (distinctFaults (s.axis a).ep.past.reverse).filter fun m => m.cls != 7 && s.causeOf a m.cls m.idx
  let s := s.modAxis a fun x => { x with ep := { x.ep with past := [] } }
  due.foldl (fun s m => raiseFaultRx m.cls (if m.cls < 28 then s.rxEntry a m.cls else m.rx) ⟨m.scope, m.idx⟩ m.detail a s) s

/-! ## MOVE (R52, R53) -/

/-- A profile descriptor is refused and counted (R53, MP_CNT). A SET_PARAM counts as one whatever its identifier, those of R111
and R118 included (DESIGN CHOICE, log). -/
def refuseMotion (d : Desc) (a : Fin 32) (st : Nat) (s : State) : State :=
  complete d st 0 (s.landOf d) (s.count (MP_CNT a) MP_CNT_REFUSED)

/-- A 48-bit magnitude whose present bit is set breaks the rule on its bit 47, or is 0 where it must not be. -/
def magBad (p : Payload) (i : Nat) (present zeroOk : Bool) : Bool :=
  present && (decide (2 ^ 47 ≤ pay48 p i) || (!zeroOk && pay48 p i == 0))

/-- The MOVE payload breaks R52. -/
def moveBad (p : Payload) : Bool :=
  payBit p 36 7 || !payZero p 37 48 || magBad p 8 (payBit p 36 2) false || magBad p 14 (payBit p 36 3) false ||
  magBad p 20 (payBit p 36 4) false || magBad p 26 (payBit p 36 5) true

/-- A present magnitude clamped to its cap. -/
def capped (p : Payload) (i : Nat) (present : Bool) (cap : Nat) : Option Nat :=
  if present then some (min (pay48 p i) cap) else none

/-- A present magnitude above its cap (R53, flag LIMITED). -/
def limited (p : Payload) (i : Nat) (present : Bool) (cap : Nat) : Bool := present && decide (cap < pay48 p i)

/-- The move that a payload asks for, its magnitudes clamped. -/
def State.moveReq (s : State) (d : Desc) (a : Fin 32) : MoveReq :=
  let p := d.payload
  { tag := d.tag, target := payI64 p 0, rel := payBit p 36 0, v := capped p 8 (payBit p 36 2) (s.vCap a),
    a := capped p 14 (payBit p 36 3) (s.aCap a), d := capped p 20 (payBit p 36 4) (s.aCap a),
    j := if payBit p 36 5 then some (pay48 p 26) else none, dwell := pay32 p 32, event := payBit p 36 6,
    internal := false }

/-- Some magnitude of the payload was clamped. -/
def State.moveLimited (s : State) (d : Desc) (a : Fin 32) : Bool :=
  let p := d.payload
  limited p 8 (payBit p 36 2) (s.vCap a) || limited p 14 (payBit p 36 3) (s.aCap a) ||
  limited p 20 (payBit p 36 4) (s.aCap a)

/-- Where the target of a new entry counts from: the last queued move, the move in progress, the planned end of a stop,
or the position at the boundary; and whether it is resolved only when the stop ends, where it is the position that the plan in
force will give (R52). -/
def State.aheadOf (s : State) (a : Fin 32) : Int × Bool :=
  let p := s.prof a
  match p.queue.getLast? with
  | some r => (if r.rel then (((resolveQueue (roundHalfAway (planEndPos p.plan)) p.queue).getLast?).map fun x => x.target).getD 0
      else r.target, r.rel)
  | none =>
    match p.move with
    | some m => (m.target, false)
    | none =>
      if s.axState a = axSTOPPING then (roundHalfAway (planEndPos p.plan), true) else (s.posB a, false)

/-- A lock of R92 forbids motion from the current position to a target. -/
def State.lockForbids (s : State) (a : Fin 32) (target : Int) : Bool :=
  (s.bit (SF_IO_STAT a) SF_IO_STAT_LOCKP && decide (s.posB a < target)) ||
  (s.bit (SF_IO_STAT a) SF_IO_STAT_LOCKN && decide (target < s.posB a))

/-- MOVE starts at once from STANDSTILL; a distance of 0 is an immediate arrival and moves nothing (R53). -/
def startNow (a : Fin 32) (r : MoveReq) (s : State) : State :=
  if r.target = s.posB a then
    arrive a ⟨r.tag, r.target, Limits.zero, r.event, r.internal, s.axB a, 0, false⟩ (showTarget a r.target s)
  else startMove a (s.axB a) (s.kinB a) r (cancelEngage a (keepBase a s))

/-- MOVE queues behind the last entry (R53). -/
def queueMove (a : Fin 32) (r : MoveReq) (s : State) : State :=
  followQueue a (s.modProf a fun x => { x with queue := x.queue ++ [r] })

/-- MOVE at its landing (R52, R53, R92, R93, R312). A relative target that resolves beyond signed 64 bits has no stated meaning: it
stays the exact sum, which MP_TARGET shows modulo 2^64 (DESIGN CHOICE, log). -/
def landMove (d : Desc) (s : State) : State :=
  let a := finAx d.target
  let st := s.axState a
  let r0 := s.moveReq d a
  let (ahead, unknown) := s.aheadOf a
  let open_ := r0.rel && unknown
  let r : MoveReq := { r0 with rel := open_, target := if r0.rel && !unknown then ahead + r0.target else r0.target }
  let dist := if r0.rel then r0.target else r0.target - ahead
  let flags := if s.moveLimited d a then 1 else 0
  let still := st = axSTANDSTILL ∧ (s.prof a).queue = []
  let queues := st = axPOSITION ∨ (st = axSTOPPING ∧ (s.prof a).stopKind = .stop)
  if moveBad d.payload then refuseMotion d a stREFUSED_VALUE s
  else if 3 ≤ s.rxOf a ∨ s.homing a then refuseMotion d a stREFUSED_STATE s
  else if 8 ≤ (s.prof a).queue.length then refuseMotion d a stREFUSED_QUEUE_FULL s
  else if ¬ still ∧ ¬ (queues ∧ payBit d.payload 36 1) then refuseMotion d a stREFUSED_STATE s
  else if 2 ^ 62 ≤ dist.natAbs ∨ (!open_ ∧ (!s.softOk a r.target ∨ s.lockForbids a r.target)) then
    refuseMotion d a stREFUSED_RANGE s
  else if still then complete d stSTARTED flags (s.landOf d) (startNow a r s)
  else complete d stQUEUED flags (s.landOf d) (queueMove a r s)

/-- MOVE (R53). -/
def execMove (d : Desc) (s : State) : Host.Outcome State Fault Refusal := .next (submit d (landMove d) s)

/-! ## VELOCITY (R54) -/

/-- The VELOCITY payload breaks R54. -/
def velocityBad (p : Payload) : Bool :=
  decide (8 ≤ payByte p 24) || !payZero p 25 48 || magBad p 6 (payBit p 24 0) false ||
  magBad p 12 (payBit p 24 1) false || magBad p 18 (payBit p 24 2) true

/-- A velocity ramp from the exact state at the last boundary (R54). -/
def startVelocity (a : Fin 32) (c : Int) (l : Limits) (s : State) : State :=
  let k := s.kinB a
  let plan := planVelocity (s.axB a) k (q16 c) (s.aEff a l) (q16 (s.dEff a l)) (q16 l.j)
  let s := layPlan a (s.axB a) plan ((cancelEngage a (keepBase a s)).modProf a fun x =>
    { x with lim := l, velTarget := q16 c, stopKind := .none, softDir := none })
  (s.setBit (MP_STAT a) MP_STAT_AT_SOFT false).setAxState a axVELOCITY

/-- A velocity points where a lock or the soft limit at which the axis rests forbids it (R69, R92). R69 does not say what a cleared
SOFT_EN does to an axis that rests there: AT_SOFT and the refusal stay (DESIGN CHOICE, log). -/
def State.velForbidden (s : State) (a : Fin 32) (c : Int) : Bool :=
  (decide (0 < c) && s.bit (SF_IO_STAT a) SF_IO_STAT_LOCKP) || (decide (c < 0) && s.bit (SF_IO_STAT a) SF_IO_STAT_LOCKN) ||
  (s.bit (MP_STAT a) MP_STAT_AT_SOFT && match (s.prof a).softDir with
    | some true => decide (0 < c)
    | some false => decide (c < 0)
    | none => false)

/-- VELOCITY at its landing (R54). Where several refusals apply the order is VALUE, STATE, RANGE (DESIGN CHOICE, log). -/
def landVelocity (d : Desc) (s : State) : State :=
  let a := finAx d.target
  let p := d.payload
  let st := s.axState a
  let b := s.bankOf a
  let c := clampInt (-(s.vCap a : Int)) (s.vCap a) (payI48 p 0)
  let lim := c != payI48 p 0 || limited p 6 (payBit p 24 0) (s.aCap a) || limited p 12 (payBit p 24 1) (s.aCap a)
  let l : Limits :=
    ⟨b.v, (capped p 6 (payBit p 24 0) (s.aCap a)).getD b.a, (capped p 12 (payBit p 24 1) (s.aCap a)).getD b.d,
      if payBit p 24 2 then pay48 p 18 else b.j, false, payBit p 24 0, payBit p 24 1⟩
  if velocityBad p then refuseMotion d a stREFUSED_VALUE s
  else if 3 ≤ s.rxOf a ∨ s.homing a ∨ (st ≠ axSTANDSTILL ∧ st ≠ axVELOCITY) then refuseMotion d a stREFUSED_STATE s
  else if s.velForbidden a c then refuseMotion d a stREFUSED_RANGE s
  else
    let s := if st = axSTANDSTILL ∧ c = 0 then s else startVelocity a c l s
    complete d stSTARTED (if lim then 1 else 0) (s.landOf d) s

/-- VELOCITY (R54). -/
def execVelocity (d : Desc) (s : State) : Host.Outcome State Fault Refusal := .next (submit d (landVelocity d) s)

/-! ## STOP and ESTOP (R55) -/

/-- HOLD is left by a STOP with RELEASE, which also ends the episode (R51, R313). -/
def releaseHold (a : Fin 32) (s : State) : State :=
  let s := s.setAxState a axSTANDSTILL
  if s.rxOf a = 4 then endEpisode a (report a s) else s

/-- A stop that lands ends a homing with reason 5 and a pending engagement (R74, R93). -/
def stopSides (a : Fin 32) (s : State) : State := failHoming a 5 (cancelEngage a s)

/-- STOP at its landing (R55). One that completes with NO_CHANGE changes nothing of the motion, so that a STOP during a stop
leaves the moves queued behind that stop (DESIGN CHOICE, log). A HOLD reaction that found the axis DISABLED ends with a
RELEASE in STANDSTILL (R313). -/
def landStop (d : Desc) (s : State) : State :=
  let a := finAx d.target
  let st := s.axState a
  let l := s.landOf d
  if decide (2 ≤ payByte d.payload 0) || !payZero d.payload 1 48 then refuseMotion d a stREFUSED_VALUE s
  else if st = axDISABLED then refuseMotion d a stREFUSED_STATE s
  else if st = axHOLD then
    if payBit d.payload 0 0 ∧ !s.causePresent a then complete d stDONE 0 l (releaseHold a s)
    else refuseMotion d a stREFUSED_STATE s
  else if s.moving a then complete d stSTARTED 0 l (stopSides a (beginStop a .stop s))
  else
    let s := stopSides a s
    let out := payBit d.payload 0 0 && decide (s.rxOf a = 4) && !s.causePresent a
    complete d stNO_CHANGE 0 l (if out then endEpisode a (report a s) else s)

/-- STOP (R55). -/
def execStop (d : Desc) (s : State) : Host.Outcome State Fault Refusal := .next (submit d (landStop d) s)

/-- ESTOP at its landing: it replaces any stop in progress and is never refused (R55). -/
def landEstop (d : Desc) (s : State) : State :=
  let a := finAx d.target
  let l := s.landOf d
  if s.moving a ∨ s.axState a = axSTOPPING then
    complete d stSTARTED 0 l (stopSides a (beginStop a .estop s))
  else complete d stNO_CHANGE 0 l (stopSides a s)

/-- ESTOP (R55). -/
def execEstop (d : Desc) (s : State) : Host.Outcome State Fault Refusal := .next (submit d (landEstop d) s)

/-! ## SET_POS (R56, R117) -/

/-- One offset shifts every position of the axis by the same amount (R56, R117): exactly the segments, the trip positions of
the locks and the rotor estimates; by what it moves the rounded commanded position, the positions reported in whole
ticks: MP_CMD_POS, MP_TARGET and q_out, so that the load angle is kept. -/
def shiftAxis (a : Fin 32) (o : Rat) (s : State) : State :=
  let k := s.kinB a
  let oi := roundHalfAway (k.p + o) - roundHalfAway k.p
  let oq := roundHalfAway (65536 * o)
  let s := s.modProf a fun x =>
    { x with
      plan := x.plan.map fun g => { g with p := g.p + o }
      base := x.base.map fun y => { y with kin := { y.kin with p := y.kin.p + o } } }
  let s := s.modIo a fun x => { x with tripP := x.tripP + o, tripN := x.tripN + o }
  let s := s.modObs a fun x =>
    { x with
      inj := x.inj.shift oq, bemf := x.bemf.shift oq, est := x.est.shift oq, encOfs := x.encOfs + o
      qOut := wrapInt 64 (x.qOut + oi) }
  let s := s.setPair (MP_CMD_POS_LO a) (s.pairI (MP_CMD_POS_LO a) + oi)
  let s := s.setPair (MP_TARGET_LO a) (s.pairI (MP_TARGET_LO a) + oi)
  let s := if o = 0 then s else s.setBit (MP_STAT a) MP_STAT_AT_SOFT false
  s.setPair (OB_EST_POS_LO a) (s.pairI (OB_EST_POS_LO a) + oi)

/-- The position at the last boundary becomes a value (R56). -/
def setPosition (a : Fin 32) (v : Int) (s : State) : State := shiftAxis a ((v : Rat) - (s.kinB a).p) s

/-- SET_POS is accepted in these states only (R56, R93). -/
def State.posSettable (s : State) (a : Fin 32) : Bool :=
  let st := s.axState a
  (st == axDISABLED || st == axSTANDSTILL || st == axVELOCITY) && !s.homing a

/-- SET_POS at its landing (R56). Where several refusals apply the order is VALUE, STATE, RANGE (DESIGN CHOICE, log). -/
def landSetPos (d : Desc) (s : State) : State :=
  let a := finAx d.target
  let v := payI64 d.payload 0
  if !payZero d.payload 8 48 then refuseMotion d a stREFUSED_VALUE s
  else if !s.posSettable a then refuseMotion d a stREFUSED_STATE s
  else if !s.softOk a v then refuseMotion d a stREFUSED_RANGE s
  else complete d stDONE 0 (s.landOf d) (setPosition a v s)

/-- SET_POS (R56). -/
def execSetPos (d : Desc) (s : State) : Host.Outcome State Fault Refusal := .next (submit d (landSetPos d) s)

/-! ## SET_PARAM for V, A, D and J (R57) -/

/-- A bank with one value replaced. -/
def Bank.put (b : Bank) (id v : Nat) : Bank :=
  if id = 0x0100 then { b with v := v } else if id = 0x0101 then { b with a := v }
  else if id = 0x0102 then { b with d := v } else { b with j := v }

/-- Limits with one value given by SET_PARAM with MOVE. -/
def Limits.put (l : Limits) (id v : Nat) : Limits :=
  if id = 0x0100 then { l with v := v, gv := true } else if id = 0x0101 then { l with a := v, ga := true }
  else if id = 0x0102 then { l with d := v, gd := true } else l

/-- V, A, D or J stored and applied (R57, R63). Answers whether R60 raised the deceleration. -/
def putParam (a : Fin 32) (id v bank : Nat) (store move : Bool) (s : State) : State × Bool :=
  let n := if bank = 0xFF then s.bankNo a else bank
  let s := if store then s.modAxis a fun x =>
      { x with bank := x.bank.setIfInBounds n ((x.bank.getD n Bank.init).put id v) }
    else s
  if move then
    let (s, r) := applyChange a ⟨id = 0x0100, id = 0x0101, id = 0x0102⟩ (fun l => l.put id v) s
    (s, r)
  else (s, false)

/-- The common layout of SET_PARAM is broken (R57): bank byte, flag bits, reserved bytes. -/
def paramBad (p : Payload) (used : Nat) : Bool :=
  (4 ≤ payByte p 2 && payByte p 2 != 255) || 4 ≤ payByte p 3 || !payZero p 4 8 || !payZero p (8 + used) 48

/-- SET_PARAM of a profile parameter at its landing (R57). A J above 2^31 − 1 ticks/ms³ with bit 47 clear, beyond the range of R68 and
without a stated action, is taken as it stands, as in MOVE and VELOCITY (DESIGN CHOICE, log). -/
def profileParam (d : Desc) (s : State) : State :=
  let a := finAx d.target
  let p := d.payload
  let id := pay16 p 0
  let v0 := pay48 p 8
  let cap := if id = 0x0100 then s.vCap a else if id = 0x0103 then 2 ^ 47 else s.aCap a
  if paramBad p 6 || decide (payByte p 3 = 0) || decide (2 ^ 47 ≤ v0) || (decide (id ≠ 0x0103) && v0 == 0) then
    refuseMotion d a stREFUSED_VALUE s
  else
    let (s, raised) := putParam a id (min v0 cap) (payByte p 2) (payBit p 3 0) (payBit p 3 1) s
    complete d stDONE ((if cap < v0 then 1 else 0) + (if raised then 2 else 0)) (s.landOf d) s

end Sys2Proof.Machine
end

