-- ==== Sys2Proof/Machine/Network.lean ====
section
/-! DEFINITION. Line time and the plant network (spec/02), the strobes of the tiles (R13–R15) and the crossings
(R10). -/

namespace Sys2Proof.Machine

/-! ## Line time (R22, R23, R31) -/

/-- Some bridge port of the device is enabled (R31). -/
def State.anyPortOn (s : State) : Bool := allPorts.any s.portOn

/-- Line time is stepped by `d` ns: every tile realigns at its next boundary (R31, R15). -/
def stepLineTime (d : Int) (s : State) : State :=
  let n := (s.now : Int) + d
  let s := s.setNow n.toNat
  let s := s.modDev fun x => { x with relAt := x.relAt + d }
  allTiles.foldl (fun s t => s.modTile t fun x => { x with realign := true }) s

/-- The largest magnitude LT_OFFSET shows. -/
def ofsMax : Int := 2147483647

/-- The offset of a new lock is corrected: a step, a slew, or a pending step with the fault LT_STEP (R31). What an earlier lock
left pending or slewing is given up. -/
def correctOffset (ofs : Int) (s : State) : State :=
  let s := (s.modNet fun x => { x with corrected := true, stepOfs := none, slew := 0 }).setBit LT_STAT LT_STAT_STEP_PENDING false
  let s := s.setBit LT_STAT LT_STAT_SLEWING false
  if !s.anyPortOn then stepLineTime (-ofs) s
  else if ofs.natAbs ≤ 1000000 then
    (s.modNet fun x => { x with slew := ofs, slewAt := s.up }).setBit LT_STAT LT_STAT_SLEWING (ofs ≠ 0)
  else
    let s := (s.modNet fun x => { x with stepOfs := some ofs }).setBit LT_STAT LT_STAT_STEP_PENDING true
    raiseFaultAll 2 ⟨4, 0⟩ ofs.natAbs
      (allAxes.filter fun a => s.portOn (s.portOf a false) || s.portOn (s.portOf a true)) s

/-- A slew at 50 ppm ends once 20,000 ns have passed for each ns of it (R31). -/
def endSlew (s : State) : State :=
  if s.bit LT_STAT LT_STAT_SLEWING ∧ s.net.slewAt + 20000 * s.net.slew.natAbs ≤ s.up then
    (s.modNet fun x => { x with slew := 0 }).setBit LT_STAT LT_STAT_SLEWING false
  else s

/-- Locked: eight Syncs in a row below 200 ns (R23). -/
def noteLock (s : State) : State :=
  if 8 ≤ s.net.goodSyncs ∧ s.quality ≠ 0 then
    (((s.modNet fun x => { x with holdSince := none }).setFld LT_STAT LT_STAT_QUALITY 0).setBit LT_STAT
      LT_STAT_HOLD_LIMIT false)
  else s

/-- Nanoseconds of 2^n seconds, n from −7 to 0. -/
def logNs (n : Int) : Nat := 1000000000 / 2 ^ (-n).toNat

/-- The PTP profile in force: 0 none, 1 IEEE 1588, 2 IEEE 802.1AS. -/
def State.profile (s : State) : Nat := s.fld NET_CTRL NET_CTRL_PROFILE

/-- A PTP option the device does not support: ignored and counted (R25). -/
def ptpDrop (s : State) : State := s.count NET_FRAME_CNT NET_FRAME_CNT_PTP_DROP

/-- A port of the network takes part: enabled and not retired. -/
def State.netPortUp (s : State) (n : Fin 2) : Bool := s.bit (NET_PORT_CTRL n) NET_PORT_CTRL_EN && !s.net.retired[n]

/-- The port is blocked: BLOCK is set and the block is closed (R29). -/
def State.blocked (s : State) (n : Fin 2) : Bool :=
  s.bit (NET_PORT_CTRL n) NET_PORT_CTRL_BLOCK && !s.bit (NET_PORT_STAT n) NET_PORT_STAT_BLOCK_OPEN

/-- A port takes what is received on it; a blocked one takes peer-delay messages and heartbeats alone (R29). -/
def State.netTakes (s : State) (n : Fin 2) : Bool := s.netPortUp n && !s.blocked n

/-- The servo offset of a Sync: local line time against the grandmaster's time, path delay and link asymmetry taken
off (R22, R25). -/
def State.syncOffset (s : State) (x : SyncIn) : Int :=
  (s.epoch : Int) + x.rx - x.origin - x.corr - s.net.pathDelay[x.port] - s.fldI (NET_ASYM x.port) NET_ASYM_ASYM

/-- The numbers by which the duplicate filter tells PTP message types. -/
def ptpKey : PtpMsg → Nat
  | .sync _ => 101 | .followUp => 102 | .delayReq => 103 | .delayResp => 104 | .announce => 105 | .peerDelay _ => 106 | .other => 107

/-- A frame received now on a port is a second copy of one forwarded within the last 1 ms, so that it is discarded (R29). The entry
that its own FRAME_FORWARD made, of the same port and instant, is no other copy. -/
def State.isCopy (s : State) (n : Fin 2) (src kind seq : Nat) : Bool :=
  s.net.dup.any fun d => d.src == src && d.kind == kind && d.seq == seq && decide (s.up < d.seenAt + 1000000) &&
    !(d.port == n.1 && d.seenAt == s.up)

/-- A Sync with its follow-up (R23, R25, R31). R25 does not say whether frames count in PTP_DROP while PROFILE is 0: PTP is then
not in use and nothing counts (DESIGN CHOICE, log). -/
def syncReceive (x : SyncIn) (s : State) : State :=
  let s := endSlew s
  if s.profile = 0 ∨ !s.netTakes x.port ∨ s.isCopy x.port x.src 101 x.seq then s
  else if x.logIvl < -7 ∨ 0 < x.logIvl ∨ x.domain ≠ s.fld NET_CTRL NET_CTRL_DOMAIN ∨ (s.profile = 2 ∧ !x.twoStep) then
    ptpDrop s
  else
    match s.net.parent with
    | none => s
    | some (v, _) =>
      if v.getD 7 0 ≠ x.src then s
      else
        let ofs := s.syncOffset x
        let s := s.setFldI LT_OFFSET LT_OFFSET_OFFSET (clampInt (-ofsMax) ofsMax ofs)
        let s := s.modNet fun y =>
          { y with
            lastSync := some s.up, syncInterval := logNs x.logIvl
            goodSyncs := if ofs.natAbs < 200 then y.goodSyncs + 1 else 0 }
        let s := if s.net.corrected then s else correctOffset ofs s
        noteLock s

/-- SYNC_RECEIVE (R23). -/
def execSyncReceive (x : SyncIn) (s : State) : Host.Outcome State Fault Refusal := .next (syncReceive x (s.reach x.rx))

/-- Lexicographic order of two priority vectors. -/
def lexLt : List Nat → List Nat → Bool
  | [], [] => false
  | [], _ :: _ => true
  | _ :: _, [] => false
  | a :: as, b :: bs => a < b || (a = b && lexLt as bs)

/-- PARENT shows the port through which the selected grandmaster is reached. -/
def followParent (s : State) : State :=
  let p := s.net.parent.map fun x => x.2
  (s.setBit (NET_PORT_STAT 0) NET_PORT_STAT_PARENT (p = some 0)).setBit (NET_PORT_STAT 1) NET_PORT_STAT_PARENT
    (p = some 1)

/-- A received Announce feeds the selection of the parent; a change of grandmaster is a new lock (R26). -/
def announceReceive (port : Fin 2) (seq domain : Nat) (vec : List Nat) (logIvl : Int) (s : State) : State :=
  if s.profile = 0 ∨ !s.netTakes port ∨ s.isCopy port (vec.getD 7 0) 105 seq then s
  else if domain ≠ s.fld NET_CTRL NET_CTRL_DOMAIN then ptpDrop s
  else
    let ivl := if logIvl < 0 then logNs logIvl else 1000000000 * 2 ^ logIvl.toNat
    let same := match s.net.parent with | some (v, _) => v.getD 7 0 == vec.getD 7 0 | none => false
    let better := match s.net.parent with | some (v, _) => lexLt vec v | none => true
    if same || better then
      let newGm := match s.net.parent with | some (v, _) => v.getD 5 0 != vec.getD 5 0 | none => true
      let s := s.modNet fun x =>
        { x with parent := some (vec, port.1), lastAnnounce := some s.up, annInterval := ivl }
      let s := if newGm then s.modNet fun x => { x with goodSyncs := 0, corrected := false } else s
      followParent s
    else s

/-- ANNOUNCE_RECEIVE (R26). -/
def execAnnounceReceive (t : Nat) (port : Fin 2) (seq domain : Nat) (vec : List Nat) (logIvl : Int) (s : State) :
    Host.Outcome State Fault Refusal :=
  .next (announceReceive port seq domain vec logIvl (s.reach t))

/-- A locked device moves into holdover (R30). -/
def enterHoldover (s : State) : State :=
  if s.quality = 0 then
    (s.modNet fun x => { x with holdSince := some s.up, goodSyncs := 0, corrected := false }).setFld LT_STAT
      LT_STAT_QUALITY 1
  else s

/-- SYNC_TIMEOUT (R30): no Sync for 3 Sync intervals. -/
def syncTimeout (s : State) : State :=
  match s.net.lastSync with
  | some l => if l + 3 * s.net.syncInterval ≤ s.up then enterHoldover s else s
  | none => s

def execSyncTimeout (t : Nat) (s : State) : Host.Outcome State Fault Refusal := .next (syncTimeout (s.reach t))

/-- ANNOUNCE_TIMEOUT (R30): no Announce of the parent for ANN_TO intervals. -/
def announceTimeout (s : State) : State :=
  match s.net.lastAnnounce with
  | some l =>
    if l + s.fld NET_CTRL NET_CTRL_ANN_TO * s.net.annInterval ≤ s.up then
      followParent ((enterHoldover s).modNet fun x => { x with parent := none, lastAnnounce := none })
    else s
  | none => s

def execAnnounceTimeout (t : Nat) (s : State) : Host.Outcome State Fault Refusal := .next (announceTimeout (s.reach t))

/-- The axis is engaged to a virtual master (R70, R72). -/
def State.gearedToVm (s : State) (a : Fin 32) : Bool :=
  s.bit (GR_STAT a) GR_STAT_ENGAGED && s.fld (GR_STAT a) GR_STAT_SRC_KIND = 1

/-- HOLDOVER_LIMIT (R30): the fault LT_HOLDOVER against every axis, and no more line-scope acknowledgements. -/
def holdoverLimit (s : State) : State :=
  match s.net.holdSince with
  | some h =>
    if s.quality = 1 ∧ !s.bit LT_STAT LT_STAT_HOLD_LIMIT ∧ h + 1000000000 * s.fld LT_HOLD LT_HOLD_LIMIT ≤ s.up then
      let s := s.setBit LT_STAT LT_STAT_HOLD_LIMIT true
      allAxes.foldl (fun s a => raiseFault (if s.gearedToVm a then 0 else 1) ⟨4, 0⟩ 0 a s) s
    else s
  | none => s

def execHoldoverLimit (t : Nat) (s : State) : Host.Outcome State Fault Refusal := .next (holdoverLimit (s.reach t))

/-- DEFERRED_STEP (R31): the pending step is made once no port is enabled. -/
def deferredStep (s : State) : State :=
  match s.net.stepOfs with
  | some ofs =>
    if s.anyPortOn then s
    else
      let s := (s.modNet fun x => { x with stepOfs := none }).setBit LT_STAT LT_STAT_STEP_PENDING false
      stepLineTime (-ofs) s
  | none => s

def execDeferredStep (t : Nat) (s : State) : Host.Outcome State Fault Refusal := .next (deferredStep (s.reach t))

/-- A Delay_Resp in the 1588 profile, or a peer-delay message (`peer`) in 802.1AS, gives the path delay of its port from the four
timestamps of the exchange in ns, corrections taken off. The other delay mechanism and another domain are options that the
device does not support (R25). A peer-delay message passes a block (R29). -/
def delayReceive (port : Fin 2) (peer : Bool) (domain : Nat) (t1 t2 t3 t4 corr : Int) (s : State) : State :=
  if s.profile = 0 ∨ !s.netPortUp port ∨ (s.blocked port ∧ !peer) then s
  else if peer ≠ decide (s.profile = 2) ∨ domain ≠ s.fld NET_CTRL NET_CTRL_DOMAIN then ptpDrop s
  else s.modNet fun x => { x with pathDelay := x.pathDelay.set port.1 (((t2 - t1) + (t4 - t3) - corr) / 2) }

/-- DELAY_RESPONSE_RECEIVE (R25). -/
def execDelayResponseReceive (t : Nat) (port : Fin 2) (peer : Bool) (domain : Nat) (t1 t2 t3 t4 corr : Int) (s : State) :
    Host.Outcome State Fault Refusal :=
  .next (delayReceive port peer domain t1 t2 t3 t4 corr (s.reach t))

/-! ## Forwarding and the ring (R27–R29, R275, R319) -/

/-- A blocked port drops every received frame but PTP peer-delay messages and heartbeats (R29). -/
def passesBlock : FwdFrame → Bool
  | .ptp (.peerDelay _) _ _ _ => true
  | .line 1 _ _ => true
  | _ => false

/-- Source, message type and sequence number of a multicast PTP or line frame (R29). -/
def dupKey : FwdFrame → Option (Nat × Nat × Nat)
  | .ptp m src seq _ => some (src, ptpKey m, seq)
  | .line ty src seq => some (src, ty, seq)
  | .other _ => none

/-- The residence time kept of the two-step Sync that a Follow_Up belongs to; 0 where none was forwarded. -/
def State.syncResidence (s : State) (src q : Nat) : Nat :=
  match s.net.syncRes.find? fun x => x.1 == src && x.2.1 == q with
  | some x => x.2.2
  | none => 0

/-- The parent is reached through a port (R26). -/
def State.parentAt (s : State) (n : Fin 2) : Bool :=
  match s.net.parent with
  | some (_, p) => p == n.1
  | none => false

/-- The other network port. -/
def otherPort (n : Fin 2) : Fin 2 := if n = 0 then 1 else 0

/-- What is added to the correctionField of a frame received on a port. The transparent clock of the 1588 profile adds the
residence time of a one-step Sync, that of a two-step Sync to its Follow_Up, and that of a Delay_Req on its way towards the
grandmaster, with the link asymmetry of the receiving port (R27). As a relay of 802.1AS it adds to a Follow_Up the residence
time of its Sync and the delay of the link it came by (R25; PRESUMED from the profile). -/
def State.correction (s : State) (n : Fin 2) (f : FwdFrame) : Int :=
  let asym := s.fldI (NET_ASYM n) NET_ASYM_ASYM
  match s.profile, f with
  | 1, .ptp (.sync false) _ _ res => res + asym
  | 1, .ptp .followUp src q _ => s.syncResidence src q + asym
  | 1, .ptp .delayReq _ _ res => if s.parentAt (otherPort n) then res + asym else 0
  | 2, .ptp .followUp src q _ => s.syncResidence src q + s.net.pathDelay[n] + asym
  | _, _ => 0

/-- The residence time of a forwarded two-step Sync is kept for its Follow_Up, of which the last 256 count. -/
def keepResidence (f : FwdFrame) (s : State) : State :=
  match f with
  | .ptp (.sync true) src q res => s.modNet fun x =>
    { x with syncRes := ((src, q, res) :: x.syncRes.filter fun y => !(y.1 == src && y.2.1 == q)).take 256 }
  | _ => s

/-- The number by which a forwarded frame is logged: PTP 0, a line frame its type, other 255. -/
def frameKind : FwdFrame → Nat
  | .ptp _ _ _ _ => 0
  | .line ty _ _ => ty
  | .other _ => 255

/-- A message of an option that the profile in force does not have, and for which no other command stands: management and
signalling, the peer-delay request in the 1588 profile and Delay_Req in 802.1AS (R25). The Sync, Announce, Delay_Resp and
Pdelay_Resp messages meet their tests in their own commands. -/
def State.unlistedPtp (s : State) : FwdFrame → Bool
  | .ptp .other _ _ _ => s.profile != 0
  | .ptp (.peerDelay true) _ _ _ => s.profile == 1
  | .ptp .delayReq _ _ _ => s.profile == 2
  | _ => false

/-- A received frame is forwarded store-and-forward to the other port; a duplicate within 1 ms is discarded and
counted (R27–R29). R28 makes no exception for peer-delay messages, which here stay on their link in every profile, as PTP gives
(PRESUMED, log); and a PTP frame of an option that is not supported is ignored by the device and forwarded (DEDUCED, log). -/
def frameForward (n : Fin 2) (f : FwdFrame) (s : State) : State :=
  if s.devState = dOFF ∨ !s.netPortUp n ∨ (s.blocked n ∧ !passesBlock f) then s
  else
    let s := if s.unlistedPtp f then ptpDrop s else s
    let recent := s.net.dup.filter fun d => s.up < d.seenAt + 1000000
    match dupKey f with
    | some (src, k, q) =>
      if recent.any (fun d => d.src == src && d.kind == k && d.seq == q) then
        (s.modNet fun x => { x with dup := recent }).count NET_FRAME_CNT NET_FRAME_CNT_DUP_DROP
      else
        let m := otherPort n
        let out := s.netPortUp m && !s.blocked n && !s.blocked m && !(passesBlock f && frameKind f == 0)
        let s := s.modNet fun x => { x with dup := if out then (⟨n.1, src, k, q, s.up⟩ :: recent).take 256 else recent }
        if out then keepResidence f (s.emit (.frame m (frameKind f) q none [s.correction n f])) else s
    | none =>
      let m := otherPort n
      if s.netPortUp m && !s.blocked n && !s.blocked m then s.emit (.frame m (frameKind f) 0 none []) else s

/-- FRAME_FORWARD (R28). -/
def execFrameForward (t : Nat) (n : Fin 2) (f : FwdFrame) (s : State) : Host.Outcome State Fault Refusal :=
  .next (frameForward n f (s.reach t))

/-- The device sends line frames of its own from CONFIGURABLE on (R275). -/
def State.mayTalk (s : State) : Bool := dCONFIGURABLE ≤ s.devState && s.devState ≤ dSAFEHOLD

/-- The device's own heartbeat interval in ns. -/
def State.hbNs (s : State) : Nat := 1000000 * s.fld NET_SEG NET_SEG_HB_MS

/-- A device set in NET_MEMBER (R35, R42). -/
def State.member (s : State) (d : Nat) : Bool :=
  if d < 32 then (s.reg NET_MEMBER_LO).getLsbD d else (s.reg NET_MEMBER_HI).getLsbD (d - 32)

/-- NET_LF_VER.USED: the lowest maximum of the device and the members heard within 3 heartbeat intervals (R35). DESIGN CHOICE
(log): the 3 intervals are the receiver's own, NET_SEG.HB_MS. -/
def followVersion (s : State) : State :=
  let v := (s.net.sources.filter fun x => s.member x.dev && decide (s.up ≤ x.heardAt + 3 * s.hbNs)).foldl
    (fun m x => min m x.maxVer) 2
  s.setFld NET_LF_VER NET_LF_VER_USED v

/-- The 802.1Q tag of the line frames of a port: PCP and VID where VLAN_EN is set (R33). -/
def State.lineTag (s : State) (n : Fin 2) : Option (Nat × Nat) :=
  let r := NET_PORT_CTRL n
  if s.bit r NET_PORT_CTRL_VLAN_EN then some (s.fld r NET_PORT_CTRL_PCP, s.fld r NET_PORT_CTRL_VID) else none

/-- A line frame of the device's own leaves on both ports with the header of R33: the version in use (R35), its type, SEG_ID,
DEVNUM, the entry count, the next sequence number of its type and the line time. -/
def sendLine (ty entries : Nat) (fields : List Int) (s : State) : State :=
  if !s.mayTalk then s
  else
    let s := followVersion s
    let q := s.net.txSeq.toArray.getD (ty - 1) 0
    let s := s.modNet fun x => { x with txSeq := x.txSeq.setIfInBounds (ty - 1) ((q + 1) % 65536) }
    let one (s : State) (n : Fin 2) : State :=
      if s.netPortUp n then s.emit (.frame n ty q (s.lineTag n) ([(s.fld NET_LF_VER NET_LF_VER_USED : Int),
        s.fld NET_SEG NET_SEG_SEG_ID, s.fld NET_SEG NET_SEG_DEVNUM, entries, s.now] ++ fields)) else s
    one (one s 0) 1

/-- The pending mode request that a heartbeat names: identifier and originator (R34). DESIGN CHOICE (log): with an own and a
peer's request pending it is the own one, and among peers' the oldest. -/
def State.pendingReq (s : State) : Nat × Nat :=
  match s.net.own with
  | some r => (r.id, s.fld NET_SEG NET_SEG_DEVNUM)
  | none => match s.net.peers with
    | p :: _ => (p.id, p.orig)
    | [] => (0, 0)

/-- The flags of a heartbeat (R34). -/
def State.hbFlags (s : State) : Nat :=
  s.fld LT_STAT LT_STAT_HOLD_LIMIT + 2 * s.fld LT_STAT LT_STAT_STEP_PENDING + (if s.net.undecided then 4 else 0)

/-- The mode in force of a tile. -/
def State.tileMode (s : State) (t : Nat) : Nat := s.fld (LT_TILE_MODE t) LT_TILE_MODE_MODE

/-- A heartbeat is sent on both ports (R34). Where the one before did not return, the returns of the ring keeper start again
(R29). -/
def heartbeatTx (s : State) : State :=
  if s.net.lastHb ≠ 0 ∧ s.up < s.net.lastHb + s.hbNs then s
  else
    let s := followVersion s
    let v2 := s.fld NET_LF_VER NET_LF_VER_USED = 2
    let modes : List Int := if v2 then [(s.tileMode 0 : Int), s.tileMode 1, s.tileMode 2, s.tileMode 3]
      else [(s.modeDev % 256 : Int), 0, 0, 0]
    let (id, orig) := s.pendingReq
    let s := sendLine 1 0 ([2, (s.quality : Int), s.epoch] ++ modes ++ [(id : Int), orig, s.hbFlags]) s
    s.modNet fun x => { x with lastHb := s.up, hbOut := true, returns := if x.hbOut then 0 else x.returns }

/-- HEARTBEAT_TX (R34). -/
def execHeartbeatTx (t : Nat) (s : State) : Host.Outcome State Fault Refusal := .next (heartbeatTx (s.reach t))

/-- The tests of a received line frame but for the source: the segment identifier, then the version (R33, R35). -/
def lineTests (h : LineHdr) (f : State → State) (s : State) : State :=
  if h.seg ≠ s.fld NET_SEG NET_SEG_SEG_ID then s
  else if 2 < h.ver then s.count NET_FRAME_CNT NET_FRAME_CNT_VER_DROP
  else f s

/-- A line frame of a type other than a heartbeat, received on a port; a second copy is discarded (R29). -/
def lineFrame (n : Fin 2) (ty : Nat) (h : LineHdr) (f : State → State) (s : State) : State :=
  if s.netTakes n && !s.isCopy n h.src ty h.seq then lineTests h f s else s

/-- The source tests of R36: its last heartbeat within 3 of its intervals and with this device's epoch. -/
def State.sourceOk (s : State) (src : Nat) : Bool :=
  match s.net.sources.find? (fun x => x.dev == src) with
  | some x => x.epoch == s.epoch && decide (s.up ≤ x.heardAt + 3 * x.interval)
  | none => false

/-- Whether the last frame of a source was accepted, remembered for the record of the first refusal (R36). -/
def noteAccepted (src : Nat) (ok : Bool) (s : State) : State :=
  s.modNet fun x => { x with sources := x.sources.map fun y => if y.dev == src then { y with accepted := ok } else y }

/-- A frame of a source is accepted or refused under R36; the first refusal after an acceptance writes a warning
record. -/
def sourceTests (src : Nat) (f : State → State) (s : State) : State :=
  if s.sourceOk src then f (noteAccepted src true s)
  else
    let was := s.net.sources.any fun x => x.dev == src && x.accepted
    let s := noteAccepted src false (s.count NET_FRAME_CNT NET_FRAME_CNT_EPOCH_DROP)
    if was then record .frameRefused 1 4 0 [src] s else s

/-- The block of the ring keeper opens or closes (R29). -/
def setBlockOpen (open_ : Bool) (s : State) : State :=
  let one (s : State) (n : Fin 2) : State :=
    if s.bit (NET_PORT_CTRL n) NET_PORT_CTRL_BLOCK then s.setBit (NET_PORT_STAT n) NET_PORT_STAT_BLOCK_OPEN open_ else s
  one (one s 0) 1

/-- The block is open on some port. -/
def State.blockOpen (s : State) : Bool :=
  s.bit (NET_PORT_STAT 0) NET_PORT_STAT_BLOCK_OPEN || s.bit (NET_PORT_STAT 1) NET_PORT_STAT_BLOCK_OPEN

/-- One of the ports has BLOCK: the device is the ring keeper (R29). -/
def State.keeper (s : State) : Bool :=
  s.bit (NET_PORT_CTRL 0) NET_PORT_CTRL_BLOCK || s.bit (NET_PORT_CTRL 1) NET_PORT_CTRL_BLOCK

/-- A heartbeat of the device's own returned (R29): after 3 in a row an open block closes. Of the two copies of one heartbeat
the first counts. -/
def heartbeatReturned (s : State) : State :=
  let s := s.modNet fun x => { x with lastReturn := s.up, returns := if x.hbOut then x.returns + 1 else x.returns, hbOut := false }
  if s.blockOpen ∧ 3 ≤ s.net.returns then record .ringKeeper 0 4 0 [0] (setBlockOpen false s) else s

/-- A source's own heartbeat interval in ns, from this heartbeat and the one heard before: the time between their transmissions
over the steps of the sequence number, within the 1 to 100 ms of R34; kept where the sequence gives none, as for a second copy
(DEDUCED, log). -/
def HbSource.next (x : HbSource) (h : LineHdr) : Nat :=
  let d := (h.seq + 65536 - x.seq) % 65536
  if d = 0 ∨ 32768 ≤ d ∨ h.time ≤ x.txTime then x.interval
  else min 100000000 (max 1000000 ((h.time - x.txTime) / d))

/-- A heartbeat of another device refreshes its acceptance and the version set (R34–R36). A version 1 frame carries
zeros in the fields of version 2. -/
def heartbeatFrom (h : LineHdr) (b : Heartbeat) (s : State) : State :=
  let old := s.net.sources.find? fun x => x.dev == h.src
  let ivl := match old with
    | some x => x.next h
    | none => s.hbNs
  let acc := match old with | some x => x.accepted | none => false
  let y : HbSource := ⟨h.src, h.seq, s.up, ivl, h.ver, b.maxVer, b.quality, b.epoch,
    if h.ver = 1 then b.modes.take 1 else b.modes, b.reqId, b.orig, b.flags, h.time, acc⟩
  followVersion (s.modNet fun x => { x with sources := y :: x.sources.filter fun z => z.dev != h.src })

/-- HEARTBEAT_RECEIVE (R36). -/
def heartbeatReceive (n : Fin 2) (h : LineHdr) (b : Heartbeat) (s : State) : State :=
  if !s.netPortUp n || s.isCopy n h.src 1 h.seq then s
  else lineTests h (fun s =>
    if h.src = s.fld NET_SEG NET_SEG_DEVNUM then heartbeatReturned s else heartbeatFrom h b s) s

def execHeartbeatReceive (t : Nat) (n : Fin 2) (h : LineHdr) (b : Heartbeat) (s : State) :
    Host.Outcome State Fault Refusal :=
  .next (heartbeatReceive n h b (s.reach t))

/-- HEARTBEAT_TIMEOUT (R36): a source not heard within 3 of its intervals has lost acceptance, which `State.sourceOk` reads
from the instant it was last heard; the version in use follows (R35). -/
def heartbeatTimeout (src : Nat) (s : State) : State :=
  if s.net.sources.any fun x => x.dev == src && decide (x.heardAt + 3 * x.interval < s.up) then followVersion s else s

def execHeartbeatTimeout (t : Nat) (src : Nat) (s : State) : Host.Outcome State Fault Refusal :=
  .next (heartbeatTimeout src (s.reach t))

/-- RING_KEEPER_OPEN (R29): none of the keeper's heartbeats returned for 3 intervals. -/
def ringKeeperOpen (s : State) : State :=
  if s.keeper ∧ !s.blockOpen ∧ s.net.lastReturn + 3 * s.hbNs ≤ s.up then
    record .ringKeeper 1 4 0 [1] (setBlockOpen true (s.modNet fun x => { x with returns := 0 }))
  else s

def execRingKeeperOpen (t : Nat) (s : State) : Host.Outcome State Fault Refusal := .next (ringKeeperOpen (s.reach t))

/-- The parent is lost when its port no longer serves. -/
def linkParent (n : Fin 2) (s : State) : State :=
  match s.net.parent with
  | some (_, p) => if p = n.1 then followParent (s.modNet fun x => { x with parent := none, lastAnnounce := none }) else s
  | none => s

/-- NETWORK_LINK_CHANGE (R319): a return within 1 s is a transient with its info record. A retired port stays
down. -/
def linkChange (n : Fin 2) (up : Bool) (s : State) : State :=
  if s.net.retired[n] then s
  else if up then
    let quick : Bool := (s.net.downAt[n]).any fun d => decide (s.up ≤ d + 1000000000)
    let s := (s.setBit (NET_PORT_STAT n) NET_PORT_STAT_LINK true).modNet fun x => { x with downAt := x.downAt.set n.1 none }
    if quick = true then record .linkTransient 0 6 n [] s.transient else s
  else
    (s.setBit (NET_PORT_STAT n) NET_PORT_STAT_LINK false).modNet fun x =>
      { x with downAt := x.downAt.set n.1 (some s.up) }

def execNetworkLinkChange (t : Nat) (n : Fin 2) (up : Bool) (s : State) : Host.Outcome State Fault Refusal :=
  .next (linkChange n up (s.reach t))

/-- NET_PORT_SELF_TEST_FAIL (R319): the third failure within 10 s retires the port, with one warning record and one
count; an earlier one leaves an info record. -/
def selfTestFail (n : Fin 2) (s : State) : State :=
  if s.net.retired[n] then s
  else
    let l := (s.up :: s.net.selfTest[n]).filter fun x => decide (s.up ≤ x + 10000000000)
    let s := s.modNet fun x => { x with selfTest := x.selfTest.set n.1 l }
    if 3 ≤ l.length then
      let s := s.modNet fun x => { x with retired := x.retired.set n.1 true }
      let s := s.setBit (NET_PORT_STAT n) NET_PORT_STAT_LINK false
      linkParent n (record .netRetired 1 6 n [] (s.count GLB_RET_CNT2 GLB_RET_CNT2_NET_PORTS))
    else record .netSelfTest 0 6 n [l.length] s.transient

def execNetPortSelfTestFail (t : Nat) (n : Fin 2) (s : State) : Host.Outcome State Fault Refusal :=
  .next (selfTestFail n (s.reach t))

/-! ## Virtual masters (R37–R40) -/

/-- The interval of a channel in ns (NET_VM_CFG.IVL, NET_PUB_CFG.IVL). -/
def ivlNs : Nat → Nat
  | 0 => 125000 | 1 => 250000 | 2 => 500000 | 3 => 1000000 | _ => 2000000

/-- The interval of a virtual master in ns. -/
def State.vmIvl (s : State) (v : Fin 8) : Nat := ivlNs (s.fld (NET_VM_CFG v) NET_VM_CFG_IVL)

/-- VM_STALE to every cabinet: the virtual master, the new value of STALE and t2 (R40). -/
def raiseStale (v : Fin 8) (stale : Bool) (s : State) : State :=
  let t2 := match (s.vm v).samples with | x :: _ => x.1 | [] => 0
  raiseDevice 0x0501 (if stale then 1 else 0) s.now [v.1, if stale then 1 else 0, t2] s

/-- The tests an entry bound to an enabled virtual master must pass (R38). -/
def State.entryOk (s : State) (v : Fin 8) (e : VmEntry) : Bool :=
  let m := s.vm v
  let d := (e.seq + 65536 - m.lastSeq) % 65536
  let later := match m.samples with | x :: _ => decide (x.1 < e.time) | [] => true
  e.valid && (e.restart || m.samples.isEmpty || (0 < d && d < 32768)) && later &&
    decide (e.time ≤ s.now + s.vmIvl v)

/-- The last instant at which a virtual master is fresh: t2 + 3 × interval (R40). -/
def VMaster.freshTo (m : VMaster) (ivl : Nat) : Option Nat :=
  match m.samples with
  | x :: _ => some (x.1 + 3 * ivl)
  | [] => none

def State.vmFreshTo (s : State) (v : Fin 8) : Option Nat := (s.vm v).freshTo (s.vmIvl v)

/-- A virtual master is or is evaluated past its last fresh instant: STALE is set, with its event (R40). -/
def staleAt (v : Fin 8) (t : Nat) (s : State) : State :=
  match s.vmFreshTo v with
  | some ts =>
    if s.bit (NET_VM_CFG v) NET_VM_CFG_EN ∧ !s.bit (NET_VM_STAT v) NET_VM_STAT_STALE ∧ ts < t then
      raiseStale v true (s.setBit (NET_VM_STAT v) NET_VM_STAT_STALE true)
    else s
  | none => s

/-- Exact position and velocity of a virtual master at an instant, from its held samples (R39): order 0, 1 or 2 by
the samples held. -/
def vmEval (samples : List (Nat × Int)) (t : Rat) : Rat × Rat :=
  match samples with
  | [] => (0, 0)
  | [(_, p0)] => ((p0 : Rat), 0)
  | [(t2, p2), (t1, p1)] =>
    let d1 : Rat := ((p2 : Rat) - p1) / ((t2 : Rat) - t1)
    (p2 + d1 * (t - t2), d1)
  | (t2, p2) :: (t1, p1) :: (t0, p0) :: _ =>
    let d1 : Rat := ((p2 : Rat) - p1) / ((t2 : Rat) - t1)
    let d2 : Rat := (d1 - ((p1 : Rat) - p0) / ((t1 : Rat) - t0)) / ((t2 : Rat) - t0)
    (p2 + d1 * (t - t2) + d2 * (t - t2) * (t - t1), d1 + d2 * (2 * t - t2 - t1))

/-- The line on which a virtual master coasts: t_s, and the exact position and velocity there (R40); none without a sample. -/
def coastLine (m : VMaster) (ivl : Nat) : Option (Nat × Rat × Rat) :=
  (m.freshTo ivl).map fun ts => (ts, (vmEval m.samples ts).1, (vmEval m.samples ts).2)

/-- An accepted sample updates its virtual master, which is fresh again (R38–R40). A master that line time has carried past its
last fresh instant has been stale. -/
def acceptSample (v : Fin 8) (e : VmEntry) (tq : Nat) (s : State) : State :=
  let s := staleAt v s.now s
  let m := s.vm v
  let stale := s.bit (NET_VM_STAT v) NET_VM_STAT_STALE
  let again := e.restart || stale
  let fresh := if again then 1 else min (m.fresh + 1) 3
  let line := coastLine m (s.vmIvl v)
  let s := s.modVm v fun m =>
    { samples := ((e.time, e.pos) :: (if again then [] else m.samples)).take 3, fresh := fresh, lastSeq := e.seq,
      stales := if stale then m.stales + 1 else m.stales, coast := if stale then line else m.coast }
  let a := NET_VM_STAT v
  let s := ((s.setFld a NET_VM_STAT_LAST_SEQ e.seq).setFld a NET_VM_STAT_SRC_TQ tq).setBit a NET_VM_STAT_ORDER2 (fresh = 3)
  if stale then raiseStale v false (s.setBit a NET_VM_STAT_STALE false) else s

/-- One entry of a virtual-master frame meets the virtual masters it is bound to (R38). -/
def vmEntry (h : LineHdr) (e : VmEntry) (s : State) : State :=
  (List.range 8).foldl (fun s n =>
    let v : Fin 8 := Fin.ofNat 8 n
    let c := NET_VM_CFG v
    if s.bit c NET_VM_CFG_EN ∧ s.fld c NET_VM_CFG_SRC = h.src ∧ s.fld c NET_VM_CFG_CHAN = e.chan then
      if s.entryOk v e then acceptSample v e (if h.ver = 1 then 0 else e.tq) s
      else s.count NET_SAMPLE_CNT NET_SAMPLE_CNT_REJECT
    else s) s

/-- VM_SAMPLES_RECEIVE (R38). -/
def execVmSamplesReceive (t : Nat) (n : Fin 2) (h : LineHdr) (es : List VmEntry) (s : State) :
    Host.Outcome State Fault Refusal :=
  .next (lineFrame n 2 h (sourceTests h.src fun s => es.foldl (fun s e => vmEntry h e s) s) (s.reach t))

/-- VM_STALE (R40): the virtual master has passed its last fresh instant and coasts. -/
def vmStale (v : Fin 8) (s : State) : State := staleAt v s.now s

def execVmStale (t : Nat) (v : Fin 8) (s : State) : Host.Outcome State Fault Refusal := .next (vmStale v (s.reach t))

/-- The value of a virtual master for an instant: extrapolated while fresh, on the coasting line while stale; exact
position and velocity in ticks per ns, and whether it is stale (R39, R40). -/
def VMaster.valueAt (m : VMaster) (ivl t : Nat) : Rat × Rat × Bool :=
  match m.freshTo ivl with
  | none => (0, 0, true)
  | some ts =>
    let l := m.samples
    if t ≤ ts then
      let (p, w) := vmEval l t
      (p, w, false)
    else
      let (p, w) := vmEval l ts
      (p + w * ((t : Rat) - ts), w, true)

/-- A velocity in ticks per ns as it is reported: ticks per ms, rounded half away from zero to Q32.16 (R39). -/
def reportedVel (w : Rat) : Int := roundHalfAway (w * 1000000 * 65536)

/-! ## Mode changes (R42–R47) -/

/-- Why a tile does not acknowledge, 0 where it does: 1 not running, 2 busy, 3 time quality (R44). -/
def State.tileReason (s : State) (t : Fin 4) : Nat :=
  let run := s.bit GLB_HEDGE_STAT (GLB_HEDGE_STAT_RUN t) && !s.bit GLB_HEDGE_STAT (GLB_HEDGE_STAT_XING_FAULT t)
  if !run then 1
  else if (s.tile t).mode.isSome then 2
  else if s.quality = 0 ∨ (s.quality = 1 ∧ !s.bit LT_STAT LT_STAT_HOLD_LIMIT) then 0 else 3

/-- A tile takes part in a request (R44, LT_TILE_MODE). -/
def holdMode (id mode lc : Nat) (t : Fin 4) (s : State) : State :=
  let s := s.modTile t fun x => { x with mode := some ⟨mode, lc, false⟩ }
  (s.setFld (LT_TILE_MODE t) LT_TILE_MODE_REQ_ID id).setFld (LT_TILE_MODE t) LT_TILE_MODE_PENDING mode

/-- A tile is free of its request again. -/
def freeMode (t : Fin 4) (s : State) : State :=
  let s := s.modTile t fun x => { x with mode := none }
  (s.setFld (LT_TILE_MODE t) LT_TILE_MODE_REQ_ID 0).setFld (LT_TILE_MODE t) LT_TILE_MODE_PENDING 0

/-- A tile receives a commit decision (R46). -/
def commitMode (t : Fin 4) (s : State) : State :=
  s.modTile t fun x => { x with mode := x.mode.map fun m => { m with committed := true } }

/-- The tiles of a scope: the mask for scope 0, all four otherwise (R42). -/
def scopeTiles (scope mask : Nat) : List (Fin 4) :=
  if scope = 0 then allTiles.filter fun t => mask.testBit t.1 else allTiles

/-- The units that must acknowledge: tiles for a local scope, devices of NET_MEMBER and itself for the line (R42,
R45). -/
def State.units (s : State) (r : OwnRequest) : List Nat :=
  if r.scope = 2 then (List.range 64).filter fun d => s.member d || d == s.fld NET_SEG NET_SEG_DEVNUM
  else (scopeTiles r.scope r.mask).map fun t => t.1

/-- Every unit in scope has acknowledged. -/
def State.allAcked (s : State) (r : OwnRequest) : Bool := (s.units r).all fun u => r.acks.contains u

/-- The tiles that hold an own request: those that acknowledged, in a line scope all of a device that did (R44, R47). -/
def State.heldTiles (s : State) (r : OwnRequest) : List (Fin 4) :=
  let own : Bool := r.acks.contains (s.fld NET_SEG NET_SEG_DEVNUM)
  (scopeTiles r.scope r.mask).filter fun t =>
    (if r.scope = 2 then own else r.acks.contains t.1) && s.fld (LT_TILE_MODE t) LT_TILE_MODE_REQ_ID == r.id

/-- The mode decision frame (R43). -/
def decisionFrame (r : OwnRequest) (s : State) : State :=
  let s := followVersion s
  let rep := if s.fld NET_LF_VER NET_LF_VER_USED = 2 then r.repeats else 0
  sendLine 5 0 [(r.id : Int), s.fld NET_SEG NET_SEG_DEVNUM, if r.decision = some true then 1 else 2, rep, r.lc] s

/-- The originator decides: its own tiles receive the decision, and for a line scope the frame goes out (R45,
R46). -/
def decideOwn (commit : Bool) (s : State) : State :=
  match s.net.own with
  | none => s
  | some r =>
    if r.decision.isSome then s
    else
      let r := { r with decision := some commit, lastTx := s.now }
      let s := s.modNet fun x => { x with own := some r }
      let mine := s.heldTiles r
      let s := mine.foldl (fun s t => if commit then commitMode t s else freeMode t s) s
      if r.scope = 2 then decisionFrame r s else s

/-- The last acknowledgement decides where AUTO is set or the commit was asked (R45). -/
def tryCommit (s : State) : State :=
  match s.net.own with
  | some r => if r.decision.isNone ∧ s.allAcked r ∧ (r.auto ∨ r.asked) then decideOwn true s else s
  | none => s

/-- The slowest period of a scope in ns. -/
def State.slowest (s : State) (l : List (Fin 4)) : Nat := (l.map s.period).foldl max 0

/-- The payload of a MODE_PREPARE breaks R43. -/
def prepareBad (p : Payload) : Bool :=
  pay16 p 0 == 0 || decide (2 < payByte p 2) || decide (16 ≤ payByte p 3) ||
  (payByte p 2 == 0 && payByte p 3 == 0) || (payByte p 2 != 0 && payByte p 3 != 0) || decide (2 ≤ payByte p 5) ||
  !payZero p 6 8 || !payZero p 24 48

/-- The instants of a request obey the table of R42. -/
def instantsOk (scope slow now lc ld : Nat) : Bool :=
  (if scope = 2 then decide (now + 1000000 ≤ ld) && decide (ld + 500000 ≤ lc)
   else decide (now + 100000 ≤ ld) && decide (ld + slow ≤ lc)) && decide (lc ≤ now + 60000000000)

/-- The tiles of the originator acknowledge at acceptance: tiles each for themselves in a local scope, the device as
one unit in a line scope (R44). Where its tiles refuse for different reasons the device's own reason is the highest code
(DESIGN CHOICE, log). -/
def ownAcks (r : OwnRequest) (s : State) : OwnRequest × State :=
  let ts := scopeTiles r.scope r.mask
  let good := ts.filter fun t => s.tileReason t = 0
  let bad := (ts.filter fun t => s.tileReason t ≠ 0).map fun t => (t.1, s.tileReason t)
  if r.scope = 2 then
    let d := s.fld NET_SEG NET_SEG_DEVNUM
    if bad = [] then ({ r with acks := [d] }, ts.foldl (fun s t => holdMode r.id r.mode r.lc t s) s)
    else ({ r with refusals := [(d, (bad.map fun x => x.2).foldl max 0)] }, s)
  else ({ r with acks := good.map fun t => t.1, refusals := bad }, good.foldl (fun s t => holdMode r.id r.mode r.lc t s) s)

/-- MODE_PREPARE as it is accepted (R42–R45). The instants are measured from its acceptance. DESIGN CHOICE (log): of several
conditions broken, REFUSED_VALUE comes before REFUSED_OWNER and that before REFUSED; and a decided request whose outcome is
still to come is pending. -/
def landModePrepare (d : Desc) (s : State) : State :=
  let p := d.payload
  let scope := payByte p 2
  let mask := payByte p 3
  let lc := pay64 p 8
  let ld := pay64 p 16
  let ts := scopeTiles scope mask
  if prepareBad p then complete d stREFUSED_VALUE 0 s.now s
  else if ts.any fun t => s.ownerTile t != d.cab then complete d stREFUSED_OWNER 0 s.now s
  else if payByte p 4 = 255 ∨ s.net.own.isSome ∨ !instantsOk scope (s.slowest ts) d.accept lc ld then
    complete d stREFUSED 0 s.now s
  else
    let r : OwnRequest := ⟨d.cab, d.tag, pay16 p 0, scope, mask, payByte p 4, payBit p 5 0, lc, ld, [], [], none, false,
      false, 0, 0⟩
    let (r, s) := ownAcks r s
    let s := s.modNet fun x => { x with own := some r, undecided := false }
    let s := if scope = 2 then sendLine 3 0 [(r.id : Int), s.fld NET_SEG NET_SEG_DEVNUM, r.mode, r.lc, r.ld] s else s
    tryCommit (complete d stACCEPTED 0 s.now s)

/-- MODE_PREPARE (R42). -/
def execModePrepare (d : Desc) (s : State) : Host.Outcome State Fault Refusal := .next (submit d (landModePrepare d) s)

/-- MODE_COMMIT as it is accepted (R43, R45). A request of another cabinet is not decided (R226): REFUSED_OWNER (DEDUCED, log). -/
def landModeCommit (d : Desc) (s : State) : State :=
  let p := d.payload
  let id := pay16 p 0
  if decide (2 ≤ payByte p 2) || !payZero p 3 48 then complete d stREFUSED_VALUE 0 s.now s
  else
    match s.net.own with
    | some r =>
      if r.id = id then
        if r.decision.isSome then complete d stDECIDED 0 s.now s
        else if r.cab ≠ d.cab then complete d stREFUSED_OWNER 0 s.now s
        else
          let s := complete d stACCEPTED 0 s.now s
          if payBit p 2 0 then decideOwn false (s.modNet fun x => { x with own := some { r with hostAbort := true } })
          else if d.accept + 400000 ≤ r.lc then tryCommit (s.modNet fun x => { x with own := some { r with asked := true } })
          else s
      else if s.net.ownDone.contains id then complete d stDECIDED 0 s.now s
      else complete d stREFUSED_VALUE 0 s.now s
    | none =>
      if s.net.ownDone.contains id then complete d stDECIDED 0 s.now s else complete d stREFUSED_VALUE 0 s.now s

/-- MODE_COMMIT (R43). -/
def execModeCommit (d : Desc) (s : State) : Host.Outcome State Fault Refusal := .next (submit d (landModeCommit d) s)

/-- The host island takes the descriptor whose turn it is, of cabinet and ring, reserves its slot and makes its checks; one that fails
completes with the status, a NOP completes at once, a mode descriptor acts at its acceptance (R45), any other waits to be routed
(R233, R235, R248). -/
def acceptNext (c : Fin 4) (s : State) : State :=
  if s.turnCab ≠ some c then s
  else match s.turnRing c with
  | none => s
  | some n =>
    match (s.ring c n).fetched with
    | [] => s
    | r :: rest =>
      let d := s.descOf c n r
      let s := (s.modCab c fun x => { x with turn := n.1 + 1 }).modDev fun x => { x with turn := c.1 + 1 }
      let s := s.modRing c n fun x => { x with fetched := rest, img := [] }
      let s := s.setFld (HIF_RING_DEV c n) HIF_RING_DEV_IDX ((r.index + 1) % (2 * s.rSize c n))
      let chk := s.acceptCheck c n r d
      let s := openDesc d s
      let s := match chk with
        | some st => refuseHost d st s
        | none =>
          if d.opcode = 0 then landNop d s
          else if d.opcode = 0x20 then landModePrepare d s
          else if d.opcode = 0x21 then landModeCommit d s
          else s.modRing c n fun x => { x with toRoute := x.toRoute ++ [d] }
      followCredit c (issueImage c n s)

/-- DESCRIPTOR_ACCEPT (R233). -/
def execDescriptorAccept (t : Nat) (c : Fin 4) (s : State) : Host.Outcome State Fault Refusal :=
  .next (acceptNext c (s.reach t))

/-- The reason and the mask with which a device refuses a prepare, reason 0 where every tile acknowledges (R44). Where its tiles
refuse for different reasons it is that of the lowest tile (DESIGN CHOICE, log). -/
def State.deviceReason (s : State) (mode : Nat) : Nat × Nat :=
  if mode = 255 then (5, 15)
  else
    let rs := allTiles.map fun t => s.tileReason t
    ((rs.find? fun r => r != 0).getD 0, bitsOf (rs.map fun r => r != 0))

/-- MODE_PREPARE_FRAME (R43, R44). -/
def prepareFrame (id orig mode lc : Nat) (s : State) : State :=
  if !s.member orig ∨ orig = s.fld NET_SEG NET_SEG_DEVNUM ∨ s.net.peers.any fun p => p.id == id && p.orig == orig then s
  else
    let (reason, mask) := s.deviceReason mode
    let s := if reason = 0 then allTiles.foldl (fun s t => holdMode id mode lc t s) s else s
    let s := s.modNet fun x =>
      { x with
        peers := x.peers ++ (if reason = 0 then [⟨id, orig, mode, lc, true, false⟩] else [])
        undecided := if reason = 0 then false else x.undecided }
    sendLine 4 0 [(id : Int), orig, reason, mask] s

def execModePrepareFrame (t : Nat) (n : Fin 2) (h : LineHdr) (id orig mode lc _ld : Nat) (s : State) :
    Host.Outcome State Fault Refusal :=
  .next (lineFrame n 3 h (sourceTests h.src (prepareFrame id orig mode lc)) (s.reach t))

/-- An acknowledgement of a request of this device that is no longer the pending one came after its L_d (R44). -/
def lateAck (id : Nat) (s : State) : State :=
  if s.net.ownDone.contains id then s.count NET_SAMPLE_CNT NET_SAMPLE_CNT_LATE_ACK else s

/-- MODE_ACK_FRAME (R44, R45): an acknowledgement after L_d is ignored and counted. -/
def ackFrame (h : LineHdr) (id orig result : Nat) (s : State) : State :=
  if orig ≠ s.fld NET_SEG NET_SEG_DEVNUM then s
  else match s.net.own with
  | none => lateAck id s
  | some r =>
    if r.id ≠ id then lateAck id s
    else if r.scope ≠ 2 then s
    else if r.ld < s.now then s.count NET_SAMPLE_CNT NET_SAMPLE_CNT_LATE_ACK
    else if result = 0 then
      tryCommit (s.modNet fun x => { x with own := some { r with acks := h.src :: r.acks.filter (· != h.src) } })
    else s.modNet fun x => { x with own := some { r with refusals := (h.src, result) :: r.refusals } }

def execModeAckFrame (t : Nat) (n : Fin 2) (h : LineHdr) (id orig result : Nat) (s : State) :
    Host.Outcome State Fault Refusal :=
  .next (lineFrame n 4 h (sourceTests h.src (ackFrame h id orig result)) (s.reach t))

/-- A request of a peer is no longer held. -/
def dropPeer (id orig : Nat) (s : State) : State :=
  s.modNet fun x => { x with peers := x.peers.filter fun q => !(q.id == id && q.orig == orig) }

/-- An acknowledged request without a decision by L_c is not committed: its tiles are free, MODE_UNDECIDED is set and a warning
record written (R46). -/
def leaveUndecided (p : PeerRequest) (s : State) : State :=
  let s := (dropPeer p.id p.orig s).modNet fun x => { x with undecided := true }
  let s := allTiles.foldl (fun s t => freeMode t s) s
  record .modeUndecided 1 4 0 [p.id, p.orig, p.mode] s

/-- MODE_DECISION_FRAME (R45, R46): commit or abort reaches a device that acknowledged. A committed request stays held until its
tiles land it (R43); a decision after L_c comes too late. -/
def decisionReceive (id orig decision : Nat) (s : State) : State :=
  match s.net.peers.find? (fun p => p.id == id && p.orig == orig && !p.decided) with
  | none => s
  | some p =>
    if p.lc < s.now then leaveUndecided p s
    else if decision = 1 then
      allTiles.foldl (fun s t => commitMode t s) (s.modNet fun x =>
        { x with peers := x.peers.map fun q => if q.id == id && q.orig == orig then { q with decided := true } else q })
    else allTiles.foldl (fun s t => freeMode t s) (dropPeer id orig s)

def execModeDecisionFrame (t : Nat) (n : Fin 2) (h : LineHdr) (id orig decision : Nat) (s : State) :
    Host.Outcome State Fault Refusal :=
  .next (lineFrame n 5 h (sourceTests h.src (decisionReceive id orig decision)) (s.reach t))

/-- ACK_DEADLINE (R45): a unit is missing at L_d. -/
def execAckDeadline (t : Nat) (s : State) : Host.Outcome State Fault Refusal :=
  let s := s.reach t
  .next (match s.net.own with
    | some r => s.onlyIf (r.decision.isNone && decide (r.ld ≤ s.now) && !s.allAcked r) (decideOwn false)
    | none => s)

/-- COMMIT_DEADLINE (R45): no MODE_COMMIT by L_c − 400 µs. -/
def execCommitDeadline (t : Nat) (s : State) : Host.Outcome State Fault Refusal :=
  let s := s.reach t
  .next (match s.net.own with
    | some r => s.onlyIf (r.decision.isNone && !r.auto && decide (r.lc ≤ s.now + 400000)) (decideOwn false)
    | none => s)

/-- DECISION_REPEAT (R45): every 100 µs until L_c. -/
def decisionRepeat (s : State) : State :=
  match s.net.own with
  | some r =>
    if r.decision.isSome ∧ r.scope = 2 ∧ r.lastTx + 100000 ≤ s.now ∧ s.now ≤ r.lc then
      let r := { r with repeats := r.repeats + 1, lastTx := s.now }
      decisionFrame r (s.modNet fun x => { x with own := some r })
    else s
  | none => s

def execDecisionRepeat (t : Nat) (s : State) : Host.Outcome State Fault Refusal := .next (decisionRepeat (s.reach t))

/-- MODE_UNDECIDED (R46): an acknowledged request without a decision by L_c is not committed. -/
def modeUndecided (s : State) : State :=
  match s.net.peers.find? (fun p => !p.decided && decide (p.lc ≤ s.now)) with
  | none => s
  | some p => leaveUndecided p s

def execModeUndecided (t : Nat) (s : State) : Host.Outcome State Fault Refusal := .next (modeUndecided (s.reach t))

/-- A unit of a decided request reports the new mode; 0xFF is an absent tile in version 2 and MIXED in version 1 (R34, R46). -/
def State.reports (s : State) (r : OwnRequest) (u : Nat) : Bool :=
  if r.scope ≠ 2 ∨ u = s.fld NET_SEG NET_SEG_DEVNUM then
    (if r.scope = 2 then allTiles else [finTile u]).all fun t => s.tileMode t = r.mode
  else match s.net.sources.find? (fun x => x.dev == u) with
    | some x => decide (r.lc < x.txTime) && x.modes.all (fun m => m == r.mode || (m == 255 && x.ver == 2)) && !x.flags.testBit 2
    | none => false

/-- The outcome of a request may be raised: L_c plus the longest period, and for a line scope every device heard
after L_c or 300 ms past (R46). -/
def State.outcomeDue (s : State) (r : OwnRequest) : Bool :=
  let base := decide (r.lc + s.slowest (scopeTiles r.scope r.mask) ≤ s.now)
  let heard := (s.units r).all fun u => u = s.fld NET_SEG NET_SEG_DEVNUM ||
    s.net.sources.any fun x => x.dev == u && decide (r.lc < x.txTime)
  base && (r.scope ≠ 2 || heard || decide (r.lc + 300000000 ≤ s.now))

/-- MODE_OUTCOME (R46): the status, the bitmap of units that did not acknowledge or that are split, the refusal reasons, and 1
where the host asked the abort (the order is a DESIGN CHOICE, log). -/
def modeOutcome (s : State) : State :=
  match s.net.own with
  | none => s
  | some r =>
    if r.decision.isNone ∨ !s.outcomeDue r then s
    else
      let us := s.units r
      let bits (l : List Nat) : Nat := l.foldl (fun b u => b ||| 2 ^ u) 0
      let missing := us.filter fun u => !r.acks.contains u
      let split := us.filter fun u => !s.reports r u
      let (st, bm) : Nat × Nat :=
        if r.decision = some false then (stMODE_ABORTED, bits missing)
        else if split = [] then (stCOMMITTED, 0) else (stMODE_SPLIT, bits split)
      let why : Nat := (r.refusals.map fun x => x.2).foldl (fun (b x : Nat) => b * 8 + x) 0
      let s := s.modNet fun x => { x with own := none, ownDone := r.id :: x.ownDone }
      raiseEvent (finCab r.cab) ⟨0x0502, plainSev 0x0502, 4, 0, r.tag, s.now, [(st : Int), (bm : Int), (why : Int),
        if r.decision = some false ∧ r.hostAbort then 1 else 0]⟩ s

def execModeOutcome (t : Nat) (s : State) : Host.Outcome State Fault Refusal := .next (modeOutcome (s.reach t))

/-! ## Strobes (R13–R15) -/

/-- PERIOD_STROBE (R15): within 50 ns of the tile's own count FREEWHEEL clears; further off the tile realigns at the
next boundary and a warning record is written. `ofs` is the difference in ns. -/
def periodStrobe (t : Fin 4) (ofs : Int) (s : State) : State :=
  let s := s.modTile t fun x => { x with seen := true, strobe := true, missRun := 0, strobeFault := false }
  let s := s.setBit GLB_HEDGE_STAT (GLB_HEDGE_STAT_RUN t) true
  if ofs.natAbs ≤ 50 then s.setBit GLB_HEDGE_STAT (GLB_HEDGE_STAT_FREEWHEEL t) false
  else record .strobeRealign 1 2 t [toBits 32 ofs] (s.modTile t fun x => { x with realign := true })

def execPeriodStrobe (at_ : Nat) (t : Fin 4) (ofs : Int) (s : State) : Host.Outcome State Fault Refusal :=
  .next (periodStrobe t ofs (s.reach at_))

/-- STROBE_LOSS_FAULT (R15): 1,000 consecutive boundaries without a strobe. -/
def strobeLoss (t : Fin 4) (s : State) : State :=
  if 1000 ≤ (s.tile t).missRun ∧ !(s.tile t).strobeFault then
    raiseFaultAll 3 ⟨3, t⟩ (s.tile t).missRun (tileAxes t) (s.modTile t fun x => { x with strobeFault := true })
  else s

def execStrobeLossFault (t : Fin 4) (s : State) : Host.Outcome State Fault Refusal := .next (strobeLoss t s)

/-- PATH_DELAY_ECHO: the strobe's path delay, measured every 1 s (R13). -/
def execPathDelayEcho (at_ : Nat) (t : Fin 4) (ns : Nat) (s : State) : Host.Outcome State Fault Refusal :=
  .next ((s.reach at_).modTile t fun x => { x with pathDelay := ns })

end Sys2Proof.Machine
end

