-- ==== Sys2Proof/Machine/Gearing.lean ====
section
/-! DEFINITION. Electronic gearing (spec/04): master values, the gear law, engaging, armed changes and blends, the
limiter, lag, release, and coasting on a stale master. -/

namespace Sys2Proof.Machine

/-! ## Master values of encoders and virtual masters (R70, R82) -/

/-- A master value: rounded, whether it is fresh, whether the master has a value at all, how often it has come back from staleness
or lost its signal, and the exact value on the line on which it coasts or coasted last (R70, R82). -/
structure Master where
  m : Int
  fresh : Bool
  held : Bool
  gen : Nat
  coast : Option Rat
  deriving DecidableEq, Repr

/-- A master value that is always fresh (R71). -/
def Master.ofAxis (p : Int) : Master := ⟨p, true, true, 0, none⟩

/-- The line through the last two good counts of an encoder port (R82). -/
def coastCount (good : List (Nat × Int)) (x : Int) (t : Nat) : Rat :=
  match good with
  | (t1, x1) :: (t0, x0) :: _ => x1 + ((x1 - x0 : Int) : Rat) / ((t1 : Int) - t0 : Int) * ((t : Int) - t1 : Int)
  | (_, x1) :: _ => x1
  | [] => x

/-- The count of an encoder port for an instant: the extended count latched at it — at the last boundary, or now for the
boundary at which the period is evaluated — or, while the port reports a signal fault, the line through its last two
good counts, which are those at the boundaries of the tile (R70, R82; which counts are meant is a DESIGN CHOICE, log). -/
def State.encMaster (s : State) (a : Fin 32) (n : Fin 16) (t : Nat) : Master :=
  let y := s.tile (tileOf a)
  let x := if t ≤ s.axB a then y.encX[n] else (s.enc n).x
  let line := coastCount y.encGood[n] x t
  let good := s.bit (GLB_ENC_STAT n) GLB_ENC_STAT_SIG
  ⟨if good then x else roundHalfAway line, good, true, (s.enc n).losses, some line⟩

/-- The value of a virtual master for an instant: at a boundary from the samples held, at a sample instant from those held
when step 3 of the period began (R39, R40). One that has been disabled has no value until a sample: an axis still geared to it
keeps its latest master value (DESIGN CHOICE, log). -/
def State.vmMaster (s : State) (a : Fin 32) (v : Fin 8) (t : Nat) : Master :=
  let vm := if t ≤ s.axB a then s.vm v else (s.tile (tileOf a)).vms[v]
  if vm.samples.isEmpty then ⟨s.pairI (GR_MPOS_LO a), false, false, vm.stales, none⟩
  else
    let (p, _, stale) := vm.valueAt (s.vmIvl v) t
    ⟨roundHalfAway p, !stale, true, vm.stales, vm.coast.map fun l => l.2.1 + l.2.2 * ((t : Rat) - l.1)⟩

/-! ## The commanded position between boundaries -/

/-- The exact state of an axis at an instant since 1 ms: step following with the pulses accepted by `byT` (R88), a geared axis
on the line through its samples and beyond the last one, or the segments that were or are in force (R48). -/
def State.kinAt (s : State) (a : Fin 32) (t byT : Nat) : Kin :=
  let st := s.axState a
  let k : Kin :=
    if st = axSTEPFOLLOW ∧ (s.sf a).landAt ≤ t then
      let (p, v, _) := s.sfAt a t byT
      ⟨p, v, 0⟩
    else if st = axGEARED ∧ s.axB a ≤ t then
      let g := s.gear a
      let tau : Rat := ((t : Rat) - s.axB a) / 1000000
      ⟨g.pPrev + g.uPrev * tau, g.uPrev, g.acc⟩
    else planAt ((progress a t 24 s).prof a).plan t
  { k with p := wrapPos k.p }

/-- The rounded commanded position at an instant. -/
def State.posNow (s : State) (a : Fin 32) (t : Nat) : Int := roundHalfAway (s.kinAt a t (s.axB a)).p

/-! ## The gear law (R72, R78) -/

/-- The direction of an entry in master distance (R78). -/
def ArmEntry.sgn (e : ArmEntry) : Rat := if e.dir = 1 then -1 else 1

/-- The blend law at a master distance x: before the arm position, inside the span, and beyond it with the new ratio
(R78). -/
def BlendRun.at (b : BlendRun) (ro : Rat) (x : Rat) : Rat :=
  let e := b.entry
  let rn : Rat := (e.num : Rat) / e.den
  let w : Rat := e.blend
  let u := x / w
  if x < 0 then b.ga + ro * e.sgn * x
  else if w ≤ x then b.ga + e.sgn * (ro * w + (rn - ro) * w / 2) + e.dOfs + e.sgn * rn * (x - w)
  else b.ga + e.sgn * (ro * x + (rn - ro) * x * x / (2 * w)) + e.dOfs * (3 * u * u - 2 * u * u * u)

/-- The signed master distance x of a blend at a master value; the difference is a signed 64-bit value (R72, R78). -/
def BlendRun.dist (b : BlendRun) (m : Rat) : Rat := wrapPos (m - b.entry.a) * b.entry.sgn

/-- The exact gear position at a master value; m − m_ref is a signed 64-bit value (R72, R78). -/
def Gear.lawAt (g : Gear) (m : Rat) : Rat :=
  let ro : Rat := (g.law.num : Rat) / g.law.den
  match g.blend with
  | none => g.law.offset + g.law.num * wrapPos (m - g.law.mref) / g.law.den
  | some b => b.at ro (b.dist m)

/-- Where |m − m_ref| has reached 2^62 the law is rebased at m, which changes no position (R72). -/
def rebaseLaw (a : Fin 32) (m : Int) (s : State) : State :=
  s.modGear a fun g =>
    let d := wrapPos ((m - g.law.mref : Int) : Rat)
    if g.blend.isNone ∧ 2 ^ 62 ≤ ratAbs d then
      { g with law := { g.law with mref := m, offset := g.law.offset + g.law.num * d / g.law.den } }
    else g

/-- GR_NUM, GR_DEN and the source in force. -/
def showLaw (a : Fin 32) (s : State) : State :=
  let g := s.gear a
  let s := s.setFldI (GR_NUM a) GR_NUM_NUM g.law.num
  let s := s.setFld (GR_DEN a) GR_DEN_DEN g.law.den
  let st := GR_STAT a
  ((s.setFld st GR_STAT_SRC_KIND g.kind).setFld st GR_STAT_SRC_IDX g.idx).setBit st GR_STAT_BLENDING g.blend.isSome

/-- GR_STAT.QDEPTH. -/
def showArmed (a : Fin 32) (s : State) : State := s.setFld (GR_STAT a) GR_STAT_QDEPTH (s.gear a).queue.length

/-! ## Armed changes (R75–R78) -/

/-- The GEAR_ARM payload breaks R75. -/
def armBad (p : Payload) : Bool :=
  pay32 p 12 == 0 || decide (2 < payByte p 32) || (payByte p 32 == 2 && pay64 p 24 != 0) ||
  decide (2 ^ 47 < pay64 p 24) || decide (2 ≤ payByte p 33) || !payZero p 34 48

def armOf (d : Desc) : ArmEntry :=
  let p := d.payload
  { tag := d.tag, a := payI64 p 0, num := payI32 p 8, den := pay32 p 12, dOfs := payI64 p 16, blend := pay64 p 24,
    dir := payByte p 32, event := payBit p 33 0 }

/-- An arm position is not strictly ahead of the master, or lies in the span of the entry ahead or behind it (R75). A step
entry ahead has no span: an arm position equal to its own is accepted (DESIGN CHOICE, log). -/
def armRange (m : Int) (last : Option ArmEntry) (e : ArmEntry) : Bool :=
  (e.dir == 0 && decide (e.a ≤ m)) || (e.dir == 1 && decide (m ≤ e.a)) ||
  match last with
  | none => false
  | some h =>
    if h.dir = 0 then decide (e.a < h.a) || (h.blend != 0 && decide (e.a ≤ h.a + h.blend))
    else if h.dir = 1 then decide (h.a < e.a) || (h.blend != 0 && decide (h.a - h.blend ≤ e.a))
    else false

/-- The crossing test of R76 over the path from a master value to the next, the first included or not. -/
def crosses (dir : Nat) (x frm m : Int) (incl : Bool) : Bool :=
  let up := (decide (frm < x) || (incl && frm == x)) && decide (x ≤ m)
  let down := (decide (x < frm) || (incl && frm == x)) && decide (m ≤ x)
  match dir with
  | 0 => up
  | 1 => down
  | _ => up || down

/-- An entry is taken: counted, reported, and rebased as a step or started as a blend (R76–R78). -/
def takeEntry (a : Fin 32) (e : ArmEntry) (rest : List ArmEntry) (t : Nat) (s : State) : State :=
  let g := s.gear a
  let ga := g.lawAt e.a
  let s := s.modGear a fun x =>
    if e.blend = 0 then { x with queue := rest, law := ⟨e.num, e.den, e.a, ga + e.dOfs⟩ }
    else { x with queue := rest, blend := some ⟨e, ga⟩ }
  let s := axisEvent a 11 e.a (showLaw a (showArmed a (s.count (GR_CNT a) GR_CNT_TAKEN)))
  if e.event ∨ s.bit (GR_CFG a) GR_CFG_EV_TAKE then raiseAxis a 0x0203 0 e.tag s.now [stDONE, e.a, t] s else s

/-- A blend completes: the law is rebased at x = B (R78). -/
def completeBlend (a : Fin 32) (b : BlendRun) (t : Nat) (s : State) : State :=
  let g := s.gear a
  let e := b.entry
  let mref : Int := if e.dir = 1 then e.a - e.blend else e.a + e.blend
  let v := b.at ((g.law.num : Rat) / g.law.den) e.blend
  let s := showLaw a (s.modGear a fun x => { x with blend := none, law := ⟨e.num, e.den, mref, v⟩ })
  let s := axisEvent a 11 e.a s
  if e.event then raiseAxis a 0x0204 0 e.tag s.now [stDONE, e.a, t, mref] s else s

/-- A blend whose span the master has passed completes, on a coasting value too (R78). Answers the master position from which
the entries behind it are tested. -/
def blendOut (a : Fin 32) (m : Int) (t : Nat) (s : State) : State × Option Int :=
  match (s.gear a).blend with
  | some b =>
    if (b.entry.blend : Rat) ≤ b.dist m then
      (completeBlend a b t s, some (if b.entry.dir = 1 then b.entry.a - b.entry.blend else b.entry.a + b.entry.blend))
    else (s, none)
  | none => (s, none)

/-- Armed entries taken in path order within one sample; while a blend runs nothing is tested until it completes. Testing then
resumes at the end of its span, a + s × B, that position included (R76; where it resumes is a DESIGN CHOICE, log). -/
def takeEntries (a : Fin 32) (m : Int) (t : Nat) : Nat → Int → Bool → State → State
  | 0, _, _, s => s
  | n + 1, frm, incl, s =>
    let g := s.gear a
    match g.blend with
    | some _ =>
      match blendOut a m t s with
      | (s, some x) => takeEntries a m t n x true s
      | (s, none) => s
    | none =>
      match g.queue with
      | [] => s
      | e :: rest =>
        if crosses e.dir e.a frm m incl then takeEntries a m t n e.a true (takeEntry a e rest t s) else s

/-! ## Release (R81) -/

/-- A release lands, with gearing ending with the sample of the last boundary: from the exact slave state the axis goes on at
its velocity, ramps to rest under HALT, or stands (R81). `land` is the line time of the landing. -/
def release (a : Fin 32) (r : RelReq) (land : Nat) (s : State) : State :=
  let b := s.axB a
  let k := s.kinB a
  let l := (s.bankOf a).limits
  let c : Rat := if r.halt then 0 else k.v
  let s := (keepBase a s).modGear a fun x => { x with relPend := none }
  let s := leaveGear a (s.setBit (GR_STAT a) GR_STAT_REL_PEND false)
  let s := if k.v = 0 then
      (layPlan a b (restAt b k.p) (s.modProf a fun x => { x with stopKind := .none })).setAxState a axSTANDSTILL
    else
      let plan := planVelocity b k c (s.aEff a l) (q16 (s.dEff a l)) (q16 l.j)
      (layPlan a b plan (s.modProf a fun x => { x with lim := l, velTarget := c, stopKind := .none })).setAxState a
        axVELOCITY
  if r.event then raiseAxis a 0x0202 0 r.tag s.now [stDONE, land, roundHalfAway (k.v * 65536)] s else s

/-! ## The limiter and the lag (R79, R80) -/

/-- What a geared sample came to: the position, velocity, and whether it is locked (R79). -/
structure Limited where
  p : Int
  u : Rat
  locked : Bool
  deriving DecidableEq, Repr

def ratClamp (lo hi x : Rat) : Rat := if x < lo then lo else if hi < x then hi else x

/-- The limiter of R79. -/
def limiter (gN gPrev pPrev : Int) (uPrev tau c aLim v : Rat) : Limited :=
  let w := ((gN - gPrev : Int) : Rat) / tau
  let r := ((gN - pPrev : Int) : Rat) / tau
  let u := ratClamp (w - c) (w + c) r
  let u := ratClamp (uPrev - aLim * tau) (uPrev + aLim * tau) u
  let u := ratClamp (-v) v u
  if u = r then ⟨gN, r, true⟩
  else
    let un := q16 (roundHalfAway (u * 65536))
    ⟨pPrev + roundHalfAway (un * tau), un, false⟩

/-- A signed value held at ±(2^31 − 1) (GR_LAG, OB_LOAD). -/
def sat31 (x : Int) : Int := clampInt (-2147483647) 2147483647 x

/-- GEAR_LIMITED and GEAR_LOCKED on the edges, and the counters of a geared sample; a first sample that is limited counts as an edge
(R79; DESIGN CHOICE, log). -/
def noteLimited (a : Fin 32) (locked : Bool) (lag : Int) (t : Nat) (s : State) : State :=
  let g := s.gear a
  let ev := s.bit (GR_CFG a) GR_CFG_EV_LIMIT
  let st := GR_STAT a
  if locked then
    let s := s.setBit st GR_STAT_LIMITED false
    let s := if g.limited ∧ ev then raiseAxis a 0x0206 0 0 s.now [stDONE, t, g.lagMax] s else s
    s.modGear a fun x => { x with limited := false }
  else
    let s := (s.setBit st GR_STAT_LIMITED true).count (GR_CNT a) GR_CNT_LIMSAMP
    let s := if !g.limited ∧ ev then raiseAxis a 0x0205 0 0 s.now [stDONE, t, lag] s else s
    s.modGear a fun x =>
      { x with limited := true, lagMax := if x.limited then max x.lagMax lag.natAbs else lag.natAbs }

/-- The lag checks of R80: LAG_WARN on its edge, GR_LAG once for each excursion beyond GR_LAGMAX. -/
def lagChecks (a : Fin 32) (lag : Int) (t : Nat) (s : State) : State :=
  let n := lag.natAbs
  let st := GR_STAT a
  let s := (s.setFldI (GR_LAG a) GR_LAG_LAG (sat31 lag)).peak (GR_LAGPEAK a) GR_LAGPEAK_PEAK n
  let warn := decide (s.fld (GR_LAGWARN a) GR_LAGWARN_WARN < n)
  let s := if warn ∧ !s.bit st GR_STAT_LAG_WARN then raiseAxis a 0x0207 1 0 s.now [stDONE, t, lag] s else s
  let s := s.setBit st GR_STAT_LAG_WARN warn
  let far := decide (s.fld (GR_LAGMAX a) GR_LAGMAX_MAX < n)
  let was := (s.gear a).lagOver
  let s := s.modGear a fun x => { x with lagOver := far }
  if far ∧ !was then raiseFault 4 ⟨2, a⟩ (toBits 32 (sat31 lag)) a s else s

/-! ## One geared sample (R82, R83) -/

/-- Coasting begins or goes on at a sample (R82); a master without a value does not coast (R39). -/
def coastOn (a : Fin 32) (m : Master) (t : Nat) (s : State) : State :=
  if !m.held then s
  else
    let s := s.setBit (GR_STAT a) GR_STAT_COAST true
    s.modGear a fun x => { x with coastFrom := some (x.coastFrom.getD t) }

/-- The first fresh evaluation after the master was stale or lost its signal: RESYNC keeps g continuous and gives up the lost phase;
m_coast is exact, whether or not an evaluation was made while it coasted (R82). -/
def resync (a : Fin 32) (m : Master) (t : Nat) (s : State) : State :=
  let g := s.gear a
  let s := (s.setBit (GR_STAT a) GR_STAT_COAST false).modGear a fun x => { x with coastFrom := none, lost := false }
  match m.coast with
  | none => s
  | some c =>
    if s.bit (GR_CFG a) GR_CFG_RESYNC then
      let d := g.lawAt c - g.lawAt m.m
      let s := s.modGear a fun x =>
        match x.blend with
        | some b => { x with blend := some { b with ga := b.ga + d } }
        | none => { x with law := { x.law with offset := x.law.offset + d } }
      let s := record .resync 0 0 a [toBits 32 (roundHalfAway d)] s
      raiseAxis a 0x0208 0 0 s.now [stDONE, t, roundHalfAway d] s
    else s

/-- Steps 5 to 8 of R83: the gear position, the limiter, the lag checks and the soft-limit watch. The commanded position
between two samples is the line between them (DESIGN CHOICE, log). -/
def gearOutput (a : Fin 32) (m : Int) (t : Nat) (s : State) : State :=
  let s := rebaseLaw a m s
  let g := s.gear a
  let tau : Rat := (s.axT a : Rat) / 1000000
  let l := (s.bankOf a).limits
  let gN := roundHalfAway (g.lawAt m)
  let o := limiter gN g.gPrev g.pPrev g.uPrev tau (q16 (s.pair (GR_CATCHUP_LO a))) (s.aEff a l) (q16 (s.vEff a l))
  let k : Kin := ⟨o.p, o.u, (o.u - g.uPrev) / tau⟩
  let s := layPlan a (s.axB a) [⟨s.axB a, none, g.pPrev, ((o.p - g.pPrev : Int) : Rat) / tau, 0, 0, .cruise⟩] s
  let s := s.modGear a fun x => { x with gPrev := gN, pPrev := o.p, uPrev := o.u, acc := k.a, smpAt := t }
  let s := s.setPair (GR_MPOS_LO a) m
  let s := noteLimited a o.locked (gN - o.p) t s
  let s := lagChecks a (gN - o.p) t s
  softWatch a t k (showKin a { k with p := wrapPos k.p } s)

/-- A pending release of condition 1 whose path passes the crossing test (R81). -/
def State.releaseDue (s : State) (a : Fin 32) (frm m : Int) : Option RelReq :=
  match (s.gear a).relPend with
  | some r => if r.cond = 1 ∧ crosses (if r.neg then 1 else 0) r.value frm m false then some r else none
  | none => none

/-- A geared sample in the order of R83. On coasting values the crossing tests are suspended (R82); at the first
fresh value they run over the path from the last fresh one. -/
def gearSample (a : Fin 32) (t : Nat) (frm : Int) (incl : Bool) (m : Master) (s : State) : State :=
  if !m.fresh then gearOutput a m.m t (blendOut a m.m t (coastOn a m t s)).1
  else
    let g := s.gear a
    let s := if g.coastFrom.isSome ∨ m.gen ≠ g.seen then resync a m t s else s
    let s := takeEntries a m.m t 40 frm incl s
    let due := s.releaseDue a frm m.m
    let s := s.modGear a fun x => { x with mFresh := m.m, seen := m.gen }
    match due with
    | some r => sampleProfile a t (release a r t s)
    | none => gearOutput a m.m t s

/-! ## Engaging (R74) -/

/-- An engagement lands: the law, its first sample from the commanded position, the state GEARED, and the event where
EVENT is set (R74, R79). The axis counts as locked before its first sample, so that a first sample that is limited raises
GEAR_LIMITED, and `gen` says how often the master came back so far (DESIGN CHOICE, log). -/
def engage (a : Fin 32) (r : EngReq) (mref offset m : Int) (gen t : Nat) (s : State) : State :=
  let p := s.posB a
  let s := (keepBase a s).modGear a fun x =>
    { x with
      engPend := none, kind := r.kind, idx := r.idx, law := ⟨r.num, r.den, mref, offset⟩, blend := none, mFresh := m
      gPrev := p, pPrev := p, uPrev := 0, acc := 0, smpAt := s.axB a, limited := false, lagMax := 0
      lagOver := false, coastFrom := none, lost := false, seen := gen }
  let st := GR_STAT a
  let s := ((s.setBit st GR_STAT_ENG_PEND false).setBit st GR_STAT_ENGAGED true).setBit st GR_STAT_COAST false
  let s := (s.modProf a fun x => { x with softDir := none }).setBit (MP_STAT a) MP_STAT_AT_SOFT false
  let s := showLaw a (s.setAxState a axGEARED)
  if r.event then gearEngaged a r.tag stDONE t mref offset s else s

/-- A pending engagement of condition 1 is tested on the path of the master to its value m at a sample instant, and lands at the
sample whose path crosses: that sample is its first, and the axis is GEARED from the boundary of that instant (R74). -/
def pendingWith (a : Fin 32) (r : EngReq) (m : Master) (t : Nat) (s : State) : State :=
  if r.cond ≠ 1 ∨ !m.fresh then s
  else
    let frm := (s.gear a).mFresh
    if crosses (if r.neg then 1 else 0) r.value frm m.m false then
      let ofs := if r.ofsCur then s.posB a else r.offset
      gearSample a t r.value true m (engage a r (if r.refCur then r.value else r.mref) ofs r.value m.gen t s)
    else s.modGear a fun x => { x with mFresh := m.m }

/-! ## The value of any master (R70, R71) -/

/-- The value of an encoder or a virtual master for an instant (R70). -/
def State.outerMaster (s : State) (a : Fin 32) (kind idx t : Nat) : Master :=
  if kind = 0 then s.encMaster a (Fin.ofNat 16 idx) t else s.vmMaster a (Fin.ofNat 8 idx) t

/-- The commanded position of an axis at an instant, rounded: the sample of a geared axis, or the first one of a pending engagement
that lands at it, which is formed first where the tile of the axis has not evaluated it yet, so that a chain is evaluated in
dependency order; otherwise the exact evaluation (R41, R70, R71). `byT` is the boundary of the axis that follows it. The fuel is
the depth of the chain. -/
def State.posAt (s : State) : Nat → Fin 32 → Nat → Nat → Int
  | 0, a, _, _ => (s.gear a).pPrev
  | n + 1, a, t, byT =>
    let g := s.gear a
    let source (kind idx : Nat) : Master :=
      if kind = 2 then Master.ofAxis (s.posAt n (finAx idx) t (s.axB a)) else s.outerMaster a kind idx t
    if s.axState a = axGEARED then
      if t ≤ g.smpAt then roundHalfAway (wrapPos g.pPrev)
      else (gearSample a t g.mFresh false (source g.kind g.idx) s).pairI (MP_CMD_POS_LO a)
    else
      let x := match g.engPend with
        | some r => if s.axB a < t then pendingWith a r (source r.kind r.idx) t s else s
        | none => s
      if x.axState a = axGEARED then x.pairI (MP_CMD_POS_LO a) else roundHalfAway (s.kinAt a t byT).p

/-- The master value of a source for an instant (R70). -/
def State.masterAt (s : State) (a : Fin 32) (kind idx t : Nat) : Master :=
  if kind = 2 then Master.ofAxis (s.posAt 5 (finAx idx) t (s.axB a)) else s.outerMaster a kind idx t

/-! ## Engaging (R73, R74) -/

/-- An engagement of condition 0 or 2 lands at the last boundary (R74). -/
def engageAtBoundary (a : Fin 32) (r : EngReq) (s : State) : State :=
  let b := s.axB a
  let x := s.masterAt a r.kind r.idx b
  engage a r (if r.refCur then x.m else r.mref) (if r.ofsCur then s.posB a else r.offset) x.m x.gen b s

/-- The axis whose commanded position an axis follows or is about to follow (R71). -/
def State.masterOf (s : State) (a : Fin 32) : Option (Fin 32) :=
  let g := s.gear a
  match g.engPend with
  | some r => if r.kind = 2 then some (finAx r.idx) else none
  | none => if s.axState a = axGEARED ∧ g.kind = 2 then some (finAx g.idx) else none

/-- The axes from an axis up to the head of its chain, at most `n` counted (R71). -/
def State.chainUp (s : State) : Nat → Fin 32 → Nat
  | 0, _ => 0
  | n + 1, a => match s.masterOf a with
    | some m => 1 + s.chainUp n m
    | none => 1

/-- The longest chain of axes that follow an axis, at most `n` counted (R71). -/
def State.chainDown (s : State) : Nat → Fin 32 → Nat
  | 0, _ => 0
  | n + 1, a => ((allAxes.filter fun x => s.masterOf x = some a).map fun x => 1 + s.chainDown n x).foldl max 0

/-- Engaging an axis to a local axis would make a cycle, a chain deeper than 4, or a GEARED master on another period (R71). A
pending engagement counts as the link that it will be, and its axis as GEARED (DESIGN CHOICE, log). -/
def State.chainBad (s : State) (a m : Fin 32) : Bool :=
  let up := s.chainUp 33 m
  let down := s.chainDown 5 a
  let through := (List.range 33).foldl (fun (x : Option (Fin 32)) _ =>
    match x with | some y => if y = a then some a else s.masterOf y | none => none) (some m)
  through == some a || decide (4 < 1 + up + down) ||
  ((s.axState m == axGEARED || (s.gear m).engPend.isSome) && s.axT m != s.axT a) ||
  allAxes.any fun x => s.masterOf x == some a && s.axT x != s.axT a

/-- The GEAR_ENGAGE payload breaks R73. -/
def State.engageBad (s : State) (a : Fin 32) (p : Payload) : Bool :=
  let kind := payByte p 0
  let idx := payByte p 1
  decide (2 < kind) || decide (2 < payByte p 2) || decide (16 ≤ payByte p 3) || pay32 p 8 == 0 || !payZero p 36 48 ||
  (match kind with
   | 0 => decide (16 ≤ idx)
   | 1 => decide (8 ≤ idx) || !s.bit (NET_VM_CFG idx) NET_VM_CFG_EN
   | _ => decide (32 ≤ idx) || s.chainBad a (finAx idx))

/-- The engagement that a payload asks for (R73). -/
def engReqOf (d : Desc) : EngReq :=
  let p := d.payload
  { tag := d.tag, kind := payByte p 0, idx := payByte p 1, cond := payByte p 2, ofsCur := payBit p 3 0,
    refCur := payBit p 3 1, neg := payBit p 3 2, event := payBit p 3 3, num := payI32 p 4, den := pay32 p 8,
    mref := payI64 p 12, offset := payI64 p 20, value := payI64 p 28 }

/-- An engagement waits for its condition, with the master value of the landing boundary as the first point of its
path (R74). -/
def pendEngage (a : Fin 32) (r : EngReq) (s : State) : State :=
  let m := (s.masterAt a r.kind r.idx (s.axB a)).m
  let s := s.modGear a fun x => { x with engPend := some r, mFresh := m, queue := [] }
  s.setBit (GR_STAT a) GR_STAT_ENG_PEND true

/-- A line-time instant, whose 64 bits are held as a signed value, lies at or before a boundary: line time is unsigned (R16,
R22). -/
def instantPassed (v : Int) (b : Nat) : Bool := decide (v % 18446744073709551616 ≤ b)

/-- GEAR_ENGAGE at its landing (R73, R74, R92, R93, R312). R73 does not say which refusal a descriptor gets that several apply
to; for GEAR_ENGAGE, GEAR_ARM and GEAR_RELEASE the order is VALUE, STATE, QUEUE_FULL, RANGE (DESIGN CHOICE, log). -/
def landGearEngage (d : Desc) (s : State) : State :=
  let a := finAx d.target
  let r := engReqOf d
  let l := s.landOf d
  let noValue := r.kind = 1 ∧ (s.vm (Fin.ofNat 8 r.idx)).samples = []
  let locked := s.bit (SF_IO_STAT a) SF_IO_STAT_LOCKP ∨ s.bit (SF_IO_STAT a) SF_IO_STAT_LOCKN
  if s.engageBad a d.payload then complete d stREFUSED_VALUE 0 l s
  else if s.axState a ≠ axSTANDSTILL ∨ (s.gear a).engPend.isSome ∨ s.homing a ∨ 3 ≤ s.rxOf a ∨ noValue then
    complete d stREFUSED_STATE 0 l s
  else if locked then complete d stREFUSED_RANGE 0 l s
  else if r.cond = 0 then complete d stSTARTED 0 l (engageAtBoundary a r s)
  else if r.cond = 2 ∧ instantPassed r.value (s.axB a) then
    complete d stARMED 0 l (engageAtBoundary a r (pendEngage a r s))
  else complete d stARMED 0 l (pendEngage a r s)

/-! ## GEAR_ARM and GEAR_RELEASE at their landing (R75, R81) -/

/-- GEAR_ARM at its landing (R75). -/
def landGearArm (d : Desc) (s : State) : State :=
  let a := finAx d.target
  let l := s.landOf d
  let g := s.gear a
  let e := armOf d
  let (kind, idx) := match g.engPend with
    | some r => (r.kind, r.idx)
    | none => (g.kind, g.idx)
  if armBad d.payload then complete d stREFUSED_VALUE 0 l s
  else if s.axState a ≠ axGEARED ∧ g.engPend = none then complete d stREFUSED_STATE 0 l s
  else if 16 ≤ g.queue.length then complete d stREFUSED_QUEUE_FULL 0 l s
  else if armRange (s.masterAt a kind idx (s.axB a)).m g.queue.getLast? e then complete d stREFUSED_RANGE 0 l s
  else complete d stQUEUED 0 l (showArmed a (s.modGear a fun x => { x with queue := x.queue ++ [e] }))

/-- GEAR_ARM (R75). -/
def execGearArm (d : Desc) (s : State) : Host.Outcome State Fault Refusal := .next (submit d (landGearArm d) s)

/-- The GEAR_RELEASE payload breaks R81. -/
def releaseBad (p : Payload) : Bool :=
  decide (2 < payByte p 0) || decide (8 ≤ payByte p 1) || !payZero p 2 8 || !payZero p 16 48

/-- GEAR_RELEASE at its landing (R81). -/
def landGearRelease (d : Desc) (s : State) : State :=
  let a := finAx d.target
  let l := s.landOf d
  let p := d.payload
  let g := s.gear a
  let r : RelReq := ⟨d.tag, payByte p 0, payBit p 1 0, payBit p 1 1, payBit p 1 2, payI64 p 8⟩
  if releaseBad p then complete d stREFUSED_VALUE 0 l s
  else if (s.axState a ≠ axGEARED ∧ g.engPend = none) ∨ g.relPend.isSome then complete d stREFUSED_STATE 0 l s
  else if g.engPend.isSome then complete d stDONE 0 l (cancelEngage a s)
  else if r.cond = 0 then complete d stSTARTED 0 l (release a r (s.axB a) s)
  else if r.cond = 2 ∧ instantPassed r.value (s.axB a) then complete d stARMED 0 l (release a r (s.axB a) s)
  else
    let s := s.modGear a fun x => { x with relPend := some r }
    complete d stARMED 0 l (s.setBit (GR_STAT a) GR_STAT_REL_PEND true)

/-- GEAR_RELEASE (R81). -/
def execGearRelease (d : Desc) (s : State) : Host.Outcome State Fault Refusal :=
  .next (submit d (landGearRelease d) s)

/-! ## The gearing of an axis at a sample instant -/

/-- A pending engagement is tested at a sample instant (R74). -/
def pendingSample (a : Fin 32) (r : EngReq) (t : Nat) (s : State) : State :=
  pendingWith a r (s.masterAt a r.kind r.idx t) t s

/-- The gearing of an axis at a sample instant: a geared sample, or the test of a pending engagement. -/
def sampleGear (a : Fin 32) (t : Nat) (s : State) : State :=
  let g := s.gear a
  if s.axState a = axGEARED then gearSample a t g.mFresh false (s.masterAt a g.kind g.idx t) s
  else match g.engPend with
    | some r => pendingSample a r t s
    | none => s

/-- Engagements and releases of condition 2 whose instant the last boundary has reached (R16, R74, R81). -/
def landGearTimed (a : Fin 32) (s : State) : State :=
  let b := s.axB a
  let s := match (s.gear a).engPend with
    | some r => if r.cond = 2 ∧ instantPassed r.value b then engageAtBoundary a r s else s
    | none => s
  match (s.gear a).relPend with
  | some r => if r.cond = 2 ∧ instantPassed r.value b then release a r b s else s
  | none => s

/-- GEAR_ENGAGE (R73). -/
def execGearEngage (d : Desc) (s : State) : Host.Outcome State Fault Refusal := .next (submit d (landGearEngage d) s)

/-- GR_MASTER_LOST (R82): still stale after COAST_MS; raised once for one coasting. -/
def masterLost (a : Fin 32) (s : State) : State :=
  match (s.gear a).coastFrom with
  | none => s
  | some t =>
    if s.axState a = axGEARED ∧ !(s.gear a).lost ∧ t + 1000000 * s.fld (GR_CFG a) GR_CFG_COAST_MS ≤ s.now
    then raiseFault 5 ⟨2, a⟩ ((s.gear a).kind * 32 + (s.gear a).idx) a (s.modGear a fun x => { x with lost := true })
    else s

def execGrMasterLost (t : Nat) (a : Fin 32) (s : State) : Host.Outcome State Fault Refusal :=
  .next (masterLost a (s.reach t))

end Sys2Proof.Machine
end

