-- ==== Sys2Proof/Machine/FollowHome.lean ====
section
/-! DEFINITION. Step-pulse following, limit and home inputs, and homing (spec/05). -/

namespace Sys2Proof.Machine

/-! ## Step following (R86–R89) -/

/-- A drain ends: the axis stands at the last pulse, SF_DONE where EVENT was set
(R89). -/
def drainEnds (a : Fin 32) (t : Nat) (p : Rat) (event : Bool) (tag : Nat) (s : State) : State :=
  let s := leaveFollow a s
  let s := layPlan a t (restAt t p) (s.modProf a fun x => { x with stopKind := .none })
  let s := showKin a ⟨wrapPos p, 0, 0⟩ (s.setAxState a axSTANDSTILL)
  if event then raiseAxis a 0x0303 (plainSev 0x0303) tag s.now [] s else s

/-- OVERSPEED and its fault on the edge (R88). The detail is the velocity code, held at 31 bits. -/
def overspeed (a : Fin 32) (v : Rat) (s : State) : State :=
  let fast := decide (q16 (s.vCap a) < ratAbs v)
  let was := s.bit (SF_STAT a) SF_STAT_OVERSPEED
  let s := s.setBit (SF_STAT a) SF_STAT_OVERSPEED fast
  if fast ∧ !was then raiseFault 6 ⟨2, a⟩ (toBits 32 (sat31 (roundHalfAway (v * 65536)))) a s else s

/-- Step following at a sample instant, with the pulses accepted by the boundary at which the period began (R88, R89). -/
def sampleFollow (a : Fin 32) (t : Nat) (s : State) : State :=
  let drain := (s.sf a).drain
  let byT := match drain with
    | some (b, _, _) => b
    | none => s.axB a
  let (p, v, hold) := s.sfAt a t byT
  let was := (s.sf a).smp.p
  let line : Seg := ⟨s.axB a, none, was, (p - was) * 1000000 / s.axT a, 0, 0, .cruise⟩
  let s := layPlan a (s.axB a) [line] (s.modSf a fun x => { x with smp := ⟨p, v, 0⟩ })
  let s := overspeed a v (s.setBit (SF_STAT a) SF_STAT_HOLDING hold)
  match drain with
  | some (_, event, tag) =>
    if hold then drainEnds a t p event tag s else softWatch a t ⟨p, v, 0⟩ (showKin a ⟨wrapPos p, v, 0⟩ s)
  | none => softWatch a t ⟨p, v, 0⟩ (showKin a ⟨wrapPos p, v, 0⟩ s)

/-- Following begins at the last boundary (R89). -/
def startFollow (a : Fin 32) (s : State) : State :=
  let b := s.axB a
  let p := (s.kinB a).p
  let s := cancelEngage a (keepBase a s)
  let s := s.modSf a fun x =>
    { x with
      pBase := p, landEdge := (b : Int) - s.sfWin a, landAt := b, pulses := [], q := 0, drain := none, smp := ⟨p, 0, 0⟩ }
  let s := (s.modProf a fun x => { x with softDir := none }).setBit (MP_STAT a) MP_STAT_AT_SOFT false
  (s.setPair (SF_PCOUNT_LO a) 0).setAxState a axSTEPFOLLOW

/-- FOLLOW_STEP at its landing (R89, R92, R93, R312). -/
def landFollowStep (d : Desc) (s : State) : State :=
  let a := finAx d.target
  let l := s.landOf d
  let st := s.axState a
  let locked := s.bit (SF_IO_STAT a) SF_IO_STAT_LOCKP ∨ s.bit (SF_IO_STAT a) SF_IO_STAT_LOCKN
  if 4 ≤ payByte d.payload 0 ∨ !payZero d.payload 1 48 then complete d stREFUSED_VALUE 0 l s
  else if payBit d.payload 0 0 then
    if st ≠ axSTEPFOLLOW ∨ (s.sf a).drain.isSome then complete d stREFUSED_STATE 0 l s
    else
      let s := s.modSf a fun x => { x with drain := some (s.axB a, payBit d.payload 0 1, d.tag) }
      complete d stSTARTED 0 l (s.setBit (SF_STAT a) SF_STAT_DRAIN true)
  else if st ≠ axSTANDSTILL ∨ !s.bit (SF_CFG a) SF_CFG_EN ∨ s.homing a ∨ 3 ≤ s.rxOf a then
    complete d stREFUSED_STATE 0 l s
  else if locked then complete d stREFUSED_RANGE 0 l s
  else complete d stSTARTED 0 l (startFollow a s)

/-- FOLLOW_STEP (R89). -/
def execFollowStep (d : Desc) (s : State) : Host.Outcome State Fault Refusal := .next (submit d (landFollowStep d) s)

/-- A pulse less than 125 ns after the previous one is dropped and counted; the first of a control period writes a
warning record (R86). -/
def overrate (a : Fin 32) (s : State) : State :=
  let s := s.count (SF_CNT a) SF_CNT_OVERRATE
  let k := (s.tile (tileOf a)).k
  if (s.sf a).overPeriod = some k then s
  else record .stepOverrate 1 0 a [] (s.modSf a fun x => { x with overPeriod := some k })

/-- A counted pulse moves q by SCALE + 1 ticks (R87). -/
def countPulse (a : Fin 32) (edge accepted : Nat) (pos : Bool) (s : State) : State :=
  let n : Int := s.fld (SF_CFG a) SF_CFG_SCALE + 1
  let s := s.modSf a fun x =>
    let q := if pos then x.q + n else x.q - n
    { x with q := q, pulses := (⟨edge, accepted, q⟩ :: x.pulses).take 8192 }
  s.setPair (SF_PCOUNT_LO a) (s.pairI (SF_PCOUNT_LO a) + (if pos then 1 else -1))

/-- A level of STEP is accepted once it has held for MINPW clocks (R86). -/
def State.levelOk (s : State) (a : Fin 32) (clocks : Nat) : Bool := decide (s.fld (SF_CFG a) SF_CFG_MINPW ≤ clocks)

/-- The active STEP edge at its raw instant, accepted at `t` with the level of DIR there (R86, R87). -/
def activeEdge (a : Fin 32) (edge t : Nat) (dir : Bool) (s : State) : State :=
  let x := s.sf a
  let close := match x.lastEdge with
    | some e => decide (edge < e + 125)
    | none => false
  let s := s.modSf a fun x => { x with lastEdge := some edge }
  if s.axState a ≠ axSTEPFOLLOW ∨ x.drain.isSome ∨ t < x.landAt then s
  else if close then overrate a s
  else countPulse a edge t (dir != s.bit (SF_CFG a) SF_CFG_DIRINV) s

/-- STEP takes a level that stands at `t` and has held for `held` clocks, after levels that held for the clocks `short`: those below
MINPW are ignored and counted. The level is accepted once it has held for MINPW clocks, and where that changes the accepted level
a rise, or a fall under SF_CFG.EDGE, is a pulse: its raw edge lies where the level began, its accepted instant MINPW clocks later
(R86). -/
def stepLevel (a : Fin 32) (t : Nat) (high dir : Bool) (short : List Nat) (held : Nat) (s : State) : State :=
  let s := s.countN (SF_CNT a) SF_CNT_GLITCH ((short.filter fun n => !s.levelOk a n).length)
  if !s.levelOk a held ∨ high = (s.sf a).level then s
  else
    let edge := t - 5 * held
    let s := s.modSf a fun x => { x with level := high }
    if high = s.bit (SF_CFG a) SF_CFG_EDGE then s else activeEdge a edge (edge + 5 * s.fld (SF_CFG a) SF_CFG_MINPW) dir s

/-- STEP_PULSE (R86): the new level, the level of DIR at the instant of its acceptance, the clocks of the levels that came and went
before, and those for which the new level has held at `t`. -/
def execStepPulse (t : Nat) (a : Fin 32) (high dir : Bool) (short : List Nat) (held : Nat) (s : State) :
    Host.Outcome State Fault Refusal :=
  .next (stepLevel a t high dir short held (s.reach t))

/-! ## Homing (R93–R96) -/

def State.home (s : State) (a : Fin 32) : Option HomeRun := (s.axis a).home
def State.modHome (s : State) (a : Fin 32) (f : HomeRun → HomeRun) : State :=
  s.modAxis a fun x => { x with home := x.home.map f }

/-- SF_HOME_STAT.PHASE follows the phase. -/
def homePhase (a : Fin 32) (n : Nat) (s : State) : State :=
  (s.modHome a fun h => { h with phase := n, nextPhase := 0 }).setFld (SF_HOME_STAT a) SF_HOME_STAT_PHASE n

/-- A homing fails: the axis stops at D, at the next boundary where it fails within a period, unless a limit stop is due; and
HOME_DONE reports the reason (R96). -/
def failHome (a : Fin 32) (reason : Nat) (s : State) : State :=
  let s := if s.moving a ∧ (s.axis a).io.stopPend = none then
      if (s.tile (tileOf a)).stepping then beginStop a .homing s else s.modProf a fun x => { x with stopDue := true }
    else s
  failHoming a reason s

/-- The stop of a homing that failed within the period lands (R96). -/
def dueStop (a : Fin 32) (s : State) : State :=
  if (s.prof a).stopDue then
    let s := s.modProf a fun x => { x with stopDue := false }
    if s.moving a ∧ (s.axis a).io.stopPend = none then beginStop a .homing s else s
  else s

/-- The reference of the running method, evaluated at an instant (R94). -/
def takeRef (a : Fin 32) (p : Int) (s : State) : State :=
  (s.modHome a fun h => { h with ref := some p }).setPair (SF_HOME_REF_LO a) p

/-- A velocity ramp of a homing method, under the bank in force. -/
def homeRun (a : Fin 32) (neg : Bool) (c : Nat) (s : State) : State :=
  startVelocity a (if neg then -(c : Int) else c) (s.bankOf a).limits s

/-- Search velocity of the method: a hard stop is approached at creep velocity (R94). -/
def HomeRun.pace (h : HomeRun) : Nat := if h.method = 3 then h.creep else h.search

/-- The reference is taken and the axis rests: its position is set, HOMED is set and HOME_DONE raised (R94, R56). -/
def finishHome (a : Fin 32) (h : HomeRun) (s : State) : State :=
  let ref := h.ref.getD (s.posB a)
  let s := shiftAxis a ((h.value - ref : Int) : Rat) s
  let s := (endHoming a s).setBit (SF_HOME_STAT a) SF_HOME_STAT_HOMED true
  if h.event then homeDone a h.tag stHOMED ref s else s

/-- The phase that follows once the axis rests (R94, R95). -/
def homeNext (a : Fin 32) (h : HomeRun) (next : Nat) (s : State) : State :=
  match next with
  | 2 => homePhase a 2 (homeRun a h.curNeg h.pace s)
  | 4 => homePhase a 4 (homeRun a (!h.curNeg) h.creep s)
  | 6 =>
    let d : Int := h.backoff
    let target := s.posB a + (if h.curNeg then d else -d)
    if h.backoff = 0 then finishHome a h (homePhase a 7 s)
    else homePhase a 6 (startMove a (s.axB a) (s.kinB a)
      ⟨h.tag, target, false, some h.creep, none, none, none, 0, false, true⟩ s)
  | _ => finishHome a h (homePhase a 7 s)

/-- The filtered limit of a direction is active and enabled (R90). -/
def State.limitOn (s : State) (a : Fin 32) (neg : Bool) : Bool :=
  if neg then s.bit (SF_IO_STAT a) SF_IO_STAT_LIMN && s.bit (SF_IO_FILT a) SF_IO_FILT_LIMN_EN
  else s.bit (SF_IO_STAT a) SF_IO_STAT_LIMP && s.bit (SF_IO_FILT a) SF_IO_FILT_LIMP_EN

/-- The lock of a direction (R92). -/
def State.lockOn (s : State) (a : Fin 32) (neg : Bool) : Bool :=
  if neg then s.bit (SF_IO_STAT a) SF_IO_STAT_LOCKN else s.bit (SF_IO_STAT a) SF_IO_STAT_LOCKP

/-- The registers with which a homing method starts: those of R201, with the address of the payload in k5. The manual does not
say where the payload stands, so that address is free (R216). -/
def homeRegs (a : Fin 32) (s : State) : Vector Word 16 := s.startRegs (s.engOf a) (Config.homePayloadAt a)

/-- The method begins at a boundary: the resident program is suspended, and the search, or what follows it where its
trigger is already there, starts (R94, R216). The code of the library methods is not in the manual: what they do to their
registers and data area, and the instructions and cycles of their runs, are left out (log). -/
def homeBegin (a : Fin 32) (h : HomeRun) (s : State) : State :=
  let e := s.engOf a
  let s := forcedYield e s
  let st := s.fld (ENG_STAT e) ENG_STAT_STATE
  let s := (s.modEng e fun x => { x with resume := st }).setFld (ENG_STAT e) ENG_STAT_STATE 3
  let s := s.modHome a fun x => { x with startPos := (s.kinB a).p, k := homeRegs a s }
  match h.method with
  | 4 => homeNext a h 7 s
  | 2 => if s.limitOn a h.curNeg then homeNext a h 4 s else homePhase a 1 (homeRun a h.curNeg h.pace s)
  | m =>
    if m ≠ 3 ∧ s.bit (SF_IO_STAT a) SF_IO_STAT_HOME then homeNext a h 4 s
    else if h.curNeg ≠ h.neg then homeNext a h 2 s
    else if s.lockOn a h.curNeg then
      let s := s.modHome a fun x => { x with curNeg := !x.curNeg }
      homeNext a { h with curNeg := !h.curNeg } 2 s
    else homePhase a 1 (homeRun a h.curNeg h.pace s)

/-- The stop that ends a phase, with the phase that follows it. -/
def homeStop (a : Fin 32) (next : Nat) (s : State) : State :=
  let s := if s.moving a then beginStop a .homing s else s
  (s.modHome a fun h => { h with phase := 3, nextPhase := next }).setFld (SF_HOME_STAT a) SF_HOME_STAT_PHASE 3

/-- A homing at a boundary of the axis's tile (R94–R96). -/
def homeBoundary (a : Fin 32) (s : State) : State :=
  match s.home a with
  | none => s
  | some h =>
    let p := (s.kinB a).p
    let rests := s.axState a = axSTANDSTILL
    match h.phase with
    | 0 => if s.axB a ≤ h.landB then s else homeBegin a h s
    | 1 | 2 =>
      if h.maxDist ≠ 0 ∧ (h.maxDist : Rat) < ratAbs (p - h.startPos) then failHome a 3 s
      else if h.nextPhase ≠ 0 then homeStop a h.nextPhase s
      else s
    | 3 =>
      if rests then homeNext a h h.nextPhase s
      else if s.moving a ∧ (s.axis a).io.stopPend = none then homeStop a h.nextPhase s
      else s
    | 4 => if h.ref.isSome then homeStop a 7 s else s
    | 5 =>
      if h.ref.isSome then homeStop a 7 s
      else if ((65536 * (s.axis a).spr : Nat) : Rat) < ratAbs (p - h.indexFrom) then failHome a 6 s
      else s
    | _ => if rests then homeNext a h 7 s else s

/-- The stall of an axis as its homing takes it: the reference of method 3, or a failure (R94, R96). Answers nothing
else; λ is in ticks. -/
def homeStall (a : Fin 32) (t : Nat) (lambda : Int) (s : State) : State :=
  match s.home a with
  | none => s
  | some h =>
    if h.method = 3 ∧ (h.phase = 1 ∨ h.phase = 2) then
      (takeRef a (s.posNow a t - lambda) s).modHome a fun x => { x with nextPhase := 6 }
    else if h.method = 3 ∧ (h.phase = 3 ∨ h.phase = 6) ∧ h.ref.isSome then s
    else failHome a 7 s

/-- The first Z index of the encoder port in the index search (R94, method 1). -/
def homeIndex (a : Fin 32) (n : Fin 16) (t : Nat) (s : State) : State :=
  match s.home a with
  | none => s
  | some h => if h.phase = 5 ∧ h.ref = none ∧ h.encPort = n.1 then takeRef a (s.posNow a t) s else s

/-- HOME_INPUT_CHANGE as the running method takes it (R94). -/
def homeSwitch (a : Fin 32) (on : Bool) (p : Int) (s : State) : State :=
  match s.home a with
  | none => s
  | some h =>
    if h.method ≠ 0 ∧ h.method ≠ 1 then s
    else if on ∧ (h.phase = 1 ∨ h.phase = 2) then s.modHome a fun x => { x with nextPhase := 4 }
    else if !on ∧ h.phase = 4 ∧ h.ref = none then
      if h.method = 0 then takeRef a p s
      else homePhase a 5 (s.modHome a fun x => { x with indexFrom := p })
    else s

/-- An enabled limit goes active while a homing runs (R95). -/
def homeLimit (a : Fin 32) (neg : Bool) (s : State) : State :=
  match s.home a with
  | none => s
  | some h =>
    if h.method = 4 then s
    else if neg ≠ h.curNeg then failHome a 2 s
    else if h.method = 2 then
      if h.phase = 1 then s.modHome a fun x => { x with phase := 3, nextPhase := 4 } else s
    else if h.curNeg ≠ h.neg then failHome a 1 s
    else if h.phase = 0 then s.modHome a fun x => { x with curNeg := !x.curNeg }
    else
      (s.modHome a fun x => { x with phase := 3, nextPhase := 2, curNeg := !x.curNeg, ref := none }).setFld
        (SF_HOME_STAT a) SF_HOME_STAT_PHASE 3

/-- A limit goes inactive: the reference of method 2 (R94). -/
def homeLimitOff (a : Fin 32) (neg : Bool) (p : Int) (s : State) : State :=
  match s.home a with
  | none => s
  | some h => if h.method = 2 ∧ h.phase = 4 ∧ neg = h.curNeg ∧ h.ref = none then takeRef a p s else s

/-- The HOME payload breaks R93. -/
def State.homeBad (s : State) (p : Payload) : Bool :=
  let m := payByte p 0
  let enc := payByte p 2
  decide (4 < m) || decide (4 ≤ payByte p 1) || payByte p 3 != 0 || !payZero p 44 48 ||
  (decide (m ≤ 3) && (pay48 p 4 == 0 || pay48 p 10 == 0)) ||
  (m == 1 && (decide (16 ≤ enc) || !s.bit (GLB_ENC_STAT enc) GLB_ENC_STAT_SIG))

/-- HOME at its landing (R93). The method begins at the next boundary (R216). -/
def landHome (d : Desc) (s : State) : State :=
  let a := finAx d.target
  let l := s.landOf d
  let p := d.payload
  let cap := s.vCap a
  if s.homeBad p then complete d stREFUSED_VALUE 0 l s
  else if s.axState a ≠ axSTANDSTILL ∨ s.homing a ∨ 3 ≤ s.rxOf a ∨ (s.axis a).mig.isSome then
    complete d stREFUSED_STATE 0 l s
  else
    let neg := payBit p 1 0
    let h : HomeRun :=
      { tag := d.tag, method := payByte p 0, neg := neg, event := payBit p 1 1, encPort := payByte p 2
        search := min (pay48 p 4) cap, creep := min (pay48 p 10) cap, value := payI64 p 16, maxDist := pay64 p 24
        timeout := pay32 p 32, backoff := pay64 p 36, phase := 0, curNeg := neg, startAt := s.now
        startPos := (s.kinB a).p, indexFrom := 0, ref := none, nextPhase := 0, landB := s.axB a
        k := Vector.replicate 16 0, payload := p, data := [] }
    let st := SF_HOME_STAT a
    let s := (cancelEngage a s).modAxis a fun x => { x with home := some h }
    let s := (s.setReg st 0).setBit st SF_HOME_STAT_HOMING true
    let s := s.setFld st SF_HOME_STAT_METHOD h.method
    let s := if h.method = 4 then takeRef a (s.posB a) s else s
    complete d stSTARTED (if cap < pay48 p 4 ∨ cap < pay48 p 10 then 1 else 0) l s

/-- HOME (R93). -/
def execHome (d : Desc) (s : State) : Host.Outcome State Fault Refusal := .next (submit d (landHome d) s)

/-- The homing timeout has run out (R96). -/
def homingTimeout (a : Fin 32) (s : State) : State :=
  match s.home a with
  | none => s
  | some h => if h.timeout ≠ 0 ∧ h.startAt + 1000000 * h.timeout ≤ s.now then failHome a 4 s else s

/-- HOMING_TIMEOUT (R96). -/
def execHomingTimeout (t : Nat) (a : Fin 32) (s : State) : Host.Outcome State Fault Refusal :=
  .next (homingTimeout a (s.reach t))

/-! ## Filtered inputs (R84, R85, R90–R92) -/

/-- A filter clock in ns (R84). -/
def State.ioClock (s : State) (a : Fin 32) : Nat := 5 * (s.fld (SF_IO_FILT a) SF_IO_FILT_DIV + 1)

/-- What a majority filter shows: active once N of the last M samples are, inactive once N of them are not, otherwise what it
showed (R84, R176). The samples run from the latest back. -/
def majority (m n : Nat) (l : List Bool) (was : Bool) : Bool :=
  let on := ((l.take m).filter fun x => x).length
  let off := ((l.take m).filter fun x => !x).length
  if n ≤ on then true else if n ≤ off then false else was

/-- The samples of a pin that a filter holds at an instant: the raw levels at its clocks from the latest back, against the
active level, and inactive where they lie before the preload (R84, R90). -/
def pinSamples (raw : BitVec 15) (low : Bool) (clock preAt t : Nat) : List Bool :=
  (List.range 15).map fun i => decide (preAt + i * clock ≤ t) && (raw.getLsbD i != low)

/-- The filtered level of an axis input at an instant, from the raw levels of the pin at the last filter clocks (R84,
R90). `f` is its bit of SF_IO_STAT, `pol` its polarity. -/
def State.ioLevel (s : State) (a : Fin 32) (f pol : Fld) (raw : BitVec 15) (t : Nat) : Bool :=
  let c := SF_IO_FILT a
  majority (s.fld c SF_IO_FILT_M) (s.fld c SF_IO_FILT_N)
    (pinSamples raw (s.bit c pol) (s.ioClock a) (s.axis a).io.preAt t) (s.bit (SF_IO_STAT a) f)

/-- The hold of an output after an event: M filter clocks (R85). -/
def State.ioHold (s : State) (a : Fin 32) : Nat := s.ioClock a * s.fld (SF_IO_FILT a) SF_IO_FILT_M

/-- The edge instant of a filtered change: N filter clocks before it (R85). -/
def State.ioEdge (s : State) (a : Fin 32) (t : Nat) : Nat := t - s.ioClock a * s.fld (SF_IO_FILT a) SF_IO_FILT_N

/-- A change inside the hold after an event is suppressed and counted (R85). -/
def chatter (a : Fin 32) (s : State) : State := s.count (SF_IO_CNT a) SF_IO_CNT_CHATTER

/-- The filtered HOME changes at `t` (R85). -/
def homeInput (a : Fin 32) (t : Nat) (on : Bool) (s : State) : State :=
  if s.bit (SF_IO_STAT a) SF_IO_STAT_HOME = on then s
  else if t < (s.axis a).io.holdHome then chatter a s
  else
    let p := s.posNow a (s.ioEdge a t)
    let s := (s.setBit (SF_IO_STAT a) SF_IO_STAT_HOME on).modIo a fun x => { x with holdHome := t + s.ioHold a }
    homeSwitch a on p (axisEvent a (if on then 0 else 1) p s)

/-- HOME_INPUT_CHANGE (R84, R85), from the raw levels of the pin at the last 15 filter clocks, the latest in bit 0. -/
def execHomeInputChange (t : Nat) (a : Fin 32) (raw : BitVec 15) (s : State) : Host.Outcome State Fault Refusal :=
  let s := s.reach t
  .next (homeInput a t (s.ioLevel a SF_IO_STAT_HOME SF_IO_FILT_POL_HOME raw t) s)

/-- The commanded velocity points into a limit at an instant (R91). -/
def State.movesInto (s : State) (a : Fin 32) (neg : Bool) (t : Nat) : Bool :=
  let v := (s.kinAt a t (s.axB a)).v
  if neg then decide (v < 0) else decide (0 < v)

/-- An enabled limit is hit: the lock with its trip position, LIMIT_BOTH where both are active, and, where the axis
moves into it, the limit stop that lands at the first boundary at least 0.5 µs later (R91, R92). -/
def limitTrip (a : Fin 32) (neg : Bool) (t : Nat) (trip : Rat) (s : State) : State :=
  let io := SF_IO_STAT a
  let s := s.setBit io (if neg then SF_IO_STAT_LOCKN else SF_IO_STAT_LOCKP) true
  let s := s.modIo a fun x => if neg then { x with tripN := trip } else { x with tripP := trip }
  let s := if s.limitOn a (!neg) then
      let s := (s.setBit io SF_IO_STAT_LOCKN true).setBit io SF_IO_STAT_LOCKP true
      raiseAxis a 0x0302 (plainSev 0x0302) 0 s.now [] (record .limitBoth 1 0 a [] s)
    else s
  let s := if s.movesInto a neg t then
      let s := (s.modIo a fun x => { x with stopPend := some (x.stopPend.getD t) }).count (SF_IO_CNT a) SF_IO_CNT_LIMTRIP
      raiseAxis a 0x0301 (plainSev 0x0301) 0 s.now [] (record .limitHit 1 0 a [if neg then 1 else 0] s)
    else s
  homeLimit a neg s

/-- The filtered LIMP or LIMN changes at `t` (R85, R90–R92). -/
def limitInput (a : Fin 32) (neg : Bool) (t : Nat) (on : Bool) (s : State) : State :=
  let f := if neg then SF_IO_STAT_LIMN else SF_IO_STAT_LIMP
  let hold := if neg then (s.axis a).io.holdN else (s.axis a).io.holdP
  if s.bit (SF_IO_STAT a) f = on then s
  else if t < hold then chatter a s
  else
    let edge := s.ioEdge a t
    let x := (s.kinAt a edge (s.axB a)).p
    let p := roundHalfAway x
    let till := t + s.ioHold a
    let s := (s.setBit (SF_IO_STAT a) f on).modIo a fun y => if neg then { y with holdN := till } else { y with holdP := till }
    if on then
      let s := axisEvent a (if neg then 3 else 2) p s
      if s.limitOn a neg then limitTrip a neg t x s else s
    else homeLimitOff a neg p s

/-- The filtered level of a limit input (R84, R90). -/
def State.limitLevel (s : State) (a : Fin 32) (neg : Bool) (raw : BitVec 15) (t : Nat) : Bool :=
  if neg then s.ioLevel a SF_IO_STAT_LIMN SF_IO_FILT_POL_LIMN raw t
  else s.ioLevel a SF_IO_STAT_LIMP SF_IO_FILT_POL_LIMP raw t

/-- LIMIT_HIT (R84, R91), from the raw levels of the pin at the last 15 filter clocks, the latest in bit 0. -/
def execLimitHit (t : Nat) (a : Fin 32) (neg : Bool) (raw : BitVec 15) (s : State) : Host.Outcome State Fault Refusal :=
  let s := s.reach t
  .next (s.onlyIf (s.limitLevel a neg raw t) (limitInput a neg t true))

/-- LIMIT_INACTIVE (R84, R85), from the raw levels of the pin likewise. -/
def execLimitInactive (t : Nat) (a : Fin 32) (neg : Bool) (raw : BitVec 15) (s : State) :
    Host.Outcome State Fault Refusal :=
  let s := s.reach t
  .next (s.onlyIf (!s.limitLevel a neg raw t) (limitInput a neg t false))

/-- A limit stop lands at the last boundary once 0.5 µs have passed; an ESTOP ramp in force is kept, and where nothing
moves any more there is nothing to stop (R91). -/
def limitStop (a : Fin 32) (s : State) : State :=
  match (s.axis a).io.stopPend with
  | none => s
  | some t =>
    if s.axB a < t + 500 then s
    else
      let s := s.modIo a fun x => { x with stopPend := none }
      let stopping := s.axState a = axSTOPPING
      if (stopping ∧ (s.prof a).stopKind ≠ .estop) ∨ s.moving a then beginStop a .limit (cancelEngage a s) else s

/-- A lock clears at the first sample at which its input is inactive and the commanded position, exact as p_trip is, lies strictly
on its far side (R92). -/
def lockWatch (a : Fin 32) (p : Rat) (s : State) : State :=
  let io := SF_IO_STAT a
  let x := (s.axis a).io
  let s := if s.bit io SF_IO_STAT_LOCKP ∧ !s.bit io SF_IO_STAT_LIMP ∧ p < x.tripP
    then s.setBit io SF_IO_STAT_LOCKP false else s
  if s.bit io SF_IO_STAT_LOCKN ∧ !s.bit io SF_IO_STAT_LIMN ∧ x.tripN < p
    then s.setBit io SF_IO_STAT_LOCKN false else s

end Sys2Proof.Machine
end

