-- ==== Sys2Proof/Machine/Regulation.lean ====
section
/-! DEFINITION. Microstepping and coil current regulation (spec/06): electrical angle, topiary table, references, the
current window, the current loop with its duty and decay fraction, and the loop parameters. -/

namespace Sys2Proof.Machine

/-! ## Parts of a port -/

/-- I_FS of a port in mA (R105). -/
def State.ifs (s : State) (p : Fin 64) : Nat := s.fld (CR_IFS (pT p) (pI p)) CR_IFS_IFS_MA

/-! ## Topiary table and references (R98–R104) -/

/-- The active table of an axis. -/
def State.activeTable (s : State) (a : Fin 32) : Table :=
  if s.fld (CR_TAB a) CR_TAB_ACTIVE_BUF = 0 then (s.axis a).table[0] else (s.axis a).table[1]

/-- H(f) × 64 (R98). -/
def Table.h64 (t : Table) (f : Nat) : Int :=
  let w0 := t.entry (f / 64)
  if f % 64 = 0 then 64 * w0 else (w0 : Int) * 64 + ((t.entry (f / 64 + 1) : Int) - w0) * (f % 64 : Nat)

/-- S(φ) × 64 by quarter-wave symmetry (R99). -/
def Table.s64 (t : Table) (phi : Int) : Int :=
  let x := (phi % 262144).toNat
  let f := x % 65536
  match x / 65536 with
  | 0 => t.h64 f
  | 1 => t.h64 (65536 - f)
  | 2 => -(t.h64 f)
  | _ => -(t.h64 (65536 - f))

def sgnI (x : Int) : Int := if x < 0 then -1 else if x = 0 then 0 else 1

/-- The angle that enters R102, by step mode (R104). -/
def stepAngle (mode : Nat) (th : Nat) : Int :=
  match mode with
  | 1 => 32768 * roundHalfAway ((th : Rat) / 32768) % 262144
  | 2 => (65536 * roundHalfAway ((th : Rat) / 65536) + 32768) % 262144
  | _ => th

/-- The references of both coils for an angle (R102, R104). In FULL mode S is positive in the first half of the cycle, and both
coils carry the full run current whatever the table holds there. -/
def State.coilRefs (s : State) (a : Fin 32) (th : Nat) : Int × Int :=
  let t := s.activeTable a
  let run : Int := s.fld (CR_IRUN a) CR_IRUN_IRUN
  let mode := s.fld (CR_CFG a) CR_CFG_STEPMODE
  let x := stepAngle mode th
  let one (phi : Int) : Int :=
    if mode = 2 then (if phi % 262144 < 131072 then run else -run) else roundHalfAway ((run * t.s64 phi : Int) / (65535 * 64 : Rat))
  let b := one (x + 65536)
  (one x, if s.bit (CR_CFG a) CR_CFG_PHINV then -b else b)

/-- The electrical angle for the next period from the commanded position and velocity of its sample instant (R97). -/
def State.nextTheta (s : State) (a : Fin 32) (corr : Int) : Nat :=
  let p := s.pairI (MP_CMD_POS_LO a)
  let v := q16 (s.pairI (MP_CMD_VEL_LO a))
  let lead := if s.bit (CR_CFG a) CR_CFG_LEAD then roundHalfAway (v * s.axT a / 2000000) else 0
  ((p + lead + corr) % 262144).toNat

/-! ## Full scale and run current (R103, R105) -/

/-- V_SR in µV by sense range (R105). -/
def vsr : Nat → Nat
  | 0 => 300000 | 1 => 150000 | 2 => 75000 | _ => 37500

/-- I_FS in whole mA from a shunt in µΩ, rounded half away from zero (R105). -/
def ifsOf (shunt range : Nat) : Nat := (roundHalfAway ((vsr range * 1000 : Nat) / (shunt : Rat))).toNat

/-- The run current of an axis on a port is above the rating of its motor record, if it has one (R103), compared exactly. -/
def State.overRated (s : State) (a : Fin 32) (p : Fin 64) : Bool :=
  match (s.axis a).rated with
  | some r => decide (r * 65536 < s.ifs p * s.fld (CR_IRUN a) CR_IRUN_IRUN)
  | none => false

/-! ## The current window (R106, R107) -/

/-- The mean of a window or burst, SETTLE samples skipped; `none` where no sample is valid (R106). -/
def windowMean (l : List Sample) : Option Int :=
  let v := l.filter fun x => !x.settle
  if v = [] then none
  else some (roundHalfAway (((v.map (·.code)).foldl (· + ·) 0 * 8 : Int) / (v.length : Rat)))

/-- A valid sample carries OVR (R107). -/
def windowOvr (l : List Sample) : Bool := l.any fun x => !x.settle && x.ovr

/-- The samples of a window: 8, or 4 in single operation (R106). -/
def State.cut (s : State) (t : Fin 4) (l : List Sample) : List Sample := l.take (if s.single t then 4 else 8)

/-- Step 2: i_m of the period, its counts and the runs that raise the faults (R106, R107). -/
def measure (p : Fin 64) (x : PortRead) (s : State) : State :=
  let w := s.cut (tileOfPort p) x.window
  let reg := CR_MEAS (pT p) (pI p)
  let old := s.fldI reg CR_MEAS_IM
  let ovr := windowOvr w
  let none_ := (windowMean w).isNone
  let s := s.setFldI reg CR_MEAS_IM ((windowMean w).getD old)
  let cnt := CR_CNT (pT p) (pI p)
  let s := if ovr then s.count cnt CR_CNT_SAT else s
  let s := if none_ then s.count cnt CR_CNT_NOSAMPLE else s
  s.modLoop p fun l =>
    { l with
      imPrev := old, ovrRun := if ovr then l.ovrRun + 1 else 0, noRun := if none_ then l.noRun + 1 else 0
      ovrRaised := ovr && l.ovrRaised, noRaised := none_ && l.noRaised }

/-- A run of 16 windows with OVR raises the fault once (R107). -/
def overRange (p : Fin 64) (s : State) : State :=
  let l := s.loop p
  if 16 ≤ l.ovrRun ∧ !l.ovrRaised then
    raisePortFault 8 p (toBits 32 (s.fldI (CR_MEAS (pT p) (pI p)) CR_MEAS_IM))
      (s.modLoop p fun l => { l with ovrRaised := true })
  else s

/-- CR_OVERRANGE (R107). -/
def execCrOverrange (t : Nat) (p : Fin 64) (s : State) : Host.Outcome State Fault Refusal :=
  .next (onPeriod (tileOfPort p) (overRange p) (s.reach t))

/-- A run of 3 windows without a valid sample raises the fault once (R107). -/
def noSample (p : Fin 64) (s : State) : State :=
  let l := s.loop p
  if 3 ≤ l.noRun ∧ !l.noRaised then
    raisePortFault 9 p (toBits 32 (s.fldI (CR_MEAS (pT p) (pI p)) CR_MEAS_IM))
      (s.modLoop p fun l => { l with noRaised := true })
  else s

/-- CR_NOSAMPLE (R107). -/
def execCrNosample (t : Nat) (p : Fin 64) (s : State) : Host.Outcome State Fault Refusal :=
  .next (onPeriod (tileOfPort p) (noSample p) (s.reach t))

/-! ## The current loop (R108–R110, R113, R115) -/

/-- A rational in mV as a whole number of 1/256 mV, rounded half away from zero. -/
def rnd8 (x : Rat) : Int := roundHalfAway (x * 256)

/-- What step 7 came to: the duty, the decay fraction, the integrator in 1/256 mV, whether u was clamped and whether the
integrator was held against the clamp (R109, R110, R113). -/
structure LoopOut where
  d : Int
  m : Nat
  s8 : Int
  clamped : Bool
  vsat : Bool
  deriving DecidableEq, Repr

/-- The error of R108, or its mean over 4 periods under injection (R115). -/
def loopError (inj : Bool) (errs : List Int) : Rat :=
  if inj then ((errs.take 4).foldl (· + ·) 0 : Int) / (4 : Rat) else (errs.headD 0 : Int)

/-- The gains in force: kp and ki, under injection multiplied by INJ_SCALE / 256 (R115). -/
def State.gains (s : State) (a : Fin 32) (inj : Bool) : Rat × Rat :=
  let kp : Rat := s.fld (CR_KP a) CR_KP_KP
  let ki : Rat := s.fld (CR_KI a) CR_KI_KI
  let x : Rat := if inj then (s.fld (CR_KP a) CR_KP_INJ_SCALE : Rat) / 256 else 1
  (kp * x, ki * x)

/-- dlim in mV: the share DMAX of the bus voltage, 0 without a positive one (R109). -/
def State.voltLimit (s : State) (p : Fin 64) (vbus : Rat) : Rat :=
  if 0 < vbus then (s.fld (CR_PORT_CFG (pT p) (pI p)) CR_PORT_CFG_DMAX : Rat) * vbus / 32768 else 0

/-- An integrator in 1/256 mV clamped to ±dlim (R110). -/
def State.clampInteg (s : State) (p : Fin 64) (vbus : Rat) (s8 : Int) : Int :=
  let b := (s.voltLimit p vbus * 256).floor
  clampInt (-b) b s8

/-- Steps 4 and 7 for one coil (R108–R110): from the error, the bus voltage in mV and what holds the integrator. -/
def State.loopStep (s : State) (a : Fin 32) (p : Fin 64) (e : Rat) (inj : Bool) (vbus : Rat) (held : Bool) :
    LoopOut :=
  let l := s.loop p
  let (kp, ki) := s.gains a inj
  let ma (x : Rat) : Rat := x * s.ifs p / 65536
  let old := s.fldI (CR_INTEG (pT p) (pI p)) CR_INTEG_S
  let prop := rnd8 (kp * ma e / 100)
  let new := old + rnd8 (ki * ma e * s.portT p / 1000000000)
  let ffr := if s.bit (CR_CFG a) CR_CFG_FF_R then rnd8 (s.fld (CR_RCOIL a) CR_RCOIL_R * ma l.refNext / 1000) else 0
  let ffb := if s.bit (CR_CFG a) CR_CFG_FF_BEMF then l.bemfNext else 0
  let u8 := prop + new + ffr + ffb + 256 * l.injNext
  let dmax : Int := s.fld (CR_PORT_CFG (pT p) (pI p)) CR_PORT_CFG_DMAX
  let dlim := s.voltLimit p vbus
  let u : Rat := (u8 : Rat) / 256
  let ucl := if u < -dlim then -dlim else if dlim < u then dlim else u
  let clamped := decide (ucl ≠ u)
  let d := if 0 < vbus then roundHalfAway (ucl * 32768 / vbus) else dmax * sgnI u8
  let vsat := clamped && decide (ratSign e = ratSign u)
  let kept := if vsat || held then old else new
  let dec := CR_DECAY a
  let mix := s.fld dec CR_DECAY_MIX
  let im := s.fldI (CR_MEAS (pT p) (pI p)) CR_MEAS_IM
  let m := match s.fld dec CR_DECAY_MODE with
    | 0 => 0
    | 1 => 256
    | 2 => mix
    | _ => if (l.refNext.natAbs : Int) < (im.natAbs : Int) - s.fld dec CR_DECAY_AUTO_TH then 256 else mix
  ⟨d, m, s.clampInteg p vbus kept, clamped, vsat⟩

/-- The loop of a port that does not run a loop: s = 0 and d = 0 (R110, R139). -/
def loopIdle (p : Fin 64) (s : State) : State :=
  let s := s.setReg (CR_DUTY (pT p) (pI p)) 0
  let s := s.setReg (CR_INTEG (pT p) (pI p)) 0
  s.modLoop p fun l => { l with clampNext := false }

/-- What of the running period holds the integrator (R107, R110). -/
def Loop.holds (l : Loop) : Bool := l.ovrRun != 0 || l.noRun != 0 || l.tripped || l.masked || l.heldOff

/-- CR_STAT.VSAT_A or VSAT_B of the port's coil. -/
def showVsat (a : Fin 32) (phaseB : Bool) (on : Bool) (s : State) : State :=
  s.setBit (CR_STAT a) (if phaseB then CR_STAT_VSAT_B else CR_STAT_VSAT_A) on

/-- Steps 4 and 7 of a port in RUN under its loop. A period whose results were missed keeps the angle and repeats the
duty with its clamp; the integrator keeps its value, clamped to the ±dlim of the period (R18, R110). -/
def loopRun (a : Fin 32) (phaseB : Bool) (p : Fin 64) (vbus : Rat) (s : State) : State :=
  let l := s.loop p
  let ref := s.fldI (CR_REF (pT p) (pI p)) CR_REF_IREF
  let errs := ((ref - s.fldI (CR_MEAS (pT p) (pI p)) CR_MEAS_IM) :: l.errs).take 4
  let s := s.modLoop p fun l => { l with errs := errs }
  if l.missed then
    let r := CR_INTEG (pT p) (pI p)
    let s := s.setFldI r CR_INTEG_S (s.clampInteg p vbus (s.fldI r CR_INTEG_S))
    showVsat a phaseB false (s.modLoop p fun l => { l with refNext := ref, clampNext := l.clampNow })
  else
    let inj := s.bit (CR_STAT a) CR_STAT_INJ
    let o := s.loopStep a p (loopError inj errs) inj vbus l.holds
    let duty := CR_DUTY (pT p) (pI p)
    let s := (s.setFldI duty CR_DUTY_D o.d).setFld duty CR_DUTY_M o.m
    let s := s.setFldI (CR_INTEG (pT p) (pI p)) CR_INTEG_S o.s8
    let s := if o.vsat then s.count (CR_CNT (pT p) (pI p)) CR_CNT_VSAT else s
    showVsat a phaseB o.vsat (s.modLoop p fun l => { l with clampNext := o.clamped })

/-- Steps 4 and 7 of a port at the end of a period (R108–R110). The raw errors are kept at all times (R115). -/
def finishLoop (p : Fin 64) (vbus : Rat) (s : State) : State :=
  let s := match s.axisOfPort p with
    | some (a, b) =>
      if s.portState p = pRUN ∧ !s.direct p then loopRun a b p vbus s
      else showVsat a b false (loopIdle p (keepError s))
    | none => loopIdle p (keepError s)
  s.modLoop p fun l =>
    { l with tripped := false, masked := false, heldOff := false, missed := false
             missRun := if l.missed then l.missRun else 0 }
where
  keepError (s : State) : State :=
    let e := s.fldI (CR_REF (pT p) (pI p)) CR_REF_IREF - s.fldI (CR_MEAS (pT p) (pI p)) CR_MEAS_IM
    s.modLoop p fun l => { l with errs := (e :: l.errs).take 4 }

/-- At a boundary what step 7 latched comes into force (R109). -/
def loopBoundary (p : Fin 64) (s : State) : State :=
  let duty := CR_DUTY (pT p) (pI p)
  let d := s.fldI duty CR_DUTY_D
  let m := s.fld duty CR_DUTY_M
  let s := s.setFldI (CR_REF (pT p) (pI p)) CR_REF_IREF (s.loop p).refNext
  s.modLoop p fun l => { l with dNow := d, mNow := m, clampNow := l.clampNext }

/-- The slot results of an axis for its two ports (step 6): references for the angle of the next period. In DISABLED no
angle is formed; in HOLD it is the one frozen on entry (R97, R103). An angle that a port missed is not the one in force
(R18); where one of its two ports alone missed its results the axis keeps its angle for both, as it has one (DESIGN CHOICE, log). -/
def slotRefs (a : Fin 32) (corr : Int) (s : State) : State :=
  let st := s.axState a
  if st = axDISABLED then
    [false, true].foldl (fun (s : State) b => s.modLoop (s.portOf a b) fun l => { l with refNext := 0 }) s
  else
    let th := if st = axHOLD then (s.obs a).theta else s.nextTheta a corr
    let missed := (s.loop (s.portOf a false)).missed || (s.loop (s.portOf a true)).missed
    let s := s.modObs a fun o => { o with theta := if missed then o.theta else th }
    let (ra, rb) := s.coilRefs a th
    (s.modLoop (s.portOf a false) fun l => { l with refNext := ra }).modLoop (s.portOf a true) fun l =>
      { l with refNext := rb }

/-! ## SET_PARAM for the loop (R111) -/

/-- The value bytes that a loop identifier assigns. -/
def loopUsed (id : Nat) : Nat := if id = 0x0201 ∨ id = 0x0202 then 3 else 2

/-- SET_PARAM of a loop parameter at its landing (R111): bank byte 0xFF and STORE set. -/
def loopParam (d : Desc) (s : State) : State :=
  let a := finAx d.target
  let p := d.payload
  let id := pay16 p 0
  let mix := pay16 p 9
  let bad := paramBad p (loopUsed id) || payByte p 2 != 255 || !payBit p 3 0 ||
    (id == 0x0202 && (decide (3 < payByte p 8) || decide (256 < mix)))
  if bad then refuseMotion d a stREFUSED_VALUE s
  else
    let s := match id with
      | 0x0200 => s.setFld (CR_KP a) CR_KP_KP (pay16 p 8)
      | 0x0201 => s.setFld (CR_KI a) CR_KI_KI (payLE p 8 3)
      | 0x0202 => (s.setFld (CR_DECAY a) CR_DECAY_MODE (payByte p 8)).setFld (CR_DECAY a) CR_DECAY_MIX mix
      | _ => s.setFld (CR_DECAY a) CR_DECAY_AUTO_TH (pay16 p 8)
    complete d stDONE 0 (s.landOf d) s

end Sys2Proof.Machine
end

