-- ==== Sys2Proof/Machine/Observer.lean ====
section
/-! DEFINITION. The sensorless rotor observer and stall detection (spec/07). -/

namespace Sys2Proof.Machine

/-! ## Registers and units -/

/-- OB_CFG.MODE: 0 OFF, 1 OPEN, 2 CLOSED, 3 ENCODER (R118). -/
def State.obMode (s : State) (a : Fin 32) : Nat := s.fld (OB_CFG a) OB_CFG_MODE

/-- OB_STAT.REGIME (R124). -/
def State.regime (s : State) (a : Fin 32) : Nat := s.fld (OB_STAT a) OB_STAT_REGIME

/-- OB_LMAX in ticks. -/
def State.lmax (s : State) (a : Fin 32) : Int := s.fld (OB_LMAX a) OB_LMAX_LMAX

/-- The tile period of an axis in ms. -/
def State.tMs (s : State) (a : Fin 32) : Rat := (s.axT a : Rat) / 1000000

/-- VH of R124 in ticks/ms. -/
def State.vHigh (s : State) (a : Fin 32) : Rat :=
  (s.fld (OB_HO a) OB_HO_SPEED * s.fld (OB_SPR a) OB_SPR_SPR : Nat) * 65536 / 1000000

/-- VL of R124 in ticks/ms. -/
def State.vLow (s : State) (a : Fin 32) : Rat := s.vHigh a * (100 - s.fld (OB_HO a) OB_HO_HYS) / 100

/-- -1 where PHINV negates the phase B quantities (R116). -/
def State.phB (s : State) (a : Fin 32) : Int := if s.bit (CR_CFG a) CR_CFG_PHINV then -1 else 1

/-- A speed code in ticks/ms. -/
def Estimate.speed (e : Estimate) : Rat := q16 e.w

/-! ## The tracking loop (R123) -/

/-- ωn of a bandwidth in Hz at a period in ns (R123). -/
def loopOmega (bw t : Nat) : Rat := ratMin (2 * piQ * bw * t / 1000000000) (1 / 4)

/-- A gain in unsigned Q0.16, rounded half away from zero. -/
def gainQ (x : Rat) : Rat := q16 (roundHalfAway (x * 65536))

/-- The predicted position of an estimator for the boundary, in ticks (R123). -/
def Estimate.pred (e : Estimate) (tms : Rat) : Rat := q16 e.q + e.speed * tms

/-- One period of a tracking loop (R123): `meas` is the measured angle in ticks, `age` its age in ms. -/
def Estimate.track (e : Estimate) (bw t : Nat) (age : Rat) (meas : Option Rat) : Estimate :=
  let tms : Rat := (t : Rat) / 1000000
  let wn := loopOmega bw t
  let qp := e.pred tms
  let eps := match meas with
    | some th => wrapHalf (th - (qp - e.speed * age))
    | none => 0
  ⟨wrapInt 80 (roundHalfAway ((qp + gainQ (2 * wn) * eps) * 65536)), roundHalfAway ((e.speed + gainQ (wn * wn) * eps / tms) * 65536)⟩

/-! ## Reading the saliency (R119–R121) -/

/-- The pattern values of phase A and B for n (R119). -/
def pattern (n : Nat) : Int × Int :=
  match n % 4 with
  | 0 => (1, 1)
  | 1 => (1, -1)
  | 2 => (-1, -1)
  | _ => (-1, 1)

/-- The half-width of the forward interval of R112 in force, in ns. -/
def State.halfForward (s : State) (p : Fin 64) : Rat :=
  let l := s.loop p
  let ad : Rat := (l.dNow.natAbs : Rat) / 32768
  let m : Rat := (l.mNow : Rat) / 256
  (ad + m * (1 - ad) / 2) * s.portT p / 2

/-- The quarter-period rise r(k) of a coil, `none` where R120 calls it invalid. -/
def State.rise (s : State) (p : Fin 64) (x : PortRead) : Option Int :=
  let t := tileOfPort p
  let w := s.cut t x.window
  let b := s.cut t x.burst
  if windowOvr w || windowOvr b || (s.loop p).clampNow || decide ((s.portT p : Rat) / 4 - 50 < s.halfForward p) then none
  else match windowMean w, windowMean b with
    | some i, some q => some (i - q)
    | _, _ => none

/-- The sum over 4 readings of a pattern times a rise, over 4 (R121). -/
def demodSum (l : List (Int × Int)) : Rat := ((l.map fun x => x.1 * x.2).foldl (· + ·) 0 : Int) / (4 : Rat)

/-- The demodulation of the last 4 periods: ca, sa and the sum of the diagonal; `none` unless all 8 values are valid
(R121). -/
def demod (rs : List Rise) : Option (Rat × Rat × Rat) :=
  let l := rs.take 4
  if l.length = 4 ∧ l.all (fun r => r.rA.isSome && r.rB.isSome) then
    let yAA := demodSum (l.map fun r => (r.cA, r.rA.getD 0))
    let yAB := demodSum (l.map fun r => (r.cB, r.rA.getD 0))
    let yBA := demodSum (l.map fun r => (r.cA, r.rB.getD 0))
    let yBB := demodSum (l.map fun r => (r.cB, r.rB.getD 0))
    some (yAA - yBB, yAB + yBA, yAA + yBB)
  else none

/-- The square root of a rational, to the nearest integer. -/
def sqrtRound (x : Rat) : Int := ((isqrt (4 * x).floor.toNat + 1) / 2 : Nat)

/-- A measured saliency: the ratio in 0.1 % units as OB_SAL holds it, whether it lies below SALMIN, and th_s in ticks. A negative
sum makes the ratio negative; OB_SAL takes its low 16 bits (DEDUCED, log). Where the manual divides by 0, or takes the angle of
a null vector, the value is a free one (R121). -/
def State.saliency (s : State) (a : Fin 32) (ca sa sum : Rat) : Nat × Bool × Rat :=
  let min : Nat := s.fld (OB_INJ a) OB_INJ_SALMIN
  let free := (Config.freeWord s.freeCtr).toNat
  let sq := ca * ca + sa * sa
  let th : Rat := if sq = 0 then (free % 131072 : Nat) else
    let turn := atan2Turn sa ca
    turn * 131072
  if sum = 0 then (free % 65536, decide (free % 65536 < min), th)
  else
    let ratio := sqrtRound (sq * 1000000 / (sum * sum))
    if sum < 0 then ((-ratio % 65536).toNat, decide (sq ≠ 0 ∨ 0 < min), th)
    else (ratio.toNat % 65536, decide (sq * 1000000 < (min * min : Nat) * (sum * sum)), th)

/-- Of the two angles half a cycle apart, the one nearer to a predicted angle (R121). -/
def nearer (th pred : Rat) : Rat :=
  if ratAbs (wrapHalf (th - pred)) ≤ ratAbs (wrapHalf (th + 131072 - pred)) then th else th + 131072

/-! ## Back-EMF (R122, R129) -/

/-- v̄ of a port in mV: the mean of its 4 bridge-voltage reads at 15.625 mV each (R116); `none` unless there are 4. -/
def bridgeMean (l : List Sample) : Option Rat :=
  if l.length = 4 then some (((l.map (·.code)).foldl (· + ·) 0 : Int) * 15625 / 1000 / 4) else none

/-- How many bridge reads of a port a tile period gives before the one at the window centre, whose port time is T/2 (R116). -/
def State.readsBefore (s : State) (p : Fin 64) : Nat := 4 * ((s.stagger p + s.portT p / 2) % s.portT p) / s.portT p

/-- The 4 bridge reads that cover the interval between the last two window centres: those of the previous tile period that lie after
its centre, and those of this one up to its centre (R116). -/
def State.centreReads (s : State) (p : Fin 64) (l : List Sample) : List Sample :=
  let n := s.readsBefore p + 1
  (s.loop p).bridgeLast.drop n ++ l.take n

/-- The reads of the period that ends are kept for the next one (R116). -/
def keepReads (p : Fin 64) (l : List Sample) (s : State) : State := s.modLoop p fun x => { x with bridgeLast := l }

/-- e_c of a coil in mV, in port polarity (R122). -/
def State.backEmf (s : State) (a : Fin 32) (p : Fin 64) (v : Rat) : Rat :=
  let ma (x : Int) : Rat := (x : Rat) * s.ifs p / 65536
  let i1 := ma (s.fldI (CR_MEAS (pT p) (pI p)) CR_MEAS_IM)
  let i0 := ma (s.loop p).imPrev
  let r : Rat := s.fld (CR_RCOIL a) CR_RCOIL_R
  let l : Rat := s.fld (OB_MOTOR a) OB_MOTOR_L
  v - r * (i1 + i0) / 2 / 1000 - l * (i1 - i0) / ((s.portT p : Rat) / 1000) / 1000

/-- The measured angle of the back-EMF in ticks; the angle of a null vector is a free value (R122). -/
def State.emfAngle (s : State) (eA eB w : Rat) : Rat :=
  let y := -eB * ratSign w
  let x := eA * ratSign w
  if x = 0 ∧ y = 0 then (((Config.freeWord s.freeCtr).toNat % 262144 : Nat) : Rat) else
    let turn := atan2Turn y x
    turn * 262144

/-- K of R129 after a period, as a Q16.16 code. -/
def nextKe (k : Nat) (eA eB w : Rat) : Nat :=
  let x := eA * eA + eB * eB
  let mag : Rat := (isqrt (x * 18446744073709551616).floor.toNat : Rat) / 4294967296
  let v : Rat := (k : Rat) / 65536
  (roundHalfAway ((v + (mag / ratAbs w - v) / 64) * 65536)).toNat % 4294967296

/-! ## Regimes (R124, R125) -/

/-- A change of source begins a blend of 8 periods (R125). -/
def Observer.blendTo (o : Observer) (old new : Estimate) : Observer :=
  { o with blend := roundHalfAway (wrapHalf (q16 (old.q - new.q)) * 65536), blendLeft := 9 }

/-- The next regime and the loops as they go on, from the regime, the demodulation of this period and the speeds
(R124). -/
def State.nextRegime (s : State) (a : Fin 32) (measured : Bool) (o : Observer) : Nat × Observer :=
  let vh := s.vHigh a
  let vl := s.vLow a
  let wi := ratAbs o.inj.speed
  let wb := ratAbs o.bemf.speed
  match s.regime a with
  | 1 => if vl ≤ wi then (2, { o with bemf := o.inj }) else (1, o)
  | 2 => if wi < vl then (1, o) else if vh ≤ wi then (3, o.blendTo o.inj o.bemf) else (2, o)
  | 3 => if wb < vl ∧ s.bit (OB_CFG a) OB_CFG_INJ_EN then (4, { o with inj := o.bemf }) else (3, o)
  | 4 => if measured then (1, o.blendTo o.bemf o.inj) else if vh ≤ wb then (3, o) else (4, o)
  | r => (r, o)

/-- The published estimate: the source of the regime, with what is left of a blend in whole ticks. The switch period itself still
publishes q_old, which is q_new + δ, and the 8 periods that follow blend (R125; what the switch period publishes is DEDUCED,
log). -/
def Observer.publish (o : Observer) (regime : Nat) : Observer :=
  let src := if regime = 1 ∨ regime = 2 then o.inj else o.bemf
  let part := min 8 o.blendLeft
  let q := src.q + 65536 * roundHalfAway ((o.blend * part : Int) / (8 * 65536 : Rat))
  { o with est := ⟨wrapInt 80 q, src.w⟩, blendLeft := o.blendLeft - 1 }

/-- The estimate goes on by extrapolation, its speed held, while it is not usable (R126). -/
def Observer.coast (o : Observer) (tms : Rat) : Observer :=
  { o with est := ⟨wrapInt 80 (roundHalfAway (o.est.pred tms * 65536)), o.est.w⟩, blendLeft := o.blendLeft - 1 }

/-! ## Commutation events (R132) -/

/-- The zero crossings of the next period in line time: event code and instant, rounded to 5 ns (R132). -/
def zeroCrossings (b t : Nat) (q w : Rat) : List (Nat × Nat) :=
  if w = 0 then []
  else
    [((196608 : Rat), 0), (65536, 1), (131072, 2), (0, 3)].filterMap fun (c : Rat × Nat) =>
      let raw := if 0 < w then c.1 - q else q - c.1
      let d := raw - (262144 * (raw / 262144).floor : Int)
      let ns := d / ratAbs w * 1000000
      if ns < t then some (c.2, (5 * roundHalfAway ((b + ns) / 5)).toNat) else none

/-- The event of a code is enabled (OB_EVCFG). -/
def State.evOn (s : State) (a : Fin 32) (code : Nat) : Bool := (s.fld (OB_EVCFG a) OB_EVCFG_EN).testBit code

/-! ## One period of the observer -/

/-- An axis enters STANDSTILL from DISABLED: the estimate starts at the commanded position, and an encoder with a signal
fault is reported (R117, R124, R128). -/
def startObserver (a : Fin 32) (s : State) : State :=
  let p := s.pairI (MP_CMD_POS_LO a)
  let e : Estimate := ⟨65536 * p, 0⟩
  let n := s.enc (Fin.ofNat 16 (s.fld (OB_CFG a) OB_CFG_ENC))
  let num := s.fldI (OB_ENC_NUM a) OB_ENC_NUM_VALUE
  let den := s.fld (OB_ENC_DEN a) OB_ENC_DEN_VALUE
  let mode := s.obMode a
  let regime := if mode = 1 ∨ mode = 2 then (if s.bit (OB_CFG a) OB_CFG_INJ_EN then 4 else 3) else 0
  let s := s.setReg (OB_STAT a) 0
  let s := s.setFld (OB_STAT a) OB_STAT_REGIME regime
  let enc := s.fld (OB_CFG a) OB_CFG_ENC
  let s := if mode = 3 ∧ !s.bit (GLB_ENC_STAT enc) GLB_ENC_STAT_SIG then raiseFault 7 ⟨2, a⟩ enc a s else s
  s.modObs a fun o =>
    { Observer.init with
      inj := e, bemf := e, est := e, encOfs := p - (n.x * num : Int) / (den : Rat), encLatch := n.x, qOut := p
      brake := o.brake, theta := o.theta, injOn := o.injOn, injTail := o.injTail, patA := o.patA, patB := o.patB }

/-- The counters of a demodulation against SALMIN, and OB_SAL (R121, R126). -/
def noteSaliency (a : Fin 32) (sal : Nat) (low : Bool) (s : State) : State :=
  let s := s.setFld (OB_SAL a) OB_SAL_SAL sal
  let s := s.modObs a fun o =>
    { o with weakRun := if low then o.weakRun + 1 else 0, okRun := if low then 0 else o.okRun + 1 }
  if 16 ≤ (s.obs a).okRun then s.setBit (OB_STAT a) OB_STAT_WEAK false else s

/-- The demodulation of a period: the measured angle nearest to the prediction of the injection loop, or none with
HFSKIP counted while injection is on (R121). -/
def readSaliency (a : Fin 32) (s : State) : State × Option Rat :=
  let o := s.obs a
  if !o.injOn then (s, none)
  else match demod o.rises with
    | none => (s.count (OB_CNT a) OB_CNT_HFSKIP, none)
    | some (ca, sa, sum) =>
      let (sal, low, th) := s.saliency a ca sa sum
      let tms := s.tMs a
      let age : Rat := (9 / 8 * (s.axT a : Rat) + s.stagger (s.portOf a false)) / 1000000
      let pred := o.inj.pred tms - o.inj.speed * age
      let m := nearer (th + s.fld (OB_HF_OFS a) OB_HF_OFS_OFS) pred
      (noteSaliency a sal low s.fresh, some m)

/-- The estimate is usable (R126). -/
def State.estimateValid (s : State) (a : Fin 32) : Bool :=
  let o := s.obs a
  match s.obMode a with
  | 0 => false
  | 3 => s.bit (GLB_ENC_STAT (s.fld (OB_CFG a) OB_CFG_ENC)) GLB_ENC_STAT_SIG
  | _ =>
    let r := s.regime a
    r != 4 && !(r == 3 && decide (ratAbs o.bemf.speed < s.vLow a)) && !o.timedOut && !s.bit (OB_STAT a) OB_STAT_WEAK

/-- The sensorless estimators of a period: both loops that run, the regime and the published estimate, which is extrapolated
while it is not usable (R123–R126). -/
def estimate (a : Fin 32) (e : Option (Rat × Rat)) (s0 : State) : State :=
  let (s, meas) := readSaliency a s0
  let r := s.regime a
  let o := s.obs a
  let t := s.axT a
  let sg : Rat := s.stagger (s.portOf a false)
  let ageI := (9 / 8 * t + sg) / 1000000
  let emf := match e with
    | some (eA, eB) => if r = 4 ∧ o.first then none else some (s.emfAngle eA eB o.bemf.speed)
    | none => none
  let inj := if r = 3 then o.inj else o.inj.track (s.fld (OB_PLL a) OB_PLL_BW_INJ) t ageI meas
  let bemf := if r = 1 then o.bemf else o.bemf.track (s.fld (OB_PLL a) OB_PLL_BW_BEMF) t (sg / 1000000) emf
  let got := if r = 1 ∨ r = 2 then meas.isSome else true
  let o := { o with inj := inj, bemf := bemf, noMeas := if got then 0 else o.noMeas + 1,
                    timedOut := if got then false else o.timedOut, first := o.first && meas.isNone && r != 3 }
  let (r', o) := s.nextRegime a meas.isSome o
  let s := (s.modObs a fun _ => o).fresh.setFld (OB_STAT a) OB_STAT_REGIME r'
  let valid := s.estimateValid a
  let s := s.modObs a fun o => if valid then o.publish r' else o.coast (s.tMs a)
  s.setBit (OB_STAT a) OB_STAT_BLEND ((s.obs a).blendLeft != 0)

/-- The estimate of ENCODER mode, extrapolated while the encoder port reports a signal fault (R126, R128). -/
def estimateEncoder (a : Fin 32) (s : State) : State :=
  if !s.estimateValid a then s.modObs a fun o => o.coast (s.tMs a)
  else
  let o := s.obs a
  let num := s.fldI (OB_ENC_NUM a) OB_ENC_NUM_VALUE
  let den := s.fld (OB_ENC_DEN a) OB_ENC_DEN_VALUE
  let q := roundHalfAway ((o.encOfs + (o.encLatch * num : Int) / (den : Rat)) * 65536)
  let w := roundHalfAway ((wrapInt 80 (q - o.est.q) : Rat) / s.tMs a)
  s.modObs a fun o => { o with est := ⟨wrapInt 80 q, w⟩ }

/-- The injection of the next period: it starts and stops where n = 0, in whatever state the axis is (R119, R124). CR_STAT.INJ
follows as the next period begins (`observerBoundary`). -/
def nextInjection (a : Fin 32) (s : State) : State :=
  let k := (s.tile (tileOf a)).k + 1
  let n := (k + s.fld (OB_INJ a) OB_INJ_PHASE) % 4
  let r := s.regime a
  let want := (s.obMode a = 1 ∨ s.obMode a = 2) ∧ (r = 1 ∨ r = 2 ∨ r = 4) ∧ s.bit (OB_CFG a) OB_CFG_INJ_EN
    ∧ s.axState a ≠ axDISABLED
  let o := s.obs a
  let on := if n = 0 then decide want else o.injOn
  let tail := if on then 0 else min 5 (o.injTail + 1)
  let (cA, cB) := pattern n
  let s := s.modObs a fun o =>
    { o with injOn := on, injTail := tail, patA := if on then cA else 0, patB := if on then cB else 0 }
  let v : Int := s.fld (OB_INJ a) OB_INJ_VINJ
  let put (b : Bool) (x : Int) (s : State) : State := s.modLoop (s.portOf a b) fun l => { l with injNext := x }
  put true (if on then v * cB * s.phB a else 0) (put false (if on then v * cA else 0) s)

/-- λ and what follows from it: OB_LOAD, the stall counter, corr, and the slip watch (R117, R127, R130, R131). -/
def loadAngle (a : Fin 32) (s : State) : State :=
  let o := s.obs a
  let p := s.pairI (MP_CMD_POS_LO a)
  let q := wrapInt 64 (roundHalfAway (q16 o.est.q + o.est.speed * s.tMs a))
  let lam := wrapInt 64 (p - q)
  let valid := s.estimateValid a
  let st := OB_STAT a
  let s := (s.setPair (OB_EST_POS_LO a) q).setPair (OB_SPEED_LO a) o.est.w
  let s := (s.setFldI (OB_LOAD a) OB_LOAD_LAMBDA (sat31 lam)).setBit st OB_STAT_VALID valid
  let n := s.fld (OB_STALL_N a) OB_STALL_N_N
  let far := decide (s.fld (OB_STALL_TH a) OB_STALL_TH_TH < lam.natAbs)
  let c := if !valid then o.stallCnt else if far then o.stallCnt + 1 else o.stallCnt - 1
  let s := if c = 0 then s.setBit st OB_STAT_STALLED false else s
  let closed := s.obMode a = 2 ∨ s.obMode a = 3
  let corr := if closed ∧ valid = true then clampInt (-(s.lmax a)) (s.lmax a) lam - lam else 0
  let cyc := roundHalfAway ((lam : Rat) / 262144)
  let rests := s.bit st OB_STAT_STALLED ∧ s.pairI (MP_CMD_VEL_LO a) = 0
  let near := rests ∧ cyc ≠ 0 ∧ ((lam - cyc * 262144).natAbs : Int) ≤ s.lmax a
  let s := s.modObs a fun o =>
    { o with
      lambda := lam, qOut := q, corr := corr, stallCnt := c
      stallDue := o.stallDue || (decide (o.stallCnt < n) && decide (n ≤ c))
      slipRun := if near then (if o.slipN = cyc then o.slipRun + 1 else 1) else 0
      slipN := if near then cyc else 0 }
  s.setBit st OB_STAT_CORR (corr ≠ 0)

/-- The back-EMF constant and the feedforward of the next period (R129). -/
def feedForward (a : Fin 32) (e : Option (Rat × Rat)) (s : State) : State :=
  let o := s.obs a
  let w := o.est.speed
  let reg := OB_KE a
  let upd := (s.regime a = 3 ∨ s.obMode a = 3) ∧ s.vHigh a ≤ ratAbs w ∧ w ≠ 0
  let s := match e with
    | some (eA, eB) =>
      let s := s.modObs a fun o => { o with eA := eA, eB := eB }
      if upd then s.setFld reg OB_KE_K (nextKe (s.fld reg OB_KE_K) eA eB w) else s
    | none => s
  let k : Rat := (s.fld reg OB_KE_K : Rat) / 65536
  let th := (o.qOut : Rat) + w * s.tMs a / 2
  let off := s.obMode a = 0
  let put (b : Bool) (x : Rat) (s : State) : State :=
    s.modLoop (s.portOf a b) fun l => { l with bemfNext := if off then 0 else rnd8 x }
  put true (-(k * w * sinTick th) * s.phB a) (put false (k * w * cosTick th) s)

/-- The commutation events predicted for the next period, those of later instants kept (R132). -/
def predictEvents (a : Fin 32) (s : State) : State :=
  let o := s.obs a
  let b := s.nextSample a
  let zc := if s.bit (OB_STAT a) OB_STAT_VALID then
      (zeroCrossings b (s.axT a) o.qOut o.est.speed).filter fun c => s.evOn a c.1
    else []
  s.modObs a fun o => { o with crossings := (o.crossings.filter fun c => b ≤ c.2) ++ zc }

/-- What OB_STAT and OB_LOAD show of a mode without an estimate of the kind they tell of: λ reads 0 in OFF (R118), and the regime
is 0 in OFF and in ENCODER mode (R124). -/
def modeShown (a : Fin 32) (s : State) : State :=
  let m := s.obMode a
  let s := if m = 0 then s.setFldI (OB_LOAD a) OB_LOAD_LAMBDA 0 else s
  if m = 0 ∨ m = 3 then s.setFld (OB_STAT a) OB_STAT_REGIME 0 else s

/-- The observer of an axis that is DISABLED: nothing is measured, and an injection stops at its next n = 0 boundary. -/
def observeDisabled (a : Fin 32) (s : State) : State :=
  let s := (s.setBit (OB_STAT a) OB_STAT_VALID false).setBit (OB_STAT a) OB_STAT_CORR false
  let s := s.modObs a fun o => { o with rises := [], corr := 0, stallDue := false }
  let put (b : Bool) (s : State) : State := s.modLoop (s.portOf a b) fun l => { l with bemfNext := 0 }
  put true (put false (nextInjection a (predictEvents a (modeShown a s))))

/-- OFF: no estimate, λ reads 0 (R118). -/
def observeOff (a : Fin 32) (s : State) : State :=
  let s := modeShown a (s.setReg (OB_STAT a) 0)
  let s := s.modObs a fun o => { o with corr := 0, lambda := 0, stallDue := false }
  predictEvents a (nextInjection a (feedForward a none s))

/-- Step 3 of the observer for the period that ends, from what was sampled at the ports of phase A and B (R116). -/
def observe (a : Fin 32) (xA xB : PortRead) (s : State) : State :=
  let pA := s.portOf a false
  let pB := s.portOf a true
  if s.axState a = axDISABLED then observeDisabled a s
  else if s.obMode a = 0 then observeOff a s
  else
    let sg := s.phB a
    let o := s.obs a
    let r : Rise :=
      if o.injOn then ⟨o.patA, o.patB, s.rise pA xA, (s.rise pB xB).map (sg * ·)⟩ else ⟨0, 0, none, none⟩
    let s := s.modObs a fun o => { o with rises := (r :: o.rises).take 4 }
    let e := match bridgeMean (s.centreReads pA xA.bridge), bridgeMean (s.centreReads pB xB.bridge) with
      | some vA, some vB => some (s.backEmf a pA vA, s.backEmf a pB vB * sg)
      | _, _ => none
    let s := if s.obMode a = 3 then estimateEncoder a s else estimate a e s
    let s := feedForward a e (loadAngle a s)
    predictEvents a (nextInjection a s)

/-- At a boundary the encoder count is latched (R116), CR_STAT.INJ shows the injection of the period that begins, up to 4 periods
after the last injected one (R119), and a BRAKE request that has changed lands with its event (R132). -/
def observerBoundary (a : Fin 32) (s : State) : State :=
  let x := (s.enc (Fin.ofNat 16 (s.fld (OB_CFG a) OB_CFG_ENC))).x
  let req := s.bit (OB_BRAKE a) OB_BRAKE_REQ
  let code := if req then 5 else 6
  let change := req != (s.obs a).brake
  let ev := if change && s.evOn a code then [(code, s.axB a)] else []
  let s := s.setBit (CR_STAT a) CR_STAT_INJ ((s.obs a).injOn || decide ((s.obs a).injTail ≤ 4))
  s.modObs a fun o => { o with encLatch := x, brake := req, crossings := o.crossings ++ ev }

/-! ## Stall, slip and validity (R126, R130, R131) -/

/-- The ladder code of a STALL_RX (R131). -/
def stallRx : Nat → Nat
  | 0 => 1 | 1 => 3 | _ => 4

/-- A declared stall (R130, R131): the event, the counters, HOMED, the mask event of the boundary that follows its step 3, which is
the last one, since the model takes step 3 as its period ends (R132), and the reaction, which homing method 3 suspends. -/
def stall (a : Fin 32) (s : State) : State :=
  if !(s.obs a).stallDue then s
  else
    let lam := (s.obs a).lambda
    let hard := match s.home a with
      | some h => h.method == 3 && decide (1 ≤ h.phase ∧ h.phase ≤ 3)
      | none => false
    let s := s.modObs a fun o => { o with stallDue := false }
    let s := (s.setBit (OB_STAT a) OB_STAT_STALLED true).count (OB_CNT a) OB_CNT_STALLS
    let s := s.setBit (SF_HOME_STAT a) SF_HOME_STAT_HOMED false
    let s := raiseAxis a 0x0401 (plainSev 0x0401) 0 s.now [lam] (axisEvent a 7 lam s)
    let s := if s.evOn a 4 then s.modObs a fun o => { o with crossings := o.crossings ++ [(4, s.axB a)] } else s
    let s := homeStall a s.now lam s
    if hard then s
    else raiseFaultRx 32 (stallRx (s.fld (OB_CFG a) OB_CFG_STALL_RX)) ⟨2, a⟩ (toBits 32 (sat31 lam)) a s

/-- STALL (R130). -/
def execStall (t : Nat) (a : Fin 32) (s : State) : Host.Outcome State Fault Refusal := .next (onPeriod (tileOf a) (stall a) (s.reach t))

/-- A slip of whole cycles that has held for 16 periods is booked into the estimate (R131). OB_SLIP, a counter, saturates
(R260). -/
def bookSlip (a : Fin 32) (s : State) : State :=
  let o := s.obs a
  if o.slipRun < 16 then s
  else
    let n := o.slipN
    let d := n * 262144
    let d16 : Int := 65536 * d
    let s := s.modObs a fun o =>
      { o with est := o.est.shift d16, inj := o.inj.shift d16, bemf := o.bemf.shift d16, encOfs := o.encOfs + d, slipRun := 0, slipN := 0 }
    let s := s.setFldI (OB_SLIP a) OB_SLIP_CYC (clampInt (-2147483648) 2147483647 (s.fldI (OB_SLIP a) OB_SLIP_CYC + n))
    record .slip 0 0 a [toBits 32 n] s

/-- OB_SLIP (R131). -/
def execObSlip (t : Nat) (a : Fin 32) (s : State) : Host.Outcome State Fault Refusal := .next (bookSlip a (s.reach t))

/-- The estimate is no longer usable: corr is 0 and no crossing is generated (R126). -/
def loseValid (a : Fin 32) (s : State) : State :=
  let s := (s.setBit (OB_STAT a) OB_STAT_VALID false).setBit (OB_STAT a) OB_STAT_CORR false
  s.modObs a fun o => { o with corr := 0, crossings := o.crossings.filter fun c => 4 ≤ c.1 }

/-- Saliency below SALMIN for 256 demodulations in a row sets WEAK, with a warning record (R126). -/
def setWeak (a : Fin 32) (s : State) : State :=
  if 256 ≤ (s.obs a).weakRun ∧ !s.bit (OB_STAT a) OB_STAT_WEAK then
    let s := loseValid a (s.setBit (OB_STAT a) OB_STAT_WEAK true)
    record .weakSaliency 1 0 a [s.fld (OB_SAL a) OB_SAL_SAL] s
  else s

/-- WEAK (R126). -/
def execWeak (t : Nat) (a : Fin 32) (s : State) : Host.Outcome State Fault Refusal := .next (setWeak a (s.reach t))

/-- 64 periods in a row without a measurement in regime 1 or 2 make the estimate invalid (R126). -/
def estimateTimeout (a : Fin 32) (s : State) : State :=
  if 64 ≤ (s.obs a).noMeas ∧ (s.regime a = 1 ∨ s.regime a = 2) then
    loseValid a (s.modObs a fun o => { o with timedOut := true })
  else s

/-- ESTIMATE_TIMEOUT (R126). -/
def execEstimateTimeout (t : Nat) (a : Fin 32) (s : State) : Host.Outcome State Fault Refusal :=
  .next (estimateTimeout a (s.reach t))

/-! ## SET_PARAM for the mode (R118), and SET_PARAM as a whole (R57) -/

/-- SET_PARAM 0x0300 at its landing (R118). -/
def modeParam (d : Desc) (s : State) : State :=
  let a := finAx d.target
  let p := d.payload
  let m := payByte p 8
  let cur := s.obMode a
  if paramBad p 1 || payByte p 2 != 255 || !payBit p 3 0 || (m != 1 && m != 2) then refuseMotion d a stREFUSED_VALUE s
  else if cur = 0 ∨ cur = 3 then refuseMotion d a stREFUSED_STATE s
  else if m = 2 ∧ s.lmax a < ((s.obs a).lambda.natAbs : Int) then refuseMotion d a stREFUSED_RANGE s
  else complete d stDONE 0 (s.landOf d) (s.setFld (OB_CFG a) OB_CFG_MODE m)

/-- SET_PARAM at its landing, by identifier (R57, R111, R118). -/
def landSetParam (d : Desc) (s : State) : State :=
  let id := pay16 d.payload 0
  if 0x0100 ≤ id ∧ id ≤ 0x0103 then profileParam d s
  else if 0x0200 ≤ id ∧ id ≤ 0x0203 then loopParam d s
  else if id = 0x0300 then modeParam d s
  else refuseMotion d (finAx d.target) stREFUSED_VALUE s

/-- SET_PARAM (R57). -/
def execSetParam (d : Desc) (s : State) : Host.Outcome State Fault Refusal := .next (submit d (landSetParam d) s)

end Sys2Proof.Machine
end

