-- ==== Sys2Proof/Machine/Compare.lean ====
section
/-! DEFINITION. Comparators and window monitors (spec/10): configuration and preload, outputs, self-checks and
retirement, the states of the window monitors. -/

namespace Sys2Proof.Machine

/-! ## Configuration (R173–R176) -/

/-- CMP_CFG of a port comparator, in the order of CMP_STAT. -/
def cmpCfg (p : Fin 64) (i : Nat) : Nat := 0x203000 + pT p * 0x40000 + pI p * 0x40 + i * 4

/-- CMP_WCFG of a comparator of a tile's window monitors: 2j is H and 2j + 1 is L of monitor j. -/
def wcmpCfg (t : Fin 4) (i : Nat) : Nat := CMP_WCFG t (i / 2) (i % 2)

/-- Samples of the filter in ns: `n` clocks of 200 MHz ÷ (DIV + 1) (R176). -/
def State.filtNs (s : State) (cfg n : Nat) : Nat := n * (s.fld cfg CMP_CFG_DIV + 1) * 5

/-- A comparator without hysteresis. -/
def State.noHys (s : State) (cfg : Nat) : Bool := s.fld cfg CMP_CFG_HYS == 0

/-- A filter preloaded at an instant has taken M samples; at once in bypass (R178). -/
def State.filled (s : State) (cfg preAt : Nat) : Bool :=
  let m := s.fld cfg CMP_CFG_M
  decide (m ≤ 1) || decide (preAt + s.filtNs cfg m ≤ s.now)

/-- The filtered output of a comparator from its raw outputs at the last filter clocks, the latest first, its preload, and what it
showed (R176, R178). -/
def State.compLevel (s : State) (cfg preAt : Nat) (raw : BitVec 15) (was : Bool) : Bool :=
  majority (s.fld cfg CMP_CFG_M) (s.fld cfg CMP_CFG_N) (pinSamples raw false (s.filtNs cfg 1) preAt s.now) was

/-- A comparator of inverted use: ITL, and L of a window monitor (R173). -/
def portInverted (i : Nat) : Bool := i == 3
def winInverted (i : Nat) : Bool := i % 2 == 1

/-! ## Port comparators (R178, R347) -/

/-- The comparators of a port are powered: ARMED or RUN, until its last carrier has ended at the pins, or under off-state
diagnostics (R347). -/
def State.compsOn (s : State) (p : Fin 64) : Bool :=
  s.portState p == pARMED || s.portState p == pRUN || (s.pwm p).tail.isSome || s.underDiag p

/-- A filtered output of a port comparator shows in CMP_STAT; an active output is no longer UNKNOWN (R178), and one that goes active
may trigger an injected conversion (R190). An unpowered comparator reads inactive and UNKNOWN (R347). -/
def showComp (p : Fin 64) (i : Nat) (on : Bool) (s : State) : State :=
  if !s.compsOn p then s
  else
    let r := CMP_STAT (pT p) (pI p)
    let rises := on && !s.bit r ⟨i, 1⟩
    let s := s.setBit r ⟨i, 1⟩ on
    let s := if on then s.setBit r ⟨16 + i, 1⟩ false else s
    if rises then injCompare (tileOfPort p) (10 * pI p + i) s else s

/-- The filtered output of a port comparator from its raw outputs. -/
def State.portLevel (s : State) (p : Fin 64) (i : Nat) (raw : BitVec 15) : Bool :=
  s.compLevel (cmpCfg p i) ((s.port p).preAt.toArray.getD i 0) raw (s.bit (CMP_STAT (pT p) (pI p)) ⟨i, 1⟩)

/-- A port comparator is preloaded inactive and UNKNOWN, at power-up and when its configuration is written; without hysteresis and in
bypass UNKNOWN clears at once (R178). -/
def preloadComp (p : Fin 64) (s : State) (i : Nat) : State :=
  let r := CMP_STAT (pT p) (pI p)
  let c := cmpCfg p i
  let s := (s.setBit r ⟨i, 1⟩ false).setBit r ⟨16 + i, 1⟩ (!(s.noHys c && s.filled c s.now))
  s.modPort p fun x => { x with preAt := x.preAt.setIfInBounds i s.now }

/-- All ten comparators of a port are preloaded (R178, R347). -/
def preloadPort (p : Fin 64) (s : State) : State := (List.range 10).foldl (preloadComp p) s

/-- UNKNOWN of a comparator without hysteresis clears once its filter has taken M samples (R178). -/
def settleComps (p : Fin 64) (s : State) : State :=
  (List.range 10).foldl (fun s i =>
    if s.compsOn p ∧ s.noHys (cmpCfg p i) ∧ s.filled (cmpCfg p i) ((s.port p).preAt.toArray.getD i 0) then
      s.setBit (CMP_STAT (pT p) (pI p)) ⟨16 + i, 1⟩ false
    else s) s

/-- The filtered outputs of a port at the end of a period, from the raw outputs given; the others stand as they are. -/
def showComps (p : Fin 64) (raws : List (BitVec 15)) (s : State) : State :=
  settleComps p (((List.range 10).zip raws).foldl (fun s x => showComp p x.1 (s.portLevel p x.1 x.2) s) s)

/-- Adaptation is possible: SNA and SNB in mode F and not retired (R154, R181). -/
def State.adaptable (s : State) (p : Fin 64) : Bool :=
  s.fld (cmpCfg p 0) CMP_CFG_MODE == 0 && s.fld (cmpCfg p 1) CMP_CFG_MODE == 0 &&
  s.fld (CMP_CHKRES (pT p) (pI p)) CMP_CHKRES_RETIRED % 4 == 0

/-- GD_STAT.ADAPT_OK (R154). -/
def followAdapt (p : Fin 64) (s : State) : State := s.setBit (GD_STAT (pT p) (pI p)) GD_STAT_ADAPT_OK (s.adaptable p)

/-- A protection comparator of the port is retired (R181). -/
def State.protRetired (s : State) (p : Fin 64) : Bool :=
  s.fld (CMP_CHKRES (pT p) (pI p)) CMP_CHKRES_RETIRED / 4 != 0

/-! ## Window monitors (R182, R183) -/

def State.modWin (s : State) (t : Fin 4) (f : Windows → Windows) : State := s.modTile t fun x => { x with win := f x.win }

/-- The window block of a tile has a parity fault (R182). -/
def State.windowParity (s : State) (t : Fin 4) : Bool :=
  (s.tile t).parBad.any fun a => decide (CMP_WCFG t 0 0 ≤ a) && decide (a < CMP_WCFG t 0 0 + 0x100)

/-- The state of a monitor by the table of R182. -/
def State.windowState (s : State) (t : Fin 4) (j : Nat) : Nat :=
  let w := (s.tile t).win
  let get (v : Vector Bool 16) (i : Nat) : Bool := v.toArray.getD i false
  let h := get w.out (2 * j)
  let l := get w.out (2 * j + 1)
  if s.windowParity t then 6
  else if get w.retired (2 * j) || get w.retired (2 * j + 1) then 5
  else if h && l then 4
  else if h then 3
  else if l then 1
  else if !get w.unknown (2 * j) && !get w.unknown (2 * j + 1) then 2
  else 0

/-- A check of either comparator of a monitor runs (R180). -/
def State.windowBusy (s : State) (t : Fin 4) (j : Nat) : Bool :=
  let get (i : Nat) : Bool := ((s.tile t).win.check.toArray.getD i none).isSome
  get (2 * j) || get (2 * j + 1)

/-- The axes of AXMASK of a monitor. -/
def State.windowAxes (s : State) (t : Fin 4) (j : Nat) : List (Fin 32) :=
  (tileAxes t).filter fun a => (s.fld (CMP_WCTRL t j) CMP_WCTRL_AXMASK).testBit (a.1 % 8)

/-- WINDOW: the event and the engines that can wait on it (R183, R209). -/
def raiseWindow (t : Fin 4) (j old new : Nat) (s : State) : State :=
  let w := 8 * t.1 + j
  let s := raiseEvent (s.ownerAx (finAx (8 * t.1))) ⟨0x0601, plainSev 0x0601, 2, t, 0, s.now, [w, old, new]⟩ s
  (s.windowAxes t j).foldl (fun s a => axisEvent a 10 (Config.windowParam w old new).toNat s) s

/-- A state in which a monitor counts an exit. -/
def isExit (st : Nat) : Bool := st == 1 || st == 3 || st == 4

/-- A state for which FAILSAFE raises the fault. -/
def isLost (st : Nat) : Bool := st == 5 || st == 6

/-- A state of a monitor that stands at its evaluation is reported against the one of the evaluation before: the event, EXITS, and the
faults (R183). -/
def reportWindow (t : Fin 4) (j new : Nat) (s : State) : State :=
  let c := CMP_WCTRL t j
  let w := (s.tile t).win
  let old := w.seen.toArray.getD j 0
  if old = new then s
  else
    let s := if s.bit c CMP_WCTRL_EV_EN then raiseWindow t j old new s else s
    let s := if isExit new then s.count (CMP_WCNT t) CMP_WCNT_EXITS else s
    let lost := isLost new && s.bit c CMP_WCTRL_FAILSAFE && !w.failed.toArray.getD j false
    let s := s.modWin t fun w => { w with
      seen := w.seen.setIfInBounds j new
      failed := w.failed.setIfInBounds j (isLost new && (lost || w.failed.toArray.getD j false)) }
    if (isExit new && s.bit c CMP_WCTRL_FAULT_EN) || lost then raiseFaultAll 17 ⟨3, t⟩ 0 (s.windowAxes t j) s else s

/-- The state of a monitor shows in CMP_WSTAT. -/
def setWindow (t : Fin 4) (j new : Nat) (s : State) : State := s.setFld (CMP_WSTAT t) (CMP_WSTAT_STATE j) new

/-- A monitor is evaluated (R182, R183). During a check its state holds, and for 4 × M filter clocks after a check or a reconfiguration
nothing is evaluated or raised, but that PARITY and RETIRED show while they hold; what then stands is reported at the first
evaluation after that time (R178, R180, R260; what shows meanwhile is DEDUCED, log). -/
def evalWindow (t : Fin 4) (j : Nat) (s : State) : State :=
  let new := s.windowState t j
  if s.windowBusy t j then s
  else if s.now < (s.tile t).win.quiet.toArray.getD j 0 then
    if isLost new || isLost (s.fld (CMP_WSTAT t) (CMP_WSTAT_STATE j)) then setWindow t j new s else s
  else reportWindow t j new (setWindow t j new s)

/-- The monitors of a tile are evaluated. -/
def evalWindows (t : Fin 4) (s : State) : State := (List.range 8).foldl (fun s j => evalWindow t j s) s

/-- The filtered output of a window comparator from its raw outputs. -/
def State.winLevel (s : State) (t : Fin 4) (i : Nat) (raw : BitVec 15) : Bool :=
  let w := (s.tile t).win
  s.compLevel (wcmpCfg t i) (w.preAt.toArray.getD i 0) raw (w.out.toArray.getD i false)

/-- UNKNOWN of a window comparator follows its output, its hysteresis and its filter (R178). -/
def settleWindow (t : Fin 4) (i : Nat) (s : State) : State :=
  let w := (s.tile t).win
  if w.out.toArray.getD i false ∨ (s.noHys (wcmpCfg t i) ∧ s.filled (wcmpCfg t i) (w.preAt.toArray.getD i 0)) then
    s.modWin t fun w => { w with unknown := w.unknown.setIfInBounds i false }
  else s

/-- A filtered output of a window comparator; one that goes active may trigger an injected conversion (R190). -/
def showWin (t : Fin 4) (i : Nat) (on : Bool) (s : State) : State :=
  let rises := on && !(s.tile t).win.out.toArray.getD i false
  let s := s.modWin t fun w => { w with out := w.out.setIfInBounds i on }
  if rises then injCompare t (160 + i) s else s

/-- The filtered outputs of a monitor follow the raw outputs of its H and L, and its state follows them (R176, R183). -/
def windowChange (t : Fin 4) (j : Fin 8) (rawH rawL : BitVec 15) (s : State) : State :=
  let h := s.winLevel t (2 * j.1) rawH
  let l := s.winLevel t (2 * j.1 + 1) rawL
  let s := showWin t (2 * j.1 + 1) l (showWin t (2 * j.1) h s)
  evalWindow t j (settleWindow t (2 * j.1 + 1) (settleWindow t (2 * j.1) s))

/-- WINDOW (R183): the window monitors are powered in every state but OFF (R347). -/
def execWindow (at_ : Nat) (t : Fin 4) (j : Fin 8) (rawH rawL : BitVec 15) (s : State) : Host.Outcome State Fault Refusal :=
  .next ((s.reach at_).onlyIf (s.devState != dOFF) (windowChange t j rawH rawL))

/-- A window comparator is preloaded, and its monitor is quiet for 4 × M filter clocks (R178). -/
def preloadWindow (t : Fin 4) (i : Nat) (s : State) : State :=
  let cfg := wcmpCfg t i
  let q := s.now + s.filtNs cfg (4 * s.fld cfg CMP_CFG_M)
  s.modWin t fun w => { w with
    out := w.out.setIfInBounds i false
    unknown := w.unknown.setIfInBounds i (!(s.noHys cfg && s.filled cfg s.now))
    preAt := w.preAt.setIfInBounds i s.now
    quiet := w.quiet.setIfInBounds (i / 2) (max q (w.quiet.toArray.getD (i / 2) 0)) }

/-- A monitor whose comparator was reconfigured shows what the preload makes of it, and raises nothing (R178). -/
def showWindow (t : Fin 4) (j : Nat) (s : State) : State :=
  if s.windowBusy t j then s else setWindow t j (s.windowState t j) s

/-! ## Self-checks (R179–R181) -/

/-- A check at its first step. -/
def CmpCheck.first : CmpCheck := ⟨1, 1, false, false, false⟩

/-- The ten comparators of a port start their check at a diagnostics run, all in parallel (R180). -/
def startPortChecks (p : Fin 64) (s : State) : State :=
  s.modPort p fun x => { x with check := Vector.replicate 10 (some CmpCheck.first) }

/-- A check of a monitor is requested: both its comparators; while one runs the request is ignored (R180). -/
def startWindowCheck (t : Fin 4) (j : Nat) (s : State) : State :=
  if s.windowBusy t j then s
  else
    let s := s.modWin t fun w => { w with
      check := (w.check.setIfInBounds (2 * j) (some CmpCheck.first)).setIfInBounds (2 * j + 1) (some CmpCheck.first) }
    s.setBit (CMP_WCHK t) ⟨j, 1⟩ true

/-- What a step of a check comes to. -/
inductive CheckNext where
  /-- The check goes on; true where an attempt has failed. -/
  | goes (c : CmpCheck) (failed : Bool)
  /-- The check has ended: 1 passed, 2 passed with the swap undetermined, 3 failed. -/
  | ended (result : Nat)
  deriving DecidableEq, Repr

/-- A failed attempt is repeated at once, up to 3 attempts in all. -/
def CmpCheck.fails (c : CmpCheck) : CheckNext :=
  if c.attempt < 3 then .goes { CmpCheck.first with attempt := c.attempt + 1 } true else .ended 3

/-- A step of a check ends with a raw output (R179); `normal` is the output in normal order before step 1. -/
def CmpCheck.sample (c : CmpCheck) (inverted normal raw : Bool) : CheckNext :=
  match c.step with
  | 1 => .goes { c with step := 2, normal := normal, undet := raw == normal } false
  | 2 => if raw == !inverted then .goes { c with step := 3 } false else c.fails
  | _ => if raw == inverted then .ended (if c.undet then 2 else 1) else c.fails

/-- A retired comparator: one warning record and one counter (R181, R319). -/
def noteRetired (kind idx i : Nat) (s : State) : State :=
  record .selfCheckRetire 1 kind idx [i] (s.count GLB_RET_CNT GLB_RET_CNT_COMPARATORS)

/-- A port comparator's check has ended (R178, R179, R181). One that is retired stays so, whatever a later check shows. -/
def endPortCheck (p : Fin 64) (i : Nat) (res : Nat) (s : State) : State :=
  let r := CMP_CHKRES (pT p) (pI p)
  let s := s.modPort p fun x => { x with check := x.check.setIfInBounds i none }
  let s := preloadComp p (s.setFld r ⟨2 * i, 2⟩ res) i
  if res ≠ 3 then s.setBit (CMP_STAT (pT p) (pI p)) ⟨16 + i, 1⟩ false
  else if s.bit r ⟨20 + i, 1⟩ then s
  else
    let first := 2 ≤ i ∧ !s.protRetired p
    let s := followAdapt p (noteRetired 1 p i (s.setBit r ⟨20 + i, 1⟩ true))
    if first then s.count GLB_RET_CNT GLB_RET_CNT_PORTS else s

/-- A window comparator's check has ended; with the last of the monitor its request bit clears and its result shows. -/
def endWindowCheck (t : Fin 4) (i : Nat) (res : Nat) (s : State) : State :=
  let j := i / 2
  let s := s.modWin t fun w => { w with check := w.check.setIfInBounds i none, res := w.res.setIfInBounds i res }
  let s := preloadWindow t i s
  let s := if res ≠ 3 then s.modWin t fun w => { w with unknown := w.unknown.setIfInBounds i false }
    else if (s.tile t).win.retired.toArray.getD i false then s
    else
      let s := s.modWin t fun w => { w with retired := w.retired.setIfInBounds i true }
      noteRetired 2 t i (s.setBit (CMP_WCHK t) ⟨24 + j, 1⟩ true)
  if s.windowBusy t j then s
  else
    let w := (s.tile t).win
    let worse := max (w.res.toArray.getD (2 * j) 0) (w.res.toArray.getD (2 * j + 1) 0)
    evalWindow t j ((s.setBit (CMP_WCHK t) ⟨j, 1⟩ false).setFld (CMP_WCHK t) ⟨8 + 2 * j, 2⟩ worse)

/-- A step of a comparator's check ends (R179): a failed attempt counts, and one that is repeated leaves an info record
(R319). -/
def checkStep (c : CmpRef) (normal raw : Bool) (s : State) : State :=
  match c with
  | .port p i =>
    match (s.port p).check[i] with
    | none => s
    | some k =>
      match k.sample (portInverted i) normal raw with
      | .goes k' failed =>
        let s := s.modPort p fun x => { x with check := x.check.set i.1 (some k') i.2 }
        if failed then record .selfCheckRetry 0 1 p [i] (s.count (CMP_CNT (pT p) (pI p)) CMP_CNT_CHKFAIL) else s
      | .ended res =>
        let s := if res = 3 then s.count (CMP_CNT (pT p) (pI p)) CMP_CNT_CHKFAIL else s
        endPortCheck p i res s
  | .window t i =>
    match (s.tile t).win.check[i] with
    | none => s
    | some k =>
      match k.sample (winInverted i) normal raw with
      | .goes k' failed =>
        let s := s.modWin t fun w => { w with check := w.check.set i.1 (some k') i.2 }
        if failed then record .selfCheckRetry 0 2 t [i] (s.count (CMP_WCNT t) CMP_WCNT_CHKFAIL) else s
      | .ended res =>
        let s := if res = 3 then s.count (CMP_WCNT t) CMP_WCNT_CHKFAIL else s
        endWindowCheck t i res s

end Sys2Proof.Machine
end

