-- ==== Sys2Proof/Machine/Pwm.lean ====
section
/-! DEFINITION. Bridge-port PWM generator (spec/08): port time, high intervals, clamp and short pulses, shadows and gang
loading, port states, the cycle-by-cycle trip, output masks, and the gate pins as the layers of R149 compose them. -/

namespace Sys2Proof.Machine

/-! ## The schedule of a port period (R138, R139) -/

/-- The high intervals of centre leg and valley leg for a duty and a decay fraction of 256 (R138). -/
def loopHighs (tu : Nat) (d : Int) (mm : Nat) : Nat × Nat :=
  let ad : Int := d.natAbs
  let q (n : Int) : Nat := (roundHalfAway ((tu * n : Int) / (16777216 : Rat))).toNat
  (q (512 * ad + mm * (32768 - ad)), q (mm * (32768 - ad)))

/-- The schedule of one leg: placement, high interval of each carrier, carrier length in units and the carriers of the
port period. -/
structure LegPlan where
  valley : Bool
  high : Nat
  carrier : Nat
  carriers : Nat
  deriving DecidableEq, Repr

/-- The schedule in force for a port period (R138, R139). -/
def State.legPlan (s : State) (p : Fin 64) (b : Bool) : LegPlan :=
  let tu := s.tu p
  if s.direct p then
    let cfg := PWM_DCFG (pT p) (pI p)
    let n := 2 ^ s.forceFld cfg PWM_DCFG_NDIV
    if b then ⟨s.forceBit cfg PWM_DCFG_CEN_B, s.forceFld (PWM_DHB (pT p) (pI p)) PWM_DHB_H, tu / n, n⟩
    else ⟨s.forceBit cfg PWM_DCFG_CEN_A, s.forceFld (PWM_DHA (pT p) (pI p)) PWM_DHA_H, tu / n, n⟩
  else
    let l := s.loop p
    let (hf, hr) := loopHighs tu l.dNow l.mNow
    let centre := decide (0 ≤ l.dNow) != b
    if centre then ⟨false, hf, tu, 1⟩ else ⟨true, hr, tu, 1⟩

/-- A pulse that the schedule asks for waits for the instant of its turn-on (R138). -/
def planPulse (p : Fin 64) (b : Bool) (carrier : Nat) (x0 : Rat) (h : Nat) (an : Anchor) (s : State) : State :=
  if h = 0 then s else s.modLeg p b fun l => { l with planned := l.planned ++ [⟨carrier, x0, h, an⟩] }

/-- The pulses inside a port period from carrier `c` on, `n` of them: a centre pulse on each carrier, or a joined pulse at
each inner junction (R139). -/
def innerPulses (p : Fin 64) (b : Bool) (l : LegPlan) (v : Rat) : Nat → Nat → State → State
  | 0, _, s => s
  | n + 1, c, s =>
    let x := v + unitNs (c * l.carrier : Nat)
    let s :=
      if l.valley then
        if n = 0 then s
        else planPulse p b l.carrier (x + unitNs l.carrier - unitNs ((l.high - l.high / 2 : Nat) : Int)) l.high .centre s
      else planPulse p b l.carrier (x + unitNs l.carrier / 2 - unitNs l.high / 2) l.high .centre s
    innerPulses p b l v n (c + 1) s

/-- One leg of the port period that begins at valley `v` (R138, R139): the carry clears where the
placement changed, which in LOOP is a change of the sign of d (R141), the
pulse across the valley is planned from the end half that waited and the start half, and an end half whose turn-on
comes before the next interval is latched is planned alone. -/
def buildLeg (p : Fin 64) (v : Rat) (b : Bool) (s : State) : State :=
  let l := s.legPlan p b
  let g := s.leg p b
  let s := if g.built ∧ g.valley ≠ l.valley then s.setCarry p b 0 else s
  let start := if l.valley then l.high / 2 else 0
  let last := if l.valley then l.high - l.high / 2 else 0
  let s := if g.alone then planPulse p b l.carrier v start .startAt s
    else planPulse p b l.carrier (v - unitNs g.endHalf) (g.endHalf + start) .centre s
  let s := innerPulses p b l v l.carriers 0 s
  let lag : Rat := s.stagger p + (if s.direct p then 0 else 400)
  let alone := decide (lag < unitNs last)
  let s := if alone then planPulse p b l.carrier (v + s.portT p - unitNs last) last .endAt s else s
  s.modLeg p b fun g => { g with endHalf := if alone then 0 else last, alone := alone, valley := l.valley, built := true }

/-- The pulse across the valley of an entry to OFF, so that no carrier is cut short (R145). -/
def lastPulse (p : Fin 64) (b : Bool) (s : State) : State :=
  let e := (s.leg p b).endHalf
  planPulse p b (s.legPlan p b).carrier ((s.valley p : Rat) - unitNs e) e .endAt s

/-- The port period of the last boundary is built for a port in RUN, and before an entry to OFF what remains of the one before it
(R138, R145). -/
def buildPort (p : Fin 64) (s : State) : State :=
  if s.portState p ≠ pRUN then s
  else if (s.pwm p).offDue then lastPulse p true (lastPulse p false s)
  else buildLeg p (s.valley p) true (buildLeg p (s.valley p) false s)

/-! ## Enable and disable (R144–R146) -/

/-- Board index of a port on its tile (R283). -/
def boardOf (p : Fin 64) : Nat := pI p / 2

/-- The board of a port fails the check of R290 against ID_EXPECT and the configured limits. -/
def State.boardBad (s : State) (p : Fin 64) : Bool :=
  let t := pT p
  let j := boardOf p
  let e := ID_EXPECT t j
  let cls := s.fld e ID_EXPECT_CLASS
  let vmin := s.fld e ID_EXPECT_VMIN
  let w2 := (s.reg (ID_BRD_W t j 2)).toNat
  let rated := (s.reg (ID_BRD_W t j 6)).toNat % 65536
  let above := match s.axisOfPort p with
    | some (a, _) => decide (rated * 65536 < s.ifs p * s.fld (CR_IMAX a) CR_IMAX_IMAX)
    | none => false
  (cls != 0 && cls != w2 % 65536) || (vmin != 0 && decide (w2 / 65536 < vmin)) || above

/-- The port is retired, or held by a parity fault (R146, cause 8). -/
def State.portRetired (s : State) (p : Fin 64) : Bool :=
  s.protRetired p || s.portParity p || s.fld (ID_STAT (pT p) (boardOf p)) ID_STAT_BOARD == 4 ||
  s.fld (ID_STAT (pT p) (boardOf p)) ID_STAT_MOTOR == 4

/-- The off-state diagnostics of the port allow an enable (R146, cause 6). -/
def State.diagPassed (s : State) (p : Fin 64) : Bool :=
  s.fld (GD_DIAG (pT p) (pI p)) GD_DIAG_RESULT == 1 && !s.bit (GD_STAT (pT p) (pI p)) GD_STAT_DIAG_REQ &&
  (match (s.tile (tileOfPort p)).diag with
    | some r => r.ports.head? != some (pI p)
    | none => true)

/-- DIRECT and LOOP do not share an axis that is in use (R146, cause 10). -/
def State.driveClash (s : State) (p : Fin 64) : Bool :=
  match s.axisOfPort p with
  | none => false
  | some (a, b) =>
    let q := s.portOf a (!b)
    if s.direct p then s.axState a != axDISABLED || (q != p && !s.direct q && s.portOn q)
    else q != p && s.direct q && s.portOn q

/-- The lowest code of R146 that holds, 0 for none. -/
def State.refuseCause (s : State) (p : Fin 64) : Nat :=
  let t := pT p
  let i := pI p
  if s.quality = 3 ∧ !s.bit NET_CTRL NET_CTRL_LOCAL_OK then 1
  else if !s.bit (CR_IFS t i) CR_IFS_VALID then 2
  else if !s.direct p ∧ ((s.axisOfPort p).elim false fun x => s.overRated x.1 p) then 3
  else if maxStag (s.portT p) < s.fld (PWM_STAGGER t i) PWM_STAGGER_STAG then 4
  else if s.deadTime p < s.fld (PWM_DTMIN t) PWM_DTMIN_DTMIN then 5
  else if !s.diagPassed p then 6
  else if s.boardBad p then 7
  else if s.portRetired p then 8
  else if (s.devState ≠ dCOMMITTED ∧ s.devState ≠ dRUN) ∨
      !s.bit (CFG_CAB_STAT (s.ownerPort p)) CFG_CAB_STAT_COMMITTED then 9
  else if s.driveClash p then 10
  else 0

/-- The limits of GD_LIM for a switch: lowest and highest source code, lowest and highest sink code. -/
def State.codeLim (s : State) (p : Fin 64) (sw : Nat) : (Nat × Nat) × (Nat × Nat) :=
  let r := GD_LIM (pT p) (pI p)
  if sw % 2 = 0 then
    ((s.fld r GD_LIM_HS_SRC_MIN, s.fld r GD_LIM_HS_SRC_MAX), (s.fld r GD_LIM_HS_SNK_MIN, s.fld r GD_LIM_HS_SNK_MAX))
  else
    ((s.fld r GD_LIM_LS_SRC_MIN, s.fld r GD_LIM_LS_SRC_MAX), (s.fld r GD_LIM_LS_SNK_MIN, s.fld r GD_LIM_LS_SNK_MAX))

/-- The eight codes as one word. -/
def packCodes : List Nat → Nat
  | [] => 0
  | c :: cs => c + 16 * packCodes cs

/-- The INIT codes clamped into GD_LIM (R153). -/
def State.initCodes (s : State) (p : Fin 64) : Nat :=
  let w := s.fld (GD_CODE_INIT (pT p) (pI p)) GD_CODE_INIT_CODES
  packCodes ((List.range 8).map fun i =>
    let l := s.codeLim p (i / 2)
    let (lo, hi) := if i % 2 = 0 then l.1 else l.2
    max lo (min hi (nibble w i)))

/-- Entry to RUN at the last boundary: counts of R147 from zero, the strength codes of R153, and the mask of PWM_MASKSEL
(R145, R147, R148, R153). The latches of R164 last until EN = 0, so a port that was ARMED meanwhile keeps them. -/
def startRun (p : Fin 64) (s : State) : State :=
  let s := s.setReg (PWM_TRIPSTAT (pT p) (pI p)) 0
  let s := s.modPwm p fun w => { Pwm.init with carK := (s.tile (tileOfPort p)).k, pinAt := s.now, skewNext := w.skewNext }
  let s := setCodes p 0 (s.initCodes p) s
  let s := s.setBit (GD_STAT (pT p) (pI p)) GD_STAT_AT_LIMIT false
  let s := s.modGd p fun g => { g with
    limRun := Vector.replicate 8 0, atLim := Vector.replicate 8 false
    tOn := Vector.replicate 4 none, tOff := Vector.replicate 4 none }
  let s := s.enterPort p pRUN
  selectMask p (s.valley p) 0 (s.forceFld (PWM_MASKSEL (pT p) (pI p)) PWM_MASKSEL_SEL) s

/-- EN = 1 lands on a port in OFF (R144, R146). -/
def landEnableOf (p : Fin 64) (s : State) : State :=
  if s.portState p ≠ pOFF then s
  else
    let s := s.setBit (ID_STAT (pT p) (boardOf p)) ID_STAT_MISMATCH (s.boardBad p)
    let c := s.refuseCause p
    let s := s.setFld (pwmStat p) PWM_STAT_REFUSE c
    if c ≠ 0 then
      let s := if c = 7 then record .boardMismatch 1 1 p [c] s else s
      record .portRefused 1 1 p [c] (s.enterPort p pREFUSED)
    else if s.direct p then preloadPort p (startRun p s)
    else preloadPort p (s.enterPort p pARMED)

/-- The latches of R164 end with the RUN episode of a port, by EN = 0. -/
def endLatches (p : Fin 64) (s : State) : State :=
  (s.setFld (GD_STAT (pT p) (pI p)) GD_STAT_LATCH 0).modGd p fun g => { g with shortLatch := false }

/-- The entry to OFF at the port valley (R144, R145). The gates of a port in RUN follow the schedule until its carrier has ended at the
pins, with their drive codes, and so long its latches and its trip hold; its partner leaves RUN at the same instant. An axis with a port disabled is DISABLED (R51). -/
def enterOff (p : Fin 64) (v : Nat) (s : State) : State :=
  let s := s.modPwm p fun w => { w with offDue := false }
  if s.portState p = pOFF then s
  else
    let ran := s.portState p = pRUN
    let direct := s.direct p
    let s := if ran then s.modPwm p fun w => { w with tail := some (v : Rat) } else endLatches p s
    let s := followPorts (followPartner p pOFF (decide ran && !direct) v (movePort p pOFF s))
    let s := (s.setFld (pwmStat p) PWM_STAT_REFUSE 0).setReg (GD_ACODE (pT p) (pI p)) 0
    match s.axisOfPort p with
    | some (a, _) => if direct then s else enterDisabled a s
    | none => s

/-- The last carrier of a port that is OFF has ended at its pins. -/
def endTail (p : Fin 64) (s : State) : State :=
  match (s.pwm p).tail with
  | none => s
  | some v =>
    if (s.now : Rat) < v + 750 then s
    else
      let s := endLatches p (s.modPwm p fun w => { w with tail := none })
      unpower p (s.setBit (pwmStat p) PWM_STAT_TRIPPING false)

/-! ## Shadows, gang loading and skew (R142, R143) -/

/-- The value an rs register hands to the next apply: the shadow, or the one before a write in the last tile clock of the
period (R20). -/
def State.due (s : State) (a : Nat) : Word := (cellGet s.late a).getD (s.reg a)

/-- One shadow comes into force. -/
def applyShadow (s : State) (a : Nat) : State :=
  (s.setForce a (s.due a)).setWritten (s.written.filter fun x => x != a)

/-- The rs registers of a port block (R142). -/
def portShadows (p : Fin 64) : List Nat :=
  [PWM_CTRL (pT p) (pI p), PWM_DCFG (pT p) (pI p), PWM_DHA (pT p) (pI p), PWM_DHB (pT p) (pI p), PWM_MASKSEL (pT p) (pI p)]

/-- A new PWM_DCFG comes while the duty of a leg was not written (R143). -/
def State.skews (s : State) (p : Fin 64) : Bool :=
  s.written.contains (PWM_DCFG (pT p) (pI p)) &&
  (!s.written.contains (PWM_DHA (pT p) (pI p)) || !s.written.contains (PWM_DHB (pT p) (pI p)))

/-- SHADOW_SKEW, which PWM_STAT shows for the port period that follows (R143). -/
def noteSkew (p : Fin 64) (on : Bool) (s : State) : State :=
  let s := s.modPwm p fun w => { w with skewNext := on }
  if on then record .skew 1 1 p [] (s.count (PWM_CNT (pT p) (pI p)) PWM_CNT_SKEW) else s

/-- The shadows of a port land at a boundary, with EN and a mask selection; an entry to OFF and the selection wait for the port
valley (R142–R145, R148). -/
def landPort (p : Fin 64) (s : State) : State :=
  let was := s.forceBit (PWM_CTRL (pT p) (pI p)) PWM_CTRL_EN
  let skew := s.skews p
  let sel := s.written.contains (PWM_MASKSEL (pT p) (pI p))
  let s := noteSkew p skew ((portShadows p).foldl applyShadow s)
  let en := s.forceBit (PWM_CTRL (pT p) (pI p)) PWM_CTRL_EN
  if was ∧ !en then s.modPwm p fun w => { w with offDue := true }
  else if !was ∧ en then landEnableOf p s
  else s.modPwm p fun w => { w with selDue := sel }

/-- FREEZE lands for the port period that begins, as an rs field does (R153). -/
def landFreeze (p : Fin 64) (s : State) : State :=
  let z := GD_CFG_FREEZE.get (s.due (GD_CFG (pT p) (pI p))) != 0
  s.modGd p fun g => { g with freezeNext := z }

/-- A load-all of the tile is due at the last boundary (R142). -/
def State.loadDue (s : State) (t : Fin 4) : Bool := (s.tile t).loadAll.any fun l => decide (l ≤ s.boundary t)

/-- Both ports of an axis are ARMED in LOOP: RUN for both at this boundary, and the axis enters STANDSTILL (R51, R144). A port whose
EN = 0 has landed goes to OFF instead, and its partner stays ARMED. -/
def armedToRun (a : Fin 32) (s : State) : State :=
  let pA := s.portOf a false
  let pB := s.portOf a true
  if s.bothPorts a pARMED ∧ pA ≠ pB ∧ !(s.pwm pA).offDue ∧ !(s.pwm pB).offDue then
    let s := startRun pB (startRun pA s)
    if s.axState a = axDISABLED then renewFaults a (startObserver a (s.setAxState a axSTANDSTILL)) else s
  else s

/-- Writes of the last tile clock become the writes of the next period (R20). -/
def turnLate (t : Fin 4) (s : State) : State :=
  let mine (a : Nat) : Bool := decide (0x200000 + t.1 * 0x40000 ≤ a) && decide (a < 0x240000 + t.1 * 0x40000)
  let l := (s.late.map (·.1)).filter mine
  (s.setLate (s.late.filter fun c => !mine c.1)).setWritten (s.written.filter (fun a => !l.contains a) ++ l)

/-- Step 1 for the ports of a tile: with GANG set the shadows wait for a load-all (R142). -/
def landPorts (t : Fin 4) (s : State) : State :=
  let due := s.loadDue t
  let go := !s.bit (PWM_TCTRL t) PWM_TCTRL_GANG || due
  let s := (tilePorts t).foldl (fun s p => landFreeze p (if go then landPort p s else noteSkew p false s)) s
  let left := (s.tile t).loadAll.filter fun l => !decide (l ≤ s.boundary t)
  let s := if due then
      (s.setBit (PWM_LOADALL t) PWM_LOADALL_LOAD (left != [])).modTile t fun x => { x with loadAll := left }
    else s
  let s := (tileAxes t).foldl (fun s a => armedToRun a s) s
  turnLate t s

/-- LOAD = 1 is written: the load-all applies at the next boundary, or at the first boundary from PWM_LOADAT; one that has
passed applies at the next boundary with a record of the lateness (R142). A write in the last tile clock of the period leaves the
load that is due at its end, and repeats it one boundary later, as a PWM_LOADAT that names the same boundary does. With GANG clear the write is ignored. -/
def requestLoad (t : Fin 4) (at_ : Nat) (byTime : Bool) (s : State) : State :=
  if !s.bit (PWM_TCTRL t) PWM_TCTRL_GANG then s
  else
    let T := s.period t
    let b := s.boundary t
    let next := if at_ + 5 < b + T then b + T else b + 2 * T
    let l := s.pair (PWM_LOADAT_LO t)
    let named := (l + T - 1) / T * T
    let past := byTime && decide (named ≤ at_)
    let s := if past then record .loadLate 0 2 t [at_ - named] s else s
    let s := s.setBit (PWM_LOADALL t) PWM_LOADALL_LOAD true
    let late := decide (b + T ≤ at_ + 5)
    let kept := if late then (s.tile t).loadAll.filter fun l => decide (l ≤ b + T) else []
    let repeats := late && kept != [] && decide (l ≤ b + T)
    s.modTile t fun x => { x with loadAll := kept ++ [if byTime ∧ !past ∧ !repeats then l else next] }

/-! ## The changes at the pins -/

/-- The latest change of a leg up to an instant. -/
def State.lastEdge (s : State) (p : Fin 64) (b : Bool) (t : Rat) : Option PinEdge :=
  (s.pwm p).edges.find? fun e => swLeg e.sw == b && decide (e.time ≤ t)

/-! ## The cycle-by-cycle trip (R147) -/

/-- The instant falls within ITBLANK of a switching edge of the port (R161). -/
def State.itBlanked (s : State) (p : Fin 64) (t : Nat) : Bool :=
  let w : Rat := (5 * s.fld (GD_PROT (pT p) (pI p)) GD_PROT_ITBLANK : Nat)
  [false, true].any fun b => match s.lastEdge p b t with
    | some e => decide ((t : Rat) < e.time + w)
    | none => false

/-- The first trip of a port period counts (R147). -/
def countTrip (p : Fin 64) (s : State) : State :=
  if (s.pwm p).tripSeen then s
  else
    let r := PWM_TRIPSTAT (pT p) (pI p)
    let s := (s.count r PWM_TRIPSTAT_TRIP_CNT).setFld r PWM_TRIPSTAT_CLEAN 0
    (s.count (PWM_CNT (pT p) (pI p)) PWM_CNT_TRIPS).modPwm p fun w => { w with tripSeen := true }

/-- ITH (or ITL) fires, by its raw output at the last filter clocks: the trip state until the next carrier (R147, R176). -/
def cycleTrip (p : Fin 64) (low : Bool) (raw : BitVec 15) (s : State) : State :=
  let i := if low then 3 else 2
  let on := s.portLevel p i raw
  let s := showComp p i on s
  if !on ∨ !s.gatesLive p s.now ∨ s.bit (pwmStat p) PWM_STAT_TRIPPING ∨ s.itBlanked p s.now then s
  else
    let s := countTrip p (s.modLoop p fun l => { l with tripped := true })
    pinChange p false (fun s => s.setBit (pwmStat p) PWM_STAT_TRIPPING true) s

/-- TRIP_CNT has reached NTRIP: LATCHED at once, and the fault (R147). -/
def tripLatch (p : Fin 64) (s : State) : State :=
  let n := s.fld (PWM_TRIPSTAT (pT p) (pI p)) PWM_TRIPSTAT_TRIP_CNT
  if s.portState p = pRUN ∧ s.fld (PWM_TRIP (pT p) (pI p)) PWM_TRIP_NTRIP ≤ n then
    raisePortFault 10 p 0 (s.enterPort p pLATCHED)
  else s

/-- CLEAN has reached MCLEAN (R147). -/
def tripClear (p : Fin 64) (s : State) : State :=
  let r := PWM_TRIPSTAT (pT p) (pI p)
  if s.fld (PWM_TRIP (pT p) (pI p)) PWM_TRIP_MCLEAN ≤ s.fld r PWM_TRIPSTAT_CLEAN then s.setFld r PWM_TRIPSTAT_TRIP_CNT 0
  else s

/-- The port period that has ended at the pins was clean (R147). -/
def endPinPeriod (p : Fin 64) (k : Nat) (s : State) : State :=
  let w := s.pwm p
  if w.carK < k then
    let s := if w.tripSeen ∨ s.portState p ≠ pRUN then s
      else s.count (PWM_TRIPSTAT (pT p) (pI p)) PWM_TRIPSTAT_CLEAN
    s.modPwm p fun w => { w with carK := k, tripSeen := false }
  else s

/-- A carrier begins at the pins: a trip ends, and switches whose lockout ended rejoin (R147, R159). -/
def carrierStart (p : Fin 64) (s : State) : State :=
  let s := endPinPeriod p (s.pinK p s.now) s
  pinChange p false (fun s =>
    (s.setBit (pwmStat p) PWM_STAT_TRIPPING false).modGd p fun g => { g with rejoin := Vector.replicate 4 false }) s

/-! ## Commutation events (R132, R148) -/

/-- A commutation event of a code applies the mask that PWM_MASKEV maps to it, on one port. -/
def portEvent (p : Fin 64) (code : Nat) (x : Nat) (s : State) : State :=
  let r := PWM_MASKEV (pT p) (pI p)
  if s.portState p = pRUN ∧ code < 7 ∧ s.bit r (PWM_MASKEV_EN code) then
    selectMask p x (code + 1) (s.fld r (PWM_MASKEV_SEL code)) s
  else s

/-- The earliest crossing of a code up to an instant. -/
def dueCrossing (l : List (Nat × Nat)) (code t : Nat) : Option (Nat × Nat) :=
  l.find? fun c => c.1 == code && decide (c.2 ≤ t)

/-- A commutation event of an axis whose instant has come acts on both its ports (R132, R148). -/
def commutation (a : Fin 32) (code : Nat) (s : State) : State :=
  match dueCrossing (s.obs a).crossings code s.now with
  | none => s
  | some c =>
    let s := s.modObs a fun o => { o with crossings := o.crossings.erase c }
    portEvent (s.portOf a true) code c.2 (portEvent (s.portOf a false) code c.2 s)

end Sys2Proof.Machine
end

