-- ==== Sys2Proof/Machine/GateDrive.lean ====
section
/-! DEFINITION. Gate drive and power-stage protection (spec/09): adaptive switching time, bootstrap refresh, undervoltage
lockout, hard short and desaturation, and off-state diagnostics. -/

namespace Sys2Proof.Machine

/-! ## Adaptive switching time (R152–R154) -/

/-- A switching time in units from a crossing and the command it is attributed to, both in ns, with the 5 ns of the
comparator taken off (R152). -/
def tswUnits (crossing cmd : Rat) : Nat := min 65534 (roundHalfAway ((crossing - cmd - 5) * 32 / 5)).toNat

/-- A switch-node crossing is attributed to the last command of its leg: to a turn-off until the next turn-on, and to a
turn-on for 400 ns (R152). -/
def attribCrossing (p : Fin 64) (b : Bool) (c : Rat) (s : State) : State :=
  let miss (s : State) : State :=
    if (s.gd p).noEdge[legIdx b] then s
    else (s.count (gdCnt p) GD_CNT_NOEDGE).modGd p fun g => { g with noEdge := g.noEdge.set (legIdx b).1 true (legIdx b).2 }
  match s.lastEdge p b c with
  | none => miss s
  | some k =>
    if !k.on then s.modGd p fun g => { g with tOff := g.tOff.setIfInBounds k.sw (some (tswUnits c k.time)) }
    else if c ≤ k.time + 400 then s.modGd p fun g => { g with tOn := g.tOn.setIfInBounds k.sw (some (tswUnits c k.time)) }
    else miss s

/-- An edge of SNA or SNB at an instant in 156.25 ps units (R152). The raw edge is the filtered output where the filter is bypassed
(R176); a retired comparator gives its leg no timing (R181). The pins are followed up to the instant itself. -/
def nodeCrossing (u : Nat) (p : Fin 64) (b rising : Bool) (s : State) : State :=
  let i := (legIdx b).1
  if !s.compsOn p then s
  else
    let s := if s.fld (cmpCfg p i) CMP_CFG_M ≤ 1 then showComp p i rising s else s
    if s.bit (CMP_CHKRES (pT p) (pI p)) ⟨20 + i, 1⟩ then s else attribCrossing p b (unitNs u) (settlePins p (unitNs u) s)

/-- The target of a code in ns: HON, HOFF, LON, LOFF (R153). -/
def State.target (s : State) (p : Fin 64) (i : Nat) : Nat :=
  let r := GD_TARGET (pT p) (pI p)
  if i % 4 = 0 then s.fld r GD_TARGET_HON else if i % 4 = 1 then s.fld r GD_TARGET_HOFF
  else if i % 4 = 2 then s.fld r GD_TARGET_LON else s.fld r GD_TARGET_LOFF

/-- The measurement that governs a code: turn-on for a source code, turn-off for a sink code (R153). -/
def GateDrive.measured (g : GateDrive) (i : Nat) : Option Nat :=
  (if i % 2 = 0 then g.tOn else g.tOff).toArray.getD (i / 2) none

/-- One code after a period: its change, and whether it stood at a limit with the measurement out of band; `none` without
a measurement (R153, R154). -/
def State.adaptOne (s : State) (p : Fin 64) (code i : Nat) : Option (Int × Bool) :=
  match (s.gd p).measured i with
  | none => none
  | some m =>
    let x := unitNs m
    let tgt : Rat := s.target p i
    let db : Rat := s.fld (GD_CFG (pT p) (pI p)) GD_CFG_DB
    let l := s.codeLim p (i / 2)
    let (lo, hi) := if i % 2 = 0 then l.1 else l.2
    if tgt + db < x then (if code < hi then some (1, false) else some (0, true))
    else if x < tgt - db then (if lo < code then some (-1, false) else some (0, true))
    else some (0, false)

/-- Whether a measurement lies within the band. -/
def State.inBand (s : State) (p : Fin 64) (i : Nat) : Bool :=
  match (s.gd p).measured i with
  | none => false
  | some m =>
    let x := unitNs m
    let tgt : Rat := s.target p i
    let db : Rat := s.fld (GD_CFG (pT p) (pI p)) GD_CFG_DB
    decide (tgt - db ≤ x) && decide (x ≤ tgt + db)

/-- The eight codes move one step towards their targets, for the edges from an instant of the timebase on, or are held under FREEZE
(R153); the runs at a limit count, and a measurement within the band of a code that set AT_LIMIT clears it (R154). -/
def adapt (p : Fin 64) (v : Nat) (s : State) : State :=
  let w := (s.reg (GD_ACODE (pT p) (pI p))).toNat
  let steps := (List.range 8).map fun i => (i, nibble w i, s.adaptOne p (nibble w i) i)
  let codes := steps.map fun x => ((x.2.1 : Int) + (x.2.2.elim 0 (·.1))).toNat
  let g := s.gd p
  let moved := if g.freeze then 0 else (steps.filter fun x => x.2.2.elim false fun r => r.1 != 0).length
  let runs := steps.map fun x => match x.2.2 with
    | none => g.limRun.toArray.getD x.1 0
    | some r => if r.2 then g.limRun.toArray.getD x.1 0 + 1 else 0
  let at_ : Vector Bool 8 := Vector.ofFn fun i => g.atLim[i] && !s.inBand p i.1
  let s := if g.freeze then s else setCodes p v (packCodes codes) s
  let s := s.countN (GD_CNT2 (pT p) (pI p)) GD_CNT2_ADJ moved
  let s := s.modGd p fun g => { g with limRun := Vector.ofFn fun i => runs.getD i.1 0, atLim := at_ }
  s.setBit (gdStat p) GD_STAT_AT_LIMIT (at_.toArray.any fun b => b)

/-- The switching times of the port period that ends show in GD_TSW (R152). -/
def showTsw (p : Fin 64) (s : State) : State :=
  let g := s.gd p
  (List.range 4).foldl (fun s i => s.setReg (GD_TSW (pT p) (pI p) i)
    (BitVec.ofNat 32 ((g.tOff.toArray.getD i none).getD 65535 * 65536 + (g.tOn.toArray.getD i none).getD 65535))) s

/-- A lockout of bootstrap A, bootstrap B or VGD is in force (R158). -/
def GateDrive.lockedOut (g : GateDrive) (vgd : Bool) (i : Fin 3) : Bool :=
  match i with
  | 0 => g.uvBoot[0] || g.uvRefresh[0]
  | 1 => g.uvBoot[1] || g.uvRefresh[1]
  | 2 => vgd

/-- The end of a port period for the gate drive, at its port valley: codes, switching times, the port periods of a lockout, and
FREEZE as it landed (R135, R153, R154, R159). -/
def gateValley (p : Fin 64) (v : Nat) (s : State) : State :=
  let run := s.portState p = pRUN
  let s :=
    if run ∧ !s.bit (GD_CFG (pT p) (pI p)) GD_CFG_ADAPT then setCodes p v (s.initCodes p) s
    else if run ∧ s.adaptable p then adapt p v s else s
  let s := showTsw p (followAdapt p s)
  let vgd := s.bit (GD_TSTAT (pT p)) GD_TSTAT_VGD_UV
  s.modGd p fun g => { g with
    tOn := Vector.replicate 4 none, tOff := Vector.replicate 4 none, noEdge := Vector.replicate 2 false, freeze := g.freezeNext
    uvRun := Vector.ofFn fun i => if g.lockedOut vgd i then g.uvRun[i] + 1 else 0 }

/-- A code has stood at its limit out of band for 256 measured periods (R154). -/
def adaptLimit (p : Fin 64) (s : State) : State :=
  let g := s.gd p
  let due : Vector Bool 8 := Vector.ofFn fun i => decide (256 ≤ g.limRun[i]) && !g.atLim[i]
  match (List.range 8).find? fun i => due.toArray.getD i false with
  | some i =>
    let was := s.bit (gdStat p) GD_STAT_AT_LIMIT
    let s := s.modGd p fun g => { g with atLim := Vector.ofFn fun i => g.atLim[i] || due[i] }
    if was then s else raiseLegFault 16 p (i / 4) 0 (s.setBit (gdStat p) GD_STAT_AT_LIMIT true)
  | none => s

/-! ## Undervoltage lockout (R158, R159) -/

/-- GD_STAT.UV follows the lockouts in force, a switch released waits for the next carrier, and the run of a lockout that has ended
ends (R158, R159). -/
def followUv (p : Fin 64) (s : State) : State :=
  let g := s.gd p
  let vgd := s.bit (GD_TSTAT (pT p)) GD_TSTAT_VGD_UV
  let old := s.fld (gdStat p) GD_STAT_UV
  let new := bitsOf [g.lockedOut vgd 0 || vgd, vgd, g.lockedOut vgd 1 || vgd, vgd]
  let s := s.setFld (gdStat p) GD_STAT_UV new
  let s := if new ≠ 0 then s.modLoop p fun l => { l with heldOff := true } else s
  s.modGd p fun g => { g with
    rejoin := Vector.ofFn fun i => (g.rejoin[i] || old.testBit i.1) && !new.testBit i.1
    uvRun := Vector.ofFn fun i => if g.lockedOut vgd i then g.uvRun[i] else 0
    uvFault := Vector.ofFn fun i => g.lockedOut vgd i && g.uvFault[i] }

/-- The lockouts of a port change at the pins. -/
def changeUv (p : Fin 64) (f : GateDrive → GateDrive) (s : State) : State :=
  pinChange p false (fun s => followUv p (s.modGd p f)) s

/-- The lockout of supply `i` (bootstrap A, bootstrap B, VGD) of a port has lasted UVTIME port periods, whole ones between port
valleys (R159). -/
def State.uvDue (s : State) (p : Fin 64) (i : Fin 3) : Bool :=
  decide (s.fld (GD_PROT (pT p) (pI p)) GD_PROT_UVTIME < (s.gd p).uvRun[i]) && !(s.gd p).uvFault[i]

/-- The fault of a lockout that lasts: of the bootstrap's leg, or of VGD for every axis of the tile, whose supply it is, once for
each lockout (R159, R166, R315). -/
def bootUv (p : Fin 64) (i : Fin 3) (s : State) : State :=
  let mark (s : State) (q : Fin 64) : State := s.modGd q fun g => { g with uvFault := g.uvFault.set i.1 true i.2 }
  if i = 2 then
    let t := tileOfPort p
    if (tilePorts t).any fun q => s.uvDue q 2 then raiseFaultAll 15 ⟨3, t⟩ 0 (tileAxes t) ((tilePorts t).foldl mark s) else s
  else if s.uvDue p i then raiseLegFault 14 p i 0 (mark s p)
  else s

/-! ## Bootstrap refresh (R156, R157) -/

def bslow (l : Fin 2) : Fld := if l = 1 then GD_STAT_BSLOW_B else GD_STAT_BSLOW_A

/-- The bootstrap-low comparator of a leg changes. A detection before port time T − 0.75 µs schedules a pulse in the next
port period, a later one in the period after it (R156); on a port not in RUN no pulse is inserted (R168). Above 8.5 V a lockout of a
failed refresh ends (R157). -/
def bootstrapLow (p : Fin 64) (l : Fin 2) (low : Bool) (s : State) : State :=
  let s := s.setBit (gdStat p) (bslow l) low
  if !low then
    if (s.gd p).uvRefresh[l] then changeUv p (fun g => { g with uvRefresh := g.uvRefresh.set l.1 false l.2 }) s else s
  else if s.portState p ≠ pRUN ∨ (s.gd p).refreshAt[l].isSome ∨ (s.gd p).pulseDue[l] = true ∨ (s.gd p).uvRefresh[l] = true then s
  else
    let k := s.portK p s.now
    let into := s.now - (k * s.portT p + s.stagger p)
    let at_ := if into + 750 < s.portT p then k + 1 else k + 2
    trimRefresh p (s.modGd p fun g => { g with refreshAt := g.refreshAt.set l.1 (some at_) l.2 })

/-- The sample of a refresh pulse, at port time DT + W_R + 100 ns. Above 8.5 V it ends the sequence, otherwise another pulse follows in
the next port period, up to the fourth; a lockout of the low side during the pulse makes it not restoring (R156, R157, R168). -/
def refreshPulse (p : Fin 64) (l : Fin 2) (above : Bool) (s : State) : State :=
  let v : Rat := (((s.pwm p).pulses.find? fun r => r.1 == l.1).map (·.2)).getD 0
  if !(s.gd p).pulseDue[l] ∨ (s.now : Int) < (v + s.dtNs p + s.refreshNs p + 100).floor then s
  else
    let low := 2 * l.1 + 1
    let lost := (s.fld (gdStat p) GD_STAT_UV).testBit low || (s.gd p).rejoin.toArray.getD low false
    let ok := above && !lost
    let s := s.setBit (gdStat p) (bslow l) (!above)
    let n := (s.gd p).refreshRun[l] + 1
    let k := (s.tile (tileOfPort p)).k
    followRefreshing p (trimRefresh p (s.modGd p fun g => { g with
      refreshRun := g.refreshRun.set l.1 (if ok then 0 else n) l.2, pulseDue := g.pulseDue.set l.1 false l.2
      refreshAt := g.refreshAt.set l.1 (if ok || decide (4 ≤ n) then none else some (k + 1)) l.2 }))

/-- After the fourth pulse without restoring the high side is locked out (R157, R158). -/
def refreshFail (p : Fin 64) (l : Fin 2) (s : State) : State :=
  if (s.gd p).refreshRun[l] < 4 ∨ s.portState p ≠ pRUN then s
  else
    let s := changeUv p (fun g => { g with
      uvRefresh := g.uvRefresh.set l.1 true l.2, refreshRun := g.refreshRun.set l.1 0 l.2
      refreshAt := g.refreshAt.set l.1 none l.2 }) s
    followRefreshing p (record .refreshFail 1 1 p [l] (s.count (gdCnt p) GD_CNT_UV))

/-! ## The port valley (R135, R145, R148) -/

/-- The port valley of the running tile period, past what it brings to the pins: the port period before it ends, an entry to OFF lands,
and PWM_STAT shows the port period that follows. -/
def portValley (p : Fin 64) (v : Nat) (s : State) : State :=
  let w := s.pwm p
  let s := gateValley p v s
  let s := s.modPwm p fun w => { w with valleyAt := none, valleyDone := false, clampSeen := false }
  let s := (s.setBit (pwmStat p) PWM_STAT_CLAMPED false).setBit (pwmStat p) PWM_STAT_SKEW w.skewNext
  if w.offDue then enterOff p v s else s

/-- A port is brought to the present line time: its valley, where that has come, and its pins up to an instant. What a port does between
commands is worked out by the first command that concerns it (DESIGN CHOICE, log). -/
def settleTo (p : Fin 64) (z : Rat) (s : State) : State :=
  let s := match (s.pwm p).valleyAt with
    | some v => if v ≤ s.now then portValley p v (settlePins p v s) else s
    | none => s
  endTail p (settlePins p z s)

/-- A port, and before it or after it, in the order of their valleys, a partner whose entry to OFF has come, since that takes the port
back to ARMED (R144). -/
def settlePort (p : Fin 64) (s : State) : State :=
  match s.partner p with
  | some q =>
    if q ≠ p ∧ s.offLanded q then
      let first := match (s.pwm p).valleyAt, (s.pwm q).valleyAt with
        | some vp, some vq => decide (vp < vq)
        | _, _ => false
      if first then settleTo q s.now (settleTo p s.now s) else settleTo p s.now (settleTo q s.now s)
    else settleTo p s.now s
  | none => settleTo p s.now s

/-- Both ports of an axis. -/
def settleAxis (a : Fin 32) (s : State) : State := settlePort (s.portOf a true) (settlePort (s.portOf a false) s)

/-- A register of a port shows the port as it is at the present line time. -/
def settleFor (s : State) (a : Nat) : State :=
  match blockOf a with
  | .port p | .portSense p => settlePort p s
  | _ => s

/-- A tile boundary gives a port its next valley, which without stagger has come (R135). -/
def openPort (p : Fin 64) (s : State) : State :=
  settlePort p (s.modPwm p fun w => { w with valleyAt := some (s.valley p), valleyDone := false })

/-! ## Lockouts at the pins (R158, R159) -/

/-- VGD of a tile falls below or rises above its thresholds: every switch of the tile. -/
def vgdChange (t : Fin 4) (on : Bool) (s : State) : State :=
  if s.bit (GD_TSTAT t) GD_TSTAT_VGD_UV = on then s
  else
    let s := (tilePorts t).foldl (fun s p => pinChange p false (followUv p) (settlePort p s)) (s.setBit (GD_TSTAT t) GD_TSTAT_VGD_UV on)
    if on then record .uvLockout 1 2 t [] (s.count (GD_TCNT t) GD_TCNT_VGD_UV) else s

/-- A gate supply falls below its falling threshold: lockout of its switches, a count and a warning record (R158). -/
def uvloEntry (p : Fin 64) (x : Supply) (s : State) : State :=
  match x with
  | .vgd => vgdChange (tileOfPort p) true s
  | .boot l =>
    if (s.gd p).uvBoot[l] then s
    else
      let s := changeUv p (fun g => { g with uvBoot := g.uvBoot.set l.1 true l.2 }) s
      record .uvLockout 1 1 p [l] (s.count (gdCnt p) GD_CNT_UV)
  | .refresh _ => s

/-- A locked-out supply rises above its rising threshold; its switches stay off until the next carrier (R159). -/
def uvloExit (p : Fin 64) (x : Supply) (s : State) : State :=
  match x with
  | .vgd => vgdChange (tileOfPort p) false s
  | .boot l => if (s.gd p).uvBoot[l] then changeUv p (fun g => { g with uvBoot := g.uvBoot.set l.1 false l.2 }) s else s
  | .refresh l =>
    if (s.gd p).uvRefresh[l] then
      let s := s.setBit (gdStat p) (if l = 1 then GD_STAT_BSLOW_B else GD_STAT_BSLOW_A) false
      changeUv p (fun g => { g with uvRefresh := g.uvRefresh.set l.1 false l.2 }) s
    else s

/-! ## Hard short and desaturation (R161–R165) -/

/-- Rank 1 cuts the port, with the soft sink code for the switches still on: PROTECTED, or where an entry to OFF is at the end of its
last carrier, that end (R144, R165). -/
def cutPort (p : Fin 64) (s : State) : State :=
  if s.portState p = pRUN then s.enterPortBy p pPROTECTED true
  else
    let s := pinChange p true (fun s => s.modPwm p fun w => { w with tail := none }) s
    unpower p (s.setBit (pwmStat p) PWM_STAT_TRIPPING false)

/-- A switch is latched off for the rest of the RUN episode; a second latch cuts the port and raises GD_SHOOT (R164, R165). -/
def latchSwitch (p : Fin 64) (sw cls : Nat) (s : State) : State :=
  let old := s.fld (gdStat p) GD_STAT_LATCH
  let s := pinChange p true (fun s => s.setFld (gdStat p) GD_STAT_LATCH (old ||| 2 ^ sw)) s
  let s := s.setBit (gdStat p) GD_STAT_DIAG_REQ true
  let s := if cls = 11 then
      (s.modGd p fun g => { g with shortLatch := true }).modLoop p fun l => { l with heldOff := true }
    else s
  let shoot := old ≠ 0
  let s := if shoot then cutPort p s else s
  let s := raiseLegFault cls p (sw / 2) 0 s
  if shoot then raisePortFault 13 p 0 s else s

/-- HSA or HSB fires: every firing counts, and the one that latches the high side raises GD_SHORT (R162). -/
def hardShort (p : Fin 64) (b : Bool) (s : State) : State :=
  let sw := if b then 2 else 0
  if !s.compsOn p then s
  else
    let s := showComp p (if b then 9 else 8) true s
    let s := s.count (gdCnt p) GD_CNT_SHORT
    if !s.gatesLive p s.now ∨ (s.fld (gdStat p) GD_STAT_LATCH).testBit sw then s else latchSwitch p sw 11 s

/-- HARD_SHORT (R162). -/
def execHardShort (t : Nat) (p : Fin 64) (b : Bool) (s : State) : Host.Outcome State Fault Refusal :=
  .next (hardShort p b (settlePort p (s.reach t)))

/-- A desaturation comparator acts on its FET: the FET is commanded on, its blanking has ended, and no turn-off falls in the 5 ns clock
in which the blanking ends (R161, R163). -/
def State.desatActs (s : State) (p : Fin 64) (sw : Nat) : Bool :=
  let w : Rat := (5 * s.fld (GD_PROT (pT p) (pI p)) GD_PROT_DSBLANK : Nat)
  let b := swLeg sw
  s.gate p sw &&
  (match (s.pwm p).edges.find? fun e => e.sw == sw && e.on with
    | none => true
    | some on =>
      let e := on.time + w
      decide (e ≤ s.now) &&
      !(((s.breaks p b).map (· + 750)).any fun y =>
        decide ((y / 5).floor = (e / 5).floor) && decide (on.time < y) && swOf b (s.want p b y) != sw))

/-- A desaturation comparator of a switch fires, by its raw output at the last filter clocks (R163, R176). -/
def desaturation (p : Fin 64) (sw : Fin 4) (raw : BitVec 15) (s : State) : State :=
  let on := s.portLevel p (4 + sw.1) raw
  let s := showComp p (4 + sw.1) on s
  if on && s.desatActs p sw then latchSwitch p sw 12 (s.count (gdCnt p) GD_CNT_DESAT) else s

/-- DESATURATION (R163). -/
def execDesaturation (t : Nat) (p : Fin 64) (sw : Fin 4) (raw : BitVec 15) (s : State) : Host.Outcome State Fault Refusal :=
  .next (desaturation p sw raw (settlePort p (s.reach t)))

/-! ## The commands of a port -/

/-- SWITCH_NODE_CROSSING (R152). -/
def execSwitchNodeCrossing (u : Nat) (p : Fin 64) (b rising : Bool) (s : State) : Host.Outcome State Fault Refusal :=
  .next (nodeCrossing u p b rising (settlePort p (s.reach (u * 5 / 32))))

/-- GD_ADAPT_LIM (R154). -/
def execGdAdaptLim (t : Nat) (p : Fin 64) (s : State) : Host.Outcome State Fault Refusal := .next (adaptLimit p (settlePort p (s.reach t)))

/-- UVLO_ENTRY (R158). -/
def execUvloEntry (t : Nat) (p : Fin 64) (x : Supply) (s : State) : Host.Outcome State Fault Refusal :=
  .next (uvloEntry p x (settlePort p (s.reach t)))

/-- UVLO_EXIT (R159). -/
def execUvloExit (t : Nat) (p : Fin 64) (x : Supply) (s : State) : Host.Outcome State Fault Refusal :=
  .next (uvloExit p x (settlePort p (s.reach t)))

/-- GD_BOOT_UV (R159). -/
def execGdBootUv (t : Nat) (p : Fin 64) (i : Fin 3) (s : State) : Host.Outcome State Fault Refusal :=
  .next (bootUv p i (settlePort p (s.reach t)))

/-- BOOTSTRAP_LOW (R156). -/
def execBootstrapLow (t : Nat) (p : Fin 64) (l : Fin 2) (low : Bool) (s : State) : Host.Outcome State Fault Refusal :=
  .next (bootstrapLow p l low (settlePort p (s.reach t)))

/-- REFRESH_PULSE (R156), at the instant of its sample. -/
def execRefreshPulse (t : Nat) (p : Fin 64) (l : Fin 2) (above : Bool) (s : State) : Host.Outcome State Fault Refusal :=
  .next (refreshPulse p l above (settlePort p (s.reach t)))

/-- REFRESH_FAIL_LOCKOUT (R157). -/
def execRefreshFailLockout (t : Nat) (p : Fin 64) (l : Fin 2) (s : State) : Host.Outcome State Fault Refusal :=
  .next (refreshFail p l (settlePort p (s.reach t)))

/-- CYCLE_TRIP (R147). -/
def execCycleTrip (t : Nat) (p : Fin 64) (low : Bool) (raw : BitVec 15) (s : State) : Host.Outcome State Fault Refusal :=
  .next (cycleTrip p low raw (settlePort p (s.reach t)))

/-- PWM_TRIP_LATCH (R147). -/
def execPwmTripLatch (t : Nat) (p : Fin 64) (s : State) : Host.Outcome State Fault Refusal := .next (tripLatch p (settlePort p (s.reach t)))

/-- TRIP_CNT_CLEAR (R147). -/
def execTripCntClear (t : Nat) (p : Fin 64) (s : State) : Host.Outcome State Fault Refusal := .next (tripClear p (settlePort p (s.reach t)))

/-- CARRIER_START (R147). -/
def execCarrierStart (t : Nat) (p : Fin 64) (s : State) : Host.Outcome State Fault Refusal := .next (carrierStart p (settlePort p (s.reach t)))

/-- COMMUTATION_EVENT (R132). -/
def execCommutationEvent (t : Nat) (a : Fin 32) (code : Nat) (s : State) : Host.Outcome State Fault Refusal :=
  .next (commutation a code (settlePort (s.portOf a true) (settlePort (s.portOf a false) (s.reach t))))

/-! ## Off-state diagnostics (R169–R172) -/

/-- A port in a state in which its gates are held off, so that diagnostics may use it, once its last carrier has ended (R169). -/
def State.testable (s : State) (p : Fin 64) : Bool :=
  let st := s.portState p
  (st == pOFF || st == pREFUSED || st == pLATCHED || st == pPROTECTED) && !s.gatesLive p s.now

/-- The result of a port goes to the requests that wait for it, and a request whose last port finished raises DIAG_DONE
(R171). -/
def diagReport (p : Fin 64) (passed : Option Bool) (s : State) : State :=
  let upd (r : DiagReq) : DiagReq :=
    if r.left.contains p.1 then
      { r with
        left := r.left.filter (· != p.1)
        passed := if passed = some true then p.1 :: r.passed else r.passed
        failed := if passed = some false then p.1 :: r.failed else r.failed }
    else r
  let all := s.dev.diagReq.map upd
  let s := s.modDev fun x => { x with diagReq := all.filter fun r => r.left != [] }
  (all.filter fun r => r.left == []).foldl done s
where
  done (s : State) (r : DiagReq) : State :=
    let bits (l : List Nat) : Int := ((l.map fun n => 2 ^ n).sum : Nat)
    match r.cab with
    | some c =>
      if r.event ∨ r.failed ≠ [] then
        raiseEvent c ⟨0x0602, plainSev 0x0602, 3, c, r.tag, s.now, [bits r.passed, bits r.failed]⟩ s
      else s
    | none => s

/-- A port's run ends with a result; a pass clears DIAG_REQ, a failure leaves one warning record (R171, R172). -/
def endDiagPort (p : Fin 64) (res : Nat) (va vb : Int) (s : State) : State :=
  let s := s.setFld (GD_DIAG (pT p) (pI p)) GD_DIAG_RESULT res
  let s := if res = 1 then s.setBit (gdStat p) GD_STAT_DIAG_REQ false
    else record .diagResult 1 1 p [res, toBits 32 va, toBits 32 vb] s
  diagReport p (some (res == 1)) s

/-- The run of a tile ends; one that a host asked for leaves its summary (R323), the runs of DIAG leave one together. -/
def endDiagRun (t : Fin 4) (s : State) : State :=
  let host := match (s.tile t).diag with | some r => r.cab.isSome | none => false
  ((s.modTile t fun x => { x with diag := none }).setBit (GD_TSTAT t) GD_TSTAT_DIAG_RUN false).onlyIf host (summary .diagnostics)

/-- The first port of a tile's run that can be tested begins: result 0, comparators powered and checked. With VBUS below 10 V it
makes no step, and its run ends with NO_BUS as its set-up ends (R169, R170, R180). The fuel is the number of ports. -/
def beginDiag (t : Fin 4) : Nat → State → State
  | 0, s => endDiagRun t s
  | n + 1, s =>
    match (s.tile t).diag with
    | none => s
    | some r =>
      match r.ports with
      | [] => endDiagRun t s
      | i :: rest =>
        let p := devPort t i
        let next (s : State) : State := s.modTile t fun x => { x with diag := some { r with ports := rest, step := 0 } }
        if !s.testable p then beginDiag t n (next (diagReport p none s))
        else
          let g := GD_DIAG (pT p) (pI p)
          let s := (s.setFld g GD_DIAG_RESULT 0).setFld g GD_DIAG_STEP 0
          let s := startPortChecks p (preloadPort p s)
          s.modTile t fun x => { x with diag := some { r with step := if x.vbusLast < 10000 then 0 else 1 } }

/-- A run of a tile over some of its ports, ascending (R169, R171). -/
def startDiag (t : Fin 4) (cab : Option (Fin 4)) (tag : Nat) (event : Bool) (ports : List Nat) (s : State) : State :=
  let s := s.setBit (GD_TSTAT t) GD_TSTAT_DIAG_RUN true
  beginDiag t (ports.length + 1) (s.modTile t fun x => { x with diag := some ⟨cab, tag, event, ports, 0⟩ })

/-- The result a step fails with, by the node voltages in mV and V_B (R170). -/
def stepFails (step : Nat) (va vb : Int) (bus : Rat) : Option Nat :=
  let h := bus / 2
  match step with
  | 1 => if h < va ∨ h < vb then some 2 else none
  | 2 => if va < h ∨ vb < h then some 3 else none
  | 3 => if h < ((va - vb : Int) : Rat) then some 4 else none
  | _ => if ((va - vb : Int) : Rat) < h then some 5 else none

/-- A node voltage in whole V as GD_DIAG shows it (R170). -/
def diagVolt (mv : Int) : Nat := min 255 (roundHalfUp ((mv : Rat) / 1000)).toNat

/-- The first port of a tile's run ends with a result: its comparators are unpowered, and the next port begins (R169, R170, R347). -/
def finishDiag (t : Fin 4) (res : Nat) (va vb : Int) (s : State) : State :=
  match (s.tile t).diag with
  | none => s
  | some r =>
    match r.ports with
    | [] => endDiagRun t s
    | i :: rest =>
      let p := devPort t i
      let s := unpower p (endDiagPort p res va vb s)
      beginDiag t (rest.length + 1) (s.modTile t fun x => { x with diag := some { r with ports := rest, step := 0 } })

/-- The set-up of a port without VBUS ends with its last self-check, and its run with NO_BUS (R170, R180). -/
def noBusEnd (t : Fin 4) (s : State) : State :=
  match (s.tile t).diag with
  | some r =>
    match r.ports with
    | i :: _ =>
      if r.step = 0 ∧ (s.port (devPort t i)).check.toArray.all Option.isNone then finishDiag t 6 0 0 s else s
    | [] => s
  | none => s

/-- The tile of a comparator. -/
def cmpTile : CmpRef → Fin 4
  | .port p _ => tileOfPort p
  | .window t _ => t

/-- SELF_CHECK_STEP_END (R179). -/
def execSelfCheckStepEnd (t : Nat) (c : CmpRef) (normal raw : Bool) (s : State) : Host.Outcome State Fault Refusal :=
  .next (noBusEnd (cmpTile c) (checkStep c normal raw (s.reach t)))

/-- A step has settled or timed out with its node voltages in mV: SNA, and SNB or in step 4 the partner's SNA (R170). -/
def diagStep (t : Fin 4) (va vb : Int) (s : State) : State :=
  match (s.tile t).diag with
  | none => s
  | some r =>
    match r.ports with
    | [] => endDiagRun t s
    | i :: _ =>
      let p := devPort t i
      let g := GD_DIAG (pT p) (pI p)
      let s :=
        if r.step = 0 then s
        else ((s.setFld g GD_DIAG_VA (diagVolt va)).setFld g GD_DIAG_VB (diagVolt vb)).setFld g GD_DIAG_STEP r.step
      let goOn (n : Nat) (s : State) : State := s.modTile t fun x => { x with diag := some { r with step := n } }
      let finish (res : Nat) (s : State) : State := finishDiag t res va vb s
      if r.step = 0 then s
      else match stepFails r.step va vb (s.tile t).vbusLast with
      | some res => finish res s
      | none =>
        if r.step < 3 then goOn (r.step + 1) s
        else if r.step = 3 ∧ ((s.partner p).elim false fun q => q != p && s.testable q) then goOn 4 s
        else finish 1 s

/-- DIAG_STEP_END (R170). -/
def execDiagStepEnd (at_ : Nat) (t : Fin 4) (va vb : Int) (s : State) : Host.Outcome State Fault Refusal :=
  .next (diagStep t va vb (s.reach at_))

/-- The device ports of a bitmap. -/
def portsOf (bits : Nat) : List (Fin 64) := allPorts.filter fun p => bits.testBit p.1

/-- The tile-local ports of a tile among device ports. -/
def localPorts (t : Fin 4) (ps : List (Fin 64)) : List Nat := (ps.filter fun p => decide (tileOfPort p = t)).map pI

/-- DIAG_OFFSTATE as it lands (R171). -/
def landDiagOffstate (d : Desc) (s : State) : State :=
  let p := d.payload
  let ps := portsOf (pay64 p 0)
  let ts := allTiles.filter fun t => localPorts t ps != []
  let s := ps.foldl (fun s q => settlePort q s) s
  if ps = [] ∨ ps.any (fun q => s.ownerPort q != d.cab) ∨ 1 < payByte p 8 ∨ !payZero p 9 48 then
    complete d stREFUSED_VALUE 0 s.now s
  else if ps.any (fun q => !s.testable q) ∨ ts.any (fun t => (s.tile t).diag.isSome) then
    complete d stREFUSED_STATE 0 s.now s
  else
    let ev := payBit p 8 0
    let s := complete d stSTARTED 0 s.now s
    let s := s.modDev fun x => { x with diagReq := ⟨some d.cab, d.tag, ev, ps.map (·.1), [], []⟩ :: x.diagReq }
    ts.foldl (fun s t => startDiag t (some d.cab) d.tag ev (localPorts t ps) s) s

/-- DIAG_OFFSTATE (R171). -/
def execDiagOffstate (d : Desc) (s : State) : Host.Outcome State Fault Refusal := .next (submit d (landDiagOffstate d) s)

end Sys2Proof.Machine
end

