-- ==== Sys2Proof/Machine/Adc.lean ====
section
/-! DEFINITION. Pipeline converters and sequencing (spec/11): sequence entries and their sinc filters, injected
conversions, the placement of windows and bursts, background and foreground calibration, the cross-check on the shared
channel, and the retirement of stages and converters. -/

namespace Sys2Proof.Machine

/-- Single operation begins or ends: ADC_TSTAT.SINGLE, and CR_STAT.AVG4 of the tile's axes (R197). -/
def showSingle (t : Fin 4) (on : Bool) (s : State) : State :=
  (tileAxes t).foldl (fun (s : State) a => s.setBit (CR_STAT a) CR_STAT_AVG4 on) (s.setBit (ADC_TSTAT t) ADC_TSTAT_SINGLE on)

/-! ## Sequence entries (R188, R189) -/

/-- A channel that an entry may name (R185). -/
def entryChannel (c : Nat) : Bool :=
  decide (c ≤ 0x0F) || (decide (0x20 ≤ c) && decide (c ≤ 0x46)) || (decide (0x48 ≤ c) && decide (c ≤ 0x52))

/-- A parity block of the sequence registers of a converter is faulted: that of CFG or FLT which holds entry `e`
(R262, R263). -/
def State.seqParity (s : State) (t : Fin 4) (x : Fin 2) (e : Nat) : Bool :=
  let same (a b : Nat) : Bool := a / 64 == b / 64
  (s.tile t).parBad.any fun a => same a (ADC_SEQ_CFG t x e) || same a (ADC_SEQ_FLT t x e)

/-- The configuration in force makes an entry invalid (R188). -/
def State.entryBad (s : State) (t : Fin 4) (x : Fin 2) (e : Nat) : Bool :=
  let c := ADC_SEQ_CFG t x e
  !entryChannel (s.forceFld c ADC_SEQ_CFG_CH) ||
  (s.forceFld c ADC_SEQ_CFG_TRIG == 3 && decide (s.forceFld c ADC_SEQ_CFG_DELAY < 199)) || s.seqParity t x e

/-- Step 1 for the entries of a tile: an entry written lands, its filter starts empty and INVALID follows (R188, R192). -/
def landEntries (t : Fin 4) (s : State) : State :=
  ([0, 1] : List (Fin 2)).foldl (fun s x => (List.range 32).foldl (one x) s) s
where
  one (x : Fin 2) (s : State) (e : Nat) : State :=
    let c := ADC_SEQ_CFG t x e
    let f := ADC_SEQ_FLT t x e
    if e = 0 ∨ !(s.written.contains c || s.written.contains f) then s
    else
      let s := applyShadow (applyShadow s c) f
      let s := s.setBit (ADC_RES t x e) ADC_RES_INVALID (s.entryBad t x e)
      let b := s.boundary t
      s.modConv t x fun y => { y with
        sinc := y.sinc.setIfInBounds e Sinc.init, landed := y.landed.setIfInBounds e b, served := y.served.setIfInBounds e 0 }

/-- The entries of a faulted parity block are invalid until they are rewritten (R188, R263). -/
def parityEntries (t : Fin 4) (s : State) : State :=
  ([0, 1] : List (Fin 2)).foldl (fun s x => ((List.range 31).map (· + 1)).foldl (fun (s : State) e =>
    if s.seqParity t x e then s.setBit (ADC_RES t x e) ADC_RES_INVALID true else s) s) s

/-- A new result in a result register: value in 1/256 code, flags, the converter that produced it, the count modulo 16; it
ends MISSED (R188, R189). -/
def newResult (a : Nat) (src : Fin 2) (value : Int) (ovr settle : Bool) (s : State) : State :=
  let s := (s.setFldI a ADC_RES_VALUE value).setBit a ADC_RES_OVR ovr
  let s := (s.setBit a ADC_RES_SETTLE settle).setBit a ADC_RES_SRC (src = 1)
  (s.setBit a ADC_RES_MISSED false).setFld a ADC_RES_CNT ((s.fld a ADC_RES_CNT + 1) % 16)

/-- One pass through the integrators: each adds the one before it, and the first adds the input (R191). -/
def integrate : List Int → Int → List Int
  | [], _ => []
  | a :: as, x => (a + x) :: integrate as (a + x)

/-- One pass through the combs: each subtracts its previous input. The output and the new delays (R191). -/
def combs : List Int → Int → Int × List Int
  | [], x => (x, [])
  | d :: ds, x =>
    let r := combs ds (x - d)
    (r.1, x :: r.2)

/-- An input of a sinc filter of order `k` and decimation `dec`: the filter after it, and the output formed with its flags, if
one is due and valid (R191, R192). `none0` stands for the previous input of an entry that has none. -/
def Sinc.input (f : Sinc) (k dec : Nat) (x : Sample) (none0 : Int) : Sinc × Option (Int × Bool × Bool) :=
  let v := if x.settle then (if f.n = 0 then none0 else f.prev) else x.code
  let n := f.n + 1
  let span := k * (dec - 1) + 1
  let live (l : List Nat) : List Nat := l.filter fun i => decide (n < i + span)
  let acc := integrate (if f.acc = [] then List.replicate k 0 else f.acc) v
  let ovrAt := live (if x.ovr then n :: f.ovrAt else f.ovrAt)
  let settleAt := live (if x.settle then n :: f.settleAt else f.settleAt)
  let f := { f with acc := acc, n := n, prev := v, ovrAt := ovrAt, settleAt := settleAt }
  if n % dec = 0 then
    let r := combs (if f.comb = [] then List.replicate k 0 else f.comb) (acc.getLastD 0)
    let out := roundHalfAway ((r.1 * 256 : Int) / ((dec ^ k : Nat) : Rat))
    ({ f with comb := r.2 }, if k * dec ≤ n then some (out, ovrAt != [], settleAt != []) else none)
  else (f, none)

/-- A conversion of an entry, made by converter `src` at instant `z` (R188, R191, R193). -/
def entryResult (t : Fin 4) (x src : Fin 2) (e z : Nat) (raw : Sample) (s : State) : State :=
  let v := settleAfter (s.conv t src).overs z raw
  let s := noteOver t src z v s
  let k := s.forceFld (ADC_SEQ_FLT t x e) ADC_SEQ_FLT_ORDER
  if k = 0 then newResult (ADC_RES t x e) src (v.code * 256) v.ovr v.settle s
  else
    let r := ((s.conv t x).sinc.toArray.getD e Sinc.init).input k (s.forceFld (ADC_SEQ_FLT t x e) ADC_SEQ_FLT_DEC + 1) v
      (Config.freeInt s.freeCtr)
    let s := (s.modConv t x fun y => { y with sinc := y.sinc.setIfInBounds e r.1 }).fresh
    match r.2 with
    | some (out, ovr, settle) => newResult (ADC_RES t x e) src out ovr settle s
    | none => s

/-- A result is in its register within 200 ns of its instant (R184). -/
def resultUnits : Nat := 1280

/-- The conversions of an entry that are due at an instant, the earlier first: one that could not start before the next trigger is
MISSED once that has come; the first other that has begun takes the input given, unless its result was due before and the next
conversion has come (R188, R189). -/
def serveEntry (t : Fin 4) (x : Fin 2) (e u : Nat) (raw : Sample) : List (Due × Taken) → State → State
  | [], s => s
  | (d, i) :: l, s =>
    let serve (s : State) : State := s.modConv t x fun y => { y with served := y.served.setIfInBounds e d.instant }
    if d.next ≤ i.start then
      if d.next ≤ u then
        serveEntry t x e u raw l (((serve s).setBit (ADC_RES t x e) ADC_RES_MISSED true).count (ADC_CNT t x) ADC_CNT_MISSED)
      else s
    else if u < i.start then s
    else if l ≠ [] ∧ i.start + resultUnits < u then serveEntry t x e u raw l s
    else entryResult t x i.conv e i.start raw ((serve s).modTile t fun y => { y with taken := y.taken ++ [i] })

/-- SEQ_ENTRY_TRIGGER for an entry of a tile that has had a boundary. -/
def entryTrigger (t : Fin 4) (x : Fin 2) (e : Nat) (raw : Intake) (s : State) : State :=
  let u := s.now * 32 / 5
  if s.boundary t = 0 then s
  else serveEntry t x e u (sampleOf raw) ((s.entryPlan t u).filter fun r => r.1.conv = x && r.1.entry == e) s

/-- SEQ_ENTRY_TRIGGER (R188), at the time of its result or when the next trigger arrives. -/
def execSeqEntryTrigger (at_ : Nat) (t : Fin 4) (x : Fin 2) (e : Fin 32) (raw : Intake) (s : State) :
    Host.Outcome State Fault Refusal :=
  .next (entryTrigger t x e raw (s.reach at_))

/-! ## Injected conversions (R190) -/

/-- The comparator that CMPSEL names takes its raw outputs; where it goes active it triggers (R190). -/
def selectedCompare (t : Fin 4) (x : Fin 2) (raw : BitVec 15) (s : State) : State :=
  let c := s.fld (ADC_INJ t x) ADC_INJ_CMPSEL
  if c < 160 then
    let p := devPort t (c / 10)
    let s := settlePort p s
    showComp p (c % 10) (s.portLevel p (c % 10) raw) s
  else
    let i := c - 160
    let s := showWin t i (s.winLevel t i raw) s
    evalWindow t (i / 2) (settleWindow t i s)

/-- ADC_INJ_CMP_TRIGGER (R190). -/
def execAdcInjCmpTrigger (at_ : Nat) (t : Fin 4) (x : Fin 2) (raw : BitVec 15) (s : State) : Host.Outcome State Fault Refusal :=
  .next (selectedCompare t x raw (s.reach at_))

/-- The injected conversion is taken and its result written. -/
def injDone (t : Fin 4) (x : Fin 2) (raw : Intake) (s : State) : State :=
  match (s.conv t x).injPend, s.worker t x with
  | some (_, z), some src =>
    if s.now * 32 / 5 < z then s
    else
      let v := settleAfter (s.conv t src).overs z (sampleOf raw)
      let s := noteOver t src z v s
      (newResult (ADC_INJ_RES t x) src (v.code * 256) v.ovr v.settle s).modConv t x fun y => { y with injPend := none }
  | _, _ => s

/-- INJECTED_CONVERSION_DONE (R190). -/
def execInjectedConversionDone (at_ : Nat) (t : Fin 4) (x : Fin 2) (raw : Intake) (s : State) :
    Host.Outcome State Fault Refusal :=
  .next (injDone t x raw (s.reach at_))

/-! ## Retirement (R195, R197, R319) -/

/-- ADC_CAL_DONE to the cabinet that asked, raised for every result but PASSED, and for PASSED with EVENT (R199). -/
def calDone (t : Fin 4) (x : Fin 2) (status : Nat) (s : State) : State :=
  let y := s.conv t x
  match y.fgCab with
  | some c =>
    let s := s.modConv t x fun y => { y with fgEnd := none, fgDefer := false, fgCab := none, prior := none }
    if status ≠ stPASSED ∨ y.fgEvent then
      raiseEvent c ⟨0x0603, plainSev 0x0603, 3, c, y.fgTag, s.now, [status]⟩ s
    else s
  | none => s.modConv t x fun y => { y with fgEnd := none, fgDefer := false, prior := none }

/-- The coefficients that a converter had when its foreground calibration began are its own again (R199). -/
def restorePrior (t : Fin 4) (x : Fin 2) (s : State) : State :=
  match (s.conv t x).prior with
  | some (gain, offset, bg) => s.modConv t x fun y => { y with gain := gain, offset := offset, bgRef := bg, slot := 0, attempts := 0 }
  | none => s

/-- A converter that was offline works again beside its partner, or carries alone. -/
def returnConv (t : Fin 4) (x : Fin 2) (s : State) : State :=
  if s.convState t (otherConv x) = 1 then
    showSingle t false ((s.setConvState t x 0).setConvState t (otherConv x) 0)
  else if s.convState t (otherConv x) = 3 then s.setConvState t x 1
  else s.setConvState t x 0

/-- A converter is retired: its partner carries the tile alone, and a calibration of either that runs or waits ends at once (R197,
R199). A partner in the calibration of start-up carries once that has ended. -/
def retireConv (t : Fin 4) (x : Fin 2) (s : State) : State :=
  let o := otherConv x
  let s := s.setConvState t x 3
  let s := (s.setFld (ADC_STAT t x) ADC_STAT_SPARE_AT 0)
  let s := restorePrior t o s
  let s := if s.convState t o = 2 ∨ (s.conv t o).fgDefer = true then calDone t o stABORTED s else s
  let s := if (s.conv t x).fgDefer then calDone t x stABORTED s else s
  let s := showSingle t true (if s.convState t o = 4 then s else s.setConvState t o 1)
  let s := s.modConv t o fun y => { y with bgFail := 0, lostRaised := false }
  record .converterRetired 1 2 t [x] (s.count GLB_RET_CNT GLB_RET_CNT_CONVERTERS)

/-- A stage is retired for good, and the spare stays in its place (R195). -/
def retireStage (t : Fin 4) (x : Fin 2) (stage : Nat) (s : State) : State :=
  let st := ADC_STAT t x
  let s := ((s.setFld st ADC_STAT_RET_STAGE stage).setFld st ADC_STAT_SPARE_AT stage).setBit st ADC_STAT_NOSPARE true
  let s := s.modConv t x fun y => { y with lostStages := stage }
  record .stageRetired 1 2 t [x, stage] (s.count GLB_RET_CNT GLB_RET_CNT_STAGES)

/-! ## The calibration rotation (R194, R195) -/

/-- A measurement of a stage lies within its limits: gain ±3 % of nominal, in parts per million, and offset ±64 codes (R195). -/
def calOk (gain offset : Int) : Bool := decide ((gain - 1000000).natAbs ≤ 30000) && decide (offset.natAbs ≤ 64)

/-- A slot of the rotation begins: the stage the spare stands for (R194). -/
def beginSlot (t : Fin 4) (x : Fin 2) (n : Nat) (s : State) : State :=
  let st := ADC_STAT t x
  let s := s.modConv t x fun y => { y with slot := n, attempts := 0 }
  if s.bit st ADC_STAT_NOSPARE then s else s.setFld st ADC_STAT_SPARE_AT (if n ≤ 10 then n + 1 else 0)

/-- What the foreground calibration in progress has found so far, at its worst (R199). -/
def noteFound (t : Fin 4) (x : Fin 2) (fg : Bool) (n : Nat) (s : State) : State :=
  if fg then s.modConv t x fun y => { y with found := max y.found n } else s

/-- A slot has failed three times (R195): a stage retires, the spare is lost, or with a stage or the spare lost already the converter
retires, from the next boundary or where its foreground calibration ends. -/
def slotFails (t : Fin 4) (x : Fin 2) (fg : Bool) (n : Nat) (s : State) : State :=
  let lost := s.bit (ADC_STAT t x) ADC_STAT_NOSPARE
  let out (s : State) : State := if fg then noteFound t x fg 2 s else s.modConv t x fun y => { y with retireDue := true }
  if n ≤ 10 then (if lost then out s else noteFound t x fg 1 (retireStage t x (n + 1) s))
  else if n = 11 then noteFound t x fg 1 (s.setBit (ADC_STAT t x) ADC_STAT_NOSPARE true)
  else if s.fld (ADC_STAT t x) ADC_STAT_RET_STAGE ≠ 0 then out s
  else s

/-- A slot measures nothing: of the stages and the spare in the background once the spare is lost, and in the foreground of the stage
that is retired and of the lost spare (R195). -/
def State.slotIdle (s : State) (t : Fin 4) (x : Fin 2) (fg : Bool) (n : Nat) : Bool :=
  let lost := s.bit (ADC_STAT t x) ADC_STAT_NOSPARE
  if fg then (lost && n == 11) || (n < 11 && s.fld (ADC_STAT t x) ADC_STAT_RET_STAGE == n + 1) else n < 12 && lost

/-- A slot ends with its measurement: coefficients or the bandgap reference renewed, or a failure, up to three attempts (R194,
R195). -/
def calSlot (t : Fin 4) (x : Fin 2) (fg : Bool) (gain offset bg : Int) (s : State) : State :=
  let y := s.conv t x
  let n := y.slot
  let next := if fg then n + 1 else (n + 1) % 16
  if s.slotIdle t x fg n then beginSlot t x next s
  else if calOk gain offset then
    let s := if 12 ≤ n then countOver t x (loneSample bg) s else s
    beginSlot t x next (s.modConv t x fun y =>
      if 12 ≤ n then { y with bgRef := clipCode bg }
      else { y with gain := y.gain.setIfInBounds n gain, offset := y.offset.setIfInBounds n offset })
  else
    let s := s.count (ADC_CNT t x) ADC_CNT_CALFAIL
    if y.attempts < 2 then
      record .calRetry 0 2 t [x, n] (s.modConv t x fun y => { y with attempts := y.attempts + 1 })
    else beginSlot t x next (slotFails t x fg n s)

/-- A calibration slot ends, in the background while BGCAL is 1, or in a foreground calibration and that of start-up (R194, R199). -/
def slotEnd (t : Fin 4) (x : Fin 2) (gain offset bg : Int) (s : State) : State :=
  let st := s.convState t x
  if st = 2 ∨ st = 4 then (if (s.conv t x).slot < 16 then calSlot t x true gain offset bg s else s)
  else if s.convUp t x ∧ s.bit (ADC_CTRL t x) ADC_CTRL_BGCAL then calSlot t x false gain offset bg s
  else s

/-- CAL_SLOT_END (R194). -/
def execCalSlotEnd (at_ : Nat) (t : Fin 4) (x : Fin 2) (gain offset bg : Int) (s : State) :
    Host.Outcome State Fault Refusal :=
  .next (slotEnd t x gain offset bg (s.reach at_))

/-! ## The cross-check on the shared channel (R196, R197) -/

/-- A shared pair of which neither sample carries OVR or SETTLE. -/
def pairValid (p : Sample × Sample) : Bool := !p.1.ovr && !p.1.settle && !p.2.ovr && !p.2.settle

/-- The mean of some codes. -/
def meanOf (l : List Int) : Rat := (l.foldl (· + ·) 0 : Int) / (l.length : Rat)

/-- The difference of the means of X and Y over the valid pairs; `none` without one. -/
def pairDiff (l : List (Sample × Sample)) : Option Rat :=
  let v := l.filter pairValid
  if v = [] then none else some (ratAbs (meanOf (v.map (·.1.code)) - meanOf (v.map (·.2.code))))

/-- What repeated comparisons come to, at most `n` of them: `some true` where one agrees, `some false` where the last of them
mismatches too; `none` where fewer pairs without a flag were converted (R196). -/
def repeats (tol : Nat) : Nat → List (Sample × Sample) → Option Bool
  | 0, _ => some false
  | _, [] => none
  | n + 1, p :: ps =>
    match pairDiff [p] with
    | none => repeats tol (n + 1) ps
    | some d => if d ≤ tol then some true else repeats tol n ps

/-- The bandgap code of a converter is out of tolerance (R197). -/
def State.bgFaulty (s : State) (t : Fin 4) (x : Fin 2) (code : Int) : Bool :=
  decide (s.fld (ADC_TCFG t) ADC_TCFG_BGTOL < (code - (s.conv t x).bgRef).natAbs)

/-- The identification after the third mismatch; a converter found faulty retires from the next boundary (R197). -/
def identify (t : Fin 4) (bg : Sample × Sample) (s : State) : State :=
  let s := countOver t 1 bg.2 (countOver t 0 bg.1 s)
  match s.bgFaulty t 0 bg.1.code, s.bgFaulty t 1 bg.2.code with
  | true, false => s.modConv t 0 fun y => { y with retireDue := true }
  | false, true => s.modConv t 1 fun y => { y with retireDue := true }
  | false, false =>
    raiseFaultAll 18 ⟨3, t⟩ 0 (tileAxes t) (s.setBit (ADC_TSTAT t) ADC_TSTAT_XCHK_UNRES true)
  | true, true => raiseFaultAll 19 ⟨3, t⟩ 0 (tileAxes t) s

/-- Entry 0 of both converters shows the latest shared sample (R188); in single operation the carrying converter's. -/
def showShared (t : Fin 4) (only : Option (Fin 2)) (l : List (Sample × Sample)) (s : State) : State :=
  l.foldl (fun (s : State) p =>
    let one (x : Fin 2) (s : State) : State :=
      let src := only.getD x
      let v := if src = 0 then p.1 else p.2
      newResult (ADC_RES t x 0) src (v.code * 256) v.ovr v.settle s
    one 1 (one 0 s)) s

/-- The shared check of the period that ends (R196), and in single operation the bandgap check of the carrying converter
(R197). -/
def vbusCheck (t : Fin 4) (i : TileRead) (s : State) : State :=
  match s.carriers t with
  | none => s
  | some (some x) =>
    let s := showShared t (some x) i.vbus s
    let bg := if x = 0 then i.bandgap.1 else i.bandgap.2
    let bad := s.bgFaulty t x bg.code
    let s := (countOver t x bg s).modConv t x fun y => { y with bgFail := if bad then y.bgFail + 1 else 0, lostRaised := bad && y.lostRaised }
    s.modTile t fun y => { y with vbusBad := false }
  | some none =>
    let s := showShared t none i.vbus s
    let tol := s.fld (ADC_TCFG t) ADC_TCFG_TOL
    match pairDiff i.vbus with
    | none => s.modTile t fun y => { y with vbusBad := false }
    | some d =>
      if d ≤ tol then
        (s.setBit (ADC_TSTAT t) ADC_TSTAT_XCHK_UNRES false).modTile t fun y => { y with vbusBad := false }
      else
        let s := s.modTile t fun y => { y with vbusBad := true }
        let s := i.again.foldl (fun (s : State) r => countOver t 1 r.2 (countOver t 0 r.1 s)) s
        match repeats tol 2 i.again with
        | some false => identify t i.bandgap s
        | some true =>
          let s := (s.count (ADC_CNT t 0) ADC_CNT_XCHK).count (ADC_CNT t 1) ADC_CNT_XCHK
          record .vbusMismatch 0 2 t [] s
        | none => s

/-- The bus voltage of the period in mV: the mean of the valid shared samples of both converters, or of the carrying one; the
previous one where the period saw a mismatch or no sample is valid (R109, R196). -/
def measureBus (t : Fin 4) (i : TileRead) (s : State) : State :=
  let ok (l : List Sample) : List Int := (l.filter fun v => !v.ovr && !v.settle).map (·.code)
  let codes : List Int := match s.carriers t with
    | some (some 0) => ok (i.vbus.map (·.1))
    | some (some _) => ok (i.vbus.map (·.2))
    | _ => (i.vbus.filter pairValid).flatMap fun p => [p.1.code, p.2.code]
  if codes = [] ∨ (s.tile t).vbusBad then s
  else s.modTile t fun y => { y with vbusLast := meanOf codes * (125 / 8) }

/-- Three consecutive bandgap failures of the carrying converter (R197). -/
def adcLost (t : Fin 4) (s : State) : State :=
  ([0, 1] : List (Fin 2)).foldl (fun (s : State) x =>
    let y := s.conv t x
    if s.convState t x = 1 ∧ 3 ≤ y.bgFail ∧ !y.lostRaised then
      raiseFaultAll 20 ⟨3, t⟩ 0 (tileAxes t) (s.modConv t x fun y => { y with lostRaised := true })
    else s) s

/-- ADC_LOST (R197). -/
def execAdcLost (at_ : Nat) (t : Fin 4) (s : State) : Host.Outcome State Fault Refusal := .next (onPeriod t (adcLost t) (s.reach at_))

/-! ## Foreground calibration (R198, R199) -/

/-- One rotation of R194 in ns. -/
def rotationNs : Nat := 13107200

/-- A foreground calibration starts at the last boundary: its rotation from slot 0 (R199). -/
def startFg (t : Fin 4) (x : Fin 2) (s : State) : State :=
  let b := s.boundary t
  let s := s.modConv t x fun y =>
    { y with fgDefer := false, fgEnd := some (b + rotationNs), found := 0, prior := some (y.gain, y.offset, y.bgRef) }
  let s := beginSlot t x 0 ((s.setConvState t x 2).setConvState t (otherConv x) 1)
  showSingle t true (s.modConv t (otherConv x) fun y => { y with bgFail := 0, lostRaised := false })

/-- At a boundary a converter found faulty retires, unless its partner is out, and a deferred calibration starts (R195, R197, R199). -/
def startDeferred (t : Fin 4) (s : State) : State :=
  ([0, 1] : List (Fin 2)).foldl (fun (s : State) x =>
    let due := (s.conv t x).retireDue
    let s := s.modConv t x fun y => { y with retireDue := false }
    let o := s.convState t (otherConv x)
    let s := if due ∧ s.convState t x ≠ 3 ∧ (o = 0 ∨ o = 2) then retireConv t x s else s
    if !(s.conv t x).fgDefer then s
    else if s.convState t x = 3 ∨ s.convState t (otherConv x) = 3 then calDone t x stABORTED s
    else startFg t x s) s

/-- ADC_CAL as it lands (R198, R199). -/
def landAdcCal (d : Desc) (s : State) : State :=
  let p := d.payload
  let t := finTile (payByte p 0)
  let sel := payByte p 1
  let x : Fin 2 := if sel = 1 then 0 else 1
  let b := s.boundary t
  if 3 < payByte p 0 ∨ (sel ≠ 1 ∧ sel ≠ 2) ∨ 1 < payByte p 2 ∨ !payZero p 3 48 ∨
      !((tileAxes t).any fun a => s.ownerAx a = d.cab) then complete d stREFUSED_VALUE 0 b s
  else if s.convState t 0 = 3 ∨ s.convState t 1 = 3 ∨ s.convState t 0 = 2 ∨ s.convState t 1 = 2 ∨
      (s.conv t 0).fgDefer ∨ (s.conv t 1).fgDefer ∨ (s.tile t).diag.isSome then complete d stREFUSED_STATE 0 b s
  else
    let s := s.modConv t x fun y => { y with fgCab := some d.cab, fgTag := d.tag, fgEvent := payBit p 2 0 }
    if (s.conv t x).injPend.isSome then
      complete d stSTARTED 4 b (s.modConv t x fun y => { y with fgDefer := true })
    else complete d stSTARTED 0 b (startFg t x s)

/-- ADC_CAL (R198). -/
def execAdcCal (d : Desc) (s : State) : Host.Outcome State Fault Refusal := .next (submit d (landAdcCal d) s)

/-- A foreground calibration, or that of start-up, has ended: the slots that no command has ended take the measurements given,
what the rotation found decides, and the period from the boundary that ended it is scheduled on both converters again (R199). -/
def fgEnded (t : Fin 4) (x : Fin 2) (cal : List (Int × Int)) (bg : Int) (s : State) : State :=
  let st := s.convState t x
  let due : Bool := match (s.conv t x).fgEnd with
    | some e => decide (e ≤ s.boundary t)
    | none => false
  if (st = 2 ∨ st = 4) ∧ due then
    let s := cal.foldl (fun s m => if (s.conv t x).slot < 16 then calSlot t x true m.1 m.2 bg s else s) s
    let found := (s.conv t x).found
    let status := if found = 0 then stPASSED else if found = 1 then stSTAGE_RETIRED else stCONVERTER_RETIRED
    let s := (countOver t x (loneSample bg) s).modConv t x fun y =>
      { y with bgRef := if found = 2 then y.bgRef else clipCode bg, found := 0 }
    let s := beginSlot t x 0 s
    let out := decide (found = 2) && s.convState t (otherConv x) != 3
    let s := if out then retireConv t x s else returnConv t x s
    calDone t x status (if s.devState < dINVENTORY then s else openSchedule t s)
  else s

/-- FGCAL_END (R199). -/
def execFgcalEnd (at_ : Nat) (t : Fin 4) (x : Fin 2) (cal : List (Int × Int)) (bg : Int) (s : State) :
    Host.Outcome State Fault Refusal :=
  .next (fgEnded t x cal bg (s.reach at_))

end Sys2Proof.Machine
end

