-- ==== Sys2Proof/Machine/Encoder.lean ====
section
/-! DEFINITION. Encoder ports (R354, R355): the quadrature count, SSI frames, the extended count X, Z edges and signal
errors. -/

namespace Sys2Proof.Machine

/-- GLB_ENC_CFG.MODE: 0 OFF, 1 QUAD, 2 SSI. -/
def State.encMode (s : State) (n : Fin 16) : Nat := s.fld (GLB_ENC_CFG n) GLB_ENC_CFG_MODE

/-- The frame length of SSI in bits. -/
def State.encBits (s : State) (n : Fin 16) : Nat := s.fld (GLB_ENC_CFG n) GLB_ENC_CFG_BITS

/-- An encoder loses its signal: OB_ENC_LOST for each axis in ENCODER mode that uses it and is not DISABLED (R128). -/
def encLost (n : Fin 16) (s : State) : State :=
  allAxes.foldl one s
where
  one (s : State) (a : Fin 32) : State :=
    if s.obMode a = 3 ∧ s.fld (OB_CFG a) OB_CFG_ENC = n.1 ∧ s.axState a ≠ axDISABLED then raiseFault 7 ⟨2, a⟩ n a s else s

/-- VALID of the axes in ENCODER mode that use the port follows its signal (R126, R260). -/
def followValid (n : Fin 16) (s : State) : State :=
  allAxes.foldl (fun (s : State) a =>
    if s.obMode a = 3 ∧ s.fld (OB_CFG a) OB_CFG_ENC = n.1 ∧ s.axState a ≠ axDISABLED then
      if s.estimateValid a then s.setBit (OB_STAT a) OB_STAT_VALID true else loseValid a s
    else s) s

/-- SIG follows MODE, FAULT and the first good frame (R355); its loss is a signal fault. -/
def followSig (n : Fin 16) (s : State) : State :=
  let m := s.encMode n
  let was := s.bit (GLB_ENC_STAT n) GLB_ENC_STAT_SIG
  let now := m != 0 && !s.bit (GLB_ENC_STAT n) GLB_ENC_STAT_FAULT && (m != 2 || (s.enc n).good)
  let s := s.setBit (GLB_ENC_STAT n) GLB_ENC_STAT_SIG now
  let s := if was = now then s else followValid n s
  if was ∧ !now then encLost n (s.modEnc n fun e => { e with losses := e.losses + 1 }) else s

/-- MODE has been written from `old`: leaving OFF, X takes the value of the port, sign-extended, and ZSEEN clears
(R354). -/
def encModeChanged (n : Fin 16) (old : Nat) (s : State) : State :=
  let s :=
    if old = 0 ∧ s.encMode n ≠ 0 then
      let v := s.fldI (GLB_ENC_POS n) GLB_ENC_POS_POS
      (s.setBit (GLB_ENC_STAT n) GLB_ENC_STAT_ZSEEN false).modEnc n fun e =>
        { e with x := v, last := v, good := false, zAt := none, frameAt := none }
    else s
  followSig n s

/-- A signal error: it is counted, the value is kept, and FAULT is set (R355). -/
def encError (n : Fin 16) (s : State) : State :=
  if s.encMode n = 0 then s
  else
    let s := (s.count (GLB_ENC_CNT n) GLB_ENC_CNT_ERR).setBit (GLB_ENC_STAT n) GLB_ENC_STAT_FAULT true
    followSig n (s.modEnc n fun e => { e with lastErr := s.up })

/-- X grows by the difference of a new raw value from the last, modulo 2^w, read as a signed number (R354). -/
def extendCount (n : Fin 16) (w : Nat) (raw : Int) (s : State) : State :=
  s.modEnc n fun e => { e with x := e.x + signedOf w (toBits w (raw - e.last)), last := raw }

/-- The level filter of an encoder port: a pin takes a level it has held for FILT × 5 ns, otherwise it keeps the old one. `raw` are its
samples at 200 MHz, bit 0 the latest (R354). -/
def State.encLevel (s : State) (n : Fin 16) (old : Bool) (raw : BitVec 10) : Bool :=
  let held := raw.toNat % 2 ^ (s.fld (GLB_ENC_CFG n) GLB_ENC_CFG_FILT + 1)
  if held = 0 then false else if held + 1 = 2 ^ (s.fld (GLB_ENC_CFG n) GLB_ENC_CFG_FILT + 1) then true else old

/-- The count of QUAD moves by one: up where A leads B, or B leads A with INV (R354). -/
def quadStep (n : Fin 16) (aLeads : Bool) (s : State) : State :=
  let up := aLeads != s.bit (GLB_ENC_CFG n) GLB_ENC_CFG_INV
  let c := signedOf 32 (toBits 32 (s.fldI (GLB_ENC_POS n) GLB_ENC_POS_POS + if up then 1 else -1))
  extendCount n 32 c (s.setFldI (GLB_ENC_POS n) GLB_ENC_POS_POS c)

/-- A sample of A and B after the filter: where one of them changed the count moves, where both did it is a signal error and the
count stays (R354, R355). -/
def quadEdge (n : Fin 16) (rawA rawB : BitVec 10) (s : State) : State :=
  let e := s.enc n
  let a := s.encLevel n e.a rawA
  let b := s.encLevel n e.b rawB
  let s := s.modEnc n fun e => { e with a := a, b := b }
  if s.encMode n ≠ 1 then s
  else if a != e.a && b != e.b then encError n s
  else if a != e.a then quadStep n (a != b) s
  else if b != e.b then quadStep n (a == b) s
  else s

/-- QUADRATURE_EDGE (R354): the samples of A and B up to an instant. -/
def execQuadratureEdge (t : Nat) (n : Fin 16) (rawA rawB : BitVec 10) (s : State) : Host.Outcome State Fault Refusal :=
  .next (quadEdge n rawA rawB (s.reach t))

/-- The axis whose position a supervisor's INDEX event carries: the first of its tile whose observer reads the encoder port, otherwise
the first of the tile (R209). -/
def State.indexAxis (s : State) (t : Fin 4) (n : Fin 16) : Fin 32 :=
  ((tileAxes t).find? fun (a : Fin 32) => s.fld (OB_CFG a) OB_CFG_ENC == n.1 && s.fld (OB_CFG a) OB_CFG_MODE != 0).getD (finAx (8 * t.1))

/-- A rising Z edge: ZSEEN, the index of a homing, and engine event 13 with the commanded position at the edge (R94, R209,
R354). -/
def zEdge (t : Nat) (n : Fin 16) (s : State) : State :=
  if s.encMode n ≠ 1 then s
  else
    let s := (s.setBit (GLB_ENC_STAT n) GLB_ENC_STAT_ZSEEN true).modEnc n fun e => { e with zAt := some t }
    allAxes.foldl (fun (s : State) a =>
      let s := homeIndex a n t s
      if s.fld (ENG_CFG (s.engOf a)) ENG_CFG_ENC = n.1 then latchEvent (s.engOf a) 13 (toBits 64 (s.posNow a t)) s else s) s
      |> fun s => allTiles.foldl (fun (s : State) u =>
        if s.fld (ENG_CFG (supOf u)) ENG_CFG_ENC = n.1 then
          let a := s.indexAxis u n
          latchEvent (supOf u) 13 (toBits 64 (s.posNow a t) % 2 ^ 56 + a.1 * 2 ^ 56) s
        else s) s

/-- The samples of Z up to an instant end in a rising edge after the filter: high for FILT × 5 ns, and low before (R354). -/
def State.zRises (s : State) (n : Fin 16) (raw : BitVec 11) : Bool :=
  let f := s.fld (GLB_ENC_CFG n) GLB_ENC_CFG_FILT
  raw.toNat % 2 ^ (f + 2) + 1 == 2 ^ (f + 1)

/-- ENC_Z_EDGE (R354). -/
def execEncZEdge (t : Nat) (n : Fin 16) (raw : BitVec 11) (s : State) : Host.Outcome State Fault Refusal :=
  .next ((s.reach t).onlyIf (s.zRises n raw) (zEdge t n))

/-- ENC_SIGNAL_ERROR (R355). -/
def execEncSignalError (t : Nat) (n : Fin 16) (s : State) : Host.Outcome State Fault Refusal := .next (encError n (s.reach t))

/-- Gray code to binary: bit i is the parity of the bits from i up. -/
def grayDecode (w raw : Nat) : Nat := (List.range w).foldl (fun v i => v ^^^ (raw >>> i)) 0

/-- The SSI clock period in ns (GLB_ENC_CFG.CLK). -/
def ssiClock (c : Nat) : Nat := ([10000, 5000, 2000, 1000, 500, 250] : List Nat).getD c 0

/-- The latch instant of a frame whose last edge comes at `t`: the line-time multiple of IVL at which it began, none where a frame
cannot have ended since, or that multiple had its frame (R354). -/
def State.ssiStart (s : State) (n : Fin 16) (t : Nat) : Option Nat :=
  let cfg := GLB_ENC_CFG n
  let ivl := 1000 * s.fld cfg GLB_ENC_CFG_IVL
  let start := t / ivl * ivl
  if t < start + s.encBits n * ssiClock (s.fld cfg GLB_ENC_CFG_CLK) ∨ (s.enc n).frameAt = some start then none else some start

/-- The value of a good frame applies from its latch instant: what tiles and observers have latched of the port since takes it
(R354). -/
def applySince (n : Fin 16) (start : Nat) (s : State) : State :=
  let x := (s.enc n).x
  let s := allTiles.foldl (fun (s : State) t =>
    if s.boundary t < start then s
    else s.modTile t fun y =>
      { y with
        encX := y.encX.set n x
        encGood := y.encGood.set n ((y.encGood[n]).map fun g => if start ≤ g.1 then (g.1, x) else g) }) s
  allAxes.foldl (fun (s : State) a =>
    if start ≤ s.axB a ∧ s.fld (OB_CFG a) OB_CFG_ENC = n.1 then s.modObs a fun o => { o with encLatch := x } else s) s

/-- An SSI frame ends, with the data line at its first falling clock edge and at the edge after the last bit: high and low where it is
good, and then it gives the value of the port and extends X from its latch instant on; otherwise it is a signal error (R354, R355). -/
def ssiFrame (t : Nat) (n : Fin 16) (raw : Nat) (first last : Bool) (s : State) : State :=
  match (if s.encMode n = 2 then s.ssiStart n t else none) with
  | none => s
  | some start =>
  let s := s.modEnc n fun e => { e with frameAt := some start }
  if !first || last then encError n s
  else
    let w := s.encBits n
    let v := raw % 2 ^ w
    let v := signedOf w (if s.bit (GLB_ENC_CFG n) GLB_ENC_CFG_GRAY then grayDecode w v else v)
    let s := s.setFldI (GLB_ENC_POS n) GLB_ENC_POS_POS v
    let s := s.setFld (GLB_ENC_CNT n) GLB_ENC_CNT_FRAMES (s.fld (GLB_ENC_CNT n) GLB_ENC_CNT_FRAMES + 1)
    followSig n ((applySince n start (extendCount n w v s)).modEnc n fun e => { e with good := true })

/-- SSI_FRAME (R354). -/
def execSsiFrame (t : Nat) (n : Fin 16) (raw : Nat) (first last : Bool) (s : State) : Host.Outcome State Fault Refusal :=
  .next (ssiFrame (s.reach t).now n raw first last (s.reach t))

/-- FAULT clears once 1 ms has passed without an error (R355). -/
def encClear (n : Fin 16) (s : State) : State :=
  if (s.enc n).lastErr + 1000000 ≤ s.up then
    followSig n (s.setBit (GLB_ENC_STAT n) GLB_ENC_STAT_FAULT false)
  else s

/-- ENC_FAULT_CLEAR (R355). -/
def execEncFaultClear (t : Nat) (n : Fin 16) (s : State) : Host.Outcome State Fault Refusal := .next (encClear n (s.reach t))

end Sys2Proof.Machine
end

