-- ==== Sys2Proof/Machine/Faults.lean ====
section
/-! DEFINITION. Faults as the ladder handles them (spec/17): reactions landing, reports, the end of an episode, and missed
slot results (R18). -/

namespace Sys2Proof.Machine

/-! ## A reaction lands (R308, R309, R311) -/

/-- An episode is opened by a reaction that lands after the one of its fault has ended. -/
def reopen (a : Fin 32) (r : PendRx) (s : State) : State :=
  let st := MP_FLT_STAT a
  if s.bit st MP_FLT_STAT_EPISODE then s
  else
    let s := (s.count (MP_FLT_CNT a) MP_FLT_CNT_EPISODES).setBit st MP_FLT_STAT_EPISODE true
    let s := s.setFld st MP_FLT_STAT_FIRST r.cls
    s.modAxis a fun x => { x with ep :=
      { x.ep with
        firstAt := r.arrival, count := 1, sev := faultSev r.cls r.rx, detail := r.detail, past := []
        classes := [⟨r.cls, r.rx, r.scope, r.scopeIdx, r.detail⟩] } }

/-- A stop of CONTROLLED_STOP: it replaces a ramp in force but that of an ESTOP or a limit input, and ends a homing and a
pending engagement (R74, R96, R309). -/
def reactStop (a : Fin 32) (s : State) : State :=
  let kind := (s.prof a).stopKind
  let kept := s.axState a = axSTOPPING ∧ (kind = .estop ∨ kind = .limit)
  let go := !decide kept && (s.moving a || s.axState a == axSTOPPING)
  failHoming a 8 (cancelEngage a (if go then beginStop a .reaction s else s))

/-- What a reaction does to its axis (R308). -/
def applyReaction (a : Fin 32) (rx : Nat) (s : State) : State :=
  let pA := s.portOf a false
  let pB := s.portOf a true
  match rx with
  | 1 => s
  | 2 => setDerated a true s
  | 3 => reactStop a s
  | 4 => enterHold a s
  | _ =>
    let s := enterDisabled a (protectPort pB (protectPort pA s))
    if rx = 6 then
      (s.setBit (gdStat pA) GD_STAT_DIAG_REQ true).setBit (gdStat pB) GD_STAT_DIAG_REQ true
    else s

/-- One reaction lands at the last boundary: it acts where it stands above the one in force (R311). Engine event 12 tells
of it (R209). -/
def landReaction (a : Fin 32) (r : PendRx) (s : State) : State :=
  let old := s.rxOf a
  if r.rx ≤ old then s
  else
    let st := MP_FLT_STAT a
    let s := reopen a r s
    let s := if old = 0 then s else s.count (MP_FLT_CNT a) MP_FLT_CNT_CLIMBS
    let s := if old = 2 then setDerated a false s else s
    let s := (s.setFld st MP_FLT_STAT_RX r.rx).setFld st MP_FLT_STAT_TOP r.cls
    let s := s.modAxis a fun x => { x with ep :=
      { x.ep with scope := r.scope, scopeIdx := r.scopeIdx, landAt := s.boundary (tileOf a), reported := false } }
    axisEvent a 12 r.rx (applyReaction a r.rx s)

/-- The reactions that reached the hedge at least 0.5 µs before the last boundary land (R309). -/
def landReactions (a : Fin 32) (s : State) : State :=
  let b := s.boundary (tileOf a)
  let due := (s.axis a).ep.pend.filter fun r => decide (r.arrival + 500 ≤ b)
  let s := s.modAxis a fun x => { x with ep := { x.ep with pend := x.ep.pend.filter fun r => !decide (r.arrival + 500 ≤ b) } }
  followEpisode a (due.foldl (fun s r => landReaction a r s) s)

/-- REACTION_LAND (R309). -/
def execReactionLand (t : Nat) (a : Fin 32) (s : State) : Host.Outcome State Fault Refusal :=
  .next (landReactions a (s.reach t))

/-! ## Reports (R318) -/

/-- FAULT_REPORT (R318). -/
def execFaultReport (t : Nat) (a : Fin 32) (s : State) : Host.Outcome State Fault Refusal := .next (report a (s.reach t))

/-! ## The end of an episode (R313) -/

/-- WARN, DERATE and CONTROLLED_STOP end once settled without a cause; DISABLE and PORT_OFF once EN = 0 has landed on both
ports. HOLD ends with a STOP that releases it. A reaction that has settled without its report is reported as it ends (R318). -/
def closeEpisode (a : Fin 32) (s : State) : State :=
  let s := followEpisode a s
  let st := MP_FLT_STAT a
  let rx := s.rxOf a
  if !s.bit st MP_FLT_STAT_EPISODE then s
  else if rx ≤ 3 then
    if s.bit st MP_FLT_STAT_SETTLED ∧ !s.bit st MP_FLT_STAT_CAUSE ∧ (s.axis a).ep.pend = [] then endEpisode a (report a s) else s
  else if 5 ≤ rx ∧ s.bothPorts a pOFF then endEpisode a (report a s)
  else s

/-- EPISODE_END (R313). -/
def execEpisodeEnd (t : Nat) (a : Fin 32) (s : State) : Host.Outcome State Fault Refusal := .next (closeEpisode a (settleAxis a (s.reach t)))

/-! ## Missed results (R18) -/

/-- The results of step 6 for a port were not accepted by the latch deadline (R18). DESIGN CHOICE (log): GLB_XING_CNT.MISSED counts
each port that missed in a period. -/
def missResults (p : Fin 64) (s : State) : State :=
  if (s.loop p).missed then s
  else
    let s := s.count (GLB_XING_CNT (pT p)) GLB_XING_CNT_MISSED
    s.modLoop p fun l => { l with missed := true, missRun := l.missRun + 1 }

/-- MISSED_RESULTS (R18). -/
def execMissedResults (t : Nat) (p : Fin 64) (s : State) : Host.Outcome State Fault Refusal :=
  .next (missResults p (s.reach t))

/-- XING_FAULT is 1 while a port of the tile has 3 or more consecutive missed periods (GLB_HEDGE_STAT). -/
def followMissed (t : Fin 4) (s : State) : State :=
  s.setBit GLB_HEDGE_STAT (GLB_HEDGE_STAT_XING_FAULT t.1) ((tilePorts t).any fun p => decide (3 ≤ (s.loop p).missRun))

/-- Three consecutive missed periods of a port: the axis freezes in HOLD, XING_FAULT is set and the fault is raised (R18). -/
def missedHold (p : Fin 64) (s : State) : State :=
  if (s.loop p).missRun = 3 then
    let s := followMissed (tileOfPort p) s
    match s.axisOfPort p with
    | some (a, _) => raisePortFault 26 p 0 (enterHold a s)
    | none => s
  else s

/-- MISSED_RESULTS_HOLD (R18). -/
def execMissedResultsHold (t : Nat) (p : Fin 64) (s : State) : Host.Outcome State Fault Refusal :=
  .next (missedHold p (s.reach t))

end Sys2Proof.Machine
end

