-- ==== Sys2Proof/Machine/Programs.lean ====
section
/-! DEFINITION. Loading and swapping images and tables (R100, R101, R217–R220). -/

namespace Sys2Proof.Machine

/-! ## Images (R217, R218) -/

/-- The bytes of an image as 32-bit words. -/
def wordsOf : List Byte → List Word
  | b0 :: b1 :: b2 :: b3 :: bs => BitVec.ofNat 32 (leNat [b0, b1, b2, b3]) :: wordsOf bs
  | _ => []

/-- The 16-bit entries of a table image (R217). -/
def entriesOf : List Byte → List Nat
  | b0 :: b1 :: bs => leNat [b0, b1] :: entriesOf bs
  | _ => []

/-- The instruction words and data bytes that an engine kind may hold (R200). -/
def wordLimit (kind : Nat) : Nat := if kind = 1 then 2048 else 1024
def dataLimit (kind : Nat) : Nat := if kind = 1 then 2048 else 1024

/-- Word `i` of an image of `n` words passes the load check: an opcode its engine can use, register operands within their
limits, a branch target inside the image (R218). -/
def wordOk (kind n i : Nat) (w : Word) : Bool :=
  let op := wOp w
  let target : Int := (i : Int) + 1 + signedOf 18 (wImm w)
  opFor kind op &&
  !((op == 0x2E || op == 0x2F || op == 0x35) && wD w == 15) &&
  !(op == 0x30 && decide (13 < wD w)) && !(op == 0x32 && wA w == 15) &&
  !(decide (0x20 ≤ op) && decide (op ≤ 0x27) && (decide (target < 0) || decide ((n : Int) ≤ target)))

/-- The header of an image (R217): n, d and the entry word, where it is sound. -/
def imageHeader (kind : Nat) (bs : List Byte) : Option (Nat × Nat × Nat) :=
  let n := leNat ((bs.drop 6).take 2)
  let d := leNat ((bs.drop 8).take 2)
  let e := leNat ((bs.drop 10).take 2)
  if bs.length < 16 ∨ leNat (bs.take 4) ≠ 0x4750594B ∨ leNat ((bs.drop 4).take 1) ≠ 1 ∨ leNat ((bs.drop 5).take 1) ≠ kind ∨
      n = 0 ∨ wordLimit kind < n ∨ d % 4 ≠ 0 ∨ dataLimit kind < d ∨ n ≤ e ∨ leNat ((bs.drop 12).take 4) ≠ 0 then none
  else some (n, d, e)

/-- An image from host memory, where every check of R218 passes. -/
def parseImage (kind : Nat) (bs : List Byte) : Option Image :=
  match imageHeader kind bs with
  | none => none
  | some (n, d, e) =>
    let ws := wordsOf ((bs.drop 16).take (4 * n))
    if bs.length ≠ 16 + 4 * n + d ∨ !((List.range n).zip ws).all (fun x => wordOk kind n x.1 x.2) then none
    else some ⟨true, 0xFFFF, ws, e, wordsOf (bs.drop (16 + 4 * n))⟩

/-- Entries that never fall (R100). -/
def risingFrom : Nat → List Nat → Bool
  | _, [] => true
  | v, w :: ws => decide (v ≤ w) && risingFrom w ws

/-- A table from host memory, where it meets R100 (R217). -/
def parseTable (bs : List Byte) : Option Table :=
  let ws := entriesOf bs
  if bs.length ≠ 2048 ∨ ws.headD 1 ≠ 0 ∨ !risingFrom 0 ws then none else some (.data ws)

/-- The library holds an identifier of a kind (R219). -/
def inLibrary (kind id : Nat) : Bool :=
  (kind == 3 && id == 0) || (kind == 1 && id == 0x0200) || (kind == 2 && id == 0x0300) || Config.libraryHas kind id

/-- An image of the library. -/
def libraryImage (kind id : Nat) : Image :=
  let (ws, e, d) := Config.libraryImage kind id
  ⟨true, id, ws, e, d⟩

/-- An image of the library passes the checks of a load (R218). -/
def libraryOk (kind : Nat) (im : Image) : Bool :=
  let n := im.words.length
  n != 0 && decide (n ≤ wordLimit kind) && decide (4 * im.data.length ≤ dataLimit kind) && decide (im.entry < n) &&
  ((List.range n).zip im.words).all fun x => wordOk kind n x.1 x.2

/-- A table of the library, where it meets R100, as the sine of identifier 0 does by its formula (R101). -/
def libraryTable (id : Nat) : Option Table :=
  let t := Table.library id
  if id = 0 ∨ (t.entry 0 = 0 ∧ risingFrom 0 ((List.range 1024).map t.entry)) then some t else none

/-- The bytes of an image of a kind (R217). -/
def Image.bytes (kind : Nat) (im : Image) : List Byte :=
  leBytes 0x4750594B 4 ++ [1#8, BitVec.ofNat 8 kind] ++ leBytes im.words.length 2 ++ leBytes (4 * im.data.length) 2 ++
    leBytes im.entry 2 ++ leBytes 0 4 ++ (im.words ++ im.data).flatMap fun w => leBytes w.toNat 4

/-- The bytes of a table image (R217). -/
def Table.bytes (t : Table) : List Byte := (List.range 1024).flatMap fun i => leBytes (t.entry i) 2

/-! ## Targets (R218) -/

/-- The engine that a kind and index name, for an owner: the axis engine of the target axis, a supervisor for a cabinet
that owns every axis of its tile, a filter for cabinet 0. Kind 3 stands for the axis's own tables. -/
def State.progEngine (s : State) (d : Desc) (kind idx : Nat) : Option (Fin 46) :=
  match kind with
  | 0 => if d.kind = 0 ∧ idx = 0 then some (s.engOf (finAx d.target)) else none
  | 1 =>
    if d.kind = 2 ∧ idx < 4 ∧ (tileAxes (finTile idx)).all (fun a => s.ownerAx a = d.cab) then some (supOf (finTile idx)) else none
  | 2 => if d.kind = 2 ∧ idx < 2 ∧ d.cab = 0 then some (finEng (44 + idx)) else none
  | _ => if d.kind = 0 ∧ idx = 0 then some (s.engOf (finAx d.target)) else none

/-- The instant a load or a swap of a kind takes effect: the last boundary of its tile, or at once for a filter. -/
def State.progLand (s : State) (d : Desc) (kind idx : Nat) : Nat :=
  match kind with
  | 1 => s.boundary (finTile idx)
  | 2 => s.now
  | _ => s.landOf d

/-! ## PROG_LOAD (R100, R218) -/

/-- The standby image of an engine. -/
def loadImage (e : Fin 46) (im : Image) (s : State) : State :=
  let sb : Fin 2 := if s.imgIdx e = 0 then 1 else 0
  (s.modEng e fun x => { x with img := x.img.set sb im }).setBit (ENG_STAT e) ENG_STAT_SB_VALID true

/-- The standby table of an axis. -/
def loadTable (a : Fin 32) (tb : Table) (s : State) : State :=
  let sb := 1 - s.fld (CR_TAB a) CR_TAB_ACTIVE_BUF
  (s.modAxis a fun x => { x with table := x.table.setIfInBounds sb tb }).setBit (CR_TAB a) CR_TAB_SB_VALID true

/-- The bytes of an image have the length and the CRC that a payload names (R218). -/
def imageMatches (p : Payload) (bs : List Byte) : Bool := bs.length == pay32 p 16 && crc32c bs == pay32 p 20

/-- The image or table that a PROG_LOAD brings, from the library or from host memory, where its bytes have the length and the CRC the
payload names; `none` where a check fails (R218). -/
def loadedImage (d : Desc) (kind : Nat) : Option (Image ⊕ Table) :=
  let p := d.payload
  if payByte p 1 = 1 then
    let id := pay16 p 4
    if !inLibrary kind id then none
    else if kind = 3 then
      match libraryTable id with
      | some tb => if imageMatches p tb.bytes then some (.inr tb) else none
      | none => none
    else
      let im := libraryImage kind id
      if libraryOk kind im ∧ imageMatches p (im.bytes kind) then some (.inl im) else none
  else if pay64 p 8 % 4 ≠ 0 ∨ !imageMatches p d.image then none
  else if kind = 3 then (parseTable d.image).map .inr else (parseImage kind d.image).map .inl

/-- PROG_LOAD as it lands; without a readable library nothing is loaded from it (R218, R282). -/
def landProgLoad (d : Desc) (s : State) : State :=
  let p := d.payload
  let kind := payByte p 0
  let idx := payByte p 2
  let l := s.progLand d kind idx
  let a := finAx d.target
  match s.progEngine d kind idx with
  | none => complete d stREFUSED_VALUE 0 l s
  | some e =>
    let noLib := decide (payByte p 1 = 1) && s.bit GLB_STATE GLB_STATE_LIB_BAD
    if 3 < kind ∨ 1 < payByte p 1 ∨ noLib ∨ payByte p 3 ≠ 0 ∨ pay16 p 6 ≠ 0 ∨ !payZero p 24 48 then complete d stREFUSED_VALUE 0 l s
    else
      match loadedImage d kind with
      | none => complete d stREFUSED_VALUE 0 l s
      | some x =>
        if d.kind = 0 ∧ (s.axis a).mig.isSome then complete d stREFUSED_STATE 0 l s
        else
          match x with
          | .inl im => complete d stLOADED 0 l (loadImage e im s)
          | .inr tb => complete d stLOADED 0 l (loadTable a tb s)

/-- PROG_LOAD (R218). -/
def execProgLoad (d : Desc) (s : State) : Host.Outcome State Fault Refusal := .next (submit d (landProgLoad d) s)

/-! ## PROG_SWAP (R101, R220) -/

/-- The identifier CR_TAB shows for a table. -/
def Table.ident : Table → Nat
  | .library n => n
  | .data _ => 0xFFFF
  | .empty => 0

/-- The standby table becomes active, and the active one standby (R101). -/
def swapTable (a : Fin 32) (s : State) : State :=
  let n := 1 - s.fld (CR_TAB a) CR_TAB_ACTIVE_BUF
  let id := (if n = 0 then (s.axis a).table[0] else (s.axis a).table[1]).ident
  let s := (s.setFld (CR_TAB a) CR_TAB_ACTIVE_BUF n).setFld (CR_TAB a) CR_TAB_ID id
  s.setBit (CR_STAT a) CR_STAT_TAB_ALT (id != 0)

/-- A PROG_SWAP has landed: SWAPPED, and its axis keeps the boundary (R220, R294). -/
def swapped (d : Desc) (l : Nat) (s : State) : State :=
  let s := if d.kind = 0 then s.modAxis (finAx d.target) fun x => { x with swapAt := some l } else s
  complete d stSWAPPED 0 l s

/-- A swap of an engine lands (R220); a filter in the middle of a run waits for its end. -/
def swapEngine (d : Desc) (e : Fin 46) (l : Nat) (restart keep : Bool) (arg : Word) (s : State) : State :=
  if engKind e = 2 ∧ (s.eng e).running then
    s.modEng e fun x => { x with swap := some ⟨restart, keep, arg, d⟩ }
  else swapped d l (landSwap e restart keep arg s)

/-- PROG_SWAP as it lands at the last boundary, before the runs of the period (R101, R220). -/
def landProgSwap (d : Desc) (s : State) : State :=
  let p := d.payload
  let kind := payByte p 0
  let idx := payByte p 1
  let l := s.progLand d kind idx
  let a := finAx d.target
  let restart := payBit p 2 0
  match s.progEngine d kind idx with
  | none => complete d stREFUSED_VALUE 0 l s
  | some e =>
    let reserved := decide (3 < kind) || decide (3 < payByte p 2) || payByte p 3 != 0 || !payZero p 8 48 ||
      (kind == 3 && (payByte p 2 != 0 || pay32 p 4 != 0))
    let migrates := decide (d.kind = 0) && (s.axis a).mig.isSome
    if reserved then complete d stREFUSED_VALUE 0 l s
    else if kind = 3 then
      if migrates ∨ !s.bit (CR_TAB a) CR_TAB_SB_VALID then complete d stREFUSED_STATE 0 l s
      else swapped d l (swapTable a s)
    else
      let img := (s.eng e).img
      let cur := s.imgIdx e
      let valid := if restart then img[cur].valid else s.bit (ENG_STAT e) ENG_STAT_SB_VALID
      if migrates ∨ !valid ∨ (kind = 0 ∧ s.homing a) ∨ s.fld (ENG_STAT e) ENG_STAT_STATE = 6 ∨ (s.eng e).swap.isSome then
        complete d stREFUSED_STATE 0 l s
      else swapEngine d e l restart (payBit p 2 1) (BitVec.ofNat 32 (pay32 p 4)) s

/-- A descriptor that swaps or restarts an engine after the runs of the period have begun: the program that it starts begins
the run of that period (R220). -/
def swapThenRun (d : Desc) (s : State) : State :=
  let t := landProgSwap d s
  match s.progEngine d (payByte d.payload 0) (payByte d.payload 1) with
  | some e =>
    if engKind e ≠ 2 ∧ (t.eng e).lastCmd ≠ (s.eng e).lastCmd then engBoundary (t.tile (t.engTile e)).k e t else t
  | none => t

/-- PROG_SWAP (R220). -/
def execProgSwap (d : Desc) (s : State) : Host.Outcome State Fault Refusal := .next (submit d (swapThenRun d) s)

end Sys2Proof.Machine
end

