-- ==== Sys2Proof/Machine/Startup.lean ====
section
/-! DEFINITION. Start-up, identity memories and inventory (spec/15): leaving and entering OFF, secure boot, identity records
and their loads, the diagnostics of DIAG, and CFG_COMMIT. -/

namespace Sys2Proof.Machine

/-! ## OFF and power-on (R272, R276, R277, R346) -/

/-- The highest sequence number of some records. -/
def topSeq (l : List Record) : Nat := l.foldl (fun m r => max m r.seq) 0

/-- The records the flash holds. -/
def Recorder.inFlash (x : Recorder) : List Record := x.armoire.flatMap fun b => b.recs

/-- The next sequence number after a reset: 1 above the highest that the flash and the self-failure area hold, 0 with no
record at all (R324). -/
def Recorder.nextSeq (x : Recorder) : Nat :=
  if x.inFlash ++ x.drawer = [] then 0 else topSeq (x.inFlash ++ x.drawer) + 1

/-- The recorder without what a reset loses: the flash, the self-failure area and the backup clock remain (R276). -/
def Recorder.cold (x : Recorder) : Recorder :=
  { Recorder.init with armoire := x.armoire, erased := x.erased, drawer := x.drawer, rtc := x.rtc, torn := x.torn }

/-- The recorder without what hosts asked of it. -/
def Recorder.idle (x : Recorder) : Recorder := { x with exports := [], lookup := none }

/-- Line time counts from 0 again (R23). -/
def State.zeroTime (s : State) : State := s.setNow 0

/-- A converter whose stage is retired in the bottom drawer (R195). -/
def restoreStage (t : Fin 4) (x : Fin 2) (stage : Nat) (s : State) : State :=
  if stage = 0 then s
  else
    let st := ADC_STAT t x
    let s := s.modConv t x fun y => { y with lostStages := stage }
    ((s.setFld st ADC_STAT_RET_STAGE stage).setFld st ADC_STAT_SPARE_AT stage).setBit st ADC_STAT_NOSPARE true

/-- What a reset leaves of the device: the pins, the images, the preferred slot and the minimum security version (R276). -/
def Device.cold (d : Device) : Device :=
  { Device.init with
    resetN := d.resetN, pfailN := d.pfailN, supplies := d.supplies, vhold := d.vhold
    slotA := d.slotA, slotB := d.slotB, key := d.key, pref := d.pref, minSvn := d.minSvn }

/-- Everything at its reset value but commands waiting, what was sent, line time, and what a reset leaves of the recorder and
the device (R276). -/
def coldBase (s : State) (x : Recorder) : State :=
  { State.reset with pending := s.pending, freeCtr := s.freeCtr, out := s.out, now := s.now, recorder := x, dev := s.dev.cold }

/-- Everything at its reset value but what R276 keeps: commands waiting, what was sent, the flash and the bottom drawer, the
backup clock, and the pins. -/
def coldState (s : State) (x : Recorder) : State :=
  let d := s.dev
  let z := allTiles.foldl (fun z t => restoreStage t 1 (s.conv t 1).lostStages (restoreStage t 0 (s.conv t 0).lostStages z))
    (coldBase s x)
  let z := (z.setFld GLB_BOOT GLB_BOOT_MIN_SVN d.minSvn).setBit GLB_BOOT GLB_BOOT_PREF d.pref
  let z := z.setReg REC_ARM (s.reg REC_ARM)
  let z := followFlushed (z.setFld REC_SEQ REC_SEQ_NEXT x.nextSeq)
  let z := (z.setBit REC_STAT REC_STAT_RTC_VALID x.rtc.isSome).setBit REC_STAT REC_STAT_PFAIL (!d.pfailN)
  followRec z

/-- The device enters OFF: every gate output is held off and every axis is DISABLED (R276, R277). While RESET_N stays high a
flush in progress or requested goes on (R346). -/
def powerDown (keepFlush : Bool) (s : State) : State :=
  let going := keepFlush && s.recUp && s.flushOwed
  let s := if going then s else cutFlush s
  let z := coldState s (if going then s.recorder.idle else s.recorder.cold)
  let z := if going then (z.setReg REC_STAT (s.reg REC_STAT)).setReg REC_SEQ (s.reg REC_SEQ) else z
  let z := (z.setFld GLB_STATE GLB_STATE_STATE s.devState).modDev fun d => { d with relAt := s.dev.relAt }
  setDevState dOFF 0 z

/-- RESET_N_FALL (R277): from any state to OFF; the RAM journal is lost. A pulse of less than 10 µs is ignored (R349). -/
def execResetNFall (t low : Nat) (s : State) : Host.Outcome State Fault Refusal :=
  .next ((s.reach t).onlyIf (decide (10000 ≤ low)) fun s => powerDown false (s.modDev fun x => { x with resetN := false }))

/-- SUPPLY_LOSS (R346): VAUX or VIO falls below its threshold. -/
def execSupplyLoss (t : Nat) (s : State) : Host.Outcome State Fault Refusal :=
  .next (powerDown true ((s.reach t).modDev fun x => { x with supplies := false }))

/-- The backup clock carried over to a new start of the device's own time. -/
def rebaseRtc (x : Recorder) (up : Nat) : Recorder :=
  { x with rtc := x.rtc.map fun c => (c.1 + (up - c.2) * 32768 / 1000000000, 0) }

/-- The start of the device: line time counts from 0 (R23), the recorder writes REC_START with the reset cause, the first sequence
number, the torn records discarded and the blocks and slots in use (R324, R328, R335), and OFF changes to BOOT (R272). The causes are
1 power-on, 2 RESET_N and 3 a recovery: DESIGN CHOICE (log), the manual gives the body no layout. `fs` are the blocks that could not
be read as the index was rebuilt (R335). -/
def startUp (cause : Nat) (fs : List FlashFail) (s : State) : State :=
  let x := rebaseRtc s.recorder.cold s.up
  let z := (coldState s { x with torn := 0 }).zeroTime
  let words := [cause, z.fld REC_SEQ REC_SEQ_NEXT, x.torn, x.armoire.length, z.fld REC_DRAWER REC_DRAWER_USED]
  let z := candidate (mkRecord z (.num 0xF006) 0 7 0 [] (words.flatMap fun w => leBytes w 4) false) z
  (setDevState dBOOT 0 (z.setFld GLB_STATE GLB_STATE_STATE dOFF)).onlyIf s.dev.vhold (flashFails fs)

/-- The power-on timer ends: OFF is left for BOOT (R272). -/
def powerUp (vhold : Bool) (fs : List FlashFail) (s : State) : State :=
  if s.devState ≠ dOFF then s
  else
    startUp (if s.dev.supplies then 2 else 1) fs
      (cutFlush (s.modDev fun x => { x with resetN := true, supplies := true, vhold := vhold }))

/-- POWER_ON_TIMER (R272). -/
def execPowerOnTimer (t : Nat) (vhold : Bool) (fs : List FlashFail) (s : State) : Host.Outcome State Fault Refusal :=
  .next (powerUp vhold fs (s.reach t))

/-! ## In use, spare or retired (R293) -/

def allSlots : List Nat := List.range 36
def axisEngines : List Nat := List.range 40

/-- A destination of a migration in progress. -/
def State.slotTaken (s : State) (n : Nat) : Bool := allAxes.any fun a => s.fld (MP_MIG_TGT a) MP_MIG_TGT_DSLOT == n
def State.engTaken (s : State) (n : Nat) : Bool := allAxes.any fun a => s.fld (MP_MIG_TGT a) MP_MIG_TGT_DENG == n

/-- A spare slot: in no use, not retired and no destination. -/
def State.slotSpare (s : State) (n : Nat) : Bool :=
  decide (n < 36) && !allAxes.any (fun a => s.slotOf a == n) && !s.dev.slotRet.contains n && !s.slotTaken n

/-- A spare axis engine. -/
def State.engSpare (s : State) (n : Nat) : Bool :=
  decide (n < 40) && !allAxes.any (fun a => (s.engOf a).1 == n) && !s.dev.engRet.contains n && !s.engTaken n

/-- The hedge of a slot and of an axis engine (R5). -/
def slotHedge (n : Nat) : Nat := n / 9
def engHedge (n : Nat) : Nat := n / 10

/-- The spare to take for an axis of tile `t`: in its hedge if one exists, otherwise in the lowest-numbered hedge (R294). -/
def pickSpare (spares : List Nat) (hedge : Nat → Nat) (t : Nat) : Option Nat :=
  match spares.find? fun n => hedge n == t with
  | some n => some n
  | none => spares.head?

def State.spareSlots (s : State) : List Nat := allSlots.filter s.slotSpare
def State.spareEngs (s : State) : List Nat := axisEngines.filter s.engSpare

/-- GLB_SPARE and GLB_HEDGE_STAT.FOREIGN follow the placements (R12, R293). -/
def followPlaces (s : State) : State :=
  let s := (s.setFld GLB_SPARE GLB_SPARE_SLOT_FREE s.spareSlots.length).setFld GLB_SPARE GLB_SPARE_ENG_FREE s.spareEngs.length
  let s := s.setFld GLB_SPARE GLB_SPARE_SLOT_RET (min 15 s.dev.slotRet.length)
  let s := s.setFld GLB_SPARE GLB_SPARE_ENG_RET (min 15 s.dev.engRet.length)
  allTiles.foldl (fun (s : State) h =>
    s.setBit GLB_HEDGE_STAT (GLB_HEDGE_STAT_FOREIGN h.1)
      (allAxes.any fun a => tileOf a != h && (slotHedge (s.slotOf a) == h.1 || engHedge (s.engOf a).1 == h.1))) s

/-- An axis engine is in no use: SPARE, or RETIRED. -/
def vacateEngine (n : Nat) (state : Nat) (s : State) : State :=
  let e := finEng n
  let s := ((s.setReg (ENG_STAT e) 0).setFld (ENG_STAT e) ENG_STAT_STATE state).setFld (ENG_STAT e) ENG_STAT_AXIS 255
  ((s.setReg (ENG_PC e) 0).setReg (ENG_EVLATCH e) 0).setEng e Engine.init

/-- A slot is retired until power-on or RESET_N (R293, R319). -/
def retireSlot (n : Nat) (s : State) : State := s.modDev fun x => { x with slotRet := n :: x.slotRet.filter (· != n) }

/-- An axis engine is retired. -/
def retireEngine (n : Nat) (s : State) : State :=
  (vacateEngine n 6 s).modDev fun x => { x with engRet := n :: x.engRet.filter (· != n) }

/-! ## Secure boot (R278–R281) -/

/-- A little-endian number in the header of an image. -/
def imageLE (f : BootImage) (i n : Nat) : Nat := leNat ((f.head.drop i).take n)

/-- The magic of an image (R278). -/
def imageMagic (f : BootImage) : Bool := imageLE f 0 4 == 0x5746594B

/-- Header version 1, reserved bytes 0 and a body of 1 to 48 MiB (R278). -/
def imageHeaderOk (f : BootImage) : Bool :=
  imageLE f 4 1 == 1 && imageLE f 5 1 == 0 && 1 ≤ imageLE f 12 4 && imageLE f 12 4 ≤ 50331648 &&
  ((f.head.drop 112).take 16).all (· == 0)

/-- Security version and firmware version of an image (R278). -/
def imageSvn (f : BootImage) : Nat := imageLE f 6 2
def imageVersion (f : BootImage) : Word := BitVec.ofNat 32 (imageLE f 8 4)

/-- The body has the length and the SHA-256 that the header gives (R278). -/
def imageHashOk (f : BootImage) : Bool :=
  f.body.length == imageLE f 12 4 && sha256 f.body == beNat ((f.head.drop 16).take 32)

/-- The signature of the header is good under a public key: ECDSA over the SHA-256 of bytes 0–47, with r and s big-endian (R278). -/
def imageSigOk (key : Nat × Nat) (f : BootImage) : Bool :=
  ecdsaOk key (sha256 (f.head.take 48)) (beNat ((f.head.drop 48).take 32)) (beNat ((f.head.drop 80).take 32))

/-- A check cannot be made: a page that it reads has failed its ECC in 3 attempts (R279). -/
def pageLost (reads : PageReads) (check : Nat) : Bool := reads.any fun r => r.1 == check && decide (3 ≤ r.2)

/-- The result of the checks of an image, in their order (R279). -/
def checkImage (key : Nat × Nat) (minSvn : Nat) (f : BootImage) (reads : PageReads) : Nat :=
  if pageLost reads 1 then 7 else if !imageMagic f then 2
  else if pageLost reads 2 then 7 else if !imageHeaderOk f then 3
  else if pageLost reads 3 then 7 else if imageSvn f < minSvn then 4
  else if pageLost reads 4 then 7 else if !imageHashOk f then 5
  else if pageLost reads 5 then 7 else if !imageSigOk key f then 6
  else 1

/-- The checks with the key and the minimum security version of the bottom drawer. -/
def State.checks (s : State) (f : BootImage) (reads : PageReads) : Nat := checkImage s.dev.key s.dev.minSvn f reads

/-- The part of an image that a length in bytes takes in, header included. -/
def imageUpTo (f : BootImage) (n : Nat) : BootImage := ⟨f.head.take n, f.body.take (n - 128)⟩

/-- The image in a slot: what the device wrote there, or the one found in it. -/
def State.slotImage (s : State) (b : Bool) (found : BootImage) : BootImage :=
  (if b then s.dev.slotB else s.dev.slotA).getD found

/-- A supervisor or filter starts its default program with the device, unless it is retired (R221, R282, R320). -/
def startDefault (s : State) (e : Fin 46) : State :=
  if s.dev.supRet.contains e.1 then s.setFld (ENG_STAT e) ENG_STAT_STATE 6
  else
  let im := libraryImage (engKind e) (if engKind e = 1 then 0x0200 else 0x0300)
  let s := s.modEng e fun x => { x with img := x.img.set 0 im, data := x.data.set 0 (initData im) }
  startProgram e 0 s

/-- INVENTORY is entered: the default programs start, and so does the calibration of both converters of each tile (R282). -/
def enterInventory (s : State) : State :=
  let s := setDevState dINVENTORY 0 s
  let s := ((List.range 6).map fun i => finEng (40 + i)).foldl startDefault s
  allTiles.foldl (fun s t =>
    let go (x : Fin 2) (s : State) : State :=
      if s.convState t x = 3 then s
      else beginSlot t x 0 (s.modConv t x fun y => { y with fgEnd := some (s.now + rotationNs), found := 0 })
    go 1 (go 0 s)) s

/-- An image is booted: slot, version, and FALLBACK where it is not the preferred one (R280). -/
def bootSlot (b : Bool) (f : BootImage) (s : State) : State :=
  let back := b != s.dev.pref
  let s := (s.setBit GLB_BOOT GLB_BOOT_IMG b).setBit GLB_BOOT GLB_BOOT_FALLBACK back
  let s := s.setReg GLB_FW (imageVersion f)
  let s := if back then record .bootFallback 1 4 0 [if b then 1 else 0] s else s
  enterInventory (summary .boot s)

/-- The result of a slot is shown (R279). -/
def showBoot (b : Bool) (r : Nat) (s : State) : State :=
  s.setFld GLB_BOOT (if b then GLB_BOOT_CAUSE_B else GLB_BOOT_CAUSE_A) r

/-- HALT with a cause (R272). -/
def enterHalt (cause : Nat) (s : State) : State := setDevState dHALT cause (summary .boot s)

/-- The boot ROM has finished: REFCLK, the bottom drawer, which VHOLD supplies (R332), then the preferred image and if that fails the other (R274, R279,
R280). The operands give what it finds in the slots, and the page reads of each that failed. -/
def imageChecked (refclk drawer : Bool) (a b : BootImage × PageReads) (s : State) : State :=
  if s.devState ≠ dBOOT then s
  else if !refclk then enterHalt 3 s
  else if !drawer || !s.dev.vhold then enterHalt 2 s
  else
    let p := s.dev.pref
    let facts (y : Bool) : BootImage := s.slotImage y (if y then b.1 else a.1)
    let result (y : Bool) : Nat := s.checks (facts y) (if y then b.2 else a.2)
    let s := showBoot p (result p) s
    if result p = 1 then bootSlot p (facts p) s
    else
      let s := showBoot (!p) (result (!p)) s
      if result (!p) = 1 then bootSlot (!p) (facts (!p)) s else enterHalt 1 s

/-- IMAGE_CHECKED (R279). -/
def execImageChecked (t : Nat) (refclk drawer : Bool) (a b : BootImage) (readsA readsB : PageReads) (s : State) :
    Host.Outcome State Fault Refusal :=
  .next (imageChecked refclk drawer (a, readsA) (b, readsB) (s.reach t))

/-- An image of `len` bytes begins to be read from host memory of cabinet 0 (R246, R281, R306). -/
def beginImageRead (addr len : Nat) (s : State) : State :=
  (s.emit (.imageRead 0 addr len)).modDev fun x => { x with readTries := 1 }

/-- A read of an image has failed: it is tried again, and after the third failure given up (R246). -/
def imageReadFailed (addr len : Nat) (giveUp : State → State) (s : State) : State :=
  if s.dev.readTries < 3 then
    ((s.count HIF_GCNT HIF_GCNT_RD_RETRY).emit (.imageRead 0 addr len)).modDev fun x => { x with readTries := x.readTries + 1 }
  else giveUp s

/-- The address and the length of the recovery image. -/
def State.recoverAddr (s : State) : Nat := s.pair GLB_RECOV_ADDR_LO
def State.recoverLen (s : State) : Nat := s.fld GLB_RECOV_CTRL GLB_RECOV_CTRL_LEN

/-- GO of the recovery in HALT with cause 1, unless it is busy: the read of the image begins (R281). -/
def recoverGo (s : State) : State :=
  if s.devState = dHALT ∧ s.fld GLB_STATE GLB_STATE_CAUSE = 1 ∧ s.fld GLB_RECOV_CTRL GLB_RECOV_CTRL_STATUS ≠ 1 then
    beginImageRead s.recoverAddr s.recoverLen (s.setFld GLB_RECOV_CTRL GLB_RECOV_CTRL_STATUS 1)
  else s

/-- The recovery is busy. -/
def State.recovering (s : State) : Bool := s.devState == dHALT && s.fld GLB_RECOV_CTRL GLB_RECOV_CTRL_STATUS == 1

/-- A read of the recovery image has failed; after the third failure STATUS shows it (R246, R281). -/
def recoverReadFailed (s : State) : State :=
  if s.recovering then
    imageReadFailed s.recoverAddr s.recoverLen
      (fun s => recordVar .recovery 1 4 0 [2, 0] (s.setFld GLB_RECOV_CTRL GLB_RECOV_CTRL_STATUS 2)) s
  else s

/-- The retirements of `s` as they hold across a restart without RESET_N: of slots, engines, supervisors, filters, network ports,
converters, comparators and identity buses (R281, R320). -/
def keepRetired (s z : State) : State :=
  let z := z.modDev fun x => { x with slotRet := s.dev.slotRet, engRet := s.dev.engRet, supRet := s.dev.supRet }
  let z := z.modNet fun x => { x with retired := s.net.retired }
  let z := s.dev.engRet.foldl (fun (z : State) n => z.setFld (ENG_STAT (finEng n)) ENG_STAT_STATE 6) z
  let z := s.dev.supRet.foldl (fun (z : State) n => z.setFld (ENG_STAT (finEng n)) ENG_STAT_STATE 6) z
  let z := allTiles.foldl (fun (z : State) t =>
    let conv (x : Fin 2) (z : State) : State := if s.convState t x = 3 then z.setConvState t x 3 else z
    let z := conv 1 (conv 0 z)
    let z := z.modWin t fun w => { w with retired := (s.tile t).win.retired }
    let z := z.setFld (CMP_WCHK t) CMP_WCHK_RETIRED (s.fld (CMP_WCHK t) CMP_WCHK_RETIRED)
    z.setBit (ID_TCFG t) ID_TCFG_BUSRET (s.bit (ID_TCFG t) ID_TCFG_BUSRET)) z
  let z := allPorts.foldl (fun (z : State) p =>
    z.setFld (CMP_CHKRES (pT p) (pI p)) CMP_CHKRES_RETIRED (s.fld (CMP_CHKRES (pT p) (pI p)) CMP_CHKRES_RETIRED)) z
  followPlaces z

/-- The recovery image has been read and checked: one that passes goes to slot A, PREF becomes A, and the device restarts at
BOOT (R281). -/
def recoverDone (f : BootImage) (s : State) : State :=
  if !s.recovering then s
  else
    let f := imageUpTo f s.recoverLen
    let r := s.checks f []
    if r ≠ 1 then
      recordVar .recovery 1 4 0 [3, r] (showBoot false r (s.setFld GLB_RECOV_CTRL GLB_RECOV_CTRL_STATUS 3))
    else
      let z := startUp 3 [] (cutFlush (s.modDev fun x => { x with slotA := some f, pref := false }))
      let z := keepRetired s z
      let z := ((z.setReg GLB_LOCK (s.reg GLB_LOCK)).setReg GLB_RET_CNT (s.reg GLB_RET_CNT)).setReg GLB_RET_CNT2 (s.reg GLB_RET_CNT2)
      let z := allCabs.foldl (fun (z : State) c => z.setBit (CFG_LOCK c) CFG_LOCK_LOCK (s.bit (CFG_LOCK c) CFG_LOCK_LOCK)) z
      recordVar .recovery 0 4 0 [0, 1] z

/-- RECOVERY_IMAGE_CHECKED (R281). -/
def execRecoveryImageChecked (t : Nat) (f : BootImage) (s : State) : Host.Outcome State Fault Refusal :=
  .next (recoverDone f (s.reach t))

/-! ## Identity memories (R283–R286) -/

/-- A number of little-endian bytes within a record. -/
def recLE (l : List Byte) (i n : Nat) : Nat := leNat ((l.drop i).take n)

/-- The length of a record of a version and kind: 32 in version 1, 48 for a board in version 2, at least that of version 2 in
a higher one (R284, R285). -/
def recLenOk (kind ver len : Nat) : Bool :=
  let v2 := if kind = 1 then 48 else 32
  if ver = 1 then len == 32 else if ver = 2 then len == v2 else decide (3 ≤ ver) && decide (v2 ≤ len)

/-- A record read whole with magic, kind, length and CRC right (R284, R286). -/
def recGood (kind : Nat) (l : List Byte) : Bool :=
  let len := recLE l 6 2
  decide (32 ≤ l.length) && recLE l 0 4 == 0x4449594B && recLE l 5 1 == kind && recLenOk kind (recLE l 4 1) len &&
  decide (len ≤ l.length) && crc16 (l.take (len - 2)) == recLE l (len - 2) 2

/-- The fields of a record lie in their ranges (R286). -/
def recInRange (kind : Nat) (l : List Byte) : Bool :=
  if kind = 1 then recLE l 12 4 != 0 && recLE l 10 2 != 0
  else recLE l 16 2 != 0 && decide (recLE l 12 4 ≤ 1048575)

/-- The outcome of a memory read from its attempts, at most 3, with the record of a valid one (R286): 1 VALID, 2 ABSENT,
3 INVALID, 4 FAILED; `none` while attempts are still to be made. -/
def idOutcome (kind : Nat) (tries : List IdTry) : Option (Nat × List Byte) :=
  let l := tries.take 3
  match l.findSome? (fun r => match r with | .bytes b => if recGood kind b then some b else none | _ => none) with
  | some b => some (if recInRange kind b then (1, b) else (3, []))
  | none => if l.length < 3 then none else some (if l.all (· == .noAck) then (2, []) else (4, []))

/-- The words a record shows: of a board 48 bytes, of a motor 32. The CRC of a version 1 board stands where its thermal fields
are and reads 0 (R285). -/
def recWords (kind : Nat) (l : List Byte) : List Nat :=
  let n := if kind = 1 then 48 else 32
  let len := min n (recLE l 6 2)
  let b := if kind = 1 ∧ recLE l 4 1 = 1 then l.take 30 else l.take len
  let b := b ++ List.replicate (n - b.length) 0
  (List.range (n / 4)).map fun w => recLE b (4 * w) 4

/-- The outcome field of a memory 0x50 + m: board m, or motor m − 8. -/
def idFld (m : Nat) : Fld := if m < 8 then ID_STAT_BOARD else ID_STAT_MOTOR

/-- The outcome of a memory. -/
def State.idCode (s : State) (t : Fin 4) (m : Nat) : Nat := s.fld (ID_STAT t (m % 8)) (idFld m)

/-- A memory is FAILED: its two ports are retired, with a warning record (R286, R319). -/
def idFailed (t : Fin 4) (m : Nat) (s : State) : State :=
  let other := s.idCode t ((m + 8) % 16) = 4
  let s := s.setFld (ID_STAT t (m % 8)) (idFld m) 4
  let s := if other then s else s.countN GLB_RET_CNT GLB_RET_CNT_PORTS 2
  record .identity 1 2 t [0x50 + m, 4] s

/-- The identity bus of a tile is retired: the memories on it not yet read are FAILED (R286). -/
def retireBus (t : Fin 4) (s : State) : State :=
  let s := (s.setBit (ID_TCFG t) ID_TCFG_BUSRET true).count GLB_RET_CNT2 GLB_RET_CNT2_ID_BUSES
  let s := record .identityBusRetired 1 2 t [] s
  (List.range 16).foldl (fun s i => if s.idCode t i = 0 then idFailed t i s else s) s

/-- The attempts before the one that decides a read, each of which frees the bus before the next: 9 SCL pulses and a STOP (R286). -/
def repeatsOf (good : IdTry → Bool) (tries : List IdTry) : Nat :=
  let l := tries.take 3
  min ((l.takeWhile fun r => !good r).length) (l.length - 1)

/-- An identity bus is freed a number of times. -/
def freeBus (t : Fin 4) (n : Nat) (s : State) : State := (List.range n).foldl (fun (s : State) _ => s.emit (.freeBus t.1)) s

/-- An attempt that gives a whole record of a kind. -/
def goodTry (kind : Nat) : IdTry → Bool
  | .bytes b => recGood kind b
  | _ => false

/-- A read that passes after failed attempts is a transient, with an info record and a count (R319). -/
def idTransient (t : Fin 4) (m n code : Nat) (s : State) : State :=
  if n ≠ 0 ∧ (code = 1 ∨ code = 3) then record .identity 0 2 t [0x50 + m, code, n] s.transient else s

/-- A memory read is complete once an attempt decides it or 3 have failed; with SDA still low after the bus was freed in all
3 attempts the bus is retired (R286). -/
def identityDone (t : Fin 4) (m : Nat) (tries : List IdTry) (sdaLow : Bool) (s : State) : State :=
  let kind := if m < 8 then 1 else 2
  let n := repeatsOf (goodTry kind) tries
  if s.devState ≠ dINVENTORY ∨ s.idCode t m ≠ 0 then s
  else
  let s := freeBus t n s
  match idOutcome kind tries with
  | none => s
  | some (code, l) =>
    if sdaLow ∧ code ≠ 1 ∧ code ≠ 3 then retireBus t s
    else if code = 4 then idFailed t m s
    else
      let s := idTransient t m n code (s.setFld (ID_STAT t (m % 8)) (idFld m) code)
      let s := if code = 3 then record .identity 1 2 t [0x50 + m, 3] s else s
      if code ≠ 1 then s
      else
        let s := if kind = 1 then s.setFld (ID_STAT t m) ID_STAT_BRD_VER (recLE l 4 1) else s
        let reg (w : Nat) : Nat := if kind = 1 then ID_BRD_W t m w else ID_MOT_W t (m - 8) w
        ((recWords kind l).zip (List.range 12)).foldl (fun (s : State) x => s.setReg (reg x.2) (BitVec.ofNat 32 x.1)) s

/-- IDENTITY_READ_DONE (R286). -/
def execIdentityReadDone (at_ : Nat) (t : Fin 4) (m : Fin 16) (tries : List IdTry) (sdaLow : Bool) (s : State) :
    Host.Outcome State Fault Refusal :=
  .next (identityDone t m tries sdaLow (s.reach at_))

/-- GO of ID_ACC: a 4-byte read begins (R286). -/
def idAccGo (t : Fin 4) (s : State) : State := s.setFld (ID_ACC t) ID_ACC_STATUS 1

/-- The read of ID_ACC completes: at most 3 attempts, ID_DATA on success; nothing while attempts are still to be made (R286). -/
def idAccDone (t : Fin 4) (tries : List IdTry) (s : State) : State :=
  if s.fld (ID_ACC t) ID_ACC_STATUS ≠ 1 then s
  else
    let good (r : IdTry) : Bool := match r with | .bytes b => decide (4 ≤ b.length) | _ => false
    let s := freeBus t (repeatsOf good tries) s
    let got := (tries.take 3).findSome? fun r => match r with | .bytes b => if 4 ≤ b.length then some b else none | _ => none
    match got with
    | some b =>
      let s := s.setBit (ID_ACC t) ID_ACC_GO false
      (s.setReg (ID_DATA t) (BitVec.ofNat 32 (leNat (b.take 4)))).setFld (ID_ACC t) ID_ACC_STATUS 2
    | none =>
      if tries.length < 3 then s else (s.setBit (ID_ACC t) ID_ACC_GO false).setFld (ID_ACC t) ID_ACC_STATUS 3

/-- ID_ACC_DONE (R286). -/
def execIdAccDone (at_ : Nat) (t : Fin 4) (tries : List IdTry) (s : State) : Host.Outcome State Fault Refusal :=
  .next (idAccDone t tries (s.reach at_))

/-! ## Loads of the records (R105, R133, R287, R288) -/

/-- CR_IFS of a port follows its board and its sense range (R105, R287). -/
def loadIfs (p : Fin 64) (s : State) : State :=
  let t := pT p
  let j := boardOf p
  let ifs := CR_IFS t (pI p)
  if s.fld (ID_STAT t j) ID_STAT_BOARD = 1 then
    let v := ifsOf (s.reg (ID_BRD_W t j 3)).toNat (s.fld (CR_PORT_CFG t (pI p)) CR_PORT_CFG_SRANGE)
    (s.setFld ifs CR_IFS_IFS_MA v).setBit ifs CR_IFS_VALID true
  else s.setBit ifs CR_IFS_VALID false

/-- An axis takes the values of a motor record, or those of an axis without one (R133, R287). -/
def loadMotor (a : Fin 32) (j : Option Nat) (s : State) : State :=
  let w (i : Nat) : Nat := match j with | some j => (s.reg (ID_MOT_W (tileOf a) j i)).toNat | none => 0
  let src := j.isSome
  let cls := w 4 / 65536 % 4
  let spr := if src then w 4 % 65536 else 200
  let s := (s.setFld (CR_RCOIL a) CR_RCOIL_R (w 2 / 65536)).setBit (CR_RCOIL a) CR_RCOIL_SRC src
  let s := (s.setFld (OB_MOTOR a) OB_MOTOR_L (w 3)).setBit (OB_MOTOR a) OB_MOTOR_SRC src
  let s := s.setFld (OB_MOTOR a) OB_MOTOR_SALCLASS cls
  let s := s.setFld (OB_SPR a) OB_SPR_SPR spr
  let s := s.setBit (OB_CFG a) OB_CFG_INJ_EN (2 ≤ cls)
  s.modAxis a fun x => { x with rated := j.map fun _ => w 2 % 65536, spr := spr }

/-- The VALID motor record whose two ports an axis has. -/
def State.motorOf (s : State) (a : Fin 32) : Option Nat :=
  let pa := pI (s.portOf a false)
  let pb := pI (s.portOf a true)
  if pa / 2 = pb / 2 ∧ pa ≠ pb ∧ s.fld (ID_STAT (tileOf a) (pa / 2)) ID_STAT_MOTOR = 1 then some (pa / 2) else none

/-- The loads at the end of INVENTORY (R287). -/
def loadRecords (s : State) : State :=
  let s := allPorts.foldl (fun s p => loadIfs p s) s
  allAxes.foldl (fun s a => if (s.motorOf a).isSome then loadMotor a (s.motorOf a) s else s) s

/-- A tile has finished R286 and its calibration (R272). -/
def State.tileReady (s : State) (t : Fin 4) : Bool :=
  (List.range 16).all (fun m => s.idCode t m != 0) && s.convState t 0 != 4 && s.convState t 1 != 4

/-- The diagnostics of DIAG: every port with a VALID board record, and the window monitors (R289). -/
def enterDiag (s : State) : State :=
  let s := setDevState dDIAG 0 s
  allTiles.foldl (fun (s : State) (t : Fin 4) =>
    let ports := (List.range 16).filter fun i => s.fld (ID_STAT t (i / 2)) ID_STAT_BOARD == 1
    let s := (List.range 8).foldl (fun s j => startWindowCheck t j s) s
    startDiag t none 0 false ports s) s

/-- All tiles have finished: the records are loaded and DIAG begins (R272, R282, R287). -/
def inventoryDone (libBad : Bool) (s : State) : State :=
  if s.devState = dINVENTORY ∧ allTiles.all s.tileReady then
    enterDiag (summary .inventory (loadRecords (s.setBit GLB_STATE GLB_STATE_LIB_BAD libBad)))
  else s

/-- INVENTORY_DONE (R272). -/
def execInventoryDone (t : Nat) (libBad : Bool) (s : State) : Host.Outcome State Fault Refusal :=
  .next (inventoryDone libBad (s.reach t))

/-- Every diagnostics run of DIAG has ended (R272). -/
def diagStateEnd (s : State) : State :=
  if s.devState = dDIAG ∧ allTiles.all (fun t => (s.tile t).diag.isNone) then setDevState dCONFIGURABLE 0 (summary .diagnostics s)
  else s

/-- DIAG_STATE_END (R272). -/
def execDiagStateEnd (t : Nat) (s : State) : Host.Outcome State Fault Refusal := .next (diagStateEnd (s.reach t))

/-! ## CFG_COMMIT (R268, R291) -/

/-- A segment is armed: its comparison begins, or, while it awaits a new reference, that is taken by the next complete scan
(R268). -/
def armSegment (c : Fin 4) (s : State) (seg : Nat) : State :=
  let d := s.dev
  if (d.awaitRef[c]).toArray.getD seg false then
    s.modDev fun x => { x with newRef := x.newRef.set c ((x.newRef[c]).setIfInBounds seg true) }
  else
    let st := CFG_STAT c
    s.setFld st CFG_STAT_ARMED (s.fld st CFG_STAT_ARMED ||| 2 ^ seg)

/-- CFG_COMMIT as it lands (R291). -/
def landCfgCommit (d : Desc) (s : State) : State :=
  let p := d.payload
  let c := d.cab
  let mask := payByte p 1
  let glob := payBit p 0 1
  if 3 < payByte p 0 ∨ 31 < mask ∨ !payZero p 2 48 ∨ (glob ∧ c ≠ 0) then complete d stREFUSED_VALUE 0 s.now s
  else
    let segs := (List.range 5).filter fun i => mask == 0 || mask.testBit i
    let s := segs.foldl (armSegment c) s
    let s := if payBit p 0 0 then s.setBit (CFG_LOCK c) CFG_LOCK_LOCK true else s
    let s := if glob then s.setBit GLB_LOCK GLB_LOCK_GLOBAL_LOCK true else s
    let s := s.setBit (CFG_CAB_STAT c) CFG_CAB_STAT_COMMITTED true
    let s := complete d stDONE 0 s.now s
    if s.devState = dCONFIGURABLE then setDevState dCOMMITTED 0 s else s

/-- CFG_COMMIT (R291). -/
def execCfgCommit (d : Desc) (s : State) : Host.Outcome State Fault Refusal := .next (submit d (landCfgCommit d) s)

end Sys2Proof.Machine
end

