-- ==== Sys2Proof/Machine/Migration.lean ====
section
/-! DEFINITION. Live migration, repair and update (spec/16): MIGRATE, the boundaries of a migration, repairs, supervisors and
filters that fail, and firmware updates. The axis is one state for both placements, so a fence changes only where it is
computed; that the two placements disagree comes from outside. -/

namespace Sys2Proof.Machine

/-! ## Starting (R294, R295) -/

def State.migOf (s : State) (a : Fin 32) : Option Migration := (s.axis a).mig

def State.modMig (s : State) (a : Fin 32) (f : Migration → Migration) : State :=
  s.modAxis a fun x => { x with mig := x.mig.map f }

/-- MP_PLACE.MSTATE: 0 IDLE, 1 PRECOPY, 2 CATCHUP, 3 SHADOW, 4 REPAIR. -/
def State.setMstate (s : State) (a : Fin 32) (m : Nat) : State := s.setFld (MP_PLACE a) MP_PLACE_MSTATE m

/-- A migration begins towards the given parts; a destination engine reads MIGRATING. -/
def startMig (a : Fin 32) (m : Migration) (slot eng : Option Nat) (mstate : Nat) (s : State) : State :=
  let g := MP_MIG_TGT a
  let s := (s.setFld g MP_MIG_TGT_DSLOT (slot.getD 63)).setFld g MP_MIG_TGT_DENG (eng.getD 63)
  let s := (s.setFld g MP_MIG_TGT_ATTEMPT 1).setMstate a mstate
  let s := match eng with
    | some n => s.setFld (ENG_STAT (finEng n)) ENG_STAT_STATE 7
    | none => s
  followPlaces (s.modAxis a fun x => { x with mig := some m })

/-- MIGRATE as it lands (R294, R312). A PROG_SWAP of the axis that lands at the same boundary has been consumed and has not yet
landed when MIGRATE is judged (DEDUCED, log). -/
def landMigrate (d : Desc) (s : State) : State :=
  let p := d.payload
  let a := finAx d.target
  let l := s.landOf d
  let wantS := payBit p 0 0
  let wantE := payBit p 0 1
  let any := payBit p 1 1
  let ds := payByte p 2
  let de := payByte p 3
  let t := (tileOf a).1
  let slot := if !wantS then none else if any then pickSpare s.spareSlots slotHedge t else some ds
  let eng := if !wantE then none else if any then pickSpare s.spareEngs engHedge t else some de
  let named := !any && ((wantS && !s.slotSpare ds) || (wantE && !s.engSpare de))
  if payByte p 0 = 0 ∨ 3 < payByte p 0 ∨ 3 < payByte p 1 ∨ !payZero p 4 48 ∨ named then complete d stREFUSED_VALUE 0 l s
  else if (s.migOf a).isSome ∨ s.homing a ∨ (s.axis a).swapAt = some l ∨ 3 ≤ s.rxOf a ∨ (wantS ∧ slot = none) ∨ (wantE ∧ eng = none) then
    complete d stREFUSED_STATE 0 l s
  else
    let m : Migration := ⟨d.cab, d.tag, payBit p 1 0, wantS, wantE, false, none, false, 0, s.axState a = axDISABLED, none, false, false⟩
    complete d stSTARTED 0 l (startMig a m slot eng 1 s)

/-- MIGRATE (R294). -/
def execMigrate (d : Desc) (s : State) : Host.Outcome State Fault Refusal := .next (submit d (landMigrate d) s)

/-- Pre-copy ends: boundary k is the next one (R295). -/
def precopyEnd (a : Fin 32) (s : State) : State :=
  if s.fld (MP_PLACE a) MP_PLACE_MSTATE = 1 then s.modMig a fun m => { m with copied := true } else s

/-- PRECOPY_END (R295). -/
def execPrecopyEnd (t : Nat) (a : Fin 32) (s : State) : Host.Outcome State Fault Refusal := .next (precopyEnd a (s.reach t))

/-! ## Ending (R294, R296, R298, R299) -/

/-- Slot and engine as MIGRATE_DONE carries them. -/
def placeWord (slot eng : Nat) : Int := (slot + 256 * eng : Nat)

/-- MIGRATE_DONE for every outcome but DONE, and for DONE with EVENT; the device's own repairs raise none (R294, R303). -/
def migDone (a : Fin 32) (m : Migration) (st : Nat) (old new : Int) (attempts fence : Nat) (s : State) : State :=
  if m.repair ∨ m.mute ∨ (st = stDONE ∧ !m.event) then s
  else
    raiseEvent m.cab ⟨0x0802, plainSev 0x0802, 0, a, m.tag, s.now, [st, old, new, attempts, fence]⟩ s

/-- The placements of an axis: the one in use and the one a migration leads to. -/
def State.places (s : State) (a : Fin 32) (m : Migration) : (Nat × Nat) × (Nat × Nat) :=
  let o := (s.slotOf a, (s.engOf a).1)
  (o, (if m.slot then s.fld (MP_MIG_TGT a) MP_MIG_TGT_DSLOT else o.1, if m.eng then s.fld (MP_MIG_TGT a) MP_MIG_TGT_DENG else o.2))

/-- MP_MIG_TGT and MSTATE of no migration. -/
def clearMig (a : Fin 32) (s : State) : State :=
  ((s.setReg (MP_MIG_TGT a) (regReset (MP_MIG_TGT a))).setMstate a 0).modAxis a fun x => { x with mig := none }

/-- The parts that an axis uses. -/
def State.partsOf (s : State) (a : Fin 32) : List HwPart := [.slot (Fin.ofNat 36 (s.slotOf a)), .engine (Fin.ofNat 40 (s.engOf a).1)]

/-- Whether a migration moves a part of this sort. -/
def Migration.moves (m : Migration) : HwPart → Bool
  | .slot _ => m.slot
  | .engine _ => m.eng

/-- The parts a migration moves have a fault raised against them where they are (R298). -/
def State.oldFaulty (s : State) (a : Fin 32) (m : Migration) : Bool := (s.axis a).faulty.any m.moves

/-- A part of an axis has a fault raised against it. -/
def addFaulty (a : Fin 32) (x : HwPart) (s : State) : State :=
  s.modAxis a fun y => { y with faulty := x :: y.faulty.filter (· != x) }

/-- The spares of a part's sort, and its hedge. -/
def State.sparesFor (s : State) : HwPart → List Nat
  | .slot _ => s.spareSlots
  | .engine _ => s.spareEngs
def partHedge : HwPart → Nat
  | .slot n => slotHedge n.1
  | .engine n => engHedge n.1
def hedgeFn : HwPart → Nat → Nat
  | .slot _ => slotHedge
  | .engine _ => engHedge

/-- A migration of the device's own of one part. -/
def repairOf (x : HwPart) (idle : Bool) (fenceIn : Option Nat) (fill : Bool) : Migration :=
  ⟨0, 0, false, match x with | .slot _ => true | _ => false, match x with | .engine _ => true | _ => false, true, none, false, 0,
    idle, fenceIn, fill, false⟩

/-- A repair begins towards a spare. -/
def startRepair (a : Fin 32) (x : HwPart) (m : Migration) (n mstate : Nat) (s : State) : State :=
  match x with
  | .slot _ => startMig a m (some n) none mstate s
  | .engine _ => startMig a m none (some n) mstate s

/-- The preventive path for a faulty part of an axis that does not migrate: the procedure of R295 to R299 to a spare, with the old
part in service (R302). -/
def preventive (a : Fin 32) (s : State) : State :=
  let due := (s.axis a).faulty.filterMap fun x => (pickSpare (s.sparesFor x) (hedgeFn x) (tileOf a).1).map fun n => (x, n)
  match due with
  | (x, n) :: _ =>
    if !s.bit GLB_MIG_CFG GLB_MIG_CFG_REPAIR ∨ (s.migOf a).isSome then s
    else startRepair a x (repairOf x (s.axState a = axDISABLED) none false) n 1 s
  | [] => s

/-- The destination is freed, or retired where it is faulty, and the migration ends without a fence (R298, R301). -/
def endMig (a : Fin 32) (m : Migration) (st : Nat) (retire : Bool) (s : State) : State :=
  let (o, n) := s.places a m
  let tries := s.fld (MP_MIG_TGT a) MP_MIG_TGT_ATTEMPT
  let s := clearMig a s
  let s := if m.eng then (if retire then retireEngine n.2 s else vacateEngine n.2 5 s) else s
  let s := if m.slot ∧ retire then retireSlot n.1 s else s
  let s := s.count GLB_MIG_CNT GLB_MIG_CNT_ABORTS
  let s := if retire then record .migration 1 0 a [n.1, n.2] s else s
  migDone a m st (placeWord o.1 o.2) (placeWord n.1 n.2) tries 0 (followPlaces s)

/-- A migration ends without a fence, and a repair that waited for it begins. -/
def dropMig (a : Fin 32) (m : Migration) (st : Nat) (retire : Bool) (s : State) : State := preventive a (endMig a m st retire s)

/-- What an engine is moves to another: images, data, registers, program counter, latch and trigger, with the commands that
have no completion yet (R292). -/
def moveEngine (a : Fin 32) (o n : Fin 46) (s : State) : State :=
  let s := s.setEng n (s.eng o)
  let s := ((s.setReg (ENG_STAT n) (s.reg (ENG_STAT o))).setReg (ENG_PC n) (s.reg (ENG_PC o))).setReg (ENG_EVLATCH n)
    (s.reg (ENG_EVLATCH o))
  let s := s.setFld (MP_PLACE a) MP_PLACE_ENGINE n.1
  s.modAxis a fun x => { x with intake := x.intake.map fun i =>
    (i.1, { i.2 with engine := i.2.engine.map fun c => if c.1 = o then (n, c.2) else c }) }

/-- The fence: the new placement takes over, the epoch increments, the old part becomes spare or, after a repair or with a fault
against it, is retired; a repair that waited begins (R292, R293, R296, R299, R302). -/
def fence (a : Fin 32) (m : Migration) (retire : Bool) (s : State) : State :=
  let (o, n) := s.places a m
  let bad (x : HwPart) : Bool := retire || (s.axis a).faulty.contains x
  let badS := bad (.slot (Fin.ofNat 36 o.1))
  let badE := bad (.engine (Fin.ofNat 40 o.2))
  let tries := s.fld (MP_MIG_TGT a) MP_MIG_TGT_ATTEMPT
  let s := clearMig a s
  let s := if m.slot then s.setFld (MP_PLACE a) MP_PLACE_SLOT n.1 else s
  let s := if m.slot ∧ badS then retireSlot o.1 s else s
  let s := if m.eng then moveEngine a (finEng o.2) (finEng n.2) s else s
  let s := if m.eng then (if badE then retireEngine o.2 s else vacateEngine o.2 5 s) else s
  let b := s.boundary (tileOf a)
  let s := s.modAxis a fun x => { x with fenceAt := some b, faulty := x.faulty.filter fun y => !m.moves y }
  let s := s.setFld (MP_PLACE a) MP_PLACE_EPOCH (s.fld (MP_PLACE a) MP_PLACE_EPOCH + 1)
  let s := s.count (MP_MIG_CNT a) MP_MIG_CNT_DONE
  let s := if m.repair then
      recordVar .repair 1 0 a [o.1, o.2, n.1, n.2] (s.count GLB_MIG_CNT GLB_MIG_CNT_REPAIRS) else s
  preventive a (migDone a m stDONE (placeWord o.1 o.2) (placeWord n.1 n.2) tries b (followPlaces s))

/-! ## The boundaries of a migration (R296–R301) -/

/-- No spare anywhere, or no usable copy: the axis is held where it is and the fault is reported (R304). -/
def noSource (a : Fin 32) (s : State) : State := raiseFault 27 ⟨2, a⟩ 0 a (enterHold a s)

/-- A compared period mismatched: the attempt is abandoned; after the third the destination is retired or, with a fault raised
against the old placement, the axis has no healthy source; otherwise the procedure starts again from pre-copy (R298, R304). -/
def mismatch (a : Fin 32) (m : Migration) (word : Nat) (s : State) : State :=
  let s := s.count (MP_MIG_CNT a) MP_MIG_CNT_MISMATCH
  let tries := s.fld (MP_MIG_TGT a) MP_MIG_TGT_ATTEMPT
  let s := record .mismatch 0 0 a [tries, word] s
  if 3 ≤ tries then
    (if s.oldFaulty a m then noSource a (endMig a m stFAILED false s) else dropMig a m stFAILED true s)
  else
    let s := (s.setFld (MP_MIG_TGT a) MP_MIG_TGT_ATTEMPT (tries + 1)).setMstate a 1
    s.modMig a fun m => { m with phase := none, copied := false, matched := 0 }

/-- One boundary of a migration in its regular procedure. `word` is the first differing word of the period that ends. -/
def migStep (a : Fin 32) (m : Migration) (word : Option Nat) (s : State) : State :=
  match m.phase with
  | none => if m.copied then (s.setMstate a 2).modMig a fun m => { m with phase := some 0 } else s
  | some 0 =>
    if m.idle then fence a m m.repair s
    else (s.setMstate a 3).modMig a fun m => { m with phase := some 1 }
  | some n =>
    match word with
    | some w => mismatch a m w s
    | none =>
      if n = 1 then s.modMig a fun m => { m with phase := some 2, matched := 1 }
      else fence a m m.repair s

/-- A slot that has stopped gives no results for the running period: both ports of its axis miss them (R18, R303). -/
def withhold (a : Fin 32) (m : Migration) (s : State) : State :=
  if m.slot ∧ s.axState a ≠ axDISABLED then missResults (s.portOf a true) (missResults (s.portOf a false) s) else s

/-- Step 1 of a boundary for an axis in migration: a fence of a repair or a take-over, the end of a migration whose axis has
entered DISABLED, or the next step (R296, R300, R301, R303). -/
def migBoundary (a : Fin 32) (word : Option Nat) (s : State) : State :=
  match s.migOf a with
  | none => s
  | some m =>
    let off := decide (s.axState a = axDISABLED)
    if m.fill then withhold a m s
    else match m.fenceIn with
      | some 0 => fence a m true s
      | some 1 => fence a m true s
      | some (n + 2) => withhold a m (s.modMig a fun m => { m with fenceIn := some (n + 1) })
      | none =>
        if off ∧ !m.idle then dropMig a m stABORTED false s
        else migStep a { m with idle := off } word (s.modMig a fun m => { m with idle := off })

/-! ## Repair (R302–R304) -/

/-- The axis that a part serves, and the axis it is a destination for. -/
def State.partAxis (s : State) : HwPart → Option (Fin 32)
  | .slot n => allAxes.find? fun a => s.slotOf a == n.1
  | .engine n => allAxes.find? fun a => (s.engOf a).1 == n.1

def State.partTarget (s : State) : HwPart → Option (Fin 32)
  | .slot n => allAxes.find? fun a => s.fld (MP_MIG_TGT a) MP_MIG_TGT_DSLOT == n.1
  | .engine n => allAxes.find? fun a => s.fld (MP_MIG_TGT a) MP_MIG_TGT_DENG == n.1

/-- A part in no use is retired. -/
def retirePart (x : HwPart) (s : State) : State :=
  let s := match x with
    | .slot n => retireSlot n.1 s
    | .engine n => retireEngine n.1 s
  record .partRetired 1 4 0 [match x with | .slot n => n.1 | .engine n => 256 + n.1] (followPlaces s)

/-- A stopped part of an axis is repaired from its snapshot (R303): a spare of the same hedge takes over at the next boundary, or at
the one after for a fault found in the last 2 µs; where there is none, or a copy is lost, the axis is held and a spare elsewhere is
filled (R304). A repair already under way for another stopped part of the axis takes this one with it. -/
def snapshotRepair (a : Fin 32) (x : HwPart) (snap bulk : Bool) (s : State) : State :=
  let spares := s.sparesFor x
  let near := spares.find? fun n => hedgeFn x n == partHedge x
  let far := (spares.find? fun n => hedgeFn x n != partHedge x).orElse fun _ => near
  let late := decide (s.boundary (tileOf a) + s.period (tileOf a) < s.now + 2000)
  let wait := if late then 2 else 1
  let begun (fenceIn : Option Nat) (fill : Bool) (n : Nat) (s : State) : State :=
    match s.migOf a with
    | some _ => joinRepair a x n fenceIn fill s
    | none => startRepair a x (repairOf x false fenceIn fill) n 4 s
  match (if snap ∧ bulk then near else none), far with
  | some n, _ => withhold a (repairOf x false none false) (begun (some wait) false n s)
  | none, some n =>
    if snap ∨ bulk then withhold a (repairOf x false none true) (begun none true n (enterHold a s)) else noSource a s
  | none, none => noSource a s
where
  /-- A second stopped part joins the repair of the first: one fence, the later of the two. -/
  joinRepair (a : Fin 32) (x : HwPart) (n : Nat) (fenceIn : Option Nat) (fill : Bool) (s : State) : State :=
    let both (m : Migration) : Migration :=
      { m with
        slot := m.slot || (repairOf x false none false).slot, eng := m.eng || (repairOf x false none false).eng,
        fill := m.fill || fill,
        fenceIn := if m.fill || fill then none else some (max (m.fenceIn.getD 1) (fenceIn.getD 1)) }
    let g := MP_MIG_TGT a
    let s := match x with
      | .slot _ => s.setFld g MP_MIG_TGT_DSLOT n
      | .engine _ => (s.setFld g MP_MIG_TGT_DENG n).setFld (ENG_STAT (finEng n)) ENG_STAT_STATE 7
    followPlaces (s.modMig a both)

/-- The device repairs a stopped part where REPAIR is set (R302, R303). -/
def repairStopped (a : Fin 32) (x : HwPart) (snap bulk : Bool) (s : State) : State :=
  if s.bit GLB_MIG_CFG GLB_MIG_CFG_REPAIR then snapshotRepair a x snap bulk s else withhold a (repairOf x false none false) s

/-- A stopping fault of the part that an axis uses (R301, R303): once a compared period has matched, the fence moves to the
next boundary; before that a migration ends and the fault is repaired. A part that has already stopped stays stopped. -/
def stopPart (a : Fin 32) (x : HwPart) (snap bulk : Bool) (s : State) : State :=
  match s.migOf a with
  | some m =>
    if m.fill ∨ m.fenceIn.isSome then (if m.moves x then s else repairStopped a x snap bulk s)
    else if 1 ≤ m.matched ∧ m.moves x then
      withhold a (repairOf x false none false) (s.modMig a fun m => { m with fenceIn := some 1 })
    else
      let three := m.repair && decide (3 ≤ s.fld (MP_MIG_TGT a) MP_MIG_TGT_ATTEMPT)
      let s := endMig a m stABORTED false s
      if three then noSource a s else repairStopped a x snap bulk s
  | none => repairStopped a x snap bulk s

/-- A fault in the destination ends a migration, and retires the destination; where the old part has stopped, its repair begins
again (R301). -/
def targetFault (a : Fin 32) (m : Migration) (s : State) : State :=
  if m.fill ∨ m.fenceIn.isSome then
    let again (s : State) (x : HwPart) : State := if m.moves x then repairStopped a x true (!m.fill) s else s
    (s.partsOf a).foldl again (endMig a m stABORTED true s)
  else dropMig a m stABORTED true s

/-- A hardware fault of a slot or an engine takes the path of R302. -/
def hwFault (x : HwPart) (f : HwFault) (s : State) : State :=
  match s.partTarget x with
  | some a =>
    match s.migOf a with
    | some m => targetFault a m s
    | none => s
  | none =>
    match s.partAxis x with
    | none =>
      let gone := match x with | .slot n => s.dev.slotRet.contains n.1 | .engine n => s.dev.engRet.contains n.1
      if gone then s else retirePart x s
    | some a =>
      match f with
      | .bulk => preventive a (addFaulty a x s)
      | .stopping snap bulk => stopPart a x snap bulk s

/-- SLOT_HW_FAULT (R302). -/
def execSlotHwFault (t : Nat) (x : HwPart) (f : HwFault) (s : State) : Host.Outcome State Fault Refusal :=
  .next (hwFault x f (s.reach t))

/-- Corrected errors at one word within 1 s: below CE_LIMIT a transient with a record, from there on a fault of the part that takes
the preventive path (R301, R302, R319). -/
def corrected (x : HwPart) (n : Nat) (s : State) : State :=
  let idx := match x with | .slot n => n.1 | .engine n => 256 + n.1
  if n < s.fld GLB_MIG_CFG GLB_MIG_CFG_CE_LIMIT then record .correctedErrors 0 4 0 [idx, n] s.transient
  else hwFault x .bulk s

/-- PREVENTIVE_REPAIR (R302). -/
def execPreventiveRepair (t : Nat) (x : HwPart) (n : Nat) (s : State) : Host.Outcome State Fault Refusal :=
  .next (corrected x n (s.reach t))

/-- A spare has been filled: the axis goes on, in HOLD, on the new placement (R304). -/
def spareFilled (a : Fin 32) (s : State) : State :=
  match s.migOf a with
  | some m => if m.fill then fence a m true (enterHold a s) else s
  | none => s

/-- SPARE_FILL_END (R304). -/
def execSpareFillEnd (t : Nat) (a : Fin 32) (s : State) : Host.Outcome State Fault Refusal := .next (spareFilled a (s.reach t))

/-! ## Supervisors and filters (R305) -/

/-- The retirement of a supervisor or filter holds until power-on or RESET_N (R320). -/
def State.keepSupRet (s : State) (e : Fin 46) : State := s.modDev fun x => { x with supRet := e.1 :: x.supRet.filter (· != e.1) }

/-- A filter is retired at its first stopping fault; the candidate it holds is accepted (R206, R305). -/
def retireFilter (e : Fin 46) (s : State) : State :=
  let s := if (s.eng e).running then filterVerdict e 0 s else s
  let s := ((s.setFld (ENG_STAT e) ENG_STAT_STATE 6).keepSupRet e).count GLB_RET_CNT2 GLB_RET_CNT2_FILTERS
  record .supervisor 1 5 e [] s

/-- A stopping fault of a supervisor: restarted from its active image up to 3 times, then retired (R305, R319). -/
def supFault (e : Fin 46) (s : State) : State :=
  if engKind e = 0 ∨ s.fld (ENG_STAT e) ENG_STAT_STATE = 6 then s
  else if engKind e = 2 then retireFilter e s
  else if (s.eng e).restarts < 3 then
    let n := (s.eng e).restarts + 1
    let s := landSwap e true false ((s.eng e).startArg.getD 0) (endRun e s)
    record .supervisor 0 5 e [n] (s.modEng e fun x => { x with restarts := n })
  else
    let s := ((endRun e s).setFld (ENG_STAT e) ENG_STAT_STATE 6).keepSupRet e
    record .supervisor 1 5 e [] (s.count GLB_RET_CNT2 GLB_RET_CNT2_SUPERVISORS)

/-- SUPERVISOR_FAULT (R305). -/
def execSupervisorFault (t : Nat) (e : Fin 46) (s : State) : Host.Outcome State Fault Refusal := .next (supFault e (s.reach t))

/-! ## Firmware (R306) -/

/-- Where the image of an update lies in host memory, and its length. -/
def State.fwupAddr (s : State) : Nat := s.pair GLB_FWUP_ADDR_LO
def State.fwupLen (s : State) : Nat := s.fld GLB_FWUP_CTRL GLB_FWUP_CTRL_LEN

/-- GO of a firmware update: ignored while one is busy and outside CONFIGURABLE, COMMITTED and RUN; the read of the image begins, but
not for a re-check. -/
def fwupGo (s : State) : State :=
  if s.devState < dCONFIGURABLE ∨ dRUN < s.devState ∨ s.fld GLB_FWUP_STAT GLB_FWUP_STAT_STATUS = 1 then s
  else
    let pref := s.bit GLB_FWUP_CTRL GLB_FWUP_CTRL_SETPREF
    let check := pref && decide (s.fwupLen = 0)
    let s := (s.setReg GLB_FWUP_STAT 1).modDev fun x => { x with fwup := some (pref, check) }
    if check then s else beginImageRead s.fwupAddr s.fwupLen s

/-- An update ends with a status and its info record. -/
def fwupEnd (n : Nat) (s : State) : State :=
  record .firmware 0 4 0 [n] ((s.setFld GLB_FWUP_STAT GLB_FWUP_STAT_STATUS n).modDev fun x => { x with fwup := none })

/-- A read of the image of an update has failed; after the third failure STATUS shows it (R246, R306). -/
def fwupReadFailed (s : State) : State :=
  match s.dev.fwup with
  | some (_, false) => imageReadFailed s.fwupAddr s.fwupLen (fwupEnd 2) s
  | _ => s

/-- PREF is written to the bottom drawer. -/
def setPref (b : Bool) (s : State) : State := (s.modDev fun x => { x with pref := b }).setBit GLB_BOOT GLB_BOOT_PREF b

/-- The update is complete: the image read from the host, or the one in the slot, is checked, programmed and read back (R306).
`reads` are the flash pages that failed as a re-check read them. -/
def fwupDone (f : BootImage) (flashOk : Bool) (reads : PageReads) (s : State) : State :=
  match s.dev.fwup with
  | none => s
  | some (pref, check) =>
    let b := !s.bit GLB_BOOT GLB_BOOT_IMG
    let f := if check then s.slotImage b f else imageUpTo f s.fwupLen
    let r := s.checks f (if check then reads else [])
    if r ≠ 1 then fwupEnd 3 (s.setFld GLB_FWUP_STAT GLB_FWUP_STAT_CAUSE r)
    else if !check ∧ !flashOk then
      fwupEnd 4 (s.modDev fun x => if b then { x with slotB := none } else { x with slotA := none })
    else
      let s := if check then s
        else s.modDev fun x => if b then { x with slotB := some f } else { x with slotA := some f }
      fwupEnd 5 (if pref then setPref b s else s)

/-- FWUP_COMPLETE (R306). -/
def execFwupComplete (t : Nat) (f : BootImage) (flashOk : Bool) (reads : PageReads) (s : State) :
    Host.Outcome State Fault Refusal :=
  .next (fwupDone f flashOk reads (s.reach t))

/-! ## Reads of host memory (R246) -/

/-- A read of host memory has failed or answered late. -/
def hostReadFailed (x : HostRead) (s : State) : State :=
  match x with
  | .ring c n => readFailed c n s
  | .recovery => recoverReadFailed s
  | .firmware => fwupReadFailed s

/-- HOST_READ_RETRY (R246). -/
def execHostReadRetry (t : Nat) (x : HostRead) (s : State) : Host.Outcome State Fault Refusal :=
  .next (hostReadFailed x (s.reach t))

end Sys2Proof.Machine
end

