-- ==== Sys2Proof/Machine/RegWrite.lean ====
section
/-! DEFINITION. Writes of BAR0 registers by the host functions and the engines (spec/14): the checks of R252 in
their order, the locks, static fields, ranges, shadows, pairs, and what the registers with behaviour of their own
do. The privet scan and block parity stand at the end. -/

namespace Sys2Proof.Machine

/-! ## What a write would make of a register (R256) -/

/-- The fields of the register at an offset; none where no register is. -/
def regFields (a : Nat) : List FieldSpec := ((regLookup a).map fun r => r.1.fields).getD []

/-- Bits of an rw field that are read-only: the low 12 bits of the address registers for the host's memory. -/
def readOnlyBits (a : Nat) : Word :=
  let ring := decide (0x40040 ≤ a) && decide (a < 0x44000) && (match blockOf a with
    | .cabinet c => (List.range 16).any fun n => a == HIF_RING_BASE_LO c n
    | _ => false)
  if ring || a == GLB_RECOV_ADDR_LO || a == GLB_FWUP_ADDR_LO then 0xFFF else 0

/-- What a register holds, the parameter bank for a window register. -/
def State.held1 (s : State) (a : Nat) : Word :=
  match blockOf a with
  | .axis x => ((s.windowWord x a).map fun n => BitVec.ofNat 32 n).getD (s.reg a)
  | _ => s.reg a

/-- One field of a write, by its type (R256): `old` is what the register held, `n` what it comes to so far. -/
def writeField (old v : Word) (n : Word) (f : FieldSpec) : Word :=
  match f.ty with
  | .ro => n
  | .rc => if f.fld.get v = 0 then f.fld.put n 0 else n
  | .wo => if f.fld.get old = 0 then f.fld.put n (f.fld.get v) else n
  | .rw | .rs | .rk => f.fld.put n (f.fld.get v)

/-- The register after a write of `v` that no check drops. -/
def State.newReg (s : State) (a : Nat) (v : Word) : Word :=
  (regFields a).foldl (writeField (s.held1 a) (v &&& ~~~(readOnlyBits a))) (s.held1 a)

/-- A write of `v` would change a field that satisfies `p`; its read-only bits change nothing. -/
def State.changes (s : State) (a : Nat) (v : Word) (p : FieldSpec → Bool) : Bool :=
  (regFields a).any fun f => p f && f.fld.get (v &&& ~~~(readOnlyBits a)) != f.fld.get (s.held1 a)

/-! ## Ownership and locks (R211, R225, R257, R258) -/

/-- An engine may read a register (R211); the comparator and adaptive-state registers of a tile stand with its tile
block. -/
def State.engReads (s : State) (e : Fin 46) (a : Nat) : Bool :=
  let t := s.engTile e
  let status := a == LT_NOW_LO || a == LT_NOW_HI || a == LT_STAT || a == GLB_HEDGE_STAT ||
    (List.range 8).any fun v => a == NET_VM_STAT v
  match engKind e with
  | 0 =>
    match s.axisOfEng e with
    | none => status
    | some x => status || (match blockOf a with
      | .axis y => x = y
      | .port p => p = s.portOf x false || p = s.portOf x true
      | .portSense p => tileOfPort p = t
      | .tile u => u = t
      | _ => false)
  | 1 => status || (match blockOf a with
      | .axis y => tileOf y = t
      | .port p | .portSense p => tileOfPort p = t
      | .tile u => u = t
      | _ => false)
  | _ => (decide (0x7FFF00 ≤ a) && decide (a < 0x7FFF20)) ||
      (blockOf a == .recorder && regFields a != [] && (regFields a).all fun f => f.ty == .ro || f.ty == .rc)

/-- An engine may write registers of a block (R211). -/
def State.engWrites (s : State) (e : Fin 46) (a : Nat) : Bool :=
  match engKind e with
  | 0 =>
    match s.axisOfEng e with
    | none => false
    | some x => (match blockOf a with
      | .axis y => x = y
      | .port p => p = s.portOf x false || p = s.portOf x true
      | _ => false)
  | 1 => (match blockOf a with
      | .axis y => tileOf y = s.engTile e
      | .port p | .portSense p => tileOfPort p = s.engTile e
      | .tile u => u = s.engTile e
      | _ => false)
  | _ => false

/-- The writer owns a register for writing: check 1 of R252. -/
def State.owns (s : State) (w : Writer) (a : Nat) : Bool :=
  match w with
  | .host c => s.mayWrite c a
  | .engine e => s.engWrites e a

/-- The cabinet in which the violations of a writer are counted (R258). -/
def State.writerCab (s : State) (w : Writer) : Fin 4 :=
  match w with
  | .host c => c
  | .engine e =>
    match engKind e with
    | 0 => match s.axisOfEng e with | some x => s.ownerAx x | none => 0
    | 1 => s.ownerTile (s.engTile e)
    | _ => 0

/-- A writer as a record names it: the cabinet, or 16 and the engine. -/
def writerCode (w : Writer) : Nat :=
  match w with
  | .host c => c
  | .engine e => 16 + e.1

/-- A lock violation: counted and recorded (R258). -/
def lockViolation (w : Writer) (a : Nat) (v : Word) (s : State) : State :=
  let c := s.writerCab w
  record .lockViolation 1 3 c [a, v.toNat, writerCode w] (s.count (CFG_CNT c) CFG_CNT_LOCK_VIOL_CNT)

/-- A write dropped under the static-field rule (R259). -/
def staticDrop (w : Writer) (a : Nat) (v : Word) (s : State) : State :=
  staticViolation (s.writerCab w) a v (writerCode w) s

/-- The lock over the rk fields of a register is set (R257). -/
def State.lockedRk (s : State) (a : Nat) : Bool :=
  let glob := match blockOf a with
    | .global | .net | .recorder => true
    | .engine e => (s.engOwner e).isNone
    | _ => false
  if glob then s.bit GLB_LOCK GLB_LOCK_GLOBAL_LOCK
  else s.bit (CFG_LOCK (s.writeOwner a)) CFG_LOCK_LOCK

/-- Check 2 of R252 fails: a locked rk field or a set wo field would change. An engine may change no rk, wo, or rc
field at all, and a register without rw or rs field is none it may write (R211). -/
def State.lockBroken (s : State) (w : Writer) (a : Nat) (v : Word) : Bool :=
  match w with
  | .host _ =>
    s.changes a v fun f => (f.ty == .rk && s.lockedRk a) || (f.ty == .wo && f.fld.get (s.held1 a) != 0)
  | .engine _ =>
    (regFields a != [] && !(regFields a).any fun f => f.ty == .rw || f.ty == .rs) ||
    s.changes a v (fun f => f.ty == .rk || f.ty == .wo || (f.ty == .rc && f.fld.get v == 0))

/-! ## Static fields (R259) -/

/-- The ring of a cabinet whose registers hold an offset, if one does. -/
def ringOf (c : Fin 4) (a : Nat) : Option (Fin 16) :=
  let o := a - HIF_RING_BASE_LO c 0
  if HIF_RING_BASE_LO c 0 ≤ a ∧ o < 16 * 0x1C then some (finRing (o / 0x1C)) else none

/-- The block of a static field is enabled, as the heading of its table says. -/
def State.staticOn (s : State) (a : Nat) (f : FieldSpec) : Bool :=
  match blockOf a with
  | .axis x =>
    if a = SF_CFG x ∨ a = SF_WIN x then s.axState x = axSTEPFOLLOW else s.axState x != axDISABLED
  | .port p | .portSense p => s.portOn p
  | .tile t =>
    if a = CFG_XBAR_A t ∨ a = CFG_XBAR_B t then s.axState (finAx (8 * t.1 + f.fld.lo / 4)) != axDISABLED
    else if ID_EXPECT t 0 ≤ a ∧ a < ID_EXPECT t 8 then
      let j := (a - ID_EXPECT t 0) / 4
      [2 * j, 2 * j + 1].any fun p =>
        let c := s.ownerPort (devPort t p)
        s.bit (CFG_CAB_STAT c) CFG_CAB_STAT_COMMITTED
    else (tilePorts t).any s.portOn
  | .net => s.anyPortOn
  | .global =>
    if a = HIF_OWN_AX 0 ∨ a = HIF_OWN_AX 1 then
      s.axState (finAx ((a - HIF_OWN_AX 0) / 4 * 16 + f.fld.lo / 2)) != axDISABLED
    else s.fld a GLB_ENC_CFG_MODE != 0
  | .cabinet c =>
    match ringOf c a with
    | some n => s.rState c n != rDISABLED
    | none => false
  | _ => false

/-- Check 3 of R252 fails: a static field of an enabled block would change. -/
def State.staticBroken (s : State) (a : Nat) (v : Word) : Bool :=
  s.changes a v fun f => f.isStatic && s.staticOn a f

/-! ## Codes that no write may set, and ranges (check 4 of R252) -/

/-- The floor of the reaction entry of a class (R316, R317). -/
def rxFloor (cls : Nat) : Nat :=
  ([0, 0, 0, 0, 0, 0, 0, 0, 1, 4, 5, 1, 1, 5, 1, 1, 0, 0, 0, 4, 4, 0, 0, 5, 0, 1, 4, 4] : List Nat).getD cls 0

/-- A majority filter: M at least 1 and M/2 < N ≤ M (R84, R176). -/
def filterOk (m n : Nat) : Bool := m != 0 && decide (m < 2 * n) && decide (n ≤ m)

def within (lo hi x : Nat) : Bool := decide (lo ≤ x) && decide (x ≤ hi)

/-- The comparator of a port whose configuration stands at an offset. -/
def compOf (a : Nat) : Option (Fin 64 × Fin 10) :=
  match blockOf a with
  | .portSense p =>
    if cmpCfg p 0 ≤ a ∧ a < cmpCfg p 10 then some (p, Fin.ofNat 10 ((a - cmpCfg p 0) / 4)) else none
  | _ => none

/-- The window comparator of a tile whose configuration stands at an offset. -/
def wcompOf (a : Nat) : Option (Fin 4 × Fin 16) :=
  match blockOf a with
  | .tile t =>
    if wcmpCfg t 0 ≤ a ∧ a < wcmpCfg t 0 + 64 then some (t, Fin.ofNat 16 ((a - wcmpCfg t 0) / 4)) else none
  | _ => none

/-- A self-check of the comparator configured at an offset runs (R179). -/
def State.checkRuns (s : State) (a : Nat) : Bool :=
  (match compOf a with | some (p, i) => ((s.port p).check[i]).isSome | none => false) ||
  (match wcompOf a with | some (t, i) => ((s.tile t).win.check[i]).isSome | none => false)

/-- The register would come to hold a code whose write is counted as a static-field violation at all times (R103, R133,
R173, R179, R252). -/
def State.forbidden (s : State) (a : Nat) (n : Word) : Bool :=
  s.checkRuns a || (match blockOf a with
  | .net => a == NET_CTRL && NET_CTRL_PROFILE.get n == 3
  | .axis x =>
    (a == CR_CFG x && CR_CFG_STEPMODE.get n == 3) ||
    (a == CR_IRUN x && decide (s.fld (CR_IMAX x) CR_IMAX_IMAX < CR_IRUN_IRUN.get n)) ||
    (a == OB_CFG x && s.fld a OB_CFG_MODE == 0 && OB_CFG_MODE.get n != 0 && s.fld (OB_MOTOR x) OB_MOTOR_L == 0)
  | .port p => a == PWM_CTRL (pT p) (pI p) && PWM_CTRL_SPOL.get n == 3
  | _ => false)

/-- The fields of a port comparator that R173 lets a write change: not the mode to L or U, and of HSA and HSB only HYS. -/
def State.keepComp (s : State) (a : Nat) (n : Word) : Word :=
  match compOf a with
  | some (_, i) =>
    if 8 ≤ i.1 then CMP_CFG_HYS.put (s.reg a) (CMP_CFG_HYS.get n)
    else if 2 ≤ CMP_CFG_MODE.get n then CMP_CFG_MODE.put n (s.fld a CMP_CFG_MODE)
    else n
  | none => n

/-- The axis registers but the pairs (spec/03–spec/07, spec/17). -/
def State.axisRange (s : State) (x : Fin 32) (a : Nat) (n : Word) : Bool :=
  if a = MP_CTRL x then
    !(MP_CTRL_SOFT_EN.get n == 1 && !s.bit a MP_CTRL_SOFT_EN &&
      decide (s.pairI (MP_SLIM_POS_LO x) ≤ s.pairI (MP_SLIM_NEG_LO x)))
  else if a = MP_DERATE x then within 1 256 (MP_DERATE_FACTOR.get n)
  else if a = GR_LAGMAX x then decide (s.fld (GR_LAGWARN x) GR_LAGWARN_WARN ≤ GR_LAGMAX_MAX.get n)
  else if a = SF_CFG x then within 2 200 (SF_CFG_MINPW.get n)
  else if a = SF_WIN x then within 10 960 (SF_WIN_W.get n)
  else if a = SF_IO_FILT x then filterOk (SF_IO_FILT_M.get n) (SF_IO_FILT_N.get n)
  else if a = CR_IMAX x then decide (CR_IMAX_IMAX.get n ≤ 0xE666)
  else if a = CR_KP x then CR_KP_INJ_SCALE.get n != 0
  else if a = CR_DECAY x then decide (CR_DECAY_MIX.get n ≤ 256)
  else if a = OB_HO x then within 5 50 (OB_HO_HYS.get n) && within 50 20000 (OB_HO_SPEED.get n)
  else if a = OB_INJ x then within 500 20000 (OB_INJ_VINJ.get n)
  else if a = OB_PLL x then within 10 2000 (OB_PLL_BW_BEMF.get n) && within 10 1000 (OB_PLL_BW_INJ.get n)
  else if a = OB_CFG x then OB_CFG_STALL_RX.get n != 3
  else if a = OB_STALL_TH x then within 65536 196608 n.toNat
  else if a = OB_STALL_N x then OB_STALL_N_N.get n != 0
  else if a = OB_LMAX x then within 16384 98304 n.toNat
  else if a = OB_SPR x then OB_SPR_SPR.get n != 0
  else if a = OB_ENC_NUM x ∨ a = OB_ENC_DEN x then n != 0
  else if MP_RX x 0 ≤ a ∧ a < MP_RX x 4 then
    let r := (a - MP_RX x 0) / 4
    (List.range 8).all fun i =>
      28 ≤ 8 * r + i || within (rxFloor (8 * r + i)) 6 ((MP_RX_ENTRY i).get n)
  else true

/-- The port registers (spec/06, spec/08, spec/09). -/
def State.portRange (s : State) (p : Fin 64) (a : Nat) (n : Word) : Bool :=
  let t := pT p
  let i := pI p
  if a = PWM_DT t i then
    within (max 64 (s.fld (PWM_DTMIN t) PWM_DTMIN_DTMIN)) 6400 (PWM_DT_DT.get n) && within 320 12800 (PWM_DT_MINP.get n)
  else if a = CR_PORT_CFG t i then within 16384 32767 (CR_PORT_CFG_DMAX.get n)
  else if a = PWM_TRIP t i then PWM_TRIP_MCLEAN.get n != 0 && PWM_TRIP_NTRIP.get n != 0
  else if a = GD_TARGET t i then
    [GD_TARGET_LOFF, GD_TARGET_LON, GD_TARGET_HOFF, GD_TARGET_HON].all fun (f : Fld) => within 10 200 (f.get n)
  else if a = GD_LIM t i then
    decide (GD_LIM_LS_SNK_MIN.get n ≤ GD_LIM_LS_SNK_MAX.get n) && decide (GD_LIM_LS_SRC_MIN.get n ≤ GD_LIM_LS_SRC_MAX.get n) &&
    decide (GD_LIM_HS_SNK_MIN.get n ≤ GD_LIM_HS_SNK_MAX.get n) && decide (GD_LIM_HS_SRC_MIN.get n ≤ GD_LIM_HS_SRC_MAX.get n)
  else if a = GD_PROT t i then
    within 10 400 (GD_PROT_DSBLANK.get n) && decide (GD_PROT_ITBLANK.get n ≤ 200) && GD_PROT_UVTIME.get n != 0
  else if a = GD_REFRESH t i then within 40 200 (GD_REFRESH_WR.get n)
  else true

/-- ORDER and DEC of a sequence entry (R191). -/
def fltOk (n : Word) : Bool :=
  let k := ADC_SEQ_FLT_ORDER.get n
  let d := ADC_SEQ_FLT_DEC.get n
  decide (k ≤ 4) && (if k = 0 then d == 0 else d != 0)

/-- The tile registers (spec/08, spec/10, spec/11, spec/15). -/
def tileRange (t : Fin 4) (a : Nat) (n : Word) : Bool :=
  if a = PWM_DTMIN t then within 64 6400 (PWM_DTMIN_DTMIN.get n)
  else if a = ADC_TCFG t then within 4 255 (ADC_TCFG_BGTOL.get n) && within 2 1024 (ADC_TCFG_TOL.get n)
  else if a = ADC_INJ t 0 ∨ a = ADC_INJ t 1 then decide (ADC_INJ_CMPSEL.get n ≤ 175)
  else if (ADC_SEQ_FLT t 0 1 ≤ a ∧ a < ADC_SEQ_FLT t 0 32) ∨ (ADC_SEQ_FLT t 1 1 ≤ a ∧ a < ADC_SEQ_FLT t 1 32) then fltOk n
  else if a = ID_ACC t then within 0x50 0x5F (ID_ACC_DEV.get n)
  else if (wcompOf a).isSome then filterOk (CMP_CFG_M.get n) (CMP_CFG_N.get n)
  else true

/-- The encoder configuration: its ranges, and an SSI frame that ends before the next begins (R354). -/
def encRange (n : Word) : Bool :=
  let bits := GLB_ENC_CFG_BITS.get n
  let ivl := GLB_ENC_CFG_IVL.get n
  within 10 1000 ivl && decide (GLB_ENC_CFG_CLK.get n ≤ 5) && within 8 32 bits && decide (GLB_ENC_CFG_FILT.get n ≤ 9) &&
  decide (GLB_ENC_CFG_MODE.get n ≤ 2) &&
  decide ((bits + 1) * ssiClock (GLB_ENC_CFG_CLK.get n) + 20000 ≤ 1000 * ivl)

/-- The network and line-time registers (spec/02). -/
def netRange (a : Nat) (n : Word) : Bool :=
  if a = NET_CTRL then
    within 2 10 (NET_CTRL_ANN_TO.get n) && decide (NET_CTRL_DOMAIN.get n ≤ 127) &&
    !(NET_CTRL_PROFILE.get n == 2 && NET_CTRL_DOMAIN.get n != 0)
  else if a = NET_SEG then within 1 100 (NET_SEG_HB_MS.get n)
  else if a = LT_HOLD then within 1 600 (LT_HOLD_LIMIT.get n)
  else if NET_VM_CFG 0 ≤ a ∧ a < NET_VM_CFG 8 then decide (NET_VM_CFG_IVL.get n ≤ 4)
  else if NET_PUB_CFG 0 ≤ a ∧ a < NET_PUB_CFG 8 then
    decide (NET_PUB_CFG_IVL.get n ≤ 4) && (NET_PUB_CFG_KIND.get n == 0 || decide (NET_PUB_CFG_INDEX.get n ≤ 15))
  else true

/-- Every field value of the register lies in its stated range (check 4 of R252). -/
def State.inRange (s : State) (a : Nat) (n : Word) : Bool :=
  match blockOf a with
  | .axis x => s.axisRange x a n
  | .port p => s.portRange p a n
  | .portSense _ => (compOf a).isNone || filterOk (CMP_CFG_M.get n) (CMP_CFG_N.get n)
  | .tile t => tileRange t a n
  | .net => netRange a n
  | .global =>
    if a = GLB_MIG_CFG then GLB_MIG_CFG_CE_LIMIT.get n != 0
    else if GLB_ENC_CFG 0 ≤ a ∧ a < GLB_ENC_CFG 16 then encRange n
    else true
  | .engine e => a != ENG_WDOG e || ENG_WDOG_N.get n != 0
  | .cabinet c =>
    if a = HIF_CAB_CTRL c then
      decide (HIF_CAB_CTRL_EVRING_F.get n ≤ 16) && decide (HIF_CAB_CTRL_EVRING.get n ≤ 16)
    else if a = CFG_LOCK c then decide (CFG_LOCK_REF_SEL.get n ≤ 4)
    else true
  | _ => true

/-! ## Pairs -/

/-- The register whose write commits the one at an offset: the _LO register of a _HI and _LO pair of the axis block and of
PWM_LOADAT, and CFG_XBAR_A for CFG_XBAR_B (R288). -/
def commitOf (a : Nat) : Option Nat :=
  match blockOf a with
  | .axis x =>
    if [MP_CMD_POS_HI x, MP_PV_HI x, MP_PA_HI x, MP_PD_HI x, MP_PJ_HI x, MP_EMERG_HI x, MP_VLIM_HI x, MP_ALIM_HI x,
        MP_SLIM_NEG_HI x, MP_SLIM_POS_HI x, GR_CATCHUP_HI x].contains a then some (a - 4) else none
  | .tile t => if a = PWM_LOADAT_HI t then some (PWM_LOADAT_LO t) else if a = CFG_XBAR_B t then some (CFG_XBAR_A t) else none
  | _ => none

/-- The register that a write commits with its own, if there is one. -/
def heldBy (a : Nat) : Option Nat :=
  if commitOf (a + 4) = some a then some (a + 4) else none

/-- A magnitude pair breaks its format: bits [31:16] of _HI are not 0 (spec/03). -/
def magPair (x : Fin 32) (lo : Nat) : Bool :=
  [MP_PV_LO x, MP_PA_LO x, MP_PD_LO x, MP_PJ_LO x, MP_EMERG_LO x, MP_VLIM_LO x, MP_ALIM_LO x, GR_CATCHUP_LO x].contains lo

/-- A port appears twice among the 16 entries of a crossbar pair (R288). -/
def xbarTwice (lo hi : Word) : Bool :=
  let l := (List.range 8).flatMap fun i => [(CFG_XBAR_A_PORT i).get lo, (CFG_XBAR_B_PORT i).get hi]
  !decide l.Nodup

/-- The value of a pair lies in its range. -/
def State.pairRange (s : State) (lo : Nat) (l h : Word) : Bool :=
  let v := l.toNat + 2 ^ 32 * h.toNat
  match blockOf lo with
  | .axis x =>
    if lo = MP_CMD_POS_LO x then s.softOk x (signedOf 64 v)
    else if magPair x lo && decide (65536 ≤ h.toNat) then false
    else if lo = MP_PV_LO x ∨ lo = MP_PA_LO x ∨ lo = MP_PD_LO x ∨ lo = MP_ALIM_LO x then v != 0
    else if lo = MP_EMERG_LO x then v != 0 && decide (v ≤ 2147483647 * 65536)
    else if lo = MP_PJ_LO x then decide (v ≤ 2147483647 * 65536)
    else if lo = MP_VLIM_LO x then v != 0 && decide (v ≤ 0x19000000000)
    else true
  | .tile t => lo != CFG_XBAR_A t || !xbarTwice l h
  | _ => true

/-! ## Applying a write -/

/-- CFG_STAT.PARITY of a cabinet reads 1 exactly while a register that it owns has failed its parity (R260, R263). -/
def showParity (s : State) : State :=
  allCabs.foldl (fun (s : State) c => s.setBit (CFG_STAT c) CFG_STAT_PARITY
    (allTiles.any fun u => (s.tile u).parBad.any fun a => s.writeOwner a = c)) s

/-- The tile of an rs register. -/
def shadowTile (a : Nat) : Fin 4 := finTile ((a - 0x200000) / 0x40000)

/-- A write of an rs register: the shadow, which the next boundary applies, or the one after it where the write reaches
the tile in the last 5 ns clock of the period (R20, R261). -/
def writeShadow (a : Nat) (n : Word) (s : State) : State :=
  let t := shadowTile a
  let s :=
    if s.boundary t + s.period t ≤ s.now + 5 then
      if s.late.any fun c => c.1 == a then s else s.setLate ((a, s.reg a) :: s.late)
    else s.setWritten (a :: s.written.filter fun x => x != a)
  s.setReg a n

/-- The word of a parameter bank at one of its two registers. -/
def putHalf (old : Nat) (hi : Bool) (n : Word) : Nat :=
  if hi then old % 2 ^ 32 + 2 ^ 32 * n.toNat else old / 2 ^ 32 * 2 ^ 32 + n.toNat

/-- A write through the window of MP_PV to MP_PJ goes to the bank that BANK_SEL shows. -/
def writeWindow (x : Fin 32) (a : Nat) (n : Word) (s : State) : State :=
  let hi := a == MP_PV_HI x || a == MP_PA_HI x || a == MP_PD_HI x || a == MP_PJ_HI x
  let b := s.winBank x
  let b :=
    if a = MP_PV_LO x ∨ a = MP_PV_HI x then { b with v := putHalf b.v hi n }
    else if a = MP_PA_LO x ∨ a = MP_PA_HI x then { b with a := putHalf b.a hi n }
    else if a = MP_PD_LO x ∨ a = MP_PD_HI x then { b with d := putHalf b.d hi n }
    else { b with j := putHalf b.j hi n }
  s.modAxis x fun y => { y with bank := y.bank.setIfInBounds (s.fld (MP_CTRL x) MP_CTRL_BANK_SEL) b }

/-- A bank value written through the window, clamped to its cap as every bank value is (R68). -/
def State.windowCap (s : State) (x : Fin 32) (lo v : Nat) : Nat :=
  if lo = MP_PV_LO x then min v (s.vCap x)
  else if lo = MP_PA_LO x ∨ lo = MP_PD_LO x then min v (s.aCap x)
  else v

/-- A register takes its new value. -/
def applyReg (a : Nat) (n : Word) (s : State) : State :=
  match blockOf a with
  | .axis x => if (s.windowWord x a).isSome then writeWindow x a n s else s.setReg a n
  | .port p =>
    if a = GD_CFG (pT p) (pI p) || (regFields a).any (fun f => f.ty == .rs) then writeShadow a n s else s.setReg a n
  | _ => if (regFields a).any fun f => f.ty == .rs then writeShadow a n s else s.setReg a n

/-- The filters of an axis's inputs are preloaded inactive (R84). -/
def preloadIo (x : Fin 32) (s : State) : State :=
  let io := SF_IO_STAT x
  let s := s.modIo x fun y => { y with preAt := s.now }
  ((s.setBit io SF_IO_STAT_HOME false).setBit io SF_IO_STAT_LIMP false).setBit io SF_IO_STAT_LIMN false

/-- What a write of an axis register brings with it: a host write of a motor value while the axis is DISABLED clears SRC (R133). -/
def axisEffect (w : Writer) (x : Fin 32) (a : Nat) (s : State) : State :=
  if a = SF_IO_FILT x then preloadIo x s
  else match w with
    | .host _ =>
      if s.axState x ≠ axDISABLED then s
      else if a = CR_RCOIL x then s.setBit a CR_RCOIL_SRC false
      else if a = OB_MOTOR x ∨ a = OB_SPR x then s.setBit (OB_MOTOR x) OB_MOTOR_SRC false
      else s
    | .engine _ => s

/-- The axes whose ports a crossbar write moved take the motor data of their new ports (R288). -/
def remapped (t : Fin 4) (old : State) (s : State) : State :=
  (tileAxes t).foldl (fun s x =>
    if old.portOf x false = s.portOf x false ∧ old.portOf x true = s.portOf x true then s
    else loadMotor x (s.motorOf x) s) s

/-- A load-all write: with GANG clear it is ignored; LOAD 1 requests the load, LOAD 0 withdraws a request (R142). -/
def loadAllWrite (t : Fin 4) (n : Word) (s : State) : State :=
  if !s.bit (PWM_TCTRL t) PWM_TCTRL_GANG then s
  else
    let s := s.setReg (PWM_LOADALL t) n
    if PWM_LOADALL_LOAD.get n = 1 then requestLoad t s.now (PWM_LOADALL_AT.get n = 1) s
    else s.modTile t fun x => { x with loadAll := [] }

/-- A write of ADC_INJ: GO with SRC = 0 triggers and reads 0 (R190). -/
def injWrite (t : Fin 4) (x : Fin 2) (n : Word) (s : State) : State :=
  let s := s.setReg (ADC_INJ t x) (ADC_INJ_GO.put n 0)
  if ADC_INJ_GO.get n = 1 ∧ ADC_INJ_SRC.get n = 0 then injTrigger t x s else s

/-- A write of CMP_WCHK: each bit written 1 starts a check of its monitor (R180). -/
def wchkWrite (t : Fin 4) (n : Word) (s : State) : State :=
  (List.range 8).foldl (fun s j => if n.getLsbD j then startWindowCheck t j s else s) (s.setReg (CMP_WCHK t) n)

/-- A write of ID_ACC: GO starts a read (R286). -/
def idAccWrite (t : Fin 4) (n : Word) (s : State) : State :=
  let s := s.setReg (ID_ACC t) n
  if ID_ACC_GO.get n = 1 then idAccGo t s else s

/-- A write of a tile register. -/
def tileApply (t : Fin 4) (a : Nat) (n : Word) (s : State) : State :=
  if a = PWM_LOADALL t then loadAllWrite t n s
  else if a = ADC_INJ t 0 then injWrite t 0 n s
  else if a = ADC_INJ t 1 then injWrite t 1 n s
  else if a = CMP_WCHK t then wchkWrite t n s
  else if a = ID_ACC t then idAccWrite t n s
  else match wcompOf a with
    | some (u, i) => showWindow u (i.1 / 2) (preloadWindow u i (s.setReg a n))
    | none => applyReg a n s

/-- A write of a port or comparator register. -/
def portApply (p : Fin 64) (a : Nat) (n : Word) (s : State) : State :=
  let s := applyReg a n s
  if a = CR_PORT_CFG (pT p) (pI p) then loadIfs p s
  else match compOf a with
    | some (q, i) => followAdapt q (preloadComp q s i)
    | none => s

/-- A virtual master is enabled or disabled: from its enable it has no value until a sample (R39). A change of STALE has its event
(R40). -/
def vmSwitched (v : Fin 8) (was : Bool) (s : State) : State :=
  if s.bit (NET_VM_CFG v) NET_VM_CFG_EN = was then s
  else
    let s := if s.bit (NET_VM_STAT v) NET_VM_STAT_STALE then s
      else raiseStale v true (s.setBit (NET_VM_STAT v) NET_VM_STAT_STALE true)
    let s := s.setBit (NET_VM_STAT v) NET_VM_STAT_ORDER2 false
    s.modVm v fun x => { VMaster.init with stales := x.stales }

/-- A write of a network register. The version in use follows NET_MEMBER (R35), and a port without BLOCK has no open block
(NET_PORT_STAT). -/
def netApply (a : Nat) (n : Word) (s : State) : State :=
  if NET_VM_CFG 0 ≤ a ∧ a < NET_VM_CFG 8 then
    vmSwitched (Fin.ofNat 8 ((a - NET_VM_CFG 0) / 4)) (s.bit a NET_VM_CFG_EN) (s.setReg a n)
  else if a = NET_MEMBER_LO ∨ a = NET_MEMBER_HI then followVersion (s.setReg a n)
  else if a = NET_PORT_CTRL 0 ∨ a = NET_PORT_CTRL 1 then
    let st : Nat := if a = NET_PORT_CTRL 0 then NET_PORT_STAT 0 else NET_PORT_STAT 1
    let s := s.setReg a n
    if NET_PORT_CTRL_BLOCK.get n = 0 then s.setBit st NET_PORT_STAT_BLOCK_OPEN false else s
  else s.setReg a n

/-- A write of REC_RD_CTRL: GO starts a lookup and reads 0 (R336). -/
def recRdWrite (n : Word) (s : State) : State :=
  let s := s.setReg REC_RD_CTRL (REC_RD_CTRL_GO.put n 0)
  if REC_RD_CTRL_GO.get n = 1 then
    (s.setFld REC_RD_CTRL REC_RD_CTRL_STATUS 1).modRec fun x =>
      { x with lookup := some (s.fld REC_RD_SEQ REC_RD_SEQ_SEQ, REC_RD_CTRL_AREA.get n, REC_RD_CTRL_PIECE.get n) }
  else s

/-- A write of a global register. -/
def globalApply (a : Nat) (n : Word) (s : State) : State :=
  if a = GLB_RECOV_CTRL then
    let s := s.setReg a (GLB_RECOV_CTRL_GO.put n 0)
    if GLB_RECOV_CTRL_GO.get n = 1 then recoverGo s else s
  else if a = GLB_FWUP_CTRL then
    let s := s.setReg a (GLB_FWUP_CTRL_GO.put n 0)
    if GLB_FWUP_CTRL_GO.get n = 1 then fwupGo s else s
  else if GLB_ENC_CFG 0 ≤ a ∧ a < GLB_ENC_CFG 16 then
    encModeChanged (Fin.ofNat 16 ((a - GLB_ENC_CFG 0) / 4)) (s.fld a GLB_ENC_CFG_MODE) (s.setReg a n)
  else if a = HIF_OWN_AX 0 ∨ a = HIF_OWN_AX 1 ∨ a = HIF_OWN_TILE then showParity (s.setReg a n)
  else s.setReg a n

/-- A write of an engine register: SET raises event 14 and reads 0 (R209). -/
def engineApply (e : Fin 46) (a : Nat) (n : Word) (s : State) : State :=
  if a = ENG_HOSTEV e then
    let s := s.setReg a (ENG_HOSTEV_SET.put n 0)
    if ENG_HOSTEV_SET.get n = 1 then hostEvent e s else s
  else s.setReg a n

/-- A write of a cabinet register: the kick, which reads 0, the watchdog's start, and EN of a ring (R230, R231, R247). -/
def cabinetApply (c : Fin 4) (a : Nat) (n : Word) (s : State) : State :=
  if a = HIF_CAB_WDOG c then
    let off : Bool := s.fld a HIF_CAB_WDOG_MS == 0
    let s := s.setReg a (HIF_CAB_WDOG_KICK.put n 0)
    let s := if off then s.modCab c fun x => { x with wdogAt := s.up } else s
    if HIF_CAB_WDOG_KICK.get n = 1 then kickWatchdog c s else s
  else match ringOf c a with
    | some r =>
      if a = HIF_RING_CFG c r then
        let was := s.bit a HIF_RING_CFG_EN
        let en : Bool := HIF_RING_CFG_EN.get n == 1
        let s := s.setReg a (HIF_RING_CFG_EN.put n (if was then 1 else 0))
        if en ∧ !was then setRingEn c r s else if was ∧ !en then clearRingEn c r s else s
      else s.setReg a n
    | none => s.setReg a n

/-- An accepted write takes effect (check 5 of R252). -/
def applyWrite (w : Writer) (a : Nat) (n : Word) (s : State) : State :=
  match blockOf a with
  | .axis x => axisEffect w x a (applyReg a n s)
  | .port p | .portSense p => portApply p a n s
  | .tile t => tileApply t a n s
  | .net => netApply a n s
  | .recorder => if a = REC_RD_CTRL then recRdWrite n s else s.setReg a n
  | .global => globalApply a n s
  | .engine e => engineApply e a n s
  | .cabinet c => cabinetApply c a n s
  | .none => s

/-! ## Parity of a written register (R262–R264) -/

/-- The registers whose parity is stored: the port blocks, the comparator blocks, the window block and the sequence
registers of the converters (R262). -/
def parityCovered (a : Nat) : Bool :=
  let o := (a - 0x200000) % 0x40000
  decide (0x200000 ≤ a) && decide (a < 0x300000) && a % 4 == 0 &&
  (within 0x1000 0x1FFF o || within 0x3000 0x33FF o || within 0x3800 0x38FF o || within 0x4100 0x41FF o ||
    within 0x5100 0x51FF o) &&
  (regFields a).any fun f => f.ty != .ro && f.ty != .rc

/-- The parity blocks of a tile that are faulted: 16 registers each. -/
def State.faultedBlocks (s : State) (t : Fin 4) : List Nat := (((s.tile t).parBad).map (· / 64)).eraseDups

/-- CFG_PAR_FIRST, CFG_PAR_CNT.FAULTED and CFG_STAT.PARITY show the faulted blocks (R263). -/
def followParity (t : Fin 4) (s : State) : State :=
  let bad := (s.tile t).parBad
  let r := CFG_PAR_FIRST t
  let s := (s.setBit r CFG_PAR_FIRST_VALID (bad != [])).setFld r CFG_PAR_FIRST_OFFSET
    ((bad.headD (tileBase t) - tileBase t) / 4)
  let s := s.setFld (CFG_PAR_CNT t) CFG_PAR_CNT_FAULTED (min 255 (s.faultedBlocks t).length)
  showParity s

/-- A segment is to take a new reference: it is compared no more (R268). -/
def awaitReference (c : Fin 4) (seg : Nat) (s : State) : State :=
  let st := CFG_STAT c
  let s := s.setFld st CFG_STAT_ARMED (s.fld st CFG_STAT_ARMED &&& (31 - 2 ^ seg))
  s.modDev fun x => { x with
    awaitRef := x.awaitRef.set c ((x.awaitRef[c]).setIfInBounds seg true)
    newRef := x.newRef.set c ((x.newRef[c]).setIfInBounds seg false) }

/-- A register holds an rk field that is locked: once its parity has failed it cannot be rewritten (R264). -/
def State.heldRk (s : State) (a : Nat) : Bool := s.lockedRk a && (regFields a).any fun f => f.ty == .rk

/-- An accepted write stores new parity: the register's parity holds again, and its segment, if it has one, takes a new reference
(R264). -/
def storeParity (a : Nat) (s : State) : State :=
  match blockOf a with
  | .port _ | .portSense _ | .tile _ =>
    let t := shadowTile a
    if (s.tile t).parBad.contains a && !s.heldRk a then
      let s := s.modTile t fun x => { x with parBad := x.parBad.filter fun b => b != a }
      let s := if coveredMask a = 0 then s else awaitReference (s.writeOwner a) (segmentOf a) s
      let s := followParity t s
      if 0x3800 ≤ a - tileBase t ∧ a - tileBase t < 0x3900 then evalWindows t s else s
    else s
  | _ => s

/-! ## A write -/

/-- Checks 2 to 5 of R252 for one register, whose write is not half of a pair. -/
def writeOne (w : Writer) (a : Nat) (v : Word) (s : State) : State :=
  if s.lockBroken w a v then lockViolation w a v s
  else if s.staticBroken a v then staticDrop w a v s
  else
    let n := s.newReg a v
    let m := s.keepComp a n
    let s := if m ≠ n then staticDrop w a v s else s
    if s.forbidden a m then staticDrop w a v s
    else if !s.inRange a m then s
    else storeParity a (applyWrite w a m s)

/-- A committed write of MP_CMD_POS: as SET_POS in DISABLED, STANDSTILL and VELOCITY, the position at the latest boundary, which the
register shows, becoming the value; otherwise dropped under the static-field rule (R56). -/
def writePosition (w : Writer) (x : Fin 32) (v : Nat) (s : State) : State :=
  if !s.posSettable x then staticDrop w (MP_CMD_POS_LO x) (BitVec.ofNat 32 v) s
  else setPosition x (signedOf 64 v) s

/-- Checks 2 to 5 of R252 for a pair, at the write that commits it. The crossbar pair commits to both registers and the
remapped axes take their motor data (R288). -/
def writePair (w : Writer) (lo hi : Nat) (vl vh : Word) (s : State) : State :=
  if s.lockBroken w lo vl || s.lockBroken w hi vh then lockViolation w lo vl s
  else
    let cmd := match blockOf lo with | .axis x => lo == MP_CMD_POS_LO x | _ => false
    if (s.staticBroken lo vl || s.staticBroken hi vh) && !cmd then staticDrop w lo vl s
    else
      let l := s.newReg lo vl
      let h := s.newReg hi vh
      if cmd && !(match blockOf lo with | .axis x => s.posSettable x | _ => true) then staticDrop w lo vl s
      else if !s.pairRange lo l h then s
      else
        match blockOf lo with
        | .axis x =>
          if cmd then writePosition w x (l.toNat + 2 ^ 32 * h.toNat) s
          else
            let v := s.windowCap x lo (l.toNat + 2 ^ 32 * h.toNat)
            applyReg lo (BitVec.ofNat 32 v) (applyReg hi (BitVec.ofNat 32 (v / 2 ^ 32)) s)
        | .tile t =>
          let z := (s.setReg hi h).setReg lo l
          if lo = CFG_XBAR_A t then showParity (remapped t s z) else z
        | _ => s

/-- A write that waits in the _HI half of a pair, replacing one that waits there (R249). -/
def holdHi (w : Writer) (a : Nat) (v : Word) (s : State) : State :=
  s.setHeld (⟨w, a, v⟩ :: s.held.filter fun h => !(h.by_ == w && h.addr == a))

/-- The half that waits for a commit by a writer: what it wrote, otherwise what the register holds. -/
def State.heldHi (s : State) (w : Writer) (a : Nat) : Word :=
  match s.held.find? fun h => h.by_ == w && h.addr == a with
  | some h => h.value
  | none => s.held1 a

/-- A write of a register that its writer owns: a held half waits, a commit takes both, any other register stands alone. -/
def ownedWrite (w : Writer) (a : Nat) (v : Word) (s : State) : State :=
  if (commitOf a).isSome then
    match w with
    | .engine _ => if s.lockBroken w a v then lockViolation w a v s else holdHi w a v s
    | .host _ => holdHi w a v s
  else match heldBy a with
    | some hi =>
      let vh := s.heldHi w hi
      writePair w a hi v vh (s.setHeld (s.held.filter fun h => !(h.by_ == w && h.addr == hi)))
    | none => writeOne w a v s

/-- What the device state makes of a write by a host function (R273): `some true` it is examined, `some false` it is a
static-write violation, `none` it has no effect. -/
def State.hostMayWrite (s : State) (a : Nat) : Option Bool :=
  let st := s.devState
  if st = dINVENTORY ∨ st = dDIAG then some (match blockOf a with | .cabinet _ => true | _ => false)
  else if st = dCONFIGURABLE ∨ st = dCOMMITTED ∨ st = dRUN then some true
  else if st = dHALT ∧ (a = GLB_RECOV_CTRL ∨ a = GLB_RECOV_ADDR_LO ∨ a = GLB_RECOV_ADDR_HI) then some true
  else none

/-- A write of a register (R251–R261). An offset that holds no register drops it. -/
def busWrite (w : Writer) (a : Nat) (v : Word) (s : State) : State :=
  if a % 4 ≠ 0 ∨ regFields a = [] then s
  else if !s.owns w a then s
  else
  let s := settleFor s a
  match w with
    | .engine _ => ownedWrite w a v s
    | .host _ =>
      match s.hostMayWrite a with
      | none => s
      | some true => ownedWrite w a v s
      | some false => staticDrop w a v s

/-- An access of BAR0 by a writer: one of a host function that is not an aligned 32-bit one is completed as an unsupported request
(R223, R251). -/
def barWrite (w : Writer) (a : Nat) (v : Word) (size : Nat) (s : State) : State :=
  match w with
  | .host c => if size ≠ 4 ∨ a % 4 ≠ 0 then s.emit (.unsupported c) else busWrite w a v s
  | .engine _ => busWrite w a v s

/-- REGISTER_WRITE (R252). -/
def execRegisterWrite (t : Nat) (w : Writer) (a : Nat) (v : Word) (size : Nat) (s : State) : Host.Outcome State Fault Refusal :=
  .next (barWrite w a v size (s.reach t))

/-! ## Writes that have a row of their own -/

/-- MP_CMD_POS_WRITE (R56): _HI and then _LO. -/
def execMpCmdPosWrite (t : Nat) (w : Writer) (a : Fin 32) (v : BitVec 64) (s : State) :
    Host.Outcome State Fault Refusal :=
  let s := busWrite w (MP_CMD_POS_HI a) (v.extractLsb' 32 32) (s.reach t)
  .next (busWrite w (MP_CMD_POS_LO a) (v.extractLsb' 0 32) s)

/-- GLOBAL_LOCK (R257). -/
def execGlobalLock (t : Nat) (c : Fin 4) (s : State) : Host.Outcome State Fault Refusal :=
  .next (busWrite (.host c) GLB_LOCK 1 (s.reach t))

/-- CFG_LOCK (R257): cabinet `c` writes LOCK of its own block, REF_SEL kept. -/
def execCfgLock (t : Nat) (c : Fin 4) (s : State) : Host.Outcome State Fault Refusal :=
  .next (busWrite (.host c) (CFG_LOCK c) (s.reg (CFG_LOCK c) ||| 1) (s.reach t))

/-- ENG_HOSTEV_SET (R209). -/
def execEngHostevSet (t : Nat) (c : Fin 4) (e : Fin 46) (param : BitVec 16) (s : State) :
    Host.Outcome State Fault Refusal :=
  .next (busWrite (.host c) (ENG_HOSTEV e) (BitVec.ofNat 32 (param.toNat * 65536 + 1)) (s.reach t))

/-- REC_RD_GO (R336). -/
def execRecRdGo (t : Nat) (c : Fin 4) (area : Bool) (piece : BitVec 5) (s : State) : Host.Outcome State Fault Refusal :=
  .next (busWrite (.host c) REC_RD_CTRL
    (BitVec.ofNat 32 (0x80000000 + (if area then 0x8000000 else 0) + piece.toNat)) (s.reach t))

/-- LOAD_ALL (R142). -/
def execLoadAll (at_ : Nat) (w : Writer) (t : Fin 4) (byTime : Bool) (s : State) : Host.Outcome State Fault Refusal :=
  .next (busWrite w (PWM_LOADALL t) (if byTime then 3 else 1) (s.reach at_))

/-- ADC_INJ_GO (R190): GO with the other fields as they stand. -/
def execAdcInjGo (at_ : Nat) (w : Writer) (t : Fin 4) (x : Fin 2) (s : State) : Host.Outcome State Fault Refusal :=
  .next (busWrite w (ADC_INJ t x) (ADC_INJ_GO.put (s.reg (ADC_INJ t x)) 1) (s.reach at_))

/-- CMP_WCHK_REQ (R180): one bit, the others as they stand. -/
def execCmpWchkReq (at_ : Nat) (w : Writer) (t : Fin 4) (j : Fin 8) (s : State) : Host.Outcome State Fault Refusal :=
  .next (busWrite w (CMP_WCHK t) (s.reg (CMP_WCHK t) ||| BitVec.ofNat 32 (2 ^ j.1)) (s.reach at_))

/-- ENC_MODE_WRITE (R354): MODE, the other fields as they stand. -/
def execEncModeWrite (t : Nat) (c : Fin 4) (n : Fin 16) (mode : BitVec 2) (s : State) :
    Host.Outcome State Fault Refusal :=
  .next (busWrite (.host c) (GLB_ENC_CFG n) (GLB_ENC_CFG_MODE.put (s.reg (GLB_ENC_CFG n)) mode.toNat) (s.reach t))

/-- GLB_RECOV_GO (R281). -/
def execGlbRecovGo (t : Nat) (c : Fin 4) (len : BitVec 26) (s : State) : Host.Outcome State Fault Refusal :=
  .next (busWrite (.host c) GLB_RECOV_CTRL (BitVec.ofNat 32 (0x80000000 + len.toNat)) (s.reach t))

/-- GLB_FWUP_GO (R306). -/
def execGlbFwupGo (t : Nat) (c : Fin 4) (setpref : Bool) (len : BitVec 26) (s : State) :
    Host.Outcome State Fault Refusal :=
  .next (busWrite (.host c) GLB_FWUP_CTRL
    (BitVec.ofNat 32 (0x80000000 + (if setpref then 0x40000000 else 0) + len.toNat)) (s.reach t))

/-- ID_ACC_GO (R286). -/
def execIdAccGo (at_ : Nat) (w : Writer) (t : Fin 4) (dev : BitVec 7) (off : BitVec 16) (s : State) :
    Host.Outcome State Fault Refusal :=
  .next (busWrite w (ID_ACC t) (BitVec.ofNat 32 (0x80000000 + dev.toNat * 65536 + off.toNat)) (s.reach at_))

/-- CFG_XBAR_COMMIT (R288): CFG_XBAR_A with the half of CFG_XBAR_B held before. -/
def execCfgXbarCommit (at_ : Nat) (w : Writer) (t : Fin 4) (v : Word) (s : State) : Host.Outcome State Fault Refusal :=
  .next (busWrite w (CFG_XBAR_A t) v (s.reach at_))

/-! ## Block parity (R262, R263) -/

/-- A register's parity fails: counted, recorded, shown; a block of a port protects it, the entries of a converter become
invalid, and the monitors of a tile read PARITY. The fault is raised as the block becomes faulted (R263). -/
def parityFails (t : Fin 4) (s : State) (a : Nat) : State :=
  if !parityCovered a || shadowTile a != t || (s.tile t).parBad.contains a then s
  else
    let fresh := !(s.faultedBlocks t).contains (a / 64)
    let s := s.modTile t fun x => { x with parBad := x.parBad ++ [a] }
    let s := record .parity 1 2 t [a] (s.count (CFG_PAR_CNT t) CFG_PAR_CNT_EVENTS)
    let s := followParity t s
    if !fresh then s
    else match blockOf a with
      | .port p | .portSense p => raisePortFault 23 p (a / 64 % 16) (protectPort p s)
      | _ =>
        if a - tileBase t < 0x4000 then evalWindows t s
        else raiseFaultAll 24 ⟨3, t⟩ 0 (tileAxes t) (parityEntries t s)

/-! ## Bit upsets (R262, R267) -/

/-- The bits that a register stores for software: its fields but status fields and counters, and of its value in force the rs fields;
GD_CFG has one for each of its fields. -/
def storedMask (a : Nat) (inForce : Bool) : Word :=
  let deferred : Bool := match blockOf a with
    | .port p => a == GD_CFG (pT p) (pI p)
    | _ => false
  let has (f : FieldSpec) : Bool :=
    if inForce then f.ty == .rs || (deferred && f.ty != .ro && f.ty != .rc) else f.ty != .ro && f.ty != .rc
  ((regFields a).foldl (fun (m : Word) f => if has f then m ||| f.fld.mask else m) 0) &&& ~~~(readOnlyBits a)

/-- Bits of what a register holds, or of its value in force, flip without a write. -/
def flipBits (u : Upset) (s : State) : State :=
  let m := u.bits &&& storedMask u.addr u.inForce
  if u.inForce then s.setForce u.addr (s.force u.addr ^^^ m)
  else match blockOf u.addr with
    | .axis x =>
      if (s.windowWord x u.addr).isSome then writeWindow x u.addr (s.held1 u.addr ^^^ m) s else s.setReg u.addr (s.reg u.addr ^^^ m)
    | _ => s.setReg u.addr (s.reg u.addr ^^^ m)

/-- The reference of a segment stays where it was while bits of a covered register flip: the syndrome takes the difference (R267). -/
def keepReference (a : Nat) (old s : State) : State :=
  let c := old.writeOwner a
  let seg := segmentOf a
  let d := old.segCrc c seg ^^^ s.segCrc c seg
  s.modDev fun x => { x with upset := x.upset.set c ((x.upset[c]).setIfInBounds seg ((x.upset[c]).toArray.getD seg 0 ^^^ d)) }

/-- The even parity of a word no longer holds once an odd number of its bits has flipped (R262). -/
def oddBits (m : Word) : Bool := bitCount m.toNat 32 % 2 == 1
where
  bitCount (n : Nat) : Nat → Nat
    | 0 => 0
    | k + 1 => n % 2 + bitCount (n / 2) k

/-- A bit upset: the register or its value in force holds the flipped bits from then on, the privet reference stays, and a parity
that no longer holds is found at once by the consumer (R262, R263, R267; DEDUCED, log). -/
def applyUpset (s : State) (u : Upset) : State :=
  let t := flipBits u s
  let t := if !u.inForce ∧ u.bits &&& storedMask u.addr false &&& coveredMask u.addr ≠ 0 then keepReference u.addr s t else t
  if oddBits (u.bits &&& storedMask u.addr u.inForce) then parityFails (shadowTile u.addr) t u.addr else t

/-- PARITY_SWEEP (R262, R263): the upsets since the last sweep. -/
def execParitySweep (at_ : Nat) (t : Fin 4) (ups : List Upset) (s : State) : Host.Outcome State Fault Refusal :=
  .next ((ups.filter fun u => parityCovered u.addr && shadowTile u.addr == t).foldl applyUpset (s.reach at_))

/-! ## The privet scan (R268–R270) -/

/-- A bit of a 5-bit field of CFG_STAT. -/
def State.segBit (s : State) (c : Fin 4) (f : Fld) (seg : Nat) : Bool := (s.fld (CFG_STAT c) f).testBit seg

def setSegBit (c : Fin 4) (f : Fld) (seg : Nat) (b : Bool) (s : State) : State :=
  let v := s.fld (CFG_STAT c) f
  s.setFld (CFG_STAT c) f (if b then v ||| 2 ^ seg else v &&& (31 - 2 ^ seg))

/-- How far the CRC that a scan computed for a segment stands off that of what its registers hold. -/
def misreadOf (misread : List (Fin 4 × Nat × Word)) (c : Fin 4) (seg : Nat) : Word :=
  match misread.find? fun d => d.1 == c && d.2.1 == seg with
  | some d => d.2.2
  | none => 0

/-- The difference between the CRC that a scan computed for a segment and its comparison value, which both follow every intended
write alike: the upsets that the reference does not know, and what the scan misread (R269; DEDUCED, log). -/
def State.scanDiff (s : State) (misread : List (Fin 4 × Nat × Word)) (c : Fin 4) (seg : Nat) : Word :=
  (s.dev.upset[c]).toArray.getD seg 0 ^^^ misreadOf misread c seg

/-- One segment at the end of a scan: a segment that was committed for a new reference takes the computed CRC as its
reference and is compared from the next scan on; an armed one is compared (R268, R269). -/
def scanSegment (misread : List (Fin 4 × Nat × Word)) (c : Fin 4) (s : State) (seg : Nat) : State :=
  if (s.dev.newRef[c]).toArray.getD seg false then
    let s := s.modDev fun x => { x with
      upset := x.upset.set c ((x.upset[c]).setIfInBounds seg (misreadOf misread c seg))
      awaitRef := x.awaitRef.set c ((x.awaitRef[c]).setIfInBounds seg false)
      newRef := x.newRef.set c ((x.newRef[c]).setIfInBounds seg false) }
    setSegBit c CFG_STAT_FAULT seg false (setSegBit c CFG_STAT_ARMED seg true s)
  else if s.segBit c CFG_STAT_ARMED seg then setSegBit c CFG_STAT_MISMATCH seg (s.scanDiff misread c seg != 0) s
  else s

/-- The scan ends (R269). -/
def scanEnd (us : Nat) (misread : List (Fin 4 × Nat × Word)) (s : State) : State :=
  let s := s.setFld CFG_SCAN_INFO CFG_SCAN_INFO_LAST_US (min us 65535)
  allCabs.foldl (fun s c => (List.range 5).foldl (scanSegment misread c) s) s

/-- PRIVET_SCAN_END (R269). -/
def execPrivetScanEnd (t us : Nat) (ups : List Upset) (misread : List (Fin 4 × Nat × Word)) (s : State) :
    Host.Outcome State Fault Refusal :=
  .next (scanEnd us misread (ups.foldl applyUpset (s.reach t)))

/-- The axes that a permanent mismatch of a segment concerns: those of the cabinet with a part in hedge h, or all of the cabinet for
segment 4 (R315, R317). R270 names every axis of the device there, and each cabinet that scans segment 4 finds the mismatch
(DEDUCED, log). -/
def State.scanAxes (s : State) (c : Fin 4) (seg : Nat) : List (Fin 32) :=
  if seg < 4 then (s.axesOf c).filter fun a => s.inHedge a (finTile seg) else s.axesOf c

/-- One segment at the end of the rescan (R270). -/
def rescanSegment (misread : List (Fin 4 × Nat × Word)) (c : Fin 4) (s : State) (seg : Nat) : State :=
  if !s.segBit c CFG_STAT_ARMED seg || !s.segBit c CFG_STAT_MISMATCH seg then s
  else if s.scanDiff misread c seg = 0 then
    record .scanTransient 0 3 c [seg]
      (setSegBit c CFG_STAT_MISMATCH seg false (s.count CFG_SCAN_CNT CFG_SCAN_CNT_TRANSIENT))
  else
    let s := setSegBit c CFG_STAT_FAULT seg true (s.count CFG_SCAN_CNT CFG_SCAN_CNT_PERMANENT)
    raiseFaultAll 25 ⟨if seg < 4 then 3 else 5, if seg < 4 then seg else c.1⟩ seg (s.scanAxes c seg) (awaitReference c seg s)

/-- RESCAN_END (R270). -/
def execRescanEnd (t : Nat) (ups : List Upset) (misread : List (Fin 4 × Nat × Word)) (s : State) :
    Host.Outcome State Fault Refusal :=
  .next (allCabs.foldl (fun s c => (List.range 5).foldl (rescanSegment misread c) s) (ups.foldl applyUpset (s.reach t)))

end Sys2Proof.Machine
end

