-- ==== Sys2Proof/Machine/EngineBus.lean ====
section
/-! DEFINITION. The axis-bus accesses of the program engines (R203, R211, R212, R255). -/

namespace Sys2Proof.Machine

/-- The hedge of an engine; a recorder filter has none. -/
def hedgeOfEng (e : Fin 46) : Option Nat := if e.1 < 40 then some (e.1 / 10) else if e.1 < 44 then some (e.1 - 40) else none

/-- A register that the engine reaches without a crossing: an axis block whose slot lies in its hedge (R254). -/
def State.local (s : State) (e : Fin 46) (a : Nat) : Bool :=
  match blockOf a with
  | .axis x => hedgeOfEng e == some (s.slotOf x / 9)
  | _ => false

/-- The cycles of a read, and those until a posted write completes: 4 within the hedge, otherwise 20 and those of the crossing
(R203). -/
def State.readCycles (s : State) (e : Fin 46) (a cross : Nat) : Nat := if s.local e a then 4 else 20 + cross

/-- The candidate that a recorder filter runs on (R206, R211). -/
def State.candidateOf (s : State) (e : Fin 46) : Option Record :=
  (s.recorder.staging.find? fun x => x.filter == some e).map fun x => x.record

/-- A word of the axis bus as an engine reads it. -/
def State.engRead (s : State) (e : Fin 46) (a : Nat) : Word :=
  if 0x7FFF00 ≤ a then
    match s.candidateOf e with
    | some r => BitVec.ofNat 32 (leNat ((r.bytes.drop (a - 0x7FFF00)).take 4))
    | none => 0
  else s.view a

/-- An axis-bus address an engine may read (R204, R211). -/
def State.readOk (s : State) (e : Fin 46) (a : Nat) : Bool := a % 4 == 0 && s.engReads e a

/-- A register without a field that an engine may write, or of a block that no engine writes (R211). -/
def engNoWrite (a : Nat) : Bool :=
  (match blockOf a with | .global | .net | .recorder | .cabinet _ | .engine _ => true | _ => false) ||
  (regFields a != [] && !(regFields a).any fun f => f.ty == .rw || f.ty == .rs)

/-- An axis-bus address an engine may name in a write: one it may write, or one of its windows where the write is dropped
and counted (R211). -/
def State.writeOk (s : State) (e : Fin 46) (a : Nat) : Bool :=
  a % 4 == 0 && (s.engWrites e a || (s.engReads e a && engNoWrite a))

/-- A write of an engine: as a software write, or dropped and counted (R211, R212). One of an axis engine to slot parameters lands at
the next boundary (R20). -/
def engWrite (e : Fin 46) (a : Nat) (v : Word) (s : State) : State :=
  if !s.engWrites e a then lockViolation (.engine e) a v s
  else match blockOf a with
    | .axis _ => if engKind e = 0 then s.modEng e fun x => { x with due := x.due ++ [(a, v)] } else busWrite (.engine e) a v s
    | _ => busWrite (.engine e) a v s

/-- The writes of an axis engine to slot parameters land at a boundary (R20, R21). -/
def landEngWrites (e : Fin 46) (s : State) : State :=
  let l := (s.eng e).due
  l.foldl (fun s w => busWrite (.engine e) w.1 w.2 s) (s.modEng e fun x => { x with due := [] })

/-- The cycles for which the buffer of posted writes stalls a further one: none with room among 8, otherwise until the first of those
posted completes (R205, R212). -/
def stallCycles (l : List Nat) (c : Nat) : Nat :=
  let open_ := l.filter fun x => decide (c < x)
  if open_.length < 8 then 0 else open_.foldl min (open_.headD c) - c

/-- Writes posted from the present cycle on: each that finds the buffer full stalls the run, and the stalls count as cycles (R205,
R212). `n` writes, each completing after `len` cycles. -/
def postWrites (e : Fin 46) (len : Nat) : Nat → State → State
  | 0, s => s
  | n + 1, s =>
    let c := (s.eng e).cycles
    let c := c + stallCycles (s.eng e).posted c
    postWrites e len n (s.modEng e fun x => { x with cycles := c, posted := (x.posted.filter fun y => decide (c < y)) ++ [c + len] })

/-- The address ka + imm. -/
def State.busAddr (s : State) (e : Fin 46) (a : Fin 16) (imm : BitVec 18) : Nat := (s.kreg e a + immS imm).toNat

/-- ABRD (R203, R211); an access abandoned after its third attempt returns 0 (R255). -/
def execAbrd (e : Fin 46) (d a : Fin 16) (imm : BitVec 18) (cross : Nat) (lost : Bool) (s : State) :
    Host.Outcome State Fault Refusal :=
  .next (engExec e (wI 0x2C d a imm) (s.readCycles e (s.busAddr e a imm) cross) (fun s =>
    let addr := s.busAddr e a imm
    let s := settleFor s addr
    if s.readOk e addr then .ok (if lost then (regAbort s).setK e d 0 else s.setK e d (s.engRead e addr)) else .stop 5) s)

/-- ABRDP: a _LO register and the _HI word of the same instant (R203, R211, R255). -/
def execAbrdp (e : Fin 46) (d a : Fin 16) (imm : BitVec 18) (cross : Nat) (lost : Bool) (s : State) :
    Host.Outcome State Fault Refusal :=
  .next (engExec e (wI 0x2E d a imm) (s.readCycles e (s.busAddr e a imm) cross) (fun s =>
    let addr := s.busAddr e a imm
    if 14 < d.1 then .stop 2
    else if s.readOk e addr && s.readOk e (addr + 4) then
      let s := settleFor s addr
      .ok (if lost then ((regAbort s).setK e d 0).setK e (kAfter d 1) 0
        else (s.setK e d (s.engRead e addr)).setK e (kAfter d 1) (s.engRead e (addr + 4)))
    else .stop 5) s)

/-- ABWR, posted (R203, R211, R212); one abandoned after its third attempt is dropped (R255). -/
def execAbwr (e : Fin 46) (d a : Fin 16) (imm : BitVec 18) (cross : Nat) (lost : Bool) (s : State) :
    Host.Outcome State Fault Refusal :=
  .next (engExec e (wI 0x2D d a imm) 1 (fun s =>
    let addr := s.busAddr e a imm
    if s.writeOk e addr then
      let s := postWrites e (s.readCycles e addr cross) 1 s
      .ok (if lost then regAbort s else engWrite e addr (s.kreg e d) s)
    else .stop 5) s)

/-- ABWRP: k(d + 1) to the _HI register, then kd to the _LO register, which commits the pair (R203, R211, R212). -/
def execAbwrp (e : Fin 46) (d a : Fin 16) (imm : BitVec 18) (cross : Nat) (lost : Bool) (s : State) :
    Host.Outcome State Fault Refusal :=
  .next (engExec e (wI 0x2F d a imm) 2 (fun s =>
    let addr := s.busAddr e a imm
    if 14 < d.1 then .stop 2
    else if s.writeOk e addr && s.writeOk e (addr + 4) then
      let s := postWrites e (s.readCycles e addr cross) 2 s
      .ok (if lost then regAbort s
        else engWrite e addr (s.kreg e d) (engWrite e (addr + 4) (s.kreg e (kAfter d 1)) s))
    else .stop 5) s)

end Sys2Proof.Machine
end

