-- ==== Sys2Proof/Machine/Period.lean ====
section
/-! DEFINITION. The control period of a tile (spec/01): what ends with a period, step 1 of a boundary, the runs of the engines
and the evaluation of step 3; the routing of descriptors, failed attempts of crossings, and published samples. -/

namespace Sys2Proof.Machine

/-! ## Landing descriptors (R20, R64, R234) -/

/-- A descriptor for an axis lands at the last boundary, by its opcode (R248). -/
def landAxisDesc (d : Desc) (s : State) : State :=
  match d.opcode with
  | 0x01 => landMove d s
  | 0x02 => landVelocity d s
  | 0x03 => landStop d s
  | 0x04 => landEstop d s
  | 0x05 => landSetPos d s
  | 0x06 => landSetParam d s
  | 0x10 => landGearEngage d s
  | 0x11 => landGearArm d s
  | 0x12 => landGearRelease d s
  | 0x13 => landHome d s
  | 0x14 => landFollowStep d s
  | 0x30 => landMigrate d s
  | 0x31 => landProgLoad d s
  | 0x32 => landProgSwap d s
  | _ => complete d stREFUSED_OPCODE 0 (s.landOf d) s

/-- A descriptor for a cabinet lands, by its opcode (R248). -/
def landCabDesc (d : Desc) (s : State) : State :=
  match d.opcode with
  | 0x20 => landModePrepare d s
  | 0x21 => landModeCommit d s
  | 0x31 => landProgLoad d s
  | 0x32 => landProgSwap d s
  | 0x40 => landDiagOffstate d s
  | 0x41 => landAdcCal d s
  | 0x42 => landTraceStart d s
  | 0x43 => landTraceStop d s
  | 0x44 => landRecQuery d s
  | 0x45 => landRecFlush d s
  | 0x50 => landCfgCommit d s
  | _ => complete d stREFUSED_OPCODE 0 s.now s

/-- The tile at whose next boundary a descriptor for a cabinet lands: the clock tile of a trace, the tile of a converter, the
tile of a supervisor that swaps; none for those that land at once. -/
def State.cabTile (s : State) (d : Desc) : Option (Fin 4) :=
  let p := d.payload
  match d.opcode with
  | 0x42 => if payByte p 4 < 4 then some (finTile (payByte p 4)) else none
  | 0x43 => if payByte p 0 < 16 then ((s.ring d.cab (finRing (payByte p 0))).trace).map fun x => x.tile else none
  | 0x41 => if payByte p 0 < 4 then some (finTile (payByte p 0)) else none
  | 0x32 => if payByte p 0 = 1 ∧ payByte p 1 < 4 then some (finTile (payByte p 1)) else none
  | _ => none

/-- Descriptors of one ring with the cabinet as target. -/
def sameRing (d e : Desc) : Bool := d.engine.isNone && e.engine.isNone && d.cab == e.cab && d.ring == e.ring && e.kind != 0

/-- An earlier descriptor of the ring and target of `d` has not landed yet and does not land before it in the intake of tile `t`
(R235). -/
def State.ringAhead (s : State) (t : Option (Fin 4)) (d : Desc) : Bool :=
  (s.cab d.cab).waiting.any (fun e => sameRing d e.2) ||
  allTiles.any fun u => t != some u && (s.tile u).intake.any fun e => sameRing d e.2

/-- A descriptor for a cabinet reaches the hedge at an instant: the intake of the tile at whose boundary it lands, or its landing;
one whose ring and target have an earlier descriptor that lands later waits for it (R20, R235). -/
def deliverCab (x : Nat) (d : Desc) (s : State) : State :=
  let t := s.cabTile d
  if s.ringAhead t d then s.modCab d.cab fun c => { c with waiting := c.waiting ++ [(x, d)] }
  else match t with
    | some t => s.modTile t fun y => { y with intake := y.intake ++ [(x, d)] }
    | none => landCabDesc d s

/-- A descriptor reaches where it goes: the intake of its axis, or for a cabinet its landing (R20, R234, R236). -/
def deliver (d : Desc) (s : State) : State :=
  if d.kind = 0 then toIntake s.now d s else deliverCab s.now d s

/-- The descriptor first on its way from a ring is routed; where that fails in all three attempts it is ABANDONED (R236). -/
def routeNext (c : Fin 4) (n : Fin 16) (ok : Bool) (s : State) : State :=
  match (s.ring c n).toRoute with
  | [] => s
  | d :: rest =>
    let s := s.modRing c n fun r => { r with toRoute := rest }
    if ok then deliver d s
    else
      let s := record .routeFail 1 3 c [n.1, d.tag] (s.count HIF_GCNT HIF_GCNT_ROUTE_FAIL)
      complete d stABANDONED 0 s.now s

/-- DESCRIPTOR_ROUTE (R236). -/
def execDescriptorRoute (t : Nat) (c : Fin 4) (n : Fin 16) (ok : Bool) (s : State) : Host.Outcome State Fault Refusal :=
  .next (routeNext c n ok (s.reach t))

/-- The intake entries of an axis that reached the hedge before the cut-off of the period that ends land in their order
(R20, R234). -/
def consumeIntake (a : Fin 32) (s : State) : State :=
  let b := s.axB a
  let due := (s.axis a).intake.filter fun e => decide (e.1 + 500 < b)
  let s := s.modAxis a fun x => { x with intake := x.intake.filter fun e => !decide (e.1 + 500 < b) }
  due.foldl (fun s e => landAxisDesc e.2 s) s

/-- The first descriptors that waited in a cabinet go where they would have gone, once those ahead of them have landed at a boundary
of a tile: one for that tile that reached the hedge before the cut-off lands there too (R20, R235). -/
def releaseWaiting (t : Fin 4) (b : Nat) (s : State) (c : Fin 4) : State :=
  let l := (s.cab c).waiting
  let again (s : State) (e : Nat × Desc) : State :=
    if s.cabTile e.2 = some t ∧ e.1 + 500 < b ∧ !s.ringAhead none e.2 then landCabDesc e.2 s else deliverCab e.1 e.2 s
  l.foldl again (s.modCab c fun x => { x with waiting := [] })

/-- Descriptors with a cabinet target that reached the hedge of the tile before the cut-off land, and those that waited for them
(R20, R220, R235). -/
def consumeTile (t : Fin 4) (s : State) : State :=
  let b := s.boundary t
  let due := (s.tile t).intake.filter fun e => decide (e.1 + 500 < b)
  let s := s.modTile t fun x => { x with intake := x.intake.filter fun e => !decide (e.1 + 500 < b) }
  allCabs.foldl (releaseWaiting t b) (due.foldl (fun s e => landCabDesc e.2 s) s)

/-! ## Step 3: the slot (R49, R71, R83) -/

/-- The profile, the gearing or the step following of an axis evaluated for a sample instant, after the changes of the last
boundary have been planned (R49, R64, R79, R88). -/
def evaluate (t : Nat) (s : State) (a : Fin 32) : State :=
  let s := settlePlan a t s
  let st := s.axState a
  let s :=
    if st = axGEARED then sampleGear a t s
    else if st = axSTEPFOLLOW then sampleFollow a t s
    else if (s.gear a).engPend.isSome then sampleGear a t (sampleProfile a t s)
    else sampleProfile a t s
  settlePlan a t s

/-- The axes of a tile, each after the axis it follows (R71). -/
def State.evalOrder (s : State) (t : Fin 4) : List (Fin 32) :=
  (List.range 34).flatMap fun n => (tileAxes t).filter fun a => s.chainUp 33 a == n

/-- Step 3 of the running period for the sample instant that ends it, in dependency order; locks and episodes follow (R49,
R71, R92). The model carries step 3 out when its period ends, so that every change landed at its boundary is planned at once;
the virtual masters are those held when the step began (DESIGN CHOICE, log). -/
def slotCompute (t : Fin 4) (b : Nat) (s : State) : State :=
  let s := (s.evalOrder t).foldl (evaluate b) s
  (tileAxes t).foldl (fun s a => followEpisode a (lockWatch a (s.kinSampleAt a b).p s)) s

/-- A virtual master that an axis of the tile follows is evaluated for the sample instant of the period that begins, which may
find it stale (R40). -/
def evalMaster (t : Nat) (s : State) (a : Fin 32) : State :=
  let g := s.gear a
  let (kind, idx) := match g.engPend with
    | some r => (r.kind, r.idx)
    | none => (g.kind, g.idx)
  if kind = 1 ∧ (s.axState a = axGEARED ∨ g.engPend.isSome) then staleAt (Fin.ofNat 8 idx) t s else s

/-- Step 3 begins: the samples of the virtual masters that it uses are those held now (R39, R40). -/
def holdMasters (t : Fin 4) (s : State) : State :=
  let s := s.modTile t fun x => { x with vms := s.vms }
  (tileAxes t).foldl (evalMaster (s.boundary t + s.period t)) s

/-! ## The period that ends -/

/-- What was sampled at a port, nothing where none is given. -/
def tilePort (i : TileRead) (p : Nat) : PortRead := i.ports.getD p ⟨[], [], [], []⟩

/-- A switch of the port was held off by a lockout or a hard short in the period, which holds the integrator (R110). -/
def State.heldOffPort (s : State) (p : Fin 64) : Bool :=
  let g := s.gd p
  g.uvBoot.toArray.any (fun b => b) || g.uvRefresh.toArray.any (fun b => b) || g.rejoin.toArray.any (fun b => b) || g.shortLatch ||
  s.bit (GD_TSTAT (pT p)) GD_TSTAT_VGD_UV

/-- Step 2 of a port, and its comparators. -/
def endSample (i : TileRead) (s : State) (p : Fin 64) : State :=
  let x := tilePort i (pI p)
  let s := s.modLoop p fun l => { l with heldOff := l.heldOff || s.heldOffPort p }
  showComps p x.comps (measure p x s)

/-- Steps 3 and 6 of an axis for the samples of the period; where they did not reach the slot it takes no measurement
(R10). -/
def endSlot (i : TileRead) (s : State) (a : Fin 32) : State :=
  let lost := (s.obs a).lostSamples
  let x (b : Bool) : PortRead := if lost then ⟨[], [], [], []⟩ else tilePort i (pI (s.portOf a b))
  let s := observe a (x false) (x true) (s.modObs a fun o => { o with lostSamples := false })
  let keep (b : Bool) (s : State) : State := keepReads (s.portOf a b) (x b).bridge s
  slotRefs a (s.obs a).corr (keep true (keep false s))

/-- The mask in force on a port leaves a leg off the schedule (R110). -/
def State.maskHolds (s : State) (p : Fin 64) : Bool :=
  s.portState p = pRUN && !s.maskPasses p (s.fld (pwmStat p) PWM_STAT_MASK)

/-- The running period of a tile ends: samples, converters, observer, references, loops, gate drive. -/
def endPeriod (t : Fin 4) (i : TileRead) (s : State) : State :=
  let low := s.lowerSchedule t
  let s := accountSchedule t low i s
  let i := s.settled t low i
  let s := measureBus t i (vbusCheck t i ((tilePorts t).foldl (endSample i) s))
  let s := (tileAxes t).foldl (endSlot i) s
  let v := (s.tile t).vbusLast
  let s := followMissed t ((tilePorts t).foldl (fun s p => finishLoop p v s) s)
  (tilePorts t).foldl (fun s p => s.modLoop p fun l => { l with masked := s.maskHolds p }) s

/-! ## Step 1 -/

/-- The strobe of the boundary: FREEWHEEL and RUN of the hedge, and the boundaries without one (R15). -/
def strobeBoundary (t : Fin 4) (s : State) : State :=
  let x := s.tile t
  if x.strobe then s.modTile t fun x => { x with strobe := false, missRun := 0 }
  else
    let s := s.setBit GLB_HEDGE_STAT (GLB_HEDGE_STAT_FREEWHEEL t) true
    let s := if 1000 ≤ x.missRun + 1 then s.setBit GLB_HEDGE_STAT (GLB_HEDGE_STAT_RUN t) false else s
    s.modTile t fun x => { x with missRun := x.missRun + 1 }

/-- The boundary itself: its index, its instant and the period in force from it (R13). -/
def openBoundary (t : Fin 4) (k b period : Nat) (s : State) : State :=
  let s := s.setFld (LT_TILE_PERIOD t) LT_TILE_PERIOD_PERIOD_CLK (period / 5)
  let counts := s.encs.map fun e => e.x
  let good := Vector.ofFn fun (n : Fin 16) =>
    let old := (s.tile t).encGood[n]
    if s.bit (GLB_ENC_STAT n) GLB_ENC_STAT_SIG then ((b, (s.enc n).x) :: old).take 2 else old
  let s := s.modTile t fun x =>
    { x with k := k, lastB := b, realign := false, encX := counts, encGood := good, stepping := true }
  if (s.tile t).seen then s.setFld (LT_TILE_KIDX t) LT_TILE_KIDX_KIDX k else s

/-- A decided request of a peer is no longer held once no tile holds a request (R43). -/
def dropLanded (s : State) : State :=
  if allTiles.all fun t => (s.tile t).mode.isNone then s.modNet fun x => { x with peers := x.peers.filter fun p => !p.decided }
  else s

/-- A committed mode whose instant has come lands: MODE, event 9, and the banks of the axes (R46, R64, R209). -/
def modeBoundary (t : Fin 4) (s : State) : State :=
  match (s.tile t).mode with
  | none => s
  | some m =>
    if !m.committed || decide (s.boundary t < m.lc) then s
    else
      let was := s.tileMode t
      let s := dropLanded (freeMode t (s.setFld (LT_TILE_MODE t) LT_TILE_MODE_MODE m.mode))
      let s := (tileAxes t).foldl (fun s a => axisEvent a 9 m.mode s) s
      if was % 4 = m.mode % 4 then s else (tileAxes t).foldl (fun s a => bankSwitch a s) s

/-- The first differing word of the shadow comparison of an axis, if it differed (R297, R298). -/
def differsAt (i : TileIn) (a : Fin 32) : Option Nat := (i.differs.find? fun d => d.1 == a.1 % 8).map fun d => d.2

/-- What lands on the axes of a tile after the descriptors: timed gearing, limit stops, homing, observer, fences. -/
def axisBoundary (i : TileIn) (s : State) (a : Fin 32) : State :=
  migBoundary a (differsAt i a) (observerBoundary a (homeBoundary a (dueStop a (limitStop a (landGearTimed a s)))))

/-- Step 1 of a boundary in the order of R20 and R64. -/
def stepOne (t : Fin 4) (i : TileIn) (s : State) : State :=
  let s := (tilePorts t).foldl (fun s p => loopBoundary p s) s
  let s := (tileAxes t).foldl (fun s a => landEngWrites (s.engOf a) s) s
  let s := landPorts t (landEntries t s)
  let s := modeBoundary t s
  let s := (tileAxes t).foldl (fun s a => consumeIntake a s) (consumeTile t (startDeferred t s))
  let s := openSchedule t ((tileAxes t).foldl (axisBoundary i) s)
  (tilePorts t).foldl (fun s p => openPort p (buildPort p s)) s

/-! ## Step 5 -/

/-- The engines of a tile: those of its axes and its supervisor (R200). -/
def State.tileEngines (s : State) (t : Fin 4) : List (Fin 46) := (tileAxes t).map s.engOf ++ [supOf t]

/-! ## TRACE_CAPTURE -/

/-- TRACE_CAPTURE (R244): the ports whose registers it captures are shown as they are. -/
def execTraceCapture (c : Fin 4) (n : Fin 16) (s : State) : Host.Outcome State Fault Refusal :=
  .next (traceCapture c n ((((s.ring c n).trace.map fun r => r.signals).getD []).foldl settleFor s))

/-! ## TILE_BOUNDARY -/

/-- The tiles run: from INVENTORY on, but not in HALT (R271, R272). -/
def State.tilesRun (s : State) : Bool := dINVENTORY ≤ s.devState && s.devState != dHALT

/-- The ports of a tile as a boundary finds them, their pins followed up to 0.15 µs before it: a pulse across the coming valley may be
decided up to 0.4 µs before the boundary, from the loop's result, and its first edge comes to the pins DT/2 before its turn-on and
0.75 µs later (R19, R138; DESIGN CHOICE, log). -/
def settleBefore (b : Nat) (p : Fin 64) (s : State) : State := settleTo p ((b : Rat) - 150) (settleDue p s)
where
  /-- A partner whose entry to OFF has come first. -/
  settleDue (p : Fin 64) (s : State) : State :=
    match s.partner p with
    | some q => if q ≠ p ∧ s.offLanded q then settleTo q s.now s else s
    | none => s

/-- Boundary k of a tile (R13, R20): the running period ends with its samples and its step 3, step 1 lands, the engines begin
their runs, and step 3 of the new period takes the masters it uses. A boundary that is not later than the last one is none,
but where a step of line time realigns the tile. -/
def tileBoundary (t : Fin 4) (k : Nat) (i : TileIn) (s : State) : State :=
  let period := psel (s.fld (LT_TILE_PERIOD t) LT_TILE_PERIOD_PSEL)
  let b := k * period
  let x := s.tile t
  if !s.tilesRun || !(decide (x.lastB < b) || x.realign) then s
  else
    let s := (tilePorts t).foldl (fun s p => settleBefore b p s) (endSlew (s.reach b))
    let s := ofPeriod t b (fun s => (if x.lastB = 0 then id else endPeriod t (tileRead i)) (slotCompute t b s)) s
    let s := stepOne t i (openBoundary t k b period (strobeBoundary t s))
    let s := (s.tileEngines t).foldl (fun s e => engBoundary k e s) s
    holdMasters t (s.modTile t fun x => { x with stepping := false })

/-- TILE_BOUNDARY (R20). -/
def execTileBoundary (t : Fin 4) (k : Nat) (i : TileIn) (s : State) : Host.Outcome State Fault Refusal :=
  .next (tileBoundary t k i s)

/-! ## Failed attempts of crossings (R10, R255, R299) -/

/-- An access of a host function is abandoned: a read completes with Completer Abort, a write is dropped (R255). -/
def abandonAccess (reader : Option (Fin 4)) (s : State) : State :=
  match reader with
  | some c => (regAbort s).emit (.abort c)
  | none => regAbort s

/-- What the waiting side does once the third attempt has failed (R10). -/
def abandonXing (x : XTraffic) (s : State) : State :=
  match x with
  | .results p => missResults p s
  | .samples a => s.modObs a fun o => { o with lostSamples := true }
  | .register reader => abandonAccess reader s
  | .route c n => routeNext c n false s
  | .result a =>
    match (s.axis a).intake with
    | [] => s
    | e :: es =>
      (s.modAxis a fun y => { y with intake := (e.1, { e.2 with unconfirmed := true }) :: es }).count HIF_GCNT
        HIF_GCNT_ROUTE_FAIL
  | .tileResult t =>
    match (s.tile t).intake with
    | [] => s
    | e :: es =>
      (s.modTile t fun y => { y with intake := (e.1, { e.2 with unconfirmed := true }) :: es }).count HIF_GCNT
        HIF_GCNT_ROUTE_FAIL
  | .record =>
    match s.recorder.transit with
    | [] => s
    | r :: rs => loseCandidate r (s.modRec fun y => { y with transit := rs })
  | .strobe t => s.modTile t fun y => { y with strobe := false }
  | .late _ _ => s
  | .other => s

/-- The traffic as a record of a crossing names it (DESIGN CHOICE, log). -/
def xingCode : XTraffic → Nat
  | .results _ => 0
  | .samples _ => 1
  | .register _ => 2
  | .route _ _ => 3
  | .result _ => 4
  | .tileResult _ => 5
  | .record => 6
  | .strobe _ => 7
  | .late _ _ => 8
  | .other => 9

/-- Abandoned traffic whose own outcome writes a record: a register access, a routing, a lost record (R10, R236, R255). -/
def xingHasRecord : XTraffic → Bool
  | .register _ => true
  | .route _ _ => true
  | .record => true
  | _ => false

/-- The record of a failed attempt: information while it is retried, a warning once the transfer is abandoned (R319). -/
def xingRecord (hedge : Option (Fin 4)) (x : XTraffic) (third : Bool) (s : State) : State :=
  let h : Nat := match hedge with | some h => h.1 | none => 4
  if !third then record .crossingRetry 0 4 0 [h, xingCode x] s
  else if xingHasRecord x then s else record .crossingAbandoned 1 4 0 [h, xingCode x] s

/-- A result or write of an old placement whose retry brings it after the fence is discarded and counted (R299). -/
def lateArrives (x : XTraffic) (third : Bool) (s : State) : State :=
  match x with
  | .late a arrives => if arrives ∧ !third ∧ (s.axis a).fenceAt.isSome then s.count (MP_MIG_CNT a) MP_MIG_CNT_LATE else s
  | _ => s

/-- A failed attempt: counted at its hedge, or among the crossings without one; the third abandons the transfer (R10, R299, R319). -/
def xingFail (hedge : Option (Fin 4)) (x : XTraffic) (third : Bool) (s : State) : State :=
  let s := match hedge with
    | some h => s.count (GLB_XING_CNT h) GLB_XING_CNT_RETRY
    | none =>
      let s := s.count GLB_XING_HCNT GLB_XING_HCNT_RETRY
      if third then s.count GLB_XING_HCNT GLB_XING_HCNT_LOST else s
  let s := lateArrives x third (xingRecord hedge x third s)
  if third then abandonXing x s else s

/-- CROSSING_ATTEMPT_FAIL (R10). -/
def execCrossingAttemptFail (t : Nat) (hedge : Option (Fin 4)) (x : XTraffic) (third : Bool) (s : State) :
    Host.Outcome State Fault Refusal :=
  .next (xingFail hedge x third (s.reach t))

/-! ## Published samples (R37, R41) -/

/-- The value of a published channel at an instant: the commanded position of an axis, evaluated exactly, or the count of an
encoder port. -/
def State.pubValue (s : State) (n : Fin 8) (t : Nat) : Int :=
  let r := NET_PUB_CFG n
  let i := s.fld r NET_PUB_CFG_INDEX
  if s.bit r NET_PUB_CFG_KIND then (s.enc (Fin.ofNat 16 i)).x else s.posNow (finAx i) t

/-- One sample of a published channel: an entry of a virtual-master frame with the next sequence number of the channel. The
manual does not say when a source sets RESTART, or clears VALID, so those flags are free. -/
def publish (n : Fin 8) (t : Nat) (s : State) : State :=
  let r := NET_PUB_CFG n
  if !s.bit r NET_PUB_CFG_EN || !s.mayTalk || t % ivlNs (s.fld r NET_PUB_CFG_IVL) != 0 then s
  else
    let s := followVersion s
    let seq := s.net.pubSeq.toArray.getD n 0
    let tq := if s.fld NET_LF_VER NET_LF_VER_USED = 2 then s.quality else 0
    let valid := Config.freeBool s.freeCtr
    let restart := Config.freeBool (s.freeCtr + 1)
    let v := s.pubValue n t
    let flags := (if valid then 1 else 0) + (if restart then 2 else 0) + 4 * tq
    let s := s.fresh.fresh.modNet fun x => { x with pubSeq := x.pubSeq.setIfInBounds n ((seq + 1) % 65536) }
    sendLine 2 1 [(s.fld r NET_PUB_CFG_CHAN : Int), flags, seq, t, v] s

/-- PUBLISH_SAMPLE (R41). -/
def execPublishSample (t : Nat) (n : Fin 8) (s : State) : Host.Outcome State Fault Refusal :=
  .next (publish n t (s.reach t))

end Sys2Proof.Machine
end

