-- ==== Sys2Proof/Machine/Dispatch.lean ====
section
/-! DEFINITION. Every command and its meaning, one arm for each constructor of `Instr`. -/

namespace Sys2Proof.Machine

def exec (i : Instr) (s : State) : Host.Outcome State Fault Refusal :=
  match i with
  | .nop d => Sys2Proof.Machine.execNop d s
  | .move d => Sys2Proof.Machine.execMove d s
  | .velocity d => Sys2Proof.Machine.execVelocity d s
  | .stop d => Sys2Proof.Machine.execStop d s
  | .estop d => Sys2Proof.Machine.execEstop d s
  | .setPos d => Sys2Proof.Machine.execSetPos d s
  | .setParam d => Sys2Proof.Machine.execSetParam d s
  | .gearEngage d => Sys2Proof.Machine.execGearEngage d s
  | .gearArm d => Sys2Proof.Machine.execGearArm d s
  | .gearRelease d => Sys2Proof.Machine.execGearRelease d s
  | .home d => Sys2Proof.Machine.execHome d s
  | .followStep d => Sys2Proof.Machine.execFollowStep d s
  | .modePrepare d => Sys2Proof.Machine.execModePrepare d s
  | .modeCommit d => Sys2Proof.Machine.execModeCommit d s
  | .migrate d => Sys2Proof.Machine.execMigrate d s
  | .progLoad d => Sys2Proof.Machine.execProgLoad d s
  | .progSwap d => Sys2Proof.Machine.execProgSwap d s
  | .diagOffstate d => Sys2Proof.Machine.execDiagOffstate d s
  | .adcCal d => Sys2Proof.Machine.execAdcCal d s
  | .traceStart d => Sys2Proof.Machine.execTraceStart d s
  | .traceStop d => Sys2Proof.Machine.execTraceStop d s
  | .recQuery d => Sys2Proof.Machine.execRecQuery d s
  | .recFlush d => Sys2Proof.Machine.execRecFlush d s
  | .cfgCommit d => Sys2Proof.Machine.execCfgCommit d s
  | .doorbellWrite t c off v size => Sys2Proof.Machine.execDoorbellWrite t c off v size s
  | .doorbellMergeTake t c => Sys2Proof.Machine.execDoorbellMergeTake t c s
  | .descriptorFetch t c n => Sys2Proof.Machine.execDescriptorFetch t c n s
  | .fetchComplete t c n ds image => Sys2Proof.Machine.execFetchComplete t c n ds image s
  | .hostReadRetry t x => Sys2Proof.Machine.execHostReadRetry t x s
  | .descriptorAccept t c => Sys2Proof.Machine.execDescriptorAccept t c s
  | .descriptorRoute t c n ok => Sys2Proof.Machine.execDescriptorRoute t c n ok s
  | .msixModerationExpiry t c n => Sys2Proof.Machine.execMsixModerationExpiry t c n s
  | .msixVectorUnmask t c off v size => Sys2Proof.Machine.execMsixVectorUnmask t c off v size s
  | .ringEnable t c n => Sys2Proof.Machine.execRingEnable t c n s
  | .ringDisable t c n => Sys2Proof.Machine.execRingDisable t c n s
  | .ringDrainEnd t c n => Sys2Proof.Machine.execRingDrainEnd t c n s
  | .cabinetWdogKick t c => Sys2Proof.Machine.execCabinetWdogKick t c s
  | .cabinetWdogExpiry t c => Sys2Proof.Machine.execCabinetWdogExpiry t c s
  | .functionLevelReset t c => Sys2Proof.Machine.execFunctionLevelReset t c s
  | .d3hotEntry t c => Sys2Proof.Machine.execD3hotEntry t c s
  | .hotReset t h linkDown => Sys2Proof.Machine.execHotReset t h linkDown s
  | .traceCapture c n => Sys2Proof.Machine.execTraceCapture c n s
  | .registerWrite t w a v size => Sys2Proof.Machine.execRegisterWrite t w a v size s
  | .crossingAttemptFail t hedge x third => Sys2Proof.Machine.execCrossingAttemptFail t hedge x third s
  | .mpCmdPosWrite t w a v => Sys2Proof.Machine.execMpCmdPosWrite t w a v s
  | .loadAll time w t byTime => Sys2Proof.Machine.execLoadAll time w t byTime s
  | .adcInjGo time w t x => Sys2Proof.Machine.execAdcInjGo time w t x s
  | .adcInjCmpTrigger time t x raw => Sys2Proof.Machine.execAdcInjCmpTrigger time t x raw s
  | .cmpWchkReq time w t j => Sys2Proof.Machine.execCmpWchkReq time w t j s
  | .engHostevSet t c e param => Sys2Proof.Machine.execEngHostevSet t c e param s
  | .glbRecovGo t c len => Sys2Proof.Machine.execGlbRecovGo t c len s
  | .recoveryImageChecked t f => Sys2Proof.Machine.execRecoveryImageChecked t f s
  | .glbFwupGo t c setpref len => Sys2Proof.Machine.execGlbFwupGo t c setpref len s
  | .fwupComplete t f flashOk reads => Sys2Proof.Machine.execFwupComplete t f flashOk reads s
  | .recRdGo t c area piece => Sys2Proof.Machine.execRecRdGo t c area piece s
  | .recRdLookupDone t => Sys2Proof.Machine.execRecRdLookupDone t s
  | .idAccGo time w t dev off => Sys2Proof.Machine.execIdAccGo time w t dev off s
  | .idAccDone time t tries => Sys2Proof.Machine.execIdAccDone time t tries s
  | .globalLock t c => Sys2Proof.Machine.execGlobalLock t c s
  | .cfgLock t c => Sys2Proof.Machine.execCfgLock t c s
  | .cfgXbarCommit time w t v => Sys2Proof.Machine.execCfgXbarCommit time w t v s
  | .encModeWrite t c n mode => Sys2Proof.Machine.execEncModeWrite t c n mode s
  | .tileBoundary t k inp => Sys2Proof.Machine.execTileBoundary t k inp s
  | .armed e => Sys2Proof.Machine.execArmed e s
  | .precopyEnd t a => Sys2Proof.Machine.execPrecopyEnd t a s
  | .missedResults t p => Sys2Proof.Machine.execMissedResults t p s
  | .missedResultsHold t p => Sys2Proof.Machine.execMissedResultsHold t p s
  | .periodStrobe time t ofs => Sys2Proof.Machine.execPeriodStrobe time t ofs s
  | .strobeLossFault t => Sys2Proof.Machine.execStrobeLossFault t s
  | .pathDelayEcho time t ns => Sys2Proof.Machine.execPathDelayEcho time t ns s
  | .syncReceive x => Sys2Proof.Machine.execSyncReceive x s
  | .announceReceive t port seq domain vec logIvl => Sys2Proof.Machine.execAnnounceReceive t port seq domain vec logIvl s
  | .syncTimeout t => Sys2Proof.Machine.execSyncTimeout t s
  | .announceTimeout t => Sys2Proof.Machine.execAnnounceTimeout t s
  | .holdoverLimit t => Sys2Proof.Machine.execHoldoverLimit t s
  | .deferredStep t => Sys2Proof.Machine.execDeferredStep t s
  | .frameForward t n f => Sys2Proof.Machine.execFrameForward t n f s
  | .heartbeatTx t => Sys2Proof.Machine.execHeartbeatTx t s
  | .heartbeatReceive t n h b => Sys2Proof.Machine.execHeartbeatReceive t n h b s
  | .heartbeatTimeout t src => Sys2Proof.Machine.execHeartbeatTimeout t src s
  | .ringKeeperOpen t => Sys2Proof.Machine.execRingKeeperOpen t s
  | .vmSamplesReceive t n h es => Sys2Proof.Machine.execVmSamplesReceive t n h es s
  | .vmStale t v => Sys2Proof.Machine.execVmStale t v s
  | .grMasterLost t a => Sys2Proof.Machine.execGrMasterLost t a s
  | .publishSample t n => Sys2Proof.Machine.execPublishSample t n s
  | .modePrepareFrame t n h id orig mode lc ld => Sys2Proof.Machine.execModePrepareFrame t n h id orig mode lc ld s
  | .modeAckFrame t n h id orig result => Sys2Proof.Machine.execModeAckFrame t n h id orig result s
  | .modeDecisionFrame t n h id orig decision => Sys2Proof.Machine.execModeDecisionFrame t n h id orig decision s
  | .ackDeadline t => Sys2Proof.Machine.execAckDeadline t s
  | .commitDeadline t => Sys2Proof.Machine.execCommitDeadline t s
  | .decisionRepeat t => Sys2Proof.Machine.execDecisionRepeat t s
  | .modeUndecided t => Sys2Proof.Machine.execModeUndecided t s
  | .modeOutcome t => Sys2Proof.Machine.execModeOutcome t s
  | .stepPulse t a high dir short held => Sys2Proof.Machine.execStepPulse t a high dir short held s
  | .homeInputChange t a raw => Sys2Proof.Machine.execHomeInputChange t a raw s
  | .limitHit t a neg raw => Sys2Proof.Machine.execLimitHit t a neg raw s
  | .homingTimeout t a => Sys2Proof.Machine.execHomingTimeout t a s
  | .stall t a => Sys2Proof.Machine.execStall t a s
  | .obSlip t a => Sys2Proof.Machine.execObSlip t a s
  | .weak t a => Sys2Proof.Machine.execWeak t a s
  | .estimateTimeout t a => Sys2Proof.Machine.execEstimateTimeout t a s
  | .commutationEvent t a code => Sys2Proof.Machine.execCommutationEvent t a code s
  | .crOverrange t p => Sys2Proof.Machine.execCrOverrange t p s
  | .crNosample t p => Sys2Proof.Machine.execCrNosample t p s
  | .carrierStart t p => Sys2Proof.Machine.execCarrierStart t p s
  | .cycleTrip t p low raw => Sys2Proof.Machine.execCycleTrip t p low raw s
  | .pwmTripLatch t p => Sys2Proof.Machine.execPwmTripLatch t p s
  | .tripCntClear t p => Sys2Proof.Machine.execTripCntClear t p s
  | .switchNodeCrossing u p b rising => Sys2Proof.Machine.execSwitchNodeCrossing u p b rising s
  | .gdAdaptLim t p => Sys2Proof.Machine.execGdAdaptLim t p s
  | .bootstrapLow t p l low => Sys2Proof.Machine.execBootstrapLow t p l low s
  | .refreshPulse t p l above => Sys2Proof.Machine.execRefreshPulse t p l above s
  | .refreshFailLockout t p l => Sys2Proof.Machine.execRefreshFailLockout t p l s
  | .uvloEntry t p x => Sys2Proof.Machine.execUvloEntry t p x s
  | .uvloExit t p x => Sys2Proof.Machine.execUvloExit t p x s
  | .gdBootUv t p lock => Sys2Proof.Machine.execGdBootUv t p lock s
  | .hardShort t p b => Sys2Proof.Machine.execHardShort t p b s
  | .desaturation t p sw raw => Sys2Proof.Machine.execDesaturation t p sw raw s
  | .diagStepEnd time t va vb => Sys2Proof.Machine.execDiagStepEnd time t va vb s
  | .selfCheckStepEnd t c normal raw => Sys2Proof.Machine.execSelfCheckStepEnd t c normal raw s
  | .window time t j rawH rawL => Sys2Proof.Machine.execWindow time t j rawH rawL s
  | .seqEntryTrigger time t x e raw => Sys2Proof.Machine.execSeqEntryTrigger time t x e raw s
  | .calSlotEnd time t x gain offset bg => Sys2Proof.Machine.execCalSlotEnd time t x gain offset bg s
  | .adcLost time t => Sys2Proof.Machine.execAdcLost time t s
  | .fgcalEnd time t x cal bg => Sys2Proof.Machine.execFgcalEnd time t x cal bg s
  | .forcedYield e => Sys2Proof.Machine.execForcedYield e s
  | .engWdog e => Sys2Proof.Machine.execEngWdog e s
  | .waitTimeout e d a imm => Sys2Proof.Machine.execWaitTimeout e d a imm s
  | .engNop e => Sys2Proof.Machine.execEngNop e s
  | .add e d a b => Sys2Proof.Machine.execAdd e d a b s
  | .sub e d a b => Sys2Proof.Machine.execSub e d a b s
  | .and e d a b => Sys2Proof.Machine.execAnd e d a b s
  | .or e d a b => Sys2Proof.Machine.execOr e d a b s
  | .xor e d a b => Sys2Proof.Machine.execXor e d a b s
  | .shl e d a b => Sys2Proof.Machine.execShl e d a b s
  | .shr e d a b => Sys2Proof.Machine.execShr e d a b s
  | .sar e d a b => Sys2Proof.Machine.execSar e d a b s
  | .mul e d a b => Sys2Proof.Machine.execMul e d a b s
  | .mulh e d a b => Sys2Proof.Machine.execMulh e d a b s
  | .div e d a b => Sys2Proof.Machine.execDiv e d a b s
  | .rem e d a b => Sys2Proof.Machine.execRem e d a b s
  | .sltu e d a b => Sys2Proof.Machine.execSltu e d a b s
  | .addi e d a imm => Sys2Proof.Machine.execAddi e d a imm s
  | .andi e d a imm => Sys2Proof.Machine.execAndi e d a imm s
  | .ori e d a imm => Sys2Proof.Machine.execOri e d a imm s
  | .xori e d a imm => Sys2Proof.Machine.execXori e d a imm s
  | .shli e d a imm => Sys2Proof.Machine.execShli e d a imm s
  | .shri e d a imm => Sys2Proof.Machine.execShri e d a imm s
  | .sari e d a imm => Sys2Proof.Machine.execSari e d a imm s
  | .lui e d imm => Sys2Proof.Machine.execLui e d imm s
  | .ld e d a imm => Sys2Proof.Machine.execLd e d a imm s
  | .st e d a imm => Sys2Proof.Machine.execSt e d a imm s
  | .beq e a b off => Sys2Proof.Machine.execBeq e a b off s
  | .bne e a b off => Sys2Proof.Machine.execBne e a b off s
  | .blt e a b off => Sys2Proof.Machine.execBlt e a b off s
  | .bge e a b off => Sys2Proof.Machine.execBge e a b off s
  | .bltu e a b off => Sys2Proof.Machine.execBltu e a b off s
  | .bgeu e a b off => Sys2Proof.Machine.execBgeu e a b off s
  | .jmp e off => Sys2Proof.Machine.execJmp e off s
  | .call e off => Sys2Proof.Machine.execCall e off s
  | .ret e => Sys2Proof.Machine.execRet e s
  | .abrd e d a imm cross lost => Sys2Proof.Machine.execAbrd e d a imm cross lost s
  | .abwr e d a imm cross lost => Sys2Proof.Machine.execAbwr e d a imm cross lost s
  | .abrdp e d a imm cross lost => Sys2Proof.Machine.execAbrdp e d a imm cross lost s
  | .abwrp e d a imm cross lost => Sys2Proof.Machine.execAbwrp e d a imm cross lost s
  | .wait e d a imm => Sys2Proof.Machine.execWait e d a imm s
  | .yield e => Sys2Proof.Machine.execYield e s
  | .arm e d a imm => Sys2Proof.Machine.execArm e d a imm s
  | .emit e d a b sev code => Sys2Proof.Machine.execEmit e d a b sev code s
  | .cmd e d a imm => Sys2Proof.Machine.execCmd e d a imm s
  | .time e d imm a => Sys2Proof.Machine.execTime e d imm a s
  | .signal e d a imm => Sys2Proof.Machine.execSignal e d a imm s
  | .react e d a imm => Sys2Proof.Machine.execReact e d a imm s
  | .verdict e d a imm => Sys2Proof.Machine.execVerdict e d a imm s
  | .halt e => Sys2Proof.Machine.execHalt e s
  | .recordCandidate t => Sys2Proof.Machine.execRecordCandidate t s
  | .recorderFilterRun t => Sys2Proof.Machine.execRecorderFilterRun t s
  | .lostEvents t => Sys2Proof.Machine.execLostEvents t s
  | .flushStart t fs => Sys2Proof.Machine.execFlushStart t fs s
  | .flushEnd t => Sys2Proof.Machine.execFlushEnd t s
  | .exportEntry t c n bad fs => Sys2Proof.Machine.execExportEntry t c n bad fs s
  | .journalEccError t off unreadable fs => Sys2Proof.Machine.execJournalEccError t off unreadable fs s
  | .pfailFall t low => Sys2Proof.Machine.execPfailFall t low s
  | .pfailRise t => Sys2Proof.Machine.execPfailRise t s
  | .rtcSet t => Sys2Proof.Machine.execRtcSet t s
  | .vbakLow t => Sys2Proof.Machine.execVbakLow t s
  | .powerOnTimer t vhold fs => Sys2Proof.Machine.execPowerOnTimer t vhold fs s
  | .resetNFall t low => Sys2Proof.Machine.execResetNFall t low s
  | .supplyLoss t => Sys2Proof.Machine.execSupplyLoss t s
  | .vholdLow t => Sys2Proof.Machine.execVholdLow t s
  | .imageChecked t refclk drawer a b readsA readsB => Sys2Proof.Machine.execImageChecked t refclk drawer a b readsA readsB s
  | .identityReadDone time t m tries sdaLow => Sys2Proof.Machine.execIdentityReadDone time t m tries sdaLow s
  | .inventoryDone t libBad => Sys2Proof.Machine.execInventoryDone t libBad s
  | .diagStateEnd t => Sys2Proof.Machine.execDiagStateEnd t s
  | .reactionLand t a => Sys2Proof.Machine.execReactionLand t a s
  | .faultReport t a => Sys2Proof.Machine.execFaultReport t a s
  | .episodeEnd t a => Sys2Proof.Machine.execEpisodeEnd t a s
  | .slotHwFault t x f => Sys2Proof.Machine.execSlotHwFault t x f s
  | .preventiveRepair t x n => Sys2Proof.Machine.execPreventiveRepair t x n s
  | .supervisorFault t e => Sys2Proof.Machine.execSupervisorFault t e s
  | .hostCrit t => Sys2Proof.Machine.execHostCrit t s
  | .recCrit t fs => Sys2Proof.Machine.execRecCrit t fs s
  | .privetScanEnd t us ups misread => Sys2Proof.Machine.execPrivetScanEnd t us ups misread s
  | .rescanEnd t ups misread => Sys2Proof.Machine.execRescanEnd t ups misread s
  | .paritySweep time t ups => Sys2Proof.Machine.execParitySweep time t ups s
  | .encZEdge t n raw => Sys2Proof.Machine.execEncZEdge t n raw s
  | .ssiFrame t n raw first last => Sys2Proof.Machine.execSsiFrame t n raw first last s
  | .encSignalError t n => Sys2Proof.Machine.execEncSignalError t n s
  | .encFaultClear t n => Sys2Proof.Machine.execEncFaultClear t n s
  | .netPortSelfTestFail t n => Sys2Proof.Machine.execNetPortSelfTestFail t n s
  | .limitInactive t a neg raw => Sys2Proof.Machine.execLimitInactive t a neg raw s
  | .quadratureEdge t n rawA rawB => Sys2Proof.Machine.execQuadratureEdge t n rawA rawB s
  | .injectedConversionDone time t x raw => Sys2Proof.Machine.execInjectedConversionDone time t x raw s
  | .delayResponseReceive t port peer domain t1 t2 t3 t4 corr => Sys2Proof.Machine.execDelayResponseReceive t port peer domain t1 t2 t3 t4 corr s
  | .networkLinkChange t n up => Sys2Proof.Machine.execNetworkLinkChange t n up s
  | .pcieLinkUp t h width speed l0 => Sys2Proof.Machine.execPcieLinkUp t h width speed l0 s
  | .undefinedOpcode e w => Sys2Proof.Machine.execUndefinedOpcode e w s
  | .spareFillEnd t a => Sys2Proof.Machine.execSpareFillEnd t a s

end Sys2Proof.Machine
end

