-- ==== Sys2Proof/Safety.lean ====
section
/-! DEFINITION. What counts as a sound state and as a safe port, in the terms the statements use. -/

/-- A descriptor came over a ring and its result can return, so that its completion tells its status (R233, R236). -/
def Sys2Proof.Desc.plain (d : Sys2Proof.Desc) : Prop :=
  d.engine = none ∧ d.unconfirmed = false ∧ d.muted = false

namespace Sys2Proof.Machine

/-- The canonical form of a data memory of an engine: word indices strictly rising, no word of 0 listed. -/
def memWf (l : List (Nat × Word)) : Bool := fileSorted l && l.all fun c => c.2 != 0

/-- The data memories of an engine are in canonical form. -/
def Engine.memsWf (x : Engine) : Bool := memWf x.data[0] && memWf x.data[1]

/-- The register files and every data memory of a state are in canonical form, so that equal contents are equal data. -/
def State.wf (s : State) : Prop :=
  fileWf s.regs = true ∧ fileWf s.inForce = true ∧ ∀ e : Fin 46, (s.eng e).memsWf = true

/-- No gate output of the port is driven: it is neither ARMED nor in RUN (R144, R347). -/
def State.portSafe (s : State) (p : Fin 64) : Prop := s.portState p ≠ pARMED ∧ s.portState p ≠ pRUN

/-! ## What a command does and what it leaves alone -/

/-- A command completes: it answers a next state, and `P` holds of it. -/
def Runs (c : Instr) (s : State) (P : State → Prop) : Prop := ∃ t, exec c s = .next t ∧ P t

/-- The block sends `o` on the way from `s` to `t`. -/
def Sends (s t : State) (o : Out) : Prop := ∃ l, t.out = l ++ s.out ∧ o ∈ l

/-- The status of a descriptor is decided on the way from `s` to `t`: the completion of R237 but for its ring position. -/
def Answers (d : Desc) (st flags land : Nat) (s t : State) : Prop :=
  Sends s t (.status d.cab d.ring d.tag d.opcode d.target st flags land)

/-- A record of a code and a source sets out for the recorder on the way from `s` to `t` (R326). -/
def Logs (s t : State) (code : RecCode) (kind idx : Nat) : Prop :=
  ∃ l, t.recorder.transit = s.recorder.transit ++ l ∧ ∃ r ∈ l, r.code = code ∧ r.kind = kind ∧ r.idx = idx

/-- A fault of a class is raised against an axis on the way from `s` to `t`: its record sets out (R314). -/
def Faults (s t : State) (cls : Nat) (a : Fin 32) : Prop := Logs s t (.dev (.fault cls)) 0 a.1

/-- A saturating counter counts once on the way from `s` to `t` (R260). -/
def Counts (s t : State) (a : Nat) (f : Fld) : Prop := t.fld a f = min (s.fld a f + 1) (2 ^ f.width - 1)

/-- The parts of a state beside its queue of commands. -/
inductive Part where
  | now | freeCtr | regs | inForce | late | written | held | axes | ports | tiles | engines | encs | net | vms | cabs
  | recorder | dev | out
  deriving DecidableEq, Repr

/-- A part is the same in two states. -/
def Part.same (p : Part) (s t : State) : Prop :=
  match p with
  | .now => t.now = s.now
  | .freeCtr => t.freeCtr = s.freeCtr
  | .regs => t.regs = s.regs
  | .inForce => t.inForce = s.inForce
  | .late => t.late = s.late
  | .written => t.written = s.written
  | .held => t.held = s.held
  | .axes => t.axes = s.axes
  | .ports => t.ports = s.ports
  | .tiles => t.tiles = s.tiles
  | .engines => t.engines = s.engines
  | .encs => t.encs = s.encs
  | .net => t.net = s.net
  | .vms => t.vms = s.vms
  | .cabs => t.cabs = s.cabs
  | .recorder => t.recorder = s.recorder
  | .dev => t.dev = s.dev
  | .out => t.out = s.out

/-- Nothing but the listed parts changes from `s` to `t`. -/
def Touches (ps : List Part) (s t : State) : Prop := t.pending = s.pending ∧ ∀ p, p ∉ ps → p.same s t

/-- The parts of a state that a command may change. -/
def partsOf (c : Instr) : List Part :=
  match c with
  | .nop _ | .traceStart _ | .traceStop _ | .recFlush _ =>
    [.now, .regs, .engines, .cabs, .out]
  | .move _ | .velocity _ | .stop _ | .estop _ | .gearEngage _ | .gearRelease _ | .home _ | .followStep _ | .progSwap _
  | .limitHit _ _ _ _ | .homingTimeout _ _ | .limitInactive _ _ _ _ =>
    [.now, .regs, .axes, .engines, .cabs, .recorder, .out]
  | .setPos _ | .setParam _ | .gearArm _ | .migrate _ | .progLoad _ =>
    [.now, .regs, .axes, .engines, .cabs, .out]
  | .modePrepare _ | .modeCommit _ =>
    [.now, .regs, .tiles, .engines, .net, .cabs, .out]
  | .diagOffstate _ | .selfCheckStepEnd _ _ _ _ =>
    [.now, .freeCtr, .regs, .axes, .ports, .tiles, .engines, .cabs, .recorder, .dev, .out]
  | .adcCal _ =>
    [.now, .regs, .tiles, .engines, .cabs, .out]
  | .recQuery _ =>
    [.now, .regs, .engines, .cabs, .recorder, .out]
  | .cfgCommit _ | .supervisorFault _ _ =>
    [.now, .regs, .engines, .cabs, .recorder, .dev, .out]
  | .doorbellWrite _ _ _ _ _ | .ringDisable _ _ _ | .vmStale _ _ =>
    [.now, .regs, .cabs, .recorder, .out]
  | .doorbellMergeTake _ _ =>
    [.now, .regs, .cabs, .recorder]
  | .descriptorFetch _ _ _ | .msixModerationExpiry _ _ _ | .msixVectorUnmask _ _ _ _ _ =>
    [.now, .cabs, .out]
  | .fetchComplete _ _ _ _ _ =>
    [.now, .regs, .cabs, .out]
  | .hostReadRetry _ _ =>
    [.now, .regs, .cabs, .recorder, .dev, .out]
  | .descriptorAccept _ _ =>
    [.now, .regs, .tiles, .engines, .net, .cabs, .dev, .out]
  | .descriptorRoute _ _ _ _ | .crossingAttemptFail _ _ _ _ =>
    [.now, .freeCtr, .regs, .axes, .ports, .tiles, .engines, .net, .cabs, .recorder, .dev, .out]
  | .ringEnable _ _ _ | .ringDrainEnd _ _ _ | .cabinetWdogKick _ _ =>
    [.now, .regs, .cabs]
  | .cabinetWdogExpiry _ _ | .missedResultsHold _ _ | .holdoverLimit _ | .grMasterLost _ _ | .commutationEvent _ _ _
  | .carrierStart _ _ | .pwmTripLatch _ _ | .tripCntClear _ _ | .gdAdaptLim _ _ | .bootstrapLow _ _ _ _
  | .refreshPulse _ _ _ _ | .refreshFailLockout _ _ _ | .uvloEntry _ _ _ | .uvloExit _ _ _ | .gdBootUv _ _ _
  | .flushStart _ _ | .flushEnd _ | .exportEntry _ _ _ _ _ | .reactionLand _ _ | .episodeEnd _ _ | .hostCrit _
  | .recCrit _ _ =>
    [.now, .regs, .axes, .ports, .engines, .cabs, .recorder, .out]
  | .functionLevelReset _ _ | .d3hotEntry _ _ | .hotReset _ _ _ | .adcInjCmpTrigger _ _ _ _ | .stall _ _ | .crOverrange _ _
  | .crNosample _ _ | .cycleTrip _ _ _ _ | .switchNodeCrossing _ _ _ _ | .hardShort _ _ _ | .desaturation _ _ _ _
  | .window _ _ _ _ _ | .adcLost _ _ =>
    [.now, .regs, .axes, .ports, .tiles, .engines, .cabs, .recorder, .out]
  | .traceCapture _ _ | .engWdog _ | .abrd _ _ _ _ _ _ | .abrdp _ _ _ _ _ _ | .react _ _ _ _ =>
    [.regs, .axes, .ports, .engines, .cabs, .recorder, .out]
  | .registerWrite _ _ _ _ _ | .mpCmdPosWrite _ _ _ _ | .loadAll _ _ _ _ | .adcInjGo _ _ _ _ | .cmpWchkReq _ _ _ _
  | .engHostevSet _ _ _ _ | .glbRecovGo _ _ _ | .glbFwupGo _ _ _ _ | .recRdGo _ _ _ _ | .idAccGo _ _ _ _ _ | .globalLock _ _
  | .cfgLock _ _ | .cfgXbarCommit _ _ _ _ | .encModeWrite _ _ _ _ =>
    [.now, .regs, .late, .written, .held, .axes, .ports, .tiles, .engines, .encs, .vms, .cabs, .recorder, .dev, .out]
  | .recoveryImageChecked _ _ | .tileBoundary _ _ _ | .powerOnTimer _ _ _ | .resetNFall _ _ | .supplyLoss _ =>
    [.now, .freeCtr, .regs, .inForce, .late, .written, .held, .axes, .ports, .tiles, .engines, .encs, .net, .vms, .cabs, .recorder, .dev, .out]
  | .fwupComplete _ _ _ _ | .pfailFall _ _ =>
    [.now, .regs, .recorder, .dev]
  | .recRdLookupDone _ | .recordCandidate _ | .lostEvents _ | .rtcSet _ | .vbakLow _ =>
    [.now, .regs, .recorder]
  | .idAccDone _ _ _ =>
    [.now, .regs, .out]
  | .armed _ =>
    [.regs, .engines]
  | .precopyEnd _ _ =>
    [.now, .axes]
  | .missedResults _ _ =>
    [.now, .regs, .ports]
  | .periodStrobe _ _ _ | .calSlotEnd _ _ _ _ _ _ =>
    [.now, .regs, .tiles, .recorder]
  | .strobeLossFault _ =>
    [.regs, .axes, .ports, .tiles, .engines, .cabs, .recorder, .out]
  | .pathDelayEcho _ _ _ =>
    [.now, .tiles]
  | .syncReceive _ =>
    [.now, .regs, .axes, .ports, .tiles, .engines, .net, .cabs, .recorder, .dev, .out]
  | .announceReceive _ _ _ _ _ _ | .syncTimeout _ | .announceTimeout _ =>
    [.now, .regs, .axes, .ports, .engines, .net, .cabs, .recorder, .dev, .out]
  | .deferredStep _ =>
    [.now, .regs, .tiles, .net, .dev]
  | .frameForward _ _ _ | .heartbeatTx _ | .decisionRepeat _ =>
    [.now, .regs, .net, .out]
  | .heartbeatReceive _ _ _ _ | .ringKeeperOpen _ =>
    [.now, .regs, .net, .recorder]
  | .heartbeatTimeout _ _ | .pcieLinkUp _ _ _ _ _ =>
    [.now, .regs]
  | .vmSamplesReceive _ _ _ _ =>
    [.now, .freeCtr, .regs, .net, .vms, .cabs, .recorder, .out]
  | .publishSample _ _ =>
    [.now, .freeCtr, .regs, .net, .out]
  | .modePrepareFrame _ _ _ _ _ _ _ _ | .modeAckFrame _ _ _ _ _ _ =>
    [.now, .regs, .tiles, .net, .recorder, .out]
  | .modeDecisionFrame _ _ _ _ _ _ | .modeUndecided _ =>
    [.now, .regs, .tiles, .net, .recorder]
  | .ackDeadline _ | .commitDeadline _ =>
    [.now, .regs, .tiles, .net, .out]
  | .modeOutcome _ =>
    [.now, .regs, .net, .cabs, .recorder, .out]
  | .stepPulse _ _ _ _ _ _ | .obSlip _ _ | .weak _ _ =>
    [.now, .regs, .axes, .recorder]
  | .homeInputChange _ _ _ =>
    [.now, .regs, .axes, .engines]
  | .estimateTimeout _ _ =>
    [.now, .regs, .axes]
  | .diagStepEnd _ _ _ _ =>
    [.now, .freeCtr, .regs, .ports, .tiles, .cabs, .recorder, .dev, .out]
  | .seqEntryTrigger _ _ _ _ _ =>
    [.now, .freeCtr, .regs, .tiles]
  | .fgcalEnd _ _ _ _ _ =>
    [.now, .regs, .tiles, .cabs, .recorder, .out]
  | .forcedYield _ | .waitTimeout _ _ _ _ | .engNop _ | .add _ _ _ _ | .sub _ _ _ _ | .and _ _ _ _ | .or _ _ _ _
  | .xor _ _ _ _ | .shl _ _ _ _ | .shr _ _ _ _ | .sar _ _ _ _ | .mul _ _ _ _ | .mulh _ _ _ _ | .div _ _ _ _ | .rem _ _ _ _
  | .sltu _ _ _ _ | .addi _ _ _ _ | .andi _ _ _ _ | .ori _ _ _ _ | .xori _ _ _ _ | .shli _ _ _ _ | .shri _ _ _ _
  | .sari _ _ _ _ | .lui _ _ _ | .ld _ _ _ _ | .st _ _ _ _ | .beq _ _ _ _ | .bne _ _ _ _ | .blt _ _ _ _ | .bge _ _ _ _
  | .bltu _ _ _ _ | .bgeu _ _ _ _ | .jmp _ _ | .call _ _ | .ret _ | .wait _ _ _ _ | .yield _ | .arm _ _ _ _
  | .emit _ _ _ _ _ _ | .time _ _ _ _ | .signal _ _ _ _ | .verdict _ _ _ _ | .halt _ | .undefinedOpcode _ _ =>
    [.regs, .engines, .cabs, .recorder, .out]
  | .abwr _ _ _ _ _ _ | .abwrp _ _ _ _ _ _ =>
    [.regs, .late, .written, .held, .axes, .ports, .tiles, .engines, .encs, .vms, .cabs, .recorder, .dev, .out]
  | .cmd _ _ _ _ =>
    [.regs, .axes, .engines, .cabs, .recorder, .out]
  | .recorderFilterRun _ =>
    [.now, .regs, .engines, .recorder]
  | .journalEccError _ _ _ _ =>
    [.now, .freeCtr, .regs, .axes, .ports, .engines, .cabs, .recorder, .out]
  | .pfailRise _ =>
    [.now, .regs, .dev]
  | .vholdLow _ =>
    [.now, .freeCtr, .regs, .recorder, .dev]
  | .imageChecked _ _ _ _ _ _ _ =>
    [.now, .freeCtr, .regs, .tiles, .engines, .cabs, .recorder, .out]
  | .identityReadDone _ _ _ _ _ =>
    [.now, .regs, .recorder, .dev, .out]
  | .inventoryDone _ _ =>
    [.now, .freeCtr, .regs, .axes, .ports, .tiles, .cabs, .recorder, .dev, .out]
  | .diagStateEnd _ =>
    [.now, .freeCtr, .regs, .cabs, .recorder, .out]
  | .faultReport _ _ =>
    [.now, .regs, .axes, .cabs, .recorder, .out]
  | .slotHwFault _ _ _ | .preventiveRepair _ _ _ =>
    [.now, .regs, .axes, .ports, .engines, .cabs, .recorder, .dev, .out]
  | .privetScanEnd _ _ _ _ | .rescanEnd _ _ _ | .paritySweep _ _ _ =>
    [.now, .regs, .inForce, .axes, .ports, .tiles, .engines, .cabs, .recorder, .dev, .out]
  | .encZEdge _ _ _ =>
    [.now, .regs, .axes, .engines, .encs]
  | .ssiFrame _ _ _ _ _ =>
    [.now, .regs, .axes, .ports, .tiles, .engines, .encs, .cabs, .recorder, .out]
  | .encSignalError _ _ | .encFaultClear _ _ | .quadratureEdge _ _ _ _ =>
    [.now, .regs, .axes, .ports, .engines, .encs, .cabs, .recorder, .out]
  | .netPortSelfTestFail _ _ | .networkLinkChange _ _ _ =>
    [.now, .regs, .net, .recorder, .dev]
  | .injectedConversionDone _ _ _ _ =>
    [.now, .regs, .tiles]
  | .delayResponseReceive _ _ _ _ _ _ _ _ _ =>
    [.now, .regs, .net]
  | .spareFillEnd _ _ =>
    [.now, .regs, .axes, .engines, .cabs, .recorder, .dev, .out]

/-- Every register but those at the listed offsets keeps its value. -/
def RegsBut (as : List Nat) (s t : State) : Prop := ∀ a, a ∉ as → t.reg a = s.reg a

/-- Every register but the listed ones keeps its value, but for CREDIT_WAIT of the rings of a cabinet, which follows its cause
(R239). -/
def CreditBut (c : Fin 4) (as : List Nat) (s t : State) : Prop :=
  ∀ a, a ∉ as → t.reg a = s.reg a ∨
    ∃ n b, n < 16 ∧ a = HIF_RING_STAT c n ∧ t.reg a = HIF_RING_STAT_CREDIT_WAIT.put (s.reg a) b

/-- Every axis but the listed ones keeps what it holds beside its registers. -/
def AxesBut (as : List (Fin 32)) (s t : State) : Prop := ∀ a, a ∉ as → t.axis a = s.axis a

/-- Every port but the listed ones keeps what it holds beside its registers. -/
def PortsBut (ps : List (Fin 64)) (s t : State) : Prop := ∀ p, p ∉ ps → t.port p = s.port p

/-- Every tile but the listed ones keeps what it holds beside its registers. -/
def TilesBut (ts : List (Fin 4)) (s t : State) : Prop := ∀ x, x ∉ ts → t.tile x = s.tile x

/-- Every engine but the listed ones keeps what it holds beside its registers. -/
def EngsBut (es : List (Fin 46)) (s t : State) : Prop := ∀ e, e ∉ es → t.eng e = s.eng e

/-- Every cabinet but the listed ones keeps what it holds beside its registers. -/
def CabsBut (cs : List (Fin 4)) (s t : State) : Prop := ∀ c, c ∉ cs → t.cab c = s.cab c

/-- Every ring of a cabinet but the listed ones keeps what it holds beside its registers. -/
def RingsBut (c : Fin 4) (ns : List (Fin 16)) (s t : State) : Prop := ∀ n, n ∉ ns → t.ring c n = s.ring c n

/-! ## Instructions of an engine -/

/-- The engine is in a run, within its budget, at a word of its active image that reads `w` in the fields its instruction uses and
that its kind may use (R202–R206). -/
def State.atWord (s : State) (e : Fin 46) (w : Word) : Prop :=
  s.engCanRun e = true ∧ (s.engWord e).map canonWord = some w ∧ opFor (engKind e) (wOp w) = true

/-- Program counter `n` stands at a word of the active image. -/
def State.hasWord (s : State) (e : Fin 46) (n : Nat) : Prop :=
  n < ((s.eng e).img[s.imgIdx e]).words.length ∧ n < 65536

/-- The program counter after the word that executes. -/
def State.pcNext (s : State) (e : Fin 46) : Nat := s.fld (ENG_PC e) ENG_PC_PC + 1

/-- An instruction executes: program counter `pc`, one instruction and `cyc` cycles more, the engine otherwise as `x`, and nothing
else changes. -/
def Executes (s t : State) (e : Fin 46) (cyc pc : Nat) (x : Engine) : Prop :=
  t.fld (ENG_PC e) ENG_PC_PC = pc ∧ t.fld (ENG_PC e) ENG_PC_ID = s.fld (ENG_PC e) ENG_PC_ID ∧
  t.eng e = { x with count := (s.eng e).count + 1, cycles := (s.eng e).cycles + cyc } ∧
  RegsBut [ENG_PC e] s t ∧ EngsBut [e] s t ∧ Touches [.regs, .engines] s t

/-- A program stops with a cause: STOPPED, the warning record, the count, and the registers of the engine as they were (R204). -/
def Stops (s t : State) (e : Fin 46) (cause : Nat) : Prop :=
  t.fld (ENG_STAT e) ENG_STAT_STATE = 4 ∧ t.fld (ENG_STAT e) ENG_STAT_CAUSE = cause ∧ (t.eng e).running = false ∧
  (t.eng e).k = (s.eng e).k ∧ Counts s t (ENG_CNT e) ENG_CNT_STOPS ∧ Logs s t (.dev .engStopped) 5 e.1

/-- A writer owns a register, and in this device state its writes are examined (R252, R273). -/
def State.mayBus (s : State) (w : Writer) (a : Nat) : Prop :=
  s.owns w a = true ∧ ∀ c, w = .host c → s.hostMayWrite a = some true

/-- A register whose write does nothing but store its value: none of those whose write starts, ends, reloads or shows something
else. -/
def plainReg (a : Nat) : Bool :=
  match blockOf a with
  | .axis y => !([SF_IO_FILT y, CR_RCOIL y, OB_MOTOR y, OB_SPR y].contains a)
  | .port p => a != CR_PORT_CFG (pT p) (pI p) && (compOf a).isNone
  | .portSense _ => (compOf a).isNone
  | .tile t => !([PWM_LOADALL t, ADC_INJ t 0, ADC_INJ t 1, CMP_WCHK t, ID_ACC t].contains a) && (wcompOf a).isNone
  | .net => !(decide (NET_VM_CFG 0 ≤ a) && decide (a < NET_VM_CFG 8)) &&
    !([NET_MEMBER_LO, NET_MEMBER_HI, NET_PORT_CTRL 0, NET_PORT_CTRL 1].contains a)
  | .recorder => a != REC_RD_CTRL
  | .global => !(decide (GLB_ENC_CFG 0 ≤ a) && decide (a < GLB_ENC_CFG 16)) &&
    !([GLB_RECOV_CTRL, GLB_FWUP_CTRL, HIF_OWN_AX 0, HIF_OWN_AX 1, HIF_OWN_TILE].contains a)
  | .engine e => a != ENG_HOSTEV e
  | .cabinet c => a != HIF_CAB_WDOG c && (List.range 16).all fun n => a != HIF_RING_CFG c n
  | .none => false

/-- A register of a port or a tile whose write goes to its shadow (R256). -/
def shadowed (a : Nat) : Bool :=
  match blockOf a with
  | .port p => a == GD_CFG (pT p) (pI p) || (regFields a).any fun f => f.ty == .rs
  | .portSense _ | .tile _ => (regFields a).any fun f => f.ty == .rs
  | _ => false

/-- A write passes checks 2 to 4 of R252 whole: no lock, no static field, no forbidden code and no range turns any part of it away. -/
def State.passes (s : State) (w : Writer) (a : Nat) (v : Word) : Prop :=
  s.lockBroken w a v = false ∧ s.staticBroken a v = false ∧ s.keepComp a (s.newReg a v) = s.newReg a v ∧
  s.forbidden a (s.newReg a v) = false ∧ s.inRange a (s.newReg a v) = true

/-- An event goes to a ring of a cabinet on the way from `s` to `t`. -/
def Tells (s t : State) (c : Fin 4) (n : Fin 16) (code : Nat) (params : List Nat) : Prop :=
  ∃ adr ev, Sends s t (.entry c n adr (.event ev)) ∧ ev.code = code ∧ ev.params = params

/-- A cabinet has an event ring with room for a severity, and has lost no event (R241, R242). -/
def State.canTell (s : State) (c : Fin 4) (n : Fin 16) (sev : Nat) : Prop :=
  s.eventRing c sev = some n ∧ s.rRoom c n = true ∧ (s.cab c).evLost = 0

end Sys2Proof.Machine
end

