-- ==== Sys2Proof/Certificates/Slice0/Obligations.lean ====
section
/-! DEFINITION. The statements about the model that the provers take up, each with the rules of the spec it rests on. -/

open Sys2Proof Sys2Proof.Machine

/-- For every command c and state s, a step of s with c put at the front of its queue is exec of c on s with the rest of
the queue, and exec always answers a next state whose queue is that rest. (That the queue is served in this order is
the form of the model.) (spec/95_what_each_step_holds.md.) -/
def Obligations.StepRunsTheFrontCommand : Prop :=
  ∀ (c : Instr) (s : State),
    step { s with pending := c :: s.pending } = exec c s ∧ ∃ t, exec c s = .next t ∧ t.pending = s.pending

/-- A step on an empty queue leaves the state as it is. This is the model's own choice (assumption log, entry on the
idle step). (spec/02_line_time.md.) -/
def Obligations.EmptyQueueIdles : Prop :=
  ∀ s : State, s.pending = [] → step s = .next s

/-- Right after reset the register files and data memories are in canonical form, every axis is DISABLED, every port is
OFF and carries no drive, the device state is BOOT, no command ring is enabled and no register is listed, so that
every register reads its reset value. (R271, R276, R50, R144, spec/20_register_index.md.) -/
def Obligations.ResetIsSound : Prop :=
  State.reset.wf ∧ State.reset.pending = [] ∧ State.reset.devState = dBOOT ∧
    (∀ a, State.reset.axState a = axDISABLED) ∧ (∀ p, State.reset.portState p = pOFF ∧ State.reset.portSafe p) ∧
    (∀ c n, State.reset.rState c n = rDISABLED) ∧ ∀ a, State.reset.reg a = regReset a

/-- For every state in canonical form, a step that answers a next state leaves it in canonical form; it takes exactly
the command at the front of the queue; nothing the block has sent is taken back or changed; and the counter of free
values never goes back, so that no free value is used twice. (spec/14_registers.md, spec/12_engines.md.) -/
def Obligations.EveryStepKeepsTheState : Prop :=
  ∀ s t : State, s.wf → step s = .next t →
    t.wf ∧ t.pending = s.pending.tail ∧ s.out <:+ t.out ∧ s.freeCtr ≤ t.freeCtr

/-- Every command changes no part of the state but those that `partsOf` lists for it: a write to a host ring, say,
changes no axis, no port, no tile and no engine, an engine instruction that computes changes no axis, no port and no
tile, and a value in force changes only at a tile boundary, whose step 1 applies shadow values, in a reset of the
device (POWER_ON_TIMER, RESET_N_FALL, SUPPLY_LOSS, RECOVERY_IMAGE_CHECKED), and where a parity sweep or a scan meets
bits that flipped (PARITY_SWEEP, PRIVET_SCAN_END, RESCAN_END). The queue is never changed. (R8, R20, R226, R11,
R276, R262, R267.) -/
def Obligations.CommandsTouchOnlyTheirParts : Prop :=
  ∀ (c : Instr) (s t : State), exec c s = .next t → Touches (partsOf c) s t

/-- DOORBELL_WRITE and DOORBELL_MERGE_TAKE complete. A DOORBELL_WRITE of 32 bits at n × 8 with no doorbell held and none
taken within 500 ns: a valid value becomes the host index of the ring; any other value leaves the index alone and
counts in DB_BAD. In both cases the watchdog restarts and WDOG_EXP clears. A write at the kick offset 0x800 only
restarts the watchdog, and one at any other offset changes nothing but the time. A write of any other size is
completed as an unsupported request and changes nothing, and before the host interface is up nothing happens. A
doorbell written less than 500 ns after the last one taken is held, replacing a held value of the same ring, which
counts in DB_MERGED; the host index does not move. DOORBELL_MERGE_TAKE 500 ns later takes the held value of the
ring, where it is valid, and holds nothing any more. (R229, R247, R223.) -/
def Obligations.DoorbellsAreTakenOrDropped : Prop :=
  (∀ (s : State) (t : Nat) (c : Fin 4) (n : Fin 16) (v : Word), s.hostUp = true →
    ((s.cab c).dbHeld = [] → (∀ l, (s.cab c).dbLast = some l → l + 500 ≤ (s.reach t).up) →
      Runs (.doorbellWrite t c (8 * n.1) v 4) s fun x =>
        (v.toNat < 8192 ∧ s.doorbellOk c n v.toNat = true → x.rHost c n = v.toNat) ∧
        (¬(v.toNat < 8192 ∧ s.doorbellOk c n v.toNat = true) → x.rHost c n = s.rHost c n ∧
          x.fld (HIF_CAB_CNT c) HIF_CAB_CNT_DB_BAD = min (s.fld (HIF_CAB_CNT c) HIF_CAB_CNT_DB_BAD + 1) 65535) ∧
        x.bit (HIF_CAB_STAT c) HIF_CAB_STAT_WDOG_EXP = false ∧
        (x.cab c).wdogAt = (s.reach t).up ∧ (x.cab c).dbLast = some (s.reach t).up ∧ CabsBut [c] s x) ∧
    (Runs (.doorbellWrite t c 0x800 v 4) s fun x =>
      x.bit (HIF_CAB_STAT c) HIF_CAB_STAT_WDOG_EXP = false ∧ (x.cab c).wdogAt = (s.reach t).up ∧
      RegsBut [HIF_CAB_STAT c] s x ∧ CabsBut [c] s x) ∧
    ∀ off, off ≠ 0x800 → (128 ≤ off ∨ off % 8 ≠ 0) → Runs (.doorbellWrite t c off v 4) s fun x => x = s.reach t) ∧
  (∀ (s : State) (t : Nat) (c : Fin 4) (off : Nat) (v : Word) (size : Nat),
    (s.hostUp = true → size ≠ 4 → Runs (.doorbellWrite t c off v size) s fun x => x = (s.reach t).emit (.unsupported c)) ∧
    (s.hostUp = false → Runs (.doorbellWrite t c off v size) s fun x => x = s.reach t)) ∧
    ∀ (s : State) (t : Nat) (c : Fin 4) (n : Fin 16),
    (∀ (v : Word) (l : Nat), s.hostUp = true → (s.cab c).dbLast = some l → (s.reach t).up < l + 500 →
      Runs (.doorbellWrite t c (8 * n.1) v 4) s fun x =>
        (n.1, v.toNat) ∈ (x.cab c).dbHeld ∧ (∀ h ∈ (x.cab c).dbHeld, h.1 = n.1 → h.2 = v.toNat) ∧
        x.rHost c n = s.rHost c n ∧ (x.cab c).dbLast = some l ∧
        x.fld (HIF_CAB_CNT2 c) HIF_CAB_CNT2_DB_MERGED =
          (if (s.cab c).dbHeld.any (fun h => h.1 == n.1) then min (s.fld (HIF_CAB_CNT2 c) HIF_CAB_CNT2_DB_MERGED + 1) 65535
           else s.fld (HIF_CAB_CNT2 c) HIF_CAB_CNT2_DB_MERGED)) ∧
    (∀ (v l : Nat), (s.cab c).dbLast = some l → l + 500 ≤ (s.reach t).up → (s.cab c).dbHeld = [(n.1, v)] →
      v < 8192 → s.doorbellOk c n v = true →
      Runs (.doorbellMergeTake t c) s fun x =>
        x.rHost c n = v ∧ (x.cab c).dbHeld = [] ∧ (x.cab c).dbLast = some (s.reach t).up ∧ CabsBut [c] s x)

/-- DESCRIPTOR_FETCH, FETCH_COMPLETE and HOST_READ_RETRY complete. DESCRIPTOR_FETCH of an ACTIVE command ring without an
outstanding fetch, with something to fetch, reads as many descriptors as fit into the 8 held, up to the producer
index and the end of the ring, from the host address of the next one. FETCH_COMPLETE appends exactly the descriptors
read, each with its ring index, counted on from the first one fetched; where a PROG_LOAD that names an image comes
to the head, its image is read, and FETCH_COMPLETE of that read hands the image to the ring. HOST_READ_RETRY repeats
the read of the ring, of descriptors or of the image of its head, up to the third attempt and counts in RD_RETRY;
after the third failure the ring goes to ERROR with cause 6 and holds no descriptor. That the image is read when its
descriptor is at the head is log 276. (R235, R246, R218.) -/
def Obligations.FetchesReadDescriptorsInOrder : Prop :=
  ∀ (s : State) (t : Nat) (c : Fin 4) (n : Fin 16),
    (∀ k : Nat, k = min (8 - (s.ring c n).fetched.length)
        (min ((s.rHost c n + 2 * s.rSize c n - (s.ring c n).fetchIdx) % (2 * s.rSize c n))
          (s.rSize c n - (s.ring c n).fetchIdx % s.rSize c n)) →
      s.rIs c n 0 = true → (s.ring c n).fetching = none → k ≠ 0 →
      Runs (.descriptorFetch t c n) s fun x =>
        (x.ring c n).fetching = some (k, (s.reach t).up, 1) ∧
        Sends s x (.read c n (s.rBase c n + 64 * ((s.ring c n).fetchIdx % s.rSize c n)) (64 * k)) ∧ x.regs = s.regs ∧
        RingsBut c [n] s x ∧ CabsBut [c] s x) ∧
    (∀ (ds : List (Vector Byte 64)) (image : List Byte) (u k : Nat), (s.ring c n).fetching = some (ds.length, u, k) →
      Runs (.fetchComplete t c n ds image) s fun x =>
        (x.ring c n).fetching = none ∧
        (x.ring c n).fetched = (s.ring c n).fetched ++
          ds.mapIdx (fun i b => ⟨((s.ring c n).fetchIdx + i) % (2 * s.rSize c n), b⟩) ∧
        (x.ring c n).fetchIdx = ((s.ring c n).fetchIdx + ds.length) % (2 * s.rSize c n) ∧
        (∀ r rest, (x.ring c n).fetched = r :: rest → (s.ring c n).imgRead = none → (s.ring c n).img = [] →
          s.needsImage c n r = true → (x.ring c n).imgRead = some 1 ∧
            Sends s x (.imageRead c (pay64 (s.descOf c n r).payload 8) (pay32 (s.descOf c n r).payload 16))) ∧
        RingsBut c [n] s x ∧ CabsBut [c] s x) ∧
    (∀ (ds : List (Vector Byte 64)) (image : List Byte) (k : Nat), (s.ring c n).fetching = none → (s.ring c n).imgRead = some k →
      Runs (.fetchComplete t c n ds image) s fun x =>
        (x.ring c n).imgRead = none ∧ (x.ring c n).img = image ∧ (x.ring c n).fetched = (s.ring c n).fetched ∧
        RingsBut c [n] s x ∧ CabsBut [c] s x) ∧
    ∀ (o : Out) (tries : Nat),
      ((∃ k u, (s.ring c n).fetching = some (k, u, tries) ∧
          o = .read c n (s.rBase c n + 64 * ((s.ring c n).fetchIdx % s.rSize c n)) (64 * k)) ∨
        ∃ r rest, (s.ring c n).fetching = none ∧ (s.ring c n).imgRead = some tries ∧ (s.ring c n).fetched = r :: rest ∧
          o = .imageRead c (pay64 (s.descOf c n r).payload 8) (pay32 (s.descOf c n r).payload 16)) →
      Runs (.hostReadRetry t (.ring c n)) s fun x =>
        (tries < 3 → Sends s x o ∧ (x.ring c n).fetched = (s.ring c n).fetched ∧
          ((∃ k, (x.ring c n).fetching = some (k, (s.reach t).up, tries + 1)) ∨ (x.ring c n).imgRead = some (tries + 1)) ∧
          Counts s x HIF_GCNT HIF_GCNT_RD_RETRY ∧ RegsBut [HIF_GCNT] s x) ∧
        (3 ≤ tries → x.rState c n = rERROR ∧ x.fld (HIF_RING_STAT c n) HIF_RING_STAT_CAUSE = 6 ∧
          (x.ring c n).fetched = [] ∧ (x.ring c n).fetching = none ∧ (x.ring c n).imgRead = none)

/-- DESCRIPTOR_ACCEPT and NOP complete. DESCRIPTOR_ACCEPT takes the first descriptor of the ring whose turn it is,
cabinet after cabinet and ring after ring, and moves the consumer index past it. A descriptor that passes every
check, other than a NOP, a MODE_PREPARE and a MODE_COMMIT, waits to be routed with one completion slot reserved. One
that fails a check, on a ring with no earlier descriptor open, answers the status of the first failing check. A NOP
descriptor that passes answers DONE at once. That MODE_PREPARE and MODE_COMMIT act at their acceptance is the
model's choice (assumption log, entry on mode descriptors). That entry is log 245; that the consumer index moves at
acceptance is log 124. (R233, R235, R239, R248.) -/
def Obligations.AcceptanceChecksAndRoutes : Prop :=
  (∀ (s : State) (t : Nat) (c : Fin 4) (n : Fin 16) (r : RawDesc) (rest : List RawDesc),
      (s.reach t).turnCab = some c → (s.reach t).turnRing c = some n → (s.ring c n).fetched = r :: rest → s.rSize c n ≤ 4096 →
      Runs (.descriptorAccept t c) s fun x =>
        (x.ring c n).fetched = rest ∧ x.rDev c n = (r.index + 1) % (2 * s.rSize c n) ∧
        (let d := (s.reach t).descOf c n r
         ((s.reach t).acceptCheck c n r d = none → d.opcode ≠ 0 → d.opcode ≠ 0x20 → d.opcode ≠ 0x21 →
            (x.ring c n).toRoute = (s.ring c n).toRoute ++ [d] ∧
            (x.ring c n).open_ = (s.ring c n).open_ ++ [(r.index, d.kind, d.target)] ∧
            (x.ring c d.cpl).reserved = (s.ring c d.cpl).reserved + 1) ∧
         ∀ st, (s.reach t).acceptCheck c n r d = some st → (s.ring c n).open_ = [] → (s.ring c n).waitCpl = [] →
            Answers d st 0 (s.reach t).now s x)) ∧
    ∀ (s : State) (d : Desc), d.plain → s.admits d = true →
      Runs (.nop d) s fun x => Answers d stDONE 0 d.accept s x ∧ x.engines = s.engines

/-- MSIX_MODERATION_EXPIRY and MSIX_VECTOR_UNMASK complete. MSIX_MODERATION_EXPIRY, once the moderation interval of a
ring has passed with a request held, sends one message of the vector of the ring, or sets its pending bit where the
vector is masked, and holds no request any more. MSIX_VECTOR_UNMASK is a host write to BAR4: at the vector control
of a vector its bit 0 becomes the mask bit; unmasking sends one message where the vector was masked and pending, and
leaves it not pending; masking sends none and keeps the pending bit. A write of any other size than 32 bits is
completed as an unsupported request. The places of the mask bit and of the other words of the table in BAR4 are
those of PCI Express, which the manual does not give (assumption log). That entry is log 274; the reset masks are
log 16. (R245, R222, R223.) -/
def Obligations.VectorsSendOneMessage : Prop :=
  (∀ (s : State) (t : Nat) (c : Fin 4) (n : Fin 16) (l : Nat), (s.ring c n).lastIrq = some l → (s.ring c n).irqHeld = true →
      l + 1000 * s.fld (HIF_RING_CFG c n) HIF_RING_CFG_MOD ≤ (s.reach t).up →
      Runs (.msixModerationExpiry t c n) s fun x =>
        (x.ring c n).irqHeld = false ∧ (x.ring c n).lastIrq = some (s.reach t).up ∧
        ∀ v : Fin 8, v.1 = s.fld (HIF_RING_CFG c n) HIF_RING_CFG_VEC →
          (((s.cab c).vecs[v]).masked = true → ((x.cab c).vecs[v]).pending = true ∧ x.out = s.out) ∧
          (((s.cab c).vecs[v]).masked = false → x.out = Out.msix c v.1 :: s.out)) ∧
    ∀ (s : State) (t : Nat) (c : Fin 4) (i : Fin 8) (v : Word) (send : Bool), s.hostUp = true →
      send = (((s.cab c).vecs[i]).masked && !v.getLsbD 0 && ((s.cab c).vecs[i]).pending) →
      (Runs (.msixVectorUnmask t c (16 * i.1 + 12) v 4) s fun x =>
        (x.cab c).vecs[i] = { (s.cab c).vecs[i] with masked := v.getLsbD 0, pending := ((s.cab c).vecs[i]).pending && !send } ∧
        (∀ w : Fin 8, w ≠ i → (x.cab c).vecs[w] = (s.cab c).vecs[w]) ∧
        x.out = (if send then Out.msix c i.1 :: s.out else s.out) ∧ CabsBut [c] s x) ∧
      ∀ off size, size ≠ 4 → Runs (.msixVectorUnmask t c off v size) s fun x => x = (s.reach t).emit (.unsupported c)

/-- RING_ENABLE, RING_DISABLE and RING_DRAIN_END complete. RING_ENABLE of a ring with EN 0 makes it ACTIVE with the
lower of VER_REQ and 2 as its version and both indices 0, or REFUSED with the lowest cause that applies; of a
draining ring it waits for the end of the drain; with EN 1 it changes nothing. RING_DISABLE of an ACTIVE completion
ring that an enabled command ring names, or with a slot reserved, is a static-write violation: only the count and
the record. Of an ACTIVE or ERROR command ring with open descriptors it starts the drain, and of a draining ring it
takes back a pending enable. Any other ring - a command ring without open descriptors, an unnamed completion ring,
an event, trace or export ring, a REFUSED or ERROR ring - becomes DISABLED with cause and version 0, its trace ends
and its exports end ABORTED. RING_DRAIN_END makes a draining ring without open descriptors DISABLED, or lands the
pending enable, and otherwise changes nothing. CREDIT_WAIT of the rings of the cabinet follows its cause. Outside
INVENTORY to RUN enabling and disabling change nothing. What names a completion ring is log 221. (R230, R231, R228,
R273, R239.) -/
def Obligations.RingsEnableAndDrain : Prop :=
  ∀ (s : State) (t : Nat) (c : Fin 4) (n : Fin 16),
    (s.ringsMayStart = true → s.bit (HIF_RING_CFG c n) HIF_RING_CFG_EN = false →
      Runs (.ringEnable t c n) s fun x =>
        x.bit (HIF_RING_CFG c n) HIF_RING_CFG_EN = true ∧ CabsBut [c] s x ∧ RingsBut c [n] s x ∧
        (s.rState c n = rDRAINING → x.rState c n = rDRAINING ∧ x.ring c n = { s.ring c n with reEnable := true } ∧
          RegsBut [HIF_RING_CFG c n] s x) ∧
        (s.rState c n ≠ rDRAINING →
          (s.enableCause c n = 0 → x.rState c n = rACTIVE ∧ x.rDev c n = 0 ∧ x.rHost c n = 0 ∧
            x.fld (HIF_RING_STAT c n) HIF_RING_STAT_VER = min (s.fld (HIF_RING_CFG c n) HIF_RING_CFG_VER_REQ) 2) ∧
          (s.enableCause c n ≠ 0 → x.rState c n = rREFUSED) ∧
          x.fld (HIF_RING_STAT c n) HIF_RING_STAT_CAUSE = s.enableCause c n ∧
          CreditBut c [HIF_RING_CFG c n, HIF_RING_STAT c n, HIF_RING_DEV c n, HIF_RING_HOST c n] s x)) ∧
    (s.ringsMayStart = false ∨ s.bit (HIF_RING_CFG c n) HIF_RING_CFG_EN = true →
      Runs (.ringEnable t c n) s fun x => x = s.reach t) ∧
    (s.ringsMayStart = true → s.bit (HIF_RING_CFG c n) HIF_RING_CFG_EN = true →
      ∀ held : Bool, held = (s.rType c n == 1 && s.rState c n == rACTIVE && (s.namedCpl c n || (s.ring c n).reserved != 0)) →
      ∀ drain : Bool, drain = (s.rType c n == 0 && (s.rState c n == rACTIVE || s.rState c n == rERROR) && (s.ring c n).open_ != []) →
      Runs (.ringDisable t c n) s fun x =>
        (held = true → Counts s x (CFG_CNT c) CFG_CNT_STATIC_WR_CNT ∧ RegsBut [CFG_CNT c] s x ∧ x.cabs = s.cabs ∧
          Logs s x (.dev .staticWrite) 3 c) ∧
        (held = false → x.bit (HIF_RING_CFG c n) HIF_RING_CFG_EN = false) ∧
        (s.rState c n = rDRAINING → x.rState c n = rDRAINING ∧ x.ring c n = { s.ring c n with reEnable := false }) ∧
        (drain = true → x.rState c n = rDRAINING ∧ (x.ring c n).fetched = [] ∧ (x.ring c n).fetching = none ∧
          (x.ring c n).open_ = (s.ring c n).open_) ∧
        (held = false → drain = false → s.rState c n ≠ rDRAINING →
          x.rState c n = rDISABLED ∧ x.fld (HIF_RING_STAT c n) HIF_RING_STAT_CAUSE = 0 ∧
          x.fld (HIF_RING_STAT c n) HIF_RING_STAT_VER = 0 ∧ (x.ring c n).fetched = [] ∧ (x.ring c n).trace = none ∧
          x.recorder.exports = s.recorder.exports.filter (fun e => !(e.cab == c && e.ring == n)) ∧
          (∀ e m, s.recorder.exports = [e] → e.cab = c → e.ring = n → m ≠ n → s.rSize c m ≠ 0 → e.exported < 2 ^ 32 →
            e.lastSeq < 2 ^ 32 → e.skipped < 2 ^ 32 → s.canTell c m (plainSev 0x0803) →
            Tells s x c m 0x0803 [stABORTED, e.exported, e.lastSeq, e.skipped, 0]) ∧
          ((∀ e ∈ s.recorder.exports, ¬(e.cab = c ∧ e.ring = n)) →
            RingsBut c [n] s x ∧ CreditBut c [HIF_RING_CFG c n, HIF_RING_STAT c n] s x)) ∧ CabsBut [c] s x) ∧
    (s.ringsMayStart = false ∨ s.bit (HIF_RING_CFG c n) HIF_RING_CFG_EN = false →
      Runs (.ringDisable t c n) s fun x => x = s.reach t) ∧
    (s.rState c n = rDRAINING → (s.ring c n).open_ = [] →
      Runs (.ringDrainEnd t c n) s fun x =>
        ((s.ring c n).reEnable = false → x.rState c n = rDISABLED ∧ RegsBut [HIF_RING_STAT c n] s x) ∧
        ((s.ring c n).reEnable = true → s.enableCause c n = 0 → x.rState c n = rACTIVE ∧ x.rDev c n = 0 ∧ x.rHost c n = 0 ∧
          x.fld (HIF_RING_STAT c n) HIF_RING_STAT_VER = min (s.fld (HIF_RING_CFG c n) HIF_RING_CFG_VER_REQ) 2) ∧
        ((s.ring c n).reEnable = true → s.enableCause c n ≠ 0 → x.rState c n = rREFUSED ∧
          x.fld (HIF_RING_STAT c n) HIF_RING_STAT_CAUSE = s.enableCause c n) ∧
        CreditBut c [HIF_RING_STAT c n, HIF_RING_DEV c n, HIF_RING_HOST c n] s x ∧ CabsBut [c] s x ∧ RingsBut c [n] s x) ∧
    (s.rState c n ≠ rDRAINING ∨ (s.ring c n).open_ ≠ [] → Runs (.ringDrainEnd t c n) s fun x => x = s.reach t)

/-- CABINET_WDOG_KICK and CABINET_WDOG_EXPIRY complete. CABINET_WDOG_KICK restarts the watchdog of the cabinet and
clears WDOG_EXP. CABINET_WDOG_EXPIRY, MS milliseconds or more after the last restart while MS is not 0, sets
WDOG_EXP; before that, or with MS 0, it changes nothing but the time. (R247.) -/
def Obligations.CabinetWatchdogRuns : Prop :=
  ∀ (s : State) (t : Nat) (c : Fin 4),
    (s.hostUp = true → Runs (.cabinetWdogKick t c) s fun x =>
      (x.cab c).wdogAt = (s.reach t).up ∧ x.bit (HIF_CAB_STAT c) HIF_CAB_STAT_WDOG_EXP = false ∧
      RegsBut [HIF_CAB_STAT c] s x ∧ CabsBut [c] s x) ∧
    (s.fld (HIF_CAB_WDOG c) HIF_CAB_WDOG_MS ≠ 0 → s.bit (HIF_CAB_STAT c) HIF_CAB_STAT_WDOG_EXP = false →
      (s.cab c).wdogAt + 1000000 * s.fld (HIF_CAB_WDOG c) HIF_CAB_WDOG_MS ≤ (s.reach t).up →
      Runs (.cabinetWdogExpiry t c) s fun x =>
        x.bit (HIF_CAB_STAT c) HIF_CAB_STAT_WDOG_EXP = true ∧
        ∀ a, s.ownerAx a = c → ∃ r ∈ x.recorder.transit, r.code = .dev (.fault 22) ∧ r.kind = 0 ∧ r.idx = a.1) ∧
    ((s.fld (HIF_CAB_WDOG c) HIF_CAB_WDOG_MS = 0 ∨
        (s.reach t).up < (s.cab c).wdogAt + 1000000 * s.fld (HIF_CAB_WDOG c) HIF_CAB_WDOG_MS) →
      Runs (.cabinetWdogExpiry t c) s fun x => x = s.reach t)

/-- FUNCTION_LEVEL_RESET, D3HOT_ENTRY, HOT_RESET and PCIE_LINK_UP complete. FUNCTION_LEVEL_RESET and D3HOT_ENTRY make
every ring of the cabinet DISABLED and empty, send its events nowhere, leave its interrupt vectors as after reset,
and raise HIF_LINK against its axes: an axis it owns without an episode gets one whose first class is HIF_LINK,
whose reaction then lands as that of any fault. HOT_RESET resets both cabinets of the host port the same way; with
LINKLOSS set in both, every axis goes on in its state, and a link-down clears LINK. PCIE_LINK_UP shows the width,
the speed and whether the link is in L0, and sets LINK of both cabinets. That a function-level reset raises class 34
is the model's reading (log 127), that the vectors return to their reset values its choice (log 16), and what
LINKLOSS leaves of the fault is log 228. (R247, R223, R276, R222.) -/
def Obligations.CabinetResetsResetTheirRings : Prop :=
  (∀ (s : State) (t : Nat) (c : Fin 4) (i : Instr), (i = .functionLevelReset t c ∨ i = .d3hotEntry t c) →
      Runs i s fun x =>
        (∀ n, x.rState c n = rDISABLED ∧ x.reg (HIF_RING_CFG c n) = 0 ∧ x.rBase c n = 0 ∧ x.ring c n = Ring.init) ∧
        (x.cab c).vecs = Cabinet.init.vecs ∧
        x.fld (HIF_CAB_CTRL c) HIF_CAB_CTRL_EVRING = 16 ∧ x.fld (HIF_CAB_CTRL c) HIF_CAB_CTRL_EVRING_F = 16 ∧
        (∀ a, s.ownerAx a = c → s.bit (MP_FLT_STAT a) MP_FLT_STAT_EPISODE = false →
          x.bit (MP_FLT_STAT a) MP_FLT_STAT_EPISODE = true ∧ x.fld (MP_FLT_STAT a) MP_FLT_STAT_FIRST = 34) ∧
        CabsBut [c] s x ∧ x.ports = s.ports) ∧
    (∀ (s : State) (t : Nat) (h : Fin 2) (linkDown : Bool),
      Runs (.hotReset t h linkDown) s fun x =>
        (∀ c ∈ cabsOf h, ∀ n, x.rState c n = rDISABLED ∧ x.ring c n = Ring.init) ∧
        (linkDown = true → ∀ c ∈ cabsOf h, x.bit (HIF_CAB_STAT c) HIF_CAB_STAT_LINK = false) ∧
        ((∀ c ∈ cabsOf h, s.bit (HIF_CAB_CTRL c) HIF_CAB_CTRL_LINKLOSS = true) →
          (∀ a, x.axState a = s.axState a ∧ x.rxOf a = s.rxOf a ∧ x.prof a = s.prof a) ∧ x.ports = s.ports) ∧
        CabsBut (cabsOf h) s x) ∧
    ∀ (s : State) (t : Nat) (h : Fin 2) (width speed : Nat) (l0 : Bool), width ∈ [1, 2, 4] → 1 ≤ speed → speed ≤ 3 →
      Runs (.pcieLinkUp t h width speed l0) s fun x =>
        x.fld (HIF_PORT_STAT h) HIF_PORT_STAT_WIDTH = width ∧ x.fld (HIF_PORT_STAT h) HIF_PORT_STAT_SPEED = speed ∧
        x.bit (HIF_PORT_STAT h) HIF_PORT_STAT_LINK = true ∧ x.bit (HIF_PORT_STAT h) HIF_PORT_STAT_L0 = l0 ∧
        (∀ c ∈ cabsOf h, x.bit (HIF_CAB_STAT c) HIF_CAB_STAT_LINK = true) ∧
        RegsBut (HIF_PORT_STAT h :: (cabsOf h).map fun c => HIF_CAB_STAT c.1) s x

/-- TRACE_START, TRACE_STOP and TRACE_CAPTURE complete. TRACE_START with a valid payload on a trace ring without a trace
answers STARTED with the latest boundary of the clock tile as its landing time and holds the trace. TRACE_STOP
answers DONE and ends it. TRACE_CAPTURE, at a boundary that is a multiple of N after the start, shows the ports it
captures as they are and writes one entry with the values of the signals where the ring has room, and counts a loss
where it has none. That nothing is captured at the boundary of the start and that the first entry has number 1 is
log 126; that the trace starts at the latest boundary of its clock tile, log 25. (R244.) -/
def Obligations.TracesStartStopAndCapture : Prop :=
  (∀ (s : State) (d : Desc), d.plain → s.admits d = true → (s.reach d.accept).traceOk d = true →
      (s.ring d.cab (finRing (payByte d.payload 0))).trace = none →
      Runs (.traceStart d) s fun x =>
        Answers d stSTARTED 0 (s.boundary (finTile (payByte d.payload 4))) s x ∧
        (∃ tr, (x.ring d.cab (finRing (payByte d.payload 0))).trace = some tr ∧ tr.signals = traceSignals d.payload ∧
          tr.decim = pay16 d.payload 2 ∧ tr.seq = 0 ∧ tr.lost = 0) ∧ x.engines = s.engines) ∧
    (∀ (s : State) (d : Desc) (tr : Trace), d.plain → s.admits d = true → payZero d.payload 1 48 = true →
      payByte d.payload 0 < 16 → (s.ring d.cab (finRing (payByte d.payload 0))).trace = some tr →
      Runs (.traceStop d) s fun x =>
        Answers d stDONE 0 (s.boundary tr.tile) s x ∧ (x.ring d.cab (finRing (payByte d.payload 0))).trace = none ∧
        x.engines = s.engines) ∧
    ∀ (s : State) (c : Fin 4) (n : Fin 16) (tr : Trace) (z : State), z = tr.signals.foldl settleFor s → (s.ring c n).trace = some tr →
      tr.startK.getD 0 < (s.tile tr.tile).k → tr.doneK < (s.tile tr.tile).k →
      ((s.tile tr.tile).k - tr.startK.getD 0) % tr.decim = 0 →
      Runs (.traceCapture c n) s fun x =>
        (s.rRoom c n = true → ∃ e addr, Sends s x (.entry c n addr (.trace e)) ∧ e.time = s.boundary tr.tile ∧
          e.seq = (tr.seq + 1) % 65536 ∧ e.values = tr.signals.map (fun a => z.hostRead c a)) ∧
        (s.rRoom c n = false → x.out = z.out ∧ (x.ring c n).trace.map (·.lost) = some (tr.lost + 1) ∧
          x.fld (HIF_CAB_CNT2 c) HIF_CAB_CNT2_TR_LOST =
            min (s.fld (HIF_CAB_CNT2 c) HIF_CAB_CNT2_TR_LOST + 1) 65535) ∧ CabsBut [c] s x

/-- MOVE completes for every good payload whose target the soft limits and the locks allow, with no reaction of
CONTROLLED_STOP or above and no homing. From STANDSTILL it answers STARTED: at distance 0 it has arrived and moves
nothing; otherwise, where the plan of R59 and R60 exists, the axis is in POSITION on exactly that plan from the
boundary on, with the tag and the target of the MOVE. With QUEUE set, in POSITION or in STOPPING after a STOP
descriptor, it answers QUEUED and waits behind the queued moves, which stay as they were; a relative target is added
to the target of the entry ahead, the last queued move or the move in progress, and stays a distance where that
entry is a stop. In every other state, and without QUEUE in those two, it is refused with REFUSED_STATE, is counted
and changes nothing of the profile: a MOVE never replans a move or a velocity ramp. The flag LIMITED says whether a
magnitude was clamped. The completion carries the latest boundary of the tile of the axis. The order of the refusals
is log 41; that a descriptor command lands at the latest boundary, log 6; that a queued relative target is the exact
sum, log 248. (R52, R53, R57, R59.) -/
def Obligations.MovesStartAndQueue : Prop :=
  ∀ (s : State) (d : Desc) (a : Fin 32), d.plain → s.admits d = true → d.target = a.1 → moveBad d.payload = false →
    s.rxOf a < 3 → s.homing a = false →
    (∀ tgt : Int, s.axState a = axSTANDSTILL → (s.prof a).queue = [] → (s.prof a).move = none →
      tgt = (if payBit d.payload 36 0 then s.posB a + payI64 d.payload 0 else payI64 d.payload 0) →
      (if payBit d.payload 36 0 then payI64 d.payload 0 else tgt - s.posB a).natAbs < 2 ^ 62 →
      s.softOk a tgt = true → s.lockForbids a tgt = false →
      Runs (.move d) s fun x =>
        Answers d stSTARTED (if s.moveLimited d a then 1 else 0) (s.axB a) s x ∧
        (tgt = s.posB a → x.axState a = axSTANDSTILL ∧ (x.prof a).plan = (s.prof a).plan) ∧
        let r := s.moveReq d a
        let b := s.bankOf a
        let l : Limits := ⟨r.v.getD b.v, r.a.getD b.a, r.d.getD b.d, r.j.getD b.j, r.v.isSome, r.a.isSome, r.d.isSome⟩
        ∀ o, tgt ≠ s.posB a →
          planMove (s.axB a) (s.kinB a) tgt (s.vEff a l) (s.aEff a l) (s.dEff a l) (s.emerg a) (q16 l.j) = some o →
          x.axState a = axPOSITION ∧ (x.prof a).plan = splice (s.axB a) (s.prof a).plan o.segs ∧
          (x.prof a).move.map (fun m => (m.tag, m.target)) = some (d.tag, tgt) ∧
          x.pairI (MP_TARGET_LO a) = signedOf 64 (toBits 64 tgt)) ∧
    (s.axState a = axPOSITION ∨ s.axState a = axSTOPPING ∧ (s.prof a).stopKind = .stop → payBit d.payload 36 1 = true →
      (s.prof a).queue.length < 8 →
      ((∀ r, (s.prof a).queue.getLast? = some r → r.rel = false → s.aheadOf a = (r.target, false)) ∧
        (∀ m, (s.prof a).queue = [] → (s.prof a).move = some m → s.aheadOf a = (m.target, false)) ∧
        ((s.prof a).queue = [] → (s.prof a).move = none → s.axState a = axSTOPPING →
          s.aheadOf a = (roundHalfAway (planEndPos (s.prof a).plan), true))) ∧
      ∀ rel : Bool, rel = payBit d.payload 36 0 → ∀ tgt : Int,
      tgt = (if rel && !(s.aheadOf a).2 then (s.aheadOf a).1 + payI64 d.payload 0 else payI64 d.payload 0) →
      (if rel then payI64 d.payload 0 else tgt - (s.aheadOf a).1).natAbs < 2 ^ 62 →
      ((rel && (s.aheadOf a).2) = false → s.softOk a tgt = true ∧ s.lockForbids a tgt = false) →
      Runs (.move d) s fun x =>
        Answers d stQUEUED (if s.moveLimited d a then 1 else 0) (s.axB a) s x ∧ x.axState a = s.axState a ∧
        (∃ r, (x.prof a).queue = (s.prof a).queue ++ [r] ∧ r.tag = d.tag ∧ r.target = tgt ∧
          r.rel = (rel && (s.aheadOf a).2) ∧ r.dwell = pay32 d.payload 32 ∧ r.event = payBit d.payload 36 6) ∧
        (x.prof a).plan = (s.prof a).plan ∧ (x.prof a).move = (s.prof a).move) ∧
    ((s.prof a).queue.length < 8 → s.axState a ≠ axSTANDSTILL →
      (s.axState a = axPOSITION ∨ s.axState a = axSTOPPING ∧ (s.prof a).stopKind = .stop → payBit d.payload 36 1 = false) →
      Runs (.move d) s fun x =>
        Answers d stREFUSED_STATE 0 (s.axB a) s x ∧ x.axState a = s.axState a ∧ x.prof a = s.prof a ∧
        Counts s x (MP_CNT a) MP_CNT_REFUSED)

/-- VELOCITY, STOP and ESTOP complete. A VELOCITY with a good payload and a nonzero target that nothing forbids, in
STANDSTILL or VELOCITY, answers STARTED and puts the axis in VELOCITY with the clamped target, on the ramp of R54
from the exact state at the boundary, under the limits it copied, which are those of the bank where the payload
gives none. STOP of a moving axis, and ESTOP of a moving or stopping one, answer STARTED and leave the axis STOPPING
on the stop ramp from that state, at D and J of the bank or at EMERG_DECEL without a jerk limit; the move in
progress, the queue and a homing are gone. STOP with RELEASE in HOLD, with no cause present, answers DONE and leaves
HOLD. ESTOP of an axis at rest answers NO_CHANGE. That a descriptor command lands at the latest boundary is log 6.
(R54, R55, R51, R66.) -/
def Obligations.VelocityRampsAndStops : Prop :=
  ∀ (s : State) (d : Desc) (a : Fin 32), d.plain → s.admits d = true → d.target = a.1 →
    (∀ c : Int, c = clampInt (-(s.vCap a : Int)) (s.vCap a) (payI48 d.payload 0) → c ≠ 0 → velocityBad d.payload = false →
      s.rxOf a < 3 → s.homing a = false → (s.axState a = axSTANDSTILL ∨ s.axState a = axVELOCITY) →
      s.velForbidden a c = false →
      Runs (.velocity d) s fun x =>
        (∃ f, f ≤ 1 ∧ Answers d stSTARTED f (s.axB a) s x) ∧ x.axState a = axVELOCITY ∧ (x.prof a).velTarget = q16 c ∧
        (payByte d.payload 24 = 0 → (x.prof a).lim = (s.bankOf a).limits) ∧
        (x.prof a).plan = splice (s.axB a) (s.prof a).plan
          (planVelocity (s.axB a) (s.kinB a) (q16 c) (s.aEff a (x.prof a).lim) (q16 (s.dEff a (x.prof a).lim))
            (q16 (x.prof a).lim.j))) ∧
    (payByte d.payload 0 < 2 → payZero d.payload 1 48 = true → s.moving a = true →
      Runs (.stop d) s fun x =>
        Answers d stSTARTED 0 (s.axB a) s x ∧ x.axState a = axSTOPPING ∧
        (x.prof a).plan = splice (s.axB a) (s.prof a).plan
          (planStop (s.axB a) (s.kinB a) (q16 (s.dEff a (s.bankOf a).limits)) (q16 (s.bankOf a).j)) ∧
        (x.prof a).move = none ∧ (x.prof a).queue = [] ∧ x.homing a = false) ∧
    (payByte d.payload 0 = 1 → payZero d.payload 1 48 = true → s.axState a = axHOLD → s.causePresent a = false →
      Runs (.stop d) s fun x => Answers d stDONE 0 (s.axB a) s x ∧ x.axState a = axSTANDSTILL) ∧
    (s.moving a = true ∨ s.axState a = axSTOPPING →
      Runs (.estop d) s fun x =>
        Answers d stSTARTED 0 (s.axB a) s x ∧ x.axState a = axSTOPPING ∧
        (x.prof a).plan = splice (s.axB a) (s.prof a).plan (planStop (s.axB a) (s.kinB a) (q16 (s.emerg a)) 0) ∧
        (x.prof a).move = none ∧ (x.prof a).queue = [] ∧ x.homing a = false) ∧
    (s.moving a = false → s.axState a ≠ axSTOPPING →
      Runs (.estop d) s fun x =>
        Answers d stNO_CHANGE 0 (s.axB a) s x ∧ x.axState a = s.axState a ∧ (x.prof a).plan = (s.prof a).plan)

/-- SET_POS and SET_PARAM complete. SET_POS in DISABLED, STANDSTILL or VELOCITY without a homing, to a value inside the
soft limits, answers DONE, and the commanded position at the boundary is that value, without a change of state.
SET_PARAM that stores V, A, D or J without MOVE answers DONE with the flag LIMITED where the value was clamped,
writes the clamped value into the named bank, or the one in force for 0xFF, and leaves the other banks and the plan
alone. That a descriptor command lands at the latest boundary is log 6, and of which instant the position is, log
47. (R56, R57.) -/
def Obligations.PositionsAndParametersAreSet : Prop :=
  ∀ (s : State) (d : Desc) (a : Fin 32), d.plain → s.admits d = true → d.target = a.1 →
    (payZero d.payload 8 48 = true → s.posSettable a = true → s.softOk a (payI64 d.payload 0) = true →
      (s.prof a).plan ≠ [] →
      Runs (.setPos d) s fun x =>
        Answers d stDONE 0 (s.axB a) s x ∧ x.posB a = payI64 d.payload 0 ∧ x.axState a = s.axState a ∧ AxesBut [a] s x) ∧
    (∀ id v cap bank : Nat, id = pay16 d.payload 0 → 0x0100 ≤ id → id ≤ 0x0103 → v = pay48 d.payload 8 → v < 2 ^ 47 →
      (id = 0x0103 ∨ v ≠ 0) → cap = (if id = 0x0100 then s.vCap a else if id = 0x0103 then 2 ^ 47 else s.aCap a) →
      paramBad d.payload 6 = false → payByte d.payload 3 = 1 →
      bank = (if payByte d.payload 2 = 0xFF then s.bankNo a else payByte d.payload 2) →
      Runs (.setParam d) s fun x =>
        Answers d stDONE (if cap < v then 1 else 0) (s.axB a) s x ∧
        (∀ n : Fin 4, n.1 = bank → (x.axis a).bank[n] = ((s.axis a).bank[n]).put id (min v cap)) ∧
        (∀ n : Fin 4, n.1 ≠ bank → (x.axis a).bank[n] = (s.axis a).bank[n]) ∧
        x.prof a = s.prof a ∧ AxesBut [a] s x)

/-- Whatever MOVE, VELOCITY, STOP, ESTOP, SET_POS, GEAR_ARM and GEAR_RELEASE come to, they change nothing that any axis
but their target holds beside its registers, and nothing that any port or tile holds. (R226, R234.) -/
def Obligations.MotionDescriptorsKeepOtherAxes : Prop :=
  ∀ (s x : State) (d : Desc) (i : Instr),
    (i = .move d ∨ i = .velocity d ∨ i = .stop d ∨ i = .estop d ∨ i = .setPos d ∨ i = .gearArm d ∨ i = .gearRelease d) →
    exec i s = .next x → AxesBut [finAx d.target] s x ∧ x.ports = s.ports ∧ x.tiles = s.tiles

/-- The number of ns that the ramp of R58 takes for (√r − b) / j ms, with √r ≥ b, is the least natural number n for
which n ns, times the jerk, reach √r − b: n / (1,000,000 / j) + b is not negative and its square is at least r, and
no smaller n has both. The model never takes a root, so this says that its search agrees with the exact rule. (R58.) -/
def Obligations.RampDurationsAreLeast : Prop :=
  ∀ (r b j : Rat), 0 < j → 0 ≤ r → b ≤ 0 ∨ b * b ≤ r →
    (0 ≤ (rootNs r b j : Rat) / (1000000 / j) + b ∧
      r ≤ ((rootNs r b j : Rat) / (1000000 / j) + b) * ((rootNs r b j : Rat) / (1000000 / j) + b)) ∧
    ∀ n : Nat, 0 ≤ (n : Rat) / (1000000 / j) + b → r ≤ ((n : Rat) / (1000000 / j) + b) * ((n : Rat) / (1000000 / j) + b) →
      rootNs r b j ≤ n

/-- GEAR_ENGAGE, GEAR_ARM, GEAR_RELEASE and GR_MASTER_LOST complete. GEAR_ENGAGE from STANDSTILL with a good payload, no
lock, no reaction and no homing: condition 0 answers STARTED and the axis is GEARED to the named source with the
given ratio; condition 1 answers ARMED, the engagement waits and the axis stays in STANDSTILL. GEAR_ARM of a geared
axis with an arm position ahead of the master answers QUEUED behind the entries there are. GEAR_RELEASE of a pending
engagement answers DONE and cancels it; of a geared axis with condition 1 it answers ARMED and waits; with condition
0 it answers STARTED, and the axis goes on in VELOCITY, or in STANDSTILL where it does not move. GR_MASTER_LOST
after COAST_MS of coasting raises the class GR_MASTER_LOST once. That a descriptor command lands at the latest
boundary is log 6, from when COAST_MS counts log 49, and the order of refusals log 188. (R73, R74, R75, R81, R82.) -/
def Obligations.GearingEngagesArmsAndReleases : Prop :=
  ∀ (s : State) (a : Fin 32),
    (∀ d : Desc, d.plain → s.admits d = true → d.target = a.1 →
      (s.engageBad a d.payload = false → s.axState a = axSTANDSTILL → (s.gear a).engPend = none → s.homing a = false →
        s.rxOf a < 3 → ¬((engReqOf d).kind = 1 ∧ (s.vm (Fin.ofNat 8 (engReqOf d).idx)).samples = []) →
        s.bit (SF_IO_STAT a) SF_IO_STAT_LOCKP = false → s.bit (SF_IO_STAT a) SF_IO_STAT_LOCKN = false →
        Runs (.gearEngage d) s fun x =>
          ((engReqOf d).cond = 0 → Answers d stSTARTED 0 (s.axB a) s x ∧ x.axState a = axGEARED ∧
            (x.gear a).kind = payByte d.payload 0 ∧ (x.gear a).idx = payByte d.payload 1 ∧
            (x.gear a).law.num = payI32 d.payload 4 ∧ (x.gear a).law.den = pay32 d.payload 8 ∧
            x.bit (GR_STAT a) GR_STAT_ENGAGED = true) ∧
          ((engReqOf d).cond = 1 → Answers d stARMED 0 (s.axB a) s x ∧ (x.gear a).engPend = some (engReqOf d) ∧
            x.bit (GR_STAT a) GR_STAT_ENG_PEND = true ∧ x.axState a = axSTANDSTILL)) ∧
      (armBad d.payload = false → s.axState a = axGEARED → (s.gear a).engPend = none → (s.gear a).queue.length < 16 →
        armRange (s.masterAt a (s.gear a).kind (s.gear a).idx (s.axB a)).m (s.gear a).queue.getLast? (armOf d) = false →
        Runs (.gearArm d) s fun x =>
          Answers d stQUEUED 0 (s.axB a) s x ∧ (x.gear a).queue = (s.gear a).queue ++ [armOf d] ∧
          (x.gear a).law = (s.gear a).law) ∧
      (releaseBad d.payload = false → (s.gear a).relPend = none →
        (∀ r, (s.gear a).engPend = some r →
          Runs (.gearRelease d) s fun x =>
            Answers d stDONE 0 (s.axB a) s x ∧ (x.gear a).engPend = none ∧
            x.bit (GR_STAT a) GR_STAT_ENG_PEND = false) ∧
        ((s.gear a).engPend = none → s.axState a = axGEARED → payByte d.payload 0 = 1 →
          Runs (.gearRelease d) s fun x =>
            Answers d stARMED 0 (s.axB a) s x ∧ x.axState a = axGEARED ∧
            (x.gear a).relPend.map (fun r => (r.tag, r.value)) = some (d.tag, payI64 d.payload 8)) ∧
        ((s.gear a).engPend = none → s.axState a = axGEARED → payByte d.payload 0 = 0 →
          Runs (.gearRelease d) s fun x => Answers d stSTARTED 0 (s.axB a) s x ∧
            x.axState a = (if (s.kinB a).v = 0 then axSTANDSTILL else axVELOCITY) ∧ (x.gear a).queue = [] ∧
            x.bit (GR_STAT a) GR_STAT_ENGAGED = false))) ∧
    ∀ t u : Nat, (s.gear a).coastFrom = some u → s.axState a = axGEARED → (s.gear a).lost = false →
      u + 1000000 * s.fld (GR_CFG a) GR_CFG_COAST_MS ≤ (s.reach t).now →
      Runs (.grMasterLost t a) s fun x => Faults s x 5 a ∧ (x.gear a).lost = true

/-- FOLLOW_STEP and STEP_PULSE complete. FOLLOW_STEP without END from STANDSTILL with EN set, no lock, no reaction and
no homing answers STARTED and puts the axis in STEP_FOLLOW with no pulse counted; with END while following it
answers STARTED and the drain runs. Of STEP_PULSE, levels shorter than MINPW clocks count in GLITCH alone. A level
that has held so long becomes the accepted level; where that changes it along the edge that EDGE selects, it is a
pulse while following, its raw edge where the level began and its acceptance MINPW clocks later: at least 125 ns
after the previous raw edge it moves the pulse position by SCALE + 1 ticks in the direction of DIR; one closer than
that is dropped and counts in OVERRATE. A level that has not held, one that is the accepted level, and one of the
other edge move nothing. That a descriptor command lands at the latest boundary is log 6; pulses outside following
are log 58, and the accepted level at reset log 261. (R86, R87, R89.) -/
def Obligations.StepPulsesAreFollowed : Prop :=
  ∀ (s : State) (a : Fin 32),
    (∀ d : Desc, d.plain → s.admits d = true → d.target = a.1 → payZero d.payload 1 48 = true →
      ((payByte d.payload 0 = 0 ∨ payByte d.payload 0 = 2) → s.axState a = axSTANDSTILL →
        s.bit (SF_CFG a) SF_CFG_EN = true → s.homing a = false → s.rxOf a < 3 →
        s.bit (SF_IO_STAT a) SF_IO_STAT_LOCKP = false → s.bit (SF_IO_STAT a) SF_IO_STAT_LOCKN = false →
        Runs (.followStep d) s fun x =>
          Answers d stSTARTED 0 (s.axB a) s x ∧ x.axState a = axSTEPFOLLOW ∧ (x.sf a).q = 0 ∧ (x.sf a).pulses = [] ∧
          (x.sf a).pBase = (s.kinB a).p) ∧
      ((payByte d.payload 0 = 1 ∨ payByte d.payload 0 = 3) → s.axState a = axSTEPFOLLOW → (s.sf a).drain = none →
        Runs (.followStep d) s fun x =>
          Answers d stSTARTED 0 (s.axB a) s x ∧ x.axState a = axSTEPFOLLOW ∧
          (x.sf a).drain = some (s.axB a, payBit d.payload 0 1, d.tag) ∧
          x.bit (SF_STAT a) SF_STAT_DRAIN = true)) ∧
    ∀ (t held : Nat) (high dir : Bool) (short : List Nat),
      (∀ edge : Nat, edge = t - 5 * held → s.levelOk a held = true → high ≠ (s.sf a).level →
        high ≠ s.bit (SF_CFG a) SF_CFG_EDGE → s.axState a = axSTEPFOLLOW → (s.sf a).drain = none →
        (s.sf a).landAt ≤ edge + 5 * s.fld (SF_CFG a) SF_CFG_MINPW →
        Runs (.stepPulse t a high dir short held) s fun x =>
          (x.sf a).level = high ∧ (x.sf a).lastEdge = some edge ∧
          ((∀ e, (s.sf a).lastEdge = some e → e + 125 ≤ edge) →
            (x.sf a).q = (s.sf a).q +
              (if dir = s.bit (SF_CFG a) SF_CFG_DIRINV then -(s.fld (SF_CFG a) SF_CFG_SCALE + 1 : Int)
               else (s.fld (SF_CFG a) SF_CFG_SCALE + 1 : Int)) ∧
            (x.sf a).pulses.head? = some ⟨edge, edge + 5 * s.fld (SF_CFG a) SF_CFG_MINPW, (x.sf a).q⟩) ∧
          (∀ e, (s.sf a).lastEdge = some e → edge < e + 125 →
            (x.sf a).q = (s.sf a).q ∧ (x.sf a).pulses = (s.sf a).pulses ∧ Counts s x (SF_CNT a) SF_CNT_OVERRATE) ∧
          AxesBut [a] s x) ∧
      (s.levelOk a held = true → high ≠ (s.sf a).level → high = s.bit (SF_CFG a) SF_CFG_EDGE →
        Runs (.stepPulse t a high dir short held) s fun x =>
          x.sf a = { s.sf a with level := high } ∧ AxesBut [a] s x ∧ RegsBut [SF_CNT a] s x) ∧
      (s.levelOk a held = false ∨ high = (s.sf a).level →
        Runs (.stepPulse t a high dir short held) s fun x =>
          x.axes = s.axes ∧ RegsBut [SF_CNT a] s x ∧
          x.fld (SF_CNT a) SF_CNT_GLITCH =
            min (s.fld (SF_CNT a) SF_CNT_GLITCH + (short.filter fun n => decide (n < s.fld (SF_CFG a) SF_CFG_MINPW)).length)
              (2 ^ SF_CNT_GLITCH.width - 1))

/-- HOME and HOMING_TIMEOUT complete. HOME with a good payload from STANDSTILL, with no homing, reaction or migration,
answers STARTED, sets HOMING with the method, cancels a pending engagement, and the axis stays in STANDSTILL until
the method begins at the next boundary. HOMING_TIMEOUT, TIMEOUT milliseconds after the start, ends the homing with
reason 4: HOMING and HOMED read 0, and an axis that moves with no limit stop due stops at the next boundary. That a
descriptor command lands at the latest boundary is log 6, and where a failed homing stops, log 193. (R93, R96.) -/
def Obligations.HomingStartsAndTimesOut : Prop :=
  ∀ (s : State) (a : Fin 32),
    (∀ d : Desc, d.plain → s.admits d = true → d.target = a.1 → s.homeBad d.payload = false → s.axState a = axSTANDSTILL →
      s.homing a = false → s.rxOf a < 3 → (s.axis a).mig = none →
      Runs (.home d) s fun x =>
        (∃ f, f ≤ 1 ∧ Answers d stSTARTED f (s.axB a) s x) ∧ x.axState a = axSTANDSTILL ∧ (x.gear a).engPend = none ∧
        (x.home a).map (fun h => (h.tag, h.method)) = some (d.tag, payByte d.payload 0) ∧
        x.bit (SF_HOME_STAT a) SF_HOME_STAT_HOMING = true ∧
        x.fld (SF_HOME_STAT a) SF_HOME_STAT_METHOD = payByte d.payload 0 ∧
        x.bit (SF_HOME_STAT a) SF_HOME_STAT_HOMED = false ∧ AxesBut [a] s x) ∧
    ∀ (t : Nat) (h : HomeRun), s.home a = some h → h.timeout ≠ 0 → h.startAt + 1000000 * h.timeout ≤ (s.reach t).now →
      Runs (.homingTimeout t a) s fun x =>
        x.home a = none ∧ x.fld (SF_HOME_STAT a) SF_HOME_STAT_REASON = 4 ∧
        x.bit (SF_HOME_STAT a) SF_HOME_STAT_HOMING = false ∧ x.bit (SF_HOME_STAT a) SF_HOME_STAT_HOMED = false ∧
        (s.moving a = true → (s.axis a).io.stopPend = none → (s.tile (tileOf a)).stepping = false →
          (x.prof a).stopDue = true)

/-- HOME_INPUT_CHANGE, LIMIT_HIT and LIMIT_INACTIVE complete. One whose majority-filtered level differs from the one
shown sets the input outside the hold after its last event; inside the hold it changes no register but the count
CHATTER and no other part of the state - no lock, no record, no event; one whose filtered level is the one shown
changes nothing but the time. An enabled limit that goes active sets the lock of its direction with the exact
commanded position at the edge instant as p_trip, and where the axis moves into it a limit stop waits for its
boundary. A limit that goes inactive leaves the lock to R92. That an input is inactive at reset is log 60. (R84,
R85, R91, R92.) -/
def Obligations.AxisInputsLockAndRelease : Prop :=
  ∀ (s : State) (t : Nat) (a : Fin 32) (raw : BitVec 15),
    (∀ on : Bool, s.ioLevel a SF_IO_STAT_HOME SF_IO_FILT_POL_HOME raw t = on →
      (s.bit (SF_IO_STAT a) SF_IO_STAT_HOME ≠ on → Runs (.homeInputChange t a raw) s fun x =>
        ((s.axis a).io.holdHome ≤ t → x.bit (SF_IO_STAT a) SF_IO_STAT_HOME = on ∧
          (x.axis a).io.holdHome = t + s.ioHold a) ∧
        (t < (s.axis a).io.holdHome → Counts s x (SF_IO_CNT a) SF_IO_CNT_CHATTER ∧
          RegsBut [SF_IO_CNT a] s x ∧ Touches [.now, .regs] s x)) ∧
      (s.bit (SF_IO_STAT a) SF_IO_STAT_HOME = on → Runs (.homeInputChange t a raw) s fun x => x = s.reach t)) ∧
    ∀ (neg : Bool) (lim en lock : Fld) (hold : Nat),
      lim = (if neg then SF_IO_STAT_LIMN else SF_IO_STAT_LIMP) → en = (if neg then SF_IO_FILT_LIMN_EN else SF_IO_FILT_LIMP_EN) →
      lock = (if neg then SF_IO_STAT_LOCKN else SF_IO_STAT_LOCKP) →
      hold = (if neg then (s.axis a).io.holdN else (s.axis a).io.holdP) →
      (s.limitLevel a neg raw t = true → s.bit (SF_IO_STAT a) lim = false →
        (hold ≤ t → Runs (.limitHit t a neg raw) s fun x =>
          x.bit (SF_IO_STAT a) lim = true ∧
          (s.bit (SF_IO_FILT a) en = true →
            x.bit (SF_IO_STAT a) lock = true ∧
            (if neg then (x.axis a).io.tripN else (x.axis a).io.tripP) = (s.kinAt a (s.ioEdge a t) (s.axB a)).p ∧
            (s.movesInto a neg t = true → (x.axis a).io.stopPend.isSome = true))) ∧
        (t < hold → Runs (.limitHit t a neg raw) s fun x =>
          Counts s x (SF_IO_CNT a) SF_IO_CNT_CHATTER ∧ RegsBut [SF_IO_CNT a] s x ∧ Touches [.now, .regs] s x)) ∧
      (s.limitLevel a neg raw t = false → s.bit (SF_IO_STAT a) lim = true →
        (hold ≤ t → Runs (.limitInactive t a neg raw) s fun x =>
          x.bit (SF_IO_STAT a) lim = false ∧ x.bit (SF_IO_STAT a) lock = s.bit (SF_IO_STAT a) lock ∧
          x.axState a = s.axState a) ∧
        (t < hold → Runs (.limitInactive t a neg raw) s fun x =>
          Counts s x (SF_IO_CNT a) SF_IO_CNT_CHATTER ∧ RegsBut [SF_IO_CNT a] s x ∧ Touches [.now, .regs] s x)) ∧
      (s.limitLevel a neg raw t = false → Runs (.limitHit t a neg raw) s fun x => x = s.reach t) ∧
      (s.limitLevel a neg raw t = true → Runs (.limitInactive t a neg raw) s fun x => x = s.reach t)

/-- STALL, OB_SLIP, WEAK and ESTIMATE_TIMEOUT complete. STALL, once a stall is due, sets STALLED, counts in STALLS,
clears HOMED and is reported once: the STALL event with λ goes to the event ring of the owner, where that has room,
and unless homing method 3 seeks its stop, class 32 is raised against the axis with the reaction that STALL_RX
names; in that search no fault is raised. OB_SLIP after 16 periods shifts the estimate by the whole cycles found,
adds them to OB_SLIP within its range and writes an info record. WEAK after 256 weak demodulations sets WEAK, clears
VALID and the correction, and writes a warning record. ESTIMATE_TIMEOUT after 64 periods without a measurement in
regime 1 or 2 clears VALID and the correction. That a stall is declared each time the counter reaches N is log 76,
the one n of a slip log 75, and that OB_SLIP saturates log 263. (R126, R130, R131.) -/
def Obligations.ObserverReportsStallsAndSlips : Prop :=
  ∀ (s : State) (t : Nat) (a : Fin 32),
    ((s.obs a).stallDue = true → Runs (.stall t a) s fun x =>
      x.bit (OB_STAT a) OB_STAT_STALLED = true ∧ Counts s x (OB_CNT a) OB_CNT_STALLS ∧
      x.bit (SF_HOME_STAT a) SF_HOME_STAT_HOMED = false ∧ (x.obs a).stallDue = false ∧
      (∀ n, s.canTell (s.ownerAx a) n (plainSev 0x0401) →
        Tells s x (s.ownerAx a) n 0x0401 (evParams [(s.obs a).lambda])) ∧
      (s.home a = none → Faults s x 32 a ∧ ∃ r ∈ (x.axis a).ep.pend, r.cls = 32 ∧
        r.rx = (if s.fld (OB_CFG a) OB_CFG_STALL_RX = 0 then 1 else if s.fld (OB_CFG a) OB_CFG_STALL_RX = 1 then 3 else 4)) ∧
      (∀ h, s.home a = some h → h.method = 3 → 1 ≤ h.phase → h.phase ≤ 3 →
        (x.axis a).ep.pend = (s.axis a).ep.pend ∧ (x.axis a).ep.classes = (s.axis a).ep.classes)) ∧
    (16 ≤ (s.obs a).slipRun → Runs (.obSlip t a) s fun x =>
      (x.obs a).est = (s.obs a).est.shift (65536 * (262144 * (s.obs a).slipN)) ∧ (x.obs a).slipRun = 0 ∧
      (x.obs a).slipN = 0 ∧
      x.fldI (OB_SLIP a) OB_SLIP_CYC =
        clampInt (-2147483648) 2147483647 (s.fldI (OB_SLIP a) OB_SLIP_CYC + (s.obs a).slipN) ∧ Logs s x (.dev .slip) 0 a.1 ∧ AxesBut [a] s x ∧ RegsBut [OB_SLIP a] s x) ∧
    (256 ≤ (s.obs a).weakRun → s.bit (OB_STAT a) OB_STAT_WEAK = false → Runs (.weak t a) s fun x =>
      x.bit (OB_STAT a) OB_STAT_WEAK = true ∧ x.bit (OB_STAT a) OB_STAT_VALID = false ∧ (x.obs a).corr = 0 ∧
      Logs s x (.dev .weakSaliency) 0 a.1 ∧ RegsBut [OB_STAT a] s x) ∧
    (64 ≤ (s.obs a).noMeas → (s.regime a = 1 ∨ s.regime a = 2) → Runs (.estimateTimeout t a) s fun x =>
      (x.obs a).timedOut = true ∧ x.bit (OB_STAT a) OB_STAT_VALID = false ∧ (x.obs a).corr = 0 ∧ AxesBut [a] s x ∧ RegsBut [OB_STAT a] s x)

/-- CR_OVERRANGE, CR_NOSAMPLE, MISSED_RESULTS and MISSED_RESULTS_HOLD complete. CR_OVERRANGE after 16 windows with OVR
in a row and CR_NOSAMPLE after 3 windows without a valid sample raise their class against the axis mapped to the
port, once for a run. MISSED_RESULTS, where the results of a port missed the latch deadline, notes the missed
period, which counts for each port (the model's choice, log entry 169). MISSED_RESULTS_HOLD after 3 missed periods
in a row freezes the axis. That windows are counted in every state of the port is log 62, and that the third period
acts, log 68. (R107, R18.) -/
def Obligations.CurrentWindowsRaiseTheirFaults : Prop :=
  ∀ (s : State) (t : Nat) (p : Fin 64),
    (16 ≤ (s.loop p).ovrRun → (s.loop p).ovrRaised = false → Runs (.crOverrange t p) s fun x =>
      (x.loop p).ovrRaised = true ∧ ∀ a b, s.axisOfPort p = some (a, b) → Faults s x 8 a) ∧
    (3 ≤ (s.loop p).noRun → (s.loop p).noRaised = false → Runs (.crNosample t p) s fun x =>
      (x.loop p).noRaised = true ∧ ∀ a b, s.axisOfPort p = some (a, b) → Faults s x 9 a) ∧
    ((s.loop p).missed = false → Runs (.missedResults t p) s fun x =>
      (x.loop p).missed = true ∧ (x.loop p).missRun = (s.loop p).missRun + 1 ∧
      Counts s x (GLB_XING_CNT (pT p)) GLB_XING_CNT_MISSED ∧ RegsBut [GLB_XING_CNT (pT p)] s x ∧ PortsBut [p] s x) ∧
    ∀ a b, (s.loop p).missRun = 3 → s.axisOfPort p = some (a, b) → s.axState a ≠ axDISABLED →
      Runs (.missedResultsHold t p) s fun x =>
        x.axState a = axHOLD ∧ Faults s x 26 a ∧
        x.bit GLB_HEDGE_STAT (GLB_HEDGE_STAT_XING_FAULT (tileOfPort p).1) = true

/-- WINDOW completes. The filtered outputs come from the raw ones at the last filter clocks. In a monitor without a
parity fault, a retired comparator, a running check or a quiet time: with both outputs active the state is
CHECK_FAIL, with the high output alone HIGH, with the low output alone LOW, and with neither, both comparators
known, IN; where it is not the state reported last, EV_EN sends WINDOW with the old and the new state to the owner
of the tile, where its event ring has room, and HIGH, LOW and CHECK_FAIL count in EXITS. A monitor whose check runs
keeps its state. In OFF nothing happens. The source of WINDOW is log 96, the quiet time log 98 and log 270. (R176,
R182, R183, R347.) -/
def Obligations.WindowMonitorsFollowTheirOutputs : Prop :=
  ∀ (s : State) (at_ : Nat) (t : Fin 4) (j : Fin 8) (rawH rawL : BitVec 15) (h l : Bool),
    (s.reach at_).winLevel t (2 * j.1) rawH = h → (s.reach at_).winLevel t (2 * j.1 + 1) rawL = l →
    (s.devState = dOFF → Runs (.window at_ t j rawH rawL) s fun x => x = s.reach at_) ∧
    (s.devState ≠ dOFF → s.windowBusy t j.1 = false → (s.tile t).win.quiet[j] ≤ (s.reach at_).now → s.windowParity t = false →
      (s.tile t).win.retired.toArray.getD (2 * j.1) false = false →
      (s.tile t).win.retired.toArray.getD (2 * j.1 + 1) false = false →
      Runs (.window at_ t j rawH rawL) s fun x =>
        (h = true → l = true → x.fld (CMP_WSTAT t) (CMP_WSTAT_STATE j.1) = 4) ∧
        (h = true → l = false → x.fld (CMP_WSTAT t) (CMP_WSTAT_STATE j.1) = 3) ∧
        (h = false → l = true → x.fld (CMP_WSTAT t) (CMP_WSTAT_STATE j.1) = 1) ∧
        (h = false → l = false → (s.tile t).win.unknown.toArray.getD (2 * j.1) false = false →
          (s.tile t).win.unknown.toArray.getD (2 * j.1 + 1) false = false →
          x.fld (CMP_WSTAT t) (CMP_WSTAT_STATE j.1) = 2) ∧
        (∀ new : Nat, new = x.fld (CMP_WSTAT t) (CMP_WSTAT_STATE j.1) → new ≠ (s.tile t).win.seen[j] →
          (x.tile t).win.seen[j] = new ∧
          (new = 1 ∨ new = 3 ∨ new = 4 → Counts s x (CMP_WCNT t) CMP_WCNT_EXITS) ∧
          ∀ c n, c = s.ownerAx (finAx (8 * t.1)) → s.bit (CMP_WCTRL t j.1) CMP_WCTRL_EV_EN = true → s.canTell c n (plainSev 0x0601) →
            Tells s x c n 0x0601 (evParams [(8 * t.1 + j.1 : Nat), (s.tile t).win.seen[j], new])) ∧ TilesBut [t] s x) ∧
    (s.devState ≠ dOFF → s.windowBusy t j.1 = true → Runs (.window at_ t j rawH rawL) s fun x =>
      x.fld (CMP_WSTAT t) (CMP_WSTAT_STATE j.1) = s.fld (CMP_WSTAT t) (CMP_WSTAT_STATE j.1) ∧ RegsBut [ADC_INJ t 0, ADC_INJ t 1] s x ∧
      TilesBut [t] s x)

/-- SELF_CHECK_STEP_END completes. Of a comparator under check: step 1 notes whether the raw output differs from normal
operation and goes on to step 2; a failed step repeats the check at once, up to 3 attempts in all, and counts in
CHKFAIL; the third failure ends it FAILED and retires the comparator of the port, with a warning record the first
time; step 3 with the inverted output ends it PASSED, or PASSED with the swap undetermined. It is so for the
comparators of a port and for those of a window monitor. (A port whose diagnostics run only waits for the checks to
end, for want of a bus, is the concern of the statement on diagnostics.) That a failed step ends its attempt is log
95, and what the retirement counts log 99. (R179, R181.) -/
def Obligations.SelfChecksRunTheirSteps : Prop :=
  (∀ (s : State) (t : Nat) (p : Fin 64) (i : Fin 10) (k : CmpCheck) (normal raw : Bool), (s.port p).check[i] = some k →
    (∀ r, (s.tile (tileOfPort p)).diag = some r → r.step ≠ 0) →
    (k.step = 1 → Runs (.selfCheckStepEnd t (.port p i) normal raw) s fun x =>
      (x.port p).check[i] = some { k with step := 2, normal := normal, undet := raw == normal } ∧
      x.regs = s.regs ∧ PortsBut [p] s x) ∧
    (k.step = 2 → raw = !portInverted i → Runs (.selfCheckStepEnd t (.port p i) normal raw) s fun x =>
      (x.port p).check[i] = some { k with step := 3 } ∧ x.regs = s.regs ∧ PortsBut [p] s x) ∧
    ((k.step = 2 ∧ raw = portInverted i ∨ k.step = 3 ∧ raw = !portInverted i) →
      Runs (.selfCheckStepEnd t (.port p i) normal raw) s fun x =>
        Counts s x (CMP_CNT (pT p) (pI p)) CMP_CNT_CHKFAIL ∧
        (k.attempt < 3 → (x.port p).check[i] = some { CmpCheck.first with attempt := k.attempt + 1 }) ∧
        (3 ≤ k.attempt → (x.port p).check[i] = none ∧ x.fld (CMP_CHKRES (pT p) (pI p)) ⟨2 * i.1, 2⟩ = 3 ∧
          x.bit (CMP_CHKRES (pT p) (pI p)) ⟨20 + i.1, 1⟩ = true ∧
          (s.bit (CMP_CHKRES (pT p) (pI p)) ⟨20 + i.1, 1⟩ = false → Logs s x (.dev .selfCheckRetire) 1 p.1)) ∧ PortsBut [p] s x) ∧
    (k.step = 3 → raw = portInverted i → Runs (.selfCheckStepEnd t (.port p i) normal raw) s fun x =>
      (x.port p).check[i] = none ∧
      x.fld (CMP_CHKRES (pT p) (pI p)) ⟨2 * i.1, 2⟩ = (if k.undet then 2 else 1) ∧
      x.bit (CMP_STAT (pT p) (pI p)) ⟨16 + i.1, 1⟩ = false ∧ PortsBut [p] s x)) ∧
  ∀ (s : State) (at_ : Nat) (t : Fin 4) (i : Fin 16) (k : CmpCheck) (normal raw : Bool), (s.tile t).win.check[i] = some k →
    (∀ r, (s.tile t).diag = some r → r.step ≠ 0) →
    (k.step = 1 → Runs (.selfCheckStepEnd at_ (.window t i) normal raw) s fun x =>
      (x.tile t).win.check[i] = some { k with step := 2, normal := normal, undet := raw == normal } ∧
      x.regs = s.regs ∧ TilesBut [t] s x ∧ x.ports = s.ports) ∧
    (k.step = 2 → raw = !winInverted i → Runs (.selfCheckStepEnd at_ (.window t i) normal raw) s fun x =>
      (x.tile t).win.check[i] = some { k with step := 3 } ∧ x.regs = s.regs ∧ TilesBut [t] s x ∧ x.ports = s.ports) ∧
    ((k.step = 2 ∧ raw = winInverted i ∨ k.step = 3 ∧ raw = !winInverted i) →
      Runs (.selfCheckStepEnd at_ (.window t i) normal raw) s fun x =>
        Counts s x (CMP_WCNT t) CMP_WCNT_CHKFAIL ∧
        (k.attempt < 3 → (x.tile t).win.check[i] = some { CmpCheck.first with attempt := k.attempt + 1 }) ∧
        (3 ≤ k.attempt → (x.tile t).win.check[i] = none ∧ (x.tile t).win.res[i] = 3 ∧ (x.tile t).win.retired[i] = true) ∧
        TilesBut [t] s x) ∧
    (k.step = 3 → raw = winInverted i → Runs (.selfCheckStepEnd at_ (.window t i) normal raw) s fun x =>
      (x.tile t).win.check[i] = none ∧ (x.tile t).win.res[i] = (if k.undet then 2 else 1) ∧
      (x.tile t).win.unknown[i] = false ∧ TilesBut [t] s x)

/-- CYCLE_TRIP, PWM_TRIP_LATCH, TRIP_CNT_CLEAR and CARRIER_START complete. Each finds its port as it is at its line time
z, with its valley and its pins worked out to that time (the model's way, log entry 197). CYCLE_TRIP, with its
filtered output active, of a port that drives its gates, is not tripping and is not blanked puts it into the trip
state, and the first trip of a period counts in TRIP_CNT and in TRIPS and sets CLEAN to 0; an output that is not
active trips nothing. PWM_TRIP_LATCH with TRIP_CNT at NTRIP or above latches the port and raises its class.
TRIP_CNT_CLEAR with CLEAN at MCLEAN or above sets TRIP_CNT to 0. CARRIER_START ends the trip state and lets released
switches rejoin. (R147, R159, R161.) -/
def Obligations.TripsCountLatchAndClear : Prop :=
  ∀ (s : State) (t : Nat) (p : Fin 64) (z : State), z = settlePort p (s.reach t) →
    (∀ (low : Bool) (raw : BitVec 15) (on : Bool), z.portLevel p (if low then 3 else 2) raw = on →
      (on = true → z.gatesLive p z.now = true → z.bit (pwmStat p) PWM_STAT_TRIPPING = false → z.itBlanked p z.now = false →
        Runs (.cycleTrip t p low raw) s fun x =>
          x.bit (pwmStat p) PWM_STAT_TRIPPING = true ∧ (x.pwm p).tripSeen = true ∧ x.portState p = z.portState p ∧
          ((z.pwm p).tripSeen = false →
            Counts z x (PWM_TRIPSTAT (pT p) (pI p)) PWM_TRIPSTAT_TRIP_CNT ∧ Counts z x (PWM_CNT (pT p) (pI p)) PWM_CNT_TRIPS ∧
            x.fld (PWM_TRIPSTAT (pT p) (pI p)) PWM_TRIPSTAT_CLEAN = 0) ∧ PortsBut [p] z x) ∧
      (on = false → Runs (.cycleTrip t p low raw) s fun x =>
        x.ports = z.ports ∧ RegsBut [CMP_STAT (pT p) (pI p)] z x)) ∧
    (z.portState p = pRUN →
      z.fld (PWM_TRIP (pT p) (pI p)) PWM_TRIP_NTRIP ≤ z.fld (PWM_TRIPSTAT (pT p) (pI p)) PWM_TRIPSTAT_TRIP_CNT →
      Runs (.pwmTripLatch t p) s fun x =>
        x.portState p = pLATCHED ∧ x.portSafe p ∧ ∀ a b, s.axisOfPort p = some (a, b) → Faults z x 10 a) ∧
    (z.fld (PWM_TRIP (pT p) (pI p)) PWM_TRIP_MCLEAN ≤ z.fld (PWM_TRIPSTAT (pT p) (pI p)) PWM_TRIPSTAT_CLEAN →
      Runs (.tripCntClear t p) s fun x =>
        x.fld (PWM_TRIPSTAT (pT p) (pI p)) PWM_TRIPSTAT_TRIP_CNT = 0 ∧
        x.fld (PWM_TRIPSTAT (pT p) (pI p)) PWM_TRIPSTAT_CLEAN = z.fld (PWM_TRIPSTAT (pT p) (pI p)) PWM_TRIPSTAT_CLEAN ∧
        RegsBut [PWM_TRIPSTAT (pT p) (pI p)] z x ∧ x.ports = z.ports) ∧
    Runs (.carrierStart t p) s fun x =>
      x.bit (pwmStat p) PWM_STAT_TRIPPING = false ∧ (x.gd p).rejoin = Vector.replicate 4 false ∧
      RegsBut [pwmStat p, PWM_TRIPSTAT (pT p) (pI p)] z x ∧ PortsBut [p] z x

/-- COMMUTATION_EVENT completes. Of a code whose crossing is due it takes that crossing, so that it acts once; each of
the two ports of the axis that is in RUN with the event enabled applies the mask that PWM_MASKEV maps to the event
and counts it. The ports are as at the line time of the event, with their valleys and pins worked out to it (the
model's way, log entry 197). Before the first valley of RUN, log 202. (R132, R148.) -/
def Obligations.CommutationSelectsMasks : Prop :=
  ∀ (s : State) (t : Nat) (a : Fin 32) (code : Nat) (z : State), z = settlePort (s.portOf a true) (settlePort (s.portOf a false) (s.reach t)) →
    ∀ c : Nat × Nat, dueCrossing (z.obs a).crossings code z.now = some c → s.portOf a false ≠ s.portOf a true →
    Runs (.commutationEvent t a code) s fun x =>
      (x.obs a).crossings = (z.obs a).crossings.erase c ∧
      (∀ b q, s.portOf a b = q → z.portState q = pRUN → code < 7 → z.bit (PWM_MASKEV (pT q) (pI q)) (PWM_MASKEV_EN code) = true →
        Counts z x (PWM_CNT2 (pT q) (pI q)) PWM_CNT2_MASKEV ∧
        ((z.pwm q).masks.length < 16 → ∃ m ∈ (x.pwm q).masks, m.rank = code + 1 ∧
          m.mask = z.fld (PWM_MASKEV (pT q) (pI q)) (PWM_MASKEV_SEL code) ∧ (c.2 : Rat) ≤ m.time)) ∧
      AxesBut [a] z x ∧ PortsBut [s.portOf a false, s.portOf a true] z x

/-- SWITCH_NODE_CROSSING and GD_ADAPT_LIM complete. SWITCH_NODE_CROSSING on a powered port with the comparator of the
leg not retired, with a turn-off as the last change of the leg, or a turn-on at most 400 ns before, is the switching
time of that change, in units with the 5 ns of the comparator taken off; with no such change it counts in NOEDGE
once for a period; a retired comparator gives no timing. GD_ADAPT_LIM after 256 measured periods of a code at its
limit sets AT_LIMIT, and raises its class where AT_LIMIT was 0. The port is as at the line time, with its valley and
its pins worked out to it (the model's way, log entry 197). The range and rounding of the time are log 85, the count
under FREEZE log 269. (R152, R154, R181.) -/
def Obligations.SwitchingTimesAreMeasured : Prop :=
  (∀ (s : State) (u : Nat) (p : Fin 64) (b rising : Bool) (z : State), z = settlePort p (s.reach (u * 5 / 32)) →
      z.compsOn p = true →
      (z.bit (CMP_CHKRES (pT p) (pI p)) ⟨20 + (legIdx b).1, 1⟩ = false → Runs (.switchNodeCrossing u p b rising) s fun x =>
        (∀ k, z.lastEdge p b (unitNs u) = some k →
          (k.on = false → (x.gd p).tOff = (z.gd p).tOff.setIfInBounds k.sw (some (tswUnits (unitNs u) k.time))) ∧
          (k.on = true → unitNs u ≤ k.time + 400 →
            (x.gd p).tOn = (z.gd p).tOn.setIfInBounds k.sw (some (tswUnits (unitNs u) k.time)))) ∧
        (z.lastEdge p b (unitNs u) = none ∨ (∃ k, z.lastEdge p b (unitNs u) = some k ∧ k.on = true ∧ k.time + 400 < unitNs u) →
          (z.gd p).noEdge[legIdx b] = false → Counts z x (gdCnt p) GD_CNT_NOEDGE ∧ (x.gd p).noEdge[legIdx b] = true) ∧
        PortsBut [p] z x) ∧
      (z.bit (CMP_CHKRES (pT p) (pI p)) ⟨20 + (legIdx b).1, 1⟩ = true → Runs (.switchNodeCrossing u p b rising) s fun x =>
        x.ports = z.ports)) ∧
    ∀ (s : State) (t : Nat) (p : Fin 64) (i : Fin 8) (z : State), z = settlePort p (s.reach t) →
      256 ≤ (z.gd p).limRun[i] → (z.gd p).atLim[i] = false →
      Runs (.gdAdaptLim t p) s fun x =>
        x.bit (gdStat p) GD_STAT_AT_LIMIT = true ∧ (x.gd p).atLim[i] = true ∧ PortsBut [p] z x ∧
        (z.bit (gdStat p) GD_STAT_AT_LIMIT = false → ∀ a b, s.axisOfPort p = some (a, b) → Faults z x 16 a)

/-- UVLO_ENTRY, UVLO_EXIT and GD_BOOT_UV complete. UVLO_ENTRY of a bootstrap supply locks out its leg, shows in UV and
counts; of VGD it sets VGD_UV of the tile. UVLO_EXIT ends the lockout of the supply, VGD_UV reads 0 again, and a
failed refresh is forgotten. GD_BOOT_UV after UVTIME port periods raises its class once for a lockout. The port is
as at the line time, with its valley and its pins worked out to it (the model's way, log entry 197). Which port
periods count for UVTIME is log 201. (R158, R159.) -/
def Obligations.SupplyLockoutsHoldTheirSwitches : Prop :=
  ∀ (s : State) (t : Nat) (p : Fin 64) (z : State), z = settlePort p (s.reach t) →
    (∀ l : Fin 2, (z.gd p).uvBoot[l] = false → Runs (.uvloEntry t p (.boot l)) s fun x =>
      (x.gd p).uvBoot[l] = true ∧ (x.fld (gdStat p) GD_STAT_UV).testBit (2 * l.1) = true ∧ Counts z x (gdCnt p) GD_CNT_UV ∧
      Logs z x (.dev .uvLockout) 1 p.1 ∧ PortsBut [p] z x) ∧
    (z.bit (GD_TSTAT (tileOfPort p)) GD_TSTAT_VGD_UV = false → Runs (.uvloEntry t p .vgd) s fun x =>
      x.bit (GD_TSTAT (tileOfPort p)) GD_TSTAT_VGD_UV = true ∧ Counts z x (GD_TCNT (tileOfPort p)) GD_TCNT_VGD_UV ∧
      Logs z x (.dev .uvLockout) 2 (tileOfPort p).1) ∧
    (∀ l : Fin 2, (z.gd p).uvBoot[l] = true → Runs (.uvloExit t p (.boot l)) s fun x =>
      (x.gd p).uvBoot[l] = false ∧ (x.gd p).uvRefresh = (z.gd p).uvRefresh ∧ PortsBut [p] z x) ∧
    (∀ l : Fin 2, (z.gd p).uvRefresh[l] = true → Runs (.uvloExit t p (.refresh l)) s fun x =>
      (x.gd p).uvRefresh[l] = false ∧ x.bit (gdStat p) (bslow l) = false ∧ PortsBut [p] z x) ∧
    (z.bit (GD_TSTAT (tileOfPort p)) GD_TSTAT_VGD_UV = true → Runs (.uvloExit t p .vgd) s fun x =>
      x.bit (GD_TSTAT (tileOfPort p)) GD_TSTAT_VGD_UV = false) ∧
    ∀ i : Fin 3, z.uvDue p i = true → Runs (.gdBootUv t p i) s fun x =>
      (x.gd p).uvFault[i] = true ∧
      (i ≠ 2 → ∀ a b, s.axisOfPort p = some (a, b) → Faults z x 14 a) ∧
      (i = 2 → ∀ a b, s.axisOfPort p = some (a, b) → tileOf a = tileOfPort p → Faults z x 15 a)

/-- BOOTSTRAP_LOW, REFRESH_PULSE and REFRESH_FAIL_LOCKOUT complete. BOOTSTRAP_LOW shows in BSLOW and, on a port in RUN
without a pulse scheduled or under way or a lockout, schedules a refresh pulse. REFRESH_PULSE is the sample of a
pulse under way: above the threshold without a lockout of the low side it ends the sequence, below it the next pulse
follows, up to the fourth. REFRESH_FAIL_LOCKOUT after the fourth locks out the high side, counts and writes a
warning record. The port is as at the line time, with its valley and its pins worked out to it (the model's way, log
entry 197). A pulse under a mask is log 88. (R156, R157.) -/
def Obligations.BootstrapsAreRefreshed : Prop :=
  ∀ (s : State) (t : Nat) (p : Fin 64) (l : Fin 2) (z : State), z = settlePort p (s.reach t) →
    (∀ low, Runs (.bootstrapLow t p l low) s fun x =>
      x.bit (gdStat p) (bslow l) = low ∧
      (low = true → z.portState p = pRUN → (z.gd p).pulseDue[l] = false → (z.gd p).uvRefresh[l] = false →
        (x.gd p).refreshAt[l].isSome = true) ∧
      (low = false → (x.gd p).uvRefresh[l] = false) ∧ RegsBut [gdStat p] z x ∧ PortsBut [p] z x) ∧
    (∀ (above ok : Bool) (v : Rat), (z.gd p).pulseDue[l] = true →
      ((z.pwm p).pulses.find? fun r => r.1 == l.1).map (·.2) = some v →
      v + z.dtNs p + z.refreshNs p + 100 ≤ z.now →
      ok = (above && !((z.fld (gdStat p) GD_STAT_UV).testBit (2 * l.1 + 1) ||
        (z.gd p).rejoin.toArray.getD (2 * l.1 + 1) false)) →
      Runs (.refreshPulse t p l above) s fun x =>
        x.bit (gdStat p) (bslow l) = !above ∧ (x.gd p).pulseDue[l] = false ∧
        (ok = true → (x.gd p).refreshRun[l] = 0 ∧ (x.gd p).refreshAt[l] = none) ∧
        (ok = false → (x.gd p).refreshRun[l] = (z.gd p).refreshRun[l] + 1 ∧
          ((z.gd p).refreshRun[l] < 3 → (x.gd p).refreshAt[l] = some ((z.tile (tileOfPort p)).k + 1))) ∧
        RegsBut [gdStat p] z x ∧ PortsBut [p] z x) ∧
    (4 ≤ (z.gd p).refreshRun[l] → z.portState p = pRUN → Runs (.refreshFailLockout t p l) s fun x =>
      (x.gd p).uvRefresh[l] = true ∧ (x.gd p).refreshRun[l] = 0 ∧ (x.gd p).refreshAt[l] = none ∧
      Counts z x (gdCnt p) GD_CNT_UV ∧ Logs z x (.dev .refreshFail) 1 p.1 ∧ PortsBut [p] z x)

/-- HARD_SHORT and DESATURATION complete. HARD_SHORT on a powered port counts in SHORT; on a port that drives its gates
and whose high side is not latched it latches that switch off, sets DIAG_REQ and raises GD_SHORT against the axis,
and in RUN with another switch latched before it the port is PROTECTED. DESATURATION, with its filtered output
active, of a switch that is on past its blanking counts in DESAT and latches that switch the same way. The port is
as at the line time, with its valley and its pins worked out to it (the model's way, log entry 197). When a hard
short counts is log 89. (R161, R162, R163, R165.) -/
def Obligations.ShortsLatchTheirSwitches : Prop :=
  ∀ (s : State) (t : Nat) (p : Fin 64) (z : State), z = settlePort p (s.reach t) →
    (∀ b : Bool, z.compsOn p = true → z.gatesLive p z.now = true →
      (z.fld (gdStat p) GD_STAT_LATCH).testBit (if b then 2 else 0) = false →
      Runs (.hardShort t p b) s fun x =>
        Counts z x (gdCnt p) GD_CNT_SHORT ∧ x.bit (gdStat p) GD_STAT_DIAG_REQ = true ∧
        (z.fld (gdStat p) GD_STAT_LATCH = 0 → (x.fld (gdStat p) GD_STAT_LATCH).testBit (if b then 2 else 0) = true) ∧
        (z.portState p = pRUN → z.fld (gdStat p) GD_STAT_LATCH ≠ 0 → x.portState p = pPROTECTED ∧ x.portSafe p) ∧
        ∀ a c, s.axisOfPort p = some (a, c) → Faults z x 11 a) ∧
    (∀ b : Bool, z.compsOn p = true → z.gatesLive p z.now = false → Runs (.hardShort t p b) s fun x =>
      Counts z x (gdCnt p) GD_CNT_SHORT ∧ x.fld (gdStat p) GD_STAT_LATCH = z.fld (gdStat p) GD_STAT_LATCH ∧ x.ports = z.ports) ∧
    ∀ (sw : Fin 4) (raw : BitVec 15), z.portLevel p (4 + sw.1) raw = true → z.desatActs p sw.1 = true →
      Runs (.desaturation t p sw raw) s fun x =>
        Counts z x (gdCnt p) GD_CNT_DESAT ∧ x.bit (gdStat p) GD_STAT_DIAG_REQ = true ∧
        (z.fld (gdStat p) GD_STAT_LATCH = 0 → (x.fld (gdStat p) GD_STAT_LATCH).testBit sw.1 = true) ∧
        (z.portState p = pRUN → z.fld (gdStat p) GD_STAT_LATCH ≠ 0 → x.portState p = pPROTECTED ∧ x.portSafe p) ∧
        ∀ a c, s.axisOfPort p = some (a, c) → Faults z x 12 a

/-- DIAG_OFFSTATE and DIAG_STEP_END complete. DIAG_OFFSTATE with a good payload over ports of the cabinet whose gates
are all held off at its landing, on tiles without a run, answers STARTED, and each of those tiles has its run in
progress. DIAG_STEP_END of a step before the third that does not fail goes on with the next step and shows the node
voltages; one that fails on the last port of a run shows its result and ends the run. Of a port whose bus is below
10 V, DIAG_STEP_END does nothing, and the end of the last self-check of its set-up ends its run with NO_BUS (that it
ends with the set-up is the model's reading). That reading is log 302; which measurement the bus voltage is, log 91,
and the source of DIAG_DONE log 93. (R169, R170, R171, R180.) -/
def Obligations.DiagnosticsRunAndEnd : Prop :=
  (∀ (s : State) (d : Desc) (ps : List (Fin 64)) (z : State), d.plain → s.admits d = true → ps = portsOf (pay64 d.payload 0) →
      ps ≠ [] → payByte d.payload 8 ≤ 1 → payZero d.payload 9 48 = true →
      z = ps.foldl (fun s q => settlePort q s) (s.reach d.accept) →
      (∀ p ∈ ps, s.ownerPort p = d.cab ∧ z.testable p = true ∧ (s.tile (tileOfPort p)).diag = none) →
      Runs (.diagOffstate d) s fun x =>
        Answers d stSTARTED 0 z.now s x ∧
        ∀ p ∈ ps,
          (x.tile (tileOfPort p)).diag.isSome = true ∧
          x.bit (GD_TSTAT (tileOfPort p)) GD_TSTAT_DIAG_RUN = true) ∧
    ∀ (s : State) (at_ : Nat) (t : Fin 4) (va vb : Int) (r : DiagRun) (i : Nat) (rest : List Nat),
      (s.tile t).diag = some r → r.ports = i :: rest →
      (r.step = 0 → Runs (.diagStepEnd at_ t va vb) s fun x => x = s.reach at_) ∧
      (∀ (p : Fin 64), p = devPort t i → ∀ (c : Fin 10) (k : CmpCheck) (normal raw : Bool), r.step = 0 → rest = [] →
        (s.port p).check[c] = some k → (∀ c' : Fin 10, c' ≠ c → (s.port p).check[c'] = none) → k.step = 3 →
        raw = portInverted c →
        Runs (.selfCheckStepEnd at_ (.port p c) normal raw) s fun x =>
          (x.tile t).diag = none ∧ x.bit (GD_TSTAT t) GD_TSTAT_DIAG_RUN = false ∧
          x.fld (GD_DIAG (pT p) (pI p)) GD_DIAG_RESULT = 6 ∧ TilesBut [t] s x) ∧
      (0 < r.step → r.step < 3 → stepFails r.step va vb (s.tile t).vbusLast = none →
        Runs (.diagStepEnd at_ t va vb) s fun x =>
          (x.tile t).diag = some { r with step := r.step + 1 } ∧
          x.fld (GD_DIAG (pT (devPort t i)) (pI (devPort t i))) GD_DIAG_VA = diagVolt va ∧
          x.fld (GD_DIAG (pT (devPort t i)) (pI (devPort t i))) GD_DIAG_VB = diagVolt vb ∧ x.ports = s.ports ∧
          TilesBut [t] s x) ∧
      ∀ res, 0 < r.step → stepFails r.step va vb (s.tile t).vbusLast = some res → rest = [] →
        Runs (.diagStepEnd at_ t va vb) s fun x =>
          (x.tile t).diag = none ∧ x.bit (GD_TSTAT t) GD_TSTAT_DIAG_RUN = false ∧
          x.fld (GD_DIAG (pT (devPort t i)) (pI (devPort t i))) GD_DIAG_RESULT = res ∧ TilesBut [t] s x

/-- QUADRATURE_EDGE, SSI_FRAME and ENC_Z_EDGE complete. In QUAD mode a sample in which the filtered level of one of A
and B has changed moves POS by one, up where A leads B and down otherwise, the other way round with INV, and X by
exactly one where POS has not moved since X last followed it; a sample in which neither has changed moves nothing;
no other register and no other encoder changes. SSI_FRAME ends a frame whose first falling clock edge, its latch
instant, lies at the last multiple of IVL in line time; one that could not have ended yet, or of an instant that has
had its frame, changes nothing but the time. A good SSI_FRAME, high at the first falling edge and low after the last
bit, gives POS the value of its bits, Gray-decoded where GRAY says so, read as a signed number, extends X by the
signed difference and counts in FRAMES; what tiles have latched of the port at a boundary since the latch instant
takes the new X. ENC_Z_EDGE in QUAD mode whose filtered samples rise sets ZSEEN and keeps the time of the edge. In
any other mode each of the three changes no register. The SSI instants are log 303, the filtered samples log 235 and
log 234. (R354, R355.) -/
def Obligations.EncodersCountAndExtend : Prop :=
  ∀ (s : State) (t : Nat) (n : Fin 16),
    (∀ (rawA rawB : BitVec 10) (a b : Bool), s.encLevel n (s.enc n).a rawA = a → s.encLevel n (s.enc n).b rawB = b →
      (s.encMode n = 1 → ((s.enc n).a ≠ a ∧ (s.enc n).b = b ∨ (s.enc n).a = a ∧ (s.enc n).b ≠ b) →
        (s.enc n).last = s.fldI (GLB_ENC_POS n) GLB_ENC_POS_POS → ∀ aLeads : Bool,
        aLeads = (if (s.enc n).a = a then a == b else a != b) →
        Runs (.quadratureEdge t n rawA rawB) s fun x =>
          let d : Int := if aLeads != s.bit (GLB_ENC_CFG n) GLB_ENC_CFG_INV then 1 else -1
          x.fld (GLB_ENC_POS n) GLB_ENC_POS_POS = toBits 32 (s.fldI (GLB_ENC_POS n) GLB_ENC_POS_POS + d) ∧
          (x.enc n).x = (s.enc n).x + d ∧ (x.enc n).last = x.fldI (GLB_ENC_POS n) GLB_ENC_POS_POS ∧
          (x.enc n).a = a ∧ (x.enc n).b = b ∧
          RegsBut [GLB_ENC_POS n] s x ∧ ∀ m, m ≠ n → x.enc m = s.enc m) ∧
      (s.encMode n = 1 → (s.enc n).a = a → (s.enc n).b = b → Runs (.quadratureEdge t n rawA rawB) s fun x => x = s.reach t) ∧
      (s.encMode n ≠ 1 → Runs (.quadratureEdge t n rawA rawB) s fun x =>
        x.regs = s.regs ∧ x.enc n = { s.enc n with a := a, b := b } ∧ ∀ m, m ≠ n → x.enc m = s.enc m)) ∧
    (∀ (raw ivl start : Nat), ivl = 1000 * s.fld (GLB_ENC_CFG n) GLB_ENC_CFG_IVL → start = (s.reach t).now / ivl * ivl →
      s.encMode n = 2 → 1 ≤ s.encBits n → s.encBits n ≤ 32 → s.bit (GLB_ENC_STAT n) GLB_ENC_STAT_FAULT = false →
      start + s.encBits n * ssiClock (s.fld (GLB_ENC_CFG n) GLB_ENC_CFG_CLK) ≤ (s.reach t).now → (s.enc n).frameAt ≠ some start →
      s.bit (GLB_ENC_STAT n) GLB_ENC_STAT_SIG = true ∨
        (∀ a, s.obMode a = 3 → s.fld (OB_CFG a) OB_CFG_ENC = n.1 → s.axState a = axDISABLED) →
      Runs (.ssiFrame t n raw true false) s fun x =>
        let w := s.encBits n
        let v := signedOf w (if s.bit (GLB_ENC_CFG n) GLB_ENC_CFG_GRAY then grayDecode w (raw % 2 ^ w) else raw % 2 ^ w)
        x.fldI (GLB_ENC_POS n) GLB_ENC_POS_POS = v ∧
        (x.enc n).x = (s.enc n).x + signedOf w (toBits w (v - (s.enc n).last)) ∧ (x.enc n).last = v ∧
        x.fld (GLB_ENC_CNT n) GLB_ENC_CNT_FRAMES =
          (s.fld (GLB_ENC_CNT n) GLB_ENC_CNT_FRAMES + 1) % 2 ^ GLB_ENC_CNT_FRAMES.width ∧
        x.bit (GLB_ENC_STAT n) GLB_ENC_STAT_SIG = true ∧ (x.enc n).frameAt = some start ∧
        (∀ y : Fin 4, start ≤ s.boundary y → (x.tile y).encX[n] = (x.enc n).x) ∧
        (∀ y : Fin 4, s.boundary y < start → x.tile y = s.tile y) ∧
        RegsBut [GLB_ENC_POS n, GLB_ENC_CNT n, GLB_ENC_STAT n] s x ∧ ∀ m, m ≠ n → x.enc m = s.enc m) ∧
    (∀ (raw : Nat) (first last : Bool) (ivl start : Nat), ivl = 1000 * s.fld (GLB_ENC_CFG n) GLB_ENC_CFG_IVL →
      start = (s.reach t).now / ivl * ivl →
      s.encMode n ≠ 2 ∨ (s.reach t).now < start + s.encBits n * ssiClock (s.fld (GLB_ENC_CFG n) GLB_ENC_CFG_CLK) ∨
        (s.enc n).frameAt = some start →
      Runs (.ssiFrame t n raw first last) s fun x => x = s.reach t) ∧
    ∀ raw : BitVec 11,
      (s.encMode n = 1 → s.zRises n raw = true → Runs (.encZEdge t n raw) s fun x =>
        x.bit (GLB_ENC_STAT n) GLB_ENC_STAT_ZSEEN = true ∧ x.enc n = { s.enc n with zAt := some t } ∧
        (∀ m, m ≠ n → x.enc m = s.enc m) ∧ x.ports = s.ports ∧ x.recorder = s.recorder ∧ x.out = s.out) ∧
      (s.encMode n ≠ 1 ∨ s.zRises n raw = false → Runs (.encZEdge t n raw) s fun x => x = s.reach t)

/-- ENC_SIGNAL_ERROR and ENC_FAULT_CLEAR complete. ENC_SIGNAL_ERROR on a port that is not OFF, an SSI frame that is not
good, and a quadrature sample in which A and B have both changed count in ERR, set FAULT, keep the value and clear
SIG, whatever axes use the port; where the signal was there, the estimate of every axis in ENCODER mode that uses
the port and is not DISABLED is no longer VALID, and OB_ENC_LOST is raised against it. ENC_FAULT_CLEAR clears FAULT
once 1 ms has passed without an error, and VALID of those axes follows the estimate again; before that it changes
nothing but the time. When OB_ENC_LOST is raised is log 163. (R354, R355, R128.) -/
def Obligations.EncoderErrorsAreKept : Prop :=
  ∀ (s : State) (t : Nat) (n : Fin 16),
    (∀ (raw : Nat) (first last : Bool) (rawA rawB : BitVec 10) (i : Instr),
      i = .encSignalError t n ∧ s.encMode n ≠ 0 ∨
      i = .ssiFrame t n raw first last ∧ s.encMode n = 2 ∧ (first = false ∨ last = true) ∧ (s.ssiStart n (s.reach t).now).isSome = true ∨
      i = .quadratureEdge t n rawA rawB ∧ s.encMode n = 1 ∧ s.encLevel n (s.enc n).a rawA ≠ (s.enc n).a ∧
        s.encLevel n (s.enc n).b rawB ≠ (s.enc n).b →
      Runs i s fun x =>
        Counts s x (GLB_ENC_CNT n) GLB_ENC_CNT_ERR ∧ x.bit (GLB_ENC_STAT n) GLB_ENC_STAT_FAULT = true ∧
        x.bit (GLB_ENC_STAT n) GLB_ENC_STAT_SIG = false ∧
        ((∀ a, s.obMode a = 3 → s.fld (OB_CFG a) OB_CFG_ENC = n.1 → s.axState a = axDISABLED) →
          RegsBut [GLB_ENC_CNT n, GLB_ENC_STAT n] s x) ∧
        (x.enc n).x = (s.enc n).x ∧ (x.enc n).last = (s.enc n).last ∧ (x.enc n).lastErr = (s.reach t).up ∧
        (∀ m, m ≠ n → x.enc m = s.enc m) ∧
        ∀ a, s.bit (GLB_ENC_STAT n) GLB_ENC_STAT_SIG = true → s.obMode a = 3 → s.fld (OB_CFG a) OB_CFG_ENC = n.1 →
          s.axState a ≠ axDISABLED →
          Faults s x 7 a ∧ x.bit (OB_STAT a) OB_STAT_VALID = false) ∧
    ((s.enc n).lastErr + 1000000 ≤ (s.reach t).up → s.bit (GLB_ENC_STAT n) GLB_ENC_STAT_SIG = false →
      Runs (.encFaultClear t n) s fun x =>
        x.bit (GLB_ENC_STAT n) GLB_ENC_STAT_FAULT = false ∧
        x.bit (GLB_ENC_STAT n) GLB_ENC_STAT_SIG = (s.encMode n != 0 && (s.encMode n != 2 || (s.enc n).good)) ∧
        ((∀ a, s.obMode a = 3 → s.fld (OB_CFG a) OB_CFG_ENC = n.1 → s.axState a = axDISABLED) → RegsBut [GLB_ENC_STAT n] s x) ∧
        (x.bit (GLB_ENC_STAT n) GLB_ENC_STAT_SIG = true → ∀ a, s.obMode a = 3 → s.fld (OB_CFG a) OB_CFG_ENC = n.1 →
          s.axState a ≠ axDISABLED → x.bit (OB_STAT a) OB_STAT_VALID = x.estimateValid a) ∧ x.encs = s.encs) ∧
    ((s.reach t).up < (s.enc n).lastErr + 1000000 → Runs (.encFaultClear t n) s fun x => x = s.reach t)

/-- SEQ_ENTRY_TRIGGER, ADC_INJ_CMP_TRIGGER and INJECTED_CONVERSION_DONE complete. SEQ_ENTRY_TRIGGER serves the earliest
conversion of the entry that is due and not yet served, as the schedule of the tile places it: at the first instant
that higher priorities and earlier conversions leave free, in the order of their instants and at equal ones of their
numbers. Once that has begun, and before the result of a later one can stand there, without a filter the result
register takes the code in 1/256 with the flags - SETTLE also where its converter has seen an over-range less than
50 ns before - and the converter, counts modulo 16 and is no longer MISSED; with a filter a result appears only at
every (DEC + 1)-th conversion of a filled filter; where the next trigger comes first, MISSED is set and counts;
where none is due nothing happens. ADC_INJ_CMP_TRIGGER with SRC set, where the output of the comparator that CMPSEL
names goes active, takes the trigger when armed with none pending, for the first instant at which its converter is
free for 12.5 ns of windows, bursts, other injected conversions and conversions that have begun, and counts in
INJDROP otherwise. INJECTED_CONVERSION_DONE from that instant on writes the conversion to its result register and
none is pending any more. Which trigger a command serves is log 206, where injected conversions are placed log 205,
SETTLE log 212, and entry 0 log 102. (R176, R184, R186, R188, R189, R190, R192, R193.) -/
def Obligations.ConversionsGiveResults : Prop :=
  ∀ (s : State) (u : Nat) (t : Fin 4) (x : Fin 2),
    (∀ (e : Fin 32) (raw : Intake) (now : Nat) (l : List (Due × Taken)), s.boundary t ≠ 0 → now = (s.reach u).now * 32 / 5 →
      l = ((s.reach u).entryPlan t now).filter (fun r => decide (r.1.conv = x) && r.1.entry == e.1) →
      (l = [] → Runs (.seqEntryTrigger u t x e raw) s fun y => y = s.reach u) ∧
      ∀ (d : Due) (i : Taken) (more : List (Due × Taken)) (v : Sample), l = (d, i) :: more →
      v = settleAfter (s.conv t i.conv).overs i.start (sampleOf raw) →
      (i.start < d.next → i.start ≤ now → more = [] ∨ now ≤ i.start + resultUnits →
        s.forceFld (ADC_SEQ_FLT t x e) ADC_SEQ_FLT_ORDER = 0 →
        Runs (.seqEntryTrigger u t x e raw) s fun y =>
          y.fld (ADC_RES t x e) ADC_RES_VALUE = toBits 22 (v.code * 256) ∧
          y.bit (ADC_RES t x e) ADC_RES_OVR = v.ovr ∧ y.bit (ADC_RES t x e) ADC_RES_SETTLE = v.settle ∧
          y.fld (ADC_RES t x e) ADC_RES_SRC = i.conv.1 ∧ y.bit (ADC_RES t x e) ADC_RES_MISSED = false ∧
          y.fld (ADC_RES t x e) ADC_RES_CNT = (s.fld (ADC_RES t x e) ADC_RES_CNT + 1) % 16 ∧
          (v.ovr = true → Counts s y (ADC_CNT t i.conv) ADC_CNT_OVR ∧ (y.conv t i.conv).overs = i.start :: (s.conv t i.conv).overs) ∧
          i ∈ (y.tile t).taken ∧ RegsBut [ADC_RES t x e, ADC_CNT t i.conv] s y ∧ TilesBut [t] s y) ∧
      (∀ k dec n : Nat, i.start < d.next → i.start ≤ now → more = [] ∨ now ≤ i.start + resultUnits →
        k = s.forceFld (ADC_SEQ_FLT t x e) ADC_SEQ_FLT_ORDER →
        k ≠ 0 → dec = s.forceFld (ADC_SEQ_FLT t x e) ADC_SEQ_FLT_DEC + 1 →
        n = ((s.conv t x).sinc.toArray.getD e.1 Sinc.init).n + 1 →
        Runs (.seqEntryTrigger u t x e raw) s fun y =>
          ((y.conv t x).sinc.toArray.getD e.1 Sinc.init).n = n ∧
          y.fld (ADC_RES t x e) ADC_RES_CNT =
            (if n % dec = 0 ∧ k * dec ≤ n then (s.fld (ADC_RES t x e) ADC_RES_CNT + 1) % 16
             else s.fld (ADC_RES t x e) ADC_RES_CNT) ∧
          RegsBut [ADC_RES t x e, ADC_CNT t i.conv] s y ∧ TilesBut [t] s y) ∧
      (d.next ≤ i.start → d.next ≤ now → more = [] → Runs (.seqEntryTrigger u t x e raw) s fun y =>
        y.bit (ADC_RES t x e) ADC_RES_MISSED = true ∧ Counts s y (ADC_CNT t x) ADC_CNT_MISSED ∧
        y.fld (ADC_RES t x e) ADC_RES_VALUE = s.fld (ADC_RES t x e) ADC_RES_VALUE ∧
        RegsBut [ADC_RES t x e, ADC_CNT t x] s y ∧ TilesBut [t] s y) ∧
      (now < i.start ∧ (i.start < d.next ∨ now < d.next) → Runs (.seqEntryTrigger u t x e raw) s fun y => y = s.reach u)) ∧
    (∀ (raw : BitVec 15) (c i : Nat) (p : Fin 64) (z : State), c = s.fld (ADC_INJ t x) ADC_INJ_CMPSEL → i = c % 10 → c < 160 →
      p = devPort t (c / 10) → z = settlePort p (s.reach u) → z.compsOn p = true → s.bit (ADC_INJ t x) ADC_INJ_SRC = true →
      z.bit (CMP_STAT (pT p) (pI p)) ⟨i, 1⟩ = false →
      (z.portLevel p i raw = true → Runs (.adcInjCmpTrigger u t x raw) s fun y =>
        (s.bit (ADC_INJ t x) ADC_INJ_ARM = true → (s.conv t x).injPend = none →
          (y.conv t x).injPend = some (s.fld (ADC_INJ t x) ADC_INJ_CH,
            freeOn (z.injBusy t (nsUnits z.now)) ((s.worker t x).getD x) shotUnits (nsUnits z.now)) ∧
          y.bit (ADC_INJ t x) ADC_INJ_ARM = false ∧ TilesBut [t] s y) ∧
        (s.bit (ADC_INJ t x) ADC_INJ_ARM = false ∨ (s.conv t x).injPend.isSome = true →
          Counts s y (ADC_CNT t x) ADC_CNT_INJDROP ∧ (y.conv t x).injPend = (s.conv t x).injPend)) ∧
      (z.portLevel p i raw = false → Runs (.adcInjCmpTrigger u t x raw) s fun y =>
        (y.conv t x).injPend = (s.conv t x).injPend ∧ RegsBut [CMP_STAT (pT p) (pI p)] z y)) ∧
    (∀ (raw : BitVec 15) (i : Nat), 160 + i = s.fld (ADC_INJ t x) ADC_INJ_CMPSEL → i < 16 →
      (s.reach u).winLevel t i raw = true → (s.tile t).win.out.toArray.getD i false = false →
      s.bit (ADC_INJ t x) ADC_INJ_SRC = true → Runs (.adcInjCmpTrigger u t x raw) s fun y =>
        (s.bit (ADC_INJ t x) ADC_INJ_ARM = true → (s.conv t x).injPend = none →
          (y.conv t x).injPend = some (s.fld (ADC_INJ t x) ADC_INJ_CH,
            freeOn ((s.reach u).injBusy t (nsUnits (s.reach u).now)) ((s.worker t x).getD x) shotUnits
              (nsUnits (s.reach u).now)) ∧ y.bit (ADC_INJ t x) ADC_INJ_ARM = false) ∧
        (s.bit (ADC_INJ t x) ADC_INJ_ARM = false ∨ (s.conv t x).injPend.isSome = true →
          Counts s y (ADC_CNT t x) ADC_CNT_INJDROP ∧ (y.conv t x).injPend = (s.conv t x).injPend)) ∧
    ∀ (raw : Intake) (src : Fin 2) (ch z : Nat) (v : Sample), v = settleAfter (s.conv t src).overs z (sampleOf raw) → s.worker t x = some src → (s.conv t x).injPend = some (ch, z) →
      (z ≤ (s.reach u).now * 32 / 5 → Runs (.injectedConversionDone u t x raw) s fun y =>
        y.fld (ADC_INJ_RES t x) ADC_INJ_RES_VALUE = toBits 22 (v.code * 256) ∧
        y.bit (ADC_INJ_RES t x) ADC_INJ_RES_OVR = v.ovr ∧
        y.bit (ADC_INJ_RES t x) ADC_INJ_RES_SETTLE = v.settle ∧
        y.fld (ADC_INJ_RES t x) ADC_INJ_RES_CNT = (s.fld (ADC_INJ_RES t x) ADC_INJ_RES_CNT + 1) % 16 ∧
        (y.conv t x).injPend = none ∧ RegsBut [ADC_INJ_RES t x, ADC_CNT t src] s y ∧ TilesBut [t] s y) ∧
      ((s.reach u).now * 32 / 5 < z → Runs (.injectedConversionDone u t x raw) s fun y => y = s.reach u)

/-- ADC_CAL, CAL_SLOT_END, FGCAL_END and ADC_LOST complete. ADC_CAL with a good payload on a tile of the cabinet, with
both converters up and no diagnostics, answers STARTED at the last boundary of the tile: the converter goes to FGCAL
and its partner carries, or, with an injected conversion pending, the start is deferred, which a flag says.
FGCAL_END once the rotation is over: where every slot has found its stage inside its limits, gain within 3 % and
offset within 64 codes, the bandgap reference is renewed and both converters are ACTIVE again; so they are where one
stage was retired; where more was lost the converter is RETIRED and its partner carries. CAL_SLOT_END goes on to the
next of the 16 slots with the coefficients renewed where the measurement is inside the limits, repeats where it is
not, which counts in CALFAIL, and after the third failure retires the stage. ADC_LOST after three bandgap failures
of a carrying converter raises its class against the axes of the tile, once. Deferral is log 110, the measurements
of FGCAL_END log 211, and a failing spare log 107. (R194, R195, R197, R198, R199.) -/
def Obligations.ConvertersCalibrateAndRetire : Prop :=
  (∀ (s : State) (d : Desc) (t : Fin 4) (x : Fin 2) (a : Fin 32), d.plain → s.admits d = true →
      payByte d.payload 0 = t.1 → payByte d.payload 1 = x.1 + 1 → payByte d.payload 2 ≤ 1 → payZero d.payload 3 48 = true →
      tileOf a = t → s.ownerAx a = d.cab → (∀ y, s.convUp t y = true ∧ (s.conv t y).fgDefer = false) →
      (s.tile t).diag = none →
      Runs (.adcCal d) s fun z =>
        ((s.conv t x).injPend = none → Answers d stSTARTED 0 (s.boundary t) s z ∧
          z.convState t x = 2 ∧ z.convState t (otherConv x) = 1 ∧ (z.conv t x).fgEnd = some (s.boundary t + rotationNs)) ∧
        ((s.conv t x).injPend.isSome = true → Answers d stSTARTED 4 (s.boundary t) s z ∧
          (z.conv t x).fgDefer = true ∧ z.convState t x = s.convState t x) ∧ TilesBut [t] s z) ∧
    (∀ (s : State) (u e : Nat) (t : Fin 4) (x : Fin 2) (cal : List (Int × Int)) (bg : Int), s.convState t x = 2 →
      s.convState t (otherConv x) = 1 → (s.conv t x).fgEnd = some e → e ≤ s.boundary t →
      ((16 ≤ (s.conv t x).slot ∨ ∀ m ∈ cal, calOk m.1 m.2 = true) → (s.conv t x).found = 0 →
        Runs (.fgcalEnd u t x cal bg) s fun z =>
          (z.conv t x).fgEnd = none ∧ (z.conv t x).slot = 0 ∧ z.convState t x = 0 ∧ z.convState t (otherConv x) = 0 ∧
          (z.conv t x).bgRef = clipCode bg) ∧
      (16 ≤ (s.conv t x).slot → (s.conv t x).found = 1 → Runs (.fgcalEnd u t x cal bg) s fun z =>
        (z.conv t x).fgEnd = none ∧ z.convState t x = 0 ∧ z.convState t (otherConv x) = 0) ∧
      (16 ≤ (s.conv t x).slot → (s.conv t x).found = 2 → Runs (.fgcalEnd u t x cal bg) s fun z =>
        (z.conv t x).fgEnd = none ∧ z.convState t x = 3 ∧ z.convState t (otherConv x) = 1 ∧
        Logs s z (.dev .converterRetired) 2 t.1)) ∧
    (∀ (s : State) (u : Nat) (t : Fin 4) (x : Fin 2) (gain offset bg : Int), s.bit (ADC_CTRL t x) ADC_CTRL_BGCAL = true →
      s.convUp t x = true → s.bit (ADC_STAT t x) ADC_STAT_NOSPARE = false → (s.conv t x).slot ≤ 10 →
      (calOk gain offset = true → Runs (.calSlotEnd u t x gain offset bg) s fun z =>
        (z.conv t x).slot = (s.conv t x).slot + 1 ∧ (z.conv t x).attempts = 0 ∧
        (z.conv t x).gain = (s.conv t x).gain.setIfInBounds (s.conv t x).slot gain ∧
        (z.conv t x).offset = (s.conv t x).offset.setIfInBounds (s.conv t x).slot offset ∧
        RegsBut [ADC_STAT t x] s z ∧ TilesBut [t] s z) ∧
      (calOk gain offset = false → Runs (.calSlotEnd u t x gain offset bg) s fun z =>
        Counts s z (ADC_CNT t x) ADC_CNT_CALFAIL ∧
        ((s.conv t x).attempts < 2 → (z.conv t x).slot = (s.conv t x).slot ∧
          (z.conv t x).attempts = (s.conv t x).attempts + 1 ∧ Logs s z (.dev .calRetry) 2 t.1) ∧
        (2 ≤ (s.conv t x).attempts → (z.conv t x).slot = (s.conv t x).slot + 1 ∧
          z.fld (ADC_STAT t x) ADC_STAT_RET_STAGE = (s.conv t x).slot + 1 ∧
          z.bit (ADC_STAT t x) ADC_STAT_NOSPARE = true ∧ Logs s z (.dev .stageRetired) 2 t.1) ∧ TilesBut [t] s z)) ∧
    ∀ (s : State) (u : Nat) (t : Fin 4) (x : Fin 2), s.convState t x = 1 → s.convState t (otherConv x) ≠ 1 →
      3 ≤ (s.conv t x).bgFail → (s.conv t x).lostRaised = false →
      Runs (.adcLost u t) s fun z => (z.conv t x).lostRaised = true ∧ ∀ a, tileOf a = t → Faults s z 20 a

/-- ENG_NOP, ADD, SUB, AND, OR, XOR, SHL, SHR, SAR, MUL, MULH, DIV, REM, SLTU, ADDI, ANDI, ORI, XORI, SHLI, SHRI, SARI
and LUI complete: executed in a run within its budget with a word after them, they write the value of R203 to kd
(ENG_NOP writes none), add their cycles, move the program counter by one word, and leave every other register of the
engine, every other engine and everything outside the engine as it was. By zero the quotient is 0 and the remainder
the dividend, as the note to R203 has it. At the last word of the image the engine stops with cause PC. That a
command executes only where its word stands at the program counter is log 111; a cost beyond the budget is log 238.
(R203, R202, R204.) -/
def Obligations.EngineArithmeticComputes : Prop :=
  ∀ (s : State) (e : Fin 46) (d a b : Fin 16) (imm : BitVec 18),
    let x := s.kreg e a
    let y := s.kreg e b
    (∀ (i : Instr) (w v : Word) (cyc : Nat), (i, w, v, cyc) ∈ ([
      (.add e d a b, wR 0x01 d a b 0, x + y, 1),
      (.sub e d a b, wR 0x02 d a b 0, x - y, 1),
      (.and e d a b, wR 0x03 d a b 0, x &&& y, 1),
      (.or e d a b, wR 0x04 d a b 0, x ||| y, 1),
      (.xor e d a b, wR 0x05 d a b 0, x ^^^ y, 1),
      (.shl e d a b, wR 0x06 d a b 0, x <<< (y.toNat % 32), 1),
      (.shr e d a b, wR 0x07 d a b 0, x >>> (y.toNat % 32), 1),
      (.sar e d a b, wR 0x08 d a b 0, x.sshiftRight (y.toNat % 32), 1),
      (.mul e d a b, wR 0x09 d a b 0, x * y, 2),
      (.mulh e d a b, wR 0x0A d a b 0, (x.signExtend 64 * y.signExtend 64).extractLsb' 32 32, 2),
      (.div e d a b, wR 0x0B d a b 0, if y = 0 then 0 else BitVec.ofInt 32 (x.toInt.tdiv y.toInt), 18),
      (.rem e d a b, wR 0x0C d a b 0, if y = 0 then x else BitVec.ofInt 32 (x.toInt.tmod y.toInt), 18),
      (.sltu e d a b, wR 0x0D d a b 0, if x < y then 1 else 0, 1)] : List (Instr × Word × Word × Nat)) →
      s.atWord e w → s.hasWord e (s.pcNext e) →
      Runs i s fun t => Executes s t e cyc (s.pcNext e) { s.eng e with k := (s.eng e).k.set d.1 v }) ∧
    (∀ (i : Instr) (w v : Word), (i, w, v) ∈ ([
      (.addi e d a imm, wI 0x10 d a imm, x + imm.signExtend 32),
      (.andi e d a imm, wI 0x11 d a imm, x &&& imm.zeroExtend 32),
      (.ori e d a imm, wI 0x12 d a imm, x ||| imm.zeroExtend 32),
      (.xori e d a imm, wI 0x13 d a imm, x ^^^ imm.zeroExtend 32),
      (.shli e d a imm, wI 0x14 d a imm, x <<< (imm.toNat % 32)),
      (.shri e d a imm, wI 0x15 d a imm, x >>> (imm.toNat % 32)),
      (.sari e d a imm, wI 0x16 d a imm, x.sshiftRight (imm.toNat % 32)),
      (.lui e d imm, wI 0x17 d 0 imm, imm.zeroExtend 32 <<< 14)] : List (Instr × Word × Word)) →
      s.atWord e w → s.hasWord e (s.pcNext e) →
      Runs i s fun t => Executes s t e 1 (s.pcNext e) { s.eng e with k := (s.eng e).k.set d.1 v }) ∧
    (s.atWord e (wR 0 0 0 0 0) → s.hasWord e (s.pcNext e) →
      Runs (.engNop e) s fun t => Executes s t e 1 (s.pcNext e) (s.eng e)) ∧
    (s.atWord e (wR 0 0 0 0 0) → ¬ s.hasWord e (s.pcNext e) → engKind e ≠ 2 → s.pcNext e < 65536 →
      Runs (.engNop e) s fun t => Stops s t e 3)

/-- LD, ST, BEQ, BNE, BLT, BGE, BLTU, BGEU, JMP, CALL and RET complete. LD reads the data word at an aligned address
inside data memory into kd, and ST writes kd there, every other word of both data memories keeping its value; any
other address stops the engine with cause DMEM. BEQ, BNE, BLT, BGE, BLTU and BGEU go to the word at their offset
from the next one where the comparison holds, at one cycle more, and to the next word otherwise; JMP always; CALL
puts the address of the next word into k15 first; RET continues at word k15, and stops the engine with cause PC
where that lies outside the image. That a command executes only where its word stands at the program counter is log
111. (R203, R204, R202.) -/
def Obligations.EngineLoadsStoresAndBranches : Prop :=
  ∀ (s : State) (e : Fin 46) (d a b : Fin 16) (imm off : BitVec 18),
    let addr := (s.kreg e a + imm.signExtend 32).toNat
    let x := s.kreg e a
    let y := s.kreg e b
    let go (target : Nat) : Prop := (target : Int) = s.pcNext e + off.toInt ∧ s.hasWord e target
    (addr % 4 = 0 → addr < dataSize e → s.hasWord e (s.pcNext e) →
      (s.atWord e (wI 0x18 d a imm) → Runs (.ld e d a imm) s fun t =>
        Executes s t e 1 (s.pcNext e) { s.eng e with k := (s.eng e).k.set d.1 (s.dataWord e addr) }) ∧
      (s.atWord e (wI 0x19 d a imm) → Runs (.st e d a imm) s fun t =>
        Executes s t e 1 (s.pcNext e) { s.eng e with data := (t.eng e).data } ∧
        t.dataWord e addr = s.kreg e d ∧ (∀ n, n / 4 ≠ addr / 4 → t.dataWord e n = s.dataWord e n) ∧
        ∀ i : Fin 2, i ≠ s.imgIdx e → (t.eng e).data[i] = (s.eng e).data[i])) ∧
    (addr % 4 ≠ 0 ∨ dataSize e ≤ addr → engKind e ≠ 2 →
      (s.atWord e (wI 0x18 d a imm) → Runs (.ld e d a imm) s fun t => Stops s t e 4) ∧
      (s.atWord e (wI 0x19 d a imm) → Runs (.st e d a imm) s fun t => Stops s t e 4 ∧ (t.eng e).data = (s.eng e).data)) ∧
    (∀ (i : Instr) (w : Word) (c : Bool), (i, w, c) ∈ ([
      (.beq e a b off, wI 0x20 a b off, decide (x = y)),
      (.bne e a b off, wI 0x21 a b off, decide (x ≠ y)),
      (.blt e a b off, wI 0x22 a b off, decide (x.toInt < y.toInt)),
      (.bge e a b off, wI 0x23 a b off, decide (y.toInt ≤ x.toInt)),
      (.bltu e a b off, wI 0x24 a b off, decide (x < y)),
      (.bgeu e a b off, wI 0x25 a b off, decide (y ≤ x))] : List (Instr × Word × Bool)) → s.atWord e w →
      (c = true → ∀ target, go target → Runs i s fun t => Executes s t e 2 target (s.eng e)) ∧
      (c = false → s.hasWord e (s.pcNext e) → Runs i s fun t => Executes s t e 1 (s.pcNext e) (s.eng e))) ∧
    (∀ target, go target →
      (s.atWord e (wI 0x26 0 0 off) → Runs (.jmp e off) s fun t => Executes s t e 2 target (s.eng e)) ∧
      (s.atWord e (wI 0x27 0 0 off) → s.pcNext e < 65536 → Runs (.call e off) s fun t =>
        Executes s t e 2 target { s.eng e with k := (s.eng e).k.set 15 (BitVec.ofNat 32 (s.pcNext e)) })) ∧
    (s.atWord e (wR 0x28 0 0 0 0) →
      (s.hasWord e (s.kreg e 15).toNat → Runs (.ret e) s fun t => Executes s t e 2 (s.kreg e 15).toNat (s.eng e)) ∧
      (((s.eng e).img[s.imgIdx e]).words.length ≤ (s.kreg e 15).toNat → engKind e ≠ 2 → Runs (.ret e) s fun t => Stops s t e 3))

/-- ABRD, ABRDP, ABWR and ABWRP complete. ABRD reads the word of a register in a window of R211 into kd, and ABRDP a _LO
register and its _HI word into kd and k(d + 1), a register of a port as the port is at that time (the model's way,
log entry 197); an access abandoned after its third attempt reads 0 and counts in REG_ABORT. ABWR and ABWRP of an
axis engine to its axis block wait for the next boundary (R20); of any other register that the engine may write and
whose write has no effect beyond its value, where the checks of R252 pass, ABWR gives the register its new value, or
its shadow, and changes no other; ABWRP sets both registers of a pair of an axis block for a supervisor, and of
PWM_LOADAT of its tile; a write abandoned after its third attempt changes no register but REG_ABORT. Each posted
write that finds 8 others open stalls until the first of them completes. A misaligned address, or one outside the
windows, stops the engine with cause ACCESS, and a register pair that would begin at k15 with cause ILLEGAL. The
landing of engine writes and what is read before is log 213, the length of a posted write log 214, a write outside
the write window log 132, and crossings log 165. (R20, R202, R203, R204, R211, R212, R252, R255.) -/
def Obligations.EngineBusAccesses : Prop :=
  ∀ (s : State) (e : Fin 46) (d a : Fin 16) (imm : BitVec 18) (cross : Nat) (lost : Bool),
    let addr := s.busAddr e a imm
    let cyc := s.readCycles e addr cross
    let one := s.eng e
    (s.hasWord e (s.pcNext e) →
      (s.readOk e addr = true → s.atWord e (wI 0x2C d a imm) → Runs (.abrd e d a imm cross lost) s fun t =>
        (t.eng e).k = one.k.set d.1 (if lost then 0 else (settleFor s addr).engRead e addr) ∧
        t.fld (ENG_PC e) ENG_PC_PC = s.pcNext e ∧
        (lost = true → Counts s t CFG_XING_CNT CFG_XING_CNT_REG_ABORT ∧ Logs s t (.dev .regAbort) 4 0) ∧
        (lost = false → settleFor s addr = s →
          Executes s t e cyc (s.pcNext e) { one with k := one.k.set d.1 (s.engRead e addr) })) ∧
      (∀ k : Vector Word 16, s.readOk e addr = true → s.readOk e (addr + 4) = true → d.1 ≤ 14 → s.atWord e (wI 0x2E d a imm) →
        k = (one.k.set d.1 (if lost then 0 else (settleFor s addr).engRead e addr)).set (kAfter d 1).1
          (if lost then 0 else (settleFor s addr).engRead e (addr + 4)) →
        Runs (.abrdp e d a imm cross lost) s fun t => (t.eng e).k = k ∧ t.fld (ENG_PC e) ENG_PC_PC = s.pcNext e ∧
          (lost = false → settleFor s addr = s → Executes s t e cyc (s.pcNext e) { one with k := k })) ∧
      (∀ c : Nat, s.writeOk e addr = true → s.atWord e (wI 0x2D d a imm) → c = one.cycles + 1 + stallCycles one.posted (one.cycles + 1) →
        Runs (.abwr e d a imm cross true) s fun t =>
          t.fld (ENG_PC e) ENG_PC_PC = s.pcNext e ∧ Counts s t CFG_XING_CNT CFG_XING_CNT_REG_ABORT ∧
          RegsBut [ENG_PC e, CFG_XING_CNT] s t ∧
          t.eng e = { one with count := one.count + 1, cycles := c, posted := (one.posted.filter fun y => decide (c < y)) ++ [c + cyc] } ∧
          EngsBut [e] s t) ∧
      (s.writeOk e addr = true → s.writeOk e (addr + 4) = true → d.1 ≤ 14 → s.atWord e (wI 0x2F d a imm) →
        Runs (.abwrp e d a imm cross true) s fun t =>
          t.fld (ENG_PC e) ENG_PC_PC = s.pcNext e ∧ RegsBut [ENG_PC e, CFG_XING_CNT] s t ∧ (t.eng e).k = one.k ∧ EngsBut [e] s t) ∧
      (∀ x : Fin 32, blockOf addr = .axis x → engKind e = 0 → s.engWrites e addr = true →
        (addr % 4 = 0 → s.atWord e (wI 0x2D d a imm) → Runs (.abwr e d a imm cross false) s fun t =>
          (t.eng e).due = one.due ++ [(addr, s.kreg e d)] ∧ t.fld (ENG_PC e) ENG_PC_PC = s.pcNext e ∧
          RegsBut [ENG_PC e] s t ∧ EngsBut [e] s t ∧ Touches [.regs, .engines] s t) ∧
        (addr % 4 = 0 → blockOf (addr + 4) = .axis x → s.engWrites e (addr + 4) = true → d.1 ≤ 14 → s.atWord e (wI 0x2F d a imm) →
          Runs (.abwrp e d a imm cross false) s fun t =>
            (t.eng e).due = one.due ++ [(addr + 4, s.kreg e (kAfter d 1)), (addr, s.kreg e d)] ∧
            t.fld (ENG_PC e) ENG_PC_PC = s.pcNext e ∧ RegsBut [ENG_PC e] s t ∧ EngsBut [e] s t)) ∧
      (s.atWord e (wI 0x2D d a imm) → addr % 4 = 0 → s.engWrites e addr = true → regFields addr ≠ [] →
        (∀ x, blockOf addr = .axis x → engKind e ≠ 0) →
        plainReg addr = true → commitOf addr = none → heldBy addr = none → settleFor s addr = s →
        (∀ t : Fin 4, (s.tile t).parBad.contains addr = false) → s.passes (.engine e) addr (s.kreg e d) →
        Runs (.abwr e d a imm cross false) s fun t =>
          t.reg addr = s.newReg addr (s.kreg e d) ∧ RegsBut [addr, ENG_PC e] s t ∧ (t.eng e).k = one.k ∧ EngsBut [e] s t ∧
          Touches (if shadowed addr then [.regs, .late, .written, .engines] else [.regs, .engines]) s t) ∧
      (s.atWord e (wI 0x2F d a imm) → addr % 4 = 0 → d.1 ≤ 14 → s.engWrites e addr = true → s.engWrites e (addr + 4) = true →
        regFields addr ≠ [] → regFields (addr + 4) ≠ [] →
        ∀ x : Fin 32, blockOf addr = .axis x → engKind e ≠ 0 → commitOf (addr + 4) = some addr → addr ≠ MP_CMD_POS_LO x →
        s.windowWord x addr = none →
        s.lockBroken (.engine e) addr (s.kreg e d) = false → s.staticBroken addr (s.kreg e d) = false →
        s.lockBroken (.engine e) (addr + 4) (s.kreg e (kAfter d 1)) = false → s.staticBroken (addr + 4) (s.kreg e (kAfter d 1)) = false →
        s.pairRange addr (s.newReg addr (s.kreg e d)) (s.newReg (addr + 4) (s.kreg e (kAfter d 1))) = true →
        Runs (.abwrp e d a imm cross false) s fun t =>
          t.reg addr = s.newReg addr (s.kreg e d) ∧ t.reg (addr + 4) = s.newReg (addr + 4) (s.kreg e (kAfter d 1)) ∧
          RegsBut [addr, addr + 4, ENG_PC e] s t ∧ t.axes = s.axes ∧ t.ports = s.ports ∧ t.tiles = s.tiles) ∧
      (∀ t : Fin 4, s.atWord e (wI 0x2F d a imm) → s.engTile e = t → engKind e = 1 → addr = PWM_LOADAT_LO t → d.1 ≤ 14 →
        Runs (.abwrp e d a imm cross false) s fun u =>
          u.pair addr = (s.kreg e d).toNat + 2 ^ 32 * (s.kreg e (kAfter d 1)).toNat ∧
          RegsBut [addr, addr + 4, ENG_PC e] s u ∧ u.axes = s.axes ∧ u.ports = s.ports ∧ u.tiles = s.tiles)) ∧
    (engKind e ≠ 2 →
      (s.readOk e addr = false → s.atWord e (wI 0x2C d a imm) → Runs (.abrd e d a imm cross lost) s fun t => Stops s t e 5) ∧
      (s.writeOk e addr = false → s.atWord e (wI 0x2D d a imm) → Runs (.abwr e d a imm cross lost) s fun t => Stops s t e 5) ∧
      (d.1 = 15 → s.atWord e (wI 0x2E d a imm) → Runs (.abrdp e d a imm cross lost) s fun t => Stops s t e 2) ∧
      (d.1 = 15 → s.atWord e (wI 0x2F d a imm) → Runs (.abwrp e d a imm cross lost) s fun t => Stops s t e 2))

/-- WAIT, WAIT_TIMEOUT, YIELD, HALT, FORCED_YIELD, ENG_WDOG and UNDEFINED_OPCODE complete. WAIT takes the lowest event
that is set both in the sampled latch and in its mask: the bit clears, but for an occurrence since the latch was
sampled, and the number and the parameter as sampled stand in kd, k(d + 1) and k(d + 2); without one the run ends in
WAIT at the same word, and WAIT_TIMEOUT, once the timeout has expired, gives event 31 with parameter 0 instead.
YIELD ends the run in RUN and HALT in STOPPED with cause HALT, and the forced yields are forgotten. FORCED_YIELD of
a run that has reached its instructions or cycles ends it, counts in FYIELD and keeps the program counter; N in a
row let ENG_WDOG stop the engine with cause WDOG and raise ENG_WDOG against its axis. UNDEFINED_OPCODE stops the
engine with cause ILLEGAL. That WAIT clears the latch as well as the sample is log 116. (R203, R204, R205, R207,
R208.) -/
def Obligations.EngineRunsWaitAndEnd : Prop :=
  ∀ (s : State) (e : Fin 46) (d a : Fin 16) (imm : BitVec 18), engKind e ≠ 2 →
    (∀ b : Nat, d.1 ≤ 13 → s.atWord e (wI 0x30 d a imm) → s.evFor e imm = some b → s.hasWord e (s.pcNext e) →
      Runs (.wait e d a imm) s fun t =>
        (t.eng e).k = (((s.eng e).k.set d.1 (BitVec.ofNat 32 b)).set (kAfter d 1).1
            (((s.eng e).sampledP.toArray.getD b 0).extractLsb' 0 32)).set (kAfter d 2).1
            (((s.eng e).sampledP.toArray.getD b 0).extractLsb' 32 32) ∧
        (t.fld (ENG_EVLATCH e) ENG_EVLATCH_EV).testBit b =
          ((s.fld (ENG_EVLATCH e) ENG_EVLATCH_EV).testBit b && (s.eng e).since.getLsbD b) ∧ (t.eng e).running = true ∧
        (∀ c, (t.eng e).sampled.getLsbD c = ((s.eng e).sampled.getLsbD c && c != b)) ∧
        t.fld (ENG_PC e) ENG_PC_PC = s.pcNext e ∧ t.fld (ENG_STAT e) ENG_STAT_STATE = 1 ∧
        RegsBut [ENG_PC e, ENG_EVLATCH e, ENG_STAT e] s t ∧ EngsBut [e] s t) ∧
    (d.1 ≤ 13 → s.atWord e (wI 0x30 d a imm) → s.evFor e imm = none → s.waitOver e = false → s.pcNext e < 65536 →
      Runs (.wait e d a imm) s fun t =>
        (t.eng e).running = false ∧ t.fld (ENG_PC e) ENG_PC_PC = s.fld (ENG_PC e) ENG_PC_PC ∧ (t.eng e).k = (s.eng e).k ∧
        t.fld (ENG_STAT e) ENG_STAT_STATE = 2 ∧ (t.eng e).forced = 0 ∧
        (t.eng e).waitLeft = (if (s.kreg e a).toNat = 0 then none else some ((s.eng e).waitLeft.getD (s.kreg e a).toNat)) ∧
        RegsBut [ENG_PC e, ENG_STAT e, ENG_USE e] s t ∧ EngsBut [e] s t) ∧
    (d.1 ≤ 13 → s.atWord e (wI 0x30 d a imm) → s.evFor e imm = none → s.waitOver e = true → s.hasWord e (s.pcNext e) →
      Runs (.waitTimeout e d a imm) s fun t =>
        (t.eng e).k = (((s.eng e).k.set d.1 31).set (kAfter d 1).1 0).set (kAfter d 2).1 0 ∧ (t.eng e).waitLeft = none ∧
        t.fld (ENG_PC e) ENG_PC_PC = s.pcNext e ∧ (t.eng e).running = true ∧
        RegsBut [ENG_PC e, ENG_STAT e] s t ∧ EngsBut [e] s t) ∧
    (s.atWord e (wR 0x31 0 0 0 0) → s.pcNext e < 65536 → Runs (.yield e) s fun t =>
      (t.eng e).running = false ∧ t.fld (ENG_STAT e) ENG_STAT_STATE = 1 ∧ (t.eng e).forced = 0 ∧
      t.fld (ENG_PC e) ENG_PC_PC = s.pcNext e ∧ (t.eng e).k = (s.eng e).k ∧
      RegsBut [ENG_PC e, ENG_STAT e, ENG_USE e] s t ∧ EngsBut [e] s t) ∧
    (s.atWord e (wR 0x3F 0 0 0 0) → Runs (.halt e) s fun t =>
      (t.eng e).running = false ∧ t.fld (ENG_STAT e) ENG_STAT_STATE = 4 ∧ t.fld (ENG_STAT e) ENG_STAT_CAUSE = 1 ∧
      (t.eng e).forced = 0 ∧ (t.eng e).k = (s.eng e).k ∧ EngsBut [e] s t ∧
      (s.bit (ENG_CFG e) ENG_CFG_STOPEV = false → t.out = s.out ∧ RegsBut [ENG_PC e, ENG_STAT e, ENG_USE e] s t)) ∧
    ((s.eng e).running = true → s.engCanRun e = false → Runs (.forcedYield e) s fun t =>
      (t.eng e).running = false ∧ (t.eng e).forced = (s.eng e).forced + 1 ∧ (t.eng e).k = (s.eng e).k ∧
      Counts s t (ENG_CNT e) ENG_CNT_FYIELD ∧ Logs s t (.dev .engBudget) 5 e.1 ∧
      RegsBut [ENG_CNT e, ENG_USE e] s t ∧ EngsBut [e] s t) ∧
    (∀ x : Fin 32, s.axisOfEng e = some x → engKind e = 0 → s.fld (ENG_STAT e) ENG_STAT_STATE ≠ 4 →
      s.fld (ENG_WDOG e) ENG_WDOG_N ≤ (s.eng e).forced →
      Runs (.engWdog e) s fun t => Stops s t e 6 ∧ (t.eng e).forced = 0 ∧ Faults s t 21 x) ∧
    ∀ w : Word, s.engCanRun e = true → s.engWord e = some w → opFor (engKind e) (wOp w) = false →
      Runs (.undefinedOpcode e w) s fun t => Stops s t e 2

/-- ARM, ARMED, TIME, SIGNAL, EMIT, REACT, VERDICT and CMD complete. ARM holds one trigger, or none for condition 0;
ARMED, once its condition was met at the boundary, latches event 8, for a supervisor with the axis, and disarms.
TIME gives the line time of the last boundary. SIGNAL sends ENG_SIGNAL with the engine, the sign-extended code and
ka. EMIT writes a record 0xE000 + code with its three parameters. REACT raises ENG_REACT against the axis of the
engine and ignores a reaction outside 1 to 6. VERDICT ends the run of a filter and drops a candidate below fault
with DROP. CMD puts a descriptor of data memory into the intake of its axis with kd = 1, arriving 4 ns per cycle of
the run after the boundary, and with 4 outstanding gives kd = 0 and submits nothing. The arrival of CMD is log 272,
ARMED log 117, and a REACT outside the tile log 119. (R202, R203, R209, R210, R212, R213, R215.) -/
def Obligations.EnginesReportAndCommand : Prop :=
  ∀ (s : State) (e : Fin 46) (d a b : Fin 16) (imm : BitVec 18),
    (∀ g : Trigger, a.1 ≤ 14 → s.atWord e (wI 0x32 d a imm) → s.hasWord e (s.pcNext e) →
      g = ⟨imm.toNat, (s.kreg e a).toNat + 2 ^ 32 * (s.kreg e (kAfter a 1)).toNat,
        (if engKind e = 1 then (s.kreg e d).toNat else ((s.axisOfEng e).getD 0).1), 0, false⟩ →
      Runs (.arm e d a imm) s fun t =>
        Executes s t e 2 (s.pcNext e) { s.eng e with trig := if imm = 0 then none else some g }) ∧
    (∀ g : Trigger, (s.eng e).trig = some g → g.met = true → Runs (.armed e) s fun t =>
      (t.eng e).trig = none ∧ (t.fld (ENG_EVLATCH e) ENG_EVLATCH_EV).testBit 8 = true ∧
      (t.eng e).sampled.getLsbD 8 = true ∧
      ((t.eng e).sampledP.toArray.getD 8 0) =
        BitVec.ofNat 64 (s.boundary (s.engTile e) + if engKind e = 1 then g.axis % 32 * 2 ^ 56 else 0) ∧
      (t.eng e).k = (s.eng e).k ∧ RegsBut [ENG_EVLATCH e, ENG_CNT e] s t ∧ EngsBut [e] s t) ∧
    (∀ (u : Nat) (k : Vector Word 16), d.1 ≤ 14 → s.atWord e (wI 0x35 d a imm) → s.hasWord e (s.pcNext e) →
      u = (if engKind e = 2 then s.now / 8 * 8 else s.boundary (s.engTile e)) →
      k = ((s.eng e).k.set d.1 (BitVec.ofNat 32 u)).set (kAfter d 1).1 (BitVec.ofNat 32 (u / 2 ^ 32)) →
      Runs (.time e d imm a) s fun t => Executes s t e 1 (s.pcNext e) { s.eng e with k := k }) ∧
    (∀ (x : Fin 32) (n : Fin 16), s.axisOfEng e = some x → engKind e = 0 → s.canTell (s.ownerAx x) n (plainSev 0x0702) →
      s.atWord e (wI 0x36 d a imm) → s.hasWord e (s.pcNext e) → Runs (.signal e d a imm) s fun t =>
        Tells s t (s.ownerAx x) n 0x0702 [e.1, (imm.signExtend 32).toNat, (s.kreg e a).toNat, 0, 0] ∧
        t.fld (ENG_PC e) ENG_PC_PC = s.pcNext e ∧ (t.eng e).k = (s.eng e).k ∧ EngsBut [e] s t) ∧
    (∀ (sev : BitVec 2) (code : BitVec 12), s.atWord e (wR 0x33 d a b (sev.toNat * 4096 + code.toNat)) →
      s.hasWord e (s.pcNext e) → Runs (.emit e d a b sev code) s fun t =>
        t.fld (ENG_PC e) ENG_PC_PC = s.pcNext e ∧ (t.eng e).k = (s.eng e).k ∧ RegsBut [ENG_PC e] s t ∧ EngsBut [e] s t ∧
        ∃ r, t.recorder.transit = s.recorder.transit ++ [r] ∧ r.code = .num (0xE000 + code.toNat) ∧
          r.sev = min sev.toNat 2 ∧ r.kind = 5 ∧ r.idx = e.1 ∧
          r.params = [(s.kreg e d).toNat, (s.kreg e a).toNat, (s.kreg e b).toNat]) ∧
    (∀ x : Fin 32, s.axisOfEng e = some x → engKind e = 0 → s.atWord e (wI 0x37 d a imm) → s.hasWord e (s.pcNext e) →
      (1 ≤ imm.toNat → imm.toNat ≤ 6 → Runs (.react e d a imm) s fun t =>
        Faults s t 33 x ∧ (t.eng e).k = (s.eng e).k ∧ t.fld (ENG_PC e) ENG_PC_PC = s.pcNext e) ∧
      (imm.toNat < 1 ∨ 6 < imm.toNat → Runs (.react e d a imm) s fun t => Executes s t e 2 (s.pcNext e) (s.eng e))) ∧
    (∀ (i : Nat) (q : Staged), engKind e = 2 → s.atWord e (wI 0x38 d a imm) → (s.eng e).swap = none → imm.toNat = 1 →
      s.recorder.staging.findIdx? (fun q => q.filter == some e) = some i → s.recorder.staging[i]? = some q → q.record.sev < 2 →
      Runs (.verdict e d a imm) s fun t =>
        (t.eng e).running = false ∧ t.recorder.staging = s.recorder.staging.eraseIdx i ∧
        t.recorder.journal = s.recorder.journal ∧ Counts s t (ENG_CNT2 e) ENG_CNT2_CMDS) ∧
    ∀ (x : Fin 32) (addr : Nat), addr = (s.kreg e a + imm.signExtend 32).toNat → addr % 64 = 0 → addr + 64 ≤ dataSize e →
      s.cmdAxis e d = some x → s.atWord e (wI 0x34 d a imm) → s.hasWord e (s.pcNext e) →
      ((s.eng e).cmds < 4 → cmdAllowed (s.dataByte e addr) = true → (s.axis x).intake.length < 32 →
        Runs (.cmd e d a imm) s fun t =>
          t.kreg e d = 1 ∧ (t.eng e).cmds = (s.eng e).cmds + 1 ∧ Counts s t (ENG_CNT2 e) ENG_CNT2_CMDS ∧
          (∃ c, (t.axis x).intake = (s.axis x).intake ++ [(s.engInstant e + 16, c)] ∧ c.accept = s.engInstant e + 16 ∧ c.opcode = s.dataByte e addr ∧ c.target = x.1 ∧
            ∀ k : Fin 48, c.payload[k] = BitVec.ofNat 8 (s.dataByte e (addr + 16 + k.1))) ∧
          AxesBut [x] s t ∧ EngsBut [e] s t) ∧
      (4 ≤ (s.eng e).cmds → Runs (.cmd e d a imm) s fun t =>
        t.kreg e d = 0 ∧ (t.eng e).cmds = (s.eng e).cmds ∧ Counts s t (ENG_CNT2 e) ENG_CNT2_BUSY ∧ t.axes = s.axes ∧
        EngsBut [e] s t)

/-- For every engine instruction that the kind of its engine may use, with every operand at every value of its field,
reading the word that encodes it gives the instruction back, where the fields it does not use are 0, and no two
different instructions of an engine share a word. What a word does not tell of a command (whether a timeout has
expired, and what a crossing costs or whether it fails) is given beside it. Words written out from the formats of
R202 and the opcodes of R203 read as the instructions they stand for: fields d, a and b at bits 25, 21 and 17
downwards, imm and off in the low 18 bits, and the severity and code of EMIT in the low 14 bits. (R202, R203.) -/
def Obligations.EngineWordsAndCommandsAgree : Prop :=
  (∀ (e : Fin 46) (ctx : EngCtx) (i : Instr) (w : Word), engWordOf i = some w →
      (∃ v, engCommand e ctx v = i) → opFor (engKind e) (wOp w) = true → engCommand e ctx w = i) ∧
    ∀ (e : Fin 46) (ctx : EngCtx), engKind e = 0 →
      engCommand e ctx 0b00000100010010001100000000000000 = .add e 1 2 3 ∧
      engCommand e ctx 0b01000001010001111111111111111111 = .addi e 5 1 0x3FFFF ∧
      engCommand e ctx 0b10000000100011000000000000000100 = .beq e 2 3 4 ∧
      engCommand e ctx 0b11001100010010001110000000000101 = .emit e 1 2 3 2 5 ∧
      engCommand e ctx 0b11111100000000000000000000000000 = .halt e ∧
      engCommand e ctx 0b11100000000000000000000000000001 = .undefinedOpcode e 0xE0000001

/-- REGISTER_WRITE completes. A writer that does not own the register changes nothing but the time; a host in a device
state that takes no write of it, nothing either but that a port register shows its port as it is at that time. A
host write that a lock forbids is dropped, counted and recorded; one that would change a static field of an enabled
block, or set a forbidden code, or reach a comparator whose check runs, likewise as a static-write violation; a
change of a comparator field that may not change is dropped and counted and the other fields take their values; a
write with a field outside its range is dropped alone. A write of a register of any block - global, network,
recorder, engine, cabinet, axis, port, tile - that passes every check and has no effect beyond its value gives each
field its new value and changes no other register; one of a shadowed register changes the shadow and no value in
force. A host write of the _HI half of a pair is held, and changes no register before the write of _LO, which gives
both halves of an axis pair their values. A host access of another size than 32 bits, or misaligned, is completed as
an unsupported request and changes nothing. The held _HI half is log 134, writes in device states log 137, and a
comparator field that may not change log 100. (R252, R225, R258, R259, R256, R273, R251, R249.) -/
def Obligations.RegisterWritesAreChecked : Prop :=
  (∀ (s : State) (t : Nat) (w : Writer) (a : Nat) (v : Word), a % 4 = 0 → regFields a ≠ [] → ∀ z, z = settleFor (s.reach t) a →
    (s.owns w a = false → Runs (.registerWrite t w a v 4) s fun x => x = s.reach t) ∧
    (∀ c, w = .host c → s.owns w a = true → s.hostMayWrite a = none → Runs (.registerWrite t w a v 4) s fun x => x = z) ∧
    (∀ c, w = .host c → s.owns w a = true → s.hostMayWrite a = some false → Runs (.registerWrite t w a v 4) s fun x =>
      Counts z x (CFG_CNT c) CFG_CNT_STATIC_WR_CNT ∧ RegsBut [CFG_CNT c] z x ∧ Touches [.regs, .recorder] z x) ∧
    ∀ c, w = .host c → s.mayBus w a → commitOf a = none → heldBy a = none →
      (z.lockBroken w a v = true → Runs (.registerWrite t w a v 4) s fun x =>
        Counts z x (CFG_CNT c) CFG_CNT_LOCK_VIOL_CNT ∧ Logs z x (.dev .lockViolation) 3 c.1 ∧
        RegsBut [CFG_CNT c] z x ∧ Touches [.regs, .recorder] z x) ∧
      (z.lockBroken w a v = false → (z.staticBroken a v = true ∨ (z.keepComp a (z.newReg a v) = z.newReg a v ∧
          z.forbidden a (z.newReg a v) = true)) →
        Runs (.registerWrite t w a v 4) s fun x =>
          Counts z x (CFG_CNT c) CFG_CNT_STATIC_WR_CNT ∧ Logs z x (.dev .staticWrite) 3 c.1 ∧
          RegsBut [CFG_CNT c] z x ∧ Touches [.regs, .recorder] z x) ∧
      (z.lockBroken w a v = false → z.staticBroken a v = false → z.keepComp a (z.newReg a v) ≠ z.newReg a v →
        z.checkRuns a = false → z.inRange a (z.keepComp a (z.newReg a v)) = true →
        Runs (.registerWrite t w a v 4) s fun x =>
          Counts z x (CFG_CNT c) CFG_CNT_STATIC_WR_CNT ∧ Logs z x (.dev .staticWrite) 3 c.1 ∧
          x.reg a = z.keepComp a (z.newReg a v)) ∧
      (z.lockBroken w a v = false → z.staticBroken a v = false → z.keepComp a (z.newReg a v) = z.newReg a v →
        z.forbidden a (z.newReg a v) = false →
        (z.inRange a (z.newReg a v) = false → Runs (.registerWrite t w a v 4) s fun x => x = z) ∧
        (z.inRange a (z.newReg a v) = true → plainReg a = true → (∀ y : Fin 4, (s.tile y).parBad.contains a = false) →
          Runs (.registerWrite t w a v 4) s fun x =>
            x.reg a = z.newReg a v ∧ RegsBut [a] z x ∧ Touches (if shadowed a then [.regs, .late, .written] else [.regs]) z x))) ∧
  (∀ (s : State) (t : Nat) (c : Fin 4) (a : Nat) (v : Word) (size : Nat), size ≠ 4 ∨ a % 4 ≠ 0 →
    Runs (.registerWrite t (.host c) a v size) s fun x => x = (s.reach t).emit (.unsupported c)) ∧
  ∀ (s : State) (t : Nat) (c : Fin 4) (a : Nat) (v : Word), a % 4 = 0 → regFields a ≠ [] → s.mayBus (.host c) a →
    (∀ lo, commitOf a = some lo → settleFor (s.reach t) a = s.reach t → Runs (.registerWrite t (.host c) a v 4) s fun x =>
      x.heldHi (.host c) a = v ∧ Touches [.held] (s.reach t) x) ∧
    ∀ (y : Fin 32) (hi : Nat) (vh : Word), heldBy a = some hi → blockOf a = .axis y → a ≠ MP_CMD_POS_LO y → s.windowWord y a = none →
      vh = s.heldHi (.host c) hi → (s.reach t).lockBroken (.host c) a v = false → (s.reach t).staticBroken a v = false →
      (s.reach t).lockBroken (.host c) hi vh = false → (s.reach t).staticBroken hi vh = false →
      s.pairRange a (s.newReg a v) (s.newReg hi vh) = true →
      Runs (.registerWrite t (.host c) a v 4) s fun x =>
        x.reg a = s.newReg a v ∧ x.reg hi = s.newReg hi vh ∧ RegsBut [a, hi] s x ∧ Touches [.regs, .held] (s.reach t) x

/-- MP_CMD_POS_WRITE, GLOBAL_LOCK, CFG_LOCK, ENG_HOSTEV_SET, REC_RD_GO, LOAD_ALL, ADC_INJ_GO, CMP_WCHK_REQ,
ENC_MODE_WRITE, GLB_RECOV_GO, GLB_FWUP_GO, ID_ACC_GO and CFG_XBAR_COMMIT complete. For a writer that owns the
register in a device state that takes the write: MP_CMD_POS_WRITE gives the latest boundary the value, or is a
static-write violation where the position may not be set; GLOBAL_LOCK and CFG_LOCK set their lock for good;
ENG_HOSTEV_SET latches event 14; REC_RD_GO starts a lookup; LOAD_ALL under GANG requests the load; ADC_INJ_GO
triggers an armed injected conversion; CMP_WCHK_REQ starts the check of a monitor; ENC_MODE_WRITE takes a port out
of OFF with X at its value; GLB_RECOV_GO and GLB_FWUP_GO start what they name, with the read of the image from host
memory; ID_ACC_GO starts a read; CFG_XBAR_COMMIT sets both crossbar registers. The written position is log 47, the
count at leaving OFF log 161. (R56, R257, R209, R336, R142, R190, R180, R354, R281, R306, R286, R288.) -/
def Obligations.WritesWithEffectsTakeThem : Prop :=
  ∀ (s : State) (u : Nat) (w : Writer) (c : Fin 4) (t : Fin 4),
    (∀ (a : Fin 32) (v : BitVec 64), s.mayBus w (MP_CMD_POS_LO a) →
      (s.posSettable a = true → s.softOk a v.toInt = true → (s.prof a).plan ≠ [] →
        Runs (.mpCmdPosWrite u w a v) s fun x =>
          x.posB a = v.toInt ∧ x.axState a = s.axState a ∧ AxesBut [a] s x) ∧
      (s.posSettable a = false → Runs (.mpCmdPosWrite u w a v) s fun x =>
        Counts s x (CFG_CNT (s.writerCab w)) CFG_CNT_STATIC_WR_CNT ∧ x.axes = s.axes ∧
        RegsBut [CFG_CNT (s.writerCab w)] s x)) ∧
    (s.mayBus (.host c) GLB_LOCK → Runs (.globalLock u c) s fun x =>
      x.bit GLB_LOCK GLB_LOCK_GLOBAL_LOCK = true ∧ RegsBut [GLB_LOCK] s x) ∧
    (s.mayBus (.host c) (CFG_LOCK c) → s.fld (CFG_LOCK c) CFG_LOCK_REF_SEL ≤ 4 → Runs (.cfgLock u c) s fun x =>
      x.bit (CFG_LOCK c) CFG_LOCK_LOCK = true ∧
      x.fld (CFG_LOCK c) CFG_LOCK_REF_SEL = s.fld (CFG_LOCK c) CFG_LOCK_REF_SEL ∧ RegsBut [CFG_LOCK c] s x) ∧
    (∀ (e : Fin 46) (param : BitVec 16), s.mayBus (.host c) (ENG_HOSTEV e) → Runs (.engHostevSet u c e param) s fun x =>
      (x.fld (ENG_EVLATCH e) ENG_EVLATCH_EV).testBit 14 = true ∧
      ((x.eng e).params.toArray.getD 14 0).toNat = param.toNat ∧ x.bit (ENG_HOSTEV e) ENG_HOSTEV_SET = false ∧
      EngsBut [e] s x) ∧
    (∀ (area : Bool) (piece : BitVec 5), s.mayBus (.host c) REC_RD_CTRL → Runs (.recRdGo u c area piece) s fun x =>
      x.fld REC_RD_CTRL REC_RD_CTRL_STATUS = 1 ∧ x.bit REC_RD_CTRL REC_RD_CTRL_GO = false ∧
      x.recorder.lookup = some (s.fld REC_RD_SEQ REC_RD_SEQ_SEQ, if area then 1 else 0, piece.toNat) ∧
      RegsBut [REC_RD_CTRL] s x) ∧
    (∀ byTime : Bool, s.mayBus w (PWM_LOADALL t) → s.bit (PWM_TCTRL t) PWM_TCTRL_GANG = true →
      (s.tile t).parBad = [] → Runs (.loadAll u w t byTime) s fun x =>
        x.bit (PWM_LOADALL t) PWM_LOADALL_LOAD = true ∧ RegsBut [PWM_LOADALL t] s x ∧ TilesBut [t] s x ∧
        (byTime = true → s.period t ≠ 0 →
          (s.reach u).now < (s.pair (PWM_LOADAT_LO t) + s.period t - 1) / s.period t * s.period t →
          (x.tile t).loadAll.getLast? = some (s.pair (PWM_LOADAT_LO t))) ∧
        (byTime = true → (s.pair (PWM_LOADAT_LO t) + s.period t - 1) / s.period t * s.period t ≤ (s.reach u).now →
          Logs s x (.dev .loadLate) 2 t.1) ∧
        (byTime = false → (s.reach u).now + 5 < s.boundary t + s.period t →
          (x.tile t).loadAll = [s.boundary t + s.period t]) ∧
        (s.boundary t + s.period t ≤ (s.reach u).now + 5 → ∀ l, l ∈ (s.tile t).loadAll → l ≤ s.boundary t + s.period t →
          l ∈ (x.tile t).loadAll)) ∧
    (∀ y : Fin 2, s.mayBus w (ADC_INJ t y) → s.bit (ADC_INJ t y) ADC_INJ_ARM = true → s.bit (ADC_INJ t y) ADC_INJ_SRC = false →
      (s.conv t y).injPend = none → s.fld (ADC_INJ t y) ADC_INJ_CMPSEL ≤ 175 → (s.tile t).parBad = [] →
      Runs (.adcInjGo u w t y) s fun x =>
        (x.conv t y).injPend = some (s.fld (ADC_INJ t y) ADC_INJ_CH,
          freeOn ((s.reach u).injBusy t (nsUnits (s.reach u).now)) ((s.worker t y).getD y) shotUnits
            (nsUnits (s.reach u).now)) ∧ x.bit (ADC_INJ t y) ADC_INJ_ARM = false ∧
        x.bit (ADC_INJ t y) ADC_INJ_GO = false ∧ RegsBut [ADC_INJ t y] s x ∧ TilesBut [t] s x) ∧
    (∀ j : Fin 8, s.mayBus w (CMP_WCHK t) → s.windowBusy t j.1 = false → (s.tile t).parBad = [] →
      Runs (.cmpWchkReq u w t j) s fun x =>
        x.windowBusy t j.1 = true ∧ (x.tile t).win.check.toArray.getD (2 * j.1) none = some CmpCheck.first ∧
        (x.tile t).win.check.toArray.getD (2 * j.1 + 1) none = some CmpCheck.first ∧
        (x.fld (CMP_WCHK t) CMP_WCHK_REQ).testBit j.1 = true ∧ RegsBut [CMP_WCHK t] s x ∧ TilesBut [t] s x) ∧
    (∀ (n : Fin 16) (mode : BitVec 2), s.mayBus (.host c) (GLB_ENC_CFG n) → s.bit GLB_LOCK GLB_LOCK_GLOBAL_LOCK = false →
      s.encMode n = 0 → s.bit (GLB_ENC_STAT n) GLB_ENC_STAT_SIG = false → mode.toNat ≠ 0 → mode.toNat ≠ 3 →
      encRange (GLB_ENC_CFG_MODE.put (s.reg (GLB_ENC_CFG n)) mode.toNat) = true →
      Runs (.encModeWrite u c n mode) s fun x =>
        x.encMode n = mode.toNat ∧ (x.enc n).x = s.fldI (GLB_ENC_POS n) GLB_ENC_POS_POS ∧ (x.enc n).good = false ∧
        x.bit (GLB_ENC_STAT n) GLB_ENC_STAT_ZSEEN = false ∧ RegsBut [GLB_ENC_CFG n, GLB_ENC_STAT n] s x ∧
        ∀ m, m ≠ n → x.enc m = s.enc m) ∧
    (∀ len : BitVec 26, c = 0 → s.devState = dHALT → s.fld GLB_STATE GLB_STATE_CAUSE = 1 →
      s.fld GLB_RECOV_CTRL GLB_RECOV_CTRL_STATUS ≠ 1 → Runs (.glbRecovGo u c len) s fun x =>
        x.fld GLB_RECOV_CTRL GLB_RECOV_CTRL_STATUS = 1 ∧ x.fld GLB_RECOV_CTRL GLB_RECOV_CTRL_LEN = len.toNat ∧
        x.bit GLB_RECOV_CTRL GLB_RECOV_CTRL_GO = false ∧
        Sends s x (.imageRead 0 (s.pair GLB_RECOV_ADDR_LO) len.toNat) ∧ RegsBut [GLB_RECOV_CTRL] s x) ∧
    (∀ (setpref : Bool) (len : BitVec 26), c = 0 → dCONFIGURABLE ≤ s.devState → s.devState ≤ dRUN →
      s.fld GLB_FWUP_STAT GLB_FWUP_STAT_STATUS ≠ 1 → Runs (.glbFwupGo u c setpref len) s fun x =>
        x.fld GLB_FWUP_STAT GLB_FWUP_STAT_STATUS = 1 ∧ x.dev.fwup = some (setpref, setpref && len == 0) ∧
        ((setpref && len == 0) = false → Sends s x (.imageRead 0 (s.pair GLB_FWUP_ADDR_LO) len.toNat)) ∧
        RegsBut [GLB_FWUP_CTRL, GLB_FWUP_STAT] s x) ∧
    (∀ (dv : BitVec 7) (off : BitVec 16), s.mayBus w (ID_ACC t) → 0x50 ≤ dv.toNat → dv.toNat ≤ 0x5F → (s.tile t).parBad = [] →
      Runs (.idAccGo u w t dv off) s fun x =>
        x.fld (ID_ACC t) ID_ACC_STATUS = 1 ∧ x.fld (ID_ACC t) ID_ACC_DEV = dv.toNat ∧
        x.fld (ID_ACC t) ID_ACC_OFFSET = off.toNat ∧ RegsBut [ID_ACC t] s x) ∧
    ∀ v : Word, s.mayBus (.host c) (CFG_XBAR_A t) → s.bit (CFG_LOCK c) CFG_LOCK_LOCK = false →
      (∀ a, tileOf a = t → s.axState a = axDISABLED) → xbarTwice v (s.heldHi (.host c) (CFG_XBAR_B t)) = false →
      Runs (.cfgXbarCommit u (.host c) t v) s fun x =>
        x.reg (CFG_XBAR_A t) = v ∧ x.reg (CFG_XBAR_B t) = s.heldHi (.host c) (CFG_XBAR_B t) ∧ x.ports = s.ports

/-- SYNC_RECEIVE, DEFERRED_STEP, ANNOUNCE_RECEIVE, SYNC_TIMEOUT, ANNOUNCE_TIMEOUT, HOLDOVER_LIMIT and
DELAY_RESPONSE_RECEIVE complete. A Sync from the parent, on a port that is not blocked, shows the offset from the
four terms of R22 and R25; of a new lock it is corrected by a step with no port enabled, by a slew up to 1 ms, and
above that it waits as a pending step, what an earlier lock left pending or slewing being given up; eight Syncs in a
row below 200 ns lock. One of an option not supported, and an Announce of another domain, counts; a second copy of
either is discarded. DEFERRED_STEP makes the pending step. An Announce of a better vector selects its port as
parent. The timeouts move a locked device to holdover, and HOLDOVER_LIMIT sets HOLD_LIMIT and raises its class
against every axis, LT_LOST where it is geared to a virtual master and LT_HOLDOVER otherwise. A response of the
delay mechanism of the profile gives the path delay of its port from its four timestamps, and one of the other
mechanism or of another domain is counted. The choice of parent is log 27 and log 28, PTP frames without a profile
log 243, and duplicates log 244. (R22, R23, R25, R26, R29, R30, R31.) -/
def Obligations.LineTimeFollowsItsSource : Prop :=
  ∀ (s : State) (t : Nat),
    (∀ (f : SyncIn) (vec : List Nat) (p : Nat) (ofs : Int), s.profile ≠ 0 → s.netTakes f.port = true →
      (s.reach f.rx).isCopy f.port f.src 101 f.seq = false →
      -7 ≤ f.logIvl → f.logIvl ≤ 0 → f.domain = s.fld NET_CTRL NET_CTRL_DOMAIN → (s.profile = 2 → f.twoStep = true) →
      s.net.parent = some (vec, p) → vec.getD 7 0 = f.src → ofs = s.syncOffset f →
      Runs (.syncReceive f) s fun x =>
        x.fldI LT_OFFSET LT_OFFSET_OFFSET = clampInt (-2147483647) 2147483647 ofs ∧
        x.net.goodSyncs = (if ofs.natAbs < 200 then s.net.goodSyncs + 1 else 0) ∧
        (8 ≤ x.net.goodSyncs → x.quality = 0) ∧
        (s.net.corrected = true → x.now = (s.reach f.rx).now ∧ x.net.lastSync = some (s.reach f.rx).up ∧
          x.net.stepOfs = s.net.stepOfs ∧ (s.bit LT_STAT LT_STAT_SLEWING = true →
            (x.bit LT_STAT LT_STAT_SLEWING = decide ((s.reach f.rx).up < s.net.slewAt + 20000 * s.net.slew.natAbs)))) ∧
        (s.net.corrected = false → x.net.corrected = true ∧
          (s.anyPortOn = false → (x.now : Int) = max 0 (((s.reach f.rx).now : Int) - ofs) ∧ x.net.stepOfs = none ∧
            x.bit LT_STAT LT_STAT_STEP_PENDING = false ∧ x.bit LT_STAT LT_STAT_SLEWING = false ∧
            x.dev.relAt = s.dev.relAt - ofs ∧ ∀ u, (x.tile u).realign = true) ∧
          (s.anyPortOn = true → ofs.natAbs ≤ 1000000 → x.net.slew = ofs ∧ x.now = (s.reach f.rx).now ∧
            x.bit LT_STAT LT_STAT_SLEWING = decide (ofs ≠ 0) ∧ x.net.stepOfs = none) ∧
          (s.anyPortOn = true → 1000000 < ofs.natAbs → x.net.stepOfs = some ofs ∧
            x.bit LT_STAT LT_STAT_STEP_PENDING = true ∧ x.bit LT_STAT LT_STAT_SLEWING = false))) ∧
    (∀ f : SyncIn, s.bit LT_STAT LT_STAT_SLEWING = false →
      ((s.reach f.rx).isCopy f.port f.src 101 f.seq = true → Runs (.syncReceive f) s fun x => x = s.reach f.rx) ∧
      ((s.reach f.rx).isCopy f.port f.src 101 f.seq = false → s.profile ≠ 0 → s.netTakes f.port = true →
        (f.logIvl < -7 ∨ 0 < f.logIvl ∨ f.domain ≠ s.fld NET_CTRL NET_CTRL_DOMAIN ∨ (s.profile = 2 ∧ f.twoStep = false)) →
        Runs (.syncReceive f) s fun x =>
          Counts s x NET_FRAME_CNT NET_FRAME_CNT_PTP_DROP ∧ x.net = s.net ∧ RegsBut [NET_FRAME_CNT] s x)) ∧
    (∀ ofs : Int, s.net.stepOfs = some ofs → s.anyPortOn = false → Runs (.deferredStep t) s fun x =>
      (x.now : Int) = max 0 (((s.reach t).now : Int) - ofs) ∧ x.net.stepOfs = none ∧
      x.bit LT_STAT LT_STAT_STEP_PENDING = false ∧ (∀ u, (x.tile u).realign = true) ∧ RegsBut [LT_STAT] s x) ∧
    (∀ (port : Fin 2) (q domain : Nat) (vec : List Nat) (ivl : Int), s.profile ≠ 0 → s.netTakes port = true →
      ((s.reach t).isCopy port (vec.getD 7 0) 105 q = true →
        Runs (.announceReceive t port q domain vec ivl) s fun x => x = s.reach t) ∧
      ((s.reach t).isCopy port (vec.getD 7 0) 105 q = false →
        (domain ≠ s.fld NET_CTRL NET_CTRL_DOMAIN → Runs (.announceReceive t port q domain vec ivl) s fun x =>
          Counts s x NET_FRAME_CNT NET_FRAME_CNT_PTP_DROP ∧ x.net = s.net ∧ RegsBut [NET_FRAME_CNT] s x) ∧
        (domain = s.fld NET_CTRL NET_CTRL_DOMAIN → (∀ v p, s.net.parent = some (v, p) → lexLt vec v = true) →
          Runs (.announceReceive t port q domain vec ivl) s fun x =>
            x.net.parent = some (vec, port.1) ∧ x.net.lastAnnounce = some (s.reach t).up ∧
            x.bit (NET_PORT_STAT port) NET_PORT_STAT_PARENT = true ∧
            x.bit (NET_PORT_STAT (otherPort port)) NET_PORT_STAT_PARENT = false ∧
            RegsBut [NET_PORT_STAT 0, NET_PORT_STAT 1] s x))) ∧
    (∀ l : Nat, s.quality = 0 → s.net.lastSync = some l → l + 3 * s.net.syncInterval ≤ (s.reach t).up →
      Runs (.syncTimeout t) s fun x =>
        x.quality = 1 ∧ x.net.holdSince = some (s.reach t).up ∧ x.net.goodSyncs = 0 ∧ RegsBut [LT_STAT] s x) ∧
    (∀ l : Nat, s.quality = 0 → s.net.lastAnnounce = some l →
      l + s.fld NET_CTRL NET_CTRL_ANN_TO * s.net.annInterval ≤ (s.reach t).up →
      Runs (.announceTimeout t) s fun x =>
        x.quality = 1 ∧ x.net.holdSince = some (s.reach t).up ∧ x.net.parent = none ∧
        RegsBut [LT_STAT, NET_PORT_STAT 0, NET_PORT_STAT 1] s x) ∧
    (∀ h : Nat, s.quality = 1 → s.net.holdSince = some h → s.bit LT_STAT LT_STAT_HOLD_LIMIT = false →
      h + 1000000000 * s.fld LT_HOLD LT_HOLD_LIMIT ≤ (s.reach t).up →
      Runs (.holdoverLimit t) s fun x =>
        x.bit LT_STAT LT_STAT_HOLD_LIMIT = true ∧ ∀ a, Faults s x (if s.gearedToVm a then 0 else 1) a) ∧
    ∀ (port : Fin 2) (peer : Bool) (domain : Nat) (t1 t2 t3 t4 corr : Int), s.profile ≠ 0 → s.netPortUp port = true →
      (s.blocked port = false ∨ peer = true) →
      (peer = decide (s.profile = 2) → domain = s.fld NET_CTRL NET_CTRL_DOMAIN →
        Runs (.delayResponseReceive t port peer domain t1 t2 t3 t4 corr) s fun x =>
          x.net.pathDelay[port] = ((t2 - t1) + (t4 - t3) - corr) / 2 ∧
          x.net.pathDelay[otherPort port] = s.net.pathDelay[otherPort port] ∧ x.regs = s.regs) ∧
      (peer ≠ decide (s.profile = 2) ∨ domain ≠ s.fld NET_CTRL NET_CTRL_DOMAIN →
        Runs (.delayResponseReceive t port peer domain t1 t2 t3 t4 corr) s fun x =>
          x.net = s.net ∧ Counts s x NET_FRAME_CNT NET_FRAME_CNT_PTP_DROP ∧ RegsBut [NET_FRAME_CNT] s x)

/-- PERIOD_STROBE, STROBE_LOSS_FAULT and PATH_DELAY_ECHO complete. A strobe sets RUN of the hedge, and within 50 ns of
the count of the tile clears FREEWHEEL; further off, the first strobe no less than a later one, the tile realigns at
its next boundary and a warning record is written. STROBE_LOSS_FAULT after 1,000 boundaries without a strobe raises
its class against every axis of the tile, once. PATH_DELAY_ECHO keeps the measured delay. (R13, R15.) -/
def Obligations.StrobesKeepTilesAligned : Prop :=
  ∀ (s : State) (at_ : Nat) (t : Fin 4),
    (∀ ofs : Int, Runs (.periodStrobe at_ t ofs) s fun x =>
      x.bit GLB_HEDGE_STAT (GLB_HEDGE_STAT_RUN t) = true ∧ (x.tile t).missRun = 0 ∧ (x.tile t).strobe = true ∧
      (ofs.natAbs ≤ 50 → x.bit GLB_HEDGE_STAT (GLB_HEDGE_STAT_FREEWHEEL t) = false ∧
        (x.tile t).realign = (s.tile t).realign ∧ x.recorder = s.recorder) ∧
      (50 < ofs.natAbs → (x.tile t).realign = true ∧ Logs s x (.dev .strobeRealign) 2 t.1 ∧
        x.bit GLB_HEDGE_STAT (GLB_HEDGE_STAT_FREEWHEEL t) = s.bit GLB_HEDGE_STAT (GLB_HEDGE_STAT_FREEWHEEL t)) ∧
      RegsBut [GLB_HEDGE_STAT] s x ∧ TilesBut [t] s x) ∧
    (1000 ≤ (s.tile t).missRun → (s.tile t).strobeFault = false → Runs (.strobeLossFault t) s fun x =>
      (x.tile t).strobeFault = true ∧ (∀ a, tileOf a = t → Faults s x 3 a) ∧ TilesBut [t] s x) ∧
    ((s.tile t).missRun < 1000 ∨ (s.tile t).strobeFault = true → Runs (.strobeLossFault t) s fun x => x = s) ∧
    ∀ ns : Nat, Runs (.pathDelayEcho at_ t ns) s fun x =>
      x.tile t = { s.tile t with pathDelay := ns } ∧ TilesBut [t] s x ∧ Touches [.now, .tiles] s x

/-- FRAME_FORWARD, HEARTBEAT_TX, HEARTBEAT_RECEIVE, HEARTBEAT_TIMEOUT, RING_KEEPER_OPEN, NETWORK_LINK_CHANGE and
NET_PORT_SELF_TEST_FAIL complete. A new frame between two serving, open ports goes out once on the other port, with
the correction of R27 for a PTP frame, one of an unlisted option being counted besides; a duplicate within 1 ms is
discarded and counted. In the states that may talk one heartbeat goes out on each serving port, with the 802.1Q tag
of the port where VLAN_EN is set, the next sequence number and the version in use; where the one before did not
return, the returns in a row start again. A heartbeat of the own segment refreshes its source, a second copy
nothing; the third own one in a row to return closes an open block. A source silent for 3 of its intervals is
accepted no more. The block of the keeper opens after 3 intervals without a return. NETWORK_LINK_CHANGE shows the
link. The third NET_PORT_SELF_TEST_FAIL within 10 s retires its port. The interval of a source is log 29, duplicates
at reception log 244, and peer-delay and unlisted PTP messages log 241 and log 242. (R27, R28, R29, R33, R34, R36,
R275, R319.) -/
def Obligations.LineFramesAreForwardedAndHeard : Prop :=
  ∀ (s : State) (t : Nat) (n : Fin 2),
    (∀ (f : FwdFrame) (src k q : Nat), s.devState ≠ dOFF → s.netPortUp n = true → s.netPortUp (otherPort n) = true →
      s.blocked n = false → s.blocked (otherPort n) = false → dupKey f = some (src, k, q) →
      (∀ r a b c, f ≠ .ptp (.peerDelay r) a b c) →
      ((∀ d ∈ s.net.dup, d.src = src → d.kind = k → d.seq = q → d.seenAt + 1000000 ≤ (s.reach t).up) →
        Runs (.frameForward t n f) s fun x =>
          x.out = Out.frame (otherPort n) (frameKind f) q none [s.correction n f] :: s.out ∧
          (s.unlistedPtp f = false → x.regs = s.regs) ∧
          (s.unlistedPtp f = true → Counts s x NET_FRAME_CNT NET_FRAME_CNT_PTP_DROP ∧ RegsBut [NET_FRAME_CNT] s x)) ∧
      ((∃ d ∈ s.net.dup, d.src = src ∧ d.kind = k ∧ d.seq = q ∧ (s.reach t).up < d.seenAt + 1000000) →
        Runs (.frameForward t n f) s fun x =>
          x.out = s.out ∧ Counts s x NET_FRAME_CNT NET_FRAME_CNT_DUP_DROP ∧ RegsBut [NET_FRAME_CNT] s x)) ∧
    (s.mayTalk = true → s.netPortUp n = true → s.net.lastHb = 0 ∨ s.net.lastHb + s.hbNs ≤ (s.reach t).up →
      Runs (.heartbeatTx t) s fun x =>
        x.net.lastHb = (s.reach t).up ∧ x.net.hbOut = true ∧ x.net.returns = (if s.net.hbOut then 0 else s.net.returns) ∧
        RegsBut [NET_LF_VER] s x ∧ ∃ fields, Sends s x (.frame n 1 (s.net.txSeq.toArray.getD 0 0) (s.lineTag n)
          ([(x.fld NET_LF_VER NET_LF_VER_USED : Int), s.fld NET_SEG NET_SEG_SEG_ID, s.fld NET_SEG NET_SEG_DEVNUM, 0,
            (s.reach t).now] ++ fields))) ∧
    (∀ (h : LineHdr) (b : Heartbeat), (s.reach t).isCopy n h.src 1 h.seq = true →
      Runs (.heartbeatReceive t n h b) s fun x => x = s.reach t) ∧
    (∀ (h : LineHdr) (b : Heartbeat), s.netPortUp n = true → (s.reach t).isCopy n h.src 1 h.seq = false →
      h.seg = s.fld NET_SEG NET_SEG_SEG_ID → h.ver ≤ 2 →
      (h.src ≠ s.fld NET_SEG NET_SEG_DEVNUM → Runs (.heartbeatReceive t n h b) s fun x =>
        (∃ y ∈ x.net.sources, y.dev = h.src ∧ y.heardAt = (s.reach t).up ∧ y.epoch = b.epoch ∧ y.seq = h.seq ∧
          y.txTime = h.time ∧ ∀ o, (s.net.sources.find? fun z => z.dev == h.src) = some o → y.interval = o.next h) ∧
        RegsBut [NET_LF_VER] s x) ∧
      (h.src = s.fld NET_SEG NET_SEG_DEVNUM → 2 ≤ s.net.returns → s.net.hbOut = true → s.keeper = true → s.blockOpen = true →
        (∀ m : Fin 2, s.bit (NET_PORT_STAT m) NET_PORT_STAT_BLOCK_OPEN = true → s.bit (NET_PORT_CTRL m) NET_PORT_CTRL_BLOCK = true) →
        Runs (.heartbeatReceive t n h b) s fun x =>
          x.blockOpen = false ∧ x.net.lastReturn = (s.reach t).up ∧ Logs s x (.dev .ringKeeper) 4 0)) ∧
    (∀ (src : Nat) (y : HbSource), (s.net.sources.find? fun z => z.dev == src) = some y →
      y.heardAt + 3 * y.interval < (s.reach t).up →
      Runs (.heartbeatTimeout t src) s fun x => x.sourceOk src = false ∧ RegsBut [NET_LF_VER] s x) ∧
    (s.keeper = true → s.blockOpen = false → s.net.lastReturn + 3 * s.hbNs ≤ (s.reach t).up →
      Runs (.ringKeeperOpen t) s fun x =>
        x.blockOpen = true ∧ x.net.returns = 0 ∧ Logs s x (.dev .ringKeeper) 4 0 ∧
        RegsBut [NET_PORT_STAT 0, NET_PORT_STAT 1] s x) ∧
    (∀ up : Bool, s.net.retired[n] = false → Runs (.networkLinkChange t n up) s fun x =>
      x.bit (NET_PORT_STAT n) NET_PORT_STAT_LINK = up ∧
      (up = false → x.net.downAt[n] = some (s.reach t).up ∧ x.recorder = s.recorder) ∧
      (∀ d, up = true → s.net.downAt[n] = some d → (s.reach t).up ≤ d + 1000000000 → Logs s x (.dev .linkTransient) 6 n.1) ∧
      RegsBut [NET_PORT_STAT n] s x) ∧
    (s.net.retired[n] = false →
      (2 ≤ (s.net.selfTest[n].filter fun y => decide ((s.reach t).up ≤ y + 10000000000)).length →
        Runs (.netPortSelfTestFail t n) s fun x =>
          x.net.retired[n] = true ∧ x.bit (NET_PORT_STAT n) NET_PORT_STAT_LINK = false ∧
          Counts s x GLB_RET_CNT2 GLB_RET_CNT2_NET_PORTS ∧ Logs s x (.dev .netRetired) 6 n.1) ∧
      ((s.net.selfTest[n].filter fun y => decide ((s.reach t).up ≤ y + 10000000000)).length < 2 →
        Runs (.netPortSelfTestFail t n) s fun x =>
          x.net.retired[n] = false ∧ Logs s x (.dev .netSelfTest) 6 n.1 ∧ x.regs = s.regs))

/-- VM_SAMPLES_RECEIVE, VM_STALE and PUBLISH_SAMPLE complete. A frame of samples from an accepted source, on a port that
is not blocked, acts entry after entry: each enabled virtual master bound to an entry that passes the tests of R38
takes that sample as its latest, no longer stale, and an entry that fails counts in REJECT; a sample after the last
fresh instant restarts the order; a frame of a source that is not accepted counts once in EPOCH_DROP and reaches
none, and a second copy of a frame does nothing. After the last fresh instant STALE is set. At its interval a
channel sends one frame of type 2 with the next sequence number, the time and the value of its channel, on each
serving port. The flags VALID and RESTART of a published sample are free values: the spec does not say when a source
sets them. The flags are log 33, the first sample log 34, and duplicates log 244. (R36, R38, R40, R41, R37.) -/
def Obligations.VirtualMastersFollowTheirSource : Prop :=
  ∀ (s : State) (t : Nat) (v : Fin 8),
    (∀ (h : LineHdr) (n : Fin 2) (es : List VmEntry), (s.reach t).isCopy n h.src 2 h.seq = true →
      Runs (.vmSamplesReceive t n h es) s fun x => x = s.reach t) ∧
    (∀ (h : LineHdr) (n : Fin 2) (es : List VmEntry) (e : VmEntry), s.netTakes n = true →
      (s.reach t).isCopy n h.src 2 h.seq = false → h.seg = s.fld NET_SEG NET_SEG_SEG_ID → h.ver ≤ 2 →
      ((s.reach t).sourceOk h.src = true → ∀ y, exec (.vmSamplesReceive t n h es) s = .next y →
        exec (.vmSamplesReceive t n h (es ++ [e])) s = exec (.vmSamplesReceive t n h [e]) y) ∧
      ((s.reach t).sourceOk h.src = false →
        Runs (.vmSamplesReceive t n h es) s fun x =>
          x.vms = s.vms ∧ Counts s x NET_FRAME_CNT NET_FRAME_CNT_EPOCH_DROP ∧ RegsBut [NET_FRAME_CNT] s x) ∧
      ((s.reach t).sourceOk h.src = true → s.bit (NET_VM_CFG v) NET_VM_CFG_EN = true →
        s.fld (NET_VM_CFG v) NET_VM_CFG_SRC = h.src → s.fld (NET_VM_CFG v) NET_VM_CFG_CHAN = e.chan →
        ((s.reach t).entryOk v e = true → Runs (.vmSamplesReceive t n h [e]) s fun x =>
          (x.vm v).samples.head? = some (e.time, e.pos) ∧ (x.vm v).lastSeq = e.seq ∧
          (x.vm v).samples.tail <+: (s.vm v).samples ∧
          (∀ ts : Nat, s.vmFreshTo v = some ts → ts < (s.reach t).now → (x.vm v).samples = [(e.time, e.pos)] ∧
            (x.vm v).fresh = 1) ∧ x.bit (NET_VM_STAT v) NET_VM_STAT_STALE = false ∧
          ∀ w : Fin 8, s.bit (NET_VM_CFG w) NET_VM_CFG_EN = false → x.vm w = s.vm w) ∧
        ((s.reach t).entryOk v e = false → (∀ w : Fin 8, w ≠ v → s.bit (NET_VM_CFG w) NET_VM_CFG_EN = false) →
          Runs (.vmSamplesReceive t n h [e]) s fun x =>
            x.vms = s.vms ∧ Counts s x NET_SAMPLE_CNT NET_SAMPLE_CNT_REJECT ∧ RegsBut [NET_SAMPLE_CNT] s x))) ∧
    (∀ ts : Nat, s.vmFreshTo v = some ts → s.bit (NET_VM_CFG v) NET_VM_CFG_EN = true →
      (ts < (s.reach t).now → Runs (.vmStale t v) s fun x =>
        x.bit (NET_VM_STAT v) NET_VM_STAT_STALE = true ∧ x.vms = s.vms) ∧
      ((s.reach t).now ≤ ts → Runs (.vmStale t v) s fun x => x = s.reach t)) ∧
    ∀ port : Fin 2, s.bit (NET_PUB_CFG v) NET_PUB_CFG_EN = true → s.mayTalk = true →
      t % ivlNs (s.fld (NET_PUB_CFG v) NET_PUB_CFG_IVL) = 0 → s.netPortUp port = true →
      Runs (.publishSample t v) s fun x =>
        x.net.pubSeq[v] = (s.net.pubSeq[v] + 1) % 65536 ∧ s.freeCtr < x.freeCtr ∧ RegsBut [NET_LF_VER] s x ∧
        ∃ hdr flags, Sends s x (.frame port 2 (s.net.txSeq.toArray.getD 1 0) (s.lineTag port)
          (hdr ++ [(s.fld (NET_PUB_CFG v) NET_PUB_CFG_CHAN : Int), flags, (s.net.pubSeq[v] : Int), (t : Int),
            (s.reach t).pubValue v t]))

/-- MODE_PREPARE, MODE_COMMIT, MODE_PREPARE_FRAME, MODE_ACK_FRAME, MODE_DECISION_FRAME, ACK_DEADLINE, COMMIT_DEADLINE,
DECISION_REPEAT, MODE_UNDECIDED and MODE_OUTCOME complete. A good MODE_PREPARE whose tiles are the cabinet's and all
acknowledge, its instants measured from its acceptance, answers ACCEPTED, and each of those tiles holds the pending
mode, in a local scope committed at once with AUTO; for the line the prepare goes out. MODE_COMMIT of the cabinet's
own undecided request, accepted in time, answers ACCEPTED and commits once every unit has acknowledged; with ABORT
it frees the tiles that hold the request; of another cabinet's it answers REFUSED_OWNER. On another device an
accepted prepare makes every tile hold the mode and is acknowledged, a second one is ignored until the request has
landed, and a decision by L_c commits or frees the tiles; one that comes later leaves the request undecided. An
acknowledgement by L_d counts, a later one in LATE_ACK. The deadlines let a request lapse; the decision is repeated
every 100 us; its outcome is reported once, with whether the host aborted it (the order of the parameters is the
choice of the model, assumption log). That entry is log 247; that the descriptors act at acceptance is log 245,
REFUSED_OWNER log 246, an early commit log 31, and the order of refusals log 170. (R42, R43, R44, R45, R46.) -/
def Obligations.ModeChangesAreAgreed : Prop :=
  let committed (s x : State) (t : Fin 4) : Prop :=
      (x.tile t).mode = (s.tile t).mode.map fun m => { m with committed := true }
    let freed (x : State) (t : Fin 4) : Prop := (x.tile t).mode = none ∧ x.fld (LT_TILE_MODE t) LT_TILE_MODE_REQ_ID = 0
    let mine (s : State) (r : OwnRequest) (t : Fin 4) : Prop :=
      t ∈ s.heldTiles r
    let decided (x : State) (r : OwnRequest) (b : Bool) : Prop := ∃ q, x.net.own = some q ∧ q.id = r.id ∧ q.decision = some b
    (∀ (s : State) (d : Desc) (ts : List (Fin 4)), d.plain → s.admits d = true → prepareBad d.payload = false →
      payByte d.payload 2 ≠ 2 → ts = scopeTiles (payByte d.payload 2) (payByte d.payload 3) →
      (∀ t ∈ ts, s.ownerTile t = d.cab ∧ (s.reach d.accept).tileReason t = 0) → payByte d.payload 4 ≠ 255 →
      s.net.own = none →
      instantsOk (payByte d.payload 2) (s.slowest ts) d.accept (pay64 d.payload 8) (pay64 d.payload 16) = true →
      Runs (.modePrepare d) s fun x =>
        Answers d stACCEPTED 0 (s.reach d.accept).now s x ∧ x.net.own.map (·.id) = some (pay16 d.payload 0) ∧
        (∀ t ∈ ts, (x.tile t).mode = some ⟨payByte d.payload 4, pay64 d.payload 8, payBit d.payload 5 0⟩ ∧
          x.fld (LT_TILE_MODE t) LT_TILE_MODE_REQ_ID = pay16 d.payload 0 ∧
          x.fld (LT_TILE_MODE t) LT_TILE_MODE_PENDING = payByte d.payload 4) ∧ TilesBut ts s x) ∧
    (∀ (s : State) (d : Desc) (n : Fin 2), d.plain → s.admits d = true → prepareBad d.payload = false →
      payByte d.payload 2 = 2 → (∀ t, s.ownerTile t = d.cab ∧ (s.reach d.accept).tileReason t = 0) → payByte d.payload 4 ≠ 255 →
      s.net.own = none → instantsOk 2 (s.slowest allTiles) d.accept (pay64 d.payload 8) (pay64 d.payload 16) = true →
      (∃ u, u < 64 ∧ s.member u = true ∧ u ≠ s.fld NET_SEG NET_SEG_DEVNUM) → s.mayTalk = true → s.netPortUp n = true →
      Runs (.modePrepare d) s fun x =>
        Answers d stACCEPTED 0 (s.reach d.accept).now s x ∧ x.net.own.map (·.acks) = some [s.fld NET_SEG NET_SEG_DEVNUM] ∧
        (∀ t, (x.tile t).mode = some ⟨payByte d.payload 4, pay64 d.payload 8, false⟩) ∧
        ∃ hdr, Sends s x (.frame n 3 (s.net.txSeq.toArray.getD 2 0) (s.lineTag n) (hdr ++
          [(pay16 d.payload 0 : Int), s.fld NET_SEG NET_SEG_DEVNUM, payByte d.payload 4, pay64 d.payload 8, pay64 d.payload 16]))) ∧
    (∀ (s : State) (d : Desc) (r : OwnRequest), d.plain → s.admits d = true → payByte d.payload 2 < 2 →
      payZero d.payload 3 48 = true → s.net.own = some r → r.id = pay16 d.payload 0 → r.decision = none →
      (r.cab ≠ d.cab → Runs (.modeCommit d) s fun x =>
        Answers d stREFUSED_OWNER 0 (s.reach d.accept).now s x ∧ x.net = s.net ∧ x.tiles = s.tiles) ∧
      (r.cab = d.cab → payBit d.payload 2 0 = false → d.accept + 400000 ≤ r.lc → Runs (.modeCommit d) s fun x =>
        Answers d stACCEPTED 0 (s.reach d.accept).now s x ∧
        (s.allAcked r = true → decided x r true ∧ ∀ t, mine s r t → committed s x t) ∧
        (s.allAcked r = false → x.net.own = some { r with asked := true } ∧ x.tiles = s.tiles)) ∧
      (r.cab = d.cab → payBit d.payload 2 0 = true → Runs (.modeCommit d) s fun x =>
        Answers d stACCEPTED 0 (s.reach d.accept).now s x ∧ decided x r false ∧ ∀ t, mine s r t → freed x t)) ∧
    ∀ (s : State) (u : Nat),
      (∀ (k : Fin 2) (h : LineHdr), s.netTakes k = true → h.seg = s.fld NET_SEG NET_SEG_SEG_ID → h.ver ≤ 2 → (s.reach u).sourceOk h.src = true →
        (∀ (id orig mode lc ld : Nat) (n : Fin 2), (s.reach u).isCopy k h.src 3 h.seq = false → s.member orig = true → orig ≠ s.fld NET_SEG NET_SEG_DEVNUM →
          s.net.peers = [] → mode < 255 → (∀ t, s.tileReason t = 0) → s.mayTalk = true → s.netPortUp n = true →
          Runs (.modePrepareFrame u k h id orig mode lc ld) s fun x =>
            (∀ t, (x.tile t).mode = some ⟨mode, lc, false⟩) ∧ x.net.peers = [⟨id, orig, mode, lc, true, false⟩] ∧
            ∃ hdr, Sends s x (.frame n 4 (s.net.txSeq.toArray.getD 3 0) (s.lineTag n) (hdr ++ [(id : Int), (orig : Int), 0, 0]))) ∧
        (∀ (id orig mode lc ld : Nat), (s.net.peers.any fun p => p.id == id && p.orig == orig) = true →
          Runs (.modePrepareFrame u k h id orig mode lc ld) s fun x =>
            x.tiles = s.tiles ∧ x.regs = s.regs ∧ x.out = s.out ∧ x.net.peers = s.net.peers) ∧
        (∀ (id result : Nat) (r : OwnRequest), (s.reach u).isCopy k h.src 4 h.seq = false → s.net.own = some r → r.id = id → r.scope = 2 →
          (r.ld < (s.reach u).now → Runs (.modeAckFrame u k h id (s.fld NET_SEG NET_SEG_DEVNUM) result) s fun x =>
            Counts s x NET_SAMPLE_CNT NET_SAMPLE_CNT_LATE_ACK ∧ x.net.own = s.net.own ∧ x.tiles = s.tiles) ∧
          ((s.reach u).now ≤ r.ld → result = 0 → Runs (.modeAckFrame u k h id (s.fld NET_SEG NET_SEG_DEVNUM) result) s fun x =>
            ∃ q, x.net.own = some q ∧ q.id = id ∧ h.src ∈ q.acks ∧
              (r.decision = none → r.auto = true ∨ r.asked = true →
                s.allAcked { r with acks := h.src :: r.acks } = true → q.decision = some true))) ∧
        (∀ (id orig decision : Nat) (p : PeerRequest), (s.reach u).isCopy k h.src 5 h.seq = false → s.net.peers = [p] → p.id = id → p.orig = orig → p.decided = false →
          ((s.reach u).now ≤ p.lc → Runs (.modeDecisionFrame u k h id orig decision) s fun x =>
            (decision = 1 → x.net.peers = [{ p with decided := true }] ∧ ∀ t, committed s x t) ∧
            (decision ≠ 1 → x.net.peers = [] ∧ ∀ t, freed x t)) ∧
          (p.lc < (s.reach u).now → Runs (.modeDecisionFrame u k h id orig decision) s fun x =>
            x.net.peers = [] ∧ x.net.undecided = true ∧ (∀ t, freed x t) ∧ Logs s x (.dev .modeUndecided) 4 0))) ∧
      (∀ r : OwnRequest, s.net.own = some r →
        (r.decision = none → r.ld ≤ (s.reach u).now → s.allAcked r = false → Runs (.ackDeadline u) s fun x =>
          decided x r false ∧ ∀ t, mine s r t → freed x t) ∧
        (r.decision = none → r.auto = false → r.lc ≤ (s.reach u).now + 400000 → Runs (.commitDeadline u) s fun x =>
          decided x r false ∧ ∀ t, mine s r t → freed x t) ∧
        (∀ n : Fin 2, r.decision.isSome = true → r.scope = 2 → r.lastTx + 100000 ≤ (s.reach u).now → (s.reach u).now ≤ r.lc →
          s.mayTalk = true → s.netPortUp n = true → Runs (.decisionRepeat u) s fun x =>
            x.net.own = some { r with repeats := r.repeats + 1, lastTx := (s.reach u).now } ∧
            ∃ fields, Sends s x (.frame n 5 (s.net.txSeq.toArray.getD 4 0) (s.lineTag n) fields)) ∧
        (r.decision.isSome = true → (s.reach u).outcomeDue r = true → Runs (.modeOutcome u) s fun x =>
          x.net.own = none ∧ r.id ∈ x.net.ownDone ∧
          ∀ n, s.canTell (finCab r.cab) n (plainSev 0x0502) → ∃ why,
            (r.decision = some false → ∃ bm, Tells s x (finCab r.cab) n 0x0502
              [stMODE_ABORTED, bm % 2 ^ 64, why % 2 ^ 64, if r.hostAbort then 1 else 0, 0]) ∧
            (r.decision = some true → ((s.reach u).units r).all ((s.reach u).reports r) = true →
              Tells s x (finCab r.cab) n 0x0502 [stCOMMITTED, 0, why % 2 ^ 64, 0, 0]))) ∧
      ∀ p : PeerRequest, s.net.peers = [p] → p.decided = false → p.lc ≤ (s.reach u).now → Runs (.modeUndecided u) s fun x =>
        x.net.peers = [] ∧ x.net.undecided = true ∧ (∀ t, freed x t) ∧ Logs s x (.dev .modeUndecided) 4 0

/-- POWER_ON_TIMER, RESET_N_FALL, SUPPLY_LOSS, VHOLD_LOW, IMAGE_CHECKED, RECOVERY_IMAGE_CHECKED, IDENTITY_READ_DONE,
ID_ACC_DONE, INVENTORY_DONE, DIAG_STATE_END, CFG_COMMIT, FWUP_COMPLETE and HOST_READ_RETRY of an image complete. The
power-on timer in OFF begins BOOT at line time 0; a RESET_N pulse of 10 us and a loss of supply enter OFF from any
state with every axis DISABLED and every port OFF, the flash and the self-failure area kept but for a flush that is
cut short; a flush under way outlives the loss of supply. VHOLD_LOW loses what the recorder held outside the flash.
The check of the images enters INVENTORY with the preferred image where it passes, with the other one as FALLBACK
where that does, and HALT otherwise, with its cause. A good recovery image, cut to its length, goes to slot A and
restarts at BOOT, with the retirements kept. A failed read of an image is repeated and counted up to the third
attempt, then STATUS is 2. The outcome of an identity memory and the word of ID_ACC are kept once their attempts
decide them; before each repeat the bus is freed. The ends of INVENTORY and DIAG begin the next state; CFG_COMMIT
begins COMMITTED, sets the locks asked for and arms the segments. A good update is stored in the slot not booted.
Attempts at identities are log 143, the images as operands log 145, the flush after the loss of supply log 157,
retirements across a recovery log 287, and how long a pin was low log 236. (R272, R276, R277, R279, R280, R281,
R286, R289, R291, R306, R346, R349.) -/
def Obligations.DeviceStartsUpAndDown : Prop :=
  ∀ (s : State) (t : Nat),
    let still (x : State) : Prop := (∀ a, x.axState a = axDISABLED) ∧ ∀ p, x.portState p = pOFF ∧ x.portSafe p
    let kept (x : State) : Prop := x.recorder.armoire = s.recorder.armoire ∧ x.recorder.drawer = s.recorder.drawer
    (∀ (v : Bool) (fs : List FlashFail), s.devState = dOFF → Runs (.powerOnTimer t v fs) s fun x =>
      x.devState = dBOOT ∧ x.now = 0 ∧ still x ∧ (fs = [] ∨ v = false → s.recorder.flush = none → kept x) ∧ x.dev.resetN = true ∧
      x.dev.vhold = v ∧ x.dev.supplies = true ∧ (fs = [] ∨ v = false → x.recorder.journal = [] ∧ x.recorder.staging = []) ∧
      x.dev.pref = s.dev.pref ∧ ∃ r ∈ x.recorder.transit, r.code = .num 0xF006 ∧ r.kind = 7) ∧
    (∀ low : Nat, (10000 ≤ low → Runs (.resetNFall t low) s fun x =>
        x.devState = dOFF ∧ still x ∧ (s.recorder.flush = none → kept x) ∧ x.recorder.journal = [] ∧ x.dev.resetN = false ∧
        x.out = (if s.devState = dOFF then s.out else Out.pins false true :: s.out)) ∧
      (low < 10000 → Runs (.resetNFall t low) s fun x => x = s.reach t)) ∧
    (Runs (.supplyLoss t) s fun x =>
      x.devState = dOFF ∧ still x ∧ (s.recorder.flush = none → kept x) ∧ x.dev.supplies = false ∧
      (s.recUp = true → s.flushOwed = true → kept x ∧ x.recorder.flush = s.recorder.flush ∧
        x.recorder.journal = s.recorder.journal) ∧ x.out = if s.devState = dOFF then s.out else Out.pins false true :: s.out) ∧
    (Runs (.vholdLow t) s fun x => x.dev = { s.dev with vhold := false } ∧ x.recorder.journal = [] ∧
      x.recorder.staging = [] ∧ x.recorder.lost = none ∧ x.recorder.exports = [] ∧ x.recorder.lookup = none ∧
      x.recorder.flush = none ∧ x.recorder.drawer = s.recorder.drawer ∧ x.recorder.transit = s.recorder.transit ∧
      Touches [.now, .freeCtr, .regs, .recorder, .dev] s x ∧
      (s.recorder.flush = none → kept x ∧ x.freeCtr = s.freeCtr ∧ RegsBut [REC_STAT, REC_DRAWER] s x) ∧
      (s.recorder.flush ≠ none → x.bit REC_STAT REC_STAT_FLUSHING = false ∧ s.freeCtr < x.freeCtr ∧
        RegsBut [REC_STAT, REC_DRAWER, REC_FLUSHED, REC_CNT, REC_CNT2] s x)) ∧
    (∀ (refclk drawer : Bool) (a b : BootImage) (ra rb : PageReads), s.devState = dBOOT →
      let res (y : Bool) : Nat := s.checks (s.slotImage y (if y then b else a)) (if y then rb else ra)
      Runs (.imageChecked t refclk drawer a b ra rb) s fun x =>
        (refclk = false → x.devState = dHALT ∧ x.fld GLB_STATE GLB_STATE_CAUSE = 3) ∧
        (refclk = true → drawer = false ∨ s.dev.vhold = false → x.devState = dHALT ∧ x.fld GLB_STATE GLB_STATE_CAUSE = 2) ∧
        (refclk = true → drawer = true → s.dev.vhold = true →
          (res s.dev.pref = 1 → x.devState = dINVENTORY ∧ x.bit GLB_BOOT GLB_BOOT_IMG = s.dev.pref ∧
            x.bit GLB_BOOT GLB_BOOT_FALLBACK = false) ∧
          (res s.dev.pref ≠ 1 → res (!s.dev.pref) = 1 → x.devState = dINVENTORY ∧
            x.bit GLB_BOOT GLB_BOOT_IMG = !s.dev.pref ∧ x.bit GLB_BOOT GLB_BOOT_FALLBACK = true ∧ Logs s x (.dev .bootFallback) 4 0) ∧
          (res s.dev.pref ≠ 1 → res (!s.dev.pref) ≠ 1 → x.devState = dHALT ∧ x.fld GLB_STATE GLB_STATE_CAUSE = 1))) ∧
    (∀ f : BootImage, s.devState = dHALT → s.fld GLB_RECOV_CTRL GLB_RECOV_CTRL_STATUS = 1 →
      let g := imageUpTo f (s.fld GLB_RECOV_CTRL GLB_RECOV_CTRL_LEN)
      (Runs (.recoveryImageChecked t f) s fun x =>
        (s.checks g [] ≠ 1 → x.fld GLB_RECOV_CTRL GLB_RECOV_CTRL_STATUS = 3 ∧ x.fld GLB_BOOT GLB_BOOT_CAUSE_A = s.checks g [] ∧
          x.devState = dHALT) ∧
        (s.checks g [] = 1 → x.devState = dBOOT ∧ x.dev.slotA = some g ∧ x.dev.slotB = s.dev.slotB ∧ x.dev.pref = false ∧
          x.now = 0 ∧ still x ∧ x.dev.slotRet = s.dev.slotRet ∧ x.dev.engRet = s.dev.engRet ∧ x.dev.supRet = s.dev.supRet ∧
          x.net.retired = s.net.retired)) ∧
      Runs (.hostReadRetry t .recovery) s fun x =>
        (s.dev.readTries < 3 → Sends s x (.imageRead 0 (s.pair GLB_RECOV_ADDR_LO) (s.fld GLB_RECOV_CTRL GLB_RECOV_CTRL_LEN)) ∧
          x.dev = { s.dev with readTries := s.dev.readTries + 1 } ∧ Counts s x HIF_GCNT HIF_GCNT_RD_RETRY ∧
          RegsBut [HIF_GCNT] s x) ∧
        (3 ≤ s.dev.readTries → x.fld GLB_RECOV_CTRL GLB_RECOV_CTRL_STATUS = 2 ∧ x.out = s.out ∧
          RegsBut [GLB_RECOV_CTRL] s x)) ∧
    (∀ (u : Fin 4) (m : Fin 16) (tries : List IdTry), s.devState = dINVENTORY → s.idCode u m.1 = 0 →
      (idOutcome (if m.1 < 8 then 1 else 2) tries = none → ∀ low, Runs (.identityReadDone t u m tries low) s fun x =>
        x = freeBus u (repeatsOf (goodTry (if m.1 < 8 then 1 else 2)) tries) (s.reach t)) ∧
      ∀ o, idOutcome (if m.1 < 8 then 1 else 2) tries = some o →
        (Runs (.identityReadDone t u m tries false) s fun x => x.idCode u m.1 = o.1) ∧
        (o.1 = 1 ∨ o.1 = 3 → Runs (.identityReadDone t u m tries true) s fun x => x.idCode u m.1 = o.1) ∧
        (o.1 ≠ 1 → o.1 ≠ 3 → Runs (.identityReadDone t u m tries true) s fun x =>
          x.bit (ID_TCFG u) ID_TCFG_BUSRET = true ∧ x.idCode u m.1 = 4 ∧ ∀ k, k < 16 → x.idCode u k ≠ 0)) ∧
    (∀ (u : Fin 4) (tries : List IdTry), s.fld (ID_ACC u) ID_ACC_STATUS = 1 →
      (3 ≤ tries.length → (∀ r ∈ tries.take 3, ∀ l, r ≠ .bytes l) → Runs (.idAccDone t u tries) s fun x =>
        x.bit (ID_ACC u) ID_ACC_GO = false ∧ x.fld (ID_ACC u) ID_ACC_STATUS = 3 ∧
        x.out = Out.freeBus u.1 :: Out.freeBus u.1 :: s.out ∧ RegsBut [ID_ACC u] s x) ∧
      (tries.length < 3 → (∀ r ∈ tries.take 3, ∀ l, r ≠ .bytes l) → Runs (.idAccDone t u tries) s fun x =>
        x = freeBus u (tries.length - 1) (s.reach t)) ∧
      ∀ l rest, tries = .bytes l :: rest → 4 ≤ l.length → Runs (.idAccDone t u tries) s fun x =>
        x.bit (ID_ACC u) ID_ACC_GO = false ∧ x.fld (ID_ACC u) ID_ACC_STATUS = 2 ∧
        x.reg (ID_DATA u) = BitVec.ofNat 32 (leNat (l.take 4)) ∧ x.out = s.out ∧ RegsBut [ID_ACC u, ID_DATA u] s x) ∧
    (∀ libBad : Bool, s.devState = dINVENTORY → (∀ u, s.tileReady u = true) → Runs (.inventoryDone t libBad) s fun x =>
      x.devState = dDIAG ∧ x.bit GLB_STATE GLB_STATE_LIB_BAD = libBad) ∧
    (s.devState = dDIAG → (∀ u, (s.tile u).diag = none) → Runs (.diagStateEnd t) s fun x => x.devState = dCONFIGURABLE) ∧
    (∀ d : Desc, d.plain → s.admits d = true → payByte d.payload 0 ≤ 3 → payByte d.payload 1 ≤ 31 →
      payZero d.payload 2 48 = true → (payBit d.payload 0 1 = true → d.cab = 0) → Runs (.cfgCommit d) s fun x =>
        Answers d stDONE 0 (s.reach d.accept).now s x ∧
        x.devState = (if s.devState = dCONFIGURABLE then dCOMMITTED else s.devState) ∧
        x.bit (CFG_CAB_STAT d.cab) CFG_CAB_STAT_COMMITTED = true ∧
        (payBit d.payload 0 0 = true → x.bit (CFG_LOCK d.cab) CFG_LOCK_LOCK = true) ∧
        (payBit d.payload 0 1 = true → x.bit GLB_LOCK GLB_LOCK_GLOBAL_LOCK = true) ∧
        ∀ seg, seg < 5 → (payByte d.payload 1 = 0 ∨ (payByte d.payload 1).testBit seg = true) →
          if (s.dev.awaitRef[d.cab]).toArray.getD seg false then (x.dev.newRef[d.cab]).toArray.getD seg false = true
          else (x.fld (CFG_STAT d.cab) CFG_STAT_ARMED).testBit seg = true) ∧
    ∀ (f : BootImage) (pref : Bool) (reads : PageReads), s.dev.fwup = some (pref, false) →
      let g := imageUpTo f (s.fld GLB_FWUP_CTRL GLB_FWUP_CTRL_LEN)
      (Runs (.hostReadRetry t .firmware) s fun x =>
        (s.dev.readTries < 3 → Sends s x (.imageRead 0 (s.pair GLB_FWUP_ADDR_LO) (s.fld GLB_FWUP_CTRL GLB_FWUP_CTRL_LEN)) ∧
          x.dev = { s.dev with readTries := s.dev.readTries + 1 } ∧ Counts s x HIF_GCNT HIF_GCNT_RD_RETRY) ∧
        (3 ≤ s.dev.readTries → x.fld GLB_FWUP_STAT GLB_FWUP_STAT_STATUS = 2 ∧ x.dev = { s.dev with fwup := none })) ∧
      (∀ ok : Bool, s.checks g [] ≠ 1 → Runs (.fwupComplete t f ok reads) s fun x =>
        x.fld GLB_FWUP_STAT GLB_FWUP_STAT_STATUS = 3 ∧ x.fld GLB_FWUP_STAT GLB_FWUP_STAT_CAUSE = s.checks g [] ∧
        x.dev = { s.dev with fwup := none }) ∧
      (s.checks g [] = 1 → Runs (.fwupComplete t f false reads) s fun x =>
        x.fld GLB_FWUP_STAT GLB_FWUP_STAT_STATUS = 4 ∧ x.dev.pref = s.dev.pref) ∧
      (s.checks g [] = 1 → Runs (.fwupComplete t f true reads) s fun x =>
        (if s.bit GLB_BOOT GLB_BOOT_IMG then x.dev.slotA else x.dev.slotB) = some g ∧
        (if s.bit GLB_BOOT GLB_BOOT_IMG then x.dev.slotB = s.dev.slotB else x.dev.slotA = s.dev.slotA) ∧
        x.fld GLB_FWUP_STAT GLB_FWUP_STAT_STATUS = 5 ∧ x.dev.fwup = none ∧
        x.dev.pref = (if pref then !s.bit GLB_BOOT GLB_BOOT_IMG else s.dev.pref))

/-- RECORD_CANDIDATE, RECORDER_FILTER_RUN and LOST_EVENTS complete. The oldest candidate on its way merges into its
repeat, or joins the end of the staging FIFO while that has room, or is lost and counted with the first one lost
remembered. The run of the filters gives the oldest staged record that no filter may see the next sequence number
and the end of the journal, and starts the filter of any other at its entry word. LOST_EVENTS takes the first entry
to have become free, which counts as taken while it waits, for one record 0xF001 with the number lost and the first
one's code and source. Acceptance without a filter is log 114, the order of decisions log 233, and LOST_EVENTS log
299. (R206, R324, R326, R327.) -/
def Obligations.RecorderTakesCandidates : Prop :=
  ∀ (s : State) (t : Nat),
    (∀ (r : Record) (rest : List Record), s.recorder.transit = r :: rest → s.recUp = true →
      Runs (.recordCandidate t) s fun x =>
        x.recorder.transit = rest ∧ x.recorder.journal.length = s.recorder.journal.length ∧
        ((identityMerge r (s.modRec fun y => { y with transit := rest })).isSome = true →
          Counts s x REC_CNT2 REC_CNT2_MERGED ∧ x.recorder.staging.length = s.recorder.staging.length) ∧
        (identityMerge r (s.modRec fun y => { y with transit := rest }) = none →
          (s.recorder.occupied < 56 ∨ s.recorder.occupied < 64 ∧ 2 ≤ r.sev →
            x.recorder.staging = s.recorder.staging ++ [⟨r, none⟩]) ∧
          (64 ≤ s.recorder.occupied ∨ 56 ≤ s.recorder.occupied ∧ r.sev < 2 →
            x.recorder.staging = s.recorder.staging ∧ Counts s x REC_CNT REC_CNT_LOST ∧
            (s.recorder.lost = none → x.recorder.lost = some (1, r.sev, r.code, r.kind, r.idx))))) ∧
    (∀ (r : Record) (rest : List Staged), s.recorder.staging = ⟨r, none⟩ :: rest → s.recUp = true →
      (r.isVar = true ∨ r.fromFilter = true → s.bit REC_STAT REC_STAT_BYPASS = false → slotsOf s.recorder.journal + r.slots ≤ 65536 →
        s.recorder.unflushed + r.slots ≤ 65536 → Runs (.recorderFilterRun t) s fun x =>
        x.recorder.staging = rest ∧
        x.recorder.journal = s.recorder.journal ++ [⟨{ r with seq := s.fld REC_SEQ REC_SEQ_NEXT }, true, false⟩] ∧
        x.fld REC_SEQ REC_SEQ_NEXT = (s.fld REC_SEQ REC_SEQ_NEXT + 1) % 2 ^ REC_SEQ_NEXT.width) ∧
      (∀ f, r.isVar = false → r.fromFilter = false → s.journalTakes r = true → s.filterFor r = some f → (s.eng f).running = false →
        s.fld (ENG_PC f) ENG_PC_ID ≠ 0x0300 → ((s.eng f).img[s.imgIdx f]).entry < 65536 →
        Runs (.recorderFilterRun t) s fun x =>
          x.recorder.staging = ⟨r, some f⟩ :: rest ∧ (x.eng f).running = true ∧ (x.eng f).count = 0 ∧
          x.fld (ENG_PC f) ENG_PC_PC = ((s.eng f).img[s.imgIdx f]).entry ∧ x.recorder.journal = s.recorder.journal ∧
          EngsBut [f] s x)) ∧
    (s.recorder.lostFree = false → Runs (.lostEvents t) s fun x => x = s.reach t) ∧
    ∀ (n v k i : Nat) (c : RecCode), s.recorder.lost = some (n, v, c, k, i) → s.recUp = true → s.recorder.lostFree = true →
      s.recorder.staging.length < 64 → Runs (.lostEvents t) s fun x => x.recorder.lost = none ∧
        ((∀ q ∈ s.recorder.staging, q.record.code ≠ .num 0xF001) → (∀ j ∈ s.recorder.journal, j.record.code ≠ .num 0xF001) → ∃ r, x.recorder.staging = s.recorder.staging ++ [⟨r, none⟩] ∧ r.code = .num 0xF001 ∧ r.sev = v ∧
          r.params = [n % 2 ^ 32, codeWord c, (256 * k + i) % 2 ^ 32])

/-- REC_FLUSH, FLUSH_START, FLUSH_END, REC_QUERY, EXPORT_ENTRY, REC_RD_LOOKUP_DONE, PFAIL_FALL, PFAIL_RISE, RTC_SET,
VBAK_LOW, JOURNAL_ECC_ERROR, REC_CRIT and HOST_CRIT complete. REC_FLUSH requests a flush; its start closes the
unflushed records and copies them; its end marks them flushed, and REC_FLUSHED shows the highest number the flash
then holds. REC_QUERY starts one export of a ring; EXPORT_ENTRY writes the next piece of the wanted record of lowest
sequence number, from its first piece where the record before is gone, with GAP where records are missing and the
bytes as read where BAD, or ends the export. REC_RD_LOOKUP_DONE shows the piece asked for, or that it is not stored.
PFAIL_FALL of 1 us records REC_PFAIL and requests a flush; PFAIL_RISE only clears PFAIL. RTC_SET and VBAK_LOW set
and lose the backup clock. JOURNAL_ECC_ERROR begins bypass. REC_CRIT and HOST_CRIT enter SAFE_HOLD and raise their
class against each axis that is not DISABLED. GAP is log 160, BAD log 300, copies in the drawer log 231, and a flush
that is cut log 230. (R325, R329, R330, R331, R336, R337, R338, R339, R321, R272, R349.) -/
def Obligations.RecorderFlushesAndExports : Prop :=
  ∀ (s : State) (t : Nat),
    (∀ d : Desc, d.plain → s.admits d = true →
      (payZero d.payload 0 48 = true → Runs (.recFlush d) s fun x =>
        (s.bit REC_STAT REC_STAT_RAM_ONLY = false → Answers d stSTARTED 0 (s.reach d.accept).now s x ∧
          x.bit REC_STAT REC_STAT_FLUSH_PEND = true) ∧
        (s.bit REC_STAT REC_STAT_RAM_ONLY = true → Answers d stNO_CHANGE 0 (s.reach d.accept).now s x)) ∧
      (s.queryOk d = true → s.recorder.exports.any (fun e => e.cab == d.cab && e.ring == finRing (payByte d.payload 0)) = false →
        Runs (.recQuery d) s fun x => Answers d stSTARTED 0 (s.reach d.accept).now s x ∧
          ∃ e, x.recorder.exports = s.recorder.exports ++ [e] ∧ e.cab = d.cab ∧ e.ring = finRing (payByte d.payload 0) ∧
            e.tag = d.tag ∧ e.minSev = payByte d.payload 2 ∧ e.exported = 0)) ∧
    (s.recUp = true → s.bit REC_STAT REC_STAT_FLUSH_PEND = true → s.bit REC_STAT REC_STAT_FLUSHING = false →
      s.bit REC_STAT REC_STAT_RAM_ONLY = false → Runs (.flushStart t []) s fun x =>
        x.bit REC_STAT REC_STAT_FLUSHING = true ∧ x.bit REC_STAT REC_STAT_FLUSH_PEND = false ∧
        x.recorder.flush = some ⟨(s.recorder.journal.filter fun j => !j.flushed).map fun j => j.record.seq, s.recorder.armoire,
          s.recorder.erased⟩ ∧
        x.recorder.journal = s.recorder.journal.map fun j => { j with isOpen := false }) ∧
    (∀ w : FlushRun, s.recUp = true → s.recorder.flush = some w → s.bit REC_STAT REC_STAT_FLUSH_PEND = false →
      Runs (.flushEnd t) s fun x =>
        x.recorder.flush = none ∧ x.bit REC_STAT REC_STAT_FLUSHING = false ∧
        x.fld REC_FLUSHED REC_FLUSHED_SEQ = ((s.recorder.armoire.flatMap fun b => b.recs).foldl (fun m r => max m r.seq) 0) % 2 ^ 32 ∧
        x.recorder.armoire = s.recorder.armoire ∧
        ∀ j ∈ x.recorder.journal, j.record.seq ∈ w.seqs → j.flushed = true) ∧
    (∀ (c : Fin 4) (n : Fin 16) (bad : Option (List Byte)) (e : Export), s.recUp = true →
      s.recorder.exports.find? (fun y => y.cab == c && y.ring == n) = some e →
      (∀ (r : Record) (o : Bool), e.left ≠ some 0 → (s.reach t).nextWanted e = some (r, o) → s.rRoom c n = true →
        Runs (.exportEntry t c n bad []) s fun x =>
          ∃ y, Sends s x (.entry c n (s.rBase c n + 64 * (s.rDev c n % s.rSize c n)) (.exported y)) ∧ y.seq = r.seq ∧
            y.piece = (if r.seq = e.next then e.piece else 0) ∧ y.bytes = bad.getD (r.piece y.piece) ∧ y.pieces = r.slots ∧
            y.isOpen = o ∧ y.bad = bad.isSome ∧
            y.gap = (e.gap || (y.piece == 0 && missingSeqs (s.recorder.area e.drawer) e.next r.seq != 0))) ∧
      (e.left = some 0 ∨ (s.reach t).nextWanted e = none → Runs (.exportEntry t c n bad []) s fun x =>
        ∀ y ∈ x.recorder.exports, ¬(y.cab = c ∧ y.ring = n))) ∧
    (∀ seq area piece : Nat, s.recUp = true → s.recorder.lookup = some (seq, area, piece) → Runs (.recRdLookupDone t) s fun x =>
      x.recorder.lookup = none ∧
      ((∀ q ∈ s.recorder.area (area != 0), q.1.seq = seq → q.1.slots ≤ piece) → x.fld REC_RD_CTRL REC_RD_CTRL_STATUS = 3) ∧
      ∀ q, (s.recorder.area (area != 0)).find? (fun q => q.1.seq == seq && decide (piece < q.1.slots)) = some q →
        x.fld REC_RD_CTRL REC_RD_CTRL_STATUS = 2 ∧
        ∀ k, k < 8 → x.reg (REC_RD k) = BitVec.ofNat 32 (leNat (((q.1.piece piece).drop (4 * k)).take 4))) ∧
    (∀ low : Nat, low < 1000 → Runs (.pfailFall t low) s fun x => x = s.reach t) ∧
    (∀ low : Nat, s.recUp = true → s.dev.pfailN = true → 1000 ≤ low → Runs (.pfailFall t low) s fun x =>
      x.bit REC_STAT REC_STAT_PFAIL = true ∧ x.dev.pfailN = false ∧ Logs s x (.num 0xF002) 7 0 ∧
      (s.bit REC_STAT REC_STAT_RAM_ONLY = false → x.bit REC_STAT REC_STAT_FLUSH_PEND = true) ∧ RegsBut [REC_STAT] s x) ∧
    (Runs (.pfailRise t) s fun x =>
      x.bit REC_STAT REC_STAT_PFAIL = false ∧ x.dev = { s.dev with pfailN := true } ∧ x.recorder = s.recorder ∧
      RegsBut [REC_STAT] s x) ∧
    (s.quality = 0 → Runs (.rtcSet t) s fun x =>
      x.recorder.rtc = some ((s.epoch + (s.reach t).now) * 32768 / 1000000000, (s.reach t).up) ∧
      x.bit REC_STAT REC_STAT_RTC_VALID = true ∧ RegsBut [REC_STAT] s x) ∧
    (Runs (.vbakLow t) s fun x =>
      x.recorder = { s.recorder with rtc := none } ∧ x.bit REC_STAT REC_STAT_RTC_VALID = false ∧ RegsBut [REC_STAT] s x) ∧
    (∀ (off : Nat) (lost : List Nat), s.recUp = true → s.bit REC_STAT REC_STAT_BYPASS = false →
      s.bit REC_STAT REC_STAT_RAM_ONLY = false → Runs (.journalEccError t off lost []) s fun x =>
        x.bit REC_STAT REC_STAT_BYPASS = true ∧ x.recorder.journal = [] ∧ x.recorder.flush = none ∧
        (x.recorder.drawer.getLast?).map (·.code) = some (.num 0xF005)) ∧
    ∀ (i : Instr) (cls cause : Nat), (i = .recCrit t [] ∧ cls = 49 ∧ cause = 9 ∨ i = .hostCrit t ∧ cls = 48 ∧ cause = 8) →
      dINVENTORY ≤ s.devState → s.devState ≤ dRUN → Runs i s fun x =>
        x.devState = dSAFEHOLD ∧ x.fld GLB_STATE GLB_STATE_CAUSE = cause ∧
        (s.recUp = true → (x.recorder.drawer.getLast?).map (·.code) = some (.dev (.fault cls))) ∧
        (s.recUp = false → x.recorder.drawer = s.recorder.drawer) ∧
        ∀ a, s.axState a ≠ axDISABLED → Faults s x cls a

/-- REACTION_LAND, FAULT_REPORT and EPISODE_END complete. REACTION_LAND with one reaction pending that reached the hedge
0.5 µs or more before the last boundary, above the one in force: it is in force with its class on top, DERATE
derates, CONTROLLED_STOP stops a moving axis, HOLD holds an axis that is not DISABLED, and DISABLE and PORT_OFF
disable it with no gate output of its ports driven; one that is not above changes no reaction, and one that is too
young waits. FAULT_REPORT of a settled reaction reports it once. EPISODE_END, with the ports of the axis as they are
by then, ends an episode up to CONTROLLED_STOP once it has settled with no cause and nothing pending, and one of
DISABLE or PORT_OFF once both ports are OFF, a reaction not yet reported being reported first; HOLD stays. That step
3 lands at its own boundary is log 257, and the report before the end log 259. (R308, R309, R311, R313, R318.) -/
def Obligations.ReactionsLandReportAndEnd : Prop :=
  ∀ (s : State) (t : Nat) (a : Fin 32), s.bit (MP_FLT_STAT a) MP_FLT_STAT_EPISODE = true →
    (∀ r : PendRx, (s.axis a).ep.pend = [r] → 1 ≤ r.rx → r.rx ≤ 6 → r.cls < 2 ^ MP_FLT_STAT_TOP.width →
      (r.arrival + 500 ≤ s.axB a → s.rxOf a < r.rx → Runs (.reactionLand t a) s fun x =>
        x.rxOf a = r.rx ∧ x.fld (MP_FLT_STAT a) MP_FLT_STAT_TOP = r.cls ∧ (x.axis a).ep.pend = [] ∧
        (x.axis a).ep.landAt = s.axB a ∧
        (r.rx = 1 → s.rxOf a = 0 → x.axState a = s.axState a) ∧
        (r.rx = 2 → x.bit (MP_STAT a) MP_STAT_DERATED = true) ∧
        (r.rx = 3 → s.moving a = true → x.axState a = axSTOPPING ∨ x.axState a = axSTANDSTILL) ∧
        (r.rx = 4 → s.axState a ≠ axDISABLED → x.axState a = axHOLD) ∧
        (5 ≤ r.rx → x.axState a = axDISABLED ∧ x.portSafe (s.portOf a false) ∧ x.portSafe (s.portOf a true))) ∧
      (r.arrival + 500 ≤ s.axB a → r.rx ≤ s.rxOf a → Runs (.reactionLand t a) s fun x =>
        x.rxOf a = s.rxOf a ∧ (x.axis a).ep.pend = [] ∧ x.axState a = s.axState a ∧ x.ports = s.ports) ∧
      (s.axB a < r.arrival + 500 → Runs (.reactionLand t a) s fun x =>
        x.rxOf a = s.rxOf a ∧ (x.axis a).ep.pend = [r] ∧ x.axState a = s.axState a ∧ x.ports = s.ports)) ∧
    (s.rxOf a ≠ 0 → (s.rxOf a = 3 → s.rests a = true) →
      ((s.axis a).ep.reported = false → Runs (.faultReport t a) s fun x =>
        (x.axis a).ep.reported = true ∧
        x.fld (MP_FLT_STAT a) MP_FLT_STAT_REPORTS = min 255 (s.fld (MP_FLT_STAT a) MP_FLT_STAT_REPORTS + 1) ∧
        AxesBut [a] s x ∧
        ∀ n, s.canTell (s.ownerAx a) n (s.axis a).ep.sev → ∃ ps, ps.length = 4 ∧
          Tells s x (s.ownerAx a) n 0x0801 ((s.rxOf a + 256 * x.fld (MP_FLT_STAT a) MP_FLT_STAT_REPORTS +
            65536 * min 65535 (s.axis a).ep.count) :: ps)) ∧
      ((s.axis a).ep.reported = true → Runs (.faultReport t a) s fun x => x.out = s.out ∧ x.axes = s.axes)) ∧
    (1 ≤ s.rxOf a → s.rxOf a ≤ 3 → (s.rxOf a = 3 → s.rests a = true) →
      (settleAxis a (s.reach t)).causePresent a = false → (s.axis a).ep.pend = [] → Runs (.episodeEnd t a) s fun x =>
        x.bit (MP_FLT_STAT a) MP_FLT_STAT_EPISODE = false ∧ x.rxOf a = 0 ∧ (x.axis a).ep.classes = [] ∧
        x.bit (MP_STAT a) MP_STAT_DERATED = false ∧
        ∀ n, (s.axis a).ep.reported = false → s.canTell (s.ownerAx a) n (s.axis a).ep.sev → ∃ ps, Tells s x (s.ownerAx a) n 0x0801 ps) ∧
    (5 ≤ s.rxOf a → (settleAxis a (s.reach t)).bothPorts a pOFF = true → Runs (.episodeEnd t a) s fun x =>
      x.bit (MP_FLT_STAT a) MP_FLT_STAT_EPISODE = false ∧ x.rxOf a = 0 ∧ (x.axis a).ep.past = (s.axis a).ep.classes) ∧
    (s.rxOf a = 4 ∨ 5 ≤ s.rxOf a ∧ (settleAxis a (s.reach t)).bothPorts a pOFF = false → Runs (.episodeEnd t a) s fun x =>
      x.bit (MP_FLT_STAT a) MP_FLT_STAT_EPISODE = true ∧ x.rxOf a = s.rxOf a ∧ (x.axis a).ep = (s.axis a).ep)

/-- MIGRATE, PRECOPY_END, SLOT_HW_FAULT, PREVENTIVE_REPAIR, SPARE_FILL_END and SUPERVISOR_FAULT complete. MIGRATE to a
named spare slot, with no migration, homing, stopping reaction or swap at the same boundary, answers STARTED in
PRECOPY with that destination; PRECOPY_END lets the next boundary begin the catch-up. SLOT_HW_FAULT of a part in no
use retires it; of a part in use with a copy and a spare near it starts the take-over at the next boundary, or at
the one after where it was found in the last 2 us; with no spare the axis is held and the fault raised. a slot that
stops gives no results; a fault of a destination ends the migration and retires it. PREVENTIVE_REPAIR below CE_LIMIT
only records, from there on it starts a repair towards a spare. SPARE_FILL_END puts the axis on its new placement in
HOLD and retires the old part. SUPERVISOR_FAULT restarts a supervisor 3 times and then retires it, and a filter at
once. A migration that is attempted again is log 148, the withheld results log 291, the swap at the same boundary
log 289, a fault of a destination log 293, and a fill in another hedge log 151 and log 292. (R293, R294, R295, R302,
R303, R304, R305.) -/
def Obligations.PlacementsMoveAndAreRepaired : Prop :=
  (∀ (s : State) (d : Desc) (a : Fin 32), d.plain → s.admits d = true → d.target = a.1 → payByte d.payload 0 = 1 →
      payByte d.payload 1 ≤ 1 → payZero d.payload 4 48 = true → s.slotSpare (payByte d.payload 2) = true →
      s.migOf a = none → s.homing a = false → s.rxOf a < 3 → (s.axis a).swapAt ≠ some (s.axB a) →
      Runs (.migrate d) s fun x =>
        Answers d stSTARTED 0 (s.axB a) s x ∧ x.fld (MP_PLACE a) MP_PLACE_MSTATE = 1 ∧
        x.fld (MP_MIG_TGT a) MP_MIG_TGT_DSLOT = payByte d.payload 2 ∧ x.slotOf a = s.slotOf a ∧
        (x.migOf a).map (fun m => (m.slot, m.eng, m.tag)) = some (true, false, d.tag) ∧ AxesBut [a] s x) ∧
    ∀ (s : State) (t : Nat),
      (∀ (a : Fin 32) (m : Migration), s.migOf a = some m →
        (s.fld (MP_PLACE a) MP_PLACE_MSTATE = 1 → Runs (.precopyEnd t a) s fun x =>
          x.migOf a = some { m with copied := true } ∧ AxesBut [a] s x) ∧
        (m.fill = true → m.slot = true → m.eng = false → s.axState a ≠ axDISABLED → (∀ y ∈ (s.axis a).faulty, m.moves y = true) →
          s.fld (MP_MIG_TGT a) MP_MIG_TGT_DSLOT < 36 → Runs (.spareFillEnd t a) s fun x =>
            x.migOf a = none ∧ x.axState a = axHOLD ∧ x.slotOf a = s.fld (MP_MIG_TGT a) MP_MIG_TGT_DSLOT ∧
            s.slotOf a ∈ x.dev.slotRet ∧ x.fld (MP_PLACE a) MP_PLACE_MSTATE = 0)) ∧
      (∀ (p : HwPart) (f : HwFault), s.partTarget p = none →
        (∀ n : Fin 36, p = .slot n → s.partAxis p = none → n.1 ∉ s.dev.slotRet → Runs (.slotHwFault t p f) s fun x =>
          n.1 ∈ x.dev.slotRet ∧ Logs s x (.dev .partRetired) 4 0 ∧ x.axes = s.axes) ∧
        (∀ (a : Fin 32) (n : Nat), f = .stopping true true → s.partAxis p = some a → s.migOf a = none →
          s.bit GLB_MIG_CFG GLB_MIG_CFG_REPAIR = true →
          ((s.sparesFor p).find? fun k => hedgeFn p k == partHedge p) = some n → Runs (.slotHwFault t p f) s fun x =>
            x.fld (MP_PLACE a) MP_PLACE_MSTATE = 4 ∧ AxesBut [a] s x ∧
            (∀ (k : Fin 36) (b : Bool), p = .slot k → s.axState a ≠ axDISABLED → (x.loop (s.portOf a b)).missed = true) ∧ ∃ m, x.migOf a = some m ∧ m.repair = true ∧
              m.fenceIn = some (if s.boundary (tileOf a) + s.period (tileOf a) < (s.reach t).now + 2000 then 2 else 1)) ∧
        (∀ (a : Fin 32) (snap bulk : Bool), f = .stopping snap bulk → s.partAxis p = some a → s.migOf a = none →
          s.bit GLB_MIG_CFG GLB_MIG_CFG_REPAIR = true → s.sparesFor p = [] → s.axState a ≠ axDISABLED →
          Runs (.slotHwFault t p f) s fun x => x.axState a = axHOLD ∧ Faults s x 27 a)) ∧
      (∀ (a : Fin 32) (n : Fin 36) (f : HwFault) (m : Migration), s.partTarget (.slot n) = some a → s.migOf a = some m →
        m.slot = true → m.eng = false → m.fill = false → m.fenceIn = none → (s.axis a).faulty = [] →
        s.fld (MP_MIG_TGT a) MP_MIG_TGT_DSLOT = n.1 → Runs (.slotHwFault t (.slot n) f) s fun x =>
          x.migOf a = none ∧ x.slotOf a = s.slotOf a ∧ x.fld (MP_PLACE a) MP_PLACE_MSTATE = 0 ∧ n.1 ∈ x.dev.slotRet ∧
          Counts s x GLB_MIG_CNT GLB_MIG_CNT_ABORTS) ∧
      (∀ (p : HwPart) (n : Nat),
        (n < s.fld GLB_MIG_CFG GLB_MIG_CFG_CE_LIMIT → Runs (.preventiveRepair t p n) s fun x =>
          Logs s x (.dev .correctedErrors) 4 0 ∧ Touches [.now, .recorder, .dev] s x ∧
          x.dev = { s.dev with transients := s.dev.transients + 1 }) ∧
        ∀ (a : Fin 32) (k : Nat), s.fld GLB_MIG_CFG GLB_MIG_CFG_CE_LIMIT ≤ n → s.partAxis p = some a → s.partTarget p = none → s.migOf a = none →
          s.bit GLB_MIG_CFG GLB_MIG_CFG_REPAIR = true →
          pickSpare (s.sparesFor p) (hedgeFn p) (tileOf a).1 = some k → Runs (.preventiveRepair t p n) s fun x =>
            x.fld (MP_PLACE a) MP_PLACE_MSTATE = 1 ∧ AxesBut [a] s x ∧
            ∃ m, x.migOf a = some m ∧ m.repair = true ∧ m.fenceIn = none) ∧
      ∀ e : Fin 46, s.fld (ENG_STAT e) ENG_STAT_STATE ≠ 6 →
        (engKind e = 1 → (s.eng e).restarts < 3 → ((s.eng e).img[s.imgIdx e]).entry < 65536 →
          Runs (.supervisorFault t e) s fun x =>
            x.fld (ENG_STAT e) ENG_STAT_STATE = 1 ∧ (x.eng e).restarts = (s.eng e).restarts + 1 ∧
            x.fld (ENG_PC e) ENG_PC_PC = ((s.eng e).img[s.imgIdx e]).entry ∧ Logs s x (.dev .supervisor) 5 e.1) ∧
        (engKind e = 1 → 3 ≤ (s.eng e).restarts → Runs (.supervisorFault t e) s fun x =>
          x.fld (ENG_STAT e) ENG_STAT_STATE = 6 ∧ Counts s x GLB_RET_CNT2 GLB_RET_CNT2_SUPERVISORS ∧
          (x.eng e).running = false ∧ Logs s x (.dev .supervisor) 5 e.1) ∧
        (engKind e = 2 → (s.eng e).running = false → Runs (.supervisorFault t e) s fun x =>
          x.fld (ENG_STAT e) ENG_STAT_STATE = 6 ∧ Counts s x GLB_RET_CNT2 GLB_RET_CNT2_FILTERS)

/-- TILE_BOUNDARY, DESCRIPTOR_ROUTE, CROSSING_ATTEMPT_FAIL, PROG_LOAD and PROG_SWAP complete. TILE_BOUNDARY k of a
running tile, later than its last one, makes k × period its last boundary with that period in force; the port
shadows written in time come into force, unless GANG waits for a load; a committed mode whose instant has come
lands; engines get event 15 and their runs begin; an axis on whose profile nothing ends shows its position of that
instant; of the descriptors that wait for the tile and its axes those remain that came in the last 0.5 us before it
or later. An older one, or one of tiles that do not run, changes nothing. DESCRIPTOR_ROUTE puts the first descriptor
on its way to an axis into its intake, or answers ABANDONED where routing failed. CROSSING_ATTEMPT_FAIL counts and
records a retry, and only the third failure abandons what was carried; a late result counts where it arrives after a
fence. PROG_LOAD of an image that passes every check answers LOADED into the standby image; PROG_SWAP of a valid
standby image answers SWAPPED, and the other image starts at its entry word with its argument in k5. That a boundary
without a predecessor ends no period is log 20, how boundaries are given log 21, and where a descriptor command
lands log 6. (R10, R13, R20, R218, R220, R236.) -/
def Obligations.BoundariesAndCrossingsDeliver : Prop :=
  (∀ (s : State) (t : Fin 4) (k : Nat) (i : TileIn) (T : Nat), T = psel (s.fld (LT_TILE_PERIOD t) LT_TILE_PERIOD_PSEL) →
      (s.tilesRun = true → (s.tile t).lastB < k * T → Runs (.tileBoundary t k i) s fun x =>
        (x.tile t).k = k ∧ x.now = max s.now (k * T) ∧ (x.tile t).lastB = k * T ∧ x.period t = T ∧
        ((x.tile t).intake = (s.tile t).intake.filter fun e => !decide (e.1 + 500 < k * T)) ∧
        (∀ a, tileOf a = t → (x.axis a).intake = (s.axis a).intake.filter fun e => !decide (e.1 + 500 < k * T)) ∧
        (∀ p, tileOfPort p = t → ∀ a ∈ portShadows p,
          (s.bit (PWM_TCTRL t) PWM_TCTRL_GANG = false ∨ (∃ l ∈ (s.tile t).loadAll, l ≤ k * T) → x.force a = s.due a) ∧
          (s.bit (PWM_TCTRL t) PWM_TCTRL_GANG = true → (∀ l ∈ (s.tile t).loadAll, k * T < l) → x.force a = s.force a)) ∧
        (∀ m, (s.tile t).mode = some m → (∀ c, (s.cab c).waiting = []) → (s.tile t).intake = [] →
          (m.committed = true → m.lc ≤ k * T → x.tileMode t = m.mode ∧ (x.tile t).mode = none ∧
            x.fld (LT_TILE_MODE t) LT_TILE_MODE_REQ_ID = 0 ∧ x.fld (LT_TILE_MODE t) LT_TILE_MODE_PENDING = 0) ∧
          (m.committed = false ∨ k * T < m.lc → x.tileMode t = s.tileMode t ∧ (x.tile t).mode = some m)) ∧
        (∀ e ∈ x.tileEngines t, (x.fld (ENG_EVLATCH e) ENG_EVLATCH_EV).testBit 15 = true ∧
          ((x.eng e).running = true → (x.eng e).count = 0 ∧ (x.eng e).cycles = 0 ∧ (x.eng e).sampled.getLsbD 15 = true)) ∧
        (∀ a, tileOf a = t → s.axState a = axPOSITION ∨ s.axState a = axVELOCITY →
          progress a (k * T) 24 (s.reach (k * T)) = s.reach (k * T) → s.softOn a = false → (s.gear a).engPend = none →
          (s.axis a).intake = [] → (s.eng (s.engOf a)).due = [] → s.migOf a = none → (s.axis a).home = none →
          (s.prof a).stopDue = false → (s.tile t).mode = none → (s.tile t).intake = [] → (∀ c, (s.cab c).waiting = []) →
          ((x.pair (MP_CMD_POS_LO a) : Int) - roundHalfAway (wrapPos (planAt (s.prof a).plan (k * T)).p)) % 2 ^ 64 = 0 ∧
          ((s.axis a).io.stopPend = none → x.rxOf a = s.rxOf a → x.axState a = s.axState a ∨ x.axState a = axDISABLED))) ∧
      (s.tilesRun = false ∨ k * T ≤ (s.tile t).lastB ∧ (s.tile t).realign = false →
        Runs (.tileBoundary t k i) s fun x => x = s)) ∧
    (∀ (s : State) (u : Nat) (c : Fin 4) (n : Fin 16) (d : Desc) (rest : List Desc), (s.ring c n).toRoute = d :: rest →
      (∀ a : Fin 32, d.kind = 0 → d.target = a.1 → (s.axis a).intake.length < 32 → Runs (.descriptorRoute u c n true) s fun x =>
        (x.axis a).intake = (s.axis a).intake ++ [((s.reach u).now, d)] ∧ (x.ring c n).toRoute = rest ∧
        x.out = s.out ∧ AxesBut [a] s x ∧ x.regs = s.regs) ∧
      (d.plain → Runs (.descriptorRoute u c n false) s fun x =>
        Answers d stABANDONED 0 (s.reach u).now s x ∧ Logs s x (.dev .routeFail) 3 c.1 ∧
        Counts s x HIF_GCNT HIF_GCNT_ROUTE_FAIL ∧ x.axes = s.axes)) ∧
    (∀ (s : State) (u : Nat) (h : Fin 4) (x : XTraffic),
      ((∀ a y, x ≠ .late a y) → Runs (.crossingAttemptFail u (some h) x false) s fun y =>
        Counts s y (GLB_XING_CNT h) GLB_XING_CNT_RETRY ∧ Logs s y (.dev .crossingRetry) 4 0 ∧
        RegsBut [GLB_XING_CNT h] s y ∧ Touches [.now, .regs, .recorder] s y) ∧
      (∀ third : Bool, (∀ a y, x ≠ .late a y) → Runs (.crossingAttemptFail u none x third) s fun y =>
        Counts s y GLB_XING_HCNT GLB_XING_HCNT_RETRY ∧
        (third = true → Counts s y GLB_XING_HCNT GLB_XING_HCNT_LOST)) ∧
      (∀ (a : Fin 32) (z third : Bool), x = .late a z → Runs (.crossingAttemptFail u (some h) x third) s fun y =>
        (z = true → third = false → (s.axis a).fenceAt.isSome = true → Counts s y (MP_MIG_CNT a) MP_MIG_CNT_LATE) ∧
        (z = false ∨ third = true ∨ (s.axis a).fenceAt = none → y.reg (MP_MIG_CNT a) = s.reg (MP_MIG_CNT a))) ∧
      (xingHasRecord x = false → Runs (.crossingAttemptFail u (some h) x true) s fun y => Logs s y (.dev .crossingAbandoned) 4 0) ∧
      (∀ r : Option (Fin 4), x = .register r → Runs (.crossingAttemptFail u (some h) x true) s fun y =>
        y.out = (match r with | some c => Out.abort c :: s.out | none => s.out)) ∧
      (∀ p, x = .results p → (s.loop p).missed = false → Runs (.crossingAttemptFail u (some h) x true) s fun y =>
        (y.loop p).missed = true ∧ (y.loop p).missRun = (s.loop p).missRun + 1 ∧ PortsBut [p] s y) ∧
      (∀ t, x = .strobe t → Runs (.crossingAttemptFail u (some h) x true) s fun y =>
        (y.tile t).strobe = false ∧ TilesBut [t] s y) ∧
      (∀ (r : Record) (rest : List Record), x = .record → s.recorder.transit = r :: rest →
        Runs (.crossingAttemptFail u (some h) x true) s fun y =>
          y.recorder.transit = rest ∧ Counts s y REC_CNT REC_CNT_LOST ∧ y.recorder.staging = s.recorder.staging)) ∧
    ∀ (s : State) (d : Desc) (a : Fin 32) (e : Fin 46) (sb : Fin 2), d.plain → s.admits d = true → d.kind = 0 →
      d.target = a.1 → e = s.engOf a → sb ≠ s.imgIdx e → s.migOf a = none → e.1 < 40 →
      (∀ im : Image, loadedImage d 0 = some (.inl im) → payByte d.payload 0 = 0 → payByte d.payload 1 ≤ 1 →
        payByte d.payload 2 = 0 → payByte d.payload 3 = 0 → pay16 d.payload 6 = 0 → payZero d.payload 24 48 = true →
        s.bit GLB_STATE GLB_STATE_LIB_BAD = false → Runs (.progLoad d) s fun x =>
          Answers d stLOADED 0 (s.axB a) s x ∧ (x.eng e).img[sb] = im ∧ x.bit (ENG_STAT e) ENG_STAT_SB_VALID = true ∧
          (x.eng e).img[s.imgIdx e] = (s.eng e).img[s.imgIdx e] ∧ x.imgIdx e = s.imgIdx e ∧ EngsBut [e] s x) ∧
      (payByte d.payload 0 = 0 → payByte d.payload 1 = 0 → payByte d.payload 2 = 0 → payByte d.payload 3 = 0 →
        payZero d.payload 8 48 = true → s.bit (ENG_STAT e) ENG_STAT_SB_VALID = true → s.homing a = false →
        s.fld (ENG_STAT e) ENG_STAT_STATE ≠ 6 → (s.eng e).swap = none → ((s.eng e).img[sb]).entry < 65536 →
        Runs (.progSwap d) s fun x =>
          Answers d stSWAPPED 0 (s.axB a) s x ∧ x.imgIdx e = sb ∧ x.fld (ENG_PC e) ENG_PC_PC = ((s.eng e).img[sb]).entry ∧
          x.kreg e 5 = BitVec.ofNat 32 (pay32 d.payload 4) ∧ (x.eng e).img = (s.eng e).img ∧ EngsBut [e] s x)

/-- PARITY_SWEEP, PRIVET_SCAN_END and RESCAN_END complete. PARITY_SWEEP takes bits that flipped in a register under
parity, which holds them from then on; an odd number of them in a register not yet remembered counts, is recorded
and remembered, and for a block of a port, when it becomes faulted, takes every gate output of that port off and
raises its class; otherwise they only stand in the register. PRIVET_SCAN_END, after the upsets of the scan, gives a
segment that waits for a new reference that reference and arms it, and marks an armed segment MISMATCH where its CRC
differs and not otherwise. RESCAN_END of an armed segment marked so clears the mark where the CRC agrees, and
otherwise marks it FAULT, disarms it and raises its class against the axes it concerns. That upsets are operands is
log 139, their detection log 280, and the comparison of a scan log 281. (R262, R263, R268, R269, R270.) -/
def Obligations.SweepsAndScansFindErrors : Prop :=
  ∀ (s : State) (u : Nat),
    (∀ (t : Fin 4) (a : Nat), parityCovered a = true → shadowTile a = t →
      (∀ (f : Bool) (bits : Word), a ∉ (s.tile t).parBad → oddBits (bits &&& storedMask a f) = true →
        Runs (.paritySweep u t [⟨a, f, bits⟩]) s fun x =>
        (x.tile t).parBad = (s.tile t).parBad ++ [a] ∧ Counts s x (CFG_PAR_CNT t) CFG_PAR_CNT_EVENTS ∧
        Logs s x (.dev .parity) 2 t.1 ∧
        ∀ p, (blockOf a = .port p ∨ blockOf a = .portSense p) → (s.faultedBlocks t).contains (a / 64) = false →
          x.portSafe p ∧ ∀ y b, s.axisOfPort p = some (y, b) → Faults s x 23 y) ∧
      (∀ (f : Bool) (bits : Word), a ∈ (s.tile t).parBad ∨ oddBits (bits &&& storedMask a f) = false →
        Runs (.paritySweep u t [⟨a, f, bits⟩]) s fun x =>
          x.tiles = s.tiles ∧ x.recorder = s.recorder ∧ x.ports = s.ports ∧ x.axes = s.axes ∧
          x.reg a = (if f then s.reg a else s.reg a ^^^ (bits &&& storedMask a f)) ∧
          x.force a = (if f then s.force a ^^^ (bits &&& storedMask a f) else s.force a) ∧
          ∀ b, b ≠ a → x.reg b = s.reg b ∧ x.force b = s.force b)) ∧
    (∀ (us : Nat) (ups : List Upset) (mis : List (Fin 4 × Nat × Word)), Runs (.privetScanEnd u us ups mis) s fun x =>
      x.fld CFG_SCAN_INFO CFG_SCAN_INFO_LAST_US = min us 65535 ∧
      ∀ (c : Fin 4) (seg : Nat), seg < 5 →
        ((s.dev.newRef[c]).toArray.getD seg false = true →
          x.segBit c CFG_STAT_ARMED seg = true ∧ x.segBit c CFG_STAT_FAULT seg = false) ∧
        ((s.dev.newRef[c]).toArray.getD seg false = false → s.segBit c CFG_STAT_ARMED seg = true →
          x.segBit c CFG_STAT_MISMATCH seg = ((ups.foldl applyUpset (s.reach u)).scanDiff mis c seg != 0)) ∧
        ((s.dev.newRef[c]).toArray.getD seg false = false → s.segBit c CFG_STAT_ARMED seg = false →
          x.segBit c CFG_STAT_MISMATCH seg = s.segBit c CFG_STAT_MISMATCH seg)) ∧
    ∀ (ups : List Upset) (mis : List (Fin 4 × Nat × Word)), Runs (.rescanEnd u ups mis) s fun x =>
      ∀ (c : Fin 4) (seg : Nat), seg < 5 →
        (s.segBit c CFG_STAT_ARMED seg = true → s.segBit c CFG_STAT_MISMATCH seg = true →
          ((ups.foldl applyUpset (s.reach u)).scanDiff mis c seg = 0 → x.segBit c CFG_STAT_MISMATCH seg = false ∧ Logs s x (.dev .scanTransient) 3 c.1) ∧
          ((ups.foldl applyUpset (s.reach u)).scanDiff mis c seg ≠ 0 → x.segBit c CFG_STAT_FAULT seg = true ∧ x.segBit c CFG_STAT_ARMED seg = false ∧
            ∀ a ∈ s.scanAxes c seg, Faults s x 25 a)) ∧
        (s.segBit c CFG_STAT_ARMED seg = false → x.segBit c CFG_STAT_MISMATCH seg = s.segBit c CFG_STAT_MISMATCH seg)

/-- In the default mapping, which reset leaves, axis a drives phase A on port 2a and phase B on port 2a + 1, both on
tile ⌊a/8⌋. Whatever the crossbar registers hold, both ports of an axis lie on its tile, so that no change of the
crossbar moves an axis to a port of another tile. While CFG_LOCK of the owner of the tile is set, as CFG_COMMIT can
set it, CFG_XBAR_COMMIT moves no port of any axis. (R4.) -/
def Obligations.PortsOfAnAxisStayInItsTile : Prop :=
  (∀ a : Fin 32, (State.reset.portOf a false).1 = 2 * a.1 ∧ (State.reset.portOf a true).1 = 2 * a.1 + 1 ∧
      (tileOf a).1 = a.1 / 8) ∧
    (∀ (s : State) (a : Fin 32) (b : Bool), tileOfPort (s.portOf a b) = tileOf a) ∧
    ∀ (s : State) (u : Nat) (c t : Fin 4) (v : Word), s.mayBus (.host c) (CFG_XBAR_A t) →
      s.bit (CFG_LOCK c) CFG_LOCK_LOCK = true → Runs (.cfgXbarCommit u (.host c) t v) s fun x =>
        ∀ (a : Fin 32) (b : Bool), x.portOf a b = s.portOf a b

/-- For every topiary table whose entries are w[0] to w[1023], with w[1024] = 65,535: H(f) × 64 = w[idx] × 64 + (w[idx +
1] − w[idx]) × frac with idx = f >> 6 and frac = f & 63 for every f below 65,536, and H(65,536) = 65,535. A table
taken from host memory has 1,024 entries of 16 bits. For every q from 0 to 3 and f below 65,536 the wave at 65,536 q
+ f is +H(f), +H(65,536 − f), −H(f) and −H(65,536 − f). At a full-step position, with w[0] = 0 and outside the
full-step mode, one coil has no current and the other exactly the run current, in one direction or the other. (R98,
R99.) -/
def Obligations.TheWaveFollowsItsTable : Prop :=
  (∀ t : Table, t.entry 1024 = 65535 ∧ t.h64 65536 = 65535 * 64 ∧
      (∀ f : Nat, f < 65536 →
        t.h64 f = (t.entry (f / 64) : Int) * 64 + ((t.entry (f / 64 + 1) : Int) - t.entry (f / 64)) * (f % 64 : Nat)) ∧
      ∀ f : Nat, f < 65536 →
        t.s64 f = t.h64 f ∧ t.s64 (65536 + f : Nat) = t.h64 (65536 - f) ∧
        t.s64 (131072 + f : Nat) = -t.h64 f ∧ t.s64 (196608 + f : Nat) = -t.h64 (65536 - f)) ∧
    (∀ (bs : List Byte) (t : Table), parseTable bs = some t →
      ∃ w : List Nat, t = .data w ∧ w.length = 1024 ∧ ∀ y ∈ w, y < 2 ^ 16) ∧
    ∀ (s : State) (a : Fin 32) (q : Nat), q < 4 → (s.activeTable a).entry 0 = 0 → s.fld (CR_CFG a) CR_CFG_STEPMODE ≠ 2 →
      let r := s.coilRefs a (65536 * q)
      let run : Int := s.fld (CR_IRUN a) CR_IRUN_IRUN
      (r.1 = 0 ∧ (r.2 = run ∨ r.2 = -run)) ∨ (r.2 = 0 ∧ (r.1 = run ∨ r.1 = -run))

/-- After power-on and after RESET_N, every axis engine that serves an axis is IDLE and every other one reads SPARE, and
both images of each are invalid. When a good image takes the device from BOOT to INVENTORY, with the first image
active in each engine as power-on leaves it, each supervisor that is not retired starts library program 0x0200 and
each such filter library program 0x0300, at its entry word. A program load or swap moves no axis to another engine:
that is done by MIGRATE. The library images are log 121. (R221.) -/
def Obligations.ProgramsStartWithTheDevice : Prop :=
  (∀ (s x : State) (t low : Nat) (v : Bool) (fs : List FlashFail),
      (s.devState = dOFF ∧ exec (.powerOnTimer t v fs) s = .next x ∨ 10000 ≤ low ∧ exec (.resetNFall t low) s = .next x) →
      ∀ e : Fin 46, e.1 < 40 →
        ((∃ a, x.engOf a = e) → x.fld (ENG_STAT e) ENG_STAT_STATE = 0) ∧
        ((∀ a, x.engOf a ≠ e) → x.fld (ENG_STAT e) ENG_STAT_STATE = 5) ∧
        ∀ k : Fin 2, ((x.eng e).img[k]).valid = false ∧ x.bit (ENG_STAT e) ENG_STAT_SB_VALID = false) ∧
    (∀ (s : State) (t : Nat) (a b : BootImage) (ra rb : PageReads) (y : Bool), s.devState = dBOOT → s.dev.vhold = true →
      s.checks (s.slotImage y (if y then b else a)) (if y then rb else ra) = 1 →
      (∀ e : Fin 46, 40 ≤ e.1 → s.imgIdx e = 0) →
      Runs (.imageChecked t true true a b ra rb) s fun x => x.devState = dINVENTORY ∧
        ∀ e : Fin 46, 40 ≤ e.1 →
          s.dev.supRet.contains e.1 = false → let im := if e.1 < 44 then libraryImage 1 0x0200 else libraryImage 2 0x0300
          x.fld (ENG_STAT e) ENG_STAT_STATE = 1 ∧ (x.eng e).img[x.imgIdx e] = im ∧
          x.fld (ENG_PC e) ENG_PC_ID = im.id ∧ x.fld (ENG_PC e) ENG_PC_PC = im.entry % 2 ^ ENG_PC_PC.width) ∧
    ∀ (s : State) (d : Desc), d.plain → s.admits d = true →
      (Runs (.progLoad d) s fun x => ∀ a, x.engOf a = s.engOf a) ∧ Runs (.progSwap d) s fun x => ∀ a, x.engOf a = s.engOf a
end

