-- ==== Sys2Proof/Laws/File.lean ====
section
/-! SUPPORT. The sparse register files and data memories: what a write leaves at its own address and at every other one, and that
writing keeps the canonical form. -/

namespace Sys2Proof.Machine

/-! ## Lookup after erasing and inserting -/

theorem cellGet_erase_same (l : List (Nat × Word)) (a : Nat) : cellGet (cellErase l a) a = none := by
  induction l with
  | nil => rfl
  | cons c cs ih => by_cases h : c.1 = a <;> simp [cellErase, cellGet, h, ih]

theorem cellGet_erase_other (l : List (Nat × Word)) (a b : Nat) (hab : a ≠ b) : cellGet (cellErase l a) b = cellGet l b := by
  induction l with
  | nil => rfl
  | cons c cs ih =>
    by_cases h : c.1 = a
    · have : c.1 ≠ b := fun e => hab (h ▸ e)
      simp [cellErase, cellGet, h, ih, hab]
    · simp [cellErase, cellGet, h, ih]

theorem cellGet_insert_same (l : List (Nat × Word)) (a : Nat) (v : Word) (h : cellGet l a = none) :
    cellGet (cellInsert l a v) a = some v := by
  induction l with
  | nil => simp [cellInsert, cellGet]
  | cons c cs ih =>
    have hc : c.1 ≠ a := by intro e; simp [cellGet, e] at h
    have ht : cellGet cs a = none := by simpa [cellGet, hc] using h
    by_cases hl : a < c.1 <;> simp [cellInsert, cellGet, hl, hc, ih ht]

theorem cellGet_insert_other (l : List (Nat × Word)) (a b : Nat) (v : Word) (hab : a ≠ b) :
    cellGet (cellInsert l a v) b = cellGet l b := by
  induction l with
  | nil => simp [cellInsert, cellGet, hab]
  | cons c cs ih => by_cases hl : a < c.1 <;> simp [cellInsert, cellGet, hl, hab, ih]

/-! ## Registers -/

/-- A register reads what was written to it. -/
@[simp] theorem fileGet_fileSet_same (l : List (Nat × Word)) (a : Nat) (v : Word) : fileGet (fileSet l a v) a = v := by
  by_cases h : v = regReset a
  · simp [fileSet, h, fileGet, cellGet_erase_same]
  · simp [fileSet, h, fileGet, cellGet_insert_same _ _ _ (cellGet_erase_same l a)]

/-- Every other register reads as before. -/
theorem fileGet_fileSet_other (l : List (Nat × Word)) (a b : Nat) (v : Word) (hab : a ≠ b) :
    fileGet (fileSet l a v) b = fileGet l b := by
  by_cases h : v = regReset a
  · simp [fileSet, h, fileGet, cellGet_erase_other _ _ _ hab]
  · simp [fileSet, h, fileGet, cellGet_insert_other _ _ _ _ hab, cellGet_erase_other _ _ _ hab]

/-- A register after a write, whichever is read. -/
theorem fileGet_fileSet (l : List (Nat × Word)) (a b : Nat) (v : Word) :
    fileGet (fileSet l a v) b = if a = b then v else fileGet l b := by
  by_cases h : a = b
  · subst h; simp
  · simp [h, fileGet_fileSet_other l a b v h]

@[simp] theorem State.reg_setReg_same (s : State) (a : Nat) (v : Word) : (s.setReg a v).reg a = v := by
  simp [State.reg, State.setReg]

theorem State.reg_setReg_other (s : State) (a b : Nat) (v : Word) (hab : a ≠ b) : (s.setReg a v).reg b = s.reg b := by
  simp [State.reg, State.setReg, fileGet_fileSet_other _ _ _ _ hab]

theorem State.reg_setReg (s : State) (a b : Nat) (v : Word) : (s.setReg a v).reg b = if a = b then v else s.reg b := by
  simp [State.reg, State.setReg, fileGet_fileSet]

@[simp] theorem State.force_setForce_same (s : State) (a : Nat) (v : Word) : (s.setForce a v).force a = v := by
  simp [State.force, State.setForce]

/-! ## The canonical form -/

/-- Every listed address is above a bound. -/
def above (b : Nat) (l : List (Nat × Word)) : Prop := ∀ c ∈ l, b < c.1

theorem fileSorted_cons (c : Nat × Word) (cs : List (Nat × Word)) :
    fileSorted (c :: cs) = true ↔ above c.1 cs ∧ fileSorted cs = true := by
  induction cs generalizing c with
  | nil => simp [fileSorted, above]
  | cons d ds ih =>
    have := ih d
    simp only [fileSorted, Bool.and_eq_true, decide_eq_true_eq] at this ⊢
    constructor
    · rintro ⟨h1, h2⟩
      refine ⟨?_, h2⟩
      intro x hx
      rcases List.mem_cons.1 hx with rfl | hx
      · exact h1
      · exact Nat.lt_trans h1 ((this.1 h2).1 x hx)
    · rintro ⟨h1, h2⟩
      exact ⟨h1 d (List.mem_cons_self ..), h2⟩

theorem mem_cellErase (l : List (Nat × Word)) (a : Nat) (c : Nat × Word) : c ∈ cellErase l a → c ∈ l ∧ c.1 ≠ a := by
  induction l with
  | nil => simp [cellErase]
  | cons d ds ih =>
    by_cases h : d.1 = a
    · simp only [cellErase, h, if_true]
      exact fun hc => ⟨List.mem_cons_of_mem _ (ih hc).1, (ih hc).2⟩
    · simp only [cellErase, h, if_false, List.mem_cons]
      rintro (rfl | hc)
      · exact ⟨Or.inl rfl, h⟩
      · exact ⟨Or.inr (ih hc).1, (ih hc).2⟩

theorem mem_cellInsert (l : List (Nat × Word)) (a : Nat) (v : Word) (c : Nat × Word) : c ∈ cellInsert l a v → c = (a, v) ∨ c ∈ l := by
  induction l with
  | nil => simp [cellInsert]
  | cons d ds ih =>
    by_cases h : a < d.1
    · simp [cellInsert, h]
    · simp only [cellInsert, h, if_false, List.mem_cons]
      rintro (rfl | hc)
      · exact Or.inr (Or.inl rfl)
      · rcases ih hc with rfl | hc
        · exact Or.inl rfl
        · exact Or.inr (Or.inr hc)

theorem fileSorted_erase (l : List (Nat × Word)) (a : Nat) (h : fileSorted l = true) : fileSorted (cellErase l a) = true := by
  induction l with
  | nil => rfl
  | cons c cs ih =>
    obtain ⟨h1, h2⟩ := (fileSorted_cons c cs).1 h
    by_cases hc : c.1 = a
    · simpa [cellErase, hc] using ih h2
    · simp only [cellErase, hc, if_false]
      exact (fileSorted_cons ..).2 ⟨fun x hx => h1 x (mem_cellErase cs a x hx).1, ih h2⟩

theorem fileSorted_insert (l : List (Nat × Word)) (a : Nat) (v : Word) (h : fileSorted l = true) (ha : ∀ c ∈ l, c.1 ≠ a) :
    fileSorted (cellInsert l a v) = true := by
  induction l with
  | nil => rfl
  | cons c cs ih =>
    obtain ⟨h1, h2⟩ := (fileSorted_cons c cs).1 h
    by_cases hc : a < c.1
    · simp only [cellInsert, hc, if_true]
      refine (fileSorted_cons ..).2 ⟨fun x hx => ?_, h⟩
      rcases List.mem_cons.1 hx with rfl | hx
      · exact hc
      · exact Nat.lt_trans hc (h1 x hx)
    · simp only [cellInsert, hc, if_false]
      refine (fileSorted_cons ..).2 ⟨fun x hx => ?_, ih h2 fun x hx => ha x (List.mem_cons_of_mem _ hx)⟩
      rcases mem_cellInsert cs a v x hx with rfl | hx
      · have := ha c (List.mem_cons_self ..)
        simp only
        omega
      · exact h1 x hx

/-- Writing a register keeps the canonical form of its file. -/
theorem fileWf_fileSet (l : List (Nat × Word)) (a : Nat) (v : Word) (h : fileWf l = true) : fileWf (fileSet l a v) = true := by
  simp only [fileWf, Bool.and_eq_true, List.all_eq_true] at h ⊢
  by_cases hv : v = regReset a
  · simp only [fileSet, hv, if_true]
    exact ⟨fileSorted_erase l a h.1, fun c hc => h.2 c (mem_cellErase l a c hc).1⟩
  · simp only [fileSet, hv, if_false]
    refine ⟨fileSorted_insert _ a v (fileSorted_erase l a h.1) fun c hc => (mem_cellErase l a c hc).2, fun c hc => ?_⟩
    rcases mem_cellInsert _ a v c hc with rfl | hc
    · simpa using hv
    · exact h.2 c (mem_cellErase l a c hc).1

/-- Writing a word of a data memory keeps its canonical form. -/
theorem memWf_memSet (l : List (Nat × Word)) (w : Nat) (v : Word) (h : memWf l = true) : memWf (memSet l w v) = true := by
  simp only [memWf, Bool.and_eq_true, List.all_eq_true] at h ⊢
  by_cases hv : v = 0
  · simp only [memSet, hv, if_true]
    exact ⟨fileSorted_erase l w h.1, fun c hc => h.2 c (mem_cellErase l w c hc).1⟩
  · simp only [memSet, hv, if_false]
    refine ⟨fileSorted_insert _ w v (fileSorted_erase l w h.1) fun c hc => (mem_cellErase l w c hc).2, fun c hc => ?_⟩
    rcases mem_cellInsert _ w v c hc with rfl | hc
    · simpa using hv
    · exact h.2 c (mem_cellErase l w c hc).1

/-- A word of a data memory reads what was stored to it, and every other word as before. -/
theorem memWord_memSet (l : List (Nat × Word)) (w x : Nat) (v : Word) :
    memWord (memSet l w v) x = if w = x then v else memWord l x := by
  by_cases hv : v = 0 <;> by_cases hx : w = x
  · subst hx; simp [memSet, hv, memWord, cellGet_erase_same]
  · simp [memSet, hv, memWord, hx, cellGet_erase_other _ _ _ hx]
  · subst hx
    have h0 : ¬ v = 0#32 := hv
    simp [memSet, h0, memWord, cellGet_insert_same _ _ _ (cellGet_erase_same l w)]
  · have h0 : ¬ v = 0#32 := hv
    simp [memSet, h0, memWord, hx, cellGet_insert_other _ _ _ _ hx, cellGet_erase_other _ _ _ hx]

end Sys2Proof.Machine
end

