-- ==== Sys2Proof/Laws/State.lean ====
section
/-! SUPPORT. What each named update of the state leaves alone: one lemma for each field and each update, all by definition, and what
a part of the state is after an update of that part. -/

namespace Sys2Proof.Machine

variable (s : State)

/-! ## setReg -/

@[simp] theorem State.setReg_pending (a : Nat) (v : Word) : (s.setReg a v).pending = s.pending := rfl
@[simp] theorem State.setReg_now (a : Nat) (v : Word) : (s.setReg a v).now = s.now := rfl
@[simp] theorem State.setReg_freeCtr (a : Nat) (v : Word) : (s.setReg a v).freeCtr = s.freeCtr := rfl
@[simp] theorem State.setReg_inForce (a : Nat) (v : Word) : (s.setReg a v).inForce = s.inForce := rfl
@[simp] theorem State.setReg_late (a : Nat) (v : Word) : (s.setReg a v).late = s.late := rfl
@[simp] theorem State.setReg_written (a : Nat) (v : Word) : (s.setReg a v).written = s.written := rfl
@[simp] theorem State.setReg_held (a : Nat) (v : Word) : (s.setReg a v).held = s.held := rfl
@[simp] theorem State.setReg_axes (a : Nat) (v : Word) : (s.setReg a v).axes = s.axes := rfl
@[simp] theorem State.setReg_ports (a : Nat) (v : Word) : (s.setReg a v).ports = s.ports := rfl
@[simp] theorem State.setReg_tiles (a : Nat) (v : Word) : (s.setReg a v).tiles = s.tiles := rfl
@[simp] theorem State.setReg_engines (a : Nat) (v : Word) : (s.setReg a v).engines = s.engines := rfl
@[simp] theorem State.setReg_encs (a : Nat) (v : Word) : (s.setReg a v).encs = s.encs := rfl
@[simp] theorem State.setReg_net (a : Nat) (v : Word) : (s.setReg a v).net = s.net := rfl
@[simp] theorem State.setReg_vms (a : Nat) (v : Word) : (s.setReg a v).vms = s.vms := rfl
@[simp] theorem State.setReg_cabs (a : Nat) (v : Word) : (s.setReg a v).cabs = s.cabs := rfl
@[simp] theorem State.setReg_recorder (a : Nat) (v : Word) : (s.setReg a v).recorder = s.recorder := rfl
@[simp] theorem State.setReg_dev (a : Nat) (v : Word) : (s.setReg a v).dev = s.dev := rfl
@[simp] theorem State.setReg_out (a : Nat) (v : Word) : (s.setReg a v).out = s.out := rfl

/-! ## setForce -/

@[simp] theorem State.setForce_pending (a : Nat) (v : Word) : (s.setForce a v).pending = s.pending := rfl
@[simp] theorem State.setForce_now (a : Nat) (v : Word) : (s.setForce a v).now = s.now := rfl
@[simp] theorem State.setForce_freeCtr (a : Nat) (v : Word) : (s.setForce a v).freeCtr = s.freeCtr := rfl
@[simp] theorem State.setForce_regs (a : Nat) (v : Word) : (s.setForce a v).regs = s.regs := rfl
@[simp] theorem State.setForce_late (a : Nat) (v : Word) : (s.setForce a v).late = s.late := rfl
@[simp] theorem State.setForce_written (a : Nat) (v : Word) : (s.setForce a v).written = s.written := rfl
@[simp] theorem State.setForce_held (a : Nat) (v : Word) : (s.setForce a v).held = s.held := rfl
@[simp] theorem State.setForce_axes (a : Nat) (v : Word) : (s.setForce a v).axes = s.axes := rfl
@[simp] theorem State.setForce_ports (a : Nat) (v : Word) : (s.setForce a v).ports = s.ports := rfl
@[simp] theorem State.setForce_tiles (a : Nat) (v : Word) : (s.setForce a v).tiles = s.tiles := rfl
@[simp] theorem State.setForce_engines (a : Nat) (v : Word) : (s.setForce a v).engines = s.engines := rfl
@[simp] theorem State.setForce_encs (a : Nat) (v : Word) : (s.setForce a v).encs = s.encs := rfl
@[simp] theorem State.setForce_net (a : Nat) (v : Word) : (s.setForce a v).net = s.net := rfl
@[simp] theorem State.setForce_vms (a : Nat) (v : Word) : (s.setForce a v).vms = s.vms := rfl
@[simp] theorem State.setForce_cabs (a : Nat) (v : Word) : (s.setForce a v).cabs = s.cabs := rfl
@[simp] theorem State.setForce_recorder (a : Nat) (v : Word) : (s.setForce a v).recorder = s.recorder := rfl
@[simp] theorem State.setForce_dev (a : Nat) (v : Word) : (s.setForce a v).dev = s.dev := rfl
@[simp] theorem State.setForce_out (a : Nat) (v : Word) : (s.setForce a v).out = s.out := rfl

/-! ## setFld -/

@[simp] theorem State.setFld_pending (a : Nat) (f : Fld) (x : Nat) : (s.setFld a f x).pending = s.pending := rfl
@[simp] theorem State.setFld_now (a : Nat) (f : Fld) (x : Nat) : (s.setFld a f x).now = s.now := rfl
@[simp] theorem State.setFld_freeCtr (a : Nat) (f : Fld) (x : Nat) : (s.setFld a f x).freeCtr = s.freeCtr := rfl
@[simp] theorem State.setFld_inForce (a : Nat) (f : Fld) (x : Nat) : (s.setFld a f x).inForce = s.inForce := rfl
@[simp] theorem State.setFld_late (a : Nat) (f : Fld) (x : Nat) : (s.setFld a f x).late = s.late := rfl
@[simp] theorem State.setFld_written (a : Nat) (f : Fld) (x : Nat) : (s.setFld a f x).written = s.written := rfl
@[simp] theorem State.setFld_held (a : Nat) (f : Fld) (x : Nat) : (s.setFld a f x).held = s.held := rfl
@[simp] theorem State.setFld_axes (a : Nat) (f : Fld) (x : Nat) : (s.setFld a f x).axes = s.axes := rfl
@[simp] theorem State.setFld_ports (a : Nat) (f : Fld) (x : Nat) : (s.setFld a f x).ports = s.ports := rfl
@[simp] theorem State.setFld_tiles (a : Nat) (f : Fld) (x : Nat) : (s.setFld a f x).tiles = s.tiles := rfl
@[simp] theorem State.setFld_engines (a : Nat) (f : Fld) (x : Nat) : (s.setFld a f x).engines = s.engines := rfl
@[simp] theorem State.setFld_encs (a : Nat) (f : Fld) (x : Nat) : (s.setFld a f x).encs = s.encs := rfl
@[simp] theorem State.setFld_net (a : Nat) (f : Fld) (x : Nat) : (s.setFld a f x).net = s.net := rfl
@[simp] theorem State.setFld_vms (a : Nat) (f : Fld) (x : Nat) : (s.setFld a f x).vms = s.vms := rfl
@[simp] theorem State.setFld_cabs (a : Nat) (f : Fld) (x : Nat) : (s.setFld a f x).cabs = s.cabs := rfl
@[simp] theorem State.setFld_recorder (a : Nat) (f : Fld) (x : Nat) : (s.setFld a f x).recorder = s.recorder := rfl
@[simp] theorem State.setFld_dev (a : Nat) (f : Fld) (x : Nat) : (s.setFld a f x).dev = s.dev := rfl
@[simp] theorem State.setFld_out (a : Nat) (f : Fld) (x : Nat) : (s.setFld a f x).out = s.out := rfl

/-! ## setBit -/

@[simp] theorem State.setBit_pending (a : Nat) (f : Fld) (y : Bool) : (s.setBit a f y).pending = s.pending := rfl
@[simp] theorem State.setBit_now (a : Nat) (f : Fld) (y : Bool) : (s.setBit a f y).now = s.now := rfl
@[simp] theorem State.setBit_freeCtr (a : Nat) (f : Fld) (y : Bool) : (s.setBit a f y).freeCtr = s.freeCtr := rfl
@[simp] theorem State.setBit_inForce (a : Nat) (f : Fld) (y : Bool) : (s.setBit a f y).inForce = s.inForce := rfl
@[simp] theorem State.setBit_late (a : Nat) (f : Fld) (y : Bool) : (s.setBit a f y).late = s.late := rfl
@[simp] theorem State.setBit_written (a : Nat) (f : Fld) (y : Bool) : (s.setBit a f y).written = s.written := rfl
@[simp] theorem State.setBit_held (a : Nat) (f : Fld) (y : Bool) : (s.setBit a f y).held = s.held := rfl
@[simp] theorem State.setBit_axes (a : Nat) (f : Fld) (y : Bool) : (s.setBit a f y).axes = s.axes := rfl
@[simp] theorem State.setBit_ports (a : Nat) (f : Fld) (y : Bool) : (s.setBit a f y).ports = s.ports := rfl
@[simp] theorem State.setBit_tiles (a : Nat) (f : Fld) (y : Bool) : (s.setBit a f y).tiles = s.tiles := rfl
@[simp] theorem State.setBit_engines (a : Nat) (f : Fld) (y : Bool) : (s.setBit a f y).engines = s.engines := rfl
@[simp] theorem State.setBit_encs (a : Nat) (f : Fld) (y : Bool) : (s.setBit a f y).encs = s.encs := rfl
@[simp] theorem State.setBit_net (a : Nat) (f : Fld) (y : Bool) : (s.setBit a f y).net = s.net := rfl
@[simp] theorem State.setBit_vms (a : Nat) (f : Fld) (y : Bool) : (s.setBit a f y).vms = s.vms := rfl
@[simp] theorem State.setBit_cabs (a : Nat) (f : Fld) (y : Bool) : (s.setBit a f y).cabs = s.cabs := rfl
@[simp] theorem State.setBit_recorder (a : Nat) (f : Fld) (y : Bool) : (s.setBit a f y).recorder = s.recorder := rfl
@[simp] theorem State.setBit_dev (a : Nat) (f : Fld) (y : Bool) : (s.setBit a f y).dev = s.dev := rfl
@[simp] theorem State.setBit_out (a : Nat) (f : Fld) (y : Bool) : (s.setBit a f y).out = s.out := rfl

/-! ## setFldI -/

@[simp] theorem State.setFldI_pending (a : Nat) (f : Fld) (x : Int) : (s.setFldI a f x).pending = s.pending := rfl
@[simp] theorem State.setFldI_now (a : Nat) (f : Fld) (x : Int) : (s.setFldI a f x).now = s.now := rfl
@[simp] theorem State.setFldI_freeCtr (a : Nat) (f : Fld) (x : Int) : (s.setFldI a f x).freeCtr = s.freeCtr := rfl
@[simp] theorem State.setFldI_inForce (a : Nat) (f : Fld) (x : Int) : (s.setFldI a f x).inForce = s.inForce := rfl
@[simp] theorem State.setFldI_late (a : Nat) (f : Fld) (x : Int) : (s.setFldI a f x).late = s.late := rfl
@[simp] theorem State.setFldI_written (a : Nat) (f : Fld) (x : Int) : (s.setFldI a f x).written = s.written := rfl
@[simp] theorem State.setFldI_held (a : Nat) (f : Fld) (x : Int) : (s.setFldI a f x).held = s.held := rfl
@[simp] theorem State.setFldI_axes (a : Nat) (f : Fld) (x : Int) : (s.setFldI a f x).axes = s.axes := rfl
@[simp] theorem State.setFldI_ports (a : Nat) (f : Fld) (x : Int) : (s.setFldI a f x).ports = s.ports := rfl
@[simp] theorem State.setFldI_tiles (a : Nat) (f : Fld) (x : Int) : (s.setFldI a f x).tiles = s.tiles := rfl
@[simp] theorem State.setFldI_engines (a : Nat) (f : Fld) (x : Int) : (s.setFldI a f x).engines = s.engines := rfl
@[simp] theorem State.setFldI_encs (a : Nat) (f : Fld) (x : Int) : (s.setFldI a f x).encs = s.encs := rfl
@[simp] theorem State.setFldI_net (a : Nat) (f : Fld) (x : Int) : (s.setFldI a f x).net = s.net := rfl
@[simp] theorem State.setFldI_vms (a : Nat) (f : Fld) (x : Int) : (s.setFldI a f x).vms = s.vms := rfl
@[simp] theorem State.setFldI_cabs (a : Nat) (f : Fld) (x : Int) : (s.setFldI a f x).cabs = s.cabs := rfl
@[simp] theorem State.setFldI_recorder (a : Nat) (f : Fld) (x : Int) : (s.setFldI a f x).recorder = s.recorder := rfl
@[simp] theorem State.setFldI_dev (a : Nat) (f : Fld) (x : Int) : (s.setFldI a f x).dev = s.dev := rfl
@[simp] theorem State.setFldI_out (a : Nat) (f : Fld) (x : Int) : (s.setFldI a f x).out = s.out := rfl

/-! ## countN -/

@[simp] theorem State.countN_pending (a : Nat) (f : Fld) (n : Nat) : (s.countN a f n).pending = s.pending := rfl
@[simp] theorem State.countN_now (a : Nat) (f : Fld) (n : Nat) : (s.countN a f n).now = s.now := rfl
@[simp] theorem State.countN_freeCtr (a : Nat) (f : Fld) (n : Nat) : (s.countN a f n).freeCtr = s.freeCtr := rfl
@[simp] theorem State.countN_inForce (a : Nat) (f : Fld) (n : Nat) : (s.countN a f n).inForce = s.inForce := rfl
@[simp] theorem State.countN_late (a : Nat) (f : Fld) (n : Nat) : (s.countN a f n).late = s.late := rfl
@[simp] theorem State.countN_written (a : Nat) (f : Fld) (n : Nat) : (s.countN a f n).written = s.written := rfl
@[simp] theorem State.countN_held (a : Nat) (f : Fld) (n : Nat) : (s.countN a f n).held = s.held := rfl
@[simp] theorem State.countN_axes (a : Nat) (f : Fld) (n : Nat) : (s.countN a f n).axes = s.axes := rfl
@[simp] theorem State.countN_ports (a : Nat) (f : Fld) (n : Nat) : (s.countN a f n).ports = s.ports := rfl
@[simp] theorem State.countN_tiles (a : Nat) (f : Fld) (n : Nat) : (s.countN a f n).tiles = s.tiles := rfl
@[simp] theorem State.countN_engines (a : Nat) (f : Fld) (n : Nat) : (s.countN a f n).engines = s.engines := rfl
@[simp] theorem State.countN_encs (a : Nat) (f : Fld) (n : Nat) : (s.countN a f n).encs = s.encs := rfl
@[simp] theorem State.countN_net (a : Nat) (f : Fld) (n : Nat) : (s.countN a f n).net = s.net := rfl
@[simp] theorem State.countN_vms (a : Nat) (f : Fld) (n : Nat) : (s.countN a f n).vms = s.vms := rfl
@[simp] theorem State.countN_cabs (a : Nat) (f : Fld) (n : Nat) : (s.countN a f n).cabs = s.cabs := rfl
@[simp] theorem State.countN_recorder (a : Nat) (f : Fld) (n : Nat) : (s.countN a f n).recorder = s.recorder := rfl
@[simp] theorem State.countN_dev (a : Nat) (f : Fld) (n : Nat) : (s.countN a f n).dev = s.dev := rfl
@[simp] theorem State.countN_out (a : Nat) (f : Fld) (n : Nat) : (s.countN a f n).out = s.out := rfl

/-! ## count -/

@[simp] theorem State.count_pending (a : Nat) (f : Fld) : (s.count a f).pending = s.pending := rfl
@[simp] theorem State.count_now (a : Nat) (f : Fld) : (s.count a f).now = s.now := rfl
@[simp] theorem State.count_freeCtr (a : Nat) (f : Fld) : (s.count a f).freeCtr = s.freeCtr := rfl
@[simp] theorem State.count_inForce (a : Nat) (f : Fld) : (s.count a f).inForce = s.inForce := rfl
@[simp] theorem State.count_late (a : Nat) (f : Fld) : (s.count a f).late = s.late := rfl
@[simp] theorem State.count_written (a : Nat) (f : Fld) : (s.count a f).written = s.written := rfl
@[simp] theorem State.count_held (a : Nat) (f : Fld) : (s.count a f).held = s.held := rfl
@[simp] theorem State.count_axes (a : Nat) (f : Fld) : (s.count a f).axes = s.axes := rfl
@[simp] theorem State.count_ports (a : Nat) (f : Fld) : (s.count a f).ports = s.ports := rfl
@[simp] theorem State.count_tiles (a : Nat) (f : Fld) : (s.count a f).tiles = s.tiles := rfl
@[simp] theorem State.count_engines (a : Nat) (f : Fld) : (s.count a f).engines = s.engines := rfl
@[simp] theorem State.count_encs (a : Nat) (f : Fld) : (s.count a f).encs = s.encs := rfl
@[simp] theorem State.count_net (a : Nat) (f : Fld) : (s.count a f).net = s.net := rfl
@[simp] theorem State.count_vms (a : Nat) (f : Fld) : (s.count a f).vms = s.vms := rfl
@[simp] theorem State.count_cabs (a : Nat) (f : Fld) : (s.count a f).cabs = s.cabs := rfl
@[simp] theorem State.count_recorder (a : Nat) (f : Fld) : (s.count a f).recorder = s.recorder := rfl
@[simp] theorem State.count_dev (a : Nat) (f : Fld) : (s.count a f).dev = s.dev := rfl
@[simp] theorem State.count_out (a : Nat) (f : Fld) : (s.count a f).out = s.out := rfl

/-! ## setPair -/

@[simp] theorem State.setPair_pending (a : Nat) (x : Int) : (s.setPair a x).pending = s.pending := rfl
@[simp] theorem State.setPair_now (a : Nat) (x : Int) : (s.setPair a x).now = s.now := rfl
@[simp] theorem State.setPair_freeCtr (a : Nat) (x : Int) : (s.setPair a x).freeCtr = s.freeCtr := rfl
@[simp] theorem State.setPair_inForce (a : Nat) (x : Int) : (s.setPair a x).inForce = s.inForce := rfl
@[simp] theorem State.setPair_late (a : Nat) (x : Int) : (s.setPair a x).late = s.late := rfl
@[simp] theorem State.setPair_written (a : Nat) (x : Int) : (s.setPair a x).written = s.written := rfl
@[simp] theorem State.setPair_held (a : Nat) (x : Int) : (s.setPair a x).held = s.held := rfl
@[simp] theorem State.setPair_axes (a : Nat) (x : Int) : (s.setPair a x).axes = s.axes := rfl
@[simp] theorem State.setPair_ports (a : Nat) (x : Int) : (s.setPair a x).ports = s.ports := rfl
@[simp] theorem State.setPair_tiles (a : Nat) (x : Int) : (s.setPair a x).tiles = s.tiles := rfl
@[simp] theorem State.setPair_engines (a : Nat) (x : Int) : (s.setPair a x).engines = s.engines := rfl
@[simp] theorem State.setPair_encs (a : Nat) (x : Int) : (s.setPair a x).encs = s.encs := rfl
@[simp] theorem State.setPair_net (a : Nat) (x : Int) : (s.setPair a x).net = s.net := rfl
@[simp] theorem State.setPair_vms (a : Nat) (x : Int) : (s.setPair a x).vms = s.vms := rfl
@[simp] theorem State.setPair_cabs (a : Nat) (x : Int) : (s.setPair a x).cabs = s.cabs := rfl
@[simp] theorem State.setPair_recorder (a : Nat) (x : Int) : (s.setPair a x).recorder = s.recorder := rfl
@[simp] theorem State.setPair_dev (a : Nat) (x : Int) : (s.setPair a x).dev = s.dev := rfl
@[simp] theorem State.setPair_out (a : Nat) (x : Int) : (s.setPair a x).out = s.out := rfl

/-! ## setAxis -/

@[simp] theorem State.setAxis_pending (a : Fin 32) (x : Axis) : (s.setAxis a x).pending = s.pending := rfl
@[simp] theorem State.setAxis_now (a : Fin 32) (x : Axis) : (s.setAxis a x).now = s.now := rfl
@[simp] theorem State.setAxis_freeCtr (a : Fin 32) (x : Axis) : (s.setAxis a x).freeCtr = s.freeCtr := rfl
@[simp] theorem State.setAxis_regs (a : Fin 32) (x : Axis) : (s.setAxis a x).regs = s.regs := rfl
@[simp] theorem State.setAxis_inForce (a : Fin 32) (x : Axis) : (s.setAxis a x).inForce = s.inForce := rfl
@[simp] theorem State.setAxis_late (a : Fin 32) (x : Axis) : (s.setAxis a x).late = s.late := rfl
@[simp] theorem State.setAxis_written (a : Fin 32) (x : Axis) : (s.setAxis a x).written = s.written := rfl
@[simp] theorem State.setAxis_held (a : Fin 32) (x : Axis) : (s.setAxis a x).held = s.held := rfl
@[simp] theorem State.setAxis_ports (a : Fin 32) (x : Axis) : (s.setAxis a x).ports = s.ports := rfl
@[simp] theorem State.setAxis_tiles (a : Fin 32) (x : Axis) : (s.setAxis a x).tiles = s.tiles := rfl
@[simp] theorem State.setAxis_engines (a : Fin 32) (x : Axis) : (s.setAxis a x).engines = s.engines := rfl
@[simp] theorem State.setAxis_encs (a : Fin 32) (x : Axis) : (s.setAxis a x).encs = s.encs := rfl
@[simp] theorem State.setAxis_net (a : Fin 32) (x : Axis) : (s.setAxis a x).net = s.net := rfl
@[simp] theorem State.setAxis_vms (a : Fin 32) (x : Axis) : (s.setAxis a x).vms = s.vms := rfl
@[simp] theorem State.setAxis_cabs (a : Fin 32) (x : Axis) : (s.setAxis a x).cabs = s.cabs := rfl
@[simp] theorem State.setAxis_recorder (a : Fin 32) (x : Axis) : (s.setAxis a x).recorder = s.recorder := rfl
@[simp] theorem State.setAxis_dev (a : Fin 32) (x : Axis) : (s.setAxis a x).dev = s.dev := rfl
@[simp] theorem State.setAxis_out (a : Fin 32) (x : Axis) : (s.setAxis a x).out = s.out := rfl

/-! ## modAxis -/

@[simp] theorem State.modAxis_pending (a : Fin 32) (f : Axis → Axis) : (s.modAxis a f).pending = s.pending := rfl
@[simp] theorem State.modAxis_now (a : Fin 32) (f : Axis → Axis) : (s.modAxis a f).now = s.now := rfl
@[simp] theorem State.modAxis_freeCtr (a : Fin 32) (f : Axis → Axis) : (s.modAxis a f).freeCtr = s.freeCtr := rfl
@[simp] theorem State.modAxis_regs (a : Fin 32) (f : Axis → Axis) : (s.modAxis a f).regs = s.regs := rfl
@[simp] theorem State.modAxis_inForce (a : Fin 32) (f : Axis → Axis) : (s.modAxis a f).inForce = s.inForce := rfl
@[simp] theorem State.modAxis_late (a : Fin 32) (f : Axis → Axis) : (s.modAxis a f).late = s.late := rfl
@[simp] theorem State.modAxis_written (a : Fin 32) (f : Axis → Axis) : (s.modAxis a f).written = s.written := rfl
@[simp] theorem State.modAxis_held (a : Fin 32) (f : Axis → Axis) : (s.modAxis a f).held = s.held := rfl
@[simp] theorem State.modAxis_ports (a : Fin 32) (f : Axis → Axis) : (s.modAxis a f).ports = s.ports := rfl
@[simp] theorem State.modAxis_tiles (a : Fin 32) (f : Axis → Axis) : (s.modAxis a f).tiles = s.tiles := rfl
@[simp] theorem State.modAxis_engines (a : Fin 32) (f : Axis → Axis) : (s.modAxis a f).engines = s.engines := rfl
@[simp] theorem State.modAxis_encs (a : Fin 32) (f : Axis → Axis) : (s.modAxis a f).encs = s.encs := rfl
@[simp] theorem State.modAxis_net (a : Fin 32) (f : Axis → Axis) : (s.modAxis a f).net = s.net := rfl
@[simp] theorem State.modAxis_vms (a : Fin 32) (f : Axis → Axis) : (s.modAxis a f).vms = s.vms := rfl
@[simp] theorem State.modAxis_cabs (a : Fin 32) (f : Axis → Axis) : (s.modAxis a f).cabs = s.cabs := rfl
@[simp] theorem State.modAxis_recorder (a : Fin 32) (f : Axis → Axis) : (s.modAxis a f).recorder = s.recorder := rfl
@[simp] theorem State.modAxis_dev (a : Fin 32) (f : Axis → Axis) : (s.modAxis a f).dev = s.dev := rfl
@[simp] theorem State.modAxis_out (a : Fin 32) (f : Axis → Axis) : (s.modAxis a f).out = s.out := rfl

/-! ## setPort -/

@[simp] theorem State.setPort_pending (p : Fin 64) (x : Port) : (s.setPort p x).pending = s.pending := rfl
@[simp] theorem State.setPort_now (p : Fin 64) (x : Port) : (s.setPort p x).now = s.now := rfl
@[simp] theorem State.setPort_freeCtr (p : Fin 64) (x : Port) : (s.setPort p x).freeCtr = s.freeCtr := rfl
@[simp] theorem State.setPort_regs (p : Fin 64) (x : Port) : (s.setPort p x).regs = s.regs := rfl
@[simp] theorem State.setPort_inForce (p : Fin 64) (x : Port) : (s.setPort p x).inForce = s.inForce := rfl
@[simp] theorem State.setPort_late (p : Fin 64) (x : Port) : (s.setPort p x).late = s.late := rfl
@[simp] theorem State.setPort_written (p : Fin 64) (x : Port) : (s.setPort p x).written = s.written := rfl
@[simp] theorem State.setPort_held (p : Fin 64) (x : Port) : (s.setPort p x).held = s.held := rfl
@[simp] theorem State.setPort_axes (p : Fin 64) (x : Port) : (s.setPort p x).axes = s.axes := rfl
@[simp] theorem State.setPort_tiles (p : Fin 64) (x : Port) : (s.setPort p x).tiles = s.tiles := rfl
@[simp] theorem State.setPort_engines (p : Fin 64) (x : Port) : (s.setPort p x).engines = s.engines := rfl
@[simp] theorem State.setPort_encs (p : Fin 64) (x : Port) : (s.setPort p x).encs = s.encs := rfl
@[simp] theorem State.setPort_net (p : Fin 64) (x : Port) : (s.setPort p x).net = s.net := rfl
@[simp] theorem State.setPort_vms (p : Fin 64) (x : Port) : (s.setPort p x).vms = s.vms := rfl
@[simp] theorem State.setPort_cabs (p : Fin 64) (x : Port) : (s.setPort p x).cabs = s.cabs := rfl
@[simp] theorem State.setPort_recorder (p : Fin 64) (x : Port) : (s.setPort p x).recorder = s.recorder := rfl
@[simp] theorem State.setPort_dev (p : Fin 64) (x : Port) : (s.setPort p x).dev = s.dev := rfl
@[simp] theorem State.setPort_out (p : Fin 64) (x : Port) : (s.setPort p x).out = s.out := rfl

/-! ## modPort -/

@[simp] theorem State.modPort_pending (p : Fin 64) (f : Port → Port) : (s.modPort p f).pending = s.pending := rfl
@[simp] theorem State.modPort_now (p : Fin 64) (f : Port → Port) : (s.modPort p f).now = s.now := rfl
@[simp] theorem State.modPort_freeCtr (p : Fin 64) (f : Port → Port) : (s.modPort p f).freeCtr = s.freeCtr := rfl
@[simp] theorem State.modPort_regs (p : Fin 64) (f : Port → Port) : (s.modPort p f).regs = s.regs := rfl
@[simp] theorem State.modPort_inForce (p : Fin 64) (f : Port → Port) : (s.modPort p f).inForce = s.inForce := rfl
@[simp] theorem State.modPort_late (p : Fin 64) (f : Port → Port) : (s.modPort p f).late = s.late := rfl
@[simp] theorem State.modPort_written (p : Fin 64) (f : Port → Port) : (s.modPort p f).written = s.written := rfl
@[simp] theorem State.modPort_held (p : Fin 64) (f : Port → Port) : (s.modPort p f).held = s.held := rfl
@[simp] theorem State.modPort_axes (p : Fin 64) (f : Port → Port) : (s.modPort p f).axes = s.axes := rfl
@[simp] theorem State.modPort_tiles (p : Fin 64) (f : Port → Port) : (s.modPort p f).tiles = s.tiles := rfl
@[simp] theorem State.modPort_engines (p : Fin 64) (f : Port → Port) : (s.modPort p f).engines = s.engines := rfl
@[simp] theorem State.modPort_encs (p : Fin 64) (f : Port → Port) : (s.modPort p f).encs = s.encs := rfl
@[simp] theorem State.modPort_net (p : Fin 64) (f : Port → Port) : (s.modPort p f).net = s.net := rfl
@[simp] theorem State.modPort_vms (p : Fin 64) (f : Port → Port) : (s.modPort p f).vms = s.vms := rfl
@[simp] theorem State.modPort_cabs (p : Fin 64) (f : Port → Port) : (s.modPort p f).cabs = s.cabs := rfl
@[simp] theorem State.modPort_recorder (p : Fin 64) (f : Port → Port) : (s.modPort p f).recorder = s.recorder := rfl
@[simp] theorem State.modPort_dev (p : Fin 64) (f : Port → Port) : (s.modPort p f).dev = s.dev := rfl
@[simp] theorem State.modPort_out (p : Fin 64) (f : Port → Port) : (s.modPort p f).out = s.out := rfl

/-! ## modLoop -/

@[simp] theorem State.modLoop_pending (p : Fin 64) (f : Loop → Loop) : (s.modLoop p f).pending = s.pending := rfl
@[simp] theorem State.modLoop_now (p : Fin 64) (f : Loop → Loop) : (s.modLoop p f).now = s.now := rfl
@[simp] theorem State.modLoop_freeCtr (p : Fin 64) (f : Loop → Loop) : (s.modLoop p f).freeCtr = s.freeCtr := rfl
@[simp] theorem State.modLoop_regs (p : Fin 64) (f : Loop → Loop) : (s.modLoop p f).regs = s.regs := rfl
@[simp] theorem State.modLoop_inForce (p : Fin 64) (f : Loop → Loop) : (s.modLoop p f).inForce = s.inForce := rfl
@[simp] theorem State.modLoop_late (p : Fin 64) (f : Loop → Loop) : (s.modLoop p f).late = s.late := rfl
@[simp] theorem State.modLoop_written (p : Fin 64) (f : Loop → Loop) : (s.modLoop p f).written = s.written := rfl
@[simp] theorem State.modLoop_held (p : Fin 64) (f : Loop → Loop) : (s.modLoop p f).held = s.held := rfl
@[simp] theorem State.modLoop_axes (p : Fin 64) (f : Loop → Loop) : (s.modLoop p f).axes = s.axes := rfl
@[simp] theorem State.modLoop_tiles (p : Fin 64) (f : Loop → Loop) : (s.modLoop p f).tiles = s.tiles := rfl
@[simp] theorem State.modLoop_engines (p : Fin 64) (f : Loop → Loop) : (s.modLoop p f).engines = s.engines := rfl
@[simp] theorem State.modLoop_encs (p : Fin 64) (f : Loop → Loop) : (s.modLoop p f).encs = s.encs := rfl
@[simp] theorem State.modLoop_net (p : Fin 64) (f : Loop → Loop) : (s.modLoop p f).net = s.net := rfl
@[simp] theorem State.modLoop_vms (p : Fin 64) (f : Loop → Loop) : (s.modLoop p f).vms = s.vms := rfl
@[simp] theorem State.modLoop_cabs (p : Fin 64) (f : Loop → Loop) : (s.modLoop p f).cabs = s.cabs := rfl
@[simp] theorem State.modLoop_recorder (p : Fin 64) (f : Loop → Loop) : (s.modLoop p f).recorder = s.recorder := rfl
@[simp] theorem State.modLoop_dev (p : Fin 64) (f : Loop → Loop) : (s.modLoop p f).dev = s.dev := rfl
@[simp] theorem State.modLoop_out (p : Fin 64) (f : Loop → Loop) : (s.modLoop p f).out = s.out := rfl

/-! ## modPwm -/

@[simp] theorem State.modPwm_pending (p : Fin 64) (f : Pwm → Pwm) : (s.modPwm p f).pending = s.pending := rfl
@[simp] theorem State.modPwm_now (p : Fin 64) (f : Pwm → Pwm) : (s.modPwm p f).now = s.now := rfl
@[simp] theorem State.modPwm_freeCtr (p : Fin 64) (f : Pwm → Pwm) : (s.modPwm p f).freeCtr = s.freeCtr := rfl
@[simp] theorem State.modPwm_regs (p : Fin 64) (f : Pwm → Pwm) : (s.modPwm p f).regs = s.regs := rfl
@[simp] theorem State.modPwm_inForce (p : Fin 64) (f : Pwm → Pwm) : (s.modPwm p f).inForce = s.inForce := rfl
@[simp] theorem State.modPwm_late (p : Fin 64) (f : Pwm → Pwm) : (s.modPwm p f).late = s.late := rfl
@[simp] theorem State.modPwm_written (p : Fin 64) (f : Pwm → Pwm) : (s.modPwm p f).written = s.written := rfl
@[simp] theorem State.modPwm_held (p : Fin 64) (f : Pwm → Pwm) : (s.modPwm p f).held = s.held := rfl
@[simp] theorem State.modPwm_axes (p : Fin 64) (f : Pwm → Pwm) : (s.modPwm p f).axes = s.axes := rfl
@[simp] theorem State.modPwm_tiles (p : Fin 64) (f : Pwm → Pwm) : (s.modPwm p f).tiles = s.tiles := rfl
@[simp] theorem State.modPwm_engines (p : Fin 64) (f : Pwm → Pwm) : (s.modPwm p f).engines = s.engines := rfl
@[simp] theorem State.modPwm_encs (p : Fin 64) (f : Pwm → Pwm) : (s.modPwm p f).encs = s.encs := rfl
@[simp] theorem State.modPwm_net (p : Fin 64) (f : Pwm → Pwm) : (s.modPwm p f).net = s.net := rfl
@[simp] theorem State.modPwm_vms (p : Fin 64) (f : Pwm → Pwm) : (s.modPwm p f).vms = s.vms := rfl
@[simp] theorem State.modPwm_cabs (p : Fin 64) (f : Pwm → Pwm) : (s.modPwm p f).cabs = s.cabs := rfl
@[simp] theorem State.modPwm_recorder (p : Fin 64) (f : Pwm → Pwm) : (s.modPwm p f).recorder = s.recorder := rfl
@[simp] theorem State.modPwm_dev (p : Fin 64) (f : Pwm → Pwm) : (s.modPwm p f).dev = s.dev := rfl
@[simp] theorem State.modPwm_out (p : Fin 64) (f : Pwm → Pwm) : (s.modPwm p f).out = s.out := rfl

/-! ## modGd -/

@[simp] theorem State.modGd_pending (p : Fin 64) (f : GateDrive → GateDrive) : (s.modGd p f).pending = s.pending := rfl
@[simp] theorem State.modGd_now (p : Fin 64) (f : GateDrive → GateDrive) : (s.modGd p f).now = s.now := rfl
@[simp] theorem State.modGd_freeCtr (p : Fin 64) (f : GateDrive → GateDrive) : (s.modGd p f).freeCtr = s.freeCtr := rfl
@[simp] theorem State.modGd_regs (p : Fin 64) (f : GateDrive → GateDrive) : (s.modGd p f).regs = s.regs := rfl
@[simp] theorem State.modGd_inForce (p : Fin 64) (f : GateDrive → GateDrive) : (s.modGd p f).inForce = s.inForce := rfl
@[simp] theorem State.modGd_late (p : Fin 64) (f : GateDrive → GateDrive) : (s.modGd p f).late = s.late := rfl
@[simp] theorem State.modGd_written (p : Fin 64) (f : GateDrive → GateDrive) : (s.modGd p f).written = s.written := rfl
@[simp] theorem State.modGd_held (p : Fin 64) (f : GateDrive → GateDrive) : (s.modGd p f).held = s.held := rfl
@[simp] theorem State.modGd_axes (p : Fin 64) (f : GateDrive → GateDrive) : (s.modGd p f).axes = s.axes := rfl
@[simp] theorem State.modGd_tiles (p : Fin 64) (f : GateDrive → GateDrive) : (s.modGd p f).tiles = s.tiles := rfl
@[simp] theorem State.modGd_engines (p : Fin 64) (f : GateDrive → GateDrive) : (s.modGd p f).engines = s.engines := rfl
@[simp] theorem State.modGd_encs (p : Fin 64) (f : GateDrive → GateDrive) : (s.modGd p f).encs = s.encs := rfl
@[simp] theorem State.modGd_net (p : Fin 64) (f : GateDrive → GateDrive) : (s.modGd p f).net = s.net := rfl
@[simp] theorem State.modGd_vms (p : Fin 64) (f : GateDrive → GateDrive) : (s.modGd p f).vms = s.vms := rfl
@[simp] theorem State.modGd_cabs (p : Fin 64) (f : GateDrive → GateDrive) : (s.modGd p f).cabs = s.cabs := rfl
@[simp] theorem State.modGd_recorder (p : Fin 64) (f : GateDrive → GateDrive) : (s.modGd p f).recorder = s.recorder := rfl
@[simp] theorem State.modGd_dev (p : Fin 64) (f : GateDrive → GateDrive) : (s.modGd p f).dev = s.dev := rfl
@[simp] theorem State.modGd_out (p : Fin 64) (f : GateDrive → GateDrive) : (s.modGd p f).out = s.out := rfl

/-! ## setTile -/

@[simp] theorem State.setTile_pending (t : Fin 4) (x : Tile) : (s.setTile t x).pending = s.pending := rfl
@[simp] theorem State.setTile_now (t : Fin 4) (x : Tile) : (s.setTile t x).now = s.now := rfl
@[simp] theorem State.setTile_freeCtr (t : Fin 4) (x : Tile) : (s.setTile t x).freeCtr = s.freeCtr := rfl
@[simp] theorem State.setTile_regs (t : Fin 4) (x : Tile) : (s.setTile t x).regs = s.regs := rfl
@[simp] theorem State.setTile_inForce (t : Fin 4) (x : Tile) : (s.setTile t x).inForce = s.inForce := rfl
@[simp] theorem State.setTile_late (t : Fin 4) (x : Tile) : (s.setTile t x).late = s.late := rfl
@[simp] theorem State.setTile_written (t : Fin 4) (x : Tile) : (s.setTile t x).written = s.written := rfl
@[simp] theorem State.setTile_held (t : Fin 4) (x : Tile) : (s.setTile t x).held = s.held := rfl
@[simp] theorem State.setTile_axes (t : Fin 4) (x : Tile) : (s.setTile t x).axes = s.axes := rfl
@[simp] theorem State.setTile_ports (t : Fin 4) (x : Tile) : (s.setTile t x).ports = s.ports := rfl
@[simp] theorem State.setTile_engines (t : Fin 4) (x : Tile) : (s.setTile t x).engines = s.engines := rfl
@[simp] theorem State.setTile_encs (t : Fin 4) (x : Tile) : (s.setTile t x).encs = s.encs := rfl
@[simp] theorem State.setTile_net (t : Fin 4) (x : Tile) : (s.setTile t x).net = s.net := rfl
@[simp] theorem State.setTile_vms (t : Fin 4) (x : Tile) : (s.setTile t x).vms = s.vms := rfl
@[simp] theorem State.setTile_cabs (t : Fin 4) (x : Tile) : (s.setTile t x).cabs = s.cabs := rfl
@[simp] theorem State.setTile_recorder (t : Fin 4) (x : Tile) : (s.setTile t x).recorder = s.recorder := rfl
@[simp] theorem State.setTile_dev (t : Fin 4) (x : Tile) : (s.setTile t x).dev = s.dev := rfl
@[simp] theorem State.setTile_out (t : Fin 4) (x : Tile) : (s.setTile t x).out = s.out := rfl

/-! ## modTile -/

@[simp] theorem State.modTile_pending (t : Fin 4) (f : Tile → Tile) : (s.modTile t f).pending = s.pending := rfl
@[simp] theorem State.modTile_now (t : Fin 4) (f : Tile → Tile) : (s.modTile t f).now = s.now := rfl
@[simp] theorem State.modTile_freeCtr (t : Fin 4) (f : Tile → Tile) : (s.modTile t f).freeCtr = s.freeCtr := rfl
@[simp] theorem State.modTile_regs (t : Fin 4) (f : Tile → Tile) : (s.modTile t f).regs = s.regs := rfl
@[simp] theorem State.modTile_inForce (t : Fin 4) (f : Tile → Tile) : (s.modTile t f).inForce = s.inForce := rfl
@[simp] theorem State.modTile_late (t : Fin 4) (f : Tile → Tile) : (s.modTile t f).late = s.late := rfl
@[simp] theorem State.modTile_written (t : Fin 4) (f : Tile → Tile) : (s.modTile t f).written = s.written := rfl
@[simp] theorem State.modTile_held (t : Fin 4) (f : Tile → Tile) : (s.modTile t f).held = s.held := rfl
@[simp] theorem State.modTile_axes (t : Fin 4) (f : Tile → Tile) : (s.modTile t f).axes = s.axes := rfl
@[simp] theorem State.modTile_ports (t : Fin 4) (f : Tile → Tile) : (s.modTile t f).ports = s.ports := rfl
@[simp] theorem State.modTile_engines (t : Fin 4) (f : Tile → Tile) : (s.modTile t f).engines = s.engines := rfl
@[simp] theorem State.modTile_encs (t : Fin 4) (f : Tile → Tile) : (s.modTile t f).encs = s.encs := rfl
@[simp] theorem State.modTile_net (t : Fin 4) (f : Tile → Tile) : (s.modTile t f).net = s.net := rfl
@[simp] theorem State.modTile_vms (t : Fin 4) (f : Tile → Tile) : (s.modTile t f).vms = s.vms := rfl
@[simp] theorem State.modTile_cabs (t : Fin 4) (f : Tile → Tile) : (s.modTile t f).cabs = s.cabs := rfl
@[simp] theorem State.modTile_recorder (t : Fin 4) (f : Tile → Tile) : (s.modTile t f).recorder = s.recorder := rfl
@[simp] theorem State.modTile_dev (t : Fin 4) (f : Tile → Tile) : (s.modTile t f).dev = s.dev := rfl
@[simp] theorem State.modTile_out (t : Fin 4) (f : Tile → Tile) : (s.modTile t f).out = s.out := rfl

/-! ## setEng -/

@[simp] theorem State.setEng_pending (e : Fin 46) (x : Engine) : (s.setEng e x).pending = s.pending := rfl
@[simp] theorem State.setEng_now (e : Fin 46) (x : Engine) : (s.setEng e x).now = s.now := rfl
@[simp] theorem State.setEng_freeCtr (e : Fin 46) (x : Engine) : (s.setEng e x).freeCtr = s.freeCtr := rfl
@[simp] theorem State.setEng_regs (e : Fin 46) (x : Engine) : (s.setEng e x).regs = s.regs := rfl
@[simp] theorem State.setEng_inForce (e : Fin 46) (x : Engine) : (s.setEng e x).inForce = s.inForce := rfl
@[simp] theorem State.setEng_late (e : Fin 46) (x : Engine) : (s.setEng e x).late = s.late := rfl
@[simp] theorem State.setEng_written (e : Fin 46) (x : Engine) : (s.setEng e x).written = s.written := rfl
@[simp] theorem State.setEng_held (e : Fin 46) (x : Engine) : (s.setEng e x).held = s.held := rfl
@[simp] theorem State.setEng_axes (e : Fin 46) (x : Engine) : (s.setEng e x).axes = s.axes := rfl
@[simp] theorem State.setEng_ports (e : Fin 46) (x : Engine) : (s.setEng e x).ports = s.ports := rfl
@[simp] theorem State.setEng_tiles (e : Fin 46) (x : Engine) : (s.setEng e x).tiles = s.tiles := rfl
@[simp] theorem State.setEng_encs (e : Fin 46) (x : Engine) : (s.setEng e x).encs = s.encs := rfl
@[simp] theorem State.setEng_net (e : Fin 46) (x : Engine) : (s.setEng e x).net = s.net := rfl
@[simp] theorem State.setEng_vms (e : Fin 46) (x : Engine) : (s.setEng e x).vms = s.vms := rfl
@[simp] theorem State.setEng_cabs (e : Fin 46) (x : Engine) : (s.setEng e x).cabs = s.cabs := rfl
@[simp] theorem State.setEng_recorder (e : Fin 46) (x : Engine) : (s.setEng e x).recorder = s.recorder := rfl
@[simp] theorem State.setEng_dev (e : Fin 46) (x : Engine) : (s.setEng e x).dev = s.dev := rfl
@[simp] theorem State.setEng_out (e : Fin 46) (x : Engine) : (s.setEng e x).out = s.out := rfl

/-! ## modEng -/

@[simp] theorem State.modEng_pending (e : Fin 46) (f : Engine → Engine) : (s.modEng e f).pending = s.pending := rfl
@[simp] theorem State.modEng_now (e : Fin 46) (f : Engine → Engine) : (s.modEng e f).now = s.now := rfl
@[simp] theorem State.modEng_freeCtr (e : Fin 46) (f : Engine → Engine) : (s.modEng e f).freeCtr = s.freeCtr := rfl
@[simp] theorem State.modEng_regs (e : Fin 46) (f : Engine → Engine) : (s.modEng e f).regs = s.regs := rfl
@[simp] theorem State.modEng_inForce (e : Fin 46) (f : Engine → Engine) : (s.modEng e f).inForce = s.inForce := rfl
@[simp] theorem State.modEng_late (e : Fin 46) (f : Engine → Engine) : (s.modEng e f).late = s.late := rfl
@[simp] theorem State.modEng_written (e : Fin 46) (f : Engine → Engine) : (s.modEng e f).written = s.written := rfl
@[simp] theorem State.modEng_held (e : Fin 46) (f : Engine → Engine) : (s.modEng e f).held = s.held := rfl
@[simp] theorem State.modEng_axes (e : Fin 46) (f : Engine → Engine) : (s.modEng e f).axes = s.axes := rfl
@[simp] theorem State.modEng_ports (e : Fin 46) (f : Engine → Engine) : (s.modEng e f).ports = s.ports := rfl
@[simp] theorem State.modEng_tiles (e : Fin 46) (f : Engine → Engine) : (s.modEng e f).tiles = s.tiles := rfl
@[simp] theorem State.modEng_encs (e : Fin 46) (f : Engine → Engine) : (s.modEng e f).encs = s.encs := rfl
@[simp] theorem State.modEng_net (e : Fin 46) (f : Engine → Engine) : (s.modEng e f).net = s.net := rfl
@[simp] theorem State.modEng_vms (e : Fin 46) (f : Engine → Engine) : (s.modEng e f).vms = s.vms := rfl
@[simp] theorem State.modEng_cabs (e : Fin 46) (f : Engine → Engine) : (s.modEng e f).cabs = s.cabs := rfl
@[simp] theorem State.modEng_recorder (e : Fin 46) (f : Engine → Engine) : (s.modEng e f).recorder = s.recorder := rfl
@[simp] theorem State.modEng_dev (e : Fin 46) (f : Engine → Engine) : (s.modEng e f).dev = s.dev := rfl
@[simp] theorem State.modEng_out (e : Fin 46) (f : Engine → Engine) : (s.modEng e f).out = s.out := rfl

/-! ## setCab -/

@[simp] theorem State.setCab_pending (c : Fin 4) (x : Cabinet) : (s.setCab c x).pending = s.pending := rfl
@[simp] theorem State.setCab_now (c : Fin 4) (x : Cabinet) : (s.setCab c x).now = s.now := rfl
@[simp] theorem State.setCab_freeCtr (c : Fin 4) (x : Cabinet) : (s.setCab c x).freeCtr = s.freeCtr := rfl
@[simp] theorem State.setCab_regs (c : Fin 4) (x : Cabinet) : (s.setCab c x).regs = s.regs := rfl
@[simp] theorem State.setCab_inForce (c : Fin 4) (x : Cabinet) : (s.setCab c x).inForce = s.inForce := rfl
@[simp] theorem State.setCab_late (c : Fin 4) (x : Cabinet) : (s.setCab c x).late = s.late := rfl
@[simp] theorem State.setCab_written (c : Fin 4) (x : Cabinet) : (s.setCab c x).written = s.written := rfl
@[simp] theorem State.setCab_held (c : Fin 4) (x : Cabinet) : (s.setCab c x).held = s.held := rfl
@[simp] theorem State.setCab_axes (c : Fin 4) (x : Cabinet) : (s.setCab c x).axes = s.axes := rfl
@[simp] theorem State.setCab_ports (c : Fin 4) (x : Cabinet) : (s.setCab c x).ports = s.ports := rfl
@[simp] theorem State.setCab_tiles (c : Fin 4) (x : Cabinet) : (s.setCab c x).tiles = s.tiles := rfl
@[simp] theorem State.setCab_engines (c : Fin 4) (x : Cabinet) : (s.setCab c x).engines = s.engines := rfl
@[simp] theorem State.setCab_encs (c : Fin 4) (x : Cabinet) : (s.setCab c x).encs = s.encs := rfl
@[simp] theorem State.setCab_net (c : Fin 4) (x : Cabinet) : (s.setCab c x).net = s.net := rfl
@[simp] theorem State.setCab_vms (c : Fin 4) (x : Cabinet) : (s.setCab c x).vms = s.vms := rfl
@[simp] theorem State.setCab_recorder (c : Fin 4) (x : Cabinet) : (s.setCab c x).recorder = s.recorder := rfl
@[simp] theorem State.setCab_dev (c : Fin 4) (x : Cabinet) : (s.setCab c x).dev = s.dev := rfl
@[simp] theorem State.setCab_out (c : Fin 4) (x : Cabinet) : (s.setCab c x).out = s.out := rfl

/-! ## modCab -/

@[simp] theorem State.modCab_pending (c : Fin 4) (f : Cabinet → Cabinet) : (s.modCab c f).pending = s.pending := rfl
@[simp] theorem State.modCab_now (c : Fin 4) (f : Cabinet → Cabinet) : (s.modCab c f).now = s.now := rfl
@[simp] theorem State.modCab_freeCtr (c : Fin 4) (f : Cabinet → Cabinet) : (s.modCab c f).freeCtr = s.freeCtr := rfl
@[simp] theorem State.modCab_regs (c : Fin 4) (f : Cabinet → Cabinet) : (s.modCab c f).regs = s.regs := rfl
@[simp] theorem State.modCab_inForce (c : Fin 4) (f : Cabinet → Cabinet) : (s.modCab c f).inForce = s.inForce := rfl
@[simp] theorem State.modCab_late (c : Fin 4) (f : Cabinet → Cabinet) : (s.modCab c f).late = s.late := rfl
@[simp] theorem State.modCab_written (c : Fin 4) (f : Cabinet → Cabinet) : (s.modCab c f).written = s.written := rfl
@[simp] theorem State.modCab_held (c : Fin 4) (f : Cabinet → Cabinet) : (s.modCab c f).held = s.held := rfl
@[simp] theorem State.modCab_axes (c : Fin 4) (f : Cabinet → Cabinet) : (s.modCab c f).axes = s.axes := rfl
@[simp] theorem State.modCab_ports (c : Fin 4) (f : Cabinet → Cabinet) : (s.modCab c f).ports = s.ports := rfl
@[simp] theorem State.modCab_tiles (c : Fin 4) (f : Cabinet → Cabinet) : (s.modCab c f).tiles = s.tiles := rfl
@[simp] theorem State.modCab_engines (c : Fin 4) (f : Cabinet → Cabinet) : (s.modCab c f).engines = s.engines := rfl
@[simp] theorem State.modCab_encs (c : Fin 4) (f : Cabinet → Cabinet) : (s.modCab c f).encs = s.encs := rfl
@[simp] theorem State.modCab_net (c : Fin 4) (f : Cabinet → Cabinet) : (s.modCab c f).net = s.net := rfl
@[simp] theorem State.modCab_vms (c : Fin 4) (f : Cabinet → Cabinet) : (s.modCab c f).vms = s.vms := rfl
@[simp] theorem State.modCab_recorder (c : Fin 4) (f : Cabinet → Cabinet) : (s.modCab c f).recorder = s.recorder := rfl
@[simp] theorem State.modCab_dev (c : Fin 4) (f : Cabinet → Cabinet) : (s.modCab c f).dev = s.dev := rfl
@[simp] theorem State.modCab_out (c : Fin 4) (f : Cabinet → Cabinet) : (s.modCab c f).out = s.out := rfl

/-! ## modRing -/

@[simp] theorem State.modRing_pending (c : Fin 4) (n : Fin 16) (f : Ring → Ring) : (s.modRing c n f).pending = s.pending := rfl
@[simp] theorem State.modRing_now (c : Fin 4) (n : Fin 16) (f : Ring → Ring) : (s.modRing c n f).now = s.now := rfl
@[simp] theorem State.modRing_freeCtr (c : Fin 4) (n : Fin 16) (f : Ring → Ring) : (s.modRing c n f).freeCtr = s.freeCtr := rfl
@[simp] theorem State.modRing_regs (c : Fin 4) (n : Fin 16) (f : Ring → Ring) : (s.modRing c n f).regs = s.regs := rfl
@[simp] theorem State.modRing_inForce (c : Fin 4) (n : Fin 16) (f : Ring → Ring) : (s.modRing c n f).inForce = s.inForce := rfl
@[simp] theorem State.modRing_late (c : Fin 4) (n : Fin 16) (f : Ring → Ring) : (s.modRing c n f).late = s.late := rfl
@[simp] theorem State.modRing_written (c : Fin 4) (n : Fin 16) (f : Ring → Ring) : (s.modRing c n f).written = s.written := rfl
@[simp] theorem State.modRing_held (c : Fin 4) (n : Fin 16) (f : Ring → Ring) : (s.modRing c n f).held = s.held := rfl
@[simp] theorem State.modRing_axes (c : Fin 4) (n : Fin 16) (f : Ring → Ring) : (s.modRing c n f).axes = s.axes := rfl
@[simp] theorem State.modRing_ports (c : Fin 4) (n : Fin 16) (f : Ring → Ring) : (s.modRing c n f).ports = s.ports := rfl
@[simp] theorem State.modRing_tiles (c : Fin 4) (n : Fin 16) (f : Ring → Ring) : (s.modRing c n f).tiles = s.tiles := rfl
@[simp] theorem State.modRing_engines (c : Fin 4) (n : Fin 16) (f : Ring → Ring) : (s.modRing c n f).engines = s.engines := rfl
@[simp] theorem State.modRing_encs (c : Fin 4) (n : Fin 16) (f : Ring → Ring) : (s.modRing c n f).encs = s.encs := rfl
@[simp] theorem State.modRing_net (c : Fin 4) (n : Fin 16) (f : Ring → Ring) : (s.modRing c n f).net = s.net := rfl
@[simp] theorem State.modRing_vms (c : Fin 4) (n : Fin 16) (f : Ring → Ring) : (s.modRing c n f).vms = s.vms := rfl
@[simp] theorem State.modRing_recorder (c : Fin 4) (n : Fin 16) (f : Ring → Ring) : (s.modRing c n f).recorder = s.recorder := rfl
@[simp] theorem State.modRing_dev (c : Fin 4) (n : Fin 16) (f : Ring → Ring) : (s.modRing c n f).dev = s.dev := rfl
@[simp] theorem State.modRing_out (c : Fin 4) (n : Fin 16) (f : Ring → Ring) : (s.modRing c n f).out = s.out := rfl

/-! ## modEnc -/

@[simp] theorem State.modEnc_pending (n : Fin 16) (f : Encoder → Encoder) : (s.modEnc n f).pending = s.pending := rfl
@[simp] theorem State.modEnc_now (n : Fin 16) (f : Encoder → Encoder) : (s.modEnc n f).now = s.now := rfl
@[simp] theorem State.modEnc_freeCtr (n : Fin 16) (f : Encoder → Encoder) : (s.modEnc n f).freeCtr = s.freeCtr := rfl
@[simp] theorem State.modEnc_regs (n : Fin 16) (f : Encoder → Encoder) : (s.modEnc n f).regs = s.regs := rfl
@[simp] theorem State.modEnc_inForce (n : Fin 16) (f : Encoder → Encoder) : (s.modEnc n f).inForce = s.inForce := rfl
@[simp] theorem State.modEnc_late (n : Fin 16) (f : Encoder → Encoder) : (s.modEnc n f).late = s.late := rfl
@[simp] theorem State.modEnc_written (n : Fin 16) (f : Encoder → Encoder) : (s.modEnc n f).written = s.written := rfl
@[simp] theorem State.modEnc_held (n : Fin 16) (f : Encoder → Encoder) : (s.modEnc n f).held = s.held := rfl
@[simp] theorem State.modEnc_axes (n : Fin 16) (f : Encoder → Encoder) : (s.modEnc n f).axes = s.axes := rfl
@[simp] theorem State.modEnc_ports (n : Fin 16) (f : Encoder → Encoder) : (s.modEnc n f).ports = s.ports := rfl
@[simp] theorem State.modEnc_tiles (n : Fin 16) (f : Encoder → Encoder) : (s.modEnc n f).tiles = s.tiles := rfl
@[simp] theorem State.modEnc_engines (n : Fin 16) (f : Encoder → Encoder) : (s.modEnc n f).engines = s.engines := rfl
@[simp] theorem State.modEnc_net (n : Fin 16) (f : Encoder → Encoder) : (s.modEnc n f).net = s.net := rfl
@[simp] theorem State.modEnc_vms (n : Fin 16) (f : Encoder → Encoder) : (s.modEnc n f).vms = s.vms := rfl
@[simp] theorem State.modEnc_cabs (n : Fin 16) (f : Encoder → Encoder) : (s.modEnc n f).cabs = s.cabs := rfl
@[simp] theorem State.modEnc_recorder (n : Fin 16) (f : Encoder → Encoder) : (s.modEnc n f).recorder = s.recorder := rfl
@[simp] theorem State.modEnc_dev (n : Fin 16) (f : Encoder → Encoder) : (s.modEnc n f).dev = s.dev := rfl
@[simp] theorem State.modEnc_out (n : Fin 16) (f : Encoder → Encoder) : (s.modEnc n f).out = s.out := rfl

/-! ## modVm -/

@[simp] theorem State.modVm_pending (v : Fin 8) (f : VMaster → VMaster) : (s.modVm v f).pending = s.pending := rfl
@[simp] theorem State.modVm_now (v : Fin 8) (f : VMaster → VMaster) : (s.modVm v f).now = s.now := rfl
@[simp] theorem State.modVm_freeCtr (v : Fin 8) (f : VMaster → VMaster) : (s.modVm v f).freeCtr = s.freeCtr := rfl
@[simp] theorem State.modVm_regs (v : Fin 8) (f : VMaster → VMaster) : (s.modVm v f).regs = s.regs := rfl
@[simp] theorem State.modVm_inForce (v : Fin 8) (f : VMaster → VMaster) : (s.modVm v f).inForce = s.inForce := rfl
@[simp] theorem State.modVm_late (v : Fin 8) (f : VMaster → VMaster) : (s.modVm v f).late = s.late := rfl
@[simp] theorem State.modVm_written (v : Fin 8) (f : VMaster → VMaster) : (s.modVm v f).written = s.written := rfl
@[simp] theorem State.modVm_held (v : Fin 8) (f : VMaster → VMaster) : (s.modVm v f).held = s.held := rfl
@[simp] theorem State.modVm_axes (v : Fin 8) (f : VMaster → VMaster) : (s.modVm v f).axes = s.axes := rfl
@[simp] theorem State.modVm_ports (v : Fin 8) (f : VMaster → VMaster) : (s.modVm v f).ports = s.ports := rfl
@[simp] theorem State.modVm_tiles (v : Fin 8) (f : VMaster → VMaster) : (s.modVm v f).tiles = s.tiles := rfl
@[simp] theorem State.modVm_engines (v : Fin 8) (f : VMaster → VMaster) : (s.modVm v f).engines = s.engines := rfl
@[simp] theorem State.modVm_encs (v : Fin 8) (f : VMaster → VMaster) : (s.modVm v f).encs = s.encs := rfl
@[simp] theorem State.modVm_net (v : Fin 8) (f : VMaster → VMaster) : (s.modVm v f).net = s.net := rfl
@[simp] theorem State.modVm_cabs (v : Fin 8) (f : VMaster → VMaster) : (s.modVm v f).cabs = s.cabs := rfl
@[simp] theorem State.modVm_recorder (v : Fin 8) (f : VMaster → VMaster) : (s.modVm v f).recorder = s.recorder := rfl
@[simp] theorem State.modVm_dev (v : Fin 8) (f : VMaster → VMaster) : (s.modVm v f).dev = s.dev := rfl
@[simp] theorem State.modVm_out (v : Fin 8) (f : VMaster → VMaster) : (s.modVm v f).out = s.out := rfl

/-! ## modNet -/

@[simp] theorem State.modNet_pending (f : Net → Net) : (s.modNet f).pending = s.pending := rfl
@[simp] theorem State.modNet_now (f : Net → Net) : (s.modNet f).now = s.now := rfl
@[simp] theorem State.modNet_freeCtr (f : Net → Net) : (s.modNet f).freeCtr = s.freeCtr := rfl
@[simp] theorem State.modNet_regs (f : Net → Net) : (s.modNet f).regs = s.regs := rfl
@[simp] theorem State.modNet_inForce (f : Net → Net) : (s.modNet f).inForce = s.inForce := rfl
@[simp] theorem State.modNet_late (f : Net → Net) : (s.modNet f).late = s.late := rfl
@[simp] theorem State.modNet_written (f : Net → Net) : (s.modNet f).written = s.written := rfl
@[simp] theorem State.modNet_held (f : Net → Net) : (s.modNet f).held = s.held := rfl
@[simp] theorem State.modNet_axes (f : Net → Net) : (s.modNet f).axes = s.axes := rfl
@[simp] theorem State.modNet_ports (f : Net → Net) : (s.modNet f).ports = s.ports := rfl
@[simp] theorem State.modNet_tiles (f : Net → Net) : (s.modNet f).tiles = s.tiles := rfl
@[simp] theorem State.modNet_engines (f : Net → Net) : (s.modNet f).engines = s.engines := rfl
@[simp] theorem State.modNet_encs (f : Net → Net) : (s.modNet f).encs = s.encs := rfl
@[simp] theorem State.modNet_vms (f : Net → Net) : (s.modNet f).vms = s.vms := rfl
@[simp] theorem State.modNet_cabs (f : Net → Net) : (s.modNet f).cabs = s.cabs := rfl
@[simp] theorem State.modNet_recorder (f : Net → Net) : (s.modNet f).recorder = s.recorder := rfl
@[simp] theorem State.modNet_dev (f : Net → Net) : (s.modNet f).dev = s.dev := rfl
@[simp] theorem State.modNet_out (f : Net → Net) : (s.modNet f).out = s.out := rfl

/-! ## modRec -/

@[simp] theorem State.modRec_pending (f : Recorder → Recorder) : (s.modRec f).pending = s.pending := rfl
@[simp] theorem State.modRec_now (f : Recorder → Recorder) : (s.modRec f).now = s.now := rfl
@[simp] theorem State.modRec_freeCtr (f : Recorder → Recorder) : (s.modRec f).freeCtr = s.freeCtr := rfl
@[simp] theorem State.modRec_regs (f : Recorder → Recorder) : (s.modRec f).regs = s.regs := rfl
@[simp] theorem State.modRec_inForce (f : Recorder → Recorder) : (s.modRec f).inForce = s.inForce := rfl
@[simp] theorem State.modRec_late (f : Recorder → Recorder) : (s.modRec f).late = s.late := rfl
@[simp] theorem State.modRec_written (f : Recorder → Recorder) : (s.modRec f).written = s.written := rfl
@[simp] theorem State.modRec_held (f : Recorder → Recorder) : (s.modRec f).held = s.held := rfl
@[simp] theorem State.modRec_axes (f : Recorder → Recorder) : (s.modRec f).axes = s.axes := rfl
@[simp] theorem State.modRec_ports (f : Recorder → Recorder) : (s.modRec f).ports = s.ports := rfl
@[simp] theorem State.modRec_tiles (f : Recorder → Recorder) : (s.modRec f).tiles = s.tiles := rfl
@[simp] theorem State.modRec_engines (f : Recorder → Recorder) : (s.modRec f).engines = s.engines := rfl
@[simp] theorem State.modRec_encs (f : Recorder → Recorder) : (s.modRec f).encs = s.encs := rfl
@[simp] theorem State.modRec_net (f : Recorder → Recorder) : (s.modRec f).net = s.net := rfl
@[simp] theorem State.modRec_vms (f : Recorder → Recorder) : (s.modRec f).vms = s.vms := rfl
@[simp] theorem State.modRec_cabs (f : Recorder → Recorder) : (s.modRec f).cabs = s.cabs := rfl
@[simp] theorem State.modRec_dev (f : Recorder → Recorder) : (s.modRec f).dev = s.dev := rfl
@[simp] theorem State.modRec_out (f : Recorder → Recorder) : (s.modRec f).out = s.out := rfl

/-! ## modDev -/

@[simp] theorem State.modDev_pending (f : Device → Device) : (s.modDev f).pending = s.pending := rfl
@[simp] theorem State.modDev_now (f : Device → Device) : (s.modDev f).now = s.now := rfl
@[simp] theorem State.modDev_freeCtr (f : Device → Device) : (s.modDev f).freeCtr = s.freeCtr := rfl
@[simp] theorem State.modDev_regs (f : Device → Device) : (s.modDev f).regs = s.regs := rfl
@[simp] theorem State.modDev_inForce (f : Device → Device) : (s.modDev f).inForce = s.inForce := rfl
@[simp] theorem State.modDev_late (f : Device → Device) : (s.modDev f).late = s.late := rfl
@[simp] theorem State.modDev_written (f : Device → Device) : (s.modDev f).written = s.written := rfl
@[simp] theorem State.modDev_held (f : Device → Device) : (s.modDev f).held = s.held := rfl
@[simp] theorem State.modDev_axes (f : Device → Device) : (s.modDev f).axes = s.axes := rfl
@[simp] theorem State.modDev_ports (f : Device → Device) : (s.modDev f).ports = s.ports := rfl
@[simp] theorem State.modDev_tiles (f : Device → Device) : (s.modDev f).tiles = s.tiles := rfl
@[simp] theorem State.modDev_engines (f : Device → Device) : (s.modDev f).engines = s.engines := rfl
@[simp] theorem State.modDev_encs (f : Device → Device) : (s.modDev f).encs = s.encs := rfl
@[simp] theorem State.modDev_net (f : Device → Device) : (s.modDev f).net = s.net := rfl
@[simp] theorem State.modDev_vms (f : Device → Device) : (s.modDev f).vms = s.vms := rfl
@[simp] theorem State.modDev_cabs (f : Device → Device) : (s.modDev f).cabs = s.cabs := rfl
@[simp] theorem State.modDev_recorder (f : Device → Device) : (s.modDev f).recorder = s.recorder := rfl
@[simp] theorem State.modDev_out (f : Device → Device) : (s.modDev f).out = s.out := rfl

/-! ## setNow -/

@[simp] theorem State.setNow_pending (t : Nat) : (s.setNow t).pending = s.pending := rfl
@[simp] theorem State.setNow_freeCtr (t : Nat) : (s.setNow t).freeCtr = s.freeCtr := rfl
@[simp] theorem State.setNow_regs (t : Nat) : (s.setNow t).regs = s.regs := rfl
@[simp] theorem State.setNow_inForce (t : Nat) : (s.setNow t).inForce = s.inForce := rfl
@[simp] theorem State.setNow_late (t : Nat) : (s.setNow t).late = s.late := rfl
@[simp] theorem State.setNow_written (t : Nat) : (s.setNow t).written = s.written := rfl
@[simp] theorem State.setNow_held (t : Nat) : (s.setNow t).held = s.held := rfl
@[simp] theorem State.setNow_axes (t : Nat) : (s.setNow t).axes = s.axes := rfl
@[simp] theorem State.setNow_ports (t : Nat) : (s.setNow t).ports = s.ports := rfl
@[simp] theorem State.setNow_tiles (t : Nat) : (s.setNow t).tiles = s.tiles := rfl
@[simp] theorem State.setNow_engines (t : Nat) : (s.setNow t).engines = s.engines := rfl
@[simp] theorem State.setNow_encs (t : Nat) : (s.setNow t).encs = s.encs := rfl
@[simp] theorem State.setNow_net (t : Nat) : (s.setNow t).net = s.net := rfl
@[simp] theorem State.setNow_vms (t : Nat) : (s.setNow t).vms = s.vms := rfl
@[simp] theorem State.setNow_cabs (t : Nat) : (s.setNow t).cabs = s.cabs := rfl
@[simp] theorem State.setNow_recorder (t : Nat) : (s.setNow t).recorder = s.recorder := rfl
@[simp] theorem State.setNow_dev (t : Nat) : (s.setNow t).dev = s.dev := rfl
@[simp] theorem State.setNow_out (t : Nat) : (s.setNow t).out = s.out := rfl

/-! ## setLate -/

@[simp] theorem State.setLate_pending (l : List (Nat × Word)) : (s.setLate l).pending = s.pending := rfl
@[simp] theorem State.setLate_now (l : List (Nat × Word)) : (s.setLate l).now = s.now := rfl
@[simp] theorem State.setLate_freeCtr (l : List (Nat × Word)) : (s.setLate l).freeCtr = s.freeCtr := rfl
@[simp] theorem State.setLate_regs (l : List (Nat × Word)) : (s.setLate l).regs = s.regs := rfl
@[simp] theorem State.setLate_inForce (l : List (Nat × Word)) : (s.setLate l).inForce = s.inForce := rfl
@[simp] theorem State.setLate_written (l : List (Nat × Word)) : (s.setLate l).written = s.written := rfl
@[simp] theorem State.setLate_held (l : List (Nat × Word)) : (s.setLate l).held = s.held := rfl
@[simp] theorem State.setLate_axes (l : List (Nat × Word)) : (s.setLate l).axes = s.axes := rfl
@[simp] theorem State.setLate_ports (l : List (Nat × Word)) : (s.setLate l).ports = s.ports := rfl
@[simp] theorem State.setLate_tiles (l : List (Nat × Word)) : (s.setLate l).tiles = s.tiles := rfl
@[simp] theorem State.setLate_engines (l : List (Nat × Word)) : (s.setLate l).engines = s.engines := rfl
@[simp] theorem State.setLate_encs (l : List (Nat × Word)) : (s.setLate l).encs = s.encs := rfl
@[simp] theorem State.setLate_net (l : List (Nat × Word)) : (s.setLate l).net = s.net := rfl
@[simp] theorem State.setLate_vms (l : List (Nat × Word)) : (s.setLate l).vms = s.vms := rfl
@[simp] theorem State.setLate_cabs (l : List (Nat × Word)) : (s.setLate l).cabs = s.cabs := rfl
@[simp] theorem State.setLate_recorder (l : List (Nat × Word)) : (s.setLate l).recorder = s.recorder := rfl
@[simp] theorem State.setLate_dev (l : List (Nat × Word)) : (s.setLate l).dev = s.dev := rfl
@[simp] theorem State.setLate_out (l : List (Nat × Word)) : (s.setLate l).out = s.out := rfl

/-! ## setWritten -/

@[simp] theorem State.setWritten_pending (l : List Nat) : (s.setWritten l).pending = s.pending := rfl
@[simp] theorem State.setWritten_now (l : List Nat) : (s.setWritten l).now = s.now := rfl
@[simp] theorem State.setWritten_freeCtr (l : List Nat) : (s.setWritten l).freeCtr = s.freeCtr := rfl
@[simp] theorem State.setWritten_regs (l : List Nat) : (s.setWritten l).regs = s.regs := rfl
@[simp] theorem State.setWritten_inForce (l : List Nat) : (s.setWritten l).inForce = s.inForce := rfl
@[simp] theorem State.setWritten_late (l : List Nat) : (s.setWritten l).late = s.late := rfl
@[simp] theorem State.setWritten_held (l : List Nat) : (s.setWritten l).held = s.held := rfl
@[simp] theorem State.setWritten_axes (l : List Nat) : (s.setWritten l).axes = s.axes := rfl
@[simp] theorem State.setWritten_ports (l : List Nat) : (s.setWritten l).ports = s.ports := rfl
@[simp] theorem State.setWritten_tiles (l : List Nat) : (s.setWritten l).tiles = s.tiles := rfl
@[simp] theorem State.setWritten_engines (l : List Nat) : (s.setWritten l).engines = s.engines := rfl
@[simp] theorem State.setWritten_encs (l : List Nat) : (s.setWritten l).encs = s.encs := rfl
@[simp] theorem State.setWritten_net (l : List Nat) : (s.setWritten l).net = s.net := rfl
@[simp] theorem State.setWritten_vms (l : List Nat) : (s.setWritten l).vms = s.vms := rfl
@[simp] theorem State.setWritten_cabs (l : List Nat) : (s.setWritten l).cabs = s.cabs := rfl
@[simp] theorem State.setWritten_recorder (l : List Nat) : (s.setWritten l).recorder = s.recorder := rfl
@[simp] theorem State.setWritten_dev (l : List Nat) : (s.setWritten l).dev = s.dev := rfl
@[simp] theorem State.setWritten_out (l : List Nat) : (s.setWritten l).out = s.out := rfl

/-! ## setHeld -/

@[simp] theorem State.setHeld_pending (l : List HeldHi) : (s.setHeld l).pending = s.pending := rfl
@[simp] theorem State.setHeld_now (l : List HeldHi) : (s.setHeld l).now = s.now := rfl
@[simp] theorem State.setHeld_freeCtr (l : List HeldHi) : (s.setHeld l).freeCtr = s.freeCtr := rfl
@[simp] theorem State.setHeld_regs (l : List HeldHi) : (s.setHeld l).regs = s.regs := rfl
@[simp] theorem State.setHeld_inForce (l : List HeldHi) : (s.setHeld l).inForce = s.inForce := rfl
@[simp] theorem State.setHeld_late (l : List HeldHi) : (s.setHeld l).late = s.late := rfl
@[simp] theorem State.setHeld_written (l : List HeldHi) : (s.setHeld l).written = s.written := rfl
@[simp] theorem State.setHeld_axes (l : List HeldHi) : (s.setHeld l).axes = s.axes := rfl
@[simp] theorem State.setHeld_ports (l : List HeldHi) : (s.setHeld l).ports = s.ports := rfl
@[simp] theorem State.setHeld_tiles (l : List HeldHi) : (s.setHeld l).tiles = s.tiles := rfl
@[simp] theorem State.setHeld_engines (l : List HeldHi) : (s.setHeld l).engines = s.engines := rfl
@[simp] theorem State.setHeld_encs (l : List HeldHi) : (s.setHeld l).encs = s.encs := rfl
@[simp] theorem State.setHeld_net (l : List HeldHi) : (s.setHeld l).net = s.net := rfl
@[simp] theorem State.setHeld_vms (l : List HeldHi) : (s.setHeld l).vms = s.vms := rfl
@[simp] theorem State.setHeld_cabs (l : List HeldHi) : (s.setHeld l).cabs = s.cabs := rfl
@[simp] theorem State.setHeld_recorder (l : List HeldHi) : (s.setHeld l).recorder = s.recorder := rfl
@[simp] theorem State.setHeld_dev (l : List HeldHi) : (s.setHeld l).dev = s.dev := rfl
@[simp] theorem State.setHeld_out (l : List HeldHi) : (s.setHeld l).out = s.out := rfl

/-! ## emit -/

@[simp] theorem State.emit_pending (o : Out) : (s.emit o).pending = s.pending := rfl
@[simp] theorem State.emit_now (o : Out) : (s.emit o).now = s.now := rfl
@[simp] theorem State.emit_freeCtr (o : Out) : (s.emit o).freeCtr = s.freeCtr := rfl
@[simp] theorem State.emit_regs (o : Out) : (s.emit o).regs = s.regs := rfl
@[simp] theorem State.emit_inForce (o : Out) : (s.emit o).inForce = s.inForce := rfl
@[simp] theorem State.emit_late (o : Out) : (s.emit o).late = s.late := rfl
@[simp] theorem State.emit_written (o : Out) : (s.emit o).written = s.written := rfl
@[simp] theorem State.emit_held (o : Out) : (s.emit o).held = s.held := rfl
@[simp] theorem State.emit_axes (o : Out) : (s.emit o).axes = s.axes := rfl
@[simp] theorem State.emit_ports (o : Out) : (s.emit o).ports = s.ports := rfl
@[simp] theorem State.emit_tiles (o : Out) : (s.emit o).tiles = s.tiles := rfl
@[simp] theorem State.emit_engines (o : Out) : (s.emit o).engines = s.engines := rfl
@[simp] theorem State.emit_encs (o : Out) : (s.emit o).encs = s.encs := rfl
@[simp] theorem State.emit_net (o : Out) : (s.emit o).net = s.net := rfl
@[simp] theorem State.emit_vms (o : Out) : (s.emit o).vms = s.vms := rfl
@[simp] theorem State.emit_cabs (o : Out) : (s.emit o).cabs = s.cabs := rfl
@[simp] theorem State.emit_recorder (o : Out) : (s.emit o).recorder = s.recorder := rfl
@[simp] theorem State.emit_dev (o : Out) : (s.emit o).dev = s.dev := rfl

/-! ## reach -/

@[simp] theorem State.reach_pending (t : Nat) : (s.reach t).pending = s.pending := rfl
@[simp] theorem State.reach_freeCtr (t : Nat) : (s.reach t).freeCtr = s.freeCtr := rfl
@[simp] theorem State.reach_regs (t : Nat) : (s.reach t).regs = s.regs := rfl
@[simp] theorem State.reach_inForce (t : Nat) : (s.reach t).inForce = s.inForce := rfl
@[simp] theorem State.reach_late (t : Nat) : (s.reach t).late = s.late := rfl
@[simp] theorem State.reach_written (t : Nat) : (s.reach t).written = s.written := rfl
@[simp] theorem State.reach_held (t : Nat) : (s.reach t).held = s.held := rfl
@[simp] theorem State.reach_axes (t : Nat) : (s.reach t).axes = s.axes := rfl
@[simp] theorem State.reach_ports (t : Nat) : (s.reach t).ports = s.ports := rfl
@[simp] theorem State.reach_tiles (t : Nat) : (s.reach t).tiles = s.tiles := rfl
@[simp] theorem State.reach_engines (t : Nat) : (s.reach t).engines = s.engines := rfl
@[simp] theorem State.reach_encs (t : Nat) : (s.reach t).encs = s.encs := rfl
@[simp] theorem State.reach_net (t : Nat) : (s.reach t).net = s.net := rfl
@[simp] theorem State.reach_vms (t : Nat) : (s.reach t).vms = s.vms := rfl
@[simp] theorem State.reach_cabs (t : Nat) : (s.reach t).cabs = s.cabs := rfl
@[simp] theorem State.reach_recorder (t : Nat) : (s.reach t).recorder = s.recorder := rfl
@[simp] theorem State.reach_dev (t : Nat) : (s.reach t).dev = s.dev := rfl
@[simp] theorem State.reach_out (t : Nat) : (s.reach t).out = s.out := rfl

/-! ## fresh -/

@[simp] theorem State.fresh_pending : s.fresh.pending = s.pending := rfl
@[simp] theorem State.fresh_now : s.fresh.now = s.now := rfl
@[simp] theorem State.fresh_regs : s.fresh.regs = s.regs := rfl
@[simp] theorem State.fresh_inForce : s.fresh.inForce = s.inForce := rfl
@[simp] theorem State.fresh_late : s.fresh.late = s.late := rfl
@[simp] theorem State.fresh_written : s.fresh.written = s.written := rfl
@[simp] theorem State.fresh_held : s.fresh.held = s.held := rfl
@[simp] theorem State.fresh_axes : s.fresh.axes = s.axes := rfl
@[simp] theorem State.fresh_ports : s.fresh.ports = s.ports := rfl
@[simp] theorem State.fresh_tiles : s.fresh.tiles = s.tiles := rfl
@[simp] theorem State.fresh_engines : s.fresh.engines = s.engines := rfl
@[simp] theorem State.fresh_encs : s.fresh.encs = s.encs := rfl
@[simp] theorem State.fresh_net : s.fresh.net = s.net := rfl
@[simp] theorem State.fresh_vms : s.fresh.vms = s.vms := rfl
@[simp] theorem State.fresh_cabs : s.fresh.cabs = s.cabs := rfl
@[simp] theorem State.fresh_recorder : s.fresh.recorder = s.recorder := rfl
@[simp] theorem State.fresh_dev : s.fresh.dev = s.dev := rfl
@[simp] theorem State.fresh_out : s.fresh.out = s.out := rfl

/-! ## Parts -/

@[simp] theorem State.axis_setAxis_same (i : Fin 32) (x : Axis) : (s.setAxis i x).axis i = x := by
  simp [State.axis, State.setAxis]

theorem State.axis_setAxis_other (i j : Fin 32) (x : Axis) (h : i ≠ j) : (s.setAxis i x).axis j = s.axis j := by
  simp only [State.axis, State.setAxis, Fin.getElem_fin]
  exact Vector.getElem_set_ne i.2 j.2 fun e => h (Fin.ext e)

@[simp] theorem State.axis_modAxis_same (i : Fin 32) (f : Axis → Axis) : (s.modAxis i f).axis i = f (s.axis i) := by
  simp [State.modAxis]

theorem State.axis_modAxis_other (i j : Fin 32) (f : Axis → Axis) (h : i ≠ j) :
    (s.modAxis i f).axis j = s.axis j := State.axis_setAxis_other s i j _ h

/-- A part updated, whichever part is read. -/
theorem State.axis_modAxis (i j : Fin 32) (f : Axis → Axis) :
    (s.modAxis i f).axis j = if i = j then f (s.axis j) else s.axis j := by
  by_cases h : i = j
  · subst h; simp
  · simp [h, State.axis_modAxis_other s i j f h]

@[simp] theorem State.port_setPort_same (i : Fin 64) (x : Port) : (s.setPort i x).port i = x := by
  simp [State.port, State.setPort]

theorem State.port_setPort_other (i j : Fin 64) (x : Port) (h : i ≠ j) : (s.setPort i x).port j = s.port j := by
  simp only [State.port, State.setPort, Fin.getElem_fin]
  exact Vector.getElem_set_ne i.2 j.2 fun e => h (Fin.ext e)

@[simp] theorem State.port_modPort_same (i : Fin 64) (f : Port → Port) : (s.modPort i f).port i = f (s.port i) := by
  simp [State.modPort]

theorem State.port_modPort_other (i j : Fin 64) (f : Port → Port) (h : i ≠ j) :
    (s.modPort i f).port j = s.port j := State.port_setPort_other s i j _ h

/-- A part updated, whichever part is read. -/
theorem State.port_modPort (i j : Fin 64) (f : Port → Port) :
    (s.modPort i f).port j = if i = j then f (s.port j) else s.port j := by
  by_cases h : i = j
  · subst h; simp
  · simp [h, State.port_modPort_other s i j f h]

@[simp] theorem State.tile_setTile_same (i : Fin 4) (x : Tile) : (s.setTile i x).tile i = x := by
  simp [State.tile, State.setTile]

theorem State.tile_setTile_other (i j : Fin 4) (x : Tile) (h : i ≠ j) : (s.setTile i x).tile j = s.tile j := by
  simp only [State.tile, State.setTile, Fin.getElem_fin]
  exact Vector.getElem_set_ne i.2 j.2 fun e => h (Fin.ext e)

@[simp] theorem State.tile_modTile_same (i : Fin 4) (f : Tile → Tile) : (s.modTile i f).tile i = f (s.tile i) := by
  simp [State.modTile]

theorem State.tile_modTile_other (i j : Fin 4) (f : Tile → Tile) (h : i ≠ j) :
    (s.modTile i f).tile j = s.tile j := State.tile_setTile_other s i j _ h

/-- A part updated, whichever part is read. -/
theorem State.tile_modTile (i j : Fin 4) (f : Tile → Tile) :
    (s.modTile i f).tile j = if i = j then f (s.tile j) else s.tile j := by
  by_cases h : i = j
  · subst h; simp
  · simp [h, State.tile_modTile_other s i j f h]

@[simp] theorem State.eng_setEng_same (i : Fin 46) (x : Engine) : (s.setEng i x).eng i = x := by
  simp [State.eng, State.setEng]

theorem State.eng_setEng_other (i j : Fin 46) (x : Engine) (h : i ≠ j) : (s.setEng i x).eng j = s.eng j := by
  simp only [State.eng, State.setEng, Fin.getElem_fin]
  exact Vector.getElem_set_ne i.2 j.2 fun e => h (Fin.ext e)

@[simp] theorem State.eng_modEng_same (i : Fin 46) (f : Engine → Engine) : (s.modEng i f).eng i = f (s.eng i) := by
  simp [State.modEng]

theorem State.eng_modEng_other (i j : Fin 46) (f : Engine → Engine) (h : i ≠ j) :
    (s.modEng i f).eng j = s.eng j := State.eng_setEng_other s i j _ h

/-- A part updated, whichever part is read. -/
theorem State.eng_modEng (i j : Fin 46) (f : Engine → Engine) :
    (s.modEng i f).eng j = if i = j then f (s.eng j) else s.eng j := by
  by_cases h : i = j
  · subst h; simp
  · simp [h, State.eng_modEng_other s i j f h]

@[simp] theorem State.cab_setCab_same (i : Fin 4) (x : Cabinet) : (s.setCab i x).cab i = x := by
  simp [State.cab, State.setCab]

theorem State.cab_setCab_other (i j : Fin 4) (x : Cabinet) (h : i ≠ j) : (s.setCab i x).cab j = s.cab j := by
  simp only [State.cab, State.setCab, Fin.getElem_fin]
  exact Vector.getElem_set_ne i.2 j.2 fun e => h (Fin.ext e)

@[simp] theorem State.cab_modCab_same (i : Fin 4) (f : Cabinet → Cabinet) : (s.modCab i f).cab i = f (s.cab i) := by
  simp [State.modCab]

theorem State.cab_modCab_other (i j : Fin 4) (f : Cabinet → Cabinet) (h : i ≠ j) :
    (s.modCab i f).cab j = s.cab j := State.cab_setCab_other s i j _ h

/-- A part updated, whichever part is read. -/
theorem State.cab_modCab (i j : Fin 4) (f : Cabinet → Cabinet) :
    (s.modCab i f).cab j = if i = j then f (s.cab j) else s.cab j := by
  by_cases h : i = j
  · subst h; simp
  · simp [h, State.cab_modCab_other s i j f h]

/-! ## Reads that an update leaves alone -/

@[simp] theorem State.reg_setForce (a : Nat) (v : Word) (b : Nat) : (s.setForce a v).reg b = s.reg b := rfl
@[simp] theorem State.reg_setAxis (a : Fin 32) (x : Axis) (b : Nat) : (s.setAxis a x).reg b = s.reg b := rfl
@[simp] theorem State.reg_modAxis (a : Fin 32) (f : Axis → Axis) (b : Nat) : (s.modAxis a f).reg b = s.reg b := rfl
@[simp] theorem State.reg_setPort (p : Fin 64) (x : Port) (b : Nat) : (s.setPort p x).reg b = s.reg b := rfl
@[simp] theorem State.reg_modPort (p : Fin 64) (f : Port → Port) (b : Nat) : (s.modPort p f).reg b = s.reg b := rfl
@[simp] theorem State.reg_modLoop (p : Fin 64) (f : Loop → Loop) (b : Nat) : (s.modLoop p f).reg b = s.reg b := rfl
@[simp] theorem State.reg_modPwm (p : Fin 64) (f : Pwm → Pwm) (b : Nat) : (s.modPwm p f).reg b = s.reg b := rfl
@[simp] theorem State.reg_modGd (p : Fin 64) (f : GateDrive → GateDrive) (b : Nat) : (s.modGd p f).reg b = s.reg b := rfl
@[simp] theorem State.reg_setTile (t : Fin 4) (x : Tile) (b : Nat) : (s.setTile t x).reg b = s.reg b := rfl
@[simp] theorem State.reg_modTile (t : Fin 4) (f : Tile → Tile) (b : Nat) : (s.modTile t f).reg b = s.reg b := rfl
@[simp] theorem State.reg_setEng (e : Fin 46) (x : Engine) (b : Nat) : (s.setEng e x).reg b = s.reg b := rfl
@[simp] theorem State.reg_modEng (e : Fin 46) (f : Engine → Engine) (b : Nat) : (s.modEng e f).reg b = s.reg b := rfl
@[simp] theorem State.reg_setCab (c : Fin 4) (x : Cabinet) (b : Nat) : (s.setCab c x).reg b = s.reg b := rfl
@[simp] theorem State.reg_modCab (c : Fin 4) (f : Cabinet → Cabinet) (b : Nat) : (s.modCab c f).reg b = s.reg b := rfl
@[simp] theorem State.reg_modRing (c : Fin 4) (n : Fin 16) (f : Ring → Ring) (b : Nat) : (s.modRing c n f).reg b = s.reg b := rfl
@[simp] theorem State.reg_modEnc (n : Fin 16) (f : Encoder → Encoder) (b : Nat) : (s.modEnc n f).reg b = s.reg b := rfl
@[simp] theorem State.reg_modVm (v : Fin 8) (f : VMaster → VMaster) (b : Nat) : (s.modVm v f).reg b = s.reg b := rfl
@[simp] theorem State.reg_modNet (f : Net → Net) (b : Nat) : (s.modNet f).reg b = s.reg b := rfl
@[simp] theorem State.reg_modRec (f : Recorder → Recorder) (b : Nat) : (s.modRec f).reg b = s.reg b := rfl
@[simp] theorem State.reg_modDev (f : Device → Device) (b : Nat) : (s.modDev f).reg b = s.reg b := rfl
@[simp] theorem State.reg_setNow (t : Nat) (b : Nat) : (s.setNow t).reg b = s.reg b := rfl
@[simp] theorem State.reg_setLate (l : List (Nat × Word)) (b : Nat) : (s.setLate l).reg b = s.reg b := rfl
@[simp] theorem State.reg_setWritten (l : List Nat) (b : Nat) : (s.setWritten l).reg b = s.reg b := rfl
@[simp] theorem State.reg_setHeld (l : List HeldHi) (b : Nat) : (s.setHeld l).reg b = s.reg b := rfl
@[simp] theorem State.reg_emit (o : Out) (b : Nat) : (s.emit o).reg b = s.reg b := rfl
@[simp] theorem State.reg_reach (t : Nat) (b : Nat) : (s.reach t).reg b = s.reg b := rfl
@[simp] theorem State.reg_fresh (b : Nat) : s.fresh.reg b = s.reg b := rfl

@[simp] theorem State.force_setReg (a : Nat) (v : Word) (b : Nat) : (s.setReg a v).force b = s.force b := rfl
@[simp] theorem State.force_setFld (a : Nat) (f : Fld) (x : Nat) (b : Nat) : (s.setFld a f x).force b = s.force b := rfl
@[simp] theorem State.force_setBit (a : Nat) (f : Fld) (y : Bool) (b : Nat) : (s.setBit a f y).force b = s.force b := rfl
@[simp] theorem State.force_setFldI (a : Nat) (f : Fld) (x : Int) (b : Nat) : (s.setFldI a f x).force b = s.force b := rfl
@[simp] theorem State.force_countN (a : Nat) (f : Fld) (n : Nat) (b : Nat) : (s.countN a f n).force b = s.force b := rfl
@[simp] theorem State.force_count (a : Nat) (f : Fld) (b : Nat) : (s.count a f).force b = s.force b := rfl
@[simp] theorem State.force_setPair (a : Nat) (x : Int) (b : Nat) : (s.setPair a x).force b = s.force b := rfl
@[simp] theorem State.force_setAxis (a : Fin 32) (x : Axis) (b : Nat) : (s.setAxis a x).force b = s.force b := rfl
@[simp] theorem State.force_modAxis (a : Fin 32) (f : Axis → Axis) (b : Nat) : (s.modAxis a f).force b = s.force b := rfl
@[simp] theorem State.force_setPort (p : Fin 64) (x : Port) (b : Nat) : (s.setPort p x).force b = s.force b := rfl
@[simp] theorem State.force_modPort (p : Fin 64) (f : Port → Port) (b : Nat) : (s.modPort p f).force b = s.force b := rfl
@[simp] theorem State.force_modLoop (p : Fin 64) (f : Loop → Loop) (b : Nat) : (s.modLoop p f).force b = s.force b := rfl
@[simp] theorem State.force_modPwm (p : Fin 64) (f : Pwm → Pwm) (b : Nat) : (s.modPwm p f).force b = s.force b := rfl
@[simp] theorem State.force_modGd (p : Fin 64) (f : GateDrive → GateDrive) (b : Nat) : (s.modGd p f).force b = s.force b := rfl
@[simp] theorem State.force_setTile (t : Fin 4) (x : Tile) (b : Nat) : (s.setTile t x).force b = s.force b := rfl
@[simp] theorem State.force_modTile (t : Fin 4) (f : Tile → Tile) (b : Nat) : (s.modTile t f).force b = s.force b := rfl
@[simp] theorem State.force_setEng (e : Fin 46) (x : Engine) (b : Nat) : (s.setEng e x).force b = s.force b := rfl
@[simp] theorem State.force_modEng (e : Fin 46) (f : Engine → Engine) (b : Nat) : (s.modEng e f).force b = s.force b := rfl
@[simp] theorem State.force_setCab (c : Fin 4) (x : Cabinet) (b : Nat) : (s.setCab c x).force b = s.force b := rfl
@[simp] theorem State.force_modCab (c : Fin 4) (f : Cabinet → Cabinet) (b : Nat) : (s.modCab c f).force b = s.force b := rfl
@[simp] theorem State.force_modRing (c : Fin 4) (n : Fin 16) (f : Ring → Ring) (b : Nat) : (s.modRing c n f).force b = s.force b := rfl
@[simp] theorem State.force_modEnc (n : Fin 16) (f : Encoder → Encoder) (b : Nat) : (s.modEnc n f).force b = s.force b := rfl
@[simp] theorem State.force_modVm (v : Fin 8) (f : VMaster → VMaster) (b : Nat) : (s.modVm v f).force b = s.force b := rfl
@[simp] theorem State.force_modNet (f : Net → Net) (b : Nat) : (s.modNet f).force b = s.force b := rfl
@[simp] theorem State.force_modRec (f : Recorder → Recorder) (b : Nat) : (s.modRec f).force b = s.force b := rfl
@[simp] theorem State.force_modDev (f : Device → Device) (b : Nat) : (s.modDev f).force b = s.force b := rfl
@[simp] theorem State.force_setNow (t : Nat) (b : Nat) : (s.setNow t).force b = s.force b := rfl
@[simp] theorem State.force_setLate (l : List (Nat × Word)) (b : Nat) : (s.setLate l).force b = s.force b := rfl
@[simp] theorem State.force_setWritten (l : List Nat) (b : Nat) : (s.setWritten l).force b = s.force b := rfl
@[simp] theorem State.force_setHeld (l : List HeldHi) (b : Nat) : (s.setHeld l).force b = s.force b := rfl
@[simp] theorem State.force_emit (o : Out) (b : Nat) : (s.emit o).force b = s.force b := rfl
@[simp] theorem State.force_reach (t : Nat) (b : Nat) : (s.reach t).force b = s.force b := rfl
@[simp] theorem State.force_fresh (b : Nat) : s.fresh.force b = s.force b := rfl

@[simp] theorem State.axis_setReg (a : Nat) (v : Word) (j : Fin 32) : (s.setReg a v).axis j = s.axis j := rfl
@[simp] theorem State.axis_setForce (a : Nat) (v : Word) (j : Fin 32) : (s.setForce a v).axis j = s.axis j := rfl
@[simp] theorem State.axis_setFld (a : Nat) (f : Fld) (x : Nat) (j : Fin 32) : (s.setFld a f x).axis j = s.axis j := rfl
@[simp] theorem State.axis_setBit (a : Nat) (f : Fld) (y : Bool) (j : Fin 32) : (s.setBit a f y).axis j = s.axis j := rfl
@[simp] theorem State.axis_setFldI (a : Nat) (f : Fld) (x : Int) (j : Fin 32) : (s.setFldI a f x).axis j = s.axis j := rfl
@[simp] theorem State.axis_countN (a : Nat) (f : Fld) (n : Nat) (j : Fin 32) : (s.countN a f n).axis j = s.axis j := rfl
@[simp] theorem State.axis_count (a : Nat) (f : Fld) (j : Fin 32) : (s.count a f).axis j = s.axis j := rfl
@[simp] theorem State.axis_setPair (a : Nat) (x : Int) (j : Fin 32) : (s.setPair a x).axis j = s.axis j := rfl
@[simp] theorem State.axis_setPort (p : Fin 64) (x : Port) (j : Fin 32) : (s.setPort p x).axis j = s.axis j := rfl
@[simp] theorem State.axis_modPort (p : Fin 64) (f : Port → Port) (j : Fin 32) : (s.modPort p f).axis j = s.axis j := rfl
@[simp] theorem State.axis_modLoop (p : Fin 64) (f : Loop → Loop) (j : Fin 32) : (s.modLoop p f).axis j = s.axis j := rfl
@[simp] theorem State.axis_modPwm (p : Fin 64) (f : Pwm → Pwm) (j : Fin 32) : (s.modPwm p f).axis j = s.axis j := rfl
@[simp] theorem State.axis_modGd (p : Fin 64) (f : GateDrive → GateDrive) (j : Fin 32) : (s.modGd p f).axis j = s.axis j := rfl
@[simp] theorem State.axis_setTile (t : Fin 4) (x : Tile) (j : Fin 32) : (s.setTile t x).axis j = s.axis j := rfl
@[simp] theorem State.axis_modTile (t : Fin 4) (f : Tile → Tile) (j : Fin 32) : (s.modTile t f).axis j = s.axis j := rfl
@[simp] theorem State.axis_setEng (e : Fin 46) (x : Engine) (j : Fin 32) : (s.setEng e x).axis j = s.axis j := rfl
@[simp] theorem State.axis_modEng (e : Fin 46) (f : Engine → Engine) (j : Fin 32) : (s.modEng e f).axis j = s.axis j := rfl
@[simp] theorem State.axis_setCab (c : Fin 4) (x : Cabinet) (j : Fin 32) : (s.setCab c x).axis j = s.axis j := rfl
@[simp] theorem State.axis_modCab (c : Fin 4) (f : Cabinet → Cabinet) (j : Fin 32) : (s.modCab c f).axis j = s.axis j := rfl
@[simp] theorem State.axis_modRing (c : Fin 4) (n : Fin 16) (f : Ring → Ring) (j : Fin 32) : (s.modRing c n f).axis j = s.axis j := rfl
@[simp] theorem State.axis_modEnc (n : Fin 16) (f : Encoder → Encoder) (j : Fin 32) : (s.modEnc n f).axis j = s.axis j := rfl
@[simp] theorem State.axis_modVm (v : Fin 8) (f : VMaster → VMaster) (j : Fin 32) : (s.modVm v f).axis j = s.axis j := rfl
@[simp] theorem State.axis_modNet (f : Net → Net) (j : Fin 32) : (s.modNet f).axis j = s.axis j := rfl
@[simp] theorem State.axis_modRec (f : Recorder → Recorder) (j : Fin 32) : (s.modRec f).axis j = s.axis j := rfl
@[simp] theorem State.axis_modDev (f : Device → Device) (j : Fin 32) : (s.modDev f).axis j = s.axis j := rfl
@[simp] theorem State.axis_setNow (t : Nat) (j : Fin 32) : (s.setNow t).axis j = s.axis j := rfl
@[simp] theorem State.axis_setLate (l : List (Nat × Word)) (j : Fin 32) : (s.setLate l).axis j = s.axis j := rfl
@[simp] theorem State.axis_setWritten (l : List Nat) (j : Fin 32) : (s.setWritten l).axis j = s.axis j := rfl
@[simp] theorem State.axis_setHeld (l : List HeldHi) (j : Fin 32) : (s.setHeld l).axis j = s.axis j := rfl
@[simp] theorem State.axis_emit (o : Out) (j : Fin 32) : (s.emit o).axis j = s.axis j := rfl
@[simp] theorem State.axis_reach (t : Nat) (j : Fin 32) : (s.reach t).axis j = s.axis j := rfl
@[simp] theorem State.axis_fresh (j : Fin 32) : s.fresh.axis j = s.axis j := rfl

@[simp] theorem State.port_setReg (a : Nat) (v : Word) (j : Fin 64) : (s.setReg a v).port j = s.port j := rfl
@[simp] theorem State.port_setForce (a : Nat) (v : Word) (j : Fin 64) : (s.setForce a v).port j = s.port j := rfl
@[simp] theorem State.port_setFld (a : Nat) (f : Fld) (x : Nat) (j : Fin 64) : (s.setFld a f x).port j = s.port j := rfl
@[simp] theorem State.port_setBit (a : Nat) (f : Fld) (y : Bool) (j : Fin 64) : (s.setBit a f y).port j = s.port j := rfl
@[simp] theorem State.port_setFldI (a : Nat) (f : Fld) (x : Int) (j : Fin 64) : (s.setFldI a f x).port j = s.port j := rfl
@[simp] theorem State.port_countN (a : Nat) (f : Fld) (n : Nat) (j : Fin 64) : (s.countN a f n).port j = s.port j := rfl
@[simp] theorem State.port_count (a : Nat) (f : Fld) (j : Fin 64) : (s.count a f).port j = s.port j := rfl
@[simp] theorem State.port_setPair (a : Nat) (x : Int) (j : Fin 64) : (s.setPair a x).port j = s.port j := rfl
@[simp] theorem State.port_setAxis (a : Fin 32) (x : Axis) (j : Fin 64) : (s.setAxis a x).port j = s.port j := rfl
@[simp] theorem State.port_modAxis (a : Fin 32) (f : Axis → Axis) (j : Fin 64) : (s.modAxis a f).port j = s.port j := rfl
@[simp] theorem State.port_setTile (t : Fin 4) (x : Tile) (j : Fin 64) : (s.setTile t x).port j = s.port j := rfl
@[simp] theorem State.port_modTile (t : Fin 4) (f : Tile → Tile) (j : Fin 64) : (s.modTile t f).port j = s.port j := rfl
@[simp] theorem State.port_setEng (e : Fin 46) (x : Engine) (j : Fin 64) : (s.setEng e x).port j = s.port j := rfl
@[simp] theorem State.port_modEng (e : Fin 46) (f : Engine → Engine) (j : Fin 64) : (s.modEng e f).port j = s.port j := rfl
@[simp] theorem State.port_setCab (c : Fin 4) (x : Cabinet) (j : Fin 64) : (s.setCab c x).port j = s.port j := rfl
@[simp] theorem State.port_modCab (c : Fin 4) (f : Cabinet → Cabinet) (j : Fin 64) : (s.modCab c f).port j = s.port j := rfl
@[simp] theorem State.port_modRing (c : Fin 4) (n : Fin 16) (f : Ring → Ring) (j : Fin 64) : (s.modRing c n f).port j = s.port j := rfl
@[simp] theorem State.port_modEnc (n : Fin 16) (f : Encoder → Encoder) (j : Fin 64) : (s.modEnc n f).port j = s.port j := rfl
@[simp] theorem State.port_modVm (v : Fin 8) (f : VMaster → VMaster) (j : Fin 64) : (s.modVm v f).port j = s.port j := rfl
@[simp] theorem State.port_modNet (f : Net → Net) (j : Fin 64) : (s.modNet f).port j = s.port j := rfl
@[simp] theorem State.port_modRec (f : Recorder → Recorder) (j : Fin 64) : (s.modRec f).port j = s.port j := rfl
@[simp] theorem State.port_modDev (f : Device → Device) (j : Fin 64) : (s.modDev f).port j = s.port j := rfl
@[simp] theorem State.port_setNow (t : Nat) (j : Fin 64) : (s.setNow t).port j = s.port j := rfl
@[simp] theorem State.port_setLate (l : List (Nat × Word)) (j : Fin 64) : (s.setLate l).port j = s.port j := rfl
@[simp] theorem State.port_setWritten (l : List Nat) (j : Fin 64) : (s.setWritten l).port j = s.port j := rfl
@[simp] theorem State.port_setHeld (l : List HeldHi) (j : Fin 64) : (s.setHeld l).port j = s.port j := rfl
@[simp] theorem State.port_emit (o : Out) (j : Fin 64) : (s.emit o).port j = s.port j := rfl
@[simp] theorem State.port_reach (t : Nat) (j : Fin 64) : (s.reach t).port j = s.port j := rfl
@[simp] theorem State.port_fresh (j : Fin 64) : s.fresh.port j = s.port j := rfl

@[simp] theorem State.tile_setReg (a : Nat) (v : Word) (j : Fin 4) : (s.setReg a v).tile j = s.tile j := rfl
@[simp] theorem State.tile_setForce (a : Nat) (v : Word) (j : Fin 4) : (s.setForce a v).tile j = s.tile j := rfl
@[simp] theorem State.tile_setFld (a : Nat) (f : Fld) (x : Nat) (j : Fin 4) : (s.setFld a f x).tile j = s.tile j := rfl
@[simp] theorem State.tile_setBit (a : Nat) (f : Fld) (y : Bool) (j : Fin 4) : (s.setBit a f y).tile j = s.tile j := rfl
@[simp] theorem State.tile_setFldI (a : Nat) (f : Fld) (x : Int) (j : Fin 4) : (s.setFldI a f x).tile j = s.tile j := rfl
@[simp] theorem State.tile_countN (a : Nat) (f : Fld) (n : Nat) (j : Fin 4) : (s.countN a f n).tile j = s.tile j := rfl
@[simp] theorem State.tile_count (a : Nat) (f : Fld) (j : Fin 4) : (s.count a f).tile j = s.tile j := rfl
@[simp] theorem State.tile_setPair (a : Nat) (x : Int) (j : Fin 4) : (s.setPair a x).tile j = s.tile j := rfl
@[simp] theorem State.tile_setAxis (a : Fin 32) (x : Axis) (j : Fin 4) : (s.setAxis a x).tile j = s.tile j := rfl
@[simp] theorem State.tile_modAxis (a : Fin 32) (f : Axis → Axis) (j : Fin 4) : (s.modAxis a f).tile j = s.tile j := rfl
@[simp] theorem State.tile_setPort (p : Fin 64) (x : Port) (j : Fin 4) : (s.setPort p x).tile j = s.tile j := rfl
@[simp] theorem State.tile_modPort (p : Fin 64) (f : Port → Port) (j : Fin 4) : (s.modPort p f).tile j = s.tile j := rfl
@[simp] theorem State.tile_modLoop (p : Fin 64) (f : Loop → Loop) (j : Fin 4) : (s.modLoop p f).tile j = s.tile j := rfl
@[simp] theorem State.tile_modPwm (p : Fin 64) (f : Pwm → Pwm) (j : Fin 4) : (s.modPwm p f).tile j = s.tile j := rfl
@[simp] theorem State.tile_modGd (p : Fin 64) (f : GateDrive → GateDrive) (j : Fin 4) : (s.modGd p f).tile j = s.tile j := rfl
@[simp] theorem State.tile_setEng (e : Fin 46) (x : Engine) (j : Fin 4) : (s.setEng e x).tile j = s.tile j := rfl
@[simp] theorem State.tile_modEng (e : Fin 46) (f : Engine → Engine) (j : Fin 4) : (s.modEng e f).tile j = s.tile j := rfl
@[simp] theorem State.tile_setCab (c : Fin 4) (x : Cabinet) (j : Fin 4) : (s.setCab c x).tile j = s.tile j := rfl
@[simp] theorem State.tile_modCab (c : Fin 4) (f : Cabinet → Cabinet) (j : Fin 4) : (s.modCab c f).tile j = s.tile j := rfl
@[simp] theorem State.tile_modRing (c : Fin 4) (n : Fin 16) (f : Ring → Ring) (j : Fin 4) : (s.modRing c n f).tile j = s.tile j := rfl
@[simp] theorem State.tile_modEnc (n : Fin 16) (f : Encoder → Encoder) (j : Fin 4) : (s.modEnc n f).tile j = s.tile j := rfl
@[simp] theorem State.tile_modVm (v : Fin 8) (f : VMaster → VMaster) (j : Fin 4) : (s.modVm v f).tile j = s.tile j := rfl
@[simp] theorem State.tile_modNet (f : Net → Net) (j : Fin 4) : (s.modNet f).tile j = s.tile j := rfl
@[simp] theorem State.tile_modRec (f : Recorder → Recorder) (j : Fin 4) : (s.modRec f).tile j = s.tile j := rfl
@[simp] theorem State.tile_modDev (f : Device → Device) (j : Fin 4) : (s.modDev f).tile j = s.tile j := rfl
@[simp] theorem State.tile_setNow (t : Nat) (j : Fin 4) : (s.setNow t).tile j = s.tile j := rfl
@[simp] theorem State.tile_setLate (l : List (Nat × Word)) (j : Fin 4) : (s.setLate l).tile j = s.tile j := rfl
@[simp] theorem State.tile_setWritten (l : List Nat) (j : Fin 4) : (s.setWritten l).tile j = s.tile j := rfl
@[simp] theorem State.tile_setHeld (l : List HeldHi) (j : Fin 4) : (s.setHeld l).tile j = s.tile j := rfl
@[simp] theorem State.tile_emit (o : Out) (j : Fin 4) : (s.emit o).tile j = s.tile j := rfl
@[simp] theorem State.tile_reach (t : Nat) (j : Fin 4) : (s.reach t).tile j = s.tile j := rfl
@[simp] theorem State.tile_fresh (j : Fin 4) : s.fresh.tile j = s.tile j := rfl

@[simp] theorem State.eng_setReg (a : Nat) (v : Word) (j : Fin 46) : (s.setReg a v).eng j = s.eng j := rfl
@[simp] theorem State.eng_setForce (a : Nat) (v : Word) (j : Fin 46) : (s.setForce a v).eng j = s.eng j := rfl
@[simp] theorem State.eng_setFld (a : Nat) (f : Fld) (x : Nat) (j : Fin 46) : (s.setFld a f x).eng j = s.eng j := rfl
@[simp] theorem State.eng_setBit (a : Nat) (f : Fld) (y : Bool) (j : Fin 46) : (s.setBit a f y).eng j = s.eng j := rfl
@[simp] theorem State.eng_setFldI (a : Nat) (f : Fld) (x : Int) (j : Fin 46) : (s.setFldI a f x).eng j = s.eng j := rfl
@[simp] theorem State.eng_countN (a : Nat) (f : Fld) (n : Nat) (j : Fin 46) : (s.countN a f n).eng j = s.eng j := rfl
@[simp] theorem State.eng_count (a : Nat) (f : Fld) (j : Fin 46) : (s.count a f).eng j = s.eng j := rfl
@[simp] theorem State.eng_setPair (a : Nat) (x : Int) (j : Fin 46) : (s.setPair a x).eng j = s.eng j := rfl
@[simp] theorem State.eng_setAxis (a : Fin 32) (x : Axis) (j : Fin 46) : (s.setAxis a x).eng j = s.eng j := rfl
@[simp] theorem State.eng_modAxis (a : Fin 32) (f : Axis → Axis) (j : Fin 46) : (s.modAxis a f).eng j = s.eng j := rfl
@[simp] theorem State.eng_setPort (p : Fin 64) (x : Port) (j : Fin 46) : (s.setPort p x).eng j = s.eng j := rfl
@[simp] theorem State.eng_modPort (p : Fin 64) (f : Port → Port) (j : Fin 46) : (s.modPort p f).eng j = s.eng j := rfl
@[simp] theorem State.eng_modLoop (p : Fin 64) (f : Loop → Loop) (j : Fin 46) : (s.modLoop p f).eng j = s.eng j := rfl
@[simp] theorem State.eng_modPwm (p : Fin 64) (f : Pwm → Pwm) (j : Fin 46) : (s.modPwm p f).eng j = s.eng j := rfl
@[simp] theorem State.eng_modGd (p : Fin 64) (f : GateDrive → GateDrive) (j : Fin 46) : (s.modGd p f).eng j = s.eng j := rfl
@[simp] theorem State.eng_setTile (t : Fin 4) (x : Tile) (j : Fin 46) : (s.setTile t x).eng j = s.eng j := rfl
@[simp] theorem State.eng_modTile (t : Fin 4) (f : Tile → Tile) (j : Fin 46) : (s.modTile t f).eng j = s.eng j := rfl
@[simp] theorem State.eng_setCab (c : Fin 4) (x : Cabinet) (j : Fin 46) : (s.setCab c x).eng j = s.eng j := rfl
@[simp] theorem State.eng_modCab (c : Fin 4) (f : Cabinet → Cabinet) (j : Fin 46) : (s.modCab c f).eng j = s.eng j := rfl
@[simp] theorem State.eng_modRing (c : Fin 4) (n : Fin 16) (f : Ring → Ring) (j : Fin 46) : (s.modRing c n f).eng j = s.eng j := rfl
@[simp] theorem State.eng_modEnc (n : Fin 16) (f : Encoder → Encoder) (j : Fin 46) : (s.modEnc n f).eng j = s.eng j := rfl
@[simp] theorem State.eng_modVm (v : Fin 8) (f : VMaster → VMaster) (j : Fin 46) : (s.modVm v f).eng j = s.eng j := rfl
@[simp] theorem State.eng_modNet (f : Net → Net) (j : Fin 46) : (s.modNet f).eng j = s.eng j := rfl
@[simp] theorem State.eng_modRec (f : Recorder → Recorder) (j : Fin 46) : (s.modRec f).eng j = s.eng j := rfl
@[simp] theorem State.eng_modDev (f : Device → Device) (j : Fin 46) : (s.modDev f).eng j = s.eng j := rfl
@[simp] theorem State.eng_setNow (t : Nat) (j : Fin 46) : (s.setNow t).eng j = s.eng j := rfl
@[simp] theorem State.eng_setLate (l : List (Nat × Word)) (j : Fin 46) : (s.setLate l).eng j = s.eng j := rfl
@[simp] theorem State.eng_setWritten (l : List Nat) (j : Fin 46) : (s.setWritten l).eng j = s.eng j := rfl
@[simp] theorem State.eng_setHeld (l : List HeldHi) (j : Fin 46) : (s.setHeld l).eng j = s.eng j := rfl
@[simp] theorem State.eng_emit (o : Out) (j : Fin 46) : (s.emit o).eng j = s.eng j := rfl
@[simp] theorem State.eng_reach (t : Nat) (j : Fin 46) : (s.reach t).eng j = s.eng j := rfl
@[simp] theorem State.eng_fresh (j : Fin 46) : s.fresh.eng j = s.eng j := rfl

@[simp] theorem State.cab_setReg (a : Nat) (v : Word) (j : Fin 4) : (s.setReg a v).cab j = s.cab j := rfl
@[simp] theorem State.cab_setForce (a : Nat) (v : Word) (j : Fin 4) : (s.setForce a v).cab j = s.cab j := rfl
@[simp] theorem State.cab_setFld (a : Nat) (f : Fld) (x : Nat) (j : Fin 4) : (s.setFld a f x).cab j = s.cab j := rfl
@[simp] theorem State.cab_setBit (a : Nat) (f : Fld) (y : Bool) (j : Fin 4) : (s.setBit a f y).cab j = s.cab j := rfl
@[simp] theorem State.cab_setFldI (a : Nat) (f : Fld) (x : Int) (j : Fin 4) : (s.setFldI a f x).cab j = s.cab j := rfl
@[simp] theorem State.cab_countN (a : Nat) (f : Fld) (n : Nat) (j : Fin 4) : (s.countN a f n).cab j = s.cab j := rfl
@[simp] theorem State.cab_count (a : Nat) (f : Fld) (j : Fin 4) : (s.count a f).cab j = s.cab j := rfl
@[simp] theorem State.cab_setPair (a : Nat) (x : Int) (j : Fin 4) : (s.setPair a x).cab j = s.cab j := rfl
@[simp] theorem State.cab_setAxis (a : Fin 32) (x : Axis) (j : Fin 4) : (s.setAxis a x).cab j = s.cab j := rfl
@[simp] theorem State.cab_modAxis (a : Fin 32) (f : Axis → Axis) (j : Fin 4) : (s.modAxis a f).cab j = s.cab j := rfl
@[simp] theorem State.cab_setPort (p : Fin 64) (x : Port) (j : Fin 4) : (s.setPort p x).cab j = s.cab j := rfl
@[simp] theorem State.cab_modPort (p : Fin 64) (f : Port → Port) (j : Fin 4) : (s.modPort p f).cab j = s.cab j := rfl
@[simp] theorem State.cab_modLoop (p : Fin 64) (f : Loop → Loop) (j : Fin 4) : (s.modLoop p f).cab j = s.cab j := rfl
@[simp] theorem State.cab_modPwm (p : Fin 64) (f : Pwm → Pwm) (j : Fin 4) : (s.modPwm p f).cab j = s.cab j := rfl
@[simp] theorem State.cab_modGd (p : Fin 64) (f : GateDrive → GateDrive) (j : Fin 4) : (s.modGd p f).cab j = s.cab j := rfl
@[simp] theorem State.cab_setTile (t : Fin 4) (x : Tile) (j : Fin 4) : (s.setTile t x).cab j = s.cab j := rfl
@[simp] theorem State.cab_modTile (t : Fin 4) (f : Tile → Tile) (j : Fin 4) : (s.modTile t f).cab j = s.cab j := rfl
@[simp] theorem State.cab_setEng (e : Fin 46) (x : Engine) (j : Fin 4) : (s.setEng e x).cab j = s.cab j := rfl
@[simp] theorem State.cab_modEng (e : Fin 46) (f : Engine → Engine) (j : Fin 4) : (s.modEng e f).cab j = s.cab j := rfl
@[simp] theorem State.cab_modEnc (n : Fin 16) (f : Encoder → Encoder) (j : Fin 4) : (s.modEnc n f).cab j = s.cab j := rfl
@[simp] theorem State.cab_modVm (v : Fin 8) (f : VMaster → VMaster) (j : Fin 4) : (s.modVm v f).cab j = s.cab j := rfl
@[simp] theorem State.cab_modNet (f : Net → Net) (j : Fin 4) : (s.modNet f).cab j = s.cab j := rfl
@[simp] theorem State.cab_modRec (f : Recorder → Recorder) (j : Fin 4) : (s.modRec f).cab j = s.cab j := rfl
@[simp] theorem State.cab_modDev (f : Device → Device) (j : Fin 4) : (s.modDev f).cab j = s.cab j := rfl
@[simp] theorem State.cab_setNow (t : Nat) (j : Fin 4) : (s.setNow t).cab j = s.cab j := rfl
@[simp] theorem State.cab_setLate (l : List (Nat × Word)) (j : Fin 4) : (s.setLate l).cab j = s.cab j := rfl
@[simp] theorem State.cab_setWritten (l : List Nat) (j : Fin 4) : (s.setWritten l).cab j = s.cab j := rfl
@[simp] theorem State.cab_setHeld (l : List HeldHi) (j : Fin 4) : (s.setHeld l).cab j = s.cab j := rfl
@[simp] theorem State.cab_emit (o : Out) (j : Fin 4) : (s.emit o).cab j = s.cab j := rfl
@[simp] theorem State.cab_reach (t : Nat) (j : Fin 4) : (s.reach t).cab j = s.cab j := rfl
@[simp] theorem State.cab_fresh (j : Fin 4) : s.fresh.cab j = s.cab j := rfl

@[simp] theorem State.fld_setForce (a : Nat) (v : Word) (b : Nat) (g : Fld) : (s.setForce a v).fld b g = s.fld b g := rfl
@[simp] theorem State.fld_setAxis (a : Fin 32) (x : Axis) (b : Nat) (g : Fld) : (s.setAxis a x).fld b g = s.fld b g := rfl
@[simp] theorem State.fld_modAxis (a : Fin 32) (f : Axis → Axis) (b : Nat) (g : Fld) : (s.modAxis a f).fld b g = s.fld b g := rfl
@[simp] theorem State.fld_setPort (p : Fin 64) (x : Port) (b : Nat) (g : Fld) : (s.setPort p x).fld b g = s.fld b g := rfl
@[simp] theorem State.fld_modPort (p : Fin 64) (f : Port → Port) (b : Nat) (g : Fld) : (s.modPort p f).fld b g = s.fld b g := rfl
@[simp] theorem State.fld_modLoop (p : Fin 64) (f : Loop → Loop) (b : Nat) (g : Fld) : (s.modLoop p f).fld b g = s.fld b g := rfl
@[simp] theorem State.fld_modPwm (p : Fin 64) (f : Pwm → Pwm) (b : Nat) (g : Fld) : (s.modPwm p f).fld b g = s.fld b g := rfl
@[simp] theorem State.fld_modGd (p : Fin 64) (f : GateDrive → GateDrive) (b : Nat) (g : Fld) : (s.modGd p f).fld b g = s.fld b g := rfl
@[simp] theorem State.fld_setTile (t : Fin 4) (x : Tile) (b : Nat) (g : Fld) : (s.setTile t x).fld b g = s.fld b g := rfl
@[simp] theorem State.fld_modTile (t : Fin 4) (f : Tile → Tile) (b : Nat) (g : Fld) : (s.modTile t f).fld b g = s.fld b g := rfl
@[simp] theorem State.fld_setEng (e : Fin 46) (x : Engine) (b : Nat) (g : Fld) : (s.setEng e x).fld b g = s.fld b g := rfl
@[simp] theorem State.fld_modEng (e : Fin 46) (f : Engine → Engine) (b : Nat) (g : Fld) : (s.modEng e f).fld b g = s.fld b g := rfl
@[simp] theorem State.fld_setCab (c : Fin 4) (x : Cabinet) (b : Nat) (g : Fld) : (s.setCab c x).fld b g = s.fld b g := rfl
@[simp] theorem State.fld_modCab (c : Fin 4) (f : Cabinet → Cabinet) (b : Nat) (g : Fld) : (s.modCab c f).fld b g = s.fld b g := rfl
@[simp] theorem State.fld_modRing (c : Fin 4) (n : Fin 16) (f : Ring → Ring) (b : Nat) (g : Fld) : (s.modRing c n f).fld b g = s.fld b g := rfl
@[simp] theorem State.fld_modEnc (n : Fin 16) (f : Encoder → Encoder) (b : Nat) (g : Fld) : (s.modEnc n f).fld b g = s.fld b g := rfl
@[simp] theorem State.fld_modVm (v : Fin 8) (f : VMaster → VMaster) (b : Nat) (g : Fld) : (s.modVm v f).fld b g = s.fld b g := rfl
@[simp] theorem State.fld_modNet (f : Net → Net) (b : Nat) (g : Fld) : (s.modNet f).fld b g = s.fld b g := rfl
@[simp] theorem State.fld_modRec (f : Recorder → Recorder) (b : Nat) (g : Fld) : (s.modRec f).fld b g = s.fld b g := rfl
@[simp] theorem State.fld_modDev (f : Device → Device) (b : Nat) (g : Fld) : (s.modDev f).fld b g = s.fld b g := rfl
@[simp] theorem State.fld_setNow (t : Nat) (b : Nat) (g : Fld) : (s.setNow t).fld b g = s.fld b g := rfl
@[simp] theorem State.fld_setLate (l : List (Nat × Word)) (b : Nat) (g : Fld) : (s.setLate l).fld b g = s.fld b g := rfl
@[simp] theorem State.fld_setWritten (l : List Nat) (b : Nat) (g : Fld) : (s.setWritten l).fld b g = s.fld b g := rfl
@[simp] theorem State.fld_setHeld (l : List HeldHi) (b : Nat) (g : Fld) : (s.setHeld l).fld b g = s.fld b g := rfl
@[simp] theorem State.fld_emit (o : Out) (b : Nat) (g : Fld) : (s.emit o).fld b g = s.fld b g := rfl
@[simp] theorem State.fld_reach (t : Nat) (b : Nat) (g : Fld) : (s.reach t).fld b g = s.fld b g := rfl
@[simp] theorem State.fld_fresh (b : Nat) (g : Fld) : s.fresh.fld b g = s.fld b g := rfl

@[simp] theorem State.bit_setForce (a : Nat) (v : Word) (b : Nat) (g : Fld) : (s.setForce a v).bit b g = s.bit b g := rfl
@[simp] theorem State.bit_setAxis (a : Fin 32) (x : Axis) (b : Nat) (g : Fld) : (s.setAxis a x).bit b g = s.bit b g := rfl
@[simp] theorem State.bit_modAxis (a : Fin 32) (f : Axis → Axis) (b : Nat) (g : Fld) : (s.modAxis a f).bit b g = s.bit b g := rfl
@[simp] theorem State.bit_setPort (p : Fin 64) (x : Port) (b : Nat) (g : Fld) : (s.setPort p x).bit b g = s.bit b g := rfl
@[simp] theorem State.bit_modPort (p : Fin 64) (f : Port → Port) (b : Nat) (g : Fld) : (s.modPort p f).bit b g = s.bit b g := rfl
@[simp] theorem State.bit_modLoop (p : Fin 64) (f : Loop → Loop) (b : Nat) (g : Fld) : (s.modLoop p f).bit b g = s.bit b g := rfl
@[simp] theorem State.bit_modPwm (p : Fin 64) (f : Pwm → Pwm) (b : Nat) (g : Fld) : (s.modPwm p f).bit b g = s.bit b g := rfl
@[simp] theorem State.bit_modGd (p : Fin 64) (f : GateDrive → GateDrive) (b : Nat) (g : Fld) : (s.modGd p f).bit b g = s.bit b g := rfl
@[simp] theorem State.bit_setTile (t : Fin 4) (x : Tile) (b : Nat) (g : Fld) : (s.setTile t x).bit b g = s.bit b g := rfl
@[simp] theorem State.bit_modTile (t : Fin 4) (f : Tile → Tile) (b : Nat) (g : Fld) : (s.modTile t f).bit b g = s.bit b g := rfl
@[simp] theorem State.bit_setEng (e : Fin 46) (x : Engine) (b : Nat) (g : Fld) : (s.setEng e x).bit b g = s.bit b g := rfl
@[simp] theorem State.bit_modEng (e : Fin 46) (f : Engine → Engine) (b : Nat) (g : Fld) : (s.modEng e f).bit b g = s.bit b g := rfl
@[simp] theorem State.bit_setCab (c : Fin 4) (x : Cabinet) (b : Nat) (g : Fld) : (s.setCab c x).bit b g = s.bit b g := rfl
@[simp] theorem State.bit_modCab (c : Fin 4) (f : Cabinet → Cabinet) (b : Nat) (g : Fld) : (s.modCab c f).bit b g = s.bit b g := rfl
@[simp] theorem State.bit_modRing (c : Fin 4) (n : Fin 16) (f : Ring → Ring) (b : Nat) (g : Fld) : (s.modRing c n f).bit b g = s.bit b g := rfl
@[simp] theorem State.bit_modEnc (n : Fin 16) (f : Encoder → Encoder) (b : Nat) (g : Fld) : (s.modEnc n f).bit b g = s.bit b g := rfl
@[simp] theorem State.bit_modVm (v : Fin 8) (f : VMaster → VMaster) (b : Nat) (g : Fld) : (s.modVm v f).bit b g = s.bit b g := rfl
@[simp] theorem State.bit_modNet (f : Net → Net) (b : Nat) (g : Fld) : (s.modNet f).bit b g = s.bit b g := rfl
@[simp] theorem State.bit_modRec (f : Recorder → Recorder) (b : Nat) (g : Fld) : (s.modRec f).bit b g = s.bit b g := rfl
@[simp] theorem State.bit_modDev (f : Device → Device) (b : Nat) (g : Fld) : (s.modDev f).bit b g = s.bit b g := rfl
@[simp] theorem State.bit_setNow (t : Nat) (b : Nat) (g : Fld) : (s.setNow t).bit b g = s.bit b g := rfl
@[simp] theorem State.bit_setLate (l : List (Nat × Word)) (b : Nat) (g : Fld) : (s.setLate l).bit b g = s.bit b g := rfl
@[simp] theorem State.bit_setWritten (l : List Nat) (b : Nat) (g : Fld) : (s.setWritten l).bit b g = s.bit b g := rfl
@[simp] theorem State.bit_setHeld (l : List HeldHi) (b : Nat) (g : Fld) : (s.setHeld l).bit b g = s.bit b g := rfl
@[simp] theorem State.bit_emit (o : Out) (b : Nat) (g : Fld) : (s.emit o).bit b g = s.bit b g := rfl
@[simp] theorem State.bit_reach (t : Nat) (b : Nat) (g : Fld) : (s.reach t).bit b g = s.bit b g := rfl
@[simp] theorem State.bit_fresh (b : Nat) (g : Fld) : s.fresh.bit b g = s.bit b g := rfl

@[simp] theorem State.fldI_setForce (a : Nat) (v : Word) (b : Nat) (g : Fld) : (s.setForce a v).fldI b g = s.fldI b g := rfl
@[simp] theorem State.fldI_setAxis (a : Fin 32) (x : Axis) (b : Nat) (g : Fld) : (s.setAxis a x).fldI b g = s.fldI b g := rfl
@[simp] theorem State.fldI_modAxis (a : Fin 32) (f : Axis → Axis) (b : Nat) (g : Fld) : (s.modAxis a f).fldI b g = s.fldI b g := rfl
@[simp] theorem State.fldI_setPort (p : Fin 64) (x : Port) (b : Nat) (g : Fld) : (s.setPort p x).fldI b g = s.fldI b g := rfl
@[simp] theorem State.fldI_modPort (p : Fin 64) (f : Port → Port) (b : Nat) (g : Fld) : (s.modPort p f).fldI b g = s.fldI b g := rfl
@[simp] theorem State.fldI_modLoop (p : Fin 64) (f : Loop → Loop) (b : Nat) (g : Fld) : (s.modLoop p f).fldI b g = s.fldI b g := rfl
@[simp] theorem State.fldI_modPwm (p : Fin 64) (f : Pwm → Pwm) (b : Nat) (g : Fld) : (s.modPwm p f).fldI b g = s.fldI b g := rfl
@[simp] theorem State.fldI_modGd (p : Fin 64) (f : GateDrive → GateDrive) (b : Nat) (g : Fld) : (s.modGd p f).fldI b g = s.fldI b g := rfl
@[simp] theorem State.fldI_setTile (t : Fin 4) (x : Tile) (b : Nat) (g : Fld) : (s.setTile t x).fldI b g = s.fldI b g := rfl
@[simp] theorem State.fldI_modTile (t : Fin 4) (f : Tile → Tile) (b : Nat) (g : Fld) : (s.modTile t f).fldI b g = s.fldI b g := rfl
@[simp] theorem State.fldI_setEng (e : Fin 46) (x : Engine) (b : Nat) (g : Fld) : (s.setEng e x).fldI b g = s.fldI b g := rfl
@[simp] theorem State.fldI_modEng (e : Fin 46) (f : Engine → Engine) (b : Nat) (g : Fld) : (s.modEng e f).fldI b g = s.fldI b g := rfl
@[simp] theorem State.fldI_setCab (c : Fin 4) (x : Cabinet) (b : Nat) (g : Fld) : (s.setCab c x).fldI b g = s.fldI b g := rfl
@[simp] theorem State.fldI_modCab (c : Fin 4) (f : Cabinet → Cabinet) (b : Nat) (g : Fld) : (s.modCab c f).fldI b g = s.fldI b g := rfl
@[simp] theorem State.fldI_modRing (c : Fin 4) (n : Fin 16) (f : Ring → Ring) (b : Nat) (g : Fld) : (s.modRing c n f).fldI b g = s.fldI b g := rfl
@[simp] theorem State.fldI_modEnc (n : Fin 16) (f : Encoder → Encoder) (b : Nat) (g : Fld) : (s.modEnc n f).fldI b g = s.fldI b g := rfl
@[simp] theorem State.fldI_modVm (v : Fin 8) (f : VMaster → VMaster) (b : Nat) (g : Fld) : (s.modVm v f).fldI b g = s.fldI b g := rfl
@[simp] theorem State.fldI_modNet (f : Net → Net) (b : Nat) (g : Fld) : (s.modNet f).fldI b g = s.fldI b g := rfl
@[simp] theorem State.fldI_modRec (f : Recorder → Recorder) (b : Nat) (g : Fld) : (s.modRec f).fldI b g = s.fldI b g := rfl
@[simp] theorem State.fldI_modDev (f : Device → Device) (b : Nat) (g : Fld) : (s.modDev f).fldI b g = s.fldI b g := rfl
@[simp] theorem State.fldI_setNow (t : Nat) (b : Nat) (g : Fld) : (s.setNow t).fldI b g = s.fldI b g := rfl
@[simp] theorem State.fldI_setLate (l : List (Nat × Word)) (b : Nat) (g : Fld) : (s.setLate l).fldI b g = s.fldI b g := rfl
@[simp] theorem State.fldI_setWritten (l : List Nat) (b : Nat) (g : Fld) : (s.setWritten l).fldI b g = s.fldI b g := rfl
@[simp] theorem State.fldI_setHeld (l : List HeldHi) (b : Nat) (g : Fld) : (s.setHeld l).fldI b g = s.fldI b g := rfl
@[simp] theorem State.fldI_emit (o : Out) (b : Nat) (g : Fld) : (s.emit o).fldI b g = s.fldI b g := rfl
@[simp] theorem State.fldI_reach (t : Nat) (b : Nat) (g : Fld) : (s.reach t).fldI b g = s.fldI b g := rfl
@[simp] theorem State.fldI_fresh (b : Nat) (g : Fld) : s.fresh.fldI b g = s.fldI b g := rfl

@[simp] theorem State.pairI_setForce (a : Nat) (v : Word) (b : Nat) : (s.setForce a v).pairI b = s.pairI b := rfl
@[simp] theorem State.pairI_setAxis (a : Fin 32) (x : Axis) (b : Nat) : (s.setAxis a x).pairI b = s.pairI b := rfl
@[simp] theorem State.pairI_modAxis (a : Fin 32) (f : Axis → Axis) (b : Nat) : (s.modAxis a f).pairI b = s.pairI b := rfl
@[simp] theorem State.pairI_setPort (p : Fin 64) (x : Port) (b : Nat) : (s.setPort p x).pairI b = s.pairI b := rfl
@[simp] theorem State.pairI_modPort (p : Fin 64) (f : Port → Port) (b : Nat) : (s.modPort p f).pairI b = s.pairI b := rfl
@[simp] theorem State.pairI_modLoop (p : Fin 64) (f : Loop → Loop) (b : Nat) : (s.modLoop p f).pairI b = s.pairI b := rfl
@[simp] theorem State.pairI_modPwm (p : Fin 64) (f : Pwm → Pwm) (b : Nat) : (s.modPwm p f).pairI b = s.pairI b := rfl
@[simp] theorem State.pairI_modGd (p : Fin 64) (f : GateDrive → GateDrive) (b : Nat) : (s.modGd p f).pairI b = s.pairI b := rfl
@[simp] theorem State.pairI_setTile (t : Fin 4) (x : Tile) (b : Nat) : (s.setTile t x).pairI b = s.pairI b := rfl
@[simp] theorem State.pairI_modTile (t : Fin 4) (f : Tile → Tile) (b : Nat) : (s.modTile t f).pairI b = s.pairI b := rfl
@[simp] theorem State.pairI_setEng (e : Fin 46) (x : Engine) (b : Nat) : (s.setEng e x).pairI b = s.pairI b := rfl
@[simp] theorem State.pairI_modEng (e : Fin 46) (f : Engine → Engine) (b : Nat) : (s.modEng e f).pairI b = s.pairI b := rfl
@[simp] theorem State.pairI_setCab (c : Fin 4) (x : Cabinet) (b : Nat) : (s.setCab c x).pairI b = s.pairI b := rfl
@[simp] theorem State.pairI_modCab (c : Fin 4) (f : Cabinet → Cabinet) (b : Nat) : (s.modCab c f).pairI b = s.pairI b := rfl
@[simp] theorem State.pairI_modRing (c : Fin 4) (n : Fin 16) (f : Ring → Ring) (b : Nat) : (s.modRing c n f).pairI b = s.pairI b := rfl
@[simp] theorem State.pairI_modEnc (n : Fin 16) (f : Encoder → Encoder) (b : Nat) : (s.modEnc n f).pairI b = s.pairI b := rfl
@[simp] theorem State.pairI_modVm (v : Fin 8) (f : VMaster → VMaster) (b : Nat) : (s.modVm v f).pairI b = s.pairI b := rfl
@[simp] theorem State.pairI_modNet (f : Net → Net) (b : Nat) : (s.modNet f).pairI b = s.pairI b := rfl
@[simp] theorem State.pairI_modRec (f : Recorder → Recorder) (b : Nat) : (s.modRec f).pairI b = s.pairI b := rfl
@[simp] theorem State.pairI_modDev (f : Device → Device) (b : Nat) : (s.modDev f).pairI b = s.pairI b := rfl
@[simp] theorem State.pairI_setNow (t : Nat) (b : Nat) : (s.setNow t).pairI b = s.pairI b := rfl
@[simp] theorem State.pairI_setLate (l : List (Nat × Word)) (b : Nat) : (s.setLate l).pairI b = s.pairI b := rfl
@[simp] theorem State.pairI_setWritten (l : List Nat) (b : Nat) : (s.setWritten l).pairI b = s.pairI b := rfl
@[simp] theorem State.pairI_setHeld (l : List HeldHi) (b : Nat) : (s.setHeld l).pairI b = s.pairI b := rfl
@[simp] theorem State.pairI_emit (o : Out) (b : Nat) : (s.emit o).pairI b = s.pairI b := rfl
@[simp] theorem State.pairI_reach (t : Nat) (b : Nat) : (s.reach t).pairI b = s.pairI b := rfl
@[simp] theorem State.pairI_fresh (b : Nat) : s.fresh.pairI b = s.pairI b := rfl

end Sys2Proof.Machine
end

