-- ==== Sys2Proof/Laws/Field.lean ====
section
/-! SUPPORT. Register fields: what a field reads after it, another field of the register or another register was set. -/

namespace Sys2Proof.Machine

theorem testBit_get (f : Fld) (v : Word) (i : Nat) (h : f.lo + f.width ≤ 32) :
    (f.get v).testBit i = (decide (i < f.width) && v.getLsbD (f.lo + i)) := by
  have hw : 2 ^ f.width - 1 < 2 ^ 32 := by
    have := Nat.pow_le_pow_right (n := 2) (by omega) (show f.width ≤ 32 by omega)
    have := Nat.two_pow_pos f.width
    omega
  simp only [Fld.get, BitVec.toNat_and, BitVec.toNat_ofNat, Nat.mod_eq_of_lt hw, Nat.testBit_and, Nat.testBit_two_pow_sub_one,
    BitVec.toNat_ushiftRight, Nat.testBit_shiftRight, BitVec.getLsbD]
  rw [Bool.and_comm]

theorem getLsbD_mask (f : Fld) (i : Nat) (h : f.lo + f.width ≤ 32) :
    f.mask.getLsbD i = (decide (f.lo ≤ i) && decide (i < f.lo + f.width)) := by
  simp only [Fld.mask, BitVec.getLsbD_shiftLeft, BitVec.getLsbD_ofNat, Nat.testBit_two_pow_sub_one]
  rw [Bool.eq_iff_iff]
  simp only [Bool.and_eq_true, Bool.not_eq_true', decide_eq_true_eq, decide_eq_false_iff_not]
  omega

theorem getLsbD_put (f : Fld) (v : Word) (x i : Nat) (h : f.lo + f.width ≤ 32) :
    (f.put v x).getLsbD i =
      if f.lo ≤ i ∧ i < f.lo + f.width then x.testBit (i - f.lo) else v.getLsbD i := by
  simp only [Fld.put, BitVec.getLsbD_or, BitVec.getLsbD_and, BitVec.getLsbD_not, getLsbD_mask f i h, BitVec.getLsbD_shiftLeft,
    BitVec.getLsbD_ofNat]
  by_cases h1 : f.lo ≤ i ∧ i < f.lo + f.width
  · have h2 : i < 32 := by omega
    have h3 : ¬ i < f.lo := by omega
    have h4 : i - f.lo < 32 := by omega
    simp [h1, h2, h3, h4]
  · have : (decide (f.lo ≤ i) && decide (i < f.lo + f.width)) = false := by simpa using fun a => Nat.not_lt.1 fun b => h1 ⟨a, b⟩
    simp only [this, if_neg h1, Bool.not_false, Bool.and_true, Bool.and_false, Bool.or_false]
    by_cases h2 : i < 32
    · simp [h2]
    · simp [h2, BitVec.getLsbD_of_ge v i (by omega)]

/-- A field reads the low bits of what was put into it. -/
theorem Fld.get_put_same (f : Fld) (v : Word) (x : Nat) (h : f.lo + f.width ≤ 32) : f.get (f.put v x) = x % 2 ^ f.width := by
  apply Nat.eq_of_testBit_eq
  intro i
  rw [testBit_get f _ i h, getLsbD_put f v x _ h, Nat.testBit_mod_two_pow]
  by_cases hi : i < f.width
  · have : f.lo ≤ f.lo + i ∧ f.lo + i < f.lo + f.width := by omega
    simp [hi]
  · simp [hi]

/-- Two fields that share no bit. -/
def Fld.apart (f g : Fld) : Bool := decide (f.lo + f.width ≤ g.lo) || decide (g.lo + g.width ≤ f.lo)

/-- A field reads as before when another field of the word is set. -/
theorem Fld.get_put_other (f g : Fld) (v : Word) (x : Nat) (hf : f.lo + f.width ≤ 32) (hg : g.lo + g.width ≤ 32)
    (h : f.apart g = true) : g.get (f.put v x) = g.get v := by
  apply Nat.eq_of_testBit_eq
  intro i
  rw [testBit_get g _ i hg, testBit_get g v i hg, getLsbD_put f v x _ hf]
  by_cases hi : i < g.width
  · have : ¬ (f.lo ≤ g.lo + i ∧ g.lo + i < f.lo + f.width) := by
      simp only [Fld.apart, Bool.or_eq_true, decide_eq_true_eq] at h
      omega
    simp [this]
  · simp [hi]

/-- A field of a word is less than its width allows. -/
theorem Fld.get_lt (f : Fld) (v : Word) (h : f.lo + f.width ≤ 32) : f.get v < 2 ^ f.width := by
  have hw : 2 ^ f.width - 1 < 2 ^ 32 := by
    have := Nat.pow_le_pow_right (n := 2) (by omega) (show f.width ≤ 32 by omega)
    have := Nat.two_pow_pos f.width
    omega
  have hp := Nat.two_pow_pos f.width
  simp only [Fld.get, BitVec.toNat_and, BitVec.toNat_ofNat, Nat.mod_eq_of_lt hw]
  exact Nat.lt_of_le_of_lt Nat.and_le_right (by omega)

/-! ## Fields of registers -/

theorem State.fld_setFld_same (s : State) (a : Nat) (f : Fld) (x : Nat) (h : f.lo + f.width ≤ 32) :
    (s.setFld a f x).fld a f = x % 2 ^ f.width := by
  simp [State.fld, State.setFld, Fld.get_put_same f _ x h]

theorem State.fld_setFld_other (s : State) (a : Nat) (f g : Fld) (x : Nat) (hf : f.lo + f.width ≤ 32) (hg : g.lo + g.width ≤ 32)
    (h : f.apart g = true) : (s.setFld a f x).fld a g = s.fld a g := by
  simp [State.fld, State.setFld, Fld.get_put_other f g _ x hf hg h]

theorem State.fld_setReg_far (s : State) (a b : Nat) (v : Word) (g : Fld) (h : a ≠ b) : (s.setReg a v).fld b g = s.fld b g := by
  simp [State.fld, State.reg_setReg_other s a b v h]

theorem State.fld_setFld_far (s : State) (a b : Nat) (f g : Fld) (x : Nat) (h : a ≠ b) : (s.setFld a f x).fld b g = s.fld b g :=
  State.fld_setReg_far s a b _ g h

theorem State.reg_setFld_far (s : State) (a b : Nat) (f : Fld) (x : Nat) (h : a ≠ b) : (s.setFld a f x).reg b = s.reg b :=
  State.reg_setReg_other s a b _ h

end Sys2Proof.Machine
end

