-- ==== Sys2Proof/Laws/Keep.lean ====
section
/-! SUPPORT. What every operation keeps: the register files and data memories stay in canonical form, and the queue of waiting
commands is left alone. Here for the named updates; the files beside this one go through the operations of each chapter. -/

namespace Sys2Proof.Machine

/-- What is kept: `wf` asks for the canonical form of the files, `queue` waits in the queue, `sent` has been sent already, and the
counter of free values stands at `ctr` or above; the parts that `fixed` names are those of `base`. -/
structure Kept where
  wf : Prop
  queue : List Instr
  sent : List Out
  ctr : Nat
  fixed : Part → Prop
  base : State

/-- What is kept holds of a state: its files are in canonical form where `wf` asks for it, the queue is untouched, nothing sent is
taken back, no free value is used twice, and the parts that `fixed` names are left alone. -/
def Ok (q : Kept) (s : State) : Prop :=
  (q.wf → s.wf) ∧ s.pending = q.queue ∧ q.sent <:+ s.out ∧ q.ctr ≤ s.freeCtr ∧ ∀ p, q.fixed p → p.same q.base s

/-- The same of what an instruction of an engine leaves. -/
def OkDo (q : Kept) : EngDo → Prop
  | .ok s => Ok q s
  | .stop _ => True

/-- The same of a state that may be there. -/
def OkOpt (q : Kept) : Option State → Prop
  | some s => Ok q s
  | none => True

/-- The same of the outcome of a command. -/
def OkOut (q : Kept) : Host.Outcome State Fault Refusal → Prop
  | .next s => Ok q s
  | _ => True

variable {q : Kept}

theorem ok_ite {c : Prop} [Decidable c] {s t : State} (hs : Ok q s) (ht : Ok q t) : Ok q (if c then s else t) := by
  split <;> assumption

theorem okDo_ite {c : Prop} [Decidable c] {s t : EngDo} (hs : OkDo q s) (ht : OkDo q t) : OkDo q (if c then s else t) := by
  split <;> assumption

theorem ok_foldl {α : Type} {g : State → α → State} {l : List α} {s : State} (hg : ∀ s a, Ok q s → Ok q (g s a)) (h : Ok q s) :
    Ok q (l.foldl g s) := by
  induction l generalizing s with
  | nil => exact h
  | cons a l ih => exact ih (hg s a h)

theorem ok_next {s : State} (h : Ok q s) : OkOut q (.next s) := h

theorem ok_do {s : State} (h : Ok q s) : OkDo q (.ok s) := h

theorem ok_dostop {c : Nat} : OkDo q (.stop c) := trivial

theorem ok_some {s : State} (h : Ok q s) : OkOpt q (some s) := h

theorem ok_none : OkOpt q none := trivial

theorem okOpt_some {o : Option State} {s : State} (h : OkOpt q o) (e : o = some s) : Ok q s := by subst e; exact h

theorem okDo_ok {o : EngDo} {s : State} (h : OkDo q o) (e : o = .ok s) : Ok q s := by subst e; exact h

theorem ok_fst {α : Type} {p : State × α} {s : State} {b : α} (h : Ok q p.1) (e : p = (s, b)) : Ok q s := by subst e; exact h

theorem ok_snd {α : Type} {p : α × State} {s : State} {b : α} (h : Ok q p.2) (e : p = (b, s)) : Ok q s := by subst e; exact h

/-! ## The named updates -/

/-- A part that stays the same, twice. -/
theorem Part.same_trans {p : Part} {s t u : State} (h1 : p.same s t) (h2 : p.same t u) : p.same s u := by
  cases p <;> exact Eq.trans h2 h1

/-- A state that differs in one part that may change. -/
theorem ok_part {s t : State} (p : Part) (hp : ¬ q.fixed p) (h : Ok q s) (hw : q.wf → s.wf → t.wf) (hq : t.pending = s.pending)
    (ho : s.out <:+ t.out) (hc : s.freeCtr ≤ t.freeCtr) (e : ∀ r, r ≠ p → r.same s t) : Ok q t := by
  refine ⟨fun w => hw w (h.1 w), hq.trans h.2.1, h.2.2.1.trans ho, h.2.2.2.1.trans hc, fun r hr => ?_⟩
  exact Part.same_trans (h.2.2.2.2 r hr) (e r fun x => hp (x ▸ hr))

theorem State.setReg_ok (s : State) (a : Nat) (v : Word) (h : Ok q s) (hp : ¬ q.fixed .regs := by assumption) :
    Ok q (s.setReg a v) :=
  ok_part .regs hp h (fun _ w => ⟨fileWf_fileSet _ a v w.1, w.2.1, w.2.2⟩) rfl List.suffix_rfl le_rfl
    (by intro r hr; cases r <;> first | exact rfl | exact absurd rfl hr)

theorem State.setForce_ok (s : State) (a : Nat) (v : Word) (h : Ok q s) (hp : ¬ q.fixed .inForce := by assumption) :
    Ok q (s.setForce a v) :=
  ok_part .inForce hp h (fun _ w => ⟨w.1, fileWf_fileSet _ a v w.2.1, w.2.2⟩) rfl List.suffix_rfl le_rfl
    (by intro r hr; cases r <;> first | exact rfl | exact absurd rfl hr)

theorem State.setFld_ok (s : State) (a : Nat) (f : Fld) (x : Nat) (h : Ok q s) (hp : ¬ q.fixed .regs := by assumption) :
    Ok q (s.setFld a f x) :=
  State.setReg_ok s a _ h

theorem State.setBit_ok (s : State) (a : Nat) (f : Fld) (b : Bool) (h : Ok q s) (hp : ¬ q.fixed .regs := by assumption) :
    Ok q (s.setBit a f b) :=
  State.setReg_ok s a _ h

theorem State.setFldI_ok (s : State) (a : Nat) (f : Fld) (x : Int) (h : Ok q s) (hp : ¬ q.fixed .regs := by assumption) :
    Ok q (s.setFldI a f x) :=
  State.setReg_ok s a _ h

theorem State.countN_ok (s : State) (a : Nat) (f : Fld) (n : Nat) (h : Ok q s) (hp : ¬ q.fixed .regs := by assumption) :
    Ok q (s.countN a f n) :=
  State.setReg_ok s a _ h

theorem State.count_ok (s : State) (a : Nat) (f : Fld) (h : Ok q s) (hp : ¬ q.fixed .regs := by assumption) :
    Ok q (s.count a f) :=
  State.setReg_ok s a _ h

theorem State.peak_ok (s : State) (a : Nat) (f : Fld) (x : Nat) (h : Ok q s) (hp : ¬ q.fixed .regs := by assumption) :
    Ok q (s.peak a f x) := by
  unfold State.peak
  exact ok_ite (State.setFld_ok s a f _ h) h

theorem State.setPair_ok (s : State) (lo : Nat) (x : Int) (h : Ok q s) (hp : ¬ q.fixed .regs := by assumption) :
    Ok q (s.setPair lo x) :=
  State.setReg_ok _ _ _ (State.setReg_ok s _ _ h)

theorem State.setAxis_ok (s : State) (a : Fin 32) (x : Axis) (h : Ok q s) (hp : ¬ q.fixed .axes := by assumption) :
    Ok q (s.setAxis a x) :=
  ok_part .axes hp h (fun _ w => w) rfl List.suffix_rfl le_rfl
    (by intro r hr; cases r <;> first | exact rfl | exact absurd rfl hr)

theorem State.modAxis_ok (s : State) (a : Fin 32) (f : Axis → Axis) (h : Ok q s) (hp : ¬ q.fixed .axes := by assumption) :
    Ok q (s.modAxis a f) :=
  ok_part .axes hp h (fun _ w => w) rfl List.suffix_rfl le_rfl
    (by intro r hr; cases r <;> first | exact rfl | exact absurd rfl hr)

theorem State.setPort_ok (s : State) (p : Fin 64) (x : Port) (h : Ok q s) (hp : ¬ q.fixed .ports := by assumption) :
    Ok q (s.setPort p x) :=
  ok_part .ports hp h (fun _ w => w) rfl List.suffix_rfl le_rfl
    (by intro r hr; cases r <;> first | exact rfl | exact absurd rfl hr)

theorem State.modPort_ok (s : State) (p : Fin 64) (f : Port → Port) (h : Ok q s) (hp : ¬ q.fixed .ports := by assumption) :
    Ok q (s.modPort p f) :=
  ok_part .ports hp h (fun _ w => w) rfl List.suffix_rfl le_rfl
    (by intro r hr; cases r <;> first | exact rfl | exact absurd rfl hr)

theorem State.modLoop_ok (s : State) (p : Fin 64) (f : Loop → Loop) (h : Ok q s) (hp : ¬ q.fixed .ports := by assumption) :
    Ok q (s.modLoop p f) :=
  ok_part .ports hp h (fun _ w => w) rfl List.suffix_rfl le_rfl
    (by intro r hr; cases r <;> first | exact rfl | exact absurd rfl hr)

theorem State.modPwm_ok (s : State) (p : Fin 64) (f : Pwm → Pwm) (h : Ok q s) (hp : ¬ q.fixed .ports := by assumption) :
    Ok q (s.modPwm p f) :=
  ok_part .ports hp h (fun _ w => w) rfl List.suffix_rfl le_rfl
    (by intro r hr; cases r <;> first | exact rfl | exact absurd rfl hr)

theorem State.modGd_ok (s : State) (p : Fin 64) (f : GateDrive → GateDrive) (h : Ok q s) (hp : ¬ q.fixed .ports := by assumption) :
    Ok q (s.modGd p f) :=
  ok_part .ports hp h (fun _ w => w) rfl List.suffix_rfl le_rfl
    (by intro r hr; cases r <;> first | exact rfl | exact absurd rfl hr)

theorem State.setTile_ok (s : State) (t : Fin 4) (x : Tile) (h : Ok q s) (hp : ¬ q.fixed .tiles := by assumption) :
    Ok q (s.setTile t x) :=
  ok_part .tiles hp h (fun _ w => w) rfl List.suffix_rfl le_rfl
    (by intro r hr; cases r <;> first | exact rfl | exact absurd rfl hr)

theorem State.modTile_ok (s : State) (t : Fin 4) (f : Tile → Tile) (h : Ok q s) (hp : ¬ q.fixed .tiles := by assumption) :
    Ok q (s.modTile t f) :=
  ok_part .tiles hp h (fun _ w => w) rfl List.suffix_rfl le_rfl
    (by intro r hr; cases r <;> first | exact rfl | exact absurd rfl hr)

theorem State.setCab_ok (s : State) (c : Fin 4) (x : Cabinet) (h : Ok q s) (hp : ¬ q.fixed .cabs := by assumption) :
    Ok q (s.setCab c x) :=
  ok_part .cabs hp h (fun _ w => w) rfl List.suffix_rfl le_rfl
    (by intro r hr; cases r <;> first | exact rfl | exact absurd rfl hr)

theorem State.modCab_ok (s : State) (c : Fin 4) (f : Cabinet → Cabinet) (h : Ok q s) (hp : ¬ q.fixed .cabs := by assumption) :
    Ok q (s.modCab c f) :=
  ok_part .cabs hp h (fun _ w => w) rfl List.suffix_rfl le_rfl
    (by intro r hr; cases r <;> first | exact rfl | exact absurd rfl hr)

theorem State.modRing_ok (s : State) (c : Fin 4) (n : Fin 16) (f : Ring → Ring) (h : Ok q s) (hp : ¬ q.fixed .cabs := by assumption) :
    Ok q (s.modRing c n f) :=
  ok_part .cabs hp h (fun _ w => w) rfl List.suffix_rfl le_rfl
    (by intro r hr; cases r <;> first | exact rfl | exact absurd rfl hr)

theorem State.modEnc_ok (s : State) (n : Fin 16) (f : Encoder → Encoder) (h : Ok q s) (hp : ¬ q.fixed .encs := by assumption) :
    Ok q (s.modEnc n f) :=
  ok_part .encs hp h (fun _ w => w) rfl List.suffix_rfl le_rfl
    (by intro r hr; cases r <;> first | exact rfl | exact absurd rfl hr)

theorem State.modVm_ok (s : State) (v : Fin 8) (f : VMaster → VMaster) (h : Ok q s) (hp : ¬ q.fixed .vms := by assumption) :
    Ok q (s.modVm v f) :=
  ok_part .vms hp h (fun _ w => w) rfl List.suffix_rfl le_rfl
    (by intro r hr; cases r <;> first | exact rfl | exact absurd rfl hr)

theorem State.modNet_ok (s : State) (f : Net → Net) (h : Ok q s) (hp : ¬ q.fixed .net := by assumption) :
    Ok q (s.modNet f) :=
  ok_part .net hp h (fun _ w => w) rfl List.suffix_rfl le_rfl
    (by intro r hr; cases r <;> first | exact rfl | exact absurd rfl hr)

theorem State.modRec_ok (s : State) (f : Recorder → Recorder) (h : Ok q s) (hp : ¬ q.fixed .recorder := by assumption) :
    Ok q (s.modRec f) :=
  ok_part .recorder hp h (fun _ w => w) rfl List.suffix_rfl le_rfl
    (by intro r hr; cases r <;> first | exact rfl | exact absurd rfl hr)

theorem State.modDev_ok (s : State) (f : Device → Device) (h : Ok q s) (hp : ¬ q.fixed .dev := by assumption) :
    Ok q (s.modDev f) :=
  ok_part .dev hp h (fun _ w => w) rfl List.suffix_rfl le_rfl
    (by intro r hr; cases r <;> first | exact rfl | exact absurd rfl hr)

theorem State.setNow_ok (s : State) (t : Nat) (h : Ok q s) (hp : ¬ q.fixed .now := by assumption) :
    Ok q (s.setNow t) :=
  ok_part .now hp h (fun _ w => w) rfl List.suffix_rfl le_rfl
    (by intro r hr; cases r <;> first | exact rfl | exact absurd rfl hr)

theorem State.setLate_ok (s : State) (l : List (Nat × Word)) (h : Ok q s) (hp : ¬ q.fixed .late := by assumption) :
    Ok q (s.setLate l) :=
  ok_part .late hp h (fun _ w => w) rfl List.suffix_rfl le_rfl
    (by intro r hr; cases r <;> first | exact rfl | exact absurd rfl hr)

theorem State.setWritten_ok (s : State) (l : List Nat) (h : Ok q s) (hp : ¬ q.fixed .written := by assumption) :
    Ok q (s.setWritten l) :=
  ok_part .written hp h (fun _ w => w) rfl List.suffix_rfl le_rfl
    (by intro r hr; cases r <;> first | exact rfl | exact absurd rfl hr)

theorem State.setHeld_ok (s : State) (l : List HeldHi) (h : Ok q s) (hp : ¬ q.fixed .held := by assumption) :
    Ok q (s.setHeld l) :=
  ok_part .held hp h (fun _ w => w) rfl List.suffix_rfl le_rfl
    (by intro r hr; cases r <;> first | exact rfl | exact absurd rfl hr)

theorem State.reach_ok (s : State) (t : Nat) (h : Ok q s) (hp : ¬ q.fixed .now := by assumption) :
    Ok q (s.reach t) :=
  ok_part .now hp h (fun _ w => w) rfl List.suffix_rfl le_rfl
    (by intro r hr; cases r <;> first | exact rfl | exact absurd rfl hr)

theorem State.emit_ok (s : State) (o : Out) (h : Ok q s) (hp : ¬ q.fixed .out := by assumption) :
    Ok q (s.emit o) :=
  ok_part .out hp h (fun _ w => w) rfl (List.suffix_cons ..) le_rfl
    (by intro r hr; cases r <;> first | exact rfl | exact absurd rfl hr)

theorem State.fresh_ok (s : State) (h : Ok q s) (hp : ¬ q.fixed .freeCtr := by assumption) :
    Ok q (s.fresh) :=
  ok_part .freeCtr hp h (fun _ w => w) rfl List.suffix_rfl (Nat.le_succ _)
    (by intro r hr; cases r <;> first | exact rfl | exact absurd rfl hr)

theorem State.setEng_ok (s : State) (e : Fin 46) (x : Engine) (hx : q.wf → x.memsWf = true) (h : Ok q s)
    (hp : ¬ q.fixed .engines := by assumption) : Ok q (s.setEng e x) := by
  refine ok_part .engines hp h (fun w k => ⟨k.1, k.2.1, fun i => ?_⟩) rfl List.suffix_rfl le_rfl
    (by intro r hr; cases r <;> first | exact rfl | exact absurd rfl hr)
  by_cases hi : e = i
  · subst hi; simpa using hx w
  · rw [State.eng_setEng_other s e i x hi]; exact k.2.2 i

/-- An engine may change in every way that keeps its data memories in canonical form. -/
theorem State.modEng_ok (s : State) (e : Fin 46) (f : Engine → Engine) (hf : q.wf → ∀ x, x.memsWf = true → (f x).memsWf = true)
    (h : Ok q s) (hp : ¬ q.fixed .engines := by assumption) : Ok q (s.modEng e f) :=
  State.setEng_ok s e _ (fun w => hf w _ ((h.1 w).2.2 e)) h

theorem State.onlyIf_ok (s : State) (c : Bool) (f : State → State) (hf : ∀ u, Ok q u → Ok q (f u)) (h : Ok q s) :
    Ok q (s.onlyIf c f) := by
  unfold State.onlyIf
  exact ok_ite (hf s h) h

/-- A state with blank files and engines. -/
theorem ok_blank {s t : State} (h : Ok q s) (h1 : t.regs = []) (h2 : t.inForce = [])
    (h3 : t.engines = Vector.replicate 46 Engine.init) (h4 : t.pending = s.pending) (h5 : t.out = s.out)
    (h6 : t.freeCtr = s.freeCtr) (h7 : ∀ p, q.fixed p → p.same q.base t) : Ok q t := by
  refine ⟨fun _ => ⟨?_, ?_, fun e => ?_⟩, ?_, ?_, ?_, h7⟩
  · rw [h1]; rfl
  · rw [h2]; rfl
  · simp only [State.eng, h3, Fin.getElem_fin, Vector.getElem_replicate]
    rfl
  · rw [h4]; exact h.2.1
  · rw [h5]; exact h.2.2.1
  · rw [h6]; exact h.2.2.2.1

/-! ## Data memories -/

/-- An engine with a data memory in canonical form put in the place of one. -/
theorem memsWf_setData {x y : Engine} {i : Nat} {hi : i < 2} {d : List (Nat × Word)} (hy : y.data = x.data.set i d hi)
    (hd : memWf d = true) (hx : x.memsWf = true) : y.memsWf = true := by
  simp only [Engine.memsWf, Bool.and_eq_true] at hx ⊢
  rw [hy]
  rcases (by omega : i = 0 ∨ i = 1) with rfl | rfl <;> simp [hd, hx.1, hx.2]

/-- A data memory of an engine that holds the canonical form. -/
theorem memWf_mem {x : Engine} (hx : x.memsWf = true) (i : Fin 2) : memWf x.data[i] = true := by
  simp only [Engine.memsWf, Bool.and_eq_true] at hx
  match i with
  | 0 => exact hx.1
  | 1 => exact hx.2

/-- A data memory of a state that holds the canonical form. -/
theorem memWf_data {s : State} (h : Ok q s) (w : q.wf) (e : Fin 46) (i : Fin 2) : memWf (s.eng e).data[i] = true :=
  memWf_mem ((h.1 w).2.2 e) i

theorem fileSorted_zip (n k : Nat) (l : List Word) : fileSorted ((List.range' n k).zip l) = true := by
  induction k generalizing n l with
  | zero => rfl
  | succ k ih =>
    cases l with
    | nil => rfl
    | cons w ws =>
      rw [List.range'_succ, List.zip_cons_cons, fileSorted_cons]
      refine ⟨fun c hc => ?_, ih (n + 1) ws⟩
      have := (List.of_mem_zip (show (c.1, c.2) ∈ _ from hc)).1
      simp only [List.mem_range'_1] at this
      simp only
      omega

theorem fileSorted_filter (p : Nat × Word → Bool) (l : List (Nat × Word)) (h : fileSorted l = true) :
    fileSorted (l.filter p) = true := by
  induction l with
  | nil => rfl
  | cons c cs ih =>
    obtain ⟨h1, h2⟩ := (fileSorted_cons c cs).1 h
    by_cases hp : p c = true
    · rw [List.filter_cons_of_pos hp, fileSorted_cons]
      exact ⟨fun x hx => h1 x (List.mem_filter.1 hx).1, ih h2⟩
    · rw [List.filter_cons_of_neg hp]; exact ih h2

/-- The initial data of an image are a data memory in canonical form. -/
theorem memWf_initData (im : Image) : memWf (initData im) = true := by
  simp only [memWf, Bool.and_eq_true, List.all_eq_true]
  refine ⟨fileSorted_filter _ _ ?_, fun c hc => ?_⟩
  · rw [List.range_eq_range']; exact fileSorted_zip 0 _ _
  · simpa using (List.mem_filter.1 hc).2

end Sys2Proof.Machine
end

