-- ==== Sys2Proof/Laws/KeepOps.lean ====
section
/-! SUPPORT. What the operations of Machine/Ops.lean keep (Laws/Keep.lean). -/

namespace Sys2Proof.Machine

set_option linter.unusedTactic false
set_option linter.unreachableTactic false
set_option linter.tactic.unusedName false
set_option linter.unusedVariables false

theorem State.transient_ok {q : Kept} (s : State) (hok : Ok q s) (t_dev : ¬ q.fixed .dev := by assumption) : Ok q (State.transient s) := by
  unfold State.transient
  (repeat' first
    | with_reducible assumption
    | intro _
    | with_reducible apply State.modDev_ok
    | with_reducible apply ok_ite
    | with_reducible apply ok_foldl
    | (extract_lets +onlyGivenNames x; refine (?_ : Ok q x → _) ?_; (intro _; clear_value x))
    | (extract_lets +onlyGivenNames f0; have z : (_ → _) := f0; clear z)
    | (extract_lets +onlyGivenNames x; clear_value x)
    | (extract_lets +onlyGivenNames x)
    | split
    | (unfold x)
    | (unfold f0)
    | (dsimp only)
    | assumption)

theorem State.setPortState_ok {q : Kept} (s : State) (p : Fin 64) (x : Nat) (hok : Ok q s) (t_regs : ¬ q.fixed .regs := by assumption) : Ok q (State.setPortState s p x) := by
  unfold State.setPortState
  (repeat' first
    | with_reducible assumption
    | intro _
    | with_reducible apply State.setFld_ok
    | with_reducible apply ok_ite
    | with_reducible apply ok_foldl
    | (extract_lets +onlyGivenNames x; refine (?_ : Ok q x → _) ?_; (intro _; clear_value x))
    | (extract_lets +onlyGivenNames f0; have z : (_ → _) := f0; clear z)
    | (extract_lets +onlyGivenNames x; clear_value x)
    | (extract_lets +onlyGivenNames x)
    | split
    | (unfold x)
    | (unfold f0)
    | (dsimp only)
    | assumption)

theorem latchEvent_ok {q : Kept} (e : Fin 46) (bit : Nat) (param : Nat) (s : State) (hok : Ok q s) (t_regs : ¬ q.fixed .regs := by assumption) (t_engines : ¬ q.fixed .engines := by assumption) : Ok q (latchEvent e bit param s) := by
  unfold latchEvent
  (repeat' first
    | with_reducible assumption
    | intro _
    | with_reducible apply State.setFld_ok
    | with_reducible apply State.count_ok
    | with_reducible apply State.modEng_ok
    | with_reducible apply ok_ite
    | with_reducible apply ok_foldl
    | (extract_lets +onlyGivenNames x; refine (?_ : Ok q x → _) ?_; (intro _; clear_value x))
    | (extract_lets +onlyGivenNames f0; have z : (_ → _) := f0; clear z)
    | (extract_lets +onlyGivenNames x; clear_value x)
    | (extract_lets +onlyGivenNames x)
    | split
    | (unfold x)
    | (unfold f0)
    | (dsimp only)
    | assumption)

theorem axisEvent_ok {q : Kept} (a : Fin 32) (bit : Nat) (param : Int) (s : State) (hok : Ok q s) (t_regs : ¬ q.fixed .regs := by assumption) (t_engines : ¬ q.fixed .engines := by assumption) : Ok q (axisEvent a bit param s) := by
  unfold axisEvent
  (repeat' first
    | with_reducible assumption
    | intro _
    | with_reducible apply latchEvent_ok
    | with_reducible apply ok_ite
    | with_reducible apply ok_foldl
    | (extract_lets +onlyGivenNames x; refine (?_ : Ok q x → _) ?_; (intro _; clear_value x))
    | (extract_lets +onlyGivenNames f0; have z : (_ → _) := f0; clear z)
    | (extract_lets +onlyGivenNames x; clear_value x)
    | (extract_lets +onlyGivenNames x)
    | split
    | (unfold x)
    | (unfold f0)
    | (dsimp only)
    | assumption)

theorem candidate_ok {q : Kept} (r : Record) (s : State) (hok : Ok q s) (t_recorder : ¬ q.fixed .recorder := by assumption) : Ok q (candidate r s) := by
  unfold candidate
  (repeat' first
    | with_reducible assumption
    | intro _
    | with_reducible apply State.modRec_ok
    | with_reducible apply ok_ite
    | with_reducible apply ok_foldl
    | (extract_lets +onlyGivenNames x; refine (?_ : Ok q x → _) ?_; (intro _; clear_value x))
    | (extract_lets +onlyGivenNames f0; have z : (_ → _) := f0; clear z)
    | (extract_lets +onlyGivenNames x; clear_value x)
    | (extract_lets +onlyGivenNames x)
    | split
    | (unfold x)
    | (unfold f0)
    | (dsimp only)
    | assumption)

theorem record_ok {q : Kept} (k : RecKind) (sev kind idx : Nat) (params : List Nat) (s : State) (hok : Ok q s) (t_recorder : ¬ q.fixed .recorder := by assumption) : Ok q (record k sev kind idx params s) := by
  unfold record
  (repeat' first
    | with_reducible assumption
    | intro _
    | with_reducible apply candidate_ok
    | with_reducible apply ok_ite
    | with_reducible apply ok_foldl
    | (extract_lets +onlyGivenNames x; refine (?_ : Ok q x → _) ?_; (intro _; clear_value x))
    | (extract_lets +onlyGivenNames f0; have z : (_ → _) := f0; clear z)
    | (extract_lets +onlyGivenNames x; clear_value x)
    | (extract_lets +onlyGivenNames x)
    | split
    | (unfold x)
    | (unfold f0)
    | (dsimp only)
    | assumption)

theorem regAbort_ok {q : Kept} (s : State) (hok : Ok q s) (t_regs : ¬ q.fixed .regs := by assumption) (t_recorder : ¬ q.fixed .recorder := by assumption) : Ok q (regAbort s) := by
  unfold regAbort
  (repeat' first
    | with_reducible assumption
    | intro _
    | with_reducible apply State.count_ok
    | with_reducible apply record_ok
    | with_reducible apply ok_ite
    | with_reducible apply ok_foldl
    | (extract_lets +onlyGivenNames x; refine (?_ : Ok q x → _) ?_; (intro _; clear_value x))
    | (extract_lets +onlyGivenNames f0; have z : (_ → _) := f0; clear z)
    | (extract_lets +onlyGivenNames x; clear_value x)
    | (extract_lets +onlyGivenNames x)
    | split
    | (unfold x)
    | (unfold f0)
    | (dsimp only)
    | assumption)

theorem recordCode_ok {q : Kept} (code sev kind idx : Nat) (params : List Nat) (s : State) (hok : Ok q s) (t_recorder : ¬ q.fixed .recorder := by assumption) : Ok q (recordCode code sev kind idx params s) := by
  unfold recordCode
  (repeat' first
    | with_reducible assumption
    | intro _
    | with_reducible apply candidate_ok
    | with_reducible apply ok_ite
    | with_reducible apply ok_foldl
    | (extract_lets +onlyGivenNames x; refine (?_ : Ok q x → _) ?_; (intro _; clear_value x))
    | (extract_lets +onlyGivenNames f0; have z : (_ → _) := f0; clear z)
    | (extract_lets +onlyGivenNames x; clear_value x)
    | (extract_lets +onlyGivenNames x)
    | split
    | (unfold x)
    | (unfold f0)
    | (dsimp only)
    | assumption)

theorem recordVar_ok {q : Kept} (k : RecKind) (sev kind idx : Nat) (words : List Nat) (s : State) (hok : Ok q s) (t_recorder : ¬ q.fixed .recorder := by assumption) : Ok q (recordVar k sev kind idx words s) := by
  unfold recordVar
  (repeat' first
    | with_reducible assumption
    | intro _
    | with_reducible apply candidate_ok
    | with_reducible apply ok_ite
    | with_reducible apply ok_foldl
    | (extract_lets +onlyGivenNames x; refine (?_ : Ok q x → _) ?_; (intro _; clear_value x))
    | (extract_lets +onlyGivenNames f0; have z : (_ → _) := f0; clear z)
    | (extract_lets +onlyGivenNames x; clear_value x)
    | (extract_lets +onlyGivenNames x)
    | split
    | (unfold x)
    | (unfold f0)
    | (dsimp only)
    | assumption)

theorem sendVector_ok {q : Kept} (c : Fin 4) (v : Nat) (s : State) (hok : Ok q s) (t_cabs : ¬ q.fixed .cabs := by assumption) (t_out : ¬ q.fixed .out := by assumption) : Ok q (sendVector c v s) := by
  unfold sendVector
  split <;>
  (repeat' first
    | with_reducible assumption
    | intro _
    | with_reducible apply State.modCab_ok
    | with_reducible apply State.emit_ok
    | with_reducible apply ok_ite
    | with_reducible apply ok_foldl
    | (extract_lets +onlyGivenNames x; refine (?_ : Ok q x → _) ?_; (intro _; clear_value x))
    | (extract_lets +onlyGivenNames f0; have z : (_ → _) := f0; clear z)
    | (extract_lets +onlyGivenNames x; clear_value x)
    | (extract_lets +onlyGivenNames x)
    | split
    | (unfold x)
    | (unfold f0)
    | (dsimp only)
    | assumption)

theorem requestIrq_ok {q : Kept} (c : Fin 4) (n : Fin 16) (urgent : Bool) (s : State) (hok : Ok q s) (t_cabs : ¬ q.fixed .cabs := by assumption) (t_out : ¬ q.fixed .out := by assumption) : Ok q (requestIrq c n urgent s) := by
  unfold requestIrq
  (repeat' first
    | with_reducible assumption
    | intro _
    | with_reducible apply State.modRing_ok
    | with_reducible apply sendVector_ok
    | with_reducible apply ok_ite
    | with_reducible apply ok_foldl
    | (extract_lets +onlyGivenNames x; refine (?_ : Ok q x → _) ?_; (intro _; clear_value x))
    | (extract_lets +onlyGivenNames f0; have z : (_ → _) := f0; clear z)
    | (extract_lets +onlyGivenNames x; clear_value x)
    | (extract_lets +onlyGivenNames x)
    | split
    | (unfold x)
    | (unfold f0)
    | (dsimp only)
    | assumption)

theorem writeEntry_ok {q : Kept} (c : Fin 4) (n : Fin 16) (e : Entry) (urgent : Bool) (s : State) (hok : Ok q s) (t_regs : ¬ q.fixed .regs := by assumption) (t_cabs : ¬ q.fixed .cabs := by assumption) (t_out : ¬ q.fixed .out := by assumption) : Ok q (writeEntry c n e urgent s) := by
  unfold writeEntry
  (repeat' first
    | with_reducible assumption
    | intro _
    | with_reducible apply State.setFld_ok
    | with_reducible apply State.emit_ok
    | with_reducible apply requestIrq_ok
    | with_reducible apply ok_ite
    | with_reducible apply ok_foldl
    | (extract_lets +onlyGivenNames x; refine (?_ : Ok q x → _) ?_; (intro _; clear_value x))
    | (extract_lets +onlyGivenNames f0; have z : (_ → _) := f0; clear z)
    | (extract_lets +onlyGivenNames x; clear_value x)
    | (extract_lets +onlyGivenNames x)
    | split
    | (unfold x)
    | (unfold f0)
    | (dsimp only)
    | assumption)

theorem nextEvSeq_ok {q : Kept} (c : Fin 4) (s : State) (hok : Ok q s) (t_regs : ¬ q.fixed .regs := by assumption) : Ok q (nextEvSeq c s) := by
  unfold nextEvSeq
  (repeat' first
    | with_reducible assumption
    | intro _
    | with_reducible apply State.setFld_ok
    | with_reducible apply ok_ite
    | with_reducible apply ok_foldl
    | (extract_lets +onlyGivenNames x; refine (?_ : Ok q x → _) ?_; (intro _; clear_value x))
    | (extract_lets +onlyGivenNames f0; have z : (_ → _) := f0; clear z)
    | (extract_lets +onlyGivenNames x; clear_value x)
    | (extract_lets +onlyGivenNames x)
    | split
    | (unfold x)
    | (unfold f0)
    | (dsimp only)
    | assumption)

theorem writeEvent_ok {q : Kept} (c : Fin 4) (n : Fin 16) (b : EvBody) (s : State) (hok : Ok q s) (t_regs : ¬ q.fixed .regs := by assumption) (t_cabs : ¬ q.fixed .cabs := by assumption) (t_out : ¬ q.fixed .out := by assumption) : Ok q (writeEvent c n b s) := by
  unfold writeEvent
  (repeat' first
    | with_reducible assumption
    | intro _
    | with_reducible apply writeEntry_ok
    | with_reducible apply ok_ite
    | with_reducible apply ok_foldl
    | (extract_lets +onlyGivenNames x; refine (?_ : Ok q x → _) ?_; (intro _; clear_value x))
    | (extract_lets +onlyGivenNames f0; have z : (_ → _) := f0; clear z)
    | (extract_lets +onlyGivenNames x; clear_value x)
    | (extract_lets +onlyGivenNames x)
    | split
    | (unfold x)
    | (unfold f0)
    | (dsimp only)
    | assumption)

theorem loseEvent_ok {q : Kept} (c : Fin 4) (s : State) (hok : Ok q s) (t_regs : ¬ q.fixed .regs := by assumption) (t_cabs : ¬ q.fixed .cabs := by assumption) (t_recorder : ¬ q.fixed .recorder := by assumption) : Ok q (loseEvent c s) := by
  unfold loseEvent
  (repeat' first
    | with_reducible assumption
    | intro _
    | with_reducible apply State.count_ok
    | with_reducible apply State.modCab_ok
    | with_reducible apply record_ok
    | with_reducible apply ok_ite
    | with_reducible apply ok_foldl
    | (extract_lets +onlyGivenNames x; refine (?_ : Ok q x → _) ?_; (intro _; clear_value x))
    | (extract_lets +onlyGivenNames f0; have z : (_ → _) := f0; clear z)
    | (extract_lets +onlyGivenNames x; clear_value x)
    | (extract_lets +onlyGivenNames x)
    | split
    | (unfold x)
    | (unfold f0)
    | (dsimp only)
    | assumption)

theorem eventsLostFirst_ok {q : Kept} (c : Fin 4) (n : Fin 16) (time : Nat) (s : State) (hok : Ok q s) (t_regs : ¬ q.fixed .regs := by assumption) (t_cabs : ¬ q.fixed .cabs := by assumption) (t_out : ¬ q.fixed .out := by assumption) : Ok q (eventsLostFirst c n time s) := by
  unfold eventsLostFirst
  (repeat' first
    | with_reducible assumption
    | intro _
    | with_reducible apply State.modCab_ok
    | with_reducible apply nextEvSeq_ok
    | with_reducible apply writeEvent_ok
    | with_reducible apply ok_ite
    | with_reducible apply ok_foldl
    | (extract_lets +onlyGivenNames x; refine (?_ : Ok q x → _) ?_; (intro _; clear_value x))
    | (extract_lets +onlyGivenNames f0; have z : (_ → _) := f0; clear z)
    | (extract_lets +onlyGivenNames x; clear_value x)
    | (extract_lets +onlyGivenNames x)
    | split
    | (unfold x)
    | (unfold f0)
    | (dsimp only)
    | assumption)

theorem raiseEvent_ok {q : Kept} (c : Fin 4) (b : EvBody) (s : State) (hok : Ok q s) (t_regs : ¬ q.fixed .regs := by assumption) (t_cabs : ¬ q.fixed .cabs := by assumption) (t_recorder : ¬ q.fixed .recorder := by assumption) (t_out : ¬ q.fixed .out := by assumption) : Ok q (raiseEvent c b s) := by
  unfold raiseEvent
  split <;>
  (repeat' first
    | with_reducible assumption
    | intro _
    | with_reducible apply State.count_ok
    | with_reducible apply nextEvSeq_ok
    | with_reducible apply writeEvent_ok
    | with_reducible apply loseEvent_ok
    | with_reducible apply eventsLostFirst_ok
    | with_reducible apply ok_ite
    | with_reducible apply ok_foldl
    | (extract_lets +onlyGivenNames x; refine (?_ : Ok q x → _) ?_; (intro _; clear_value x))
    | (extract_lets +onlyGivenNames f0; have z : (_ → _) := f0; clear z)
    | (extract_lets +onlyGivenNames x; clear_value x)
    | (extract_lets +onlyGivenNames x)
    | split
    | (unfold x)
    | (unfold f0)
    | (dsimp only)
    | assumption)

theorem raiseAxis_ok {q : Kept} (a : Fin 32) (code sev tag time : Nat) (params : List Int) (s : State) (hok : Ok q s) (t_regs : ¬ q.fixed .regs := by assumption) (t_cabs : ¬ q.fixed .cabs := by assumption) (t_recorder : ¬ q.fixed .recorder := by assumption) (t_out : ¬ q.fixed .out := by assumption) : Ok q (raiseAxis a code sev tag time params s) := by
  unfold raiseAxis
  (repeat' first
    | with_reducible assumption
    | intro _
    | with_reducible apply raiseEvent_ok
    | with_reducible apply ok_ite
    | with_reducible apply ok_foldl
    | (extract_lets +onlyGivenNames x; refine (?_ : Ok q x → _) ?_; (intro _; clear_value x))
    | (extract_lets +onlyGivenNames f0; have z : (_ → _) := f0; clear z)
    | (extract_lets +onlyGivenNames x; clear_value x)
    | (extract_lets +onlyGivenNames x)
    | split
    | (unfold x)
    | (unfold f0)
    | (dsimp only)
    | assumption)

theorem raiseDevice_ok {q : Kept} (code sev time : Nat) (params : List Int) (s : State) (hok : Ok q s) (t_regs : ¬ q.fixed .regs := by assumption) (t_cabs : ¬ q.fixed .cabs := by assumption) (t_recorder : ¬ q.fixed .recorder := by assumption) (t_out : ¬ q.fixed .out := by assumption) : Ok q (raiseDevice code sev time params s) := by
  unfold raiseDevice
  (repeat' first
    | with_reducible assumption
    | intro _
    | with_reducible apply raiseEvent_ok
    | with_reducible apply ok_ite
    | with_reducible apply ok_foldl
    | (extract_lets +onlyGivenNames x; refine (?_ : Ok q x → _) ?_; (intro _; clear_value x))
    | (extract_lets +onlyGivenNames f0; have z : (_ → _) := f0; clear z)
    | (extract_lets +onlyGivenNames x; clear_value x)
    | (extract_lets +onlyGivenNames x)
    | split
    | (unfold x)
    | (unfold f0)
    | (dsimp only)
    | assumption)

theorem followCredit_ok {q : Kept} (c : Fin 4) (s : State) (hok : Ok q s) (t_regs : ¬ q.fixed .regs := by assumption) : Ok q (followCredit c s) := by
  unfold followCredit
  (repeat' first
    | with_reducible assumption
    | intro _
    | with_reducible apply State.setBit_ok
    | with_reducible apply ok_ite
    | with_reducible apply ok_foldl
    | (extract_lets +onlyGivenNames x; refine (?_ : Ok q x → _) ?_; (intro _; clear_value x))
    | (extract_lets +onlyGivenNames f0; have z : (_ → _) := f0; clear z)
    | (extract_lets +onlyGivenNames x; clear_value x)
    | (extract_lets +onlyGivenNames x)
    | split
    | (unfold x)
    | (unfold f0)
    | (dsimp only)
    | assumption)

theorem writeCompletion_ok {q : Kept} (d : Desc) (st flags land : Nat) (s : State) (hok : Ok q s) (t_regs : ¬ q.fixed .regs := by assumption) (t_cabs : ¬ q.fixed .cabs := by assumption) (t_out : ¬ q.fixed .out := by assumption) : Ok q (writeCompletion d st flags land s) := by
  unfold writeCompletion
  (repeat' first
    | with_reducible assumption
    | intro _
    | with_reducible apply State.count_ok
    | with_reducible apply State.modRing_ok
    | with_reducible apply State.emit_ok
    | with_reducible apply writeEntry_ok
    | with_reducible apply ok_ite
    | with_reducible apply ok_foldl
    | (extract_lets +onlyGivenNames x; refine (?_ : Ok q x → _) ?_; (intro _; clear_value x))
    | (extract_lets +onlyGivenNames f0; have z : (_ → _) := f0; clear z)
    | (extract_lets +onlyGivenNames x; clear_value x)
    | (extract_lets +onlyGivenNames x)
    | split
    | (unfold x)
    | (unfold f0)
    | (dsimp only)
    | assumption)

theorem releaseHeld_ok {q : Kept} (c : Fin 4) (n : Fin 16) (k : Nat) (s : State) (h : Ok q s) (t_regs : ¬ q.fixed .regs := by assumption) (t_cabs : ¬ q.fixed .cabs := by assumption) (t_out : ¬ q.fixed .out := by assumption) : Ok q (releaseHeld c n k s) := by
  induction k generalizing s with
  | zero => exact h
  | succ k ih =>
    unfold releaseHeld
    dsimp only
    split
    · exact ih _ (writeCompletion_ok _ _ _ _ _ (State.modRing_ok _ _ _ _ h))
    · exact h

theorem summary_ok {q : Kept} (k : RecKind) (s : State) (hok : Ok q s) (t_freeCtr : ¬ q.fixed .freeCtr := by assumption) (t_recorder : ¬ q.fixed .recorder := by assumption) : Ok q (summary k s) := by
  unfold summary
  (repeat' first
    | with_reducible assumption
    | intro _
    | with_reducible apply State.fresh_ok
    | with_reducible apply candidate_ok
    | with_reducible apply ok_ite
    | with_reducible apply ok_foldl
    | (extract_lets +onlyGivenNames x; refine (?_ : Ok q x → _) ?_; (intro _; clear_value x))
    | (extract_lets +onlyGivenNames f0; have z : (_ → _) := f0; clear z)
    | (extract_lets +onlyGivenNames x; clear_value x)
    | (extract_lets +onlyGivenNames x)
    | split
    | (unfold x)
    | (unfold f0)
    | (dsimp only)
    | assumption)

theorem complete_ok {q : Kept} (d : Desc) (st flags land : Nat) (s : State) (hok : Ok q s) (t_regs : ¬ q.fixed .regs := by assumption) (t_engines : ¬ q.fixed .engines := by assumption) (t_cabs : ¬ q.fixed .cabs := by assumption) (t_out : ¬ q.fixed .out := by assumption) : Ok q (complete d st flags land s) := by
  unfold complete
  split <;>
  (repeat' first
    | with_reducible assumption
    | intro _
    | with_reducible apply State.modEng_ok
    | with_reducible apply latchEvent_ok
    | with_reducible apply followCredit_ok
    | with_reducible apply writeCompletion_ok
    | with_reducible apply releaseHeld_ok
    | with_reducible apply ok_ite
    | with_reducible apply ok_foldl
    | (extract_lets +onlyGivenNames x; refine (?_ : Ok q x → _) ?_; (intro _; clear_value x))
    | (extract_lets +onlyGivenNames f0; have z : (_ → _) := f0; clear z)
    | (extract_lets +onlyGivenNames x; clear_value x)
    | (extract_lets +onlyGivenNames x)
    | split
    | (unfold x)
    | (unfold f0)
    | (dsimp only)
    | assumption)

theorem setDevState_ok {q : Kept} (new cause : Nat) (s : State) (hok : Ok q s) (t_regs : ¬ q.fixed .regs := by assumption) (t_cabs : ¬ q.fixed .cabs := by assumption) (t_recorder : ¬ q.fixed .recorder := by assumption) (t_out : ¬ q.fixed .out := by assumption) : Ok q (setDevState new cause s) := by
  unfold setDevState
  (repeat' first
    | with_reducible assumption
    | intro _
    | with_reducible apply State.setFld_ok
    | with_reducible apply State.emit_ok
    | with_reducible apply recordVar_ok
    | with_reducible apply raiseDevice_ok
    | with_reducible apply ok_ite
    | with_reducible apply ok_foldl
    | (extract_lets +onlyGivenNames x; refine (?_ : Ok q x → _) ?_; (intro _; clear_value x))
    | (extract_lets +onlyGivenNames f0; have z : (_ → _) := f0; clear z)
    | (extract_lets +onlyGivenNames x; clear_value x)
    | (extract_lets +onlyGivenNames x)
    | split
    | (unfold x)
    | (unfold f0)
    | (dsimp only)
    | assumption)

theorem followPorts_ok {q : Kept} (s : State) (hok : Ok q s) (t_regs : ¬ q.fixed .regs := by assumption) (t_cabs : ¬ q.fixed .cabs := by assumption) (t_recorder : ¬ q.fixed .recorder := by assumption) (t_out : ¬ q.fixed .out := by assumption) : Ok q (followPorts s) := by
  unfold followPorts
  (repeat' first
    | with_reducible assumption
    | intro _
    | with_reducible apply setDevState_ok
    | with_reducible apply ok_ite
    | with_reducible apply ok_foldl
    | (extract_lets +onlyGivenNames x; refine (?_ : Ok q x → _) ?_; (intro _; clear_value x))
    | (extract_lets +onlyGivenNames f0; have z : (_ → _) := f0; clear z)
    | (extract_lets +onlyGivenNames x; clear_value x)
    | (extract_lets +onlyGivenNames x)
    | split
    | (unfold x)
    | (unfold f0)
    | (dsimp only)
    | assumption)

end Sys2Proof.Machine
end

