-- ==== Sys2Proof/Laws/KeepPins.lean ====
section
/-! SUPPORT. What the operations of Machine/Pins.lean keep (Laws/Keep.lean). -/

namespace Sys2Proof.Machine

set_option linter.unusedTactic false
set_option linter.unreachableTactic false
set_option linter.tactic.unusedName false
set_option linter.unusedVariables false

theorem State.modLeg_ok {q : Kept} (s : State) (p : Fin 64) (b : Bool) (f : LegGen → LegGen) (hok : Ok q s) (t_ports : ¬ q.fixed .ports := by assumption) : Ok q (State.modLeg s p b f) := by
  unfold State.modLeg
  (repeat' first
    | with_reducible assumption
    | intro _
    | with_reducible apply State.modPwm_ok
    | with_reducible apply ok_ite
    | with_reducible apply ok_foldl
    | (extract_lets +onlyGivenNames x; refine (?_ : Ok q x → _) ?_; (intro _; clear_value x))
    | (extract_lets +onlyGivenNames f0; have z : (_ → _) := f0; clear z)
    | (extract_lets +onlyGivenNames x; clear_value x)
    | (extract_lets +onlyGivenNames x)
    | split
    | (unfold x)
    | (unfold f0)
    | (dsimp only)
    | assumption)

theorem setCodes_ok {q : Kept} (p : Fin 64) (x : Rat) (w : Nat) (s : State) (hok : Ok q s) (t_regs : ¬ q.fixed .regs := by assumption) (t_ports : ¬ q.fixed .ports := by assumption) : Ok q (setCodes p x w s) := by
  unfold setCodes
  (repeat' first
    | with_reducible assumption
    | intro _
    | with_reducible apply State.setReg_ok
    | with_reducible apply State.modPwm_ok
    | with_reducible apply ok_ite
    | with_reducible apply ok_foldl
    | (extract_lets +onlyGivenNames x; refine (?_ : Ok q x → _) ?_; (intro _; clear_value x))
    | (extract_lets +onlyGivenNames f0; have z : (_ → _) := f0; clear z)
    | (extract_lets +onlyGivenNames x; clear_value x)
    | (extract_lets +onlyGivenNames x)
    | split
    | (unfold x)
    | (unfold f0)
    | (dsimp only)
    | assumption)

end Sys2Proof.Machine
end

