-- ==== Sys2Proof/Laws/KeepPorts.lean ====
section
/-! SUPPORT. What the operations of Machine/Ports.lean keep (Laws/Keep.lean). -/

namespace Sys2Proof.Machine

set_option linter.unusedTactic false
set_option linter.unreachableTactic false
set_option linter.tactic.unusedName false
set_option linter.unusedVariables false

theorem State.setCarry_ok {q : Kept} (s : State) (p : Fin 64) (b : Bool) (c : Nat) (hok : Ok q s) (t_regs : ¬ q.fixed .regs := by assumption) : Ok q (State.setCarry s p b c) := by
  unfold State.setCarry
  (repeat' first
    | with_reducible assumption
    | intro _
    | with_reducible apply State.setFld_ok
    | with_reducible apply ok_ite
    | with_reducible apply ok_foldl
    | (extract_lets +onlyGivenNames x; refine (?_ : Ok q x → _) ?_; (intro _; clear_value x))
    | (extract_lets +onlyGivenNames f0; have z : (_ → _) := f0; clear z)
    | (extract_lets +onlyGivenNames x; clear_value x)
    | (extract_lets +onlyGivenNames x)
    | split
    | (unfold x)
    | (unfold f0)
    | (dsimp only)
    | assumption)

theorem trimRefresh_ok {q : Kept} (p : Fin 64) (s : State) (hok : Ok q s) (t_ports : ¬ q.fixed .ports := by assumption) : Ok q (trimRefresh p s) := by
  unfold trimRefresh
  (repeat' first
    | with_reducible assumption
    | intro _
    | with_reducible apply State.modLeg_ok
    | with_reducible apply ok_ite
    | with_reducible apply ok_foldl
    | (extract_lets +onlyGivenNames x; refine (?_ : Ok q x → _) ?_; (intro _; clear_value x))
    | (extract_lets +onlyGivenNames f0; have z : (_ → _) := f0; clear z)
    | (extract_lets +onlyGivenNames x; clear_value x)
    | (extract_lets +onlyGivenNames x)
    | split
    | (unfold x)
    | (unfold f0)
    | (dsimp only)
    | assumption)

theorem noteClamp_ok {q : Kept} (p : Fin 64) (s : State) (hok : Ok q s) (t_regs : ¬ q.fixed .regs := by assumption) (t_ports : ¬ q.fixed .ports := by assumption) : Ok q (noteClamp p s) := by
  unfold noteClamp
  (repeat' first
    | with_reducible assumption
    | intro _
    | with_reducible apply State.setBit_ok
    | with_reducible apply State.count_ok
    | with_reducible apply State.modPwm_ok
    | with_reducible apply ok_ite
    | with_reducible apply ok_foldl
    | (extract_lets +onlyGivenNames x; refine (?_ : Ok q x → _) ?_; (intro _; clear_value x))
    | (extract_lets +onlyGivenNames f0; have z : (_ → _) := f0; clear z)
    | (extract_lets +onlyGivenNames x; clear_value x)
    | (extract_lets +onlyGivenNames x)
    | split
    | (unfold x)
    | (unfold f0)
    | (dsimp only)
    | assumption)

theorem decidePulse_ok {q : Kept} (p : Fin 64) (b : Bool) (r : Planned) (s : State) (hok : Ok q s) (t_regs : ¬ q.fixed .regs := by assumption) (t_ports : ¬ q.fixed .ports := by assumption) : Ok q (decidePulse p b r s) := by
  unfold decidePulse
  (repeat' first
    | with_reducible assumption
    | intro _
    | with_reducible apply State.count_ok
    | with_reducible apply State.modLeg_ok
    | with_reducible apply State.setCarry_ok
    | with_reducible apply trimRefresh_ok
    | with_reducible apply noteClamp_ok
    | with_reducible apply ok_ite
    | with_reducible apply ok_foldl
    | (extract_lets +onlyGivenNames x; refine (?_ : Ok q x → _) ?_; (intro _; clear_value x))
    | (extract_lets +onlyGivenNames f0; have z : (_ → _) := f0; clear z)
    | (extract_lets +onlyGivenNames x; clear_value x)
    | (extract_lets +onlyGivenNames x)
    | split
    | (unfold x)
    | (unfold f0)
    | (dsimp only)
    | assumption)

theorem decideLeg_ok {q : Kept} (p : Fin 64) (b : Bool) (z : Rat) (n : List Planned) (s : State) (hok : Ok q s) (t_regs : ¬ q.fixed .regs := by assumption) (t_ports : ¬ q.fixed .ports := by assumption) : Ok q (decideLeg p b z n s) := by
  induction n generalizing s with
  | nil =>
      unfold decideLeg
      (repeat' first
        | with_reducible assumption
        | intro _
        | with_reducible apply State.modLeg_ok
        | with_reducible apply decidePulse_ok
        | with_reducible apply ok_ite
        | with_reducible apply ok_foldl
        | (extract_lets +onlyGivenNames x; refine (?_ : Ok q x → _) ?_; (intro _; clear_value x))
        | (extract_lets +onlyGivenNames f0; have z : (_ → _) := f0; clear z)
        | (extract_lets +onlyGivenNames x; clear_value x)
        | (extract_lets +onlyGivenNames x)
        | split
        | (unfold x)
        | (unfold f0)
        | (dsimp only)
        | assumption)
  | cons y n ih =>
      unfold decideLeg
      (repeat' first
        | with_reducible assumption
        | intro _
        | with_reducible apply State.modLeg_ok
        | with_reducible apply decidePulse_ok
        | apply ih
        | with_reducible apply ok_ite
        | with_reducible apply ok_foldl
        | (extract_lets +onlyGivenNames x; refine (?_ : Ok q x → _) ?_; (intro _; clear_value x))
        | (extract_lets +onlyGivenNames f0; have z : (_ → _) := f0; clear z)
        | (extract_lets +onlyGivenNames x; clear_value x)
        | (extract_lets +onlyGivenNames x)
        | split
        | (unfold x)
        | (unfold f0)
        | (dsimp only)
        | assumption)

theorem selectMask_ok {q : Kept} (p : Fin 64) (x : Rat) (rank m : Nat) (s : State) (hok : Ok q s) (t_regs : ¬ q.fixed .regs := by assumption) (t_ports : ¬ q.fixed .ports := by assumption) : Ok q (selectMask p x rank m s) := by
  unfold selectMask
  (repeat' first
    | with_reducible assumption
    | intro _
    | with_reducible apply State.setFld_ok
    | with_reducible apply State.count_ok
    | with_reducible apply State.modLoop_ok
    | with_reducible apply State.modPwm_ok
    | with_reducible apply ok_ite
    | with_reducible apply ok_foldl
    | (extract_lets +onlyGivenNames x; refine (?_ : Ok q x → _) ?_; (intro _; clear_value x))
    | (extract_lets +onlyGivenNames f0; have z : (_ → _) := f0; clear z)
    | (extract_lets +onlyGivenNames x; clear_value x)
    | (extract_lets +onlyGivenNames x)
    | split
    | (unfold x)
    | (unfold f0)
    | (dsimp only)
    | assumption)

theorem followRefreshing_ok {q : Kept} (p : Fin 64) (s : State) (hok : Ok q s) (t_regs : ¬ q.fixed .regs := by assumption) : Ok q (followRefreshing p s) := by
  unfold followRefreshing
  (repeat' first
    | with_reducible assumption
    | intro _
    | with_reducible apply State.setBit_ok
    | with_reducible apply ok_ite
    | with_reducible apply ok_foldl
    | (extract_lets +onlyGivenNames x; refine (?_ : Ok q x → _) ?_; (intro _; clear_value x))
    | (extract_lets +onlyGivenNames f0; have z : (_ → _) := f0; clear z)
    | (extract_lets +onlyGivenNames x; clear_value x)
    | (extract_lets +onlyGivenNames x)
    | split
    | (unfold x)
    | (unfold f0)
    | (dsimp only)
    | assumption)

theorem insertPulse_ok {q : Kept} (p : Fin 64) (v : Nat) (s : State) (l : Fin 2) (hok : Ok q s) (t_regs : ¬ q.fixed .regs := by assumption) (t_ports : ¬ q.fixed .ports := by assumption) (t_recorder : ¬ q.fixed .recorder := by assumption) : Ok q (insertPulse p v s l) := by
  unfold insertPulse
  (repeat' first
    | with_reducible assumption
    | intro _
    | with_reducible apply State.count_ok
    | with_reducible apply record_ok
    | with_reducible apply State.modPwm_ok
    | with_reducible apply State.modGd_ok
    | with_reducible apply trimRefresh_ok
    | with_reducible apply followRefreshing_ok
    | with_reducible apply ok_ite
    | with_reducible apply ok_foldl
    | (extract_lets +onlyGivenNames x; refine (?_ : Ok q x → _) ?_; (intro _; clear_value x))
    | (extract_lets +onlyGivenNames f0; have z : (_ → _) := f0; clear z)
    | (extract_lets +onlyGivenNames x; clear_value x)
    | (extract_lets +onlyGivenNames x)
    | split
    | (unfold x)
    | (unfold f0)
    | (dsimp only)
    | assumption)

theorem walkPins_ok {q : Kept} (p : Fin 64) (z : Rat) (s : State) (hok : Ok q s) (t_regs : ¬ q.fixed .regs := by assumption) (t_ports : ¬ q.fixed .ports := by assumption) : Ok q (walkPins p z s) := by
  unfold walkPins
  (repeat' first
    | with_reducible assumption
    | intro _
    | with_reducible apply State.modPwm_ok
    | with_reducible apply decideLeg_ok
    | with_reducible apply ok_ite
    | with_reducible apply ok_foldl
    | (extract_lets +onlyGivenNames x; refine (?_ : Ok q x → _) ?_; (intro _; clear_value x))
    | (extract_lets +onlyGivenNames f0; have z : (_ → _) := f0; clear z)
    | (extract_lets +onlyGivenNames x; clear_value x)
    | (extract_lets +onlyGivenNames x)
    | split
    | (unfold x)
    | (unfold f0)
    | (dsimp only)
    | assumption)

theorem pinValley_ok {q : Kept} (p : Fin 64) (v : Nat) (s : State) (hok : Ok q s) (t_regs : ¬ q.fixed .regs := by assumption) (t_ports : ¬ q.fixed .ports := by assumption) (t_recorder : ¬ q.fixed .recorder := by assumption) : Ok q (pinValley p v s) := by
  unfold pinValley
  (repeat' first
    | with_reducible assumption
    | intro _
    | with_reducible apply State.modPwm_ok
    | with_reducible apply selectMask_ok
    | with_reducible apply insertPulse_ok
    | with_reducible apply ok_ite
    | with_reducible apply ok_foldl
    | (extract_lets +onlyGivenNames x; refine (?_ : Ok q x → _) ?_; (intro _; clear_value x))
    | (extract_lets +onlyGivenNames f0; have z : (_ → _) := f0; clear z)
    | (extract_lets +onlyGivenNames x; clear_value x)
    | (extract_lets +onlyGivenNames x)
    | split
    | (unfold x)
    | (unfold f0)
    | (dsimp only)
    | assumption)

theorem settlePins_ok {q : Kept} (p : Fin 64) (z : Rat) (s : State) (hok : Ok q s) (t_regs : ¬ q.fixed .regs := by assumption) (t_ports : ¬ q.fixed .ports := by assumption) (t_recorder : ¬ q.fixed .recorder := by assumption) : Ok q (settlePins p z s) := by
  unfold settlePins
  (repeat' first
    | with_reducible assumption
    | intro _
    | with_reducible apply walkPins_ok
    | with_reducible apply pinValley_ok
    | with_reducible apply ok_ite
    | with_reducible apply ok_foldl
    | (extract_lets +onlyGivenNames x; refine (?_ : Ok q x → _) ?_; (intro _; clear_value x))
    | (extract_lets +onlyGivenNames f0; have z : (_ → _) := f0; clear z)
    | (extract_lets +onlyGivenNames x; clear_value x)
    | (extract_lets +onlyGivenNames x)
    | split
    | (unfold x)
    | (unfold f0)
    | (dsimp only)
    | assumption)

theorem movePins_ok {q : Kept} (p : Fin 64) (soft : Bool) (y : Rat) (s : State) (hok : Ok q s) (t_ports : ¬ q.fixed .ports := by assumption) : Ok q (movePins p soft y s) := by
  unfold movePins
  (repeat' first
    | with_reducible assumption
    | intro _
    | with_reducible apply State.modPwm_ok
    | with_reducible apply ok_ite
    | with_reducible apply ok_foldl
    | (extract_lets +onlyGivenNames x; refine (?_ : Ok q x → _) ?_; (intro _; clear_value x))
    | (extract_lets +onlyGivenNames f0; have z : (_ → _) := f0; clear z)
    | (extract_lets +onlyGivenNames x; clear_value x)
    | (extract_lets +onlyGivenNames x)
    | split
    | (unfold x)
    | (unfold f0)
    | (dsimp only)
    | assumption)

theorem pinChangeAt_ok {q : Kept} (p : Fin 64) (soft : Bool) (y : Rat) (f : State → State) (s : State) (hf : ∀ u, Ok q u → Ok q (f u)) (hok : Ok q s) (t_regs : ¬ q.fixed .regs := by assumption) (t_ports : ¬ q.fixed .ports := by assumption) (t_recorder : ¬ q.fixed .recorder := by assumption) : Ok q (pinChangeAt p soft y f s) := by
  unfold pinChangeAt
  (repeat' first
    | with_reducible assumption
    | intro _
    | with_reducible apply settlePins_ok
    | with_reducible apply movePins_ok
    | apply hf
    | with_reducible apply ok_ite
    | with_reducible apply ok_foldl
    | (extract_lets +onlyGivenNames x; refine (?_ : Ok q x → _) ?_; (intro _; clear_value x))
    | (extract_lets +onlyGivenNames f0; have z : (_ → _) := f0; clear z)
    | (extract_lets +onlyGivenNames x; clear_value x)
    | (extract_lets +onlyGivenNames x)
    | split
    | (unfold x)
    | (unfold f0)
    | (dsimp only)
    | assumption)

theorem pinChange_ok {q : Kept} (p : Fin 64) (soft : Bool) (f : State → State) (s : State) (hf : ∀ u, Ok q u → Ok q (f u)) (hok : Ok q s) (t_regs : ¬ q.fixed .regs := by assumption) (t_ports : ¬ q.fixed .ports := by assumption) (t_recorder : ¬ q.fixed .recorder := by assumption) : Ok q (pinChange p soft f s) := by
  unfold pinChange
  (repeat' first
    | with_reducible assumption
    | intro _
    | with_reducible apply pinChangeAt_ok
    | apply hf
    | with_reducible apply ok_ite
    | with_reducible apply ok_foldl
    | (extract_lets +onlyGivenNames x; refine (?_ : Ok q x → _) ?_; (intro _; clear_value x))
    | (extract_lets +onlyGivenNames f0; have z : (_ → _) := f0; clear z)
    | (extract_lets +onlyGivenNames x; clear_value x)
    | (extract_lets +onlyGivenNames x)
    | split
    | (unfold x)
    | (unfold f0)
    | (dsimp only)
    | assumption)

theorem leaveRun_ok {q : Kept} (p : Fin 64) (s : State) (hok : Ok q s) (t_regs : ¬ q.fixed .regs := by assumption) (t_ports : ¬ q.fixed .ports := by assumption) : Ok q (leaveRun p s) := by
  unfold leaveRun
  (repeat' first
    | with_reducible assumption
    | intro _
    | with_reducible apply State.setReg_ok
    | with_reducible apply State.setBit_ok
    | with_reducible apply State.modPwm_ok
    | with_reducible apply State.modGd_ok
    | with_reducible apply ok_ite
    | with_reducible apply ok_foldl
    | (extract_lets +onlyGivenNames x; refine (?_ : Ok q x → _) ?_; (intro _; clear_value x))
    | (extract_lets +onlyGivenNames f0; have z : (_ → _) := f0; clear z)
    | (extract_lets +onlyGivenNames x; clear_value x)
    | (extract_lets +onlyGivenNames x)
    | split
    | (unfold x)
    | (unfold f0)
    | (dsimp only)
    | assumption)

theorem unpower_ok {q : Kept} (p : Fin 64) (s : State) (hok : Ok q s) (t_regs : ¬ q.fixed .regs := by assumption) (t_ports : ¬ q.fixed .ports := by assumption) : Ok q (unpower p s) := by
  unfold unpower
  (repeat' first
    | with_reducible assumption
    | intro _
    | with_reducible apply State.setReg_ok
    | with_reducible apply State.modPort_ok
    | with_reducible apply ok_ite
    | with_reducible apply ok_foldl
    | (extract_lets +onlyGivenNames x; refine (?_ : Ok q x → _) ?_; (intro _; clear_value x))
    | (extract_lets +onlyGivenNames f0; have z : (_ → _) := f0; clear z)
    | (extract_lets +onlyGivenNames x; clear_value x)
    | (extract_lets +onlyGivenNames x)
    | split
    | (unfold x)
    | (unfold f0)
    | (dsimp only)
    | assumption)

theorem movePort_ok {q : Kept} (p : Fin 64) (x : Nat) (s : State) (hok : Ok q s) (t_regs : ¬ q.fixed .regs := by assumption) (t_ports : ¬ q.fixed .ports := by assumption) : Ok q (movePort p x s) := by
  unfold movePort
  (repeat' first
    | with_reducible assumption
    | intro _
    | with_reducible apply State.setPortState_ok
    | with_reducible apply leaveRun_ok
    | with_reducible apply unpower_ok
    | with_reducible apply ok_ite
    | with_reducible apply ok_foldl
    | (extract_lets +onlyGivenNames x; refine (?_ : Ok q x → _) ?_; (intro _; clear_value x))
    | (extract_lets +onlyGivenNames f0; have z : (_ → _) := f0; clear z)
    | (extract_lets +onlyGivenNames x; clear_value x)
    | (extract_lets +onlyGivenNames x)
    | split
    | (unfold x)
    | (unfold f0)
    | (dsimp only)
    | assumption)

theorem followPartner_ok {q : Kept} (p : Fin 64) (x : Nat) (loopRan : Bool) (y : Rat) (s : State) (hok : Ok q s) (t_regs : ¬ q.fixed .regs := by assumption) (t_ports : ¬ q.fixed .ports := by assumption) (t_recorder : ¬ q.fixed .recorder := by assumption) : Ok q (followPartner p x loopRan y s) := by
  unfold followPartner
  split <;>
  (repeat' first
    | with_reducible assumption
    | intro _
    | with_reducible apply pinChangeAt_ok
    | with_reducible apply movePort_ok
    | with_reducible apply ok_ite
    | with_reducible apply ok_foldl
    | (extract_lets +onlyGivenNames x; refine (?_ : Ok q x → _) ?_; (intro _; clear_value x))
    | (extract_lets +onlyGivenNames f0; have z : (_ → _) := f0; clear z)
    | (extract_lets +onlyGivenNames x; clear_value x)
    | (extract_lets +onlyGivenNames x)
    | split
    | (unfold x)
    | (unfold f0)
    | (dsimp only)
    | assumption)

theorem State.enterPortBy_ok {q : Kept} (s : State) (p : Fin 64) (x : Nat) (soft : Bool) (hok : Ok q s) (t_regs : ¬ q.fixed .regs := by assumption) (t_ports : ¬ q.fixed .ports := by assumption) (t_cabs : ¬ q.fixed .cabs := by assumption) (t_recorder : ¬ q.fixed .recorder := by assumption) (t_out : ¬ q.fixed .out := by assumption) : Ok q (State.enterPortBy s p x soft) := by
  unfold State.enterPortBy
  (repeat' first
    | with_reducible assumption
    | intro _
    | with_reducible apply followPorts_ok
    | with_reducible apply pinChange_ok
    | with_reducible apply movePort_ok
    | with_reducible apply followPartner_ok
    | with_reducible apply ok_ite
    | with_reducible apply ok_foldl
    | (extract_lets +onlyGivenNames x; refine (?_ : Ok q x → _) ?_; (intro _; clear_value x))
    | (extract_lets +onlyGivenNames f0; have z : (_ → _) := f0; clear z)
    | (extract_lets +onlyGivenNames x; clear_value x)
    | (extract_lets +onlyGivenNames x)
    | split
    | (unfold x)
    | (unfold f0)
    | (dsimp only)
    | assumption)

theorem State.enterPort_ok {q : Kept} (s : State) (p : Fin 64) (x : Nat) (hok : Ok q s) (t_regs : ¬ q.fixed .regs := by assumption) (t_ports : ¬ q.fixed .ports := by assumption) (t_cabs : ¬ q.fixed .cabs := by assumption) (t_recorder : ¬ q.fixed .recorder := by assumption) (t_out : ¬ q.fixed .out := by assumption) : Ok q (State.enterPort s p x) := by
  unfold State.enterPort
  (repeat' first
    | with_reducible assumption
    | intro _
    | with_reducible apply State.enterPortBy_ok
    | with_reducible apply ok_ite
    | with_reducible apply ok_foldl
    | (extract_lets +onlyGivenNames x; refine (?_ : Ok q x → _) ?_; (intro _; clear_value x))
    | (extract_lets +onlyGivenNames f0; have z : (_ → _) := f0; clear z)
    | (extract_lets +onlyGivenNames x; clear_value x)
    | (extract_lets +onlyGivenNames x)
    | split
    | (unfold x)
    | (unfold f0)
    | (dsimp only)
    | assumption)

theorem protectPort_ok {q : Kept} (p : Fin 64) (s : State) (hok : Ok q s) (t_regs : ¬ q.fixed .regs := by assumption) (t_ports : ¬ q.fixed .ports := by assumption) (t_cabs : ¬ q.fixed .cabs := by assumption) (t_recorder : ¬ q.fixed .recorder := by assumption) (t_out : ¬ q.fixed .out := by assumption) : Ok q (protectPort p s) := by
  unfold protectPort
  (repeat' first
    | with_reducible assumption
    | intro _
    | with_reducible apply State.enterPort_ok
    | with_reducible apply ok_ite
    | with_reducible apply ok_foldl
    | (extract_lets +onlyGivenNames x; refine (?_ : Ok q x → _) ?_; (intro _; clear_value x))
    | (extract_lets +onlyGivenNames f0; have z : (_ → _) := f0; clear z)
    | (extract_lets +onlyGivenNames x; clear_value x)
    | (extract_lets +onlyGivenNames x)
    | split
    | (unfold x)
    | (unfold f0)
    | (dsimp only)
    | assumption)

theorem ofPeriod_ok {q : Kept} (t : Fin 4) (b : Nat) (f : State → State) (s : State) (hf : ∀ u, Ok q u → Ok q (f u)) (hok : Ok q s) (t_tiles : ¬ q.fixed .tiles := by assumption) : Ok q (ofPeriod t b f s) := by
  unfold ofPeriod
  (repeat' first
    | with_reducible assumption
    | intro _
    | with_reducible apply State.modTile_ok
    | apply hf
    | with_reducible apply ok_ite
    | with_reducible apply ok_foldl
    | (extract_lets +onlyGivenNames x; refine (?_ : Ok q x → _) ?_; (intro _; clear_value x))
    | (extract_lets +onlyGivenNames f0; have z : (_ → _) := f0; clear z)
    | (extract_lets +onlyGivenNames x; clear_value x)
    | (extract_lets +onlyGivenNames x)
    | split
    | (unfold x)
    | (unfold f0)
    | (dsimp only)
    | assumption)

theorem onPeriod_ok {q : Kept} (t : Fin 4) (f : State → State) (s : State) (hf : ∀ u, Ok q u → Ok q (f u)) (hok : Ok q s) (t_tiles : ¬ q.fixed .tiles := by assumption) : Ok q (onPeriod t f s) := by
  unfold onPeriod
  (repeat' first
    | with_reducible assumption
    | intro _
    | with_reducible apply ofPeriod_ok
    | apply hf
    | with_reducible apply ok_ite
    | with_reducible apply ok_foldl
    | (extract_lets +onlyGivenNames x; refine (?_ : Ok q x → _) ?_; (intro _; clear_value x))
    | (extract_lets +onlyGivenNames f0; have z : (_ → _) := f0; clear z)
    | (extract_lets +onlyGivenNames x; clear_value x)
    | (extract_lets +onlyGivenNames x)
    | split
    | (unfold x)
    | (unfold f0)
    | (dsimp only)
    | assumption)

theorem raiseFaultRx_ok {q : Kept} (cls rx : Nat) (sc : FaultScope) (detail : Nat) (a : Fin 32) (s : State) (hok : Ok q s) (t_regs : ¬ q.fixed .regs := by assumption) (t_axes : ¬ q.fixed .axes := by assumption) (t_ports : ¬ q.fixed .ports := by assumption) (t_engines : ¬ q.fixed .engines := by assumption) (t_cabs : ¬ q.fixed .cabs := by assumption) (t_recorder : ¬ q.fixed .recorder := by assumption) (t_out : ¬ q.fixed .out := by assumption) : Ok q (raiseFaultRx cls rx sc detail a s) := by
  unfold raiseFaultRx
  (repeat' first
    | with_reducible assumption
    | intro _
    | with_reducible apply State.setFld_ok
    | with_reducible apply State.setBit_ok
    | with_reducible apply State.count_ok
    | with_reducible apply State.modAxis_ok
    | with_reducible apply latchEvent_ok
    | with_reducible apply record_ok
    | with_reducible apply protectPort_ok
    | with_reducible apply ok_ite
    | with_reducible apply ok_foldl
    | (extract_lets +onlyGivenNames x; refine (?_ : Ok q x → _) ?_; (intro _; clear_value x))
    | (extract_lets +onlyGivenNames f0; have z : (_ → _) := f0; clear z)
    | (extract_lets +onlyGivenNames x; clear_value x)
    | (extract_lets +onlyGivenNames x)
    | split
    | (unfold x)
    | (unfold f0)
    | (dsimp only)
    | assumption)

theorem raiseFault_ok {q : Kept} (cls : Nat) (sc : FaultScope) (detail : Nat) (a : Fin 32) (s : State) (hok : Ok q s) (t_regs : ¬ q.fixed .regs := by assumption) (t_axes : ¬ q.fixed .axes := by assumption) (t_ports : ¬ q.fixed .ports := by assumption) (t_engines : ¬ q.fixed .engines := by assumption) (t_cabs : ¬ q.fixed .cabs := by assumption) (t_recorder : ¬ q.fixed .recorder := by assumption) (t_out : ¬ q.fixed .out := by assumption) : Ok q (raiseFault cls sc detail a s) := by
  unfold raiseFault
  (repeat' first
    | with_reducible assumption
    | intro _
    | with_reducible apply raiseFaultRx_ok
    | with_reducible apply ok_ite
    | with_reducible apply ok_foldl
    | (extract_lets +onlyGivenNames x; refine (?_ : Ok q x → _) ?_; (intro _; clear_value x))
    | (extract_lets +onlyGivenNames f0; have z : (_ → _) := f0; clear z)
    | (extract_lets +onlyGivenNames x; clear_value x)
    | (extract_lets +onlyGivenNames x)
    | split
    | (unfold x)
    | (unfold f0)
    | (dsimp only)
    | assumption)

theorem raiseFaultAll_ok {q : Kept} (cls : Nat) (sc : FaultScope) (detail : Nat) (axes : List (Fin 32)) (s : State) (hok : Ok q s) (t_regs : ¬ q.fixed .regs := by assumption) (t_axes : ¬ q.fixed .axes := by assumption) (t_ports : ¬ q.fixed .ports := by assumption) (t_engines : ¬ q.fixed .engines := by assumption) (t_cabs : ¬ q.fixed .cabs := by assumption) (t_recorder : ¬ q.fixed .recorder := by assumption) (t_out : ¬ q.fixed .out := by assumption) : Ok q (raiseFaultAll cls sc detail axes s) := by
  unfold raiseFaultAll
  (repeat' first
    | with_reducible assumption
    | intro _
    | with_reducible apply raiseFault_ok
    | with_reducible apply ok_ite
    | with_reducible apply ok_foldl
    | (extract_lets +onlyGivenNames x; refine (?_ : Ok q x → _) ?_; (intro _; clear_value x))
    | (extract_lets +onlyGivenNames f0; have z : (_ → _) := f0; clear z)
    | (extract_lets +onlyGivenNames x; clear_value x)
    | (extract_lets +onlyGivenNames x)
    | split
    | (unfold x)
    | (unfold f0)
    | (dsimp only)
    | assumption)

theorem raisePortFault_ok {q : Kept} (cls : Nat) (p : Fin 64) (detail : Nat) (s : State) (hok : Ok q s) (t_regs : ¬ q.fixed .regs := by assumption) (t_axes : ¬ q.fixed .axes := by assumption) (t_ports : ¬ q.fixed .ports := by assumption) (t_engines : ¬ q.fixed .engines := by assumption) (t_cabs : ¬ q.fixed .cabs := by assumption) (t_recorder : ¬ q.fixed .recorder := by assumption) (t_out : ¬ q.fixed .out := by assumption) : Ok q (raisePortFault cls p detail s) := by
  unfold raisePortFault
  split <;>
  (repeat' first
    | with_reducible assumption
    | intro _
    | with_reducible apply raiseFault_ok
    | with_reducible apply ok_ite
    | with_reducible apply ok_foldl
    | (extract_lets +onlyGivenNames x; refine (?_ : Ok q x → _) ?_; (intro _; clear_value x))
    | (extract_lets +onlyGivenNames f0; have z : (_ → _) := f0; clear z)
    | (extract_lets +onlyGivenNames x; clear_value x)
    | (extract_lets +onlyGivenNames x)
    | split
    | (unfold x)
    | (unfold f0)
    | (dsimp only)
    | assumption)

theorem raiseLegFault_ok {q : Kept} (cls : Nat) (p : Fin 64) (leg : Nat) (detail : Nat) (s : State) (hok : Ok q s) (t_regs : ¬ q.fixed .regs := by assumption) (t_axes : ¬ q.fixed .axes := by assumption) (t_ports : ¬ q.fixed .ports := by assumption) (t_engines : ¬ q.fixed .engines := by assumption) (t_cabs : ¬ q.fixed .cabs := by assumption) (t_recorder : ¬ q.fixed .recorder := by assumption) (t_out : ¬ q.fixed .out := by assumption) : Ok q (raiseLegFault cls p leg detail s) := by
  unfold raiseLegFault
  split <;>
  (repeat' first
    | with_reducible assumption
    | intro _
    | with_reducible apply raiseFault_ok
    | with_reducible apply ok_ite
    | with_reducible apply ok_foldl
    | (extract_lets +onlyGivenNames x; refine (?_ : Ok q x → _) ?_; (intro _; clear_value x))
    | (extract_lets +onlyGivenNames f0; have z : (_ → _) := f0; clear z)
    | (extract_lets +onlyGivenNames x; clear_value x)
    | (extract_lets +onlyGivenNames x)
    | split
    | (unfold x)
    | (unfold f0)
    | (dsimp only)
    | assumption)

end Sys2Proof.Machine
end

