-- ==== Sys2Proof/Laws/KeepSchedule.lean ====
section
/-! SUPPORT. What the operations of Machine/Schedule.lean keep (Laws/Keep.lean). -/

namespace Sys2Proof.Machine

set_option linter.unusedTactic false
set_option linter.unreachableTactic false
set_option linter.tactic.unusedName false
set_option linter.unusedVariables false

theorem State.modConv_ok {q : Kept} (s : State) (t : Fin 4) (x : Fin 2) (f : Converter → Converter) (hok : Ok q s) (t_tiles : ¬ q.fixed .tiles := by assumption) : Ok q (State.modConv s t x f) := by
  unfold State.modConv
  (repeat' first
    | with_reducible assumption
    | intro _
    | with_reducible apply State.modTile_ok
    | with_reducible apply ok_ite
    | with_reducible apply ok_foldl
    | (extract_lets +onlyGivenNames x; refine (?_ : Ok q x → _) ?_; (intro _; clear_value x))
    | (extract_lets +onlyGivenNames f0; have z : (_ → _) := f0; clear z)
    | (extract_lets +onlyGivenNames x; clear_value x)
    | (extract_lets +onlyGivenNames x)
    | split
    | (unfold x)
    | (unfold f0)
    | (dsimp only)
    | assumption)

theorem State.setConvState_ok {q : Kept} (s : State) (t : Fin 4) (x : Fin 2) (v : Nat) (hok : Ok q s) (t_regs : ¬ q.fixed .regs := by assumption) : Ok q (State.setConvState s t x v) := by
  unfold State.setConvState
  (repeat' first
    | with_reducible assumption
    | intro _
    | with_reducible apply State.setFld_ok
    | with_reducible apply ok_ite
    | with_reducible apply ok_foldl
    | (extract_lets +onlyGivenNames x; refine (?_ : Ok q x → _) ?_; (intro _; clear_value x))
    | (extract_lets +onlyGivenNames f0; have z : (_ → _) := f0; clear z)
    | (extract_lets +onlyGivenNames x; clear_value x)
    | (extract_lets +onlyGivenNames x)
    | split
    | (unfold x)
    | (unfold f0)
    | (dsimp only)
    | assumption)

theorem openSchedule_ok {q : Kept} (t : Fin 4) (s : State) (hok : Ok q s) (t_tiles : ¬ q.fixed .tiles := by assumption) : Ok q (openSchedule t s) := by
  unfold openSchedule
  (repeat' first
    | with_reducible assumption
    | intro _
    | with_reducible apply State.modTile_ok
    | with_reducible apply State.modConv_ok
    | with_reducible apply ok_ite
    | with_reducible apply ok_foldl
    | (extract_lets +onlyGivenNames x; refine (?_ : Ok q x → _) ?_; (intro _; clear_value x))
    | (extract_lets +onlyGivenNames f0; have z : (_ → _) := f0; clear z)
    | (extract_lets +onlyGivenNames x; clear_value x)
    | (extract_lets +onlyGivenNames x)
    | split
    | (unfold x)
    | (unfold f0)
    | (dsimp only)
    | assumption)

theorem noteOver_ok {q : Kept} (t : Fin 4) (x : Fin 2) (z : Nat) (v : Sample) (s : State) (hok : Ok q s) (t_regs : ¬ q.fixed .regs := by assumption) (t_tiles : ¬ q.fixed .tiles := by assumption) : Ok q (noteOver t x z v s) := by
  unfold noteOver
  (repeat' first
    | with_reducible assumption
    | intro _
    | with_reducible apply State.count_ok
    | with_reducible apply State.modConv_ok
    | with_reducible apply ok_ite
    | with_reducible apply ok_foldl
    | (extract_lets +onlyGivenNames x; refine (?_ : Ok q x → _) ?_; (intro _; clear_value x))
    | (extract_lets +onlyGivenNames f0; have z : (_ → _) := f0; clear z)
    | (extract_lets +onlyGivenNames x; clear_value x)
    | (extract_lets +onlyGivenNames x)
    | split
    | (unfold x)
    | (unfold f0)
    | (dsimp only)
    | assumption)

theorem countOver_ok {q : Kept} (t : Fin 4) (x : Fin 2) (v : Sample) (s : State) (hok : Ok q s) (t_regs : ¬ q.fixed .regs := by assumption) : Ok q (countOver t x v s) := by
  unfold countOver
  (repeat' first
    | with_reducible assumption
    | intro _
    | with_reducible apply State.count_ok
    | with_reducible apply ok_ite
    | with_reducible apply ok_foldl
    | (extract_lets +onlyGivenNames x; refine (?_ : Ok q x → _) ?_; (intro _; clear_value x))
    | (extract_lets +onlyGivenNames f0; have z : (_ → _) := f0; clear z)
    | (extract_lets +onlyGivenNames x; clear_value x)
    | (extract_lets +onlyGivenNames x)
    | split
    | (unfold x)
    | (unfold f0)
    | (dsimp only)
    | assumption)

theorem accountSchedule_ok {q : Kept} (t : Fin 4) (low : List Taken) (i : TileRead) (s : State) (hok : Ok q s) (t_regs : ¬ q.fixed .regs := by assumption) (t_tiles : ¬ q.fixed .tiles := by assumption) : Ok q (accountSchedule t low i s) := by
  unfold accountSchedule
  (repeat' first
    | with_reducible assumption
    | intro _
    | with_reducible apply State.count_ok
    | with_reducible apply State.modTile_ok
    | with_reducible apply noteOver_ok
    | with_reducible apply ok_ite
    | with_reducible apply ok_foldl
    | (extract_lets +onlyGivenNames x; refine (?_ : Ok q x → _) ?_; (intro _; clear_value x))
    | (extract_lets +onlyGivenNames f0; have z : (_ → _) := f0; clear z)
    | (extract_lets +onlyGivenNames x; clear_value x)
    | (extract_lets +onlyGivenNames x)
    | split
    | (unfold x)
    | (unfold f0)
    | (dsimp only)
    | assumption)

theorem injTrigger_ok {q : Kept} (t : Fin 4) (x : Fin 2) (s : State) (hok : Ok q s) (t_regs : ¬ q.fixed .regs := by assumption) (t_tiles : ¬ q.fixed .tiles := by assumption) : Ok q (injTrigger t x s) := by
  unfold injTrigger
  (repeat' first
    | with_reducible assumption
    | intro _
    | with_reducible apply State.setBit_ok
    | with_reducible apply State.count_ok
    | with_reducible apply State.modTile_ok
    | with_reducible apply State.modConv_ok
    | with_reducible apply ok_ite
    | with_reducible apply ok_foldl
    | (extract_lets +onlyGivenNames x; refine (?_ : Ok q x → _) ?_; (intro _; clear_value x))
    | (extract_lets +onlyGivenNames f0; have z : (_ → _) := f0; clear z)
    | (extract_lets +onlyGivenNames x; clear_value x)
    | (extract_lets +onlyGivenNames x)
    | split
    | (unfold x)
    | (unfold f0)
    | (dsimp only)
    | assumption)

theorem injCompare_ok {q : Kept} (t : Fin 4) (c : Nat) (s : State) (hok : Ok q s) (t_regs : ¬ q.fixed .regs := by assumption) (t_tiles : ¬ q.fixed .tiles := by assumption) : Ok q (injCompare t c s) := by
  unfold injCompare
  (repeat' first
    | with_reducible assumption
    | intro _
    | with_reducible apply injTrigger_ok
    | with_reducible apply ok_ite
    | with_reducible apply ok_foldl
    | (extract_lets +onlyGivenNames x; refine (?_ : Ok q x → _) ?_; (intro _; clear_value x))
    | (extract_lets +onlyGivenNames f0; have z : (_ → _) := f0; clear z)
    | (extract_lets +onlyGivenNames x; clear_value x)
    | (extract_lets +onlyGivenNames x)
    | split
    | (unfold x)
    | (unfold f0)
    | (dsimp only)
    | assumption)

end Sys2Proof.Machine
end

