-- ==== Sys2Proof/Laws/KeepRings.lean ====
section
/-! SUPPORT. What the operations of Machine/Rings.lean keep (Laws/Keep.lean). -/

namespace Sys2Proof.Machine

set_option linter.unusedTactic false
set_option linter.unreachableTactic false
set_option linter.tactic.unusedName false
set_option linter.unusedVariables false

theorem openDesc_ok {q : Kept} (d : Desc) (s : State) (hok : Ok q s) (t_cabs : ¬ q.fixed .cabs := by assumption) : Ok q (openDesc d s) := by
  unfold openDesc
  (repeat' first
    | with_reducible assumption
    | intro _
    | with_reducible apply State.modRing_ok
    | with_reducible apply ok_ite
    | with_reducible apply ok_foldl
    | (extract_lets +onlyGivenNames x; refine (?_ : Ok q x → _) ?_; (intro _; clear_value x))
    | (extract_lets +onlyGivenNames f0; have z : (_ → _) := f0; clear z)
    | (extract_lets +onlyGivenNames x; clear_value x)
    | (extract_lets +onlyGivenNames x)
    | split
    | (unfold x)
    | (unfold f0)
    | (dsimp only)
    | assumption)

theorem refuseHost_ok {q : Kept} (d : Desc) (st : Nat) (s : State) (hok : Ok q s) (t_regs : ¬ q.fixed .regs := by assumption) (t_cabs : ¬ q.fixed .cabs := by assumption) (t_out : ¬ q.fixed .out := by assumption) : Ok q (refuseHost d st s) := by
  unfold refuseHost
  (repeat' first
    | with_reducible assumption
    | intro _
    | with_reducible apply State.modRing_ok
    | with_reducible apply releaseHeld_ok
    | with_reducible apply ok_ite
    | with_reducible apply ok_foldl
    | (extract_lets +onlyGivenNames x; refine (?_ : Ok q x → _) ?_; (intro _; clear_value x))
    | (extract_lets +onlyGivenNames f0; have z : (_ → _) := f0; clear z)
    | (extract_lets +onlyGivenNames x; clear_value x)
    | (extract_lets +onlyGivenNames x)
    | split
    | (unfold x)
    | (unfold f0)
    | (dsimp only)
    | assumption)

theorem submit_ok {q : Kept} (d : Desc) (land : State → State) (s : State) (hland : ∀ u, Ok q u → Ok q (land u)) (hok : Ok q s) (t_now : ¬ q.fixed .now := by assumption) (t_regs : ¬ q.fixed .regs := by assumption) (t_cabs : ¬ q.fixed .cabs := by assumption) (t_out : ¬ q.fixed .out := by assumption) : Ok q (submit d land s) := by
  unfold submit
  (repeat' first
    | with_reducible assumption
    | intro _
    | with_reducible apply State.reach_ok
    | with_reducible apply openDesc_ok
    | with_reducible apply refuseHost_ok
    | apply hland
    | with_reducible apply ok_ite
    | with_reducible apply ok_foldl
    | (extract_lets +onlyGivenNames x; refine (?_ : Ok q x → _) ?_; (intro _; clear_value x))
    | (extract_lets +onlyGivenNames f0; have z : (_ → _) := f0; clear z)
    | (extract_lets +onlyGivenNames x; clear_value x)
    | (extract_lets +onlyGivenNames x)
    | split
    | (unfold x)
    | (unfold f0)
    | (dsimp only)
    | assumption)

theorem landNop_ok {q : Kept} (d : Desc) (s : State) (hok : Ok q s) (t_regs : ¬ q.fixed .regs := by assumption) (t_engines : ¬ q.fixed .engines := by assumption) (t_cabs : ¬ q.fixed .cabs := by assumption) (t_out : ¬ q.fixed .out := by assumption) : Ok q (landNop d s) := by
  unfold landNop
  (repeat' first
    | with_reducible assumption
    | intro _
    | with_reducible apply complete_ok
    | with_reducible apply ok_ite
    | with_reducible apply ok_foldl
    | (extract_lets +onlyGivenNames x; refine (?_ : Ok q x → _) ?_; (intro _; clear_value x))
    | (extract_lets +onlyGivenNames f0; have z : (_ → _) := f0; clear z)
    | (extract_lets +onlyGivenNames x; clear_value x)
    | (extract_lets +onlyGivenNames x)
    | split
    | (unfold x)
    | (unfold f0)
    | (dsimp only)
    | assumption)

theorem execNop_ok {q : Kept} (d : Desc) (s : State) (hok : Ok q s) (t_now : ¬ q.fixed .now := by assumption) (t_regs : ¬ q.fixed .regs := by assumption) (t_engines : ¬ q.fixed .engines := by assumption) (t_cabs : ¬ q.fixed .cabs := by assumption) (t_out : ¬ q.fixed .out := by assumption) : OkOut q (execNop d s) := by
  unfold execNop
  (repeat' first
    | with_reducible assumption
    | intro _
    | with_reducible apply submit_ok
    | with_reducible apply landNop_ok
    | with_reducible apply ok_ite
    | with_reducible apply ok_foldl
    | with_reducible apply ok_next
    | (extract_lets +onlyGivenNames x; refine (?_ : Ok q x → _) ?_; (intro _; clear_value x))
    | (extract_lets +onlyGivenNames f0; have z : (_ → _) := f0; clear z)
    | (extract_lets +onlyGivenNames x; clear_value x)
    | (extract_lets +onlyGivenNames x)
    | split
    | (unfold x)
    | (unfold f0)
    | (dsimp only)
    | assumption)

theorem takeDoorbell_ok {q : Kept} (c : Fin 4) (n : Fin 16) (v : Nat) (s : State) (hok : Ok q s) (t_regs : ¬ q.fixed .regs := by assumption) (t_recorder : ¬ q.fixed .recorder := by assumption) : Ok q (takeDoorbell c n v s) := by
  unfold takeDoorbell
  (repeat' first
    | with_reducible assumption
    | intro _
    | with_reducible apply State.setFld_ok
    | with_reducible apply State.count_ok
    | with_reducible apply record_ok
    | with_reducible apply followCredit_ok
    | with_reducible apply ok_ite
    | with_reducible apply ok_foldl
    | (extract_lets +onlyGivenNames x; refine (?_ : Ok q x → _) ?_; (intro _; clear_value x))
    | (extract_lets +onlyGivenNames f0; have z : (_ → _) := f0; clear z)
    | (extract_lets +onlyGivenNames x; clear_value x)
    | (extract_lets +onlyGivenNames x)
    | split
    | (unfold x)
    | (unfold f0)
    | (dsimp only)
    | assumption)

theorem kickWatchdog_ok {q : Kept} (c : Fin 4) (s : State) (hok : Ok q s) (t_regs : ¬ q.fixed .regs := by assumption) (t_cabs : ¬ q.fixed .cabs := by assumption) : Ok q (kickWatchdog c s) := by
  unfold kickWatchdog
  (repeat' first
    | with_reducible assumption
    | intro _
    | with_reducible apply State.setBit_ok
    | with_reducible apply State.modCab_ok
    | with_reducible apply ok_ite
    | with_reducible apply ok_foldl
    | (extract_lets +onlyGivenNames x; refine (?_ : Ok q x → _) ?_; (intro _; clear_value x))
    | (extract_lets +onlyGivenNames f0; have z : (_ → _) := f0; clear z)
    | (extract_lets +onlyGivenNames x; clear_value x)
    | (extract_lets +onlyGivenNames x)
    | split
    | (unfold x)
    | (unfold f0)
    | (dsimp only)
    | assumption)

theorem doorbell_ok {q : Kept} (c : Fin 4) (n : Fin 16) (v : Nat) (s : State) (hok : Ok q s) (t_regs : ¬ q.fixed .regs := by assumption) (t_cabs : ¬ q.fixed .cabs := by assumption) (t_recorder : ¬ q.fixed .recorder := by assumption) : Ok q (doorbell c n v s) := by
  unfold doorbell
  (repeat' first
    | with_reducible assumption
    | intro _
    | with_reducible apply State.count_ok
    | with_reducible apply State.modCab_ok
    | with_reducible apply takeDoorbell_ok
    | with_reducible apply kickWatchdog_ok
    | with_reducible apply ok_ite
    | with_reducible apply ok_foldl
    | (extract_lets +onlyGivenNames x; refine (?_ : Ok q x → _) ?_; (intro _; clear_value x))
    | (extract_lets +onlyGivenNames f0; have z : (_ → _) := f0; clear z)
    | (extract_lets +onlyGivenNames x; clear_value x)
    | (extract_lets +onlyGivenNames x)
    | split
    | (unfold x)
    | (unfold f0)
    | (dsimp only)
    | assumption)

theorem bar2Write_ok {q : Kept} (c : Fin 4) (off : Nat) (v : Word) (s : State) (hok : Ok q s) (t_regs : ¬ q.fixed .regs := by assumption) (t_cabs : ¬ q.fixed .cabs := by assumption) (t_recorder : ¬ q.fixed .recorder := by assumption) : Ok q (bar2Write c off v s) := by
  unfold bar2Write
  (repeat' first
    | with_reducible assumption
    | intro _
    | with_reducible apply kickWatchdog_ok
    | with_reducible apply doorbell_ok
    | with_reducible apply ok_ite
    | with_reducible apply ok_foldl
    | (extract_lets +onlyGivenNames x; refine (?_ : Ok q x → _) ?_; (intro _; clear_value x))
    | (extract_lets +onlyGivenNames f0; have z : (_ → _) := f0; clear z)
    | (extract_lets +onlyGivenNames x; clear_value x)
    | (extract_lets +onlyGivenNames x)
    | split
    | (unfold x)
    | (unfold f0)
    | (dsimp only)
    | assumption)

theorem word32_ok {q : Kept} (c : Fin 4) (size : Nat) (f : State → State) (s : State) (hf : ∀ u, Ok q u → Ok q (f u)) (hok : Ok q s) (t_out : ¬ q.fixed .out := by assumption) : Ok q (word32 c size f s) := by
  unfold word32
  (repeat' first
    | with_reducible assumption
    | intro _
    | with_reducible apply State.emit_ok
    | apply hf
    | with_reducible apply ok_ite
    | with_reducible apply ok_foldl
    | (extract_lets +onlyGivenNames x; refine (?_ : Ok q x → _) ?_; (intro _; clear_value x))
    | (extract_lets +onlyGivenNames f0; have z : (_ → _) := f0; clear z)
    | (extract_lets +onlyGivenNames x; clear_value x)
    | (extract_lets +onlyGivenNames x)
    | split
    | (unfold x)
    | (unfold f0)
    | (dsimp only)
    | assumption)

theorem execDoorbellWrite_ok {q : Kept} (t : Nat) (c : Fin 4) (off : Nat) (v : Word) (size : Nat) (s : State) (hok : Ok q s) (t_now : ¬ q.fixed .now := by assumption) (t_regs : ¬ q.fixed .regs := by assumption) (t_cabs : ¬ q.fixed .cabs := by assumption) (t_recorder : ¬ q.fixed .recorder := by assumption) (t_out : ¬ q.fixed .out := by assumption) : OkOut q (execDoorbellWrite t c off v size s) := by
  unfold execDoorbellWrite
  (repeat' first
    | with_reducible assumption
    | intro _
    | with_reducible apply State.reach_ok
    | with_reducible apply State.onlyIf_ok
    | with_reducible apply bar2Write_ok
    | with_reducible apply word32_ok
    | with_reducible apply ok_ite
    | with_reducible apply ok_foldl
    | with_reducible apply ok_next
    | (extract_lets +onlyGivenNames x; refine (?_ : Ok q x → _) ?_; (intro _; clear_value x))
    | (extract_lets +onlyGivenNames f0; have z : (_ → _) := f0; clear z)
    | (extract_lets +onlyGivenNames x; clear_value x)
    | (extract_lets +onlyGivenNames x)
    | split
    | (unfold x)
    | (unfold f0)
    | (dsimp only)
    | assumption)

theorem mergeTake_ok {q : Kept} (c : Fin 4) (s : State) (hok : Ok q s) (t_regs : ¬ q.fixed .regs := by assumption) (t_cabs : ¬ q.fixed .cabs := by assumption) (t_recorder : ¬ q.fixed .recorder := by assumption) : Ok q (mergeTake c s) := by
  unfold mergeTake
  split <;>
  (repeat' first
    | with_reducible assumption
    | intro _
    | with_reducible apply State.modCab_ok
    | with_reducible apply takeDoorbell_ok
    | with_reducible apply ok_ite
    | with_reducible apply ok_foldl
    | (extract_lets +onlyGivenNames x; refine (?_ : Ok q x → _) ?_; (intro _; clear_value x))
    | (extract_lets +onlyGivenNames f0; have z : (_ → _) := f0; clear z)
    | (extract_lets +onlyGivenNames x; clear_value x)
    | (extract_lets +onlyGivenNames x)
    | split
    | (unfold x)
    | (unfold f0)
    | (dsimp only)
    | assumption)

theorem execDoorbellMergeTake_ok {q : Kept} (t : Nat) (c : Fin 4) (s : State) (hok : Ok q s) (t_now : ¬ q.fixed .now := by assumption) (t_regs : ¬ q.fixed .regs := by assumption) (t_cabs : ¬ q.fixed .cabs := by assumption) (t_recorder : ¬ q.fixed .recorder := by assumption) : OkOut q (execDoorbellMergeTake t c s) := by
  unfold execDoorbellMergeTake
  (repeat' first
    | with_reducible assumption
    | intro _
    | with_reducible apply State.reach_ok
    | with_reducible apply mergeTake_ok
    | with_reducible apply ok_ite
    | with_reducible apply ok_foldl
    | with_reducible apply ok_next
    | (extract_lets +onlyGivenNames x; refine (?_ : Ok q x → _) ?_; (intro _; clear_value x))
    | (extract_lets +onlyGivenNames f0; have z : (_ → _) := f0; clear z)
    | (extract_lets +onlyGivenNames x; clear_value x)
    | (extract_lets +onlyGivenNames x)
    | split
    | (unfold x)
    | (unfold f0)
    | (dsimp only)
    | assumption)

theorem issueFetch_ok {q : Kept} (c : Fin 4) (n : Fin 16) (s : State) (hok : Ok q s) (t_cabs : ¬ q.fixed .cabs := by assumption) (t_out : ¬ q.fixed .out := by assumption) : Ok q (issueFetch c n s) := by
  unfold issueFetch
  (repeat' first
    | with_reducible assumption
    | intro _
    | with_reducible apply State.modRing_ok
    | with_reducible apply State.emit_ok
    | with_reducible apply ok_ite
    | with_reducible apply ok_foldl
    | (extract_lets +onlyGivenNames x; refine (?_ : Ok q x → _) ?_; (intro _; clear_value x))
    | (extract_lets +onlyGivenNames f0; have z : (_ → _) := f0; clear z)
    | (extract_lets +onlyGivenNames x; clear_value x)
    | (extract_lets +onlyGivenNames x)
    | split
    | (unfold x)
    | (unfold f0)
    | (dsimp only)
    | assumption)

theorem execDescriptorFetch_ok {q : Kept} (t : Nat) (c : Fin 4) (n : Fin 16) (s : State) (hok : Ok q s) (t_now : ¬ q.fixed .now := by assumption) (t_cabs : ¬ q.fixed .cabs := by assumption) (t_out : ¬ q.fixed .out := by assumption) : OkOut q (execDescriptorFetch t c n s) := by
  unfold execDescriptorFetch
  (repeat' first
    | with_reducible assumption
    | intro _
    | with_reducible apply State.reach_ok
    | with_reducible apply issueFetch_ok
    | with_reducible apply ok_ite
    | with_reducible apply ok_foldl
    | with_reducible apply ok_next
    | (extract_lets +onlyGivenNames x; refine (?_ : Ok q x → _) ?_; (intro _; clear_value x))
    | (extract_lets +onlyGivenNames f0; have z : (_ → _) := f0; clear z)
    | (extract_lets +onlyGivenNames x; clear_value x)
    | (extract_lets +onlyGivenNames x)
    | split
    | (unfold x)
    | (unfold f0)
    | (dsimp only)
    | assumption)

theorem emitImageRead_ok {q : Kept} (c : Fin 4) (n : Fin 16) (r : RawDesc) (s : State) (hok : Ok q s) (t_out : ¬ q.fixed .out := by assumption) : Ok q (emitImageRead c n r s) := by
  unfold emitImageRead
  (repeat' first
    | with_reducible assumption
    | intro _
    | with_reducible apply State.emit_ok
    | with_reducible apply ok_ite
    | with_reducible apply ok_foldl
    | (extract_lets +onlyGivenNames x; refine (?_ : Ok q x → _) ?_; (intro _; clear_value x))
    | (extract_lets +onlyGivenNames f0; have z : (_ → _) := f0; clear z)
    | (extract_lets +onlyGivenNames x; clear_value x)
    | (extract_lets +onlyGivenNames x)
    | split
    | (unfold x)
    | (unfold f0)
    | (dsimp only)
    | assumption)

theorem issueImage_ok {q : Kept} (c : Fin 4) (n : Fin 16) (s : State) (hok : Ok q s) (t_cabs : ¬ q.fixed .cabs := by assumption) (t_out : ¬ q.fixed .out := by assumption) : Ok q (issueImage c n s) := by
  unfold issueImage
  split <;>
  (repeat' first
    | with_reducible assumption
    | intro _
    | with_reducible apply State.modRing_ok
    | with_reducible apply emitImageRead_ok
    | with_reducible apply ok_ite
    | with_reducible apply ok_foldl
    | (extract_lets +onlyGivenNames x; refine (?_ : Ok q x → _) ?_; (intro _; clear_value x))
    | (extract_lets +onlyGivenNames f0; have z : (_ → _) := f0; clear z)
    | (extract_lets +onlyGivenNames x; clear_value x)
    | (extract_lets +onlyGivenNames x)
    | split
    | (unfold x)
    | (unfold f0)
    | (dsimp only)
    | assumption)

theorem fetchDone_ok {q : Kept} (c : Fin 4) (n : Fin 16) (ds : List (Vector Byte 64)) (image : List Byte) (s : State) (hok : Ok q s) (t_regs : ¬ q.fixed .regs := by assumption) (t_cabs : ¬ q.fixed .cabs := by assumption) (t_out : ¬ q.fixed .out := by assumption) : Ok q (fetchDone c n ds image s) := by
  unfold fetchDone
  (repeat' first
    | with_reducible assumption
    | intro _
    | with_reducible apply State.modRing_ok
    | with_reducible apply followCredit_ok
    | with_reducible apply issueImage_ok
    | with_reducible apply ok_ite
    | with_reducible apply ok_foldl
    | (extract_lets +onlyGivenNames x; refine (?_ : Ok q x → _) ?_; (intro _; clear_value x))
    | (extract_lets +onlyGivenNames f0; have z : (_ → _) := f0; clear z)
    | (extract_lets +onlyGivenNames x; clear_value x)
    | (extract_lets +onlyGivenNames x)
    | split
    | (unfold x)
    | (unfold f0)
    | (dsimp only)
    | assumption)

theorem execFetchComplete_ok {q : Kept} (t : Nat) (c : Fin 4) (n : Fin 16) (ds : List (Vector Byte 64)) (image : List Byte) (s : State) (hok : Ok q s) (t_now : ¬ q.fixed .now := by assumption) (t_regs : ¬ q.fixed .regs := by assumption) (t_cabs : ¬ q.fixed .cabs := by assumption) (t_out : ¬ q.fixed .out := by assumption) : OkOut q (execFetchComplete t c n ds image s) := by
  unfold execFetchComplete
  (repeat' first
    | with_reducible assumption
    | intro _
    | with_reducible apply State.reach_ok
    | with_reducible apply fetchDone_ok
    | with_reducible apply ok_ite
    | with_reducible apply ok_foldl
    | with_reducible apply ok_next
    | (extract_lets +onlyGivenNames x; refine (?_ : Ok q x → _) ?_; (intro _; clear_value x))
    | (extract_lets +onlyGivenNames f0; have z : (_ → _) := f0; clear z)
    | (extract_lets +onlyGivenNames x; clear_value x)
    | (extract_lets +onlyGivenNames x)
    | split
    | (unfold x)
    | (unfold f0)
    | (dsimp only)
    | assumption)

theorem ringError_ok {q : Kept} (c : Fin 4) (n : Fin 16) (s : State) (hok : Ok q s) (t_regs : ¬ q.fixed .regs := by assumption) (t_cabs : ¬ q.fixed .cabs := by assumption) (t_recorder : ¬ q.fixed .recorder := by assumption) (t_out : ¬ q.fixed .out := by assumption) : Ok q (ringError c n s) := by
  unfold ringError
  (repeat' first
    | with_reducible assumption
    | intro _
    | with_reducible apply State.setFld_ok
    | with_reducible apply State.modRing_ok
    | with_reducible apply record_ok
    | with_reducible apply raiseEvent_ok
    | with_reducible apply followCredit_ok
    | with_reducible apply ok_ite
    | with_reducible apply ok_foldl
    | (extract_lets +onlyGivenNames x; refine (?_ : Ok q x → _) ?_; (intro _; clear_value x))
    | (extract_lets +onlyGivenNames f0; have z : (_ → _) := f0; clear z)
    | (extract_lets +onlyGivenNames x; clear_value x)
    | (extract_lets +onlyGivenNames x)
    | split
    | (unfold x)
    | (unfold f0)
    | (dsimp only)
    | assumption)

theorem readFailed_ok {q : Kept} (c : Fin 4) (n : Fin 16) (s : State) (hok : Ok q s) (t_regs : ¬ q.fixed .regs := by assumption) (t_cabs : ¬ q.fixed .cabs := by assumption) (t_recorder : ¬ q.fixed .recorder := by assumption) (t_out : ¬ q.fixed .out := by assumption) : Ok q (readFailed c n s) := by
  unfold readFailed
  (repeat' first
    | with_reducible assumption
    | intro _
    | with_reducible apply State.count_ok
    | with_reducible apply State.modRing_ok
    | with_reducible apply State.emit_ok
    | with_reducible apply emitImageRead_ok
    | with_reducible apply ringError_ok
    | with_reducible apply ok_ite
    | with_reducible apply ok_foldl
    | (extract_lets +onlyGivenNames x; refine (?_ : Ok q x → _) ?_; (intro _; clear_value x))
    | (extract_lets +onlyGivenNames f0; have z : (_ → _) := f0; clear z)
    | (extract_lets +onlyGivenNames x; clear_value x)
    | (extract_lets +onlyGivenNames x)
    | split
    | (unfold x)
    | (unfold f0)
    | (dsimp only)
    | assumption)

theorem moderationEnd_ok {q : Kept} (c : Fin 4) (n : Fin 16) (s : State) (hok : Ok q s) (t_cabs : ¬ q.fixed .cabs := by assumption) (t_out : ¬ q.fixed .out := by assumption) : Ok q (moderationEnd c n s) := by
  unfold moderationEnd
  split <;>
  (repeat' first
    | with_reducible assumption
    | intro _
    | with_reducible apply requestIrq_ok
    | with_reducible apply ok_ite
    | with_reducible apply ok_foldl
    | (extract_lets +onlyGivenNames x; refine (?_ : Ok q x → _) ?_; (intro _; clear_value x))
    | (extract_lets +onlyGivenNames f0; have z : (_ → _) := f0; clear z)
    | (extract_lets +onlyGivenNames x; clear_value x)
    | (extract_lets +onlyGivenNames x)
    | split
    | (unfold x)
    | (unfold f0)
    | (dsimp only)
    | assumption)

theorem execMsixModerationExpiry_ok {q : Kept} (t : Nat) (c : Fin 4) (n : Fin 16) (s : State) (hok : Ok q s) (t_now : ¬ q.fixed .now := by assumption) (t_cabs : ¬ q.fixed .cabs := by assumption) (t_out : ¬ q.fixed .out := by assumption) : OkOut q (execMsixModerationExpiry t c n s) := by
  unfold execMsixModerationExpiry
  (repeat' first
    | with_reducible assumption
    | intro _
    | with_reducible apply State.reach_ok
    | with_reducible apply moderationEnd_ok
    | with_reducible apply ok_ite
    | with_reducible apply ok_foldl
    | with_reducible apply ok_next
    | (extract_lets +onlyGivenNames x; refine (?_ : Ok q x → _) ?_; (intro _; clear_value x))
    | (extract_lets +onlyGivenNames f0; have z : (_ → _) := f0; clear z)
    | (extract_lets +onlyGivenNames x; clear_value x)
    | (extract_lets +onlyGivenNames x)
    | split
    | (unfold x)
    | (unfold f0)
    | (dsimp only)
    | assumption)

theorem maskVector_ok {q : Kept} (c : Fin 4) (v : Fin 8) (mask : Bool) (s : State) (hok : Ok q s) (t_cabs : ¬ q.fixed .cabs := by assumption) (t_out : ¬ q.fixed .out := by assumption) : Ok q (maskVector c v mask s) := by
  unfold maskVector
  (repeat' first
    | with_reducible assumption
    | intro _
    | with_reducible apply State.modCab_ok
    | with_reducible apply State.emit_ok
    | with_reducible apply ok_ite
    | with_reducible apply ok_foldl
    | (extract_lets +onlyGivenNames x; refine (?_ : Ok q x → _) ?_; (intro _; clear_value x))
    | (extract_lets +onlyGivenNames f0; have z : (_ → _) := f0; clear z)
    | (extract_lets +onlyGivenNames x; clear_value x)
    | (extract_lets +onlyGivenNames x)
    | split
    | (unfold x)
    | (unfold f0)
    | (dsimp only)
    | assumption)

theorem bar4Write_ok {q : Kept} (c : Fin 4) (off : Nat) (v : Word) (s : State) (hok : Ok q s) (t_cabs : ¬ q.fixed .cabs := by assumption) (t_out : ¬ q.fixed .out := by assumption) : Ok q (bar4Write c off v s) := by
  unfold bar4Write
  (repeat' first
    | with_reducible assumption
    | intro _
    | with_reducible apply State.modCab_ok
    | with_reducible apply maskVector_ok
    | with_reducible apply ok_ite
    | with_reducible apply ok_foldl
    | (extract_lets +onlyGivenNames x; refine (?_ : Ok q x → _) ?_; (intro _; clear_value x))
    | (extract_lets +onlyGivenNames f0; have z : (_ → _) := f0; clear z)
    | (extract_lets +onlyGivenNames x; clear_value x)
    | (extract_lets +onlyGivenNames x)
    | split
    | (unfold x)
    | (unfold f0)
    | (dsimp only)
    | assumption)

theorem execMsixVectorUnmask_ok {q : Kept} (t : Nat) (c : Fin 4) (off : Nat) (v : Word) (size : Nat) (s : State) (hok : Ok q s) (t_now : ¬ q.fixed .now := by assumption) (t_cabs : ¬ q.fixed .cabs := by assumption) (t_out : ¬ q.fixed .out := by assumption) : OkOut q (execMsixVectorUnmask t c off v size s) := by
  unfold execMsixVectorUnmask
  (repeat' first
    | with_reducible assumption
    | intro _
    | with_reducible apply State.reach_ok
    | with_reducible apply State.onlyIf_ok
    | with_reducible apply word32_ok
    | with_reducible apply bar4Write_ok
    | with_reducible apply ok_ite
    | with_reducible apply ok_foldl
    | with_reducible apply ok_next
    | (extract_lets +onlyGivenNames x; refine (?_ : Ok q x → _) ?_; (intro _; clear_value x))
    | (extract_lets +onlyGivenNames f0; have z : (_ → _) := f0; clear z)
    | (extract_lets +onlyGivenNames x; clear_value x)
    | (extract_lets +onlyGivenNames x)
    | split
    | (unfold x)
    | (unfold f0)
    | (dsimp only)
    | assumption)

theorem landEnable_ok {q : Kept} (c : Fin 4) (n : Fin 16) (s : State) (hok : Ok q s) (t_regs : ¬ q.fixed .regs := by assumption) (t_cabs : ¬ q.fixed .cabs := by assumption) : Ok q (landEnable c n s) := by
  unfold landEnable
  (repeat' first
    | with_reducible assumption
    | intro _
    | with_reducible apply State.setFld_ok
    | with_reducible apply State.modRing_ok
    | with_reducible apply ok_ite
    | with_reducible apply ok_foldl
    | (extract_lets +onlyGivenNames x; refine (?_ : Ok q x → _) ?_; (intro _; clear_value x))
    | (extract_lets +onlyGivenNames f0; have z : (_ → _) := f0; clear z)
    | (extract_lets +onlyGivenNames x; clear_value x)
    | (extract_lets +onlyGivenNames x)
    | split
    | (unfold x)
    | (unfold f0)
    | (dsimp only)
    | assumption)

theorem setRingEn_ok {q : Kept} (c : Fin 4) (n : Fin 16) (s : State) (hok : Ok q s) (t_regs : ¬ q.fixed .regs := by assumption) (t_cabs : ¬ q.fixed .cabs := by assumption) : Ok q (setRingEn c n s) := by
  unfold setRingEn
  (repeat' first
    | with_reducible assumption
    | intro _
    | with_reducible apply State.setBit_ok
    | with_reducible apply State.modRing_ok
    | with_reducible apply followCredit_ok
    | with_reducible apply landEnable_ok
    | with_reducible apply ok_ite
    | with_reducible apply ok_foldl
    | (extract_lets +onlyGivenNames x; refine (?_ : Ok q x → _) ?_; (intro _; clear_value x))
    | (extract_lets +onlyGivenNames f0; have z : (_ → _) := f0; clear z)
    | (extract_lets +onlyGivenNames x; clear_value x)
    | (extract_lets +onlyGivenNames x)
    | split
    | (unfold x)
    | (unfold f0)
    | (dsimp only)
    | assumption)

theorem execRingEnable_ok {q : Kept} (t : Nat) (c : Fin 4) (n : Fin 16) (s : State) (hok : Ok q s) (t_now : ¬ q.fixed .now := by assumption) (t_regs : ¬ q.fixed .regs := by assumption) (t_cabs : ¬ q.fixed .cabs := by assumption) : OkOut q (execRingEnable t c n s) := by
  unfold execRingEnable
  (repeat' first
    | with_reducible assumption
    | intro _
    | with_reducible apply State.reach_ok
    | with_reducible apply State.onlyIf_ok
    | with_reducible apply setRingEn_ok
    | with_reducible apply ok_ite
    | with_reducible apply ok_foldl
    | with_reducible apply ok_next
    | (extract_lets +onlyGivenNames x; refine (?_ : Ok q x → _) ?_; (intro _; clear_value x))
    | (extract_lets +onlyGivenNames f0; have z : (_ → _) := f0; clear z)
    | (extract_lets +onlyGivenNames x; clear_value x)
    | (extract_lets +onlyGivenNames x)
    | split
    | (unfold x)
    | (unfold f0)
    | (dsimp only)
    | assumption)

theorem ringOff_ok {q : Kept} (c : Fin 4) (n : Fin 16) (s : State) (hok : Ok q s) (t_regs : ¬ q.fixed .regs := by assumption) (t_cabs : ¬ q.fixed .cabs := by assumption) : Ok q (ringOff c n s) := by
  unfold ringOff
  (repeat' first
    | with_reducible assumption
    | intro _
    | with_reducible apply State.setFld_ok
    | with_reducible apply State.setBit_ok
    | with_reducible apply State.modRing_ok
    | with_reducible apply ok_ite
    | with_reducible apply ok_foldl
    | (extract_lets +onlyGivenNames x; refine (?_ : Ok q x → _) ?_; (intro _; clear_value x))
    | (extract_lets +onlyGivenNames f0; have z : (_ → _) := f0; clear z)
    | (extract_lets +onlyGivenNames x; clear_value x)
    | (extract_lets +onlyGivenNames x)
    | split
    | (unfold x)
    | (unfold f0)
    | (dsimp only)
    | assumption)

theorem exportDone_ok {q : Kept} (x : Export) (st : Nat) (s : State) (hok : Ok q s) (t_regs : ¬ q.fixed .regs := by assumption) (t_cabs : ¬ q.fixed .cabs := by assumption) (t_recorder : ¬ q.fixed .recorder := by assumption) (t_out : ¬ q.fixed .out := by assumption) : Ok q (exportDone x st s) := by
  unfold exportDone
  (repeat' first
    | with_reducible assumption
    | intro _
    | with_reducible apply raiseEvent_ok
    | with_reducible apply ok_ite
    | with_reducible apply ok_foldl
    | (extract_lets +onlyGivenNames x; refine (?_ : Ok q x → _) ?_; (intro _; clear_value x))
    | (extract_lets +onlyGivenNames f0; have z : (_ → _) := f0; clear z)
    | (extract_lets +onlyGivenNames x; clear_value x)
    | (extract_lets +onlyGivenNames x)
    | split
    | (unfold x)
    | (unfold f0)
    | (dsimp only)
    | assumption)

theorem abortExports_ok {q : Kept} (c : Fin 4) (n : Fin 16) (s : State) (hok : Ok q s) (t_regs : ¬ q.fixed .regs := by assumption) (t_cabs : ¬ q.fixed .cabs := by assumption) (t_recorder : ¬ q.fixed .recorder := by assumption) (t_out : ¬ q.fixed .out := by assumption) : Ok q (abortExports c n s) := by
  unfold abortExports
  (repeat' first
    | with_reducible assumption
    | intro _
    | with_reducible apply State.modRec_ok
    | with_reducible apply exportDone_ok
    | with_reducible apply ok_ite
    | with_reducible apply ok_foldl
    | (extract_lets +onlyGivenNames x; refine (?_ : Ok q x → _) ?_; (intro _; clear_value x))
    | (extract_lets +onlyGivenNames f0; have z : (_ → _) := f0; clear z)
    | (extract_lets +onlyGivenNames x; clear_value x)
    | (extract_lets +onlyGivenNames x)
    | split
    | (unfold x)
    | (unfold f0)
    | (dsimp only)
    | assumption)

theorem staticViolation_ok {q : Kept} (c : Fin 4) (a : Nat) (v : Word) (writer : Nat) (s : State) (hok : Ok q s) (t_regs : ¬ q.fixed .regs := by assumption) (t_recorder : ¬ q.fixed .recorder := by assumption) : Ok q (staticViolation c a v writer s) := by
  unfold staticViolation
  (repeat' first
    | with_reducible assumption
    | intro _
    | with_reducible apply State.count_ok
    | with_reducible apply record_ok
    | with_reducible apply ok_ite
    | with_reducible apply ok_foldl
    | (extract_lets +onlyGivenNames x; refine (?_ : Ok q x → _) ?_; (intro _; clear_value x))
    | (extract_lets +onlyGivenNames f0; have z : (_ → _) := f0; clear z)
    | (extract_lets +onlyGivenNames x; clear_value x)
    | (extract_lets +onlyGivenNames x)
    | split
    | (unfold x)
    | (unfold f0)
    | (dsimp only)
    | assumption)

theorem clearRingEn_ok {q : Kept} (c : Fin 4) (n : Fin 16) (s : State) (hok : Ok q s) (t_regs : ¬ q.fixed .regs := by assumption) (t_cabs : ¬ q.fixed .cabs := by assumption) (t_recorder : ¬ q.fixed .recorder := by assumption) (t_out : ¬ q.fixed .out := by assumption) : Ok q (clearRingEn c n s) := by
  unfold clearRingEn
  (repeat' first
    | with_reducible assumption
    | intro _
    | with_reducible apply State.setFld_ok
    | with_reducible apply State.setBit_ok
    | with_reducible apply State.modRing_ok
    | with_reducible apply followCredit_ok
    | with_reducible apply ringOff_ok
    | with_reducible apply abortExports_ok
    | with_reducible apply staticViolation_ok
    | with_reducible apply ok_ite
    | with_reducible apply ok_foldl
    | (extract_lets +onlyGivenNames x; refine (?_ : Ok q x → _) ?_; (intro _; clear_value x))
    | (extract_lets +onlyGivenNames f0; have z : (_ → _) := f0; clear z)
    | (extract_lets +onlyGivenNames x; clear_value x)
    | (extract_lets +onlyGivenNames x)
    | split
    | (unfold x)
    | (unfold f0)
    | (dsimp only)
    | assumption)

theorem execRingDisable_ok {q : Kept} (t : Nat) (c : Fin 4) (n : Fin 16) (s : State) (hok : Ok q s) (t_now : ¬ q.fixed .now := by assumption) (t_regs : ¬ q.fixed .regs := by assumption) (t_cabs : ¬ q.fixed .cabs := by assumption) (t_recorder : ¬ q.fixed .recorder := by assumption) (t_out : ¬ q.fixed .out := by assumption) : OkOut q (execRingDisable t c n s) := by
  unfold execRingDisable
  (repeat' first
    | with_reducible assumption
    | intro _
    | with_reducible apply State.reach_ok
    | with_reducible apply State.onlyIf_ok
    | with_reducible apply clearRingEn_ok
    | with_reducible apply ok_ite
    | with_reducible apply ok_foldl
    | with_reducible apply ok_next
    | (extract_lets +onlyGivenNames x; refine (?_ : Ok q x → _) ?_; (intro _; clear_value x))
    | (extract_lets +onlyGivenNames f0; have z : (_ → _) := f0; clear z)
    | (extract_lets +onlyGivenNames x; clear_value x)
    | (extract_lets +onlyGivenNames x)
    | split
    | (unfold x)
    | (unfold f0)
    | (dsimp only)
    | assumption)

theorem drainEnd_ok {q : Kept} (c : Fin 4) (n : Fin 16) (s : State) (hok : Ok q s) (t_regs : ¬ q.fixed .regs := by assumption) (t_cabs : ¬ q.fixed .cabs := by assumption) : Ok q (drainEnd c n s) := by
  unfold drainEnd
  (repeat' first
    | with_reducible assumption
    | intro _
    | with_reducible apply followCredit_ok
    | with_reducible apply landEnable_ok
    | with_reducible apply ringOff_ok
    | with_reducible apply ok_ite
    | with_reducible apply ok_foldl
    | (extract_lets +onlyGivenNames x; refine (?_ : Ok q x → _) ?_; (intro _; clear_value x))
    | (extract_lets +onlyGivenNames f0; have z : (_ → _) := f0; clear z)
    | (extract_lets +onlyGivenNames x; clear_value x)
    | (extract_lets +onlyGivenNames x)
    | split
    | (unfold x)
    | (unfold f0)
    | (dsimp only)
    | assumption)

theorem execRingDrainEnd_ok {q : Kept} (t : Nat) (c : Fin 4) (n : Fin 16) (s : State) (hok : Ok q s) (t_now : ¬ q.fixed .now := by assumption) (t_regs : ¬ q.fixed .regs := by assumption) (t_cabs : ¬ q.fixed .cabs := by assumption) : OkOut q (execRingDrainEnd t c n s) := by
  unfold execRingDrainEnd
  (repeat' first
    | with_reducible assumption
    | intro _
    | with_reducible apply State.reach_ok
    | with_reducible apply drainEnd_ok
    | with_reducible apply ok_ite
    | with_reducible apply ok_foldl
    | with_reducible apply ok_next
    | (extract_lets +onlyGivenNames x; refine (?_ : Ok q x → _) ?_; (intro _; clear_value x))
    | (extract_lets +onlyGivenNames f0; have z : (_ → _) := f0; clear z)
    | (extract_lets +onlyGivenNames x; clear_value x)
    | (extract_lets +onlyGivenNames x)
    | split
    | (unfold x)
    | (unfold f0)
    | (dsimp only)
    | assumption)

theorem execCabinetWdogKick_ok {q : Kept} (t : Nat) (c : Fin 4) (s : State) (hok : Ok q s) (t_now : ¬ q.fixed .now := by assumption) (t_regs : ¬ q.fixed .regs := by assumption) (t_cabs : ¬ q.fixed .cabs := by assumption) : OkOut q (execCabinetWdogKick t c s) := by
  unfold execCabinetWdogKick
  (repeat' first
    | with_reducible assumption
    | intro _
    | with_reducible apply State.reach_ok
    | with_reducible apply State.onlyIf_ok
    | with_reducible apply kickWatchdog_ok
    | with_reducible apply ok_ite
    | with_reducible apply ok_foldl
    | with_reducible apply ok_next
    | (extract_lets +onlyGivenNames x; refine (?_ : Ok q x → _) ?_; (intro _; clear_value x))
    | (extract_lets +onlyGivenNames f0; have z : (_ → _) := f0; clear z)
    | (extract_lets +onlyGivenNames x; clear_value x)
    | (extract_lets +onlyGivenNames x)
    | split
    | (unfold x)
    | (unfold f0)
    | (dsimp only)
    | assumption)

theorem wdogExpire_ok {q : Kept} (c : Fin 4) (s : State) (hok : Ok q s) (t_regs : ¬ q.fixed .regs := by assumption) (t_axes : ¬ q.fixed .axes := by assumption) (t_ports : ¬ q.fixed .ports := by assumption) (t_engines : ¬ q.fixed .engines := by assumption) (t_cabs : ¬ q.fixed .cabs := by assumption) (t_recorder : ¬ q.fixed .recorder := by assumption) (t_out : ¬ q.fixed .out := by assumption) : Ok q (wdogExpire c s) := by
  unfold wdogExpire
  (repeat' first
    | with_reducible assumption
    | intro _
    | with_reducible apply State.setBit_ok
    | with_reducible apply raiseFaultAll_ok
    | with_reducible apply ok_ite
    | with_reducible apply ok_foldl
    | (extract_lets +onlyGivenNames x; refine (?_ : Ok q x → _) ?_; (intro _; clear_value x))
    | (extract_lets +onlyGivenNames f0; have z : (_ → _) := f0; clear z)
    | (extract_lets +onlyGivenNames x; clear_value x)
    | (extract_lets +onlyGivenNames x)
    | split
    | (unfold x)
    | (unfold f0)
    | (dsimp only)
    | assumption)

theorem execCabinetWdogExpiry_ok {q : Kept} (t : Nat) (c : Fin 4) (s : State) (hok : Ok q s) (t_now : ¬ q.fixed .now := by assumption) (t_regs : ¬ q.fixed .regs := by assumption) (t_axes : ¬ q.fixed .axes := by assumption) (t_ports : ¬ q.fixed .ports := by assumption) (t_engines : ¬ q.fixed .engines := by assumption) (t_cabs : ¬ q.fixed .cabs := by assumption) (t_recorder : ¬ q.fixed .recorder := by assumption) (t_out : ¬ q.fixed .out := by assumption) : OkOut q (execCabinetWdogExpiry t c s) := by
  unfold execCabinetWdogExpiry
  (repeat' first
    | with_reducible assumption
    | intro _
    | with_reducible apply State.reach_ok
    | with_reducible apply wdogExpire_ok
    | with_reducible apply ok_ite
    | with_reducible apply ok_foldl
    | with_reducible apply ok_next
    | (extract_lets +onlyGivenNames x; refine (?_ : Ok q x → _) ?_; (intro _; clear_value x))
    | (extract_lets +onlyGivenNames f0; have z : (_ → _) := f0; clear z)
    | (extract_lets +onlyGivenNames x; clear_value x)
    | (extract_lets +onlyGivenNames x)
    | split
    | (unfold x)
    | (unfold f0)
    | (dsimp only)
    | assumption)

theorem resetRing_ok {q : Kept} (c : Fin 4) (n : Fin 16) (s : State) (hok : Ok q s) (t_regs : ¬ q.fixed .regs := by assumption) (t_cabs : ¬ q.fixed .cabs := by assumption) (t_recorder : ¬ q.fixed .recorder := by assumption) : Ok q (resetRing c n s) := by
  unfold resetRing
  (repeat' first
    | with_reducible assumption
    | intro _
    | with_reducible apply State.setReg_ok
    | with_reducible apply State.modRing_ok
    | with_reducible apply State.modRec_ok
    | with_reducible apply ok_ite
    | with_reducible apply ok_foldl
    | (extract_lets +onlyGivenNames x; refine (?_ : Ok q x → _) ?_; (intro _; clear_value x))
    | (extract_lets +onlyGivenNames f0; have z : (_ → _) := f0; clear z)
    | (extract_lets +onlyGivenNames x; clear_value x)
    | (extract_lets +onlyGivenNames x)
    | split
    | (unfold x)
    | (unfold f0)
    | (dsimp only)
    | assumption)

theorem muteCabinet_ok {q : Kept} (c : Fin 4) (s : State) (hok : Ok q s) (t_axes : ¬ q.fixed .axes := by assumption) (t_tiles : ¬ q.fixed .tiles := by assumption) (t_engines : ¬ q.fixed .engines := by assumption) : Ok q (muteCabinet c s) := by
  unfold muteCabinet
  (repeat' first
    | with_reducible assumption
    | intro _
    | with_reducible apply State.modAxis_ok
    | with_reducible apply State.modTile_ok
    | with_reducible apply State.modEng_ok
    | with_reducible apply ok_ite
    | with_reducible apply ok_foldl
    | (extract_lets +onlyGivenNames x; refine (?_ : Ok q x → _) ?_; (intro _; clear_value x))
    | (extract_lets +onlyGivenNames f0; have z : (_ → _) := f0; clear z)
    | (extract_lets +onlyGivenNames x; clear_value x)
    | (extract_lets +onlyGivenNames x)
    | split
    | (unfold x)
    | (unfold f0)
    | (dsimp only)
    | assumption)

theorem resetCabinet_ok {q : Kept} (c : Fin 4) (s : State) (hok : Ok q s) (t_regs : ¬ q.fixed .regs := by assumption) (t_axes : ¬ q.fixed .axes := by assumption) (t_tiles : ¬ q.fixed .tiles := by assumption) (t_engines : ¬ q.fixed .engines := by assumption) (t_cabs : ¬ q.fixed .cabs := by assumption) (t_recorder : ¬ q.fixed .recorder := by assumption) : Ok q (resetCabinet c s) := by
  unfold resetCabinet
  (repeat' first
    | with_reducible assumption
    | intro _
    | with_reducible apply State.setFld_ok
    | with_reducible apply State.setBit_ok
    | with_reducible apply State.modCab_ok
    | with_reducible apply resetRing_ok
    | with_reducible apply muteCabinet_ok
    | with_reducible apply ok_ite
    | with_reducible apply ok_foldl
    | (extract_lets +onlyGivenNames x; refine (?_ : Ok q x → _) ?_; (intro _; clear_value x))
    | (extract_lets +onlyGivenNames f0; have z : (_ → _) := f0; clear z)
    | (extract_lets +onlyGivenNames x; clear_value x)
    | (extract_lets +onlyGivenNames x)
    | split
    | (unfold x)
    | (unfold f0)
    | (dsimp only)
    | assumption)

theorem linkFault_ok {q : Kept} (rx : Nat) (c : Fin 4) (s : State) (hok : Ok q s) (t_regs : ¬ q.fixed .regs := by assumption) (t_axes : ¬ q.fixed .axes := by assumption) (t_ports : ¬ q.fixed .ports := by assumption) (t_engines : ¬ q.fixed .engines := by assumption) (t_cabs : ¬ q.fixed .cabs := by assumption) (t_recorder : ¬ q.fixed .recorder := by assumption) (t_out : ¬ q.fixed .out := by assumption) : Ok q (linkFault rx c s) := by
  unfold linkFault
  (repeat' first
    | with_reducible assumption
    | intro _
    | with_reducible apply raiseFaultRx_ok
    | with_reducible apply ok_ite
    | with_reducible apply ok_foldl
    | (extract_lets +onlyGivenNames x; refine (?_ : Ok q x → _) ?_; (intro _; clear_value x))
    | (extract_lets +onlyGivenNames f0; have z : (_ → _) := f0; clear z)
    | (extract_lets +onlyGivenNames x; clear_value x)
    | (extract_lets +onlyGivenNames x)
    | split
    | (unfold x)
    | (unfold f0)
    | (dsimp only)
    | assumption)

theorem flReset_ok {q : Kept} (c : Fin 4) (s : State) (hok : Ok q s) (t_regs : ¬ q.fixed .regs := by assumption) (t_axes : ¬ q.fixed .axes := by assumption) (t_ports : ¬ q.fixed .ports := by assumption) (t_tiles : ¬ q.fixed .tiles := by assumption) (t_engines : ¬ q.fixed .engines := by assumption) (t_cabs : ¬ q.fixed .cabs := by assumption) (t_recorder : ¬ q.fixed .recorder := by assumption) (t_out : ¬ q.fixed .out := by assumption) : Ok q (flReset c s) := by
  unfold flReset
  (repeat' first
    | with_reducible assumption
    | intro _
    | with_reducible apply resetCabinet_ok
    | with_reducible apply linkFault_ok
    | with_reducible apply ok_ite
    | with_reducible apply ok_foldl
    | (extract_lets +onlyGivenNames x; refine (?_ : Ok q x → _) ?_; (intro _; clear_value x))
    | (extract_lets +onlyGivenNames f0; have z : (_ → _) := f0; clear z)
    | (extract_lets +onlyGivenNames x; clear_value x)
    | (extract_lets +onlyGivenNames x)
    | split
    | (unfold x)
    | (unfold f0)
    | (dsimp only)
    | assumption)

theorem execFunctionLevelReset_ok {q : Kept} (t : Nat) (c : Fin 4) (s : State) (hok : Ok q s) (t_now : ¬ q.fixed .now := by assumption) (t_regs : ¬ q.fixed .regs := by assumption) (t_axes : ¬ q.fixed .axes := by assumption) (t_ports : ¬ q.fixed .ports := by assumption) (t_tiles : ¬ q.fixed .tiles := by assumption) (t_engines : ¬ q.fixed .engines := by assumption) (t_cabs : ¬ q.fixed .cabs := by assumption) (t_recorder : ¬ q.fixed .recorder := by assumption) (t_out : ¬ q.fixed .out := by assumption) : OkOut q (execFunctionLevelReset t c s) := by
  unfold execFunctionLevelReset
  (repeat' first
    | with_reducible assumption
    | intro _
    | with_reducible apply State.reach_ok
    | with_reducible apply flReset_ok
    | with_reducible apply ok_ite
    | with_reducible apply ok_foldl
    | with_reducible apply ok_next
    | (extract_lets +onlyGivenNames x; refine (?_ : Ok q x → _) ?_; (intro _; clear_value x))
    | (extract_lets +onlyGivenNames f0; have z : (_ → _) := f0; clear z)
    | (extract_lets +onlyGivenNames x; clear_value x)
    | (extract_lets +onlyGivenNames x)
    | split
    | (unfold x)
    | (unfold f0)
    | (dsimp only)
    | assumption)

theorem execD3hotEntry_ok {q : Kept} (t : Nat) (c : Fin 4) (s : State) (hok : Ok q s) (t_now : ¬ q.fixed .now := by assumption) (t_regs : ¬ q.fixed .regs := by assumption) (t_axes : ¬ q.fixed .axes := by assumption) (t_ports : ¬ q.fixed .ports := by assumption) (t_tiles : ¬ q.fixed .tiles := by assumption) (t_engines : ¬ q.fixed .engines := by assumption) (t_cabs : ¬ q.fixed .cabs := by assumption) (t_recorder : ¬ q.fixed .recorder := by assumption) (t_out : ¬ q.fixed .out := by assumption) : OkOut q (execD3hotEntry t c s) := by
  unfold execD3hotEntry
  (repeat' first
    | with_reducible assumption
    | intro _
    | with_reducible apply State.reach_ok
    | with_reducible apply flReset_ok
    | with_reducible apply ok_ite
    | with_reducible apply ok_foldl
    | with_reducible apply ok_next
    | (extract_lets +onlyGivenNames x; refine (?_ : Ok q x → _) ?_; (intro _; clear_value x))
    | (extract_lets +onlyGivenNames f0; have z : (_ → _) := f0; clear z)
    | (extract_lets +onlyGivenNames x; clear_value x)
    | (extract_lets +onlyGivenNames x)
    | split
    | (unfold x)
    | (unfold f0)
    | (dsimp only)
    | assumption)

theorem hotReset_ok {q : Kept} (h : Fin 2) (linkDown : Bool) (s : State) (hok : Ok q s) (t_regs : ¬ q.fixed .regs := by assumption) (t_axes : ¬ q.fixed .axes := by assumption) (t_ports : ¬ q.fixed .ports := by assumption) (t_tiles : ¬ q.fixed .tiles := by assumption) (t_engines : ¬ q.fixed .engines := by assumption) (t_cabs : ¬ q.fixed .cabs := by assumption) (t_recorder : ¬ q.fixed .recorder := by assumption) (t_out : ¬ q.fixed .out := by assumption) : Ok q (hotReset h linkDown s) := by
  unfold hotReset
  (repeat' first
    | with_reducible assumption
    | intro _
    | with_reducible apply State.setReg_ok
    | with_reducible apply State.setBit_ok
    | with_reducible apply resetCabinet_ok
    | with_reducible apply linkFault_ok
    | with_reducible apply ok_ite
    | with_reducible apply ok_foldl
    | (extract_lets +onlyGivenNames x; refine (?_ : Ok q x → _) ?_; (intro _; clear_value x))
    | (extract_lets +onlyGivenNames f0; have z : (_ → _) := f0; clear z)
    | (extract_lets +onlyGivenNames x; clear_value x)
    | (extract_lets +onlyGivenNames x)
    | split
    | (unfold x)
    | (unfold f0)
    | (dsimp only)
    | assumption)

theorem execHotReset_ok {q : Kept} (t : Nat) (h : Fin 2) (linkDown : Bool) (s : State) (hok : Ok q s) (t_now : ¬ q.fixed .now := by assumption) (t_regs : ¬ q.fixed .regs := by assumption) (t_axes : ¬ q.fixed .axes := by assumption) (t_ports : ¬ q.fixed .ports := by assumption) (t_tiles : ¬ q.fixed .tiles := by assumption) (t_engines : ¬ q.fixed .engines := by assumption) (t_cabs : ¬ q.fixed .cabs := by assumption) (t_recorder : ¬ q.fixed .recorder := by assumption) (t_out : ¬ q.fixed .out := by assumption) : OkOut q (execHotReset t h linkDown s) := by
  unfold execHotReset
  (repeat' first
    | with_reducible assumption
    | intro _
    | with_reducible apply State.reach_ok
    | with_reducible apply hotReset_ok
    | with_reducible apply ok_ite
    | with_reducible apply ok_foldl
    | with_reducible apply ok_next
    | (extract_lets +onlyGivenNames x; refine (?_ : Ok q x → _) ?_; (intro _; clear_value x))
    | (extract_lets +onlyGivenNames f0; have z : (_ → _) := f0; clear z)
    | (extract_lets +onlyGivenNames x; clear_value x)
    | (extract_lets +onlyGivenNames x)
    | split
    | (unfold x)
    | (unfold f0)
    | (dsimp only)
    | assumption)

theorem linkUp_ok {q : Kept} (h : Fin 2) (width speed : Nat) (l0 : Bool) (s : State) (hok : Ok q s) (t_regs : ¬ q.fixed .regs := by assumption) : Ok q (linkUp h width speed l0 s) := by
  unfold linkUp
  (repeat' first
    | with_reducible assumption
    | intro _
    | with_reducible apply State.setFld_ok
    | with_reducible apply State.setBit_ok
    | with_reducible apply ok_ite
    | with_reducible apply ok_foldl
    | (extract_lets +onlyGivenNames x; refine (?_ : Ok q x → _) ?_; (intro _; clear_value x))
    | (extract_lets +onlyGivenNames f0; have z : (_ → _) := f0; clear z)
    | (extract_lets +onlyGivenNames x; clear_value x)
    | (extract_lets +onlyGivenNames x)
    | split
    | (unfold x)
    | (unfold f0)
    | (dsimp only)
    | assumption)

theorem execPcieLinkUp_ok {q : Kept} (t : Nat) (h : Fin 2) (width speed : Nat) (l0 : Bool) (s : State) (hok : Ok q s) (t_now : ¬ q.fixed .now := by assumption) (t_regs : ¬ q.fixed .regs := by assumption) : OkOut q (execPcieLinkUp t h width speed l0 s) := by
  unfold execPcieLinkUp
  (repeat' first
    | with_reducible assumption
    | intro _
    | with_reducible apply State.reach_ok
    | with_reducible apply State.onlyIf_ok
    | with_reducible apply linkUp_ok
    | with_reducible apply ok_ite
    | with_reducible apply ok_foldl
    | with_reducible apply ok_next
    | (extract_lets +onlyGivenNames x; refine (?_ : Ok q x → _) ?_; (intro _; clear_value x))
    | (extract_lets +onlyGivenNames f0; have z : (_ → _) := f0; clear z)
    | (extract_lets +onlyGivenNames x; clear_value x)
    | (extract_lets +onlyGivenNames x)
    | split
    | (unfold x)
    | (unfold f0)
    | (dsimp only)
    | assumption)

theorem landTraceStart_ok {q : Kept} (d : Desc) (s : State) (hok : Ok q s) (t_regs : ¬ q.fixed .regs := by assumption) (t_engines : ¬ q.fixed .engines := by assumption) (t_cabs : ¬ q.fixed .cabs := by assumption) (t_out : ¬ q.fixed .out := by assumption) : Ok q (landTraceStart d s) := by
  unfold landTraceStart
  (repeat' first
    | with_reducible assumption
    | intro _
    | with_reducible apply State.modRing_ok
    | with_reducible apply complete_ok
    | with_reducible apply ok_ite
    | with_reducible apply ok_foldl
    | (extract_lets +onlyGivenNames x; refine (?_ : Ok q x → _) ?_; (intro _; clear_value x))
    | (extract_lets +onlyGivenNames f0; have z : (_ → _) := f0; clear z)
    | (extract_lets +onlyGivenNames x; clear_value x)
    | (extract_lets +onlyGivenNames x)
    | split
    | (unfold x)
    | (unfold f0)
    | (dsimp only)
    | assumption)

theorem execTraceStart_ok {q : Kept} (d : Desc) (s : State) (hok : Ok q s) (t_now : ¬ q.fixed .now := by assumption) (t_regs : ¬ q.fixed .regs := by assumption) (t_engines : ¬ q.fixed .engines := by assumption) (t_cabs : ¬ q.fixed .cabs := by assumption) (t_out : ¬ q.fixed .out := by assumption) : OkOut q (execTraceStart d s) := by
  unfold execTraceStart
  (repeat' first
    | with_reducible assumption
    | intro _
    | with_reducible apply submit_ok
    | with_reducible apply landTraceStart_ok
    | with_reducible apply ok_ite
    | with_reducible apply ok_foldl
    | with_reducible apply ok_next
    | (extract_lets +onlyGivenNames x; refine (?_ : Ok q x → _) ?_; (intro _; clear_value x))
    | (extract_lets +onlyGivenNames f0; have z : (_ → _) := f0; clear z)
    | (extract_lets +onlyGivenNames x; clear_value x)
    | (extract_lets +onlyGivenNames x)
    | split
    | (unfold x)
    | (unfold f0)
    | (dsimp only)
    | assumption)

theorem landTraceStop_ok {q : Kept} (d : Desc) (s : State) (hok : Ok q s) (t_regs : ¬ q.fixed .regs := by assumption) (t_engines : ¬ q.fixed .engines := by assumption) (t_cabs : ¬ q.fixed .cabs := by assumption) (t_out : ¬ q.fixed .out := by assumption) : Ok q (landTraceStop d s) := by
  unfold landTraceStop
  (repeat' first
    | with_reducible assumption
    | intro _
    | with_reducible apply State.modRing_ok
    | with_reducible apply complete_ok
    | with_reducible apply ok_ite
    | with_reducible apply ok_foldl
    | (extract_lets +onlyGivenNames x; refine (?_ : Ok q x → _) ?_; (intro _; clear_value x))
    | (extract_lets +onlyGivenNames f0; have z : (_ → _) := f0; clear z)
    | (extract_lets +onlyGivenNames x; clear_value x)
    | (extract_lets +onlyGivenNames x)
    | split
    | (unfold x)
    | (unfold f0)
    | (dsimp only)
    | assumption)

theorem execTraceStop_ok {q : Kept} (d : Desc) (s : State) (hok : Ok q s) (t_now : ¬ q.fixed .now := by assumption) (t_regs : ¬ q.fixed .regs := by assumption) (t_engines : ¬ q.fixed .engines := by assumption) (t_cabs : ¬ q.fixed .cabs := by assumption) (t_out : ¬ q.fixed .out := by assumption) : OkOut q (execTraceStop d s) := by
  unfold execTraceStop
  (repeat' first
    | with_reducible assumption
    | intro _
    | with_reducible apply submit_ok
    | with_reducible apply landTraceStop_ok
    | with_reducible apply ok_ite
    | with_reducible apply ok_foldl
    | with_reducible apply ok_next
    | (extract_lets +onlyGivenNames x; refine (?_ : Ok q x → _) ?_; (intro _; clear_value x))
    | (extract_lets +onlyGivenNames f0; have z : (_ → _) := f0; clear z)
    | (extract_lets +onlyGivenNames x; clear_value x)
    | (extract_lets +onlyGivenNames x)
    | split
    | (unfold x)
    | (unfold f0)
    | (dsimp only)
    | assumption)

theorem traceCapture_ok {q : Kept} (c : Fin 4) (n : Fin 16) (s : State) (hok : Ok q s) (t_regs : ¬ q.fixed .regs := by assumption) (t_cabs : ¬ q.fixed .cabs := by assumption) (t_out : ¬ q.fixed .out := by assumption) : Ok q (traceCapture c n s) := by
  unfold traceCapture
  split <;>
  (repeat' first
    | with_reducible assumption
    | intro _
    | with_reducible apply State.count_ok
    | with_reducible apply State.modRing_ok
    | with_reducible apply writeEntry_ok
    | with_reducible apply ok_ite
    | with_reducible apply ok_foldl
    | (extract_lets +onlyGivenNames x; refine (?_ : Ok q x → _) ?_; (intro _; clear_value x))
    | (extract_lets +onlyGivenNames f0; have z : (_ → _) := f0; clear z)
    | (extract_lets +onlyGivenNames x; clear_value x)
    | (extract_lets +onlyGivenNames x)
    | split
    | (unfold x)
    | (unfold f0)
    | (dsimp only)
    | assumption)

end Sys2Proof.Machine
end

