-- ==== Sys2Proof/Laws/KeepEngineBase.lean ====
section
/-! SUPPORT. What the operations of Machine/EngineBase.lean keep (Laws/Keep.lean). -/

namespace Sys2Proof.Machine

set_option linter.unusedTactic false
set_option linter.unreachableTactic false
set_option linter.tactic.unusedName false
set_option linter.unusedVariables false

theorem startProgram_ok {q : Kept} (e : Fin 46) (arg : Word) (s : State) (hok : Ok q s) (t_regs : ¬ q.fixed .regs := by assumption) (t_engines : ¬ q.fixed .engines := by assumption) : Ok q (startProgram e arg s) := by
  unfold startProgram
  (repeat' first
    | with_reducible assumption
    | intro _
    | with_reducible apply State.setFld_ok
    | with_reducible apply State.modEng_ok
    | with_reducible apply ok_ite
    | with_reducible apply ok_foldl
    | (extract_lets +onlyGivenNames x; refine (?_ : Ok q x → _) ?_; (intro _; clear_value x))
    | (extract_lets +onlyGivenNames f0; have z : (_ → _) := f0; clear z)
    | (extract_lets +onlyGivenNames x; clear_value x)
    | (extract_lets +onlyGivenNames x)
    | split
    | (unfold x)
    | (unfold f0)
    | (dsimp only)
    | assumption)

theorem endRun_ok {q : Kept} (e : Fin 46) (s : State) (hok : Ok q s) (t_regs : ¬ q.fixed .regs := by assumption) (t_engines : ¬ q.fixed .engines := by assumption) : Ok q (endRun e s) := by
  unfold endRun
  (repeat' first
    | with_reducible assumption
    | intro _
    | with_reducible apply State.setFld_ok
    | with_reducible apply State.count_ok
    | with_reducible apply State.peak_ok
    | with_reducible apply State.modEng_ok
    | with_reducible apply ok_ite
    | with_reducible apply ok_foldl
    | (extract_lets +onlyGivenNames x; refine (?_ : Ok q x → _) ?_; (intro _; clear_value x))
    | (extract_lets +onlyGivenNames f0; have z : (_ → _) := f0; clear z)
    | (extract_lets +onlyGivenNames x; clear_value x)
    | (extract_lets +onlyGivenNames x)
    | split
    | (unfold x)
    | (unfold f0)
    | (dsimp only)
    | assumption)

theorem raiseStopped_ok {q : Kept} (e : Fin 46) (cause : Nat) (s : State) (hok : Ok q s) (t_regs : ¬ q.fixed .regs := by assumption) (t_cabs : ¬ q.fixed .cabs := by assumption) (t_recorder : ¬ q.fixed .recorder := by assumption) (t_out : ¬ q.fixed .out := by assumption) : Ok q (raiseStopped e cause s) := by
  unfold raiseStopped
  (repeat' first
    | with_reducible assumption
    | intro _
    | with_reducible apply raiseEvent_ok
    | with_reducible apply ok_ite
    | with_reducible apply ok_foldl
    | (extract_lets +onlyGivenNames x; refine (?_ : Ok q x → _) ?_; (intro _; clear_value x))
    | (extract_lets +onlyGivenNames f0; have z : (_ → _) := f0; clear z)
    | (extract_lets +onlyGivenNames x; clear_value x)
    | (extract_lets +onlyGivenNames x)
    | split
    | (unfold x)
    | (unfold f0)
    | (dsimp only)
    | assumption)

theorem stopEngine_ok {q : Kept} (e : Fin 46) (cause : Nat) (s : State) (hok : Ok q s) (t_regs : ¬ q.fixed .regs := by assumption) (t_engines : ¬ q.fixed .engines := by assumption) (t_cabs : ¬ q.fixed .cabs := by assumption) (t_recorder : ¬ q.fixed .recorder := by assumption) (t_out : ¬ q.fixed .out := by assumption) : Ok q (stopEngine e cause s) := by
  unfold stopEngine
  (repeat' first
    | with_reducible assumption
    | intro _
    | with_reducible apply State.setFld_ok
    | with_reducible apply State.count_ok
    | with_reducible apply record_ok
    | with_reducible apply endRun_ok
    | with_reducible apply raiseStopped_ok
    | with_reducible apply ok_ite
    | with_reducible apply ok_foldl
    | (extract_lets +onlyGivenNames x; refine (?_ : Ok q x → _) ?_; (intro _; clear_value x))
    | (extract_lets +onlyGivenNames f0; have z : (_ → _) := f0; clear z)
    | (extract_lets +onlyGivenNames x; clear_value x)
    | (extract_lets +onlyGivenNames x)
    | split
    | (unfold x)
    | (unfold f0)
    | (dsimp only)
    | assumption)

theorem landSwap_ok {q : Kept} (e : Fin 46) (restart keep : Bool) (arg : Word) (s : State) (hok : Ok q s) (t_regs : ¬ q.fixed .regs := by assumption) (t_engines : ¬ q.fixed .engines := by assumption) :
    Ok q (landSwap e restart keep arg s) := by
  unfold landSwap
  extract_lets +onlyGivenNames old new x d s1 s2 s3
  have hd : q.wf → memWf d = true := by
    intro w
    unfold d
    split
    · exact memWf_data hok w e _
    · exact memWf_initData _
  have h1 : Ok q s1 := State.setBit_ok _ _ _ _ hok
  have h2 : Ok q s2 := by
    unfold s2
    exact ok_ite h1 (State.setBit_ok _ _ _ _ h1)
  have h3 : Ok q s3 := State.modEng_ok _ _ _ (fun w y hy => memsWf_setData (hi := new.isLt) rfl (hd w) hy) h2
  exact startProgram_ok _ _ _ h3

end Sys2Proof.Machine
end

