-- ==== Sys2Proof/Laws/KeepRecorder.lean ====
section
/-! SUPPORT. What the operations of Machine/Recorder.lean keep (Laws/Keep.lean). -/

namespace Sys2Proof.Machine

set_option linter.unusedTactic false
set_option linter.unreachableTactic false
set_option linter.tactic.unusedName false
set_option linter.unusedVariables false

theorem followRec_ok {q : Kept} (s : State) (hok : Ok q s) (t_regs : ¬ q.fixed .regs := by assumption) : Ok q (followRec s) := by
  unfold followRec
  (repeat' first
    | with_reducible assumption
    | intro _
    | with_reducible apply State.setFld_ok
    | with_reducible apply ok_ite
    | with_reducible apply ok_foldl
    | (extract_lets +onlyGivenNames x; refine (?_ : Ok q x → _) ?_; (intro _; clear_value x))
    | (extract_lets +onlyGivenNames f0; have z : (_ → _) := f0; clear z)
    | (extract_lets +onlyGivenNames x; clear_value x)
    | (extract_lets +onlyGivenNames x)
    | split
    | (unfold x)
    | (unfold f0)
    | (dsimp only)
    | assumption)

theorem requestFlush_ok {q : Kept} (s : State) (hok : Ok q s) (t_regs : ¬ q.fixed .regs := by assumption) : Ok q (requestFlush s) := by
  unfold requestFlush
  (repeat' first
    | with_reducible assumption
    | intro _
    | with_reducible apply State.setBit_ok
    | with_reducible apply ok_ite
    | with_reducible apply ok_foldl
    | (extract_lets +onlyGivenNames x; refine (?_ : Ok q x → _) ?_; (intro _; clear_value x))
    | (extract_lets +onlyGivenNames f0; have z : (_ → _) := f0; clear z)
    | (extract_lets +onlyGivenNames x; clear_value x)
    | (extract_lets +onlyGivenNames x)
    | split
    | (unfold x)
    | (unfold f0)
    | (dsimp only)
    | assumption)

theorem drawerAdd_ok {q : Kept} (r : Record) (s : State) (hok : Ok q s) (t_recorder : ¬ q.fixed .recorder := by assumption) : Ok q (drawerAdd r s) := by
  unfold drawerAdd
  (repeat' first
    | with_reducible assumption
    | intro _
    | with_reducible apply State.modRec_ok
    | with_reducible apply ok_ite
    | with_reducible apply ok_foldl
    | (extract_lets +onlyGivenNames x; refine (?_ : Ok q x → _) ?_; (intro _; clear_value x))
    | (extract_lets +onlyGivenNames f0; have z : (_ → _) := f0; clear z)
    | (extract_lets +onlyGivenNames x; clear_value x)
    | (extract_lets +onlyGivenNames x)
    | split
    | (unfold x)
    | (unfold f0)
    | (dsimp only)
    | assumption)

theorem takeSeq_ok {q : Kept} (s : State) (hok : Ok q s) (t_regs : ¬ q.fixed .regs := by assumption) : Ok q (takeSeq s) := by
  unfold takeSeq
  (repeat' first
    | with_reducible assumption
    | intro _
    | with_reducible apply State.setFld_ok
    | with_reducible apply ok_ite
    | with_reducible apply ok_foldl
    | (extract_lets +onlyGivenNames x; refine (?_ : Ok q x → _) ?_; (intro _; clear_value x))
    | (extract_lets +onlyGivenNames f0; have z : (_ → _) := f0; clear z)
    | (extract_lets +onlyGivenNames x; clear_value x)
    | (extract_lets +onlyGivenNames x)
    | split
    | (unfold x)
    | (unfold f0)
    | (dsimp only)
    | assumption)

theorem drawerRecord_ok {q : Kept} (r : Record) (s : State) (hok : Ok q s) (t_regs : ¬ q.fixed .regs := by assumption) (t_recorder : ¬ q.fixed .recorder := by assumption) : Ok q (drawerRecord r s) := by
  unfold drawerRecord
  (repeat' first
    | with_reducible assumption
    | intro _
    | with_reducible apply drawerAdd_ok
    | with_reducible apply takeSeq_ok
    | with_reducible apply ok_ite
    | with_reducible apply ok_foldl
    | (extract_lets +onlyGivenNames x; refine (?_ : Ok q x → _) ?_; (intro _; clear_value x))
    | (extract_lets +onlyGivenNames f0; have z : (_ → _) := f0; clear z)
    | (extract_lets +onlyGivenNames x; clear_value x)
    | (extract_lets +onlyGivenNames x)
    | split
    | (unfold x)
    | (unfold f0)
    | (dsimp only)
    | assumption)

theorem enterSafeHold_ok {q : Kept} (cls cause : Nat) (s : State) (hok : Ok q s) (t_regs : ¬ q.fixed .regs := by assumption) (t_axes : ¬ q.fixed .axes := by assumption) (t_ports : ¬ q.fixed .ports := by assumption) (t_engines : ¬ q.fixed .engines := by assumption) (t_cabs : ¬ q.fixed .cabs := by assumption) (t_recorder : ¬ q.fixed .recorder := by assumption) (t_out : ¬ q.fixed .out := by assumption) : Ok q (enterSafeHold cls cause s) := by
  unfold enterSafeHold
  (repeat' first
    | with_reducible assumption
    | intro _
    | with_reducible apply State.onlyIf_ok
    | with_reducible apply setDevState_ok
    | with_reducible apply raiseFaultRx_ok
    | with_reducible apply followRec_ok
    | with_reducible apply drawerRecord_ok
    | with_reducible apply ok_ite
    | with_reducible apply ok_foldl
    | (extract_lets +onlyGivenNames x; refine (?_ : Ok q x → _) ?_; (intro _; clear_value x))
    | (extract_lets +onlyGivenNames f0; have z : (_ → _) := f0; clear z)
    | (extract_lets +onlyGivenNames x; clear_value x)
    | (extract_lets +onlyGivenNames x)
    | split
    | (unfold x)
    | (unfold f0)
    | (dsimp only)
    | assumption)

theorem storeRecord_ok {q : Kept} (r : Record) (s : State) (hok : Ok q s) (t_regs : ¬ q.fixed .regs := by assumption) (t_recorder : ¬ q.fixed .recorder := by assumption) : Ok q (storeRecord r s) := by
  unfold storeRecord
  split <;>
  (repeat' first
    | with_reducible assumption
    | intro _
    | with_reducible apply State.count_ok
    | with_reducible apply State.modRec_ok
    | with_reducible apply ok_ite
    | with_reducible apply ok_foldl
    | (extract_lets +onlyGivenNames x; refine (?_ : Ok q x → _) ?_; (intro _; clear_value x))
    | (extract_lets +onlyGivenNames f0; have z : (_ → _) := f0; clear z)
    | (extract_lets +onlyGivenNames x; clear_value x)
    | (extract_lets +onlyGivenNames x)
    | split
    | (unfold x)
    | (unfold f0)
    | (dsimp only)
    | assumption)

theorem followFlushed_ok {q : Kept} (s : State) (hok : Ok q s) (t_regs : ¬ q.fixed .regs := by assumption) : Ok q (followFlushed s) := by
  unfold followFlushed
  (repeat' first
    | with_reducible assumption
    | intro _
    | with_reducible apply State.setFld_ok
    | with_reducible apply ok_ite
    | with_reducible apply ok_foldl
    | (extract_lets +onlyGivenNames x; refine (?_ : Ok q x → _) ?_; (intro _; clear_value x))
    | (extract_lets +onlyGivenNames f0; have z : (_ → _) := f0; clear z)
    | (extract_lets +onlyGivenNames x; clear_value x)
    | (extract_lets +onlyGivenNames x)
    | split
    | (unfold x)
    | (unfold f0)
    | (dsimp only)
    | assumption)

theorem enterJournal_ok {q : Kept} (r : Record) (s : State) (hok : Ok q s) (t_regs : ¬ q.fixed .regs := by assumption) (t_recorder : ¬ q.fixed .recorder := by assumption) : Ok q (enterJournal r s) := by
  unfold enterJournal
  (repeat' first
    | with_reducible assumption
    | intro _
    | with_reducible apply State.countN_ok
    | with_reducible apply State.count_ok
    | with_reducible apply State.modRec_ok
    | with_reducible apply followRec_ok
    | with_reducible apply requestFlush_ok
    | with_reducible apply takeSeq_ok
    | with_reducible apply storeRecord_ok
    | with_reducible apply followFlushed_ok
    | with_reducible apply ok_ite
    | with_reducible apply ok_foldl
    | (extract_lets +onlyGivenNames x; refine (?_ : Ok q x → _) ?_; (intro _; clear_value x))
    | (extract_lets +onlyGivenNames f0; have z : (_ → _) := f0; clear z)
    | (extract_lets +onlyGivenNames x; clear_value x)
    | (extract_lets +onlyGivenNames x)
    | split
    | (unfold x)
    | (unfold f0)
    | (dsimp only)
    | assumption)

theorem identityMerge_ok {q : Kept} (r : Record) (s : State) (hok : Ok q s) (t_regs : ¬ q.fixed .regs := by assumption) (t_recorder : ¬ q.fixed .recorder := by assumption) : OkOpt q (identityMerge r s) := by
  unfold identityMerge
  (repeat' first
    | with_reducible assumption
    | intro _
    | with_reducible apply State.count_ok
    | with_reducible apply State.modRec_ok
    | with_reducible apply record_ok
    | with_reducible apply ok_ite
    | with_reducible apply ok_foldl
    | with_reducible apply ok_some
    | with_reducible exact ok_none
    | (extract_lets +onlyGivenNames x; refine (?_ : Ok q x → _) ?_; (intro _; clear_value x))
    | (extract_lets +onlyGivenNames f0; have z : (_ → _) := f0; clear z)
    | (extract_lets +onlyGivenNames x; clear_value x)
    | (extract_lets +onlyGivenNames x)
    | split
    | (unfold x)
    | (unfold f0)
    | (dsimp only)
    | assumption)

theorem loseCandidate_ok {q : Kept} (r : Record) (s : State) (hok : Ok q s) (t_regs : ¬ q.fixed .regs := by assumption) (t_recorder : ¬ q.fixed .recorder := by assumption) : Ok q (loseCandidate r s) := by
  unfold loseCandidate
  (repeat' first
    | with_reducible assumption
    | intro _
    | with_reducible apply State.count_ok
    | with_reducible apply State.modRec_ok
    | with_reducible apply ok_ite
    | with_reducible apply ok_foldl
    | (extract_lets +onlyGivenNames x; refine (?_ : Ok q x → _) ?_; (intro _; clear_value x))
    | (extract_lets +onlyGivenNames f0; have z : (_ → _) := f0; clear z)
    | (extract_lets +onlyGivenNames x; clear_value x)
    | (extract_lets +onlyGivenNames x)
    | split
    | (unfold x)
    | (unfold f0)
    | (dsimp only)
    | assumption)

theorem stageRecord_ok {q : Kept} (r : Record) (s : State) (hok : Ok q s) (t_regs : ¬ q.fixed .regs := by assumption) (t_recorder : ¬ q.fixed .recorder := by assumption) : Ok q (stageRecord r s) := by
  unfold stageRecord
  split <;>
  (repeat' first
    | with_reducible assumption
    | intro _
    | with_reducible apply State.modRec_ok
    | with_reducible apply followRec_ok
    | with_reducible apply identityMerge_ok
    | with_reducible apply loseCandidate_ok
    | (refine okOpt_some ?_ (by assumption); apply identityMerge_ok)
    | with_reducible apply ok_ite
    | with_reducible apply ok_foldl
    | (extract_lets +onlyGivenNames x; refine (?_ : Ok q x → _) ?_; (intro _; clear_value x))
    | (extract_lets +onlyGivenNames f0; have z : (_ → _) := f0; clear z)
    | (extract_lets +onlyGivenNames x; clear_value x)
    | (extract_lets +onlyGivenNames x)
    | split
    | (unfold x)
    | (unfold f0)
    | (dsimp only)
    | assumption)

theorem recordArrives_ok {q : Kept} (s : State) (hok : Ok q s) (t_regs : ¬ q.fixed .regs := by assumption) (t_recorder : ¬ q.fixed .recorder := by assumption) : Ok q (recordArrives s) := by
  unfold recordArrives
  split <;>
  (repeat' first
    | with_reducible assumption
    | intro _
    | with_reducible apply State.modRec_ok
    | with_reducible apply stageRecord_ok
    | with_reducible apply ok_ite
    | with_reducible apply ok_foldl
    | (extract_lets +onlyGivenNames x; refine (?_ : Ok q x → _) ?_; (intro _; clear_value x))
    | (extract_lets +onlyGivenNames f0; have z : (_ → _) := f0; clear z)
    | (extract_lets +onlyGivenNames x; clear_value x)
    | (extract_lets +onlyGivenNames x)
    | split
    | (unfold x)
    | (unfold f0)
    | (dsimp only)
    | assumption)

theorem execRecordCandidate_ok {q : Kept} (t : Nat) (s : State) (hok : Ok q s) (t_now : ¬ q.fixed .now := by assumption) (t_regs : ¬ q.fixed .regs := by assumption) (t_recorder : ¬ q.fixed .recorder := by assumption) : OkOut q (execRecordCandidate t s) := by
  unfold execRecordCandidate
  (repeat' first
    | with_reducible assumption
    | intro _
    | with_reducible apply State.reach_ok
    | with_reducible apply recordArrives_ok
    | with_reducible apply ok_ite
    | with_reducible apply ok_foldl
    | with_reducible apply ok_next
    | (extract_lets +onlyGivenNames x; refine (?_ : Ok q x → _) ?_; (intro _; clear_value x))
    | (extract_lets +onlyGivenNames f0; have z : (_ → _) := f0; clear z)
    | (extract_lets +onlyGivenNames x; clear_value x)
    | (extract_lets +onlyGivenNames x)
    | split
    | (unfold x)
    | (unfold f0)
    | (dsimp only)
    | assumption)

theorem unstage_ok {q : Kept} (i : Nat) (s : State) (hok : Ok q s) (t_recorder : ¬ q.fixed .recorder := by assumption) : Ok q (unstage i s) := by
  unfold unstage
  (repeat' first
    | with_reducible assumption
    | intro _
    | with_reducible apply State.modRec_ok
    | with_reducible apply ok_ite
    | with_reducible apply ok_foldl
    | (extract_lets +onlyGivenNames x; refine (?_ : Ok q x → _) ?_; (intro _; clear_value x))
    | (extract_lets +onlyGivenNames f0; have z : (_ → _) := f0; clear z)
    | (extract_lets +onlyGivenNames x; clear_value x)
    | (extract_lets +onlyGivenNames x)
    | split
    | (unfold x)
    | (unfold f0)
    | (dsimp only)
    | assumption)

theorem verdictMerge_ok {q : Kept} (r : Record) (s : State) (hok : Ok q s) (t_regs : ¬ q.fixed .regs := by assumption) (t_recorder : ¬ q.fixed .recorder := by assumption) : OkOpt q (verdictMerge r s) := by
  unfold verdictMerge
  split <;>
  (repeat' first
    | with_reducible assumption
    | intro _
    | with_reducible apply State.count_ok
    | with_reducible apply State.modRec_ok
    | with_reducible apply record_ok
    | with_reducible apply ok_ite
    | with_reducible apply ok_foldl
    | with_reducible apply ok_some
    | with_reducible exact ok_none
    | (extract_lets +onlyGivenNames x; refine (?_ : Ok q x → _) ?_; (intro _; clear_value x))
    | (extract_lets +onlyGivenNames f0; have z : (_ → _) := f0; clear z)
    | (extract_lets +onlyGivenNames x; clear_value x)
    | (extract_lets +onlyGivenNames x)
    | split
    | (unfold x)
    | (unfold f0)
    | (dsimp only)
    | assumption)

theorem acceptEntry_ok {q : Kept} (i : Nat) (r : Record) (s : State) (hok : Ok q s) (t_regs : ¬ q.fixed .regs := by assumption) (t_recorder : ¬ q.fixed .recorder := by assumption) : Ok q (acceptEntry i r s) := by
  unfold acceptEntry
  (repeat' first
    | with_reducible assumption
    | intro _
    | with_reducible apply State.modRec_ok
    | with_reducible apply enterJournal_ok
    | with_reducible apply unstage_ok
    | with_reducible apply ok_ite
    | with_reducible apply ok_foldl
    | (extract_lets +onlyGivenNames x; refine (?_ : Ok q x → _) ?_; (intro _; clear_value x))
    | (extract_lets +onlyGivenNames f0; have z : (_ → _) := f0; clear z)
    | (extract_lets +onlyGivenNames x; clear_value x)
    | (extract_lets +onlyGivenNames x)
    | split
    | (unfold x)
    | (unfold f0)
    | (dsimp only)
    | assumption)

theorem decideCandidate_ok {q : Kept} (f : Fin 46) (verdict i : Nat) (r : Record) (s : State) (hok : Ok q s) (t_regs : ¬ q.fixed .regs := by assumption) (t_recorder : ¬ q.fixed .recorder := by assumption) : Ok q (decideCandidate f verdict i r s) := by
  unfold decideCandidate
  (repeat' first
    | with_reducible assumption
    | intro _
    | with_reducible apply State.count_ok
    | with_reducible apply followRec_ok
    | with_reducible apply unstage_ok
    | with_reducible apply verdictMerge_ok
    | with_reducible apply acceptEntry_ok
    | (refine okOpt_some ?_ (by assumption); apply verdictMerge_ok)
    | with_reducible apply ok_ite
    | with_reducible apply ok_foldl
    | (extract_lets +onlyGivenNames x; refine (?_ : Ok q x → _) ?_; (intro _; clear_value x))
    | (extract_lets +onlyGivenNames f0; have z : (_ → _) := f0; clear z)
    | (extract_lets +onlyGivenNames x; clear_value x)
    | (extract_lets +onlyGivenNames x)
    | split
    | (unfold x)
    | (unfold f0)
    | (dsimp only)
    | assumption)

theorem landFilterSwap_ok {q : Kept} (f : Fin 46) (s : State) (hok : Ok q s) (t_regs : ¬ q.fixed .regs := by assumption) (t_engines : ¬ q.fixed .engines := by assumption) (t_cabs : ¬ q.fixed .cabs := by assumption) (t_out : ¬ q.fixed .out := by assumption) : Ok q (landFilterSwap f s) := by
  unfold landFilterSwap
  split <;>
  (repeat' first
    | with_reducible assumption
    | intro _
    | with_reducible apply State.modEng_ok
    | with_reducible apply complete_ok
    | with_reducible apply landSwap_ok
    | with_reducible apply ok_ite
    | with_reducible apply ok_foldl
    | (extract_lets +onlyGivenNames x; refine (?_ : Ok q x → _) ?_; (intro _; clear_value x))
    | (extract_lets +onlyGivenNames f0; have z : (_ → _) := f0; clear z)
    | (extract_lets +onlyGivenNames x; clear_value x)
    | (extract_lets +onlyGivenNames x)
    | split
    | (unfold x)
    | (unfold f0)
    | (dsimp only)
    | assumption)

theorem filterVerdict_ok {q : Kept} (f : Fin 46) (verdict : Nat) (s : State) (hok : Ok q s) (t_regs : ¬ q.fixed .regs := by assumption) (t_engines : ¬ q.fixed .engines := by assumption) (t_cabs : ¬ q.fixed .cabs := by assumption) (t_recorder : ¬ q.fixed .recorder := by assumption) (t_out : ¬ q.fixed .out := by assumption) : Ok q (filterVerdict f verdict s) := by
  unfold filterVerdict
  (repeat' first
    | with_reducible assumption
    | intro _
    | with_reducible apply endRun_ok
    | with_reducible apply decideCandidate_ok
    | with_reducible apply landFilterSwap_ok
    | with_reducible apply ok_ite
    | with_reducible apply ok_foldl
    | (extract_lets +onlyGivenNames x; refine (?_ : Ok q x → _) ?_; (intro _; clear_value x))
    | (extract_lets +onlyGivenNames f0; have z : (_ → _) := f0; clear z)
    | (extract_lets +onlyGivenNames x; clear_value x)
    | (extract_lets +onlyGivenNames x)
    | split
    | (unfold x)
    | (unfold f0)
    | (dsimp only)
    | assumption)

theorem startFilter_ok {q : Kept} (f : Fin 46) (s : State) (hok : Ok q s) (t_regs : ¬ q.fixed .regs := by assumption) (t_engines : ¬ q.fixed .engines := by assumption) : Ok q (startFilter f s) := by
  unfold startFilter
  (repeat' first
    | with_reducible assumption
    | intro _
    | with_reducible apply State.modEng_ok
    | with_reducible apply startProgram_ok
    | with_reducible apply ok_ite
    | with_reducible apply ok_foldl
    | (extract_lets +onlyGivenNames x; refine (?_ : Ok q x → _) ?_; (intro _; clear_value x))
    | (extract_lets +onlyGivenNames f0; have z : (_ → _) := f0; clear z)
    | (extract_lets +onlyGivenNames x; clear_value x)
    | (extract_lets +onlyGivenNames x)
    | split
    | (unfold x)
    | (unfold f0)
    | (dsimp only)
    | assumption)

theorem filterRun_ok {q : Kept} (s : State) (hok : Ok q s) (t_regs : ¬ q.fixed .regs := by assumption) (t_engines : ¬ q.fixed .engines := by assumption) (t_recorder : ¬ q.fixed .recorder := by assumption) : Ok q (filterRun s) := by
  unfold filterRun
  split <;>
  (repeat' first
    | with_reducible assumption
    | intro _
    | with_reducible apply State.modRec_ok
    | with_reducible apply enterJournal_ok
    | with_reducible apply unstage_ok
    | with_reducible apply startFilter_ok
    | with_reducible apply ok_ite
    | with_reducible apply ok_foldl
    | (extract_lets +onlyGivenNames x; refine (?_ : Ok q x → _) ?_; (intro _; clear_value x))
    | (extract_lets +onlyGivenNames f0; have z : (_ → _) := f0; clear z)
    | (extract_lets +onlyGivenNames x; clear_value x)
    | (extract_lets +onlyGivenNames x)
    | split
    | (unfold x)
    | (unfold f0)
    | (dsimp only)
    | assumption)

theorem execRecorderFilterRun_ok {q : Kept} (t : Nat) (s : State) (hok : Ok q s) (t_now : ¬ q.fixed .now := by assumption) (t_regs : ¬ q.fixed .regs := by assumption) (t_engines : ¬ q.fixed .engines := by assumption) (t_recorder : ¬ q.fixed .recorder := by assumption) : OkOut q (execRecorderFilterRun t s) := by
  unfold execRecorderFilterRun
  (repeat' first
    | with_reducible assumption
    | intro _
    | with_reducible apply State.reach_ok
    | with_reducible apply State.onlyIf_ok
    | with_reducible apply filterRun_ok
    | with_reducible apply ok_ite
    | with_reducible apply ok_foldl
    | with_reducible apply ok_next
    | (extract_lets +onlyGivenNames x; refine (?_ : Ok q x → _) ?_; (intro _; clear_value x))
    | (extract_lets +onlyGivenNames f0; have z : (_ → _) := f0; clear z)
    | (extract_lets +onlyGivenNames x; clear_value x)
    | (extract_lets +onlyGivenNames x)
    | split
    | (unfold x)
    | (unfold f0)
    | (dsimp only)
    | assumption)

theorem placeLost_ok {q : Kept} (s : State) (hok : Ok q s) (t_regs : ¬ q.fixed .regs := by assumption) (t_recorder : ¬ q.fixed .recorder := by assumption) : Ok q (placeLost s) := by
  unfold placeLost
  split <;>
  (repeat' first
    | with_reducible assumption
    | intro _
    | with_reducible apply State.modRec_ok
    | with_reducible apply followRec_ok
    | with_reducible apply identityMerge_ok
    | (refine okOpt_some ?_ (by assumption); apply identityMerge_ok)
    | with_reducible apply ok_ite
    | with_reducible apply ok_foldl
    | (extract_lets +onlyGivenNames x; refine (?_ : Ok q x → _) ?_; (intro _; clear_value x))
    | (extract_lets +onlyGivenNames f0; have z : (_ → _) := f0; clear z)
    | (extract_lets +onlyGivenNames x; clear_value x)
    | (extract_lets +onlyGivenNames x)
    | split
    | (unfold x)
    | (unfold f0)
    | (dsimp only)
    | assumption)

theorem execLostEvents_ok {q : Kept} (t : Nat) (s : State) (hok : Ok q s) (t_now : ¬ q.fixed .now := by assumption) (t_regs : ¬ q.fixed .regs := by assumption) (t_recorder : ¬ q.fixed .recorder := by assumption) : OkOut q (execLostEvents t s) := by
  unfold execLostEvents
  (repeat' first
    | with_reducible assumption
    | intro _
    | with_reducible apply State.reach_ok
    | with_reducible apply State.onlyIf_ok
    | with_reducible apply placeLost_ok
    | with_reducible apply ok_ite
    | with_reducible apply ok_foldl
    | with_reducible apply ok_next
    | (extract_lets +onlyGivenNames x; refine (?_ : Ok q x → _) ?_; (intro _; clear_value x))
    | (extract_lets +onlyGivenNames f0; have z : (_ → _) := f0; clear z)
    | (extract_lets +onlyGivenNames x; clear_value x)
    | (extract_lets +onlyGivenNames x)
    | split
    | (unfold x)
    | (unfold f0)
    | (dsimp only)
    | assumption)

theorem armoireLost_ok {q : Kept} (cause : Nat) (s : State) (hok : Ok q s) (t_regs : ¬ q.fixed .regs := by assumption) (t_axes : ¬ q.fixed .axes := by assumption) (t_ports : ¬ q.fixed .ports := by assumption) (t_engines : ¬ q.fixed .engines := by assumption) (t_cabs : ¬ q.fixed .cabs := by assumption) (t_recorder : ¬ q.fixed .recorder := by assumption) (t_out : ¬ q.fixed .out := by assumption) : Ok q (armoireLost cause s) := by
  unfold armoireLost
  (repeat' first
    | with_reducible assumption
    | intro _
    | with_reducible apply State.setBit_ok
    | with_reducible apply State.modRec_ok
    | with_reducible apply followRec_ok
    | with_reducible apply drawerAdd_ok
    | with_reducible apply takeSeq_ok
    | with_reducible apply enterSafeHold_ok
    | with_reducible apply enterJournal_ok
    | with_reducible apply ok_ite
    | with_reducible apply ok_foldl
    | (extract_lets +onlyGivenNames x; refine (?_ : Ok q x → _) ?_; (intro _; clear_value x))
    | (extract_lets +onlyGivenNames f0; have z : (_ → _) := f0; clear z)
    | (extract_lets +onlyGivenNames x; clear_value x)
    | (extract_lets +onlyGivenNames x)
    | split
    | (unfold x)
    | (unfold f0)
    | (dsimp only)
    | assumption)

theorem storeOwn_ok {q : Kept} (r : Record) (s : State) (hok : Ok q s) (t_regs : ¬ q.fixed .regs := by assumption) (t_recorder : ¬ q.fixed .recorder := by assumption) : Ok q (storeOwn r s) := by
  unfold storeOwn
  (repeat' first
    | with_reducible assumption
    | intro _
    | with_reducible apply State.modRec_ok
    | with_reducible apply takeSeq_ok
    | with_reducible apply storeRecord_ok
    | with_reducible apply ok_ite
    | with_reducible apply ok_foldl
    | (extract_lets +onlyGivenNames x; refine (?_ : Ok q x → _) ?_; (intro _; clear_value x))
    | (extract_lets +onlyGivenNames f0; have z : (_ → _) := f0; clear z)
    | (extract_lets +onlyGivenNames x; clear_value x)
    | (extract_lets +onlyGivenNames x)
    | split
    | (unfold x)
    | (unfold f0)
    | (dsimp only)
    | assumption)

theorem blockRetired_ok {q : Kept} (number kind : Nat) (gone : List Nat) (s : State) (hok : Ok q s) (t_regs : ¬ q.fixed .regs := by assumption) (t_axes : ¬ q.fixed .axes := by assumption) (t_ports : ¬ q.fixed .ports := by assumption) (t_engines : ¬ q.fixed .engines := by assumption) (t_cabs : ¬ q.fixed .cabs := by assumption) (t_recorder : ¬ q.fixed .recorder := by assumption) (t_out : ¬ q.fixed .out := by assumption) : Ok q (blockRetired number kind gone s) := by
  unfold blockRetired
  (repeat' first
    | with_reducible assumption
    | intro _
    | with_reducible apply State.setFld_ok
    | with_reducible apply State.countN_ok
    | with_reducible apply State.modRec_ok
    | with_reducible apply followFlushed_ok
    | with_reducible apply armoireLost_ok
    | with_reducible apply storeOwn_ok
    | with_reducible apply ok_ite
    | with_reducible apply ok_foldl
    | (extract_lets +onlyGivenNames x; refine (?_ : Ok q x → _) ?_; (intro _; clear_value x))
    | (extract_lets +onlyGivenNames f0; have z : (_ → _) := f0; clear z)
    | (extract_lets +onlyGivenNames x; clear_value x)
    | (extract_lets +onlyGivenNames x)
    | split
    | (unfold x)
    | (unfold f0)
    | (dsimp only)
    | assumption)

theorem flashFails_ok {q : Kept} (fs : List FlashFail) (s : State) (hok : Ok q s) (t_regs : ¬ q.fixed .regs := by assumption) (t_axes : ¬ q.fixed .axes := by assumption) (t_ports : ¬ q.fixed .ports := by assumption) (t_engines : ¬ q.fixed .engines := by assumption) (t_cabs : ¬ q.fixed .cabs := by assumption) (t_recorder : ¬ q.fixed .recorder := by assumption) (t_out : ¬ q.fixed .out := by assumption) : Ok q (flashFails fs s) := by
  unfold flashFails
  (repeat' first
    | with_reducible assumption
    | intro _
    | with_reducible apply armoireLost_ok
    | with_reducible apply blockRetired_ok
    | with_reducible apply ok_ite
    | with_reducible apply ok_foldl
    | (extract_lets +onlyGivenNames x; refine (?_ : Ok q x → _) ?_; (intro _; clear_value x))
    | (extract_lets +onlyGivenNames f0; have z : (_ → _) := f0; clear z)
    | (extract_lets +onlyGivenNames x; clear_value x)
    | (extract_lets +onlyGivenNames x)
    | split
    | (unfold x)
    | (unfold f0)
    | (dsimp only)
    | assumption)

theorem flushStart_ok {q : Kept} (fs : List FlashFail) (s : State) (hok : Ok q s) (t_regs : ¬ q.fixed .regs := by assumption) (t_axes : ¬ q.fixed .axes := by assumption) (t_ports : ¬ q.fixed .ports := by assumption) (t_engines : ¬ q.fixed .engines := by assumption) (t_cabs : ¬ q.fixed .cabs := by assumption) (t_recorder : ¬ q.fixed .recorder := by assumption) (t_out : ¬ q.fixed .out := by assumption) : Ok q (flushStart fs s) := by
  unfold flushStart
  (repeat' first
    | with_reducible assumption
    | intro _
    | with_reducible apply State.setBit_ok
    | with_reducible apply State.modRec_ok
    | with_reducible apply followRec_ok
    | with_reducible apply storeRecord_ok
    | with_reducible apply followFlushed_ok
    | with_reducible apply flashFails_ok
    | with_reducible apply ok_ite
    | with_reducible apply ok_foldl
    | (extract_lets +onlyGivenNames x; refine (?_ : Ok q x → _) ?_; (intro _; clear_value x))
    | (extract_lets +onlyGivenNames f0; have z : (_ → _) := f0; clear z)
    | (extract_lets +onlyGivenNames x; clear_value x)
    | (extract_lets +onlyGivenNames x)
    | split
    | (unfold x)
    | (unfold f0)
    | (dsimp only)
    | assumption)

theorem execFlushStart_ok {q : Kept} (t : Nat) (fs : List FlashFail) (s : State) (hok : Ok q s) (t_now : ¬ q.fixed .now := by assumption) (t_regs : ¬ q.fixed .regs := by assumption) (t_axes : ¬ q.fixed .axes := by assumption) (t_ports : ¬ q.fixed .ports := by assumption) (t_engines : ¬ q.fixed .engines := by assumption) (t_cabs : ¬ q.fixed .cabs := by assumption) (t_recorder : ¬ q.fixed .recorder := by assumption) (t_out : ¬ q.fixed .out := by assumption) : OkOut q (execFlushStart t fs s) := by
  unfold execFlushStart
  (repeat' first
    | with_reducible assumption
    | intro _
    | with_reducible apply State.reach_ok
    | with_reducible apply State.onlyIf_ok
    | with_reducible apply flushStart_ok
    | with_reducible apply ok_ite
    | with_reducible apply ok_foldl
    | with_reducible apply ok_next
    | (extract_lets +onlyGivenNames x; refine (?_ : Ok q x → _) ?_; (intro _; clear_value x))
    | (extract_lets +onlyGivenNames f0; have z : (_ → _) := f0; clear z)
    | (extract_lets +onlyGivenNames x; clear_value x)
    | (extract_lets +onlyGivenNames x)
    | split
    | (unfold x)
    | (unfold f0)
    | (dsimp only)
    | assumption)

theorem flushEnd_ok {q : Kept} (s : State) (hok : Ok q s) (t_regs : ¬ q.fixed .regs := by assumption) (t_axes : ¬ q.fixed .axes := by assumption) (t_ports : ¬ q.fixed .ports := by assumption) (t_engines : ¬ q.fixed .engines := by assumption) (t_cabs : ¬ q.fixed .cabs := by assumption) (t_recorder : ¬ q.fixed .recorder := by assumption) (t_out : ¬ q.fixed .out := by assumption) : Ok q (flushEnd s) := by
  unfold flushEnd
  split <;>
  (repeat' first
    | with_reducible assumption
    | intro _
    | with_reducible apply State.setBit_ok
    | with_reducible apply State.modRec_ok
    | with_reducible apply State.onlyIf_ok
    | with_reducible apply followRec_ok
    | with_reducible apply followFlushed_ok
    | with_reducible apply flushStart_ok
    | with_reducible apply ok_ite
    | with_reducible apply ok_foldl
    | (extract_lets +onlyGivenNames x; refine (?_ : Ok q x → _) ?_; (intro _; clear_value x))
    | (extract_lets +onlyGivenNames f0; have z : (_ → _) := f0; clear z)
    | (extract_lets +onlyGivenNames x; clear_value x)
    | (extract_lets +onlyGivenNames x)
    | split
    | (unfold x)
    | (unfold f0)
    | (dsimp only)
    | assumption)

theorem execFlushEnd_ok {q : Kept} (t : Nat) (s : State) (hok : Ok q s) (t_now : ¬ q.fixed .now := by assumption) (t_regs : ¬ q.fixed .regs := by assumption) (t_axes : ¬ q.fixed .axes := by assumption) (t_ports : ¬ q.fixed .ports := by assumption) (t_engines : ¬ q.fixed .engines := by assumption) (t_cabs : ¬ q.fixed .cabs := by assumption) (t_recorder : ¬ q.fixed .recorder := by assumption) (t_out : ¬ q.fixed .out := by assumption) : OkOut q (execFlushEnd t s) := by
  unfold execFlushEnd
  (repeat' first
    | with_reducible assumption
    | intro _
    | with_reducible apply State.reach_ok
    | with_reducible apply State.onlyIf_ok
    | with_reducible apply flushEnd_ok
    | with_reducible apply ok_ite
    | with_reducible apply ok_foldl
    | with_reducible apply ok_next
    | (extract_lets +onlyGivenNames x; refine (?_ : Ok q x → _) ?_; (intro _; clear_value x))
    | (extract_lets +onlyGivenNames f0; have z : (_ → _) := f0; clear z)
    | (extract_lets +onlyGivenNames x; clear_value x)
    | (extract_lets +onlyGivenNames x)
    | split
    | (unfold x)
    | (unfold f0)
    | (dsimp only)
    | assumption)

theorem stopFlush_ok {q : Kept} (s : State) (hok : Ok q s) (t_freeCtr : ¬ q.fixed .freeCtr := by assumption) (t_regs : ¬ q.fixed .regs := by assumption) (t_recorder : ¬ q.fixed .recorder := by assumption) : Ok q (stopFlush s) := by
  unfold stopFlush
  split <;>
  (repeat' first
    | with_reducible assumption
    | intro _
    | with_reducible apply State.setBit_ok
    | with_reducible apply State.modRec_ok
    | with_reducible apply State.fresh_ok
    | with_reducible apply storeRecord_ok
    | with_reducible apply followFlushed_ok
    | with_reducible apply ok_ite
    | with_reducible apply ok_foldl
    | (extract_lets +onlyGivenNames x; refine (?_ : Ok q x → _) ?_; (intro _; clear_value x))
    | (extract_lets +onlyGivenNames f0; have z : (_ → _) := f0; clear z)
    | (extract_lets +onlyGivenNames x; clear_value x)
    | (extract_lets +onlyGivenNames x)
    | split
    | (unfold x)
    | (unfold f0)
    | (dsimp only)
    | assumption)

theorem cutFlush_ok {q : Kept} (s : State) (hok : Ok q s) (t_freeCtr : ¬ q.fixed .freeCtr := by assumption) (t_regs : ¬ q.fixed .regs := by assumption) (t_recorder : ¬ q.fixed .recorder := by assumption) : Ok q (cutFlush s) := by
  unfold cutFlush
  split <;>
  (repeat' first
    | with_reducible assumption
    | intro _
    | with_reducible apply State.modRec_ok
    | with_reducible apply State.fresh_ok
    | with_reducible apply stopFlush_ok
    | with_reducible apply ok_ite
    | with_reducible apply ok_foldl
    | (extract_lets +onlyGivenNames x; refine (?_ : Ok q x → _) ?_; (intro _; clear_value x))
    | (extract_lets +onlyGivenNames f0; have z : (_ → _) := f0; clear z)
    | (extract_lets +onlyGivenNames x; clear_value x)
    | (extract_lets +onlyGivenNames x)
    | split
    | (unfold x)
    | (unfold f0)
    | (dsimp only)
    | assumption)

theorem landRecFlush_ok {q : Kept} (d : Desc) (s : State) (hok : Ok q s) (t_regs : ¬ q.fixed .regs := by assumption) (t_engines : ¬ q.fixed .engines := by assumption) (t_cabs : ¬ q.fixed .cabs := by assumption) (t_out : ¬ q.fixed .out := by assumption) : Ok q (landRecFlush d s) := by
  unfold landRecFlush
  (repeat' first
    | with_reducible assumption
    | intro _
    | with_reducible apply complete_ok
    | with_reducible apply requestFlush_ok
    | with_reducible apply ok_ite
    | with_reducible apply ok_foldl
    | (extract_lets +onlyGivenNames x; refine (?_ : Ok q x → _) ?_; (intro _; clear_value x))
    | (extract_lets +onlyGivenNames f0; have z : (_ → _) := f0; clear z)
    | (extract_lets +onlyGivenNames x; clear_value x)
    | (extract_lets +onlyGivenNames x)
    | split
    | (unfold x)
    | (unfold f0)
    | (dsimp only)
    | assumption)

theorem execRecFlush_ok {q : Kept} (d : Desc) (s : State) (hok : Ok q s) (t_now : ¬ q.fixed .now := by assumption) (t_regs : ¬ q.fixed .regs := by assumption) (t_engines : ¬ q.fixed .engines := by assumption) (t_cabs : ¬ q.fixed .cabs := by assumption) (t_out : ¬ q.fixed .out := by assumption) : OkOut q (execRecFlush d s) := by
  unfold execRecFlush
  (repeat' first
    | with_reducible assumption
    | intro _
    | with_reducible apply submit_ok
    | with_reducible apply landRecFlush_ok
    | with_reducible apply ok_ite
    | with_reducible apply ok_foldl
    | with_reducible apply ok_next
    | (extract_lets +onlyGivenNames x; refine (?_ : Ok q x → _) ?_; (intro _; clear_value x))
    | (extract_lets +onlyGivenNames f0; have z : (_ → _) := f0; clear z)
    | (extract_lets +onlyGivenNames x; clear_value x)
    | (extract_lets +onlyGivenNames x)
    | split
    | (unfold x)
    | (unfold f0)
    | (dsimp only)
    | assumption)

theorem pfailFall_ok {q : Kept} (s : State) (hok : Ok q s) (t_regs : ¬ q.fixed .regs := by assumption) (t_recorder : ¬ q.fixed .recorder := by assumption) (t_dev : ¬ q.fixed .dev := by assumption) : Ok q (pfailFall s) := by
  unfold pfailFall
  (repeat' first
    | with_reducible assumption
    | intro _
    | with_reducible apply State.setBit_ok
    | with_reducible apply State.modDev_ok
    | with_reducible apply recordCode_ok
    | with_reducible apply requestFlush_ok
    | with_reducible apply ok_ite
    | with_reducible apply ok_foldl
    | (extract_lets +onlyGivenNames x; refine (?_ : Ok q x → _) ?_; (intro _; clear_value x))
    | (extract_lets +onlyGivenNames f0; have z : (_ → _) := f0; clear z)
    | (extract_lets +onlyGivenNames x; clear_value x)
    | (extract_lets +onlyGivenNames x)
    | split
    | (unfold x)
    | (unfold f0)
    | (dsimp only)
    | assumption)

theorem execPfailFall_ok {q : Kept} (t low : Nat) (s : State) (hok : Ok q s) (t_now : ¬ q.fixed .now := by assumption) (t_regs : ¬ q.fixed .regs := by assumption) (t_recorder : ¬ q.fixed .recorder := by assumption) (t_dev : ¬ q.fixed .dev := by assumption) : OkOut q (execPfailFall t low s) := by
  unfold execPfailFall
  (repeat' first
    | with_reducible assumption
    | intro _
    | with_reducible apply State.reach_ok
    | with_reducible apply State.onlyIf_ok
    | with_reducible apply pfailFall_ok
    | with_reducible apply ok_ite
    | with_reducible apply ok_foldl
    | with_reducible apply ok_next
    | (extract_lets +onlyGivenNames x; refine (?_ : Ok q x → _) ?_; (intro _; clear_value x))
    | (extract_lets +onlyGivenNames f0; have z : (_ → _) := f0; clear z)
    | (extract_lets +onlyGivenNames x; clear_value x)
    | (extract_lets +onlyGivenNames x)
    | split
    | (unfold x)
    | (unfold f0)
    | (dsimp only)
    | assumption)

theorem execPfailRise_ok {q : Kept} (t : Nat) (s : State) (hok : Ok q s) (t_now : ¬ q.fixed .now := by assumption) (t_regs : ¬ q.fixed .regs := by assumption) (t_dev : ¬ q.fixed .dev := by assumption) : OkOut q (execPfailRise t s) := by
  unfold execPfailRise
  (repeat' first
    | with_reducible assumption
    | intro _
    | with_reducible apply State.setBit_ok
    | with_reducible apply State.modDev_ok
    | with_reducible apply State.reach_ok
    | with_reducible apply ok_ite
    | with_reducible apply ok_foldl
    | with_reducible apply ok_next
    | (extract_lets +onlyGivenNames x; refine (?_ : Ok q x → _) ?_; (intro _; clear_value x))
    | (extract_lets +onlyGivenNames f0; have z : (_ → _) := f0; clear z)
    | (extract_lets +onlyGivenNames x; clear_value x)
    | (extract_lets +onlyGivenNames x)
    | split
    | (unfold x)
    | (unfold f0)
    | (dsimp only)
    | assumption)

theorem rtcSet_ok {q : Kept} (s : State) (hok : Ok q s) (t_regs : ¬ q.fixed .regs := by assumption) (t_recorder : ¬ q.fixed .recorder := by assumption) : Ok q (rtcSet s) := by
  unfold rtcSet
  (repeat' first
    | with_reducible assumption
    | intro _
    | with_reducible apply State.setBit_ok
    | with_reducible apply State.modRec_ok
    | with_reducible apply ok_ite
    | with_reducible apply ok_foldl
    | (extract_lets +onlyGivenNames x; refine (?_ : Ok q x → _) ?_; (intro _; clear_value x))
    | (extract_lets +onlyGivenNames f0; have z : (_ → _) := f0; clear z)
    | (extract_lets +onlyGivenNames x; clear_value x)
    | (extract_lets +onlyGivenNames x)
    | split
    | (unfold x)
    | (unfold f0)
    | (dsimp only)
    | assumption)

theorem execRtcSet_ok {q : Kept} (t : Nat) (s : State) (hok : Ok q s) (t_now : ¬ q.fixed .now := by assumption) (t_regs : ¬ q.fixed .regs := by assumption) (t_recorder : ¬ q.fixed .recorder := by assumption) : OkOut q (execRtcSet t s) := by
  unfold execRtcSet
  (repeat' first
    | with_reducible assumption
    | intro _
    | with_reducible apply State.reach_ok
    | with_reducible apply rtcSet_ok
    | with_reducible apply ok_ite
    | with_reducible apply ok_foldl
    | with_reducible apply ok_next
    | (extract_lets +onlyGivenNames x; refine (?_ : Ok q x → _) ?_; (intro _; clear_value x))
    | (extract_lets +onlyGivenNames f0; have z : (_ → _) := f0; clear z)
    | (extract_lets +onlyGivenNames x; clear_value x)
    | (extract_lets +onlyGivenNames x)
    | split
    | (unfold x)
    | (unfold f0)
    | (dsimp only)
    | assumption)

theorem execVbakLow_ok {q : Kept} (t : Nat) (s : State) (hok : Ok q s) (t_now : ¬ q.fixed .now := by assumption) (t_regs : ¬ q.fixed .regs := by assumption) (t_recorder : ¬ q.fixed .recorder := by assumption) : OkOut q (execVbakLow t s) := by
  unfold execVbakLow
  (repeat' first
    | with_reducible assumption
    | intro _
    | with_reducible apply State.setBit_ok
    | with_reducible apply State.modRec_ok
    | with_reducible apply State.reach_ok
    | with_reducible apply ok_ite
    | with_reducible apply ok_foldl
    | with_reducible apply ok_next
    | (extract_lets +onlyGivenNames x; refine (?_ : Ok q x → _) ?_; (intro _; clear_value x))
    | (extract_lets +onlyGivenNames f0; have z : (_ → _) := f0; clear z)
    | (extract_lets +onlyGivenNames x; clear_value x)
    | (extract_lets +onlyGivenNames x)
    | split
    | (unfold x)
    | (unfold f0)
    | (dsimp only)
    | assumption)

theorem lookupDone_ok {q : Kept} (s : State) (hok : Ok q s) (t_regs : ¬ q.fixed .regs := by assumption) (t_recorder : ¬ q.fixed .recorder := by assumption) : Ok q (lookupDone s) := by
  unfold lookupDone
  split <;>
  (repeat' first
    | with_reducible assumption
    | intro _
    | with_reducible apply State.setFld_ok
    | with_reducible apply State.modRec_ok
    | with_reducible apply ok_ite
    | with_reducible apply ok_foldl
    | (extract_lets +onlyGivenNames x; refine (?_ : Ok q x → _) ?_; (intro _; clear_value x))
    | (extract_lets +onlyGivenNames f0; have z : (_ → _) := f0; clear z)
    | (extract_lets +onlyGivenNames x; clear_value x)
    | (extract_lets +onlyGivenNames x)
    | split
    | (unfold x)
    | (unfold f0)
    | (dsimp only)
    | assumption)

theorem execRecRdLookupDone_ok {q : Kept} (t : Nat) (s : State) (hok : Ok q s) (t_now : ¬ q.fixed .now := by assumption) (t_regs : ¬ q.fixed .regs := by assumption) (t_recorder : ¬ q.fixed .recorder := by assumption) : OkOut q (execRecRdLookupDone t s) := by
  unfold execRecRdLookupDone
  (repeat' first
    | with_reducible assumption
    | intro _
    | with_reducible apply State.reach_ok
    | with_reducible apply State.onlyIf_ok
    | with_reducible apply lookupDone_ok
    | with_reducible apply ok_ite
    | with_reducible apply ok_foldl
    | with_reducible apply ok_next
    | (extract_lets +onlyGivenNames x; refine (?_ : Ok q x → _) ?_; (intro _; clear_value x))
    | (extract_lets +onlyGivenNames f0; have z : (_ → _) := f0; clear z)
    | (extract_lets +onlyGivenNames x; clear_value x)
    | (extract_lets +onlyGivenNames x)
    | split
    | (unfold x)
    | (unfold f0)
    | (dsimp only)
    | assumption)

theorem landRecQuery_ok {q : Kept} (d : Desc) (s : State) (hok : Ok q s) (t_regs : ¬ q.fixed .regs := by assumption) (t_engines : ¬ q.fixed .engines := by assumption) (t_cabs : ¬ q.fixed .cabs := by assumption) (t_recorder : ¬ q.fixed .recorder := by assumption) (t_out : ¬ q.fixed .out := by assumption) : Ok q (landRecQuery d s) := by
  unfold landRecQuery
  (repeat' first
    | with_reducible assumption
    | intro _
    | with_reducible apply State.modRec_ok
    | with_reducible apply complete_ok
    | with_reducible apply ok_ite
    | with_reducible apply ok_foldl
    | (extract_lets +onlyGivenNames x; refine (?_ : Ok q x → _) ?_; (intro _; clear_value x))
    | (extract_lets +onlyGivenNames f0; have z : (_ → _) := f0; clear z)
    | (extract_lets +onlyGivenNames x; clear_value x)
    | (extract_lets +onlyGivenNames x)
    | split
    | (unfold x)
    | (unfold f0)
    | (dsimp only)
    | assumption)

theorem execRecQuery_ok {q : Kept} (d : Desc) (s : State) (hok : Ok q s) (t_now : ¬ q.fixed .now := by assumption) (t_regs : ¬ q.fixed .regs := by assumption) (t_engines : ¬ q.fixed .engines := by assumption) (t_cabs : ¬ q.fixed .cabs := by assumption) (t_recorder : ¬ q.fixed .recorder := by assumption) (t_out : ¬ q.fixed .out := by assumption) : OkOut q (execRecQuery d s) := by
  unfold execRecQuery
  (repeat' first
    | with_reducible assumption
    | intro _
    | with_reducible apply submit_ok
    | with_reducible apply landRecQuery_ok
    | with_reducible apply ok_ite
    | with_reducible apply ok_foldl
    | with_reducible apply ok_next
    | (extract_lets +onlyGivenNames x; refine (?_ : Ok q x → _) ?_; (intro _; clear_value x))
    | (extract_lets +onlyGivenNames f0; have z : (_ → _) := f0; clear z)
    | (extract_lets +onlyGivenNames x; clear_value x)
    | (extract_lets +onlyGivenNames x)
    | split
    | (unfold x)
    | (unfold f0)
    | (dsimp only)
    | assumption)

theorem putExport_ok {q : Kept} (c : Fin 4) (n : Fin 16) (y : Option Export) (s : State) (hok : Ok q s) (t_recorder : ¬ q.fixed .recorder := by assumption) : Ok q (putExport c n y s) := by
  unfold putExport
  (repeat' first
    | with_reducible assumption
    | intro _
    | with_reducible apply State.modRec_ok
    | with_reducible apply ok_ite
    | with_reducible apply ok_foldl
    | (extract_lets +onlyGivenNames x; refine (?_ : Ok q x → _) ?_; (intro _; clear_value x))
    | (extract_lets +onlyGivenNames f0; have z : (_ → _) := f0; clear z)
    | (extract_lets +onlyGivenNames x; clear_value x)
    | (extract_lets +onlyGivenNames x)
    | split
    | (unfold x)
    | (unfold f0)
    | (dsimp only)
    | assumption)

theorem exportEntry_ok {q : Kept} (c : Fin 4) (n : Fin 16) (bad : Option (List Byte)) (fs : List FlashFail) (s : State) (hok : Ok q s) (t_regs : ¬ q.fixed .regs := by assumption) (t_axes : ¬ q.fixed .axes := by assumption) (t_ports : ¬ q.fixed .ports := by assumption) (t_engines : ¬ q.fixed .engines := by assumption) (t_cabs : ¬ q.fixed .cabs := by assumption) (t_recorder : ¬ q.fixed .recorder := by assumption) (t_out : ¬ q.fixed .out := by assumption) : Ok q (exportEntry c n bad fs s) := by
  unfold exportEntry
  split <;>
  (repeat' first
    | with_reducible assumption
    | intro _
    | with_reducible apply writeEntry_ok
    | with_reducible apply exportDone_ok
    | with_reducible apply flashFails_ok
    | with_reducible apply putExport_ok
    | with_reducible apply ok_ite
    | with_reducible apply ok_foldl
    | (extract_lets +onlyGivenNames x; refine (?_ : Ok q x → _) ?_; (intro _; clear_value x))
    | (extract_lets +onlyGivenNames f0; have z : (_ → _) := f0; clear z)
    | (extract_lets +onlyGivenNames x; clear_value x)
    | (extract_lets +onlyGivenNames x)
    | split
    | (unfold x)
    | (unfold f0)
    | (dsimp only)
    | assumption)

theorem execExportEntry_ok {q : Kept} (t : Nat) (c : Fin 4) (n : Fin 16) (bad : Option (List Byte)) (fs : List FlashFail) (s : State) (hok : Ok q s) (t_now : ¬ q.fixed .now := by assumption) (t_regs : ¬ q.fixed .regs := by assumption) (t_axes : ¬ q.fixed .axes := by assumption) (t_ports : ¬ q.fixed .ports := by assumption) (t_engines : ¬ q.fixed .engines := by assumption) (t_cabs : ¬ q.fixed .cabs := by assumption) (t_recorder : ¬ q.fixed .recorder := by assumption) (t_out : ¬ q.fixed .out := by assumption) : OkOut q (execExportEntry t c n bad fs s) := by
  unfold execExportEntry
  (repeat' first
    | with_reducible assumption
    | intro _
    | with_reducible apply State.reach_ok
    | with_reducible apply State.onlyIf_ok
    | with_reducible apply exportEntry_ok
    | with_reducible apply ok_ite
    | with_reducible apply ok_foldl
    | with_reducible apply ok_next
    | (extract_lets +onlyGivenNames x; refine (?_ : Ok q x → _) ?_; (intro _; clear_value x))
    | (extract_lets +onlyGivenNames f0; have z : (_ → _) := f0; clear z)
    | (extract_lets +onlyGivenNames x; clear_value x)
    | (extract_lets +onlyGivenNames x)
    | split
    | (unfold x)
    | (unfold f0)
    | (dsimp only)
    | assumption)

theorem journalError_ok {q : Kept} (off : Nat) (unreadable : List Nat) (fs : List FlashFail) (s : State) (hok : Ok q s) (t_freeCtr : ¬ q.fixed .freeCtr := by assumption) (t_regs : ¬ q.fixed .regs := by assumption) (t_axes : ¬ q.fixed .axes := by assumption) (t_ports : ¬ q.fixed .ports := by assumption) (t_engines : ¬ q.fixed .engines := by assumption) (t_cabs : ¬ q.fixed .cabs := by assumption) (t_recorder : ¬ q.fixed .recorder := by assumption) (t_out : ¬ q.fixed .out := by assumption) : Ok q (journalError off unreadable fs s) := by
  unfold journalError
  (repeat' first
    | with_reducible assumption
    | intro _
    | with_reducible apply State.setBit_ok
    | with_reducible apply State.countN_ok
    | with_reducible apply State.modRec_ok
    | with_reducible apply followRec_ok
    | with_reducible apply drawerAdd_ok
    | with_reducible apply takeSeq_ok
    | with_reducible apply enterSafeHold_ok
    | with_reducible apply storeRecord_ok
    | with_reducible apply followFlushed_ok
    | with_reducible apply enterJournal_ok
    | with_reducible apply flashFails_ok
    | with_reducible apply stopFlush_ok
    | with_reducible apply ok_ite
    | with_reducible apply ok_foldl
    | (extract_lets +onlyGivenNames x; refine (?_ : Ok q x → _) ?_; (intro _; clear_value x))
    | (extract_lets +onlyGivenNames f0; have z : (_ → _) := f0; clear z)
    | (extract_lets +onlyGivenNames x; clear_value x)
    | (extract_lets +onlyGivenNames x)
    | split
    | (unfold x)
    | (unfold f0)
    | (dsimp only)
    | assumption)

theorem execJournalEccError_ok {q : Kept} (t : Nat) (off : Nat) (unreadable : List Nat) (fs : List FlashFail) (s : State) (hok : Ok q s) (t_now : ¬ q.fixed .now := by assumption) (t_freeCtr : ¬ q.fixed .freeCtr := by assumption) (t_regs : ¬ q.fixed .regs := by assumption) (t_axes : ¬ q.fixed .axes := by assumption) (t_ports : ¬ q.fixed .ports := by assumption) (t_engines : ¬ q.fixed .engines := by assumption) (t_cabs : ¬ q.fixed .cabs := by assumption) (t_recorder : ¬ q.fixed .recorder := by assumption) (t_out : ¬ q.fixed .out := by assumption) : OkOut q (execJournalEccError t off unreadable fs s) := by
  unfold execJournalEccError
  (repeat' first
    | with_reducible assumption
    | intro _
    | with_reducible apply State.reach_ok
    | with_reducible apply State.onlyIf_ok
    | with_reducible apply journalError_ok
    | with_reducible apply ok_ite
    | with_reducible apply ok_foldl
    | with_reducible apply ok_next
    | (extract_lets +onlyGivenNames x; refine (?_ : Ok q x → _) ?_; (intro _; clear_value x))
    | (extract_lets +onlyGivenNames f0; have z : (_ → _) := f0; clear z)
    | (extract_lets +onlyGivenNames x; clear_value x)
    | (extract_lets +onlyGivenNames x)
    | split
    | (unfold x)
    | (unfold f0)
    | (dsimp only)
    | assumption)

theorem execRecCrit_ok {q : Kept} (t : Nat) (fs : List FlashFail) (s : State) (hok : Ok q s) (t_now : ¬ q.fixed .now := by assumption) (t_regs : ¬ q.fixed .regs := by assumption) (t_axes : ¬ q.fixed .axes := by assumption) (t_ports : ¬ q.fixed .ports := by assumption) (t_engines : ¬ q.fixed .engines := by assumption) (t_cabs : ¬ q.fixed .cabs := by assumption) (t_recorder : ¬ q.fixed .recorder := by assumption) (t_out : ¬ q.fixed .out := by assumption) : OkOut q (execRecCrit t fs s) := by
  unfold execRecCrit
  (repeat' first
    | with_reducible assumption
    | intro _
    | with_reducible apply State.reach_ok
    | with_reducible apply State.onlyIf_ok
    | with_reducible apply enterSafeHold_ok
    | with_reducible apply flashFails_ok
    | with_reducible apply ok_ite
    | with_reducible apply ok_foldl
    | with_reducible apply ok_next
    | (extract_lets +onlyGivenNames x; refine (?_ : Ok q x → _) ?_; (intro _; clear_value x))
    | (extract_lets +onlyGivenNames f0; have z : (_ → _) := f0; clear z)
    | (extract_lets +onlyGivenNames x; clear_value x)
    | (extract_lets +onlyGivenNames x)
    | split
    | (unfold x)
    | (unfold f0)
    | (dsimp only)
    | assumption)

theorem execHostCrit_ok {q : Kept} (t : Nat) (s : State) (hok : Ok q s) (t_now : ¬ q.fixed .now := by assumption) (t_regs : ¬ q.fixed .regs := by assumption) (t_axes : ¬ q.fixed .axes := by assumption) (t_ports : ¬ q.fixed .ports := by assumption) (t_engines : ¬ q.fixed .engines := by assumption) (t_cabs : ¬ q.fixed .cabs := by assumption) (t_recorder : ¬ q.fixed .recorder := by assumption) (t_out : ¬ q.fixed .out := by assumption) : OkOut q (execHostCrit t s) := by
  unfold execHostCrit
  (repeat' first
    | with_reducible assumption
    | intro _
    | with_reducible apply State.reach_ok
    | with_reducible apply enterSafeHold_ok
    | with_reducible apply ok_ite
    | with_reducible apply ok_foldl
    | with_reducible apply ok_next
    | (extract_lets +onlyGivenNames x; refine (?_ : Ok q x → _) ?_; (intro _; clear_value x))
    | (extract_lets +onlyGivenNames f0; have z : (_ → _) := f0; clear z)
    | (extract_lets +onlyGivenNames x; clear_value x)
    | (extract_lets +onlyGivenNames x)
    | split
    | (unfold x)
    | (unfold f0)
    | (dsimp only)
    | assumption)

theorem vholdLow_ok {q : Kept} (s : State) (hok : Ok q s) (t_freeCtr : ¬ q.fixed .freeCtr := by assumption) (t_regs : ¬ q.fixed .regs := by assumption) (t_recorder : ¬ q.fixed .recorder := by assumption) (t_dev : ¬ q.fixed .dev := by assumption) : Ok q (vholdLow s) := by
  unfold vholdLow
  (repeat' first
    | with_reducible assumption
    | intro _
    | with_reducible apply State.modRec_ok
    | with_reducible apply State.modDev_ok
    | with_reducible apply followRec_ok
    | with_reducible apply cutFlush_ok
    | with_reducible apply ok_ite
    | with_reducible apply ok_foldl
    | (extract_lets +onlyGivenNames x; refine (?_ : Ok q x → _) ?_; (intro _; clear_value x))
    | (extract_lets +onlyGivenNames f0; have z : (_ → _) := f0; clear z)
    | (extract_lets +onlyGivenNames x; clear_value x)
    | (extract_lets +onlyGivenNames x)
    | split
    | (unfold x)
    | (unfold f0)
    | (dsimp only)
    | assumption)

theorem execVholdLow_ok {q : Kept} (t : Nat) (s : State) (hok : Ok q s) (t_now : ¬ q.fixed .now := by assumption) (t_freeCtr : ¬ q.fixed .freeCtr := by assumption) (t_regs : ¬ q.fixed .regs := by assumption) (t_recorder : ¬ q.fixed .recorder := by assumption) (t_dev : ¬ q.fixed .dev := by assumption) : OkOut q (execVholdLow t s) := by
  unfold execVholdLow
  (repeat' first
    | with_reducible assumption
    | intro _
    | with_reducible apply State.reach_ok
    | with_reducible apply vholdLow_ok
    | with_reducible apply ok_ite
    | with_reducible apply ok_foldl
    | with_reducible apply ok_next
    | (extract_lets +onlyGivenNames x; refine (?_ : Ok q x → _) ?_; (intro _; clear_value x))
    | (extract_lets +onlyGivenNames f0; have z : (_ → _) := f0; clear z)
    | (extract_lets +onlyGivenNames x; clear_value x)
    | (extract_lets +onlyGivenNames x)
    | split
    | (unfold x)
    | (unfold f0)
    | (dsimp only)
    | assumption)

end Sys2Proof.Machine
end

