-- ==== Sys2Proof/Laws/KeepEngine.lean ====
section
/-! SUPPORT. What the operations of Machine/Engine.lean keep (Laws/Keep.lean). -/

namespace Sys2Proof.Machine

set_option linter.unusedTactic false
set_option linter.unreachableTactic false
set_option linter.tactic.unusedName false
set_option linter.unusedVariables false

theorem stopInRun_ok {q : Kept} (e : Fin 46) (cause : Nat) (s : State) (hok : Ok q s) (t_regs : ¬ q.fixed .regs := by assumption) (t_engines : ¬ q.fixed .engines := by assumption) (t_cabs : ¬ q.fixed .cabs := by assumption) (t_recorder : ¬ q.fixed .recorder := by assumption) (t_out : ¬ q.fixed .out := by assumption) : Ok q (stopInRun e cause s) := by
  unfold stopInRun
  (repeat' first
    | with_reducible assumption
    | intro _
    | with_reducible apply stopEngine_ok
    | with_reducible apply filterVerdict_ok
    | with_reducible apply ok_ite
    | with_reducible apply ok_foldl
    | with_reducible apply okDo_ite
    | with_reducible apply ok_do
    | with_reducible exact ok_dostop
    | (extract_lets +onlyGivenNames x; refine (?_ : Ok q x → _) ?_; (intro _; clear_value x))
    | (extract_lets +onlyGivenNames f0; have z : (_ → _) := f0; clear z)
    | (extract_lets +onlyGivenNames x; clear_value x)
    | (extract_lets +onlyGivenNames x)
    | split
    | (unfold x)
    | (unfold f0)
    | (dsimp only)
    | assumption)

theorem engExec_ok {q : Kept} (e : Fin 46) (w : Word) (cyc : Nat) (act : State → EngDo) (s : State) (hact : ∀ u, Ok q u → OkDo q (act u)) (hok : Ok q s) (t_regs : ¬ q.fixed .regs := by assumption) (t_engines : ¬ q.fixed .engines := by assumption) (t_cabs : ¬ q.fixed .cabs := by assumption) (t_recorder : ¬ q.fixed .recorder := by assumption) (t_out : ¬ q.fixed .out := by assumption) : Ok q (engExec e w cyc act s) := by
  unfold engExec
  (repeat' first
    | with_reducible assumption
    | intro _
    | with_reducible apply State.setFld_ok
    | with_reducible apply State.count_ok
    | with_reducible apply State.modEng_ok
    | with_reducible apply stopInRun_ok
    | (refine okDo_ok ?_ (by assumption); apply hact)
    | apply hact
    | with_reducible apply ok_ite
    | with_reducible apply ok_foldl
    | with_reducible apply okDo_ite
    | with_reducible apply ok_do
    | with_reducible exact ok_dostop
    | (extract_lets +onlyGivenNames x; refine (?_ : Ok q x → _) ?_; (intro _; clear_value x))
    | (extract_lets +onlyGivenNames f0; have z : (_ → _) := f0; clear z)
    | (extract_lets +onlyGivenNames x; clear_value x)
    | (extract_lets +onlyGivenNames x)
    | split
    | (unfold x)
    | (unfold f0)
    | (dsimp only)
    | assumption)

theorem State.setK_ok {q : Kept} (s : State) (e : Fin 46) (i : Fin 16) (v : Word) (hok : Ok q s) (t_engines : ¬ q.fixed .engines := by assumption) : Ok q (State.setK s e i v) := by
  unfold State.setK
  (repeat' first
    | with_reducible assumption
    | intro _
    | with_reducible apply State.modEng_ok
    | with_reducible apply ok_ite
    | with_reducible apply ok_foldl
    | with_reducible apply okDo_ite
    | with_reducible apply ok_do
    | with_reducible exact ok_dostop
    | (extract_lets +onlyGivenNames x; refine (?_ : Ok q x → _) ?_; (intro _; clear_value x))
    | (extract_lets +onlyGivenNames f0; have z : (_ → _) := f0; clear z)
    | (extract_lets +onlyGivenNames x; clear_value x)
    | (extract_lets +onlyGivenNames x)
    | split
    | (unfold x)
    | (unfold f0)
    | (dsimp only)
    | assumption)

theorem engAlu_ok {q : Kept} (e : Fin 46) (w : Word) (cyc : Nat) (d : Fin 16) (v : State → Word) (s : State) (hok : Ok q s) (t_regs : ¬ q.fixed .regs := by assumption) (t_engines : ¬ q.fixed .engines := by assumption) (t_cabs : ¬ q.fixed .cabs := by assumption) (t_recorder : ¬ q.fixed .recorder := by assumption) (t_out : ¬ q.fixed .out := by assumption) : Ok q (engAlu e w cyc d v s) := by
  unfold engAlu
  (repeat' first
    | with_reducible assumption
    | intro _
    | with_reducible apply engExec_ok
    | with_reducible apply State.setK_ok
    | with_reducible apply ok_ite
    | with_reducible apply ok_foldl
    | with_reducible apply okDo_ite
    | with_reducible apply ok_do
    | with_reducible exact ok_dostop
    | (extract_lets +onlyGivenNames x; refine (?_ : Ok q x → _) ?_; (intro _; clear_value x))
    | (extract_lets +onlyGivenNames f0; have z : (_ → _) := f0; clear z)
    | (extract_lets +onlyGivenNames x; clear_value x)
    | (extract_lets +onlyGivenNames x)
    | split
    | (unfold x)
    | (unfold f0)
    | (dsimp only)
    | assumption)

theorem execEngNop_ok {q : Kept} (e : Fin 46) (s : State) (hok : Ok q s) (t_regs : ¬ q.fixed .regs := by assumption) (t_engines : ¬ q.fixed .engines := by assumption) (t_cabs : ¬ q.fixed .cabs := by assumption) (t_recorder : ¬ q.fixed .recorder := by assumption) (t_out : ¬ q.fixed .out := by assumption) : OkOut q (execEngNop e s) := by
  unfold execEngNop
  (repeat' first
    | with_reducible assumption
    | intro _
    | with_reducible apply engExec_ok
    | with_reducible apply ok_ite
    | with_reducible apply ok_foldl
    | with_reducible apply okDo_ite
    | with_reducible apply ok_do
    | with_reducible exact ok_dostop
    | with_reducible apply ok_next
    | (extract_lets +onlyGivenNames x; refine (?_ : Ok q x → _) ?_; (intro _; clear_value x))
    | (extract_lets +onlyGivenNames f0; have z : (_ → _) := f0; clear z)
    | (extract_lets +onlyGivenNames x; clear_value x)
    | (extract_lets +onlyGivenNames x)
    | split
    | (unfold x)
    | (unfold f0)
    | (dsimp only)
    | assumption)

theorem execAdd_ok {q : Kept} (e : Fin 46) (d a b : Fin 16) (s : State) (hok : Ok q s) (t_regs : ¬ q.fixed .regs := by assumption) (t_engines : ¬ q.fixed .engines := by assumption) (t_cabs : ¬ q.fixed .cabs := by assumption) (t_recorder : ¬ q.fixed .recorder := by assumption) (t_out : ¬ q.fixed .out := by assumption) : OkOut q (execAdd e d a b s) := by
  unfold execAdd
  (repeat' first
    | with_reducible assumption
    | intro _
    | with_reducible apply engAlu_ok
    | with_reducible apply ok_ite
    | with_reducible apply ok_foldl
    | with_reducible apply okDo_ite
    | with_reducible apply ok_do
    | with_reducible exact ok_dostop
    | with_reducible apply ok_next
    | (extract_lets +onlyGivenNames x; refine (?_ : Ok q x → _) ?_; (intro _; clear_value x))
    | (extract_lets +onlyGivenNames f0; have z : (_ → _) := f0; clear z)
    | (extract_lets +onlyGivenNames x; clear_value x)
    | (extract_lets +onlyGivenNames x)
    | split
    | (unfold x)
    | (unfold f0)
    | (dsimp only)
    | assumption)

theorem execSub_ok {q : Kept} (e : Fin 46) (d a b : Fin 16) (s : State) (hok : Ok q s) (t_regs : ¬ q.fixed .regs := by assumption) (t_engines : ¬ q.fixed .engines := by assumption) (t_cabs : ¬ q.fixed .cabs := by assumption) (t_recorder : ¬ q.fixed .recorder := by assumption) (t_out : ¬ q.fixed .out := by assumption) : OkOut q (execSub e d a b s) := by
  unfold execSub
  (repeat' first
    | with_reducible assumption
    | intro _
    | with_reducible apply engAlu_ok
    | with_reducible apply ok_ite
    | with_reducible apply ok_foldl
    | with_reducible apply okDo_ite
    | with_reducible apply ok_do
    | with_reducible exact ok_dostop
    | with_reducible apply ok_next
    | (extract_lets +onlyGivenNames x; refine (?_ : Ok q x → _) ?_; (intro _; clear_value x))
    | (extract_lets +onlyGivenNames f0; have z : (_ → _) := f0; clear z)
    | (extract_lets +onlyGivenNames x; clear_value x)
    | (extract_lets +onlyGivenNames x)
    | split
    | (unfold x)
    | (unfold f0)
    | (dsimp only)
    | assumption)

theorem execAnd_ok {q : Kept} (e : Fin 46) (d a b : Fin 16) (s : State) (hok : Ok q s) (t_regs : ¬ q.fixed .regs := by assumption) (t_engines : ¬ q.fixed .engines := by assumption) (t_cabs : ¬ q.fixed .cabs := by assumption) (t_recorder : ¬ q.fixed .recorder := by assumption) (t_out : ¬ q.fixed .out := by assumption) : OkOut q (execAnd e d a b s) := by
  unfold execAnd
  (repeat' first
    | with_reducible assumption
    | intro _
    | with_reducible apply engAlu_ok
    | with_reducible apply ok_ite
    | with_reducible apply ok_foldl
    | with_reducible apply okDo_ite
    | with_reducible apply ok_do
    | with_reducible exact ok_dostop
    | with_reducible apply ok_next
    | (extract_lets +onlyGivenNames x; refine (?_ : Ok q x → _) ?_; (intro _; clear_value x))
    | (extract_lets +onlyGivenNames f0; have z : (_ → _) := f0; clear z)
    | (extract_lets +onlyGivenNames x; clear_value x)
    | (extract_lets +onlyGivenNames x)
    | split
    | (unfold x)
    | (unfold f0)
    | (dsimp only)
    | assumption)

theorem execOr_ok {q : Kept} (e : Fin 46) (d a b : Fin 16) (s : State) (hok : Ok q s) (t_regs : ¬ q.fixed .regs := by assumption) (t_engines : ¬ q.fixed .engines := by assumption) (t_cabs : ¬ q.fixed .cabs := by assumption) (t_recorder : ¬ q.fixed .recorder := by assumption) (t_out : ¬ q.fixed .out := by assumption) : OkOut q (execOr e d a b s) := by
  unfold execOr
  (repeat' first
    | with_reducible assumption
    | intro _
    | with_reducible apply engAlu_ok
    | with_reducible apply ok_ite
    | with_reducible apply ok_foldl
    | with_reducible apply okDo_ite
    | with_reducible apply ok_do
    | with_reducible exact ok_dostop
    | with_reducible apply ok_next
    | (extract_lets +onlyGivenNames x; refine (?_ : Ok q x → _) ?_; (intro _; clear_value x))
    | (extract_lets +onlyGivenNames f0; have z : (_ → _) := f0; clear z)
    | (extract_lets +onlyGivenNames x; clear_value x)
    | (extract_lets +onlyGivenNames x)
    | split
    | (unfold x)
    | (unfold f0)
    | (dsimp only)
    | assumption)

theorem execXor_ok {q : Kept} (e : Fin 46) (d a b : Fin 16) (s : State) (hok : Ok q s) (t_regs : ¬ q.fixed .regs := by assumption) (t_engines : ¬ q.fixed .engines := by assumption) (t_cabs : ¬ q.fixed .cabs := by assumption) (t_recorder : ¬ q.fixed .recorder := by assumption) (t_out : ¬ q.fixed .out := by assumption) : OkOut q (execXor e d a b s) := by
  unfold execXor
  (repeat' first
    | with_reducible assumption
    | intro _
    | with_reducible apply engAlu_ok
    | with_reducible apply ok_ite
    | with_reducible apply ok_foldl
    | with_reducible apply okDo_ite
    | with_reducible apply ok_do
    | with_reducible exact ok_dostop
    | with_reducible apply ok_next
    | (extract_lets +onlyGivenNames x; refine (?_ : Ok q x → _) ?_; (intro _; clear_value x))
    | (extract_lets +onlyGivenNames f0; have z : (_ → _) := f0; clear z)
    | (extract_lets +onlyGivenNames x; clear_value x)
    | (extract_lets +onlyGivenNames x)
    | split
    | (unfold x)
    | (unfold f0)
    | (dsimp only)
    | assumption)

theorem execShl_ok {q : Kept} (e : Fin 46) (d a b : Fin 16) (s : State) (hok : Ok q s) (t_regs : ¬ q.fixed .regs := by assumption) (t_engines : ¬ q.fixed .engines := by assumption) (t_cabs : ¬ q.fixed .cabs := by assumption) (t_recorder : ¬ q.fixed .recorder := by assumption) (t_out : ¬ q.fixed .out := by assumption) : OkOut q (execShl e d a b s) := by
  unfold execShl
  (repeat' first
    | with_reducible assumption
    | intro _
    | with_reducible apply engAlu_ok
    | with_reducible apply ok_ite
    | with_reducible apply ok_foldl
    | with_reducible apply okDo_ite
    | with_reducible apply ok_do
    | with_reducible exact ok_dostop
    | with_reducible apply ok_next
    | (extract_lets +onlyGivenNames x; refine (?_ : Ok q x → _) ?_; (intro _; clear_value x))
    | (extract_lets +onlyGivenNames f0; have z : (_ → _) := f0; clear z)
    | (extract_lets +onlyGivenNames x; clear_value x)
    | (extract_lets +onlyGivenNames x)
    | split
    | (unfold x)
    | (unfold f0)
    | (dsimp only)
    | assumption)

theorem execShr_ok {q : Kept} (e : Fin 46) (d a b : Fin 16) (s : State) (hok : Ok q s) (t_regs : ¬ q.fixed .regs := by assumption) (t_engines : ¬ q.fixed .engines := by assumption) (t_cabs : ¬ q.fixed .cabs := by assumption) (t_recorder : ¬ q.fixed .recorder := by assumption) (t_out : ¬ q.fixed .out := by assumption) : OkOut q (execShr e d a b s) := by
  unfold execShr
  (repeat' first
    | with_reducible assumption
    | intro _
    | with_reducible apply engAlu_ok
    | with_reducible apply ok_ite
    | with_reducible apply ok_foldl
    | with_reducible apply okDo_ite
    | with_reducible apply ok_do
    | with_reducible exact ok_dostop
    | with_reducible apply ok_next
    | (extract_lets +onlyGivenNames x; refine (?_ : Ok q x → _) ?_; (intro _; clear_value x))
    | (extract_lets +onlyGivenNames f0; have z : (_ → _) := f0; clear z)
    | (extract_lets +onlyGivenNames x; clear_value x)
    | (extract_lets +onlyGivenNames x)
    | split
    | (unfold x)
    | (unfold f0)
    | (dsimp only)
    | assumption)

theorem execSar_ok {q : Kept} (e : Fin 46) (d a b : Fin 16) (s : State) (hok : Ok q s) (t_regs : ¬ q.fixed .regs := by assumption) (t_engines : ¬ q.fixed .engines := by assumption) (t_cabs : ¬ q.fixed .cabs := by assumption) (t_recorder : ¬ q.fixed .recorder := by assumption) (t_out : ¬ q.fixed .out := by assumption) : OkOut q (execSar e d a b s) := by
  unfold execSar
  (repeat' first
    | with_reducible assumption
    | intro _
    | with_reducible apply engAlu_ok
    | with_reducible apply ok_ite
    | with_reducible apply ok_foldl
    | with_reducible apply okDo_ite
    | with_reducible apply ok_do
    | with_reducible exact ok_dostop
    | with_reducible apply ok_next
    | (extract_lets +onlyGivenNames x; refine (?_ : Ok q x → _) ?_; (intro _; clear_value x))
    | (extract_lets +onlyGivenNames f0; have z : (_ → _) := f0; clear z)
    | (extract_lets +onlyGivenNames x; clear_value x)
    | (extract_lets +onlyGivenNames x)
    | split
    | (unfold x)
    | (unfold f0)
    | (dsimp only)
    | assumption)

theorem execMul_ok {q : Kept} (e : Fin 46) (d a b : Fin 16) (s : State) (hok : Ok q s) (t_regs : ¬ q.fixed .regs := by assumption) (t_engines : ¬ q.fixed .engines := by assumption) (t_cabs : ¬ q.fixed .cabs := by assumption) (t_recorder : ¬ q.fixed .recorder := by assumption) (t_out : ¬ q.fixed .out := by assumption) : OkOut q (execMul e d a b s) := by
  unfold execMul
  (repeat' first
    | with_reducible assumption
    | intro _
    | with_reducible apply engAlu_ok
    | with_reducible apply ok_ite
    | with_reducible apply ok_foldl
    | with_reducible apply okDo_ite
    | with_reducible apply ok_do
    | with_reducible exact ok_dostop
    | with_reducible apply ok_next
    | (extract_lets +onlyGivenNames x; refine (?_ : Ok q x → _) ?_; (intro _; clear_value x))
    | (extract_lets +onlyGivenNames f0; have z : (_ → _) := f0; clear z)
    | (extract_lets +onlyGivenNames x; clear_value x)
    | (extract_lets +onlyGivenNames x)
    | split
    | (unfold x)
    | (unfold f0)
    | (dsimp only)
    | assumption)

theorem execMulh_ok {q : Kept} (e : Fin 46) (d a b : Fin 16) (s : State) (hok : Ok q s) (t_regs : ¬ q.fixed .regs := by assumption) (t_engines : ¬ q.fixed .engines := by assumption) (t_cabs : ¬ q.fixed .cabs := by assumption) (t_recorder : ¬ q.fixed .recorder := by assumption) (t_out : ¬ q.fixed .out := by assumption) : OkOut q (execMulh e d a b s) := by
  unfold execMulh
  (repeat' first
    | with_reducible assumption
    | intro _
    | with_reducible apply engAlu_ok
    | with_reducible apply ok_ite
    | with_reducible apply ok_foldl
    | with_reducible apply okDo_ite
    | with_reducible apply ok_do
    | with_reducible exact ok_dostop
    | with_reducible apply ok_next
    | (extract_lets +onlyGivenNames x; refine (?_ : Ok q x → _) ?_; (intro _; clear_value x))
    | (extract_lets +onlyGivenNames f0; have z : (_ → _) := f0; clear z)
    | (extract_lets +onlyGivenNames x; clear_value x)
    | (extract_lets +onlyGivenNames x)
    | split
    | (unfold x)
    | (unfold f0)
    | (dsimp only)
    | assumption)

theorem execDiv_ok {q : Kept} (e : Fin 46) (d a b : Fin 16) (s : State) (hok : Ok q s) (t_regs : ¬ q.fixed .regs := by assumption) (t_engines : ¬ q.fixed .engines := by assumption) (t_cabs : ¬ q.fixed .cabs := by assumption) (t_recorder : ¬ q.fixed .recorder := by assumption) (t_out : ¬ q.fixed .out := by assumption) : OkOut q (execDiv e d a b s) := by
  unfold execDiv
  (repeat' first
    | with_reducible assumption
    | intro _
    | with_reducible apply engAlu_ok
    | with_reducible apply ok_ite
    | with_reducible apply ok_foldl
    | with_reducible apply okDo_ite
    | with_reducible apply ok_do
    | with_reducible exact ok_dostop
    | with_reducible apply ok_next
    | (extract_lets +onlyGivenNames x; refine (?_ : Ok q x → _) ?_; (intro _; clear_value x))
    | (extract_lets +onlyGivenNames f0; have z : (_ → _) := f0; clear z)
    | (extract_lets +onlyGivenNames x; clear_value x)
    | (extract_lets +onlyGivenNames x)
    | split
    | (unfold x)
    | (unfold f0)
    | (dsimp only)
    | assumption)

theorem execRem_ok {q : Kept} (e : Fin 46) (d a b : Fin 16) (s : State) (hok : Ok q s) (t_regs : ¬ q.fixed .regs := by assumption) (t_engines : ¬ q.fixed .engines := by assumption) (t_cabs : ¬ q.fixed .cabs := by assumption) (t_recorder : ¬ q.fixed .recorder := by assumption) (t_out : ¬ q.fixed .out := by assumption) : OkOut q (execRem e d a b s) := by
  unfold execRem
  (repeat' first
    | with_reducible assumption
    | intro _
    | with_reducible apply engAlu_ok
    | with_reducible apply ok_ite
    | with_reducible apply ok_foldl
    | with_reducible apply okDo_ite
    | with_reducible apply ok_do
    | with_reducible exact ok_dostop
    | with_reducible apply ok_next
    | (extract_lets +onlyGivenNames x; refine (?_ : Ok q x → _) ?_; (intro _; clear_value x))
    | (extract_lets +onlyGivenNames f0; have z : (_ → _) := f0; clear z)
    | (extract_lets +onlyGivenNames x; clear_value x)
    | (extract_lets +onlyGivenNames x)
    | split
    | (unfold x)
    | (unfold f0)
    | (dsimp only)
    | assumption)

theorem execSltu_ok {q : Kept} (e : Fin 46) (d a b : Fin 16) (s : State) (hok : Ok q s) (t_regs : ¬ q.fixed .regs := by assumption) (t_engines : ¬ q.fixed .engines := by assumption) (t_cabs : ¬ q.fixed .cabs := by assumption) (t_recorder : ¬ q.fixed .recorder := by assumption) (t_out : ¬ q.fixed .out := by assumption) : OkOut q (execSltu e d a b s) := by
  unfold execSltu
  (repeat' first
    | with_reducible assumption
    | intro _
    | with_reducible apply engAlu_ok
    | with_reducible apply ok_ite
    | with_reducible apply ok_foldl
    | with_reducible apply okDo_ite
    | with_reducible apply ok_do
    | with_reducible exact ok_dostop
    | with_reducible apply ok_next
    | (extract_lets +onlyGivenNames x; refine (?_ : Ok q x → _) ?_; (intro _; clear_value x))
    | (extract_lets +onlyGivenNames f0; have z : (_ → _) := f0; clear z)
    | (extract_lets +onlyGivenNames x; clear_value x)
    | (extract_lets +onlyGivenNames x)
    | split
    | (unfold x)
    | (unfold f0)
    | (dsimp only)
    | assumption)

theorem execAddi_ok {q : Kept} (e : Fin 46) (d a : Fin 16) (imm : BitVec 18) (s : State) (hok : Ok q s) (t_regs : ¬ q.fixed .regs := by assumption) (t_engines : ¬ q.fixed .engines := by assumption) (t_cabs : ¬ q.fixed .cabs := by assumption) (t_recorder : ¬ q.fixed .recorder := by assumption) (t_out : ¬ q.fixed .out := by assumption) : OkOut q (execAddi e d a imm s) := by
  unfold execAddi
  (repeat' first
    | with_reducible assumption
    | intro _
    | with_reducible apply engAlu_ok
    | with_reducible apply ok_ite
    | with_reducible apply ok_foldl
    | with_reducible apply okDo_ite
    | with_reducible apply ok_do
    | with_reducible exact ok_dostop
    | with_reducible apply ok_next
    | (extract_lets +onlyGivenNames x; refine (?_ : Ok q x → _) ?_; (intro _; clear_value x))
    | (extract_lets +onlyGivenNames f0; have z : (_ → _) := f0; clear z)
    | (extract_lets +onlyGivenNames x; clear_value x)
    | (extract_lets +onlyGivenNames x)
    | split
    | (unfold x)
    | (unfold f0)
    | (dsimp only)
    | assumption)

theorem execAndi_ok {q : Kept} (e : Fin 46) (d a : Fin 16) (imm : BitVec 18) (s : State) (hok : Ok q s) (t_regs : ¬ q.fixed .regs := by assumption) (t_engines : ¬ q.fixed .engines := by assumption) (t_cabs : ¬ q.fixed .cabs := by assumption) (t_recorder : ¬ q.fixed .recorder := by assumption) (t_out : ¬ q.fixed .out := by assumption) : OkOut q (execAndi e d a imm s) := by
  unfold execAndi
  (repeat' first
    | with_reducible assumption
    | intro _
    | with_reducible apply engAlu_ok
    | with_reducible apply ok_ite
    | with_reducible apply ok_foldl
    | with_reducible apply okDo_ite
    | with_reducible apply ok_do
    | with_reducible exact ok_dostop
    | with_reducible apply ok_next
    | (extract_lets +onlyGivenNames x; refine (?_ : Ok q x → _) ?_; (intro _; clear_value x))
    | (extract_lets +onlyGivenNames f0; have z : (_ → _) := f0; clear z)
    | (extract_lets +onlyGivenNames x; clear_value x)
    | (extract_lets +onlyGivenNames x)
    | split
    | (unfold x)
    | (unfold f0)
    | (dsimp only)
    | assumption)

theorem execOri_ok {q : Kept} (e : Fin 46) (d a : Fin 16) (imm : BitVec 18) (s : State) (hok : Ok q s) (t_regs : ¬ q.fixed .regs := by assumption) (t_engines : ¬ q.fixed .engines := by assumption) (t_cabs : ¬ q.fixed .cabs := by assumption) (t_recorder : ¬ q.fixed .recorder := by assumption) (t_out : ¬ q.fixed .out := by assumption) : OkOut q (execOri e d a imm s) := by
  unfold execOri
  (repeat' first
    | with_reducible assumption
    | intro _
    | with_reducible apply engAlu_ok
    | with_reducible apply ok_ite
    | with_reducible apply ok_foldl
    | with_reducible apply okDo_ite
    | with_reducible apply ok_do
    | with_reducible exact ok_dostop
    | with_reducible apply ok_next
    | (extract_lets +onlyGivenNames x; refine (?_ : Ok q x → _) ?_; (intro _; clear_value x))
    | (extract_lets +onlyGivenNames f0; have z : (_ → _) := f0; clear z)
    | (extract_lets +onlyGivenNames x; clear_value x)
    | (extract_lets +onlyGivenNames x)
    | split
    | (unfold x)
    | (unfold f0)
    | (dsimp only)
    | assumption)

theorem execXori_ok {q : Kept} (e : Fin 46) (d a : Fin 16) (imm : BitVec 18) (s : State) (hok : Ok q s) (t_regs : ¬ q.fixed .regs := by assumption) (t_engines : ¬ q.fixed .engines := by assumption) (t_cabs : ¬ q.fixed .cabs := by assumption) (t_recorder : ¬ q.fixed .recorder := by assumption) (t_out : ¬ q.fixed .out := by assumption) : OkOut q (execXori e d a imm s) := by
  unfold execXori
  (repeat' first
    | with_reducible assumption
    | intro _
    | with_reducible apply engAlu_ok
    | with_reducible apply ok_ite
    | with_reducible apply ok_foldl
    | with_reducible apply okDo_ite
    | with_reducible apply ok_do
    | with_reducible exact ok_dostop
    | with_reducible apply ok_next
    | (extract_lets +onlyGivenNames x; refine (?_ : Ok q x → _) ?_; (intro _; clear_value x))
    | (extract_lets +onlyGivenNames f0; have z : (_ → _) := f0; clear z)
    | (extract_lets +onlyGivenNames x; clear_value x)
    | (extract_lets +onlyGivenNames x)
    | split
    | (unfold x)
    | (unfold f0)
    | (dsimp only)
    | assumption)

theorem execShli_ok {q : Kept} (e : Fin 46) (d a : Fin 16) (imm : BitVec 18) (s : State) (hok : Ok q s) (t_regs : ¬ q.fixed .regs := by assumption) (t_engines : ¬ q.fixed .engines := by assumption) (t_cabs : ¬ q.fixed .cabs := by assumption) (t_recorder : ¬ q.fixed .recorder := by assumption) (t_out : ¬ q.fixed .out := by assumption) : OkOut q (execShli e d a imm s) := by
  unfold execShli
  (repeat' first
    | with_reducible assumption
    | intro _
    | with_reducible apply engAlu_ok
    | with_reducible apply ok_ite
    | with_reducible apply ok_foldl
    | with_reducible apply okDo_ite
    | with_reducible apply ok_do
    | with_reducible exact ok_dostop
    | with_reducible apply ok_next
    | (extract_lets +onlyGivenNames x; refine (?_ : Ok q x → _) ?_; (intro _; clear_value x))
    | (extract_lets +onlyGivenNames f0; have z : (_ → _) := f0; clear z)
    | (extract_lets +onlyGivenNames x; clear_value x)
    | (extract_lets +onlyGivenNames x)
    | split
    | (unfold x)
    | (unfold f0)
    | (dsimp only)
    | assumption)

theorem execShri_ok {q : Kept} (e : Fin 46) (d a : Fin 16) (imm : BitVec 18) (s : State) (hok : Ok q s) (t_regs : ¬ q.fixed .regs := by assumption) (t_engines : ¬ q.fixed .engines := by assumption) (t_cabs : ¬ q.fixed .cabs := by assumption) (t_recorder : ¬ q.fixed .recorder := by assumption) (t_out : ¬ q.fixed .out := by assumption) : OkOut q (execShri e d a imm s) := by
  unfold execShri
  (repeat' first
    | with_reducible assumption
    | intro _
    | with_reducible apply engAlu_ok
    | with_reducible apply ok_ite
    | with_reducible apply ok_foldl
    | with_reducible apply okDo_ite
    | with_reducible apply ok_do
    | with_reducible exact ok_dostop
    | with_reducible apply ok_next
    | (extract_lets +onlyGivenNames x; refine (?_ : Ok q x → _) ?_; (intro _; clear_value x))
    | (extract_lets +onlyGivenNames f0; have z : (_ → _) := f0; clear z)
    | (extract_lets +onlyGivenNames x; clear_value x)
    | (extract_lets +onlyGivenNames x)
    | split
    | (unfold x)
    | (unfold f0)
    | (dsimp only)
    | assumption)

theorem execSari_ok {q : Kept} (e : Fin 46) (d a : Fin 16) (imm : BitVec 18) (s : State) (hok : Ok q s) (t_regs : ¬ q.fixed .regs := by assumption) (t_engines : ¬ q.fixed .engines := by assumption) (t_cabs : ¬ q.fixed .cabs := by assumption) (t_recorder : ¬ q.fixed .recorder := by assumption) (t_out : ¬ q.fixed .out := by assumption) : OkOut q (execSari e d a imm s) := by
  unfold execSari
  (repeat' first
    | with_reducible assumption
    | intro _
    | with_reducible apply engAlu_ok
    | with_reducible apply ok_ite
    | with_reducible apply ok_foldl
    | with_reducible apply okDo_ite
    | with_reducible apply ok_do
    | with_reducible exact ok_dostop
    | with_reducible apply ok_next
    | (extract_lets +onlyGivenNames x; refine (?_ : Ok q x → _) ?_; (intro _; clear_value x))
    | (extract_lets +onlyGivenNames f0; have z : (_ → _) := f0; clear z)
    | (extract_lets +onlyGivenNames x; clear_value x)
    | (extract_lets +onlyGivenNames x)
    | split
    | (unfold x)
    | (unfold f0)
    | (dsimp only)
    | assumption)

theorem execLui_ok {q : Kept} (e : Fin 46) (d : Fin 16) (imm : BitVec 18) (s : State) (hok : Ok q s) (t_regs : ¬ q.fixed .regs := by assumption) (t_engines : ¬ q.fixed .engines := by assumption) (t_cabs : ¬ q.fixed .cabs := by assumption) (t_recorder : ¬ q.fixed .recorder := by assumption) (t_out : ¬ q.fixed .out := by assumption) : OkOut q (execLui e d imm s) := by
  unfold execLui
  (repeat' first
    | with_reducible assumption
    | intro _
    | with_reducible apply engAlu_ok
    | with_reducible apply ok_ite
    | with_reducible apply ok_foldl
    | with_reducible apply okDo_ite
    | with_reducible apply ok_do
    | with_reducible exact ok_dostop
    | with_reducible apply ok_next
    | (extract_lets +onlyGivenNames x; refine (?_ : Ok q x → _) ?_; (intro _; clear_value x))
    | (extract_lets +onlyGivenNames f0; have z : (_ → _) := f0; clear z)
    | (extract_lets +onlyGivenNames x; clear_value x)
    | (extract_lets +onlyGivenNames x)
    | split
    | (unfold x)
    | (unfold f0)
    | (dsimp only)
    | assumption)

theorem execLd_ok {q : Kept} (e : Fin 46) (d a : Fin 16) (imm : BitVec 18) (s : State) (hok : Ok q s) (t_regs : ¬ q.fixed .regs := by assumption) (t_engines : ¬ q.fixed .engines := by assumption) (t_cabs : ¬ q.fixed .cabs := by assumption) (t_recorder : ¬ q.fixed .recorder := by assumption) (t_out : ¬ q.fixed .out := by assumption) : OkOut q (execLd e d a imm s) := by
  unfold execLd
  (repeat' first
    | with_reducible assumption
    | intro _
    | with_reducible apply engExec_ok
    | with_reducible apply State.setK_ok
    | with_reducible apply ok_ite
    | with_reducible apply ok_foldl
    | with_reducible apply okDo_ite
    | with_reducible apply ok_do
    | with_reducible exact ok_dostop
    | with_reducible apply ok_next
    | (extract_lets +onlyGivenNames x; refine (?_ : Ok q x → _) ?_; (intro _; clear_value x))
    | (extract_lets +onlyGivenNames f0; have z : (_ → _) := f0; clear z)
    | (extract_lets +onlyGivenNames x; clear_value x)
    | (extract_lets +onlyGivenNames x)
    | split
    | (unfold x)
    | (unfold f0)
    | (dsimp only)
    | assumption)

theorem execSt_ok {q : Kept} (e : Fin 46) (d a : Fin 16) (imm : BitVec 18) (s : State) (hok : Ok q s) (t_regs : ¬ q.fixed .regs := by assumption) (t_engines : ¬ q.fixed .engines := by assumption) (t_cabs : ¬ q.fixed .cabs := by assumption) (t_recorder : ¬ q.fixed .recorder := by assumption) (t_out : ¬ q.fixed .out := by assumption) : OkOut q (execSt e d a imm s) := by
  unfold execSt
  (repeat' first
    | with_reducible assumption
    | intro _
    | with_reducible apply State.modEng_ok
    | with_reducible apply engExec_ok
    | exact memsWf_setData (hi := Fin.isLt _) rfl (memWf_data hok ‹_› _ _) ‹_›
    | exact memsWf_setData (hi := Fin.isLt _) rfl (memWf_initData _) ‹_›
    | exact memsWf_setData (hi := Fin.isLt _) rfl (memWf_memSet _ _ _ (memWf_mem ‹_› _)) ‹_›
    | with_reducible apply ok_ite
    | with_reducible apply ok_foldl
    | with_reducible apply okDo_ite
    | with_reducible apply ok_do
    | with_reducible exact ok_dostop
    | with_reducible apply ok_next
    | (extract_lets +onlyGivenNames x; refine (?_ : Ok q x → _) ?_; (intro _; clear_value x))
    | (extract_lets +onlyGivenNames f0; have z : (_ → _) := f0; clear z)
    | (extract_lets +onlyGivenNames x; clear_value x)
    | (extract_lets +onlyGivenNames x)
    | split
    | (unfold x)
    | (unfold f0)
    | (dsimp only)
    | assumption)

theorem State.jump_ok {q : Kept} (s : State) (e : Fin 46) (off : BitVec 18) (hok : Ok q s) (t_regs : ¬ q.fixed .regs := by assumption) : Ok q (State.jump s e off) := by
  unfold State.jump
  (repeat' first
    | with_reducible assumption
    | intro _
    | with_reducible apply State.setFld_ok
    | with_reducible apply ok_ite
    | with_reducible apply ok_foldl
    | with_reducible apply okDo_ite
    | with_reducible apply ok_do
    | with_reducible exact ok_dostop
    | (extract_lets +onlyGivenNames x; refine (?_ : Ok q x → _) ?_; (intro _; clear_value x))
    | (extract_lets +onlyGivenNames f0; have z : (_ → _) := f0; clear z)
    | (extract_lets +onlyGivenNames x; clear_value x)
    | (extract_lets +onlyGivenNames x)
    | split
    | (unfold x)
    | (unfold f0)
    | (dsimp only)
    | assumption)

theorem engBranch_ok {q : Kept} (e : Fin 46) (op : Nat) (a b : Fin 16) (off : BitVec 18) (c : Word → Word → Bool) (s : State) (hok : Ok q s) (t_regs : ¬ q.fixed .regs := by assumption) (t_engines : ¬ q.fixed .engines := by assumption) (t_cabs : ¬ q.fixed .cabs := by assumption) (t_recorder : ¬ q.fixed .recorder := by assumption) (t_out : ¬ q.fixed .out := by assumption) : Ok q (engBranch e op a b off c s) := by
  unfold engBranch
  (repeat' first
    | with_reducible assumption
    | intro _
    | with_reducible apply engExec_ok
    | with_reducible apply State.jump_ok
    | with_reducible apply ok_ite
    | with_reducible apply ok_foldl
    | with_reducible apply okDo_ite
    | with_reducible apply ok_do
    | with_reducible exact ok_dostop
    | (extract_lets +onlyGivenNames x; refine (?_ : Ok q x → _) ?_; (intro _; clear_value x))
    | (extract_lets +onlyGivenNames f0; have z : (_ → _) := f0; clear z)
    | (extract_lets +onlyGivenNames x; clear_value x)
    | (extract_lets +onlyGivenNames x)
    | split
    | (unfold x)
    | (unfold f0)
    | (dsimp only)
    | assumption)

theorem execBeq_ok {q : Kept} (e : Fin 46) (a b : Fin 16) (off : BitVec 18) (s : State) (hok : Ok q s) (t_regs : ¬ q.fixed .regs := by assumption) (t_engines : ¬ q.fixed .engines := by assumption) (t_cabs : ¬ q.fixed .cabs := by assumption) (t_recorder : ¬ q.fixed .recorder := by assumption) (t_out : ¬ q.fixed .out := by assumption) : OkOut q (execBeq e a b off s) := by
  unfold execBeq
  (repeat' first
    | with_reducible assumption
    | intro _
    | with_reducible apply engBranch_ok
    | with_reducible apply ok_ite
    | with_reducible apply ok_foldl
    | with_reducible apply okDo_ite
    | with_reducible apply ok_do
    | with_reducible exact ok_dostop
    | with_reducible apply ok_next
    | (extract_lets +onlyGivenNames x; refine (?_ : Ok q x → _) ?_; (intro _; clear_value x))
    | (extract_lets +onlyGivenNames f0; have z : (_ → _) := f0; clear z)
    | (extract_lets +onlyGivenNames x; clear_value x)
    | (extract_lets +onlyGivenNames x)
    | split
    | (unfold x)
    | (unfold f0)
    | (dsimp only)
    | assumption)

theorem execBne_ok {q : Kept} (e : Fin 46) (a b : Fin 16) (off : BitVec 18) (s : State) (hok : Ok q s) (t_regs : ¬ q.fixed .regs := by assumption) (t_engines : ¬ q.fixed .engines := by assumption) (t_cabs : ¬ q.fixed .cabs := by assumption) (t_recorder : ¬ q.fixed .recorder := by assumption) (t_out : ¬ q.fixed .out := by assumption) : OkOut q (execBne e a b off s) := by
  unfold execBne
  (repeat' first
    | with_reducible assumption
    | intro _
    | with_reducible apply engBranch_ok
    | with_reducible apply ok_ite
    | with_reducible apply ok_foldl
    | with_reducible apply okDo_ite
    | with_reducible apply ok_do
    | with_reducible exact ok_dostop
    | with_reducible apply ok_next
    | (extract_lets +onlyGivenNames x; refine (?_ : Ok q x → _) ?_; (intro _; clear_value x))
    | (extract_lets +onlyGivenNames f0; have z : (_ → _) := f0; clear z)
    | (extract_lets +onlyGivenNames x; clear_value x)
    | (extract_lets +onlyGivenNames x)
    | split
    | (unfold x)
    | (unfold f0)
    | (dsimp only)
    | assumption)

theorem execBlt_ok {q : Kept} (e : Fin 46) (a b : Fin 16) (off : BitVec 18) (s : State) (hok : Ok q s) (t_regs : ¬ q.fixed .regs := by assumption) (t_engines : ¬ q.fixed .engines := by assumption) (t_cabs : ¬ q.fixed .cabs := by assumption) (t_recorder : ¬ q.fixed .recorder := by assumption) (t_out : ¬ q.fixed .out := by assumption) : OkOut q (execBlt e a b off s) := by
  unfold execBlt
  (repeat' first
    | with_reducible assumption
    | intro _
    | with_reducible apply engBranch_ok
    | with_reducible apply ok_ite
    | with_reducible apply ok_foldl
    | with_reducible apply okDo_ite
    | with_reducible apply ok_do
    | with_reducible exact ok_dostop
    | with_reducible apply ok_next
    | (extract_lets +onlyGivenNames x; refine (?_ : Ok q x → _) ?_; (intro _; clear_value x))
    | (extract_lets +onlyGivenNames f0; have z : (_ → _) := f0; clear z)
    | (extract_lets +onlyGivenNames x; clear_value x)
    | (extract_lets +onlyGivenNames x)
    | split
    | (unfold x)
    | (unfold f0)
    | (dsimp only)
    | assumption)

theorem execBge_ok {q : Kept} (e : Fin 46) (a b : Fin 16) (off : BitVec 18) (s : State) (hok : Ok q s) (t_regs : ¬ q.fixed .regs := by assumption) (t_engines : ¬ q.fixed .engines := by assumption) (t_cabs : ¬ q.fixed .cabs := by assumption) (t_recorder : ¬ q.fixed .recorder := by assumption) (t_out : ¬ q.fixed .out := by assumption) : OkOut q (execBge e a b off s) := by
  unfold execBge
  (repeat' first
    | with_reducible assumption
    | intro _
    | with_reducible apply engBranch_ok
    | with_reducible apply ok_ite
    | with_reducible apply ok_foldl
    | with_reducible apply okDo_ite
    | with_reducible apply ok_do
    | with_reducible exact ok_dostop
    | with_reducible apply ok_next
    | (extract_lets +onlyGivenNames x; refine (?_ : Ok q x → _) ?_; (intro _; clear_value x))
    | (extract_lets +onlyGivenNames f0; have z : (_ → _) := f0; clear z)
    | (extract_lets +onlyGivenNames x; clear_value x)
    | (extract_lets +onlyGivenNames x)
    | split
    | (unfold x)
    | (unfold f0)
    | (dsimp only)
    | assumption)

theorem execBltu_ok {q : Kept} (e : Fin 46) (a b : Fin 16) (off : BitVec 18) (s : State) (hok : Ok q s) (t_regs : ¬ q.fixed .regs := by assumption) (t_engines : ¬ q.fixed .engines := by assumption) (t_cabs : ¬ q.fixed .cabs := by assumption) (t_recorder : ¬ q.fixed .recorder := by assumption) (t_out : ¬ q.fixed .out := by assumption) : OkOut q (execBltu e a b off s) := by
  unfold execBltu
  (repeat' first
    | with_reducible assumption
    | intro _
    | with_reducible apply engBranch_ok
    | with_reducible apply ok_ite
    | with_reducible apply ok_foldl
    | with_reducible apply okDo_ite
    | with_reducible apply ok_do
    | with_reducible exact ok_dostop
    | with_reducible apply ok_next
    | (extract_lets +onlyGivenNames x; refine (?_ : Ok q x → _) ?_; (intro _; clear_value x))
    | (extract_lets +onlyGivenNames f0; have z : (_ → _) := f0; clear z)
    | (extract_lets +onlyGivenNames x; clear_value x)
    | (extract_lets +onlyGivenNames x)
    | split
    | (unfold x)
    | (unfold f0)
    | (dsimp only)
    | assumption)

theorem execBgeu_ok {q : Kept} (e : Fin 46) (a b : Fin 16) (off : BitVec 18) (s : State) (hok : Ok q s) (t_regs : ¬ q.fixed .regs := by assumption) (t_engines : ¬ q.fixed .engines := by assumption) (t_cabs : ¬ q.fixed .cabs := by assumption) (t_recorder : ¬ q.fixed .recorder := by assumption) (t_out : ¬ q.fixed .out := by assumption) : OkOut q (execBgeu e a b off s) := by
  unfold execBgeu
  (repeat' first
    | with_reducible assumption
    | intro _
    | with_reducible apply engBranch_ok
    | with_reducible apply ok_ite
    | with_reducible apply ok_foldl
    | with_reducible apply okDo_ite
    | with_reducible apply ok_do
    | with_reducible exact ok_dostop
    | with_reducible apply ok_next
    | (extract_lets +onlyGivenNames x; refine (?_ : Ok q x → _) ?_; (intro _; clear_value x))
    | (extract_lets +onlyGivenNames f0; have z : (_ → _) := f0; clear z)
    | (extract_lets +onlyGivenNames x; clear_value x)
    | (extract_lets +onlyGivenNames x)
    | split
    | (unfold x)
    | (unfold f0)
    | (dsimp only)
    | assumption)

theorem execJmp_ok {q : Kept} (e : Fin 46) (off : BitVec 18) (s : State) (hok : Ok q s) (t_regs : ¬ q.fixed .regs := by assumption) (t_engines : ¬ q.fixed .engines := by assumption) (t_cabs : ¬ q.fixed .cabs := by assumption) (t_recorder : ¬ q.fixed .recorder := by assumption) (t_out : ¬ q.fixed .out := by assumption) : OkOut q (execJmp e off s) := by
  unfold execJmp
  (repeat' first
    | with_reducible assumption
    | intro _
    | with_reducible apply engExec_ok
    | with_reducible apply State.jump_ok
    | with_reducible apply ok_ite
    | with_reducible apply ok_foldl
    | with_reducible apply okDo_ite
    | with_reducible apply ok_do
    | with_reducible exact ok_dostop
    | with_reducible apply ok_next
    | (extract_lets +onlyGivenNames x; refine (?_ : Ok q x → _) ?_; (intro _; clear_value x))
    | (extract_lets +onlyGivenNames f0; have z : (_ → _) := f0; clear z)
    | (extract_lets +onlyGivenNames x; clear_value x)
    | (extract_lets +onlyGivenNames x)
    | split
    | (unfold x)
    | (unfold f0)
    | (dsimp only)
    | assumption)

theorem execCall_ok {q : Kept} (e : Fin 46) (off : BitVec 18) (s : State) (hok : Ok q s) (t_regs : ¬ q.fixed .regs := by assumption) (t_engines : ¬ q.fixed .engines := by assumption) (t_cabs : ¬ q.fixed .cabs := by assumption) (t_recorder : ¬ q.fixed .recorder := by assumption) (t_out : ¬ q.fixed .out := by assumption) : OkOut q (execCall e off s) := by
  unfold execCall
  (repeat' first
    | with_reducible assumption
    | intro _
    | with_reducible apply engExec_ok
    | with_reducible apply State.setK_ok
    | with_reducible apply State.jump_ok
    | with_reducible apply ok_ite
    | with_reducible apply ok_foldl
    | with_reducible apply okDo_ite
    | with_reducible apply ok_do
    | with_reducible exact ok_dostop
    | with_reducible apply ok_next
    | (extract_lets +onlyGivenNames x; refine (?_ : Ok q x → _) ?_; (intro _; clear_value x))
    | (extract_lets +onlyGivenNames f0; have z : (_ → _) := f0; clear z)
    | (extract_lets +onlyGivenNames x; clear_value x)
    | (extract_lets +onlyGivenNames x)
    | split
    | (unfold x)
    | (unfold f0)
    | (dsimp only)
    | assumption)

theorem execRet_ok {q : Kept} (e : Fin 46) (s : State) (hok : Ok q s) (t_regs : ¬ q.fixed .regs := by assumption) (t_engines : ¬ q.fixed .engines := by assumption) (t_cabs : ¬ q.fixed .cabs := by assumption) (t_recorder : ¬ q.fixed .recorder := by assumption) (t_out : ¬ q.fixed .out := by assumption) : OkOut q (execRet e s) := by
  unfold execRet
  (repeat' first
    | with_reducible assumption
    | intro _
    | with_reducible apply State.setFld_ok
    | with_reducible apply engExec_ok
    | with_reducible apply ok_ite
    | with_reducible apply ok_foldl
    | with_reducible apply okDo_ite
    | with_reducible apply ok_do
    | with_reducible exact ok_dostop
    | with_reducible apply ok_next
    | (extract_lets +onlyGivenNames x; refine (?_ : Ok q x → _) ?_; (intro _; clear_value x))
    | (extract_lets +onlyGivenNames f0; have z : (_ → _) := f0; clear z)
    | (extract_lets +onlyGivenNames x; clear_value x)
    | (extract_lets +onlyGivenNames x)
    | split
    | (unfold x)
    | (unfold f0)
    | (dsimp only)
    | assumption)

theorem willEnd_ok {q : Kept} (e : Fin 46) (s : State) (hok : Ok q s) (t_regs : ¬ q.fixed .regs := by assumption) (t_engines : ¬ q.fixed .engines := by assumption) (t_cabs : ¬ q.fixed .cabs := by assumption) (t_recorder : ¬ q.fixed .recorder := by assumption) (t_out : ¬ q.fixed .out := by assumption) : Ok q (willEnd e s) := by
  unfold willEnd
  (repeat' first
    | with_reducible assumption
    | intro _
    | with_reducible apply State.modEng_ok
    | with_reducible apply endRun_ok
    | with_reducible apply filterVerdict_ok
    | with_reducible apply ok_ite
    | with_reducible apply ok_foldl
    | with_reducible apply okDo_ite
    | with_reducible apply ok_do
    | with_reducible exact ok_dostop
    | (extract_lets +onlyGivenNames x; refine (?_ : Ok q x → _) ?_; (intro _; clear_value x))
    | (extract_lets +onlyGivenNames f0; have z : (_ → _) := f0; clear z)
    | (extract_lets +onlyGivenNames x; clear_value x)
    | (extract_lets +onlyGivenNames x)
    | split
    | (unfold x)
    | (unfold f0)
    | (dsimp only)
    | assumption)

theorem execYield_ok {q : Kept} (e : Fin 46) (s : State) (hok : Ok q s) (t_regs : ¬ q.fixed .regs := by assumption) (t_engines : ¬ q.fixed .engines := by assumption) (t_cabs : ¬ q.fixed .cabs := by assumption) (t_recorder : ¬ q.fixed .recorder := by assumption) (t_out : ¬ q.fixed .out := by assumption) : OkOut q (execYield e s) := by
  unfold execYield
  (repeat' first
    | with_reducible assumption
    | intro _
    | with_reducible apply State.setFld_ok
    | with_reducible apply engExec_ok
    | with_reducible apply willEnd_ok
    | with_reducible apply ok_ite
    | with_reducible apply ok_foldl
    | with_reducible apply okDo_ite
    | with_reducible apply ok_do
    | with_reducible exact ok_dostop
    | with_reducible apply ok_next
    | (extract_lets +onlyGivenNames x; refine (?_ : Ok q x → _) ?_; (intro _; clear_value x))
    | (extract_lets +onlyGivenNames f0; have z : (_ → _) := f0; clear z)
    | (extract_lets +onlyGivenNames x; clear_value x)
    | (extract_lets +onlyGivenNames x)
    | split
    | (unfold x)
    | (unfold f0)
    | (dsimp only)
    | assumption)

theorem execHalt_ok {q : Kept} (e : Fin 46) (s : State) (hok : Ok q s) (t_regs : ¬ q.fixed .regs := by assumption) (t_engines : ¬ q.fixed .engines := by assumption) (t_cabs : ¬ q.fixed .cabs := by assumption) (t_recorder : ¬ q.fixed .recorder := by assumption) (t_out : ¬ q.fixed .out := by assumption) : OkOut q (execHalt e s) := by
  unfold execHalt
  (repeat' first
    | with_reducible assumption
    | intro _
    | with_reducible apply State.setFld_ok
    | with_reducible apply raiseStopped_ok
    | with_reducible apply engExec_ok
    | with_reducible apply willEnd_ok
    | with_reducible apply ok_ite
    | with_reducible apply ok_foldl
    | with_reducible apply okDo_ite
    | with_reducible apply ok_do
    | with_reducible exact ok_dostop
    | with_reducible apply ok_next
    | (extract_lets +onlyGivenNames x; refine (?_ : Ok q x → _) ?_; (intro _; clear_value x))
    | (extract_lets +onlyGivenNames f0; have z : (_ → _) := f0; clear z)
    | (extract_lets +onlyGivenNames x; clear_value x)
    | (extract_lets +onlyGivenNames x)
    | split
    | (unfold x)
    | (unfold f0)
    | (dsimp only)
    | assumption)

theorem forcedYield_ok {q : Kept} (e : Fin 46) (s : State) (hok : Ok q s) (t_regs : ¬ q.fixed .regs := by assumption) (t_engines : ¬ q.fixed .engines := by assumption) (t_cabs : ¬ q.fixed .cabs := by assumption) (t_recorder : ¬ q.fixed .recorder := by assumption) (t_out : ¬ q.fixed .out := by assumption) : Ok q (forcedYield e s) := by
  unfold forcedYield
  (repeat' first
    | with_reducible assumption
    | intro _
    | with_reducible apply State.count_ok
    | with_reducible apply State.modEng_ok
    | with_reducible apply record_ok
    | with_reducible apply endRun_ok
    | with_reducible apply filterVerdict_ok
    | with_reducible apply ok_ite
    | with_reducible apply ok_foldl
    | with_reducible apply okDo_ite
    | with_reducible apply ok_do
    | with_reducible exact ok_dostop
    | (extract_lets +onlyGivenNames x; refine (?_ : Ok q x → _) ?_; (intro _; clear_value x))
    | (extract_lets +onlyGivenNames f0; have z : (_ → _) := f0; clear z)
    | (extract_lets +onlyGivenNames x; clear_value x)
    | (extract_lets +onlyGivenNames x)
    | split
    | (unfold x)
    | (unfold f0)
    | (dsimp only)
    | assumption)

theorem execForcedYield_ok {q : Kept} (e : Fin 46) (s : State) (hok : Ok q s) (t_regs : ¬ q.fixed .regs := by assumption) (t_engines : ¬ q.fixed .engines := by assumption) (t_cabs : ¬ q.fixed .cabs := by assumption) (t_recorder : ¬ q.fixed .recorder := by assumption) (t_out : ¬ q.fixed .out := by assumption) : OkOut q (execForcedYield e s) := by
  unfold execForcedYield
  (repeat' first
    | with_reducible assumption
    | intro _
    | with_reducible apply State.onlyIf_ok
    | with_reducible apply forcedYield_ok
    | with_reducible apply ok_ite
    | with_reducible apply ok_foldl
    | with_reducible apply okDo_ite
    | with_reducible apply ok_do
    | with_reducible exact ok_dostop
    | with_reducible apply ok_next
    | (extract_lets +onlyGivenNames x; refine (?_ : Ok q x → _) ?_; (intro _; clear_value x))
    | (extract_lets +onlyGivenNames f0; have z : (_ → _) := f0; clear z)
    | (extract_lets +onlyGivenNames x; clear_value x)
    | (extract_lets +onlyGivenNames x)
    | split
    | (unfold x)
    | (unfold f0)
    | (dsimp only)
    | assumption)

theorem engWatchdog_ok {q : Kept} (e : Fin 46) (s : State) (hok : Ok q s) (t_regs : ¬ q.fixed .regs := by assumption) (t_axes : ¬ q.fixed .axes := by assumption) (t_ports : ¬ q.fixed .ports := by assumption) (t_engines : ¬ q.fixed .engines := by assumption) (t_cabs : ¬ q.fixed .cabs := by assumption) (t_recorder : ¬ q.fixed .recorder := by assumption) (t_out : ¬ q.fixed .out := by assumption) : Ok q (engWatchdog e s) := by
  unfold engWatchdog
  (repeat' first
    | with_reducible assumption
    | intro _
    | with_reducible apply State.modEng_ok
    | with_reducible apply raiseFault_ok
    | with_reducible apply raiseFaultAll_ok
    | with_reducible apply stopEngine_ok
    | with_reducible apply ok_ite
    | with_reducible apply ok_foldl
    | with_reducible apply okDo_ite
    | with_reducible apply ok_do
    | with_reducible exact ok_dostop
    | (extract_lets +onlyGivenNames x; refine (?_ : Ok q x → _) ?_; (intro _; clear_value x))
    | (extract_lets +onlyGivenNames f0; have z : (_ → _) := f0; clear z)
    | (extract_lets +onlyGivenNames x; clear_value x)
    | (extract_lets +onlyGivenNames x)
    | split
    | (unfold x)
    | (unfold f0)
    | (dsimp only)
    | assumption)

theorem execEngWdog_ok {q : Kept} (e : Fin 46) (s : State) (hok : Ok q s) (t_regs : ¬ q.fixed .regs := by assumption) (t_axes : ¬ q.fixed .axes := by assumption) (t_ports : ¬ q.fixed .ports := by assumption) (t_engines : ¬ q.fixed .engines := by assumption) (t_cabs : ¬ q.fixed .cabs := by assumption) (t_recorder : ¬ q.fixed .recorder := by assumption) (t_out : ¬ q.fixed .out := by assumption) : OkOut q (execEngWdog e s) := by
  unfold execEngWdog
  (repeat' first
    | with_reducible assumption
    | intro _
    | with_reducible apply engWatchdog_ok
    | with_reducible apply ok_ite
    | with_reducible apply ok_foldl
    | with_reducible apply okDo_ite
    | with_reducible apply ok_do
    | with_reducible exact ok_dostop
    | with_reducible apply ok_next
    | (extract_lets +onlyGivenNames x; refine (?_ : Ok q x → _) ?_; (intro _; clear_value x))
    | (extract_lets +onlyGivenNames f0; have z : (_ → _) := f0; clear z)
    | (extract_lets +onlyGivenNames x; clear_value x)
    | (extract_lets +onlyGivenNames x)
    | split
    | (unfold x)
    | (unfold f0)
    | (dsimp only)
    | assumption)

theorem execUndefinedOpcode_ok {q : Kept} (e : Fin 46) (w : Word) (s : State) (hok : Ok q s) (t_regs : ¬ q.fixed .regs := by assumption) (t_engines : ¬ q.fixed .engines := by assumption) (t_cabs : ¬ q.fixed .cabs := by assumption) (t_recorder : ¬ q.fixed .recorder := by assumption) (t_out : ¬ q.fixed .out := by assumption) : OkOut q (execUndefinedOpcode e w s) := by
  unfold execUndefinedOpcode
  (repeat' first
    | with_reducible assumption
    | intro _
    | with_reducible apply State.onlyIf_ok
    | with_reducible apply stopInRun_ok
    | with_reducible apply ok_ite
    | with_reducible apply ok_foldl
    | with_reducible apply okDo_ite
    | with_reducible apply ok_do
    | with_reducible exact ok_dostop
    | with_reducible apply ok_next
    | (extract_lets +onlyGivenNames x; refine (?_ : Ok q x → _) ?_; (intro _; clear_value x))
    | (extract_lets +onlyGivenNames f0; have z : (_ → _) := f0; clear z)
    | (extract_lets +onlyGivenNames x; clear_value x)
    | (extract_lets +onlyGivenNames x)
    | split
    | (unfold x)
    | (unfold f0)
    | (dsimp only)
    | assumption)

theorem State.setEvent_ok {q : Kept} (s : State) (e : Fin 46) (d : Fin 16) (n : Nat) (p : BitVec 64) (hok : Ok q s) (t_engines : ¬ q.fixed .engines := by assumption) : Ok q (State.setEvent s e d n p) := by
  unfold State.setEvent
  (repeat' first
    | with_reducible assumption
    | intro _
    | with_reducible apply State.setK_ok
    | with_reducible apply ok_ite
    | with_reducible apply ok_foldl
    | with_reducible apply okDo_ite
    | with_reducible apply ok_do
    | with_reducible exact ok_dostop
    | (extract_lets +onlyGivenNames x; refine (?_ : Ok q x → _) ?_; (intro _; clear_value x))
    | (extract_lets +onlyGivenNames f0; have z : (_ → _) := f0; clear z)
    | (extract_lets +onlyGivenNames x; clear_value x)
    | (extract_lets +onlyGivenNames x)
    | split
    | (unfold x)
    | (unfold f0)
    | (dsimp only)
    | assumption)

theorem takeEvent_ok {q : Kept} (e : Fin 46) (d : Fin 16) (b : Nat) (s : State) (hok : Ok q s) (t_regs : ¬ q.fixed .regs := by assumption) (t_engines : ¬ q.fixed .engines := by assumption) : Ok q (takeEvent e d b s) := by
  unfold takeEvent
  (repeat' first
    | with_reducible assumption
    | intro _
    | with_reducible apply State.setFld_ok
    | with_reducible apply State.modEng_ok
    | with_reducible apply State.setEvent_ok
    | with_reducible apply ok_ite
    | with_reducible apply ok_foldl
    | with_reducible apply okDo_ite
    | with_reducible apply ok_do
    | with_reducible exact ok_dostop
    | (extract_lets +onlyGivenNames x; refine (?_ : Ok q x → _) ?_; (intro _; clear_value x))
    | (extract_lets +onlyGivenNames f0; have z : (_ → _) := f0; clear z)
    | (extract_lets +onlyGivenNames x; clear_value x)
    | (extract_lets +onlyGivenNames x)
    | split
    | (unfold x)
    | (unfold f0)
    | (dsimp only)
    | assumption)

theorem waitEnds_ok {q : Kept} (e : Fin 46) (a : Fin 16) (s : State) (hok : Ok q s) (t_regs : ¬ q.fixed .regs := by assumption) (t_engines : ¬ q.fixed .engines := by assumption) (t_cabs : ¬ q.fixed .cabs := by assumption) (t_recorder : ¬ q.fixed .recorder := by assumption) (t_out : ¬ q.fixed .out := by assumption) : Ok q (waitEnds e a s) := by
  unfold waitEnds
  (repeat' first
    | with_reducible assumption
    | intro _
    | with_reducible apply State.setFld_ok
    | with_reducible apply State.modEng_ok
    | with_reducible apply willEnd_ok
    | with_reducible apply ok_ite
    | with_reducible apply ok_foldl
    | with_reducible apply okDo_ite
    | with_reducible apply ok_do
    | with_reducible exact ok_dostop
    | (extract_lets +onlyGivenNames x; refine (?_ : Ok q x → _) ?_; (intro _; clear_value x))
    | (extract_lets +onlyGivenNames f0; have z : (_ → _) := f0; clear z)
    | (extract_lets +onlyGivenNames x; clear_value x)
    | (extract_lets +onlyGivenNames x)
    | split
    | (unfold x)
    | (unfold f0)
    | (dsimp only)
    | assumption)

theorem execWait_ok {q : Kept} (e : Fin 46) (d a : Fin 16) (imm : BitVec 18) (s : State) (hok : Ok q s) (t_regs : ¬ q.fixed .regs := by assumption) (t_engines : ¬ q.fixed .engines := by assumption) (t_cabs : ¬ q.fixed .cabs := by assumption) (t_recorder : ¬ q.fixed .recorder := by assumption) (t_out : ¬ q.fixed .out := by assumption) : OkOut q (execWait e d a imm s) := by
  unfold execWait
  (repeat' first
    | with_reducible assumption
    | intro _
    | with_reducible apply State.onlyIf_ok
    | with_reducible apply engExec_ok
    | with_reducible apply takeEvent_ok
    | with_reducible apply waitEnds_ok
    | with_reducible apply ok_ite
    | with_reducible apply ok_foldl
    | with_reducible apply okDo_ite
    | with_reducible apply ok_do
    | with_reducible exact ok_dostop
    | with_reducible apply ok_next
    | (extract_lets +onlyGivenNames x; refine (?_ : Ok q x → _) ?_; (intro _; clear_value x))
    | (extract_lets +onlyGivenNames f0; have z : (_ → _) := f0; clear z)
    | (extract_lets +onlyGivenNames x; clear_value x)
    | (extract_lets +onlyGivenNames x)
    | split
    | (unfold x)
    | (unfold f0)
    | (dsimp only)
    | assumption)

theorem execWaitTimeout_ok {q : Kept} (e : Fin 46) (d a : Fin 16) (imm : BitVec 18) (s : State) (hok : Ok q s) (t_regs : ¬ q.fixed .regs := by assumption) (t_engines : ¬ q.fixed .engines := by assumption) (t_cabs : ¬ q.fixed .cabs := by assumption) (t_recorder : ¬ q.fixed .recorder := by assumption) (t_out : ¬ q.fixed .out := by assumption) : OkOut q (execWaitTimeout e d a imm s) := by
  unfold execWaitTimeout
  (repeat' first
    | with_reducible assumption
    | intro _
    | with_reducible apply State.setFld_ok
    | with_reducible apply State.modEng_ok
    | with_reducible apply State.onlyIf_ok
    | with_reducible apply engExec_ok
    | with_reducible apply State.setEvent_ok
    | with_reducible apply ok_ite
    | with_reducible apply ok_foldl
    | with_reducible apply okDo_ite
    | with_reducible apply ok_do
    | with_reducible exact ok_dostop
    | with_reducible apply ok_next
    | (extract_lets +onlyGivenNames x; refine (?_ : Ok q x → _) ?_; (intro _; clear_value x))
    | (extract_lets +onlyGivenNames f0; have z : (_ → _) := f0; clear z)
    | (extract_lets +onlyGivenNames x; clear_value x)
    | (extract_lets +onlyGivenNames x)
    | split
    | (unfold x)
    | (unfold f0)
    | (dsimp only)
    | assumption)

theorem execArm_ok {q : Kept} (e : Fin 46) (d a : Fin 16) (imm : BitVec 18) (s : State) (hok : Ok q s) (t_regs : ¬ q.fixed .regs := by assumption) (t_engines : ¬ q.fixed .engines := by assumption) (t_cabs : ¬ q.fixed .cabs := by assumption) (t_recorder : ¬ q.fixed .recorder := by assumption) (t_out : ¬ q.fixed .out := by assumption) : OkOut q (execArm e d a imm s) := by
  unfold execArm
  (repeat' first
    | with_reducible assumption
    | intro _
    | with_reducible apply State.modEng_ok
    | with_reducible apply engExec_ok
    | with_reducible apply ok_ite
    | with_reducible apply ok_foldl
    | with_reducible apply okDo_ite
    | with_reducible apply ok_do
    | with_reducible exact ok_dostop
    | with_reducible apply ok_next
    | (extract_lets +onlyGivenNames x; refine (?_ : Ok q x → _) ?_; (intro _; clear_value x))
    | (extract_lets +onlyGivenNames f0; have z : (_ → _) := f0; clear z)
    | (extract_lets +onlyGivenNames x; clear_value x)
    | (extract_lets +onlyGivenNames x)
    | split
    | (unfold x)
    | (unfold f0)
    | (dsimp only)
    | assumption)

theorem armedFires_ok {q : Kept} (e : Fin 46) (s : State) (hok : Ok q s) (t_regs : ¬ q.fixed .regs := by assumption) (t_engines : ¬ q.fixed .engines := by assumption) : Ok q (armedFires e s) := by
  unfold armedFires
  (repeat' first
    | with_reducible assumption
    | intro _
    | with_reducible apply State.modEng_ok
    | with_reducible apply latchEvent_ok
    | with_reducible apply ok_ite
    | with_reducible apply ok_foldl
    | with_reducible apply okDo_ite
    | with_reducible apply ok_do
    | with_reducible exact ok_dostop
    | (extract_lets +onlyGivenNames x; refine (?_ : Ok q x → _) ?_; (intro _; clear_value x))
    | (extract_lets +onlyGivenNames f0; have z : (_ → _) := f0; clear z)
    | (extract_lets +onlyGivenNames x; clear_value x)
    | (extract_lets +onlyGivenNames x)
    | split
    | (unfold x)
    | (unfold f0)
    | (dsimp only)
    | assumption)

theorem execArmed_ok {q : Kept} (e : Fin 46) (s : State) (hok : Ok q s) (t_regs : ¬ q.fixed .regs := by assumption) (t_engines : ¬ q.fixed .engines := by assumption) : OkOut q (execArmed e s) := by
  unfold execArmed
  (repeat' first
    | with_reducible assumption
    | intro _
    | with_reducible apply State.onlyIf_ok
    | with_reducible apply armedFires_ok
    | with_reducible apply ok_ite
    | with_reducible apply ok_foldl
    | with_reducible apply okDo_ite
    | with_reducible apply ok_do
    | with_reducible exact ok_dostop
    | with_reducible apply ok_next
    | (extract_lets +onlyGivenNames x; refine (?_ : Ok q x → _) ?_; (intro _; clear_value x))
    | (extract_lets +onlyGivenNames f0; have z : (_ → _) := f0; clear z)
    | (extract_lets +onlyGivenNames x; clear_value x)
    | (extract_lets +onlyGivenNames x)
    | split
    | (unfold x)
    | (unfold f0)
    | (dsimp only)
    | assumption)

theorem execTime_ok {q : Kept} (e : Fin 46) (d : Fin 16) (imm : BitVec 18) (a : Fin 16) (s : State) (hok : Ok q s) (t_regs : ¬ q.fixed .regs := by assumption) (t_engines : ¬ q.fixed .engines := by assumption) (t_cabs : ¬ q.fixed .cabs := by assumption) (t_recorder : ¬ q.fixed .recorder := by assumption) (t_out : ¬ q.fixed .out := by assumption) : OkOut q (execTime e d imm a s) := by
  unfold execTime
  (repeat' first
    | with_reducible assumption
    | intro _
    | with_reducible apply engExec_ok
    | with_reducible apply State.setK_ok
    | with_reducible apply ok_ite
    | with_reducible apply ok_foldl
    | with_reducible apply okDo_ite
    | with_reducible apply ok_do
    | with_reducible exact ok_dostop
    | with_reducible apply ok_next
    | (extract_lets +onlyGivenNames x; refine (?_ : Ok q x → _) ?_; (intro _; clear_value x))
    | (extract_lets +onlyGivenNames f0; have z : (_ → _) := f0; clear z)
    | (extract_lets +onlyGivenNames x; clear_value x)
    | (extract_lets +onlyGivenNames x)
    | split
    | (unfold x)
    | (unfold f0)
    | (dsimp only)
    | assumption)

theorem execSignal_ok {q : Kept} (e : Fin 46) (d a : Fin 16) (imm : BitVec 18) (s : State) (hok : Ok q s) (t_regs : ¬ q.fixed .regs := by assumption) (t_engines : ¬ q.fixed .engines := by assumption) (t_cabs : ¬ q.fixed .cabs := by assumption) (t_recorder : ¬ q.fixed .recorder := by assumption) (t_out : ¬ q.fixed .out := by assumption) : OkOut q (execSignal e d a imm s) := by
  unfold execSignal
  (repeat' first
    | with_reducible assumption
    | intro _
    | with_reducible apply raiseEvent_ok
    | with_reducible apply engExec_ok
    | with_reducible apply ok_ite
    | with_reducible apply ok_foldl
    | with_reducible apply okDo_ite
    | with_reducible apply ok_do
    | with_reducible exact ok_dostop
    | with_reducible apply ok_next
    | (extract_lets +onlyGivenNames x; refine (?_ : Ok q x → _) ?_; (intro _; clear_value x))
    | (extract_lets +onlyGivenNames f0; have z : (_ → _) := f0; clear z)
    | (extract_lets +onlyGivenNames x; clear_value x)
    | (extract_lets +onlyGivenNames x)
    | split
    | (unfold x)
    | (unfold f0)
    | (dsimp only)
    | assumption)

theorem execEmit_ok {q : Kept} (e : Fin 46) (d a b : Fin 16) (sev : BitVec 2) (code : BitVec 12) (s : State) (hok : Ok q s) (t_regs : ¬ q.fixed .regs := by assumption) (t_engines : ¬ q.fixed .engines := by assumption) (t_cabs : ¬ q.fixed .cabs := by assumption) (t_recorder : ¬ q.fixed .recorder := by assumption) (t_out : ¬ q.fixed .out := by assumption) : OkOut q (execEmit e d a b sev code s) := by
  unfold execEmit
  (repeat' first
    | with_reducible assumption
    | intro _
    | with_reducible apply candidate_ok
    | with_reducible apply engExec_ok
    | with_reducible apply ok_ite
    | with_reducible apply ok_foldl
    | with_reducible apply okDo_ite
    | with_reducible apply ok_do
    | with_reducible exact ok_dostop
    | with_reducible apply ok_next
    | (extract_lets +onlyGivenNames x; refine (?_ : Ok q x → _) ?_; (intro _; clear_value x))
    | (extract_lets +onlyGivenNames f0; have z : (_ → _) := f0; clear z)
    | (extract_lets +onlyGivenNames x; clear_value x)
    | (extract_lets +onlyGivenNames x)
    | split
    | (unfold x)
    | (unfold f0)
    | (dsimp only)
    | assumption)

theorem execReact_ok {q : Kept} (e : Fin 46) (d a : Fin 16) (imm : BitVec 18) (s : State) (hok : Ok q s) (t_regs : ¬ q.fixed .regs := by assumption) (t_axes : ¬ q.fixed .axes := by assumption) (t_ports : ¬ q.fixed .ports := by assumption) (t_engines : ¬ q.fixed .engines := by assumption) (t_cabs : ¬ q.fixed .cabs := by assumption) (t_recorder : ¬ q.fixed .recorder := by assumption) (t_out : ¬ q.fixed .out := by assumption) : OkOut q (execReact e d a imm s) := by
  unfold execReact
  (repeat' first
    | with_reducible assumption
    | intro _
    | with_reducible apply raiseFaultRx_ok
    | with_reducible apply engExec_ok
    | with_reducible apply ok_ite
    | with_reducible apply ok_foldl
    | with_reducible apply okDo_ite
    | with_reducible apply ok_do
    | with_reducible exact ok_dostop
    | with_reducible apply ok_next
    | (extract_lets +onlyGivenNames x; refine (?_ : Ok q x → _) ?_; (intro _; clear_value x))
    | (extract_lets +onlyGivenNames f0; have z : (_ → _) := f0; clear z)
    | (extract_lets +onlyGivenNames x; clear_value x)
    | (extract_lets +onlyGivenNames x)
    | split
    | (unfold x)
    | (unfold f0)
    | (dsimp only)
    | assumption)

theorem execVerdict_ok {q : Kept} (e : Fin 46) (d a : Fin 16) (imm : BitVec 18) (s : State) (hok : Ok q s) (t_regs : ¬ q.fixed .regs := by assumption) (t_engines : ¬ q.fixed .engines := by assumption) (t_cabs : ¬ q.fixed .cabs := by assumption) (t_recorder : ¬ q.fixed .recorder := by assumption) (t_out : ¬ q.fixed .out := by assumption) : OkOut q (execVerdict e d a imm s) := by
  unfold execVerdict
  (repeat' first
    | with_reducible assumption
    | intro _
    | with_reducible apply filterVerdict_ok
    | with_reducible apply engExec_ok
    | with_reducible apply ok_ite
    | with_reducible apply ok_foldl
    | with_reducible apply okDo_ite
    | with_reducible apply ok_do
    | with_reducible exact ok_dostop
    | with_reducible apply ok_next
    | (extract_lets +onlyGivenNames x; refine (?_ : Ok q x → _) ?_; (intro _; clear_value x))
    | (extract_lets +onlyGivenNames f0; have z : (_ → _) := f0; clear z)
    | (extract_lets +onlyGivenNames x; clear_value x)
    | (extract_lets +onlyGivenNames x)
    | split
    | (unfold x)
    | (unfold f0)
    | (dsimp only)
    | assumption)

theorem toIntake_ok {q : Kept} (t : Nat) (d : Desc) (s : State) (hok : Ok q s) (t_regs : ¬ q.fixed .regs := by assumption) (t_axes : ¬ q.fixed .axes := by assumption) (t_engines : ¬ q.fixed .engines := by assumption) (t_cabs : ¬ q.fixed .cabs := by assumption) (t_out : ¬ q.fixed .out := by assumption) : Ok q (toIntake t d s) := by
  unfold toIntake
  (repeat' first
    | with_reducible assumption
    | intro _
    | with_reducible apply State.modAxis_ok
    | with_reducible apply complete_ok
    | with_reducible apply ok_ite
    | with_reducible apply ok_foldl
    | with_reducible apply okDo_ite
    | with_reducible apply ok_do
    | with_reducible exact ok_dostop
    | (extract_lets +onlyGivenNames x; refine (?_ : Ok q x → _) ?_; (intro _; clear_value x))
    | (extract_lets +onlyGivenNames f0; have z : (_ → _) := f0; clear z)
    | (extract_lets +onlyGivenNames x; clear_value x)
    | (extract_lets +onlyGivenNames x)
    | split
    | (unfold x)
    | (unfold f0)
    | (dsimp only)
    | assumption)

theorem submitCmd_ok {q : Kept} (e : Fin 46) (d : Fin 16) (addr : Nat) (ax : Fin 32) (s : State) (hok : Ok q s) (t_regs : ¬ q.fixed .regs := by assumption) (t_axes : ¬ q.fixed .axes := by assumption) (t_engines : ¬ q.fixed .engines := by assumption) (t_cabs : ¬ q.fixed .cabs := by assumption) (t_out : ¬ q.fixed .out := by assumption) : Ok q (submitCmd e d addr ax s) := by
  unfold submitCmd
  (repeat' first
    | with_reducible assumption
    | intro _
    | with_reducible apply State.setFld_ok
    | with_reducible apply State.count_ok
    | with_reducible apply State.modEng_ok
    | with_reducible apply complete_ok
    | with_reducible apply State.setK_ok
    | with_reducible apply toIntake_ok
    | with_reducible apply ok_ite
    | with_reducible apply ok_foldl
    | with_reducible apply okDo_ite
    | with_reducible apply ok_do
    | with_reducible exact ok_dostop
    | (extract_lets +onlyGivenNames x; refine (?_ : Ok q x → _) ?_; (intro _; clear_value x))
    | (extract_lets +onlyGivenNames f0; have z : (_ → _) := f0; clear z)
    | (extract_lets +onlyGivenNames x; clear_value x)
    | (extract_lets +onlyGivenNames x)
    | split
    | (unfold x)
    | (unfold f0)
    | (dsimp only)
    | assumption)

theorem execCmd_ok {q : Kept} (e : Fin 46) (d a : Fin 16) (imm : BitVec 18) (s : State) (hok : Ok q s) (t_regs : ¬ q.fixed .regs := by assumption) (t_axes : ¬ q.fixed .axes := by assumption) (t_engines : ¬ q.fixed .engines := by assumption) (t_cabs : ¬ q.fixed .cabs := by assumption) (t_recorder : ¬ q.fixed .recorder := by assumption) (t_out : ¬ q.fixed .out := by assumption) : OkOut q (execCmd e d a imm s) := by
  unfold execCmd
  (repeat' first
    | with_reducible assumption
    | intro _
    | with_reducible apply engExec_ok
    | with_reducible apply submitCmd_ok
    | with_reducible apply ok_ite
    | with_reducible apply ok_foldl
    | with_reducible apply okDo_ite
    | with_reducible apply ok_do
    | with_reducible exact ok_dostop
    | with_reducible apply ok_next
    | (extract_lets +onlyGivenNames x; refine (?_ : Ok q x → _) ?_; (intro _; clear_value x))
    | (extract_lets +onlyGivenNames f0; have z : (_ → _) := f0; clear z)
    | (extract_lets +onlyGivenNames x; clear_value x)
    | (extract_lets +onlyGivenNames x)
    | split
    | (unfold x)
    | (unfold f0)
    | (dsimp only)
    | assumption)

theorem engBoundary_ok {q : Kept} (k : Nat) (e : Fin 46) (s : State) (hok : Ok q s) (t_regs : ¬ q.fixed .regs := by assumption) (t_engines : ¬ q.fixed .engines := by assumption) (t_cabs : ¬ q.fixed .cabs := by assumption) (t_recorder : ¬ q.fixed .recorder := by assumption) (t_out : ¬ q.fixed .out := by assumption) : Ok q (engBoundary k e s) := by
  unfold engBoundary
  (repeat' first
    | with_reducible assumption
    | intro _
    | with_reducible apply State.modEng_ok
    | with_reducible apply latchEvent_ok
    | with_reducible apply stopInRun_ok
    | with_reducible apply forcedYield_ok
    | with_reducible apply ok_ite
    | with_reducible apply ok_foldl
    | with_reducible apply okDo_ite
    | with_reducible apply ok_do
    | with_reducible exact ok_dostop
    | (extract_lets +onlyGivenNames x; refine (?_ : Ok q x → _) ?_; (intro _; clear_value x))
    | (extract_lets +onlyGivenNames f0; have z : (_ → _) := f0; clear z)
    | (extract_lets +onlyGivenNames x; clear_value x)
    | (extract_lets +onlyGivenNames x)
    | split
    | (unfold x)
    | (unfold f0)
    | (dsimp only)
    | assumption)

theorem hostEvent_ok {q : Kept} (e : Fin 46) (s : State) (hok : Ok q s) (t_regs : ¬ q.fixed .regs := by assumption) (t_engines : ¬ q.fixed .engines := by assumption) : Ok q (hostEvent e s) := by
  unfold hostEvent
  (repeat' first
    | with_reducible assumption
    | intro _
    | with_reducible apply latchEvent_ok
    | with_reducible apply ok_ite
    | with_reducible apply ok_foldl
    | with_reducible apply okDo_ite
    | with_reducible apply ok_do
    | with_reducible exact ok_dostop
    | (extract_lets +onlyGivenNames x; refine (?_ : Ok q x → _) ?_; (intro _; clear_value x))
    | (extract_lets +onlyGivenNames f0; have z : (_ → _) := f0; clear z)
    | (extract_lets +onlyGivenNames x; clear_value x)
    | (extract_lets +onlyGivenNames x)
    | split
    | (unfold x)
    | (unfold f0)
    | (dsimp only)
    | assumption)

end Sys2Proof.Machine
end

