-- ==== Sys2Proof/Laws/KeepNetwork.lean ====
section
/-! SUPPORT. What the operations of Machine/Network.lean keep (Laws/Keep.lean). -/

namespace Sys2Proof.Machine

set_option linter.unusedTactic false
set_option linter.unreachableTactic false
set_option linter.tactic.unusedName false
set_option linter.unusedVariables false

theorem stepLineTime_ok {q : Kept} (d : Int) (s : State) (hok : Ok q s) (t_now : ¬ q.fixed .now := by assumption) (t_tiles : ¬ q.fixed .tiles := by assumption) (t_dev : ¬ q.fixed .dev := by assumption) : Ok q (stepLineTime d s) := by
  unfold stepLineTime
  (repeat' first
    | with_reducible assumption
    | intro _
    | with_reducible apply State.modTile_ok
    | with_reducible apply State.modDev_ok
    | with_reducible apply State.setNow_ok
    | with_reducible apply ok_ite
    | with_reducible apply ok_foldl
    | (extract_lets +onlyGivenNames x; refine (?_ : Ok q x → _) ?_; (intro _; clear_value x))
    | (extract_lets +onlyGivenNames f0; have z : (_ → _) := f0; clear z)
    | (extract_lets +onlyGivenNames x; clear_value x)
    | (extract_lets +onlyGivenNames x)
    | split
    | (unfold x)
    | (unfold f0)
    | (dsimp only)
    | assumption)

theorem correctOffset_ok {q : Kept} (ofs : Int) (s : State) (hok : Ok q s) (t_now : ¬ q.fixed .now := by assumption) (t_regs : ¬ q.fixed .regs := by assumption) (t_axes : ¬ q.fixed .axes := by assumption) (t_ports : ¬ q.fixed .ports := by assumption) (t_tiles : ¬ q.fixed .tiles := by assumption) (t_engines : ¬ q.fixed .engines := by assumption) (t_net : ¬ q.fixed .net := by assumption) (t_cabs : ¬ q.fixed .cabs := by assumption) (t_recorder : ¬ q.fixed .recorder := by assumption) (t_dev : ¬ q.fixed .dev := by assumption) (t_out : ¬ q.fixed .out := by assumption) : Ok q (correctOffset ofs s) := by
  unfold correctOffset
  (repeat' first
    | with_reducible assumption
    | intro _
    | with_reducible apply State.setBit_ok
    | with_reducible apply State.modNet_ok
    | with_reducible apply raiseFaultAll_ok
    | with_reducible apply stepLineTime_ok
    | with_reducible apply corrected_ok
    | with_reducible apply ok_ite
    | with_reducible apply ok_foldl
    | (extract_lets +onlyGivenNames x; refine (?_ : Ok q x → _) ?_; (intro _; clear_value x))
    | (extract_lets +onlyGivenNames f0; have z : (_ → _) := f0; clear z)
    | (extract_lets +onlyGivenNames x; clear_value x)
    | (extract_lets +onlyGivenNames x)
    | split
    | (unfold x)
    | (unfold f0)
    | (dsimp only)
    | assumption)

theorem endSlew_ok {q : Kept} (s : State) (hok : Ok q s) (t_regs : ¬ q.fixed .regs := by assumption) (t_net : ¬ q.fixed .net := by assumption) : Ok q (endSlew s) := by
  unfold endSlew
  (repeat' first
    | with_reducible assumption
    | intro _
    | with_reducible apply State.setBit_ok
    | with_reducible apply State.modNet_ok
    | with_reducible apply ok_ite
    | with_reducible apply ok_foldl
    | (extract_lets +onlyGivenNames x; refine (?_ : Ok q x → _) ?_; (intro _; clear_value x))
    | (extract_lets +onlyGivenNames f0; have z : (_ → _) := f0; clear z)
    | (extract_lets +onlyGivenNames x; clear_value x)
    | (extract_lets +onlyGivenNames x)
    | split
    | (unfold x)
    | (unfold f0)
    | (dsimp only)
    | assumption)

theorem noteLock_ok {q : Kept} (s : State) (hok : Ok q s) (t_regs : ¬ q.fixed .regs := by assumption) (t_net : ¬ q.fixed .net := by assumption) : Ok q (noteLock s) := by
  unfold noteLock
  (repeat' first
    | with_reducible assumption
    | intro _
    | with_reducible apply State.setFld_ok
    | with_reducible apply State.setBit_ok
    | with_reducible apply State.modNet_ok
    | with_reducible apply ok_ite
    | with_reducible apply ok_foldl
    | (extract_lets +onlyGivenNames x; refine (?_ : Ok q x → _) ?_; (intro _; clear_value x))
    | (extract_lets +onlyGivenNames f0; have z : (_ → _) := f0; clear z)
    | (extract_lets +onlyGivenNames x; clear_value x)
    | (extract_lets +onlyGivenNames x)
    | split
    | (unfold x)
    | (unfold f0)
    | (dsimp only)
    | assumption)

theorem ptpDrop_ok {q : Kept} (s : State) (hok : Ok q s) (t_regs : ¬ q.fixed .regs := by assumption) : Ok q (ptpDrop s) := by
  unfold ptpDrop
  (repeat' first
    | with_reducible assumption
    | intro _
    | with_reducible apply State.count_ok
    | with_reducible apply ok_ite
    | with_reducible apply ok_foldl
    | (extract_lets +onlyGivenNames x; refine (?_ : Ok q x → _) ?_; (intro _; clear_value x))
    | (extract_lets +onlyGivenNames f0; have z : (_ → _) := f0; clear z)
    | (extract_lets +onlyGivenNames x; clear_value x)
    | (extract_lets +onlyGivenNames x)
    | split
    | (unfold x)
    | (unfold f0)
    | (dsimp only)
    | assumption)

theorem syncReceive_ok {q : Kept} (x : SyncIn) (s : State) (hok : Ok q s) (t_now : ¬ q.fixed .now := by assumption) (t_regs : ¬ q.fixed .regs := by assumption) (t_axes : ¬ q.fixed .axes := by assumption) (t_ports : ¬ q.fixed .ports := by assumption) (t_tiles : ¬ q.fixed .tiles := by assumption) (t_engines : ¬ q.fixed .engines := by assumption) (t_net : ¬ q.fixed .net := by assumption) (t_cabs : ¬ q.fixed .cabs := by assumption) (t_recorder : ¬ q.fixed .recorder := by assumption) (t_dev : ¬ q.fixed .dev := by assumption) (t_out : ¬ q.fixed .out := by assumption) : Ok q (syncReceive x s) := by
  unfold syncReceive
  (repeat' first
    | with_reducible assumption
    | intro _
    | with_reducible apply State.setFldI_ok
    | with_reducible apply State.modNet_ok
    | with_reducible apply correctOffset_ok
    | with_reducible apply endSlew_ok
    | with_reducible apply noteLock_ok
    | with_reducible apply ptpDrop_ok
    | with_reducible apply ok_ite
    | with_reducible apply ok_foldl
    | (extract_lets +onlyGivenNames x; refine (?_ : Ok q x → _) ?_; (intro _; clear_value x))
    | (extract_lets +onlyGivenNames f0; have z : (_ → _) := f0; clear z)
    | (extract_lets +onlyGivenNames x; clear_value x)
    | (extract_lets +onlyGivenNames x)
    | split
    | (unfold x)
    | (unfold f0)
    | (dsimp only)
    | assumption)

theorem execSyncReceive_ok {q : Kept} (x : SyncIn) (s : State) (hok : Ok q s) (t_now : ¬ q.fixed .now := by assumption) (t_regs : ¬ q.fixed .regs := by assumption) (t_axes : ¬ q.fixed .axes := by assumption) (t_ports : ¬ q.fixed .ports := by assumption) (t_tiles : ¬ q.fixed .tiles := by assumption) (t_engines : ¬ q.fixed .engines := by assumption) (t_net : ¬ q.fixed .net := by assumption) (t_cabs : ¬ q.fixed .cabs := by assumption) (t_recorder : ¬ q.fixed .recorder := by assumption) (t_dev : ¬ q.fixed .dev := by assumption) (t_out : ¬ q.fixed .out := by assumption) : OkOut q (execSyncReceive x s) := by
  unfold execSyncReceive
  (repeat' first
    | with_reducible assumption
    | intro _
    | with_reducible apply State.reach_ok
    | with_reducible apply syncReceive_ok
    | with_reducible apply ok_ite
    | with_reducible apply ok_foldl
    | with_reducible apply ok_next
    | (extract_lets +onlyGivenNames x; refine (?_ : Ok q x → _) ?_; (intro _; clear_value x))
    | (extract_lets +onlyGivenNames f0; have z : (_ → _) := f0; clear z)
    | (extract_lets +onlyGivenNames x; clear_value x)
    | (extract_lets +onlyGivenNames x)
    | split
    | (unfold x)
    | (unfold f0)
    | (dsimp only)
    | assumption)

theorem followParent_ok {q : Kept} (s : State) (hok : Ok q s) (t_regs : ¬ q.fixed .regs := by assumption) : Ok q (followParent s) := by
  unfold followParent
  (repeat' first
    | with_reducible assumption
    | intro _
    | with_reducible apply State.setBit_ok
    | with_reducible apply ok_ite
    | with_reducible apply ok_foldl
    | (extract_lets +onlyGivenNames x; refine (?_ : Ok q x → _) ?_; (intro _; clear_value x))
    | (extract_lets +onlyGivenNames f0; have z : (_ → _) := f0; clear z)
    | (extract_lets +onlyGivenNames x; clear_value x)
    | (extract_lets +onlyGivenNames x)
    | split
    | (unfold x)
    | (unfold f0)
    | (dsimp only)
    | assumption)

theorem announceReceive_ok {q : Kept} (port : Fin 2) (seq domain : Nat) (vec : List Nat) (logIvl : Int) (s : State) (hok : Ok q s) (t_regs : ¬ q.fixed .regs := by assumption) (t_axes : ¬ q.fixed .axes := by assumption) (t_ports : ¬ q.fixed .ports := by assumption) (t_engines : ¬ q.fixed .engines := by assumption) (t_net : ¬ q.fixed .net := by assumption) (t_cabs : ¬ q.fixed .cabs := by assumption) (t_recorder : ¬ q.fixed .recorder := by assumption) (t_dev : ¬ q.fixed .dev := by assumption) (t_out : ¬ q.fixed .out := by assumption) : Ok q (announceReceive port seq domain vec logIvl s) := by
  unfold announceReceive
  (repeat' first
    | with_reducible assumption
    | intro _
    | with_reducible apply State.modNet_ok
    | with_reducible apply ptpDrop_ok
    | with_reducible apply followParent_ok
    | with_reducible apply corrected_ok
    | with_reducible apply ok_ite
    | with_reducible apply ok_foldl
    | (extract_lets +onlyGivenNames x; refine (?_ : Ok q x → _) ?_; (intro _; clear_value x))
    | (extract_lets +onlyGivenNames f0; have z : (_ → _) := f0; clear z)
    | (extract_lets +onlyGivenNames x; clear_value x)
    | (extract_lets +onlyGivenNames x)
    | split
    | (unfold x)
    | (unfold f0)
    | (dsimp only)
    | assumption)

theorem execAnnounceReceive_ok {q : Kept} (t : Nat) (port : Fin 2) (seq domain : Nat) (vec : List Nat) (logIvl : Int) (s : State) (hok : Ok q s) (t_now : ¬ q.fixed .now := by assumption) (t_regs : ¬ q.fixed .regs := by assumption) (t_axes : ¬ q.fixed .axes := by assumption) (t_ports : ¬ q.fixed .ports := by assumption) (t_engines : ¬ q.fixed .engines := by assumption) (t_net : ¬ q.fixed .net := by assumption) (t_cabs : ¬ q.fixed .cabs := by assumption) (t_recorder : ¬ q.fixed .recorder := by assumption) (t_dev : ¬ q.fixed .dev := by assumption) (t_out : ¬ q.fixed .out := by assumption) : OkOut q (execAnnounceReceive t port seq domain vec logIvl s) := by
  unfold execAnnounceReceive
  (repeat' first
    | with_reducible assumption
    | intro _
    | with_reducible apply State.reach_ok
    | with_reducible apply announceReceive_ok
    | with_reducible apply ok_ite
    | with_reducible apply ok_foldl
    | with_reducible apply ok_next
    | (extract_lets +onlyGivenNames x; refine (?_ : Ok q x → _) ?_; (intro _; clear_value x))
    | (extract_lets +onlyGivenNames f0; have z : (_ → _) := f0; clear z)
    | (extract_lets +onlyGivenNames x; clear_value x)
    | (extract_lets +onlyGivenNames x)
    | split
    | (unfold x)
    | (unfold f0)
    | (dsimp only)
    | assumption)

theorem enterHoldover_ok {q : Kept} (s : State) (hok : Ok q s) (t_regs : ¬ q.fixed .regs := by assumption) (t_axes : ¬ q.fixed .axes := by assumption) (t_ports : ¬ q.fixed .ports := by assumption) (t_engines : ¬ q.fixed .engines := by assumption) (t_net : ¬ q.fixed .net := by assumption) (t_cabs : ¬ q.fixed .cabs := by assumption) (t_recorder : ¬ q.fixed .recorder := by assumption) (t_dev : ¬ q.fixed .dev := by assumption) (t_out : ¬ q.fixed .out := by assumption) : Ok q (enterHoldover s) := by
  unfold enterHoldover
  (repeat' first
    | with_reducible assumption
    | intro _
    | with_reducible apply State.setFld_ok
    | with_reducible apply State.modNet_ok
    | with_reducible apply corrected_ok
    | with_reducible apply ok_ite
    | with_reducible apply ok_foldl
    | (extract_lets +onlyGivenNames x; refine (?_ : Ok q x → _) ?_; (intro _; clear_value x))
    | (extract_lets +onlyGivenNames f0; have z : (_ → _) := f0; clear z)
    | (extract_lets +onlyGivenNames x; clear_value x)
    | (extract_lets +onlyGivenNames x)
    | split
    | (unfold x)
    | (unfold f0)
    | (dsimp only)
    | assumption)

theorem syncTimeout_ok {q : Kept} (s : State) (hok : Ok q s) (t_regs : ¬ q.fixed .regs := by assumption) (t_axes : ¬ q.fixed .axes := by assumption) (t_ports : ¬ q.fixed .ports := by assumption) (t_engines : ¬ q.fixed .engines := by assumption) (t_net : ¬ q.fixed .net := by assumption) (t_cabs : ¬ q.fixed .cabs := by assumption) (t_recorder : ¬ q.fixed .recorder := by assumption) (t_dev : ¬ q.fixed .dev := by assumption) (t_out : ¬ q.fixed .out := by assumption) : Ok q (syncTimeout s) := by
  unfold syncTimeout
  split <;>
  (repeat' first
    | with_reducible assumption
    | intro _
    | with_reducible apply enterHoldover_ok
    | with_reducible apply ok_ite
    | with_reducible apply ok_foldl
    | (extract_lets +onlyGivenNames x; refine (?_ : Ok q x → _) ?_; (intro _; clear_value x))
    | (extract_lets +onlyGivenNames f0; have z : (_ → _) := f0; clear z)
    | (extract_lets +onlyGivenNames x; clear_value x)
    | (extract_lets +onlyGivenNames x)
    | split
    | (unfold x)
    | (unfold f0)
    | (dsimp only)
    | assumption)

theorem execSyncTimeout_ok {q : Kept} (t : Nat) (s : State) (hok : Ok q s) (t_now : ¬ q.fixed .now := by assumption) (t_regs : ¬ q.fixed .regs := by assumption) (t_axes : ¬ q.fixed .axes := by assumption) (t_ports : ¬ q.fixed .ports := by assumption) (t_engines : ¬ q.fixed .engines := by assumption) (t_net : ¬ q.fixed .net := by assumption) (t_cabs : ¬ q.fixed .cabs := by assumption) (t_recorder : ¬ q.fixed .recorder := by assumption) (t_dev : ¬ q.fixed .dev := by assumption) (t_out : ¬ q.fixed .out := by assumption) : OkOut q (execSyncTimeout t s) := by
  unfold execSyncTimeout
  (repeat' first
    | with_reducible assumption
    | intro _
    | with_reducible apply State.reach_ok
    | with_reducible apply syncTimeout_ok
    | with_reducible apply ok_ite
    | with_reducible apply ok_foldl
    | with_reducible apply ok_next
    | (extract_lets +onlyGivenNames x; refine (?_ : Ok q x → _) ?_; (intro _; clear_value x))
    | (extract_lets +onlyGivenNames f0; have z : (_ → _) := f0; clear z)
    | (extract_lets +onlyGivenNames x; clear_value x)
    | (extract_lets +onlyGivenNames x)
    | split
    | (unfold x)
    | (unfold f0)
    | (dsimp only)
    | assumption)

theorem announceTimeout_ok {q : Kept} (s : State) (hok : Ok q s) (t_regs : ¬ q.fixed .regs := by assumption) (t_axes : ¬ q.fixed .axes := by assumption) (t_ports : ¬ q.fixed .ports := by assumption) (t_engines : ¬ q.fixed .engines := by assumption) (t_net : ¬ q.fixed .net := by assumption) (t_cabs : ¬ q.fixed .cabs := by assumption) (t_recorder : ¬ q.fixed .recorder := by assumption) (t_dev : ¬ q.fixed .dev := by assumption) (t_out : ¬ q.fixed .out := by assumption) : Ok q (announceTimeout s) := by
  unfold announceTimeout
  split <;>
  (repeat' first
    | with_reducible assumption
    | intro _
    | with_reducible apply State.modNet_ok
    | with_reducible apply followParent_ok
    | with_reducible apply enterHoldover_ok
    | with_reducible apply ok_ite
    | with_reducible apply ok_foldl
    | (extract_lets +onlyGivenNames x; refine (?_ : Ok q x → _) ?_; (intro _; clear_value x))
    | (extract_lets +onlyGivenNames f0; have z : (_ → _) := f0; clear z)
    | (extract_lets +onlyGivenNames x; clear_value x)
    | (extract_lets +onlyGivenNames x)
    | split
    | (unfold x)
    | (unfold f0)
    | (dsimp only)
    | assumption)

theorem execAnnounceTimeout_ok {q : Kept} (t : Nat) (s : State) (hok : Ok q s) (t_now : ¬ q.fixed .now := by assumption) (t_regs : ¬ q.fixed .regs := by assumption) (t_axes : ¬ q.fixed .axes := by assumption) (t_ports : ¬ q.fixed .ports := by assumption) (t_engines : ¬ q.fixed .engines := by assumption) (t_net : ¬ q.fixed .net := by assumption) (t_cabs : ¬ q.fixed .cabs := by assumption) (t_recorder : ¬ q.fixed .recorder := by assumption) (t_dev : ¬ q.fixed .dev := by assumption) (t_out : ¬ q.fixed .out := by assumption) : OkOut q (execAnnounceTimeout t s) := by
  unfold execAnnounceTimeout
  (repeat' first
    | with_reducible assumption
    | intro _
    | with_reducible apply State.reach_ok
    | with_reducible apply announceTimeout_ok
    | with_reducible apply ok_ite
    | with_reducible apply ok_foldl
    | with_reducible apply ok_next
    | (extract_lets +onlyGivenNames x; refine (?_ : Ok q x → _) ?_; (intro _; clear_value x))
    | (extract_lets +onlyGivenNames f0; have z : (_ → _) := f0; clear z)
    | (extract_lets +onlyGivenNames x; clear_value x)
    | (extract_lets +onlyGivenNames x)
    | split
    | (unfold x)
    | (unfold f0)
    | (dsimp only)
    | assumption)

theorem holdoverLimit_ok {q : Kept} (s : State) (hok : Ok q s) (t_regs : ¬ q.fixed .regs := by assumption) (t_axes : ¬ q.fixed .axes := by assumption) (t_ports : ¬ q.fixed .ports := by assumption) (t_engines : ¬ q.fixed .engines := by assumption) (t_cabs : ¬ q.fixed .cabs := by assumption) (t_recorder : ¬ q.fixed .recorder := by assumption) (t_out : ¬ q.fixed .out := by assumption) : Ok q (holdoverLimit s) := by
  unfold holdoverLimit
  split <;>
  (repeat' first
    | with_reducible assumption
    | intro _
    | with_reducible apply State.setBit_ok
    | with_reducible apply raiseFault_ok
    | with_reducible apply ok_ite
    | with_reducible apply ok_foldl
    | (extract_lets +onlyGivenNames x; refine (?_ : Ok q x → _) ?_; (intro _; clear_value x))
    | (extract_lets +onlyGivenNames f0; have z : (_ → _) := f0; clear z)
    | (extract_lets +onlyGivenNames x; clear_value x)
    | (extract_lets +onlyGivenNames x)
    | split
    | (unfold x)
    | (unfold f0)
    | (dsimp only)
    | assumption)

theorem execHoldoverLimit_ok {q : Kept} (t : Nat) (s : State) (hok : Ok q s) (t_now : ¬ q.fixed .now := by assumption) (t_regs : ¬ q.fixed .regs := by assumption) (t_axes : ¬ q.fixed .axes := by assumption) (t_ports : ¬ q.fixed .ports := by assumption) (t_engines : ¬ q.fixed .engines := by assumption) (t_cabs : ¬ q.fixed .cabs := by assumption) (t_recorder : ¬ q.fixed .recorder := by assumption) (t_out : ¬ q.fixed .out := by assumption) : OkOut q (execHoldoverLimit t s) := by
  unfold execHoldoverLimit
  (repeat' first
    | with_reducible assumption
    | intro _
    | with_reducible apply State.reach_ok
    | with_reducible apply holdoverLimit_ok
    | with_reducible apply ok_ite
    | with_reducible apply ok_foldl
    | with_reducible apply ok_next
    | (extract_lets +onlyGivenNames x; refine (?_ : Ok q x → _) ?_; (intro _; clear_value x))
    | (extract_lets +onlyGivenNames f0; have z : (_ → _) := f0; clear z)
    | (extract_lets +onlyGivenNames x; clear_value x)
    | (extract_lets +onlyGivenNames x)
    | split
    | (unfold x)
    | (unfold f0)
    | (dsimp only)
    | assumption)

theorem deferredStep_ok {q : Kept} (s : State) (hok : Ok q s) (t_now : ¬ q.fixed .now := by assumption) (t_regs : ¬ q.fixed .regs := by assumption) (t_tiles : ¬ q.fixed .tiles := by assumption) (t_net : ¬ q.fixed .net := by assumption) (t_dev : ¬ q.fixed .dev := by assumption) : Ok q (deferredStep s) := by
  unfold deferredStep
  split <;>
  (repeat' first
    | with_reducible assumption
    | intro _
    | with_reducible apply State.setBit_ok
    | with_reducible apply State.modNet_ok
    | with_reducible apply stepLineTime_ok
    | with_reducible apply ok_ite
    | with_reducible apply ok_foldl
    | (extract_lets +onlyGivenNames x; refine (?_ : Ok q x → _) ?_; (intro _; clear_value x))
    | (extract_lets +onlyGivenNames f0; have z : (_ → _) := f0; clear z)
    | (extract_lets +onlyGivenNames x; clear_value x)
    | (extract_lets +onlyGivenNames x)
    | split
    | (unfold x)
    | (unfold f0)
    | (dsimp only)
    | assumption)

theorem execDeferredStep_ok {q : Kept} (t : Nat) (s : State) (hok : Ok q s) (t_now : ¬ q.fixed .now := by assumption) (t_regs : ¬ q.fixed .regs := by assumption) (t_tiles : ¬ q.fixed .tiles := by assumption) (t_net : ¬ q.fixed .net := by assumption) (t_dev : ¬ q.fixed .dev := by assumption) : OkOut q (execDeferredStep t s) := by
  unfold execDeferredStep
  (repeat' first
    | with_reducible assumption
    | intro _
    | with_reducible apply State.reach_ok
    | with_reducible apply deferredStep_ok
    | with_reducible apply ok_ite
    | with_reducible apply ok_foldl
    | with_reducible apply ok_next
    | (extract_lets +onlyGivenNames x; refine (?_ : Ok q x → _) ?_; (intro _; clear_value x))
    | (extract_lets +onlyGivenNames f0; have z : (_ → _) := f0; clear z)
    | (extract_lets +onlyGivenNames x; clear_value x)
    | (extract_lets +onlyGivenNames x)
    | split
    | (unfold x)
    | (unfold f0)
    | (dsimp only)
    | assumption)

theorem delayReceive_ok {q : Kept} (port : Fin 2) (peer : Bool) (domain : Nat) (t1 t2 t3 t4 corr : Int) (s : State) (hok : Ok q s) (t_regs : ¬ q.fixed .regs := by assumption) (t_net : ¬ q.fixed .net := by assumption) : Ok q (delayReceive port peer domain t1 t2 t3 t4 corr s) := by
  unfold delayReceive
  (repeat' first
    | with_reducible assumption
    | intro _
    | with_reducible apply State.modNet_ok
    | with_reducible apply ptpDrop_ok
    | with_reducible apply ok_ite
    | with_reducible apply ok_foldl
    | (extract_lets +onlyGivenNames x; refine (?_ : Ok q x → _) ?_; (intro _; clear_value x))
    | (extract_lets +onlyGivenNames f0; have z : (_ → _) := f0; clear z)
    | (extract_lets +onlyGivenNames x; clear_value x)
    | (extract_lets +onlyGivenNames x)
    | split
    | (unfold x)
    | (unfold f0)
    | (dsimp only)
    | assumption)

theorem execDelayResponseReceive_ok {q : Kept} (t : Nat) (port : Fin 2) (peer : Bool) (domain : Nat) (t1 t2 t3 t4 corr : Int) (s : State) (hok : Ok q s) (t_now : ¬ q.fixed .now := by assumption) (t_regs : ¬ q.fixed .regs := by assumption) (t_net : ¬ q.fixed .net := by assumption) : OkOut q (execDelayResponseReceive t port peer domain t1 t2 t3 t4 corr s) := by
  unfold execDelayResponseReceive
  (repeat' first
    | with_reducible assumption
    | intro _
    | with_reducible apply State.reach_ok
    | with_reducible apply delayReceive_ok
    | with_reducible apply ok_ite
    | with_reducible apply ok_foldl
    | with_reducible apply ok_next
    | (extract_lets +onlyGivenNames x; refine (?_ : Ok q x → _) ?_; (intro _; clear_value x))
    | (extract_lets +onlyGivenNames f0; have z : (_ → _) := f0; clear z)
    | (extract_lets +onlyGivenNames x; clear_value x)
    | (extract_lets +onlyGivenNames x)
    | split
    | (unfold x)
    | (unfold f0)
    | (dsimp only)
    | assumption)

theorem keepResidence_ok {q : Kept} (f : FwdFrame) (s : State) (hok : Ok q s) (t_net : ¬ q.fixed .net := by assumption) : Ok q (keepResidence f s) := by
  unfold keepResidence
  split <;>
  (repeat' first
    | with_reducible assumption
    | intro _
    | with_reducible apply State.modNet_ok
    | with_reducible apply ok_ite
    | with_reducible apply ok_foldl
    | (extract_lets +onlyGivenNames x; refine (?_ : Ok q x → _) ?_; (intro _; clear_value x))
    | (extract_lets +onlyGivenNames f0; have z : (_ → _) := f0; clear z)
    | (extract_lets +onlyGivenNames x; clear_value x)
    | (extract_lets +onlyGivenNames x)
    | split
    | (unfold x)
    | (unfold f0)
    | (dsimp only)
    | assumption)

theorem frameForward_ok {q : Kept} (n : Fin 2) (f : FwdFrame) (s : State) (hok : Ok q s) (t_regs : ¬ q.fixed .regs := by assumption) (t_net : ¬ q.fixed .net := by assumption) (t_out : ¬ q.fixed .out := by assumption) : Ok q (frameForward n f s) := by
  unfold frameForward
  (repeat' first
    | with_reducible assumption
    | intro _
    | with_reducible apply State.count_ok
    | with_reducible apply State.modNet_ok
    | with_reducible apply State.emit_ok
    | with_reducible apply ptpDrop_ok
    | with_reducible apply keepResidence_ok
    | with_reducible apply ok_ite
    | with_reducible apply ok_foldl
    | (extract_lets +onlyGivenNames x; refine (?_ : Ok q x → _) ?_; (intro _; clear_value x))
    | (extract_lets +onlyGivenNames f0; have z : (_ → _) := f0; clear z)
    | (extract_lets +onlyGivenNames x; clear_value x)
    | (extract_lets +onlyGivenNames x)
    | split
    | (unfold x)
    | (unfold f0)
    | (dsimp only)
    | assumption)

theorem execFrameForward_ok {q : Kept} (t : Nat) (n : Fin 2) (f : FwdFrame) (s : State) (hok : Ok q s) (t_now : ¬ q.fixed .now := by assumption) (t_regs : ¬ q.fixed .regs := by assumption) (t_net : ¬ q.fixed .net := by assumption) (t_out : ¬ q.fixed .out := by assumption) : OkOut q (execFrameForward t n f s) := by
  unfold execFrameForward
  (repeat' first
    | with_reducible assumption
    | intro _
    | with_reducible apply State.reach_ok
    | with_reducible apply frameForward_ok
    | with_reducible apply ok_ite
    | with_reducible apply ok_foldl
    | with_reducible apply ok_next
    | (extract_lets +onlyGivenNames x; refine (?_ : Ok q x → _) ?_; (intro _; clear_value x))
    | (extract_lets +onlyGivenNames f0; have z : (_ → _) := f0; clear z)
    | (extract_lets +onlyGivenNames x; clear_value x)
    | (extract_lets +onlyGivenNames x)
    | split
    | (unfold x)
    | (unfold f0)
    | (dsimp only)
    | assumption)

theorem followVersion_ok {q : Kept} (s : State) (hok : Ok q s) (t_regs : ¬ q.fixed .regs := by assumption) : Ok q (followVersion s) := by
  unfold followVersion
  (repeat' first
    | with_reducible assumption
    | intro _
    | with_reducible apply State.setFld_ok
    | with_reducible apply ok_ite
    | with_reducible apply ok_foldl
    | (extract_lets +onlyGivenNames x; refine (?_ : Ok q x → _) ?_; (intro _; clear_value x))
    | (extract_lets +onlyGivenNames f0; have z : (_ → _) := f0; clear z)
    | (extract_lets +onlyGivenNames x; clear_value x)
    | (extract_lets +onlyGivenNames x)
    | split
    | (unfold x)
    | (unfold f0)
    | (dsimp only)
    | assumption)

theorem sendLine_ok {q : Kept} (ty entries : Nat) (fields : List Int) (s : State) (hok : Ok q s) (t_regs : ¬ q.fixed .regs := by assumption) (t_net : ¬ q.fixed .net := by assumption) (t_out : ¬ q.fixed .out := by assumption) : Ok q (sendLine ty entries fields s) := by
  unfold sendLine
  (repeat' first
    | with_reducible assumption
    | intro _
    | with_reducible apply State.modNet_ok
    | with_reducible apply State.emit_ok
    | with_reducible apply followVersion_ok
    | with_reducible apply ok_ite
    | with_reducible apply ok_foldl
    | (extract_lets +onlyGivenNames x; refine (?_ : Ok q x → _) ?_; (intro _; clear_value x))
    | (extract_lets +onlyGivenNames f0; have z : (_ → _) := f0; clear z)
    | (extract_lets +onlyGivenNames x; clear_value x)
    | (extract_lets +onlyGivenNames x)
    | split
    | (unfold x)
    | (unfold f0)
    | (dsimp only)
    | assumption)

theorem heartbeatTx_ok {q : Kept} (s : State) (hok : Ok q s) (t_regs : ¬ q.fixed .regs := by assumption) (t_net : ¬ q.fixed .net := by assumption) (t_out : ¬ q.fixed .out := by assumption) : Ok q (heartbeatTx s) := by
  unfold heartbeatTx
  (repeat' first
    | with_reducible assumption
    | intro _
    | with_reducible apply State.modNet_ok
    | with_reducible apply followVersion_ok
    | with_reducible apply sendLine_ok
    | with_reducible apply ok_ite
    | with_reducible apply ok_foldl
    | (extract_lets +onlyGivenNames x; refine (?_ : Ok q x → _) ?_; (intro _; clear_value x))
    | (extract_lets +onlyGivenNames f0; have z : (_ → _) := f0; clear z)
    | (extract_lets +onlyGivenNames x; clear_value x)
    | (extract_lets +onlyGivenNames x)
    | split
    | (unfold x)
    | (unfold f0)
    | (dsimp only)
    | assumption)

theorem execHeartbeatTx_ok {q : Kept} (t : Nat) (s : State) (hok : Ok q s) (t_now : ¬ q.fixed .now := by assumption) (t_regs : ¬ q.fixed .regs := by assumption) (t_net : ¬ q.fixed .net := by assumption) (t_out : ¬ q.fixed .out := by assumption) : OkOut q (execHeartbeatTx t s) := by
  unfold execHeartbeatTx
  (repeat' first
    | with_reducible assumption
    | intro _
    | with_reducible apply State.reach_ok
    | with_reducible apply heartbeatTx_ok
    | with_reducible apply ok_ite
    | with_reducible apply ok_foldl
    | with_reducible apply ok_next
    | (extract_lets +onlyGivenNames x; refine (?_ : Ok q x → _) ?_; (intro _; clear_value x))
    | (extract_lets +onlyGivenNames f0; have z : (_ → _) := f0; clear z)
    | (extract_lets +onlyGivenNames x; clear_value x)
    | (extract_lets +onlyGivenNames x)
    | split
    | (unfold x)
    | (unfold f0)
    | (dsimp only)
    | assumption)

theorem lineTests_ok {q : Kept} (h : LineHdr) (f : State → State) (s : State) (hf : ∀ u, Ok q u → Ok q (f u)) (hok : Ok q s) (t_regs : ¬ q.fixed .regs := by assumption) : Ok q (lineTests h f s) := by
  unfold lineTests
  (repeat' first
    | with_reducible assumption
    | intro _
    | with_reducible apply State.count_ok
    | apply hf
    | with_reducible apply ok_ite
    | with_reducible apply ok_foldl
    | (extract_lets +onlyGivenNames x; refine (?_ : Ok q x → _) ?_; (intro _; clear_value x))
    | (extract_lets +onlyGivenNames f0; have z : (_ → _) := f0; clear z)
    | (extract_lets +onlyGivenNames x; clear_value x)
    | (extract_lets +onlyGivenNames x)
    | split
    | (unfold x)
    | (unfold f0)
    | (dsimp only)
    | assumption)

theorem lineFrame_ok {q : Kept} (n : Fin 2) (ty : Nat) (h : LineHdr) (f : State → State) (s : State) (hf : ∀ u, Ok q u → Ok q (f u)) (hok : Ok q s) (t_regs : ¬ q.fixed .regs := by assumption) : Ok q (lineFrame n ty h f s) := by
  unfold lineFrame
  (repeat' first
    | with_reducible assumption
    | intro _
    | with_reducible apply lineTests_ok
    | apply hf
    | with_reducible apply ok_ite
    | with_reducible apply ok_foldl
    | (extract_lets +onlyGivenNames x; refine (?_ : Ok q x → _) ?_; (intro _; clear_value x))
    | (extract_lets +onlyGivenNames f0; have z : (_ → _) := f0; clear z)
    | (extract_lets +onlyGivenNames x; clear_value x)
    | (extract_lets +onlyGivenNames x)
    | split
    | (unfold x)
    | (unfold f0)
    | (dsimp only)
    | assumption)

theorem noteAccepted_ok {q : Kept} (src : Nat) (ok : Bool) (s : State) (hok : Ok q s) (t_net : ¬ q.fixed .net := by assumption) : Ok q (noteAccepted src ok s) := by
  unfold noteAccepted
  (repeat' first
    | with_reducible assumption
    | intro _
    | with_reducible apply State.modNet_ok
    | with_reducible apply ok_ite
    | with_reducible apply ok_foldl
    | (extract_lets +onlyGivenNames x; refine (?_ : Ok q x → _) ?_; (intro _; clear_value x))
    | (extract_lets +onlyGivenNames f0; have z : (_ → _) := f0; clear z)
    | (extract_lets +onlyGivenNames x; clear_value x)
    | (extract_lets +onlyGivenNames x)
    | split
    | (unfold x)
    | (unfold f0)
    | (dsimp only)
    | assumption)

theorem sourceTests_ok {q : Kept} (src : Nat) (f : State → State) (s : State) (hf : ∀ u, Ok q u → Ok q (f u)) (hok : Ok q s) (t_regs : ¬ q.fixed .regs := by assumption) (t_net : ¬ q.fixed .net := by assumption) (t_recorder : ¬ q.fixed .recorder := by assumption) : Ok q (sourceTests src f s) := by
  unfold sourceTests
  (repeat' first
    | with_reducible assumption
    | intro _
    | with_reducible apply State.count_ok
    | with_reducible apply record_ok
    | with_reducible apply noteAccepted_ok
    | apply hf
    | with_reducible apply ok_ite
    | with_reducible apply ok_foldl
    | (extract_lets +onlyGivenNames x; refine (?_ : Ok q x → _) ?_; (intro _; clear_value x))
    | (extract_lets +onlyGivenNames f0; have z : (_ → _) := f0; clear z)
    | (extract_lets +onlyGivenNames x; clear_value x)
    | (extract_lets +onlyGivenNames x)
    | split
    | (unfold x)
    | (unfold f0)
    | (dsimp only)
    | assumption)

theorem setBlockOpen_ok {q : Kept} (open_ : Bool) (s : State) (hok : Ok q s) (t_regs : ¬ q.fixed .regs := by assumption) : Ok q (setBlockOpen open_ s) := by
  unfold setBlockOpen
  (repeat' first
    | with_reducible assumption
    | intro _
    | with_reducible apply State.setBit_ok
    | with_reducible apply ok_ite
    | with_reducible apply ok_foldl
    | (extract_lets +onlyGivenNames x; refine (?_ : Ok q x → _) ?_; (intro _; clear_value x))
    | (extract_lets +onlyGivenNames f0; have z : (_ → _) := f0; clear z)
    | (extract_lets +onlyGivenNames x; clear_value x)
    | (extract_lets +onlyGivenNames x)
    | split
    | (unfold x)
    | (unfold f0)
    | (dsimp only)
    | assumption)

theorem heartbeatReturned_ok {q : Kept} (s : State) (hok : Ok q s) (t_regs : ¬ q.fixed .regs := by assumption) (t_net : ¬ q.fixed .net := by assumption) (t_recorder : ¬ q.fixed .recorder := by assumption) : Ok q (heartbeatReturned s) := by
  unfold heartbeatReturned
  (repeat' first
    | with_reducible assumption
    | intro _
    | with_reducible apply State.modNet_ok
    | with_reducible apply record_ok
    | with_reducible apply setBlockOpen_ok
    | with_reducible apply ok_ite
    | with_reducible apply ok_foldl
    | (extract_lets +onlyGivenNames x; refine (?_ : Ok q x → _) ?_; (intro _; clear_value x))
    | (extract_lets +onlyGivenNames f0; have z : (_ → _) := f0; clear z)
    | (extract_lets +onlyGivenNames x; clear_value x)
    | (extract_lets +onlyGivenNames x)
    | split
    | (unfold x)
    | (unfold f0)
    | (dsimp only)
    | assumption)

theorem heartbeatFrom_ok {q : Kept} (h : LineHdr) (b : Heartbeat) (s : State) (hok : Ok q s) (t_regs : ¬ q.fixed .regs := by assumption) (t_net : ¬ q.fixed .net := by assumption) : Ok q (heartbeatFrom h b s) := by
  unfold heartbeatFrom
  (repeat' first
    | with_reducible assumption
    | intro _
    | with_reducible apply State.modNet_ok
    | with_reducible apply followVersion_ok
    | with_reducible apply ok_ite
    | with_reducible apply ok_foldl
    | (extract_lets +onlyGivenNames x; refine (?_ : Ok q x → _) ?_; (intro _; clear_value x))
    | (extract_lets +onlyGivenNames f0; have z : (_ → _) := f0; clear z)
    | (extract_lets +onlyGivenNames x; clear_value x)
    | (extract_lets +onlyGivenNames x)
    | split
    | (unfold x)
    | (unfold f0)
    | (dsimp only)
    | assumption)

theorem heartbeatReceive_ok {q : Kept} (n : Fin 2) (h : LineHdr) (b : Heartbeat) (s : State) (hok : Ok q s) (t_regs : ¬ q.fixed .regs := by assumption) (t_net : ¬ q.fixed .net := by assumption) (t_recorder : ¬ q.fixed .recorder := by assumption) : Ok q (heartbeatReceive n h b s) := by
  unfold heartbeatReceive
  (repeat' first
    | with_reducible assumption
    | intro _
    | with_reducible apply lineTests_ok
    | with_reducible apply heartbeatReturned_ok
    | with_reducible apply heartbeatFrom_ok
    | with_reducible apply ok_ite
    | with_reducible apply ok_foldl
    | (extract_lets +onlyGivenNames x; refine (?_ : Ok q x → _) ?_; (intro _; clear_value x))
    | (extract_lets +onlyGivenNames f0; have z : (_ → _) := f0; clear z)
    | (extract_lets +onlyGivenNames x; clear_value x)
    | (extract_lets +onlyGivenNames x)
    | split
    | (unfold x)
    | (unfold f0)
    | (dsimp only)
    | assumption)

theorem execHeartbeatReceive_ok {q : Kept} (t : Nat) (n : Fin 2) (h : LineHdr) (b : Heartbeat) (s : State) (hok : Ok q s) (t_now : ¬ q.fixed .now := by assumption) (t_regs : ¬ q.fixed .regs := by assumption) (t_net : ¬ q.fixed .net := by assumption) (t_recorder : ¬ q.fixed .recorder := by assumption) : OkOut q (execHeartbeatReceive t n h b s) := by
  unfold execHeartbeatReceive
  (repeat' first
    | with_reducible assumption
    | intro _
    | with_reducible apply State.reach_ok
    | with_reducible apply heartbeatReceive_ok
    | with_reducible apply ok_ite
    | with_reducible apply ok_foldl
    | with_reducible apply ok_next
    | (extract_lets +onlyGivenNames x; refine (?_ : Ok q x → _) ?_; (intro _; clear_value x))
    | (extract_lets +onlyGivenNames f0; have z : (_ → _) := f0; clear z)
    | (extract_lets +onlyGivenNames x; clear_value x)
    | (extract_lets +onlyGivenNames x)
    | split
    | (unfold x)
    | (unfold f0)
    | (dsimp only)
    | assumption)

theorem heartbeatTimeout_ok {q : Kept} (src : Nat) (s : State) (hok : Ok q s) (t_regs : ¬ q.fixed .regs := by assumption) : Ok q (heartbeatTimeout src s) := by
  unfold heartbeatTimeout
  (repeat' first
    | with_reducible assumption
    | intro _
    | with_reducible apply followVersion_ok
    | with_reducible apply ok_ite
    | with_reducible apply ok_foldl
    | (extract_lets +onlyGivenNames x; refine (?_ : Ok q x → _) ?_; (intro _; clear_value x))
    | (extract_lets +onlyGivenNames f0; have z : (_ → _) := f0; clear z)
    | (extract_lets +onlyGivenNames x; clear_value x)
    | (extract_lets +onlyGivenNames x)
    | split
    | (unfold x)
    | (unfold f0)
    | (dsimp only)
    | assumption)

theorem execHeartbeatTimeout_ok {q : Kept} (t : Nat) (src : Nat) (s : State) (hok : Ok q s) (t_now : ¬ q.fixed .now := by assumption) (t_regs : ¬ q.fixed .regs := by assumption) : OkOut q (execHeartbeatTimeout t src s) := by
  unfold execHeartbeatTimeout
  (repeat' first
    | with_reducible assumption
    | intro _
    | with_reducible apply State.reach_ok
    | with_reducible apply heartbeatTimeout_ok
    | with_reducible apply ok_ite
    | with_reducible apply ok_foldl
    | with_reducible apply ok_next
    | (extract_lets +onlyGivenNames x; refine (?_ : Ok q x → _) ?_; (intro _; clear_value x))
    | (extract_lets +onlyGivenNames f0; have z : (_ → _) := f0; clear z)
    | (extract_lets +onlyGivenNames x; clear_value x)
    | (extract_lets +onlyGivenNames x)
    | split
    | (unfold x)
    | (unfold f0)
    | (dsimp only)
    | assumption)

theorem ringKeeperOpen_ok {q : Kept} (s : State) (hok : Ok q s) (t_regs : ¬ q.fixed .regs := by assumption) (t_net : ¬ q.fixed .net := by assumption) (t_recorder : ¬ q.fixed .recorder := by assumption) : Ok q (ringKeeperOpen s) := by
  unfold ringKeeperOpen
  (repeat' first
    | with_reducible assumption
    | intro _
    | with_reducible apply State.modNet_ok
    | with_reducible apply record_ok
    | with_reducible apply setBlockOpen_ok
    | with_reducible apply ok_ite
    | with_reducible apply ok_foldl
    | (extract_lets +onlyGivenNames x; refine (?_ : Ok q x → _) ?_; (intro _; clear_value x))
    | (extract_lets +onlyGivenNames f0; have z : (_ → _) := f0; clear z)
    | (extract_lets +onlyGivenNames x; clear_value x)
    | (extract_lets +onlyGivenNames x)
    | split
    | (unfold x)
    | (unfold f0)
    | (dsimp only)
    | assumption)

theorem execRingKeeperOpen_ok {q : Kept} (t : Nat) (s : State) (hok : Ok q s) (t_now : ¬ q.fixed .now := by assumption) (t_regs : ¬ q.fixed .regs := by assumption) (t_net : ¬ q.fixed .net := by assumption) (t_recorder : ¬ q.fixed .recorder := by assumption) : OkOut q (execRingKeeperOpen t s) := by
  unfold execRingKeeperOpen
  (repeat' first
    | with_reducible assumption
    | intro _
    | with_reducible apply State.reach_ok
    | with_reducible apply ringKeeperOpen_ok
    | with_reducible apply ok_ite
    | with_reducible apply ok_foldl
    | with_reducible apply ok_next
    | (extract_lets +onlyGivenNames x; refine (?_ : Ok q x → _) ?_; (intro _; clear_value x))
    | (extract_lets +onlyGivenNames f0; have z : (_ → _) := f0; clear z)
    | (extract_lets +onlyGivenNames x; clear_value x)
    | (extract_lets +onlyGivenNames x)
    | split
    | (unfold x)
    | (unfold f0)
    | (dsimp only)
    | assumption)

theorem linkParent_ok {q : Kept} (n : Fin 2) (s : State) (hok : Ok q s) (t_regs : ¬ q.fixed .regs := by assumption) (t_net : ¬ q.fixed .net := by assumption) : Ok q (linkParent n s) := by
  unfold linkParent
  split <;>
  (repeat' first
    | with_reducible assumption
    | intro _
    | with_reducible apply State.modNet_ok
    | with_reducible apply followParent_ok
    | with_reducible apply ok_ite
    | with_reducible apply ok_foldl
    | (extract_lets +onlyGivenNames x; refine (?_ : Ok q x → _) ?_; (intro _; clear_value x))
    | (extract_lets +onlyGivenNames f0; have z : (_ → _) := f0; clear z)
    | (extract_lets +onlyGivenNames x; clear_value x)
    | (extract_lets +onlyGivenNames x)
    | split
    | (unfold x)
    | (unfold f0)
    | (dsimp only)
    | assumption)

theorem linkChange_ok {q : Kept} (n : Fin 2) (up : Bool) (s : State) (hok : Ok q s) (t_regs : ¬ q.fixed .regs := by assumption) (t_net : ¬ q.fixed .net := by assumption) (t_recorder : ¬ q.fixed .recorder := by assumption) (t_dev : ¬ q.fixed .dev := by assumption) : Ok q (linkChange n up s) := by
  unfold linkChange
  (repeat' first
    | with_reducible assumption
    | intro _
    | with_reducible apply State.setBit_ok
    | with_reducible apply State.modNet_ok
    | with_reducible apply State.transient_ok
    | with_reducible apply record_ok
    | with_reducible apply ok_ite
    | with_reducible apply ok_foldl
    | (extract_lets +onlyGivenNames x; refine (?_ : Ok q x → _) ?_; (intro _; clear_value x))
    | (extract_lets +onlyGivenNames f0; have z : (_ → _) := f0; clear z)
    | (extract_lets +onlyGivenNames x; clear_value x)
    | (extract_lets +onlyGivenNames x)
    | split
    | (unfold x)
    | (unfold f0)
    | (dsimp only)
    | assumption)

theorem execNetworkLinkChange_ok {q : Kept} (t : Nat) (n : Fin 2) (up : Bool) (s : State) (hok : Ok q s) (t_now : ¬ q.fixed .now := by assumption) (t_regs : ¬ q.fixed .regs := by assumption) (t_net : ¬ q.fixed .net := by assumption) (t_recorder : ¬ q.fixed .recorder := by assumption) (t_dev : ¬ q.fixed .dev := by assumption) : OkOut q (execNetworkLinkChange t n up s) := by
  unfold execNetworkLinkChange
  (repeat' first
    | with_reducible assumption
    | intro _
    | with_reducible apply State.reach_ok
    | with_reducible apply linkChange_ok
    | with_reducible apply ok_ite
    | with_reducible apply ok_foldl
    | with_reducible apply ok_next
    | (extract_lets +onlyGivenNames x; refine (?_ : Ok q x → _) ?_; (intro _; clear_value x))
    | (extract_lets +onlyGivenNames f0; have z : (_ → _) := f0; clear z)
    | (extract_lets +onlyGivenNames x; clear_value x)
    | (extract_lets +onlyGivenNames x)
    | split
    | (unfold x)
    | (unfold f0)
    | (dsimp only)
    | assumption)

theorem selfTestFail_ok {q : Kept} (n : Fin 2) (s : State) (hok : Ok q s) (t_regs : ¬ q.fixed .regs := by assumption) (t_net : ¬ q.fixed .net := by assumption) (t_recorder : ¬ q.fixed .recorder := by assumption) (t_dev : ¬ q.fixed .dev := by assumption) : Ok q (selfTestFail n s) := by
  unfold selfTestFail
  (repeat' first
    | with_reducible assumption
    | intro _
    | with_reducible apply State.setBit_ok
    | with_reducible apply State.count_ok
    | with_reducible apply State.modNet_ok
    | with_reducible apply State.transient_ok
    | with_reducible apply record_ok
    | with_reducible apply linkParent_ok
    | with_reducible apply ok_ite
    | with_reducible apply ok_foldl
    | (extract_lets +onlyGivenNames x; refine (?_ : Ok q x → _) ?_; (intro _; clear_value x))
    | (extract_lets +onlyGivenNames f0; have z : (_ → _) := f0; clear z)
    | (extract_lets +onlyGivenNames x; clear_value x)
    | (extract_lets +onlyGivenNames x)
    | split
    | (unfold x)
    | (unfold f0)
    | (dsimp only)
    | assumption)

theorem execNetPortSelfTestFail_ok {q : Kept} (t : Nat) (n : Fin 2) (s : State) (hok : Ok q s) (t_now : ¬ q.fixed .now := by assumption) (t_regs : ¬ q.fixed .regs := by assumption) (t_net : ¬ q.fixed .net := by assumption) (t_recorder : ¬ q.fixed .recorder := by assumption) (t_dev : ¬ q.fixed .dev := by assumption) : OkOut q (execNetPortSelfTestFail t n s) := by
  unfold execNetPortSelfTestFail
  (repeat' first
    | with_reducible assumption
    | intro _
    | with_reducible apply State.reach_ok
    | with_reducible apply selfTestFail_ok
    | with_reducible apply ok_ite
    | with_reducible apply ok_foldl
    | with_reducible apply ok_next
    | (extract_lets +onlyGivenNames x; refine (?_ : Ok q x → _) ?_; (intro _; clear_value x))
    | (extract_lets +onlyGivenNames f0; have z : (_ → _) := f0; clear z)
    | (extract_lets +onlyGivenNames x; clear_value x)
    | (extract_lets +onlyGivenNames x)
    | split
    | (unfold x)
    | (unfold f0)
    | (dsimp only)
    | assumption)

theorem raiseStale_ok {q : Kept} (v : Fin 8) (stale : Bool) (s : State) (hok : Ok q s) (t_regs : ¬ q.fixed .regs := by assumption) (t_cabs : ¬ q.fixed .cabs := by assumption) (t_recorder : ¬ q.fixed .recorder := by assumption) (t_out : ¬ q.fixed .out := by assumption) : Ok q (raiseStale v stale s) := by
  unfold raiseStale
  (repeat' first
    | with_reducible assumption
    | intro _
    | with_reducible apply raiseDevice_ok
    | with_reducible apply ok_ite
    | with_reducible apply ok_foldl
    | (extract_lets +onlyGivenNames x; refine (?_ : Ok q x → _) ?_; (intro _; clear_value x))
    | (extract_lets +onlyGivenNames f0; have z : (_ → _) := f0; clear z)
    | (extract_lets +onlyGivenNames x; clear_value x)
    | (extract_lets +onlyGivenNames x)
    | split
    | (unfold x)
    | (unfold f0)
    | (dsimp only)
    | assumption)

theorem staleAt_ok {q : Kept} (v : Fin 8) (t : Nat) (s : State) (hok : Ok q s) (t_regs : ¬ q.fixed .regs := by assumption) (t_cabs : ¬ q.fixed .cabs := by assumption) (t_recorder : ¬ q.fixed .recorder := by assumption) (t_out : ¬ q.fixed .out := by assumption) : Ok q (staleAt v t s) := by
  unfold staleAt
  split <;>
  (repeat' first
    | with_reducible assumption
    | intro _
    | with_reducible apply State.setBit_ok
    | with_reducible apply raiseStale_ok
    | with_reducible apply ok_ite
    | with_reducible apply ok_foldl
    | (extract_lets +onlyGivenNames x; refine (?_ : Ok q x → _) ?_; (intro _; clear_value x))
    | (extract_lets +onlyGivenNames f0; have z : (_ → _) := f0; clear z)
    | (extract_lets +onlyGivenNames x; clear_value x)
    | (extract_lets +onlyGivenNames x)
    | split
    | (unfold x)
    | (unfold f0)
    | (dsimp only)
    | assumption)

theorem acceptSample_ok {q : Kept} (v : Fin 8) (e : VmEntry) (tq : Nat) (s : State) (hok : Ok q s) (t_freeCtr : ¬ q.fixed .freeCtr := by assumption) (t_regs : ¬ q.fixed .regs := by assumption) (t_vms : ¬ q.fixed .vms := by assumption) (t_cabs : ¬ q.fixed .cabs := by assumption) (t_recorder : ¬ q.fixed .recorder := by assumption) (t_out : ¬ q.fixed .out := by assumption) : Ok q (acceptSample v e tq s) := by
  unfold acceptSample
  (repeat' first
    | with_reducible assumption
    | intro _
    | with_reducible apply State.setFld_ok
    | with_reducible apply State.setBit_ok
    | with_reducible apply State.modVm_ok
    | with_reducible apply State.fresh_ok
    | with_reducible apply raiseStale_ok
    | with_reducible apply staleAt_ok
    | with_reducible apply ok_ite
    | with_reducible apply ok_foldl
    | (extract_lets +onlyGivenNames x; refine (?_ : Ok q x → _) ?_; (intro _; clear_value x))
    | (extract_lets +onlyGivenNames f0; have z : (_ → _) := f0; clear z)
    | (extract_lets +onlyGivenNames x; clear_value x)
    | (extract_lets +onlyGivenNames x)
    | split
    | (unfold x)
    | (unfold f0)
    | (dsimp only)
    | assumption)

theorem vmEntry_ok {q : Kept} (h : LineHdr) (e : VmEntry) (s : State) (hok : Ok q s) (t_freeCtr : ¬ q.fixed .freeCtr := by assumption) (t_regs : ¬ q.fixed .regs := by assumption) (t_vms : ¬ q.fixed .vms := by assumption) (t_cabs : ¬ q.fixed .cabs := by assumption) (t_recorder : ¬ q.fixed .recorder := by assumption) (t_out : ¬ q.fixed .out := by assumption) : Ok q (vmEntry h e s) := by
  unfold vmEntry
  (repeat' first
    | with_reducible assumption
    | intro _
    | with_reducible apply State.count_ok
    | with_reducible apply acceptSample_ok
    | with_reducible apply ok_ite
    | with_reducible apply ok_foldl
    | (extract_lets +onlyGivenNames x; refine (?_ : Ok q x → _) ?_; (intro _; clear_value x))
    | (extract_lets +onlyGivenNames f0; have z : (_ → _) := f0; clear z)
    | (extract_lets +onlyGivenNames x; clear_value x)
    | (extract_lets +onlyGivenNames x)
    | split
    | (unfold x)
    | (unfold f0)
    | (dsimp only)
    | assumption)

theorem execVmSamplesReceive_ok {q : Kept} (t : Nat) (n : Fin 2) (h : LineHdr) (es : List VmEntry) (s : State) (hok : Ok q s) (t_now : ¬ q.fixed .now := by assumption) (t_freeCtr : ¬ q.fixed .freeCtr := by assumption) (t_regs : ¬ q.fixed .regs := by assumption) (t_net : ¬ q.fixed .net := by assumption) (t_vms : ¬ q.fixed .vms := by assumption) (t_cabs : ¬ q.fixed .cabs := by assumption) (t_recorder : ¬ q.fixed .recorder := by assumption) (t_out : ¬ q.fixed .out := by assumption) : OkOut q (execVmSamplesReceive t n h es s) := by
  unfold execVmSamplesReceive
  (repeat' first
    | with_reducible assumption
    | intro _
    | with_reducible apply State.reach_ok
    | with_reducible apply lineFrame_ok
    | with_reducible apply sourceTests_ok
    | with_reducible apply vmEntry_ok
    | with_reducible apply ok_ite
    | with_reducible apply ok_foldl
    | with_reducible apply ok_next
    | (extract_lets +onlyGivenNames x; refine (?_ : Ok q x → _) ?_; (intro _; clear_value x))
    | (extract_lets +onlyGivenNames f0; have z : (_ → _) := f0; clear z)
    | (extract_lets +onlyGivenNames x; clear_value x)
    | (extract_lets +onlyGivenNames x)
    | split
    | (unfold x)
    | (unfold f0)
    | (dsimp only)
    | assumption)

theorem vmStale_ok {q : Kept} (v : Fin 8) (s : State) (hok : Ok q s) (t_regs : ¬ q.fixed .regs := by assumption) (t_cabs : ¬ q.fixed .cabs := by assumption) (t_recorder : ¬ q.fixed .recorder := by assumption) (t_out : ¬ q.fixed .out := by assumption) : Ok q (vmStale v s) := by
  unfold vmStale
  (repeat' first
    | with_reducible assumption
    | intro _
    | with_reducible apply staleAt_ok
    | with_reducible apply ok_ite
    | with_reducible apply ok_foldl
    | (extract_lets +onlyGivenNames x; refine (?_ : Ok q x → _) ?_; (intro _; clear_value x))
    | (extract_lets +onlyGivenNames f0; have z : (_ → _) := f0; clear z)
    | (extract_lets +onlyGivenNames x; clear_value x)
    | (extract_lets +onlyGivenNames x)
    | split
    | (unfold x)
    | (unfold f0)
    | (dsimp only)
    | assumption)

theorem execVmStale_ok {q : Kept} (t : Nat) (v : Fin 8) (s : State) (hok : Ok q s) (t_now : ¬ q.fixed .now := by assumption) (t_regs : ¬ q.fixed .regs := by assumption) (t_cabs : ¬ q.fixed .cabs := by assumption) (t_recorder : ¬ q.fixed .recorder := by assumption) (t_out : ¬ q.fixed .out := by assumption) : OkOut q (execVmStale t v s) := by
  unfold execVmStale
  (repeat' first
    | with_reducible assumption
    | intro _
    | with_reducible apply State.reach_ok
    | with_reducible apply vmStale_ok
    | with_reducible apply ok_ite
    | with_reducible apply ok_foldl
    | with_reducible apply ok_next
    | (extract_lets +onlyGivenNames x; refine (?_ : Ok q x → _) ?_; (intro _; clear_value x))
    | (extract_lets +onlyGivenNames f0; have z : (_ → _) := f0; clear z)
    | (extract_lets +onlyGivenNames x; clear_value x)
    | (extract_lets +onlyGivenNames x)
    | split
    | (unfold x)
    | (unfold f0)
    | (dsimp only)
    | assumption)

theorem holdMode_ok {q : Kept} (id mode lc : Nat) (t : Fin 4) (s : State) (hok : Ok q s) (t_regs : ¬ q.fixed .regs := by assumption) (t_tiles : ¬ q.fixed .tiles := by assumption) : Ok q (holdMode id mode lc t s) := by
  unfold holdMode
  (repeat' first
    | with_reducible assumption
    | intro _
    | with_reducible apply State.setFld_ok
    | with_reducible apply State.modTile_ok
    | with_reducible apply ok_ite
    | with_reducible apply ok_foldl
    | (extract_lets +onlyGivenNames x; refine (?_ : Ok q x → _) ?_; (intro _; clear_value x))
    | (extract_lets +onlyGivenNames f0; have z : (_ → _) := f0; clear z)
    | (extract_lets +onlyGivenNames x; clear_value x)
    | (extract_lets +onlyGivenNames x)
    | split
    | (unfold x)
    | (unfold f0)
    | (dsimp only)
    | assumption)

theorem freeMode_ok {q : Kept} (t : Fin 4) (s : State) (hok : Ok q s) (t_regs : ¬ q.fixed .regs := by assumption) (t_tiles : ¬ q.fixed .tiles := by assumption) : Ok q (freeMode t s) := by
  unfold freeMode
  (repeat' first
    | with_reducible assumption
    | intro _
    | with_reducible apply State.setFld_ok
    | with_reducible apply State.modTile_ok
    | with_reducible apply ok_ite
    | with_reducible apply ok_foldl
    | (extract_lets +onlyGivenNames x; refine (?_ : Ok q x → _) ?_; (intro _; clear_value x))
    | (extract_lets +onlyGivenNames f0; have z : (_ → _) := f0; clear z)
    | (extract_lets +onlyGivenNames x; clear_value x)
    | (extract_lets +onlyGivenNames x)
    | split
    | (unfold x)
    | (unfold f0)
    | (dsimp only)
    | assumption)

theorem commitMode_ok {q : Kept} (t : Fin 4) (s : State) (hok : Ok q s) (t_tiles : ¬ q.fixed .tiles := by assumption) : Ok q (commitMode t s) := by
  unfold commitMode
  (repeat' first
    | with_reducible assumption
    | intro _
    | with_reducible apply State.modTile_ok
    | with_reducible apply ok_ite
    | with_reducible apply ok_foldl
    | (extract_lets +onlyGivenNames x; refine (?_ : Ok q x → _) ?_; (intro _; clear_value x))
    | (extract_lets +onlyGivenNames f0; have z : (_ → _) := f0; clear z)
    | (extract_lets +onlyGivenNames x; clear_value x)
    | (extract_lets +onlyGivenNames x)
    | split
    | (unfold x)
    | (unfold f0)
    | (dsimp only)
    | assumption)

theorem decisionFrame_ok {q : Kept} (r : OwnRequest) (s : State) (hok : Ok q s) (t_regs : ¬ q.fixed .regs := by assumption) (t_net : ¬ q.fixed .net := by assumption) (t_out : ¬ q.fixed .out := by assumption) : Ok q (decisionFrame r s) := by
  unfold decisionFrame
  (repeat' first
    | with_reducible assumption
    | intro _
    | with_reducible apply followVersion_ok
    | with_reducible apply sendLine_ok
    | with_reducible apply ok_ite
    | with_reducible apply ok_foldl
    | (extract_lets +onlyGivenNames x; refine (?_ : Ok q x → _) ?_; (intro _; clear_value x))
    | (extract_lets +onlyGivenNames f0; have z : (_ → _) := f0; clear z)
    | (extract_lets +onlyGivenNames x; clear_value x)
    | (extract_lets +onlyGivenNames x)
    | split
    | (unfold x)
    | (unfold f0)
    | (dsimp only)
    | assumption)

theorem decideOwn_ok {q : Kept} (commit : Bool) (s : State) (hok : Ok q s) (t_regs : ¬ q.fixed .regs := by assumption) (t_tiles : ¬ q.fixed .tiles := by assumption) (t_net : ¬ q.fixed .net := by assumption) (t_out : ¬ q.fixed .out := by assumption) : Ok q (decideOwn commit s) := by
  unfold decideOwn
  split <;>
  (repeat' first
    | with_reducible assumption
    | intro _
    | with_reducible apply State.modNet_ok
    | with_reducible apply freeMode_ok
    | with_reducible apply commitMode_ok
    | with_reducible apply decisionFrame_ok
    | with_reducible apply ok_ite
    | with_reducible apply ok_foldl
    | (extract_lets +onlyGivenNames x; refine (?_ : Ok q x → _) ?_; (intro _; clear_value x))
    | (extract_lets +onlyGivenNames f0; have z : (_ → _) := f0; clear z)
    | (extract_lets +onlyGivenNames x; clear_value x)
    | (extract_lets +onlyGivenNames x)
    | split
    | (unfold x)
    | (unfold f0)
    | (dsimp only)
    | assumption)

theorem tryCommit_ok {q : Kept} (s : State) (hok : Ok q s) (t_regs : ¬ q.fixed .regs := by assumption) (t_tiles : ¬ q.fixed .tiles := by assumption) (t_net : ¬ q.fixed .net := by assumption) (t_out : ¬ q.fixed .out := by assumption) : Ok q (tryCommit s) := by
  unfold tryCommit
  split <;>
  (repeat' first
    | with_reducible assumption
    | intro _
    | with_reducible apply decideOwn_ok
    | with_reducible apply ok_ite
    | with_reducible apply ok_foldl
    | (extract_lets +onlyGivenNames x; refine (?_ : Ok q x → _) ?_; (intro _; clear_value x))
    | (extract_lets +onlyGivenNames f0; have z : (_ → _) := f0; clear z)
    | (extract_lets +onlyGivenNames x; clear_value x)
    | (extract_lets +onlyGivenNames x)
    | split
    | (unfold x)
    | (unfold f0)
    | (dsimp only)
    | assumption)

theorem ownAcks_ok {q : Kept} (r : OwnRequest) (s : State) (hok : Ok q s) (t_regs : ¬ q.fixed .regs := by assumption) (t_tiles : ¬ q.fixed .tiles := by assumption) : Ok q (ownAcks r s).2 := by
  unfold ownAcks
  (repeat' first
    | with_reducible assumption
    | intro _
    | with_reducible apply holdMode_ok
    | with_reducible apply ok_ite
    | with_reducible apply ok_foldl
    | (extract_lets +onlyGivenNames x; refine (?_ : Ok q x → _) ?_; (intro _; clear_value x))
    | (extract_lets +onlyGivenNames f0; have z : (_ → _) := f0; clear z)
    | (extract_lets +onlyGivenNames x; clear_value x)
    | (extract_lets +onlyGivenNames x)
    | split
    | (unfold x)
    | (unfold f0)
    | (dsimp only)
    | assumption)

theorem landModePrepare_ok {q : Kept} (d : Desc) (s : State) (hok : Ok q s) (t_regs : ¬ q.fixed .regs := by assumption) (t_tiles : ¬ q.fixed .tiles := by assumption) (t_engines : ¬ q.fixed .engines := by assumption) (t_net : ¬ q.fixed .net := by assumption) (t_cabs : ¬ q.fixed .cabs := by assumption) (t_out : ¬ q.fixed .out := by assumption) : Ok q (landModePrepare d s) := by
  unfold landModePrepare
  (repeat' first
    | with_reducible assumption
    | intro _
    | with_reducible apply State.modNet_ok
    | with_reducible apply complete_ok
    | with_reducible apply sendLine_ok
    | with_reducible apply tryCommit_ok
    | with_reducible apply ownAcks_ok
    | (refine ok_snd ?_ (by assumption); apply ownAcks_ok)
    | with_reducible apply ok_ite
    | with_reducible apply ok_foldl
    | (extract_lets +onlyGivenNames x; refine (?_ : Ok q x → _) ?_; (intro _; clear_value x))
    | (extract_lets +onlyGivenNames f0; have z : (_ → _) := f0; clear z)
    | (extract_lets +onlyGivenNames x; clear_value x)
    | (extract_lets +onlyGivenNames x)
    | split
    | (unfold x)
    | (unfold f0)
    | (dsimp only)
    | assumption)

theorem execModePrepare_ok {q : Kept} (d : Desc) (s : State) (hok : Ok q s) (t_now : ¬ q.fixed .now := by assumption) (t_regs : ¬ q.fixed .regs := by assumption) (t_tiles : ¬ q.fixed .tiles := by assumption) (t_engines : ¬ q.fixed .engines := by assumption) (t_net : ¬ q.fixed .net := by assumption) (t_cabs : ¬ q.fixed .cabs := by assumption) (t_out : ¬ q.fixed .out := by assumption) : OkOut q (execModePrepare d s) := by
  unfold execModePrepare
  (repeat' first
    | with_reducible assumption
    | intro _
    | with_reducible apply submit_ok
    | with_reducible apply landModePrepare_ok
    | with_reducible apply ok_ite
    | with_reducible apply ok_foldl
    | with_reducible apply ok_next
    | (extract_lets +onlyGivenNames x; refine (?_ : Ok q x → _) ?_; (intro _; clear_value x))
    | (extract_lets +onlyGivenNames f0; have z : (_ → _) := f0; clear z)
    | (extract_lets +onlyGivenNames x; clear_value x)
    | (extract_lets +onlyGivenNames x)
    | split
    | (unfold x)
    | (unfold f0)
    | (dsimp only)
    | assumption)

theorem landModeCommit_ok {q : Kept} (d : Desc) (s : State) (hok : Ok q s) (t_regs : ¬ q.fixed .regs := by assumption) (t_tiles : ¬ q.fixed .tiles := by assumption) (t_engines : ¬ q.fixed .engines := by assumption) (t_net : ¬ q.fixed .net := by assumption) (t_cabs : ¬ q.fixed .cabs := by assumption) (t_out : ¬ q.fixed .out := by assumption) : Ok q (landModeCommit d s) := by
  unfold landModeCommit
  (repeat' first
    | with_reducible assumption
    | intro _
    | with_reducible apply State.modNet_ok
    | with_reducible apply complete_ok
    | with_reducible apply decideOwn_ok
    | with_reducible apply tryCommit_ok
    | with_reducible apply ok_ite
    | with_reducible apply ok_foldl
    | (extract_lets +onlyGivenNames x; refine (?_ : Ok q x → _) ?_; (intro _; clear_value x))
    | (extract_lets +onlyGivenNames f0; have z : (_ → _) := f0; clear z)
    | (extract_lets +onlyGivenNames x; clear_value x)
    | (extract_lets +onlyGivenNames x)
    | split
    | (unfold x)
    | (unfold f0)
    | (dsimp only)
    | assumption)

theorem execModeCommit_ok {q : Kept} (d : Desc) (s : State) (hok : Ok q s) (t_now : ¬ q.fixed .now := by assumption) (t_regs : ¬ q.fixed .regs := by assumption) (t_tiles : ¬ q.fixed .tiles := by assumption) (t_engines : ¬ q.fixed .engines := by assumption) (t_net : ¬ q.fixed .net := by assumption) (t_cabs : ¬ q.fixed .cabs := by assumption) (t_out : ¬ q.fixed .out := by assumption) : OkOut q (execModeCommit d s) := by
  unfold execModeCommit
  (repeat' first
    | with_reducible assumption
    | intro _
    | with_reducible apply submit_ok
    | with_reducible apply landModeCommit_ok
    | with_reducible apply ok_ite
    | with_reducible apply ok_foldl
    | with_reducible apply ok_next
    | (extract_lets +onlyGivenNames x; refine (?_ : Ok q x → _) ?_; (intro _; clear_value x))
    | (extract_lets +onlyGivenNames f0; have z : (_ → _) := f0; clear z)
    | (extract_lets +onlyGivenNames x; clear_value x)
    | (extract_lets +onlyGivenNames x)
    | split
    | (unfold x)
    | (unfold f0)
    | (dsimp only)
    | assumption)

theorem acceptNext_ok {q : Kept} (c : Fin 4) (s : State) (hok : Ok q s) (t_regs : ¬ q.fixed .regs := by assumption) (t_tiles : ¬ q.fixed .tiles := by assumption) (t_engines : ¬ q.fixed .engines := by assumption) (t_net : ¬ q.fixed .net := by assumption) (t_cabs : ¬ q.fixed .cabs := by assumption) (t_dev : ¬ q.fixed .dev := by assumption) (t_out : ¬ q.fixed .out := by assumption) : Ok q (acceptNext c s) := by
  unfold acceptNext
  (repeat' first
    | with_reducible assumption
    | intro _
    | with_reducible apply State.setFld_ok
    | with_reducible apply State.modCab_ok
    | with_reducible apply State.modRing_ok
    | with_reducible apply State.modDev_ok
    | with_reducible apply followCredit_ok
    | with_reducible apply openDesc_ok
    | with_reducible apply refuseHost_ok
    | with_reducible apply landNop_ok
    | with_reducible apply issueImage_ok
    | with_reducible apply landModePrepare_ok
    | with_reducible apply landModeCommit_ok
    | with_reducible apply ok_ite
    | with_reducible apply ok_foldl
    | (extract_lets +onlyGivenNames x; refine (?_ : Ok q x → _) ?_; (intro _; clear_value x))
    | (extract_lets +onlyGivenNames f0; have z : (_ → _) := f0; clear z)
    | (extract_lets +onlyGivenNames x; clear_value x)
    | (extract_lets +onlyGivenNames x)
    | split
    | (unfold x)
    | (unfold f0)
    | (dsimp only)
    | assumption)

theorem execDescriptorAccept_ok {q : Kept} (t : Nat) (c : Fin 4) (s : State) (hok : Ok q s) (t_now : ¬ q.fixed .now := by assumption) (t_regs : ¬ q.fixed .regs := by assumption) (t_tiles : ¬ q.fixed .tiles := by assumption) (t_engines : ¬ q.fixed .engines := by assumption) (t_net : ¬ q.fixed .net := by assumption) (t_cabs : ¬ q.fixed .cabs := by assumption) (t_dev : ¬ q.fixed .dev := by assumption) (t_out : ¬ q.fixed .out := by assumption) : OkOut q (execDescriptorAccept t c s) := by
  unfold execDescriptorAccept
  (repeat' first
    | with_reducible assumption
    | intro _
    | with_reducible apply State.reach_ok
    | with_reducible apply acceptNext_ok
    | with_reducible apply ok_ite
    | with_reducible apply ok_foldl
    | with_reducible apply ok_next
    | (extract_lets +onlyGivenNames x; refine (?_ : Ok q x → _) ?_; (intro _; clear_value x))
    | (extract_lets +onlyGivenNames f0; have z : (_ → _) := f0; clear z)
    | (extract_lets +onlyGivenNames x; clear_value x)
    | (extract_lets +onlyGivenNames x)
    | split
    | (unfold x)
    | (unfold f0)
    | (dsimp only)
    | assumption)

theorem prepareFrame_ok {q : Kept} (id orig mode lc : Nat) (s : State) (hok : Ok q s) (t_regs : ¬ q.fixed .regs := by assumption) (t_tiles : ¬ q.fixed .tiles := by assumption) (t_net : ¬ q.fixed .net := by assumption) (t_out : ¬ q.fixed .out := by assumption) : Ok q (prepareFrame id orig mode lc s) := by
  unfold prepareFrame
  (repeat' first
    | with_reducible assumption
    | intro _
    | with_reducible apply State.modNet_ok
    | with_reducible apply sendLine_ok
    | with_reducible apply holdMode_ok
    | with_reducible apply ok_ite
    | with_reducible apply ok_foldl
    | (extract_lets +onlyGivenNames x; refine (?_ : Ok q x → _) ?_; (intro _; clear_value x))
    | (extract_lets +onlyGivenNames f0; have z : (_ → _) := f0; clear z)
    | (extract_lets +onlyGivenNames x; clear_value x)
    | (extract_lets +onlyGivenNames x)
    | split
    | (unfold x)
    | (unfold f0)
    | (dsimp only)
    | assumption)

theorem execModePrepareFrame_ok {q : Kept} (t : Nat) (n : Fin 2) (h : LineHdr) (id orig mode lc _ld : Nat) (s : State) (hok : Ok q s) (t_now : ¬ q.fixed .now := by assumption) (t_regs : ¬ q.fixed .regs := by assumption) (t_tiles : ¬ q.fixed .tiles := by assumption) (t_net : ¬ q.fixed .net := by assumption) (t_recorder : ¬ q.fixed .recorder := by assumption) (t_out : ¬ q.fixed .out := by assumption) : OkOut q (execModePrepareFrame t n h id orig mode lc _ld s) := by
  unfold execModePrepareFrame
  (repeat' first
    | with_reducible assumption
    | intro _
    | with_reducible apply State.reach_ok
    | with_reducible apply lineFrame_ok
    | with_reducible apply sourceTests_ok
    | with_reducible apply prepareFrame_ok
    | with_reducible apply ok_ite
    | with_reducible apply ok_foldl
    | with_reducible apply ok_next
    | (extract_lets +onlyGivenNames x; refine (?_ : Ok q x → _) ?_; (intro _; clear_value x))
    | (extract_lets +onlyGivenNames f0; have z : (_ → _) := f0; clear z)
    | (extract_lets +onlyGivenNames x; clear_value x)
    | (extract_lets +onlyGivenNames x)
    | split
    | (unfold x)
    | (unfold f0)
    | (dsimp only)
    | assumption)

theorem lateAck_ok {q : Kept} (id : Nat) (s : State) (hok : Ok q s) (t_regs : ¬ q.fixed .regs := by assumption) : Ok q (lateAck id s) := by
  unfold lateAck
  (repeat' first
    | with_reducible assumption
    | intro _
    | with_reducible apply State.count_ok
    | with_reducible apply ok_ite
    | with_reducible apply ok_foldl
    | (extract_lets +onlyGivenNames x; refine (?_ : Ok q x → _) ?_; (intro _; clear_value x))
    | (extract_lets +onlyGivenNames f0; have z : (_ → _) := f0; clear z)
    | (extract_lets +onlyGivenNames x; clear_value x)
    | (extract_lets +onlyGivenNames x)
    | split
    | (unfold x)
    | (unfold f0)
    | (dsimp only)
    | assumption)

theorem ackFrame_ok {q : Kept} (h : LineHdr) (id orig result : Nat) (s : State) (hok : Ok q s) (t_regs : ¬ q.fixed .regs := by assumption) (t_tiles : ¬ q.fixed .tiles := by assumption) (t_net : ¬ q.fixed .net := by assumption) (t_out : ¬ q.fixed .out := by assumption) : Ok q (ackFrame h id orig result s) := by
  unfold ackFrame
  (repeat' first
    | with_reducible assumption
    | intro _
    | with_reducible apply State.count_ok
    | with_reducible apply State.modNet_ok
    | with_reducible apply tryCommit_ok
    | with_reducible apply lateAck_ok
    | with_reducible apply ok_ite
    | with_reducible apply ok_foldl
    | (extract_lets +onlyGivenNames x; refine (?_ : Ok q x → _) ?_; (intro _; clear_value x))
    | (extract_lets +onlyGivenNames f0; have z : (_ → _) := f0; clear z)
    | (extract_lets +onlyGivenNames x; clear_value x)
    | (extract_lets +onlyGivenNames x)
    | split
    | (unfold x)
    | (unfold f0)
    | (dsimp only)
    | assumption)

theorem execModeAckFrame_ok {q : Kept} (t : Nat) (n : Fin 2) (h : LineHdr) (id orig result : Nat) (s : State) (hok : Ok q s) (t_now : ¬ q.fixed .now := by assumption) (t_regs : ¬ q.fixed .regs := by assumption) (t_tiles : ¬ q.fixed .tiles := by assumption) (t_net : ¬ q.fixed .net := by assumption) (t_recorder : ¬ q.fixed .recorder := by assumption) (t_out : ¬ q.fixed .out := by assumption) : OkOut q (execModeAckFrame t n h id orig result s) := by
  unfold execModeAckFrame
  (repeat' first
    | with_reducible assumption
    | intro _
    | with_reducible apply State.reach_ok
    | with_reducible apply lineFrame_ok
    | with_reducible apply sourceTests_ok
    | with_reducible apply ackFrame_ok
    | with_reducible apply ok_ite
    | with_reducible apply ok_foldl
    | with_reducible apply ok_next
    | (extract_lets +onlyGivenNames x; refine (?_ : Ok q x → _) ?_; (intro _; clear_value x))
    | (extract_lets +onlyGivenNames f0; have z : (_ → _) := f0; clear z)
    | (extract_lets +onlyGivenNames x; clear_value x)
    | (extract_lets +onlyGivenNames x)
    | split
    | (unfold x)
    | (unfold f0)
    | (dsimp only)
    | assumption)

theorem dropPeer_ok {q : Kept} (id orig : Nat) (s : State) (hok : Ok q s) (t_net : ¬ q.fixed .net := by assumption) : Ok q (dropPeer id orig s) := by
  unfold dropPeer
  (repeat' first
    | with_reducible assumption
    | intro _
    | with_reducible apply State.modNet_ok
    | with_reducible apply ok_ite
    | with_reducible apply ok_foldl
    | (extract_lets +onlyGivenNames x; refine (?_ : Ok q x → _) ?_; (intro _; clear_value x))
    | (extract_lets +onlyGivenNames f0; have z : (_ → _) := f0; clear z)
    | (extract_lets +onlyGivenNames x; clear_value x)
    | (extract_lets +onlyGivenNames x)
    | split
    | (unfold x)
    | (unfold f0)
    | (dsimp only)
    | assumption)

theorem leaveUndecided_ok {q : Kept} (p : PeerRequest) (s : State) (hok : Ok q s) (t_regs : ¬ q.fixed .regs := by assumption) (t_tiles : ¬ q.fixed .tiles := by assumption) (t_net : ¬ q.fixed .net := by assumption) (t_recorder : ¬ q.fixed .recorder := by assumption) : Ok q (leaveUndecided p s) := by
  unfold leaveUndecided
  (repeat' first
    | with_reducible assumption
    | intro _
    | with_reducible apply State.modNet_ok
    | with_reducible apply record_ok
    | with_reducible apply freeMode_ok
    | with_reducible apply dropPeer_ok
    | with_reducible apply ok_ite
    | with_reducible apply ok_foldl
    | (extract_lets +onlyGivenNames x; refine (?_ : Ok q x → _) ?_; (intro _; clear_value x))
    | (extract_lets +onlyGivenNames f0; have z : (_ → _) := f0; clear z)
    | (extract_lets +onlyGivenNames x; clear_value x)
    | (extract_lets +onlyGivenNames x)
    | split
    | (unfold x)
    | (unfold f0)
    | (dsimp only)
    | assumption)

theorem decisionReceive_ok {q : Kept} (id orig decision : Nat) (s : State) (hok : Ok q s) (t_regs : ¬ q.fixed .regs := by assumption) (t_tiles : ¬ q.fixed .tiles := by assumption) (t_net : ¬ q.fixed .net := by assumption) (t_recorder : ¬ q.fixed .recorder := by assumption) : Ok q (decisionReceive id orig decision s) := by
  unfold decisionReceive
  split <;>
  (repeat' first
    | with_reducible assumption
    | intro _
    | with_reducible apply State.modNet_ok
    | with_reducible apply freeMode_ok
    | with_reducible apply commitMode_ok
    | with_reducible apply dropPeer_ok
    | with_reducible apply leaveUndecided_ok
    | with_reducible apply ok_ite
    | with_reducible apply ok_foldl
    | (extract_lets +onlyGivenNames x; refine (?_ : Ok q x → _) ?_; (intro _; clear_value x))
    | (extract_lets +onlyGivenNames f0; have z : (_ → _) := f0; clear z)
    | (extract_lets +onlyGivenNames x; clear_value x)
    | (extract_lets +onlyGivenNames x)
    | split
    | (unfold x)
    | (unfold f0)
    | (dsimp only)
    | assumption)

theorem execModeDecisionFrame_ok {q : Kept} (t : Nat) (n : Fin 2) (h : LineHdr) (id orig decision : Nat) (s : State) (hok : Ok q s) (t_now : ¬ q.fixed .now := by assumption) (t_regs : ¬ q.fixed .regs := by assumption) (t_tiles : ¬ q.fixed .tiles := by assumption) (t_net : ¬ q.fixed .net := by assumption) (t_recorder : ¬ q.fixed .recorder := by assumption) : OkOut q (execModeDecisionFrame t n h id orig decision s) := by
  unfold execModeDecisionFrame
  (repeat' first
    | with_reducible assumption
    | intro _
    | with_reducible apply State.reach_ok
    | with_reducible apply lineFrame_ok
    | with_reducible apply sourceTests_ok
    | with_reducible apply decisionReceive_ok
    | with_reducible apply ok_ite
    | with_reducible apply ok_foldl
    | with_reducible apply ok_next
    | (extract_lets +onlyGivenNames x; refine (?_ : Ok q x → _) ?_; (intro _; clear_value x))
    | (extract_lets +onlyGivenNames f0; have z : (_ → _) := f0; clear z)
    | (extract_lets +onlyGivenNames x; clear_value x)
    | (extract_lets +onlyGivenNames x)
    | split
    | (unfold x)
    | (unfold f0)
    | (dsimp only)
    | assumption)

theorem execAckDeadline_ok {q : Kept} (t : Nat) (s : State) (hok : Ok q s) (t_now : ¬ q.fixed .now := by assumption) (t_regs : ¬ q.fixed .regs := by assumption) (t_tiles : ¬ q.fixed .tiles := by assumption) (t_net : ¬ q.fixed .net := by assumption) (t_out : ¬ q.fixed .out := by assumption) : OkOut q (execAckDeadline t s) := by
  unfold execAckDeadline
  (repeat' first
    | with_reducible assumption
    | intro _
    | with_reducible apply State.reach_ok
    | with_reducible apply State.onlyIf_ok
    | with_reducible apply decideOwn_ok
    | with_reducible apply ok_ite
    | with_reducible apply ok_foldl
    | with_reducible apply ok_next
    | (extract_lets +onlyGivenNames x; refine (?_ : Ok q x → _) ?_; (intro _; clear_value x))
    | (extract_lets +onlyGivenNames f0; have z : (_ → _) := f0; clear z)
    | (extract_lets +onlyGivenNames x; clear_value x)
    | (extract_lets +onlyGivenNames x)
    | split
    | (unfold x)
    | (unfold f0)
    | (dsimp only)
    | assumption)

theorem execCommitDeadline_ok {q : Kept} (t : Nat) (s : State) (hok : Ok q s) (t_now : ¬ q.fixed .now := by assumption) (t_regs : ¬ q.fixed .regs := by assumption) (t_tiles : ¬ q.fixed .tiles := by assumption) (t_net : ¬ q.fixed .net := by assumption) (t_out : ¬ q.fixed .out := by assumption) : OkOut q (execCommitDeadline t s) := by
  unfold execCommitDeadline
  (repeat' first
    | with_reducible assumption
    | intro _
    | with_reducible apply State.reach_ok
    | with_reducible apply State.onlyIf_ok
    | with_reducible apply decideOwn_ok
    | with_reducible apply ok_ite
    | with_reducible apply ok_foldl
    | with_reducible apply ok_next
    | (extract_lets +onlyGivenNames x; refine (?_ : Ok q x → _) ?_; (intro _; clear_value x))
    | (extract_lets +onlyGivenNames f0; have z : (_ → _) := f0; clear z)
    | (extract_lets +onlyGivenNames x; clear_value x)
    | (extract_lets +onlyGivenNames x)
    | split
    | (unfold x)
    | (unfold f0)
    | (dsimp only)
    | assumption)

theorem decisionRepeat_ok {q : Kept} (s : State) (hok : Ok q s) (t_regs : ¬ q.fixed .regs := by assumption) (t_net : ¬ q.fixed .net := by assumption) (t_out : ¬ q.fixed .out := by assumption) : Ok q (decisionRepeat s) := by
  unfold decisionRepeat
  split <;>
  (repeat' first
    | with_reducible assumption
    | intro _
    | with_reducible apply State.modNet_ok
    | with_reducible apply decisionFrame_ok
    | with_reducible apply ok_ite
    | with_reducible apply ok_foldl
    | (extract_lets +onlyGivenNames x; refine (?_ : Ok q x → _) ?_; (intro _; clear_value x))
    | (extract_lets +onlyGivenNames f0; have z : (_ → _) := f0; clear z)
    | (extract_lets +onlyGivenNames x; clear_value x)
    | (extract_lets +onlyGivenNames x)
    | split
    | (unfold x)
    | (unfold f0)
    | (dsimp only)
    | assumption)

theorem execDecisionRepeat_ok {q : Kept} (t : Nat) (s : State) (hok : Ok q s) (t_now : ¬ q.fixed .now := by assumption) (t_regs : ¬ q.fixed .regs := by assumption) (t_net : ¬ q.fixed .net := by assumption) (t_out : ¬ q.fixed .out := by assumption) : OkOut q (execDecisionRepeat t s) := by
  unfold execDecisionRepeat
  (repeat' first
    | with_reducible assumption
    | intro _
    | with_reducible apply State.reach_ok
    | with_reducible apply decisionRepeat_ok
    | with_reducible apply ok_ite
    | with_reducible apply ok_foldl
    | with_reducible apply ok_next
    | (extract_lets +onlyGivenNames x; refine (?_ : Ok q x → _) ?_; (intro _; clear_value x))
    | (extract_lets +onlyGivenNames f0; have z : (_ → _) := f0; clear z)
    | (extract_lets +onlyGivenNames x; clear_value x)
    | (extract_lets +onlyGivenNames x)
    | split
    | (unfold x)
    | (unfold f0)
    | (dsimp only)
    | assumption)

theorem modeUndecided_ok {q : Kept} (s : State) (hok : Ok q s) (t_regs : ¬ q.fixed .regs := by assumption) (t_tiles : ¬ q.fixed .tiles := by assumption) (t_net : ¬ q.fixed .net := by assumption) (t_recorder : ¬ q.fixed .recorder := by assumption) : Ok q (modeUndecided s) := by
  unfold modeUndecided
  split <;>
  (repeat' first
    | with_reducible assumption
    | intro _
    | with_reducible apply leaveUndecided_ok
    | with_reducible apply ok_ite
    | with_reducible apply ok_foldl
    | (extract_lets +onlyGivenNames x; refine (?_ : Ok q x → _) ?_; (intro _; clear_value x))
    | (extract_lets +onlyGivenNames f0; have z : (_ → _) := f0; clear z)
    | (extract_lets +onlyGivenNames x; clear_value x)
    | (extract_lets +onlyGivenNames x)
    | split
    | (unfold x)
    | (unfold f0)
    | (dsimp only)
    | assumption)

theorem execModeUndecided_ok {q : Kept} (t : Nat) (s : State) (hok : Ok q s) (t_now : ¬ q.fixed .now := by assumption) (t_regs : ¬ q.fixed .regs := by assumption) (t_tiles : ¬ q.fixed .tiles := by assumption) (t_net : ¬ q.fixed .net := by assumption) (t_recorder : ¬ q.fixed .recorder := by assumption) : OkOut q (execModeUndecided t s) := by
  unfold execModeUndecided
  (repeat' first
    | with_reducible assumption
    | intro _
    | with_reducible apply State.reach_ok
    | with_reducible apply modeUndecided_ok
    | with_reducible apply ok_ite
    | with_reducible apply ok_foldl
    | with_reducible apply ok_next
    | (extract_lets +onlyGivenNames x; refine (?_ : Ok q x → _) ?_; (intro _; clear_value x))
    | (extract_lets +onlyGivenNames f0; have z : (_ → _) := f0; clear z)
    | (extract_lets +onlyGivenNames x; clear_value x)
    | (extract_lets +onlyGivenNames x)
    | split
    | (unfold x)
    | (unfold f0)
    | (dsimp only)
    | assumption)

theorem modeOutcome_ok {q : Kept} (s : State) (hok : Ok q s) (t_regs : ¬ q.fixed .regs := by assumption) (t_net : ¬ q.fixed .net := by assumption) (t_cabs : ¬ q.fixed .cabs := by assumption) (t_recorder : ¬ q.fixed .recorder := by assumption) (t_out : ¬ q.fixed .out := by assumption) : Ok q (modeOutcome s) := by
  unfold modeOutcome
  split <;>
  (repeat' first
    | with_reducible assumption
    | intro _
    | with_reducible apply State.modNet_ok
    | with_reducible apply raiseEvent_ok
    | with_reducible apply ok_ite
    | with_reducible apply ok_foldl
    | (extract_lets +onlyGivenNames x; refine (?_ : Ok q x → _) ?_; (intro _; clear_value x))
    | (extract_lets +onlyGivenNames f0; have z : (_ → _) := f0; clear z)
    | (extract_lets +onlyGivenNames x; clear_value x)
    | (extract_lets +onlyGivenNames x)
    | split
    | (unfold x)
    | (unfold f0)
    | (dsimp only)
    | assumption)

theorem execModeOutcome_ok {q : Kept} (t : Nat) (s : State) (hok : Ok q s) (t_now : ¬ q.fixed .now := by assumption) (t_regs : ¬ q.fixed .regs := by assumption) (t_net : ¬ q.fixed .net := by assumption) (t_cabs : ¬ q.fixed .cabs := by assumption) (t_recorder : ¬ q.fixed .recorder := by assumption) (t_out : ¬ q.fixed .out := by assumption) : OkOut q (execModeOutcome t s) := by
  unfold execModeOutcome
  (repeat' first
    | with_reducible assumption
    | intro _
    | with_reducible apply State.reach_ok
    | with_reducible apply modeOutcome_ok
    | with_reducible apply ok_ite
    | with_reducible apply ok_foldl
    | with_reducible apply ok_next
    | (extract_lets +onlyGivenNames x; refine (?_ : Ok q x → _) ?_; (intro _; clear_value x))
    | (extract_lets +onlyGivenNames f0; have z : (_ → _) := f0; clear z)
    | (extract_lets +onlyGivenNames x; clear_value x)
    | (extract_lets +onlyGivenNames x)
    | split
    | (unfold x)
    | (unfold f0)
    | (dsimp only)
    | assumption)

theorem periodStrobe_ok {q : Kept} (t : Fin 4) (ofs : Int) (s : State) (hok : Ok q s) (t_regs : ¬ q.fixed .regs := by assumption) (t_tiles : ¬ q.fixed .tiles := by assumption) (t_recorder : ¬ q.fixed .recorder := by assumption) : Ok q (periodStrobe t ofs s) := by
  unfold periodStrobe
  (repeat' first
    | with_reducible assumption
    | intro _
    | with_reducible apply State.setBit_ok
    | with_reducible apply State.modTile_ok
    | with_reducible apply record_ok
    | with_reducible apply ok_ite
    | with_reducible apply ok_foldl
    | (extract_lets +onlyGivenNames x; refine (?_ : Ok q x → _) ?_; (intro _; clear_value x))
    | (extract_lets +onlyGivenNames f0; have z : (_ → _) := f0; clear z)
    | (extract_lets +onlyGivenNames x; clear_value x)
    | (extract_lets +onlyGivenNames x)
    | split
    | (unfold x)
    | (unfold f0)
    | (dsimp only)
    | assumption)

theorem execPeriodStrobe_ok {q : Kept} (at_ : Nat) (t : Fin 4) (ofs : Int) (s : State) (hok : Ok q s) (t_now : ¬ q.fixed .now := by assumption) (t_regs : ¬ q.fixed .regs := by assumption) (t_tiles : ¬ q.fixed .tiles := by assumption) (t_recorder : ¬ q.fixed .recorder := by assumption) : OkOut q (execPeriodStrobe at_ t ofs s) := by
  unfold execPeriodStrobe
  (repeat' first
    | with_reducible assumption
    | intro _
    | with_reducible apply State.reach_ok
    | with_reducible apply periodStrobe_ok
    | with_reducible apply ok_ite
    | with_reducible apply ok_foldl
    | with_reducible apply ok_next
    | (extract_lets +onlyGivenNames x; refine (?_ : Ok q x → _) ?_; (intro _; clear_value x))
    | (extract_lets +onlyGivenNames f0; have z : (_ → _) := f0; clear z)
    | (extract_lets +onlyGivenNames x; clear_value x)
    | (extract_lets +onlyGivenNames x)
    | split
    | (unfold x)
    | (unfold f0)
    | (dsimp only)
    | assumption)

theorem strobeLoss_ok {q : Kept} (t : Fin 4) (s : State) (hok : Ok q s) (t_regs : ¬ q.fixed .regs := by assumption) (t_axes : ¬ q.fixed .axes := by assumption) (t_ports : ¬ q.fixed .ports := by assumption) (t_tiles : ¬ q.fixed .tiles := by assumption) (t_engines : ¬ q.fixed .engines := by assumption) (t_cabs : ¬ q.fixed .cabs := by assumption) (t_recorder : ¬ q.fixed .recorder := by assumption) (t_out : ¬ q.fixed .out := by assumption) : Ok q (strobeLoss t s) := by
  unfold strobeLoss
  (repeat' first
    | with_reducible assumption
    | intro _
    | with_reducible apply State.modTile_ok
    | with_reducible apply raiseFaultAll_ok
    | with_reducible apply ok_ite
    | with_reducible apply ok_foldl
    | (extract_lets +onlyGivenNames x; refine (?_ : Ok q x → _) ?_; (intro _; clear_value x))
    | (extract_lets +onlyGivenNames f0; have z : (_ → _) := f0; clear z)
    | (extract_lets +onlyGivenNames x; clear_value x)
    | (extract_lets +onlyGivenNames x)
    | split
    | (unfold x)
    | (unfold f0)
    | (dsimp only)
    | assumption)

theorem execStrobeLossFault_ok {q : Kept} (t : Fin 4) (s : State) (hok : Ok q s) (t_regs : ¬ q.fixed .regs := by assumption) (t_axes : ¬ q.fixed .axes := by assumption) (t_ports : ¬ q.fixed .ports := by assumption) (t_tiles : ¬ q.fixed .tiles := by assumption) (t_engines : ¬ q.fixed .engines := by assumption) (t_cabs : ¬ q.fixed .cabs := by assumption) (t_recorder : ¬ q.fixed .recorder := by assumption) (t_out : ¬ q.fixed .out := by assumption) : OkOut q (execStrobeLossFault t s) := by
  unfold execStrobeLossFault
  (repeat' first
    | with_reducible assumption
    | intro _
    | with_reducible apply strobeLoss_ok
    | with_reducible apply ok_ite
    | with_reducible apply ok_foldl
    | with_reducible apply ok_next
    | (extract_lets +onlyGivenNames x; refine (?_ : Ok q x → _) ?_; (intro _; clear_value x))
    | (extract_lets +onlyGivenNames f0; have z : (_ → _) := f0; clear z)
    | (extract_lets +onlyGivenNames x; clear_value x)
    | (extract_lets +onlyGivenNames x)
    | split
    | (unfold x)
    | (unfold f0)
    | (dsimp only)
    | assumption)

theorem execPathDelayEcho_ok {q : Kept} (at_ : Nat) (t : Fin 4) (ns : Nat) (s : State) (hok : Ok q s) (t_now : ¬ q.fixed .now := by assumption) (t_tiles : ¬ q.fixed .tiles := by assumption) : OkOut q (execPathDelayEcho at_ t ns s) := by
  unfold execPathDelayEcho
  (repeat' first
    | with_reducible assumption
    | intro _
    | with_reducible apply State.modTile_ok
    | with_reducible apply State.reach_ok
    | with_reducible apply ok_ite
    | with_reducible apply ok_foldl
    | with_reducible apply ok_next
    | (extract_lets +onlyGivenNames x; refine (?_ : Ok q x → _) ?_; (intro _; clear_value x))
    | (extract_lets +onlyGivenNames f0; have z : (_ → _) := f0; clear z)
    | (extract_lets +onlyGivenNames x; clear_value x)
    | (extract_lets +onlyGivenNames x)
    | split
    | (unfold x)
    | (unfold f0)
    | (dsimp only)
    | assumption)

end Sys2Proof.Machine
end

