-- ==== Sys2Proof/Laws/KeepPwm.lean ====
section
/-! SUPPORT. What the operations of Machine/Pwm.lean keep (Laws/Keep.lean). -/

namespace Sys2Proof.Machine

set_option linter.unusedTactic false
set_option linter.unreachableTactic false
set_option linter.tactic.unusedName false
set_option linter.unusedVariables false

theorem planPulse_ok {q : Kept} (p : Fin 64) (b : Bool) (carrier : Nat) (x0 : Rat) (h : Nat) (an : Anchor) (s : State) (hok : Ok q s) (t_ports : ¬ q.fixed .ports := by assumption) : Ok q (planPulse p b carrier x0 h an s) := by
  unfold planPulse
  (repeat' first
    | with_reducible assumption
    | intro _
    | with_reducible apply State.modLeg_ok
    | with_reducible apply ok_ite
    | with_reducible apply ok_foldl
    | (extract_lets +onlyGivenNames x; refine (?_ : Ok q x → _) ?_; (intro _; clear_value x))
    | (extract_lets +onlyGivenNames f0; have z : (_ → _) := f0; clear z)
    | (extract_lets +onlyGivenNames x; clear_value x)
    | (extract_lets +onlyGivenNames x)
    | split
    | (unfold x)
    | (unfold f0)
    | (dsimp only)
    | assumption)

theorem innerPulses_ok {q : Kept} (p : Fin 64) (b : Bool) (l : LegPlan) (v : Rat) (n : Nat) (c : Nat) (s : State) (hok : Ok q s) (t_ports : ¬ q.fixed .ports := by assumption) : Ok q (innerPulses p b l v n c s) := by
  induction n generalizing c s with
  | zero =>
      unfold innerPulses
      (repeat' first
        | with_reducible assumption
        | intro _
        | with_reducible apply planPulse_ok
        | with_reducible apply ok_ite
        | with_reducible apply ok_foldl
        | (extract_lets +onlyGivenNames x; refine (?_ : Ok q x → _) ?_; (intro _; clear_value x))
        | (extract_lets +onlyGivenNames f0; have z : (_ → _) := f0; clear z)
        | (extract_lets +onlyGivenNames x; clear_value x)
        | (extract_lets +onlyGivenNames x)
        | split
        | (unfold x)
        | (unfold f0)
        | (dsimp only)
        | assumption)
  | succ n ih =>
      unfold innerPulses
      (repeat' first
        | with_reducible assumption
        | intro _
        | with_reducible apply planPulse_ok
        | apply ih
        | with_reducible apply ok_ite
        | with_reducible apply ok_foldl
        | (extract_lets +onlyGivenNames x; refine (?_ : Ok q x → _) ?_; (intro _; clear_value x))
        | (extract_lets +onlyGivenNames f0; have z : (_ → _) := f0; clear z)
        | (extract_lets +onlyGivenNames x; clear_value x)
        | (extract_lets +onlyGivenNames x)
        | split
        | (unfold x)
        | (unfold f0)
        | (dsimp only)
        | assumption)

theorem buildLeg_ok {q : Kept} (p : Fin 64) (v : Rat) (b : Bool) (s : State) (hok : Ok q s) (t_regs : ¬ q.fixed .regs := by assumption) (t_ports : ¬ q.fixed .ports := by assumption) : Ok q (buildLeg p v b s) := by
  unfold buildLeg
  (repeat' first
    | with_reducible assumption
    | intro _
    | with_reducible apply State.modLeg_ok
    | with_reducible apply State.setCarry_ok
    | with_reducible apply planPulse_ok
    | with_reducible apply innerPulses_ok
    | with_reducible apply ok_ite
    | with_reducible apply ok_foldl
    | (extract_lets +onlyGivenNames x; refine (?_ : Ok q x → _) ?_; (intro _; clear_value x))
    | (extract_lets +onlyGivenNames f0; have z : (_ → _) := f0; clear z)
    | (extract_lets +onlyGivenNames x; clear_value x)
    | (extract_lets +onlyGivenNames x)
    | split
    | (unfold x)
    | (unfold f0)
    | (dsimp only)
    | assumption)

theorem lastPulse_ok {q : Kept} (p : Fin 64) (b : Bool) (s : State) (hok : Ok q s) (t_ports : ¬ q.fixed .ports := by assumption) : Ok q (lastPulse p b s) := by
  unfold lastPulse
  (repeat' first
    | with_reducible assumption
    | intro _
    | with_reducible apply planPulse_ok
    | with_reducible apply ok_ite
    | with_reducible apply ok_foldl
    | (extract_lets +onlyGivenNames x; refine (?_ : Ok q x → _) ?_; (intro _; clear_value x))
    | (extract_lets +onlyGivenNames f0; have z : (_ → _) := f0; clear z)
    | (extract_lets +onlyGivenNames x; clear_value x)
    | (extract_lets +onlyGivenNames x)
    | split
    | (unfold x)
    | (unfold f0)
    | (dsimp only)
    | assumption)

theorem buildPort_ok {q : Kept} (p : Fin 64) (s : State) (hok : Ok q s) (t_regs : ¬ q.fixed .regs := by assumption) (t_ports : ¬ q.fixed .ports := by assumption) : Ok q (buildPort p s) := by
  unfold buildPort
  (repeat' first
    | with_reducible assumption
    | intro _
    | with_reducible apply buildLeg_ok
    | with_reducible apply lastPulse_ok
    | with_reducible apply ok_ite
    | with_reducible apply ok_foldl
    | (extract_lets +onlyGivenNames x; refine (?_ : Ok q x → _) ?_; (intro _; clear_value x))
    | (extract_lets +onlyGivenNames f0; have z : (_ → _) := f0; clear z)
    | (extract_lets +onlyGivenNames x; clear_value x)
    | (extract_lets +onlyGivenNames x)
    | split
    | (unfold x)
    | (unfold f0)
    | (dsimp only)
    | assumption)

theorem startRun_ok {q : Kept} (p : Fin 64) (s : State) (hok : Ok q s) (t_regs : ¬ q.fixed .regs := by assumption) (t_ports : ¬ q.fixed .ports := by assumption) (t_cabs : ¬ q.fixed .cabs := by assumption) (t_recorder : ¬ q.fixed .recorder := by assumption) (t_out : ¬ q.fixed .out := by assumption) : Ok q (startRun p s) := by
  unfold startRun
  (repeat' first
    | with_reducible assumption
    | intro _
    | with_reducible apply State.setReg_ok
    | with_reducible apply State.setBit_ok
    | with_reducible apply State.modPwm_ok
    | with_reducible apply State.modGd_ok
    | with_reducible apply setCodes_ok
    | with_reducible apply selectMask_ok
    | with_reducible apply State.enterPort_ok
    | with_reducible apply ok_ite
    | with_reducible apply ok_foldl
    | (extract_lets +onlyGivenNames x; refine (?_ : Ok q x → _) ?_; (intro _; clear_value x))
    | (extract_lets +onlyGivenNames f0; have z : (_ → _) := f0; clear z)
    | (extract_lets +onlyGivenNames x; clear_value x)
    | (extract_lets +onlyGivenNames x)
    | split
    | (unfold x)
    | (unfold f0)
    | (dsimp only)
    | assumption)

theorem landEnableOf_ok {q : Kept} (p : Fin 64) (s : State) (hok : Ok q s) (t_regs : ¬ q.fixed .regs := by assumption) (t_ports : ¬ q.fixed .ports := by assumption) (t_cabs : ¬ q.fixed .cabs := by assumption) (t_recorder : ¬ q.fixed .recorder := by assumption) (t_out : ¬ q.fixed .out := by assumption) : Ok q (landEnableOf p s) := by
  unfold landEnableOf
  (repeat' first
    | with_reducible assumption
    | intro _
    | with_reducible apply State.setFld_ok
    | with_reducible apply State.setBit_ok
    | with_reducible apply record_ok
    | with_reducible apply State.enterPort_ok
    | with_reducible apply preloadPort_ok
    | with_reducible apply startRun_ok
    | with_reducible apply ok_ite
    | with_reducible apply ok_foldl
    | (extract_lets +onlyGivenNames x; refine (?_ : Ok q x → _) ?_; (intro _; clear_value x))
    | (extract_lets +onlyGivenNames f0; have z : (_ → _) := f0; clear z)
    | (extract_lets +onlyGivenNames x; clear_value x)
    | (extract_lets +onlyGivenNames x)
    | split
    | (unfold x)
    | (unfold f0)
    | (dsimp only)
    | assumption)

theorem endLatches_ok {q : Kept} (p : Fin 64) (s : State) (hok : Ok q s) (t_regs : ¬ q.fixed .regs := by assumption) (t_ports : ¬ q.fixed .ports := by assumption) : Ok q (endLatches p s) := by
  unfold endLatches
  (repeat' first
    | with_reducible assumption
    | intro _
    | with_reducible apply State.setFld_ok
    | with_reducible apply State.modGd_ok
    | with_reducible apply ok_ite
    | with_reducible apply ok_foldl
    | (extract_lets +onlyGivenNames x; refine (?_ : Ok q x → _) ?_; (intro _; clear_value x))
    | (extract_lets +onlyGivenNames f0; have z : (_ → _) := f0; clear z)
    | (extract_lets +onlyGivenNames x; clear_value x)
    | (extract_lets +onlyGivenNames x)
    | split
    | (unfold x)
    | (unfold f0)
    | (dsimp only)
    | assumption)

theorem enterOff_ok {q : Kept} (p : Fin 64) (v : Nat) (s : State) (hok : Ok q s) (t_regs : ¬ q.fixed .regs := by assumption) (t_axes : ¬ q.fixed .axes := by assumption) (t_ports : ¬ q.fixed .ports := by assumption) (t_engines : ¬ q.fixed .engines := by assumption) (t_cabs : ¬ q.fixed .cabs := by assumption) (t_recorder : ¬ q.fixed .recorder := by assumption) (t_out : ¬ q.fixed .out := by assumption) : Ok q (enterOff p v s) := by
  unfold enterOff
  (repeat' first
    | with_reducible assumption
    | intro _
    | with_reducible apply State.setReg_ok
    | with_reducible apply State.setFld_ok
    | with_reducible apply followPorts_ok
    | with_reducible apply State.modPwm_ok
    | with_reducible apply movePort_ok
    | with_reducible apply followPartner_ok
    | with_reducible apply enterDisabled_ok
    | with_reducible apply endLatches_ok
    | with_reducible apply ok_ite
    | with_reducible apply ok_foldl
    | (extract_lets +onlyGivenNames x; refine (?_ : Ok q x → _) ?_; (intro _; clear_value x))
    | (extract_lets +onlyGivenNames f0; have z : (_ → _) := f0; clear z)
    | (extract_lets +onlyGivenNames x; clear_value x)
    | (extract_lets +onlyGivenNames x)
    | split
    | (unfold x)
    | (unfold f0)
    | (dsimp only)
    | assumption)

theorem endTail_ok {q : Kept} (p : Fin 64) (s : State) (hok : Ok q s) (t_regs : ¬ q.fixed .regs := by assumption) (t_ports : ¬ q.fixed .ports := by assumption) : Ok q (endTail p s) := by
  unfold endTail
  split <;>
  (repeat' first
    | with_reducible assumption
    | intro _
    | with_reducible apply State.setBit_ok
    | with_reducible apply State.modPwm_ok
    | with_reducible apply unpower_ok
    | with_reducible apply endLatches_ok
    | with_reducible apply ok_ite
    | with_reducible apply ok_foldl
    | (extract_lets +onlyGivenNames x; refine (?_ : Ok q x → _) ?_; (intro _; clear_value x))
    | (extract_lets +onlyGivenNames f0; have z : (_ → _) := f0; clear z)
    | (extract_lets +onlyGivenNames x; clear_value x)
    | (extract_lets +onlyGivenNames x)
    | split
    | (unfold x)
    | (unfold f0)
    | (dsimp only)
    | assumption)

theorem applyShadow_ok {q : Kept} (s : State) (a : Nat) (hok : Ok q s) (t_inForce : ¬ q.fixed .inForce := by assumption) (t_written : ¬ q.fixed .written := by assumption) : Ok q (applyShadow s a) := by
  unfold applyShadow
  (repeat' first
    | with_reducible assumption
    | intro _
    | with_reducible apply State.setForce_ok
    | with_reducible apply State.setWritten_ok
    | with_reducible apply ok_ite
    | with_reducible apply ok_foldl
    | (extract_lets +onlyGivenNames x; refine (?_ : Ok q x → _) ?_; (intro _; clear_value x))
    | (extract_lets +onlyGivenNames f0; have z : (_ → _) := f0; clear z)
    | (extract_lets +onlyGivenNames x; clear_value x)
    | (extract_lets +onlyGivenNames x)
    | split
    | (unfold x)
    | (unfold f0)
    | (dsimp only)
    | assumption)

theorem noteSkew_ok {q : Kept} (p : Fin 64) (on : Bool) (s : State) (hok : Ok q s) (t_regs : ¬ q.fixed .regs := by assumption) (t_ports : ¬ q.fixed .ports := by assumption) (t_recorder : ¬ q.fixed .recorder := by assumption) : Ok q (noteSkew p on s) := by
  unfold noteSkew
  (repeat' first
    | with_reducible assumption
    | intro _
    | with_reducible apply State.count_ok
    | with_reducible apply record_ok
    | with_reducible apply State.modPwm_ok
    | with_reducible apply ok_ite
    | with_reducible apply ok_foldl
    | (extract_lets +onlyGivenNames x; refine (?_ : Ok q x → _) ?_; (intro _; clear_value x))
    | (extract_lets +onlyGivenNames f0; have z : (_ → _) := f0; clear z)
    | (extract_lets +onlyGivenNames x; clear_value x)
    | (extract_lets +onlyGivenNames x)
    | split
    | (unfold x)
    | (unfold f0)
    | (dsimp only)
    | assumption)

theorem landPort_ok {q : Kept} (p : Fin 64) (s : State) (hok : Ok q s) (t_regs : ¬ q.fixed .regs := by assumption) (t_inForce : ¬ q.fixed .inForce := by assumption) (t_written : ¬ q.fixed .written := by assumption) (t_ports : ¬ q.fixed .ports := by assumption) (t_cabs : ¬ q.fixed .cabs := by assumption) (t_recorder : ¬ q.fixed .recorder := by assumption) (t_out : ¬ q.fixed .out := by assumption) : Ok q (landPort p s) := by
  unfold landPort
  (repeat' first
    | with_reducible assumption
    | intro _
    | with_reducible apply State.modPwm_ok
    | with_reducible apply landEnableOf_ok
    | with_reducible apply applyShadow_ok
    | with_reducible apply noteSkew_ok
    | with_reducible apply ok_ite
    | with_reducible apply ok_foldl
    | (extract_lets +onlyGivenNames x; refine (?_ : Ok q x → _) ?_; (intro _; clear_value x))
    | (extract_lets +onlyGivenNames f0; have z : (_ → _) := f0; clear z)
    | (extract_lets +onlyGivenNames x; clear_value x)
    | (extract_lets +onlyGivenNames x)
    | split
    | (unfold x)
    | (unfold f0)
    | (dsimp only)
    | assumption)

theorem landFreeze_ok {q : Kept} (p : Fin 64) (s : State) (hok : Ok q s) (t_ports : ¬ q.fixed .ports := by assumption) : Ok q (landFreeze p s) := by
  unfold landFreeze
  (repeat' first
    | with_reducible assumption
    | intro _
    | with_reducible apply State.modGd_ok
    | with_reducible apply ok_ite
    | with_reducible apply ok_foldl
    | (extract_lets +onlyGivenNames x; refine (?_ : Ok q x → _) ?_; (intro _; clear_value x))
    | (extract_lets +onlyGivenNames f0; have z : (_ → _) := f0; clear z)
    | (extract_lets +onlyGivenNames x; clear_value x)
    | (extract_lets +onlyGivenNames x)
    | split
    | (unfold x)
    | (unfold f0)
    | (dsimp only)
    | assumption)

theorem armedToRun_ok {q : Kept} (a : Fin 32) (s : State) (hok : Ok q s) (t_regs : ¬ q.fixed .regs := by assumption) (t_axes : ¬ q.fixed .axes := by assumption) (t_ports : ¬ q.fixed .ports := by assumption) (t_engines : ¬ q.fixed .engines := by assumption) (t_cabs : ¬ q.fixed .cabs := by assumption) (t_recorder : ¬ q.fixed .recorder := by assumption) (t_out : ¬ q.fixed .out := by assumption) : Ok q (armedToRun a s) := by
  unfold armedToRun
  (repeat' first
    | with_reducible assumption
    | intro _
    | with_reducible apply State.setAxState_ok
    | with_reducible apply renewFaults_ok
    | with_reducible apply startObserver_ok
    | with_reducible apply startRun_ok
    | with_reducible apply ok_ite
    | with_reducible apply ok_foldl
    | (extract_lets +onlyGivenNames x; refine (?_ : Ok q x → _) ?_; (intro _; clear_value x))
    | (extract_lets +onlyGivenNames f0; have z : (_ → _) := f0; clear z)
    | (extract_lets +onlyGivenNames x; clear_value x)
    | (extract_lets +onlyGivenNames x)
    | split
    | (unfold x)
    | (unfold f0)
    | (dsimp only)
    | assumption)

theorem turnLate_ok {q : Kept} (t : Fin 4) (s : State) (hok : Ok q s) (t_late : ¬ q.fixed .late := by assumption) (t_written : ¬ q.fixed .written := by assumption) : Ok q (turnLate t s) := by
  unfold turnLate
  (repeat' first
    | with_reducible assumption
    | intro _
    | with_reducible apply State.setLate_ok
    | with_reducible apply State.setWritten_ok
    | with_reducible apply ok_ite
    | with_reducible apply ok_foldl
    | (extract_lets +onlyGivenNames x; refine (?_ : Ok q x → _) ?_; (intro _; clear_value x))
    | (extract_lets +onlyGivenNames f0; have z : (_ → _) := f0; clear z)
    | (extract_lets +onlyGivenNames x; clear_value x)
    | (extract_lets +onlyGivenNames x)
    | split
    | (unfold x)
    | (unfold f0)
    | (dsimp only)
    | assumption)

theorem landPorts_ok {q : Kept} (t : Fin 4) (s : State) (hok : Ok q s) (t_regs : ¬ q.fixed .regs := by assumption) (t_inForce : ¬ q.fixed .inForce := by assumption) (t_late : ¬ q.fixed .late := by assumption) (t_written : ¬ q.fixed .written := by assumption) (t_axes : ¬ q.fixed .axes := by assumption) (t_ports : ¬ q.fixed .ports := by assumption) (t_tiles : ¬ q.fixed .tiles := by assumption) (t_engines : ¬ q.fixed .engines := by assumption) (t_cabs : ¬ q.fixed .cabs := by assumption) (t_recorder : ¬ q.fixed .recorder := by assumption) (t_out : ¬ q.fixed .out := by assumption) : Ok q (landPorts t s) := by
  unfold landPorts
  (repeat' first
    | with_reducible assumption
    | intro _
    | with_reducible apply State.setBit_ok
    | with_reducible apply State.modTile_ok
    | with_reducible apply noteSkew_ok
    | with_reducible apply landPort_ok
    | with_reducible apply landFreeze_ok
    | with_reducible apply armedToRun_ok
    | with_reducible apply turnLate_ok
    | with_reducible apply ok_ite
    | with_reducible apply ok_foldl
    | (extract_lets +onlyGivenNames x; refine (?_ : Ok q x → _) ?_; (intro _; clear_value x))
    | (extract_lets +onlyGivenNames f0; have z : (_ → _) := f0; clear z)
    | (extract_lets +onlyGivenNames x; clear_value x)
    | (extract_lets +onlyGivenNames x)
    | split
    | (unfold x)
    | (unfold f0)
    | (dsimp only)
    | assumption)

theorem requestLoad_ok {q : Kept} (t : Fin 4) (at_ : Nat) (byTime : Bool) (s : State) (hok : Ok q s) (t_regs : ¬ q.fixed .regs := by assumption) (t_tiles : ¬ q.fixed .tiles := by assumption) (t_recorder : ¬ q.fixed .recorder := by assumption) : Ok q (requestLoad t at_ byTime s) := by
  unfold requestLoad
  (repeat' first
    | with_reducible assumption
    | intro _
    | with_reducible apply State.setBit_ok
    | with_reducible apply State.modTile_ok
    | with_reducible apply record_ok
    | with_reducible apply ok_ite
    | with_reducible apply ok_foldl
    | (extract_lets +onlyGivenNames x; refine (?_ : Ok q x → _) ?_; (intro _; clear_value x))
    | (extract_lets +onlyGivenNames f0; have z : (_ → _) := f0; clear z)
    | (extract_lets +onlyGivenNames x; clear_value x)
    | (extract_lets +onlyGivenNames x)
    | split
    | (unfold x)
    | (unfold f0)
    | (dsimp only)
    | assumption)

theorem countTrip_ok {q : Kept} (p : Fin 64) (s : State) (hok : Ok q s) (t_regs : ¬ q.fixed .regs := by assumption) (t_ports : ¬ q.fixed .ports := by assumption) : Ok q (countTrip p s) := by
  unfold countTrip
  (repeat' first
    | with_reducible assumption
    | intro _
    | with_reducible apply State.setFld_ok
    | with_reducible apply State.count_ok
    | with_reducible apply State.modPwm_ok
    | with_reducible apply ok_ite
    | with_reducible apply ok_foldl
    | (extract_lets +onlyGivenNames x; refine (?_ : Ok q x → _) ?_; (intro _; clear_value x))
    | (extract_lets +onlyGivenNames f0; have z : (_ → _) := f0; clear z)
    | (extract_lets +onlyGivenNames x; clear_value x)
    | (extract_lets +onlyGivenNames x)
    | split
    | (unfold x)
    | (unfold f0)
    | (dsimp only)
    | assumption)

theorem cycleTrip_ok {q : Kept} (p : Fin 64) (low : Bool) (raw : BitVec 15) (s : State) (hok : Ok q s) (t_regs : ¬ q.fixed .regs := by assumption) (t_ports : ¬ q.fixed .ports := by assumption) (t_tiles : ¬ q.fixed .tiles := by assumption) (t_recorder : ¬ q.fixed .recorder := by assumption) : Ok q (cycleTrip p low raw s) := by
  unfold cycleTrip
  (repeat' first
    | with_reducible assumption
    | intro _
    | with_reducible apply State.setBit_ok
    | with_reducible apply State.modLoop_ok
    | with_reducible apply pinChange_ok
    | with_reducible apply showComp_ok
    | with_reducible apply countTrip_ok
    | with_reducible apply ok_ite
    | with_reducible apply ok_foldl
    | (extract_lets +onlyGivenNames x; refine (?_ : Ok q x → _) ?_; (intro _; clear_value x))
    | (extract_lets +onlyGivenNames f0; have z : (_ → _) := f0; clear z)
    | (extract_lets +onlyGivenNames x; clear_value x)
    | (extract_lets +onlyGivenNames x)
    | split
    | (unfold x)
    | (unfold f0)
    | (dsimp only)
    | assumption)

theorem tripLatch_ok {q : Kept} (p : Fin 64) (s : State) (hok : Ok q s) (t_regs : ¬ q.fixed .regs := by assumption) (t_axes : ¬ q.fixed .axes := by assumption) (t_ports : ¬ q.fixed .ports := by assumption) (t_engines : ¬ q.fixed .engines := by assumption) (t_cabs : ¬ q.fixed .cabs := by assumption) (t_recorder : ¬ q.fixed .recorder := by assumption) (t_out : ¬ q.fixed .out := by assumption) : Ok q (tripLatch p s) := by
  unfold tripLatch
  (repeat' first
    | with_reducible assumption
    | intro _
    | with_reducible apply State.enterPort_ok
    | with_reducible apply raisePortFault_ok
    | with_reducible apply ok_ite
    | with_reducible apply ok_foldl
    | (extract_lets +onlyGivenNames x; refine (?_ : Ok q x → _) ?_; (intro _; clear_value x))
    | (extract_lets +onlyGivenNames f0; have z : (_ → _) := f0; clear z)
    | (extract_lets +onlyGivenNames x; clear_value x)
    | (extract_lets +onlyGivenNames x)
    | split
    | (unfold x)
    | (unfold f0)
    | (dsimp only)
    | assumption)

theorem tripClear_ok {q : Kept} (p : Fin 64) (s : State) (hok : Ok q s) (t_regs : ¬ q.fixed .regs := by assumption) : Ok q (tripClear p s) := by
  unfold tripClear
  (repeat' first
    | with_reducible assumption
    | intro _
    | with_reducible apply State.setFld_ok
    | with_reducible apply ok_ite
    | with_reducible apply ok_foldl
    | (extract_lets +onlyGivenNames x; refine (?_ : Ok q x → _) ?_; (intro _; clear_value x))
    | (extract_lets +onlyGivenNames f0; have z : (_ → _) := f0; clear z)
    | (extract_lets +onlyGivenNames x; clear_value x)
    | (extract_lets +onlyGivenNames x)
    | split
    | (unfold x)
    | (unfold f0)
    | (dsimp only)
    | assumption)

theorem endPinPeriod_ok {q : Kept} (p : Fin 64) (k : Nat) (s : State) (hok : Ok q s) (t_regs : ¬ q.fixed .regs := by assumption) (t_ports : ¬ q.fixed .ports := by assumption) : Ok q (endPinPeriod p k s) := by
  unfold endPinPeriod
  (repeat' first
    | with_reducible assumption
    | intro _
    | with_reducible apply State.count_ok
    | with_reducible apply State.modPwm_ok
    | with_reducible apply ok_ite
    | with_reducible apply ok_foldl
    | (extract_lets +onlyGivenNames x; refine (?_ : Ok q x → _) ?_; (intro _; clear_value x))
    | (extract_lets +onlyGivenNames f0; have z : (_ → _) := f0; clear z)
    | (extract_lets +onlyGivenNames x; clear_value x)
    | (extract_lets +onlyGivenNames x)
    | split
    | (unfold x)
    | (unfold f0)
    | (dsimp only)
    | assumption)

theorem carrierStart_ok {q : Kept} (p : Fin 64) (s : State) (hok : Ok q s) (t_regs : ¬ q.fixed .regs := by assumption) (t_ports : ¬ q.fixed .ports := by assumption) (t_recorder : ¬ q.fixed .recorder := by assumption) : Ok q (carrierStart p s) := by
  unfold carrierStart
  (repeat' first
    | with_reducible assumption
    | intro _
    | with_reducible apply State.setBit_ok
    | with_reducible apply State.modGd_ok
    | with_reducible apply pinChange_ok
    | with_reducible apply endPinPeriod_ok
    | with_reducible apply ok_ite
    | with_reducible apply ok_foldl
    | (extract_lets +onlyGivenNames x; refine (?_ : Ok q x → _) ?_; (intro _; clear_value x))
    | (extract_lets +onlyGivenNames f0; have z : (_ → _) := f0; clear z)
    | (extract_lets +onlyGivenNames x; clear_value x)
    | (extract_lets +onlyGivenNames x)
    | split
    | (unfold x)
    | (unfold f0)
    | (dsimp only)
    | assumption)

theorem portEvent_ok {q : Kept} (p : Fin 64) (code : Nat) (x : Nat) (s : State) (hok : Ok q s) (t_regs : ¬ q.fixed .regs := by assumption) (t_ports : ¬ q.fixed .ports := by assumption) : Ok q (portEvent p code x s) := by
  unfold portEvent
  (repeat' first
    | with_reducible assumption
    | intro _
    | with_reducible apply selectMask_ok
    | with_reducible apply ok_ite
    | with_reducible apply ok_foldl
    | (extract_lets +onlyGivenNames x; refine (?_ : Ok q x → _) ?_; (intro _; clear_value x))
    | (extract_lets +onlyGivenNames f0; have z : (_ → _) := f0; clear z)
    | (extract_lets +onlyGivenNames x; clear_value x)
    | (extract_lets +onlyGivenNames x)
    | split
    | (unfold x)
    | (unfold f0)
    | (dsimp only)
    | assumption)

theorem commutation_ok {q : Kept} (a : Fin 32) (code : Nat) (s : State) (hok : Ok q s) (t_regs : ¬ q.fixed .regs := by assumption) (t_axes : ¬ q.fixed .axes := by assumption) (t_ports : ¬ q.fixed .ports := by assumption) : Ok q (commutation a code s) := by
  unfold commutation
  split <;>
  (repeat' first
    | with_reducible assumption
    | intro _
    | with_reducible apply State.modObs_ok
    | with_reducible apply portEvent_ok
    | with_reducible apply ok_ite
    | with_reducible apply ok_foldl
    | (extract_lets +onlyGivenNames x; refine (?_ : Ok q x → _) ?_; (intro _; clear_value x))
    | (extract_lets +onlyGivenNames f0; have z : (_ → _) := f0; clear z)
    | (extract_lets +onlyGivenNames x; clear_value x)
    | (extract_lets +onlyGivenNames x)
    | split
    | (unfold x)
    | (unfold f0)
    | (dsimp only)
    | assumption)

end Sys2Proof.Machine
end

