-- ==== Sys2Proof/Laws/KeepEngineBus.lean ====
section
/-! SUPPORT. What the operations of Machine/EngineBus.lean keep (Laws/Keep.lean). -/

namespace Sys2Proof.Machine

set_option linter.unusedTactic false
set_option linter.unreachableTactic false
set_option linter.tactic.unusedName false
set_option linter.unusedVariables false

theorem engWrite_ok {q : Kept} (e : Fin 46) (a : Nat) (v : Word) (s : State) (hok : Ok q s) (t_regs : ¬ q.fixed .regs := by assumption) (t_late : ¬ q.fixed .late := by assumption) (t_written : ¬ q.fixed .written := by assumption) (t_held : ¬ q.fixed .held := by assumption) (t_axes : ¬ q.fixed .axes := by assumption) (t_ports : ¬ q.fixed .ports := by assumption) (t_tiles : ¬ q.fixed .tiles := by assumption) (t_engines : ¬ q.fixed .engines := by assumption) (t_encs : ¬ q.fixed .encs := by assumption) (t_vms : ¬ q.fixed .vms := by assumption) (t_cabs : ¬ q.fixed .cabs := by assumption) (t_recorder : ¬ q.fixed .recorder := by assumption) (t_dev : ¬ q.fixed .dev := by assumption) (t_out : ¬ q.fixed .out := by assumption) : Ok q (engWrite e a v s) := by
  unfold engWrite
  (repeat' first
    | with_reducible assumption
    | intro _
    | with_reducible apply State.modEng_ok
    | with_reducible apply lockViolation_ok
    | with_reducible apply busWrite_ok
    | with_reducible apply ok_ite
    | with_reducible apply ok_foldl
    | with_reducible apply okDo_ite
    | with_reducible apply ok_do
    | with_reducible exact ok_dostop
    | (extract_lets +onlyGivenNames x; refine (?_ : Ok q x → _) ?_; (intro _; clear_value x))
    | (extract_lets +onlyGivenNames f0; have z : (_ → _) := f0; clear z)
    | (extract_lets +onlyGivenNames x; clear_value x)
    | (extract_lets +onlyGivenNames x)
    | split
    | (unfold x)
    | (unfold f0)
    | (dsimp only)
    | assumption)

theorem landEngWrites_ok {q : Kept} (e : Fin 46) (s : State) (hok : Ok q s) (t_regs : ¬ q.fixed .regs := by assumption) (t_late : ¬ q.fixed .late := by assumption) (t_written : ¬ q.fixed .written := by assumption) (t_held : ¬ q.fixed .held := by assumption) (t_axes : ¬ q.fixed .axes := by assumption) (t_ports : ¬ q.fixed .ports := by assumption) (t_tiles : ¬ q.fixed .tiles := by assumption) (t_engines : ¬ q.fixed .engines := by assumption) (t_encs : ¬ q.fixed .encs := by assumption) (t_vms : ¬ q.fixed .vms := by assumption) (t_cabs : ¬ q.fixed .cabs := by assumption) (t_recorder : ¬ q.fixed .recorder := by assumption) (t_dev : ¬ q.fixed .dev := by assumption) (t_out : ¬ q.fixed .out := by assumption) : Ok q (landEngWrites e s) := by
  unfold landEngWrites
  (repeat' first
    | with_reducible assumption
    | intro _
    | with_reducible apply State.modEng_ok
    | with_reducible apply busWrite_ok
    | with_reducible apply ok_ite
    | with_reducible apply ok_foldl
    | with_reducible apply okDo_ite
    | with_reducible apply ok_do
    | with_reducible exact ok_dostop
    | (extract_lets +onlyGivenNames x; refine (?_ : Ok q x → _) ?_; (intro _; clear_value x))
    | (extract_lets +onlyGivenNames f0; have z : (_ → _) := f0; clear z)
    | (extract_lets +onlyGivenNames x; clear_value x)
    | (extract_lets +onlyGivenNames x)
    | split
    | (unfold x)
    | (unfold f0)
    | (dsimp only)
    | assumption)

theorem postWrites_ok {q : Kept} (e : Fin 46) (len : Nat) (n : Nat) (s : State) (hok : Ok q s) (t_engines : ¬ q.fixed .engines := by assumption) : Ok q (postWrites e len n s) := by
  induction n generalizing s with
  | zero =>
      unfold postWrites
      (repeat' first
        | with_reducible assumption
        | intro _
        | with_reducible apply State.modEng_ok
        | with_reducible apply ok_ite
        | with_reducible apply ok_foldl
        | with_reducible apply okDo_ite
        | with_reducible apply ok_do
        | with_reducible exact ok_dostop
        | (extract_lets +onlyGivenNames x; refine (?_ : Ok q x → _) ?_; (intro _; clear_value x))
        | (extract_lets +onlyGivenNames f0; have z : (_ → _) := f0; clear z)
        | (extract_lets +onlyGivenNames x; clear_value x)
        | (extract_lets +onlyGivenNames x)
        | split
        | (unfold x)
        | (unfold f0)
        | (dsimp only)
        | assumption)
  | succ n ih =>
      unfold postWrites
      (repeat' first
        | with_reducible assumption
        | intro _
        | with_reducible apply State.modEng_ok
        | apply ih
        | with_reducible apply ok_ite
        | with_reducible apply ok_foldl
        | with_reducible apply okDo_ite
        | with_reducible apply ok_do
        | with_reducible exact ok_dostop
        | (extract_lets +onlyGivenNames x; refine (?_ : Ok q x → _) ?_; (intro _; clear_value x))
        | (extract_lets +onlyGivenNames f0; have z : (_ → _) := f0; clear z)
        | (extract_lets +onlyGivenNames x; clear_value x)
        | (extract_lets +onlyGivenNames x)
        | split
        | (unfold x)
        | (unfold f0)
        | (dsimp only)
        | assumption)

theorem execAbrd_ok {q : Kept} (e : Fin 46) (d a : Fin 16) (imm : BitVec 18) (cross : Nat) (lost : Bool) (s : State) (hok : Ok q s) (t_regs : ¬ q.fixed .regs := by assumption) (t_axes : ¬ q.fixed .axes := by assumption) (t_ports : ¬ q.fixed .ports := by assumption) (t_engines : ¬ q.fixed .engines := by assumption) (t_cabs : ¬ q.fixed .cabs := by assumption) (t_recorder : ¬ q.fixed .recorder := by assumption) (t_out : ¬ q.fixed .out := by assumption) : OkOut q (execAbrd e d a imm cross lost s) := by
  unfold execAbrd
  (repeat' first
    | with_reducible assumption
    | intro _
    | with_reducible apply regAbort_ok
    | with_reducible apply engExec_ok
    | with_reducible apply State.setK_ok
    | with_reducible apply settleFor_ok
    | with_reducible apply ok_ite
    | with_reducible apply ok_foldl
    | with_reducible apply okDo_ite
    | with_reducible apply ok_do
    | with_reducible exact ok_dostop
    | with_reducible apply ok_next
    | (extract_lets +onlyGivenNames x; refine (?_ : Ok q x → _) ?_; (intro _; clear_value x))
    | (extract_lets +onlyGivenNames f0; have z : (_ → _) := f0; clear z)
    | (extract_lets +onlyGivenNames x; clear_value x)
    | (extract_lets +onlyGivenNames x)
    | split
    | (unfold x)
    | (unfold f0)
    | (dsimp only)
    | assumption)

theorem execAbrdp_ok {q : Kept} (e : Fin 46) (d a : Fin 16) (imm : BitVec 18) (cross : Nat) (lost : Bool) (s : State) (hok : Ok q s) (t_regs : ¬ q.fixed .regs := by assumption) (t_axes : ¬ q.fixed .axes := by assumption) (t_ports : ¬ q.fixed .ports := by assumption) (t_engines : ¬ q.fixed .engines := by assumption) (t_cabs : ¬ q.fixed .cabs := by assumption) (t_recorder : ¬ q.fixed .recorder := by assumption) (t_out : ¬ q.fixed .out := by assumption) : OkOut q (execAbrdp e d a imm cross lost s) := by
  unfold execAbrdp
  (repeat' first
    | with_reducible assumption
    | intro _
    | with_reducible apply regAbort_ok
    | with_reducible apply engExec_ok
    | with_reducible apply State.setK_ok
    | with_reducible apply settleFor_ok
    | with_reducible apply ok_ite
    | with_reducible apply ok_foldl
    | with_reducible apply okDo_ite
    | with_reducible apply ok_do
    | with_reducible exact ok_dostop
    | with_reducible apply ok_next
    | (extract_lets +onlyGivenNames x; refine (?_ : Ok q x → _) ?_; (intro _; clear_value x))
    | (extract_lets +onlyGivenNames f0; have z : (_ → _) := f0; clear z)
    | (extract_lets +onlyGivenNames x; clear_value x)
    | (extract_lets +onlyGivenNames x)
    | split
    | (unfold x)
    | (unfold f0)
    | (dsimp only)
    | assumption)

theorem execAbwr_ok {q : Kept} (e : Fin 46) (d a : Fin 16) (imm : BitVec 18) (cross : Nat) (lost : Bool) (s : State) (hok : Ok q s) (t_regs : ¬ q.fixed .regs := by assumption) (t_late : ¬ q.fixed .late := by assumption) (t_written : ¬ q.fixed .written := by assumption) (t_held : ¬ q.fixed .held := by assumption) (t_axes : ¬ q.fixed .axes := by assumption) (t_ports : ¬ q.fixed .ports := by assumption) (t_tiles : ¬ q.fixed .tiles := by assumption) (t_engines : ¬ q.fixed .engines := by assumption) (t_encs : ¬ q.fixed .encs := by assumption) (t_vms : ¬ q.fixed .vms := by assumption) (t_cabs : ¬ q.fixed .cabs := by assumption) (t_recorder : ¬ q.fixed .recorder := by assumption) (t_dev : ¬ q.fixed .dev := by assumption) (t_out : ¬ q.fixed .out := by assumption) : OkOut q (execAbwr e d a imm cross lost s) := by
  unfold execAbwr
  (repeat' first
    | with_reducible assumption
    | intro _
    | with_reducible apply regAbort_ok
    | with_reducible apply engExec_ok
    | with_reducible apply engWrite_ok
    | with_reducible apply postWrites_ok
    | with_reducible apply ok_ite
    | with_reducible apply ok_foldl
    | with_reducible apply okDo_ite
    | with_reducible apply ok_do
    | with_reducible exact ok_dostop
    | with_reducible apply ok_next
    | (extract_lets +onlyGivenNames x; refine (?_ : Ok q x → _) ?_; (intro _; clear_value x))
    | (extract_lets +onlyGivenNames f0; have z : (_ → _) := f0; clear z)
    | (extract_lets +onlyGivenNames x; clear_value x)
    | (extract_lets +onlyGivenNames x)
    | split
    | (unfold x)
    | (unfold f0)
    | (dsimp only)
    | assumption)

theorem execAbwrp_ok {q : Kept} (e : Fin 46) (d a : Fin 16) (imm : BitVec 18) (cross : Nat) (lost : Bool) (s : State) (hok : Ok q s) (t_regs : ¬ q.fixed .regs := by assumption) (t_late : ¬ q.fixed .late := by assumption) (t_written : ¬ q.fixed .written := by assumption) (t_held : ¬ q.fixed .held := by assumption) (t_axes : ¬ q.fixed .axes := by assumption) (t_ports : ¬ q.fixed .ports := by assumption) (t_tiles : ¬ q.fixed .tiles := by assumption) (t_engines : ¬ q.fixed .engines := by assumption) (t_encs : ¬ q.fixed .encs := by assumption) (t_vms : ¬ q.fixed .vms := by assumption) (t_cabs : ¬ q.fixed .cabs := by assumption) (t_recorder : ¬ q.fixed .recorder := by assumption) (t_dev : ¬ q.fixed .dev := by assumption) (t_out : ¬ q.fixed .out := by assumption) : OkOut q (execAbwrp e d a imm cross lost s) := by
  unfold execAbwrp
  (repeat' first
    | with_reducible assumption
    | intro _
    | with_reducible apply regAbort_ok
    | with_reducible apply engExec_ok
    | with_reducible apply engWrite_ok
    | with_reducible apply postWrites_ok
    | with_reducible apply ok_ite
    | with_reducible apply ok_foldl
    | with_reducible apply okDo_ite
    | with_reducible apply ok_do
    | with_reducible exact ok_dostop
    | with_reducible apply ok_next
    | (extract_lets +onlyGivenNames x; refine (?_ : Ok q x → _) ?_; (intro _; clear_value x))
    | (extract_lets +onlyGivenNames f0; have z : (_ → _) := f0; clear z)
    | (extract_lets +onlyGivenNames x; clear_value x)
    | (extract_lets +onlyGivenNames x)
    | split
    | (unfold x)
    | (unfold f0)
    | (dsimp only)
    | assumption)

end Sys2Proof.Machine
end

