-- ==== Sys2Proof/WellFormed.lean ====
section
/-! DEFINITION. Which commands are well formed: operands within the widths and the counts that the manual gives them. -/

namespace Sys2Proof

/-- A descriptor of an opcode after the checks of its header (R232, R233): the fields in their widths, a target of its kind, an
image only beside PROG_LOAD, no result lost and no cabinet reset yet. -/
def Desc.wf (d : Desc) (op : Nat) : Bool :=
  d.opcode == op && decide (d.tag < 2 ^ 16) && (d.ver == 1 || d.ver == 2) && !d.unconfirmed && !d.muted && (op == 0x31 || d.image == []) &&
  match d.kind with
  | 0 => decide (d.target < 32)
  | 1 => decide (d.target < 64)
  | 2 => decide (d.target < 4)
  | _ => false

/-- A 14-bit two's complement code (R184). -/
def codeOk (x : Int) : Bool := decide (-8192 ≤ x) && decide (x < 8192)

/-- A node voltage in mV as a converter of 15.625 mV per code can show it (R116, R184). -/
def nodeOk (x : Int) : Bool := decide (-128000 ≤ x) && decide (x < 128000)

/-- What is sampled at a port in a period: 3 clocks before and 8 samples of window and burst, 4 bridge reads, ten comparators
(R174, R186, R193). -/
def PortIn.wf (x : PortIn) : Bool :=
  x.window.length == 11 && x.burst.length == 11 && x.bridge.length == 4 && x.bridge.all (fun r => r.length == 4) && x.comps.length == 10

/-- A pair of conversions of the shared channel, by X and by Y. -/
def pairOk (p : Intake × Intake) : Bool := p.1.length == 4 && p.2.length == 4

/-- What a tile samples in a period: 16 ports, 4 shared pairs and the 2 repeats of a mismatch, bandgaps, axes 0–7 (R186, R196,
R197, R297). -/
def TileIn.wf (x : TileIn) : Bool :=
  x.ports.length == 16 && x.ports.all PortIn.wf && x.vbus.length == 4 && x.again.length == 2 && x.vbus.all pairOk &&
  x.again.all pairOk && codeOk x.bandgap.1 && codeOk x.bandgap.2 && x.differs.all fun d => decide (d.1 < 8)

/-- A 32-bit register of the 8 MiB window BAR0 (R222, R251). -/
def regAddrOk (a : Nat) : Bool := a % 4 == 0 && decide (a < 0x800000)

/-- A signed byte. -/
def byteI (x : Int) : Bool := decide (-128 ≤ x) && decide (x < 128)

/-- The header of a line frame (R33). -/
def LineHdr.wf (h : LineHdr) : Bool :=
  decide (h.ver < 256) && decide (h.seg < 2 ^ 16) && decide (h.src < 64) && decide (h.seq < 2 ^ 16) && decide (h.time < 2 ^ 64)

/-- The payload of a heartbeat (R34). -/
def Heartbeat.wf (b : Heartbeat) : Bool :=
  decide (b.maxVer < 256) && decide (b.quality < 256) && decide (b.epoch < 2 ^ 64) && b.modes.length == 4 &&
  b.modes.all (fun m => decide (m < 256)) && decide (b.reqId < 2 ^ 16) && decide (b.orig < 256) && decide (b.flags < 256)

/-- An entry of a virtual-master frame (R37). -/
def VmEntry.wf (e : VmEntry) : Bool :=
  decide (e.chan < 16) && decide (e.tq < 4) && decide (e.seq < 2 ^ 16) && decide (e.time < 2 ^ 64) &&
  decide (-(2 ^ 63) ≤ e.pos) && decide (e.pos < 2 ^ 63)

/-- Request identifier and originator of a mode frame (R43). -/
def modeReqOk (req orig : Nat) : Bool := decide (req < 2 ^ 16) && decide (orig < 256)

/-- The header of an image has 128 bytes (R278). -/
def BootImage.wf (f : BootImage) : Bool := f.head.length == 128

/-- Pages of an image are read by its checks 1 to 5 (R279). -/
def pagesOk (l : PageReads) : Bool := l.all fun r => decide (1 ≤ r.1) && decide (r.1 ≤ 5)

/-- The size in bytes of a host write that PCI Express allows. -/
def sizeOk (n : Nat) : Bool := decide (1 ≤ n) && decide (n ≤ 4096)

/-- A write of a register: anywhere in BAR0 and of any size by a host function, an aligned word by an engine (R211, R222, R251). -/
def barWriteOk (w : Writer) (a size : Nat) : Bool :=
  match w with
  | .host _ => decide (a < 0x800000) && sizeOk size
  | .engine _ => regAddrOk a && size == 4

/-- A scan misreads a segment by a difference that is not 0 (R266). -/
def misreadOk (l : List (Fin 4 × Nat × Word)) : Bool := l.all fun x => decide (x.2.1 < 5) && x.2.2 != 0

/-- A command is well formed. -/
def Instr.wf (i : Instr) : Bool :=
  match i with
  | .nop d => d.wf 0x00
  | .move d => d.wf 0x01
  | .velocity d => d.wf 0x02
  | .stop d => d.wf 0x03
  | .estop d => d.wf 0x04
  | .setPos d => d.wf 0x05
  | .setParam d => d.wf 0x06
  | .gearEngage d => d.wf 0x10
  | .gearArm d => d.wf 0x11
  | .gearRelease d => d.wf 0x12
  | .home d => d.wf 0x13
  | .followStep d => d.wf 0x14
  | .modePrepare d => d.wf 0x20
  | .modeCommit d => d.wf 0x21
  | .migrate d => d.wf 0x30
  | .progLoad d => d.wf 0x31
  | .progSwap d => d.wf 0x32
  | .diagOffstate d => d.wf 0x40
  | .adcCal d => d.wf 0x41
  | .traceStart d => d.wf 0x42
  | .traceStop d => d.wf 0x43
  | .recQuery d => d.wf 0x44
  | .recFlush d => d.wf 0x45
  | .cfgCommit d => d.wf 0x50
  | .doorbellWrite _ _ off _ size => decide (off < 4096) && sizeOk size
  | .msixVectorUnmask _ _ off _ size => decide (off < 8192) && sizeOk size
  | .fetchComplete _ _ _ ds _ => decide (ds.length ≤ 8)
  | .registerWrite _ w a _ size => barWriteOk w a size
  | .recoveryImageChecked _ f => f.wf
  | .fwupComplete _ f _ reads => f.wf && pagesOk reads
  | .idAccDone _ _ tries => decide (tries.length ≤ 3)
  | .tileBoundary _ _ inp => inp.wf
  | .syncReceive x => decide (x.seq < 2 ^ 16) && decide (x.domain < 256) && decide (x.src < 2 ^ 64) && byteI x.logIvl
  | .announceReceive _ _ seq domain _ logIvl => decide (seq < 2 ^ 16) && decide (domain < 256) && byteI logIvl
  | .heartbeatReceive _ _ h b => h.wf && b.wf
  | .heartbeatTimeout _ src => decide (src < 64)
  | .vmSamplesReceive _ _ h es => h.wf && decide (1 ≤ es.length) && decide (es.length ≤ 8) && es.all VmEntry.wf
  | .modePrepareFrame _ _ h req orig mode lc dl => h.wf && modeReqOk req orig && decide (mode < 256) && decide (lc < 2 ^ 64) && decide (dl < 2 ^ 64)
  | .modeAckFrame _ _ h req orig result => h.wf && modeReqOk req orig && decide (result < 256)
  | .modeDecisionFrame _ _ h req orig decision => h.wf && modeReqOk req orig && decide (decision < 256)
  | .commutationEvent _ _ code => decide (code < 7)
  | .diagStepEnd _ _ va vb => nodeOk va && nodeOk vb
  | .seqEntryTrigger _ _ _ _ raw => raw.length == 4
  | .calSlotEnd _ _ _ _ _ bg => codeOk bg
  | .fgcalEnd _ _ _ cal bg => decide (cal.length ≤ 16) && codeOk bg
  | .journalEccError _ off _ _ => decide (off < 2 ^ 32)
  | .imageChecked _ _ _ a b readsA readsB => a.wf && b.wf && pagesOk readsA && pagesOk readsB
  | .exportEntry _ _ _ bad _ => match bad with | some l => l.length == 32 | none => true
  | .identityReadDone _ _ _ tries _ => decide (tries.length ≤ 3)
  | .privetScanEnd _ _ ups misread => (ups.all fun u => regAddrOk u.addr) && misreadOk misread
  | .rescanEnd _ ups misread => (ups.all fun u => regAddrOk u.addr) && misreadOk misread
  | .paritySweep _ _ ups => ups.all fun u => regAddrOk u.addr
  | .ssiFrame _ _ raw _ _ => decide (raw < 2 ^ 32)
  | .injectedConversionDone _ _ _ raw => raw.length == 4
  | .delayResponseReceive _ _ _ domain _ _ _ _ _ => decide (domain < 256)
  | .pcieLinkUp _ _ width speed _ => decide (width < 32) && decide (speed < 16)
  | .doorbellMergeTake .. | .descriptorFetch .. | .hostReadRetry .. | .descriptorAccept .. | .descriptorRoute ..
  | .msixModerationExpiry .. | .ringEnable .. | .ringDisable .. | .ringDrainEnd .. | .cabinetWdogKick ..
  | .cabinetWdogExpiry .. | .functionLevelReset .. | .d3hotEntry .. | .hotReset .. | .traceCapture .. | .crossingAttemptFail ..
  | .mpCmdPosWrite .. | .loadAll .. | .adcInjGo .. | .adcInjCmpTrigger .. | .cmpWchkReq .. | .engHostevSet .. | .glbRecovGo ..
  | .glbFwupGo .. | .recRdGo .. | .recRdLookupDone .. | .idAccGo .. | .globalLock .. | .cfgLock .. | .cfgXbarCommit ..
  | .encModeWrite .. | .armed .. | .precopyEnd .. | .missedResults .. | .missedResultsHold .. | .periodStrobe ..
  | .strobeLossFault .. | .pathDelayEcho .. | .syncTimeout .. | .announceTimeout .. | .holdoverLimit .. | .deferredStep ..
  | .frameForward .. | .heartbeatTx .. | .ringKeeperOpen .. | .vmStale .. | .grMasterLost .. | .publishSample ..
  | .ackDeadline .. | .commitDeadline .. | .decisionRepeat .. | .modeUndecided .. | .modeOutcome .. | .stepPulse ..
  | .homeInputChange .. | .limitHit .. | .homingTimeout .. | .stall .. | .obSlip .. | .weak .. | .estimateTimeout ..
  | .crOverrange .. | .crNosample .. | .carrierStart .. | .cycleTrip .. | .pwmTripLatch .. | .tripCntClear ..
  | .switchNodeCrossing .. | .gdAdaptLim .. | .bootstrapLow .. | .refreshPulse .. | .refreshFailLockout .. | .uvloEntry ..
  | .uvloExit .. | .gdBootUv .. | .hardShort .. | .desaturation .. | .selfCheckStepEnd .. | .window .. | .adcLost ..
  | .forcedYield .. | .engWdog .. | .waitTimeout .. | .engNop .. | .add .. | .sub .. | .and .. | .or .. | .xor .. | .shl ..
  | .shr .. | .sar .. | .mul .. | .mulh .. | .div .. | .rem .. | .sltu .. | .addi .. | .andi .. | .ori .. | .xori .. | .shli ..
  | .shri .. | .sari .. | .lui .. | .ld .. | .st .. | .beq .. | .bne .. | .blt .. | .bge .. | .bltu .. | .bgeu .. | .jmp ..
  | .call .. | .ret .. | .abrd .. | .abwr .. | .abrdp .. | .abwrp .. | .wait .. | .yield .. | .arm .. | .emit .. | .cmd ..
  | .time .. | .signal .. | .react .. | .verdict .. | .halt .. | .recordCandidate .. | .recorderFilterRun .. | .lostEvents ..
  | .flushStart .. | .flushEnd .. | .pfailFall .. | .pfailRise .. | .rtcSet .. | .vbakLow ..
  | .powerOnTimer .. | .resetNFall .. | .supplyLoss .. | .vholdLow .. | .inventoryDone .. | .diagStateEnd .. | .reactionLand ..
  | .faultReport .. | .episodeEnd .. | .slotHwFault .. | .preventiveRepair .. | .supervisorFault .. | .hostCrit ..
  | .recCrit .. | .encZEdge .. | .encSignalError .. | .encFaultClear .. | .netPortSelfTestFail .. | .limitInactive ..
  | .quadratureEdge .. | .networkLinkChange .. | .undefinedOpcode .. | .spareFillEnd .. => true

end Sys2Proof
end

