-- ==== Sys2Proof/Tests/Slice0.lean ====
section
/-! SUPPORT. Tests of the model: ill-formed commands that WellFormed refuses, the words of the spec's worked example (spec/12_engines.md)
as the engine commands they stand for, single steps with results the spec gives, and for every statement with hypotheses a state and
operands that meet them. -/

set_option Elab.async false
set_option linter.unusedVariables false
set_option linter.unusedTactic false
set_option linter.unreachableTactic false

open Sys2Proof Sys2Proof.Machine
namespace Sys2Proof.Tests

/-! ## States and operands that meet the hypotheses of the statements -/

/-- Registers of the reset state set to values, with the device in RUN. -/
def regsOn (l : List (Nat × Fld × Nat)) : State :=
  l.foldl (fun s x => s.setFld x.1 x.2.1 x.2.2) (State.reset.setFld GLB_STATE GLB_STATE_STATE dRUN)

/-- The same with the device in another state. -/
def inState (st : Nat) (l : List (Nat × Fld × Nat)) : State := (regsOn l).setFld GLB_STATE GLB_STATE_STATE st

/-- A payload with bytes at offsets. -/
def pb (l : List (Nat × Nat)) : Payload := Vector.ofFn fun i => BitVec.ofNat 8 ((l.lookup i.1).getD 0)

/-- A descriptor of cabinet 0 for a target, over ring 0 with completions on ring 1. -/
def dsc (kind target op : Nat) (l : List (Nat × Nat)) : Desc :=
  ⟨0, 0, 1, 0, 1, 7, false, 0, kind, target, op, none, false, false, [], pb l⟩

/-- A descriptor for axis 31. -/
def dAx (op : Nat) (l : List (Nat × Nat)) : Desc := dsc 0 31 op l

/-- A descriptor for cabinet 0. -/
def dCab (op : Nat) (l : List (Nat × Nat)) : Desc := dsc 2 0 op l

/-- Ring 15 of cabinet 3 is an active command ring of 64 entries. -/
def ringOn (s : State) : State :=
  ((s.setFld (HIF_RING_STAT 3 15) HIF_RING_STAT_STATE rACTIVE).setFld (HIF_RING_CFG 3 15) HIF_RING_CFG_SIZE 6).setFld
    (HIF_RING_CFG 3 15) HIF_RING_CFG_TYPE 0

/-- Engine `e` in a run at the first word of its active image. -/
def engAt (e : Fin 46) (ws : List Word) (f : Engine → Engine) : State :=
  ((regsOn [(ENG_STAT e, ENG_STAT_STATE, 1)]).modEng e fun x =>
    { x with running := true, img := x.img.set 0 ⟨true, 1, ws, 0, []⟩ }).modEng e f

theorem bus_host (s : State) (c : Fin 4) (a : Nat) :
    s.mayBus (.host c) a ↔ s.owns (.host c) a = true ∧ s.hostMayWrite a = some true :=
  ⟨fun h => ⟨h.1, h.2 c rfl⟩, fun h => ⟨h.1, fun c' e => by cases e; exact h.2⟩⟩

theorem bus_engine (s : State) (e : Fin 46) (a : Nat) : s.mayBus (.engine e) a ↔ s.owns (.engine e) a = true :=
  ⟨fun h => h.1, fun h => ⟨h, fun _ e => by cases e⟩⟩

theorem ring_both (s : State) (c : Fin 4) (n : Fin 16) (sev : Nat)
  (h : s.fld (HIF_CAB_CTRL c) HIF_CAB_CTRL_EVRING_F = n.1 ∧ s.fld (HIF_CAB_CTRL c) HIF_CAB_CTRL_EVRING = n.1 ∧
    finRing n.1 = n ∧ s.rIs c n 2 = true) : s.eventRing c sev = some n := by
  unfold State.eventRing; dsimp only; rw [h.1, h.2.1, h.2.2.1, h.2.2.2]; split <;> simp

/-- Both network ports enabled, clock profile 1, and the network state changed by a function. -/
def linked (l : List (Nat × Fld × Nat)) (f : Net → Net) : State :=
  (regsOn ([(NET_CTRL, NET_CTRL_PROFILE, 1), (NET_PORT_CTRL 0, NET_PORT_CTRL_EN, 1),
    (NET_PORT_CTRL 1, NET_PORT_CTRL_EN, 1)] ++ l)).modNet f

def heard (x : LineHdr) : HbSource := ⟨x.src, 0, 5, 6, 2, 2, 0, 0, [], 0, 0, 0, 0, true⟩

def hdr (src : Nat) : LineHdr := ⟨2, 0, src, 0, 0⟩

/-- Axis 31 at rest at position 0 in STANDSTILL. -/
def still : State := (regsOn [(MP_STAT 31, MP_STAT_STATE, axSTANDSTILL)]).modProf 31 fun x =>
  { x with base := some ⟨⟨0, 0, 0⟩, false, false, 0⟩ }

def running (p : Fin 64) : State := (regsOn []).setPortState p pRUN

def cand (p sev : Nat) : Record := ⟨.num 0x9000, sev, 0, 4, 31, 0, 0, 0, [p], 0, [], false⟩

def recAt (l : List (Nat × Fld × Nat)) (f : Recorder → Recorder) : State := (regsOn l).modRec f

/-- Port 63 in RUN with its pins followed up to 1 ms. -/
def pinned (f : Pwm → Pwm) : State := (running 63).modPwm 63 fun w => f { w with pinAt := 1000000 }

theorem test_meets_EmptyQueueIdles_0 :
    ∃ (s : State), s.pending = [] :=
  ⟨regsOn [], by decide +kernel⟩

theorem test_meets_EveryStepKeepsTheState_0 :
    ∃ (s : State) (t : State), s.wf ∧ step s = .next t :=
  ⟨State.reset, State.reset, by exact ⟨⟨by decide +kernel, by decide +kernel, by decide +kernel⟩, rfl⟩⟩

theorem test_meets_CommandsTouchOnlyTheirParts_0 :
    ∃ (c : Instr) (s : State) (t : State), exec c s = .next t :=
  ⟨.nop (dAx 0 []), regsOn [], _, by exact rfl⟩

theorem test_meets_DoorbellsAreTakenOrDropped_0 :
    ∃ (s : State) (t : Nat) (c : Fin 4) (n : Fin 16) (v : Word), s.hostUp = true ∧ (s.cab c).dbHeld = [] ∧ (∀ l,
    (s.cab c).dbLast = some l → l + 500 ≤ (s.reach t).up) ∧ v.toNat < 8192 ∧ s.doorbellOk c n v.toNat = true :=
  ⟨ringOn (regsOn []), 0, 3, 15, 64,
  by and_intros <;> first | decide +kernel | exact fun _ h => absurd h (by decide +kernel)⟩

theorem test_meets_DoorbellsAreTakenOrDropped_1 :
    ∃ (s : State) (t : Nat) (c : Fin 4) (n : Fin 16) (v : Word), s.hostUp = true ∧ (s.cab c).dbHeld = [] ∧ (∀ l,
    (s.cab c).dbLast = some l → l + 500 ≤ (s.reach t).up) ∧ ¬(v.toNat < 8192 ∧ s.doorbellOk c n v.toNat = true) :=
  ⟨ringOn (regsOn []), 0, 3, 15, 65,
  by and_intros <;> first | decide +kernel | exact fun _ h => absurd h (by decide +kernel)⟩

theorem test_meets_DoorbellsAreTakenOrDropped_2 :
    ∃ (s : State) (t : Nat) (c : Fin 4) (n : Fin 16) (v : Word), s.hostUp = true :=
  ⟨ringOn (regsOn []), 0, 3, 15, 65, by decide +kernel⟩

theorem test_meets_DoorbellsAreTakenOrDropped_3 :
    ∃ (s : State) (t : Nat) (c : Fin 4) (n : Fin 16) (v : Word) (off : _), s.hostUp = true ∧ off ≠ 0x800 ∧ (128 ≤ off
    ∨ off % 8 ≠ 0) :=
  ⟨ringOn (regsOn []), 0, 3, 15, 65, 128, by decide +kernel⟩

theorem test_meets_DoorbellsAreTakenOrDropped_4 :
    ∃ (s : State) (t : Nat) (c : Fin 4) (off : Nat) (v : Word) (size : Nat), s.hostUp = true ∧ size ≠ 4 :=
  ⟨ringOn (regsOn []), 0, 3, 0, 65, 0, by decide +kernel⟩

theorem test_meets_DoorbellsAreTakenOrDropped_5 :
    ∃ (s : State) (t : Nat) (c : Fin 4) (off : Nat) (v : Word) (size : Nat), s.hostUp = false :=
  ⟨inState dBOOT [], 0, 3, 0, 65, 0, by decide +kernel⟩

theorem test_meets_DoorbellsAreTakenOrDropped_6 :
    ∃ (s : State) (t : Nat) (c : Fin 4) (n : Fin 16) (v : Word) (l : Nat), s.hostUp = true ∧ (s.cab c).dbLast = some l
    ∧ (s.reach t).up < l + 500 :=
  ⟨(ringOn (regsOn [])).modCab 3 fun x => { x with dbLast := some 10 }, 509, 3, 15, 65, 10, by decide +kernel⟩

theorem test_meets_DoorbellsAreTakenOrDropped_7 :
    ∃ (s : State) (t : Nat) (c : Fin 4) (n : Fin 16) (v : Nat) (l : Nat), (s.cab c).dbLast = some l ∧ l + 500 ≤
    (s.reach t).up ∧ (s.cab c).dbHeld = [(n.1, v)] ∧ v < 8192 ∧ s.doorbellOk c n v = true :=
  ⟨(ringOn (regsOn [])).modCab 3 fun x => { x with dbLast := some 10, dbHeld := [(15, 64)] }, 510, 3, 15, 64, 10,
  by decide +kernel⟩

theorem test_meets_FetchesReadDescriptorsInOrder_0 :
    ∃ (s : State) (t : Nat) (c : Fin 4) (n : Fin 16) (k : Nat), k = min (8 - (s.ring c n).fetched.length) (min
    ((s.rHost c n + 2 * s.rSize c n - (s.ring c n).fetchIdx) % (2 * s.rSize c n)) (s.rSize c n - (s.ring c n).fetchIdx
    % s.rSize c n)) ∧ s.rIs c n 0 = true ∧ (s.ring c n).fetching = none ∧ k ≠ 0 :=
  ⟨(ringOn (regsOn [])).setFld (HIF_RING_HOST 3 15) HIF_RING_HOST_IDX 1, 0, 3, 15, 1, by decide +kernel⟩

theorem test_meets_FetchesReadDescriptorsInOrder_1 :
    ∃ (s : State) (t : Nat) (c : Fin 4) (n : Fin 16) (ds : List (Vector Byte 64)) (image : List Byte) (u : Nat) (k :
    Nat), (s.ring c n).fetching = some (ds.length, u, k) :=
  ⟨(ringOn (regsOn [])).modRing 3 15 fun r => { r with fetching := some (1, 0, 3) }, 0, 3, 15, [Vector.replicate 64
  0], [], 0, 3, by decide +kernel⟩

theorem test_meets_FetchesReadDescriptorsInOrder_2 :
    ∃ (s : State) (t : Nat) (c : Fin 4) (n : Fin 16) (ds : List (Vector Byte 64)) (image : List Byte) (k : Nat),
    (s.ring c n).fetching = none ∧ (s.ring c n).imgRead = some k :=
  ⟨(ringOn (regsOn [])).modRing 3 15 fun r => { r with imgRead := some 3 }, 0, 3, 15, [], [], 3, by decide +kernel⟩

theorem test_meets_FetchesReadDescriptorsInOrder_3 :
    ∃ (s : State) (t : Nat) (c : Fin 4) (n : Fin 16) (o : Out) (tries : Nat), ((∃ k u, (s.ring c n).fetching = some
    (k, u, tries) ∧ o = .read c n (s.rBase c n + 64 * ((s.ring c n).fetchIdx % s.rSize c n)) (64 * k)) ∨ ∃ r rest,
    (s.ring c n).fetching = none ∧ (s.ring c n).imgRead = some tries ∧ (s.ring c n).fetched = r :: rest ∧ o =
    .imageRead c (pay64 (s.descOf c n r).payload 8) (pay32 (s.descOf c n r).payload 16)) ∧ tries < 3 :=
  ⟨(ringOn (regsOn [])).modRing 3 15 fun r => { r with fetching := some (1, 0, 2) }, 0, 3, 15, .read 3 15 0 64, 2,
  by exact ⟨Or.inl ⟨1, 0, by decide +kernel, by decide +kernel⟩, by decide +kernel⟩⟩

theorem test_meets_FetchesReadDescriptorsInOrder_4 :
    ∃ (s : State) (t : Nat) (c : Fin 4) (n : Fin 16) (o : Out) (tries : Nat), ((∃ k u, (s.ring c n).fetching = some
    (k, u, tries) ∧ o = .read c n (s.rBase c n + 64 * ((s.ring c n).fetchIdx % s.rSize c n)) (64 * k)) ∨ ∃ r rest,
    (s.ring c n).fetching = none ∧ (s.ring c n).imgRead = some tries ∧ (s.ring c n).fetched = r :: rest ∧ o =
    .imageRead c (pay64 (s.descOf c n r).payload 8) (pay32 (s.descOf c n r).payload 16)) ∧ 3 ≤ tries :=
  ⟨(ringOn (regsOn [])).modRing 3 15 fun r => { r with imgRead := some 3, fetched := [⟨0, Vector.replicate 64 0⟩] },
  0, 3, 15, .imageRead 3 0 0, 3,
  by exact ⟨Or.inr ⟨⟨0, Vector.replicate 64 0⟩, [], by decide +kernel, by decide +kernel, by decide +kernel, by decide +kernel⟩, by decide +kernel⟩⟩

/-- A NOP descriptor for axis 31 as fetched. -/
def rawNop (op : Byte) : RawDesc := ⟨63, (((Vector.replicate 64 0).set 0 op).set 1 1).set 3 31⟩

def ringHas (op : Byte) : State :=
  let s := (ringOn (regsOn [(HIF_RING_CFG 3 0, HIF_RING_CFG_TYPE, 1), (HIF_RING_CFG 3 0, HIF_RING_CFG_SIZE, 6),
    (HIF_RING_STAT 3 0, HIF_RING_STAT_STATE, 1), (HIF_RING_STAT 3 15, HIF_RING_STAT_VER, 1)])).modRing 3 15 fun r =>
      { r with fetched := [rawNop op] }
  (List.range 16).foldl (fun s i => (s.setFld (HIF_OWN_AX 0) (HIF_OWN_AX_CAB i) 3).setFld (HIF_OWN_AX 1) (HIF_OWN_AX_CAB i) 3) s

theorem test_meets_AcceptanceChecksAndRoutes_0 :
    ∃ (s : State) (t : Nat) (c : Fin 4) (n : Fin 16) (r : RawDesc) (rest : List RawDesc),
    let d := (s.reach t).descOf c n r;  (s.reach t).turnCab = some c ∧ (s.reach t).turnRing c = some n ∧ (s.ring c
    n).fetched = r :: rest ∧ s.rSize c n ≤ 4096 ∧ (s.reach t).acceptCheck c n r d = none ∧ d.opcode ≠ 0 ∧ d.opcode ≠
    0x20 ∧ d.opcode ≠ 0x21 :=
  ⟨ringHas 4, 0, 3, 15, rawNop 4, [], by dsimp only; decide +kernel⟩

theorem test_meets_AcceptanceChecksAndRoutes_1 :
    ∃ (s : State) (t : Nat) (c : Fin 4) (n : Fin 16) (r : RawDesc) (rest : List RawDesc) (st : _),
    let d := (s.reach t).descOf c n r;  (s.reach t).turnCab = some c ∧ (s.reach t).turnRing c = some n ∧ (s.ring c
    n).fetched = r :: rest ∧ s.rSize c n ≤ 4096 ∧ (s.reach t).acceptCheck c n r d = some st ∧ (s.ring c n).open_ = []
    ∧ (s.ring c n).waitCpl = [] :=
  ⟨ringHas 0x60, 0, 3, 15, rawNop 0x60, [], stREFUSED_OPCODE, by dsimp only; decide +kernel⟩

theorem test_meets_AcceptanceChecksAndRoutes_2 :
    ∃ (s : State) (d : Desc), d.plain ∧ s.admits d = true :=
  ⟨regsOn [], dAx 0 [], by unfold Desc.plain; decide +kernel⟩

/-- A request held on ring 15 of cabinet 3, whose vector 7 is masked or not. -/
def irqHeld (masked : Bool) : State :=
  ((regsOn [(HIF_RING_CFG 3 15, HIF_RING_CFG_VEC, 7), (HIF_RING_CFG 3 15, HIF_RING_CFG_MOD, 2)]).modRing 3 15 fun r =>
    { r with lastIrq := some 5, irqHeld := true }).modCab 3 fun c => { c with vecs := c.vecs.set 7 ⟨0, 0, 0, masked, false⟩ }

theorem test_meets_VectorsSendOneMessage_0 :
    ∃ (s : State) (t : Nat) (c : Fin 4) (n : Fin 16) (l : Nat) (v : Fin 8), (s.ring c n).lastIrq = some l ∧ (s.ring c
    n).irqHeld = true ∧ l + 1000 * s.fld (HIF_RING_CFG c n) HIF_RING_CFG_MOD ≤ (s.reach t).up ∧ v.1 = s.fld
    (HIF_RING_CFG c n) HIF_RING_CFG_VEC ∧ ((s.cab c).vecs[v]).masked = true :=
  ⟨irqHeld true, 2005, 3, 15, 5, 7, by decide +kernel⟩

theorem test_meets_VectorsSendOneMessage_1 :
    ∃ (s : State) (t : Nat) (c : Fin 4) (n : Fin 16) (l : Nat) (v : Fin 8), (s.ring c n).lastIrq = some l ∧ (s.ring c
    n).irqHeld = true ∧ l + 1000 * s.fld (HIF_RING_CFG c n) HIF_RING_CFG_MOD ≤ (s.reach t).up ∧ v.1 = s.fld
    (HIF_RING_CFG c n) HIF_RING_CFG_VEC ∧ ((s.cab c).vecs[v]).masked = false :=
  ⟨irqHeld false, 2005, 3, 15, 5, 7, by decide +kernel⟩

theorem test_meets_VectorsSendOneMessage_2 :
    ∃ (s : State) (t : Nat) (c : Fin 4) (i : Fin 8) (v : Word) (w : Fin 8), s.hostUp = true ∧ w ≠ i :=
  ⟨irqHeld false, 2005, 3, 0, 7, 6, by decide +kernel⟩

theorem test_meets_VectorsSendOneMessage_3 :
    ∃ (s : State) (t : Nat) (c : Fin 4) (i : Fin 8) (v : Word) (size : _), s.hostUp = true ∧ size ≠ 4 :=
  ⟨irqHeld false, 2005, 3, 0, 7, 0, by decide +kernel⟩

/-- An export of cabinet 3 to its ring 14, with events going to ring 15. -/
def anExport : Export := ⟨3, 14, 7, true, false, 0, 255, 255, 1, none, 9, 4, 2, 6, false, 0⟩

def exporting : State :=
  (regsOn [(HIF_RING_CFG 3 14, HIF_RING_CFG_EN, 1), (HIF_RING_CFG 3 14, HIF_RING_CFG_TYPE, 4),
    (HIF_RING_STAT 3 14, HIF_RING_STAT_STATE, 1), (HIF_CAB_CTRL 3, HIF_CAB_CTRL_EVRING, 15),
    (HIF_CAB_CTRL 3, HIF_CAB_CTRL_EVRING_F, 15), (HIF_RING_CFG 3 15, HIF_RING_CFG_TYPE, 2),
    (HIF_RING_CFG 3 15, HIF_RING_CFG_SIZE, 6), (HIF_RING_STAT 3 15, HIF_RING_STAT_STATE, 1)]).modRec fun x =>
      { x with exports := [anExport] }

theorem test_meets_RingsEnableAndDrain_0 :
    ∃ (s : State) (t : Nat) (c : Fin 4) (n : Fin 16), s.ringsMayStart = true ∧ s.bit (HIF_RING_CFG c n)
    HIF_RING_CFG_EN = false ∧ s.rState c n = rDRAINING :=
  ⟨regsOn [(HIF_RING_STAT 3 15, HIF_RING_STAT_STATE, 2)], 0, 3, 15, by decide +kernel⟩

theorem test_meets_RingsEnableAndDrain_1 :
    ∃ (s : State) (t : Nat) (c : Fin 4) (n : Fin 16), s.ringsMayStart = true ∧ s.bit (HIF_RING_CFG c n)
    HIF_RING_CFG_EN = false ∧ s.rState c n ≠ rDRAINING ∧ s.enableCause c n = 0 :=
  ⟨regsOn [(HIF_RING_CFG 3 15, HIF_RING_CFG_SIZE, 12), (HIF_RING_CFG 3 15, HIF_RING_CFG_TYPE, 4), (HIF_RING_CFG 3 15,
  HIF_RING_CFG_VER_REQ, 1), (HIF_RING_BASE_LO 3 15, ⟨0, 32⟩, 4096)], 0, 3, 15, by decide +kernel⟩

theorem test_meets_RingsEnableAndDrain_2 :
    ∃ (s : State) (t : Nat) (c : Fin 4) (n : Fin 16), s.ringsMayStart = true ∧ s.bit (HIF_RING_CFG c n)
    HIF_RING_CFG_EN = false ∧ s.rState c n ≠ rDRAINING ∧ s.enableCause c n ≠ 0 :=
  ⟨regsOn [], 0, 3, 15, by decide +kernel⟩

theorem test_meets_RingsEnableAndDrain_3 :
    ∃ (s : State) (t : Nat) (c : Fin 4) (n : Fin 16), s.ringsMayStart = true ∧ s.bit (HIF_RING_CFG c n)
    HIF_RING_CFG_EN = false ∧ s.rState c n ≠ rDRAINING :=
  ⟨regsOn [], 0, 3, 15, by decide +kernel⟩

theorem test_meets_RingsEnableAndDrain_4 :
    ∃ (s : State) (t : Nat) (c : Fin 4) (n : Fin 16), (s.ringsMayStart = false ∨ s.bit (HIF_RING_CFG c n)
    HIF_RING_CFG_EN = true) :=
  ⟨regsOn [(HIF_RING_CFG 3 15, HIF_RING_CFG_EN, 1)], 0, 3, 15, by decide +kernel⟩

theorem test_meets_RingsEnableAndDrain_5 :
    ∃ (s : State) (t : Nat) (c : Fin 4) (n : Fin 16),
    let held := (s.rType c n == 1 && s.rState c n == rACTIVE && (s.namedCpl c n || (s.ring c n).reserved != 0)); 
    s.ringsMayStart = true ∧ s.bit (HIF_RING_CFG c n) HIF_RING_CFG_EN = true ∧ held = true :=
  ⟨(regsOn [(HIF_RING_CFG 3 15, HIF_RING_CFG_EN, 1), (HIF_RING_STAT 3 15, HIF_RING_STAT_STATE, 1), (HIF_RING_CFG 3 15,
  HIF_RING_CFG_TYPE, 1)]).modRing 3 15 fun r => { r with reserved := 1 }, 0, 3, 15, by dsimp only; decide +kernel⟩

theorem test_meets_RingsEnableAndDrain_6 :
    ∃ (s : State) (t : Nat) (c : Fin 4) (n : Fin 16),
    let held := (s.rType c n == 1 && s.rState c n == rACTIVE && (s.namedCpl c n || (s.ring c n).reserved != 0)); 
    s.ringsMayStart = true ∧ s.bit (HIF_RING_CFG c n) HIF_RING_CFG_EN = true ∧ held = false :=
  ⟨regsOn [(HIF_RING_CFG 3 15, HIF_RING_CFG_EN, 1), (HIF_RING_STAT 3 15, HIF_RING_STAT_STATE, 1)], 0, 3, 15,
  by dsimp only; decide +kernel⟩

theorem test_meets_RingsEnableAndDrain_7 :
    ∃ (s : State) (t : Nat) (c : Fin 4) (n : Fin 16), s.ringsMayStart = true ∧ s.bit (HIF_RING_CFG c n)
    HIF_RING_CFG_EN = true ∧ s.rState c n = rDRAINING :=
  ⟨regsOn [(HIF_RING_CFG 3 15, HIF_RING_CFG_EN, 1), (HIF_RING_STAT 3 15, HIF_RING_STAT_STATE, 2)], 0, 3, 15,
  by decide +kernel⟩

theorem test_meets_RingsEnableAndDrain_8 :
    ∃ (s : State) (t : Nat) (c : Fin 4) (n : Fin 16),
    let drain := (s.rType c n == 0 && (s.rState c n == rACTIVE || s.rState c n == rERROR) && (s.ring c n).open_ != []); 
    s.ringsMayStart = true ∧ s.bit (HIF_RING_CFG c n) HIF_RING_CFG_EN = true ∧ drain = true :=
  ⟨(regsOn [(HIF_RING_CFG 3 15, HIF_RING_CFG_EN, 1), (HIF_RING_STAT 3 15, HIF_RING_STAT_STATE, 1)]).modRing 3 15 fun r
  => { r with open_ := [(0, 0, 31)] }, 0, 3, 15, by dsimp only; decide +kernel⟩

theorem test_meets_RingsEnableAndDrain_9 :
    ∃ (s : State) (t : Nat) (c : Fin 4) (n : Fin 16),
    let held := (s.rType c n == 1 && s.rState c n == rACTIVE && (s.namedCpl c n || (s.ring c n).reserved != 0)); let drain := (s.rType c n == 0 && (s.rState c n == rACTIVE || s.rState c n == rERROR) && (s.ring c n).open_ != []); 
    s.ringsMayStart = true ∧ s.bit (HIF_RING_CFG c n) HIF_RING_CFG_EN = true ∧ held = false ∧ drain = false ∧ s.rState
    c n ≠ rDRAINING :=
  ⟨regsOn [(HIF_RING_CFG 3 15, HIF_RING_CFG_EN, 1), (HIF_RING_STAT 3 15, HIF_RING_STAT_STATE, 3)], 0, 3, 15,
  by dsimp only; decide +kernel⟩

theorem test_meets_RingsEnableAndDrain_10 :
    ∃ (s : State) (t : Nat) (c : Fin 4) (n : Fin 16) (e : _) (m : _),
    let held := (s.rType c n == 1 && s.rState c n == rACTIVE && (s.namedCpl c n || (s.ring c n).reserved != 0)); let drain := (s.rType c n == 0 && (s.rState c n == rACTIVE || s.rState c n == rERROR) && (s.ring c n).open_ != []); 
    s.ringsMayStart = true ∧ s.bit (HIF_RING_CFG c n) HIF_RING_CFG_EN = true ∧ held = false ∧ drain = false ∧ s.rState
    c n ≠ rDRAINING ∧ s.recorder.exports = [e] ∧ e.cab = c ∧ e.ring = n ∧ m ≠ n ∧ s.rSize c m ≠ 0 ∧ e.exported < 2 ^
    32 ∧ e.lastSeq < 2 ^ 32 ∧ e.skipped < 2 ^ 32 ∧ s.canTell c m (plainSev 0x0803) :=
  ⟨exporting, 0, 3, 14, anExport, 15,
  by dsimp only; unfold State.canTell; and_intros <;> first | decide +kernel | exact ring_both _ _ 15 _ (by decide +kernel)⟩

theorem test_meets_RingsEnableAndDrain_11 :
    ∃ (s : State) (t : Nat) (c : Fin 4) (n : Fin 16),
    let held := (s.rType c n == 1 && s.rState c n == rACTIVE && (s.namedCpl c n || (s.ring c n).reserved != 0)); let drain := (s.rType c n == 0 && (s.rState c n == rACTIVE || s.rState c n == rERROR) && (s.ring c n).open_ != []); 
    s.ringsMayStart = true ∧ s.bit (HIF_RING_CFG c n) HIF_RING_CFG_EN = true ∧ held = false ∧ drain = false ∧ s.rState
    c n ≠ rDRAINING ∧ (∀ e ∈ s.recorder.exports, ¬(e.cab = c ∧ e.ring = n)) :=
  ⟨regsOn [(HIF_RING_CFG 3 15, HIF_RING_CFG_EN, 1), (HIF_RING_STAT 3 15, HIF_RING_STAT_STATE, 1)], 0, 3, 15,
  by dsimp only; decide +kernel⟩

theorem test_meets_RingsEnableAndDrain_12 :
    ∃ (s : State) (t : Nat) (c : Fin 4) (n : Fin 16), (s.ringsMayStart = false ∨ s.bit (HIF_RING_CFG c n)
    HIF_RING_CFG_EN = false) :=
  ⟨regsOn [], 0, 3, 15, by decide +kernel⟩

theorem test_meets_RingsEnableAndDrain_13 :
    ∃ (s : State) (t : Nat) (c : Fin 4) (n : Fin 16), s.rState c n = rDRAINING ∧ (s.ring c n).open_ = [] ∧ (s.ring c
    n).reEnable = false :=
  ⟨regsOn [(HIF_RING_STAT 3 15, HIF_RING_STAT_STATE, 2)], 0, 3, 15, by decide +kernel⟩

theorem test_meets_RingsEnableAndDrain_14 :
    ∃ (s : State) (t : Nat) (c : Fin 4) (n : Fin 16), s.rState c n = rDRAINING ∧ (s.ring c n).open_ = [] ∧ (s.ring c
    n).reEnable = true ∧ s.enableCause c n = 0 :=
  ⟨(regsOn [(HIF_RING_STAT 3 15, HIF_RING_STAT_STATE, 2), (HIF_RING_CFG 3 15, HIF_RING_CFG_SIZE, 12), (HIF_RING_CFG 3
  15, HIF_RING_CFG_TYPE, 4), (HIF_RING_CFG 3 15, HIF_RING_CFG_VER_REQ, 1), (HIF_RING_BASE_LO 3 15, ⟨0, 32⟩,
  4096)]).modRing 3 15 fun r => { r with reEnable := true }, 0, 3, 15, by decide +kernel⟩

theorem test_meets_RingsEnableAndDrain_15 :
    ∃ (s : State) (t : Nat) (c : Fin 4) (n : Fin 16), s.rState c n = rDRAINING ∧ (s.ring c n).open_ = [] ∧ (s.ring c
    n).reEnable = true ∧ s.enableCause c n ≠ 0 :=
  ⟨(regsOn [(HIF_RING_STAT 3 15, HIF_RING_STAT_STATE, 2)]).modRing 3 15 fun r => { r with reEnable := true }, 0, 3,
  15, by decide +kernel⟩

theorem test_meets_RingsEnableAndDrain_16 :
    ∃ (s : State) (t : Nat) (c : Fin 4) (n : Fin 16), (s.rState c n ≠ rDRAINING ∨ (s.ring c n).open_ ≠ []) :=
  ⟨regsOn [], 0, 3, 15, by decide +kernel⟩

theorem test_meets_CabinetWatchdogRuns_0 :
    ∃ (s : State) (t : Nat) (c : Fin 4), s.hostUp = true :=
  ⟨regsOn [], 0, 3, by decide +kernel⟩

theorem test_meets_CabinetWatchdogRuns_1 :
    ∃ (s : State) (t : Nat) (c : Fin 4) (a : _), s.fld (HIF_CAB_WDOG c) HIF_CAB_WDOG_MS ≠ 0 ∧ s.bit (HIF_CAB_STAT c)
    HIF_CAB_STAT_WDOG_EXP = false ∧ (s.cab c).wdogAt + 1000000 * s.fld (HIF_CAB_WDOG c) HIF_CAB_WDOG_MS ≤ (s.reach
    t).up ∧ s.ownerAx a = c :=
  ⟨regsOn [(HIF_CAB_WDOG 0, HIF_CAB_WDOG_MS, 5)], 5000000, 0, 0, by decide +kernel⟩

theorem test_meets_CabinetWatchdogRuns_2 :
    ∃ (s : State) (t : Nat) (c : Fin 4), (s.fld (HIF_CAB_WDOG c) HIF_CAB_WDOG_MS = 0 ∨ (s.reach t).up < (s.cab
    c).wdogAt + 1000000 * s.fld (HIF_CAB_WDOG c) HIF_CAB_WDOG_MS) :=
  ⟨regsOn [(HIF_CAB_WDOG 0, HIF_CAB_WDOG_MS, 5)], 4999999, 0, by decide +kernel⟩

theorem test_meets_CabinetResetsResetTheirRings_0 :
    ∃ (s : State) (t : Nat) (c : Fin 4) (i : Instr) (a : _), (i = .functionLevelReset t c ∨ i = .d3hotEntry t c) ∧
    s.ownerAx a = c ∧ s.bit (MP_FLT_STAT a) MP_FLT_STAT_EPISODE = false :=
  ⟨regsOn [], 0, 0, .functionLevelReset 0 0, 31, by decide +kernel⟩

theorem test_meets_CabinetResetsResetTheirRings_1 :
    ∃ (s : State) (t : Nat) (h : Fin 2) (linkDown : Bool) (c : _), linkDown = true ∧ c ∈ cabsOf h :=
  ⟨regsOn [], 0, 1, true, 3, by decide +kernel⟩

theorem test_meets_CabinetResetsResetTheirRings_2 :
    ∃ (s : State) (t : Nat) (h : Fin 2) (linkDown : Bool), (∀ c ∈ cabsOf h, s.bit (HIF_CAB_CTRL c)
    HIF_CAB_CTRL_LINKLOSS = true) :=
  ⟨(regsOn []).setBit (HIF_CAB_CTRL 2) HIF_CAB_CTRL_LINKLOSS true |>.setBit (HIF_CAB_CTRL 3) HIF_CAB_CTRL_LINKLOSS
  true, 0, 1, true, by decide +kernel⟩

theorem test_meets_CabinetResetsResetTheirRings_3 :
    ∃ (s : State) (t : Nat) (h : Fin 2) (linkDown : Bool), (∀ c ∈ cabsOf h, s.bit (HIF_CAB_CTRL c)
    HIF_CAB_CTRL_LINKLOSS = true) :=
  ⟨(regsOn []).setBit (HIF_CAB_CTRL 2) HIF_CAB_CTRL_LINKLOSS true |>.setBit (HIF_CAB_CTRL 3) HIF_CAB_CTRL_LINKLOSS
  true, 0, 1, true, by decide +kernel⟩

theorem test_meets_CabinetResetsResetTheirRings_4 :
    ∃ (s : State) (t : Nat) (h : Fin 2) (width : Nat) (speed : Nat) (l0 : Bool), width ∈ [1, 2, 4] ∧ 1 ≤ speed ∧ speed
    ≤ 3 :=
  ⟨(regsOn []).setBit (HIF_CAB_CTRL 2) HIF_CAB_CTRL_LINKLOSS true |>.setBit (HIF_CAB_CTRL 3) HIF_CAB_CTRL_LINKLOSS
  true, 0, 1, 4, 3, false, by decide +kernel⟩

/-- Ring 15 of cabinet 0 is an active trace ring. -/
def traceRing : State :=
  regsOn [(HIF_RING_STAT 0 15, HIF_RING_STAT_STATE, 1), (HIF_RING_CFG 0 15, HIF_RING_CFG_TYPE, 3), (HIF_RING_CFG 0 15, HIF_RING_CFG_SIZE, 6)]

def aTrace : Trace := ⟨[8], 2, 3, some 4, 6, 0, 0⟩

theorem test_meets_TracesStartStopAndCapture_0 :
    ∃ (s : State) (d : Desc), d.plain ∧ s.admits d = true ∧ (s.reach d.accept).traceOk d = true ∧ (s.ring d.cab
    (finRing (payByte d.payload 0))).trace = none :=
  ⟨traceRing, dCab 0x42 [(0, 15), (1, 1), (2, 1), (4, 3), (8, 8)], by unfold Desc.plain; decide +kernel⟩

theorem test_meets_TracesStartStopAndCapture_1 :
    ∃ (s : State) (d : Desc) (tr : Trace), d.plain ∧ s.admits d = true ∧ payZero d.payload 1 48 = true ∧ payByte
    d.payload 0 < 16 ∧ (s.ring d.cab (finRing (payByte d.payload 0))).trace = some tr :=
  ⟨traceRing.modRing 0 15 fun r => { r with trace := some aTrace }, dCab 0x43 [(0, 15)], aTrace,
  by unfold Desc.plain; decide +kernel⟩

theorem test_meets_TracesStartStopAndCapture_2 :
    ∃ (s : State) (c : Fin 4) (n : Fin 16) (tr : Trace), (s.ring c n).trace = some tr ∧ tr.startK.getD 0 < (s.tile
    tr.tile).k ∧ tr.doneK < (s.tile tr.tile).k ∧ ((s.tile tr.tile).k - tr.startK.getD 0) % tr.decim = 0 ∧ s.rRoom c n
    = true :=
  ⟨(traceRing.modRing 0 15 fun r => { r with trace := some aTrace }).modTile 3 fun x => { x with k := 8 }, 0, 15,
  aTrace, by decide +kernel⟩

theorem test_meets_TracesStartStopAndCapture_3 :
    ∃ (s : State) (c : Fin 4) (n : Fin 16) (tr : Trace), (s.ring c n).trace = some tr ∧ tr.startK.getD 0 < (s.tile
    tr.tile).k ∧ tr.doneK < (s.tile tr.tile).k ∧ ((s.tile tr.tile).k - tr.startK.getD 0) % tr.decim = 0 ∧ s.rRoom c n
    = false :=
  ⟨((traceRing.modRing 0 15 fun r => { r with trace := some aTrace }).modTile 3 fun x => { x with k := 8 }).setFld
  (HIF_RING_DEV 0 15) HIF_RING_DEV_IDX 64, 0, 15, aTrace, by decide +kernel⟩

def moving : State :=
  (regsOn [(MP_VLIM_LO 31, ⟨0, 32⟩, 65536), (MP_ALIM_LO 31, ⟨0, 32⟩, 65536), (MP_EMERG_LO 31, ⟨0, 32⟩, 65536),
    (MP_EMERG_HI 31, ⟨0, 32⟩, 0), (MP_STAT 31, MP_STAT_STATE, axSTANDSTILL)]).modProf 31 fun x =>
      { x with base := some ⟨⟨0, 0, 0⟩, false, false, 0⟩ }

def dMove : Desc := dAx 1 [(0, 5), (10, 1), (16, 1), (22, 1), (36, 28)]

def outMove : Option PlanOut := planMove 0 ⟨0, 0, 0⟩ 5 65536 1 65536 65536 0

/-- A move to 1,000 and its run. -/
def aMove : MoveReq := ⟨7, 1000, false, none, none, none, none, 0, false, false⟩

def aRun : MoveRun := ⟨7, 1000, ⟨1, 1, 1, 0, false, false, false⟩, false, false, 5, 1, false⟩

def queueing (st : Nat) : State :=
  (regsOn [(MP_STAT 31, MP_STAT_STATE, st)]).modProf 31 fun x => { x with queue := [aMove] }

theorem test_meets_MovesStartAndQueue_0 :
    ∃ (s : State) (d : Desc) (a : Fin 32),
    let tgt := (if payBit d.payload 36 0 then s.posB a + payI64 d.payload 0 else payI64 d.payload 0);  d.plain ∧
    s.admits d = true ∧ d.target = a.1 ∧ moveBad d.payload = false ∧ s.rxOf a < 3 ∧ s.homing a = false ∧ s.axState a =
    axSTANDSTILL ∧ (s.prof a).queue = [] ∧ (s.prof a).move = none ∧ (if payBit d.payload 36 0 then payI64 d.payload 0
    else tgt - s.posB a).natAbs < 2 ^ 62 ∧ s.softOk a tgt = true ∧ s.lockForbids a tgt = false ∧ tgt = s.posB a :=
  ⟨moving, dAx 1 [(36, 1)], 31, by dsimp only; unfold Desc.plain; decide +kernel⟩

theorem test_meets_MovesStartAndQueue_1 :
    ∃ (s : State) (d : Desc) (a : Fin 32) (tgt : Int) (o : _),
    let r := s.moveReq d a; let b := s.bankOf a; let l : Limits := ⟨r.v.getD b.v, r.a.getD b.a, r.d.getD b.d, r.j.getD b.j, r.v.isSome, r.a.isSome, r.d.isSome⟩; 
    d.plain ∧ s.admits d = true ∧ d.target = a.1 ∧ moveBad d.payload = false ∧ s.rxOf a < 3 ∧ s.homing a = false ∧
    s.axState a = axSTANDSTILL ∧ (s.prof a).queue = [] ∧ (s.prof a).move = none ∧ tgt = (if payBit d.payload 36 0 then
    s.posB a + payI64 d.payload 0 else payI64 d.payload 0) ∧ (if payBit d.payload 36 0 then payI64 d.payload 0 else
    tgt - s.posB a).natAbs < 2 ^ 62 ∧ s.softOk a tgt = true ∧ s.lockForbids a tgt = false ∧ tgt ≠ s.posB a ∧ planMove
    (s.axB a) (s.kinB a) tgt (s.vEff a l) (s.aEff a l) (s.dEff a l) (s.emerg a) (q16 l.j) = some o :=
  ⟨moving, dMove, 31, 5, outMove.get (by decide +kernel), by dsimp only; unfold Desc.plain; decide +kernel⟩

theorem test_meets_MovesStartAndQueue_2 :
    ∃ (s : State) (d : Desc) (a : Fin 32) (r : _), d.plain ∧ s.admits d = true ∧ d.target = a.1 ∧ moveBad d.payload =
    false ∧ s.rxOf a < 3 ∧ s.homing a = false ∧ (s.axState a = axPOSITION ∨ s.axState a = axSTOPPING ∧ (s.prof
    a).stopKind = .stop) ∧ payBit d.payload 36 1 = true ∧ (s.prof a).queue.length < 8 ∧ (s.prof a).queue.getLast? =
    some r ∧ r.rel = false :=
  ⟨queueing axPOSITION, dAx 1 [(0, 5), (36, 2)], 31, aMove, by unfold Desc.plain; decide +kernel⟩

theorem test_meets_MovesStartAndQueue_3 :
    ∃ (s : State) (d : Desc) (a : Fin 32) (m : _), d.plain ∧ s.admits d = true ∧ d.target = a.1 ∧ moveBad d.payload =
    false ∧ s.rxOf a < 3 ∧ s.homing a = false ∧ (s.axState a = axPOSITION ∨ s.axState a = axSTOPPING ∧ (s.prof
    a).stopKind = .stop) ∧ payBit d.payload 36 1 = true ∧ (s.prof a).queue.length < 8 ∧ (s.prof a).queue = [] ∧
    (s.prof a).move = some m :=
  ⟨(regsOn [(MP_STAT 31, MP_STAT_STATE, axPOSITION)]).modProf 31 fun x => { x with move := some aRun }, dAx 1 [(0, 5),
  (36, 2)], 31, aRun, by unfold Desc.plain; decide +kernel⟩

theorem test_meets_MovesStartAndQueue_4 :
    ∃ (s : State) (d : Desc) (a : Fin 32), d.plain ∧ s.admits d = true ∧ d.target = a.1 ∧ moveBad d.payload = false ∧
    s.rxOf a < 3 ∧ s.homing a = false ∧ (s.axState a = axPOSITION ∨ s.axState a = axSTOPPING ∧ (s.prof a).stopKind =
    .stop) ∧ payBit d.payload 36 1 = true ∧ (s.prof a).queue.length < 8 ∧ (s.prof a).queue = [] ∧ (s.prof a).move =
    none ∧ s.axState a = axSTOPPING :=
  ⟨(regsOn [(MP_STAT 31, MP_STAT_STATE, axSTOPPING)]).modProf 31 fun x => { x with stopKind := .stop }, dAx 1 [(0, 5),
  (36, 3)], 31, by unfold Desc.plain; decide +kernel⟩

theorem test_meets_MovesStartAndQueue_5 :
    ∃ (s : State) (d : Desc) (a : Fin 32),
    let rel := payBit d.payload 36 0; let tgt := (if rel && !(s.aheadOf a).2 then (s.aheadOf a).1 + payI64 d.payload 0 else payI64 d.payload 0); 
    d.plain ∧ s.admits d = true ∧ d.target = a.1 ∧ moveBad d.payload = false ∧ s.rxOf a < 3 ∧ s.homing a = false ∧
    (s.axState a = axPOSITION ∨ s.axState a = axSTOPPING ∧ (s.prof a).stopKind = .stop) ∧ payBit d.payload 36 1 = true
    ∧ (s.prof a).queue.length < 8 ∧ (if rel then payI64 d.payload 0 else tgt - (s.aheadOf a).1).natAbs < 2 ^ 62 ∧
    ((rel && (s.aheadOf a).2) = false → s.softOk a tgt = true ∧ s.lockForbids a tgt = false) :=
  ⟨queueing axPOSITION, dAx 1 [(0, 5), (36, 3)], 31, by dsimp only; unfold Desc.plain; decide +kernel⟩

theorem test_meets_MovesStartAndQueue_6 :
    ∃ (s : State) (d : Desc) (a : Fin 32), d.plain ∧ s.admits d = true ∧ d.target = a.1 ∧ moveBad d.payload = false ∧
    s.rxOf a < 3 ∧ s.homing a = false ∧ (s.prof a).queue.length < 8 ∧ s.axState a ≠ axSTANDSTILL ∧ (s.axState a =
    axPOSITION ∨ s.axState a = axSTOPPING ∧ (s.prof a).stopKind = .stop → payBit d.payload 36 1 = false) :=
  ⟨queueing axPOSITION, dAx 1 [(0, 5)], 31, by unfold Desc.plain; decide +kernel⟩

theorem test_meets_VelocityRampsAndStops_0 :
    ∃ (s : State) (d : Desc) (a : Fin 32) (c : Int), d.plain ∧ s.admits d = true ∧ d.target = a.1 ∧ c = clampInt
    (-(s.vCap a : Int)) (s.vCap a) (payI48 d.payload 0) ∧ c ≠ 0 ∧ velocityBad d.payload = false ∧ s.rxOf a < 3 ∧
    s.homing a = false ∧ (s.axState a = axSTANDSTILL ∨ s.axState a = axVELOCITY) ∧ s.velForbidden a c = false ∧
    payByte d.payload 24 = 0 :=
  ⟨regsOn [(MP_VLIM_LO 31, ⟨0, 32⟩, 1000), (MP_STAT 31, MP_STAT_STATE, axVELOCITY)], dAx 2 [(0, 16)], 31, 16,
  by unfold Desc.plain; decide +kernel⟩

theorem test_meets_VelocityRampsAndStops_1 :
    ∃ (s : State) (d : Desc) (a : Fin 32), d.plain ∧ s.admits d = true ∧ d.target = a.1 ∧ payByte d.payload 0 < 2 ∧
    payZero d.payload 1 48 = true ∧ s.moving a = true :=
  ⟨(regsOn []).setAxState 31 axPOSITION, dAx 3 [], 31, by unfold Desc.plain; decide +kernel⟩

theorem test_meets_VelocityRampsAndStops_2 :
    ∃ (s : State) (d : Desc) (a : Fin 32), d.plain ∧ s.admits d = true ∧ d.target = a.1 ∧ payByte d.payload 0 = 1 ∧
    payZero d.payload 1 48 = true ∧ s.axState a = axHOLD ∧ s.causePresent a = false :=
  ⟨(regsOn []).setAxState 31 axHOLD, dAx 3 [(0, 1)], 31, by unfold Desc.plain; decide +kernel⟩

theorem test_meets_VelocityRampsAndStops_3 :
    ∃ (s : State) (d : Desc) (a : Fin 32), d.plain ∧ s.admits d = true ∧ d.target = a.1 ∧ (s.moving a = true ∨
    s.axState a = axSTOPPING) :=
  ⟨(regsOn []).setAxState 31 axSTOPPING, dAx 4 [], 31, by unfold Desc.plain; decide +kernel⟩

theorem test_meets_VelocityRampsAndStops_4 :
    ∃ (s : State) (d : Desc) (a : Fin 32), d.plain ∧ s.admits d = true ∧ d.target = a.1 ∧ s.moving a = false ∧
    s.axState a ≠ axSTOPPING :=
  ⟨still, dAx 4 [], 31, by unfold Desc.plain; decide +kernel⟩

theorem test_meets_PositionsAndParametersAreSet_0 :
    ∃ (s : State) (d : Desc) (a : Fin 32), d.plain ∧ s.admits d = true ∧ d.target = a.1 ∧ payZero d.payload 8 48 =
    true ∧ s.posSettable a = true ∧ s.softOk a (payI64 d.payload 0) = true ∧ (s.prof a).plan ≠ [] :=
  ⟨still, dAx 5 [(0, 9)], 31, by unfold Desc.plain; decide +kernel⟩

theorem test_meets_PositionsAndParametersAreSet_1 :
    ∃ (s : State) (d : Desc) (a : Fin 32) (id : Nat) (v : Nat) (cap : Nat) (bank : Nat) (n : Fin 4), d.plain ∧
    s.admits d = true ∧ d.target = a.1 ∧ id = pay16 d.payload 0 ∧ 0x0100 ≤ id ∧ id ≤ 0x0103 ∧ v = pay48 d.payload 8 ∧
    v < 2 ^ 47 ∧ (id = 0x0103 ∨ v ≠ 0) ∧ cap = (if id = 0x0100 then s.vCap a else if id = 0x0103 then 2 ^ 47 else
    s.aCap a) ∧ paramBad d.payload 6 = false ∧ payByte d.payload 3 = 1 ∧ bank = (if payByte d.payload 2 = 0xFF then
    s.bankNo a else payByte d.payload 2) ∧ n.1 = bank :=
  ⟨still, dAx 6 [(1, 1), (2, 3), (3, 1), (8, 5)], 31, 0x0100, 5, still.vCap 31, 3, 3,
  by unfold Desc.plain; decide +kernel⟩

theorem test_meets_PositionsAndParametersAreSet_2 :
    ∃ (s : State) (d : Desc) (a : Fin 32) (id : Nat) (v : Nat) (cap : Nat) (bank : Nat) (n : Fin 4), d.plain ∧
    s.admits d = true ∧ d.target = a.1 ∧ id = pay16 d.payload 0 ∧ 0x0100 ≤ id ∧ id ≤ 0x0103 ∧ v = pay48 d.payload 8 ∧
    v < 2 ^ 47 ∧ (id = 0x0103 ∨ v ≠ 0) ∧ cap = (if id = 0x0100 then s.vCap a else if id = 0x0103 then 2 ^ 47 else
    s.aCap a) ∧ paramBad d.payload 6 = false ∧ payByte d.payload 3 = 1 ∧ bank = (if payByte d.payload 2 = 0xFF then
    s.bankNo a else payByte d.payload 2) ∧ n.1 ≠ bank :=
  ⟨still, dAx 6 [(1, 1), (2, 3), (3, 1), (8, 5)], 31, 0x0100, 5, still.vCap 31, 3, 0,
  by unfold Desc.plain; decide +kernel⟩

theorem test_meets_MotionDescriptorsKeepOtherAxes_0 :
    ∃ (s : State) (x : State) (d : Desc) (i : Instr), (i = .move d ∨ i = .velocity d ∨ i = .stop d ∨ i = .estop d ∨ i
    = .setPos d ∨ i = .gearArm d ∨ i = .gearRelease d) ∧ exec i s = .next x :=
  ⟨still, _, dAx 4 [], .estop (dAx 4 []), by exact ⟨by simp, rfl⟩⟩

theorem test_meets_RampDurationsAreLeast_0 :
    ∃ (r : Rat) (b : Rat) (j : Rat), 0 < j ∧ 0 ≤ r ∧ (b ≤ 0 ∨ b * b ≤ r) :=
  ⟨4, 2, 1, by decide +kernel⟩

theorem test_meets_RampDurationsAreLeast_1 :
    ∃ (r : Rat) (b : Rat) (j : Rat) (n : Nat), 0 < j ∧ 0 ≤ r ∧ (b ≤ 0 ∨ b * b ≤ r) ∧ 0 ≤ (n : Rat) / (1000000 / j) + b
    ∧ r ≤ ((n : Rat) / (1000000 / j) + b) * ((n : Rat) / (1000000 / j) + b) :=
  ⟨4, 2, 1, 0, by decide +kernel⟩

/-- Axis 31 follows encoder port 15, one tick for one. -/
def geared (g : Gear → Gear) : State := ((regsOn []).setAxState 31 axGEARED).modGear 31 g

def engReq : EngReq := ⟨7, 0, 15, 1, false, false, false, false, 1, 1, 0, 0, 0⟩

theorem test_meets_GearingEngagesArmsAndReleases_0 :
    ∃ (s : State) (a : Fin 32) (d : Desc), d.plain ∧ s.admits d = true ∧ d.target = a.1 ∧ s.engageBad a d.payload =
    false ∧ s.axState a = axSTANDSTILL ∧ (s.gear a).engPend = none ∧ s.homing a = false ∧ s.rxOf a < 3 ∧ ¬((engReqOf
    d).kind = 1 ∧ (s.vm (Fin.ofNat 8 (engReqOf d).idx)).samples = []) ∧ s.bit (SF_IO_STAT a) SF_IO_STAT_LOCKP = false
    ∧ s.bit (SF_IO_STAT a) SF_IO_STAT_LOCKN = false ∧ (engReqOf d).cond = 0 :=
  ⟨still, 31, dAx 0x10 [(1, 15), (4, 1), (8, 1)], by unfold Desc.plain; decide +kernel⟩

theorem test_meets_GearingEngagesArmsAndReleases_1 :
    ∃ (s : State) (a : Fin 32) (d : Desc), d.plain ∧ s.admits d = true ∧ d.target = a.1 ∧ s.engageBad a d.payload =
    false ∧ s.axState a = axSTANDSTILL ∧ (s.gear a).engPend = none ∧ s.homing a = false ∧ s.rxOf a < 3 ∧ ¬((engReqOf
    d).kind = 1 ∧ (s.vm (Fin.ofNat 8 (engReqOf d).idx)).samples = []) ∧ s.bit (SF_IO_STAT a) SF_IO_STAT_LOCKP = false
    ∧ s.bit (SF_IO_STAT a) SF_IO_STAT_LOCKN = false ∧ (engReqOf d).cond = 1 :=
  ⟨still, 31, dAx 0x10 [(1, 15), (2, 1), (4, 1), (8, 1)], by unfold Desc.plain; decide +kernel⟩

theorem test_meets_GearingEngagesArmsAndReleases_2 :
    ∃ (s : State) (a : Fin 32) (d : Desc), d.plain ∧ s.admits d = true ∧ d.target = a.1 ∧ armBad d.payload = false ∧
    s.axState a = axGEARED ∧ (s.gear a).engPend = none ∧ (s.gear a).queue.length < 16 ∧ armRange (s.masterAt a (s.gear
    a).kind (s.gear a).idx (s.axB a)).m (s.gear a).queue.getLast? (armOf d) = false :=
  ⟨geared id, 31, dAx 0x11 [(0, 1), (12, 1)], by unfold Desc.plain; decide +kernel⟩

theorem test_meets_GearingEngagesArmsAndReleases_3 :
    ∃ (s : State) (a : Fin 32) (d : Desc) (r : _), d.plain ∧ s.admits d = true ∧ d.target = a.1 ∧ releaseBad d.payload
    = false ∧ (s.gear a).relPend = none ∧ (s.gear a).engPend = some r :=
  ⟨still.modGear 31 fun g => { g with engPend := some engReq }, 31, dAx 0x12 [], engReq,
  by unfold Desc.plain; decide +kernel⟩

theorem test_meets_GearingEngagesArmsAndReleases_4 :
    ∃ (s : State) (a : Fin 32) (d : Desc), d.plain ∧ s.admits d = true ∧ d.target = a.1 ∧ releaseBad d.payload = false
    ∧ (s.gear a).relPend = none ∧ (s.gear a).engPend = none ∧ s.axState a = axGEARED ∧ payByte d.payload 0 = 1 :=
  ⟨geared id, 31, dAx 0x12 [(0, 1)], by unfold Desc.plain; decide +kernel⟩

theorem test_meets_GearingEngagesArmsAndReleases_5 :
    ∃ (s : State) (a : Fin 32) (d : Desc), d.plain ∧ s.admits d = true ∧ d.target = a.1 ∧ releaseBad d.payload = false
    ∧ (s.gear a).relPend = none ∧ (s.gear a).engPend = none ∧ s.axState a = axGEARED ∧ payByte d.payload 0 = 0 :=
  ⟨geared id, 31, dAx 0x12 [], by unfold Desc.plain; decide +kernel⟩

theorem test_meets_GearingEngagesArmsAndReleases_6 :
    ∃ (s : State) (a : Fin 32) (t : Nat) (u : Nat), (s.gear a).coastFrom = some u ∧ s.axState a = axGEARED ∧ (s.gear
    a).lost = false ∧ u + 1000000 * s.fld (GR_CFG a) GR_CFG_COAST_MS ≤ (s.reach t).now :=
  ⟨geared fun g => { g with coastFrom := some 4 }, 31, 100000004, 4, by decide +kernel⟩

def stepping (n : Option Nat) : State :=
  ((regsOn []).setAxState 31 axSTEPFOLLOW).modAxis 31 fun x => { x with sf := { x.sf with lastEdge := n } }

theorem test_meets_StepPulsesAreFollowed_0 :
    ∃ (s : State) (a : Fin 32) (d : Desc), d.plain ∧ s.admits d = true ∧ d.target = a.1 ∧ payZero d.payload 1 48 =
    true ∧ (payByte d.payload 0 = 0 ∨ payByte d.payload 0 = 2) ∧ s.axState a = axSTANDSTILL ∧ s.bit (SF_CFG a)
    SF_CFG_EN = true ∧ s.homing a = false ∧ s.rxOf a < 3 ∧ s.bit (SF_IO_STAT a) SF_IO_STAT_LOCKP = false ∧ s.bit
    (SF_IO_STAT a) SF_IO_STAT_LOCKN = false :=
  ⟨still.setBit (SF_CFG 31) SF_CFG_EN true, 31, dAx 0x14 [(0, 2)], by unfold Desc.plain; decide +kernel⟩

theorem test_meets_StepPulsesAreFollowed_1 :
    ∃ (s : State) (a : Fin 32) (d : Desc), d.plain ∧ s.admits d = true ∧ d.target = a.1 ∧ payZero d.payload 1 48 =
    true ∧ (payByte d.payload 0 = 1 ∨ payByte d.payload 0 = 3) ∧ s.axState a = axSTEPFOLLOW ∧ (s.sf a).drain = none :=
  ⟨stepping none, 31, dAx 0x14 [(0, 3)], by unfold Desc.plain; decide +kernel⟩

theorem test_meets_StepPulsesAreFollowed_2 :
    ∃ (s : State) (a : Fin 32) (t : Nat) (held : Nat) (high : Bool) (dir : Bool) (short : List Nat),
    let edge := t - 5 * held;  s.levelOk a held = true ∧ high ≠ (s.sf a).level ∧ high ≠ s.bit (SF_CFG a) SF_CFG_EDGE ∧
    s.axState a = axSTEPFOLLOW ∧ (s.sf a).drain = none ∧ (s.sf a).landAt ≤ edge + 5 * s.fld (SF_CFG a) SF_CFG_MINPW ∧
    (∀ e, (s.sf a).lastEdge = some e → e + 125 ≤ edge) :=
  ⟨stepping (some 825), 31, 1000, 10, true, false, [], by dsimp only; decide +kernel⟩

theorem test_meets_StepPulsesAreFollowed_3 :
    ∃ (s : State) (a : Fin 32) (t : Nat) (held : Nat) (high : Bool) (dir : Bool) (short : List Nat) (e : _),
    let edge := t - 5 * held;  s.levelOk a held = true ∧ high ≠ (s.sf a).level ∧ high ≠ s.bit (SF_CFG a) SF_CFG_EDGE ∧
    s.axState a = axSTEPFOLLOW ∧ (s.sf a).drain = none ∧ (s.sf a).landAt ≤ edge + 5 * s.fld (SF_CFG a) SF_CFG_MINPW ∧
    (s.sf a).lastEdge = some e ∧ edge < e + 125 :=
  ⟨stepping (some 826), 31, 1000, 10, true, false, [], 826, by dsimp only; decide +kernel⟩

theorem test_meets_StepPulsesAreFollowed_4 :
    ∃ (s : State) (a : Fin 32) (t : Nat) (held : Nat) (high : Bool) (dir : Bool) (short : List Nat), s.levelOk a held
    = true ∧ high ≠ (s.sf a).level ∧ high = s.bit (SF_CFG a) SF_CFG_EDGE :=
  ⟨(stepping none).modSf 31 fun x => { x with level := true }, 31, 1000, 10, false, false, [], by decide +kernel⟩

theorem test_meets_StepPulsesAreFollowed_5 :
    ∃ (s : State) (a : Fin 32) (t : Nat) (held : Nat) (high : Bool) (dir : Bool) (short : List Nat), (s.levelOk a held
    = false ∨ high = (s.sf a).level) :=
  ⟨stepping none, 31, 1000, 9, true, false, [], by decide +kernel⟩

def homeRun : HomeRun :=
  ⟨7, 4, false, false, 0, 0, 0, 0, 0, 3, 0, 1, false, 1000, 0, 0, none, 0, 0, Vector.replicate 16 0, pb [], []⟩

theorem test_meets_HomingStartsAndTimesOut_0 :
    ∃ (s : State) (a : Fin 32) (d : Desc), d.plain ∧ s.admits d = true ∧ d.target = a.1 ∧ s.homeBad d.payload = false
    ∧ s.axState a = axSTANDSTILL ∧ s.homing a = false ∧ s.rxOf a < 3 ∧ (s.axis a).mig = none :=
  ⟨still, 31, dAx 0x13 [(0, 4)], by unfold Desc.plain; decide +kernel⟩

theorem test_meets_HomingStartsAndTimesOut_1 :
    ∃ (s : State) (a : Fin 32) (t : Nat) (h : HomeRun), s.home a = some h ∧ h.timeout ≠ 0 ∧ h.startAt + 1000000 *
    h.timeout ≤ (s.reach t).now ∧ s.moving a = true ∧ (s.axis a).io.stopPend = none ∧ (s.tile (tileOf a)).stepping =
    false :=
  ⟨((regsOn [(MP_STAT 31, MP_STAT_STATE, axVELOCITY)]).modAxis 31 fun x => { x with home := some homeRun }), 31,
  3001000, homeRun, by decide +kernel⟩

def limits (l : List (Nat × Fld × Nat)) (f : AxisIo → AxisIo) : State :=
  (regsOn l).modAxis 31 fun x => { x with io := f x.io }

theorem test_meets_AxisInputsLockAndRelease_0 :
    ∃ (s : State) (t : Nat) (a : Fin 32) (raw : BitVec 15),
    let on := s.ioLevel a SF_IO_STAT_HOME SF_IO_FILT_POL_HOME raw t;  s.bit (SF_IO_STAT a) SF_IO_STAT_HOME ≠ on ∧
    (s.axis a).io.holdHome ≤ t :=
  ⟨limits [] id, 4000, 31, 0x7FFF, by dsimp only; decide +kernel⟩

theorem test_meets_AxisInputsLockAndRelease_1 :
    ∃ (s : State) (t : Nat) (a : Fin 32) (raw : BitVec 15),
    let on := s.ioLevel a SF_IO_STAT_HOME SF_IO_FILT_POL_HOME raw t;  s.bit (SF_IO_STAT a) SF_IO_STAT_HOME ≠ on ∧ t <
    (s.axis a).io.holdHome :=
  ⟨limits [] fun x => { x with holdHome := 4001 }, 4000, 31, 0x7FFF, by dsimp only; decide +kernel⟩

theorem test_meets_AxisInputsLockAndRelease_2 :
    ∃ (s : State) (t : Nat) (a : Fin 32) (raw : BitVec 15),
    let on := s.ioLevel a SF_IO_STAT_HOME SF_IO_FILT_POL_HOME raw t;  s.bit (SF_IO_STAT a) SF_IO_STAT_HOME = on :=
  ⟨limits [] id, 4000, 31, 0, by dsimp only; decide +kernel⟩

theorem test_meets_AxisInputsLockAndRelease_3 :
    ∃ (s : State) (t : Nat) (a : Fin 32) (raw : BitVec 15) (neg : Bool),
    let lim := (if neg then SF_IO_STAT_LIMN else SF_IO_STAT_LIMP); let en := (if neg then SF_IO_FILT_LIMN_EN else SF_IO_FILT_LIMP_EN); let hold := (if neg then (s.axis a).io.holdN else (s.axis a).io.holdP); 
    s.limitLevel a neg raw t = true ∧ s.bit (SF_IO_STAT a) lim = false ∧ hold ≤ t ∧ s.bit (SF_IO_FILT a) en = true :=
  ⟨limits [(SF_IO_FILT 31, SF_IO_FILT_LIMP_EN, 1)] id, 4000, 31, 0x7FFF, false, by dsimp only; decide +kernel⟩

theorem test_meets_AxisInputsLockAndRelease_4 :
    ∃ (s : State) (t : Nat) (a : Fin 32) (raw : BitVec 15) (neg : Bool),
    let lim := (if neg then SF_IO_STAT_LIMN else SF_IO_STAT_LIMP); let en := (if neg then SF_IO_FILT_LIMN_EN else SF_IO_FILT_LIMP_EN); let hold := (if neg then (s.axis a).io.holdN else (s.axis a).io.holdP); 
    s.limitLevel a neg raw t = true ∧ s.bit (SF_IO_STAT a) lim = false ∧ hold ≤ t ∧ s.bit (SF_IO_FILT a) en = true ∧
    s.movesInto a neg t = true :=
  ⟨(limits [(SF_IO_FILT 31, SF_IO_FILT_LIMN_EN, 1)] id).modProf 31 fun x =>
  { x with plan := [⟨0, none, 0, -3, 0, 0, .rest⟩] }, 4000, 31, 0x7FFF, true, by dsimp only; decide +kernel⟩

theorem test_meets_AxisInputsLockAndRelease_5 :
    ∃ (s : State) (t : Nat) (a : Fin 32) (raw : BitVec 15) (neg : Bool),
    let lim := (if neg then SF_IO_STAT_LIMN else SF_IO_STAT_LIMP); let hold := (if neg then (s.axis a).io.holdN else (s.axis a).io.holdP); 
    s.limitLevel a neg raw t = true ∧ s.bit (SF_IO_STAT a) lim = false ∧ t < hold :=
  ⟨limits [(SF_IO_FILT 31, SF_IO_FILT_LIMP_EN, 1)] fun x => { x with holdP := 4001 }, 4000, 31, 0x7FFF, false,
  by dsimp only; decide +kernel⟩

theorem test_meets_AxisInputsLockAndRelease_6 :
    ∃ (s : State) (t : Nat) (a : Fin 32) (raw : BitVec 15) (neg : Bool),
    let lim := (if neg then SF_IO_STAT_LIMN else SF_IO_STAT_LIMP); let hold := (if neg then (s.axis a).io.holdN else (s.axis a).io.holdP); 
    s.limitLevel a neg raw t = false ∧ s.bit (SF_IO_STAT a) lim = true ∧ hold ≤ t :=
  ⟨limits [(SF_IO_STAT 31, SF_IO_STAT_LIMN, 1)] id, 4000, 31, 0, true, by dsimp only; decide +kernel⟩

theorem test_meets_AxisInputsLockAndRelease_7 :
    ∃ (s : State) (t : Nat) (a : Fin 32) (raw : BitVec 15) (neg : Bool),
    let lim := (if neg then SF_IO_STAT_LIMN else SF_IO_STAT_LIMP); let hold := (if neg then (s.axis a).io.holdN else (s.axis a).io.holdP); 
    s.limitLevel a neg raw t = false ∧ s.bit (SF_IO_STAT a) lim = true ∧ t < hold :=
  ⟨limits [(SF_IO_STAT 31, SF_IO_STAT_LIMN, 1)] fun x => { x with holdN := 4001 }, 4000, 31, 0, true,
  by dsimp only; decide +kernel⟩

theorem test_meets_AxisInputsLockAndRelease_8 :
    ∃ (s : State) (t : Nat) (a : Fin 32) (raw : BitVec 15) (neg : Bool), s.limitLevel a neg raw t = false :=
  ⟨limits [] id, 4000, 31, 0, true, by decide +kernel⟩

theorem test_meets_AxisInputsLockAndRelease_9 :
    ∃ (s : State) (t : Nat) (a : Fin 32) (raw : BitVec 15) (neg : Bool), s.limitLevel a neg raw t = true :=
  ⟨limits [] id, 4000, 31, 0x7FFF, true, by decide +kernel⟩

def obs (f : Observer → Observer) : State := (regsOn [(OB_STAT 31, OB_STAT_REGIME, 1)]).modObs 31 f

/-- Ring 15 of the cabinet that owns an axis takes its events. -/
def telling (a : Fin 32) (s : State) : State :=
  let c := s.ownerAx a
  (((((s.setFld (HIF_CAB_CTRL c) HIF_CAB_CTRL_EVRING 15).setFld (HIF_CAB_CTRL c) HIF_CAB_CTRL_EVRING_F 15).setFld
    (HIF_RING_CFG c 15) HIF_RING_CFG_TYPE 2).setFld (HIF_RING_CFG c 15) HIF_RING_CFG_SIZE 6).setFld
      (HIF_RING_STAT c 15) HIF_RING_STAT_STATE 1)

/-- A homing run of method 3 that seeks its stop. -/
def stopSeek : HomeRun :=
  ⟨7, 3, false, false, 0, 0, 0, 0, 0, 3, 0, 1, false, 1000, 0, 0, none, 0, 0, Vector.replicate 16 0, pb [], []⟩

theorem test_meets_ObserverReportsStallsAndSlips_0 :
    ∃ (s : State) (t : Nat) (a : Fin 32) (n : _), (s.obs a).stallDue = true ∧ s.canTell (s.ownerAx a) n (plainSev
    0x0401) :=
  ⟨telling 31 (obs fun o => { o with stallDue := true }), 0, 31, 15,
  by unfold State.canTell; and_intros <;> first | decide +kernel | exact ring_both _ _ 15 _ (by decide +kernel)⟩

theorem test_meets_ObserverReportsStallsAndSlips_1 :
    ∃ (s : State) (t : Nat) (a : Fin 32), (s.obs a).stallDue = true ∧ s.home a = none :=
  ⟨obs fun o => { o with stallDue := true }, 0, 31, by decide +kernel⟩

theorem test_meets_ObserverReportsStallsAndSlips_2 :
    ∃ (s : State) (t : Nat) (a : Fin 32) (h : _), (s.obs a).stallDue = true ∧ s.home a = some h ∧ h.method = 3 ∧ 1 ≤
    h.phase ∧ h.phase ≤ 3 :=
  ⟨(obs fun o => { o with stallDue := true }).modAxis 31 fun x => { x with home := some stopSeek }, 0, 31, stopSeek,
  by decide +kernel⟩

theorem test_meets_ObserverReportsStallsAndSlips_3 :
    ∃ (s : State) (t : Nat) (a : Fin 32), 16 ≤ (s.obs a).slipRun :=
  ⟨obs fun o => { o with slipRun := 16 }, 0, 31, by decide +kernel⟩

theorem test_meets_ObserverReportsStallsAndSlips_4 :
    ∃ (s : State) (t : Nat) (a : Fin 32), 256 ≤ (s.obs a).weakRun ∧ s.bit (OB_STAT a) OB_STAT_WEAK = false :=
  ⟨obs fun o => { o with weakRun := 256 }, 0, 31, by decide +kernel⟩

theorem test_meets_ObserverReportsStallsAndSlips_5 :
    ∃ (s : State) (t : Nat) (a : Fin 32), 64 ≤ (s.obs a).noMeas ∧ (s.regime a = 1 ∨ s.regime a = 2) :=
  ⟨obs fun o => { o with noMeas := 64 }, 0, 31, by decide +kernel⟩

def loop (f : Loop → Loop) : State := ((regsOn []).setAxState 31 axSTANDSTILL).modLoop 63 f

theorem test_meets_CurrentWindowsRaiseTheirFaults_0 :
    ∃ (s : State) (t : Nat) (p : Fin 64) (a : _) (b : _), 16 ≤ (s.loop p).ovrRun ∧ (s.loop p).ovrRaised = false ∧
    s.axisOfPort p = some (a, b) :=
  ⟨loop fun l => { l with ovrRun := 16 }, 0, 63, 31, true, by decide +kernel⟩

theorem test_meets_CurrentWindowsRaiseTheirFaults_1 :
    ∃ (s : State) (t : Nat) (p : Fin 64) (a : _) (b : _), 3 ≤ (s.loop p).noRun ∧ (s.loop p).noRaised = false ∧
    s.axisOfPort p = some (a, b) :=
  ⟨loop fun l => { l with noRun := 3 }, 0, 63, 31, true, by decide +kernel⟩

theorem test_meets_CurrentWindowsRaiseTheirFaults_2 :
    ∃ (s : State) (t : Nat) (p : Fin 64), (s.loop p).missed = false :=
  ⟨loop fun l => { l with noRun := 3 }, 0, 63, by decide +kernel⟩

theorem test_meets_CurrentWindowsRaiseTheirFaults_3 :
    ∃ (s : State) (t : Nat) (p : Fin 64) (a : _) (b : _), (s.loop p).missRun = 3 ∧ s.axisOfPort p = some (a, b) ∧
    s.axState a ≠ axDISABLED :=
  ⟨loop fun l => { l with missRun := 3 }, 0, 63, 31, true, by decide +kernel⟩

theorem test_meets_WindowMonitorsFollowTheirOutputs_0 :
    ∃ (s : State) (at_ : Nat) (t : Fin 4) (j : Fin 8) (rawH : BitVec 15) (rawL : BitVec 15), s.devState = dOFF :=
  ⟨inState dOFF [], 100000, 3, 7, 0, 0, by decide +kernel⟩

theorem test_meets_WindowMonitorsFollowTheirOutputs_1 :
    ∃ (s : State) (at_ : Nat) (t : Fin 4) (j : Fin 8) (rawH : BitVec 15) (rawL : BitVec 15),
    let h := (s.reach at_).winLevel t (2 * j.1) rawH; let l := (s.reach at_).winLevel t (2 * j.1 + 1) rawL; 
    s.devState ≠ dOFF ∧ s.windowBusy t j.1 = false ∧ (s.tile t).win.quiet[j] ≤ (s.reach at_).now ∧ s.windowParity t =
    false ∧ (s.tile t).win.retired.toArray.getD (2 * j.1) false = false ∧ (s.tile t).win.retired.toArray.getD (2 * j.1
    + 1) false = false ∧ h = true ∧ l = true :=
  ⟨regsOn [], 100000, 3, 7, 0x7FFF, 0x7FFF, by dsimp only; decide +kernel⟩

theorem test_meets_WindowMonitorsFollowTheirOutputs_2 :
    ∃ (s : State) (at_ : Nat) (t : Fin 4) (j : Fin 8) (rawH : BitVec 15) (rawL : BitVec 15),
    let h := (s.reach at_).winLevel t (2 * j.1) rawH; let l := (s.reach at_).winLevel t (2 * j.1 + 1) rawL; 
    s.devState ≠ dOFF ∧ s.windowBusy t j.1 = false ∧ (s.tile t).win.quiet[j] ≤ (s.reach at_).now ∧ s.windowParity t =
    false ∧ (s.tile t).win.retired.toArray.getD (2 * j.1) false = false ∧ (s.tile t).win.retired.toArray.getD (2 * j.1
    + 1) false = false ∧ h = true ∧ l = false :=
  ⟨regsOn [], 100000, 3, 7, 0x7FFF, 0, by dsimp only; decide +kernel⟩

theorem test_meets_WindowMonitorsFollowTheirOutputs_3 :
    ∃ (s : State) (at_ : Nat) (t : Fin 4) (j : Fin 8) (rawH : BitVec 15) (rawL : BitVec 15),
    let h := (s.reach at_).winLevel t (2 * j.1) rawH; let l := (s.reach at_).winLevel t (2 * j.1 + 1) rawL; 
    s.devState ≠ dOFF ∧ s.windowBusy t j.1 = false ∧ (s.tile t).win.quiet[j] ≤ (s.reach at_).now ∧ s.windowParity t =
    false ∧ (s.tile t).win.retired.toArray.getD (2 * j.1) false = false ∧ (s.tile t).win.retired.toArray.getD (2 * j.1
    + 1) false = false ∧ h = false ∧ l = true :=
  ⟨regsOn [], 100000, 3, 7, 0, 0x7FFF, by dsimp only; decide +kernel⟩

theorem test_meets_WindowMonitorsFollowTheirOutputs_4 :
    ∃ (s : State) (at_ : Nat) (t : Fin 4) (j : Fin 8) (rawH : BitVec 15) (rawL : BitVec 15),
    let h := (s.reach at_).winLevel t (2 * j.1) rawH; let l := (s.reach at_).winLevel t (2 * j.1 + 1) rawL; 
    s.devState ≠ dOFF ∧ s.windowBusy t j.1 = false ∧ (s.tile t).win.quiet[j] ≤ (s.reach at_).now ∧ s.windowParity t =
    false ∧ (s.tile t).win.retired.toArray.getD (2 * j.1) false = false ∧ (s.tile t).win.retired.toArray.getD (2 * j.1
    + 1) false = false ∧ h = false ∧ l = false ∧ (s.tile t).win.unknown.toArray.getD (2 * j.1) false = false ∧ (s.tile
    t).win.unknown.toArray.getD (2 * j.1 + 1) false = false :=
  ⟨(regsOn []).modTile 3 fun x => { x with win := { x.win with unknown := Vector.replicate 16 false } }, 100000, 3, 7,
  0, 0, by dsimp only; decide +kernel⟩

theorem test_meets_WindowMonitorsFollowTheirOutputs_5 :
    ∃ (s : State) (at_ : Nat) (t : Fin 4) (j : Fin 8) (rawH : BitVec 15) (rawL : BitVec 15), s.devState ≠ dOFF ∧
    s.windowBusy t j.1 = true :=
  ⟨(regsOn []).modTile 3 fun x =>
  { x with win := { x.win with check := x.win.check.set 15 (some ⟨1, 1, false, false, false⟩) } }, 100000, 3, 7, 0, 0,
  by decide +kernel⟩

def checking (k : CmpCheck) : State := (regsOn []).modPort 63 fun x => { x with check := x.check.set 9 (some k) }

def winCheck (k : CmpCheck) : State :=
  (regsOn []).modTile 3 fun x => { x with win := { x.win with check := x.win.check.set 15 (some k) } }

theorem test_meets_SelfChecksRunTheirSteps_0 :
    ∃ (s : State) (t : Nat) (p : Fin 64) (i : Fin 10) (k : CmpCheck) (normal : Bool) (raw : Bool), (s.port p).check[i]
    = some k ∧ (∀ r, (s.tile (tileOfPort p)).diag = some r → r.step ≠ 0) ∧ k.step = 1 :=
  ⟨checking ⟨1, 1, false, false, false⟩, 0, 63, 9, ⟨1, 1, false, false, false⟩, false, false, by decide +kernel⟩

theorem test_meets_SelfChecksRunTheirSteps_1 :
    ∃ (s : State) (t : Nat) (p : Fin 64) (i : Fin 10) (k : CmpCheck) (normal : Bool) (raw : Bool), (s.port p).check[i]
    = some k ∧ (∀ r, (s.tile (tileOfPort p)).diag = some r → r.step ≠ 0) ∧ k.step = 2 ∧ raw = !portInverted i :=
  ⟨checking ⟨2, 1, true, false, false⟩, 0, 63, 9, ⟨2, 1, true, false, false⟩, false, true, by decide +kernel⟩

theorem test_meets_SelfChecksRunTheirSteps_2 :
    ∃ (s : State) (t : Nat) (p : Fin 64) (i : Fin 10) (k : CmpCheck) (normal : Bool) (raw : Bool), (s.port p).check[i]
    = some k ∧ (∀ r, (s.tile (tileOfPort p)).diag = some r → r.step ≠ 0) ∧ (k.step = 2 ∧ raw = portInverted i ∨ k.step
    = 3 ∧ raw = !portInverted i) ∧ k.attempt < 3 :=
  ⟨checking ⟨2, 1, true, false, false⟩, 0, 63, 9, ⟨2, 1, true, false, false⟩, false, false, by decide +kernel⟩

theorem test_meets_SelfChecksRunTheirSteps_3 :
    ∃ (s : State) (t : Nat) (p : Fin 64) (i : Fin 10) (k : CmpCheck) (normal : Bool) (raw : Bool), (s.port p).check[i]
    = some k ∧ (∀ r, (s.tile (tileOfPort p)).diag = some r → r.step ≠ 0) ∧ (k.step = 2 ∧ raw = portInverted i ∨ k.step
    = 3 ∧ raw = !portInverted i) ∧ 3 ≤ k.attempt :=
  ⟨checking ⟨3, 3, true, false, false⟩, 0, 63, 9, ⟨3, 3, true, false, false⟩, false, true, by decide +kernel⟩

theorem test_meets_SelfChecksRunTheirSteps_4 :
    ∃ (s : State) (t : Nat) (p : Fin 64) (i : Fin 10) (k : CmpCheck) (normal : Bool) (raw : Bool), (s.port p).check[i]
    = some k ∧ (∀ r, (s.tile (tileOfPort p)).diag = some r → r.step ≠ 0) ∧ (k.step = 2 ∧ raw = portInverted i ∨ k.step
    = 3 ∧ raw = !portInverted i) ∧ 3 ≤ k.attempt ∧ s.bit (CMP_CHKRES (pT p) (pI p)) ⟨20 + i.1, 1⟩ = false :=
  ⟨checking ⟨3, 3, true, false, false⟩, 0, 63, 9, ⟨3, 3, true, false, false⟩, false, true, by decide +kernel⟩

theorem test_meets_SelfChecksRunTheirSteps_5 :
    ∃ (s : State) (t : Nat) (p : Fin 64) (i : Fin 10) (k : CmpCheck) (normal : Bool) (raw : Bool), (s.port p).check[i]
    = some k ∧ (∀ r, (s.tile (tileOfPort p)).diag = some r → r.step ≠ 0) ∧ k.step = 3 ∧ raw = portInverted i :=
  ⟨checking ⟨3, 3, true, false, false⟩, 0, 63, 9, ⟨3, 3, true, false, false⟩, false, false, by decide +kernel⟩

theorem test_meets_SelfChecksRunTheirSteps_6 :
    ∃ (s : State) (at_ : Nat) (t : Fin 4) (i : Fin 16) (k : CmpCheck) (normal : Bool) (raw : Bool), (s.tile
    t).win.check[i] = some k ∧ (∀ r, (s.tile t).diag = some r → r.step ≠ 0) ∧ k.step = 1 :=
  ⟨winCheck ⟨1, 1, false, false, false⟩, 0, 3, 15, ⟨1, 1, false, false, false⟩, false, false, by decide +kernel⟩

theorem test_meets_SelfChecksRunTheirSteps_7 :
    ∃ (s : State) (at_ : Nat) (t : Fin 4) (i : Fin 16) (k : CmpCheck) (normal : Bool) (raw : Bool), (s.tile
    t).win.check[i] = some k ∧ (∀ r, (s.tile t).diag = some r → r.step ≠ 0) ∧ k.step = 2 ∧ raw = !winInverted i :=
  ⟨winCheck ⟨2, 1, true, false, false⟩, 0, 3, 15, ⟨2, 1, true, false, false⟩, false, !winInverted 15,
  by decide +kernel⟩

theorem test_meets_SelfChecksRunTheirSteps_8 :
    ∃ (s : State) (at_ : Nat) (t : Fin 4) (i : Fin 16) (k : CmpCheck) (normal : Bool) (raw : Bool), (s.tile
    t).win.check[i] = some k ∧ (∀ r, (s.tile t).diag = some r → r.step ≠ 0) ∧ (k.step = 2 ∧ raw = winInverted i ∨
    k.step = 3 ∧ raw = !winInverted i) ∧ k.attempt < 3 :=
  ⟨winCheck ⟨2, 1, true, false, false⟩, 0, 3, 15, ⟨2, 1, true, false, false⟩, false, winInverted 15,
  by decide +kernel⟩

theorem test_meets_SelfChecksRunTheirSteps_9 :
    ∃ (s : State) (at_ : Nat) (t : Fin 4) (i : Fin 16) (k : CmpCheck) (normal : Bool) (raw : Bool), (s.tile
    t).win.check[i] = some k ∧ (∀ r, (s.tile t).diag = some r → r.step ≠ 0) ∧ (k.step = 2 ∧ raw = winInverted i ∨
    k.step = 3 ∧ raw = !winInverted i) ∧ 3 ≤ k.attempt :=
  ⟨winCheck ⟨3, 3, true, false, false⟩, 0, 3, 15, ⟨3, 3, true, false, false⟩, false, !winInverted 15,
  by decide +kernel⟩

theorem test_meets_SelfChecksRunTheirSteps_10 :
    ∃ (s : State) (at_ : Nat) (t : Fin 4) (i : Fin 16) (k : CmpCheck) (normal : Bool) (raw : Bool), (s.tile
    t).win.check[i] = some k ∧ (∀ r, (s.tile t).diag = some r → r.step ≠ 0) ∧ k.step = 3 ∧ raw = winInverted i :=
  ⟨winCheck ⟨3, 3, true, false, false⟩, 0, 3, 15, ⟨3, 3, true, false, false⟩, false, winInverted 15,
  by decide +kernel⟩

theorem test_meets_TripsCountLatchAndClear_0 :
    ∃ (s : State) (t : Nat) (p : Fin 64) (low : Bool) (raw : BitVec 15),
    let z := settlePort p (s.reach t); let on := z.portLevel p (if low then 3 else 2) raw;  on = true ∧ z.gatesLive p
    z.now = true ∧ z.bit (pwmStat p) PWM_STAT_TRIPPING = false ∧ z.itBlanked p z.now = false ∧ (z.pwm p).tripSeen =
    false :=
  ⟨pinned id, 100000, 63, false, 0x7FFF, by dsimp only; decide +kernel⟩

theorem test_meets_TripsCountLatchAndClear_1 :
    ∃ (s : State) (t : Nat) (p : Fin 64) (low : Bool) (raw : BitVec 15),
    let z := settlePort p (s.reach t); let on := z.portLevel p (if low then 3 else 2) raw;  on = false :=
  ⟨pinned id, 100000, 63, false, 0, by dsimp only; decide +kernel⟩

theorem test_meets_TripsCountLatchAndClear_2 :
    ∃ (s : State) (t : Nat) (p : Fin 64) (a : _) (b : _), let z := settlePort p (s.reach t);  z.portState p = pRUN ∧
    z.fld (PWM_TRIP (pT p) (pI p)) PWM_TRIP_NTRIP ≤ z.fld (PWM_TRIPSTAT (pT p) (pI p)) PWM_TRIPSTAT_TRIP_CNT ∧
    s.axisOfPort p = some (a, b) :=
  ⟨(pinned id).setFld (PWM_TRIPSTAT 3 15) PWM_TRIPSTAT_TRIP_CNT 65535, 5, 63, 31, true, by dsimp only; decide +kernel⟩

theorem test_meets_TripsCountLatchAndClear_3 :
    ∃ (s : State) (t : Nat) (p : Fin 64), let z := settlePort p (s.reach t);  z.fld (PWM_TRIP (pT p) (pI p))
    PWM_TRIP_MCLEAN ≤ z.fld (PWM_TRIPSTAT (pT p) (pI p)) PWM_TRIPSTAT_CLEAN :=
  ⟨(pinned id).setFld (PWM_TRIPSTAT 3 15) PWM_TRIPSTAT_CLEAN 255, 5, 63, by dsimp only; decide +kernel⟩

theorem test_meets_CommutationSelectsMasks_0 :
    ∃ (s : State) (t : Nat) (a : Fin 32) (code : Nat) (c : Nat × Nat) (b : _),
    let z := settlePort (s.portOf a true) (settlePort (s.portOf a false) (s.reach t)); let q := s.portOf a b; 
    dueCrossing (z.obs a).crossings code z.now = some c ∧ s.portOf a false ≠ s.portOf a true ∧ z.portState q = pRUN ∧
    code < 7 ∧ z.bit (PWM_MASKEV (pT q) (pI q)) (PWM_MASKEV_EN code) = true :=
  ⟨(((pinned id).setPortState 62 pRUN).modObs 31 fun o => { o with crossings := [(6, 5)] }).setBit (PWM_MASKEV 3 15)
  (PWM_MASKEV_EN 6) true, 5, 31, 6, (6, 5), true, by dsimp only; decide +kernel⟩

theorem test_meets_CommutationSelectsMasks_1 :
    ∃ (s : State) (t : Nat) (a : Fin 32) (code : Nat) (c : Nat × Nat) (b : _),
    let z := settlePort (s.portOf a true) (settlePort (s.portOf a false) (s.reach t)); let q := s.portOf a b; 
    dueCrossing (z.obs a).crossings code z.now = some c ∧ s.portOf a false ≠ s.portOf a true ∧ z.portState q = pRUN ∧
    code < 7 ∧ z.bit (PWM_MASKEV (pT q) (pI q)) (PWM_MASKEV_EN code) = true ∧ (z.pwm q).masks.length < 16 :=
  ⟨(((pinned id).setPortState 62 pRUN).modObs 31 fun o => { o with crossings := [(6, 5)] }).setBit (PWM_MASKEV 3 15)
  (PWM_MASKEV_EN 6) true, 5, 31, 6, (6, 5), true, by dsimp only; decide +kernel⟩

/-- One command reached the pins of leg A of port 63 at 100 ns. -/
def edgeAt (turnOn : Bool) : State := pinned fun w => { w with edges := [⟨100, 0, turnOn, 0, 300⟩] }

theorem test_meets_SwitchingTimesAreMeasured_0 :
    ∃ (s : State) (u : Nat) (p : Fin 64) (b : Bool) (rising : Bool) (k : _),
    let z := settlePort p (s.reach (u * 5 / 32));  z.compsOn p = true ∧ z.bit (CMP_CHKRES (pT p) (pI p)) ⟨20 + (legIdx
    b).1, 1⟩ = false ∧ z.lastEdge p b (unitNs u) = some k ∧ k.on = false :=
  ⟨edgeAt false, 3200, 63, false, false, (⟨100, 0, false, 0, 300⟩ : PinEdge), by dsimp only; decide +kernel⟩

theorem test_meets_SwitchingTimesAreMeasured_1 :
    ∃ (s : State) (u : Nat) (p : Fin 64) (b : Bool) (rising : Bool) (k : _),
    let z := settlePort p (s.reach (u * 5 / 32));  z.compsOn p = true ∧ z.bit (CMP_CHKRES (pT p) (pI p)) ⟨20 + (legIdx
    b).1, 1⟩ = false ∧ z.lastEdge p b (unitNs u) = some k ∧ k.on = true ∧ unitNs u ≤ k.time + 400 :=
  ⟨edgeAt true, 3200, 63, false, false, (⟨100, 0, true, 0, 300⟩ : PinEdge), by dsimp only; decide +kernel⟩

theorem test_meets_SwitchingTimesAreMeasured_2 :
    ∃ (s : State) (u : Nat) (p : Fin 64) (b : Bool) (rising : Bool), let z := settlePort p (s.reach (u * 5 / 32)); 
    z.compsOn p = true ∧ z.bit (CMP_CHKRES (pT p) (pI p)) ⟨20 + (legIdx b).1, 1⟩ = false ∧ (z.lastEdge p b (unitNs u)
    = none ∨ (∃ k, z.lastEdge p b (unitNs u) = some k ∧ k.on = true ∧ k.time + 400 < unitNs u)) ∧ (z.gd
    p).noEdge[legIdx b] = false :=
  ⟨pinned id, 3200, 63, false, false, by dsimp only; decide +kernel⟩

theorem test_meets_SwitchingTimesAreMeasured_3 :
    ∃ (s : State) (u : Nat) (p : Fin 64) (b : Bool) (rising : Bool), let z := settlePort p (s.reach (u * 5 / 32)); 
    z.compsOn p = true ∧ z.bit (CMP_CHKRES (pT p) (pI p)) ⟨20 + (legIdx b).1, 1⟩ = true :=
  ⟨(pinned id).setReg (CMP_CHKRES 3 15) 0x3FF00000, 3200, 63, false, false, by dsimp only; decide +kernel⟩

theorem test_meets_SwitchingTimesAreMeasured_4 :
    ∃ (s : State) (t : Nat) (p : Fin 64) (i : Fin 8) (a : _) (b : _), let z := settlePort p (s.reach t);  256 ≤ (z.gd
    p).limRun[i] ∧ (z.gd p).atLim[i] = false ∧ z.bit (gdStat p) GD_STAT_AT_LIMIT = false ∧ s.axisOfPort p = some (a,
    b) :=
  ⟨((regsOn []).modGd 63 fun g => { g with limRun := g.limRun.set 7 256 }), 0, 63, 7, 31, true,
  by dsimp only; decide +kernel⟩

theorem test_meets_SupplyLockoutsHoldTheirSwitches_0 :
    ∃ (s : State) (t : Nat) (p : Fin 64) (l : Fin 2), let z := settlePort p (s.reach t);  (z.gd p).uvBoot[l] = false :=
  ⟨regsOn [], 0, 63, 1, by dsimp only; decide +kernel⟩

theorem test_meets_SupplyLockoutsHoldTheirSwitches_1 :
    ∃ (s : State) (t : Nat) (p : Fin 64), let z := settlePort p (s.reach t);  z.bit (GD_TSTAT (tileOfPort p))
    GD_TSTAT_VGD_UV = false :=
  ⟨regsOn [], 0, 63, by dsimp only; decide +kernel⟩

theorem test_meets_SupplyLockoutsHoldTheirSwitches_2 :
    ∃ (s : State) (t : Nat) (p : Fin 64) (l : Fin 2), let z := settlePort p (s.reach t);  (z.gd p).uvBoot[l] = true :=
  ⟨(regsOn []).modGd 63 fun g => { g with uvBoot := g.uvBoot.set 1 true }, 0, 63, 1, by dsimp only; decide +kernel⟩

theorem test_meets_SupplyLockoutsHoldTheirSwitches_3 :
    ∃ (s : State) (t : Nat) (p : Fin 64) (l : Fin 2), let z := settlePort p (s.reach t);  (z.gd p).uvRefresh[l] = true :=
  ⟨(regsOn []).modGd 63 fun g => { g with uvBoot := g.uvBoot.set 1 true, uvRefresh := g.uvRefresh.set 1 true }, 0, 63,
  1, by dsimp only; decide +kernel⟩

theorem test_meets_SupplyLockoutsHoldTheirSwitches_4 :
    ∃ (s : State) (t : Nat) (p : Fin 64), let z := settlePort p (s.reach t);  z.bit (GD_TSTAT (tileOfPort p))
    GD_TSTAT_VGD_UV = true :=
  ⟨(regsOn []).setBit (GD_TSTAT 3) GD_TSTAT_VGD_UV true, 0, 63, by dsimp only; decide +kernel⟩

theorem test_meets_SupplyLockoutsHoldTheirSwitches_5 :
    ∃ (s : State) (t : Nat) (p : Fin 64) (i : Fin 3) (a : _) (b : _), let z := settlePort p (s.reach t);  z.uvDue p i
    = true ∧ i ≠ 2 ∧ s.axisOfPort p = some (a, b) :=
  ⟨(regsOn []).modGd 63 fun g => { g with uvRun := g.uvRun.set 1 65535 }, 0, 63, 1, 31, true,
  by dsimp only; decide +kernel⟩

theorem test_meets_SupplyLockoutsHoldTheirSwitches_6 :
    ∃ (s : State) (t : Nat) (p : Fin 64) (i : Fin 3) (a : _) (b : _), let z := settlePort p (s.reach t);  z.uvDue p i
    = true ∧ i = 2 ∧ s.axisOfPort p = some (a, b) ∧ tileOf a = tileOfPort p :=
  ⟨(regsOn []).modGd 63 fun g => { g with uvRun := g.uvRun.set 2 65535 }, 0, 63, 2, 31, true,
  by dsimp only; decide +kernel⟩

/-- A refresh pulse of leg B of port 63 whose sample has come. -/
def refreshing (n : Nat) : State :=
  (pinned fun w => { w with pulses := [(1, 0)] }).modGd 63 fun g =>
    { g with pulseDue := g.pulseDue.set 1 true, refreshRun := g.refreshRun.set 1 n }

theorem test_meets_BootstrapsAreRefreshed_0 :
    ∃ (s : State) (t : Nat) (p : Fin 64) (l : Fin 2) (low : _), let z := settlePort p (s.reach t);  low = true ∧
    z.portState p = pRUN ∧ (z.gd p).pulseDue[l] = false ∧ (z.gd p).uvRefresh[l] = false :=
  ⟨pinned id, 0, 63, 1, true, by dsimp only; decide +kernel⟩

theorem test_meets_BootstrapsAreRefreshed_1 :
    ∃ (s : State) (t : Nat) (p : Fin 64) (l : Fin 2) (low : _), low = false :=
  ⟨pinned id, 0, 63, 1, false, by decide +kernel⟩

theorem test_meets_BootstrapsAreRefreshed_2 :
    ∃ (s : State) (t : Nat) (p : Fin 64) (l : Fin 2) (above : Bool) (v : Rat),
    let z := settlePort p (s.reach t); let ok := (above && !((z.fld (gdStat p) GD_STAT_UV).testBit (2 * l.1 + 1) || (z.gd p).rejoin.toArray.getD (2 * l.1 + 1) false)); 
    (z.gd p).pulseDue[l] = true ∧ ((z.pwm p).pulses.find? fun r => r.1 == l.1).map (·.2) = some v ∧ v + z.dtNs p +
    z.refreshNs p + 100 ≤ z.now ∧ ok = true :=
  ⟨refreshing 0, 100000, 63, 1, true, 0, by dsimp only; decide +kernel⟩

theorem test_meets_BootstrapsAreRefreshed_3 :
    ∃ (s : State) (t : Nat) (p : Fin 64) (l : Fin 2) (above : Bool) (v : Rat),
    let z := settlePort p (s.reach t); let ok := (above && !((z.fld (gdStat p) GD_STAT_UV).testBit (2 * l.1 + 1) || (z.gd p).rejoin.toArray.getD (2 * l.1 + 1) false)); 
    (z.gd p).pulseDue[l] = true ∧ ((z.pwm p).pulses.find? fun r => r.1 == l.1).map (·.2) = some v ∧ v + z.dtNs p +
    z.refreshNs p + 100 ≤ z.now ∧ ok = false :=
  ⟨refreshing 0, 100000, 63, 1, false, 0, by dsimp only; decide +kernel⟩

theorem test_meets_BootstrapsAreRefreshed_4 :
    ∃ (s : State) (t : Nat) (p : Fin 64) (l : Fin 2) (above : Bool) (v : Rat),
    let z := settlePort p (s.reach t); let ok := (above && !((z.fld (gdStat p) GD_STAT_UV).testBit (2 * l.1 + 1) || (z.gd p).rejoin.toArray.getD (2 * l.1 + 1) false)); 
    (z.gd p).pulseDue[l] = true ∧ ((z.pwm p).pulses.find? fun r => r.1 == l.1).map (·.2) = some v ∧ v + z.dtNs p +
    z.refreshNs p + 100 ≤ z.now ∧ ok = false ∧ (z.gd p).refreshRun[l] < 3 :=
  ⟨refreshing 2, 100000, 63, 1, false, 0, by dsimp only; decide +kernel⟩

theorem test_meets_BootstrapsAreRefreshed_5 :
    ∃ (s : State) (t : Nat) (p : Fin 64) (l : Fin 2), let z := settlePort p (s.reach t);  4 ≤ (z.gd p).refreshRun[l] ∧
    z.portState p = pRUN :=
  ⟨refreshing 4, 100000, 63, 1, by dsimp only; decide +kernel⟩

def shorting (latch : Nat) : State := (pinned fun w => { w with on := w.on.set 1 1 }).setFld (gdStat 63) GD_STAT_LATCH latch

theorem test_meets_ShortsLatchTheirSwitches_0 :
    ∃ (s : State) (t : Nat) (p : Fin 64) (b : Bool), let z := settlePort p (s.reach t);  z.compsOn p = true ∧
    z.gatesLive p z.now = true ∧ (z.fld (gdStat p) GD_STAT_LATCH).testBit (if b then 2 else 0) = false ∧ z.fld (gdStat
    p) GD_STAT_LATCH = 0 :=
  ⟨shorting 0, 0, 63, false, by dsimp only; decide +kernel⟩

theorem test_meets_ShortsLatchTheirSwitches_1 :
    ∃ (s : State) (t : Nat) (p : Fin 64) (b : Bool), let z := settlePort p (s.reach t);  z.compsOn p = true ∧
    z.gatesLive p z.now = true ∧ (z.fld (gdStat p) GD_STAT_LATCH).testBit (if b then 2 else 0) = false ∧ z.portState p
    = pRUN ∧ z.fld (gdStat p) GD_STAT_LATCH ≠ 0 :=
  ⟨shorting 8, 0, 63, false, by dsimp only; decide +kernel⟩

theorem test_meets_ShortsLatchTheirSwitches_2 :
    ∃ (s : State) (t : Nat) (p : Fin 64) (b : Bool) (a : _) (c : _), let z := settlePort p (s.reach t);  z.compsOn p =
    true ∧ z.gatesLive p z.now = true ∧ (z.fld (gdStat p) GD_STAT_LATCH).testBit (if b then 2 else 0) = false ∧
    s.axisOfPort p = some (a, c) :=
  ⟨shorting 8, 0, 63, false, 31, true, by dsimp only; decide +kernel⟩

theorem test_meets_ShortsLatchTheirSwitches_3 :
    ∃ (s : State) (t : Nat) (p : Fin 64) (b : Bool), let z := settlePort p (s.reach t);  z.compsOn p = true ∧
    z.gatesLive p z.now = false :=
  ⟨(regsOn []).setPortState 63 pARMED, 0, 63, false, by dsimp only; decide +kernel⟩

theorem test_meets_ShortsLatchTheirSwitches_4 :
    ∃ (s : State) (t : Nat) (p : Fin 64) (sw : Fin 4) (raw : BitVec 15), let z := settlePort p (s.reach t); 
    z.portLevel p (4 + sw.1) raw = true ∧ z.desatActs p sw.1 = true ∧ z.fld (gdStat p) GD_STAT_LATCH = 0 :=
  ⟨shorting 0, 100000, 63, 3, 0x7FFF, by dsimp only; decide +kernel⟩

theorem test_meets_ShortsLatchTheirSwitches_5 :
    ∃ (s : State) (t : Nat) (p : Fin 64) (sw : Fin 4) (raw : BitVec 15), let z := settlePort p (s.reach t); 
    z.portLevel p (4 + sw.1) raw = true ∧ z.desatActs p sw.1 = true ∧ z.portState p = pRUN ∧ z.fld (gdStat p)
    GD_STAT_LATCH ≠ 0 :=
  ⟨shorting 4, 100000, 63, 3, 0x7FFF, by dsimp only; decide +kernel⟩

theorem test_meets_ShortsLatchTheirSwitches_6 :
    ∃ (s : State) (t : Nat) (p : Fin 64) (sw : Fin 4) (raw : BitVec 15) (a : _) (c : _),
    let z := settlePort p (s.reach t);  z.portLevel p (4 + sw.1) raw = true ∧ z.desatActs p sw.1 = true ∧ s.axisOfPort
    p = some (a, c) :=
  ⟨shorting 8, 100000, 63, 3, 0x7FFF, 31, true, by dsimp only; decide +kernel⟩

def diag (step : Nat) (ports : List Nat) : State :=
  (regsOn []).modTile 3 fun x => { x with diag := some ⟨none, 0, false, ports, step⟩, vbusLast := 24000 }

theorem test_meets_DiagnosticsRunAndEnd_0 :
    ∃ (s : State) (d : Desc) (ps : List (Fin 64)), let z := ps.foldl (fun s q => settlePort q s) (s.reach d.accept); 
    d.plain ∧ s.admits d = true ∧ ps = portsOf (pay64 d.payload 0) ∧ ps ≠ [] ∧ payByte d.payload 8 ≤ 1 ∧ payZero
    d.payload 9 48 = true ∧ (∀ p ∈ ps, s.ownerPort p = d.cab ∧ z.testable p = true ∧ (s.tile (tileOfPort p)).diag =
    none) :=
  ⟨(regsOn []).modTile 3 fun x => { x with vbusLast := 10000 }, dCab 0x40 [(7, 128)], [63],
  by dsimp only; unfold Desc.plain; decide +kernel⟩

theorem test_meets_DiagnosticsRunAndEnd_1 :
    ∃ (s : State) (at_ : Nat) (t : Fin 4) (va : Int) (vb : Int) (r : DiagRun) (i : Nat) (rest : List Nat), (s.tile
    t).diag = some r ∧ r.ports = i :: rest ∧ r.step = 0 :=
  ⟨diag 0 [15], 0, 3, 0, 0, ⟨none, 0, false, [15], 0⟩, 15, [], by decide +kernel⟩

theorem test_meets_DiagnosticsRunAndEnd_2 :
    ∃ (s : State) (at_ : Nat) (t : Fin 4) (va : Int) (vb : Int) (r : DiagRun) (i : Nat) (rest : List Nat) (c : Fin 10)
    (k : CmpCheck) (normal : Bool) (raw : Bool), let p := devPort t i;  (s.tile t).diag = some r ∧ r.ports = i :: rest
    ∧ r.step = 0 ∧ rest = [] ∧ (s.port p).check[c] = some k ∧ (∀ c' : Fin 10, c' ≠ c → (s.port p).check[c'] = none) ∧
    k.step = 3 ∧ raw = portInverted c :=
  ⟨(diag 0 [15]).modPort 63 fun x => { x with check := x.check.set 9 (some ⟨3, 1, true, false, false⟩) }, 0, 3, 0, 0,
  ⟨none, 0, false, [15], 0⟩, 15, [], 9, ⟨3, 1, true, false, false⟩, false, portInverted 9,
  by dsimp only; decide +kernel⟩

theorem test_meets_DiagnosticsRunAndEnd_3 :
    ∃ (s : State) (at_ : Nat) (t : Fin 4) (va : Int) (vb : Int) (r : DiagRun) (i : Nat) (rest : List Nat), (s.tile
    t).diag = some r ∧ r.ports = i :: rest ∧ 0 < r.step ∧ r.step < 3 ∧ stepFails r.step va vb (s.tile t).vbusLast =
    none :=
  ⟨diag 2 [15], 0, 3, 12000, 12000, ⟨none, 0, false, [15], 2⟩, 15, [], by decide +kernel⟩

theorem test_meets_DiagnosticsRunAndEnd_4 :
    ∃ (s : State) (at_ : Nat) (t : Fin 4) (va : Int) (vb : Int) (r : DiagRun) (i : Nat) (rest : List Nat) (res : _),
    (s.tile t).diag = some r ∧ r.ports = i :: rest ∧ 0 < r.step ∧ stepFails r.step va vb (s.tile t).vbusLast = some
    res ∧ rest = [] :=
  ⟨diag 2 [15], 0, 3, 11999, 12000, ⟨none, 0, false, [15], 2⟩, 15, [], 3, by decide +kernel⟩

def quad (a : Bool) : State :=
  (regsOn [(GLB_ENC_CFG 15, GLB_ENC_CFG_MODE, 1)]).modEnc 15 fun x => { x with a := a }

/-- SSI on port 15, frames of 32 bits at 4 MHz every 1 ms. -/
def ssiPort : State :=
  regsOn [(GLB_ENC_CFG 15, GLB_ENC_CFG_MODE, 2), (GLB_ENC_CFG 15, GLB_ENC_CFG_BITS, 32),
    (GLB_ENC_CFG 15, GLB_ENC_CFG_IVL, 1000), (GLB_ENC_CFG 15, GLB_ENC_CFG_CLK, 5)]

theorem test_meets_EncodersCountAndExtend_0 :
    ∃ (s : State) (t : Nat) (n : Fin 16) (rawA : BitVec 10) (rawB : BitVec 10) (m : _),
    let a := s.encLevel n (s.enc n).a rawA; let b := s.encLevel n (s.enc n).b rawB;  s.encMode n = 1 ∧ ((s.enc n).a ≠
    a ∧ (s.enc n).b = b ∨ (s.enc n).a = a ∧ (s.enc n).b ≠ b) ∧ (s.enc n).last = s.fldI (GLB_ENC_POS n) GLB_ENC_POS_POS
    ∧ m ≠ n :=
  ⟨quad false, 0, 15, 0x3FF, 0, 14, by dsimp only; decide +kernel⟩

theorem test_meets_EncodersCountAndExtend_1 :
    ∃ (s : State) (t : Nat) (n : Fin 16) (rawA : BitVec 10) (rawB : BitVec 10),
    let a := s.encLevel n (s.enc n).a rawA; let b := s.encLevel n (s.enc n).b rawB;  s.encMode n = 1 ∧ (s.enc n).a = a
    ∧ (s.enc n).b = b :=
  ⟨quad false, 0, 15, 0, 0, by dsimp only; decide +kernel⟩

theorem test_meets_EncodersCountAndExtend_2 :
    ∃ (s : State) (t : Nat) (n : Fin 16) (rawA : BitVec 10) (rawB : BitVec 10) (m : _), s.encMode n ≠ 1 ∧ m ≠ n :=
  ⟨regsOn [], 0, 15, 0, 0, 14, by decide +kernel⟩

theorem test_meets_EncodersCountAndExtend_3 :
    ∃ (s : State) (t : Nat) (n : Fin 16) (raw : Nat) (y : Fin 4),
    let ivl := 1000 * s.fld (GLB_ENC_CFG n) GLB_ENC_CFG_IVL; let start := (s.reach t).now / ivl * ivl;  s.encMode n =
    2 ∧ 1 ≤ s.encBits n ∧ s.encBits n ≤ 32 ∧ s.bit (GLB_ENC_STAT n) GLB_ENC_STAT_FAULT = false ∧ start + s.encBits n *
    ssiClock (s.fld (GLB_ENC_CFG n) GLB_ENC_CFG_CLK) ≤ (s.reach t).now ∧ (s.enc n).frameAt ≠ some start ∧ (s.bit
    (GLB_ENC_STAT n) GLB_ENC_STAT_SIG = true ∨ (∀ a, s.obMode a = 3 → s.fld (OB_CFG a) OB_CFG_ENC = n.1 → s.axState a
    = axDISABLED)) ∧ start ≤ s.boundary y :=
  ⟨ssiPort.modTile 0 fun x => { x with lastB := 1000000 }, 1008000, 15, 4294967295, 0, by dsimp only; decide +kernel⟩

theorem test_meets_EncodersCountAndExtend_4 :
    ∃ (s : State) (t : Nat) (n : Fin 16) (raw : Nat) (y : Fin 4),
    let ivl := 1000 * s.fld (GLB_ENC_CFG n) GLB_ENC_CFG_IVL; let start := (s.reach t).now / ivl * ivl;  s.encMode n =
    2 ∧ 1 ≤ s.encBits n ∧ s.encBits n ≤ 32 ∧ s.bit (GLB_ENC_STAT n) GLB_ENC_STAT_FAULT = false ∧ start + s.encBits n *
    ssiClock (s.fld (GLB_ENC_CFG n) GLB_ENC_CFG_CLK) ≤ (s.reach t).now ∧ (s.enc n).frameAt ≠ some start ∧ (s.bit
    (GLB_ENC_STAT n) GLB_ENC_STAT_SIG = true ∨ (∀ a, s.obMode a = 3 → s.fld (OB_CFG a) OB_CFG_ENC = n.1 → s.axState a
    = axDISABLED)) ∧ s.boundary y < start :=
  ⟨ssiPort, 1008000, 15, 4294967295, 0, by dsimp only; decide +kernel⟩

theorem test_meets_EncodersCountAndExtend_5 :
    ∃ (s : State) (t : Nat) (n : Fin 16) (raw : Nat) (m : _),
    let ivl := 1000 * s.fld (GLB_ENC_CFG n) GLB_ENC_CFG_IVL; let start := (s.reach t).now / ivl * ivl;  s.encMode n =
    2 ∧ 1 ≤ s.encBits n ∧ s.encBits n ≤ 32 ∧ s.bit (GLB_ENC_STAT n) GLB_ENC_STAT_FAULT = false ∧ start + s.encBits n *
    ssiClock (s.fld (GLB_ENC_CFG n) GLB_ENC_CFG_CLK) ≤ (s.reach t).now ∧ (s.enc n).frameAt ≠ some start ∧ (s.bit
    (GLB_ENC_STAT n) GLB_ENC_STAT_SIG = true ∨ (∀ a, s.obMode a = 3 → s.fld (OB_CFG a) OB_CFG_ENC = n.1 → s.axState a
    = axDISABLED)) ∧ m ≠ n :=
  ⟨ssiPort, 1008000, 15, 4294967295, 14, by dsimp only; decide +kernel⟩

theorem test_meets_EncodersCountAndExtend_6 :
    ∃ (s : State) (t : Nat) (n : Fin 16) (raw : Nat) (first : Bool) (last : Bool),
    let ivl := 1000 * s.fld (GLB_ENC_CFG n) GLB_ENC_CFG_IVL; let start := (s.reach t).now / ivl * ivl;  (s.encMode n ≠
    2 ∨ (s.reach t).now < start + s.encBits n * ssiClock (s.fld (GLB_ENC_CFG n) GLB_ENC_CFG_CLK) ∨ (s.enc n).frameAt =
    some start) :=
  ⟨ssiPort, 1007999, 15, 0, false, false, by dsimp only; decide +kernel⟩

theorem test_meets_EncodersCountAndExtend_7 :
    ∃ (s : State) (t : Nat) (n : Fin 16) (raw : BitVec 11) (m : _), s.encMode n = 1 ∧ s.zRises n raw = true ∧ m ≠ n :=
  ⟨quad false, 0, 15, 7, 14, by decide +kernel⟩

theorem test_meets_EncodersCountAndExtend_8 :
    ∃ (s : State) (t : Nat) (n : Fin 16) (raw : BitVec 11), (s.encMode n ≠ 1 ∨ s.zRises n raw = false) :=
  ⟨quad false, 0, 15, 0, by decide +kernel⟩

theorem test_meets_EncoderErrorsAreKept_0 :
    ∃ (s : State) (t : Nat) (n : Fin 16) (raw : Nat) (first : Bool) (last : Bool) (rawA : BitVec 10) (rawB : BitVec
    10) (i : Instr), (i = .encSignalError t n ∧ s.encMode n ≠ 0 ∨ i = .ssiFrame t n raw first last ∧ s.encMode n = 2 ∧
    (first = false ∨ last = true) ∧ (s.ssiStart n (s.reach t).now).isSome = true ∨ i = .quadratureEdge t n rawA rawB ∧
    s.encMode n = 1 ∧ s.encLevel n (s.enc n).a rawA ≠ (s.enc n).a ∧ s.encLevel n (s.enc n).b rawB ≠ (s.enc n).b) ∧ (∀
    a, s.obMode a = 3 → s.fld (OB_CFG a) OB_CFG_ENC = n.1 → s.axState a = axDISABLED) :=
  ⟨ssiPort, 1008000, 15, 0, false, false, 0, 0, .ssiFrame 1008000 15 0 false false,
  by exact ⟨Or.inr (Or.inl ⟨rfl, by decide +kernel, Or.inl rfl, by decide +kernel⟩), by decide +kernel⟩⟩

theorem test_meets_EncoderErrorsAreKept_1 :
    ∃ (s : State) (t : Nat) (n : Fin 16) (raw : Nat) (first : Bool) (last : Bool) (rawA : BitVec 10) (rawB : BitVec
    10) (i : Instr) (m : _), (i = .encSignalError t n ∧ s.encMode n ≠ 0 ∨ i = .ssiFrame t n raw first last ∧ s.encMode
    n = 2 ∧ (first = false ∨ last = true) ∧ (s.ssiStart n (s.reach t).now).isSome = true ∨ i = .quadratureEdge t n
    rawA rawB ∧ s.encMode n = 1 ∧ s.encLevel n (s.enc n).a rawA ≠ (s.enc n).a ∧ s.encLevel n (s.enc n).b rawB ≠ (s.enc
    n).b) ∧ m ≠ n :=
  ⟨ssiPort, 1008000, 15, 0, false, false, 0, 0, .ssiFrame 1008000 15 0 false false, 14,
  by exact ⟨Or.inr (Or.inl ⟨rfl, by decide +kernel, Or.inl rfl, by decide +kernel⟩), by decide +kernel⟩⟩

theorem test_meets_EncoderErrorsAreKept_2 :
    ∃ (s : State) (t : Nat) (n : Fin 16) (raw : Nat) (first : Bool) (last : Bool) (rawA : BitVec 10) (rawB : BitVec
    10) (i : Instr) (a : _), (i = .encSignalError t n ∧ s.encMode n ≠ 0 ∨ i = .ssiFrame t n raw first last ∧ s.encMode
    n = 2 ∧ (first = false ∨ last = true) ∧ (s.ssiStart n (s.reach t).now).isSome = true ∨ i = .quadratureEdge t n
    rawA rawB ∧ s.encMode n = 1 ∧ s.encLevel n (s.enc n).a rawA ≠ (s.enc n).a ∧ s.encLevel n (s.enc n).b rawB ≠ (s.enc
    n).b) ∧ s.bit (GLB_ENC_STAT n) GLB_ENC_STAT_SIG = true ∧ s.obMode a = 3 ∧ s.fld (OB_CFG a) OB_CFG_ENC = n.1 ∧
    s.axState a ≠ axDISABLED :=
  ⟨((ssiPort.setFld (GLB_ENC_STAT 15) GLB_ENC_STAT_SIG 1).setFld (OB_CFG 31) OB_CFG_MODE 3 |>.setFld (OB_CFG 31)
  OB_CFG_ENC 15).setAxState 31 axSTANDSTILL, 1008000, 15, 0, false, false, 0, 0, .ssiFrame 1008000 15 0 false false,
  31, by decide +kernel⟩

theorem test_meets_EncoderErrorsAreKept_3 :
    ∃ (s : State) (t : Nat) (n : Fin 16), (s.enc n).lastErr + 1000000 ≤ (s.reach t).up ∧ s.bit (GLB_ENC_STAT n)
    GLB_ENC_STAT_SIG = false ∧ (∀ a, s.obMode a = 3 → s.fld (OB_CFG a) OB_CFG_ENC = n.1 → s.axState a = axDISABLED) :=
  ⟨ssiPort, 1008000, 15, by decide +kernel⟩

theorem test_meets_EncoderErrorsAreKept_4 :
    ∃ (s : State) (t : Nat) (n : Fin 16), (s.reach t).up < (s.enc n).lastErr + 1000000 :=
  ⟨ssiPort.modEnc 15 fun x => { x with lastErr := 1008000 }, 1008000, 15, by decide +kernel⟩

/-- Sequencer entry 31 of converter 1 of tile 3 at 20 ns after the boundary, behind a conversion of a whole period where `blk`. -/
def seq (blk : Bool) (order : Nat) : State :=
  let s := (regsOn [(ADC_RES 3 1 31, ADC_RES_INVALID, 0), (ADC_STAT 3 1, ADC_STAT_STATE, 1)]).modTile 3 fun x =>
    { x with lastB := 1, taken := if blk then [⟨1, 0, 160000, .injected, 0, false⟩] else [] }
  let c := ADC_SEQ_CFG_DELAY.put (ADC_SEQ_CFG_EN.put 0 1) 4
  (s.setForce (ADC_SEQ_CFG 3 1 31) c).setForce (ADC_SEQ_FLT 3 1 31) (ADC_SEQ_FLT_ORDER.put 0 order)

def injOf (sel arm : Nat) : State :=
  (pinned id).setReg (ADC_INJ 3 1) (ADC_INJ_CMPSEL.put (ADC_INJ_ARM.put (ADC_INJ_SRC.put 0 1) arm) sel)

def injHeld : State := (regsOn [(ADC_STAT 3 1, ADC_STAT_STATE, 1)]).modConv 3 1 fun y => { y with injPend := some (5, 640000) }

theorem test_meets_ConversionsGiveResults_0 :
    ∃ (s : State) (u : Nat) (t : Fin 4) (x : Fin 2) (e : Fin 32) (raw : Intake),
    let now := (s.reach u).now * 32 / 5; let l := ((s.reach u).entryPlan t now).filter (fun r => decide (r.1.conv = x) && r.1.entry == e.1); 
    s.boundary t ≠ 0 ∧ l = [] :=
  ⟨(regsOn [(ADC_STAT 3 1, ADC_STAT_STATE, 1)]).modTile 3 fun x => { x with lastB := 1 }, 99999, 3, 1, 31, [],
  by dsimp only; decide +kernel⟩

theorem test_meets_ConversionsGiveResults_1 :
    ∃ (s : State) (u : Nat) (t : Fin 4) (x : Fin 2) (e : Fin 32) (raw : Intake) (d : Due) (i : Taken) (more : List
    (Due × Taken)),
    let now := (s.reach u).now * 32 / 5; let l := ((s.reach u).entryPlan t now).filter (fun r => decide (r.1.conv = x) && r.1.entry == e.1); let v := settleAfter (s.conv t i.conv).overs i.start (sampleOf raw); 
    s.boundary t ≠ 0 ∧ l = (d, i) :: more ∧ i.start < d.next ∧ i.start ≤ now ∧ (more = [] ∨ now ≤ i.start +
    resultUnits) ∧ s.forceFld (ADC_SEQ_FLT t x e) ADC_SEQ_FLT_ORDER = 0 ∧ v.ovr = true :=
  ⟨seq false 0, 1000, 3, 1, 31, [0, 0, 0, 9000], ⟨1, 31, 128, 160000⟩, ⟨1, 1287, 1367, .entry, 31, false⟩, [],
  by dsimp only; decide +kernel⟩

theorem test_meets_ConversionsGiveResults_2 :
    ∃ (s : State) (u : Nat) (t : Fin 4) (x : Fin 2) (e : Fin 32) (raw : Intake) (d : Due) (i : Taken) (more : List
    (Due × Taken)),
    let now := (s.reach u).now * 32 / 5; let l := ((s.reach u).entryPlan t now).filter (fun r => decide (r.1.conv = x) && r.1.entry == e.1); let k := s.forceFld (ADC_SEQ_FLT t x e) ADC_SEQ_FLT_ORDER; 
    s.boundary t ≠ 0 ∧ l = (d, i) :: more ∧ i.start < d.next ∧ i.start ≤ now ∧ (more = [] ∨ now ≤ i.start +
    resultUnits) ∧ k ≠ 0 :=
  ⟨seq false 3, 1000, 3, 1, 31, [0, 0, 0, 9000], ⟨1, 31, 128, 160000⟩, ⟨1, 1287, 1367, .entry, 31, false⟩, [],
  by dsimp only; decide +kernel⟩

theorem test_meets_ConversionsGiveResults_3 :
    ∃ (s : State) (u : Nat) (t : Fin 4) (x : Fin 2) (e : Fin 32) (raw : Intake) (d : Due) (i : Taken) (more : List
    (Due × Taken)),
    let now := (s.reach u).now * 32 / 5; let l := ((s.reach u).entryPlan t now).filter (fun r => decide (r.1.conv = x) && r.1.entry == e.1); 
    s.boundary t ≠ 0 ∧ l = (d, i) :: more ∧ d.next ≤ i.start ∧ d.next ≤ now ∧ more = [] :=
  ⟨seq true 0, 25000, 3, 1, 31, [], ⟨1, 31, 128, 160000⟩, ⟨1, 165200, 165280, .entry, 31, false⟩, [],
  by dsimp only; decide +kernel⟩

theorem test_meets_ConversionsGiveResults_4 :
    ∃ (s : State) (u : Nat) (t : Fin 4) (x : Fin 2) (e : Fin 32) (raw : Intake) (d : Due) (i : Taken) (more : List
    (Due × Taken)),
    let now := (s.reach u).now * 32 / 5; let l := ((s.reach u).entryPlan t now).filter (fun r => decide (r.1.conv = x) && r.1.entry == e.1); 
    s.boundary t ≠ 0 ∧ l = (d, i) :: more ∧ (now < i.start ∧ (i.start < d.next ∨ now < d.next)) :=
  ⟨seq true 0, 20000, 3, 1, 31, [], ⟨1, 31, 128, 160000⟩, ⟨1, 165200, 165280, .entry, 31, false⟩, [],
  by dsimp only; decide +kernel⟩

theorem test_meets_ConversionsGiveResults_5 :
    ∃ (s : State) (u : Nat) (t : Fin 4) (x : Fin 2) (raw : BitVec 15),
    let c := s.fld (ADC_INJ t x) ADC_INJ_CMPSEL; let i := c % 10; let p := devPort t (c / 10); let z := settlePort p (s.reach u); 
    c < 160 ∧ z.compsOn p = true ∧ s.bit (ADC_INJ t x) ADC_INJ_SRC = true ∧ z.bit (CMP_STAT (pT p) (pI p)) ⟨i, 1⟩ =
    false ∧ z.portLevel p i raw = true ∧ s.bit (ADC_INJ t x) ADC_INJ_ARM = true ∧ (s.conv t x).injPend = none :=
  ⟨injOf 152 1, 100000, 3, 1, 0x7FFF, by dsimp only; decide +kernel⟩

theorem test_meets_ConversionsGiveResults_6 :
    ∃ (s : State) (u : Nat) (t : Fin 4) (x : Fin 2) (raw : BitVec 15),
    let c := s.fld (ADC_INJ t x) ADC_INJ_CMPSEL; let i := c % 10; let p := devPort t (c / 10); let z := settlePort p (s.reach u); 
    c < 160 ∧ z.compsOn p = true ∧ s.bit (ADC_INJ t x) ADC_INJ_SRC = true ∧ z.bit (CMP_STAT (pT p) (pI p)) ⟨i, 1⟩ =
    false ∧ z.portLevel p i raw = true ∧ (s.bit (ADC_INJ t x) ADC_INJ_ARM = false ∨ (s.conv t x).injPend.isSome =
    true) :=
  ⟨injOf 152 0, 100000, 3, 1, 0x7FFF, by dsimp only; decide +kernel⟩

theorem test_meets_ConversionsGiveResults_7 :
    ∃ (s : State) (u : Nat) (t : Fin 4) (x : Fin 2) (raw : BitVec 15),
    let c := s.fld (ADC_INJ t x) ADC_INJ_CMPSEL; let i := c % 10; let p := devPort t (c / 10); let z := settlePort p (s.reach u); 
    c < 160 ∧ z.compsOn p = true ∧ s.bit (ADC_INJ t x) ADC_INJ_SRC = true ∧ z.bit (CMP_STAT (pT p) (pI p)) ⟨i, 1⟩ =
    false ∧ z.portLevel p i raw = false :=
  ⟨injOf 152 0, 100000, 3, 1, 0, by dsimp only; decide +kernel⟩

theorem test_meets_ConversionsGiveResults_8 :
    ∃ (s : State) (u : Nat) (t : Fin 4) (x : Fin 2) (raw : BitVec 15) (i : Nat), 160 + i = s.fld (ADC_INJ t x)
    ADC_INJ_CMPSEL ∧ i < 16 ∧ (s.reach u).winLevel t i raw = true ∧ (s.tile t).win.out.toArray.getD i false = false ∧
    s.bit (ADC_INJ t x) ADC_INJ_SRC = true ∧ s.bit (ADC_INJ t x) ADC_INJ_ARM = true ∧ (s.conv t x).injPend = none :=
  ⟨injOf 175 1, 100000, 3, 1, 0x7FFF, 15, by decide +kernel⟩

theorem test_meets_ConversionsGiveResults_9 :
    ∃ (s : State) (u : Nat) (t : Fin 4) (x : Fin 2) (raw : BitVec 15) (i : Nat), 160 + i = s.fld (ADC_INJ t x)
    ADC_INJ_CMPSEL ∧ i < 16 ∧ (s.reach u).winLevel t i raw = true ∧ (s.tile t).win.out.toArray.getD i false = false ∧
    s.bit (ADC_INJ t x) ADC_INJ_SRC = true ∧ (s.bit (ADC_INJ t x) ADC_INJ_ARM = false ∨ (s.conv t x).injPend.isSome =
    true) :=
  ⟨injOf 175 0, 100000, 3, 1, 0x7FFF, 15, by decide +kernel⟩

theorem test_meets_ConversionsGiveResults_10 :
    ∃ (s : State) (u : Nat) (t : Fin 4) (x : Fin 2) (raw : Intake) (src : Fin 2) (ch : Nat) (z : Nat), s.worker t x =
    some src ∧ (s.conv t x).injPend = some (ch, z) ∧ z ≤ (s.reach u).now * 32 / 5 :=
  ⟨injHeld, 100000, 3, 1, [], 1, 5, 640000, by decide +kernel⟩

theorem test_meets_ConversionsGiveResults_11 :
    ∃ (s : State) (u : Nat) (t : Fin 4) (x : Fin 2) (raw : Intake) (src : Fin 2) (ch : Nat) (z : Nat), s.worker t x =
    some src ∧ (s.conv t x).injPend = some (ch, z) ∧ (s.reach u).now * 32 / 5 < z :=
  ⟨injHeld, 99999, 3, 1, [], 1, 5, 640000, by decide +kernel⟩

def conv (f : Converter → Converter) (l : List (Nat × Fld × Nat)) : State := (regsOn l).modConv 3 1 f

def fgRun (slot found : Nat) : State :=
  conv (fun y => { y with fgEnd := some 0, slot := slot, found := found }) [(ADC_STAT 3 1, ADC_STAT_STATE, 2), (ADC_STAT 3 0, ADC_STAT_STATE, 1)]

def bgRun (n : Nat) : State :=
  conv (fun y => { y with slot := 10, attempts := n }) [(ADC_CTRL 3 1, ADC_CTRL_BGCAL, 1), (ADC_STAT 3 1, ADC_STAT_STATE, 1)]

theorem test_meets_ConvertersCalibrateAndRetire_0 :
    ∃ (s : State) (d : Desc) (t : Fin 4) (x : Fin 2) (a : Fin 32), d.plain ∧ s.admits d = true ∧ payByte d.payload 0 =
    t.1 ∧ payByte d.payload 1 = x.1 + 1 ∧ payByte d.payload 2 ≤ 1 ∧ payZero d.payload 3 48 = true ∧ tileOf a = t ∧
    s.ownerAx a = d.cab ∧ (∀ y, s.convUp t y = true ∧ (s.conv t y).fgDefer = false) ∧ (s.tile t).diag = none ∧ (s.conv
    t x).injPend = none :=
  ⟨regsOn [(ADC_STAT 3 1, ADC_STAT_STATE, 1), (ADC_STAT 3 0, ADC_STAT_STATE, 0)], dCab 0x41 [(0, 3), (1, 2)], 3, 1,
  31, by unfold Desc.plain; decide +kernel⟩

theorem test_meets_ConvertersCalibrateAndRetire_1 :
    ∃ (s : State) (d : Desc) (t : Fin 4) (x : Fin 2) (a : Fin 32), d.plain ∧ s.admits d = true ∧ payByte d.payload 0 =
    t.1 ∧ payByte d.payload 1 = x.1 + 1 ∧ payByte d.payload 2 ≤ 1 ∧ payZero d.payload 3 48 = true ∧ tileOf a = t ∧
    s.ownerAx a = d.cab ∧ (∀ y, s.convUp t y = true ∧ (s.conv t y).fgDefer = false) ∧ (s.tile t).diag = none ∧ (s.conv
    t x).injPend.isSome = true :=
  ⟨conv (fun y => { y with injPend := some (5, 0) }) [(ADC_STAT 3 1, ADC_STAT_STATE, 1), (ADC_STAT 3 0,
  ADC_STAT_STATE, 0)], dCab 0x41 [(0, 3), (1, 2)], 3, 1, 31, by unfold Desc.plain; decide +kernel⟩

theorem test_meets_ConvertersCalibrateAndRetire_2 :
    ∃ (s : State) (u : Nat) (e : Nat) (t : Fin 4) (x : Fin 2) (cal : List (Int × Int)) (bg : Int), s.convState t x = 2
    ∧ s.convState t (otherConv x) = 1 ∧ (s.conv t x).fgEnd = some e ∧ e ≤ s.boundary t ∧ (16 ≤ (s.conv t x).slot ∨ ∀ m
    ∈ cal, calOk m.1 m.2 = true) ∧ (s.conv t x).found = 0 :=
  ⟨fgRun 0 0, 0, 0, 3, 1, [(1030000, -64)], 0, by decide +kernel⟩

theorem test_meets_ConvertersCalibrateAndRetire_3 :
    ∃ (s : State) (u : Nat) (e : Nat) (t : Fin 4) (x : Fin 2) (cal : List (Int × Int)) (bg : Int), s.convState t x = 2
    ∧ s.convState t (otherConv x) = 1 ∧ (s.conv t x).fgEnd = some e ∧ e ≤ s.boundary t ∧ 16 ≤ (s.conv t x).slot ∧
    (s.conv t x).found = 1 :=
  ⟨fgRun 16 1, 0, 0, 3, 1, [(1030000, -64)], 0, by decide +kernel⟩

theorem test_meets_ConvertersCalibrateAndRetire_4 :
    ∃ (s : State) (u : Nat) (e : Nat) (t : Fin 4) (x : Fin 2) (cal : List (Int × Int)) (bg : Int), s.convState t x = 2
    ∧ s.convState t (otherConv x) = 1 ∧ (s.conv t x).fgEnd = some e ∧ e ≤ s.boundary t ∧ 16 ≤ (s.conv t x).slot ∧
    (s.conv t x).found = 2 :=
  ⟨fgRun 16 2, 0, 0, 3, 1, [(1030000, -64)], 0, by decide +kernel⟩

theorem test_meets_ConvertersCalibrateAndRetire_5 :
    ∃ (s : State) (u : Nat) (t : Fin 4) (x : Fin 2) (gain : Int) (offset : Int) (bg : Int), s.bit (ADC_CTRL t x)
    ADC_CTRL_BGCAL = true ∧ s.convUp t x = true ∧ s.bit (ADC_STAT t x) ADC_STAT_NOSPARE = false ∧ (s.conv t x).slot ≤
    10 ∧ calOk gain offset = true :=
  ⟨bgRun 0, 0, 3, 1, 970000, 64, 0, by decide +kernel⟩

theorem test_meets_ConvertersCalibrateAndRetire_6 :
    ∃ (s : State) (u : Nat) (t : Fin 4) (x : Fin 2) (gain : Int) (offset : Int) (bg : Int), s.bit (ADC_CTRL t x)
    ADC_CTRL_BGCAL = true ∧ s.convUp t x = true ∧ s.bit (ADC_STAT t x) ADC_STAT_NOSPARE = false ∧ (s.conv t x).slot ≤
    10 ∧ calOk gain offset = false ∧ (s.conv t x).attempts < 2 :=
  ⟨bgRun 1, 0, 3, 1, 969999, 64, 0, by decide +kernel⟩

theorem test_meets_ConvertersCalibrateAndRetire_7 :
    ∃ (s : State) (u : Nat) (t : Fin 4) (x : Fin 2) (gain : Int) (offset : Int) (bg : Int), s.bit (ADC_CTRL t x)
    ADC_CTRL_BGCAL = true ∧ s.convUp t x = true ∧ s.bit (ADC_STAT t x) ADC_STAT_NOSPARE = false ∧ (s.conv t x).slot ≤
    10 ∧ calOk gain offset = false ∧ 2 ≤ (s.conv t x).attempts :=
  ⟨bgRun 2, 0, 3, 1, 969999, 64, 0, by decide +kernel⟩

theorem test_meets_ConvertersCalibrateAndRetire_8 :
    ∃ (s : State) (u : Nat) (t : Fin 4) (x : Fin 2) (a : _), s.convState t x = 1 ∧ s.convState t (otherConv x) ≠ 1 ∧ 3
    ≤ (s.conv t x).bgFail ∧ (s.conv t x).lostRaised = false ∧ tileOf a = t :=
  ⟨conv (fun y => { y with bgFail := 3 }) [(ADC_STAT 3 1, ADC_STAT_STATE, 1), (ADC_STAT 3 0, ADC_STAT_STATE, 3)], 0,
  3, 1, 31, by decide +kernel⟩

theorem test_meets_EngineArithmeticComputes_0 :
    ∃ (s : State) (e : Fin 46) (d : Fin 16) (a : Fin 16) (b : Fin 16) (imm : BitVec 18) (i : Instr) (w : Word) (v :
    Word) (cyc : Nat), let x := s.kreg e a; let y := s.kreg e b;  (i, w, v, cyc) ∈ ([ (.add e d a b, wR 0x01 d a b 0,
    x + y, 1), (.sub e d a b, wR 0x02 d a b 0, x - y, 1), (.and e d a b, wR 0x03 d a b 0, x &&& y, 1), (.or e d a b,
    wR 0x04 d a b 0, x ||| y, 1), (.xor e d a b, wR 0x05 d a b 0, x ^^^ y, 1), (.shl e d a b, wR 0x06 d a b 0, x <<<
    (y.toNat % 32), 1), (.shr e d a b, wR 0x07 d a b 0, x >>> (y.toNat % 32), 1), (.sar e d a b, wR 0x08 d a b 0,
    x.sshiftRight (y.toNat % 32), 1), (.mul e d a b, wR 0x09 d a b 0, x * y, 2), (.mulh e d a b, wR 0x0A d a b 0,
    (x.signExtend 64 * y.signExtend 64).extractLsb' 32 32, 2), (.div e d a b, wR 0x0B d a b 0, if y = 0 then 0 else
    BitVec.ofInt 32 (x.toInt.tdiv y.toInt), 18), (.rem e d a b, wR 0x0C d a b 0, if y = 0 then x else BitVec.ofInt 32
    (x.toInt.tmod y.toInt), 18), (.sltu e d a b, wR 0x0D d a b 0, if x < y then 1 else 0, 1)] : List (Instr × Word ×
    Word × Nat)) ∧ s.atWord e w ∧ s.hasWord e (s.pcNext e) :=
  ⟨engAt 37 [wR 0x0D 15 14 13 0, 0] id, 37, 15, 14, 13, 0x3FFFF, .sltu 37 15 14 13, wR 0x0D 15 14 13 0, 0, 1,
  by dsimp only; unfold State.atWord State.hasWord; decide +kernel⟩

theorem test_meets_EngineArithmeticComputes_1 :
    ∃ (s : State) (e : Fin 46) (d : Fin 16) (a : Fin 16) (b : Fin 16) (imm : BitVec 18) (i : Instr) (w : Word) (v :
    Word), let x := s.kreg e a;  (i, w, v) ∈ ([ (.addi e d a imm, wI 0x10 d a imm, x + imm.signExtend 32), (.andi e d
    a imm, wI 0x11 d a imm, x &&& imm.zeroExtend 32), (.ori e d a imm, wI 0x12 d a imm, x ||| imm.zeroExtend 32),
    (.xori e d a imm, wI 0x13 d a imm, x ^^^ imm.zeroExtend 32), (.shli e d a imm, wI 0x14 d a imm, x <<< (imm.toNat %
    32)), (.shri e d a imm, wI 0x15 d a imm, x >>> (imm.toNat % 32)), (.sari e d a imm, wI 0x16 d a imm, x.sshiftRight
    (imm.toNat % 32)), (.lui e d imm, wI 0x17 d 0 imm, imm.zeroExtend 32 <<< 14)] : List (Instr × Word × Word)) ∧
    s.atWord e w ∧ s.hasWord e (s.pcNext e) :=
  ⟨engAt 37 [wI 0x17 15 0 0x3FFFF, 0] id, 37, 15, 14, 13, 0x3FFFF, .lui 37 15 0x3FFFF, wI 0x17 15 0 0x3FFFF,
  0xFFFFC000, by dsimp only; unfold State.atWord State.hasWord; decide +kernel⟩

theorem test_meets_EngineArithmeticComputes_2 :
    ∃ (s : State) (e : Fin 46) (d : Fin 16) (a : Fin 16) (b : Fin 16) (imm : BitVec 18), s.atWord e (wR 0 0 0 0 0) ∧
    s.hasWord e (s.pcNext e) :=
  ⟨engAt 37 [0, 0] id, 37, 15, 14, 13, 0x3FFFF, by unfold State.atWord State.hasWord; decide +kernel⟩

theorem test_meets_EngineArithmeticComputes_3 :
    ∃ (s : State) (e : Fin 46) (d : Fin 16) (a : Fin 16) (b : Fin 16) (imm : BitVec 18), s.atWord e (wR 0 0 0 0 0) ∧ ¬
    s.hasWord e (s.pcNext e) ∧ engKind e ≠ 2 ∧ s.pcNext e < 65536 :=
  ⟨engAt 37 [0] id, 37, 15, 14, 13, 0x3FFFF, by unfold State.atWord State.hasWord; decide +kernel⟩

theorem test_meets_EngineLoadsStoresAndBranches_0 :
    ∃ (s : State) (e : Fin 46) (d : Fin 16) (a : Fin 16) (b : Fin 16) (imm : BitVec 18) (off : BitVec 18),
    let addr := (s.kreg e a + imm.signExtend 32).toNat;  addr % 4 = 0 ∧ addr < dataSize e ∧ s.hasWord e (s.pcNext e) ∧
    s.atWord e (wI 0x18 d a imm) :=
  ⟨engAt 37 [wI 0x18 15 14 1020, 0] id, 37, 15, 14, 13, 1020, 1,
  by dsimp only; unfold State.atWord State.hasWord; decide +kernel⟩

theorem test_meets_EngineLoadsStoresAndBranches_1 :
    ∃ (s : State) (e : Fin 46) (d : Fin 16) (a : Fin 16) (b : Fin 16) (imm : BitVec 18) (off : BitVec 18) (n : _),
    let addr := (s.kreg e a + imm.signExtend 32).toNat;  addr % 4 = 0 ∧ addr < dataSize e ∧ s.hasWord e (s.pcNext e) ∧
    s.atWord e (wI 0x19 d a imm) ∧ n / 4 ≠ addr / 4 :=
  ⟨engAt 37 [wI 0x19 15 14 1020, 0] id, 37, 15, 14, 13, 1020, 1, 0,
  by dsimp only; unfold State.atWord State.hasWord; decide +kernel⟩

theorem test_meets_EngineLoadsStoresAndBranches_2 :
    ∃ (s : State) (e : Fin 46) (d : Fin 16) (a : Fin 16) (b : Fin 16) (imm : BitVec 18) (off : BitVec 18) (i : Fin 2),
    let addr := (s.kreg e a + imm.signExtend 32).toNat;  addr % 4 = 0 ∧ addr < dataSize e ∧ s.hasWord e (s.pcNext e) ∧
    s.atWord e (wI 0x19 d a imm) ∧ i ≠ s.imgIdx e :=
  ⟨engAt 37 [wI 0x19 15 14 1020, 0] id, 37, 15, 14, 13, 1020, 1, 1,
  by dsimp only; unfold State.atWord State.hasWord; decide +kernel⟩

theorem test_meets_EngineLoadsStoresAndBranches_3 :
    ∃ (s : State) (e : Fin 46) (d : Fin 16) (a : Fin 16) (b : Fin 16) (imm : BitVec 18) (off : BitVec 18),
    let addr := (s.kreg e a + imm.signExtend 32).toNat;  (addr % 4 ≠ 0 ∨ dataSize e ≤ addr) ∧ engKind e ≠ 2 ∧ s.atWord
    e (wI 0x18 d a imm) :=
  ⟨engAt 37 [wI 0x18 15 14 1024] id, 37, 15, 14, 13, 1024, 1, by dsimp only; unfold State.atWord; decide +kernel⟩

theorem test_meets_EngineLoadsStoresAndBranches_4 :
    ∃ (s : State) (e : Fin 46) (d : Fin 16) (a : Fin 16) (b : Fin 16) (imm : BitVec 18) (off : BitVec 18),
    let addr := (s.kreg e a + imm.signExtend 32).toNat;  (addr % 4 ≠ 0 ∨ dataSize e ≤ addr) ∧ engKind e ≠ 2 ∧ s.atWord
    e (wI 0x19 d a imm) :=
  ⟨engAt 37 [wI 0x19 15 14 1024] id, 37, 15, 14, 13, 1024, 1, by dsimp only; unfold State.atWord; decide +kernel⟩

theorem test_meets_EngineLoadsStoresAndBranches_5 :
    ∃ (s : State) (e : Fin 46) (d : Fin 16) (a : Fin 16) (b : Fin 16) (imm : BitVec 18) (off : BitVec 18) (i : Instr)
    (w : Word) (c : Bool) (target : _),
    let x := s.kreg e a; let y := s.kreg e b; let go (target : Nat) : Prop := (target : Int) = s.pcNext e + off.toInt ∧ s.hasWord e target; 
    (i, w, c) ∈ ([ (.beq e a b off, wI 0x20 a b off, decide (x = y)), (.bne e a b off, wI 0x21 a b off, decide (x ≠
    y)), (.blt e a b off, wI 0x22 a b off, decide (x.toInt < y.toInt)), (.bge e a b off, wI 0x23 a b off, decide
    (y.toInt ≤ x.toInt)), (.bltu e a b off, wI 0x24 a b off, decide (x < y)), (.bgeu e a b off, wI 0x25 a b off,
    decide (y ≤ x))] : List (Instr × Word × Bool)) ∧ s.atWord e w ∧ c = true ∧ go target :=
  ⟨engAt 37 [wI 0x20 14 13 0x3FFFF] id, 37, 15, 14, 13, 1024, 0x3FFFF, .beq 37 14 13 0x3FFFF, wI 0x20 14 13 0x3FFFF,
  true, 0, by dsimp only; unfold State.atWord State.hasWord; decide +kernel⟩

theorem test_meets_EngineLoadsStoresAndBranches_6 :
    ∃ (s : State) (e : Fin 46) (d : Fin 16) (a : Fin 16) (b : Fin 16) (imm : BitVec 18) (off : BitVec 18) (i : Instr)
    (w : Word) (c : Bool), let x := s.kreg e a; let y := s.kreg e b;  (i, w, c) ∈ ([ (.beq e a b off, wI 0x20 a b off,
    decide (x = y)), (.bne e a b off, wI 0x21 a b off, decide (x ≠ y)), (.blt e a b off, wI 0x22 a b off, decide
    (x.toInt < y.toInt)), (.bge e a b off, wI 0x23 a b off, decide (y.toInt ≤ x.toInt)), (.bltu e a b off, wI 0x24 a b
    off, decide (x < y)), (.bgeu e a b off, wI 0x25 a b off, decide (y ≤ x))] : List (Instr × Word × Bool)) ∧ s.atWord
    e w ∧ c = false ∧ s.hasWord e (s.pcNext e) :=
  ⟨engAt 37 [wI 0x21 14 13 0x3FFFF, 0] id, 37, 15, 14, 13, 1024, 0x3FFFF, .bne 37 14 13 0x3FFFF, wI 0x21 14 13
  0x3FFFF, false, by dsimp only; unfold State.atWord State.hasWord; decide +kernel⟩

theorem test_meets_EngineLoadsStoresAndBranches_7 :
    ∃ (s : State) (e : Fin 46) (d : Fin 16) (a : Fin 16) (b : Fin 16) (imm : BitVec 18) (off : BitVec 18) (target :
    _), let go (target : Nat) : Prop := (target : Int) = s.pcNext e + off.toInt ∧ s.hasWord e target;  go target ∧
    s.atWord e (wI 0x26 0 0 off) :=
  ⟨engAt 37 [wI 0x26 0 0 0x3FFFF] id, 37, 15, 14, 13, 1024, 0x3FFFF, 0,
  by dsimp only; unfold State.atWord State.hasWord; decide +kernel⟩

theorem test_meets_EngineLoadsStoresAndBranches_8 :
    ∃ (s : State) (e : Fin 46) (d : Fin 16) (a : Fin 16) (b : Fin 16) (imm : BitVec 18) (off : BitVec 18) (target :
    _), let go (target : Nat) : Prop := (target : Int) = s.pcNext e + off.toInt ∧ s.hasWord e target;  go target ∧
    s.atWord e (wI 0x27 0 0 off) ∧ s.pcNext e < 65536 :=
  ⟨engAt 37 [wI 0x27 0 0 0x3FFFF] id, 37, 15, 14, 13, 1024, 0x3FFFF, 0,
  by dsimp only; unfold State.atWord State.hasWord; decide +kernel⟩

theorem test_meets_EngineLoadsStoresAndBranches_9 :
    ∃ (s : State) (e : Fin 46) (d : Fin 16) (a : Fin 16) (b : Fin 16) (imm : BitVec 18) (off : BitVec 18), s.atWord e
    (wR 0x28 0 0 0 0) ∧ s.hasWord e (s.kreg e 15).toNat :=
  ⟨engAt 37 [wR 0x28 0 0 0 0] id, 37, 15, 14, 13, 1024, 0x3FFFF, by unfold State.atWord State.hasWord; decide +kernel⟩

theorem test_meets_EngineLoadsStoresAndBranches_10 :
    ∃ (s : State) (e : Fin 46) (d : Fin 16) (a : Fin 16) (b : Fin 16) (imm : BitVec 18) (off : BitVec 18), s.atWord e
    (wR 0x28 0 0 0 0) ∧ ((s.eng e).img[s.imgIdx e]).words.length ≤ (s.kreg e 15).toNat ∧ engKind e ≠ 2 :=
  ⟨engAt 37 [wR 0x28 0 0 0 0] fun x => { x with k := x.k.set 15 1 }, 37, 15, 14, 13, 1024, 0x3FFFF,
  by unfold State.atWord; decide +kernel⟩

/-- An axis engine that has the address of CR_KP of its axis in k1 and a gain in k2. -/
def busAt (w : Word) : State :=
  engAt 37 [w, 0] fun x => { x with k := (x.k.set 1 (BitVec.ofNat 32 (CR_KP 31))).set 2 (CR_KP_INJ_SCALE.put 0 1) }

def supAt (a : Nat) (w : Word) : State :=
  engAt 43 [w, 0] fun x => { x with k := (x.k.set 1 (BitVec.ofNat 32 a)).set 2 (CR_KP_INJ_SCALE.put 0 1) }

theorem test_meets_EngineBusAccesses_0 :
    ∃ (s : State) (e : Fin 46) (d : Fin 16) (a : Fin 16) (imm : BitVec 18) (cross : Nat) (lost : Bool),
    let addr := s.busAddr e a imm;  s.hasWord e (s.pcNext e) ∧ s.readOk e addr = true ∧ s.atWord e (wI 0x2C d a imm) ∧
    lost = true :=
  ⟨busAt (wI 0x2C 2 1 0), 37, 2, 1, 0, 60, true, by dsimp only; unfold State.atWord State.hasWord; decide +kernel⟩

theorem test_meets_EngineBusAccesses_1 :
    ∃ (s : State) (e : Fin 46) (d : Fin 16) (a : Fin 16) (imm : BitVec 18) (cross : Nat) (lost : Bool),
    let addr := s.busAddr e a imm;  s.hasWord e (s.pcNext e) ∧ s.readOk e addr = true ∧ s.atWord e (wI 0x2C d a imm) ∧
    lost = false ∧ settleFor s addr = s :=
  ⟨busAt (wI 0x2C 2 1 0), 37, 2, 1, 0, 60, false,
  by dsimp only; unfold State.atWord State.hasWord; and_intros <;> first | rfl | decide +kernel⟩

theorem test_meets_EngineBusAccesses_2 :
    ∃ (s : State) (e : Fin 46) (d : Fin 16) (a : Fin 16) (imm : BitVec 18) (cross : Nat) (lost : Bool),
    let addr := s.busAddr e a imm;  s.hasWord e (s.pcNext e) ∧ s.readOk e addr = true ∧ s.readOk e (addr + 4) = true ∧
    d.1 ≤ 14 ∧ s.atWord e (wI 0x2E d a imm) ∧ lost = false ∧ settleFor s addr = s :=
  ⟨busAt (wI 0x2E 2 1 0), 37, 2, 1, 0, 60, false,
  by dsimp only; unfold State.atWord State.hasWord; and_intros <;> first | rfl | decide +kernel⟩

theorem test_meets_EngineBusAccesses_3 :
    ∃ (s : State) (e : Fin 46) (d : Fin 16) (a : Fin 16) (imm : BitVec 18) (cross : Nat) (lost : Bool),
    let addr := s.busAddr e a imm;  s.hasWord e (s.pcNext e) ∧ s.writeOk e addr = true ∧ s.atWord e (wI 0x2D d a imm) :=
  ⟨busAt (wI 0x2D 2 1 0), 37, 2, 1, 0, 60, false, by dsimp only; unfold State.atWord State.hasWord; decide +kernel⟩

theorem test_meets_EngineBusAccesses_4 :
    ∃ (s : State) (e : Fin 46) (d : Fin 16) (a : Fin 16) (imm : BitVec 18) (cross : Nat) (lost : Bool),
    let addr := s.busAddr e a imm;  s.hasWord e (s.pcNext e) ∧ s.writeOk e addr = true ∧ s.writeOk e (addr + 4) = true
    ∧ d.1 ≤ 14 ∧ s.atWord e (wI 0x2F d a imm) :=
  ⟨busAt (wI 0x2F 2 1 0), 37, 2, 1, 0, 60, false, by dsimp only; unfold State.atWord State.hasWord; decide +kernel⟩

theorem test_meets_EngineBusAccesses_5 :
    ∃ (s : State) (e : Fin 46) (d : Fin 16) (a : Fin 16) (imm : BitVec 18) (cross : Nat) (lost : Bool) (x : Fin 32),
    let addr := s.busAddr e a imm;  s.hasWord e (s.pcNext e) ∧ blockOf addr = .axis x ∧ engKind e = 0 ∧ s.engWrites e
    addr = true ∧ addr % 4 = 0 ∧ s.atWord e (wI 0x2D d a imm) :=
  ⟨busAt (wI 0x2D 2 1 0), 37, 2, 1, 0, 60, false, 31,
  by dsimp only; unfold State.atWord State.hasWord; decide +kernel⟩

theorem test_meets_EngineBusAccesses_6 :
    ∃ (s : State) (e : Fin 46) (d : Fin 16) (a : Fin 16) (imm : BitVec 18) (cross : Nat) (lost : Bool) (x : Fin 32),
    let addr := s.busAddr e a imm;  s.hasWord e (s.pcNext e) ∧ blockOf addr = .axis x ∧ engKind e = 0 ∧ s.engWrites e
    addr = true ∧ addr % 4 = 0 ∧ blockOf (addr + 4) = .axis x ∧ s.engWrites e (addr + 4) = true ∧ d.1 ≤ 14 ∧ s.atWord
    e (wI 0x2F d a imm) :=
  ⟨busAt (wI 0x2F 2 1 0), 37, 2, 1, 0, 60, false, 31,
  by dsimp only; unfold State.atWord State.hasWord; decide +kernel⟩

theorem test_meets_EngineBusAccesses_7 :
    ∃ (s : State) (e : Fin 46) (d : Fin 16) (a : Fin 16) (imm : BitVec 18) (cross : Nat) (lost : Bool),
    let addr := s.busAddr e a imm;  s.hasWord e (s.pcNext e) ∧ s.atWord e (wI 0x2D d a imm) ∧ addr % 4 = 0 ∧
    s.engWrites e addr = true ∧ regFields addr ≠ [] ∧ (∀ x, blockOf addr = .axis x → engKind e ≠ 0) ∧ plainReg addr =
    true ∧ commitOf addr = none ∧ heldBy addr = none ∧ settleFor s addr = s ∧ (∀ t : Fin 4, (s.tile t).parBad.contains
    addr = false) ∧ s.passes (.engine e) addr (s.kreg e d) :=
  ⟨supAt (CR_KP 31) (wI 0x2D 2 1 0), 43, 2, 1, 0, 60, false,
  by dsimp only; unfold State.atWord State.hasWord State.passes; and_intros <;> first | rfl | decide +kernel⟩

theorem test_meets_EngineBusAccesses_8 :
    ∃ (s : State) (e : Fin 46) (d : Fin 16) (a : Fin 16) (imm : BitVec 18) (cross : Nat) (lost : Bool) (x : Fin 32),
    let addr := s.busAddr e a imm;  s.hasWord e (s.pcNext e) ∧ s.atWord e (wI 0x2F d a imm) ∧ addr % 4 = 0 ∧ d.1 ≤ 14
    ∧ s.engWrites e addr = true ∧ s.engWrites e (addr + 4) = true ∧ regFields addr ≠ [] ∧ regFields (addr + 4) ≠ [] ∧
    blockOf addr = .axis x ∧ engKind e ≠ 0 ∧ commitOf (addr + 4) = some addr ∧ addr ≠ MP_CMD_POS_LO x ∧ s.windowWord x
    addr = none ∧ s.lockBroken (.engine e) addr (s.kreg e d) = false ∧ s.staticBroken addr (s.kreg e d) = false ∧
    s.lockBroken (.engine e) (addr + 4) (s.kreg e (kAfter d 1)) = false ∧ s.staticBroken (addr + 4) (s.kreg e (kAfter
    d 1)) = false ∧ s.pairRange addr (s.newReg addr (s.kreg e d)) (s.newReg (addr + 4) (s.kreg e (kAfter d 1))) = true :=
  ⟨supAt (GR_CATCHUP_LO 31) (wI 0x2F 2 1 0), 43, 2, 1, 0, 60, false, 31,
  by dsimp only; unfold State.atWord State.hasWord; decide +kernel⟩

theorem test_meets_EngineBusAccesses_9 :
    ∃ (s : State) (e : Fin 46) (d : Fin 16) (a : Fin 16) (imm : BitVec 18) (cross : Nat) (lost : Bool) (t : Fin 4),
    let addr := s.busAddr e a imm;  s.hasWord e (s.pcNext e) ∧ s.atWord e (wI 0x2F d a imm) ∧ s.engTile e = t ∧
    engKind e = 1 ∧ addr = PWM_LOADAT_LO t ∧ d.1 ≤ 14 :=
  ⟨supAt (PWM_LOADAT_LO 3) (wI 0x2F 2 1 0), 43, 2, 1, 0, 60, false, 3,
  by dsimp only; unfold State.atWord State.hasWord; decide +kernel⟩

theorem test_meets_EngineBusAccesses_10 :
    ∃ (s : State) (e : Fin 46) (d : Fin 16) (a : Fin 16) (imm : BitVec 18) (cross : Nat) (lost : Bool),
    let addr := s.busAddr e a imm;  engKind e ≠ 2 ∧ s.readOk e addr = false ∧ s.atWord e (wI 0x2C d a imm) :=
  ⟨engAt 37 [wI 0x2C 2 1 0x3FFFF, 0] id, 37, 2, 1, 0x3FFFF, 60, false,
  by dsimp only; unfold State.atWord; decide +kernel⟩

theorem test_meets_EngineBusAccesses_11 :
    ∃ (s : State) (e : Fin 46) (d : Fin 16) (a : Fin 16) (imm : BitVec 18) (cross : Nat) (lost : Bool),
    let addr := s.busAddr e a imm;  engKind e ≠ 2 ∧ s.writeOk e addr = false ∧ s.atWord e (wI 0x2D d a imm) :=
  ⟨engAt 37 [wI 0x2D 2 1 0x3FFFF, 0] id, 37, 2, 1, 0x3FFFF, 60, false,
  by dsimp only; unfold State.atWord; decide +kernel⟩

theorem test_meets_EngineBusAccesses_12 :
    ∃ (s : State) (e : Fin 46) (d : Fin 16) (a : Fin 16) (imm : BitVec 18) (cross : Nat) (lost : Bool), engKind e ≠ 2
    ∧ d.1 = 15 ∧ s.atWord e (wI 0x2E d a imm) :=
  ⟨engAt 37 [wI 0x2E 15 1 0, 0] id, 37, 15, 1, 0, 60, false, by unfold State.atWord; decide +kernel⟩

theorem test_meets_EngineBusAccesses_13 :
    ∃ (s : State) (e : Fin 46) (d : Fin 16) (a : Fin 16) (imm : BitVec 18) (cross : Nat) (lost : Bool), engKind e ≠ 2
    ∧ d.1 = 15 ∧ s.atWord e (wI 0x2F d a imm) :=
  ⟨engAt 37 [wI 0x2F 15 1 0, 0] id, 37, 15, 1, 0, 60, false, by unfold State.atWord; decide +kernel⟩

theorem test_meets_EngineRunsWaitAndEnd_0 :
    ∃ (s : State) (e : Fin 46) (d : Fin 16) (a : Fin 16) (imm : BitVec 18) (b : Nat), engKind e ≠ 2 ∧ d.1 ≤ 13 ∧
    s.atWord e (wI 0x30 d a imm) ∧ s.evFor e imm = some b ∧ s.hasWord e (s.pcNext e) :=
  ⟨engAt 37 [wI 0x30 13 1 0x10000, 0] fun x => { x with sampled := 0x10000 }, 37, 13, 1, 0x10000, 16,
  by unfold State.atWord State.hasWord; decide +kernel⟩

theorem test_meets_EngineRunsWaitAndEnd_1 :
    ∃ (s : State) (e : Fin 46) (d : Fin 16) (a : Fin 16) (imm : BitVec 18), engKind e ≠ 2 ∧ d.1 ≤ 13 ∧ s.atWord e (wI
    0x30 d a imm) ∧ s.evFor e imm = none ∧ s.waitOver e = false ∧ s.pcNext e < 65536 :=
  ⟨engAt 37 [wI 0x30 13 1 0x10000] id, 37, 13, 1, 0x10000, by unfold State.atWord; decide +kernel⟩

theorem test_meets_EngineRunsWaitAndEnd_2 :
    ∃ (s : State) (e : Fin 46) (d : Fin 16) (a : Fin 16) (imm : BitVec 18), engKind e ≠ 2 ∧ d.1 ≤ 13 ∧ s.atWord e (wI
    0x30 d a imm) ∧ s.evFor e imm = none ∧ s.waitOver e = true ∧ s.hasWord e (s.pcNext e) :=
  ⟨engAt 37 [wI 0x30 13 1 0x10000, 0] fun x => { x with waitLeft := some 0 }, 37, 13, 1, 0x10000,
  by unfold State.atWord State.hasWord; decide +kernel⟩

theorem test_meets_EngineRunsWaitAndEnd_3 :
    ∃ (s : State) (e : Fin 46) (d : Fin 16) (a : Fin 16) (imm : BitVec 18), engKind e ≠ 2 ∧ s.atWord e (wR 0x31 0 0 0
    0) ∧ s.pcNext e < 65536 :=
  ⟨engAt 37 [wR 0x31 0 0 0 0] id, 37, 13, 1, 0x10000, by unfold State.atWord; decide +kernel⟩

theorem test_meets_EngineRunsWaitAndEnd_4 :
    ∃ (s : State) (e : Fin 46) (d : Fin 16) (a : Fin 16) (imm : BitVec 18), engKind e ≠ 2 ∧ s.atWord e (wR 0x3F 0 0 0
    0) ∧ s.bit (ENG_CFG e) ENG_CFG_STOPEV = false :=
  ⟨engAt 37 [wR 0x3F 0 0 0 0] id, 37, 13, 1, 0x10000, by unfold State.atWord; decide +kernel⟩

theorem test_meets_EngineRunsWaitAndEnd_5 :
    ∃ (s : State) (e : Fin 46) (d : Fin 16) (a : Fin 16) (imm : BitVec 18), engKind e ≠ 2 ∧ (s.eng e).running = true ∧
    s.engCanRun e = false :=
  ⟨engAt 37 [] fun x => { x with count := 2000 }, 37, 13, 1, 0x10000, by decide +kernel⟩

theorem test_meets_EngineRunsWaitAndEnd_6 :
    ∃ (s : State) (e : Fin 46) (d : Fin 16) (a : Fin 16) (imm : BitVec 18) (x : Fin 32), engKind e ≠ 2 ∧ s.axisOfEng e
    = some x ∧ engKind e = 0 ∧ s.fld (ENG_STAT e) ENG_STAT_STATE ≠ 4 ∧ s.fld (ENG_WDOG e) ENG_WDOG_N ≤ (s.eng
    e).forced :=
  ⟨engAt 37 [] fun x => { x with forced := 65535 }, 37, 13, 1, 0x10000, 31, by decide +kernel⟩

theorem test_meets_EngineRunsWaitAndEnd_7 :
    ∃ (s : State) (e : Fin 46) (d : Fin 16) (a : Fin 16) (imm : BitVec 18) (w : Word), engKind e ≠ 2 ∧ s.engCanRun e =
    true ∧ s.engWord e = some w ∧ opFor (engKind e) (wOp w) = false :=
  ⟨engAt 37 [0xF8000000] id, 37, 13, 1, 0x10000, 0xF8000000, by decide +kernel⟩

/-- Axis engine 37 at a word, with an event ring of cabinet 0 that has room. -/
def tellAt (w : Word) : State :=
  ((((engAt 37 [w, 0] id).setFld (HIF_CAB_CTRL 0) HIF_CAB_CTRL_EVRING 15).setFld (HIF_CAB_CTRL 0) HIF_CAB_CTRL_EVRING_F 15).setFld
    (HIF_RING_STAT 0 15) HIF_RING_STAT_STATE 1).setFld (HIF_RING_CFG 0 15) HIF_RING_CFG_TYPE 2

def aRecord (sev : Nat) : Record := ⟨.num 0xF100, sev, 0, 4, 0, 0, 0, 0, [], 0, [], false⟩

/-- Recorder filter 45 at a word, with a candidate of severity 1 under it. -/
def filterAt (w : Word) : State :=
  (engAt 45 [w] id).modRec fun r => { r with staging := [⟨aRecord 1, some 45⟩] }

/-- Axis engine 37 at a CMD with a STOP image at byte 960. -/
def cmdAt (n : Nat) : State :=
  engAt 37 [wI 0x34 2 1 960, 0] fun x => { x with cmds := n, data := x.data.set 0 [(240, 3)] }

theorem test_meets_EnginesReportAndCommand_0 :
    ∃ (s : State) (e : Fin 46) (d : Fin 16) (a : Fin 16) (b : Fin 16) (imm : BitVec 18), a.1 ≤ 14 ∧ s.atWord e (wI
    0x32 d a imm) ∧ s.hasWord e (s.pcNext e) :=
  ⟨engAt 37 [wI 0x32 2 14 4, 0] id, 37, 2, 14, 0, 4, by unfold State.atWord State.hasWord; decide +kernel⟩

theorem test_meets_EnginesReportAndCommand_1 :
    ∃ (s : State) (e : Fin 46) (d : Fin 16) (a : Fin 16) (b : Fin 16) (imm : BitVec 18) (g : Trigger), (s.eng e).trig
    = some g ∧ g.met = true :=
  ⟨engAt 37 [] fun x => { x with trig := some ⟨1, 0, 31, 0, true⟩ }, 37, 2, 14, 0, 4, ⟨1, 0, 31, 0, true⟩,
  by decide +kernel⟩

theorem test_meets_EnginesReportAndCommand_2 :
    ∃ (s : State) (e : Fin 46) (d : Fin 16) (a : Fin 16) (b : Fin 16) (imm : BitVec 18), d.1 ≤ 14 ∧ s.atWord e (wI
    0x35 d a imm) ∧ s.hasWord e (s.pcNext e) :=
  ⟨engAt 37 [wI 0x35 14 1 0, 0] id, 37, 14, 1, 0, 0, by unfold State.atWord State.hasWord; decide +kernel⟩

theorem test_meets_EnginesReportAndCommand_3 :
    ∃ (s : State) (e : Fin 46) (d : Fin 16) (a : Fin 16) (b : Fin 16) (imm : BitVec 18) (x : Fin 32) (n : Fin 16),
    s.axisOfEng e = some x ∧ engKind e = 0 ∧ s.canTell (s.ownerAx x) n (plainSev 0x0702) ∧ s.atWord e (wI 0x36 d a
    imm) ∧ s.hasWord e (s.pcNext e) :=
  ⟨tellAt (wI 0x36 2 1 5), 37, 2, 1, 0, 5, 31, 15,
  by unfold State.atWord State.hasWord State.canTell; and_intros <;> first | decide +kernel | exact ring_both _ _ 15 _ (by decide +kernel)⟩

theorem test_meets_EnginesReportAndCommand_4 :
    ∃ (s : State) (e : Fin 46) (d : Fin 16) (a : Fin 16) (b : Fin 16) (imm : BitVec 18) (sev : BitVec 2) (code :
    BitVec 12), s.atWord e (wR 0x33 d a b (sev.toNat * 4096 + code.toNat)) ∧ s.hasWord e (s.pcNext e) :=
  ⟨engAt 37 [wR 0x33 2 1 0 0x3FFF, 0] id, 37, 2, 1, 0, 5, 3, 0xFFF,
  by unfold State.atWord State.hasWord; decide +kernel⟩

theorem test_meets_EnginesReportAndCommand_5 :
    ∃ (s : State) (e : Fin 46) (d : Fin 16) (a : Fin 16) (b : Fin 16) (imm : BitVec 18) (x : Fin 32), s.axisOfEng e =
    some x ∧ engKind e = 0 ∧ s.atWord e (wI 0x37 d a imm) ∧ s.hasWord e (s.pcNext e) ∧ 1 ≤ imm.toNat ∧ imm.toNat ≤ 6 :=
  ⟨engAt 37 [wI 0x37 2 1 6, 0] id, 37, 2, 1, 0, 6, 31, by unfold State.atWord State.hasWord; decide +kernel⟩

theorem test_meets_EnginesReportAndCommand_6 :
    ∃ (s : State) (e : Fin 46) (d : Fin 16) (a : Fin 16) (b : Fin 16) (imm : BitVec 18) (x : Fin 32), s.axisOfEng e =
    some x ∧ engKind e = 0 ∧ s.atWord e (wI 0x37 d a imm) ∧ s.hasWord e (s.pcNext e) ∧ (imm.toNat < 1 ∨ 6 < imm.toNat) :=
  ⟨engAt 37 [wI 0x37 2 1 7, 0] id, 37, 2, 1, 0, 7, 31, by unfold State.atWord State.hasWord; decide +kernel⟩

theorem test_meets_EnginesReportAndCommand_7 :
    ∃ (s : State) (e : Fin 46) (d : Fin 16) (a : Fin 16) (b : Fin 16) (imm : BitVec 18) (i : Nat) (q : Staged),
    engKind e = 2 ∧ s.atWord e (wI 0x38 d a imm) ∧ (s.eng e).swap = none ∧ imm.toNat = 1 ∧ s.recorder.staging.findIdx?
    (fun q => q.filter == some e) = some i ∧ s.recorder.staging[i]? = some q ∧ q.record.sev < 2 :=
  ⟨filterAt (wI 0x38 2 1 1), 45, 2, 1, 0, 1, 0, ⟨aRecord 1, some 45⟩, by unfold State.atWord; decide +kernel⟩

theorem test_meets_EnginesReportAndCommand_8 :
    ∃ (s : State) (e : Fin 46) (d : Fin 16) (a : Fin 16) (b : Fin 16) (imm : BitVec 18) (x : Fin 32) (addr : Nat),
    addr = (s.kreg e a + imm.signExtend 32).toNat ∧ addr % 64 = 0 ∧ addr + 64 ≤ dataSize e ∧ s.cmdAxis e d = some x ∧
    s.atWord e (wI 0x34 d a imm) ∧ s.hasWord e (s.pcNext e) ∧ (s.eng e).cmds < 4 ∧ cmdAllowed (s.dataByte e addr) =
    true ∧ (s.axis x).intake.length < 32 :=
  ⟨cmdAt 3, 37, 2, 1, 0, 960, 31, 960, by unfold State.atWord State.hasWord; decide +kernel⟩

theorem test_meets_EnginesReportAndCommand_9 :
    ∃ (s : State) (e : Fin 46) (d : Fin 16) (a : Fin 16) (b : Fin 16) (imm : BitVec 18) (x : Fin 32) (addr : Nat),
    addr = (s.kreg e a + imm.signExtend 32).toNat ∧ addr % 64 = 0 ∧ addr + 64 ≤ dataSize e ∧ s.cmdAxis e d = some x ∧
    s.atWord e (wI 0x34 d a imm) ∧ s.hasWord e (s.pcNext e) ∧ 4 ≤ (s.eng e).cmds :=
  ⟨cmdAt 4, 37, 2, 1, 0, 960, 31, 960, by unfold State.atWord State.hasWord; decide +kernel⟩

theorem test_meets_EngineWordsAndCommandsAgree_0 :
    ∃ (e : Fin 46) (ctx : EngCtx) (i : Instr) (w : Word), engWordOf i = some w ∧ (∃ v, engCommand e ctx v = i) ∧ opFor
    (engKind e) (wOp w) = true :=
  ⟨37, ⟨false, 0, false⟩, .add 37 1 2 3, wR 0x01 1 2 3 0, by exact ⟨rfl, ⟨wR 0x01 1 2 3 0, rfl⟩, rfl⟩⟩

theorem test_meets_EngineWordsAndCommandsAgree_1 :
    ∃ (e : Fin 46) (ctx : EngCtx), engKind e = 0 :=
  ⟨39, ⟨false, 0, false⟩, by decide +kernel⟩

theorem test_meets_RegisterWritesAreChecked_0 :
    ∃ (s : State) (t : Nat) (w : Writer) (a : Nat) (v : Word), a % 4 = 0 ∧ regFields a ≠ [] ∧ s.owns w a = false :=
  ⟨regsOn [], 0, .host 3, MP_CMD_POS_LO 31, 0xFFFFFFFF, by decide +kernel⟩

theorem test_meets_RegisterWritesAreChecked_1 :
    ∃ (s : State) (t : Nat) (w : Writer) (a : Nat) (v : Word) (c : _), a % 4 = 0 ∧ regFields a ≠ [] ∧ w = .host c ∧
    s.owns w a = true ∧ s.hostMayWrite a = none :=
  ⟨inState dHALT [], 0, .host 0, MP_CMD_POS_LO 31, 0xFFFFFFFF, 0, by decide +kernel⟩

theorem test_meets_RegisterWritesAreChecked_2 :
    ∃ (s : State) (t : Nat) (w : Writer) (a : Nat) (v : Word) (c : _), a % 4 = 0 ∧ regFields a ≠ [] ∧ w = .host c ∧
    s.owns w a = true ∧ s.hostMayWrite a = some false :=
  ⟨inState dDIAG [], 0, .host 0, MP_CMD_POS_LO 31, 0xFFFFFFFF, 0, by decide +kernel⟩

theorem test_meets_RegisterWritesAreChecked_3 :
    ∃ (s : State) (t : Nat) (w : Writer) (a : Nat) (v : Word) (c : _), let z := settleFor (s.reach t) a;  a % 4 = 0 ∧
    regFields a ≠ [] ∧ w = .host c ∧ s.mayBus w a ∧ commitOf a = none ∧ heldBy a = none ∧ z.lockBroken w a v = true :=
  ⟨regsOn [(GLB_LOCK, GLB_LOCK_GLOBAL_LOCK, 1)], 0, .host 0, GLB_ENC_CFG 15, 1, 0,
  by dsimp only; simp only [bus_host, bus_engine]; decide +kernel⟩

theorem test_meets_RegisterWritesAreChecked_4 :
    ∃ (s : State) (t : Nat) (w : Writer) (a : Nat) (v : Word) (c : _), let z := settleFor (s.reach t) a;  a % 4 = 0 ∧
    regFields a ≠ [] ∧ w = .host c ∧ s.mayBus w a ∧ commitOf a = none ∧ heldBy a = none ∧ z.lockBroken w a v = false ∧
    (z.staticBroken a v = true ∨ (z.keepComp a (z.newReg a v) = z.newReg a v ∧ z.forbidden a (z.newReg a v) = true)) :=
  ⟨regsOn [], 0, .host 0, CR_CFG 31, CR_CFG_STEPMODE.put 0 3, 0,
  by dsimp only; simp only [bus_host, bus_engine]; decide +kernel⟩

theorem test_meets_RegisterWritesAreChecked_5 :
    ∃ (s : State) (t : Nat) (w : Writer) (a : Nat) (v : Word) (c : _), let z := settleFor (s.reach t) a;  a % 4 = 0 ∧
    regFields a ≠ [] ∧ w = .host c ∧ s.mayBus w a ∧ commitOf a = none ∧ heldBy a = none ∧ z.lockBroken w a v = false ∧
    z.staticBroken a v = false ∧ z.keepComp a (z.newReg a v) ≠ z.newReg a v ∧ z.checkRuns a = false ∧ z.inRange a
    (z.keepComp a (z.newReg a v)) = true :=
  ⟨regsOn [], 0, .host 0, cmpCfg 63 9, 1, 0, by dsimp only; simp only [bus_host, bus_engine]; decide +kernel⟩

theorem test_meets_RegisterWritesAreChecked_6 :
    ∃ (s : State) (t : Nat) (w : Writer) (a : Nat) (v : Word) (c : _), let z := settleFor (s.reach t) a;  a % 4 = 0 ∧
    regFields a ≠ [] ∧ w = .host c ∧ s.mayBus w a ∧ commitOf a = none ∧ heldBy a = none ∧ z.lockBroken w a v = false ∧
    z.staticBroken a v = false ∧ z.keepComp a (z.newReg a v) = z.newReg a v ∧ z.forbidden a (z.newReg a v) = false ∧
    z.inRange a (z.newReg a v) = false :=
  ⟨regsOn [], 0, .host 0, ENG_WDOG 45, 0, 0, by dsimp only; simp only [bus_host, bus_engine]; decide +kernel⟩

theorem test_meets_RegisterWritesAreChecked_7 :
    ∃ (s : State) (t : Nat) (w : Writer) (a : Nat) (v : Word) (c : _), let z := settleFor (s.reach t) a;  a % 4 = 0 ∧
    regFields a ≠ [] ∧ w = .host c ∧ s.mayBus w a ∧ commitOf a = none ∧ heldBy a = none ∧ z.lockBroken w a v = false ∧
    z.staticBroken a v = false ∧ z.keepComp a (z.newReg a v) = z.newReg a v ∧ z.forbidden a (z.newReg a v) = false ∧
    z.inRange a (z.newReg a v) = true ∧ plainReg a = true ∧ (∀ y : Fin 4, (s.tile y).parBad.contains a = false) :=
  ⟨regsOn [], 0, .host 0, ENG_WDOG 45, 2000, 0, by dsimp only; simp only [bus_host, bus_engine]; decide +kernel⟩

theorem test_meets_RegisterWritesAreChecked_8 :
    ∃ (s : State) (t : Nat) (c : Fin 4) (a : Nat) (v : Word) (size : Nat), (size ≠ 4 ∨ a % 4 ≠ 0) :=
  ⟨regsOn [], 0, 0, MP_CMD_POS_LO 31, 0xFFFFFFFF, 0, by decide +kernel⟩

theorem test_meets_RegisterWritesAreChecked_9 :
    ∃ (s : State) (t : Nat) (c : Fin 4) (a : Nat) (v : Word) (lo : _), a % 4 = 0 ∧ regFields a ≠ [] ∧ s.mayBus (.host
    c) a ∧ commitOf a = some lo ∧ settleFor (s.reach t) a = s.reach t :=
  ⟨regsOn [], 0, 0, MP_CMD_POS_HI 31, 0xFFFFFFFF, MP_CMD_POS_LO 31,
  by exact ⟨by decide +kernel, by decide +kernel, (bus_host _ _ _).2 (by decide +kernel), by decide +kernel, by rfl⟩⟩

theorem test_meets_RegisterWritesAreChecked_10 :
    ∃ (s : State) (t : Nat) (c : Fin 4) (a : Nat) (v : Word) (y : Fin 32) (hi : Nat),
    let vh := s.heldHi (.host c) hi;  a % 4 = 0 ∧ regFields a ≠ [] ∧ s.mayBus (.host c) a ∧ heldBy a = some hi ∧
    blockOf a = .axis y ∧ a ≠ MP_CMD_POS_LO y ∧ s.windowWord y a = none ∧ (s.reach t).lockBroken (.host c) a v = false
    ∧ (s.reach t).staticBroken a v = false ∧ (s.reach t).lockBroken (.host c) hi vh = false ∧ (s.reach t).staticBroken
    hi vh = false ∧ s.pairRange a (s.newReg a v) (s.newReg hi vh) = true :=
  ⟨regsOn [], 0, 0, GR_CATCHUP_LO 31, 1, 31, GR_CATCHUP_HI 31,
  by dsimp only; simp only [bus_host, bus_engine]; decide +kernel⟩

theorem test_meets_WritesWithEffectsTakeThem_0 :
    ∃ (s : State) (u : Nat) (w : Writer) (c : Fin 4) (t : Fin 4) (a : Fin 32) (v : BitVec 64), s.mayBus w
    (MP_CMD_POS_LO a) ∧ s.posSettable a = true ∧ s.softOk a v.toInt = true ∧ (s.prof a).plan ≠ [] :=
  ⟨(regsOn []).setAxState 31 axSTANDSTILL, 0, .host 0, 0, 3, 31, 0xFFFFFFFFFFFFFFFF,
  by simp only [bus_host, bus_engine]; decide +kernel⟩

theorem test_meets_WritesWithEffectsTakeThem_1 :
    ∃ (s : State) (u : Nat) (w : Writer) (c : Fin 4) (t : Fin 4) (a : Fin 32) (v : BitVec 64), s.mayBus w
    (MP_CMD_POS_LO a) ∧ s.posSettable a = false :=
  ⟨(regsOn []).setAxState 31 axPOSITION, 0, .host 0, 0, 3, 31, 0xFFFFFFFFFFFFFFFF,
  by simp only [bus_host, bus_engine]; decide +kernel⟩

theorem test_meets_WritesWithEffectsTakeThem_2 :
    ∃ (s : State) (u : Nat) (w : Writer) (c : Fin 4) (t : Fin 4), s.mayBus (.host c) GLB_LOCK :=
  ⟨regsOn [], 0, .host 0, 0, 3, by simp only [bus_host, bus_engine]; decide +kernel⟩

theorem test_meets_WritesWithEffectsTakeThem_3 :
    ∃ (s : State) (u : Nat) (w : Writer) (c : Fin 4) (t : Fin 4), s.mayBus (.host c) (CFG_LOCK c) ∧ s.fld (CFG_LOCK c)
    CFG_LOCK_REF_SEL ≤ 4 :=
  ⟨regsOn [], 0, .host 0, 3, 3, by simp only [bus_host, bus_engine]; decide +kernel⟩

theorem test_meets_WritesWithEffectsTakeThem_4 :
    ∃ (s : State) (u : Nat) (w : Writer) (c : Fin 4) (t : Fin 4) (e : Fin 46) (param : BitVec 16), s.mayBus (.host c)
    (ENG_HOSTEV e) :=
  ⟨regsOn [], 0, .host 0, 0, 3, 45, 0xFFFF, by simp only [bus_host, bus_engine]; decide +kernel⟩

theorem test_meets_WritesWithEffectsTakeThem_5 :
    ∃ (s : State) (u : Nat) (w : Writer) (c : Fin 4) (t : Fin 4) (area : Bool) (piece : BitVec 5), s.mayBus (.host c)
    REC_RD_CTRL :=
  ⟨regsOn [], 0, .host 0, 0, 3, true, 31, by simp only [bus_host, bus_engine]; decide +kernel⟩

theorem test_meets_WritesWithEffectsTakeThem_6 :
    ∃ (s : State) (u : Nat) (w : Writer) (c : Fin 4) (t : Fin 4) (byTime : Bool), s.mayBus w (PWM_LOADALL t) ∧ s.bit
    (PWM_TCTRL t) PWM_TCTRL_GANG = true ∧ (s.tile t).parBad = [] ∧ byTime = true ∧ s.period t ≠ 0 ∧ (s.reach u).now <
    (s.pair (PWM_LOADAT_LO t) + s.period t - 1) / s.period t * s.period t :=
  ⟨(regsOn [(PWM_TCTRL 3, PWM_TCTRL_GANG, 1)]).setPair (PWM_LOADAT_LO 3) 500000, 0, .host 0, 0, 3, true,
  by simp only [bus_host, bus_engine]; decide +kernel⟩

theorem test_meets_WritesWithEffectsTakeThem_7 :
    ∃ (s : State) (u : Nat) (w : Writer) (c : Fin 4) (t : Fin 4) (byTime : Bool), s.mayBus w (PWM_LOADALL t) ∧ s.bit
    (PWM_TCTRL t) PWM_TCTRL_GANG = true ∧ (s.tile t).parBad = [] ∧ byTime = true ∧ (s.pair (PWM_LOADAT_LO t) +
    s.period t - 1) / s.period t * s.period t ≤ (s.reach u).now :=
  ⟨(regsOn [(PWM_TCTRL 3, PWM_TCTRL_GANG, 1)]).setPair (PWM_LOADAT_LO 3) 500000, 500000, .host 0, 0, 3, true,
  by simp only [bus_host, bus_engine]; decide +kernel⟩

theorem test_meets_WritesWithEffectsTakeThem_8 :
    ∃ (s : State) (u : Nat) (w : Writer) (c : Fin 4) (t : Fin 4) (byTime : Bool), s.mayBus w (PWM_LOADALL t) ∧ s.bit
    (PWM_TCTRL t) PWM_TCTRL_GANG = true ∧ (s.tile t).parBad = [] ∧ byTime = false ∧ (s.reach u).now + 5 < s.boundary t
    + s.period t :=
  ⟨(regsOn [(PWM_TCTRL 3, PWM_TCTRL_GANG, 1)]).setPair (PWM_LOADAT_LO 3) 500000, 24994, .host 0, 0, 3, false,
  by simp only [bus_host, bus_engine]; decide +kernel⟩

theorem test_meets_WritesWithEffectsTakeThem_9 :
    ∃ (s : State) (u : Nat) (w : Writer) (c : Fin 4) (t : Fin 4) (byTime : Bool) (l : _), s.mayBus w (PWM_LOADALL t) ∧
    s.bit (PWM_TCTRL t) PWM_TCTRL_GANG = true ∧ (s.tile t).parBad = [] ∧ s.boundary t + s.period t ≤ (s.reach u).now +
    5 ∧ l ∈ (s.tile t).loadAll ∧ l ≤ s.boundary t + s.period t :=
  ⟨(regsOn [(PWM_TCTRL 3, PWM_TCTRL_GANG, 1)]).modTile 3 fun x => { x with loadAll := [25000] }, 24995, .host 0, 0, 3,
  false, 25000, by simp only [bus_host, bus_engine]; decide +kernel⟩

theorem test_meets_WritesWithEffectsTakeThem_10 :
    ∃ (s : State) (u : Nat) (w : Writer) (c : Fin 4) (t : Fin 4) (y : Fin 2), s.mayBus w (ADC_INJ t y) ∧ s.bit
    (ADC_INJ t y) ADC_INJ_ARM = true ∧ s.bit (ADC_INJ t y) ADC_INJ_SRC = false ∧ (s.conv t y).injPend = none ∧ s.fld
    (ADC_INJ t y) ADC_INJ_CMPSEL ≤ 175 ∧ (s.tile t).parBad = [] :=
  ⟨regsOn [(ADC_INJ 3 1, ADC_INJ_ARM, 1), (ADC_INJ 3 1, ADC_INJ_CMPSEL, 175)], 24995, .host 0, 0, 3, 1,
  by simp only [bus_host, bus_engine]; decide +kernel⟩

theorem test_meets_WritesWithEffectsTakeThem_11 :
    ∃ (s : State) (u : Nat) (w : Writer) (c : Fin 4) (t : Fin 4) (j : Fin 8), s.mayBus w (CMP_WCHK t) ∧ s.windowBusy t
    j.1 = false ∧ (s.tile t).parBad = [] :=
  ⟨(regsOn []).setAxState 31 axPOSITION, 24995, .host 0, 0, 3, 0, by simp only [bus_host, bus_engine]; decide +kernel⟩

theorem test_meets_WritesWithEffectsTakeThem_12 :
    ∃ (s : State) (u : Nat) (w : Writer) (c : Fin 4) (t : Fin 4) (n : Fin 16) (mode : BitVec 2) (m : _), s.mayBus
    (.host c) (GLB_ENC_CFG n) ∧ s.bit GLB_LOCK GLB_LOCK_GLOBAL_LOCK = false ∧ s.encMode n = 0 ∧ s.bit (GLB_ENC_STAT n)
    GLB_ENC_STAT_SIG = false ∧ mode.toNat ≠ 0 ∧ mode.toNat ≠ 3 ∧ encRange (GLB_ENC_CFG_MODE.put (s.reg (GLB_ENC_CFG
    n)) mode.toNat) = true ∧ m ≠ n :=
  ⟨regsOn [], 24995, .host 0, 0, 3, 15, 1, 0, by simp only [bus_host, bus_engine]; decide +kernel⟩

theorem test_meets_WritesWithEffectsTakeThem_13 :
    ∃ (s : State) (u : Nat) (w : Writer) (c : Fin 4) (t : Fin 4) (len : BitVec 26), c = 0 ∧ s.devState = dHALT ∧ s.fld
    GLB_STATE GLB_STATE_CAUSE = 1 ∧ s.fld GLB_RECOV_CTRL GLB_RECOV_CTRL_STATUS ≠ 1 :=
  ⟨inState dHALT [(GLB_STATE, GLB_STATE_CAUSE, 1)], 24995, .host 0, 0, 3, 0x3FFFFFF, by decide +kernel⟩

theorem test_meets_WritesWithEffectsTakeThem_14 :
    ∃ (s : State) (u : Nat) (w : Writer) (c : Fin 4) (t : Fin 4) (setpref : Bool) (len : BitVec 26), c = 0 ∧
    dCONFIGURABLE ≤ s.devState ∧ s.devState ≤ dRUN ∧ s.fld GLB_FWUP_STAT GLB_FWUP_STAT_STATUS ≠ 1 ∧ (setpref && len ==
    0) = false :=
  ⟨inState dCONFIGURABLE [], 24995, .host 0, 0, 3, true, 0x3FFFFFF, by decide +kernel⟩

theorem test_meets_WritesWithEffectsTakeThem_15 :
    ∃ (s : State) (u : Nat) (w : Writer) (c : Fin 4) (t : Fin 4) (dv : BitVec 7) (off : BitVec 16), s.mayBus w (ID_ACC
    t) ∧ 0x50 ≤ dv.toNat ∧ dv.toNat ≤ 0x5F ∧ (s.tile t).parBad = [] :=
  ⟨regsOn [], 24995, .host 0, 0, 3, 0x5F, 0xFFFF, by simp only [bus_host, bus_engine]; decide +kernel⟩

theorem test_meets_WritesWithEffectsTakeThem_16 :
    ∃ (s : State) (u : Nat) (w : Writer) (c : Fin 4) (t : Fin 4) (v : Word), s.mayBus (.host c) (CFG_XBAR_A t) ∧ s.bit
    (CFG_LOCK c) CFG_LOCK_LOCK = false ∧ (∀ a, tileOf a = t → s.axState a = axDISABLED) ∧ xbarTwice v (s.heldHi (.host
    c) (CFG_XBAR_B t)) = false :=
  ⟨regsOn [], 24995, .host 0, 0, 3, 0xECA86402, by simp only [bus_host, bus_engine]; decide +kernel⟩

/-- A Sync of sender 8 on port 1. -/
def sync8 (origin : Nat) : SyncIn := ⟨8, 0, 1, true, 0, -7, origin, 0, 2000000⟩

def fromParent (b : Bool) : State :=
  linked [] fun n => { n with parent := some ([1, 2, 3, 4, 5, 6, 7, 8], 1), corrected := b }

theorem test_meets_LineTimeFollowsItsSource_0 :
    ∃ (s : State) (t : Nat) (f : SyncIn) (vec : List Nat) (p : Nat) (ofs : Int), s.profile ≠ 0 ∧ s.netTakes f.port =
    true ∧ (s.reach f.rx).isCopy f.port f.src 101 f.seq = false ∧ -7 ≤ f.logIvl ∧ f.logIvl ≤ 0 ∧ f.domain = s.fld
    NET_CTRL NET_CTRL_DOMAIN ∧ (s.profile = 2 → f.twoStep = true) ∧ s.net.parent = some (vec, p) ∧ vec.getD 7 0 =
    f.src ∧ ofs = s.syncOffset f ∧ s.net.corrected = true :=
  ⟨fromParent true, 2000000, sync8 0, [1, 2, 3, 4, 5, 6, 7, 8], 1, 2000000, by decide +kernel⟩

theorem test_meets_LineTimeFollowsItsSource_1 :
    ∃ (s : State) (t : Nat) (f : SyncIn) (vec : List Nat) (p : Nat) (ofs : Int), s.profile ≠ 0 ∧ s.netTakes f.port =
    true ∧ (s.reach f.rx).isCopy f.port f.src 101 f.seq = false ∧ -7 ≤ f.logIvl ∧ f.logIvl ≤ 0 ∧ f.domain = s.fld
    NET_CTRL NET_CTRL_DOMAIN ∧ (s.profile = 2 → f.twoStep = true) ∧ s.net.parent = some (vec, p) ∧ vec.getD 7 0 =
    f.src ∧ ofs = s.syncOffset f ∧ s.net.corrected = true ∧ s.bit LT_STAT LT_STAT_SLEWING = true :=
  ⟨(fromParent true).setBit LT_STAT LT_STAT_SLEWING true, 2000000, sync8 0, [1, 2, 3, 4, 5, 6, 7, 8], 1, 2000000,
  by decide +kernel⟩

theorem test_meets_LineTimeFollowsItsSource_2 :
    ∃ (s : State) (t : Nat) (f : SyncIn) (vec : List Nat) (p : Nat) (ofs : Int), s.profile ≠ 0 ∧ s.netTakes f.port =
    true ∧ (s.reach f.rx).isCopy f.port f.src 101 f.seq = false ∧ -7 ≤ f.logIvl ∧ f.logIvl ≤ 0 ∧ f.domain = s.fld
    NET_CTRL NET_CTRL_DOMAIN ∧ (s.profile = 2 → f.twoStep = true) ∧ s.net.parent = some (vec, p) ∧ vec.getD 7 0 =
    f.src ∧ ofs = s.syncOffset f ∧ s.net.corrected = false :=
  ⟨fromParent false, 2000000, sync8 0, [1, 2, 3, 4, 5, 6, 7, 8], 1, 2000000, by decide +kernel⟩

theorem test_meets_LineTimeFollowsItsSource_3 :
    ∃ (s : State) (t : Nat) (f : SyncIn) (vec : List Nat) (p : Nat) (ofs : Int), s.profile ≠ 0 ∧ s.netTakes f.port =
    true ∧ (s.reach f.rx).isCopy f.port f.src 101 f.seq = false ∧ -7 ≤ f.logIvl ∧ f.logIvl ≤ 0 ∧ f.domain = s.fld
    NET_CTRL NET_CTRL_DOMAIN ∧ (s.profile = 2 → f.twoStep = true) ∧ s.net.parent = some (vec, p) ∧ vec.getD 7 0 =
    f.src ∧ ofs = s.syncOffset f ∧ s.net.corrected = false ∧ s.anyPortOn = false :=
  ⟨fromParent false, 2000000, sync8 0, [1, 2, 3, 4, 5, 6, 7, 8], 1, 2000000, by decide +kernel⟩

theorem test_meets_LineTimeFollowsItsSource_4 :
    ∃ (s : State) (t : Nat) (f : SyncIn) (vec : List Nat) (p : Nat) (ofs : Int), s.profile ≠ 0 ∧ s.netTakes f.port =
    true ∧ (s.reach f.rx).isCopy f.port f.src 101 f.seq = false ∧ -7 ≤ f.logIvl ∧ f.logIvl ≤ 0 ∧ f.domain = s.fld
    NET_CTRL NET_CTRL_DOMAIN ∧ (s.profile = 2 → f.twoStep = true) ∧ s.net.parent = some (vec, p) ∧ vec.getD 7 0 =
    f.src ∧ ofs = s.syncOffset f ∧ s.net.corrected = false ∧ s.anyPortOn = false :=
  ⟨fromParent false, 2000000, sync8 0, [1, 2, 3, 4, 5, 6, 7, 8], 1, 2000000, by decide +kernel⟩

theorem test_meets_LineTimeFollowsItsSource_5 :
    ∃ (s : State) (t : Nat) (f : SyncIn) (vec : List Nat) (p : Nat) (ofs : Int), s.profile ≠ 0 ∧ s.netTakes f.port =
    true ∧ (s.reach f.rx).isCopy f.port f.src 101 f.seq = false ∧ -7 ≤ f.logIvl ∧ f.logIvl ≤ 0 ∧ f.domain = s.fld
    NET_CTRL NET_CTRL_DOMAIN ∧ (s.profile = 2 → f.twoStep = true) ∧ s.net.parent = some (vec, p) ∧ vec.getD 7 0 =
    f.src ∧ ofs = s.syncOffset f ∧ s.net.corrected = false ∧ s.anyPortOn = true ∧ ofs.natAbs ≤ 1000000 :=
  ⟨(fromParent false).setPortState 63 1, 2000000, sync8 1000000, [1, 2, 3, 4, 5, 6, 7, 8], 1, 1000000,
  by decide +kernel⟩

theorem test_meets_LineTimeFollowsItsSource_6 :
    ∃ (s : State) (t : Nat) (f : SyncIn) (vec : List Nat) (p : Nat) (ofs : Int), s.profile ≠ 0 ∧ s.netTakes f.port =
    true ∧ (s.reach f.rx).isCopy f.port f.src 101 f.seq = false ∧ -7 ≤ f.logIvl ∧ f.logIvl ≤ 0 ∧ f.domain = s.fld
    NET_CTRL NET_CTRL_DOMAIN ∧ (s.profile = 2 → f.twoStep = true) ∧ s.net.parent = some (vec, p) ∧ vec.getD 7 0 =
    f.src ∧ ofs = s.syncOffset f ∧ s.net.corrected = false ∧ s.anyPortOn = true ∧ 1000000 < ofs.natAbs :=
  ⟨(fromParent false).setPortState 63 1, 2000000, sync8 999999, [1, 2, 3, 4, 5, 6, 7, 8], 1, 1000001,
  by decide +kernel⟩

theorem test_meets_LineTimeFollowsItsSource_7 :
    ∃ (s : State) (t : Nat) (f : SyncIn), s.bit LT_STAT LT_STAT_SLEWING = false ∧ (s.reach f.rx).isCopy f.port f.src
    101 f.seq = true :=
  ⟨linked [] fun n => { n with dup := [⟨0, 8, 101, 0, 1999999⟩] }, 2000000, sync8 0, by decide +kernel⟩

theorem test_meets_LineTimeFollowsItsSource_8 :
    ∃ (s : State) (t : Nat) (f : SyncIn), s.bit LT_STAT LT_STAT_SLEWING = false ∧ (s.reach f.rx).isCopy f.port f.src
    101 f.seq = false ∧ s.profile ≠ 0 ∧ s.netTakes f.port = true ∧ (f.logIvl < -7 ∨ 0 < f.logIvl ∨ f.domain ≠ s.fld
    NET_CTRL NET_CTRL_DOMAIN ∨ (s.profile = 2 ∧ f.twoStep = false)) :=
  ⟨fromParent false, 2000000, ⟨8, 0, 1, true, 0, 1, 0, 0, 2000000⟩, by decide +kernel⟩

theorem test_meets_LineTimeFollowsItsSource_9 :
    ∃ (s : State) (t : Nat) (ofs : Int), s.net.stepOfs = some ofs ∧ s.anyPortOn = false :=
  ⟨linked [] fun n => { n with stepOfs := some (-5) }, 2000000, -5, by decide +kernel⟩

theorem test_meets_LineTimeFollowsItsSource_10 :
    ∃ (s : State) (t : Nat) (port : Fin 2) (q : Nat) (domain : Nat) (vec : List Nat) (ivl : Int), s.profile ≠ 0 ∧
    s.netTakes port = true ∧ (s.reach t).isCopy port (vec.getD 7 0) 105 q = true :=
  ⟨linked [] fun n => { n with dup := [⟨0, 8, 105, 3, 1999999⟩] }, 2000000, 1, 3, 0, [1, 2, 3, 4, 5, 6, 7, 8], 0,
  by decide +kernel⟩

theorem test_meets_LineTimeFollowsItsSource_11 :
    ∃ (s : State) (t : Nat) (port : Fin 2) (q : Nat) (domain : Nat) (vec : List Nat) (ivl : Int), s.profile ≠ 0 ∧
    s.netTakes port = true ∧ (s.reach t).isCopy port (vec.getD 7 0) 105 q = false ∧ domain ≠ s.fld NET_CTRL
    NET_CTRL_DOMAIN :=
  ⟨linked [] id, 2000000, 1, 3, 7, [1, 2, 3, 4, 5, 6, 7, 8], 0, by decide +kernel⟩

theorem test_meets_LineTimeFollowsItsSource_12 :
    ∃ (s : State) (t : Nat) (port : Fin 2) (q : Nat) (vec : List Nat) (ivl : Int), s.profile ≠ 0 ∧ s.netTakes port =
    true ∧ (s.reach t).isCopy port (vec.getD 7 0) 105 q = false ∧ (∀ v p, s.net.parent = some (v, p) → lexLt vec v =
    true) :=
  ⟨linked [] id, 2000000, 1, 0, [0], 0,
  by refine ⟨by decide +kernel, by decide +kernel, by decide +kernel, ?_⟩; intro _ _ h; rw [show (linked [] id).net.parent = none by decide +kernel] at h; cases h⟩

theorem test_meets_LineTimeFollowsItsSource_13 :
    ∃ (s : State) (t : Nat) (l : Nat), s.quality = 0 ∧ s.net.lastSync = some l ∧ l + 3 * s.net.syncInterval ≤ (s.reach
    t).up :=
  ⟨linked [(LT_STAT, LT_STAT_QUALITY, 0)] fun n => { n with lastSync := some 3, syncInterval := 10 }, 33, 3,
  by decide +kernel⟩

theorem test_meets_LineTimeFollowsItsSource_14 :
    ∃ (s : State) (t : Nat) (l : Nat), s.quality = 0 ∧ s.net.lastAnnounce = some l ∧ l + s.fld NET_CTRL
    NET_CTRL_ANN_TO * s.net.annInterval ≤ (s.reach t).up :=
  ⟨linked [(LT_STAT, LT_STAT_QUALITY, 0), (NET_CTRL, NET_CTRL_ANN_TO, 2)] fun n =>
  { n with lastAnnounce := some 3, annInterval := 10 }, 23, 3, by decide +kernel⟩

theorem test_meets_LineTimeFollowsItsSource_15 :
    ∃ (s : State) (t : Nat) (h : Nat), s.quality = 1 ∧ s.net.holdSince = some h ∧ s.bit LT_STAT LT_STAT_HOLD_LIMIT =
    false ∧ h + 1000000000 * s.fld LT_HOLD LT_HOLD_LIMIT ≤ (s.reach t).up :=
  ⟨linked [(LT_STAT, LT_STAT_QUALITY, 1), (LT_HOLD, LT_HOLD_LIMIT, 1)] fun n => { n with holdSince := some 3 },
  1000000003, 3, by decide +kernel⟩

theorem test_meets_LineTimeFollowsItsSource_16 :
    ∃ (s : State) (t : Nat) (port : Fin 2) (peer : Bool) (t1 : Int) (t2 : Int) (t3 : Int) (t4 : Int) (corr : Int),
    s.profile ≠ 0 ∧ s.netPortUp port = true ∧ (s.blocked port = false ∨ peer = true) ∧ peer = decide (s.profile = 2) :=
  ⟨linked [] id, 1000000003, 1, false, 5, 900, 77, -8, 3, by decide +kernel⟩

theorem test_meets_LineTimeFollowsItsSource_17 :
    ∃ (s : State) (t : Nat) (port : Fin 2) (peer : Bool) (domain : Nat) (t1 : Int) (t2 : Int) (t3 : Int) (t4 : Int)
    (corr : Int), s.profile ≠ 0 ∧ s.netPortUp port = true ∧ (s.blocked port = false ∨ peer = true) ∧ (peer ≠ decide
    (s.profile = 2) ∨ domain ≠ s.fld NET_CTRL NET_CTRL_DOMAIN) :=
  ⟨linked [(NET_PORT_STAT 1, NET_PORT_STAT_BLOCK_OPEN, 0)] id, 1000000003, 1, true, 0, 5, 900, 77, -8, 3,
  by decide +kernel⟩

/-- Tile 3 has seen a strobe and missed 1000 since. -/
def missed (b : Bool) : State := (regsOn []).modTile 3 fun x => { x with seen := true, missRun := 1000, strobeFault := b }

theorem test_meets_StrobesKeepTilesAligned_0 :
    ∃ (s : State) (at_ : Nat) (t : Fin 4) (ofs : Int), ofs.natAbs ≤ 50 :=
  ⟨missed false, 0, 3, -50, by decide +kernel⟩

theorem test_meets_StrobesKeepTilesAligned_1 :
    ∃ (s : State) (at_ : Nat) (t : Fin 4) (ofs : Int), 50 < ofs.natAbs :=
  ⟨missed false, 0, 3, -51, by decide +kernel⟩

theorem test_meets_StrobesKeepTilesAligned_2 :
    ∃ (s : State) (at_ : Nat) (t : Fin 4) (a : _), 1000 ≤ (s.tile t).missRun ∧ (s.tile t).strobeFault = false ∧ tileOf
    a = t :=
  ⟨missed false, 0, 3, 31, by decide +kernel⟩

theorem test_meets_StrobesKeepTilesAligned_3 :
    ∃ (s : State) (at_ : Nat) (t : Fin 4), ((s.tile t).missRun < 1000 ∨ (s.tile t).strobeFault = true) :=
  ⟨missed true, 0, 3, by decide +kernel⟩

/-- A ring keeper whose block is open. -/
def keeperOpen (r : Nat) : State :=
  linked [(NET_PORT_CTRL 1, NET_PORT_CTRL_BLOCK, 1), (NET_PORT_STAT 1, NET_PORT_STAT_BLOCK_OPEN, 1)] fun n =>
    { n with returns := r, hbOut := true }

theorem test_meets_LineFramesAreForwardedAndHeard_0 :
    ∃ (s : State) (t : Nat) (n : Fin 2) (f : FwdFrame) (src : Nat) (k : Nat) (q : Nat), s.devState ≠ dOFF ∧
    s.netPortUp n = true ∧ s.netPortUp (otherPort n) = true ∧ s.blocked n = false ∧ s.blocked (otherPort n) = false ∧
    dupKey f = some (src, k, q) ∧ (∀ r a b c, f ≠ .ptp (.peerDelay r) a b c) ∧ (∀ d ∈ s.net.dup, d.src = src → d.kind
    = k → d.seq = q → d.seenAt + 1000000 ≤ (s.reach t).up) ∧ s.unlistedPtp f = false :=
  ⟨linked [] fun n => { n with dup := [⟨1, 8, 1, 5, 1000⟩] }, 1001000, 1, .line 1 8 5, 8, 1, 5,
  by refine ⟨by decide +kernel, by decide +kernel, by decide +kernel, by decide +kernel, by decide +kernel, rfl, by simp, by decide +kernel, by decide +kernel⟩⟩

theorem test_meets_LineFramesAreForwardedAndHeard_1 :
    ∃ (s : State) (t : Nat) (n : Fin 2) (f : FwdFrame) (src : Nat) (k : Nat) (q : Nat), s.devState ≠ dOFF ∧
    s.netPortUp n = true ∧ s.netPortUp (otherPort n) = true ∧ s.blocked n = false ∧ s.blocked (otherPort n) = false ∧
    dupKey f = some (src, k, q) ∧ (∀ r a b c, f ≠ .ptp (.peerDelay r) a b c) ∧ (∀ d ∈ s.net.dup, d.src = src → d.kind
    = k → d.seq = q → d.seenAt + 1000000 ≤ (s.reach t).up) ∧ s.unlistedPtp f = true :=
  ⟨linked [] fun n => { n with dup := [⟨1, 8, 1, 5, 1000⟩] }, 1001000, 1, .ptp .other 8 5 0, 8, ptpKey .other, 5,
  by refine ⟨by decide +kernel, by decide +kernel, by decide +kernel, by decide +kernel, by decide +kernel, rfl, by simp, by decide +kernel, by decide +kernel⟩⟩

theorem test_meets_LineFramesAreForwardedAndHeard_2 :
    ∃ (s : State) (t : Nat) (n : Fin 2) (f : FwdFrame) (src : Nat) (k : Nat) (q : Nat), s.devState ≠ dOFF ∧
    s.netPortUp n = true ∧ s.netPortUp (otherPort n) = true ∧ s.blocked n = false ∧ s.blocked (otherPort n) = false ∧
    dupKey f = some (src, k, q) ∧ (∀ r a b c, f ≠ .ptp (.peerDelay r) a b c) ∧ (∃ d ∈ s.net.dup, d.src = src ∧ d.kind
    = k ∧ d.seq = q ∧ (s.reach t).up < d.seenAt + 1000000) :=
  ⟨linked [] fun n => { n with dup := [⟨1, 8, 1, 5, 1000⟩] }, 1000999, 1, .line 1 8 5, 8, 1, 5,
  by refine ⟨by decide +kernel, by decide +kernel, by decide +kernel, by decide +kernel, by decide +kernel, rfl, by simp, by decide +kernel⟩⟩

theorem test_meets_LineFramesAreForwardedAndHeard_3 :
    ∃ (s : State) (t : Nat) (n : Fin 2), s.mayTalk = true ∧ s.netPortUp n = true ∧ (s.net.lastHb = 0 ∨ s.net.lastHb +
    s.hbNs ≤ (s.reach t).up) :=
  ⟨linked [] id, 1000999, 1, by decide +kernel⟩

theorem test_meets_LineFramesAreForwardedAndHeard_4 :
    ∃ (s : State) (t : Nat) (n : Fin 2) (h : LineHdr) (b : Heartbeat), (s.reach t).isCopy n h.src 1 h.seq = true :=
  ⟨linked [] fun n => { n with dup := [⟨0, 0, 1, 0, 764999999⟩] }, 765000000, 1, hdr 0, ⟨2, 0, 0, [], 0, 0, 0⟩,
  by decide +kernel⟩

theorem test_meets_LineFramesAreForwardedAndHeard_5 :
    ∃ (s : State) (t : Nat) (n : Fin 2) (h : LineHdr) (b : Heartbeat), s.netPortUp n = true ∧ (s.reach t).isCopy n
    h.src 1 h.seq = false ∧ h.seg = s.fld NET_SEG NET_SEG_SEG_ID ∧ h.ver ≤ 2 ∧ h.src ≠ s.fld NET_SEG NET_SEG_DEVNUM :=
  ⟨linked [(NET_SEG, NET_SEG_DEVNUM, 63)] id, 1000999, 1, hdr 8, ⟨2, 0, 0, [], 0, 0, 0⟩, by decide +kernel⟩

theorem test_meets_LineFramesAreForwardedAndHeard_6 :
    ∃ (s : State) (t : Nat) (n : Fin 2) (h : LineHdr) (b : Heartbeat), s.netPortUp n = true ∧ (s.reach t).isCopy n
    h.src 1 h.seq = false ∧ h.seg = s.fld NET_SEG NET_SEG_SEG_ID ∧ h.ver ≤ 2 ∧ h.src = s.fld NET_SEG NET_SEG_DEVNUM ∧
    2 ≤ s.net.returns ∧ s.net.hbOut = true ∧ s.keeper = true ∧ s.blockOpen = true ∧ (∀ m : Fin 2, s.bit (NET_PORT_STAT
    m) NET_PORT_STAT_BLOCK_OPEN = true → s.bit (NET_PORT_CTRL m) NET_PORT_CTRL_BLOCK = true) :=
  ⟨keeperOpen 2, 1000999, 1, hdr 0, ⟨2, 0, 0, [], 0, 0, 0⟩, by decide +kernel⟩

theorem test_meets_LineFramesAreForwardedAndHeard_7 :
    ∃ (s : State) (t : Nat) (n : Fin 2) (src : Nat) (y : HbSource), (s.net.sources.find? fun z => z.dev == src) = some
    y ∧ y.heardAt + 3 * y.interval < (s.reach t).up :=
  ⟨linked [] fun n => { n with sources := [heard (hdr 8)] }, 24, 1, 8, heard (hdr 8), by decide +kernel⟩

theorem test_meets_LineFramesAreForwardedAndHeard_8 :
    ∃ (s : State) (t : Nat) (n : Fin 2), s.keeper = true ∧ s.blockOpen = false ∧ s.net.lastReturn + 3 * s.hbNs ≤
    (s.reach t).up :=
  ⟨linked [(NET_PORT_CTRL 1, NET_PORT_CTRL_BLOCK, 1)] fun n => { n with lastReturn := 0 }, 765000000, 1,
  by decide +kernel⟩

theorem test_meets_LineFramesAreForwardedAndHeard_9 :
    ∃ (s : State) (t : Nat) (n : Fin 2) (up : Bool), s.net.retired[n] = false ∧ up = false :=
  ⟨linked [] id, 765000000, 1, false, by decide +kernel⟩

theorem test_meets_LineFramesAreForwardedAndHeard_10 :
    ∃ (s : State) (t : Nat) (n : Fin 2) (up : Bool) (d : _), s.net.retired[n] = false ∧ up = true ∧ s.net.downAt[n] =
    some d ∧ (s.reach t).up ≤ d + 1000000000 :=
  ⟨linked [] fun n => { n with downAt := n.downAt.set 1 (some 5) }, 1000000005, 1, true, 5, by decide +kernel⟩

theorem test_meets_LineFramesAreForwardedAndHeard_11 :
    ∃ (s : State) (t : Nat) (n : Fin 2), s.net.retired[n] = false ∧ 2 ≤ (s.net.selfTest[n].filter fun y => decide
    ((s.reach t).up ≤ y + 10000000000)).length :=
  ⟨linked [] fun n => { n with selfTest := n.selfTest.set 1 [5, 6] }, 10000000005, 1, by decide +kernel⟩

theorem test_meets_LineFramesAreForwardedAndHeard_12 :
    ∃ (s : State) (t : Nat) (n : Fin 2), s.net.retired[n] = false ∧ (s.net.selfTest[n].filter fun y => decide
    ((s.reach t).up ≤ y + 10000000000)).length < 2 :=
  ⟨linked [] fun n => { n with selfTest := n.selfTest.set 1 [5, 6] }, 10000000006, 1, by decide +kernel⟩

/-- Virtual master 0 follows channel 7 of device 8, whose heartbeats are accepted. -/
def follows (f : VMaster → VMaster) (l : List (Nat × Fld × Nat)) : State :=
  (linked ([(NET_VM_CFG 0, NET_VM_CFG_EN, 1), (NET_VM_CFG 0, NET_VM_CFG_SRC, 8), (NET_VM_CFG 0, NET_VM_CFG_CHAN, 7)] ++ l)
    fun n => { n with sources := [heard (hdr 8)] }).modVm 0 f

def entry7 (b : Bool) : VmEntry := ⟨7, b, false, 0, 1, 1000, 5⟩

theorem test_meets_VirtualMastersFollowTheirSource_0 :
    ∃ (s : State) (t : Nat) (v : Fin 8) (h : LineHdr) (n : Fin 2) (es : List VmEntry), (s.reach t).isCopy n h.src 2
    h.seq = true :=
  ⟨(follows id []).modNet fun n => { n with dup := [⟨0, 8, 2, 0, 23⟩] }, 24, 0, hdr 8, 1, [entry7 true],
  by decide +kernel⟩

theorem test_meets_VirtualMastersFollowTheirSource_1 :
    ∃ (s : State) (t : Nat) (v : Fin 8) (h : LineHdr) (n : Fin 2) (es : List VmEntry) (e : VmEntry) (y : _),
    s.netTakes n = true ∧ (s.reach t).isCopy n h.src 2 h.seq = false ∧ h.seg = s.fld NET_SEG NET_SEG_SEG_ID ∧ h.ver ≤
    2 ∧ (s.reach t).sourceOk h.src = true ∧ exec (.vmSamplesReceive t n h es) s = .next y :=
  ⟨follows id [], 23, 0, hdr 8, 1, [], entry7 true, _,
  by exact ⟨by decide +kernel, by decide +kernel, by decide +kernel, by decide +kernel, by decide +kernel, rfl⟩⟩

theorem test_meets_VirtualMastersFollowTheirSource_2 :
    ∃ (s : State) (t : Nat) (v : Fin 8) (h : LineHdr) (n : Fin 2) (es : List VmEntry) (e : VmEntry), s.netTakes n =
    true ∧ (s.reach t).isCopy n h.src 2 h.seq = false ∧ h.seg = s.fld NET_SEG NET_SEG_SEG_ID ∧ h.ver ≤ 2 ∧ (s.reach
    t).sourceOk h.src = false :=
  ⟨follows id [], 25, 0, hdr 8, 1, [], entry7 true, by decide +kernel⟩

theorem test_meets_VirtualMastersFollowTheirSource_3 :
    ∃ (s : State) (t : Nat) (v : Fin 8) (h : LineHdr) (n : Fin 2) (es : List VmEntry) (e : VmEntry) (ts : Nat),
    s.netTakes n = true ∧ (s.reach t).isCopy n h.src 2 h.seq = false ∧ h.seg = s.fld NET_SEG NET_SEG_SEG_ID ∧ h.ver ≤
    2 ∧ (s.reach t).sourceOk h.src = true ∧ s.bit (NET_VM_CFG v) NET_VM_CFG_EN = true ∧ s.fld (NET_VM_CFG v)
    NET_VM_CFG_SRC = h.src ∧ s.fld (NET_VM_CFG v) NET_VM_CFG_CHAN = e.chan ∧ (s.reach t).entryOk v e = true ∧
    s.vmFreshTo v = some ts ∧ ts < (s.reach t).now :=
  ⟨(follows (fun x => { x with samples := [(500, 5)] }) []).modNet fun n =>
  { n with sources := [{ heard (hdr 8) with heardAt := 400000 }] }, 400000, 0, hdr 8, 0, [],
  { entry7 true with restart := true }, 375500, by decide +kernel⟩

theorem test_meets_VirtualMastersFollowTheirSource_4 :
    ∃ (s : State) (t : Nat) (v : Fin 8) (h : LineHdr) (n : Fin 2) (es : List VmEntry) (e : VmEntry) (w : Fin 8),
    s.netTakes n = true ∧ (s.reach t).isCopy n h.src 2 h.seq = false ∧ h.seg = s.fld NET_SEG NET_SEG_SEG_ID ∧ h.ver ≤
    2 ∧ (s.reach t).sourceOk h.src = true ∧ s.bit (NET_VM_CFG v) NET_VM_CFG_EN = true ∧ s.fld (NET_VM_CFG v)
    NET_VM_CFG_SRC = h.src ∧ s.fld (NET_VM_CFG v) NET_VM_CFG_CHAN = e.chan ∧ (s.reach t).entryOk v e = true ∧ s.bit
    (NET_VM_CFG w) NET_VM_CFG_EN = false :=
  ⟨follows id [], 23, 0, hdr 8, 0, [], entry7 true, 1, by decide +kernel⟩

theorem test_meets_VirtualMastersFollowTheirSource_5 :
    ∃ (s : State) (t : Nat) (v : Fin 8) (h : LineHdr) (n : Fin 2) (es : List VmEntry) (e : VmEntry), s.netTakes n =
    true ∧ (s.reach t).isCopy n h.src 2 h.seq = false ∧ h.seg = s.fld NET_SEG NET_SEG_SEG_ID ∧ h.ver ≤ 2 ∧ (s.reach
    t).sourceOk h.src = true ∧ s.bit (NET_VM_CFG v) NET_VM_CFG_EN = true ∧ s.fld (NET_VM_CFG v) NET_VM_CFG_SRC = h.src
    ∧ s.fld (NET_VM_CFG v) NET_VM_CFG_CHAN = e.chan ∧ (s.reach t).entryOk v e = false ∧ (∀ w : Fin 8, w ≠ v → s.bit
    (NET_VM_CFG w) NET_VM_CFG_EN = false) :=
  ⟨follows id [], 23, 0, hdr 8, 0, [], entry7 false, by decide +kernel⟩

theorem test_meets_VirtualMastersFollowTheirSource_6 :
    ∃ (s : State) (t : Nat) (v : Fin 8) (ts : Nat), s.vmFreshTo v = some ts ∧ s.bit (NET_VM_CFG v) NET_VM_CFG_EN =
    true ∧ ts < (s.reach t).now :=
  ⟨follows (fun x => { x with samples := [(1000, 5)] }) [], 376001, 0, 376000, by decide +kernel⟩

theorem test_meets_VirtualMastersFollowTheirSource_7 :
    ∃ (s : State) (t : Nat) (v : Fin 8) (ts : Nat), s.vmFreshTo v = some ts ∧ s.bit (NET_VM_CFG v) NET_VM_CFG_EN =
    true ∧ (s.reach t).now ≤ ts :=
  ⟨follows (fun x => { x with samples := [(1000, 5)] }) [], 376000, 0, 376000, by decide +kernel⟩

theorem test_meets_VirtualMastersFollowTheirSource_8 :
    ∃ (s : State) (t : Nat) (v : Fin 8) (port : Fin 2), s.bit (NET_PUB_CFG v) NET_PUB_CFG_EN = true ∧ s.mayTalk = true
    ∧ t % ivlNs (s.fld (NET_PUB_CFG v) NET_PUB_CFG_IVL) = 0 ∧ s.netPortUp port = true :=
  ⟨linked [(NET_PUB_CFG 7, NET_PUB_CFG_EN, 1)] id, 125000, 7, 1, by decide +kernel⟩

/-- A request for tile 3 (scope 0) or the line (scope 2), committing at 1000000. -/
def modeReq (scope : Nat) (acks : List Nat) (dec : Option Bool) : OwnRequest :=
  ⟨0, 7, 1, scope, if scope = 2 then 0 else 8, 5, false, 1000000, 300000, acks, [], dec, false, false, 0, 0⟩

/-- Every tile can take part, and tile 3 holds request 1. -/
def asking (l : List (Nat × Fld × Nat)) (f : Net → Net) : State :=
  linked ([(GLB_HEDGE_STAT, GLB_HEDGE_STAT_RUN 0, 1), (GLB_HEDGE_STAT, GLB_HEDGE_STAT_RUN 1, 1),
    (GLB_HEDGE_STAT, GLB_HEDGE_STAT_RUN 2, 1), (GLB_HEDGE_STAT, GLB_HEDGE_STAT_RUN 3, 1),
    (LT_STAT, LT_STAT_QUALITY, 0), (LT_TILE_MODE 3, LT_TILE_MODE_REQ_ID, 1), (NET_MEMBER_LO, ⟨0, 32⟩, 256)] ++ l) f

def owning (r : OwnRequest) : State :=
  asking [] fun n => { n with own := some r, sources := [{ heard (hdr 8) with heardAt := 1000000 }] }

def peer8 (b : Bool) : PeerRequest := ⟨1, 8, 5, 1000000, true, b⟩

def peering (b : Bool) : State := asking [] fun n => { n with peers := [peer8 b], sources := [{ heard (hdr 8) with heardAt := 1000000 }] }

/-- The owner of a decided request, with an event ring of cabinet 0 that has room. -/
def tellingOwner (r : OwnRequest) : State :=
  ((((owning r).setFld (HIF_CAB_CTRL 0) HIF_CAB_CTRL_EVRING 15).setFld (HIF_CAB_CTRL 0) HIF_CAB_CTRL_EVRING_F 15).setFld
    (HIF_RING_STAT 0 15) HIF_RING_STAT_STATE 1).setFld (HIF_RING_CFG 0 15) HIF_RING_CFG_TYPE 2

theorem test_meets_ModeChangesAreAgreed_0 :
    ∃ (s : State) (d : Desc) (ts : List (Fin 4)), d.plain ∧ s.admits d = true ∧ prepareBad d.payload = false ∧ payByte
    d.payload 2 ≠ 2 ∧ ts = scopeTiles (payByte d.payload 2) (payByte d.payload 3) ∧ (∀ t ∈ ts, s.ownerTile t = d.cab ∧
    (s.reach d.accept).tileReason t = 0) ∧ payByte d.payload 4 ≠ 255 ∧ s.net.own = none ∧ instantsOk (payByte
    d.payload 2) (s.slowest ts) d.accept (pay64 d.payload 8) (pay64 d.payload 16) = true :=
  ⟨asking [] id, dCab 0x20 [(0, 1), (3, 8), (4, 5), (11, 1), (18, 2)], [3], by unfold Desc.plain; decide +kernel⟩

theorem test_meets_ModeChangesAreAgreed_1 :
    ∃ (s : State) (d : Desc) (n : Fin 2), d.plain ∧ s.admits d = true ∧ prepareBad d.payload = false ∧ payByte
    d.payload 2 = 2 ∧ (∀ t, s.ownerTile t = d.cab ∧ (s.reach d.accept).tileReason t = 0) ∧ payByte d.payload 4 ≠ 255 ∧
    s.net.own = none ∧ instantsOk 2 (s.slowest allTiles) d.accept (pay64 d.payload 8) (pay64 d.payload 16) = true ∧ (∃
    u, u < 64 ∧ s.member u = true ∧ u ≠ s.fld NET_SEG NET_SEG_DEVNUM) ∧ s.mayTalk = true ∧ s.netPortUp n = true :=
  ⟨asking [] id, dCab 0x20 [(0, 1), (2, 2), (4, 5), (11, 1), (18, 16)], 1,
  by unfold Desc.plain; exact ⟨by decide +kernel, by decide +kernel, by decide +kernel, by decide +kernel, by decide +kernel, by decide +kernel, by decide +kernel, by decide +kernel, ⟨8, by decide +kernel⟩, by decide +kernel, by decide +kernel⟩⟩

theorem test_meets_ModeChangesAreAgreed_2 :
    ∃ (s : State) (d : Desc) (r : OwnRequest), d.plain ∧ s.admits d = true ∧ payByte d.payload 2 < 2 ∧ payZero
    d.payload 3 48 = true ∧ s.net.own = some r ∧ r.id = pay16 d.payload 0 ∧ r.decision = none ∧ r.cab ≠ d.cab :=
  ⟨owning { modeReq 0 [3] none with cab := 3 }, dCab 0x21 [(0, 1), (2, 1)], { modeReq 0 [3] none with cab := 3 },
  by unfold Desc.plain; decide +kernel⟩

theorem test_meets_ModeChangesAreAgreed_3 :
    ∃ (s : State) (d : Desc) (r : OwnRequest), d.plain ∧ s.admits d = true ∧ payByte d.payload 2 < 2 ∧ payZero
    d.payload 3 48 = true ∧ s.net.own = some r ∧ r.id = pay16 d.payload 0 ∧ r.decision = none ∧ r.cab = d.cab ∧ payBit
    d.payload 2 0 = false ∧ d.accept + 400000 ≤ r.lc ∧ s.allAcked r = true :=
  ⟨owning (modeReq 0 [3] none), dCab 0x21 [(0, 1)], modeReq 0 [3] none, by unfold Desc.plain; decide +kernel⟩

theorem test_meets_ModeChangesAreAgreed_4 :
    ∃ (s : State) (d : Desc) (r : OwnRequest) (t : _),
    let mine (s : State) (r : OwnRequest) (t : Fin 4) : Prop := t ∈ s.heldTiles r;  d.plain ∧ s.admits d = true ∧
    payByte d.payload 2 < 2 ∧ payZero d.payload 3 48 = true ∧ s.net.own = some r ∧ r.id = pay16 d.payload 0 ∧
    r.decision = none ∧ r.cab = d.cab ∧ payBit d.payload 2 0 = false ∧ d.accept + 400000 ≤ r.lc ∧ s.allAcked r = true
    ∧ mine s r t :=
  ⟨owning (modeReq 0 [3] none), dCab 0x21 [(0, 1)], modeReq 0 [3] none, 3,
  by dsimp only; unfold Desc.plain; decide +kernel⟩

theorem test_meets_ModeChangesAreAgreed_5 :
    ∃ (s : State) (d : Desc) (r : OwnRequest), d.plain ∧ s.admits d = true ∧ payByte d.payload 2 < 2 ∧ payZero
    d.payload 3 48 = true ∧ s.net.own = some r ∧ r.id = pay16 d.payload 0 ∧ r.decision = none ∧ r.cab = d.cab ∧ payBit
    d.payload 2 0 = false ∧ d.accept + 400000 ≤ r.lc ∧ s.allAcked r = false :=
  ⟨owning (modeReq 0 [] none), dCab 0x21 [(0, 1)], modeReq 0 [] none, by unfold Desc.plain; decide +kernel⟩

theorem test_meets_ModeChangesAreAgreed_6 :
    ∃ (s : State) (d : Desc) (r : OwnRequest) (t : _),
    let mine (s : State) (r : OwnRequest) (t : Fin 4) : Prop := t ∈ s.heldTiles r;  d.plain ∧ s.admits d = true ∧
    payByte d.payload 2 < 2 ∧ payZero d.payload 3 48 = true ∧ s.net.own = some r ∧ r.id = pay16 d.payload 0 ∧
    r.decision = none ∧ r.cab = d.cab ∧ payBit d.payload 2 0 = true ∧ mine s r t :=
  ⟨owning (modeReq 0 [3] none), dCab 0x21 [(0, 1), (2, 1)], modeReq 0 [3] none, 3,
  by dsimp only; unfold Desc.plain; decide +kernel⟩

theorem test_meets_ModeChangesAreAgreed_7 :
    ∃ (s : State) (u : Nat) (k : Fin 2) (h : LineHdr) (id : Nat) (orig : Nat) (mode : Nat) (lc : Nat) (ld : Nat) (n :
    Fin 2), s.netTakes k = true ∧ h.seg = s.fld NET_SEG NET_SEG_SEG_ID ∧ h.ver ≤ 2 ∧ (s.reach u).sourceOk h.src = true
    ∧ (s.reach u).isCopy k h.src 3 h.seq = false ∧ s.member orig = true ∧ orig ≠ s.fld NET_SEG NET_SEG_DEVNUM ∧
    s.net.peers = [] ∧ mode < 255 ∧ (∀ t, s.tileReason t = 0) ∧ s.mayTalk = true ∧ s.netPortUp n = true :=
  ⟨asking [] fun n => { n with sources := [{ heard (hdr 8) with heardAt := 1000000 }] }, 0, 0, hdr 8, 1, 8, 254,
  1000000, 300000, 1, by decide +kernel⟩

theorem test_meets_ModeChangesAreAgreed_8 :
    ∃ (s : State) (u : Nat) (k : Fin 2) (h : LineHdr) (id : Nat) (orig : Nat) (mode : Nat) (lc : Nat) (ld : Nat),
    s.netTakes k = true ∧ h.seg = s.fld NET_SEG NET_SEG_SEG_ID ∧ h.ver ≤ 2 ∧ (s.reach u).sourceOk h.src = true ∧
    (s.net.peers.any fun p => p.id == id && p.orig == orig) = true :=
  ⟨(peering false), 0, 0, hdr 8, 1, 8, 254, 1000000, 300000, by decide +kernel⟩

theorem test_meets_ModeChangesAreAgreed_9 :
    ∃ (s : State) (u : Nat) (k : Fin 2) (h : LineHdr) (id : Nat) (result : Nat) (r : OwnRequest), s.netTakes k = true
    ∧ h.seg = s.fld NET_SEG NET_SEG_SEG_ID ∧ h.ver ≤ 2 ∧ (s.reach u).sourceOk h.src = true ∧ (s.reach u).isCopy k
    h.src 4 h.seq = false ∧ s.net.own = some r ∧ r.id = id ∧ r.scope = 2 ∧ r.ld < (s.reach u).now :=
  ⟨owning (modeReq 2 [] none), 300001, 0, hdr 8, 1, 0, modeReq 2 [] none, by decide +kernel⟩

theorem test_meets_ModeChangesAreAgreed_10 :
    ∃ (s : State) (u : Nat) (k : Fin 2) (h : LineHdr) (id : Nat) (r : OwnRequest), s.netTakes k = true ∧ h.seg = s.fld
    NET_SEG NET_SEG_SEG_ID ∧ h.ver ≤ 2 ∧ (s.reach u).sourceOk h.src = true ∧ (s.reach u).isCopy k h.src 4 h.seq =
    false ∧ s.net.own = some r ∧ r.id = id ∧ r.scope = 2 ∧ (s.reach u).now ≤ r.ld :=
  ⟨owning (modeReq 2 [] none), 300000, 0, hdr 8, 1, modeReq 2 [] none, by decide +kernel⟩

theorem test_meets_ModeChangesAreAgreed_11 :
    ∃ (s : State) (u : Nat) (k : Fin 2) (h : LineHdr) (id : Nat) (orig : Nat) (decision : Nat) (p : PeerRequest),
    s.netTakes k = true ∧ h.seg = s.fld NET_SEG NET_SEG_SEG_ID ∧ h.ver ≤ 2 ∧ (s.reach u).sourceOk h.src = true ∧
    (s.reach u).isCopy k h.src 5 h.seq = false ∧ s.net.peers = [p] ∧ p.id = id ∧ p.orig = orig ∧ p.decided = false ∧
    (s.reach u).now ≤ p.lc ∧ decision = 1 :=
  ⟨peering false, 1000000, 0, hdr 8, 1, 8, 1, peer8 false, by decide +kernel⟩

theorem test_meets_ModeChangesAreAgreed_13 :
    ∃ (s : State) (u : Nat) (k : Fin 2) (h : LineHdr) (id : Nat) (orig : Nat) (decision : Nat) (p : PeerRequest),
    s.netTakes k = true ∧ h.seg = s.fld NET_SEG NET_SEG_SEG_ID ∧ h.ver ≤ 2 ∧ (s.reach u).sourceOk h.src = true ∧
    (s.reach u).isCopy k h.src 5 h.seq = false ∧ s.net.peers = [p] ∧ p.id = id ∧ p.orig = orig ∧ p.decided = false ∧
    (s.reach u).now ≤ p.lc ∧ decision ≠ 1 :=
  ⟨peering false, 1000000, 0, hdr 8, 1, 8, 2, peer8 false, by decide +kernel⟩

theorem test_meets_ModeChangesAreAgreed_15 :
    ∃ (s : State) (u : Nat) (k : Fin 2) (h : LineHdr) (id : Nat) (orig : Nat) (decision : Nat) (p : PeerRequest),
    s.netTakes k = true ∧ h.seg = s.fld NET_SEG NET_SEG_SEG_ID ∧ h.ver ≤ 2 ∧ (s.reach u).sourceOk h.src = true ∧
    (s.reach u).isCopy k h.src 5 h.seq = false ∧ s.net.peers = [p] ∧ p.id = id ∧ p.orig = orig ∧ p.decided = false ∧
    p.lc < (s.reach u).now :=
  ⟨peering false, 1000001, 0, hdr 8, 1, 8, 2, peer8 false, by decide +kernel⟩

theorem test_meets_ModeChangesAreAgreed_16 :
    ∃ (s : State) (u : Nat) (r : OwnRequest) (t : _),
    let mine (s : State) (r : OwnRequest) (t : Fin 4) : Prop := t ∈ s.heldTiles r;  s.net.own = some r ∧ r.decision =
    none ∧ r.ld ≤ (s.reach u).now ∧ s.allAcked r = false ∧ mine s r t :=
  ⟨owning { modeReq 0 [3] none with mask := 12 }, 300000, { modeReq 0 [3] none with mask := 12 }, 3,
  by dsimp only; decide +kernel⟩

theorem test_meets_ModeChangesAreAgreed_17 :
    ∃ (s : State) (u : Nat) (r : OwnRequest) (t : _),
    let mine (s : State) (r : OwnRequest) (t : Fin 4) : Prop := t ∈ s.heldTiles r;  s.net.own = some r ∧ r.decision =
    none ∧ r.auto = false ∧ r.lc ≤ (s.reach u).now + 400000 ∧ mine s r t :=
  ⟨owning { modeReq 0 [3] none with mask := 12 }, 600000, { modeReq 0 [3] none with mask := 12 }, 3,
  by dsimp only; decide +kernel⟩

theorem test_meets_ModeChangesAreAgreed_18 :
    ∃ (s : State) (u : Nat) (r : OwnRequest) (n : Fin 2), s.net.own = some r ∧ r.decision.isSome = true ∧ r.scope = 2
    ∧ r.lastTx + 100000 ≤ (s.reach u).now ∧ (s.reach u).now ≤ r.lc ∧ s.mayTalk = true ∧ s.netPortUp n = true :=
  ⟨owning (modeReq 2 [] (some true)), 1000000, modeReq 2 [] (some true), 1, by decide +kernel⟩

theorem test_meets_ModeChangesAreAgreed_19 :
    ∃ (s : State) (u : Nat) (r : OwnRequest) (n : _), s.net.own = some r ∧ r.decision.isSome = true ∧ (s.reach
    u).outcomeDue r = true ∧ s.canTell (finCab r.cab) n (plainSev 0x0502) :=
  ⟨tellingOwner (modeReq 0 [] (some false)), 2000000, modeReq 0 [] (some false), 15,
  by unfold State.canTell; and_intros <;> first | decide +kernel | exact ring_both _ _ 15 _ (by decide +kernel)⟩

theorem test_meets_ModeChangesAreAgreed_20 :
    ∃ (s : State) (u : Nat) (p : PeerRequest), s.net.peers = [p] ∧ p.decided = false ∧ p.lc ≤ (s.reach u).now :=
  ⟨peering false, 1000000, peer8 false, by decide +kernel⟩

/-- A boot image of security version 0 with a body of one byte, signed with the key whose public key is the base point (R278). -/
def good : BootImage :=
  ⟨[0x4b, 0x59, 0x46, 0x57, 0x01, 0x00, 0x00, 0x00, 0x04, 0x03, 0x02, 0x01, 0x01, 0x00, 0x00, 0x00, 0xbb, 0xee,
    0xbd, 0x87, 0x9e, 0x1d, 0xff, 0x69, 0x18, 0x54, 0x6d, 0xc0, 0xc1, 0x79, 0xfd, 0xde, 0x50, 0x5f, 0x2a, 0x21,
    0x59, 0x1c, 0x9a, 0x9c, 0x96, 0xe3, 0x6b, 0x05, 0x4e, 0xc5, 0xaf, 0x83, 0x5e, 0xcb, 0xe4, 0xd1, 0xa6, 0x33,
    0x0a, 0x44, 0xc8, 0xf7, 0xef, 0x95, 0x1d, 0x4b, 0xf1, 0x65, 0xe6, 0xc6, 0xb7, 0x21, 0xef, 0xad, 0xa9, 0x85,
    0xfb, 0x41, 0x66, 0x1b, 0xc6, 0xe7, 0xfd, 0x6c, 0x33, 0x6f, 0xb0, 0x6b, 0xf2, 0x14, 0xb2, 0xd2, 0xa2, 0xed,
    0xa2, 0x06, 0x6d, 0x0d, 0x23, 0xd9, 0x1b, 0xc8, 0x71, 0x18, 0x7e, 0xd1, 0x4c, 0x28, 0xf8, 0xda, 0xbe, 0xce,
    0x9a, 0xbc, 0xea, 0xb1, 0x00, 0x00, 0x00, 0x00, 0x00, 0x00, 0x00, 0x00, 0x00, 0x00, 0x00, 0x00, 0x00, 0x00,
    0x00, 0x00], [0x5A]⟩

/-- A state whose fused key is the base point. -/
def keyed (s : State) : State := s.modDev fun x => { x with
  key := (0x6b17d1f2e12c4247f8bce6e563a440f277037d812deb33a0f4a13945d898c296,
    0x4fe342e2fe1a7f9b8ee7eb4a7c0f9e162bce33576b315ececbb6406837bf51f5) }

/-- That image with another body. -/
def badSig : BootImage := { good with body := [0x5B] }

/-- A motor record of 32 bytes with a rated current and its CRC (R284, R286). -/
def goodMotor : List Byte :=
  let b := [0x4B, 0x59, 0x49, 0x44, 1, 2, 32, 0] ++ (List.replicate 8 (0 : Byte)) ++ [1] ++ List.replicate 13 0
  b ++ [BitVec.ofNat 8 (crc16 b), BitVec.ofNat 8 (crc16 b / 256)]

/-- Every identity memory has an outcome and both converters are up. -/
def inventoried : State :=
  allTiles.foldl (fun (s : State) (t : Fin 4) => (List.range 8).foldl
    (fun (s : State) k => (s.setFld (ID_STAT t k) ID_STAT_BOARD 1).setFld (ID_STAT t k) ID_STAT_MOTOR 3)
    ((s.setConvState t 0 1).setConvState t 1 1)) (inState dINVENTORY [])

theorem test_meets_DeviceStartsUpAndDown_0 :
    ∃ (s : State) (t : Nat) (v : Bool) (fs : List FlashFail), s.devState = dOFF ∧ (fs = [] ∨ v = false) ∧
    s.recorder.flush = none :=
  ⟨inState dOFF [], 5, false, [], by decide +kernel⟩

theorem test_meets_DeviceStartsUpAndDown_1 :
    ∃ (s : State) (t : Nat) (v : Bool) (fs : List FlashFail), s.devState = dOFF ∧ (fs = [] ∨ v = false) :=
  ⟨inState dOFF [], 5, false, [], by decide +kernel⟩

theorem test_meets_DeviceStartsUpAndDown_2 :
    ∃ (s : State) (t : Nat) (low : Nat), 10000 ≤ low ∧ s.recorder.flush = none :=
  ⟨regsOn [], 5, 10000, by decide +kernel⟩

theorem test_meets_DeviceStartsUpAndDown_3 :
    ∃ (s : State) (t : Nat) (low : Nat), low < 10000 :=
  ⟨regsOn [], 5, 9999, by decide +kernel⟩

theorem test_meets_DeviceStartsUpAndDown_4 :
    ∃ (s : State) (t : Nat), s.recorder.flush = none :=
  ⟨regsOn [], 5, by decide +kernel⟩

theorem test_meets_DeviceStartsUpAndDown_5 :
    ∃ (s : State) (t : Nat), s.recUp = true ∧ s.flushOwed = true :=
  ⟨regsOn [(REC_STAT, REC_STAT_FLUSHING, 1)], 5, by decide +kernel⟩

theorem test_meets_DeviceStartsUpAndDown_6 :
    ∃ (s : State) (t : Nat), s.recorder.flush ≠ none :=
  ⟨(regsOn []).modRec fun x => { x with flush := some ⟨[2], [], 4⟩ }, 5, by decide +kernel⟩

theorem test_meets_DeviceStartsUpAndDown_7 :
    ∃ (s : State) (t : Nat) (refclk : Bool) (drawer : Bool) (a : BootImage) (b : BootImage) (ra : PageReads) (rb :
    PageReads), s.devState = dBOOT ∧ refclk = false :=
  ⟨inState dBOOT [], 5, false, true, good, good, [], [], by decide +kernel⟩

theorem test_meets_DeviceStartsUpAndDown_8 :
    ∃ (s : State) (t : Nat) (refclk : Bool) (drawer : Bool) (a : BootImage) (b : BootImage) (ra : PageReads) (rb :
    PageReads), s.devState = dBOOT ∧ refclk = true ∧ (drawer = false ∨ s.dev.vhold = false) :=
  ⟨inState dBOOT [], 5, true, false, good, good, [], [], by decide +kernel⟩

theorem test_meets_DeviceStartsUpAndDown_9 :
    ∃ (s : State) (t : Nat) (refclk : Bool) (drawer : Bool) (a : BootImage) (b : BootImage) (ra : PageReads) (rb :
    PageReads), let res (y : Bool) : Nat := s.checks (s.slotImage y (if y then b else a)) (if y then rb else ra); 
    s.devState = dBOOT ∧ refclk = true ∧ drawer = true ∧ s.dev.vhold = true ∧ res s.dev.pref = 1 :=
  ⟨keyed (inState dBOOT []), 5, true, true, good, badSig, [], [], by dsimp only; decide +kernel⟩

theorem test_meets_DeviceStartsUpAndDown_10 :
    ∃ (s : State) (t : Nat) (refclk : Bool) (drawer : Bool) (a : BootImage) (b : BootImage) (ra : PageReads) (rb :
    PageReads), let res (y : Bool) : Nat := s.checks (s.slotImage y (if y then b else a)) (if y then rb else ra); 
    s.devState = dBOOT ∧ refclk = true ∧ drawer = true ∧ s.dev.vhold = true ∧ res s.dev.pref ≠ 1 ∧ res (!s.dev.pref) =
    1 :=
  ⟨keyed (inState dBOOT []), 5, true, true, badSig, good, [], [], by dsimp only; decide +kernel⟩

theorem test_meets_DeviceStartsUpAndDown_11 :
    ∃ (s : State) (t : Nat) (refclk : Bool) (drawer : Bool) (a : BootImage) (b : BootImage) (ra : PageReads) (rb :
    PageReads), let res (y : Bool) : Nat := s.checks (s.slotImage y (if y then b else a)) (if y then rb else ra); 
    s.devState = dBOOT ∧ refclk = true ∧ drawer = true ∧ s.dev.vhold = true ∧ res s.dev.pref ≠ 1 ∧ res (!s.dev.pref) ≠
    1 :=
  ⟨keyed (inState dBOOT []), 5, true, true, badSig, badSig, [], [], by dsimp only; decide +kernel⟩

theorem test_meets_DeviceStartsUpAndDown_12 :
    ∃ (s : State) (t : Nat) (f : BootImage), let g := imageUpTo f (s.fld GLB_RECOV_CTRL GLB_RECOV_CTRL_LEN); 
    s.devState = dHALT ∧ s.fld GLB_RECOV_CTRL GLB_RECOV_CTRL_STATUS = 1 ∧ s.checks g [] ≠ 1 :=
  ⟨keyed (inState dHALT [(GLB_RECOV_CTRL, GLB_RECOV_CTRL_STATUS, 1), (GLB_RECOV_CTRL, GLB_RECOV_CTRL_LEN, 129)]), 5,
  badSig, by dsimp only; decide +kernel⟩

theorem test_meets_DeviceStartsUpAndDown_13 :
    ∃ (s : State) (t : Nat) (f : BootImage), let g := imageUpTo f (s.fld GLB_RECOV_CTRL GLB_RECOV_CTRL_LEN); 
    s.devState = dHALT ∧ s.fld GLB_RECOV_CTRL GLB_RECOV_CTRL_STATUS = 1 ∧ s.checks g [] = 1 :=
  ⟨keyed (inState dHALT [(GLB_RECOV_CTRL, GLB_RECOV_CTRL_STATUS, 1), (GLB_RECOV_CTRL, GLB_RECOV_CTRL_LEN, 129)]), 5,
  good, by dsimp only; decide +kernel⟩

theorem test_meets_DeviceStartsUpAndDown_14 :
    ∃ (s : State) (t : Nat) (f : BootImage), s.devState = dHALT ∧ s.fld GLB_RECOV_CTRL GLB_RECOV_CTRL_STATUS = 1 ∧
    s.dev.readTries < 3 :=
  ⟨inState dHALT [(GLB_RECOV_CTRL, GLB_RECOV_CTRL_STATUS, 1), (GLB_RECOV_CTRL, GLB_RECOV_CTRL_LEN, 129)], 5, good,
  by decide +kernel⟩

theorem test_meets_DeviceStartsUpAndDown_15 :
    ∃ (s : State) (t : Nat) (f : BootImage), s.devState = dHALT ∧ s.fld GLB_RECOV_CTRL GLB_RECOV_CTRL_STATUS = 1 ∧ 3 ≤
    s.dev.readTries :=
  ⟨(inState dHALT [(GLB_RECOV_CTRL, GLB_RECOV_CTRL_STATUS, 1), (GLB_RECOV_CTRL, GLB_RECOV_CTRL_LEN, 129)]).modDev fun
  x => { x with readTries := 3 }, 5, good, by decide +kernel⟩

theorem test_meets_DeviceStartsUpAndDown_16 :
    ∃ (s : State) (t : Nat) (u : Fin 4) (m : Fin 16) (tries : List IdTry), s.devState = dINVENTORY ∧ s.idCode u m.1 =
    0 ∧ idOutcome (if m.1 < 8 then 1 else 2) tries = none :=
  ⟨inState dINVENTORY [], 5, 3, 15, [.noAck], by decide +kernel⟩

theorem test_meets_DeviceStartsUpAndDown_17 :
    ∃ (s : State) (t : Nat) (u : Fin 4) (m : Fin 16) (tries : List IdTry) (o : _), s.devState = dINVENTORY ∧ s.idCode
    u m.1 = 0 ∧ idOutcome (if m.1 < 8 then 1 else 2) tries = some o :=
  ⟨inState dINVENTORY [], 5, 3, 15, [.noAck, .noAck, .noAck], (2, []), by decide +kernel⟩

theorem test_meets_DeviceStartsUpAndDown_18 :
    ∃ (s : State) (t : Nat) (u : Fin 4) (m : Fin 16) (tries : List IdTry) (o : _), s.devState = dINVENTORY ∧ s.idCode
    u m.1 = 0 ∧ idOutcome (if m.1 < 8 then 1 else 2) tries = some o ∧ (o.1 = 1 ∨ o.1 = 3) :=
  ⟨inState dINVENTORY [], 5, 3, 15, [.bytes goodMotor], (1, goodMotor), by decide +kernel⟩

theorem test_meets_DeviceStartsUpAndDown_19 :
    ∃ (s : State) (t : Nat) (u : Fin 4) (m : Fin 16) (tries : List IdTry) (o : _) (k : _), s.devState = dINVENTORY ∧
    s.idCode u m.1 = 0 ∧ idOutcome (if m.1 < 8 then 1 else 2) tries = some o ∧ o.1 ≠ 1 ∧ o.1 ≠ 3 ∧ k < 16 :=
  ⟨inState dINVENTORY [], 5, 3, 15, [.noAck, .noAck, .noAck], (2, []), 14, by decide +kernel⟩

theorem test_meets_DeviceStartsUpAndDown_20 :
    ∃ (s : State) (t : Nat) (u : Fin 4) (tries : List IdTry), s.fld (ID_ACC u) ID_ACC_STATUS = 1 ∧ 3 ≤ tries.length ∧
    (∀ r ∈ tries.take 3, ∀ l, r ≠ .bytes l) :=
  ⟨regsOn [(ID_ACC 3, ID_ACC_STATUS, 1)], 5, 3, [.noAck, .broken, .noAck],
  by exact ⟨by decide +kernel, by decide +kernel, by simp⟩⟩

theorem test_meets_DeviceStartsUpAndDown_21 :
    ∃ (s : State) (t : Nat) (u : Fin 4) (tries : List IdTry), s.fld (ID_ACC u) ID_ACC_STATUS = 1 ∧ tries.length < 3 ∧
    (∀ r ∈ tries.take 3, ∀ l, r ≠ .bytes l) :=
  ⟨regsOn [(ID_ACC 3, ID_ACC_STATUS, 1)], 5, 3, [.noAck], by exact ⟨by decide +kernel, by decide +kernel, by simp⟩⟩

theorem test_meets_DeviceStartsUpAndDown_22 :
    ∃ (s : State) (t : Nat) (u : Fin 4) (tries : List IdTry) (l : _) (rest : _), s.fld (ID_ACC u) ID_ACC_STATUS = 1 ∧
    tries = .bytes l :: rest ∧ 4 ≤ l.length :=
  ⟨regsOn [(ID_ACC 3, ID_ACC_STATUS, 1)], 5, 3, [.bytes [1, 2, 3, 4]], ([1, 2, 3, 4] : List Byte), [],
  by decide +kernel⟩

theorem test_meets_DeviceStartsUpAndDown_23 :
    ∃ (s : State) (t : Nat) (libBad : Bool), s.devState = dINVENTORY ∧ (∀ u, s.tileReady u = true) :=
  ⟨inventoried, 5, false, by decide +kernel⟩

theorem test_meets_DeviceStartsUpAndDown_24 :
    ∃ (s : State) (t : Nat), s.devState = dDIAG ∧ (∀ u, (s.tile u).diag = none) :=
  ⟨inState dDIAG [], 5, by decide +kernel⟩

theorem test_meets_DeviceStartsUpAndDown_25 :
    ∃ (s : State) (t : Nat) (d : Desc), d.plain ∧ s.admits d = true ∧ payByte d.payload 0 ≤ 3 ∧ payByte d.payload 1 ≤
    31 ∧ payZero d.payload 2 48 = true ∧ (payBit d.payload 0 1 = true → d.cab = 0) ∧ payBit d.payload 0 0 = true :=
  ⟨inState dCONFIGURABLE [], 5, dCab 0x50 [(0, 1), (1, 31)], by unfold Desc.plain; decide +kernel⟩

theorem test_meets_DeviceStartsUpAndDown_26 :
    ∃ (s : State) (t : Nat) (d : Desc), d.plain ∧ s.admits d = true ∧ payByte d.payload 0 ≤ 3 ∧ payByte d.payload 1 ≤
    31 ∧ payZero d.payload 2 48 = true ∧ (payBit d.payload 0 1 = true → d.cab = 0) ∧ payBit d.payload 0 1 = true :=
  ⟨inState dCONFIGURABLE [], 5, dCab 0x50 [(0, 3), (1, 31)], by unfold Desc.plain; decide +kernel⟩

theorem test_meets_DeviceStartsUpAndDown_27 :
    ∃ (s : State) (t : Nat) (d : Desc) (seg : _), d.plain ∧ s.admits d = true ∧ payByte d.payload 0 ≤ 3 ∧ payByte
    d.payload 1 ≤ 31 ∧ payZero d.payload 2 48 = true ∧ (payBit d.payload 0 1 = true → d.cab = 0) ∧ seg < 5 ∧ (payByte
    d.payload 1 = 0 ∨ (payByte d.payload 1).testBit seg = true) :=
  ⟨inState dCONFIGURABLE [], 5, dCab 0x50 [(0, 1), (1, 31)], 4, by unfold Desc.plain; decide +kernel⟩

theorem test_meets_DeviceStartsUpAndDown_28 :
    ∃ (s : State) (t : Nat) (f : BootImage) (pref : Bool) (reads : PageReads), s.dev.fwup = some (pref, false) ∧
    s.dev.readTries < 3 :=
  ⟨(regsOn [(GLB_FWUP_CTRL, GLB_FWUP_CTRL_LEN, 129)]).modDev fun x => { x with fwup := some (true, false) }, 5, good,
  true, [], by decide +kernel⟩

theorem test_meets_DeviceStartsUpAndDown_29 :
    ∃ (s : State) (t : Nat) (f : BootImage) (pref : Bool) (reads : PageReads), s.dev.fwup = some (pref, false) ∧ 3 ≤
    s.dev.readTries :=
  ⟨(regsOn [(GLB_FWUP_CTRL, GLB_FWUP_CTRL_LEN, 129)]).modDev fun x =>
  { x with fwup := some (true, false), readTries := 3 }, 5, good, true, [], by decide +kernel⟩

theorem test_meets_DeviceStartsUpAndDown_30 :
    ∃ (s : State) (t : Nat) (f : BootImage) (pref : Bool) (reads : PageReads) (ok : Bool),
    let g := imageUpTo f (s.fld GLB_FWUP_CTRL GLB_FWUP_CTRL_LEN);  s.dev.fwup = some (pref, false) ∧ s.checks g [] ≠ 1 :=
  ⟨keyed ((regsOn [(GLB_FWUP_CTRL, GLB_FWUP_CTRL_LEN, 129)]).modDev fun x => { x with fwup := some (true, false) }),
  5, badSig, true, [], false, by dsimp only; decide +kernel⟩

theorem test_meets_DeviceStartsUpAndDown_31 :
    ∃ (s : State) (t : Nat) (f : BootImage) (pref : Bool) (reads : PageReads),
    let g := imageUpTo f (s.fld GLB_FWUP_CTRL GLB_FWUP_CTRL_LEN);  s.dev.fwup = some (pref, false) ∧ s.checks g [] = 1 :=
  ⟨keyed ((regsOn [(GLB_FWUP_CTRL, GLB_FWUP_CTRL_LEN, 129)]).modDev fun x => { x with fwup := some (true, false) }),
  5, good, true, [], by dsimp only; decide +kernel⟩

/-- A number of staged candidates that do not merge with parameter 0. -/
def staged (n : Nat) : List Staged := (List.range n).map fun i => ⟨cand (i + 1) 1, none⟩

theorem test_meets_RecorderTakesCandidates_0 :
    ∃ (s : State) (t : Nat) (r : Record) (rest : List Record), s.recorder.transit = r :: rest ∧ s.recUp = true ∧
    (identityMerge r (s.modRec fun y => { y with transit := rest })).isSome = true :=
  ⟨recAt [] fun x => { x with transit := [cand 5 1], staging := [⟨cand 5 1, none⟩] }, 0, cand 5 1, [],
  by decide +kernel⟩

theorem test_meets_RecorderTakesCandidates_1 :
    ∃ (s : State) (t : Nat) (r : Record) (rest : List Record), s.recorder.transit = r :: rest ∧ s.recUp = true ∧
    identityMerge r (s.modRec fun y => { y with transit := rest }) = none ∧ (s.recorder.occupied < 56 ∨
    s.recorder.occupied < 64 ∧ 2 ≤ r.sev) :=
  ⟨recAt [] fun x => { x with transit := [cand 0 1], staging := staged 55 }, 0, cand 0 1, [], by decide +kernel⟩

theorem test_meets_RecorderTakesCandidates_2 :
    ∃ (s : State) (t : Nat) (r : Record) (rest : List Record), s.recorder.transit = r :: rest ∧ s.recUp = true ∧
    identityMerge r (s.modRec fun y => { y with transit := rest }) = none ∧ (64 ≤ s.recorder.occupied ∨ 56 ≤
    s.recorder.occupied ∧ r.sev < 2) :=
  ⟨recAt [] fun x => { x with transit := [cand 0 1], staging := staged 56 }, 0, cand 0 1, [], by decide +kernel⟩

theorem test_meets_RecorderTakesCandidates_3 :
    ∃ (s : State) (t : Nat) (r : Record) (rest : List Record), s.recorder.transit = r :: rest ∧ s.recUp = true ∧
    identityMerge r (s.modRec fun y => { y with transit := rest }) = none ∧ (64 ≤ s.recorder.occupied ∨ 56 ≤
    s.recorder.occupied ∧ r.sev < 2) ∧ s.recorder.lost = none :=
  ⟨recAt [] fun x => { x with transit := [cand 0 1], staging := staged 64 }, 0, cand 0 1, [], by decide +kernel⟩

theorem test_meets_RecorderTakesCandidates_4 :
    ∃ (s : State) (t : Nat) (r : Record) (rest : List Staged), s.recorder.staging = ⟨r, none⟩ :: rest ∧ s.recUp = true
    ∧ (r.isVar = true ∨ r.fromFilter = true) ∧ s.bit REC_STAT REC_STAT_BYPASS = false ∧ slotsOf s.recorder.journal +
    r.slots ≤ 65536 ∧ s.recorder.unflushed + r.slots ≤ 65536 :=
  ⟨recAt [] fun x => { x with staging := [⟨{ cand 0 1 with body := [7] }, none⟩] }, 0, { cand 0 1 with body := [7] },
  [], by decide +kernel⟩

theorem test_meets_RecorderTakesCandidates_5 :
    ∃ (s : State) (t : Nat) (r : Record) (rest : List Staged) (f : _), s.recorder.staging = ⟨r, none⟩ :: rest ∧
    s.recUp = true ∧ r.isVar = false ∧ r.fromFilter = false ∧ s.journalTakes r = true ∧ s.filterFor r = some f ∧
    (s.eng f).running = false ∧ s.fld (ENG_PC f) ENG_PC_ID ≠ 0x0300 ∧ ((s.eng f).img[s.imgIdx f]).entry < 65536 :=
  ⟨recAt [(ENG_STAT 45, ENG_STAT_STATE, 1), (ENG_PC 45, ENG_PC_ID, 7)] fun x =>
  { x with staging := [⟨cand 0 1, none⟩] }, 0, cand 0 1, [], 45, by decide +kernel⟩

theorem test_meets_RecorderTakesCandidates_6 :
    ∃ (s : State) (t : Nat), s.recorder.lostFree = false :=
  ⟨recAt [] fun x => { x with lost := some (3, 2, .num 0x9000, 4, 31), staging := staged 63 }, 0, by decide +kernel⟩

theorem test_meets_RecorderTakesCandidates_7 :
    ∃ (s : State) (t : Nat) (n : Nat) (v : Nat) (k : Nat) (i : Nat) (c : RecCode), s.recorder.lost = some (n, v, c, k,
    i) ∧ s.recUp = true ∧ s.recorder.lostFree = true ∧ s.recorder.staging.length < 64 ∧ (∀ q ∈ s.recorder.staging,
    q.record.code ≠ .num 0xF001) ∧ (∀ j ∈ s.recorder.journal, j.record.code ≠ .num 0xF001) :=
  ⟨recAt [] fun x => { x with lost := some (3, 2, .num 0x9000, 4, 31), lostFree := true, staging := staged 63 }, 0, 3,
  2, 4, 31, .num 0x9000, by decide +kernel⟩

/-- Ring 15 of cabinet 0 is an active export ring that has room. -/
def expAt (l : List (Nat × Fld × Nat)) (f : Recorder → Recorder) : State :=
  recAt ([(HIF_RING_STAT 0 15, HIF_RING_STAT_STATE, 1), (HIF_RING_CFG 0 15, HIF_RING_CFG_TYPE, 4)] ++ l) f

def stored : Record := { cand 0 1 with seq := 1 }

def exportLeft (left : Option Nat) : Export := ⟨0, 15, 7, false, false, 0, 255, 255, 1, left, 4, 0, 0, 0, false, 0⟩

theorem test_meets_RecorderFlushesAndExports_0 :
    ∃ (s : State) (t : Nat) (d : Desc), d.plain ∧ s.admits d = true ∧ payZero d.payload 0 48 = true ∧ s.bit REC_STAT
    REC_STAT_RAM_ONLY = false :=
  ⟨expAt [] id, 0, dCab 0x45 [], by unfold Desc.plain; decide +kernel⟩

theorem test_meets_RecorderFlushesAndExports_1 :
    ∃ (s : State) (t : Nat) (d : Desc), d.plain ∧ s.admits d = true ∧ payZero d.payload 0 48 = true ∧ s.bit REC_STAT
    REC_STAT_RAM_ONLY = true :=
  ⟨expAt [(REC_STAT, REC_STAT_RAM_ONLY, 1)] id, 0, dCab 0x45 [], by unfold Desc.plain; decide +kernel⟩

theorem test_meets_RecorderFlushesAndExports_2 :
    ∃ (s : State) (t : Nat) (d : Desc), d.plain ∧ s.admits d = true ∧ s.queryOk d = true ∧ s.recorder.exports.any (fun
    e => e.cab == d.cab && e.ring == finRing (payByte d.payload 0)) = false :=
  ⟨expAt [] id, 0, dCab 0x44 [(0, 15), (3, 255)], by unfold Desc.plain; decide +kernel⟩

theorem test_meets_RecorderFlushesAndExports_3 :
    ∃ (s : State) (t : Nat), s.recUp = true ∧ s.bit REC_STAT REC_STAT_FLUSH_PEND = true ∧ s.bit REC_STAT
    REC_STAT_FLUSHING = false ∧ s.bit REC_STAT REC_STAT_RAM_ONLY = false :=
  ⟨expAt [(REC_STAT, REC_STAT_FLUSH_PEND, 1)] id, 0, by decide +kernel⟩

theorem test_meets_RecorderFlushesAndExports_4 :
    ∃ (s : State) (t : Nat) (w : FlushRun), s.recUp = true ∧ s.recorder.flush = some w ∧ s.bit REC_STAT
    REC_STAT_FLUSH_PEND = false :=
  ⟨expAt [] fun x => { x with flush := some ⟨[2], [], 4⟩ }, 0, ⟨[2], [], 4⟩, by decide +kernel⟩

theorem test_meets_RecorderFlushesAndExports_5 :
    ∃ (s : State) (t : Nat) (c : Fin 4) (n : Fin 16) (bad : Option (List Byte)) (e : Export) (r : Record) (o : Bool),
    s.recUp = true ∧ s.recorder.exports.find? (fun y => y.cab == c && y.ring == n) = some e ∧ e.left ≠ some 0 ∧
    (s.reach t).nextWanted e = some (r, o) ∧ s.rRoom c n = true :=
  ⟨expAt [] fun x => { x with journal := [⟨stored, true, false⟩], exports := [exportLeft none] }, 0, 0, 15, none,
  exportLeft none, stored, true, by decide +kernel⟩

theorem test_meets_RecorderFlushesAndExports_6 :
    ∃ (s : State) (t : Nat) (c : Fin 4) (n : Fin 16) (bad : Option (List Byte)) (e : Export), s.recUp = true ∧
    s.recorder.exports.find? (fun y => y.cab == c && y.ring == n) = some e ∧ (e.left = some 0 ∨ (s.reach t).nextWanted
    e = none) :=
  ⟨expAt [] fun x => { x with exports := [exportLeft (some 0)] }, 0, 0, 15, none, exportLeft (some 0),
  by decide +kernel⟩

theorem test_meets_RecorderFlushesAndExports_7 :
    ∃ (s : State) (t : Nat) (seq : Nat) (area : Nat) (piece : Nat), s.recUp = true ∧ s.recorder.lookup = some (seq,
    area, piece) ∧ (∀ q ∈ s.recorder.area (area != 0), q.1.seq = seq → q.1.slots ≤ piece) :=
  ⟨expAt [] fun x => { x with journal := [⟨stored, true, false⟩], lookup := some (1, 0, 1) }, 0, 1, 0, 1,
  by decide +kernel⟩

theorem test_meets_RecorderFlushesAndExports_8 :
    ∃ (s : State) (t : Nat) (seq : Nat) (area : Nat) (piece : Nat) (q : _), s.recUp = true ∧ s.recorder.lookup = some
    (seq, area, piece) ∧ (s.recorder.area (area != 0)).find? (fun q => q.1.seq == seq && decide (piece < q.1.slots)) =
    some q :=
  ⟨expAt [] fun x => { x with journal := [⟨stored, true, false⟩], lookup := some (1, 0, 0) }, 0, 1, 0, 0, (stored,
  true), by decide +kernel⟩

theorem test_meets_RecorderFlushesAndExports_9 :
    ∃ (s : State) (t : Nat) (seq : Nat) (area : Nat) (piece : Nat) (q : _) (k : _), s.recUp = true ∧ s.recorder.lookup
    = some (seq, area, piece) ∧ (s.recorder.area (area != 0)).find? (fun q => q.1.seq == seq && decide (piece <
    q.1.slots)) = some q ∧ k < 8 :=
  ⟨expAt [] fun x => { x with journal := [⟨stored, true, false⟩], lookup := some (1, 0, 0) }, 0, 1, 0, 0, (stored,
  true), 7, by decide +kernel⟩

theorem test_meets_RecorderFlushesAndExports_10 :
    ∃ (s : State) (t : Nat) (low : Nat), low < 1000 :=
  ⟨expAt [(LT_STAT, LT_STAT_QUALITY, 0)] id, 0, 0, by decide +kernel⟩

theorem test_meets_RecorderFlushesAndExports_11 :
    ∃ (s : State) (t : Nat) (low : Nat), s.recUp = true ∧ s.dev.pfailN = true ∧ 1000 ≤ low ∧ s.bit REC_STAT
    REC_STAT_RAM_ONLY = false :=
  ⟨expAt [] id, 0, 1000, by decide +kernel⟩

theorem test_meets_RecorderFlushesAndExports_12 :
    ∃ (s : State) (t : Nat), s.quality = 0 :=
  ⟨expAt [(LT_STAT, LT_STAT_QUALITY, 0)] id, 0, by decide +kernel⟩

theorem test_meets_RecorderFlushesAndExports_13 :
    ∃ (s : State) (t : Nat) (off : Nat) (lost : List Nat), s.recUp = true ∧ s.bit REC_STAT REC_STAT_BYPASS = false ∧
    s.bit REC_STAT REC_STAT_RAM_ONLY = false :=
  ⟨expAt [] id, 0, 0, [], by decide +kernel⟩

theorem test_meets_RecorderFlushesAndExports_14 :
    ∃ (s : State) (t : Nat) (i : Instr) (cls : Nat) (cause : Nat), (i = .recCrit t [] ∧ cls = 49 ∧ cause = 9 ∨ i =
    .hostCrit t ∧ cls = 48 ∧ cause = 8) ∧ dINVENTORY ≤ s.devState ∧ s.devState ≤ dRUN ∧ s.recUp = true :=
  ⟨expAt [(MP_STAT 31, MP_STAT_STATE, 1)] id, 0, .recCrit 0 [], 49, 9, by decide +kernel⟩

theorem test_meets_RecorderFlushesAndExports_15 :
    ∃ (s : State) (t : Nat) (i : Instr) (cls : Nat) (cause : Nat), (i = .recCrit t [] ∧ cls = 49 ∧ cause = 9 ∨ i =
    .hostCrit t ∧ cls = 48 ∧ cause = 8) ∧ dINVENTORY ≤ s.devState ∧ s.devState ≤ dRUN ∧ s.recUp = false :=
  ⟨(expAt [(MP_STAT 31, MP_STAT_STATE, 1)] id).modDev fun x => { x with vhold := false }, 0, .recCrit 0 [], 49, 9,
  by decide +kernel⟩

theorem test_meets_RecorderFlushesAndExports_16 :
    ∃ (s : State) (t : Nat) (i : Instr) (cls : Nat) (cause : Nat) (a : _), (i = .recCrit t [] ∧ cls = 49 ∧ cause = 9 ∨
    i = .hostCrit t ∧ cls = 48 ∧ cause = 8) ∧ dINVENTORY ≤ s.devState ∧ s.devState ≤ dRUN ∧ s.axState a ≠ axDISABLED :=
  ⟨expAt [(MP_STAT 31, MP_STAT_STATE, 1)] id, 0, .recCrit 0 [], 49, 9, 31, by decide +kernel⟩

def pendRx (cls rx arrival : Nat) : PendRx := ⟨cls, rx, arrival, 0, 31, 0⟩

/-- Axis 31 in an episode with reaction `rx` in force, at the boundary of 1000 ns. -/
def reacting (rx : Nat) (l : List (Nat × Fld × Nat)) (f : Episode → Episode) : State :=
  ((regsOn ([(MP_FLT_STAT 31, MP_FLT_STAT_EPISODE, 1), (MP_FLT_STAT 31, MP_FLT_STAT_RX, rx)] ++ l)).modAxis 31 fun x =>
    { x with ep := f x.ep }).modTile 3 fun x => { x with lastB := 1000 }

theorem test_meets_ReactionsLandReportAndEnd_0 :
    ∃ (s : State) (t : Nat) (a : Fin 32) (r : PendRx), s.bit (MP_FLT_STAT a) MP_FLT_STAT_EPISODE = true ∧ (s.axis
    a).ep.pend = [r] ∧ 1 ≤ r.rx ∧ r.rx ≤ 6 ∧ r.cls < 2 ^ MP_FLT_STAT_TOP.width ∧ r.arrival + 500 ≤ s.axB a ∧ s.rxOf a
    < r.rx ∧ r.rx = 1 ∧ s.rxOf a = 0 :=
  ⟨reacting 0 [] fun x => { x with pend := [pendRx 63 1 500] }, 0, 31, pendRx 63 1 500, by decide +kernel⟩

theorem test_meets_ReactionsLandReportAndEnd_1 :
    ∃ (s : State) (t : Nat) (a : Fin 32) (r : PendRx), s.bit (MP_FLT_STAT a) MP_FLT_STAT_EPISODE = true ∧ (s.axis
    a).ep.pend = [r] ∧ 1 ≤ r.rx ∧ r.rx ≤ 6 ∧ r.cls < 2 ^ MP_FLT_STAT_TOP.width ∧ r.arrival + 500 ≤ s.axB a ∧ s.rxOf a
    < r.rx ∧ r.rx = 2 :=
  ⟨reacting 1 [] fun x => { x with pend := [pendRx 63 2 500] }, 0, 31, pendRx 63 2 500, by decide +kernel⟩

theorem test_meets_ReactionsLandReportAndEnd_2 :
    ∃ (s : State) (t : Nat) (a : Fin 32) (r : PendRx), s.bit (MP_FLT_STAT a) MP_FLT_STAT_EPISODE = true ∧ (s.axis
    a).ep.pend = [r] ∧ 1 ≤ r.rx ∧ r.rx ≤ 6 ∧ r.cls < 2 ^ MP_FLT_STAT_TOP.width ∧ r.arrival + 500 ≤ s.axB a ∧ s.rxOf a
    < r.rx ∧ r.rx = 3 ∧ s.moving a = true :=
  ⟨reacting 2 [(MP_STAT 31, MP_STAT_STATE, axVELOCITY)] fun x => { x with pend := [pendRx 63 3 500] }, 0, 31, pendRx
  63 3 500, by decide +kernel⟩

theorem test_meets_ReactionsLandReportAndEnd_3 :
    ∃ (s : State) (t : Nat) (a : Fin 32) (r : PendRx), s.bit (MP_FLT_STAT a) MP_FLT_STAT_EPISODE = true ∧ (s.axis
    a).ep.pend = [r] ∧ 1 ≤ r.rx ∧ r.rx ≤ 6 ∧ r.cls < 2 ^ MP_FLT_STAT_TOP.width ∧ r.arrival + 500 ≤ s.axB a ∧ s.rxOf a
    < r.rx ∧ r.rx = 4 ∧ s.axState a ≠ axDISABLED :=
  ⟨reacting 3 [(MP_STAT 31, MP_STAT_STATE, axHOLD)] fun x => { x with pend := [pendRx 63 4 500] }, 0, 31, pendRx 63 4
  500, by decide +kernel⟩

theorem test_meets_ReactionsLandReportAndEnd_4 :
    ∃ (s : State) (t : Nat) (a : Fin 32) (r : PendRx), s.bit (MP_FLT_STAT a) MP_FLT_STAT_EPISODE = true ∧ (s.axis
    a).ep.pend = [r] ∧ 1 ≤ r.rx ∧ r.rx ≤ 6 ∧ r.cls < 2 ^ MP_FLT_STAT_TOP.width ∧ r.arrival + 500 ≤ s.axB a ∧ s.rxOf a
    < r.rx ∧ 5 ≤ r.rx :=
  ⟨reacting 4 [] fun x => { x with pend := [pendRx 63 6 500] }, 0, 31, pendRx 63 6 500, by decide +kernel⟩

theorem test_meets_ReactionsLandReportAndEnd_5 :
    ∃ (s : State) (t : Nat) (a : Fin 32) (r : PendRx), s.bit (MP_FLT_STAT a) MP_FLT_STAT_EPISODE = true ∧ (s.axis
    a).ep.pend = [r] ∧ 1 ≤ r.rx ∧ r.rx ≤ 6 ∧ r.cls < 2 ^ MP_FLT_STAT_TOP.width ∧ r.arrival + 500 ≤ s.axB a ∧ r.rx ≤
    s.rxOf a :=
  ⟨reacting 6 [] fun x => { x with pend := [pendRx 63 6 500] }, 0, 31, pendRx 63 6 500, by decide +kernel⟩

theorem test_meets_ReactionsLandReportAndEnd_6 :
    ∃ (s : State) (t : Nat) (a : Fin 32) (r : PendRx), s.bit (MP_FLT_STAT a) MP_FLT_STAT_EPISODE = true ∧ (s.axis
    a).ep.pend = [r] ∧ 1 ≤ r.rx ∧ r.rx ≤ 6 ∧ r.cls < 2 ^ MP_FLT_STAT_TOP.width ∧ s.axB a < r.arrival + 500 :=
  ⟨reacting 0 [] fun x => { x with pend := [pendRx 63 6 501] }, 0, 31, pendRx 63 6 501, by decide +kernel⟩

theorem test_meets_ReactionsLandReportAndEnd_7 :
    ∃ (s : State) (t : Nat) (a : Fin 32) (n : _), s.bit (MP_FLT_STAT a) MP_FLT_STAT_EPISODE = true ∧ s.rxOf a ≠ 0 ∧
    (s.rxOf a = 3 → s.rests a = true) ∧ (s.axis a).ep.reported = false ∧ s.canTell (s.ownerAx a) n (s.axis a).ep.sev :=
  ⟨reacting 3 [(HIF_CAB_CTRL 0, HIF_CAB_CTRL_EVRING, 15), (HIF_CAB_CTRL 0, HIF_CAB_CTRL_EVRING_F, 15), (HIF_RING_STAT
  0 15, HIF_RING_STAT_STATE, 1), (HIF_RING_CFG 0 15, HIF_RING_CFG_TYPE, 2)] id, 0, 31, 15,
  by unfold State.canTell; and_intros <;> first | decide +kernel | exact ring_both _ _ 15 _ (by decide +kernel)⟩

theorem test_meets_ReactionsLandReportAndEnd_8 :
    ∃ (s : State) (t : Nat) (a : Fin 32), s.bit (MP_FLT_STAT a) MP_FLT_STAT_EPISODE = true ∧ s.rxOf a ≠ 0 ∧ (s.rxOf a
    = 3 → s.rests a = true) ∧ (s.axis a).ep.reported = true :=
  ⟨reacting 3 [] fun x => { x with reported := true }, 0, 31, by decide +kernel⟩

theorem test_meets_ReactionsLandReportAndEnd_9 :
    ∃ (s : State) (t : Nat) (a : Fin 32) (n : _), s.bit (MP_FLT_STAT a) MP_FLT_STAT_EPISODE = true ∧ 1 ≤ s.rxOf a ∧
    s.rxOf a ≤ 3 ∧ (s.rxOf a = 3 → s.rests a = true) ∧ (settleAxis a (s.reach t)).causePresent a = false ∧ (s.axis
    a).ep.pend = [] ∧ (s.axis a).ep.reported = false ∧ s.canTell (s.ownerAx a) n (s.axis a).ep.sev :=
  ⟨reacting 3 [(HIF_CAB_CTRL 0, HIF_CAB_CTRL_EVRING, 15), (HIF_CAB_CTRL 0, HIF_CAB_CTRL_EVRING_F, 15), (HIF_RING_STAT
  0 15, HIF_RING_STAT_STATE, 1), (HIF_RING_CFG 0 15, HIF_RING_CFG_TYPE, 2)] id, 0, 31, 15,
  by unfold State.canTell; and_intros <;> first | decide +kernel | exact ring_both _ _ 15 _ (by decide +kernel)⟩

theorem test_meets_ReactionsLandReportAndEnd_10 :
    ∃ (s : State) (t : Nat) (a : Fin 32), s.bit (MP_FLT_STAT a) MP_FLT_STAT_EPISODE = true ∧ 5 ≤ s.rxOf a ∧
    (settleAxis a (s.reach t)).bothPorts a pOFF = true :=
  ⟨reacting 5 [] id, 0, 31, by decide +kernel⟩

theorem test_meets_ReactionsLandReportAndEnd_11 :
    ∃ (s : State) (t : Nat) (a : Fin 32), s.bit (MP_FLT_STAT a) MP_FLT_STAT_EPISODE = true ∧ (s.rxOf a = 4 ∨ 5 ≤
    s.rxOf a ∧ (settleAxis a (s.reach t)).bothPorts a pOFF = false) :=
  ⟨reacting 4 [] id, 0, 31, by decide +kernel⟩

def migr : Migration := ⟨0, 7, false, true, false, false, none, false, 0, false, none, true, false⟩

/-- Axis 31 with slot and engine of its reset placement and a migration. -/
def placing (l : List (Nat × Fld × Nat)) (f : Axis → Axis) : State := (regsOn l).modAxis 31 f

theorem test_meets_PlacementsMoveAndAreRepaired_0 :
    ∃ (s : State) (d : Desc) (a : Fin 32), d.plain ∧ s.admits d = true ∧ d.target = a.1 ∧ payByte d.payload 0 = 1 ∧
    payByte d.payload 1 ≤ 1 ∧ payZero d.payload 4 48 = true ∧ s.slotSpare (payByte d.payload 2) = true ∧ s.migOf a =
    none ∧ s.homing a = false ∧ s.rxOf a < 3 ∧ (s.axis a).swapAt ≠ some (s.axB a) :=
  ⟨regsOn [], dAx 0x30 [(0, 1), (1, 1), (2, 35)], 31, by unfold Desc.plain; decide +kernel⟩

theorem test_meets_PlacementsMoveAndAreRepaired_1 :
    ∃ (s : State) (t : Nat) (a : Fin 32) (m : Migration), s.migOf a = some m ∧ s.fld (MP_PLACE a) MP_PLACE_MSTATE = 1 :=
  ⟨placing [(MP_PLACE 31, MP_PLACE_MSTATE, 1)] fun x => { x with mig := some migr }, 5, 31, migr, by decide +kernel⟩

theorem test_meets_PlacementsMoveAndAreRepaired_2 :
    ∃ (s : State) (t : Nat) (a : Fin 32) (m : Migration), s.migOf a = some m ∧ m.fill = true ∧ m.slot = true ∧ m.eng =
    false ∧ s.axState a ≠ axDISABLED ∧ (∀ y ∈ (s.axis a).faulty, m.moves y = true) ∧ s.fld (MP_MIG_TGT a)
    MP_MIG_TGT_DSLOT < 36 :=
  ⟨placing [(MP_STAT 31, MP_STAT_STATE, 1), (MP_MIG_TGT 31, MP_MIG_TGT_DSLOT, 35)] fun x =>
  { x with mig := some migr }, 5, 31, migr, by decide +kernel⟩

theorem test_meets_PlacementsMoveAndAreRepaired_3 :
    ∃ (s : State) (t : Nat) (p : HwPart) (f : HwFault) (n : Fin 36), s.partTarget p = none ∧ p = .slot n ∧ s.partAxis
    p = none ∧ n.1 ∉ s.dev.slotRet :=
  ⟨regsOn [], 5, .slot 35, .bulk, 35, by decide +kernel⟩

theorem test_meets_PlacementsMoveAndAreRepaired_4 :
    ∃ (s : State) (t : Nat) (p : HwPart) (f : HwFault) (a : Fin 32) (n : Nat) (k : Fin 36) (b : Bool), s.partTarget p
    = none ∧ f = .stopping true true ∧ s.partAxis p = some a ∧ s.migOf a = none ∧ s.bit GLB_MIG_CFG GLB_MIG_CFG_REPAIR
    = true ∧ ((s.sparesFor p).find? fun k => hedgeFn p k == partHedge p) = some n ∧ p = .slot k ∧ s.axState a ≠
    axDISABLED :=
  ⟨regsOn [(GLB_MIG_CFG, GLB_MIG_CFG_REPAIR, 1), (MP_STAT 31, MP_STAT_STATE, 1)], 5, .slot 34, .stopping true true,
  31, 35, 34, false, by decide +kernel⟩

theorem test_meets_PlacementsMoveAndAreRepaired_5 :
    ∃ (s : State) (t : Nat) (p : HwPart) (f : HwFault) (a : Fin 32) (snap : Bool) (bulk : Bool), s.partTarget p = none
    ∧ f = .stopping snap bulk ∧ s.partAxis p = some a ∧ s.migOf a = none ∧ s.bit GLB_MIG_CFG GLB_MIG_CFG_REPAIR = true
    ∧ s.sparesFor p = [] ∧ s.axState a ≠ axDISABLED :=
  ⟨(regsOn [(GLB_MIG_CFG, GLB_MIG_CFG_REPAIR, 1), (MP_STAT 31, MP_STAT_STATE, 1)]).modDev fun x =>
  { x with slotRet := [8, 17, 26, 35] }, 5, .slot 34, .stopping false false, 31, false, false, by decide +kernel⟩

theorem test_meets_PlacementsMoveAndAreRepaired_6 :
    ∃ (s : State) (t : Nat) (a : Fin 32) (n : Fin 36) (f : HwFault) (m : Migration), s.partTarget (.slot n) = some a ∧
    s.migOf a = some m ∧ m.slot = true ∧ m.eng = false ∧ m.fill = false ∧ m.fenceIn = none ∧ (s.axis a).faulty = [] ∧
    s.fld (MP_MIG_TGT a) MP_MIG_TGT_DSLOT = n.1 :=
  ⟨placing [(MP_STAT 31, MP_STAT_STATE, 1), (MP_MIG_TGT 31, MP_MIG_TGT_DSLOT, 35)] fun x =>
  { x with mig := some { migr with fill := false } }, 5, 31, 35, .bulk, { migr with fill := false },
  by decide +kernel⟩

theorem test_meets_PlacementsMoveAndAreRepaired_7 :
    ∃ (s : State) (t : Nat) (p : HwPart) (n : Nat), n < s.fld GLB_MIG_CFG GLB_MIG_CFG_CE_LIMIT :=
  ⟨regsOn [(GLB_MIG_CFG, GLB_MIG_CFG_CE_LIMIT, 2)], 5, .slot 34, 1, by decide +kernel⟩

theorem test_meets_PlacementsMoveAndAreRepaired_8 :
    ∃ (s : State) (t : Nat) (p : HwPart) (n : Nat) (a : Fin 32) (k : Nat), s.fld GLB_MIG_CFG GLB_MIG_CFG_CE_LIMIT ≤ n
    ∧ s.partAxis p = some a ∧ s.partTarget p = none ∧ s.migOf a = none ∧ s.bit GLB_MIG_CFG GLB_MIG_CFG_REPAIR = true ∧
    pickSpare (s.sparesFor p) (hedgeFn p) (tileOf a).1 = some k :=
  ⟨regsOn [(GLB_MIG_CFG, GLB_MIG_CFG_REPAIR, 1), (GLB_MIG_CFG, GLB_MIG_CFG_CE_LIMIT, 2)], 5, .slot 34, 2, 31, 35,
  by decide +kernel⟩

theorem test_meets_PlacementsMoveAndAreRepaired_9 :
    ∃ (s : State) (t : Nat) (e : Fin 46), s.fld (ENG_STAT e) ENG_STAT_STATE ≠ 6 ∧ engKind e = 1 ∧ (s.eng e).restarts <
    3 ∧ ((s.eng e).img[s.imgIdx e]).entry < 65536 :=
  ⟨regsOn [(ENG_STAT 43, ENG_STAT_STATE, 1)], 5, 43, by decide +kernel⟩

theorem test_meets_PlacementsMoveAndAreRepaired_10 :
    ∃ (s : State) (t : Nat) (e : Fin 46), s.fld (ENG_STAT e) ENG_STAT_STATE ≠ 6 ∧ engKind e = 1 ∧ 3 ≤ (s.eng
    e).restarts :=
  ⟨(regsOn [(ENG_STAT 43, ENG_STAT_STATE, 1)]).modEng 43 fun x => { x with restarts := 3 }, 5, 43, by decide +kernel⟩

theorem test_meets_PlacementsMoveAndAreRepaired_11 :
    ∃ (s : State) (t : Nat) (e : Fin 46), s.fld (ENG_STAT e) ENG_STAT_STATE ≠ 6 ∧ engKind e = 2 ∧ (s.eng e).running =
    false :=
  ⟨regsOn [(ENG_STAT 45, ENG_STAT_STATE, 1)], 5, 45, by decide +kernel⟩

/-- An image of an axis engine of one HALT and one word of data (R217). -/
def haltImage : List Byte :=
  [0x4B, 0x59, 0x50, 0x47, 1, 0, 1, 0, 4, 0, 0, 0, 0, 0, 0, 0, 0, 0, 0, 0xFC, 0x4D, 0, 0, 0]

/-- PROG_LOAD of that image from host memory into the engine of axis 31. -/
def dLoad : Desc :=
  let c := crc32c haltImage
  { dAx 0x31 [(16, 24), (20, c % 256), (21, c / 256 % 256), (22, c / 65536 % 256), (23, c / 16777216)] with image := haltImage }

def noInput : TileIn := ⟨[], [], [], (0, 0), []⟩

theorem test_meets_BoundariesAndCrossingsDeliver_0 :
    ∃ (s : State) (t : Fin 4) (k : Nat) (i : TileIn) (a : _),
    let T := psel (s.fld (LT_TILE_PERIOD t) LT_TILE_PERIOD_PSEL);  s.tilesRun = true ∧ (s.tile t).lastB < k * T ∧
    tileOf a = t :=
  ⟨regsOn [], 3, 1, noInput, 31, by dsimp only; decide +kernel⟩

theorem test_meets_BoundariesAndCrossingsDeliver_1 :
    ∃ (s : State) (t : Fin 4) (k : Nat) (i : TileIn) (p : _) (a : _),
    let T := psel (s.fld (LT_TILE_PERIOD t) LT_TILE_PERIOD_PSEL);  s.tilesRun = true ∧ (s.tile t).lastB < k * T ∧
    tileOfPort p = t ∧ a ∈ portShadows p ∧ (s.bit (PWM_TCTRL t) PWM_TCTRL_GANG = false ∨ (∃ l ∈ (s.tile t).loadAll, l
    ≤ k * T)) :=
  ⟨regsOn [], 3, 1, noInput, 63, PWM_DHA 3 15, by dsimp only; decide +kernel⟩

theorem test_meets_BoundariesAndCrossingsDeliver_2 :
    ∃ (s : State) (t : Fin 4) (k : Nat) (i : TileIn) (p : _) (a : _),
    let T := psel (s.fld (LT_TILE_PERIOD t) LT_TILE_PERIOD_PSEL);  s.tilesRun = true ∧ (s.tile t).lastB < k * T ∧
    tileOfPort p = t ∧ a ∈ portShadows p ∧ s.bit (PWM_TCTRL t) PWM_TCTRL_GANG = true ∧ (∀ l ∈ (s.tile t).loadAll, k *
    T < l) :=
  ⟨regsOn [(PWM_TCTRL 3, PWM_TCTRL_GANG, 1)], 3, 1, noInput, 63, PWM_DHA 3 15, by dsimp only; decide +kernel⟩

theorem test_meets_BoundariesAndCrossingsDeliver_3 :
    ∃ (s : State) (t : Fin 4) (k : Nat) (i : TileIn) (m : _),
    let T := psel (s.fld (LT_TILE_PERIOD t) LT_TILE_PERIOD_PSEL);  s.tilesRun = true ∧ (s.tile t).lastB < k * T ∧
    (s.tile t).mode = some m ∧ (∀ c, (s.cab c).waiting = []) ∧ (s.tile t).intake = [] ∧ m.committed = true ∧ m.lc ≤ k
    * T :=
  ⟨(regsOn []).modTile 3 fun x => { x with mode := some ⟨5, 25000, true⟩ }, 3, 1, noInput, ⟨5, 25000, true⟩,
  by dsimp only; and_intros <;> first | rfl | decide +kernel⟩

theorem test_meets_BoundariesAndCrossingsDeliver_4 :
    ∃ (s : State) (t : Fin 4) (k : Nat) (i : TileIn) (m : _),
    let T := psel (s.fld (LT_TILE_PERIOD t) LT_TILE_PERIOD_PSEL);  s.tilesRun = true ∧ (s.tile t).lastB < k * T ∧
    (s.tile t).mode = some m ∧ (∀ c, (s.cab c).waiting = []) ∧ (s.tile t).intake = [] ∧ (m.committed = false ∨ k * T <
    m.lc) :=
  ⟨(regsOn []).modTile 3 fun x => { x with mode := some ⟨5, 25001, true⟩ }, 3, 1, noInput, ⟨5, 25001, true⟩,
  by dsimp only; and_intros <;> first | rfl | decide +kernel⟩

theorem test_meets_BoundariesAndCrossingsDeliver_5 :
    ∃ (s : State) (t : Fin 4) (k : Nat) (i : TileIn) (a : _),
    let T := psel (s.fld (LT_TILE_PERIOD t) LT_TILE_PERIOD_PSEL);  s.tilesRun = true ∧ (s.tile t).lastB < k * T ∧
    tileOf a = t ∧ (s.axState a = axPOSITION ∨ s.axState a = axVELOCITY) ∧ progress a (k * T) 24 (s.reach (k * T)) =
    s.reach (k * T) ∧ s.softOn a = false ∧ (s.gear a).engPend = none ∧ (s.axis a).intake = [] ∧ (s.eng (s.engOf
    a)).due = [] ∧ s.migOf a = none ∧ (s.axis a).home = none ∧ (s.prof a).stopDue = false ∧ (s.tile t).mode = none ∧
    (s.tile t).intake = [] ∧ (∀ c, (s.cab c).waiting = []) :=
  ⟨(regsOn [(MP_STAT 31, MP_STAT_STATE, axVELOCITY)]).modProf 31 fun x => { x with velTarget := 5 }, 3, 1, noInput,
  31, by dsimp only; and_intros <;> first | rfl | decide +kernel⟩

theorem test_meets_BoundariesAndCrossingsDeliver_6 :
    ∃ (s : State) (t : Fin 4) (k : Nat) (i : TileIn), let T := psel (s.fld (LT_TILE_PERIOD t) LT_TILE_PERIOD_PSEL); 
    (s.tilesRun = false ∨ k * T ≤ (s.tile t).lastB ∧ (s.tile t).realign = false) :=
  ⟨inState dHALT [], 3, 1, noInput, by dsimp only; decide +kernel⟩

theorem test_meets_BoundariesAndCrossingsDeliver_7 :
    ∃ (s : State) (u : Nat) (c : Fin 4) (n : Fin 16) (d : Desc) (rest : List Desc) (a : Fin 32), (s.ring c n).toRoute
    = d :: rest ∧ d.kind = 0 ∧ d.target = a.1 ∧ (s.axis a).intake.length < 32 :=
  ⟨(regsOn []).modRing 3 15 fun r => { r with toRoute := [dAx 1 []] }, 0, 3, 15, dAx 1 [], [], 31, by decide +kernel⟩

theorem test_meets_BoundariesAndCrossingsDeliver_8 :
    ∃ (s : State) (u : Nat) (c : Fin 4) (n : Fin 16) (d : Desc) (rest : List Desc), (s.ring c n).toRoute = d :: rest ∧
    d.plain :=
  ⟨(regsOn []).modRing 3 15 fun r => { r with toRoute := [dAx 1 []] }, 0, 3, 15, dAx 1 [], [],
  by unfold Desc.plain; decide +kernel⟩

theorem test_meets_BoundariesAndCrossingsDeliver_9 :
    ∃ (s : State) (u : Nat) (h : Fin 4) (x : XTraffic), (∀ a y, x ≠ .late a y) :=
  ⟨regsOn [], 0, 3, .record, by exact fun _ _ h => nomatch h⟩

theorem test_meets_BoundariesAndCrossingsDeliver_10 :
    ∃ (s : State) (u : Nat) (h : Fin 4) (x : XTraffic) (third : Bool), (∀ a y, x ≠ .late a y) ∧ third = true :=
  ⟨regsOn [], 0, 3, .record, true, by refine ⟨fun _ _ h => ?_, rfl⟩; nomatch h⟩

theorem test_meets_BoundariesAndCrossingsDeliver_11 :
    ∃ (s : State) (u : Nat) (h : Fin 4) (x : XTraffic) (a : Fin 32) (z : Bool) (third : Bool), x = .late a z ∧ z =
    true ∧ third = false ∧ (s.axis a).fenceAt.isSome = true :=
  ⟨(regsOn []).modAxis 31 fun x => { x with fenceAt := some 5 }, 0, 3, .late 31 true, 31, true, false,
  by decide +kernel⟩

theorem test_meets_BoundariesAndCrossingsDeliver_12 :
    ∃ (s : State) (u : Nat) (h : Fin 4) (x : XTraffic) (a : Fin 32) (z : Bool) (third : Bool), x = .late a z ∧ (z =
    false ∨ third = true ∨ (s.axis a).fenceAt = none) :=
  ⟨regsOn [], 0, 3, .late 31 true, 31, true, true, by decide +kernel⟩

theorem test_meets_BoundariesAndCrossingsDeliver_13 :
    ∃ (s : State) (u : Nat) (h : Fin 4) (x : XTraffic), xingHasRecord x = false :=
  ⟨regsOn [], 0, 3, .samples 31, by decide +kernel⟩

theorem test_meets_BoundariesAndCrossingsDeliver_14 :
    ∃ (s : State) (u : Nat) (h : Fin 4) (x : XTraffic) (r : Option (Fin 4)), x = .register r :=
  ⟨regsOn [], 0, 3, .register none, none, by decide +kernel⟩

theorem test_meets_BoundariesAndCrossingsDeliver_15 :
    ∃ (s : State) (u : Nat) (h : Fin 4) (x : XTraffic) (p : _), x = .results p ∧ (s.loop p).missed = false :=
  ⟨regsOn [], 0, 3, .results 63, 63, by decide +kernel⟩

theorem test_meets_BoundariesAndCrossingsDeliver_16 :
    ∃ (s : State) (u : Nat) (h : Fin 4) (x : XTraffic) (t : _), x = .strobe t :=
  ⟨regsOn [], 0, 3, .strobe 3, 3, by decide +kernel⟩

theorem test_meets_BoundariesAndCrossingsDeliver_17 :
    ∃ (s : State) (u : Nat) (h : Fin 4) (x : XTraffic) (r : Record) (rest : List Record), x = .record ∧
    s.recorder.transit = r :: rest :=
  ⟨recAt [] fun x => { x with transit := [cand 0 1] }, 0, 3, .record, cand 0 1, [], by decide +kernel⟩

theorem test_meets_BoundariesAndCrossingsDeliver_18 :
    ∃ (s : State) (d : Desc) (a : Fin 32) (e : Fin 46) (sb : Fin 2) (im : Image), d.plain ∧ s.admits d = true ∧ d.kind
    = 0 ∧ d.target = a.1 ∧ e = s.engOf a ∧ sb ≠ s.imgIdx e ∧ s.migOf a = none ∧ e.1 < 40 ∧ loadedImage d 0 = some
    (.inl im) ∧ payByte d.payload 0 = 0 ∧ payByte d.payload 1 ≤ 1 ∧ payByte d.payload 2 = 0 ∧ payByte d.payload 3 = 0
    ∧ pay16 d.payload 6 = 0 ∧ payZero d.payload 24 48 = true ∧ s.bit GLB_STATE GLB_STATE_LIB_BAD = false :=
  ⟨recAt [] fun x => { x with transit := [cand 0 1] }, dLoad, 31, 37, 1, ⟨true, 0xFFFF, [0xFC000000], 0, [77]⟩,
  by unfold Desc.plain; decide +kernel⟩

theorem test_meets_BoundariesAndCrossingsDeliver_19 :
    ∃ (s : State) (d : Desc) (a : Fin 32) (e : Fin 46) (sb : Fin 2), d.plain ∧ s.admits d = true ∧ d.kind = 0 ∧
    d.target = a.1 ∧ e = s.engOf a ∧ sb ≠ s.imgIdx e ∧ s.migOf a = none ∧ e.1 < 40 ∧ payByte d.payload 0 = 0 ∧ payByte
    d.payload 1 = 0 ∧ payByte d.payload 2 = 0 ∧ payByte d.payload 3 = 0 ∧ payZero d.payload 8 48 = true ∧ s.bit
    (ENG_STAT e) ENG_STAT_SB_VALID = true ∧ s.homing a = false ∧ s.fld (ENG_STAT e) ENG_STAT_STATE ≠ 6 ∧ (s.eng
    e).swap = none ∧ ((s.eng e).img[sb]).entry < 65536 :=
  ⟨(regsOn [(ENG_STAT 37, ENG_STAT_SB_VALID, 1)]).modEng 37 fun x =>
  { x with img := x.img.set 1 ⟨true, 0xFFFF, [0xFC000000], 0, [77]⟩ }, dAx 0x32 [], 31, 37, 1,
  by unfold Desc.plain; decide +kernel⟩

def parityHit : State := (regsOn []).modTile 3 fun x => { x with parBad := [PWM_DHA 3 15] }

def armed (miss : Nat) : State := regsOn [(CFG_STAT 3, CFG_STAT_ARMED, 31), (CFG_STAT 3, CFG_STAT_MISMATCH, miss)]

theorem test_meets_SweepsAndScansFindErrors_0 :
    ∃ (s : State) (u : Nat) (t : Fin 4) (a : Nat) (f : Bool) (bits : Word) (p : _), parityCovered a = true ∧
    shadowTile a = t ∧ a ∉ (s.tile t).parBad ∧ oddBits (bits &&& storedMask a f) = true ∧ (blockOf a = .port p ∨
    blockOf a = .portSense p) ∧ (s.faultedBlocks t).contains (a / 64) = false :=
  ⟨regsOn [], 5, 3, PWM_DHA 3 15, false, 1, 63, by decide +kernel⟩

theorem test_meets_SweepsAndScansFindErrors_1 :
    ∃ (s : State) (u : Nat) (t : Fin 4) (a : Nat) (f : Bool) (bits : Word) (p : _) (y : _) (b : _), parityCovered a =
    true ∧ shadowTile a = t ∧ a ∉ (s.tile t).parBad ∧ oddBits (bits &&& storedMask a f) = true ∧ (blockOf a = .port p
    ∨ blockOf a = .portSense p) ∧ (s.faultedBlocks t).contains (a / 64) = false ∧ s.axisOfPort p = some (y, b) :=
  ⟨regsOn [], 5, 3, PWM_DHA 3 15, false, 1, 63, 31, true, by decide +kernel⟩

theorem test_meets_SweepsAndScansFindErrors_2 :
    ∃ (s : State) (u : Nat) (t : Fin 4) (a : Nat) (f : Bool) (bits : Word) (b : _), parityCovered a = true ∧
    shadowTile a = t ∧ (a ∈ (s.tile t).parBad ∨ oddBits (bits &&& storedMask a f) = false) ∧ b ≠ a :=
  ⟨parityHit, 5, 3, PWM_DHA 3 15, false, 1, PWM_DHB 3 15, by decide +kernel⟩

theorem test_meets_SweepsAndScansFindErrors_3 :
    ∃ (s : State) (u : Nat) (us : Nat) (ups : List Upset) (mis : List (Fin 4 × Nat × Word)) (c : Fin 4) (seg : Nat),
    seg < 5 ∧ (s.dev.newRef[c]).toArray.getD seg false = true :=
  ⟨(regsOn []).modDev fun x => { x with newRef := x.newRef.set 3 (Vector.replicate 5 true) }, 5, 9, [], [], 3, 4,
  by decide +kernel⟩

theorem test_meets_SweepsAndScansFindErrors_4 :
    ∃ (s : State) (u : Nat) (us : Nat) (ups : List Upset) (mis : List (Fin 4 × Nat × Word)) (c : Fin 4) (seg : Nat),
    seg < 5 ∧ (s.dev.newRef[c]).toArray.getD seg false = false ∧ s.segBit c CFG_STAT_ARMED seg = true :=
  ⟨armed 0, 5, 9, [], [(3, 4, 1)], 3, 4, by decide +kernel⟩

theorem test_meets_SweepsAndScansFindErrors_5 :
    ∃ (s : State) (u : Nat) (us : Nat) (ups : List Upset) (mis : List (Fin 4 × Nat × Word)) (c : Fin 4) (seg : Nat),
    seg < 5 ∧ (s.dev.newRef[c]).toArray.getD seg false = false ∧ s.segBit c CFG_STAT_ARMED seg = false :=
  ⟨regsOn [], 5, 9, [], [], 3, 4, by decide +kernel⟩

theorem test_meets_SweepsAndScansFindErrors_6 :
    ∃ (s : State) (u : Nat) (ups : List Upset) (mis : List (Fin 4 × Nat × Word)) (c : Fin 4) (seg : Nat), seg < 5 ∧
    s.segBit c CFG_STAT_ARMED seg = true ∧ s.segBit c CFG_STAT_MISMATCH seg = true ∧ (ups.foldl applyUpset (s.reach
    u)).scanDiff mis c seg = 0 :=
  ⟨armed 31, 5, [], [], 3, 3, by decide +kernel⟩

theorem test_meets_SweepsAndScansFindErrors_7 :
    ∃ (s : State) (u : Nat) (ups : List Upset) (mis : List (Fin 4 × Nat × Word)) (c : Fin 4) (seg : Nat), seg < 5 ∧
    s.segBit c CFG_STAT_ARMED seg = true ∧ s.segBit c CFG_STAT_MISMATCH seg = true ∧ (ups.foldl applyUpset (s.reach
    u)).scanDiff mis c seg ≠ 0 :=
  ⟨armed 31, 5, [], [(3, 3, 1)], 3, 3, by decide +kernel⟩

theorem test_meets_SweepsAndScansFindErrors_8 :
    ∃ (s : State) (u : Nat) (ups : List Upset) (mis : List (Fin 4 × Nat × Word)) (c : Fin 4) (seg : Nat) (a : _), seg
    < 5 ∧ s.segBit c CFG_STAT_ARMED seg = true ∧ s.segBit c CFG_STAT_MISMATCH seg = true ∧ (ups.foldl applyUpset
    (s.reach u)).scanDiff mis c seg ≠ 0 ∧ a ∈ s.scanAxes c seg :=
  ⟨(List.range 16).foldl (fun s i => s.setFld (HIF_OWN_AX 1) (HIF_OWN_AX_CAB i) 3) (armed 31), 5, [], [(3, 3, 1)], 3,
  3, 31, by decide +kernel⟩

theorem test_meets_SweepsAndScansFindErrors_9 :
    ∃ (s : State) (u : Nat) (ups : List Upset) (mis : List (Fin 4 × Nat × Word)) (c : Fin 4) (seg : Nat), seg < 5 ∧
    s.segBit c CFG_STAT_ARMED seg = false :=
  ⟨regsOn [], 5, [], [], 3, 3, by decide +kernel⟩

theorem test_meets_PortsOfAnAxisStayInItsTile_0 :
    ∃ (s : State) (u : Nat) (c : Fin 4) (t : Fin 4) (v : Word), s.mayBus (.host c) (CFG_XBAR_A t) ∧ s.bit (CFG_LOCK c)
    CFG_LOCK_LOCK = true :=
  ⟨regsOn [(CFG_LOCK 0, CFG_LOCK_LOCK, 1)], 0, 0, 0, 0xECA86420, by simp only [bus_host, bus_engine]; decide +kernel⟩

theorem test_meets_TheWaveFollowsItsTable_0 :
    ∃ (t : Table) (f : Nat), f < 65536 :=
  ⟨.data (List.replicate 1024 0), 65535, by decide +kernel⟩

theorem test_meets_TheWaveFollowsItsTable_1 :
    ∃ (bs : List Byte) (t : Table), parseTable bs = some t :=
  ⟨List.replicate 2048 0, .data (List.replicate 1024 0), by decide +kernel⟩

theorem test_meets_TheWaveFollowsItsTable_2 :
    ∃ (s : State) (a : Fin 32) (q : Nat), q < 4 ∧ (s.activeTable a).entry 0 = 0 ∧ s.fld (CR_CFG a) CR_CFG_STEPMODE ≠ 2 :=
  ⟨regsOn [], 31, 3, by decide +kernel⟩

theorem test_meets_ProgramsStartWithTheDevice_0 :
    ∃ (s : State) (x : State) (t : Nat) (low : Nat) (v : Bool) (fs : List FlashFail) (e : Fin 46), (s.devState = dOFF
    ∧ exec (.powerOnTimer t v fs) s = .next x ∨ 10000 ≤ low ∧ exec (.resetNFall t low) s = .next x) ∧ e.1 < 40 ∧ (∃ a,
    x.engOf a = e) :=
  ⟨inState dOFF [], _, 0, 10000, false, [], 37,
  by exact ⟨Or.inr ⟨by decide +kernel, rfl⟩, by decide +kernel, 31, by decide +kernel⟩⟩

theorem test_meets_ProgramsStartWithTheDevice_1 :
    ∃ (s : State) (x : State) (t : Nat) (low : Nat) (v : Bool) (fs : List FlashFail) (e : Fin 46), (s.devState = dOFF
    ∧ exec (.powerOnTimer t v fs) s = .next x ∨ 10000 ≤ low ∧ exec (.resetNFall t low) s = .next x) ∧ e.1 < 40 ∧ (∀ a,
    x.engOf a ≠ e) :=
  ⟨inState dOFF [], _, 0, 10000, false, [], 39,
  by exact ⟨Or.inr ⟨by decide +kernel, rfl⟩, by decide +kernel, by decide +kernel⟩⟩

theorem test_meets_ProgramsStartWithTheDevice_3 :
    ∃ (s : State) (t : Nat) (a : BootImage) (b : BootImage) (ra : PageReads) (rb : PageReads) (y : Bool) (e : Fin 46),
    s.devState = dBOOT ∧ s.dev.vhold = true ∧ s.checks (s.slotImage y (if y then b else a)) (if y then rb else ra) = 1
    ∧ (∀ e : Fin 46, 40 ≤ e.1 → s.imgIdx e = 0) ∧ 40 ≤ e.1 ∧ s.dev.supRet.contains e.1 = false :=
  ⟨keyed (inState dBOOT []), 5, good, good, [], [], false, 45, by decide +kernel⟩

theorem test_meets_ProgramsStartWithTheDevice_4 :
    ∃ (s : State) (d : Desc), d.plain ∧ s.admits d = true :=
  ⟨regsOn [], dAx 0x32 [], by unfold Desc.plain; decide +kernel⟩

/-! ## Well-formed commands -/
theorem test_wf_desc : (Instr.nop (dAx 0 [])).wf = true ∧ (Instr.recFlush (dCab 0x45 [])).wf = true := by decide
/-- Another opcode, a tag of 17 bits, a version 0, a lost result, a reset cabinet, an image beside NOP. -/
theorem test_wf_desc_header :
    (Instr.move (dAx 0 [])).wf = false ∧ (Instr.nop { dAx 0 [] with tag := 2 ^ 16 }).wf = false ∧
    (Instr.nop { dAx 0 [] with ver := 0 }).wf = false ∧ (Instr.nop { dAx 0 [] with unconfirmed := true }).wf = false ∧
    (Instr.nop { dAx 0 [] with muted := true }).wf = false ∧ (Instr.nop { dAx 0 [] with image := [1] }).wf = false := by decide
/-- Axis 32, port 64, cabinet 4, a target kind 3. -/
theorem test_wf_desc_target :
    (Instr.nop (dsc 0 32 0 [])).wf = false ∧ (Instr.nop (dsc 1 64 0 [])).wf = false ∧ (Instr.nop (dsc 2 4 0 [])).wf = false ∧
    (Instr.nop (dsc 3 0 0 [])).wf = false := by decide
/-- Offsets within the doorbell page, BAR4 and BAR0, sizes that PCI Express allows, aligned words from an engine. -/
theorem test_wf_host :
    (Instr.doorbellWrite 0 0 2 0 2).wf = true ∧ (Instr.doorbellWrite 0 0 4096 0 4).wf = false ∧
    (Instr.doorbellWrite 0 0 0 0 0).wf = false ∧ (Instr.msixVectorUnmask 0 0 8192 0 4).wf = false ∧
    (Instr.registerWrite 0 (.host 0) 2 0 4).wf = true ∧ (Instr.registerWrite 0 (.host 0) 0x800000 0 4).wf = false ∧
    (Instr.registerWrite 0 (.engine 0) 2 0 4).wf = false ∧ (Instr.registerWrite 0 (.engine 0) 4 0 8).wf = false ∧
    (Instr.fetchComplete 0 0 0 (List.replicate 9 (Vector.replicate 64 0)) []).wf = false ∧
    (Instr.pcieLinkUp 0 0 32 1 false).wf = false ∧ (Instr.pcieLinkUp 0 0 1 16 false).wf = false := by decide
theorem test_wf_images :
    (Instr.recoveryImageChecked 0 { good with head := [] }).wf = false ∧
    (Instr.fwupComplete 0 { good with head := [] } true []).wf = false ∧ (Instr.fwupComplete 0 good true [(6, 1)]).wf = false ∧
    (Instr.imageChecked 0 true true good { good with head := [] } [] []).wf = false ∧
    (Instr.imageChecked 0 true true good good [(5, 1)] []).wf = true := by decide +kernel
theorem test_wf_identity :
    (Instr.idAccDone 0 0 (List.replicate 4 .noAck)).wf = false ∧
    (Instr.identityReadDone 0 0 0 (List.replicate 4 .noAck) false).wf = false := by decide

def aPort : PortIn := ⟨List.replicate 11 0, List.replicate 11 0, List.replicate 4 (List.replicate 4 0), List.replicate 10 0⟩
def anInput : TileIn :=
  ⟨List.replicate 16 aPort, List.replicate 4 ([0, 0, 0, 0], [0, 0, 0, 0]), List.replicate 2 ([0, 0, 0, 0], [0, 0, 0, 0]), (0, 0), []⟩
theorem test_wf_tile :
    (Instr.tileBoundary 0 1 anInput).wf = true ∧ (Instr.tileBoundary 0 1 noInput).wf = false ∧
    (Instr.tileBoundary 0 1 { anInput with vbus := [] }).wf = false ∧ (Instr.tileBoundary 0 1 { anInput with again := [] }).wf = false ∧
    (Instr.tileBoundary 0 1 { anInput with vbus := List.replicate 4 ([], []) }).wf = false ∧
    (Instr.tileBoundary 0 1 { anInput with again := List.replicate 2 ([], []) }).wf = false ∧
    (Instr.tileBoundary 0 1 { anInput with bandgap := (8192, 0) }).wf = false ∧
    (Instr.tileBoundary 0 1 { anInput with bandgap := (0, -8193) }).wf = false ∧
    (Instr.tileBoundary 0 1 { anInput with differs := [(8, 0)] }).wf = false := by decide
theorem test_wf_port :
    ({ aPort with window := [] } : PortIn).wf = false ∧ ({ aPort with burst := [] } : PortIn).wf = false ∧
    ({ aPort with bridge := [] } : PortIn).wf = false ∧ ({ aPort with bridge := List.replicate 4 [] } : PortIn).wf = false ∧
    ({ aPort with comps := [] } : PortIn).wf = false := by decide

theorem test_wf_clock :
    (Instr.syncReceive { sync8 0 with domain := 256 }).wf = false ∧ (Instr.syncReceive { sync8 0 with src := 2 ^ 64 }).wf = false ∧
    (Instr.syncReceive { sync8 0 with logIvl := 128 }).wf = false ∧ (Instr.announceReceive 0 0 0 256 [] 0).wf = false ∧
    (Instr.announceReceive 0 0 0 0 [] 128).wf = false ∧ (Instr.delayResponseReceive 0 0 false 256 0 0 0 0 0).wf = false := by decide
theorem test_wf_line_header :
    (hdr 8).wf = true ∧ ({ hdr 8 with ver := 256 } : LineHdr).wf = false ∧ ({ hdr 8 with seg := 65536 } : LineHdr).wf = false ∧
    (hdr 64).wf = false ∧ ({ hdr 8 with seq := 65536 } : LineHdr).wf = false ∧
    ({ hdr 8 with time := 2 ^ 64 } : LineHdr).wf = false := by decide
def aBeat : Heartbeat := ⟨2, 0, 0, [0, 0, 0, 0], 0, 0, 0⟩
theorem test_wf_heartbeat :
    (Instr.heartbeatReceive 0 0 (hdr 8) aBeat).wf = true ∧ ({ aBeat with maxVer := 256 } : Heartbeat).wf = false ∧
    ({ aBeat with quality := 256 } : Heartbeat).wf = false ∧ ({ aBeat with epoch := 2 ^ 64 } : Heartbeat).wf = false ∧
    ({ aBeat with modes := [] } : Heartbeat).wf = false ∧ ({ aBeat with modes := [0, 0, 0, 256] } : Heartbeat).wf = false ∧
    ({ aBeat with reqId := 65536 } : Heartbeat).wf = false ∧ ({ aBeat with orig := 256 } : Heartbeat).wf = false ∧
    ({ aBeat with flags := 256 } : Heartbeat).wf = false ∧ (Instr.heartbeatTimeout 0 64).wf = false := by decide
theorem test_wf_samples :
    (Instr.vmSamplesReceive 0 0 (hdr 8) [entry7 true]).wf = true ∧ (Instr.vmSamplesReceive 0 0 (hdr 8) []).wf = false ∧
    (Instr.vmSamplesReceive 0 0 (hdr 8) (List.replicate 9 (entry7 true))).wf = false ∧
    ({ entry7 true with chan := 16 } : VmEntry).wf = false ∧ ({ entry7 true with tq := 4 } : VmEntry).wf = false ∧
    ({ entry7 true with seq := 65536 } : VmEntry).wf = false ∧ ({ entry7 true with time := 2 ^ 64 } : VmEntry).wf = false ∧
    ({ entry7 true with pos := 2 ^ 63 } : VmEntry).wf = false ∧ ({ entry7 true with pos := -(2 ^ 63) - 1 } : VmEntry).wf = false := by
  decide
theorem test_wf_modes :
    (Instr.modePrepareFrame 0 0 (hdr 8) 65536 8 0 0 0).wf = false ∧ (Instr.modePrepareFrame 0 0 (hdr 8) 1 256 0 0 0).wf = false ∧
    (Instr.modePrepareFrame 0 0 (hdr 8) 1 8 256 0 0).wf = false ∧ (Instr.modePrepareFrame 0 0 (hdr 8) 1 8 0 (2 ^ 64) 0).wf = false ∧
    (Instr.modePrepareFrame 0 0 (hdr 8) 1 8 0 0 (2 ^ 64)).wf = false ∧ (Instr.modeAckFrame 0 0 (hdr 8) 1 8 256).wf = false ∧
    (Instr.modeDecisionFrame 0 0 (hdr 8) 1 8 256).wf = false ∧ (Instr.modeDecisionFrame 0 0 (hdr 8) 1 8 1).wf = true := by decide

theorem test_wf_measurements :
    (Instr.commutationEvent 0 0 7).wf = false ∧ (Instr.diagStepEnd 0 0 128000 0).wf = false ∧ (Instr.diagStepEnd 0 0 0 (-128001)).wf = false ∧
    (Instr.seqEntryTrigger 0 0 0 1 [0]).wf = false ∧ (Instr.injectedConversionDone 0 0 0 [0]).wf = false ∧
    (Instr.calSlotEnd 0 0 0 0 0 8192).wf = false ∧ (Instr.fgcalEnd 0 0 0 [] 8192).wf = false ∧
    (Instr.fgcalEnd 0 0 0 (List.replicate 17 (0, 0)) 0).wf = false := by decide
theorem test_wf_rest :
    (Instr.journalEccError 0 (2 ^ 32) [] []).wf = false ∧ (Instr.privetScanEnd 0 0 [] [(0, 5, 1)]).wf = false ∧
    (Instr.privetScanEnd 0 0 [⟨2, false, 1⟩] []).wf = false ∧ (Instr.rescanEnd 0 [] [(0, 0, 0)]).wf = false ∧
    (Instr.paritySweep 0 0 [⟨2, false, 1⟩]).wf = false ∧ (Instr.ssiFrame 0 0 (2 ^ 32) true true).wf = false := by decide

/-! ## The words of the worked example of spec/12_engines.md -/
def ctx0 : EngCtx := ⟨false, 0, false⟩
theorem test_words_of_the_example :
    engCommand 9 ctx0 0xB18401A4 = .abrd 9 6 1 0x1A4 0 false ∧ engCommand 9 ctx0 0x45980001 = .andi 9 6 6 1 ∧
    engCommand 9 ctx0 0x85800007 = .bne 9 6 0 7 ∧ engCommand 9 ctx0 0xD1800000 = .cmd 9 6 0 0 ∧
    engCommand 9 ctx0 0x8183FFFE = .beq 9 6 0 (-2) ∧ engCommand 9 ctx0 0xC1C00005 = .wait 9 7 0 5 := by decide
theorem test_more_words_of_the_example :
    engCommand 9 ctx0 0x0B6E0000 = .sub 9 13 11 8 ∧ engCommand 9 ctx0 0x37AE0000 = .sltu 9 14 11 8 ∧
    engCommand 9 ctx0 0x0BF24000 = .sub 9 15 12 9 ∧ engCommand 9 ctx0 0x674000D0 = .st 9 13 0 0xD0 ∧
    engCommand 9 ctx0 0xD82C0001 = .signal 9 0 11 1 ∧ engCommand 9 ctx0 0xFC000000 = .halt 9 ∧
    engCommand 9 ctx0 0xCDC01001 = .emit 9 7 0 0 1 1 := by decide
/-- The table of operations and events gives no row any bits. -/
theorem test_no_table_word : decodeTableWord 32 0xFC000000 = none := by decide

/-! ## Single steps -/

/-- The engine of axis 9 at a word, with the registers of words 16 to 19 of the worked example: reference 1,203,712 ticks, rest
1,203,665 ticks. -/
def example16 (w : Word) : State := engAt 9 [w, 0] fun x => { x with k := (x.k.set 8 1203712).set 11 1203665 }
/-- Word 16 of the worked example: −47 ticks. -/
theorem test_sub_of_the_example : ∃ t, exec (.sub 9 13 11 8) (example16 0x0B6E0000) = .next t ∧ t.kreg 9 13 = 0xFFFFFFD1 :=
  ⟨_, rfl, by decide +kernel⟩
/-- Word 17: the borrow. -/
theorem test_borrow_of_the_example : ∃ t, exec (.sltu 9 14 11 8) (example16 0x37AE0000) = .next t ∧ t.kreg 9 14 = 1 :=
  ⟨_, rfl, by decide +kernel⟩
/-- DIV by 0 gives 0, REM by 0 its dividend, and 0x8000_0000 divided by −1 itself with remainder 0 (R203). -/
theorem test_division : engDiv 7 0 = 0 ∧ engRem 7 0 = 7 ∧ engDiv 0x80000000 0xFFFFFFFF = 0x80000000 ∧
    engRem 0x80000000 0xFFFFFFFF = 0 ∧ engDiv 0xFFFFFFF9 2 = 0xFFFFFFFD ∧ engRem 0xFFFFFFF9 2 = 0xFFFFFFFF := by decide
/-- A HALT stops its engine with cause 1 (R203, R204). -/
theorem test_halt : ∃ t, exec (.halt 9) (engAt 9 [0xFC000000] id) = .next t ∧ t.fld (ENG_STAT 9) ENG_STAT_CAUSE = 1 :=
  ⟨_, rfl, by decide +kernel⟩
/-- The command in front is taken and the rest waits. -/
theorem test_step_takes_the_front : ∃ t, step { regsOn [] with pending := [.halt 9, .yield 9] } = .next t ∧ t.pending = [.yield 9] :=
  ⟨_, rfl, by decide +kernel⟩
/-- Check values of the catalogue for the digits 1 to 9: CRC-16 with initial value 0xFFFF and CRC-32C (R266, R284). -/
theorem test_crc : crc16 [0x31, 0x32, 0x33, 0x34, 0x35, 0x36, 0x37, 0x38, 0x39] = 0x29B1 ∧
    crc32c [0x31, 0x32, 0x33, 0x34, 0x35, 0x36, 0x37, 0x38, 0x39] = 0xE3069283 := by decide +kernel

/-- The digest of the letters abc (FIPS 180-4) and the signature of the word sample over P-256 with SHA-256 (RFC 6979, A.2.5), the
kinds of digest and signature that R278 names. -/
theorem test_signature :
    sha256 [0x61, 0x62, 0x63] = 0xba7816bf8f01cfea414140de5dae2223b00361a396177a9cb410ff61f20015ad ∧
    ecdsaOk (0x60fed4ba255a9d31c961eb74c6356d68c049b8923b61fa6ce669622e60f29fb6,
      0x7903fe1008b8bc99a41ae9e95628bc64f2f1b20c2d7e9f5177a3c294d4462299)
      (sha256 [0x73, 0x61, 0x6d, 0x70, 0x6c, 0x65])
      0xefd48b2aacb6a8fd1140dd9cd45e81d69d2c877b56aaf991c34d0ea84eaf3716
      0xf7cb1c942d657c41d436c7a1b6e29f65f3e900dbb9aff4064dc4ab2f843acda8 = true := by decide +kernel
end Sys2Proof.Tests
end

section
/-! SUPPORT. Every command keeps all parts of the state but those that `partsOf` lists for it: the laws of the commands, one for each
constructor, put together. -/

namespace Sys2Proof.Machine

/-- A command keeps whatever is kept, provided that nothing its `partsOf` lists is among the parts that must stay. Each arm is the
law of its command; the facts that its parts may change stand in the context, where the law looks for them. -/
theorem exec_ok {q : Kept} (c : Instr) (s : State) (hok : Ok q s) (free : ∀ p ∈ partsOf c, ¬ q.fixed p) :
    OkOut q (exec c s) := by
  cases c with (simp only [partsOf, List.forall_mem_cons] at free; casesm* _ ∧ _)
  | nop d => exact execNop_ok d s hok
  | move d => exact execMove_ok d s hok
  | velocity d => exact execVelocity_ok d s hok
  | stop d => exact execStop_ok d s hok
  | estop d => exact execEstop_ok d s hok
  | setPos d => exact execSetPos_ok d s hok
  | setParam d => exact execSetParam_ok d s hok
  | gearEngage d => exact execGearEngage_ok d s hok
  | gearArm d => exact execGearArm_ok d s hok
  | gearRelease d => exact execGearRelease_ok d s hok
  | home d => exact execHome_ok d s hok
  | followStep d => exact execFollowStep_ok d s hok
  | modePrepare d => exact execModePrepare_ok d s hok
  | modeCommit d => exact execModeCommit_ok d s hok
  | migrate d => exact execMigrate_ok d s hok
  | progLoad d => exact execProgLoad_ok d s hok
  | progSwap d => exact execProgSwap_ok d s hok
  | diagOffstate d => exact execDiagOffstate_ok d s hok
  | adcCal d => exact execAdcCal_ok d s hok
  | traceStart d => exact execTraceStart_ok d s hok
  | traceStop d => exact execTraceStop_ok d s hok
  | recQuery d => exact execRecQuery_ok d s hok
  | recFlush d => exact execRecFlush_ok d s hok
  | cfgCommit d => exact execCfgCommit_ok d s hok
  | doorbellWrite t c off v size => exact execDoorbellWrite_ok t c off v size s hok
  | doorbellMergeTake t c => exact execDoorbellMergeTake_ok t c s hok
  | descriptorFetch t c n => exact execDescriptorFetch_ok t c n s hok
  | fetchComplete t c n ds image => exact execFetchComplete_ok t c n ds image s hok
  | hostReadRetry t x => exact execHostReadRetry_ok t x s hok
  | descriptorAccept t c => exact execDescriptorAccept_ok t c s hok
  | descriptorRoute t c n ok => exact execDescriptorRoute_ok t c n ok s hok
  | msixModerationExpiry t c n => exact execMsixModerationExpiry_ok t c n s hok
  | msixVectorUnmask t c off v size => exact execMsixVectorUnmask_ok t c off v size s hok
  | ringEnable t c n => exact execRingEnable_ok t c n s hok
  | ringDisable t c n => exact execRingDisable_ok t c n s hok
  | ringDrainEnd t c n => exact execRingDrainEnd_ok t c n s hok
  | cabinetWdogKick t c => exact execCabinetWdogKick_ok t c s hok
  | cabinetWdogExpiry t c => exact execCabinetWdogExpiry_ok t c s hok
  | functionLevelReset t c => exact execFunctionLevelReset_ok t c s hok
  | d3hotEntry t c => exact execD3hotEntry_ok t c s hok
  | hotReset t h linkDown => exact execHotReset_ok t h linkDown s hok
  | traceCapture c n => exact execTraceCapture_ok c n s hok
  | registerWrite t w a v size => exact execRegisterWrite_ok t w a v size s hok
  | crossingAttemptFail t hedge x third => exact execCrossingAttemptFail_ok t hedge x third s hok
  | mpCmdPosWrite t w a v => exact execMpCmdPosWrite_ok t w a v s hok
  | loadAll time w t byTime => exact execLoadAll_ok time w t byTime s hok
  | adcInjGo time w t x => exact execAdcInjGo_ok time w t x s hok
  | adcInjCmpTrigger time t x raw => exact execAdcInjCmpTrigger_ok time t x raw s hok
  | cmpWchkReq time w t j => exact execCmpWchkReq_ok time w t j s hok
  | engHostevSet t c e param => exact execEngHostevSet_ok t c e param s hok
  | glbRecovGo t c len => exact execGlbRecovGo_ok t c len s hok
  | recoveryImageChecked t f => exact execRecoveryImageChecked_ok t f s hok
  | glbFwupGo t c setpref len => exact execGlbFwupGo_ok t c setpref len s hok
  | fwupComplete t f flashOk reads => exact execFwupComplete_ok t f flashOk reads s hok
  | recRdGo t c area piece => exact execRecRdGo_ok t c area piece s hok
  | recRdLookupDone t => exact execRecRdLookupDone_ok t s hok
  | idAccGo time w t dev off => exact execIdAccGo_ok time w t dev off s hok
  | idAccDone time t tries => exact execIdAccDone_ok time t tries s hok
  | globalLock t c => exact execGlobalLock_ok t c s hok
  | cfgLock t c => exact execCfgLock_ok t c s hok
  | cfgXbarCommit time w t v => exact execCfgXbarCommit_ok time w t v s hok
  | encModeWrite t c n mode => exact execEncModeWrite_ok t c n mode s hok
  | tileBoundary t k inp => exact execTileBoundary_ok t k inp s hok
  | armed e => exact execArmed_ok e s hok
  | precopyEnd t a => exact execPrecopyEnd_ok t a s hok
  | missedResults t p => exact execMissedResults_ok t p s hok
  | missedResultsHold t p => exact execMissedResultsHold_ok t p s hok
  | periodStrobe time t ofs => exact execPeriodStrobe_ok time t ofs s hok
  | strobeLossFault t => exact execStrobeLossFault_ok t s hok
  | pathDelayEcho time t ns => exact execPathDelayEcho_ok time t ns s hok
  | syncReceive x => exact execSyncReceive_ok x s hok
  | announceReceive t port seq domain vec logIvl => exact execAnnounceReceive_ok t port seq domain vec logIvl s hok
  | syncTimeout t => exact execSyncTimeout_ok t s hok
  | announceTimeout t => exact execAnnounceTimeout_ok t s hok
  | holdoverLimit t => exact execHoldoverLimit_ok t s hok
  | deferredStep t => exact execDeferredStep_ok t s hok
  | frameForward t n f => exact execFrameForward_ok t n f s hok
  | heartbeatTx t => exact execHeartbeatTx_ok t s hok
  | heartbeatReceive t n h b => exact execHeartbeatReceive_ok t n h b s hok
  | heartbeatTimeout t src => exact execHeartbeatTimeout_ok t src s hok
  | ringKeeperOpen t => exact execRingKeeperOpen_ok t s hok
  | vmSamplesReceive t n h es => exact execVmSamplesReceive_ok t n h es s hok
  | vmStale t v => exact execVmStale_ok t v s hok
  | grMasterLost t a => exact execGrMasterLost_ok t a s hok
  | publishSample t n => exact execPublishSample_ok t n s hok
  | modePrepareFrame t n h id orig mode lc ld => exact execModePrepareFrame_ok t n h id orig mode lc ld s hok
  | modeAckFrame t n h id orig result => exact execModeAckFrame_ok t n h id orig result s hok
  | modeDecisionFrame t n h id orig decision => exact execModeDecisionFrame_ok t n h id orig decision s hok
  | ackDeadline t => exact execAckDeadline_ok t s hok
  | commitDeadline t => exact execCommitDeadline_ok t s hok
  | decisionRepeat t => exact execDecisionRepeat_ok t s hok
  | modeUndecided t => exact execModeUndecided_ok t s hok
  | modeOutcome t => exact execModeOutcome_ok t s hok
  | stepPulse t a high dir short held => exact execStepPulse_ok t a high dir short held s hok
  | homeInputChange t a raw => exact execHomeInputChange_ok t a raw s hok
  | limitHit t a neg raw => exact execLimitHit_ok t a neg raw s hok
  | homingTimeout t a => exact execHomingTimeout_ok t a s hok
  | stall t a => exact execStall_ok t a s hok
  | obSlip t a => exact execObSlip_ok t a s hok
  | weak t a => exact execWeak_ok t a s hok
  | estimateTimeout t a => exact execEstimateTimeout_ok t a s hok
  | commutationEvent t a code => exact execCommutationEvent_ok t a code s hok
  | crOverrange t p => exact execCrOverrange_ok t p s hok
  | crNosample t p => exact execCrNosample_ok t p s hok
  | carrierStart t p => exact execCarrierStart_ok t p s hok
  | cycleTrip t p low raw => exact execCycleTrip_ok t p low raw s hok
  | pwmTripLatch t p => exact execPwmTripLatch_ok t p s hok
  | tripCntClear t p => exact execTripCntClear_ok t p s hok
  | switchNodeCrossing u p b rising => exact execSwitchNodeCrossing_ok u p b rising s hok
  | gdAdaptLim t p => exact execGdAdaptLim_ok t p s hok
  | bootstrapLow t p l low => exact execBootstrapLow_ok t p l low s hok
  | refreshPulse t p l above => exact execRefreshPulse_ok t p l above s hok
  | refreshFailLockout t p l => exact execRefreshFailLockout_ok t p l s hok
  | uvloEntry t p x => exact execUvloEntry_ok t p x s hok
  | uvloExit t p x => exact execUvloExit_ok t p x s hok
  | gdBootUv t p lock => exact execGdBootUv_ok t p lock s hok
  | hardShort t p b => exact execHardShort_ok t p b s hok
  | desaturation t p sw raw => exact execDesaturation_ok t p sw raw s hok
  | diagStepEnd time t va vb => exact execDiagStepEnd_ok time t va vb s hok
  | selfCheckStepEnd t c normal raw => exact execSelfCheckStepEnd_ok t c normal raw s hok
  | window time t j rawH rawL => exact execWindow_ok time t j rawH rawL s hok
  | seqEntryTrigger time t x e raw => exact execSeqEntryTrigger_ok time t x e raw s hok
  | calSlotEnd time t x gain offset bg => exact execCalSlotEnd_ok time t x gain offset bg s hok
  | adcLost time t => exact execAdcLost_ok time t s hok
  | fgcalEnd time t x cal bg => exact execFgcalEnd_ok time t x cal bg s hok
  | forcedYield e => exact execForcedYield_ok e s hok
  | engWdog e => exact execEngWdog_ok e s hok
  | waitTimeout e d a imm => exact execWaitTimeout_ok e d a imm s hok
  | engNop e => exact execEngNop_ok e s hok
  | add e d a b => exact execAdd_ok e d a b s hok
  | sub e d a b => exact execSub_ok e d a b s hok
  | and e d a b => exact execAnd_ok e d a b s hok
  | or e d a b => exact execOr_ok e d a b s hok
  | xor e d a b => exact execXor_ok e d a b s hok
  | shl e d a b => exact execShl_ok e d a b s hok
  | shr e d a b => exact execShr_ok e d a b s hok
  | sar e d a b => exact execSar_ok e d a b s hok
  | mul e d a b => exact execMul_ok e d a b s hok
  | mulh e d a b => exact execMulh_ok e d a b s hok
  | div e d a b => exact execDiv_ok e d a b s hok
  | rem e d a b => exact execRem_ok e d a b s hok
  | sltu e d a b => exact execSltu_ok e d a b s hok
  | addi e d a imm => exact execAddi_ok e d a imm s hok
  | andi e d a imm => exact execAndi_ok e d a imm s hok
  | ori e d a imm => exact execOri_ok e d a imm s hok
  | xori e d a imm => exact execXori_ok e d a imm s hok
  | shli e d a imm => exact execShli_ok e d a imm s hok
  | shri e d a imm => exact execShri_ok e d a imm s hok
  | sari e d a imm => exact execSari_ok e d a imm s hok
  | lui e d imm => exact execLui_ok e d imm s hok
  | ld e d a imm => exact execLd_ok e d a imm s hok
  | st e d a imm => exact execSt_ok e d a imm s hok
  | beq e a b off => exact execBeq_ok e a b off s hok
  | bne e a b off => exact execBne_ok e a b off s hok
  | blt e a b off => exact execBlt_ok e a b off s hok
  | bge e a b off => exact execBge_ok e a b off s hok
  | bltu e a b off => exact execBltu_ok e a b off s hok
  | bgeu e a b off => exact execBgeu_ok e a b off s hok
  | jmp e off => exact execJmp_ok e off s hok
  | call e off => exact execCall_ok e off s hok
  | ret e => exact execRet_ok e s hok
  | abrd e d a imm cross lost => exact execAbrd_ok e d a imm cross lost s hok
  | abwr e d a imm cross lost => exact execAbwr_ok e d a imm cross lost s hok
  | abrdp e d a imm cross lost => exact execAbrdp_ok e d a imm cross lost s hok
  | abwrp e d a imm cross lost => exact execAbwrp_ok e d a imm cross lost s hok
  | wait e d a imm => exact execWait_ok e d a imm s hok
  | yield e => exact execYield_ok e s hok
  | arm e d a imm => exact execArm_ok e d a imm s hok
  | emit e d a b sev code => exact execEmit_ok e d a b sev code s hok
  | cmd e d a imm => exact execCmd_ok e d a imm s hok
  | time e d imm a => exact execTime_ok e d imm a s hok
  | signal e d a imm => exact execSignal_ok e d a imm s hok
  | react e d a imm => exact execReact_ok e d a imm s hok
  | verdict e d a imm => exact execVerdict_ok e d a imm s hok
  | halt e => exact execHalt_ok e s hok
  | recordCandidate t => exact execRecordCandidate_ok t s hok
  | recorderFilterRun t => exact execRecorderFilterRun_ok t s hok
  | lostEvents t => exact execLostEvents_ok t s hok
  | flushStart t fs => exact execFlushStart_ok t fs s hok
  | flushEnd t => exact execFlushEnd_ok t s hok
  | exportEntry t c n bad fs => exact execExportEntry_ok t c n bad fs s hok
  | journalEccError t off unreadable fs => exact execJournalEccError_ok t off unreadable fs s hok
  | pfailFall t low => exact execPfailFall_ok t low s hok
  | pfailRise t => exact execPfailRise_ok t s hok
  | rtcSet t => exact execRtcSet_ok t s hok
  | vbakLow t => exact execVbakLow_ok t s hok
  | powerOnTimer t vhold fs => exact execPowerOnTimer_ok t vhold fs s hok
  | resetNFall t low => exact execResetNFall_ok t low s hok
  | supplyLoss t => exact execSupplyLoss_ok t s hok
  | vholdLow t => exact execVholdLow_ok t s hok
  | imageChecked t refclk drawer a b readsA readsB => exact execImageChecked_ok t refclk drawer a b readsA readsB s hok
  | identityReadDone time t m tries sdaLow => exact execIdentityReadDone_ok time t m tries sdaLow s hok
  | inventoryDone t libBad => exact execInventoryDone_ok t libBad s hok
  | diagStateEnd t => exact execDiagStateEnd_ok t s hok
  | reactionLand t a => exact execReactionLand_ok t a s hok
  | faultReport t a => exact execFaultReport_ok t a s hok
  | episodeEnd t a => exact execEpisodeEnd_ok t a s hok
  | slotHwFault t x f => exact execSlotHwFault_ok t x f s hok
  | preventiveRepair t x n => exact execPreventiveRepair_ok t x n s hok
  | supervisorFault t e => exact execSupervisorFault_ok t e s hok
  | hostCrit t => exact execHostCrit_ok t s hok
  | recCrit t fs => exact execRecCrit_ok t fs s hok
  | privetScanEnd t us ups misread => exact execPrivetScanEnd_ok t us ups misread s hok
  | rescanEnd t ups misread => exact execRescanEnd_ok t ups misread s hok
  | paritySweep time t ups => exact execParitySweep_ok time t ups s hok
  | encZEdge t n raw => exact execEncZEdge_ok t n raw s hok
  | ssiFrame t n raw first last => exact execSsiFrame_ok t n raw first last s hok
  | encSignalError t n => exact execEncSignalError_ok t n s hok
  | encFaultClear t n => exact execEncFaultClear_ok t n s hok
  | netPortSelfTestFail t n => exact execNetPortSelfTestFail_ok t n s hok
  | limitInactive t a neg raw => exact execLimitInactive_ok t a neg raw s hok
  | quadratureEdge t n rawA rawB => exact execQuadratureEdge_ok t n rawA rawB s hok
  | injectedConversionDone time t x raw => exact execInjectedConversionDone_ok time t x raw s hok
  | delayResponseReceive t port peer domain t1 t2 t3 t4 corr => exact execDelayResponseReceive_ok t port peer domain t1 t2 t3 t4 corr s hok
  | networkLinkChange t n up => exact execNetworkLinkChange_ok t n up s hok
  | pcieLinkUp t h width speed l0 => exact execPcieLinkUp_ok t h width speed l0 s hok
  | undefinedOpcode e w => exact execUndefinedOpcode_ok e w s hok
  | spareFillEnd t a => exact execSpareFillEnd_ok t a s hok

theorem Part.same_refl (p : Part) (s : State) : p.same s s := by cases p <;> rfl

/-- Everything that a state holds is to be kept, but for the listed parts. -/
def keepBut (ps : List Part) (s : State) : Kept :=
  { wf := s.wf, queue := s.pending, sent := s.out, ctr := s.freeCtr, fixed := fun p => p ∉ ps, base := s }

theorem keepBut_start (ps : List Part) (s : State) : Ok (keepBut ps s) s :=
  ⟨id, rfl, List.suffix_rfl, le_rfl, fun p _ => Part.same_refl p s⟩

theorem touches_of_keepBut {ps : List Part} {s t : State} (h : Ok (keepBut ps s) t) : Touches ps s t := by
  obtain ⟨-, hqueue, -, -, hparts⟩ := h
  exact ⟨hqueue, hparts⟩

/-- What a command that answers a next state keeps of the state before it. -/
theorem exec_keepBut {c : Instr} {s t : State} (h : exec c s = .next t) : Ok (keepBut (partsOf c) s) t := by
  have kept := exec_ok c s (keepBut_start (partsOf c) s) fun _ hp => not_not_intro hp
  rwa [h] at kept

/-- Settles O5: each command's law, with all parts but its own to be kept. -/
theorem commandsTouchOnlyTheirParts : Obligations.CommandsTouchOnlyTheirParts :=
  fun _ _ _ h => touches_of_keepBut (exec_keepBut h)

end Sys2Proof.Machine
end

section
/-! SUPPORT. The crossbar (R4): both ports of an axis lie on its tile, and a write of a locked crossbar pair leaves both of its
registers as they are, so that the mapping stands. -/

namespace Sys2Proof.Machine

/-! ## The mapping -/

theorem tileOfPort_devPort (t : Fin 4) (p : Nat) : tileOfPort (devPort t p) = t := by
  apply Fin.ext
  simp only [tileOfPort, devPort, finTile, finPort, Fin.ofNat_eq_cast, Fin.val_natCast]
  omega

theorem State.tileOfPort_portOf (s : State) (a : Fin 32) (b : Bool) : tileOfPort (s.portOf a b) = tileOf a :=
  tileOfPort_devPort _ _

/-- The default mapping of R4, as the crossbar registers hold it at reset. -/
theorem State.portOf_reset (a : Fin 32) :
    (State.reset.portOf a false).1 = 2 * a.1 ∧ (State.reset.portOf a true).1 = 2 * a.1 + 1 := by
  revert a
  decide +kernel

theorem tileOf_val (a : Fin 32) : (tileOf a).1 = a.1 / 8 := by
  simp only [tileOf, finTile, Fin.ofNat_eq_cast, Fin.val_natCast]
  omega

/-- The crossbar registers of every tile hold what they held. -/
structure SameXbar (s x : State) : Prop where
  regA : ∀ t : Fin 4, x.reg (CFG_XBAR_A t) = s.reg (CFG_XBAR_A t)
  regB : ∀ t : Fin 4, x.reg (CFG_XBAR_B t) = s.reg (CFG_XBAR_B t)

theorem SameXbar.refl (s : State) : SameXbar s s := ⟨fun _ => rfl, fun _ => rfl⟩

theorem SameXbar.trans {s x y : State} (h : SameXbar s x) (k : SameXbar x y) : SameXbar s y :=
  ⟨fun t => (k.regA t).trans (h.regA t), fun t => (k.regB t).trans (h.regB t)⟩

theorem sameXbar_of_regs {s x : State} (h : x.regs = s.regs) : SameXbar s x := by
  constructor <;> simp [State.reg, h]

theorem SameXbar.portOf_eq {s x : State} (h : SameXbar s x) (a : Fin 32) (b : Bool) : x.portOf a b = s.portOf a b := by
  simp only [State.portOf, State.fld, h.regA, h.regB]

/-- The crossbar registers stand above the registers of the cabinets. -/
theorem sameXbar_setReg (s : State) (a : Nat) (v : Word) (ha : a < CFG_XBAR_A 0) : SameXbar s (s.setReg a v) := by
  simp only [CFG_XBAR_A] at ha
  constructor <;> intro t <;> apply State.reg_setReg_other
  · simp only [CFG_XBAR_A]; omega
  · simp only [CFG_XBAR_B]; omega

/-- The drop of a write counts in its cabinet's CFG_CNT and is recorded. -/
theorem sameXbar_record_count (s : State) (c : Fin 4) (f : Fld) (k : RecKind) (sev kind idx : Nat) (ps : List Nat) :
    SameXbar s (record k sev kind idx ps (s.count (CFG_CNT c) f)) :=
  (sameXbar_setReg s _ _ (by simp only [CFG_CNT, CFG_XBAR_A]; omega)).trans (sameXbar_of_regs rfl)

theorem lockViolation_sameXbar (w : Writer) (a : Nat) (v : Word) (s : State) : SameXbar s (lockViolation w a v s) :=
  sameXbar_record_count s (s.writerCab w) _ _ _ _ _ _

theorem staticDrop_sameXbar (w : Writer) (a : Nat) (v : Word) (s : State) : SameXbar s (staticDrop w a v s) :=
  sameXbar_record_count s (s.writerCab w) _ _ _ _ _ _

theorem showParity_sameXbar (s : State) : SameXbar s (showParity s) := by
  unfold showParity
  refine List.foldlRecOn (motive := SameXbar s) _ _ (SameXbar.refl s) fun x hx c hc => hx.trans ?_
  obtain ⟨d, -, rfl⟩ : ∃ d ∈ allCabs, c = d.1 := by simpa using hc
  exact sameXbar_setReg x _ _ (by simp only [CFG_STAT, CFG_XBAR_A]; omega)

/-- Where no port of an axis moved, no axis takes other motor data. -/
theorem remapped_sameXbar {t : Fin 4} {s x : State} (h : SameXbar s x) : remapped t s x = x := by
  simp only [remapped]
  apply List.foldl_fixed'
  intro a
  simp only [h.portOf_eq, and_self, if_true]

/-! ## The registers of the crossbar -/

theorem blockOf_xbarA (t : Fin 4) : blockOf (CFG_XBAR_A t) = .tile t := by revert t; decide

theorem blockOf_xbarB (t : Fin 4) : blockOf (CFG_XBAR_B t) = .tile t := by revert t; decide

theorem commitOf_xbarA (t : Fin 4) : commitOf (CFG_XBAR_A t) = none := by revert t; decide

theorem heldBy_xbarA (t : Fin 4) : heldBy (CFG_XBAR_A t) = some (CFG_XBAR_B t) := by revert t; decide

/-- Every field of a register is one that a lock holds (rk, R256), and lies within its word. -/
def allRk (a : Nat) : Prop := ∀ f ∈ regFields a, f.ty = .rk ∧ f.fld.lo + f.fld.width ≤ 32

theorem allRk_xbarA (t : Fin 4) : allRk (CFG_XBAR_A t) := by revert t; unfold allRk; decide +kernel

theorem allRk_xbarB (t : Fin 4) : allRk (CFG_XBAR_B t) := by revert t; unfold allRk; decide +kernel

theorem settleFor_xbarA (s : State) (t : Fin 4) : settleFor s (CFG_XBAR_A t) = s := by
  simp only [settleFor, blockOf_xbarA]

/-- The lock over a register of a tile is that of the tile's owner (R257). -/
theorem State.lockedRk_tile {s : State} {a : Nat} {t : Fin 4} (h : blockOf a = .tile t) :
    s.lockedRk a = s.bit (CFG_LOCK (s.ownerTile t)) CFG_LOCK_LOCK := by
  simp [State.lockedRk, State.writeOwner, h]

theorem State.ownerTile_of_mayBus {s : State} {c t : Fin 4} (h : s.mayBus (.host c) (CFG_XBAR_A t)) : c = s.ownerTile t := by
  simp only [State.mayBus, State.owns, State.mayWrite, blockOf_xbarA, decide_eq_true_eq] at h
  exact h.1

theorem State.held1_tile {s : State} {a : Nat} {t : Fin 4} (h : blockOf a = .tile t) : s.held1 a = s.reg a := by
  simp only [State.held1, h]

/-! ## A write of a locked register -/

/-- Putting back what a field reads changes nothing. -/
theorem Fld.put_get (f : Fld) (v : Word) (h : f.lo + f.width ≤ 32) : f.put v (f.get v) = v := by
  apply BitVec.eq_of_getLsbD_eq
  intro i _
  rw [getLsbD_put f v _ i h, testBit_get f v _ h]
  split
  case isTrue hi =>
    have hw : i - f.lo < f.width := by omega
    have hlo : f.lo + (i - f.lo) = i := by omega
    simp [hw, hlo]
  case isFalse => rfl

/-- A host's write of a locked register without other fields than rk ones either breaks the lock or changes nothing (R252, R257). -/
theorem State.newReg_of_locked {s : State} {c : Fin 4} {a : Nat} {v : Word} (hrk : allRk a) (hlock : s.lockedRk a = true)
    (hb : s.lockBroken (.host c) a v = false) : s.newReg a v = s.held1 a := by
  simp only [State.lockBroken, State.changes, List.any_eq_false, hlock] at hb
  refine List.foldlRecOn (motive := fun n => n = s.held1 a) _ _ rfl fun n hn f hf => ?_
  obtain ⟨hty, hw⟩ := hrk f hf
  have hget : f.fld.get (v &&& ~~~(readOnlyBits a)) = f.fld.get (s.held1 a) := by simpa [hty] using hb f hf
  simp only [writeField, hty, hn, hget, Fld.put_get _ _ hw]

/-- A register that is written what it holds changes no register. -/
theorem State.reg_setReg_of_eq {s : State} {a : Nat} {v : Word} (h : s.reg a = v) (b : Nat) : (s.setReg a v).reg b = s.reg b := by
  rw [State.reg_setReg]
  split
  case isTrue hab => rw [← hab, h]
  case isFalse => rfl

theorem sameXbar_writeBack (s : State) (t : Fin 4) :
    SameXbar s ((s.setReg (CFG_XBAR_B t) (s.reg (CFG_XBAR_B t))).setReg (CFG_XBAR_A t) (s.reg (CFG_XBAR_A t))) := by
  have hB := State.reg_setReg_of_eq (rfl : s.reg (CFG_XBAR_B t) = _)
  have hA := State.reg_setReg_of_eq (hB (CFG_XBAR_A t))
  exact ⟨fun u => (hA _).trans (hB _), fun u => (hA _).trans (hB _)⟩

/-- A write of a locked crossbar pair: it breaks the lock, or it is dropped, or it writes back what the registers hold. -/
theorem writePair_xbar_locked (s : State) (c t : Fin 4) (l h : Word)
    (hlock : s.bit (CFG_LOCK (s.ownerTile t)) CFG_LOCK_LOCK = true) :
    SameXbar s (writePair (.host c) (CFG_XBAR_A t) (CFG_XBAR_B t) l h s) := by
  have kept (a : Nat) (ha : blockOf a = .tile t) (hrk : allRk a) (v : Word) (hb : s.lockBroken (.host c) a v = false) :
      s.newReg a v = s.reg a :=
    (State.newReg_of_locked hrk ((State.lockedRk_tile ha).trans hlock) hb).trans (State.held1_tile ha)
  unfold writePair
  split
  · exact lockViolation_sameXbar _ _ _ _
  next hb =>
    obtain ⟨hbA, hbB⟩ := Bool.or_eq_false_iff.1 (Bool.not_eq_true _ ▸ hb)
    simp only [blockOf_xbarA, kept _ (blockOf_xbarA t) (allRk_xbarA t) l hbA, kept _ (blockOf_xbarB t) (allRk_xbarB t) h hbB,
      remapped_sameXbar (sameXbar_writeBack s t), if_true, Bool.false_and, Bool.false_eq_true, if_false]
    split_ifs
    · exact staticDrop_sameXbar _ _ _ _
    · exact SameXbar.refl s
    · exact (sameXbar_writeBack s t).trans (showParity_sameXbar _)

/-- A host's write of CFG_XBAR_A under the lock of the tile's owner leaves the crossbar as it is. -/
theorem busWrite_xbar_locked (s : State) (c t : Fin 4) (v : Word)
    (hlock : s.bit (CFG_LOCK (s.ownerTile t)) CFG_LOCK_LOCK = true) :
    SameXbar s (busWrite (.host c) (CFG_XBAR_A t) v s) := by
  have owned : SameXbar s (ownedWrite (.host c) (CFG_XBAR_A t) v s) := by
    simp only [ownedWrite, commitOf_xbarA, heldBy_xbarA, Option.isSome_none, Bool.false_eq_true, if_false]
    exact (sameXbar_of_regs (s.setHeld_regs _)).trans (writePair_xbar_locked _ c t v _ hlock)
  unfold busWrite
  simp only [settleFor_xbarA]
  split
  · exact SameXbar.refl s
  split
  · exact SameXbar.refl s
  split
  · exact SameXbar.refl s
  · exact owned
  · exact staticDrop_sameXbar _ _ _ _

/-- Settles O58: the reset mapping computed, the tile from the form of a device port, and the lock from the pair write. -/
theorem portsOfAnAxisStayInItsTile : Obligations.PortsOfAnAxisStayInItsTile := by
  refine ⟨fun a => ⟨(State.portOf_reset a).1, (State.portOf_reset a).2, tileOf_val a⟩, State.tileOfPort_portOf, ?_⟩
  intro s u c t v hbus hlock
  obtain rfl : c = s.ownerTile t := State.ownerTile_of_mayBus hbus
  have held : SameXbar s (busWrite (.host (s.ownerTile t)) (CFG_XBAR_A t) v (s.reach u)) :=
    (sameXbar_of_regs (s.reach_regs u)).trans (busWrite_xbar_locked (s.reach u) _ t v hlock)
  exact ⟨_, rfl, held.portOf_eq⟩

end Sys2Proof.Machine
end

section
/-! SUPPORT. O56 fails: a descriptor that waits in a cabinet may join the intake of a tile at its boundary. -/

namespace Sys2Proof.Machine

/-- What holds of the state that a command leaves, of the state that it answers. -/
theorem Runs.holds {c : Instr} {s t : State} {P : State → Prop} (h : Runs c s P) (ht : exec c s = .next t) : P t := by
  obtain ⟨x, hx, hP⟩ := h
  rw [ht] at hx
  cases hx
  exact hP

theorem exec_tileBoundary (t : Fin 4) (k : Nat) (i : TileIn) (s : State) :
    exec (.tileBoundary t k i) s = .next (tileBoundary t k i s) := rfl

/-- A TRACE_START of cabinet 0 on the clock of tile 0 (R244). -/
def traceOnTile0 : Desc :=
  ⟨0, 0, 1, 0, 1, 7, false, 0, 2, 0, 0x42, none, false, false, [], Vector.replicate 48 0⟩

/-- Tile 0 at 24,900 ns, before its first boundary at 25,000 ns: the TRACE_START still waits in its cabinet, as it did behind an
earlier descriptor of its ring (R235), and came too late to land at that boundary (R20). -/
def traceWaits : State :=
  ((State.reset.setFld GLB_STATE GLB_STATE_STATE dINVENTORY).setNow 24900).modCab 0 fun x =>
    { x with waiting := [(24900, traceOnTile0)] }

/-- Nothing was sampled before the first boundary. -/
def nothingSampled : TileIn := ⟨[], [], [], (0, 0), []⟩

/-- The boundary moves the TRACE_START from its cabinet to the intake of the tile. -/
theorem traceWaits_joins_intake : ((tileBoundary 0 1 nothingSampled traceWaits).tile 0).intake.length = 1 := by
  decide +kernel

/-- Refutes O56: after a boundary the intake of the tile is said to hold only what it held before, but the descriptors that waited in
a cabinet and came too late to land join it (`releaseWaiting`). -/
theorem not_boundariesAndCrossingsDeliver : ¬ Obligations.BoundariesAndCrossingsDeliver := by
  unfold Obligations.BoundariesAndCrossingsDeliver
  rintro ⟨boundary, -⟩
  have period : 25000 = psel (traceWaits.fld (LT_TILE_PERIOD (0 : Fin 4)) LT_TILE_PERIOD_PSEL) := by decide +kernel
  have running : traceWaits.tilesRun = true := by decide +kernel
  have first : (traceWaits.tile 0).lastB = 0 := by decide +kernel
  have empty : (traceWaits.tile 0).intake = [] := by decide +kernel
  have runs := (boundary traceWaits 0 1 nothingSampled 25000 period).1 running (by omega)
  obtain ⟨-, -, -, -, kept, -⟩ := runs.holds (exec_tileBoundary 0 1 nothingSampled traceWaits)
  have joined := traceWaits_joins_intake
  simp [kept, empty] at joined

end Sys2Proof.Machine
end

section
/-! SUPPORT. What a port that settles, and a fault that is raised, neither read nor change: the program counters of the engines, the
count of abandoned crossings, what an engine holds beside its events, and the records on their way. A `Veil` puts something else
there; a function that gives the same under every veil is `Blind`. -/

namespace Sys2Proof.Machine

/-! ## Register files with equal contents -/

/-- A register file in canonical form. -/
def canon (l : List (Nat × Word)) : List (Nat × Word) := l.foldr (fun c m => fileSet m c.1 c.2) []

theorem fileWf_foldr_fileSet (l m : List (Nat × Word)) (h : fileWf m = true) :
    fileWf (l.foldr (fun c m => fileSet m c.1 c.2) m) = true := by
  induction l with
  | nil => exact h
  | cons c l ih => exact fileWf_fileSet _ _ _ ih

theorem fileGet_foldr_fileSet (l m : List (Nat × Word)) (a : Nat) :
    fileGet (l.foldr (fun c m => fileSet m c.1 c.2) m) a = (cellGet l a).getD (fileGet m a) := by
  induction l with
  | nil => rfl
  | cons c l ih =>
    rw [List.foldr_cons, fileGet_fileSet, ih]
    by_cases h : c.1 = a <;> simp [cellGet, h]

theorem fileWf_canon (l : List (Nat × Word)) : fileWf (canon l) = true := fileWf_foldr_fileSet l [] rfl

@[simp] theorem fileGet_canon (l : List (Nat × Word)) (a : Nat) : fileGet (canon l) a = fileGet l a :=
  fileGet_foldr_fileSet l [] a

theorem cellGet_above (l : List (Nat × Word)) (b a : Nat) (h : above b l) (ha : a ≤ b) : cellGet l a = none := by
  induction l with
  | nil => rfl
  | cons c l ih =>
    have hc : c.1 ≠ a := by have := h c (List.mem_cons_self ..); omega
    simpa [cellGet, hc] using ih fun x hx => h x (List.mem_cons_of_mem _ hx)

theorem fileWf_cons (c : Nat × Word) (l : List (Nat × Word)) :
    fileWf (c :: l) = true ↔ above c.1 l ∧ c.2 ≠ regReset c.1 ∧ fileWf l = true := by
  have := fileSorted_cons c l
  simp only [fileWf, Bool.and_eq_true, List.all_cons, this, bne_iff_ne]
  tauto

/-- The entry of an address in a canonical file, from what the file reads there. -/
theorem cellGet_of_fileWf (l : List (Nat × Word)) (h : fileWf l = true) (a : Nat) :
    cellGet l a = if fileGet l a = regReset a then none else some (fileGet l a) := by
  induction l with
  | nil => simp [cellGet, fileGet]
  | cons c l ih =>
    obtain ⟨-, hv, hl⟩ := (fileWf_cons c l).1 h
    by_cases hc : c.1 = a
    · subst hc; simp [cellGet, fileGet, hv]
    · rw [show cellGet (c :: l) a = cellGet l a by simp [cellGet, hc],
        show fileGet (c :: l) a = fileGet l a by simp [fileGet, cellGet, hc], ih hl]

theorem list_eq_of_cellGet (l m : List (Nat × Word)) (hl : fileWf l = true) (hm : fileWf m = true)
    (h : ∀ a, cellGet l a = cellGet m a) : l = m := by
  induction l generalizing m with
  | nil =>
    cases m with
    | nil => rfl
    | cons d m => simpa [cellGet] using h d.1
  | cons c l ih =>
    cases m with
    | nil => simpa [cellGet] using h c.1
    | cons d m =>
      obtain ⟨cl, -, wl⟩ := (fileWf_cons c l).1 hl
      obtain ⟨dm, -, wm⟩ := (fileWf_cons d m).1 hm
      have hcd : c.1 = d.1 := by
        rcases Nat.lt_trichotomy c.1 d.1 with lt | eq | gt
        · have := h c.1
          simp [cellGet, Nat.ne_of_gt lt, cellGet_above m d.1 c.1 dm (Nat.le_of_lt lt)] at this
        · exact eq
        · have := h d.1
          simp [cellGet, Nat.ne_of_gt gt, cellGet_above l c.1 d.1 cl (Nat.le_of_lt gt)] at this
      have hv : c.2 = d.2 := by simpa [cellGet, hcd] using h c.1
      have ht : l = m := ih m wl wm fun a => by
        by_cases ha : c.1 = a
        · rw [cellGet_above l c.1 a cl (by omega), cellGet_above m d.1 a dm (by omega)]
        · simpa [cellGet, ha, show d.1 ≠ a by omega] using h a
      rw [ht, Prod.ext hcd hv]

/-- Canonical files that read the same are the same. -/
theorem file_ext {l m : List (Nat × Word)} (hl : fileWf l = true) (hm : fileWf m = true)
    (h : ∀ a, fileGet l a = fileGet m a) : l = m :=
  list_eq_of_cellGet l m hl hm fun a => by rw [cellGet_of_fileWf l hl, cellGet_of_fileWf m hm, h a]

/-! ## Veils -/

/-- The registers that no port and no fault reads or writes: the count of abandoned crossings and the program counters. -/
def Hidden (a : Nat) : Prop := a = CFG_XING_CNT ∨ ∃ e : Fin 46, a = ENG_PC e

/-- What stands in place of the hidden parts of a state. -/
structure Veil where
  regs : List (Nat × Word)
  hidden : ∀ a, ¬ Hidden a → cellGet regs a = none
  engs : Fin 46 → Option Engine
  transit : List Record

/-- Another engine in place of one, with its events and its homing (R208, R216). -/
def Engine.behind (x : Engine) : Option Engine → Engine
  | none => x
  | some y => { y with params := x.params, since := x.since, homePend := x.homePend, resume := x.resume }

/-- A state behind a veil; its registers are in canonical form. -/
def Veil.on (q : Veil) (s : State) : State :=
  { s with
    regs := q.regs.foldr (fun c m => fileSet m c.1 c.2) (canon s.regs)
    engines := Vector.ofFn fun e => (s.eng e).behind (q.engs e)
    recorder := { s.recorder with transit := q.transit ++ s.recorder.transit } }

section
variable (q : Veil) (s : State)

@[simp] theorem Veil.now : (q.on s).now = s.now := by simp [Veil.on]
@[simp] theorem Veil.axis (a : Fin 32) : (q.on s).axis a = s.axis a := by simp [State.axis, Veil.on]
@[simp] theorem Veil.port (p : Fin 64) : (q.on s).port p = s.port p := by simp [State.port, Veil.on]
@[simp] theorem Veil.tile (t : Fin 4) : (q.on s).tile t = s.tile t := by simp [State.tile, Veil.on]
@[simp] theorem Veil.cab (c : Fin 4) : (q.on s).cab c = s.cab c := by simp [State.cab, Veil.on]
@[simp] theorem Veil.dev : (q.on s).dev = s.dev := by simp [Veil.on]
@[simp] theorem Veil.force (a : Nat) : (q.on s).force a = s.force a := by simp [State.force, Veil.on]
@[simp] theorem Veil.rtc : (q.on s).recorder.rtc = s.recorder.rtc := by simp [Veil.on]

theorem Veil.eng (e : Fin 46) : (q.on s).eng e = (s.eng e).behind (q.engs e) := by simp [State.eng, Veil.on]

@[simp] theorem Veil.resume (e : Fin 46) : ((q.on s).eng e).resume = (s.eng e).resume := by
  rw [Veil.eng]; cases q.engs e <;> rfl

theorem Veil.reg_eq (a : Nat) : (q.on s).reg a = (cellGet q.regs a).getD (s.reg a) := by
  simp [State.reg, Veil.on, fileGet_foldr_fileSet]

variable {a : Nat} (h : ¬ Hidden a)
include h

@[simp] theorem Veil.reg : (q.on s).reg a = s.reg a := by rw [Veil.reg_eq, q.hidden a h]; rfl

@[simp] theorem Veil.fld (f : Fld) : (q.on s).fld a f = s.fld a f := by simp [State.fld, h]

@[simp] theorem Veil.bit (f : Fld) : (q.on s).bit a f = s.bit a f := by simp [State.bit, h]

@[simp] theorem Veil.setReg (v : Word) : (q.on s).setReg a v = q.on (s.setReg a v) := by
  have files : fileSet (q.on s).regs a v = (q.on (s.setReg a v)).regs := by
    refine file_ext (fileWf_fileSet _ _ _ (fileWf_foldr_fileSet _ _ (fileWf_canon _)))
      (fileWf_foldr_fileSet _ _ (fileWf_canon _)) fun b => ?_
    by_cases hb : a = b
    · subst hb; simp [Veil.on, fileGet_foldr_fileSet, q.hidden a h, State.setReg]
    · simp [Veil.on, fileGet_foldr_fileSet, fileGet_fileSet, hb, State.setReg]
  unfold State.setReg
  rw [files]
  rfl

@[simp] theorem Veil.setFld (f : Fld) (x : Nat) : (q.on s).setFld a f x = q.on (s.setFld a f x) := by
  simp [State.setFld, h]

@[simp] theorem Veil.setBit (f : Fld) (b : Bool) : (q.on s).setBit a f b = q.on (s.setBit a f b) := by
  simp [State.setBit, h]

@[simp] theorem Veil.countN (f : Fld) (n : Nat) : (q.on s).countN a f n = q.on (s.countN a f n) := by
  simp [State.countN, h]

@[simp] theorem Veil.count (f : Fld) : (q.on s).count a f = q.on (s.count a f) := by simp [State.count, h]

end

section
variable (q : Veil) (s : State)

@[simp] theorem Veil.modAxis (a : Fin 32) (f : Axis → Axis) : (q.on s).modAxis a f = q.on (s.modAxis a f) := (rfl)
@[simp] theorem Veil.modPort (p : Fin 64) (f : Port → Port) : (q.on s).modPort p f = q.on (s.modPort p f) := (rfl)
@[simp] theorem Veil.modTile (t : Fin 4) (f : Tile → Tile) : (q.on s).modTile t f = q.on (s.modTile t f) := (rfl)
@[simp] theorem Veil.modCab (c : Fin 4) (f : Cabinet → Cabinet) : (q.on s).modCab c f = q.on (s.modCab c f) := (rfl)
@[simp] theorem Veil.modRing (c : Fin 4) (n : Fin 16) (f : Ring → Ring) :
    (q.on s).modRing c n f = q.on (s.modRing c n f) := (rfl)
@[simp] theorem Veil.emit (o : Out) : (q.on s).emit o = q.on (s.emit o) := (rfl)

/-- An update of the events or the homing of an engine does not see the veil. -/
theorem Veil.modEng (e : Fin 46) (f : Engine → Engine) (hf : ∀ x y, f (x.behind y) = (f x).behind y) :
    (q.on s).modEng e f = q.on (s.modEng e f) := by
  have engs : (q.on s).engines.set e.1 (f ((q.on s).eng e)) = (q.on (s.modEng e f)).engines := by
    ext i hi
    by_cases h : e.1 = i
    · subst h
      simp [Veil.on, State.modEng, State.setEng, State.eng, hf]
    · simp [Veil.on, State.modEng, State.setEng, State.eng, Vector.getElem_set, h]
  have whole : (q.on s).modEng e f = { q.on s with engines := (q.on s).engines.set e.1 (f ((q.on s).eng e)) } := rfl
  rw [whole, engs]
  rfl

@[simp] theorem Veil.candidate (r : Record) : candidate r (q.on s) = q.on (candidate r s) := by
  simp [Machine.candidate, State.modRec, Veil.on, List.append_assoc, State.eng]

@[simp] theorem Veil.ite (c : Prop) [Decidable c] (t : State) :
    (if c then q.on s else q.on t) = q.on (if c then s else t) := (apply_ite q.on c s t).symm

theorem Veil.foldl {α : Type} (l : List α) (g : State → α → State) (h : ∀ s x, g (q.on s) x = q.on (g s x)) :
    l.foldl g (q.on s) = q.on (l.foldl g s) := by
  induction l generalizing s with
  | nil => rfl
  | cons x l ih => rw [List.foldl_cons, h, ih, List.foldl_cons]

end

end Sys2Proof.Machine
end

section
/-! SUPPORT. Which registers a port and a fault read, and that no read of theirs sees a veil. -/

namespace Sys2Proof.Machine

/-! ## Registers that are not hidden -/

theorem not_hidden_of_le {a : Nat} (h : 0x40000 ≤ a) : ¬ Hidden a := by
  rintro (h0 | ⟨e, he⟩)
  · unfold CFG_XING_CNT at h0; omega
  · unfold ENG_PC at he; omega

@[simp] theorem port_registers_not_hidden (t p : Nat) :
    ¬ Hidden (PWM_STAT t p) ∧ ¬ Hidden (PWM_CTRL t p) ∧ ¬ Hidden (PWM_STAGGER t p) ∧ ¬ Hidden (PWM_DT t p) ∧
    ¬ Hidden (PWM_MASKS t p) ∧ ¬ Hidden (PWM_MASKSEL t p) ∧ ¬ Hidden (PWM_CNT t p) ∧ ¬ Hidden (PWM_CNT2 t p) ∧
    ¬ Hidden (PWM_CARRY t p) ∧ ¬ Hidden (CR_DUTY t p) ∧ ¬ Hidden (CR_INTEG t p) ∧ ¬ Hidden (GD_CFG t p) ∧
    ¬ Hidden (GD_TARGET t p) ∧ ¬ Hidden (GD_CODE_INIT t p) ∧ ¬ Hidden (GD_LIM t p) ∧ ¬ Hidden (GD_PROT t p) ∧
    ¬ Hidden (GD_REFRESH t p) ∧ ¬ Hidden (GD_STAT t p) ∧ ¬ Hidden (GD_CNT2 t p) ∧ ¬ Hidden (CMP_STAT t p) ∧
    ¬ Hidden (CMP_CHKRES t p) ∧ ¬ Hidden (GD_ACODE t p) := by
  and_intros <;> apply not_hidden_of_le <;>
    simp only [PWM_STAT, PWM_CTRL, PWM_STAGGER, PWM_DT, PWM_MASKS, PWM_MASKSEL, PWM_CNT, PWM_CNT2, PWM_CARRY, CR_DUTY,
      CR_INTEG, GD_CFG, GD_TARGET, GD_CODE_INIT, GD_LIM, GD_PROT, GD_REFRESH, GD_STAT, GD_CNT2, CMP_STAT, CMP_CHKRES,
      GD_ACODE] <;>
    omega

@[simp] theorem port_status_not_hidden (p : Fin 64) : ¬ Hidden (pwmStat p) ∧ ¬ Hidden (gdStat p) := by
  and_intros <;> apply not_hidden_of_le <;> simp only [pwmStat, gdStat, PWM_STAT, GD_STAT] <;> omega

@[simp] theorem port_lists_not_hidden (p : Fin 64) (i : Nat) :
    ¬ Hidden (cmpCfg p i) ∧ ¬ Hidden (GD_TSW (pT p) (pI p) i) := by
  and_intros <;> apply not_hidden_of_le <;> simp only [cmpCfg, GD_TSW] <;> omega

@[simp] theorem tile_registers_not_hidden (t : Nat) :
    ¬ Hidden (GD_TSTAT t) ∧ ¬ Hidden (LT_TILE_PERIOD t) ∧ ¬ Hidden (CFG_XBAR_A t) ∧ ¬ Hidden (CFG_XBAR_B t) := by
  and_intros <;> apply not_hidden_of_le <;>
    simp only [GD_TSTAT, LT_TILE_PERIOD, CFG_XBAR_A, CFG_XBAR_B] <;> omega

@[simp] theorem axis_registers_not_hidden (a : Nat) :
    ¬ Hidden (MP_STAT a) ∧ ¬ Hidden (MP_CNT a) ∧ ¬ Hidden (MP_PLACE a) ∧ ¬ Hidden (MP_CMD_POS_LO a) ∧
    ¬ Hidden (MP_CMD_VEL_LO a) ∧ ¬ Hidden (MP_CMD_ACC_LO a) ∧ ¬ Hidden (MP_FLT_STAT a) ∧ ¬ Hidden (MP_FLT_CNT a) ∧
    ¬ Hidden (GR_STAT a) ∧ ¬ Hidden (SF_STAT a) ∧ ¬ Hidden (SF_HOME_STAT a) ∧ ¬ Hidden (MP_CMD_POS_LO a + 4) ∧
    ¬ Hidden (MP_CMD_VEL_LO a + 4) ∧ ¬ Hidden (MP_CMD_ACC_LO a + 4) := by
  and_intros <;> apply not_hidden_of_le <;>
    simp only [MP_STAT, MP_CNT, MP_PLACE, MP_CMD_POS_LO, MP_CMD_VEL_LO, MP_CMD_ACC_LO, MP_FLT_STAT, MP_FLT_CNT, GR_STAT,
      SF_STAT, SF_HOME_STAT] <;>
    omega

@[simp] theorem reaction_register_not_hidden (a r : Nat) : ¬ Hidden (MP_RX a r) := by
  apply not_hidden_of_le
  unfold MP_RX
  omega

@[simp] theorem cabinet_registers_not_hidden (c : Nat) :
    ¬ Hidden (HIF_CAB_CTRL c) ∧ ¬ Hidden (HIF_CAB_CNT c) ∧ ¬ Hidden (HIF_CAB_EVSEQ c) := by
  and_intros <;> apply not_hidden_of_le <;>
    simp only [HIF_CAB_CTRL, HIF_CAB_CNT, HIF_CAB_EVSEQ] <;> omega

@[simp] theorem ring_registers_not_hidden (c n : Nat) :
    ¬ Hidden (HIF_RING_BASE_LO c n) ∧ ¬ Hidden (HIF_RING_CFG c n) ∧ ¬ Hidden (HIF_RING_STAT c n) ∧ ¬ Hidden (HIF_RING_DEV c n) ∧
    ¬ Hidden (HIF_RING_HOST c n) ∧ ¬ Hidden (HIF_RING_CNT c n) ∧ ¬ Hidden (HIF_RING_BASE_LO c n + 4) := by
  and_intros <;> apply not_hidden_of_le <;>
    simp only [HIF_RING_BASE_LO, HIF_RING_CFG, HIF_RING_STAT, HIF_RING_DEV, HIF_RING_HOST, HIF_RING_CNT] <;> omega

@[simp] theorem global_registers_not_hidden :
    ¬ Hidden GLB_STATE ∧ ¬ Hidden LT_STAT ∧ ¬ Hidden LT_EPOCH_LO ∧ ¬ Hidden (LT_EPOCH_LO + 4) ∧ ¬ Hidden REC_STAT := by
  and_intros <;> rintro (h | ⟨e, h⟩) <;>
    simp only [GLB_STATE, LT_STAT, LT_EPOCH_LO, REC_STAT, CFG_XING_CNT, ENG_PC] at h <;> omega

@[simp] theorem owner_register_not_hidden (a : Fin 32) : ¬ Hidden (HIF_OWN_AX (a.1 / 16)) := by
  rintro (h | ⟨e, h⟩) <;> simp only [HIF_OWN_AX, CFG_XING_CNT, ENG_PC] at h <;> omega

@[simp] theorem engine_registers_not_hidden (e : Fin 46) :
    ¬ Hidden (ENG_EVLATCH e) ∧ ¬ Hidden (ENG_CNT e) ∧ ¬ Hidden (ENG_STAT e) := by
  and_intros <;> rintro (h | ⟨d, h⟩) <;>
    simp only [ENG_EVLATCH, ENG_CNT, ENG_STAT, CFG_XING_CNT, ENG_PC] at h <;> omega

/-! ## Reads -/

section
variable (q : Veil) (s : State)

@[simp] theorem Veil.portOf (a : Fin 32) (phaseB : Bool) : (q.on s).portOf a phaseB = s.portOf a phaseB := by
  simp [State.portOf]
@[simp] theorem Veil.axisOfPort (p : Fin 64) : (q.on s).axisOfPort p = s.axisOfPort p := by
  simp [State.axisOfPort]
@[simp] theorem Veil.partner (p : Fin 64) : (q.on s).partner p = s.partner p := by
  simp [State.partner]
@[simp] theorem Veil.offLanded (p : Fin 64) : (q.on s).offLanded p = s.offLanded p := (rfl)
@[simp] theorem Veil.pwm (p : Fin 64) : (q.on s).pwm p = s.pwm p := by
  simp [State.pwm]
@[simp] theorem Veil.portState (p : Fin 64) : (q.on s).portState p = s.portState p := by
  simp [State.portState]
@[simp] theorem Veil.codeLim (p : Fin 64) (sw : Nat) : (q.on s).codeLim p sw = s.codeLim p sw := by
  simp [State.codeLim]
@[simp] theorem Veil.initCodes (p : Fin 64) : (q.on s).initCodes p = s.initCodes p := by
  simp [State.initCodes]
@[simp] theorem Veil.adaptable (p : Fin 64) : (q.on s).adaptable p = s.adaptable p := by
  simp [State.adaptable]
@[simp] theorem Veil.gd (p : Fin 64) : (q.on s).gd p = s.gd p := by
  simp [State.gd]
@[simp] theorem Veil.target (p : Fin 64) (i : Nat) : (q.on s).target p i = s.target p i := by
  simp [State.target]
@[simp] theorem Veil.adaptOne (p : Fin 64) (code i : Nat) : (q.on s).adaptOne p code i = s.adaptOne p code i := by
  simp [State.adaptOne]
@[simp] theorem Veil.inBand (p : Fin 64) (i : Nat) : (q.on s).inBand p i = s.inBand p i := by
  simp [State.inBand]
@[simp] theorem Veil.direct (p : Fin 64) : (q.on s).direct p = s.direct p := by
  simp [State.direct]
@[simp] theorem Veil.devState : (q.on s).devState = s.devState := by
  simp [State.devState]
@[simp] theorem Veil.anyRun : (q.on s).anyRun = s.anyRun := by
  simp [State.anyRun]
@[simp] theorem Veil.rState (c : Fin 4) (n : Fin 16) : (q.on s).rState c n = s.rState c n := by
  simp [State.rState]
@[simp] theorem Veil.rType (c : Fin 4) (n : Fin 16) : (q.on s).rType c n = s.rType c n := by
  simp [State.rType]
@[simp] theorem Veil.rIs (c : Fin 4) (n : Fin 16) (ty : Nat) : (q.on s).rIs c n ty = s.rIs c n ty := by
  simp [State.rIs]
@[simp] theorem Veil.eventRing (c : Fin 4) (sev : Nat) : (q.on s).eventRing c sev = s.eventRing c sev := by
  simp [State.eventRing]
@[simp] theorem Veil.quality : (q.on s).quality = s.quality := by
  simp [State.quality]
@[simp] theorem Veil.timeQuality : (q.on s).timeQuality = s.timeQuality := by
  simp [State.timeQuality]
@[simp] theorem Veil.pair (lo : Nat) (h : ¬ Hidden lo) (h4 : ¬ Hidden (lo + 4)) : (q.on s).pair lo = s.pair lo := by
  simp [State.pair, h, h4]
@[simp] theorem Veil.epoch : (q.on s).epoch = s.epoch := by
  simp [State.epoch]
@[simp] theorem Veil.up : (q.on s).up = s.up := by
  simp [State.up]
@[simp] theorem Veil.calendar (t : Nat) : (q.on s).calendar t = s.calendar t := by
  simp [State.calendar]
@[simp] theorem Veil.rDev (c : Fin 4) (n : Fin 16) : (q.on s).rDev c n = s.rDev c n := by
  simp [State.rDev]
@[simp] theorem Veil.rSize (c : Fin 4) (n : Fin 16) : (q.on s).rSize c n = s.rSize c n := by
  simp [State.rSize]
@[simp] theorem Veil.rHost (c : Fin 4) (n : Fin 16) : (q.on s).rHost c n = s.rHost c n := by
  simp [State.rHost]
@[simp] theorem Veil.rUsed (c : Fin 4) (n : Fin 16) : (q.on s).rUsed c n = s.rUsed c n := by
  simp [State.rUsed]
@[simp] theorem Veil.rRoom (c : Fin 4) (n : Fin 16) : (q.on s).rRoom c n = s.rRoom c n := by
  simp [State.rRoom]
@[simp] theorem Veil.rBase (c : Fin 4) (n : Fin 16) : (q.on s).rBase c n = s.rBase c n := by
  simp [State.rBase]
@[simp] theorem Veil.ring (c : Fin 4) (n : Fin 16) : (q.on s).ring c n = s.ring c n := by
  simp [State.ring]
@[simp] theorem Veil.rPhase (c : Fin 4) (n : Fin 16) : (q.on s).rPhase c n = s.rPhase c n := by
  simp [State.rPhase]
@[simp] theorem Veil.period (t : Fin 4) : (q.on s).period t = s.period t := by
  simp [State.period]
@[simp] theorem Veil.portT (p : Fin 64) : (q.on s).portT p = s.portT p := by
  simp [State.portT]
@[simp] theorem Veil.gatesLive (p : Fin 64) (y : Rat) : (q.on s).gatesLive p y = s.gatesLive p y := by
  simp [State.gatesLive]
@[simp] theorem Veil.deadTime (p : Fin 64) : (q.on s).deadTime p = s.deadTime p := by
  simp [State.deadTime]
@[simp] theorem Veil.dtNs (p : Fin 64) : (q.on s).dtNs p = s.dtNs p := by
  simp [State.dtNs]
@[simp] theorem Veil.refreshNs (p : Fin 64) : (q.on s).refreshNs p = s.refreshNs p := by
  simp [State.refreshNs]
@[simp] theorem Veil.inPulse (p : Fin 64) (b : Bool) (x : Rat) : (q.on s).inPulse p b x = s.inPulse p b x := by
  simp [State.inPulse]
@[simp] theorem Veil.maskAt (p : Fin 64) (x : Rat) : (q.on s).maskAt p x = s.maskAt p x := by
  simp [State.maskAt]
@[simp] theorem Veil.maskCode (p : Fin 64) (m : Nat) (b : Bool) : (q.on s).maskCode p m b = s.maskCode p m b := by
  simp [State.maskCode]
@[simp] theorem Veil.leg (p : Fin 64) (b : Bool) : (q.on s).leg p b = s.leg p b := by
  simp [State.leg]
@[simp] theorem Veil.scheduled (p : Fin 64) (b : Bool) (x : Rat) : (q.on s).scheduled p b x = s.scheduled p b x := by
  simp only [State.scheduled, Veil.leg, Veil.dtNs]
@[simp] theorem Veil.lowerRanks (p : Fin 64) (b : Bool) (x : Rat) : (q.on s).lowerRanks p b x = s.lowerRanks p b x := by
  simp [State.lowerRanks]
@[simp] theorem Veil.driven (p : Fin 64) (b : Bool) (x : Rat) : (q.on s).driven p b x = s.driven p b x := by
  simp [State.driven]
@[simp] theorem Veil.heldSwitch (p : Fin 64) (sw : Nat) : (q.on s).heldSwitch p sw = s.heldSwitch p sw := by
  simp [State.heldSwitch]
@[simp] theorem Veil.want (p : Fin 64) (b : Bool) (y : Rat) : (q.on s).want p b y = s.want p b y := by
  simp [State.want]
@[simp] theorem Veil.codesAt (p : Fin 64) (x : Rat) : (q.on s).codesAt p x = s.codesAt p x := by
  simp [State.codesAt]
@[simp] theorem Veil.pinEdge (p : Fin 64) (y : Rat) (sw : Nat) (on soft : Bool) :
    (q.on s).pinEdge p y sw on soft = s.pinEdge p y sw on soft := by
  simp [State.pinEdge]
@[simp] theorem Veil.legStep (p : Fin 64) (b soft : Bool) (y : Rat) (before : Rat → Bool) (l : LegPins) :
    (q.on s).legStep p b soft y before l = s.legStep p b soft y before l := by
  simp [State.legStep]
@[simp] theorem Veil.maskPasses (p : Fin 64) (m : Nat) : (q.on s).maskPasses p m = s.maskPasses p m := by
  simp [State.maskPasses]
@[simp] theorem Veil.forceFld (a : Nat) (f : Fld) : (q.on s).forceFld a f = s.forceFld a f := by
  simp [State.forceFld]
@[simp] theorem Veil.minPulse (p : Fin 64) : (q.on s).minPulse p = s.minPulse p := by
  simp [State.minPulse]
@[simp] theorem Veil.stagger (p : Fin 64) : (q.on s).stagger p = s.stagger p := by
  simp [State.stagger]
@[simp] theorem Veil.refreshValleys (p : Fin 64) (b : Bool) : (q.on s).refreshValleys p b = s.refreshValleys p b := by
  simp [State.refreshValleys]
@[simp] theorem Veil.carry (p : Fin 64) (b : Bool) : (q.on s).carry p b = s.carry p b := by
  simp [State.carry]
@[simp] theorem Veil.shaped (p : Fin 64) (b : Bool) (r : Planned) : (q.on s).shaped p b r = s.shaped p b r := by
  simp [State.shaped]
@[simp] theorem Veil.turnOn (p : Fin 64) (b : Bool) (r : Planned) : (q.on s).turnOn p b r = s.turnOn p b r := by
  simp [State.turnOn]
@[simp] theorem Veil.legWalk (p : Fin 64) (b : Bool) (last : Rat) (l : List Rat) (x : LegPins) :
    (q.on s).legWalk p b last l x = s.legWalk p b last l x := by
  induction l generalizing x with
  | nil => simp [State.legWalk]
  | cons y l ih => simp [State.legWalk, ih]
@[simp] theorem Veil.breaks (p : Fin 64) (b : Bool) : (q.on s).breaks p b = s.breaks p b := by
  simp [State.breaks]
@[simp] theorem Veil.pinBreaks (p : Fin 64) (b : Bool) (y0 y1 : Rat) :
    (q.on s).pinBreaks p b y0 y1 = s.pinBreaks p b y0 y1 := by
  simp [State.pinBreaks]
@[simp] theorem Veil.underDiag (p : Fin 64) : (q.on s).underDiag p = s.underDiag p := by
  simp [State.underDiag]
@[simp] theorem Veil.axState (a : Fin 32) : (q.on s).axState a = s.axState a := by
  simp [State.axState]
@[simp] theorem Veil.prof (a : Fin 32) : (q.on s).prof a = s.prof a := by
  simp [State.prof]
@[simp] theorem Veil.gear (a : Fin 32) : (q.on s).gear a = s.gear a := by
  simp [State.gear]
@[simp] theorem Veil.sf (a : Fin 32) : (q.on s).sf a = s.sf a := by
  simp [State.sf]
@[simp] theorem Veil.kinSampleAt (a : Fin 32) (t : Nat) : (q.on s).kinSampleAt a t = s.kinSampleAt a t := by
  simp [State.kinSampleAt]
@[simp] theorem Veil.boundary (t : Fin 4) : (q.on s).boundary t = s.boundary t := by
  simp [State.boundary]
@[simp] theorem Veil.axB (a : Fin 32) : (q.on s).axB a = s.axB a := by
  simp [State.axB]
@[simp] theorem Veil.kinSample (a : Fin 32) : (q.on s).kinSample a = s.kinSample a := by
  simp [State.kinSample]
@[simp] theorem Veil.kinB (a : Fin 32) : (q.on s).kinB a = s.kinB a := by
  simp [State.kinB]
@[simp] theorem Veil.downB (a : Fin 32) : (q.on s).downB a = s.downB a := by
  simp [State.downB]
@[simp] theorem Veil.baseOf (a : Fin 32) : (q.on s).baseOf a = s.baseOf a := by
  simp [State.baseOf]
@[simp] theorem Veil.engOf (a : Fin 32) : (q.on s).engOf a = s.engOf a := by
  simp [State.engOf]
@[simp] theorem Veil.ownerAx (a : Fin 32) : (q.on s).ownerAx a = s.ownerAx a := by
  simp [State.ownerAx]
@[simp] theorem Veil.flushAt (a : Fin 32) : (q.on s).flushAt a = s.flushAt a := by
  simp [State.flushAt]
@[simp] theorem Veil.faultAt (a : Fin 32) : (q.on s).faultAt a = s.faultAt a := by
  simp [State.faultAt]
@[simp] theorem Veil.rxEntry (a : Fin 32) (cls : Nat) : (q.on s).rxEntry a cls = s.rxEntry a cls := by
  simp [State.rxEntry]

end

end Sys2Proof.Machine
end

section
/-! SUPPORT. Each function through which a port settles, or a fault is raised, does behind a veil what it does without one. -/

namespace Sys2Proof.Machine

variable (q : Veil) (s : State)

@[simp] theorem Veil.mkRecord (code : RecCode) (sev kind idx : Nat) (params : List Nat) (body : List Byte) (b : Bool) :
    mkRecord (q.on s) code sev kind idx params body b = mkRecord s code sev kind idx params body b := by
  simp [Machine.mkRecord]

@[simp] theorem Veil.modPwm (p : Fin 64) (f : Pwm → Pwm) : (q.on s).modPwm p f = q.on (s.modPwm p f) := by
  simp [State.modPwm]

@[simp] theorem Veil.setCodes (p : Fin 64) (x : Rat) (w : Nat) : setCodes p x w (q.on s) = q.on (setCodes p x w s) := by
  simp [Machine.setCodes]

@[simp] theorem Veil.modGd (p : Fin 64) (f : GateDrive → GateDrive) : (q.on s).modGd p f = q.on (s.modGd p f) := by
  simp [State.modGd]

@[simp] theorem Veil.adapt (p : Fin 64) (v : Nat) : adapt p v (q.on s) = q.on (adapt p v s) := by
  simp [Machine.adapt]

@[simp] theorem Veil.showTsw (p : Fin 64) : showTsw p (q.on s) = q.on (showTsw p s) := by
  simp [Machine.showTsw, Veil.foldl]

@[simp] theorem Veil.followAdapt (p : Fin 64) : followAdapt p (q.on s) = q.on (followAdapt p s) := by
  simp [Machine.followAdapt]

@[simp] theorem Veil.gateValley (p : Fin 64) (v : Nat) : gateValley p v (q.on s) = q.on (gateValley p v s) := by
  simp [Machine.gateValley]

@[simp] theorem Veil.endLatches (p : Fin 64) : endLatches p (q.on s) = q.on (endLatches p s) := by
  simp [Machine.endLatches]

@[simp] theorem Veil.record (k : RecKind) (sev kind idx : Nat) (params : List Nat) :
    record k sev kind idx params (q.on s) = q.on (record k sev kind idx params s) := by
  simp [Machine.record]

@[simp] theorem Veil.loseEvent (c : Fin 4) : loseEvent c (q.on s) = q.on (loseEvent c s) := by
  simp [Machine.loseEvent]

@[simp] theorem Veil.nextEvSeq (c : Fin 4) : nextEvSeq c (q.on s) = q.on (nextEvSeq c s) := by
  simp [Machine.nextEvSeq]

@[simp] theorem Veil.sendVector (c : Fin 4) (v : Nat) : sendVector c v (q.on s) = q.on (sendVector c v s) := by
  cases h : (s.cab c).vecs[v]? <;> simp [Machine.sendVector, h]

@[simp] theorem Veil.requestIrq (c : Fin 4) (n : Fin 16) (urgent : Bool) :
    requestIrq c n urgent (q.on s) = q.on (requestIrq c n urgent s) := by
  simp [Machine.requestIrq]

@[simp] theorem Veil.writeEntry (c : Fin 4) (n : Fin 16) (e : Entry) (urgent : Bool) :
    writeEntry c n e urgent (q.on s) = q.on (writeEntry c n e urgent s) := by
  simp [Machine.writeEntry]

@[simp] theorem Veil.writeEvent (c : Fin 4) (n : Fin 16) (b : EvBody) :
    writeEvent c n b (q.on s) = q.on (writeEvent c n b s) := by
  simp [Machine.writeEvent]

@[simp] theorem Veil.eventsLostFirst (c : Fin 4) (n : Fin 16) (time : Nat) :
    eventsLostFirst c n time (q.on s) = q.on (eventsLostFirst c n time s) := by
  simp [Machine.eventsLostFirst]

@[simp] theorem Veil.raiseEvent (c : Fin 4) (b : EvBody) : raiseEvent c b (q.on s) = q.on (raiseEvent c b s) := by
  cases h : s.eventRing c b.sev <;> simp [Machine.raiseEvent, h]

@[simp] theorem Veil.raiseDevice (code sev time : Nat) (params : List Int) :
    raiseDevice code sev time params (q.on s) = q.on (raiseDevice code sev time params s) := by
  simp [Machine.raiseDevice, Veil.foldl]

@[simp] theorem Veil.recordVar (k : RecKind) (sev kind idx : Nat) (words : List Nat) :
    recordVar k sev kind idx words (q.on s) = q.on (recordVar k sev kind idx words s) := by
  simp [Machine.recordVar]

@[simp] theorem Veil.setDevState (new cause : Nat) : setDevState new cause (q.on s) = q.on (setDevState new cause s) := by
  simp [Machine.setDevState]

@[simp] theorem Veil.followPorts : followPorts (q.on s) = q.on (followPorts s) := by
  simp [Machine.followPorts]

@[simp] theorem Veil.movePins (p : Fin 64) (soft : Bool) (y : Rat) :
    movePins p soft y (q.on s) = q.on (movePins p soft y s) := by
  simp [Machine.movePins]

@[simp] theorem Veil.modLoop (p : Fin 64) (f : Loop → Loop) : (q.on s).modLoop p f = q.on (s.modLoop p f) := by
  simp [State.modLoop]

@[simp] theorem Veil.selectMask (p : Fin 64) (x : Rat) (rank m : Nat) :
    selectMask p x rank m (q.on s) = q.on (selectMask p x rank m s) := by
  simp [Machine.selectMask]

@[simp] theorem Veil.modLeg (p : Fin 64) (b : Bool) (f : LegGen → LegGen) : (q.on s).modLeg p b f = q.on (s.modLeg p b f) := by
  simp [State.modLeg]

@[simp] theorem Veil.trimRefresh (p : Fin 64) : trimRefresh p (q.on s) = q.on (trimRefresh p s) := by
  simp [Machine.trimRefresh, Veil.foldl]

@[simp] theorem Veil.followRefreshing (p : Fin 64) : followRefreshing p (q.on s) = q.on (followRefreshing p s) := by
  simp [Machine.followRefreshing]

@[simp] theorem Veil.insertPulse (p : Fin 64) (v : Nat) (l : Fin 2) :
    insertPulse p v (q.on s) l = q.on (insertPulse p v s l) := by
  cases h : (s.gd p).refreshAt[l] <;> simp [Machine.insertPulse, h]

@[simp] theorem Veil.pinValley (p : Fin 64) (v : Nat) : pinValley p v (q.on s) = q.on (pinValley p v s) := by
  simp [Machine.pinValley]

@[simp] theorem Veil.setCarry (p : Fin 64) (b : Bool) (c : Nat) : (q.on s).setCarry p b c = q.on (s.setCarry p b c) := by
  simp [State.setCarry]

@[simp] theorem Veil.noteClamp (p : Fin 64) : noteClamp p (q.on s) = q.on (noteClamp p s) := by
  simp [Machine.noteClamp]

@[simp] theorem Veil.decidePulse (p : Fin 64) (b : Bool) (r : Planned) :
    decidePulse p b r (q.on s) = q.on (decidePulse p b r s) := by
  simp [Machine.decidePulse]

@[simp] theorem Veil.decideLeg (p : Fin 64) (b : Bool) (z : Rat) (l : List Planned) :
    decideLeg p b z l (q.on s) = q.on (decideLeg p b z l s) := by
  induction l generalizing s with
  | nil => simp [Machine.decideLeg]
  | cons r rs ih => simp [Machine.decideLeg, ih]

@[simp] theorem Veil.walkPins (p : Fin 64) (z : Rat) : walkPins p z (q.on s) = q.on (walkPins p z s) := by
  simp [Machine.walkPins]

@[simp] theorem Veil.settlePins (p : Fin 64) (z : Rat) : settlePins p z (q.on s) = q.on (settlePins p z s) := by
  cases h : (s.pwm p).valleyAt <;> simp [Machine.settlePins, h]

theorem Veil.pinChangeAt (p : Fin 64) (soft : Bool) (y : Rat) (f : State → State) (hf : ∀ s, f (q.on s) = q.on (f s)) :
    pinChangeAt p soft y f (q.on s) = q.on (pinChangeAt p soft y f s) := by
  simp [Machine.pinChangeAt, hf]

@[simp] theorem Veil.setPortState (p : Fin 64) (x : Nat) : (q.on s).setPortState p x = q.on (s.setPortState p x) := by
  simp [State.setPortState]

@[simp] theorem Veil.unpower (p : Fin 64) : unpower p (q.on s) = q.on (unpower p s) := by
  simp [Machine.unpower]

@[simp] theorem Veil.leaveRun (p : Fin 64) : leaveRun p (q.on s) = q.on (leaveRun p s) := by
  simp [Machine.leaveRun]

@[simp] theorem Veil.movePort (p : Fin 64) (x : Nat) : movePort p x (q.on s) = q.on (movePort p x s) := by
  simp [Machine.movePort]

@[simp] theorem Veil.followPartner (p : Fin 64) (x : Nat) (loopRan : Bool) (y : Rat) :
    followPartner p x loopRan y (q.on s) = q.on (followPartner p x loopRan y s) := by
  cases h : s.partner p <;> simp [Machine.followPartner, Veil.pinChangeAt, h]

@[simp] theorem Veil.showRaised (a : Fin 32) (raised : Bool) : showRaised a raised (q.on s) = q.on (showRaised a raised s) := by
  simp [Machine.showRaised]

@[simp] theorem Veil.modProf (a : Fin 32) (f : Profile → Profile) : (q.on s).modProf a f = q.on (s.modProf a f) := by
  simp [State.modProf]

@[simp] theorem Veil.keepBase (a : Fin 32) : keepBase a (q.on s) = q.on (keepBase a s) := by
  simp [Machine.keepBase]

@[simp] theorem Veil.followQueue (a : Fin 32) : followQueue a (q.on s) = q.on (followQueue a s) := by
  simp [Machine.followQueue]

@[simp] theorem Veil.latchEvent (e : Fin 46) (bit : Nat) (param : Nat) :
    latchEvent e bit param (q.on s) = q.on (latchEvent e bit param s) := by
  have later : ∀ z : State, (q.on z).modEng e (fun x => { x with
      params := x.params.setIfInBounds bit (BitVec.ofNat 64 param), since := x.since ||| BitVec.ofNat 17 (2 ^ bit) }) = _ :=
    fun z => Veil.modEng q z e _ fun x y => by cases y <;> rfl
  simp only [Machine.latchEvent, Veil.fld, Veil.count, Veil.setFld, Veil.ite, engine_registers_not_hidden, not_false_eq_true,
    later]

@[simp] theorem Veil.axisEvent (a : Fin 32) (bit : Nat) (param : Int) :
    axisEvent a bit param (q.on s) = q.on (axisEvent a bit param s) := by
  simp [Machine.axisEvent]

@[simp] theorem Veil.raiseAxis (a : Fin 32) (code sev tag time : Nat) (params : List Int) :
    raiseAxis a code sev tag time params (q.on s) = q.on (raiseAxis a code sev tag time params s) := by
  simp [Machine.raiseAxis]

@[simp] theorem Veil.moveDone (a : Fin 32) (tag st : Nat) (target : Int) :
    moveDone a tag st target (q.on s) = q.on (moveDone a tag st target s) := by
  simp [Machine.moveDone]

@[simp] theorem Veil.moveEnds (a : Fin 32) (internal : Bool) (tag st : Nat) (target : Int) :
    moveEnds a internal tag st target (q.on s) = q.on (moveEnds a internal tag st target s) := by
  simp [Machine.moveEnds]

@[simp] theorem Veil.flushQueue (a : Fin 32) (st : Nat) : flushQueue a st (q.on s) = q.on (flushQueue a st s) := by
  simp [Machine.flushQueue, Veil.foldl]

@[simp] theorem Veil.endMove (a : Fin 32) (st : Nat) : endMove a st (q.on s) = q.on (endMove a st s) := by
  cases h : (s.prof a).move <;> simp [Machine.endMove, h]

@[simp] theorem Veil.endHoming (a : Fin 32) : endHoming a (q.on s) = q.on (endHoming a s) := by
  have after : ∀ (z : State) (e : Fin 46) (b : Bool), (q.on z).modEng e (fun x => { x with homePend := b }) = _ :=
    fun z e b => Veil.modEng q z e _ fun x y => by cases y <;> rfl
  simp [Machine.endHoming, after]

@[simp] theorem Veil.homeDone (a : Fin 32) (tag st : Nat) (v : Int) :
    homeDone a tag st v (q.on s) = q.on (homeDone a tag st v s) := by
  simp [Machine.homeDone]

@[simp] theorem Veil.failHoming (a : Fin 32) (reason : Nat) : failHoming a reason (q.on s) = q.on (failHoming a reason s) := by
  cases h : (s.axis a).home <;> simp [Machine.failHoming, h]

@[simp] theorem Veil.modGear (a : Fin 32) (f : Gear → Gear) : (q.on s).modGear a f = q.on (s.modGear a f) := by
  simp [State.modGear]

@[simp] theorem Veil.cancelRelease (a : Fin 32) : cancelRelease a (q.on s) = q.on (cancelRelease a s) := by
  cases h : (s.gear a).relPend <;> simp [Machine.cancelRelease, h]

@[simp] theorem Veil.flushArmed (a : Fin 32) : flushArmed a (q.on s) = q.on (flushArmed a s) := by
  simp [Machine.flushArmed, Veil.foldl]

@[simp] theorem Veil.leaveGear (a : Fin 32) : leaveGear a (q.on s) = q.on (leaveGear a s) := by
  simp [Machine.leaveGear]

@[simp] theorem Veil.gearEngaged (a : Fin 32) (tag st t : Nat) (mref ofs : Int) :
    gearEngaged a tag st t mref ofs (q.on s) = q.on (gearEngaged a tag st t mref ofs s) := by
  simp [Machine.gearEngaged]

@[simp] theorem Veil.cancelEngage (a : Fin 32) : cancelEngage a (q.on s) = q.on (cancelEngage a s) := by
  cases h : (s.gear a).engPend <;> simp [Machine.cancelEngage, h]

@[simp] theorem Veil.modSf (a : Fin 32) (f : StepFollow → StepFollow) : (q.on s).modSf a f = q.on (s.modSf a f) := by
  simp [State.modSf]

@[simp] theorem Veil.leaveFollow (a : Fin 32) : leaveFollow a (q.on s) = q.on (leaveFollow a s) := by
  simp [Machine.leaveFollow]

@[simp] theorem Veil.leaveFollowing (a : Fin 32) : leaveFollowing a (q.on s) = q.on (leaveFollowing a s) := by
  simp [Machine.leaveFollowing]

@[simp] theorem Veil.layPlan (a : Fin 32) (t : Rat) (l : List Seg) : layPlan a t l (q.on s) = q.on (layPlan a t l s) := by
  simp [Machine.layPlan]

@[simp] theorem Veil.setPair (lo : Nat) (x : Int) (h : ¬ Hidden lo) (h4 : ¬ Hidden (lo + 4)) :
    (q.on s).setPair lo x = q.on (s.setPair lo x) := by
  simp [State.setPair, h, h4]

@[simp] theorem Veil.showKin (a : Fin 32) (k : Kin) : showKin a k (q.on s) = q.on (showKin a k s) := by
  simp [Machine.showKin]

@[simp] theorem Veil.setAxState (a : Fin 32) (x : Nat) : (q.on s).setAxState a x = q.on (s.setAxState a x) := by
  simp [State.setAxState]

@[simp] theorem Veil.freezeAxis (a : Fin 32) (st : Nat) : freezeAxis a st (q.on s) = q.on (freezeAxis a st s) := by
  simp [Machine.freezeAxis]

@[simp] theorem Veil.enterDisabled (a : Fin 32) : enterDisabled a (q.on s) = q.on (enterDisabled a s) := by
  simp [Machine.enterDisabled]

@[simp] theorem Veil.enterOff (p : Fin 64) (v : Nat) : enterOff p v (q.on s) = q.on (enterOff p v s) := by
  simp [Machine.enterOff]
  split
  · rfl
  · generalize State.setReg _ _ _ = z
    cases z.axisOfPort p <;> simp

@[simp] theorem Veil.portValley (p : Fin 64) (v : Nat) : portValley p v (q.on s) = q.on (portValley p v s) := by
  simp [Machine.portValley]

@[simp] theorem Veil.endTail (p : Fin 64) : endTail p (q.on s) = q.on (endTail p s) := by
  cases h : (s.pwm p).tail <;> simp [Machine.endTail, h]

@[simp] theorem Veil.settleTo (p : Fin 64) (z : Rat) : settleTo p z (q.on s) = q.on (settleTo p z s) := by
  cases h : (s.pwm p).valleyAt <;> simp [Machine.settleTo, h]

@[simp] theorem Veil.settlePort (p : Fin 64) : settlePort p (q.on s) = q.on (settlePort p s) := by
  cases h : s.partner p <;> simp [Machine.settlePort, h]

theorem Veil.pinChange (p : Fin 64) (soft : Bool) (f : State → State) (hf : ∀ s, f (q.on s) = q.on (f s)) :
    pinChange p soft f (q.on s) = q.on (pinChange p soft f s) := by
  simp [Machine.pinChange, Veil.pinChangeAt, hf]

@[simp] theorem Veil.enterPortBy (p : Fin 64) (x : Nat) (soft : Bool) :
    (q.on s).enterPortBy p x soft = q.on (s.enterPortBy p x soft) := by
  simp [State.enterPortBy, Veil.pinChange]

@[simp] theorem Veil.enterPort (p : Fin 64) (x : Nat) : (q.on s).enterPort p x = q.on (s.enterPort p x) := by
  simp [State.enterPort]

@[simp] theorem Veil.protectPort (p : Fin 64) : protectPort p (q.on s) = q.on (protectPort p s) := by
  simp [Machine.protectPort]

@[simp] theorem Veil.raiseFaultRx (cls rx : Nat) (sc : FaultScope) (detail : Nat) (a : Fin 32) :
    raiseFaultRx cls rx sc detail a (q.on s) = q.on (raiseFaultRx cls rx sc detail a s) := by
  simp [Machine.raiseFaultRx]

@[simp] theorem Veil.raiseFault (cls : Nat) (sc : FaultScope) (detail : Nat) (a : Fin 32) :
    raiseFault cls sc detail a (q.on s) = q.on (raiseFault cls sc detail a s) := by
  simp [Machine.raiseFault]

@[simp] theorem Veil.raiseFaultAll (cls : Nat) (sc : FaultScope) (detail : Nat) (axes : List (Fin 32)) :
    raiseFaultAll cls sc detail axes (q.on s) = q.on (raiseFaultAll cls sc detail axes s) := by
  simp [Machine.raiseFaultAll, Veil.foldl]

end Sys2Proof.Machine
end

section
/-! SUPPORT. What a function that sees no veil keeps: the hidden registers, the engines but for their events, and every record on its
way; and what it gives on two states that differ only behind a veil. -/

namespace Sys2Proof.Machine

/-- A function gives the same under every veil. -/
def Blind (f : State → State) : Prop := ∀ q s, f (Veil.on q s) = q.on (f s)

/-- The veil that hides nothing: the state with its registers in canonical form. -/
def Veil.clear : Veil := ⟨[], fun _ _ => rfl, fun _ => none, []⟩

/-- The veil with records on their way before those of the state. -/
def Veil.before (l : List Record) : Veil := ⟨[], fun _ _ => rfl, fun _ => none, l⟩

/-- The veil with a value in one hidden register. -/
def Veil.word (a : Nat) (v : Word) (h : Hidden a) : Veil :=
  ⟨[(a, v)], fun b hb => by simp [cellGet, show ¬ a = b from fun e => hb (e ▸ h)], fun _ => none, []⟩

/-- The veil with another engine in place of one. -/
def Veil.engine (e : Fin 46) (x : Engine) : Veil := ⟨[], fun _ _ => rfl, fun d => if d = e then some x else none, []⟩

/-- The records on their way at one state are the first of those at another. -/
def Grows (s t : State) : Prop := s.recorder.transit <+: t.recorder.transit

theorem Grows.refl (s : State) : Grows s s := List.prefix_rfl

theorem Grows.trans {s t u : State} (h : Grows s t) (h' : Grows t u) : Grows s u := List.IsPrefix.trans h h'

theorem Grows.of_recorder {s t : State} (h : t.recorder = s.recorder) : Grows s t := by rw [Grows, h]

theorem Logs.grows {s t u : State} {code : RecCode} {kind idx : Nat} (h : Logs s t code kind idx) (g : Grows t u) :
    Logs s u code kind idx := by
  obtain ⟨l, hl, r, hr, hc⟩ := h
  obtain ⟨m, hm⟩ := g
  exact ⟨l ++ m, by rw [← hm, hl, List.append_assoc], r, List.mem_append_left m hr, hc⟩

theorem Grows.logs {s t u : State} {code : RecCode} {kind idx : Nat} (g : Grows s t) (h : Logs t u code kind idx) :
    Logs s u code kind idx := by
  obtain ⟨l, hl, r, hr, hc⟩ := h
  obtain ⟨m, hm⟩ := g
  exact ⟨m ++ l, by rw [hl, ← hm, List.append_assoc], r, List.mem_append_right m hr, hc⟩

theorem record_logs (k : RecKind) (sev kind idx : Nat) (params : List Nat) (s : State) :
    Logs s (record k sev kind idx params s) (.dev k) kind idx :=
  ⟨[mkRecord s (.dev k) sev kind idx params [] false], rfl, _, List.mem_singleton_self _, rfl, rfl, rfl⟩

section
variable {f : State → State} (hf : Blind f) (s : State)
include hf

theorem Blind.grows : Grows s (f s) := by
  have split := hf (Veil.before s.recorder.transit) { s with recorder := { s.recorder with transit := [] } }
  have whole := hf Veil.clear s
  have same : (Veil.before s.recorder.transit).on { s with recorder := { s.recorder with transit := [] } } =
      Veil.clear.on s := by
    simp [Veil.on, Veil.before, Veil.clear, State.eng]
  rw [same, whole] at split
  exact ⟨_, congrArg (fun x : State => x.recorder.transit) split.symm⟩

theorem Blind.reg {a : Nat} (h : Hidden a) : (f s).reg a = s.reg a := by
  have veiled := hf (Veil.word a (s.reg a) h) s
  have same : (Veil.word a (s.reg a) h).on s = Veil.clear.on s := by
    have files : fileSet (canon s.regs) a (s.reg a) = canon s.regs :=
      file_ext (fileWf_fileSet _ _ _ (fileWf_canon _)) (fileWf_canon _) fun b => by
        by_cases hb : a = b
        · subst hb; simp [State.reg]
        · simp [fileGet_fileSet, hb]
    simp [Veil.on, Veil.word, Veil.clear, files]
  rw [same, hf Veil.clear s] at veiled
  simpa [Veil.reg_eq, Veil.word, Veil.clear, cellGet] using congrArg (fun x : State => x.reg a) veiled

/-- Of an engine no more than its events and its homing changes. -/
theorem Blind.eng (e : Fin 46) : (f s).eng e = ((f s).eng e).behind (some (s.eng e)) := by
  have veiled := hf (Veil.engine e (s.eng e)) s
  have same : (Veil.engine e (s.eng e)).on s = Veil.clear.on s := by
    have engines : (fun d => (s.eng d).behind ((Veil.engine e (s.eng e)).engs d)) = fun d => (s.eng d).behind none := by
      funext d
      by_cases h : d = e
      · subst h; simp [Veil.engine, Engine.behind]
      · simp [Veil.engine, Engine.behind, h]
    simp only [Veil.on, engines]
    rfl
  rw [same, hf Veil.clear s] at veiled
  simpa [Veil.eng, Veil.engine, Veil.clear, Engine.behind] using congrArg (fun x : State => x.eng e) veiled

end

end Sys2Proof.Machine
end

section
/-! SUPPORT. O47: the strobes of the period, their loss and their path delay. -/

namespace Sys2Proof.Machine

/-! ## Fields and tiles after an update -/

theorem State.bit_setBit_same (s : State) (a : Nat) (f : Fld) (b : Bool) (h : f.lo + f.width ≤ 32) (hw : f.width = 1) :
    (s.setBit a f b).bit a f = b := by
  rw [State.bit, State.setBit, State.fld_setFld_same s a f _ h, hw]
  cases b <;> rfl

theorem State.bit_setBit_other (s : State) (a : Nat) (f g : Fld) (b : Bool) (hf : f.lo + f.width ≤ 32)
    (hg : g.lo + g.width ≤ 32) (h : f.apart g = true) : (s.setBit a f b).bit a g = s.bit a g := by
  rw [State.bit, State.setBit, State.fld_setFld_other s a f g _ hf hg h, State.bit]

@[simp] theorem State.setBit_tile (s : State) (a : Nat) (f : Fld) (b : Bool) (t : Fin 4) :
    (s.setBit a f b).tile t = s.tile t := (rfl)

@[simp] theorem record_tile (k : RecKind) (sev kind idx : Nat) (params : List Nat) (s : State) (t : Fin 4) :
    (record k sev kind idx params s).tile t = s.tile t := (rfl)

@[simp] theorem record_reg (k : RecKind) (sev kind idx : Nat) (params : List Nat) (s : State) (a : Nat) :
    (record k sev kind idx params s).reg a = s.reg a := (rfl)

/-- The state at a strobe of a tile: the strobe is noted and the hedge runs (R15). -/
def strobeSeen (t : Fin 4) (s : State) : State :=
  (s.modTile t fun x => { x with seen := true, strobe := true, missRun := 0, strobeFault := false }).setBit GLB_HEDGE_STAT
    (GLB_HEDGE_STAT_RUN t) true

theorem strobeSeen_tile (t : Fin 4) (s : State) :
    (strobeSeen t s).tile t = { s.tile t with seen := true, strobe := true, missRun := 0, strobeFault := false } :=
  State.tile_modTile_same s t fun x => { x with seen := true, strobe := true, missRun := 0, strobeFault := false }

theorem strobeSeen_tile_other {t u : Fin 4} (s : State) (h : u ≠ t) : (strobeSeen t s).tile u = s.tile u :=
  State.tile_modTile_other s t u (fun x => { x with seen := true, strobe := true, missRun := 0, strobeFault := false }) h.symm

theorem strobeSeen_reg {t : Fin 4} {a : Nat} (s : State) (h : a ≠ GLB_HEDGE_STAT) : (strobeSeen t s).reg a = s.reg a :=
  State.reg_setFld_far _ _ _ _ _ h.symm

theorem hedgeFields_fit (t : Fin 4) :
    (GLB_HEDGE_STAT_RUN t).lo + (GLB_HEDGE_STAT_RUN t).width ≤ 32 ∧
      (GLB_HEDGE_STAT_FREEWHEEL t).lo + (GLB_HEDGE_STAT_FREEWHEEL t).width ≤ 32 := by
  simp only [GLB_HEDGE_STAT_RUN, GLB_HEDGE_STAT_FREEWHEEL]
  omega

theorem hedgeFields_apart (t : Fin 4) :
    (GLB_HEDGE_STAT_RUN t).apart (GLB_HEDGE_STAT_FREEWHEEL t) = true ∧
      (GLB_HEDGE_STAT_FREEWHEEL t).apart (GLB_HEDGE_STAT_RUN t) = true := by
  simp [Fld.apart, GLB_HEDGE_STAT_RUN, GLB_HEDGE_STAT_FREEWHEEL]

theorem strobeSeen_run (t : Fin 4) (s : State) :
    (strobeSeen t s).bit GLB_HEDGE_STAT (GLB_HEDGE_STAT_RUN t) = true :=
  State.bit_setBit_same _ _ _ _ (hedgeFields_fit t).1 rfl

theorem strobeSeen_freewheel (t : Fin 4) (s : State) :
    (strobeSeen t s).bit GLB_HEDGE_STAT (GLB_HEDGE_STAT_FREEWHEEL t) = s.bit GLB_HEDGE_STAT (GLB_HEDGE_STAT_FREEWHEEL t) :=
  State.bit_setBit_other _ _ _ _ _ (hedgeFields_fit t).1 (hedgeFields_fit t).2 (hedgeFields_apart t).1

/-- A strobe within 50 ns of the count of the tile (R15). -/
theorem periodStrobe_near (t : Fin 4) (ofs : Int) (s : State) (h : ofs.natAbs ≤ 50) :
    periodStrobe t ofs s = (strobeSeen t s).setBit GLB_HEDGE_STAT (GLB_HEDGE_STAT_FREEWHEEL t) false := by
  simp [periodStrobe, strobeSeen, h]

/-- A strobe further off (R15). -/
theorem periodStrobe_far (t : Fin 4) (ofs : Int) (s : State) (h : 50 < ofs.natAbs) :
    periodStrobe t ofs s =
      record .strobeRealign 1 2 t [toBits 32 ofs] ((strobeSeen t s).modTile t fun x => { x with realign := true }) := by
  simp [periodStrobe, strobeSeen, Nat.not_le.2 h]

/-! ## A fault against several axes -/

theorem blind_protectPort (p : Fin 64) : Blind (protectPort p) := fun q s => Veil.protectPort q s p

theorem blind_latchEvent (e : Fin 46) (bit param : Nat) : Blind (latchEvent e bit param) := fun q s =>
  Veil.latchEvent q s e bit param

theorem blind_raiseFault (cls : Nat) (sc : FaultScope) (detail : Nat) (a : Fin 32) : Blind (raiseFault cls sc detail a) :=
  fun q s => Veil.raiseFault q s cls sc detail a

/-- The ports of an axis are protected, or not: only records are added. -/
theorem grows_protectPorts (a : Fin 32) (c : Prop) [Decidable c] (s : State) :
    Grows s (if c then protectPort (s.portOf a true) (protectPort (s.portOf a false) s) else s) := by
  split
  · exact ((blind_protectPort _).grows s).trans ((blind_protectPort _).grows _)
  · exact .refl s

/-- A raised fault has its record (R314). -/
theorem raiseFaultRx_faults (cls rx : Nat) (sc : FaultScope) (detail : Nat) (a : Fin 32) (s : State) :
    Faults s (raiseFaultRx cls rx sc detail a s) cls a := by
  refine (record_logs (.fault cls) (faultSev cls rx) 0 a [detail, sc.scope * 256 + sc.idx, rx] s).grows ?_
  simp only [raiseFaultRx]
  refine Grows.trans (Grows.of_recorder (State.count_recorder _ (MP_FLT_CNT a) MP_FLT_CNT_FAULTS)) ?_
  refine Grows.trans ((blind_latchEvent (supOf (tileOf a)) 16 (cls + a.1 * 65536)).grows _) ?_
  generalize latchEvent _ _ _ _ = z
  split
  · exact Grows.trans (Grows.of_recorder (State.modAxis_recorder ..)) (grows_protectPorts ..)
  · split
    · exact .refl _
    · exact Grows.trans (Grows.of_recorder (by simp)) (grows_protectPorts ..)

theorem raiseFault_faults (cls : Nat) (sc : FaultScope) (detail : Nat) (a : Fin 32) (s : State) :
    Faults s (raiseFault cls sc detail a s) cls a :=
  raiseFaultRx_faults ..

theorem raiseFaultAll_grows (cls : Nat) (sc : FaultScope) (detail : Nat) (l : List (Fin 32)) (s : State) :
    Grows s (raiseFaultAll cls sc detail l s) :=
  Blind.grows (fun q s => Veil.raiseFaultAll q s cls sc detail l) s

/-- A fault raised against several axes has a record for each. -/
theorem raiseFaultAll_faults (cls : Nat) (sc : FaultScope) (detail : Nat) (l : List (Fin 32)) (s : State) (a : Fin 32)
    (ha : a ∈ l) : Faults s (raiseFaultAll cls sc detail l s) cls a := by
  induction l generalizing s with
  | nil => cases ha
  | cons b l ih =>
    rcases List.mem_cons.1 ha with rfl | ha
    · exact (raiseFault_faults cls sc detail a s).grows (raiseFaultAll_grows cls sc detail l _)
    · exact ((blind_raiseFault cls sc detail b).grows s).logs (ih _ ha)

/-- The tiles alone: what is kept while faults are raised. -/
def tilesKept (s : State) : Kept := ⟨False, s.pending, s.out, s.freeCtr, (· = .tiles), s⟩

theorem raiseFaultAll_tiles (cls : Nat) (sc : FaultScope) (detail : Nat) (l : List (Fin 32)) (s : State) :
    (raiseFaultAll cls sc detail l s).tiles = s.tiles := by
  have start : Ok (tilesKept s) s := ⟨False.elim, rfl, List.suffix_rfl, le_rfl, fun p hp => by subst hp; rfl⟩
  obtain ⟨-, -, -, -, kept⟩ := raiseFaultAll_ok cls sc detail l s start (by simp [tilesKept]) (by simp [tilesKept])
    (by simp [tilesKept]) (by simp [tilesKept]) (by simp [tilesKept]) (by simp [tilesKept]) (by simp [tilesKept])
  exact kept .tiles rfl

theorem raiseFaultAll_tile (cls : Nat) (sc : FaultScope) (detail : Nat) (l : List (Fin 32)) (s : State) (u : Fin 4) :
    (raiseFaultAll cls sc detail l s).tile u = s.tile u := by
  rw [State.tile, raiseFaultAll_tiles, State.tile]

theorem mem_tileAxes (t : Fin 4) (a : Fin 32) (h : tileOf a = t) : a ∈ tileAxes t := by
  subst h
  revert a
  decide

/-! ## The statement -/

theorem strobeLoss_due (t : Fin 4) (s : State) (h : 1000 ≤ (s.tile t).missRun) (hf : (s.tile t).strobeFault = false) :
    strobeLoss t s = raiseFaultAll 3 ⟨3, t⟩ (s.tile t).missRun (tileAxes t)
      (s.modTile t fun x => { x with strobeFault := true }) := by
  simp [strobeLoss, h, hf]

theorem strobeLoss_not_due (t : Fin 4) (s : State) (h : (s.tile t).missRun < 1000 ∨ (s.tile t).strobeFault = true) :
    strobeLoss t s = s := by
  refine if_neg ?_
  rcases h with h | h
  · omega
  · simp [h]

theorem periodStrobe_run_hedge (t : Fin 4) (ofs : Int) (s : State) :
    RegsBut [GLB_HEDGE_STAT] s (periodStrobe t ofs s) := by
  intro a ha
  have ha : a ≠ GLB_HEDGE_STAT := by simpa using ha
  rcases Nat.lt_or_ge 50 ofs.natAbs with far | near
  · rw [periodStrobe_far t ofs s far, record_reg]
    exact strobeSeen_reg s ha
  · rw [periodStrobe_near t ofs s near, State.setBit, State.reg_setFld_far _ _ _ _ _ ha.symm]
    exact strobeSeen_reg s ha

theorem periodStrobe_tiles (t : Fin 4) (ofs : Int) (s : State) : TilesBut [t] s (periodStrobe t ofs s) := by
  intro u hu
  have hu : u ≠ t := by simpa using hu
  rcases Nat.lt_or_ge 50 ofs.natAbs with far | near
  · rw [periodStrobe_far t ofs s far, record_tile, State.tile_modTile_other _ _ _ _ hu.symm, strobeSeen_tile_other s hu]
  · rw [periodStrobe_near t ofs s near, State.setBit_tile, strobeSeen_tile_other s hu]

/-- Settles O47: a strobe near and one far off by the updates they make, the fault of the loss by the records of its axes. -/
theorem strobesKeepTilesAligned : Obligations.StrobesKeepTilesAligned := by
  intro s at_ t
  refine ⟨fun ofs => ⟨periodStrobe t ofs (s.reach at_), rfl, ?_⟩, fun due once => ⟨strobeLoss t s, rfl, ?_⟩,
    fun idle => ⟨strobeLoss t s, rfl, strobeLoss_not_due t s idle⟩,
    fun ns => ⟨(s.reach at_).modTile t fun x => { x with pathDelay := ns }, rfl, ?_⟩⟩
  · have regs := periodStrobe_run_hedge t ofs (s.reach at_)
    have tiles := periodStrobe_tiles t ofs (s.reach at_)
    have seen := strobeSeen_tile t (s.reach at_)
    rcases Nat.lt_or_ge 50 ofs.natAbs with far | near
    · rw [periodStrobe_far t ofs _ far] at regs tiles ⊢
      refine ⟨strobeSeen_run t _, ?_, ?_, fun h => by omega, fun _ => ⟨?_, ?_, strobeSeen_freewheel t _⟩, regs, tiles⟩
      · simp [seen]
      · simp [seen]
      · simp
      · exact Grows.logs (Grows.of_recorder rfl) (record_logs ..)
    · rw [periodStrobe_near t ofs _ near] at regs tiles ⊢
      have fits := hedgeFields_fit t
      refine ⟨?_, by simp [seen], by simp [seen], fun _ => ⟨?_, ?_, rfl⟩, fun h => by omega, regs, tiles⟩
      · rw [State.bit_setBit_other _ _ _ _ _ fits.2 fits.1 (hedgeFields_apart t).2, strobeSeen_run]
      · exact State.bit_setBit_same _ _ _ _ fits.2 rfl
      · rw [State.setBit_tile, seen]
        rfl
  · rw [strobeLoss_due t s due once]
    refine ⟨?_, fun a ha => ?_, fun u hu => ?_⟩
    · rw [raiseFaultAll_tile, State.tile_modTile_same]
    · exact Grows.logs (Grows.of_recorder (State.modTile_recorder ..)) (raiseFaultAll_faults _ _ _ _ _ _ (mem_tileAxes t a ha))
    · rw [raiseFaultAll_tile, State.tile_modTile_other _ _ _ _ fun e => hu (by simp [e])]
  · refine ⟨State.tile_modTile_same _ t _, fun u hu => State.tile_modTile_other _ t u _ fun e => hu (by simp [e]), rfl,
      fun p hp => ?_⟩
    cases p with
    | now | tiles => simp at hp
    | _ => rfl

end Sys2Proof.Machine
end

section
/-! SUPPORT. What a port that settles leaves alone of the map that the engines use: the crossbars, and of the status of an engine its
axis and its active image. -/

namespace Sys2Proof.Machine

/-- Neither a crossbar nor a status register of an engine. -/
def Quiet (a : Nat) : Prop :=
  ¬ (0x30000 ≤ a ∧ a < 0x31000 ∧ a % 0x40 = 0) ∧
    ¬ (0x200000 ≤ a ∧ a < 0x300000 ∧ (a % 0x40000 = 0x28 ∨ a % 0x40000 = 0x2C))

/-- The crossbars of the tiles, and the axes and the active images of the engines. -/
def State.still (s : State) : (Fin 4 → Word × Word) × (Fin 46 → Nat × Nat) :=
  (fun t => (s.reg (CFG_XBAR_A t), s.reg (CFG_XBAR_B t)),
    fun e => (s.fld (ENG_STAT e) ENG_STAT_AXIS, s.fld (ENG_STAT e) ENG_STAT_IMG_B))

theorem Quiet.ne_xbar {a : Nat} (h : Quiet a) (t : Fin 4) : a ≠ CFG_XBAR_A t ∧ a ≠ CFG_XBAR_B t := by
  simp only [Quiet] at h
  unfold CFG_XBAR_A CFG_XBAR_B
  omega

theorem Quiet.ne_engStat {a : Nat} (h : Quiet a) (e : Fin 46) : a ≠ ENG_STAT e := by
  simp only [Quiet] at h
  unfold ENG_STAT
  omega

/-! ## Registers that are quiet -/

@[simp] theorem quiet_port (p : Fin 64) :
    Quiet (pwmStat p) ∧ Quiet (gdStat p) ∧ Quiet (GD_STAT (pT p) (pI p)) ∧ Quiet (GD_ACODE (pT p) (pI p)) ∧
    Quiet (GD_CNT2 (pT p) (pI p)) ∧ Quiet (PWM_CNT (pT p) (pI p)) ∧ Quiet (PWM_CNT2 (pT p) (pI p)) ∧
    Quiet (PWM_CARRY (pT p) (pI p)) ∧ Quiet (CMP_STAT (pT p) (pI p)) ∧ Quiet (CR_DUTY (pT p) (pI p)) ∧
    Quiet (CR_INTEG (pT p) (pI p)) := by
  and_intros <;> simp only [pwmStat, gdStat, GD_STAT, GD_ACODE, GD_CNT2, PWM_STAT, PWM_CNT, PWM_CNT2, PWM_CARRY, CMP_STAT,
    CR_DUTY, CR_INTEG, pT, pI] <;> omega

@[simp] theorem quiet_edgeTime (p : Fin 64) (i : Nat) (h : i < 4) : Quiet (GD_TSW (pT p) (pI p) i) := by
  and_intros <;> simp only [GD_TSW, pT, pI] <;> omega

@[simp] theorem quiet_axis (a : Fin 32) :
    Quiet (MP_STAT a) ∧ Quiet (MP_CNT a) ∧ Quiet (MP_CMD_POS_LO a) ∧ Quiet (MP_CMD_VEL_LO a) ∧ Quiet (MP_CMD_ACC_LO a) ∧
    Quiet (MP_CMD_POS_LO a + 4) ∧ Quiet (MP_CMD_VEL_LO a + 4) ∧ Quiet (MP_CMD_ACC_LO a + 4) ∧ Quiet (GR_STAT a) ∧
    Quiet (SF_STAT a) ∧ Quiet (SF_HOME_STAT a) := by
  and_intros <;> simp only [MP_STAT, MP_CNT, MP_CMD_POS_LO, MP_CMD_VEL_LO, MP_CMD_ACC_LO, GR_STAT, SF_STAT, SF_HOME_STAT] <;>
    omega

@[simp] theorem quiet_cabinet (c : Fin 4) :
    Quiet (HIF_CAB_CNT c) ∧ Quiet (HIF_CAB_EVSEQ c) := by
  and_intros <;> simp only [HIF_CAB_CNT, HIF_CAB_EVSEQ] <;> omega

@[simp] theorem quiet_ring (c : Fin 4) (n : Fin 16) : Quiet (HIF_RING_DEV c n) ∧ Quiet (HIF_RING_CNT c n) := by
  and_intros <;> simp only [HIF_RING_DEV, HIF_RING_CNT] <;> omega

@[simp] theorem quiet_events (e : Fin 46) : Quiet (ENG_EVLATCH e) ∧ Quiet (ENG_CNT e) := by
  and_intros <;> simp only [ENG_EVLATCH, ENG_CNT] <;> omega

@[simp] theorem quiet_state : Quiet GLB_STATE := by
  and_intros <;> simp only [GLB_STATE] <;> omega

/-! ## The named updates -/

section
variable (s : State)

@[simp] theorem still_setReg (a : Nat) (v : Word) (h : Quiet a) : (s.setReg a v).still = s.still := by
  simp [State.still, State.reg_setReg, State.fld, h.ne_xbar, h.ne_engStat]

@[simp] theorem still_setFld (a : Nat) (f : Fld) (x : Nat) (h : Quiet a) : (s.setFld a f x).still = s.still :=
  still_setReg s a _ h

@[simp] theorem still_setBit (a : Nat) (f : Fld) (b : Bool) (h : Quiet a) : (s.setBit a f b).still = s.still :=
  still_setReg s a _ h

@[simp] theorem still_countN (a : Nat) (f : Fld) (n : Nat) (h : Quiet a) : (s.countN a f n).still = s.still :=
  still_setReg s a _ h

@[simp] theorem still_count (a : Nat) (f : Fld) (h : Quiet a) : (s.count a f).still = s.still := still_setReg s a _ h

/-- The state of an engine is none of what stands still. -/
@[simp] theorem still_engState (e : Fin 46) (x : Nat) : (s.setFld (ENG_STAT e) ENG_STAT_STATE x).still = s.still := by
  have xbar : ∀ t : Fin 4, ENG_STAT e ≠ CFG_XBAR_A t ∧ ENG_STAT e ≠ CFG_XBAR_B t := by
    intro t
    unfold ENG_STAT CFG_XBAR_A CFG_XBAR_B
    omega
  have fields : ∀ (d : Fin 46) (f : Fld), f.lo + f.width ≤ 32 → ENG_STAT_STATE.apart f = true →
      (s.setFld (ENG_STAT e) ENG_STAT_STATE x).fld (ENG_STAT d) f = s.fld (ENG_STAT d) f := by
    intro d f fits apart
    by_cases h : ENG_STAT e = ENG_STAT d
    · rw [h]; exact State.fld_setFld_other _ _ _ _ _ (by decide) fits apart
    · exact State.fld_setFld_far _ _ _ _ _ _ h
  have regs : ∀ t : Fin 4, (s.setFld (ENG_STAT e) ENG_STAT_STATE x).reg (CFG_XBAR_A t) = s.reg (CFG_XBAR_A t) ∧
      (s.setFld (ENG_STAT e) ENG_STAT_STATE x).reg (CFG_XBAR_B t) = s.reg (CFG_XBAR_B t) := fun t =>
    ⟨State.reg_setFld_far _ _ _ _ _ (xbar t).1, State.reg_setFld_far _ _ _ _ _ (xbar t).2⟩
  simp only [State.still, regs, fields _ ENG_STAT_AXIS (by decide) (by decide),
    fields _ ENG_STAT_IMG_B (by decide) (by decide)]

@[simp] theorem still_modAxis (a : Fin 32) (f : Axis → Axis) : (s.modAxis a f).still = s.still := (rfl)
@[simp] theorem still_modPort (p : Fin 64) (f : Port → Port) : (s.modPort p f).still = s.still := (rfl)
@[simp] theorem still_modEng (e : Fin 46) (f : Engine → Engine) : (s.modEng e f).still = s.still := (rfl)
@[simp] theorem still_modCab (c : Fin 4) (f : Cabinet → Cabinet) : (s.modCab c f).still = s.still := (rfl)
@[simp] theorem still_modRing (c : Fin 4) (n : Fin 16) (f : Ring → Ring) : (s.modRing c n f).still = s.still := (rfl)
@[simp] theorem still_emit (o : Out) : (s.emit o).still = s.still := (rfl)
@[simp] theorem still_candidate (r : Record) : (candidate r s).still = s.still := (rfl)

@[simp] theorem still_ite (c : Prop) [Decidable c] (s t : State) :
    (if c then s else t).still = if c then s.still else t.still := apply_ite State.still c s t

theorem still_foldl {α : Type} (l : List α) (g : State → α → State) (h : ∀ s x, x ∈ l → (g s x).still = s.still) :
    (l.foldl g s).still = s.still := by
  induction l generalizing s with
  | nil => rfl
  | cons x l ih =>
    rw [List.foldl_cons, ih _ fun s y hy => h s y (List.mem_cons_of_mem x hy), h s x (List.mem_cons_self ..)]

/-! ## Settling -/

@[simp] theorem still_modPwm (p : Fin 64) (f : Pwm → Pwm) : (s.modPwm p f).still = s.still := by
  simp [State.modPwm]

@[simp] theorem still_setCodes (p : Fin 64) (x : Rat) (w : Nat) : (setCodes p x w s).still = s.still := by
  simp [setCodes]

@[simp] theorem still_modGd (p : Fin 64) (f : GateDrive → GateDrive) : (s.modGd p f).still = s.still := by
  simp [State.modGd]

@[simp] theorem still_adapt (p : Fin 64) (v : Nat) : (adapt p v s).still = s.still := by
  simp [adapt]

@[simp] theorem still_showTsw (p : Fin 64) : (showTsw p s).still = s.still := by
  exact still_foldl s _ _ fun z i hi => still_setReg z _ _ (quiet_edgeTime p i (List.mem_range.1 hi))

@[simp] theorem still_followAdapt (p : Fin 64) : (followAdapt p s).still = s.still := by
  simp [followAdapt]

@[simp] theorem still_gateValley (p : Fin 64) (v : Nat) : (gateValley p v s).still = s.still := by
  simp [gateValley]

@[simp] theorem still_endLatches (p : Fin 64) : (endLatches p s).still = s.still := by
  simp [endLatches]

@[simp] theorem still_record (k : RecKind) (sev kind idx : Nat) (params : List Nat) :
    (record k sev kind idx params s).still = s.still := by
  simp [record]

@[simp] theorem still_loseEvent (c : Fin 4) : (loseEvent c s).still = s.still := by
  simp [loseEvent]

@[simp] theorem still_nextEvSeq (c : Fin 4) : (nextEvSeq c s).still = s.still := by
  simp [nextEvSeq]

@[simp] theorem still_sendVector (c : Fin 4) (v : Nat) : (sendVector c v s).still = s.still := by
  cases h : (s.cab c).vecs[v]? <;> simp [sendVector, h]

@[simp] theorem still_requestIrq (c : Fin 4) (n : Fin 16) (urgent : Bool) : (requestIrq c n urgent s).still = s.still := by
  simp [requestIrq]

@[simp] theorem still_writeEntry (c : Fin 4) (n : Fin 16) (e : Entry) (urgent : Bool) :
    (writeEntry c n e urgent s).still = s.still := by
  simp [writeEntry]

@[simp] theorem still_writeEvent (c : Fin 4) (n : Fin 16) (b : EvBody) : (writeEvent c n b s).still = s.still := by
  simp [writeEvent]

@[simp] theorem still_eventsLostFirst (c : Fin 4) (n : Fin 16) (time : Nat) : (eventsLostFirst c n time s).still = s.still := by
  simp [eventsLostFirst]

@[simp] theorem still_raiseEvent (c : Fin 4) (b : EvBody) : (raiseEvent c b s).still = s.still := by
  cases h : s.eventRing c b.sev <;> simp [raiseEvent, h]

@[simp] theorem still_raiseDevice (code sev time : Nat) (params : List Int) :
    (raiseDevice code sev time params s).still = s.still := by
  simp [raiseDevice, still_foldl]

@[simp] theorem still_recordVar (k : RecKind) (sev kind idx : Nat) (words : List Nat) :
    (recordVar k sev kind idx words s).still = s.still := by
  simp [recordVar]

@[simp] theorem still_setDevState (new cause : Nat) : (setDevState new cause s).still = s.still := by
  simp [setDevState]

@[simp] theorem still_followPorts : (followPorts s).still = s.still := by
  simp [followPorts]

@[simp] theorem still_movePins (p : Fin 64) (soft : Bool) (y : Rat) : (movePins p soft y s).still = s.still := by
  simp [movePins]

@[simp] theorem still_modLoop (p : Fin 64) (f : Loop → Loop) : (s.modLoop p f).still = s.still := by
  simp [State.modLoop]

@[simp] theorem still_selectMask (p : Fin 64) (x : Rat) (rank m : Nat) : (selectMask p x rank m s).still = s.still := by
  simp [selectMask]

@[simp] theorem still_modLeg (p : Fin 64) (b : Bool) (f : LegGen → LegGen) : (s.modLeg p b f).still = s.still := by
  simp [State.modLeg]

@[simp] theorem still_trimRefresh (p : Fin 64) : (trimRefresh p s).still = s.still := by
  simp [trimRefresh, still_foldl]

@[simp] theorem still_followRefreshing (p : Fin 64) : (followRefreshing p s).still = s.still := by
  simp [followRefreshing]

@[simp] theorem still_insertPulse (p : Fin 64) (v : Nat) (l : Fin 2) : (insertPulse p v s l).still = s.still := by
  cases h : (s.gd p).refreshAt[l] <;> simp [insertPulse, h]

@[simp] theorem still_pinValley (p : Fin 64) (v : Nat) : (pinValley p v s).still = s.still := by
  simp [pinValley]

@[simp] theorem still_setCarry (p : Fin 64) (b : Bool) (c : Nat) : (s.setCarry p b c).still = s.still := by
  simp [State.setCarry]

@[simp] theorem still_noteClamp (p : Fin 64) : (noteClamp p s).still = s.still := by
  simp [noteClamp]

@[simp] theorem still_decidePulse (p : Fin 64) (b : Bool) (r : Planned) : (decidePulse p b r s).still = s.still := by
  simp [decidePulse]

@[simp] theorem still_decideLeg (p : Fin 64) (b : Bool) (z : Rat) (l : List Planned) :
    (decideLeg p b z l s).still = s.still := by
  induction l generalizing s with
  | nil => simp [decideLeg]
  | cons r rs ih => simp [decideLeg, ih]

@[simp] theorem still_walkPins (p : Fin 64) (z : Rat) : (walkPins p z s).still = s.still := by
  simp [walkPins]

@[simp] theorem still_settlePins (p : Fin 64) (z : Rat) : (settlePins p z s).still = s.still := by
  cases h : (s.pwm p).valleyAt <;> simp [settlePins, h]

theorem still_pinChangeAt (p : Fin 64) (soft : Bool) (y : Rat) (f : State → State) (hf : ∀ s, (f s).still = s.still) :
    (pinChangeAt p soft y f s).still = s.still := by
  simp [pinChangeAt, hf]

@[simp] theorem still_setPortState (p : Fin 64) (x : Nat) : (s.setPortState p x).still = s.still := by
  simp [State.setPortState]

@[simp] theorem still_unpower (p : Fin 64) : (unpower p s).still = s.still := by
  simp [unpower]

@[simp] theorem still_leaveRun (p : Fin 64) : (leaveRun p s).still = s.still := by
  simp [leaveRun]

@[simp] theorem still_movePort (p : Fin 64) (x : Nat) : (movePort p x s).still = s.still := by
  simp [movePort]

@[simp] theorem still_followPartner (p : Fin 64) (x : Nat) (loopRan : Bool) (y : Rat) :
    (followPartner p x loopRan y s).still = s.still := by
  cases h : s.partner p <;> simp [followPartner, still_pinChangeAt, h]

@[simp] theorem still_showRaised (a : Fin 32) (raised : Bool) : (showRaised a raised s).still = s.still := by
  simp [showRaised]

@[simp] theorem still_modProf (a : Fin 32) (f : Profile → Profile) : (s.modProf a f).still = s.still := by
  simp [State.modProf]

@[simp] theorem still_keepBase (a : Fin 32) : (keepBase a s).still = s.still := by
  simp [keepBase]

@[simp] theorem still_followQueue (a : Fin 32) : (followQueue a s).still = s.still := by
  simp [followQueue]

@[simp] theorem still_latchEvent (e : Fin 46) (bit : Nat) (param : Nat) : (latchEvent e bit param s).still = s.still := by
  simp [latchEvent]

@[simp] theorem still_axisEvent (a : Fin 32) (bit : Nat) (param : Int) : (axisEvent a bit param s).still = s.still := by
  simp [axisEvent]

@[simp] theorem still_raiseAxis (a : Fin 32) (code sev tag time : Nat) (params : List Int) :
    (raiseAxis a code sev tag time params s).still = s.still := by
  simp [raiseAxis]

@[simp] theorem still_moveDone (a : Fin 32) (tag st : Nat) (target : Int) : (moveDone a tag st target s).still = s.still := by
  simp [moveDone]

@[simp] theorem still_moveEnds (a : Fin 32) (internal : Bool) (tag st : Nat) (target : Int) :
    (moveEnds a internal tag st target s).still = s.still := by
  simp [moveEnds]

@[simp] theorem still_flushQueue (a : Fin 32) (st : Nat) : (flushQueue a st s).still = s.still := by
  simp [flushQueue, still_foldl]

@[simp] theorem still_endMove (a : Fin 32) (st : Nat) : (endMove a st s).still = s.still := by
  cases h : (s.prof a).move <;> simp [endMove, h]

@[simp] theorem still_endHoming (a : Fin 32) : (endHoming a s).still = s.still := by
  simp [endHoming]

@[simp] theorem still_homeDone (a : Fin 32) (tag st : Nat) (v : Int) : (homeDone a tag st v s).still = s.still := by
  simp [homeDone]

@[simp] theorem still_failHoming (a : Fin 32) (reason : Nat) : (failHoming a reason s).still = s.still := by
  cases h : (s.axis a).home <;> simp [failHoming, h]

@[simp] theorem still_modGear (a : Fin 32) (f : Gear → Gear) : (s.modGear a f).still = s.still := by
  simp [State.modGear]

@[simp] theorem still_cancelRelease (a : Fin 32) : (cancelRelease a s).still = s.still := by
  cases h : (s.gear a).relPend <;> simp [cancelRelease, h]

@[simp] theorem still_flushArmed (a : Fin 32) : (flushArmed a s).still = s.still := by
  simp [flushArmed, still_foldl]

@[simp] theorem still_leaveGear (a : Fin 32) : (leaveGear a s).still = s.still := by
  simp [leaveGear]

@[simp] theorem still_gearEngaged (a : Fin 32) (tag st t : Nat) (mref ofs : Int) :
    (gearEngaged a tag st t mref ofs s).still = s.still := by
  simp [gearEngaged]

@[simp] theorem still_cancelEngage (a : Fin 32) : (cancelEngage a s).still = s.still := by
  cases h : (s.gear a).engPend <;> simp [cancelEngage, h]

@[simp] theorem still_modSf (a : Fin 32) (f : StepFollow → StepFollow) : (s.modSf a f).still = s.still := by
  simp [State.modSf]

@[simp] theorem still_leaveFollow (a : Fin 32) : (leaveFollow a s).still = s.still := by
  simp [leaveFollow]

@[simp] theorem still_leaveFollowing (a : Fin 32) : (leaveFollowing a s).still = s.still := by
  simp [leaveFollowing]

@[simp] theorem still_layPlan (a : Fin 32) (t : Rat) (l : List Seg) : (layPlan a t l s).still = s.still := by
  simp [layPlan]

@[simp] theorem still_setPair (lo : Nat) (x : Int) (h : Quiet lo) (h4 : Quiet (lo + 4)) : (s.setPair lo x).still = s.still := by
  simp [State.setPair, h, h4]

@[simp] theorem still_showKin (a : Fin 32) (k : Kin) : (showKin a k s).still = s.still := by
  simp [showKin]

@[simp] theorem still_setAxState (a : Fin 32) (x : Nat) : (s.setAxState a x).still = s.still := by
  simp [State.setAxState]

@[simp] theorem still_freezeAxis (a : Fin 32) (st : Nat) : (freezeAxis a st s).still = s.still := by
  simp [freezeAxis]

@[simp] theorem still_enterDisabled (a : Fin 32) : (enterDisabled a s).still = s.still := by
  simp [enterDisabled]

@[simp] theorem still_enterOff (p : Fin 64) (v : Nat) : (enterOff p v s).still = s.still := by
  simp only [enterOff]
  split
  · rfl
  · generalize hz : State.setReg _ _ _ = z
    have kept : z.still = s.still := by rw [← hz]; simp
    cases z.axisOfPort p <;> simp [kept]

@[simp] theorem still_portValley (p : Fin 64) (v : Nat) : (portValley p v s).still = s.still := by
  simp [portValley]

@[simp] theorem still_endTail (p : Fin 64) : (endTail p s).still = s.still := by
  cases h : (s.pwm p).tail <;> simp [endTail, h]

@[simp] theorem still_settleTo (p : Fin 64) (z : Rat) : (settleTo p z s).still = s.still := by
  cases h : (s.pwm p).valleyAt <;> simp [settleTo, h]

@[simp] theorem still_settlePort (p : Fin 64) : (settlePort p s).still = s.still := by
  cases h : s.partner p <;> simp [settlePort, h]

end

end Sys2Proof.Machine
end

section
/-! SUPPORT. States that differ only behind a veil, and what a settled port has in common with the same port settled in such a state. -/

namespace Sys2Proof.Machine

/-- One state is another but for what a veil hides. -/
def Alike (s t : State) : Prop := ∃ q : Veil, q.on s = Veil.clear.on t

/-- Two states are the same but for the order in which their registers are listed. -/
def Same (s t : State) : Prop := Veil.clear.on s = Veil.clear.on t

theorem Same.symm {s t : State} (h : Same s t) : Same t s := Eq.symm h

theorem Same.alike {s t : State} (h : Same s t) : Alike s t := ⟨Veil.clear, h⟩

theorem Same.reg {s t : State} (h : Same s t) (a : Nat) : t.reg a = s.reg a := by
  simpa [Veil.reg_eq, Veil.clear, cellGet] using (congrArg (fun x : State => x.reg a) h).symm

theorem Same.eng {s t : State} (h : Same s t) (e : Fin 46) : t.eng e = s.eng e := by
  simpa [Veil.eng, Veil.clear, Engine.behind] using (congrArg (fun x : State => x.eng e) h).symm

theorem Same.pending {s t : State} (h : Same s t) : t.pending = s.pending := (congrArg State.pending h).symm

theorem Part.same_symm {p : Part} {s t : State} (h : p.same s t) : p.same t s := by
  cases p <;> exact Eq.symm h

/-- The veil that hides nothing changes no part but the listing of the registers. -/
theorem Veil.clear_part (s : State) (p : Part) (hp : p ≠ .regs) : p.same s (Veil.clear.on s) := by
  cases p with
  | regs => exact absurd rfl hp
  | engines =>
    have engines : (Veil.clear.on s).engines = s.engines :=
      Vector.ext fun i hi => Veil.eng Veil.clear s ⟨i, hi⟩
    exact engines
  | _ => rfl

theorem Same.part {s t : State} (h : Same s t) (p : Part) (hp : p ≠ .regs) : p.same s t := by
  have kept := Veil.clear_part t p hp
  rw [← h] at kept
  exact Part.same_trans (Veil.clear_part s p hp) (Part.same_symm kept)

/-- What no veil hides is the same in states that differ behind one. -/
theorem Alike.read {α : Type} {s t : State} (h : Alike s t) (r : State → α) (hr : ∀ q s, r (Veil.on q s) = r s) : r t = r s := by
  obtain ⟨q, hq⟩ := h
  rw [← hr Veil.clear t, ← hq, hr q s]

theorem Blind.alike {f : State → State} (hf : Blind f) {s t : State} (h : Alike s t) : Alike (f s) (f t) := by
  obtain ⟨q, hq⟩ := h
  exact ⟨q, by rw [← hf q s, hq, hf Veil.clear t]⟩

/-- What settles nothing in a state settles nothing in one that differs behind a veil. -/
theorem Blind.same {f : State → State} (hf : Blind f) {s t : State} (h : Alike s t) (hs : f s = s) : Same t (f t) := by
  obtain ⟨q, hq⟩ := h
  calc Veil.clear.on t = q.on s := hq.symm
    _ = q.on (f s) := by rw [hs]
    _ = f (q.on s) := (hf q s).symm
    _ = f (Veil.clear.on t) := by rw [hq]
    _ = Veil.clear.on (f t) := hf Veil.clear t

/-- The program counter of an engine moves, and it holds something else beside its events. -/
theorem alike_step (s : State) (e : Fin 46) (g : Engine → Engine) (v : Word)
    (hg : (s.eng e).behind (some (g (s.eng e))) = g (s.eng e)) : Alike s ((s.modEng e g).setReg (ENG_PC e) v) := by
  refine ⟨⟨[(ENG_PC e, v)], fun b hb => ?_, fun d => if d = e then some (g (s.eng e)) else none, []⟩, ?_⟩
  · have : ENG_PC e ≠ b := fun h => hb (Or.inr ⟨e, h.symm⟩)
    simp [cellGet, this]
  · have files : fileSet (canon s.regs) (ENG_PC e) v = canon (fileSet s.regs (ENG_PC e) v) :=
      file_ext (fileWf_fileSet _ _ _ (fileWf_canon _)) (fileWf_canon _) fun b => by simp [fileGet_fileSet]
    have engines : (fun d => (s.eng d).behind (if d = e then some (g (s.eng e)) else none)) =
        fun d => (((s.modEng e g).setReg (ENG_PC e) v).eng d).behind none := by
      funext d
      by_cases h : d = e
      · subst h
        simpa [State.eng, State.modEng, State.setEng, State.setReg, Engine.behind] using hg
      · have : e.1 ≠ d.1 := fun x => h (Fin.ext x.symm)
        simp [State.eng, State.modEng, State.setEng, State.setReg, Engine.behind, h, this]
    simp only [Veil.on, Veil.clear, engines, List.foldr_cons, List.foldr_nil, files]
    rfl

/-! ## A port that settles for an access -/

theorem blind_settleFor (a : Nat) : Blind fun s => settleFor s a := by
  intro q s
  unfold settleFor
  cases blockOf a <;> simp

theorem still_settleFor (s : State) (a : Nat) : (settleFor s a).still = s.still := by
  unfold settleFor
  cases blockOf a <;> simp

theorem hidden_pc (e : Fin 46) : Hidden (ENG_PC e) := Or.inr ⟨e, rfl⟩

theorem hidden_aborts : Hidden CFG_XING_CNT := Or.inl rfl

/-! ## What stands still decides what an engine may read and write -/

section
variable {s t : State} (h : t.still = s.still)
include h

theorem axisOfEng_of_still (e : Fin 46) : t.axisOfEng e = s.axisOfEng e := by
  have := congrArg Prod.fst (congrFun (congrArg Prod.snd h) e)
  simp only [State.still] at this
  simp only [State.axisOfEng, this]

theorem imgIdx_of_still (e : Fin 46) : t.imgIdx e = s.imgIdx e := by
  have := congrArg Prod.snd (congrFun (congrArg Prod.snd h) e)
  simp only [State.still] at this
  unfold State.imgIdx State.bit
  rw [this]

theorem portOf_of_still (a : Fin 32) (b : Bool) : t.portOf a b = s.portOf a b := by
  have := congrFun (congrArg Prod.fst h) (tileOf a)
  simp only [State.still, Prod.mk.injEq] at this
  simp only [State.portOf, State.fld, this]

theorem engTile_of_still (e : Fin 46) : t.engTile e = s.engTile e := by
  simp only [State.engTile, axisOfEng_of_still h]

theorem engReads_of_still (e : Fin 46) (a : Nat) : t.engReads e a = s.engReads e a := by
  simp only [State.engReads, axisOfEng_of_still h, engTile_of_still h, portOf_of_still h]

theorem engWrites_of_still (e : Fin 46) (a : Nat) : t.engWrites e a = s.engWrites e a := by
  simp only [State.engWrites, axisOfEng_of_still h, engTile_of_still h, portOf_of_still h]

theorem readOk_of_still (e : Fin 46) (a : Nat) : t.readOk e a = s.readOk e a := by
  simp only [State.readOk, engReads_of_still h]

theorem writeOk_of_still (e : Fin 46) (a : Nat) : t.writeOk e a = s.writeOk e a := by
  simp only [State.writeOk, engReads_of_still h, engWrites_of_still h]

end

end Sys2Proof.Machine
end

section
/-! SUPPORT. The word that an engine executes: the state in which its instruction acts, and what it leaves. -/

namespace Sys2Proof.Machine

/-- The state in which an instruction acts: the program counter at the next word, one instruction and its cycles counted. -/
def State.stepped (s : State) (e : Fin 46) (cyc : Nat) : State :=
  (s.modEng e fun x => { x with count := x.count + 1, cycles := x.cycles + cyc }).setFld (ENG_PC e) ENG_PC_PC (s.pcNext e)

/-- The run of an engine goes on at the next word of its image. -/
structure GoesOn (s t : State) (e : Fin 46) : Prop where
  img : (t.eng e).img = (s.eng e).img
  idx : t.imgIdx e = s.imgIdx e
  pc : t.fld (ENG_PC e) ENG_PC_PC = s.pcNext e

section
variable {s : State} {e : Fin 46} {w : Word} {cyc : Nat} {act : State → EngDo}

/-- An instruction that does something at a word that another follows. -/
theorem engExec_next {t : State} (hw : s.atWord e w) (hn : s.hasWord e (s.pcNext e)) (ha : act (s.stepped e cyc) = .ok t)
    (hg : GoesOn s t e) : engExec e w cyc act s = t := by
  obtain ⟨run, word, op⟩ := hw
  have acts : act ((s.modEng e fun x => { x with count := x.count + 1, cycles := x.cycles + cyc }).setFld (ENG_PC e)
      ENG_PC_PC (s.fld (ENG_PC e) ENG_PC_PC + 1)) = .ok t := ha
  have room : ¬ ((t.eng e).img[t.imgIdx e]).words.length ≤ t.fld (ENG_PC e) ENG_PC_PC := by
    simpa only [hg.img, hg.idx, hg.pc] using Nat.not_le.2 hn.1
  simp [engExec, run, word, op, acts]
  exact fun _ past => absurd past room

/-- An instruction that stops its engine. -/
theorem engExec_stop {c : Nat} (hw : s.atWord e w) (ha : act (s.stepped e cyc) = .stop c) :
    engExec e w cyc act s = stopInRun e c s := by
  obtain ⟨run, word, op⟩ := hw
  have acts : act ((s.modEng e fun x => { x with count := x.count + 1, cycles := x.cycles + cyc }).setFld (ENG_PC e)
      ENG_PC_PC (s.fld (ENG_PC e) ENG_PC_PC + 1)) = .stop c := ha
  simp [engExec, run, word, op, acts]

end

section
variable (s : State) (e : Fin 46) (cyc : Nat)

theorem stepped_eng : (s.stepped e cyc).eng e =
    { s.eng e with count := (s.eng e).count + 1, cycles := (s.eng e).cycles + cyc } :=
  State.eng_modEng_same s e fun x => { x with count := x.count + 1, cycles := x.cycles + cyc }

theorem stepped_eng_other (d : Fin 46) (h : d ≠ e) : (s.stepped e cyc).eng d = s.eng d :=
  State.eng_modEng_other s e d (fun x => { x with count := x.count + 1, cycles := x.cycles + cyc }) h.symm

theorem stepped_reg (a : Nat) (h : a ≠ ENG_PC e) : (s.stepped e cyc).reg a = s.reg a :=
  State.reg_setFld_far _ _ _ _ _ h.symm

theorem stepped_pc (h : s.pcNext e < 65536) : (s.stepped e cyc).fld (ENG_PC e) ENG_PC_PC = s.pcNext e := by
  rw [State.stepped, State.fld_setFld_same _ _ _ _ (by decide)]
  exact Nat.mod_eq_of_lt h

theorem stepped_id : (s.stepped e cyc).fld (ENG_PC e) ENG_PC_ID = s.fld (ENG_PC e) ENG_PC_ID := by
  rw [State.stepped, State.fld_setFld_other _ _ _ _ _ (by decide) (by decide) (by decide)]
  rfl

theorem stepped_still : (s.stepped e cyc).still = s.still := by
  have quiet : Quiet (ENG_PC e) := by
    and_intros <;> simp only [ENG_PC] <;> omega
  simp [State.stepped, quiet]

theorem stepped_part (p : Part) (h : p ∉ [Part.regs, .engines]) : p.same s (s.stepped e cyc) := by
  cases p with
  | regs | engines => simp at h
  | _ => rfl

theorem stepped_alike : Alike s (s.stepped e cyc) :=
  alike_step s e _ _ rfl

theorem stepped_kreg (i : Fin 16) : (s.stepped e cyc).kreg e i = s.kreg e i := by
  rw [State.kreg, stepped_eng, State.kreg]

theorem stepped_busAddr (a : Fin 16) (imm : BitVec 18) : (s.stepped e cyc).busAddr e a imm = s.busAddr e a imm := by
  rw [State.busAddr, stepped_kreg, State.busAddr]

end

end Sys2Proof.Machine
end

section
/-! SUPPORT. A word of the axis bus as an engine reads it does not see a veil. -/

namespace Sys2Proof.Machine

theorem blockOf_low {a : Nat} (h : a < 0x30000) : blockOf a = .global ∨ blockOf a = .net ∨ blockOf a = .recorder := by
  unfold blockOf
  by_cases h1 : a < 0x10000
  · rw [if_pos h1]; exact Or.inl rfl
  · by_cases h2 : a < 0x20000
    · rw [if_neg h1, if_pos h2]; exact Or.inr (Or.inl rfl)
    · rw [if_neg h1, if_neg h2, if_pos h]; exact Or.inr (Or.inr rfl)

theorem blockOf_high {a : Nat} (h : 0x40000 ≤ a) (d : Fin 46) : blockOf a ≠ .engine d := by
  unfold blockOf
  rw [if_neg (by omega), if_neg (by omega), if_neg (by omega), if_neg (by omega), if_neg (by omega)]
  dsimp only
  split_ifs <;> exact Block.noConfusion

theorem blockOf_engine_range {a : Nat} {d : Fin 46} (h : blockOf a = .engine d) : 0x30000 ≤ a ∧ a < 0x40000 := by
  constructor
  · by_contra low
    rcases blockOf_low (Nat.not_le.1 low) with b | b | b <;> rw [b] at h <;> cases h
  · by_contra high
    exact blockOf_high (Nat.not_lt.1 high) d h

theorem blockOf_of_engine_range {a : Nat} (h : 0x30000 ≤ a ∧ a < 0x40000) :
    blockOf a = .engine (finEng ((a - 0x30000) / 0x40)) ∨ blockOf a = .none := by
  have g : ¬ a < 0x10000 ∧ ¬ a < 0x20000 ∧ ¬ a < 0x30000 := by omega
  unfold blockOf
  rw [if_neg g.1, if_neg g.2.1, if_neg g.2.2]
  by_cases e : a < 0x30000 + 46 * 0x40
  · rw [if_pos e]; exact Or.inl rfl
  · rw [if_neg e, if_pos h.2]; exact Or.inr rfl

theorem Hidden.range {a : Nat} (h : Hidden a) : a = 0x20C ∨ (0x30000 ≤ a ∧ a < 0x30B80) := by
  rcases h with rfl | ⟨e, rfl⟩
  · exact Or.inl rfl
  · unfold ENG_PC
    omega

/-- The registers that every program may read are none of an engine (R211). -/
theorem status_range {a : Nat} (h : a = 0x20C ∨ (0x30000 ≤ a ∧ a < 0x40000)) :
    (a == LT_NOW_LO || a == LT_NOW_HI || a == LT_STAT || a == GLB_HEDGE_STAT ||
      (List.range 8).any fun v => a == NET_VM_STAT v) = false := by
  simp only [Bool.or_eq_false_iff, beq_eq_false_iff_ne, List.any_eq_false, List.mem_range, beq_iff_eq, LT_NOW_LO,
    LT_NOW_HI, LT_STAT, GLB_HEDGE_STAT, NET_VM_STAT]
  refine ⟨⟨⟨⟨?_, ?_⟩, ?_⟩, ?_⟩, fun v hv => ?_⟩ <;> omega

/-- An engine reads neither a hidden register nor one of an engine (R211). -/
theorem engReads_range {s : State} {e : Fin 46} {a : Nat} (h : s.engReads e a = true) :
    ¬ (a = 0x20C ∨ (0x30000 ≤ a ∧ a < 0x40000)) := by
  intro out
  have status := status_range out
  have low : ¬ 0x7FFF00 ≤ a := by omega
  have block : blockOf a = .global ∨ (∃ d, blockOf a = .engine d) ∨ blockOf a = .none := by
    rcases out with rfl | out
    · exact Or.inl rfl
    · rcases blockOf_of_engine_range out with b | b
      · exact Or.inr (Or.inl ⟨_, b⟩)
      · exact Or.inr (Or.inr b)
  simp only [State.engReads, status] at h
  rcases block with b | ⟨d, b⟩ | b <;> simp only [b, low] at h <;> split at h <;> simp at h
  all_goals cases hx : s.axisOfEng e <;> simp [hx] at h

/-! ## A read behind a veil -/

theorem not_hidden_of_range {a : Nat} (h : ¬ (a = 0x20C ∨ (0x30000 ≤ a ∧ a < 0x40000))) : ¬ Hidden a := by
  intro hidden
  rcases hidden.range with r | r <;> omega

@[simp] theorem view_registers_not_hidden (x : Nat) :
    ¬ Hidden (LT_TILE_MODE x) ∧ ¬ Hidden (MP_CTRL x) ∧ ¬ Hidden (CR_TAB x) := by
  and_intros <;> apply not_hidden_of_le <;> simp only [LT_TILE_MODE, MP_CTRL, CR_TAB] <;> omega

section
variable (q : Veil) (s : State)

@[simp] theorem Veil.winBank (x : Fin 32) : (q.on s).winBank x = s.winBank x := by simp [State.winBank]

@[simp] theorem Veil.windowWord (x : Fin 32) (a : Nat) : (q.on s).windowWord x a = s.windowWord x a := by
  simp [State.windowWord]

@[simp] theorem Veil.modeDev : (q.on s).modeDev = s.modeDev := by simp [State.modeDev]

@[simp] theorem Veil.cabAxes (c : Fin 4) : (q.on s).cabAxes c = s.cabAxes c := by simp [State.cabAxes]

theorem Veil.view {a : Nat} (h : ¬ (a = 0x20C ∨ (0x30000 ≤ a ∧ a < 0x40000))) : (q.on s).view a = s.view a := by
  have seen := not_hidden_of_range h
  have block : ∀ d, blockOf a ≠ .engine d := fun d b => h (Or.inr (blockOf_engine_range b))
  unfold State.view
  cases b : blockOf a with
  | engine d => exact absurd b (block d)
  | axis x => cases w : s.windowWord x a <;> simp [seen, w]
  | _ => simp [seen]

theorem Veil.engRead {a : Nat} (e : Fin 46) (h : ¬ (a = 0x20C ∨ (0x30000 ≤ a ∧ a < 0x40000))) :
    (q.on s).engRead e a = s.engRead e a := by
  have candidate : (q.on s).candidateOf e = s.candidateOf e := rfl
  simp only [State.engRead, candidate, Veil.view q s h]

end

end Sys2Proof.Machine
end

section
/-! SUPPORT. Reads of the axis bus by an engine (R203, R211, R255). -/

namespace Sys2Proof.Machine

/-! ## Counting -/

theorem State.fld_count_same (s : State) (a : Nat) (f : Fld) (h : f.lo + f.width ≤ 32) :
    (s.count a f).fld a f = min (s.fld a f + 1) (2 ^ f.width - 1) := by
  have := Nat.two_pow_pos f.width
  rw [State.count, State.countN, State.fld_setFld_same _ _ _ _ h]
  exact Nat.mod_eq_of_lt (by omega)

theorem State.reg_count_other (s : State) (a b : Nat) (f : Fld) (h : a ≠ b) : (s.count a f).reg b = s.reg b :=
  State.reg_setReg_other s a b _ h

theorem record_fld (k : RecKind) (sev kind idx : Nat) (params : List Nat) (s : State) (a : Nat) (f : Fld) :
    (record k sev kind idx params s).fld a f = s.fld a f := by
  rw [State.fld, record_reg, State.fld]

/-! ## Updates that an access makes beside its port -/

section
variable (s : State) (e : Fin 46)

@[simp] theorem setK_reg (i : Fin 16) (v : Word) (a : Nat) : (s.setK e i v).reg a = s.reg a := (rfl)

@[simp] theorem setK_eng (i : Fin 16) (v : Word) :
    (s.setK e i v).eng e = { s.eng e with k := (s.eng e).k.set i.1 v } :=
  State.eng_modEng_same s e fun x => { x with k := x.k.set i.1 v }

theorem setK_eng_other (i : Fin 16) (v : Word) (d : Fin 46) (h : d ≠ e) : (s.setK e i v).eng d = s.eng d :=
  State.eng_modEng_other s e d (fun x => { x with k := x.k.set i.1 v }) h.symm

@[simp] theorem setK_still (i : Fin 16) (v : Word) : (s.setK e i v).still = s.still := (rfl)

theorem setK_part (i : Fin 16) (v : Word) (p : Part) (h : p ≠ .engines) : p.same s (s.setK e i v) := by
  cases p with
  | engines => exact absurd rfl h
  | _ => rfl

@[simp] theorem regAbort_eng (d : Fin 46) : (regAbort s).eng d = s.eng d := (rfl)

theorem regAbort_reg (a : Nat) (h : a ≠ CFG_XING_CNT) : (regAbort s).reg a = s.reg a := by
  rw [regAbort, record_reg, State.reg_count_other s _ _ _ h.symm]

@[simp] theorem regAbort_still : (regAbort s).still = s.still := by
  have quiet : Quiet CFG_XING_CNT := by
    and_intros <;> decide
  simp [regAbort, quiet]

theorem regAbort_counts : Counts s (regAbort s) CFG_XING_CNT CFG_XING_CNT_REG_ABORT := by
  rw [Counts, regAbort, record_fld, State.fld_count_same _ _ _ (by decide)]

theorem regAbort_logs : Logs s (regAbort s) (.dev .regAbort) 4 0 :=
  Grows.logs (Grows.of_recorder rfl) (record_logs .regAbort 1 4 0 [] (s.count CFG_XING_CNT CFG_XING_CNT_REG_ABORT))

theorem pc_ne_aborts : ENG_PC e ≠ CFG_XING_CNT := by
  unfold ENG_PC CFG_XING_CNT
  omega

end

/-! ## The port of an access -/

section
variable (s : State) (e : Fin 46) (cyc a : Nat)

/-- The state in which a read acts: the port of its address as it is at that time. -/
def State.accessed : State := settleFor (s.stepped e cyc) a

theorem settleFor_stepped : settleFor (s.stepped e cyc) a = s.accessed e cyc a := (rfl)

theorem accessed_reg {b : Nat} (h : Hidden b) : (s.accessed e cyc a).reg b = (s.stepped e cyc).reg b :=
  (blind_settleFor a).reg (s.stepped e cyc) h

theorem accessed_eng :
    ((s.accessed e cyc a).eng e).k = (s.eng e).k ∧ ((s.accessed e cyc a).eng e).img = (s.eng e).img := by
  have kept := (blind_settleFor a).eng (s.stepped e cyc) e
  have k := congrArg Engine.k kept
  have img := congrArg Engine.img kept
  simp only [Engine.behind, stepped_eng] at k img
  exact ⟨k, img⟩

theorem accessed_still : (s.accessed e cyc a).still = s.still := by
  rw [State.accessed, still_settleFor, stepped_still]

theorem accessed_grows : Grows s (s.accessed e cyc a) :=
  Grows.trans (Grows.of_recorder rfl) ((blind_settleFor a).grows (s.stepped e cyc))

theorem accessed_engRead {b : Nat} (h : s.engReads e b = true) :
    (s.accessed e cyc a).engRead e b = (settleFor s a).engRead e b :=
  ((blind_settleFor a).alike (stepped_alike s e cyc)).read (fun x => x.engRead e b) fun q x =>
    Veil.engRead q x e (engReads_range h)

/-- A port that needs no settling needs none in the state of the access. -/
theorem accessed_same (h : settleFor s a = s) : Same (s.stepped e cyc) (s.accessed e cyc a) :=
  (blind_settleFor a).same (stepped_alike s e cyc) h

variable {s e cyc a}

/-- The run goes on where an access left the port, and of the engine but its general registers. -/
theorem accessed_goesOn {t : State} (hn : s.hasWord e (s.pcNext e)) (hs : t.still = (s.accessed e cyc a).still)
    (hi : (t.eng e).img = ((s.accessed e cyc a).eng e).img) (hp : t.reg (ENG_PC e) = (s.accessed e cyc a).reg (ENG_PC e)) :
    GoesOn s t e where
  img := hi.trans (accessed_eng s e cyc a).2
  idx := imgIdx_of_still (hs.trans (accessed_still s e cyc a)) e
  pc := by
    rw [State.fld, hp, accessed_reg s e cyc a (hidden_pc e)]
    exact stepped_pc s e cyc hn.2

end

/-- What a read of general registers leaves where its port needed no settling. -/
theorem executes_of_read {s t : State} {e : Fin 46} {cyc a : Nat} {k : Vector Word 16} (hn : s.hasWord e (s.pcNext e))
    (hs : settleFor s a = s) (hr : ∀ b, t.reg b = (s.accessed e cyc a).reg b)
    (he : t.eng e = { (s.accessed e cyc a).eng e with k := k })
    (ho : ∀ d, d ≠ e → t.eng d = (s.accessed e cyc a).eng d)
    (hp : ∀ p, p ≠ Part.engines → p.same (s.accessed e cyc a) t)
    (hq : t.pending = (s.accessed e cyc a).pending) :
    Executes s t e cyc (s.pcNext e) { s.eng e with k := k } := by
  have same := accessed_same s e cyc a hs
  refine ⟨?_, ?_, ?_, fun b hb => ?_, fun d hd => ?_, hq.trans same.pending, fun p hp' => ?_⟩
  · rw [State.fld, hr, same.reg]
    exact stepped_pc s e cyc hn.2
  · rw [State.fld, hr, same.reg]
    exact stepped_id s e cyc
  · rw [he, same.eng, stepped_eng]
  · rw [hr, same.reg, stepped_reg s e cyc b (by simpa using hb)]
  · have hd : d ≠ e := by simpa using hd
    rw [ho d hd, same.eng, stepped_eng_other s e cyc d hd]
  · have hpr : p ≠ .regs ∧ p ≠ .engines := by simpa using hp'
    exact Part.same_trans (stepped_part s e cyc p hp') (Part.same_trans (same.part p hpr.1) (hp p hpr.2))

end Sys2Proof.Machine
end

section
/-! SUPPORT. ABRD and ABRDP (R203, R211, R255). -/

namespace Sys2Proof.Machine

section
variable {s : State} {e : Fin 46} {d a : Fin 16} {imm : BitVec 18} {cross : Nat}

theorem exec_abrd (lost : Bool) : exec (.abrd e d a imm cross lost) s = execAbrd e d a imm cross lost s := rfl

theorem exec_abrdp (lost : Bool) : exec (.abrdp e d a imm cross lost) s = execAbrdp e d a imm cross lost s := rfl

theorem readOk_reads {b : Nat} (h : s.readOk e b = true) : s.engReads e b = true := by
  simp only [State.readOk, Bool.and_eq_true] at h
  exact h.2

/-- The word that ABRD reads, 0 where the access is lost, in kd of the engine. -/
def abrdDone (s : State) (e : Fin 46) (d a : Fin 16) (imm : BitVec 18) (cross : Nat) (lost : Bool) : State :=
  let addr := s.busAddr e a imm
  let z := s.accessed e (s.readCycles e addr cross) addr
  if lost then (regAbort z).setK e d 0 else z.setK e d ((settleFor s addr).engRead e addr)

theorem execAbrd_done (lost : Bool) (hn : s.hasWord e (s.pcNext e)) (hr : s.readOk e (s.busAddr e a imm) = true)
    (hw : s.atWord e (wI 0x2C d a imm)) : execAbrd e d a imm cross lost s = .next (abrdDone s e d a imm cross lost) := by
  unfold execAbrd
  rw [engExec_next (t := abrdDone s e d a imm cross lost) hw hn]
  · simp only [stepped_busAddr, settleFor_stepped, readOk_of_still (accessed_still ..), hr, if_true, abrdDone,
      accessed_engRead _ _ _ _ (readOk_reads hr)]
  · unfold abrdDone
    cases lost
    · exact accessed_goesOn hn (by simp) (by simp) rfl
    · exact accessed_goesOn hn (by simp) (by simp) (regAbort_reg _ _ (pc_ne_aborts e))

/-- ABRDP does the same with the word after it, in k(d + 1). -/
def abrdpDone (s : State) (e : Fin 46) (d a : Fin 16) (imm : BitVec 18) (cross : Nat) (lost : Bool) : State :=
  let addr := s.busAddr e a imm
  let z := s.accessed e (s.readCycles e addr cross) addr
  if lost then ((regAbort z).setK e d 0).setK e (kAfter d 1) 0
  else (z.setK e d ((settleFor s addr).engRead e addr)).setK e (kAfter d 1) ((settleFor s addr).engRead e (addr + 4))

theorem execAbrdp_done (lost : Bool) (hn : s.hasWord e (s.pcNext e)) (hr : s.readOk e (s.busAddr e a imm) = true)
    (hr' : s.readOk e (s.busAddr e a imm + 4) = true) (hd : d.1 ≤ 14) (hw : s.atWord e (wI 0x2E d a imm)) :
    execAbrdp e d a imm cross lost s = .next (abrdpDone s e d a imm cross lost) := by
  unfold execAbrdp
  rw [engExec_next (t := abrdpDone s e d a imm cross lost) hw hn]
  · simp only [stepped_busAddr, settleFor_stepped, readOk_of_still (stepped_still ..), hr, hr', Nat.not_lt.2 hd, if_false,
      Bool.and_self, if_true, abrdpDone, accessed_engRead _ _ _ _ (readOk_reads hr), accessed_engRead _ _ _ _ (readOk_reads hr')]
  · unfold abrdpDone
    cases lost
    · exact accessed_goesOn hn (by simp) (by simp) rfl
    · exact accessed_goesOn hn (by simp) (by simp) (regAbort_reg _ _ (pc_ne_aborts e))

end

end Sys2Proof.Machine
end

section
/-! SUPPORT. What ABRD and ABRDP leave. -/

namespace Sys2Proof.Machine

section
variable (s : State) (e : Fin 46) (d a : Fin 16) (imm : BitVec 18) (cross : Nat)

theorem accessed_pc (cyc b : Nat) (hn : s.hasWord e (s.pcNext e)) :
    (s.accessed e cyc b).fld (ENG_PC e) ENG_PC_PC = s.pcNext e := by
  rw [State.fld, accessed_reg s e cyc b (hidden_pc e)]
  exact stepped_pc s e cyc hn.2

/-- A lost access counts once, whatever its port did meanwhile. -/
theorem accessed_abort (cyc b : Nat) (t : State) (ht : ∀ c, t.reg c = (regAbort (s.accessed e cyc b)).reg c)
    (hr : t.recorder = (regAbort (s.accessed e cyc b)).recorder) :
    Counts s t CFG_XING_CNT CFG_XING_CNT_REG_ABORT ∧ Logs s t (.dev .regAbort) 4 0 := by
  constructor
  · have before : (s.accessed e cyc b).fld CFG_XING_CNT CFG_XING_CNT_REG_ABORT = s.fld CFG_XING_CNT CFG_XING_CNT_REG_ABORT := by
      rw [State.fld, accessed_reg s e cyc b hidden_aborts, stepped_reg s e cyc _ (pc_ne_aborts e).symm, State.fld]
    have counted := regAbort_counts (s.accessed e cyc b)
    rw [Counts, before] at counted
    rw [Counts, State.fld, ht]
    exact counted
  · exact ((accessed_grows s e cyc b).logs (regAbort_logs _)).grows (Grows.of_recorder hr)

theorem abrdDone_k (lost : Bool) : ((abrdDone s e d a imm cross lost).eng e).k = (s.eng e).k.set d.1
    (if lost then 0 else (settleFor s (s.busAddr e a imm)).engRead e (s.busAddr e a imm)) := by
  unfold abrdDone
  cases lost <;> simp [(accessed_eng ..).1]

theorem abrdpDone_k (lost : Bool) : ((abrdpDone s e d a imm cross lost).eng e).k = ((s.eng e).k.set d.1
    (if lost then 0 else (settleFor s (s.busAddr e a imm)).engRead e (s.busAddr e a imm))).set (kAfter d 1).1
    (if lost then 0 else (settleFor s (s.busAddr e a imm)).engRead e (s.busAddr e a imm + 4)) := by
  unfold abrdpDone
  cases lost <;> simp [(accessed_eng ..).1]

theorem abrdDone_pc (lost : Bool) (hn : s.hasWord e (s.pcNext e)) :
    (abrdDone s e d a imm cross lost).fld (ENG_PC e) ENG_PC_PC = s.pcNext e := by
  unfold abrdDone
  cases lost
  · exact accessed_pc s e _ _ hn
  · rw [State.fld, if_pos rfl, setK_reg, regAbort_reg _ _ (pc_ne_aborts e)]
    exact accessed_pc s e _ _ hn

theorem abrdpDone_pc (lost : Bool) (hn : s.hasWord e (s.pcNext e)) :
    (abrdpDone s e d a imm cross lost).fld (ENG_PC e) ENG_PC_PC = s.pcNext e := by
  unfold abrdpDone
  cases lost
  · exact accessed_pc s e _ _ hn
  · rw [State.fld, if_pos rfl, setK_reg, setK_reg, regAbort_reg _ _ (pc_ne_aborts e)]
    exact accessed_pc s e _ _ hn

theorem abrdDone_aborts : Counts s (abrdDone s e d a imm cross true) CFG_XING_CNT CFG_XING_CNT_REG_ABORT ∧
    Logs s (abrdDone s e d a imm cross true) (.dev .regAbort) 4 0 :=
  accessed_abort s e _ _ _ (fun _ => rfl) rfl

theorem abrdDone_executes (hn : s.hasWord e (s.pcNext e)) (hs : settleFor s (s.busAddr e a imm) = s) :
    Executes s (abrdDone s e d a imm cross false) e (s.readCycles e (s.busAddr e a imm) cross) (s.pcNext e)
      { s.eng e with k := (s.eng e).k.set d.1 (s.engRead e (s.busAddr e a imm)) } := by
  refine executes_of_read hn hs (fun _ => rfl) ?_ (fun x hx => setK_eng_other _ _ _ _ x hx)
    (fun p hp => setK_part _ _ _ _ p hp) rfl
  simp [abrdDone, hs, (accessed_eng ..).1]

theorem abrdpDone_executes (hn : s.hasWord e (s.pcNext e)) (hs : settleFor s (s.busAddr e a imm) = s) :
    Executes s (abrdpDone s e d a imm cross false) e (s.readCycles e (s.busAddr e a imm) cross) (s.pcNext e)
      { s.eng e with k := ((abrdpDone s e d a imm cross false).eng e).k } := by
  refine executes_of_read hn hs (fun _ => rfl) ?_
    (fun x hx => (setK_eng_other _ _ _ _ x hx).trans (setK_eng_other _ _ _ _ x hx))
    (fun p hp => Part.same_trans (setK_part _ _ _ _ p hp) (setK_part _ _ _ _ p hp)) rfl
  simp [abrdpDone]

end

end Sys2Proof.Machine
end

section
/-! SUPPORT. Posted writes of an engine (R205, R212), those that are lost (R255), and those of an axis engine that wait for the next
boundary (R20). -/

namespace Sys2Proof.Machine

/-- A posted write is entered: what it stalls for counts as cycles (R205, R212). -/
def Engine.post (x : Engine) (len : Nat) : Engine :=
  let c := x.cycles + stallCycles x.posted x.cycles
  { x with cycles := c, posted := (x.posted.filter fun y => decide (c < y)) ++ [c + len] }

/-- Several posted writes in a row. -/
def Engine.posts (len : Nat) : Nat → Engine → Engine
  | 0, x => x
  | n + 1, x => Engine.posts len n (x.post len)

theorem Engine.posts_keeps (len n : Nat) (x : Engine) :
    (x.posts len n).k = x.k ∧ (x.posts len n).img = x.img ∧ (x.posts len n).due = x.due ∧
      (x.behind (some (x.posts len n))) = x.posts len n := by
  induction n generalizing x with
  | zero => exact ⟨rfl, rfl, rfl, rfl⟩
  | succ n ih =>
    obtain ⟨k, img, due, events⟩ := ih (x.post len)
    exact ⟨k, img, due, events⟩

theorem State.modEng_modEng (s : State) (e : Fin 46) (f g : Engine → Engine) :
    (s.modEng e f).modEng e g = s.modEng e fun x => g (f x) := by
  simp [State.modEng, State.setEng, State.eng]

theorem State.modEng_self (s : State) (e : Fin 46) : (s.modEng e fun x => x) = s := by
  simp [State.modEng, State.setEng, State.eng]

theorem postWrites_eq (e : Fin 46) (len n : Nat) (s : State) : postWrites e len n s = s.modEng e (Engine.posts len n) := by
  induction n generalizing s with
  | zero => exact (State.modEng_self s e).symm
  | succ n ih =>
    rw [postWrites, ih, State.modEng_modEng]
    rfl

/-- The state in which the `n` writes of an instruction land: it has run, and they are posted. -/
def State.afterPost (s : State) (e : Fin 46) (len n : Nat) : State := postWrites e len n (s.stepped e n)

section
variable (s : State) (e : Fin 46) (len n : Nat)

theorem afterPost_eng : (s.afterPost e len n).eng e =
    Engine.posts len n { s.eng e with count := (s.eng e).count + 1, cycles := (s.eng e).cycles + n } := by
  rw [State.afterPost, postWrites_eq, State.eng_modEng_same, stepped_eng]

theorem afterPost_eng_other (d : Fin 46) (h : d ≠ e) : (s.afterPost e len n).eng d = s.eng d := by
  rw [State.afterPost, postWrites_eq, State.eng_modEng_other _ _ _ _ h.symm, stepped_eng_other s e n d h]

theorem afterPost_reg_stepped (a : Nat) : (s.afterPost e len n).reg a = (s.stepped e n).reg a := by
  rw [State.afterPost, postWrites_eq]
  rfl

theorem afterPost_reg (a : Nat) (h : a ≠ ENG_PC e) : (s.afterPost e len n).reg a = s.reg a := by
  rw [afterPost_reg_stepped, stepped_reg s e n a h]

theorem afterPost_pc (h : s.pcNext e < 65536) : (s.afterPost e len n).fld (ENG_PC e) ENG_PC_PC = s.pcNext e := by
  rw [State.fld, afterPost_reg_stepped]
  exact stepped_pc s e n h

theorem afterPost_still : (s.afterPost e len n).still = s.still := by
  rw [State.afterPost, postWrites_eq, still_modEng, stepped_still]

theorem afterPost_part (p : Part) (h : p ∉ [Part.regs, .engines]) : p.same s (s.afterPost e len n) := by
  rw [State.afterPost, postWrites_eq]
  cases p with
  | regs | engines => simp at h
  | _ => rfl

theorem afterPost_pending : (s.afterPost e len n).pending = s.pending := by
  rw [State.afterPost, postWrites_eq]
  rfl

theorem State.modEng_setReg (t : State) (f : Engine → Engine) (a : Nat) (v : Word) :
    (t.setReg a v).modEng e f = (t.modEng e f).setReg a v := (rfl)

theorem afterPost_alike : Alike s (s.afterPost e len n) := by
  rw [State.afterPost, postWrites_eq, State.stepped, State.setFld, State.modEng_setReg, State.modEng_modEng]
  exact alike_step s e _ _ (Engine.posts_keeps len n _).2.2.2

theorem afterPost_kept : ((s.afterPost e len n).eng e).k = (s.eng e).k ∧ ((s.afterPost e len n).eng e).img = (s.eng e).img ∧
    ((s.afterPost e len n).eng e).due = (s.eng e).due := by
  rw [afterPost_eng]
  obtain ⟨k, img, due, -⟩ := Engine.posts_keeps len n
    { s.eng e with count := (s.eng e).count + 1, cycles := (s.eng e).cycles + n }
  exact ⟨k, img, due⟩

theorem afterPost_kreg (i : Fin 16) : (s.afterPost e len n).kreg e i = s.kreg e i := by
  rw [State.kreg, (afterPost_kept s e len n).1, State.kreg]

/-- The run goes on after writes that leave the program counter, the status and the images of the engine. -/
theorem afterPost_goesOn {t : State} (hn : s.hasWord e (s.pcNext e))
    (hs : t.reg (ENG_STAT e) = (s.afterPost e len n).reg (ENG_STAT e))
    (hi : (t.eng e).img = ((s.afterPost e len n).eng e).img) (hp : t.reg (ENG_PC e) = (s.afterPost e len n).reg (ENG_PC e)) :
    GoesOn s t e where
  img := hi.trans (afterPost_kept s e len n).2.1
  idx := by
    rw [← imgIdx_of_still (afterPost_still s e len n) e]
    unfold State.imgIdx State.bit State.fld
    rw [hs]
  pc := by
    rw [State.fld, hp]
    exact afterPost_pc s e len n hn.2

end

@[simp] theorem Veil.readCycles (q : Veil) (s : State) (e : Fin 46) (a cross : Nat) :
    (q.on s).readCycles e a cross = s.readCycles e a cross := by
  have near : (q.on s).local e a = s.local e a := by
    unfold State.local
    cases blockOf a <;> simp [State.slotOf]
  rw [State.readCycles, near, State.readCycles]

theorem stepped_readCycles (s : State) (e : Fin 46) (cyc a cross : Nat) :
    (s.stepped e cyc).readCycles e a cross = s.readCycles e a cross :=
  (stepped_alike s e cyc).read (fun x => x.readCycles e a cross) fun q x => Veil.readCycles q x e a cross

/-! ## ABWR and ABWRP -/

section
variable {s : State} {e : Fin 46} {d a : Fin 16} {imm : BitVec 18} {cross : Nat}

theorem exec_abwr (lost : Bool) : exec (.abwr e d a imm cross lost) s = execAbwr e d a imm cross lost s := rfl

theorem exec_abwrp (lost : Bool) : exec (.abwrp e d a imm cross lost) s = execAbwrp e d a imm cross lost s := rfl

/-- What ABWR does with its write. -/
def abwrDone (s : State) (e : Fin 46) (d a : Fin 16) (imm : BitVec 18) (cross : Nat) (lost : Bool) : State :=
  let addr := s.busAddr e a imm
  let z := s.afterPost e (s.readCycles e addr cross) 1
  if lost then regAbort z else engWrite e addr (s.kreg e d) z

theorem execAbwr_done (lost : Bool) (hn : s.hasWord e (s.pcNext e)) (ho : s.writeOk e (s.busAddr e a imm) = true)
    (hw : s.atWord e (wI 0x2D d a imm)) (hg : GoesOn s (abwrDone s e d a imm cross lost) e) :
    execAbwr e d a imm cross lost s = .next (abwrDone s e d a imm cross lost) := by
  unfold execAbwr
  rw [engExec_next (t := abwrDone s e d a imm cross lost) hw hn _ hg]
  simp only [stepped_busAddr, writeOk_of_still (stepped_still ..), ho, if_true, stepped_readCycles, abwrDone,
    ← show s.afterPost e (s.readCycles e (s.busAddr e a imm) cross) 1 = postWrites e _ 1 (s.stepped e 1) from rfl,
    afterPost_kreg]

/-- What ABWRP does with its two writes. -/
def abwrpDone (s : State) (e : Fin 46) (d a : Fin 16) (imm : BitVec 18) (cross : Nat) (lost : Bool) : State :=
  let addr := s.busAddr e a imm
  let z := s.afterPost e (s.readCycles e addr cross) 2
  if lost then regAbort z else engWrite e addr (s.kreg e d) (engWrite e (addr + 4) (s.kreg e (kAfter d 1)) z)

theorem execAbwrp_done (lost : Bool) (hn : s.hasWord e (s.pcNext e)) (ho : s.writeOk e (s.busAddr e a imm) = true)
    (ho' : s.writeOk e (s.busAddr e a imm + 4) = true) (hd : d.1 ≤ 14) (hw : s.atWord e (wI 0x2F d a imm))
    (hg : GoesOn s (abwrpDone s e d a imm cross lost) e) :
    execAbwrp e d a imm cross lost s = .next (abwrpDone s e d a imm cross lost) := by
  unfold execAbwrp
  rw [engExec_next (t := abwrpDone s e d a imm cross lost) hw hn _ hg]
  simp only [stepped_busAddr, writeOk_of_still (stepped_still ..), ho, ho', Nat.not_lt.2 hd, if_false, Bool.and_self, if_true,
    stepped_readCycles, abwrpDone,
    ← show s.afterPost e (s.readCycles e (s.busAddr e a imm) cross) 2 = postWrites e _ 2 (s.stepped e 2) from rfl,
    afterPost_kreg]

end

end Sys2Proof.Machine
end

section
/-! SUPPORT. Writes that are lost, and writes of an axis engine to its axis block. -/

namespace Sys2Proof.Machine

section
variable {s : State} {e : Fin 46} {d a : Fin 16} {imm : BitVec 18} {cross : Nat}

/-! ## Lost writes (R255) -/

theorem stat_ne_aborts (e : Fin 46) : ENG_STAT e ≠ CFG_XING_CNT := by
  unfold ENG_STAT CFG_XING_CNT
  omega

theorem abwrDone_lost_goesOn (hn : s.hasWord e (s.pcNext e)) : GoesOn s (abwrDone s e d a imm cross true) e :=
  afterPost_goesOn s e _ 1 hn (regAbort_reg _ _ (stat_ne_aborts e)) (by simp [abwrDone]) (regAbort_reg _ _ (pc_ne_aborts e))

theorem abwrpDone_lost_goesOn (hn : s.hasWord e (s.pcNext e)) : GoesOn s (abwrpDone s e d a imm cross true) e :=
  afterPost_goesOn s e _ 2 hn (regAbort_reg _ _ (stat_ne_aborts e)) (by simp [abwrpDone]) (regAbort_reg _ _ (pc_ne_aborts e))

/-- A lost write changes no register but the program counter and the count of abandoned crossings. -/
theorem regAbort_afterPost_regs (len n : Nat) :
    RegsBut [ENG_PC e, CFG_XING_CNT] s (regAbort (s.afterPost e len n)) := by
  intro b hb
  have hb : b ≠ ENG_PC e ∧ b ≠ CFG_XING_CNT := by simpa using hb
  rw [regAbort_reg _ _ hb.2, afterPost_reg s e len n b hb.1]

theorem regAbort_afterPost_counts (len n : Nat) :
    Counts s (regAbort (s.afterPost e len n)) CFG_XING_CNT CFG_XING_CNT_REG_ABORT := by
  have counted := regAbort_counts (s.afterPost e len n)
  have before : (s.afterPost e len n).fld CFG_XING_CNT CFG_XING_CNT_REG_ABORT =
      s.fld CFG_XING_CNT CFG_XING_CNT_REG_ABORT := by
    rw [State.fld, afterPost_reg s e len n _ (pc_ne_aborts e).symm, State.fld]
  rwa [Counts, before] at counted

theorem regAbort_afterPost_engs (len n : Nat) : EngsBut [e] s (regAbort (s.afterPost e len n)) := by
  intro x hx
  rw [regAbort_eng, afterPost_eng_other s e len n x (by simpa using hx)]

/-! ## Writes that wait for the next boundary (R20) -/

theorem engWrite_due {z : State} {b : Nat} {x : Fin 32} (v : Word) (hb : blockOf b = .axis x) (hk : engKind e = 0)
    (ho : z.engWrites e b = true) : engWrite e b v z = z.modEng e fun y => { y with due := y.due ++ [(b, v)] } := by
  simp [engWrite, ho, hb, hk]

theorem writeOk_of_engWrites {b : Nat} (h4 : b % 4 = 0) (ho : s.engWrites e b = true) : s.writeOk e b = true := by
  simp [State.writeOk, h4, ho]

theorem abwrDone_due {x : Fin 32} (hb : blockOf (s.busAddr e a imm) = .axis x) (hk : engKind e = 0)
    (ho : s.engWrites e (s.busAddr e a imm) = true) :
    abwrDone s e d a imm cross false = (s.afterPost e (s.readCycles e (s.busAddr e a imm) cross) 1).modEng e
      fun y => { y with due := y.due ++ [(s.busAddr e a imm, s.kreg e d)] } :=
  engWrite_due _ hb hk ((engWrites_of_still (afterPost_still ..) e _).trans ho)

theorem abwrpDone_due {x : Fin 32} (hb : blockOf (s.busAddr e a imm) = .axis x) (hk : engKind e = 0)
    (ho : s.engWrites e (s.busAddr e a imm) = true) (hb' : blockOf (s.busAddr e a imm + 4) = .axis x)
    (ho' : s.engWrites e (s.busAddr e a imm + 4) = true) :
    abwrpDone s e d a imm cross false = (s.afterPost e (s.readCycles e (s.busAddr e a imm) cross) 2).modEng e
      fun y => { y with due := y.due ++ [(s.busAddr e a imm + 4, s.kreg e (kAfter d 1)), (s.busAddr e a imm, s.kreg e d)] } := by
  have still := afterPost_still s e (s.readCycles e (s.busAddr e a imm) cross) 2
  have first := engWrite_due (s.kreg e (kAfter d 1)) hb' hk ((engWrites_of_still still e _).trans ho')
  have second := fun z h => engWrite_due (z := z) (s.kreg e d) hb hk ((engWrites_of_still h e _).trans ho)
  rw [abwrpDone, if_neg Bool.false_ne_true, first, second _ ((still_modEng ..).trans still), State.modEng_modEng]
  simp only [List.append_assoc, List.cons_append, List.nil_append]

/-- What a write that waits leaves: the list of those that wait, the program counter, and nothing else. -/
theorem afterPost_due (len n : Nat) (l : List (Nat × Word)) (hn : s.hasWord e (s.pcNext e)) :
    let t := (s.afterPost e len n).modEng e fun y => { y with due := y.due ++ l }
    GoesOn s t e ∧ (t.eng e).due = (s.eng e).due ++ l ∧ RegsBut [ENG_PC e] s t ∧ EngsBut [e] s t ∧
      Touches [.regs, .engines] s t := by
  refine ⟨afterPost_goesOn s e len n hn rfl ?_ rfl, ?_, fun b hb => ?_, fun x hx => ?_,
    afterPost_pending s e len n, fun p hp => Part.same_trans (afterPost_part s e len n p hp) ?_⟩
  · rw [State.eng_modEng_same]
  · rw [State.eng_modEng_same, (afterPost_kept s e len n).2.2]
  · exact afterPost_reg s e len n b (by simpa using hb)
  · have hx : x ≠ e := by simpa using hx
    rw [State.eng_modEng_other _ _ _ _ hx.symm, afterPost_eng_other s e len n x hx]
  · cases p with
    | regs | engines => simp at hp
    | _ => rfl

end

end Sys2Proof.Machine
end

section
/-! SUPPORT. The checks of a write by an engine do not see a veil (R252). -/

namespace Sys2Proof.Machine

/-- Every register that an engine may write lies in an axis, a port or a tile (R211). -/
theorem engWrites_block {s : State} {e : Fin 46} {a : Nat} (h : s.engWrites e a = true) :
    (∃ x, blockOf a = .axis x) ∨ (∃ p, blockOf a = .port p) ∨ (∃ p, blockOf a = .portSense p) ∨ ∃ t, blockOf a = .tile t := by
  unfold State.engWrites at h
  cases hb : blockOf a with
  | axis x => exact Or.inl ⟨x, rfl⟩
  | port p => exact Or.inr (Or.inl ⟨p, rfl⟩)
  | portSense p => exact Or.inr (Or.inr (Or.inl ⟨p, rfl⟩))
  | tile t => exact Or.inr (Or.inr (Or.inr ⟨t, rfl⟩))
  | _ =>
    simp only [hb] at h
    split at h
    · cases hx : s.axisOfEng e <;> simp [hx] at h
    · cases h
    · cases h

theorem engWrites_range {s : State} {e : Fin 46} {a : Nat} (h : s.engWrites e a = true) :
    ¬ (a = 0x20C ∨ (0x30000 ≤ a ∧ a < 0x40000)) := by
  intro out
  have block : blockOf a = .global ∨ (∃ d, blockOf a = .engine d) ∨ blockOf a = .none := by
    rcases out with rfl | r
    · exact Or.inl rfl
    · rcases blockOf_of_engine_range r with b | b
      · exact Or.inr (Or.inl ⟨_, b⟩)
      · exact Or.inr (Or.inr b)
  rcases engWrites_block h with ⟨_, b⟩ | ⟨_, b⟩ | ⟨_, b⟩ | ⟨_, b⟩ <;> rcases block with c | ⟨_, c⟩ | c <;> rw [b] at c <;> cases c

theorem engWrites_not_hidden {s : State} {e : Fin 46} {a : Nat} (h : s.engWrites e a = true) : ¬ Hidden a :=
  not_hidden_of_range (engWrites_range h)

/-- No register that an engine may write is the program counter or the status of an engine. -/
theorem engWrites_ne {s : State} {e : Fin 46} {a : Nat} (h : s.engWrites e a = true) (d : Fin 46) :
    a ≠ ENG_PC d ∧ a ≠ ENG_STAT d := by
  have range := engWrites_range h
  unfold ENG_PC ENG_STAT
  omega

@[simp] theorem check_registers_not_hidden (x : Nat) :
    ¬ Hidden (CFG_CAB_STAT x) ∧ ¬ Hidden (MP_SLIM_POS_LO x) ∧ ¬ Hidden (MP_SLIM_NEG_LO x) ∧ ¬ Hidden (GR_LAGWARN x) ∧
    ¬ Hidden (CR_IMAX x) ∧ ¬ Hidden (OB_MOTOR x) ∧ ¬ Hidden (PWM_DTMIN x) ∧ ¬ Hidden (MP_SLIM_POS_LO x + 4) ∧
    ¬ Hidden (MP_SLIM_NEG_LO x + 4) := by
  and_intros <;> apply not_hidden_of_le <;>
    simp only [CFG_CAB_STAT, MP_SLIM_POS_LO, MP_SLIM_NEG_LO, GR_LAGWARN, CR_IMAX, OB_MOTOR, PWM_DTMIN] <;> omega

section
variable (q : Veil) (s : State)

@[simp] theorem Veil.portOn (p : Fin 64) : (q.on s).portOn p = s.portOn p := by simp [State.portOn]

@[simp] theorem Veil.anyPortOn : (q.on s).anyPortOn = s.anyPortOn := by
  have each : (q.on s).portOn = s.portOn := funext fun p => Veil.portOn q s p
  simp [State.anyPortOn, each]

@[simp] theorem Veil.ownerPort (p : Fin 64) : (q.on s).ownerPort p = s.ownerPort p := by simp [State.ownerPort]

theorem Veil.limits (x : Fin 32) : (q.on s).pairI (MP_SLIM_NEG_LO x) = s.pairI (MP_SLIM_NEG_LO x) ∧
    (q.on s).pairI (MP_SLIM_POS_LO x) = s.pairI (MP_SLIM_POS_LO x) := by
  simp [State.pairI, Veil.pair]

@[simp] theorem Veil.softOk (x : Fin 32) (v : Int) : (q.on s).softOk x v = s.softOk x v := by
  have on : (q.on s).softOn x = s.softOn x := by simp [State.softOn, State.homing]
  rw [State.softOk, on, State.softNeg, State.softPos, (Veil.limits q s x).1, (Veil.limits q s x).2]
  rfl

@[simp] theorem Veil.checkRuns (a : Nat) : (q.on s).checkRuns a = s.checkRuns a := by
  simp [State.checkRuns]

@[simp] theorem Veil.pairRange (lo : Nat) (l h : Word) : (q.on s).pairRange lo l h = s.pairRange lo l h := by
  unfold State.pairRange
  cases blockOf lo <;> simp

variable {a : Nat} (h : ¬ Hidden a)
include h

theorem Veil.held1 : (q.on s).held1 a = s.held1 a := by
  unfold State.held1
  cases blockOf a <;> simp [h]

theorem Veil.changes (v : Word) (p : FieldSpec → Bool) : (q.on s).changes a v p = s.changes a v p := by
  simp only [State.changes, Veil.held1 q s h]

theorem Veil.newReg (v : Word) : (q.on s).newReg a v = s.newReg a v := by
  simp only [State.newReg, Veil.held1 q s h]

theorem Veil.lockBroken (e : Fin 46) (v : Word) : (q.on s).lockBroken (.engine e) a v = s.lockBroken (.engine e) a v := by
  simp only [State.lockBroken, Veil.changes q s h]

theorem Veil.staticOn (f : FieldSpec) : (q.on s).staticOn a f = s.staticOn a f := by
  unfold State.staticOn
  cases b : blockOf a with
  | cabinet c => cases r : ringOf c a <;> simp
  | tile t =>
    have each : (q.on s).portOn = s.portOn := funext fun p => Veil.portOn q s p
    simp [each]
  | _ => simp [h]

theorem Veil.staticBroken (v : Word) : (q.on s).staticBroken a v = s.staticBroken a v := by
  simp only [State.staticBroken, Veil.changes q s h, Veil.staticOn q s h]

theorem Veil.keepComp (n : Word) : (q.on s).keepComp a n = s.keepComp a n := by
  unfold State.keepComp
  cases compOf a <;> simp [h]

theorem Veil.forbidden (n : Word) : (q.on s).forbidden a n = s.forbidden a n := by
  unfold State.forbidden
  cases blockOf a <;> simp [h]

theorem Veil.inRange (n : Word) : (q.on s).inRange a n = s.inRange a n := by
  have axis : ∀ x : Fin 32, (q.on s).axisRange x a n = s.axisRange x a n := fun x => by
    rw [State.axisRange, (Veil.limits q s x).1, (Veil.limits q s x).2, Veil.bit q s h, Veil.fld q s (by simp)]
    rfl
  unfold State.inRange
  cases blockOf a <;> simp [axis, State.portRange]

/-- A write passes its checks in every state that differs behind a veil. -/
theorem passes_of_alike {t : State} (e : Fin 46) (v : Word) (ht : Alike s t) :
    t.newReg a v = s.newReg a v ∧ (s.passes (.engine e) a v → t.passes (.engine e) a v) := by
  have new := ht.read (fun x => x.newReg a v) fun q x => Veil.newReg q x h v
  refine ⟨new, fun ⟨lock, static, keep, code, range⟩ => ?_⟩
  unfold State.passes
  rw [new, ht.read (fun x => x.lockBroken (.engine e) a v) fun q x => Veil.lockBroken q x h e v,
    ht.read (fun x => x.staticBroken a v) fun q x => Veil.staticBroken q x h v,
    ht.read (fun x => x.keepComp a (s.newReg a v)) fun q x => Veil.keepComp q x h _,
    ht.read (fun x => x.forbidden a (s.newReg a v)) fun q x => Veil.forbidden q x h _,
    ht.read (fun x => x.inRange a (s.newReg a v)) fun q x => Veil.inRange q x h _]
  exact ⟨lock, static, keep, code, range⟩

end

end Sys2Proof.Machine
end

section
/-! SUPPORT. A write of an engine whose effect is its value (R211, R252): the checks pass, and one register or its shadow changes. -/

namespace Sys2Proof.Machine

/-- A register, or its shadow, takes a value. -/
def putPlain (a : Nat) (n : Word) (s : State) : State := if shadowed a then writeShadow a n s else s.setReg a n

theorem portConfig_block (p : Fin 64) : blockOf (CR_PORT_CFG (pT p) (pI p)) = .port p := by
  revert p
  decide

/-- The write of a plain register that passed its checks stores its value. -/
theorem applyWrite_plain {e : Fin 46} {a : Nat} {n : Word} {s t : State} (hp : plainReg a = true) (hw : t.engWrites e a = true)
    (hx : ∀ x, blockOf a = .axis x → s.windowWord x a = none) : applyWrite (.engine e) a n s = putPlain a n s := by
  rcases engWrites_block hw with ⟨x, b⟩ | ⟨p, b⟩ | ⟨p, b⟩ | ⟨t, b⟩
  · have filt : a ≠ SF_IO_FILT x := by
      rintro rfl
      simp [plainReg, b] at hp
    simp [applyWrite, b, applyReg, hx x b, axisEffect, filt, putPlain, shadowed]
  · simp only [plainReg, b, Bool.and_eq_true, bne_iff_ne, Option.isNone_iff_eq_none] at hp
    simp [applyWrite, b, portApply, applyReg, hp, putPlain, shadowed]
  · have other : a ≠ CR_PORT_CFG (pT p) (pI p) := by
      rintro rfl
      rw [portConfig_block] at b
      cases b
    simp only [plainReg, b, Option.isNone_iff_eq_none] at hp
    simp [applyWrite, b, portApply, applyReg, hp, other, putPlain, shadowed]
  · simp only [plainReg, b, Bool.and_eq_true, Option.isNone_iff_eq_none] at hp
    obtain ⟨special, comp⟩ := hp
    simp at special
    simp [applyWrite, b, tileApply, applyReg, special, comp, putPlain, shadowed]

/-! ## What the store of a plain register leaves -/

section
variable (a : Nat) (n : Word) (s : State)

/-- A shadow takes its value, and one of the lists of shadow writes may change with it (R20, R261). -/
theorem writeShadow_cases : (∃ l, writeShadow a n s = (s.setLate l).setReg a n) ∨
    ∃ l, writeShadow a n s = (s.setWritten l).setReg a n := by
  unfold writeShadow
  by_cases late : s.boundary (shadowTile a) + s.period (shadowTile a) ≤ s.now + 5
  · by_cases listed : (s.late.any fun c => c.1 == a) = true
    · exact Or.inl ⟨s.late, by simp only [late, listed, if_true]; rfl⟩
    · exact Or.inl ⟨(a, s.reg a) :: s.late, by simp only [late, listed, if_true, if_false, Bool.false_eq_true]⟩
  · exact Or.inr ⟨_, by simp only [late, if_false]; rfl⟩

theorem putPlain_reg (b : Nat) : (putPlain a n s).reg b = if a = b then n else s.reg b := by
  rw [← State.reg_setReg]
  unfold putPlain
  split
  · rcases writeShadow_cases a n s with ⟨l, h⟩ | ⟨l, h⟩ <;> rw [h] <;> rfl
  · rfl

theorem putPlain_part (p : Part) (h : p ∉ if shadowed a then [Part.regs, .late, .written, .engines] else [Part.regs, .engines]) :
    p.same s (putPlain a n s) := by
  unfold putPlain
  cases sh : shadowed a <;> simp only [sh, if_true, if_false, Bool.false_eq_true] at h ⊢
  · cases p with
    | regs | engines => simp at h
    | _ => rfl
  · cases p with
    | regs | late | written | engines => simp at h
    | _ => rcases writeShadow_cases a n s with ⟨l, hl⟩ | ⟨l, hl⟩ <;> rw [hl] <;> rfl

theorem putPlain_engines : (putPlain a n s).engines = s.engines := by
  unfold putPlain
  split
  · rcases writeShadow_cases a n s with ⟨l, h⟩ | ⟨l, h⟩ <;> rw [h] <;> rfl
  · rfl

theorem putPlain_tiles : (putPlain a n s).tiles = s.tiles := by
  unfold putPlain
  split
  · rcases writeShadow_cases a n s with ⟨l, h⟩ | ⟨l, h⟩ <;> rw [h] <;> rfl
  · rfl

theorem putPlain_pending : (putPlain a n s).pending = s.pending := by
  unfold putPlain
  split
  · rcases writeShadow_cases a n s with ⟨l, h⟩ | ⟨l, h⟩ <;> rw [h] <;> rfl
  · rfl

/-- A register whose parity holds stores no new one. -/
theorem storeParity_good (h : ∀ t : Fin 4, (s.tile t).parBad.contains a = false) : storeParity a s = s := by
  unfold storeParity
  have good := h (shadowTile a)
  cases blockOf a <;> simp only [good, Bool.false_and, Bool.false_eq_true, if_false]

end

/-- A write that passes its checks and meets nothing else stores the new value. -/
theorem writeOne_plain {e : Fin 46} {a : Nat} {v : Word} {s t : State} (hp : plainReg a = true) (hw : t.engWrites e a = true)
    (hx : ∀ x, blockOf a = .axis x → s.windowWord x a = none) (hc : s.passes (.engine e) a v)
    (hb : ∀ u : Fin 4, (s.tile u).parBad.contains a = false) :
    writeOne (.engine e) a v s = putPlain a (s.newReg a v) s := by
  obtain ⟨lock, static, keep, code, range⟩ := hc
  have stored : storeParity a (putPlain a (s.newReg a v) s) = putPlain a (s.newReg a v) s :=
    storeParity_good a _ fun u => by
      rw [State.tile, putPlain_tiles]
      exact hb u
  simp [writeOne, lock, static, keep, code, range, applyWrite_plain hp hw hx, stored]

/-- The registers of the window of the parameter banks are halves of pairs. -/
theorem window_halves (x : Fin 32) :
    (heldBy (MP_PV_LO x) ≠ none ∧ heldBy (MP_PA_LO x) ≠ none ∧ heldBy (MP_PD_LO x) ≠ none ∧ heldBy (MP_PJ_LO x) ≠ none) ∧
    commitOf (MP_PV_HI x) ≠ none ∧ commitOf (MP_PA_HI x) ≠ none ∧ commitOf (MP_PD_HI x) ≠ none ∧
    commitOf (MP_PJ_HI x) ≠ none := by
  revert x
  decide

/-- The window of the parameter banks holds eight registers. -/
theorem windowWord_none {s : State} {x : Fin 32} {a : Nat} :
    s.windowWord x a = none ↔ (a ≠ MP_PV_LO x ∧ a ≠ MP_PA_LO x ∧ a ≠ MP_PD_LO x ∧ a ≠ MP_PJ_LO x) ∧
      a ≠ MP_PV_HI x ∧ a ≠ MP_PA_HI x ∧ a ≠ MP_PD_HI x ∧ a ≠ MP_PJ_HI x := by
  simp only [State.windowWord, ite_eq_iff, reduceCtorEq, and_false, false_or]
  tauto

/-- A register that is no half of a pair is none of that window. -/
theorem windowWord_of_single {a : Nat} (h : commitOf a = none) (h' : heldBy a = none) (s : State) (x : Fin 32) :
    s.windowWord x a = none := by
  obtain ⟨⟨vl, al, dl, jl⟩, vh, ah, dh, jh⟩ := window_halves x
  refine windowWord_none.2 ⟨⟨?_, ?_, ?_, ?_⟩, ?_, ?_, ?_, ?_⟩ <;> rintro rfl <;> contradiction

end Sys2Proof.Machine
end

section
/-! SUPPORT. ABWR of a register without effect beyond its value. -/

namespace Sys2Proof.Machine

section
variable {s : State} {e : Fin 46} {a : Nat} {v : Word}

/-- A write of an engine that does not wait for a boundary is a write of the bus. -/
theorem engWrite_bus (hw : s.engWrites e a = true) (hk : ∀ x, blockOf a = .axis x → engKind e ≠ 0) :
    engWrite e a v s = busWrite (.engine e) a v s := by
  unfold engWrite
  cases b : blockOf a with
  | axis x => simp [hw, hk x b]
  | _ => simp [hw]

/-- A write of the bus by an engine that owns the register. -/
theorem busWrite_engine (h4 : a % 4 = 0) (hf : regFields a ≠ []) (hw : s.engWrites e a = true) :
    busWrite (.engine e) a v s = ownedWrite (.engine e) a v (settleFor s a) := by
  simp [busWrite, h4, hf, State.owns, hw]

theorem ownedWrite_single {w : Writer} (hc : commitOf a = none) (hb : heldBy a = none) :
    ownedWrite w a v s = writeOne w a v s := by
  simp [ownedWrite, hc, hb]

end

section
variable {s : State} {e : Fin 46} {d a : Fin 16} {imm : BitVec 18} {cross : Nat}

/-- The state in which the value of a posted write lands: the port of its address as it is at that time. -/
def State.landing (s : State) (e : Fin 46) (len n a : Nat) : State := settleFor (s.afterPost e len n) a

theorem landing_same (len n b : Nat) (h : settleFor s b = s) : Same (s.afterPost e len n) (s.landing e len n b) :=
  (blind_settleFor b).same (afterPost_alike s e len n) h

theorem landing_alike (len n b : Nat) (h : settleFor s b = s) : Alike s (s.landing e len n b) := by
  have alike := (blind_settleFor b).alike (afterPost_alike s e len n)
  simp only [h] at alike
  exact alike

theorem abwrDone_plain (h4 : s.busAddr e a imm % 4 = 0) (hw : s.engWrites e (s.busAddr e a imm) = true)
    (hf : regFields (s.busAddr e a imm) ≠ []) (hk : ∀ x, blockOf (s.busAddr e a imm) = .axis x → engKind e ≠ 0)
    (hp : plainReg (s.busAddr e a imm) = true) (hc : commitOf (s.busAddr e a imm) = none)
    (hh : heldBy (s.busAddr e a imm) = none) (hs : settleFor s (s.busAddr e a imm) = s)
    (hb : ∀ t : Fin 4, (s.tile t).parBad.contains (s.busAddr e a imm) = false)
    (hv : s.passes (.engine e) (s.busAddr e a imm) (s.kreg e d)) :
    abwrDone s e d a imm cross false =
      putPlain (s.busAddr e a imm) (s.newReg (s.busAddr e a imm) (s.kreg e d))
        (s.landing e (s.readCycles e (s.busAddr e a imm) cross) 1 (s.busAddr e a imm)) := by
  simp only [abwrDone, Bool.false_eq_true, if_false]
  generalize s.busAddr e a imm = b at *
  have own := (engWrites_of_still (afterPost_still s e (s.readCycles e b cross) 1) e b).trans hw
  have alike := landing_alike (e := e) (s.readCycles e b cross) 1 b hs
  have same := landing_same (e := e) (s.readCycles e b cross) 1 b hs
  obtain ⟨new, pass⟩ := passes_of_alike s (engWrites_not_hidden hw) e (s.kreg e d) alike
  have tiles : (s.landing e (s.readCycles e b cross) 1 b).tiles = s.tiles :=
    (same.part .tiles (by decide)).trans (afterPost_part s e _ 1 .tiles (by decide))
  have good : ∀ u : Fin 4, ((s.landing e (s.readCycles e b cross) 1 b).tile u).parBad.contains b = false := fun u => by
    rw [State.tile, tiles]
    exact hb u
  rw [engWrite_bus own hk, busWrite_engine h4 hf own, ← State.landing, ownedWrite_single hc hh,
    writeOne_plain hp hw (fun x _ => windowWord_of_single hc hh _ x) (pass hv) good, new]

/-- What the store of a plain register leaves, where the port of its address needs no settling. -/
theorem putPlain_landing {b : Nat} {n : Word} (len m : Nat) (hn : s.hasWord e (s.pcNext e)) (hw : s.engWrites e b = true)
    (hs : settleFor s b = s) :
    let t := putPlain b n (s.landing e len m b)
    GoesOn s t e ∧ t.reg b = n ∧ RegsBut [b, ENG_PC e] s t ∧ (t.eng e).k = (s.eng e).k ∧ EngsBut [e] s t ∧
      Touches (if shadowed b then [.regs, .late, .written, .engines] else [.regs, .engines]) s t := by
  have same := landing_same (e := e) len m b hs
  have apart := engWrites_ne hw e
  have eng : ∀ x, (putPlain b n (s.landing e len m b)).eng x = (s.afterPost e len m).eng x := fun x => by
    rw [State.eng, putPlain_engines]
    exact same.eng x
  have reg : ∀ c, c ≠ b → (putPlain b n (s.landing e len m b)).reg c = (s.afterPost e len m).reg c := fun c hc => by
    rw [putPlain_reg, if_neg hc.symm, same.reg]
  refine ⟨afterPost_goesOn s e len m hn (reg _ apart.2.symm) (by rw [eng]) (reg _ apart.1.symm), ?_, fun c hc => ?_, ?_,
    fun x hx => ?_, ?_, fun p hp => ?_⟩
  · rw [putPlain_reg, if_pos rfl]
  · have hc : c ≠ b ∧ c ≠ ENG_PC e := by simpa using hc
    rw [reg c hc.1, afterPost_reg s e len m c hc.2]
  · rw [eng, (afterPost_kept s e len m).1]
  · rw [eng, afterPost_eng_other s e len m x (by simpa using hx)]
  · rw [putPlain_pending, same.pending, afterPost_pending]
  · have base : p ∉ [Part.regs, .engines] := by
      cases h : shadowed b <;> simp [h] at hp ⊢ <;> tauto
    have regs : p ≠ .regs := fun h => base (by simp [h])
    exact Part.same_trans (afterPost_part s e len m p base) (Part.same_trans (same.part p regs) (putPlain_part b n _ p hp))

end

end Sys2Proof.Machine
end

section
/-! SUPPORT. ABWRP of a pair: the _HI half waits, and the _LO write commits both (R249, R203). -/

namespace Sys2Proof.Machine

/-! ## Pairs -/

/-- The _LO register of a pair of an axis block lies there too, and no write of it waits. -/
theorem axis_pairs (x : Fin 32) :
    ∀ b ∈ [MP_CMD_POS_HI x, MP_PV_HI x, MP_PA_HI x, MP_PD_HI x, MP_PJ_HI x, MP_EMERG_HI x, MP_VLIM_HI x, MP_ALIM_HI x,
      MP_SLIM_NEG_HI x, MP_SLIM_POS_HI x, GR_CATCHUP_HI x], blockOf (b - 4) = .axis x ∧ commitOf (b - 4) = none := by
  revert x
  decide

/-- The pair registers of a tile: PWM_LOADAT and the crossbar. -/
theorem tile_pairs (t : Fin 4) : (blockOf (PWM_LOADAT_LO t) = .tile t ∧ commitOf (PWM_LOADAT_LO t) = none) ∧
    blockOf (CFG_XBAR_A t) = .tile t ∧ commitOf (CFG_XBAR_A t) = none := by
  revert t
  decide

theorem commitOf_some {b c : Nat} (h : commitOf b = some c) :
    commitOf c = none ∧ ((∃ x, blockOf b = .axis x ∧ blockOf c = .axis x) ∨ ∃ t, blockOf b = .tile t ∧ blockOf c = .tile t) := by
  unfold commitOf at h
  cases hb : blockOf b with
  | axis x =>
    simp only [hb] at h
    split at h
    · rename_i mem
      obtain rfl : b - 4 = c := by simpa using h
      obtain ⟨block, none⟩ := axis_pairs x b (by simpa using mem)
      exact ⟨none, Or.inl ⟨x, rfl, block⟩⟩
    · cases h
  | tile t =>
    obtain ⟨load, xbar⟩ := tile_pairs t
    simp only [hb] at h
    split at h
    · obtain rfl : PWM_LOADAT_LO t = c := by simpa using h
      exact ⟨load.2, Or.inr ⟨t, rfl, load.1⟩⟩
    · split at h
      · obtain rfl : CFG_XBAR_A t = c := by simpa using h
        exact ⟨xbar.2, Or.inr ⟨t, rfl, xbar.1⟩⟩
      · cases h
  | _ => simp [hb] at h

theorem settleFor_axis_or_tile {b : Nat} (h : (∃ x, blockOf b = .axis x) ∨ ∃ t, blockOf b = .tile t) (s : State) :
    settleFor s b = s := by
  rcases h with ⟨_, h⟩ | ⟨_, h⟩ <;> simp [settleFor, h]

/-! ## The two writes -/

section
variable {z : State} {e : Fin 46} {b : Nat} {vl vh : Word}

/-- The _HI write waits (R249). -/
theorem engWrite_hi (hc : commitOf (b + 4) = some b) (h4 : (b + 4) % 4 = 0) (hf : regFields (b + 4) ≠ [])
    (hw : z.engWrites e (b + 4) = true) (hk : engKind e ≠ 0) (hl : z.lockBroken (.engine e) (b + 4) vh = false) :
    engWrite e (b + 4) vh z = holdHi (.engine e) (b + 4) vh z := by
  obtain ⟨-, block⟩ := commitOf_some hc
  have settled : settleFor z (b + 4) = z :=
    settleFor_axis_or_tile (block.imp (fun ⟨x, h, _⟩ => ⟨x, h⟩) fun ⟨t, h, _⟩ => ⟨t, h⟩) z
  rw [engWrite_bus hw fun _ _ => hk, busWrite_engine h4 hf hw, settled]
  simp [ownedWrite, hc, hl]

/-- The _LO write commits both (R249). -/
theorem engWrite_lo (hc : commitOf (b + 4) = some b) (h4 : b % 4 = 0) (hf : regFields b ≠ []) (hw : z.engWrites e b = true)
    (hk : engKind e ≠ 0) : ∃ l, engWrite e b vl (holdHi (.engine e) (b + 4) vh z) =
      writePair (.engine e) b (b + 4) vl vh (z.setHeld l) := by
  obtain ⟨single, block⟩ := commitOf_some hc
  have settled : ∀ y, settleFor y b = y :=
    settleFor_axis_or_tile (block.imp (fun ⟨x, _, h⟩ => ⟨x, h⟩) fun ⟨t, _, h⟩ => ⟨t, h⟩)
  have own : (holdHi (.engine e) (b + 4) vh z).engWrites e b = true := hw
  have held : (holdHi (.engine e) (b + 4) vh z).heldHi (.engine e) (b + 4) = vh := by
    simp [State.heldHi, holdHi, State.setHeld]
  refine ⟨(holdHi (.engine e) (b + 4) vh z).held.filter fun h => !(h.by_ == .engine e && h.addr == b + 4), ?_⟩
  rw [engWrite_bus own fun _ _ => hk, busWrite_engine h4 hf own, settled]
  simp only [ownedWrite, single, Option.isSome_none, Bool.false_eq_true, if_false, heldBy, hc, if_true, held]
  rfl

end

/-! ## What a committed pair leaves -/

/-- Both registers of a pair take their values. -/
def putPair (b : Nat) (l h : Word) (s : State) : State := (s.setReg (b + 4) h).setReg b l

theorem ofNat_pair (l h : Word) : BitVec.ofNat 32 (l.toNat + 2 ^ 32 * h.toNat) = l ∧
    BitVec.ofNat 32 ((l.toNat + 2 ^ 32 * h.toNat) / 2 ^ 32) = h := by
  constructor <;> apply BitVec.eq_of_toNat_eq <;> simp only [BitVec.toNat_ofNat] <;> omega

/-- A pair of an axis block outside the window of the parameter banks, beside the position, that passes its checks. -/
theorem writePair_axis {s : State} {e : Fin 46} {b : Nat} {vl vh : Word} {x : Fin 32} (hb : blockOf b = .axis x)
    (hp : b ≠ MP_CMD_POS_LO x) (hx : s.windowWord x b = none) (hx' : s.windowWord x (b + 4) = none)
    (hl : s.lockBroken (.engine e) b vl = false) (hs : s.staticBroken b vl = false)
    (hl' : s.lockBroken (.engine e) (b + 4) vh = false) (hs' : s.staticBroken (b + 4) vh = false)
    (hr : s.pairRange b (s.newReg b vl) (s.newReg (b + 4) vh) = true) (hb' : blockOf (b + 4) = .axis x) :
    writePair (.engine e) b (b + 4) vl vh s = putPair b (s.newReg b vl) (s.newReg (b + 4) vh) s := by
  obtain ⟨⟨nv, na, nd, -⟩, -⟩ := windowWord_none.1 hx
  have cap : ∀ v, s.windowCap x b v = v := fun v => by simp [State.windowCap, nv, na, nd]
  obtain ⟨low, high⟩ := ofNat_pair (s.newReg b vl) (s.newReg (b + 4) vh)
  have hx'' : (s.setReg (b + 4) (s.newReg (b + 4) vh)).windowWord x b = none := windowWord_none.2 (windowWord_none.1 hx)
  simp only [writePair, hl, hl', hs, hs', hb, hp, hr, cap, low, high, applyReg, hb', hx', hx'', putPair, Bool.or_self,
    Bool.false_eq_true, Bool.false_and, Bool.not_true, if_false, beq_eq_false_iff_ne.2 hp, Option.isSome_none]

end Sys2Proof.Machine
end

section
/-! SUPPORT. ABWRP of a pair of an axis block, and of PWM_LOADAT. -/

namespace Sys2Proof.Machine

theorem window_pairs (x : Fin 32) :
    (MP_PV_HI x = MP_PV_LO x + 4 ∧ MP_PA_HI x = MP_PA_LO x + 4 ∧ MP_PD_HI x = MP_PD_LO x + 4 ∧ MP_PJ_HI x = MP_PJ_LO x + 4) ∧
    commitOf (MP_PV_LO x) = none ∧ commitOf (MP_PA_LO x) = none ∧ commitOf (MP_PD_LO x) = none ∧
    commitOf (MP_PJ_LO x) = none := by
  revert x
  decide

/-- With the _LO register of a pair its _HI register stands outside the window too. -/
theorem windowWord_hi {s : State} {x : Fin 32} {b : Nat} (hc : commitOf (b + 4) = some b) (h : s.windowWord x b = none) :
    s.windowWord x (b + 4) = none := by
  obtain ⟨⟨v, a, d, j⟩, cv, ca, cd, cj⟩ := window_pairs x
  obtain ⟨⟨nv, na, nd, nj⟩, -⟩ := windowWord_none.1 h
  have low : ∀ c, commitOf c = none → b + 4 ≠ c := fun c hn e => by
    rw [e, hn] at hc
    cases hc
  exact windowWord_none.2 ⟨⟨low _ cv, low _ ca, low _ cd, low _ cj⟩, by omega, by omega, by omega, by omega⟩

/-! ## No check reads the halves that wait -/

section
variable (s : State) (l : List HeldHi)

theorem lockBroken_setHeld (w : Writer) (a : Nat) (v : Word) : (s.setHeld l).lockBroken w a v = s.lockBroken w a v := (rfl)

theorem staticBroken_setHeld (a : Nat) (v : Word) : (s.setHeld l).staticBroken a v = s.staticBroken a v := (rfl)

theorem newReg_setHeld (a : Nat) (v : Word) : (s.setHeld l).newReg a v = s.newReg a v := (rfl)

theorem pairRange_setHeld (a : Nat) (v w : Word) : (s.setHeld l).pairRange a v w = s.pairRange a v w := (rfl)

end

/-! ## The two writes in one state -/

section
variable {s : State} {e : Fin 46}

/-- What a pair leaves that an instruction commits. -/
theorem putPair_afterPost (len n b : Nat) (l h : Word) (k : List HeldHi) (hn : s.hasWord e (s.pcNext e))
    (hw : s.engWrites e b = true) (hw' : s.engWrites e (b + 4) = true) :
    let t := putPair b l h ((s.afterPost e len n).setHeld k)
    GoesOn s t e ∧ t.reg b = l ∧ t.reg (b + 4) = h ∧ RegsBut [b, b + 4, ENG_PC e] s t ∧ t.axes = s.axes ∧ t.ports = s.ports ∧
      t.tiles = s.tiles := by
  have reg : ∀ c, c ≠ b → c ≠ b + 4 →
      (putPair b l h ((s.afterPost e len n).setHeld k)).reg c = (s.afterPost e len n).reg c := fun c hb hb' => by
    rw [putPair, State.reg_setReg_other _ _ _ _ hb.symm, State.reg_setReg_other _ _ _ _ hb'.symm]
    rfl
  have low := engWrites_ne hw e
  have high := engWrites_ne hw' e
  refine ⟨afterPost_goesOn s e len n hn (reg _ low.2.symm high.2.symm) rfl (reg _ low.1.symm high.1.symm),
    State.reg_setReg_same .., ?_, fun c hc => ?_, ?_, ?_, ?_⟩
  · rw [putPair, State.reg_setReg_other _ _ _ _ (by omega), State.reg_setReg_same]
  · have hc : c ≠ b ∧ c ≠ b + 4 ∧ c ≠ ENG_PC e := by simpa using hc
    rw [reg c hc.1 hc.2.1, afterPost_reg s e len n c hc.2.2]
  · exact afterPost_part s e len n .axes (by decide)
  · exact afterPost_part s e len n .ports (by decide)
  · exact afterPost_part s e len n .tiles (by decide)

/-- The two writes of ABWRP together, up to the checks of the pair. -/
theorem abwrpDone_pair {d a : Fin 16} {imm : BitVec 18} {cross : Nat} (h4 : s.busAddr e a imm % 4 = 0)
    (hw : s.engWrites e (s.busAddr e a imm) = true) (hw' : s.engWrites e (s.busAddr e a imm + 4) = true)
    (hf : regFields (s.busAddr e a imm) ≠ []) (hf' : regFields (s.busAddr e a imm + 4) ≠ []) (hk : engKind e ≠ 0)
    (hc : commitOf (s.busAddr e a imm + 4) = some (s.busAddr e a imm))
    (hl : s.lockBroken (.engine e) (s.busAddr e a imm + 4) (s.kreg e (kAfter d 1)) = false) :
    ∃ l, abwrpDone s e d a imm cross false = writePair (.engine e) (s.busAddr e a imm) (s.busAddr e a imm + 4) (s.kreg e d)
      (s.kreg e (kAfter d 1)) ((s.afterPost e (s.readCycles e (s.busAddr e a imm) cross) 2).setHeld l) := by
  simp only [abwrpDone, Bool.false_eq_true, if_false]
  generalize s.busAddr e a imm = b at *
  have still := afterPost_still s e (s.readCycles e b cross) 2
  have alike := afterPost_alike s e (s.readCycles e b cross) 2
  have lock := (alike.read (fun x => x.lockBroken (.engine e) (b + 4) (s.kreg e (kAfter d 1)))
    fun q x => Veil.lockBroken q x (engWrites_not_hidden hw') e _).trans hl
  rw [engWrite_hi hc (by omega) hf' ((engWrites_of_still still e _).trans hw') hk lock]
  exact engWrite_lo hc h4 hf ((engWrites_of_still still e _).trans hw) hk

/-- ABWRP of a supervisor to a pair of an axis block that passes its checks. -/
theorem abwrpDone_axis {d a : Fin 16} {imm : BitVec 18} {cross : Nat} {x : Fin 32} (h4 : s.busAddr e a imm % 4 = 0)
    (hw : s.engWrites e (s.busAddr e a imm) = true) (hw' : s.engWrites e (s.busAddr e a imm + 4) = true)
    (hf : regFields (s.busAddr e a imm) ≠ []) (hf' : regFields (s.busAddr e a imm + 4) ≠ []) (hk : engKind e ≠ 0)
    (hb : blockOf (s.busAddr e a imm) = .axis x) (hc : commitOf (s.busAddr e a imm + 4) = some (s.busAddr e a imm))
    (hp : s.busAddr e a imm ≠ MP_CMD_POS_LO x) (hx : s.windowWord x (s.busAddr e a imm) = none)
    (hl : s.lockBroken (.engine e) (s.busAddr e a imm) (s.kreg e d) = false)
    (hs : s.staticBroken (s.busAddr e a imm) (s.kreg e d) = false)
    (hl' : s.lockBroken (.engine e) (s.busAddr e a imm + 4) (s.kreg e (kAfter d 1)) = false)
    (hs' : s.staticBroken (s.busAddr e a imm + 4) (s.kreg e (kAfter d 1)) = false)
    (hr : s.pairRange (s.busAddr e a imm) (s.newReg (s.busAddr e a imm) (s.kreg e d))
      (s.newReg (s.busAddr e a imm + 4) (s.kreg e (kAfter d 1))) = true) :
    ∃ l, abwrpDone s e d a imm cross false = putPair (s.busAddr e a imm) (s.newReg (s.busAddr e a imm) (s.kreg e d))
      (s.newReg (s.busAddr e a imm + 4) (s.kreg e (kAfter d 1)))
      ((s.afterPost e (s.readCycles e (s.busAddr e a imm) cross) 2).setHeld l) := by
  obtain ⟨l, both⟩ := abwrpDone_pair (cross := cross) h4 hw hw' hf hf' hk hc hl'
  refine ⟨l, both.trans ?_⟩
  clear both
  generalize s.busAddr e a imm = b at *
  have low := engWrites_not_hidden hw
  have high := engWrites_not_hidden hw'
  have alike := afterPost_alike s e (s.readCycles e b cross) 2
  have hb' : blockOf (b + 4) = .axis x := by
    rcases (commitOf_some hc).2 with ⟨y, h, h'⟩ | ⟨t, h, h'⟩ <;> rw [hb] at h' <;> cases h'
    exact h
  have new := alike.read (fun y => y.newReg b (s.kreg e d)) fun q y => Veil.newReg q y low _
  have new' := alike.read (fun y => y.newReg (b + 4) (s.kreg e (kAfter d 1))) fun q y => Veil.newReg q y high _
  have lock := alike.read (fun y => y.lockBroken (.engine e) b (s.kreg e d)) fun q y => Veil.lockBroken q y low e _
  have lock' := alike.read (fun y => y.lockBroken (.engine e) (b + 4) (s.kreg e (kAfter d 1)))
    fun q y => Veil.lockBroken q y high e _
  have static := alike.read (fun y => y.staticBroken b (s.kreg e d)) fun q y => Veil.staticBroken q y low _
  have static' := alike.read (fun y => y.staticBroken (b + 4) (s.kreg e (kAfter d 1))) fun q y => Veil.staticBroken q y high _
  have range := alike.read (fun y => y.pairRange b (s.newReg b (s.kreg e d)) (s.newReg (b + 4) (s.kreg e (kAfter d 1))))
    fun q y => Veil.pairRange q y _ _ _
  have pair := writePair_axis (s := (s.afterPost e (s.readCycles e b cross) 2).setHeld l) (e := e) (vl := s.kreg e d)
    (vh := s.kreg e (kAfter d 1)) hb hp (windowWord_none.2 (windowWord_none.1 hx))
    (windowWord_none.2 (windowWord_none.1 (windowWord_hi hc hx)))
  simp only [lockBroken_setHeld, staticBroken_setHeld, newReg_setHeld, pairRange_setHeld, new, new', lock, lock', static,
    static', range] at pair
  exact pair hl hs hl' hs' hr hb'

end

/-! ## PWM_LOADAT -/

/-- The pair of PWM_LOADAT in the tile block. -/
theorem loadAt_pair (t : Fin 4) : PWM_LOADAT_LO t % 4 = 0 ∧ PWM_LOADAT_LO t ≠ CFG_XBAR_A t ∧
    commitOf (PWM_LOADAT_LO t + 4) = some (PWM_LOADAT_LO t) ∧ blockOf (PWM_LOADAT_LO t) = .tile t ∧
    blockOf (PWM_LOADAT_LO t + 4) = .tile t ∧ readOnlyBits (PWM_LOADAT_LO t) = 0 ∧ readOnlyBits (PWM_LOADAT_LO t + 4) = 0 := by
  revert t
  decide

/-- The field of a register whose whole word may be written, and is not static. -/
def wholeWord : FieldSpec := ⟨⟨0, 32⟩, .rw, false, true⟩

theorem loadAt_fields (t : Fin 4) :
    regFields (PWM_LOADAT_LO t) = [wholeWord] ∧ regFields (PWM_LOADAT_LO t + 4) = [wholeWord] := by
  revert t
  decide +kernel

theorem wholeWord_put (n v : Word) : wholeWord.fld.put n (wholeWord.fld.get v) = v := by
  apply BitVec.eq_of_getLsbD_eq
  intro i hi
  rw [getLsbD_put _ _ _ _ (by decide), if_pos (by simpa [wholeWord] using hi), testBit_get _ _ _ (by decide)]
  simp [wholeWord, hi]

section
variable {s : State} {b : Nat} {v : Word} (hf : regFields b = [wholeWord])
include hf

theorem newReg_wholeWord (hr : readOnlyBits b = 0) : s.newReg b v = v := by
  have all : v &&& ~~~(0 : Word) = v := BitVec.and_allOnes
  simp only [State.newReg, hf, hr, all, List.foldl_cons, List.foldl_nil]
  exact wholeWord_put _ v

theorem lockBroken_wholeWord (e : Fin 46) : s.lockBroken (.engine e) b v = false := by
  simp [State.lockBroken, State.changes, hf, wholeWord]

theorem staticBroken_wholeWord : s.staticBroken b v = false := by
  simp [State.staticBroken, State.changes, hf, wholeWord]

end

theorem writePair_loadAt (s : State) (e : Fin 46) (t : Fin 4) (vl vh : Word) :
    writePair (.engine e) (PWM_LOADAT_LO t) (PWM_LOADAT_LO t + 4) vl vh s = putPair (PWM_LOADAT_LO t) vl vh s := by
  obtain ⟨-, xbar, -, block, -, ro, ro'⟩ := loadAt_pair t
  obtain ⟨low, high⟩ := loadAt_fields t
  have range : s.pairRange (PWM_LOADAT_LO t) vl vh = true := by
    simp [State.pairRange, block, xbar]
  simp [writePair, lockBroken_wholeWord low, lockBroken_wholeWord high, staticBroken_wholeWord low, staticBroken_wholeWord high,
    newReg_wholeWord low ro, newReg_wholeWord high ro', block, range, xbar, putPair]

end Sys2Proof.Machine
end

section
/-! SUPPORT. An engine that stops with a cause (R204). -/

namespace Sys2Proof.Machine

/-! ## An event reaches beyond the registers of the cabinets only records -/

/-- The engines, and the registers beside those of the cabinets. -/
def State.beyond (s : State) : Vector Engine 46 × (Nat → Word) :=
  (s.engines, fun a => if 0x40000 ≤ a ∧ a < 0x44000 then 0 else s.reg a)

section
variable (s : State)

theorem beyond_setReg (a : Nat) (v : Word) (h : 0x40000 ≤ a ∧ a < 0x44000) : (s.setReg a v).beyond = s.beyond := by
  unfold State.beyond
  refine Prod.ext rfl (funext fun b => ?_)
  by_cases hb : a = b
  · simp [← hb, h]
  · simp [State.reg_setReg_other s a b v hb]

@[simp] theorem beyond_setFld (a : Nat) (f : Fld) (x : Nat) (h : 0x40000 ≤ a ∧ a < 0x44000) :
    (s.setFld a f x).beyond = s.beyond := beyond_setReg s a _ h

@[simp] theorem beyond_count (a : Nat) (f : Fld) (h : 0x40000 ≤ a ∧ a < 0x44000) : (s.count a f).beyond = s.beyond :=
  beyond_setReg s a _ h

@[simp] theorem beyond_modCab (c : Fin 4) (f : Cabinet → Cabinet) : (s.modCab c f).beyond = s.beyond := (rfl)
@[simp] theorem beyond_modRing (c : Fin 4) (n : Fin 16) (f : Ring → Ring) : (s.modRing c n f).beyond = s.beyond := (rfl)
@[simp] theorem beyond_emit (o : Out) : (s.emit o).beyond = s.beyond := (rfl)

@[simp] theorem beyond_record (k : RecKind) (sev kind idx : Nat) (params : List Nat) :
    (record k sev kind idx params s).beyond = s.beyond := (rfl)

@[simp] theorem beyond_ite (c : Prop) [Decidable c] (s t : State) :
    (if c then s else t).beyond = if c then s.beyond else t.beyond := apply_ite State.beyond c s t

@[simp] theorem cabinet_range (c : Fin 4) : (0x40000 ≤ HIF_CAB_CNT c ∧ HIF_CAB_CNT c < 0x44000) ∧
    0x40000 ≤ HIF_CAB_EVSEQ c ∧ HIF_CAB_EVSEQ c < 0x44000 := by
  simp only [HIF_CAB_CNT, HIF_CAB_EVSEQ]
  omega

@[simp] theorem ring_range (c : Fin 4) (n : Fin 16) : (0x40000 ≤ HIF_RING_DEV c n ∧ HIF_RING_DEV c n < 0x44000) ∧
    0x40000 ≤ HIF_RING_CNT c n ∧ HIF_RING_CNT c n < 0x44000 := by
  simp only [HIF_RING_DEV, HIF_RING_CNT]
  omega

@[simp] theorem beyond_loseEvent (c : Fin 4) : (loseEvent c s).beyond = s.beyond := by simp [loseEvent]

@[simp] theorem beyond_nextEvSeq (c : Fin 4) : (nextEvSeq c s).beyond = s.beyond := by simp [nextEvSeq]

@[simp] theorem beyond_sendVector (c : Fin 4) (v : Nat) : (sendVector c v s).beyond = s.beyond := by
  cases h : (s.cab c).vecs[v]? <;> simp [sendVector, h]

@[simp] theorem beyond_requestIrq (c : Fin 4) (n : Fin 16) (urgent : Bool) : (requestIrq c n urgent s).beyond = s.beyond := by
  simp [requestIrq]

@[simp] theorem beyond_writeEntry (c : Fin 4) (n : Fin 16) (e : Entry) (urgent : Bool) :
    (writeEntry c n e urgent s).beyond = s.beyond := by
  simp [writeEntry]

@[simp] theorem beyond_writeEvent (c : Fin 4) (n : Fin 16) (b : EvBody) : (writeEvent c n b s).beyond = s.beyond := by
  simp [writeEvent]

@[simp] theorem beyond_eventsLostFirst (c : Fin 4) (n : Fin 16) (t : Nat) : (eventsLostFirst c n t s).beyond = s.beyond := by
  simp [eventsLostFirst]

@[simp] theorem beyond_raiseEvent (c : Fin 4) (b : EvBody) : (raiseEvent c b s).beyond = s.beyond := by
  cases h : s.eventRing c b.sev <;> simp [raiseEvent, h]

theorem raiseStopped_beyond (e : Fin 46) (cause : Nat) : (raiseStopped e cause s).beyond = s.beyond := by
  unfold raiseStopped
  generalize s.engCabs e = l
  induction l generalizing s with
  | nil => rfl
  | cons c l ih => rw [List.foldl_cons, ih, beyond_raiseEvent]

theorem raiseStopped_grows (e : Fin 46) (cause : Nat) : Grows s (raiseStopped e cause s) := by
  unfold raiseStopped
  generalize s.engCabs e = l
  induction l generalizing s with
  | nil => exact .refl s
  | cons c l ih => exact Grows.trans (Blind.grows (fun q z => Veil.raiseEvent q z c _) s) (ih _)

theorem record_eng (k : RecKind) (sev kind idx : Nat) (params : List Nat) (d : Fin 46) :
    (record k sev kind idx params s).eng d = s.eng d := (rfl)

theorem raiseStopped_eng (e d : Fin 46) (cause : Nat) : (raiseStopped e cause s).eng d = s.eng d := by
  have engines : (raiseStopped e cause s).engines = s.engines := congrArg Prod.fst (raiseStopped_beyond s e cause)
  rw [State.eng, engines, State.eng]

theorem raiseStopped_fld (e : Fin 46) (cause : Nat) {a : Nat} (f : Fld) (h : a < 0x40000) :
    (raiseStopped e cause s).fld a f = s.fld a f := by
  have regs := congrFun (congrArg Prod.snd (raiseStopped_beyond s e cause)) a
  have out : ¬ (0x40000 ≤ a ∧ a < 0x44000) := by omega
  simp only [State.beyond, out, if_false] at regs
  rw [State.fld, regs, State.fld]

end

/-! ## A stop -/

/-- The engine as its stop leaves it, before the record and the events. -/
def stopMarked (e : Fin 46) (cause : Nat) (s : State) : State :=
  (((endRun e s).setFld (ENG_STAT e) ENG_STAT_STATE 4).setFld (ENG_STAT e) ENG_STAT_CAUSE cause).count (ENG_CNT e) ENG_CNT_STOPS

theorem stopEngine_eq (e : Fin 46) (cause : Nat) (s : State) : stopEngine e cause s =
    raiseStopped e cause (record .engStopped 1 5 e [cause, (stopMarked e cause s).fld (ENG_PC e) ENG_PC_PC]
      (stopMarked e cause s)) := rfl

section
variable (s : State) (e : Fin 46) (cause : Nat)

theorem peak_reg (b : Nat) (f : Fld) (x a : Nat) (h : a ≠ b) : (s.peak b f x).reg a = s.reg a := by
  unfold State.peak
  split
  · exact State.reg_setFld_far _ _ _ _ _ h.symm
  · rfl

theorem peak_eng (b : Nat) (f : Fld) (x : Nat) (d : Fin 46) : (s.peak b f x).eng d = s.eng d := by
  unfold State.peak
  split
  · exact State.eng_setFld ..
  · rfl

theorem peak_recorder (b : Nat) (f : Fld) (x : Nat) : (s.peak b f x).recorder = s.recorder := by
  unfold State.peak
  split
  · exact State.setFld_recorder ..
  · rfl

theorem endRun_reg (a : Nat) (h : a ≠ ENG_USE e) : (endRun e s).reg a = s.reg a := by
  rw [endRun, State.reg_modEng, peak_reg _ _ _ _ _ h, State.reg_setFld_far _ _ _ _ _ h.symm]

theorem stopMarked_recorder : (stopMarked e cause s).recorder = s.recorder := by
  rw [stopMarked, State.count_recorder, State.setFld_recorder, State.setFld_recorder, endRun, State.modEng_recorder,
    peak_recorder, State.setFld_recorder]

theorem stopMarked_stat (h : cause < 256) : (stopMarked e cause s).fld (ENG_STAT e) ENG_STAT_STATE = 4 ∧
    (stopMarked e cause s).fld (ENG_STAT e) ENG_STAT_CAUSE = cause := by
  have apart : ENG_CNT e ≠ ENG_STAT e := by
    unfold ENG_CNT ENG_STAT
    omega
  constructor
  · rw [stopMarked, State.fld, State.reg_count_other _ _ _ _ apart, ← State.fld,
      State.fld_setFld_other _ _ _ _ _ (by decide) (by decide) (by decide), State.fld_setFld_same _ _ _ _ (by decide)]
    rfl
  · rw [stopMarked, State.fld, State.reg_count_other _ _ _ _ apart, ← State.fld, State.fld_setFld_same _ _ _ _ (by decide)]
    exact Nat.mod_eq_of_lt h

theorem stopMarked_counts : Counts s (stopMarked e cause s) (ENG_CNT e) ENG_CNT_STOPS := by
  have apart : ENG_STAT e ≠ ENG_CNT e ∧ ENG_CNT e ≠ ENG_USE e := by
    unfold ENG_CNT ENG_STAT ENG_USE
    omega
  rw [Counts, stopMarked, State.fld_count_same _ _ _ (by decide), State.fld_setFld_far _ _ _ _ _ _ apart.1,
    State.fld_setFld_far _ _ _ _ _ _ apart.1, State.fld, endRun_reg s e _ apart.2, State.fld]

theorem stopMarked_eng : (stopMarked e cause s).eng e = { s.eng e with running := false } := by
  rw [stopMarked, State.eng_count, State.eng_setFld, State.eng_setFld, endRun, State.eng_modEng_same, peak_eng, State.eng_setFld]

/-- A program that stops (R204). -/
theorem stopInRun_stops (hk : engKind e ≠ 2) (h : cause < 256) : Stops s (stopInRun e cause s) e cause := by
  have stat := stopMarked_stat s e cause h
  have eng := stopMarked_eng s e cause
  have counts := stopMarked_counts s e cause
  have low : ENG_STAT e < 0x40000 ∧ ENG_CNT e < 0x40000 := by
    unfold ENG_STAT ENG_CNT
    omega
  rw [stopInRun, if_neg hk, stopEngine_eq]
  refine ⟨?_, ?_, ?_, ?_, ?_, ?_⟩
  · rw [raiseStopped_fld _ _ _ _ low.1, record_fld, stat.1]
  · rw [raiseStopped_fld _ _ _ _ low.1, record_fld, stat.2]
  · rw [raiseStopped_eng, record_eng, eng]
  · rw [raiseStopped_eng, record_eng, eng]
  · rw [Counts, raiseStopped_fld _ _ _ _ low.2, record_fld]
    exact counts
  · have recorded := record_logs .engStopped 1 5 e [cause, (stopMarked e cause s).fld (ENG_PC e) ENG_PC_PC]
      (stopMarked e cause s)
    exact Grows.logs (Grows.of_recorder (stopMarked_recorder s e cause)) (recorded.grows (raiseStopped_grows ..))

end

end Sys2Proof.Machine
end

section
/-! SUPPORT. Accesses of the axis bus that stop their engine (R203, R204, R211). -/

namespace Sys2Proof.Machine

section
variable {s : State} {e : Fin 46} {d a : Fin 16} {imm : BitVec 18} {cross : Nat} {lost : Bool}

/-- An instruction that stops its engine leaves what a stop leaves. -/
theorem engExec_stops {w : Word} {cyc c : Nat} {act : State → EngDo} (hk : engKind e ≠ 2) (hc : c < 256) (hw : s.atWord e w)
    (ha : act (s.stepped e cyc) = .stop c) : Stops s (engExec e w cyc act s) e c := by
  rw [engExec_stop hw ha]
  exact stopInRun_stops s e c hk hc

theorem abrd_stops (hk : engKind e ≠ 2) (hr : s.readOk e (s.busAddr e a imm) = false) (hw : s.atWord e (wI 0x2C d a imm)) :
    Runs (.abrd e d a imm cross lost) s fun t => Stops s t e 5 := by
  refine ⟨_, exec_abrd lost, engExec_stops hk (by decide) hw ?_⟩
  simp only [stepped_busAddr, settleFor_stepped, readOk_of_still (accessed_still ..), hr, Bool.false_eq_true, if_false]

theorem abwr_stops (hk : engKind e ≠ 2) (ho : s.writeOk e (s.busAddr e a imm) = false) (hw : s.atWord e (wI 0x2D d a imm)) :
    Runs (.abwr e d a imm cross lost) s fun t => Stops s t e 5 := by
  refine ⟨_, exec_abwr lost, engExec_stops hk (by decide) hw ?_⟩
  simp only [stepped_busAddr, writeOk_of_still (stepped_still ..), ho, Bool.false_eq_true, if_false]

/-- A pair cannot begin at k15. -/
theorem abrdp_stops (hk : engKind e ≠ 2) (hd : d.1 = 15) (hw : s.atWord e (wI 0x2E d a imm)) :
    Runs (.abrdp e d a imm cross lost) s fun t => Stops s t e 2 :=
  have past : 14 < d.1 := by omega
  ⟨_, exec_abrdp lost, engExec_stops hk (by decide) hw (if_pos past)⟩

theorem abwrp_stops (hk : engKind e ≠ 2) (hd : d.1 = 15) (hw : s.atWord e (wI 0x2F d a imm)) :
    Runs (.abwrp e d a imm cross lost) s fun t => Stops s t e 2 :=
  have past : 14 < d.1 := by omega
  ⟨_, exec_abwrp lost, engExec_stops hk (by decide) hw (if_pos past)⟩

end

end Sys2Proof.Machine
end

section
/-! SUPPORT. What ABRD, ABRDP, ABWR and ABWRP leave, an access at a time (R203, R211, R252, R255). -/

namespace Sys2Proof.Machine

section
variable {s : State} {e : Fin 46} {d a : Fin 16} {imm : BitVec 18} {cross : Nat}

/-! ## Lost writes -/

theorem abwr_lost (hn : s.hasWord e (s.pcNext e)) (ho : s.writeOk e (s.busAddr e a imm) = true)
    (hw : s.atWord e (wI 0x2D d a imm)) {c : Nat}
    (hc : c = (s.eng e).cycles + 1 + stallCycles (s.eng e).posted ((s.eng e).cycles + 1)) :
    Runs (.abwr e d a imm cross true) s fun t =>
      t.fld (ENG_PC e) ENG_PC_PC = s.pcNext e ∧ Counts s t CFG_XING_CNT CFG_XING_CNT_REG_ABORT ∧
      RegsBut [ENG_PC e, CFG_XING_CNT] s t ∧
      t.eng e = { s.eng e with
        count := (s.eng e).count + 1
        cycles := c
        posted := ((s.eng e).posted.filter fun y => decide (c < y)) ++ [c + s.readCycles e (s.busAddr e a imm) cross] } ∧
      EngsBut [e] s t := by
  have goes := abwrDone_lost_goesOn (d := d) (a := a) (imm := imm) (cross := cross) hn
  refine ⟨_, (exec_abwr true).trans (execAbwr_done true hn ho hw goes), goes.pc, regAbort_afterPost_counts _ 1,
    regAbort_afterPost_regs _ 1, ?_, regAbort_afterPost_engs _ 1⟩
  rw [abwrDone, if_pos rfl, regAbort_eng, afterPost_eng, hc]
  rfl

theorem abwrp_lost (hn : s.hasWord e (s.pcNext e)) (ho : s.writeOk e (s.busAddr e a imm) = true)
    (ho' : s.writeOk e (s.busAddr e a imm + 4) = true) (hd : d.1 ≤ 14) (hw : s.atWord e (wI 0x2F d a imm)) :
    Runs (.abwrp e d a imm cross true) s fun t =>
      t.fld (ENG_PC e) ENG_PC_PC = s.pcNext e ∧ RegsBut [ENG_PC e, CFG_XING_CNT] s t ∧ (t.eng e).k = (s.eng e).k ∧
      EngsBut [e] s t := by
  have goes := abwrpDone_lost_goesOn (d := d) (a := a) (imm := imm) (cross := cross) hn
  refine ⟨_, (exec_abwrp true).trans (execAbwrp_done true hn ho ho' hd hw goes), goes.pc, regAbort_afterPost_regs _ 2, ?_,
    regAbort_afterPost_engs _ 2⟩
  rw [abwrpDone, if_pos rfl, regAbort_eng, (afterPost_kept ..).1]

/-! ## Writes that wait for the next boundary -/

theorem abwr_due {x : Fin 32} (hn : s.hasWord e (s.pcNext e)) (hb : blockOf (s.busAddr e a imm) = .axis x) (hk : engKind e = 0)
    (ho : s.engWrites e (s.busAddr e a imm) = true) (h4 : s.busAddr e a imm % 4 = 0) (hw : s.atWord e (wI 0x2D d a imm)) :
    Runs (.abwr e d a imm cross false) s fun t =>
      (t.eng e).due = (s.eng e).due ++ [(s.busAddr e a imm, s.kreg e d)] ∧ t.fld (ENG_PC e) ENG_PC_PC = s.pcNext e ∧
      RegsBut [ENG_PC e] s t ∧ EngsBut [e] s t ∧ Touches [.regs, .engines] s t := by
  have left := afterPost_due (s.readCycles e (s.busAddr e a imm) cross) 1 [(s.busAddr e a imm, s.kreg e d)] hn
  rw [← abwrDone_due hb hk ho] at left
  obtain ⟨goes, due, regs, engs, parts⟩ := left
  exact ⟨_, (exec_abwr false).trans (execAbwr_done false hn (writeOk_of_engWrites h4 ho) hw goes), due, goes.pc, regs, engs, parts⟩

theorem abwrp_due {x : Fin 32} (hn : s.hasWord e (s.pcNext e)) (hb : blockOf (s.busAddr e a imm) = .axis x) (hk : engKind e = 0)
    (ho : s.engWrites e (s.busAddr e a imm) = true) (h4 : s.busAddr e a imm % 4 = 0)
    (hb' : blockOf (s.busAddr e a imm + 4) = .axis x) (ho' : s.engWrites e (s.busAddr e a imm + 4) = true) (hd : d.1 ≤ 14)
    (hw : s.atWord e (wI 0x2F d a imm)) :
    Runs (.abwrp e d a imm cross false) s fun t =>
      (t.eng e).due = (s.eng e).due ++ [(s.busAddr e a imm + 4, s.kreg e (kAfter d 1)), (s.busAddr e a imm, s.kreg e d)] ∧
      t.fld (ENG_PC e) ENG_PC_PC = s.pcNext e ∧ RegsBut [ENG_PC e] s t ∧ EngsBut [e] s t := by
  have left := afterPost_due (s.readCycles e (s.busAddr e a imm) cross) 2
    [(s.busAddr e a imm + 4, s.kreg e (kAfter d 1)), (s.busAddr e a imm, s.kreg e d)] hn
  rw [← abwrpDone_due hb hk ho hb' ho'] at left
  obtain ⟨goes, due, regs, engs, -⟩ := left
  exact ⟨_, (exec_abwrp false).trans (execAbwrp_done false hn (writeOk_of_engWrites h4 ho)
    (writeOk_of_engWrites (by omega) ho') hd hw goes), due, goes.pc, regs, engs⟩

/-! ## Writes that take effect -/

theorem abwr_plain (hn : s.hasWord e (s.pcNext e)) (hw : s.atWord e (wI 0x2D d a imm)) (h4 : s.busAddr e a imm % 4 = 0)
    (ho : s.engWrites e (s.busAddr e a imm) = true) (hf : regFields (s.busAddr e a imm) ≠ [])
    (hk : ∀ x, blockOf (s.busAddr e a imm) = .axis x → engKind e ≠ 0) (hp : plainReg (s.busAddr e a imm) = true)
    (hc : commitOf (s.busAddr e a imm) = none) (hh : heldBy (s.busAddr e a imm) = none)
    (hs : settleFor s (s.busAddr e a imm) = s) (hb : ∀ t : Fin 4, (s.tile t).parBad.contains (s.busAddr e a imm) = false)
    (hv : s.passes (.engine e) (s.busAddr e a imm) (s.kreg e d)) :
    Runs (.abwr e d a imm cross false) s fun t =>
      t.reg (s.busAddr e a imm) = s.newReg (s.busAddr e a imm) (s.kreg e d) ∧ RegsBut [s.busAddr e a imm, ENG_PC e] s t ∧
      (t.eng e).k = (s.eng e).k ∧ EngsBut [e] s t ∧
      Touches (if shadowed (s.busAddr e a imm) then [.regs, .late, .written, .engines] else [.regs, .engines]) s t := by
  have left := putPlain_landing (n := s.newReg (s.busAddr e a imm) (s.kreg e d)) (s.readCycles e (s.busAddr e a imm) cross) 1
    hn ho hs
  rw [← abwrDone_plain h4 ho hf hk hp hc hh hs hb hv] at left
  obtain ⟨goes, stored⟩ := left
  exact ⟨_, (exec_abwr false).trans (execAbwr_done false hn (writeOk_of_engWrites h4 ho) hw goes), stored⟩

/-- ABWRP that stores a pair, by what it does. -/
theorem abwrp_putPair {l h : Word} {k : List HeldHi} (hn : s.hasWord e (s.pcNext e)) (hw : s.atWord e (wI 0x2F d a imm))
    (h4 : s.busAddr e a imm % 4 = 0) (hd : d.1 ≤ 14) (ho : s.engWrites e (s.busAddr e a imm) = true)
    (ho' : s.engWrites e (s.busAddr e a imm + 4) = true)
    (hp : abwrpDone s e d a imm cross false =
      putPair (s.busAddr e a imm) l h ((s.afterPost e (s.readCycles e (s.busAddr e a imm) cross) 2).setHeld k)) :
    Runs (.abwrp e d a imm cross false) s fun t =>
      t.reg (s.busAddr e a imm) = l ∧ t.reg (s.busAddr e a imm + 4) = h ∧
      RegsBut [s.busAddr e a imm, s.busAddr e a imm + 4, ENG_PC e] s t ∧ t.axes = s.axes ∧ t.ports = s.ports ∧
      t.tiles = s.tiles := by
  have left := putPair_afterPost (s.readCycles e (s.busAddr e a imm) cross) 2 (s.busAddr e a imm) l h k hn ho ho'
  rw [← hp] at left
  obtain ⟨goes, stored⟩ := left
  exact ⟨_, (exec_abwrp false).trans (execAbwrp_done false hn (writeOk_of_engWrites h4 ho)
    (writeOk_of_engWrites (by omega) ho') hd hw goes), stored⟩

/-- ABWRP of a supervisor to PWM_LOADAT of its tile. -/
theorem abwrp_loadAt {t : Fin 4} (hn : s.hasWord e (s.pcNext e)) (hw : s.atWord e (wI 0x2F d a imm)) (ht : s.engTile e = t)
    (hk : engKind e = 1) (hb : s.busAddr e a imm = PWM_LOADAT_LO t) (hd : d.1 ≤ 14) :
    Runs (.abwrp e d a imm cross false) s fun u =>
      u.pair (s.busAddr e a imm) = (s.kreg e d).toNat + 2 ^ 32 * (s.kreg e (kAfter d 1)).toNat ∧
      RegsBut [s.busAddr e a imm, s.busAddr e a imm + 4, ENG_PC e] s u ∧ u.axes = s.axes ∧ u.ports = s.ports ∧
      u.tiles = s.tiles := by
  obtain ⟨h4, -, commit, block, block', -⟩ := loadAt_pair t
  obtain ⟨low, high⟩ := loadAt_fields t
  rw [← hb] at h4 commit block block' low high
  have own : s.engWrites e (s.busAddr e a imm) = true := by simp [State.engWrites, hk, block, ht]
  have own' : s.engWrites e (s.busAddr e a imm + 4) = true := by simp [State.engWrites, hk, block', ht]
  obtain ⟨k, both⟩ := abwrpDone_pair (d := d) (cross := cross) h4 own own' (by simp [low]) (by simp [high]) (by omega) commit
    (lockBroken_wholeWord high e)
  have stores := both
  rw [hb, writePair_loadAt, ← hb] at stores
  obtain ⟨u, run, lo, hi, rest⟩ := abwrp_putPair hn hw h4 hd own own' stores
  exact ⟨u, run, by simp [State.pair, lo, hi], rest⟩

end

/-- Settles O40: every access settles its port or posts its write in the state after the engine's step, and what it reads and
checks does not see that step. -/
theorem engineBusAccesses : Obligations.EngineBusAccesses := by
  unfold Obligations.EngineBusAccesses
  intro s e d a imm cross lost addr cyc one
  refine ⟨fun hn => ⟨fun hr hw => ?abrd, fun k hr hr' hd hw hk => ?abrdp, fun c ho hw hc => abwr_lost hn ho hw hc,
    fun ho ho' hd hw => abwrp_lost hn ho ho' hd hw, fun x hb hk ho => ⟨fun h4 hw => abwr_due hn hb hk ho h4 hw,
      fun h4 hb' ho' hd hw => abwrp_due hn hb hk ho h4 hb' ho' hd hw⟩,
    fun hw h4 ho hf hk hp hc hh hs hb hv => abwr_plain hn hw h4 ho hf hk hp hc hh hs hb hv,
    fun hw h4 hd ho ho' hf hf' x hb hk hc hp hx hl hs hl' hs' hr => ?pair,
    fun t hw ht hk hb hd => abwrp_loadAt hn hw ht hk hb hd⟩,
    fun hk => ⟨abrd_stops hk, abwr_stops hk, abrdp_stops hk, abwrp_stops hk⟩⟩
  case abrd =>
    refine ⟨_, (exec_abrd lost).trans (execAbrd_done lost hn hr hw), abrdDone_k .., abrdDone_pc s e d a imm cross lost hn, ?_, ?_⟩
    · rintro rfl
      exact abrdDone_aborts ..
    · rintro rfl hs
      exact abrdDone_executes s e d a imm cross hn hs
  case abrdp =>
    have read := (abrdpDone_k s e d a imm cross lost).trans hk.symm
    refine ⟨_, (exec_abrdp lost).trans (execAbrdp_done lost hn hr hr' hd hw), read, abrdpDone_pc s e d a imm cross lost hn, ?_⟩
    rintro rfl hs
    rw [← read]
    exact abrdpDone_executes s e d a imm cross hn hs
  case pair =>
    obtain ⟨l, stores⟩ := abwrpDone_axis h4 ho ho' hf hf' hk hb hc hp hx hl hs hl' hs' hr
    exact abwrp_putPair hn hw h4 hd ho ho' stores

end Sys2Proof.Machine
end

section
/-! SUPPORT. Registers, counters and outputs as the network island changes them: what an update of one register leaves of the
others, a count, and what has been sent. -/

namespace Sys2Proof.Machine

/-! ## Registers but some -/

theorem RegsBut.refl (as : List Nat) (s : State) : RegsBut as s s := fun _ _ => rfl

theorem RegsBut.trans {as : List Nat} {s t u : State} (h : RegsBut as s t) (h' : RegsBut as t u) : RegsBut as s u :=
  fun a ha => (h' a ha).trans (h a ha)

theorem regsBut_setFld {as : List Nat} (s : State) {a : Nat} (f : Fld) (x : Nat) (h : a ∈ as) :
    RegsBut as s (s.setFld a f x) :=
  fun b hb => State.reg_setFld_far s a b f x fun e => hb (e ▸ h)

/-- Registers but some, of a state with the registers of another one. -/
theorem RegsBut.congr {as : List Nat} {s t u : State} (h : RegsBut as s t) (hu : u.regs = t.regs) : RegsBut as s u :=
  fun a ha => by rw [State.reg, hu]; exact h a ha

theorem RegsBut.fld {as : List Nat} {s t : State} (h : RegsBut as s t) {a : Nat} (ha : a ∉ as) (f : Fld) :
    t.fld a f = s.fld a f := by
  rw [State.fld, h a ha, State.fld]

theorem RegsBut.bit {as : List Nat} {s t : State} (h : RegsBut as s t) {a : Nat} (ha : a ∉ as) (f : Fld) :
    t.bit a f = s.bit a f := by
  rw [State.bit, h.fld ha, State.bit]

theorem State.bit_setBit_far (s : State) (a b : Nat) (f g : Fld) (x : Bool) (h : a ≠ b) : (s.setBit a f x).bit b g = s.bit b g :=
  (regsBut_setFld (as := [a]) s f _ (List.mem_singleton_self a)).bit (by simpa using h.symm) g

/-- A field that shares no bit with another one reads as before when that one is set, in whatever register. -/
theorem State.fld_setFld_apart (s : State) (a b : Nat) (f g : Fld) (x : Nat) (hf : f.lo + f.width ≤ 32)
    (hg : g.lo + g.width ≤ 32) (h : f.apart g = true) : (s.setFld a f x).fld b g = s.fld b g := by
  by_cases e : a = b
  · subst e; exact State.fld_setFld_other s a f g x hf hg h
  · exact State.fld_setFld_far s a b f g x e

/-! ## Counts -/

/-- A counter that counts once (R260). -/
theorem counts_count (s : State) (a : Nat) (f : Fld) (h : f.lo + f.width ≤ 32) : Counts s (s.count a f) a f := by
  have room := Nat.two_pow_pos f.width
  rw [Counts, State.count, State.countN, State.fld_setFld_same s a f _ h, Nat.mod_eq_of_lt (by omega)]

theorem regsBut_count (s : State) (a : Nat) (f : Fld) : RegsBut [a] s (s.count a f) :=
  regsBut_setFld s f _ (List.mem_singleton_self a)

/-- A count seen from states that read the counter as the states between which it counts. -/
theorem Counts.congr {s t s' t' : State} {a : Nat} {f : Fld} (h : Counts s t a f) (hs : s'.fld a f = s.fld a f)
    (ht : t'.fld a f = t.fld a f) : Counts s' t' a f := by
  rw [Counts, ht, hs]
  exact h

/-! ## What has been sent -/

theorem Sends.grows {s t u : State} {o : Out} (h : Sends s t o) (g : t.out <:+ u.out) : Sends s u o := by
  obtain ⟨l, hl, ho⟩ := h
  obtain ⟨m, hm⟩ := g
  exact ⟨m ++ l, by rw [← hm, hl, List.append_assoc], List.mem_append_right m ho⟩

theorem Sends.after {s t u : State} {o : Out} (h : Sends t u o) (g : s.out <:+ t.out) : Sends s u o := by
  obtain ⟨l, hl, ho⟩ := h
  obtain ⟨m, hm⟩ := g
  exact ⟨l ++ m, by rw [hl, ← hm, List.append_assoc], List.mem_append_left m ho⟩

theorem sends_emit (s : State) (o : Out) : Sends s (s.emit o) o := ⟨[o], rfl, List.mem_singleton_self o⟩

/-! ## The network and line time -/

@[simp] theorem State.net_modNet (s : State) (f : Net → Net) : (s.modNet f).net = f s.net := (rfl)
@[simp] theorem State.modNet_up (s : State) (f : Net → Net) : (s.modNet f).up = s.up := (rfl)

@[simp] theorem net_record (k : RecKind) (sev kind idx : Nat) (params : List Nat) (s : State) :
    (record k sev kind idx params s).net = s.net := (rfl)

/-- Line time that has been reached is reached again without a change. -/
theorem State.reach_reached {s : State} {t : Nat} (h : t ≤ s.now) : s.reach t = s := by
  rw [State.reach, Nat.max_eq_left h]
  rfl

end Sys2Proof.Machine
end

section
/-! SUPPORT. O46 fails: whether a port is enabled is taken in the state before the Sync, and line time that reaches the Sync may
land the entry to OFF of the last enabled port. -/

namespace Sys2Proof.Machine

/-- A one-step Sync of domain 0 from clock 8, received on port 0 at 20 ns; its origin at 0 gives an offset of 20 ns (R22). -/
def lateSync : SyncIn := ⟨8, 0, 0, false, 0, 0, 0, 0, 20⟩

/-- A slave of clock 8 with an offset not yet corrected, at line time 0. Its one enabled bridge port is ARMED, and an entry to OFF
lands at the port valley at 10 ns, before the Sync (R145). -/
def offBeforeSync : State :=
  ((((State.reset.setFld NET_CTRL NET_CTRL_PROFILE 1).setBit (NET_PORT_CTRL 0) NET_PORT_CTRL_EN true).modNet fun x =>
    { x with parent := some ([0, 0, 0, 0, 0, 0, 0, 8], 0) }).setPortState 0 pARMED).modPwm 0 fun w =>
    { w with offDue := true, valleyAt := some 10 }

/-- The port is enabled when the Sync comes and OFF when line time has reached it: line time is stepped, and nothing is left to slew
(R31). -/
theorem offBeforeSync_steps : offBeforeSync.anyPortOn = true ∧ (offBeforeSync.reach 20).anyPortOn = false ∧
    (syncReceive lateSync (offBeforeSync.reach 20)).net.slew = 0 := by
  decide +kernel

/-- Refutes O46: a port enabled in the state before the Sync is said to make the offset a slew, but the model looks at the ports at
the instant of the Sync, when the entry to OFF of that port has landed, and steps line time. -/
theorem not_lineTimeFollowsItsSource : ¬ Obligations.LineTimeFollowsItsSource := by
  unfold Obligations.LineTimeFollowsItsSource
  intro h
  obtain ⟨sync, -⟩ := h offBeforeSync 0
  have takes : offBeforeSync.netTakes 0 = true := by decide +kernel
  have profile : offBeforeSync.profile = 1 := by decide +kernel
  have first : (offBeforeSync.reach 20).isCopy 0 8 101 0 = false := by decide +kernel
  have domain : 0 = offBeforeSync.fld NET_CTRL NET_CTRL_DOMAIN := by decide +kernel
  have offset : 20 = offBeforeSync.syncOffset lateSync := by decide +kernel
  have open_ : offBeforeSync.net.corrected = false := by decide +kernel
  obtain ⟨enabled, -, slew⟩ := offBeforeSync_steps
  have runs := sync lateSync [0, 0, 0, 0, 0, 0, 0, 8] 0 20 (by simp [profile]) takes first (by decide) (by decide) domain
    (by simp [profile]) rfl rfl offset
  obtain ⟨-, -, -, -, correction⟩ := runs.holds (t := syncReceive lateSync (offBeforeSync.reach 20)) rfl
  obtain ⟨-, -, slewed, -⟩ := correction open_
  have claimed := (slewed enabled (by decide)).1
  rw [slew] at claimed
  exact absurd claimed (by decide)

end Sys2Proof.Machine
end

section
/-! SUPPORT. A line frame of the device's own (R33): what its sending leaves, and that it leaves on each serving port. -/

namespace Sys2Proof.Machine

/-- A part that is not among the listed ones is kept. -/
theorem kept_part {ps : List Part} {s t : State} (h : Ok (keepBut ps s) t) (p : Part) (hp : p ∉ ps) : p.same s t := by
  obtain ⟨-, -, -, -, parts⟩ := h
  exact parts p hp

/-- Nothing sent is taken back. -/
theorem kept_sent {ps : List Part} {s t : State} (h : Ok (keepBut ps s) t) : s.out <:+ t.out := by
  obtain ⟨-, -, sent, -, -⟩ := h
  exact sent

theorem followVersion_regs (s : State) : RegsBut [NET_LF_VER] s (followVersion s) :=
  regsBut_setFld s _ _ (List.mem_singleton_self _)

@[simp] theorem followVersion_net (s : State) : (followVersion s).net = s.net := (rfl)
@[simp] theorem followVersion_now (s : State) : (followVersion s).now = s.now := (rfl)
@[simp] theorem followVersion_out (s : State) : (followVersion s).out = s.out := (rfl)
@[simp] theorem followVersion_up (s : State) : (followVersion s).up = s.up := (rfl)

/-- The global registers and those of the network read the same in two states, but for NET_LF_VER. -/
def SameNet (s t : State) : Prop := ∀ a, a < 0x20000 → a ≠ NET_LF_VER → t.reg a = s.reg a

theorem SameNet.refl (s : State) : SameNet s s := fun _ _ _ => rfl

theorem SameNet.trans {s t u : State} (h : SameNet s t) (h' : SameNet t u) : SameNet s u :=
  fun a ha hv => (h' a ha hv).trans (h a ha hv)

theorem SameNet.of_version {s t : State} (h : RegsBut [NET_LF_VER] s t) : SameNet s t :=
  fun a _ hv => h a (by simpa using hv)

theorem SameNet.of_regs {s t : State} (h : t.regs = s.regs) : SameNet s t := fun a _ _ => by rw [State.reg, h, State.reg]

theorem portCtrl_range (n : Fin 2) : NET_PORT_CTRL n < 0x20000 ∧ NET_PORT_CTRL n ≠ NET_LF_VER := by
  simp only [NET_PORT_CTRL, NET_LF_VER]
  omega

section
variable {s t : State} (h : SameNet s t)
include h

theorem SameNet.fld {a : Nat} (f : Fld) (ha : a < 0x20000) (hv : a ≠ NET_LF_VER) : t.fld a f = s.fld a f := by
  rw [State.fld, h a ha hv, State.fld]

theorem SameNet.seg (f : Fld) : t.fld NET_SEG f = s.fld NET_SEG f := h.fld f (by decide) (by decide)

theorem SameNet.mayTalk : t.mayTalk = s.mayTalk := by
  rw [State.mayTalk, State.devState, h.fld GLB_STATE_STATE (a := GLB_STATE) (by decide) (by decide)]
  rfl

theorem SameNet.netPortUp (hr : t.net.retired = s.net.retired) (n : Fin 2) : t.netPortUp n = s.netPortUp n := by
  obtain ⟨range, ne⟩ := portCtrl_range n
  rw [State.netPortUp, State.bit, h.fld _ range ne, hr]
  rfl

theorem SameNet.lineTag (n : Fin 2) : t.lineTag n = s.lineTag n := by
  obtain ⟨range, ne⟩ := portCtrl_range n
  simp only [State.lineTag, State.bit, h.fld _ range ne]
  rfl

theorem SameNet.member (d : Nat) : t.member d = s.member d := by
  rw [State.member, h NET_MEMBER_LO (by decide) (by decide), h NET_MEMBER_HI (by decide) (by decide), State.member]

end

/-- A frame as it leaves on a port, with the header of R33 that the state gives it. -/
def State.lineOut (s : State) (n : Fin 2) (ty q entries : Nat) (fields : List Int) : Out :=
  .frame n ty q (s.lineTag n) ([(s.fld NET_LF_VER NET_LF_VER_USED : Int), s.fld NET_SEG NET_SEG_SEG_ID,
    s.fld NET_SEG NET_SEG_DEVNUM, entries, s.now] ++ fields)

/-- The frame that leaves on a port, if the port serves. -/
def State.linesOn (s : State) (n : Fin 2) (ty q entries : Nat) (fields : List Int) : List Out :=
  if s.netPortUp n then [s.lineOut n ty q entries fields] else []

/-- Outputs put out, the latest first. -/
def State.emitAll (s : State) (l : List Out) : State := { s with out := l ++ s.out }

@[simp] theorem State.reg_emitAll (s : State) (l : List Out) (a : Nat) : (s.emitAll l).reg a = s.reg a := (rfl)
@[simp] theorem State.fld_emitAll (s : State) (l : List Out) (a : Nat) (f : Fld) : (s.emitAll l).fld a f = s.fld a f := (rfl)
@[simp] theorem State.emitAll_net (s : State) (l : List Out) : (s.emitAll l).net = s.net := (rfl)

/-- The next sequence number of a frame type. -/
def State.nextSeq (s : State) (ty : Nat) : Nat := s.net.txSeq.toArray.getD (ty - 1) 0

/-- The version in use is shown and a sequence number of a frame type is taken (R33, R35). -/
def startLine (ty : Nat) (s : State) : State :=
  (followVersion s).modNet fun x => { x with txSeq := x.txSeq.setIfInBounds (ty - 1) ((s.nextSeq ty + 1) % 65536) }

section
variable (ty entries : Nat) (fields : List Int) (s : State)

theorem startLine_regs : RegsBut [NET_LF_VER] s (startLine ty s) := (followVersion_regs s).congr rfl

theorem sendLine_silent (h : s.mayTalk = false) : sendLine ty entries fields s = s := by simp [sendLine, h]

theorem sendLine_talks (h : s.mayTalk = true) : sendLine ty entries fields s =
    (startLine ty s).emitAll ((startLine ty s).linesOn 1 ty (s.nextSeq ty) entries fields ++
      (startLine ty s).linesOn 0 ty (s.nextSeq ty) entries fields) := by
  have start : sendLine ty entries fields s =
      let one (s' : State) (n : Fin 2) : State :=
        if s'.netPortUp n then s'.emit (s'.lineOut n ty (s.nextSeq ty) entries fields) else s'
      one (one (startLine ty s) 0) 1 := if_neg (by simp [h])
  rw [start]
  generalize startLine ty s = z
  unfold State.linesOn
  cases up : z.netPortUp 0
  · cases up' : z.netPortUp 1 <;> simp [up, up'] <;> rfl
  · have up1 : (z.emit (z.lineOut 0 ty (s.nextSeq ty) entries fields)).netPortUp 1 = z.netPortUp 1 := rfl
    cases up' : z.netPortUp 1 <;> simp [up, up1, up'] <;> rfl

/-- A frame sent takes a sequence number, shows the version in use and is put out; nothing else changes. -/
theorem sendLine_cases : sendLine ty entries fields s = s ∨ ∃ l, sendLine ty entries fields s = (startLine ty s).emitAll l := by
  cases h : s.mayTalk
  · exact .inl (sendLine_silent ty entries fields s h)
  · exact .inr ⟨_, sendLine_talks ty entries fields s h⟩

theorem sendLine_regs : RegsBut [NET_LF_VER] s (sendLine ty entries fields s) := by
  rcases sendLine_cases ty entries fields s with e | ⟨l, e⟩ <;> rw [e]
  · exact .refl _ s
  · exact (startLine_regs ty s).congr rfl

/-- Of the network a frame sent changes nothing but the sequence numbers. -/
theorem sendLine_net : ∃ q, (sendLine ty entries fields s).net = { s.net with txSeq := q } := by
  rcases sendLine_cases ty entries fields s with e | ⟨l, e⟩ <;> rw [e] <;> exact ⟨_, rfl⟩

theorem sendLine_same : SameNet s (sendLine ty entries fields s) := .of_version (sendLine_regs ty entries fields s)

theorem sendLine_keeps : Ok (keepBut [.regs, .net, .out] s) (sendLine ty entries fields s) :=
  sendLine_ok ty entries fields s (keepBut_start _ s) (by simp [keepBut]) (by simp [keepBut]) (by simp [keepBut])

/-- A device that may talk sends the frame on each serving port, with its next number, its tag, its header and its fields (R33). -/
theorem sendLine_sends (n : Fin 2) (ht : s.mayTalk = true) (hn : s.netPortUp n = true) :
    Sends s (sendLine ty entries fields s) (.frame n ty (s.nextSeq ty) (s.lineTag n)
      ([((sendLine ty entries fields s).fld NET_LF_VER NET_LF_VER_USED : Int), s.fld NET_SEG NET_SEG_SEG_ID,
        s.fld NET_SEG NET_SEG_DEVNUM, entries, s.now] ++ fields)) := by
  have regs := SameNet.of_version (startLine_regs ty s)
  have up : (startLine ty s).netPortUp n = true := (regs.netPortUp rfl n).trans hn
  have line : (startLine ty s).linesOn n ty (s.nextSeq ty) entries fields = [.frame n ty (s.nextSeq ty) (s.lineTag n)
      ([((startLine ty s).fld NET_LF_VER NET_LF_VER_USED : Int), s.fld NET_SEG NET_SEG_SEG_ID,
        s.fld NET_SEG NET_SEG_DEVNUM, entries, s.now] ++ fields)] := by
    rw [State.linesOn, if_pos up, State.lineOut, regs.lineTag n, regs.seg, regs.seg]
    rfl
  rw [sendLine_talks ty entries fields s ht]
  refine ⟨_, rfl, List.mem_append.2 ?_⟩
  rw [State.fld_emitAll]
  match n with
  | 0 => exact .inr (line ▸ List.mem_singleton_self _)
  | 1 => exact .inl (line ▸ List.mem_singleton_self _)

end

/-! ## Registers beside those of the cabinets -/

theorem reg_of_beyond {s t : State} (h : t.beyond = s.beyond) {a : Nat} (ha : ¬ (0x40000 ≤ a ∧ a < 0x44000)) :
    t.reg a = s.reg a := by
  have regs := congrFun (congrArg Prod.snd h) a
  simpa only [State.beyond, ha, if_false] using regs

theorem beyond_foldl {α : Type} (l : List α) (g : State → α → State) (h : ∀ s, ∀ x ∈ l, (g s x).beyond = s.beyond) (s : State) :
    (l.foldl g s).beyond = s.beyond := by
  induction l generalizing s with
  | nil => rfl
  | cons x l ih =>
    rw [List.foldl_cons, ih (fun s y hy => h s y (List.mem_cons_of_mem _ hy)), h s x (List.mem_cons_self ..)]

/-! ## Frames received -/

section
variable {n : Fin 2} {ty : Nat} {h : LineHdr} {f : State → State} {s : State}

theorem lineTests_pass {f : State → State} (hs : h.seg = s.fld NET_SEG NET_SEG_SEG_ID) (hv : h.ver ≤ 2) :
    lineTests h f s = f s := by
  rw [lineTests, if_neg (by simp [hs]), if_neg (by omega)]

/-- A second copy of a frame does nothing (R33). -/
theorem lineFrame_copy (hc : s.isCopy n h.src ty h.seq = true) : lineFrame n ty h f s = s := by
  simp [lineFrame, hc]

/-- The first copy of a frame of the own segment goes through the tests of its source (R33, R36). -/
theorem lineFrame_first (hn : s.netTakes n = true) (hc : s.isCopy n h.src ty h.seq = false)
    (hs : h.seg = s.fld NET_SEG NET_SEG_SEG_ID) (hv : h.ver ≤ 2) : lineFrame n ty h f s = f s := by
  rw [lineFrame, if_pos (by simp [hn, hc]), lineTests_pass hs hv]

theorem sourceTests_pass {src : Nat} (ok : s.sourceOk src = true) : sourceTests src f s = f (noteAccepted src true s) := if_pos ok

end

end Sys2Proof.Machine
end

section
/-! SUPPORT. O48: a frame forwarded, new or a second copy (R27–R29). -/

namespace Sys2Proof.Machine

/-- What a forwarded frame of an unlisted option counts (R25). -/
def noteUnlisted (f : FwdFrame) (s : State) : State := if s.unlistedPtp f then ptpDrop s else s

/-- The filter entries that have not passed their 1 ms (R29). -/
def State.recentDups (s : State) : List DupEntry := s.net.dup.filter fun d => decide (s.up < d.seenAt + 1000000)

/-- A frame lies among the recent ones. -/
def State.seen (s : State) (src k q : Nat) : Bool := s.recentDups.any fun d => d.src == src && d.kind == k && d.seq == q

section
variable (s : State) (f : FwdFrame)

theorem noteUnlisted_listed (h : s.unlistedPtp f = false) : noteUnlisted f s = s := by simp [noteUnlisted, h]

theorem noteUnlisted_unlisted (h : s.unlistedPtp f = true) : noteUnlisted f s = ptpDrop s := by simp [noteUnlisted, h]

theorem noteUnlisted_cases : noteUnlisted f s = s ∨ noteUnlisted f s = ptpDrop s := by
  cases h : s.unlistedPtp f
  · exact .inl (noteUnlisted_listed s f h)
  · exact .inr (noteUnlisted_unlisted s f h)

theorem noteUnlisted_regs : RegsBut [NET_FRAME_CNT] s (noteUnlisted f s) := by
  rcases noteUnlisted_cases s f with h | h <;> rw [h]
  · exact .refl _ s
  · exact regsBut_count s _ _

@[simp] theorem noteUnlisted_net : (noteUnlisted f s).net = s.net := by
  rcases noteUnlisted_cases s f with h | h <;> rw [h]; rfl

@[simp] theorem noteUnlisted_out : (noteUnlisted f s).out = s.out := by
  rcases noteUnlisted_cases s f with h | h <;> rw [h]; rfl

@[simp] theorem noteUnlisted_up : (noteUnlisted f s).up = s.up := by
  rcases noteUnlisted_cases s f with h | h <;> rw [h]; rfl

end

theorem netPortCtrl_ne_frameCnt (n : Nat) (h : n < 2) : NET_PORT_CTRL n ∉ [NET_FRAME_CNT] ∧ NET_PORT_STAT n ∉ [NET_FRAME_CNT] ∧
    NET_ASYM n ∉ [NET_FRAME_CNT] := by
  simp only [List.mem_singleton, NET_PORT_CTRL, NET_PORT_STAT, NET_ASYM, NET_FRAME_CNT]
  omega

/-- The correction of a frame reads neither the counters of frames nor the duplicate filter (R25, R27). -/
theorem correction_congr {s t : State} (h : RegsBut [NET_FRAME_CNT] s t) (hd : s.net.syncRes = t.net.syncRes)
    (hp : s.net.pathDelay = t.net.pathDelay) (hm : s.net.parent = t.net.parent) (n : Fin 2) (f : FwdFrame) :
    t.correction n f = s.correction n f := by
  have asym : t.fldI (NET_ASYM n) NET_ASYM_ASYM = s.fldI (NET_ASYM n) NET_ASYM_ASYM := by
    rw [State.fldI, h.fld (netPortCtrl_ne_frameCnt n n.2).2.2, State.fldI]
  have profile : t.profile = s.profile := h.fld (by decide) _
  have residence (src q : Nat) : t.syncResidence src q = s.syncResidence src q := by
    rw [State.syncResidence, State.syncResidence, hd]
  have parent (m : Fin 2) : t.parentAt m = s.parentAt m := by rw [State.parentAt, State.parentAt, hm]
  simp only [State.correction, asym, profile, residence, parent, hp]

/-- The duplicate filter holds other entries. -/
def State.setDup (s : State) (l : List DupEntry) : State := s.modNet fun x => { x with dup := l }

/-- The correction of a frame reads the registers of its port, the profile, and of the network neither the filter nor what else a
frame changes on its way (R25, R27). -/
@[simp] theorem correction_setDup (s : State) (l : List DupEntry) (n : Fin 2) (f : FwdFrame) :
    (s.setDup l).correction n f = s.correction n f := (rfl)

/-- A frame with a source, a type and a number on its way to the other port: discarded as a second copy, or sent on. -/
def relay (n : Fin 2) (f : FwdFrame) (src k q : Nat) (s : State) : State :=
  if s.seen src k q then (s.setDup s.recentDups).count NET_FRAME_CNT NET_FRAME_CNT_DUP_DROP
  else keepResidence f ((s.setDup ((⟨n.1, src, k, q, s.up⟩ :: s.recentDups).take 256)).emit
    (.frame (otherPort n) (frameKind f) q none [s.correction n f]))

section
variable {s : State} {n : Fin 2} {f : FwdFrame} {src k q : Nat}

/-- A peer-delay message stays on its link; every other frame that passes a block leaves on the other port (R28, R29). -/
theorem leaves_link (hp : ∀ r a b c, f ≠ .ptp (.peerDelay r) a b c) : (passesBlock f && frameKind f == 0) = false := by
  unfold passesBlock
  split
  · exact absurd rfl (hp _ _ _ _)
  · rfl
  · rfl

/-- Between two serving, open ports a frame that the filter knows is relayed, an unlisted option counted (R25, R28). -/
theorem frameForward_known (hd : s.devState ≠ dOFF) (hn : s.netPortUp n = true) (hb : s.blocked n = false)
    (hm : s.netPortUp (otherPort n) = true) (hc : s.blocked (otherPort n) = false) (hk : dupKey f = some (src, k, q))
    (hp : ∀ r a b c, f ≠ .ptp (.peerDelay r) a b c) : frameForward n f s = relay n f src k q (noteUnlisted f s) := by
  have regs := noteUnlisted_regs s f
  obtain ⟨ctrl, stat, -⟩ := netPortCtrl_ne_frameCnt n n.2
  obtain ⟨ctrl', stat', -⟩ := netPortCtrl_ne_frameCnt (otherPort n) (otherPort n).2
  have up : (noteUnlisted f s).netPortUp (otherPort n) = true := by
    rw [State.netPortUp, regs.bit ctrl', noteUnlisted_net]; exact hm
  have open_ : (noteUnlisted f s).blocked n = false := by
    rw [State.blocked, regs.bit ctrl, regs.bit stat]; exact hb
  have open' : (noteUnlisted f s).blocked (otherPort n) = false := by
    rw [State.blocked, regs.bit ctrl', regs.bit stat']; exact hc
  have noted : (if s.unlistedPtp f then ptpDrop s else s) = noteUnlisted f s := rfl
  unfold frameForward
  rw [if_neg (by simp [hd, hn, hb])]
  simp only [noted, hk, up, open_, open', leaves_link hp, Bool.not_false, Bool.and_true, if_true]
  rfl

@[simp] theorem keepResidence_out (f : FwdFrame) (s : State) : (keepResidence f s).out = s.out := by
  unfold keepResidence; split <;> rfl

@[simp] theorem keepResidence_regs (f : FwdFrame) (s : State) : (keepResidence f s).regs = s.regs := by
  unfold keepResidence; split <;> rfl

/-- A frame not seen within 1 ms goes out on the other port (R28). -/
theorem relay_new (h : s.seen src k q = false) :
    (relay n f src k q s).out = .frame (otherPort n) (frameKind f) q none [s.correction n f] :: s.out ∧
      (relay n f src k q s).regs = s.regs := by
  rw [relay, if_neg (by simp [h])]
  exact ⟨by rw [keepResidence_out]; rfl, by rw [keepResidence_regs]; rfl⟩

/-- A second copy is discarded and counted (R29). -/
theorem relay_again (h : s.seen src k q = true) :
    relay n f src k q s = (s.setDup s.recentDups).count NET_FRAME_CNT NET_FRAME_CNT_DUP_DROP := if_pos h

theorem seen_noteUnlisted : (noteUnlisted f s).seen src k q = s.seen src k q := by
  simp [State.seen, State.recentDups]

theorem seen_iff : s.seen src k q = true ↔ ∃ d ∈ s.net.dup, d.src = src ∧ d.kind = k ∧ d.seq = q ∧ s.up < d.seenAt + 1000000 := by
  simp only [State.seen, State.recentDups, List.any_filter, List.any_eq_true, Bool.and_eq_true, decide_eq_true_eq, beq_iff_eq]
  exact exists_congr fun d => and_congr_right fun _ => by tauto

/-- FRAME_FORWARD of a new frame (R27, R28). -/
theorem relay_noted_new (h : s.seen src k q = false) :
    (relay n f src k q (noteUnlisted f s)).out = .frame (otherPort n) (frameKind f) q none [s.correction n f] :: s.out ∧
      (s.unlistedPtp f = false → (relay n f src k q (noteUnlisted f s)).regs = s.regs) ∧
      (s.unlistedPtp f = true → Counts s (relay n f src k q (noteUnlisted f s)) NET_FRAME_CNT NET_FRAME_CNT_PTP_DROP ∧
        RegsBut [NET_FRAME_CNT] s (relay n f src k q (noteUnlisted f s))) := by
  obtain ⟨out, regs⟩ := relay_new (n := n) (f := f) ((seen_noteUnlisted (f := f)).trans h)
  have correction := correction_congr (noteUnlisted_regs s f) (by simp) (by simp) (by simp) n f
  refine ⟨by rw [out, correction, noteUnlisted_out], fun listed => by rw [regs, noteUnlisted_listed s f listed],
    fun unlisted => ⟨?_, (noteUnlisted_regs s f).congr regs⟩⟩
  refine (counts_count s NET_FRAME_CNT NET_FRAME_CNT_PTP_DROP (by decide)).congr rfl ?_
  rw [State.fld, State.reg, regs, noteUnlisted_unlisted s f unlisted]
  rfl

/-- FRAME_FORWARD of a second copy (R29). -/
theorem relay_noted_again (h : s.seen src k q = true) :
    (relay n f src k q (noteUnlisted f s)).out = s.out ∧
      Counts s (relay n f src k q (noteUnlisted f s)) NET_FRAME_CNT NET_FRAME_CNT_DUP_DROP ∧
      RegsBut [NET_FRAME_CNT] s (relay n f src k q (noteUnlisted f s)) := by
  rw [relay_again ((seen_noteUnlisted (f := f)).trans h)]
  refine ⟨noteUnlisted_out s f, ?_, ((noteUnlisted_regs s f).congr rfl).trans (regsBut_count _ _ _)⟩
  refine (counts_count _ NET_FRAME_CNT NET_FRAME_CNT_DUP_DROP (by decide)).congr ?_ rfl
  have drops : (noteUnlisted f s).fld NET_FRAME_CNT NET_FRAME_CNT_DUP_DROP = s.fld NET_FRAME_CNT NET_FRAME_CNT_DUP_DROP := by
    rcases noteUnlisted_cases s f with e | e <;> rw [e]
    exact State.fld_setFld_other s _ NET_FRAME_CNT_PTP_DROP _ _ (by decide) (by decide) (by decide)
  exact drops.symm

end

end Sys2Proof.Machine
end

section
/-! SUPPORT. O48: heartbeats sent, received and missed (R29, R34–R36). -/

namespace Sys2Proof.Machine

/-! ## Sent -/

/-- What a device notes of a heartbeat it has sent (R29). -/
def hbSent (s : State) : State :=
  s.modNet fun x => { x with lastHb := s.up, hbOut := true, returns := if x.hbOut then 0 else x.returns }

section
variable (s : State)

theorem heartbeatTx_due (h : s.net.lastHb = 0 ∨ s.net.lastHb + s.hbNs ≤ s.up) :
    ∃ fields, heartbeatTx s = hbSent (sendLine 1 0 fields (followVersion s)) :=
  ⟨_, if_neg (by omega)⟩

theorem hbSent_regs : (hbSent s).regs = s.regs := rfl

/-- HEARTBEAT_TX of a due heartbeat (R34). -/
theorem heartbeatTx_sends (n : Fin 2) (ht : s.mayTalk = true) (hn : s.netPortUp n = true)
    (h : s.net.lastHb = 0 ∨ s.net.lastHb + s.hbNs ≤ s.up) :
    (heartbeatTx s).net.lastHb = s.up ∧ (heartbeatTx s).net.hbOut = true ∧
      (heartbeatTx s).net.returns = (if s.net.hbOut then 0 else s.net.returns) ∧ RegsBut [NET_LF_VER] s (heartbeatTx s) ∧
      ∃ fields, Sends s (heartbeatTx s) (.frame n 1 (s.nextSeq 1) (s.lineTag n)
        ([((heartbeatTx s).fld NET_LF_VER NET_LF_VER_USED : Int), s.fld NET_SEG NET_SEG_SEG_ID, s.fld NET_SEG NET_SEG_DEVNUM, 0,
          s.now] ++ fields)) := by
  obtain ⟨fields, e⟩ := heartbeatTx_due s h
  rw [e]
  have version := followVersion_regs s
  have same := SameNet.of_version version
  have regs := version.trans (sendLine_regs 1 0 fields (followVersion s))
  obtain ⟨q, net⟩ := sendLine_net 1 0 fields (followVersion s)
  dsimp only [followVersion_net] at net
  have kept := sendLine_keeps 1 0 fields (followVersion s)
  have up : (sendLine 1 0 fields (followVersion s)).up = s.up := by
    have now : (sendLine 1 0 fields (followVersion s)).now = s.now := kept_part kept .now (by decide)
    have dev : (sendLine 1 0 fields (followVersion s)).dev = s.dev := kept_part kept .dev (by decide)
    rw [State.up, now, dev, State.up]
  refine ⟨up, rfl, ?_, regs.congr rfl, fields, ?_⟩
  · simp [hbSent, net]
  · have sends := sendLine_sends 1 0 fields (followVersion s) n (same.mayTalk.trans ht)
      ((same.netPortUp rfl n).trans hn)
    rw [same.lineTag n, same.seg, same.seg] at sends
    exact sends

end

/-! ## Received -/

section
variable {s : State} {n : Fin 2} {h : LineHdr} {b : Heartbeat}

theorem heartbeatReceive_copy (hc : s.isCopy n h.src 1 h.seq = true) : heartbeatReceive n h b s = s := by
  simp [heartbeatReceive, hc]

/-- The first copy of a heartbeat of the own segment goes by its source (R29, R33). -/
theorem heartbeatReceive_first (hn : s.netPortUp n = true) (hc : s.isCopy n h.src 1 h.seq = false)
    (hs : h.seg = s.fld NET_SEG NET_SEG_SEG_ID) (hv : h.ver ≤ 2) :
    (h.src ≠ s.fld NET_SEG NET_SEG_DEVNUM → heartbeatReceive n h b s = heartbeatFrom h b s) ∧
      (h.src = s.fld NET_SEG NET_SEG_DEVNUM → heartbeatReceive n h b s = heartbeatReturned s) := by
  rw [heartbeatReceive, if_neg (by simp [hn, hc]), lineTests_pass hs hv]
  exact ⟨fun other => if_neg other, fun own => if_pos own⟩

/-- A heartbeat of another device refreshes what is known of it (R34–R36). -/
theorem heartbeatFrom_refreshes (h : LineHdr) (b : Heartbeat) (s : State) :
    (∃ y ∈ (heartbeatFrom h b s).net.sources, y.dev = h.src ∧ y.heardAt = s.up ∧ y.epoch = b.epoch ∧ y.seq = h.seq ∧
      y.txTime = h.time ∧ ∀ o, (s.net.sources.find? fun z => z.dev == h.src) = some o → y.interval = o.next h) ∧
    RegsBut [NET_LF_VER] s (heartbeatFrom h b s) := by
  refine ⟨⟨_, List.mem_cons_self .., rfl, rfl, rfl, rfl, rfl, fun o ho => ?_⟩, ?_⟩
  · simp only [ho]
  · exact RegsBut.trans ((RegsBut.refl _ s).congr rfl) (followVersion_regs _)

/-! ## The ring keeper -/

/-- A heartbeat of the device's own is noted as returned (R29). -/
def noteReturn (s : State) : State :=
  s.modNet fun x => { x with lastReturn := s.up, returns := if x.hbOut then x.returns + 1 else x.returns, hbOut := false }

theorem portRegs_ne : NET_PORT_STAT 0 ≠ NET_PORT_STAT 1 ∧ NET_PORT_STAT 0 ≠ NET_PORT_CTRL 1 ∧ NET_PORT_STAT 0 ≠ NET_PORT_CTRL 0 := by
  decide

/-- The block of one port opens or closes where the port has one (R29). -/
def blockPort (o : Bool) (n : Fin 2) (s : State) : State :=
  if s.bit (NET_PORT_CTRL n) NET_PORT_CTRL_BLOCK then s.setBit (NET_PORT_STAT n) NET_PORT_STAT_BLOCK_OPEN o else s

theorem setBlockOpen_eq (o : Bool) (s : State) : setBlockOpen o s = blockPort o 1 (blockPort o 0 s) := rfl

theorem blockPort_regs (o : Bool) (n : Fin 2) (s : State) : RegsBut [NET_PORT_STAT n] s (blockPort o n s) := by
  unfold blockPort
  split
  · exact regsBut_setFld s _ _ (List.mem_singleton_self _)
  · exact .refl _ s

theorem blockPort_open (o : Bool) (n : Fin 2) (s : State) : (blockPort o n s).bit (NET_PORT_STAT n) NET_PORT_STAT_BLOCK_OPEN =
    if s.bit (NET_PORT_CTRL n) NET_PORT_CTRL_BLOCK then o else s.bit (NET_PORT_STAT n) NET_PORT_STAT_BLOCK_OPEN := by
  unfold blockPort
  split
  · exact State.bit_setBit_same s _ _ o (by decide) rfl
  · rfl

/-- The block of each port after it opens or closes (R29). -/
theorem setBlockOpen_open (o : Bool) (s : State) (n : Fin 2) : (setBlockOpen o s).bit (NET_PORT_STAT n) NET_PORT_STAT_BLOCK_OPEN =
    if s.bit (NET_PORT_CTRL n) NET_PORT_CTRL_BLOCK then o else s.bit (NET_PORT_STAT n) NET_PORT_STAT_BLOCK_OPEN := by
  rw [setBlockOpen_eq]
  have first := blockPort_regs o 0 s
  have second := blockPort_regs o 1 (blockPort o 0 s)
  match n with
  | 0 => rw [second.bit (by decide)]; exact blockPort_open o 0 s
  | 1 =>
    rw [show ((1 : Fin 2) : Nat) = 1 from rfl] at *
    rw [← first.bit (a := NET_PORT_CTRL 1) (by decide), ← first.bit (a := NET_PORT_STAT 1) (by decide)]
    exact blockPort_open o 1 _

theorem setBlockOpen_regs (o : Bool) (s : State) : RegsBut [NET_PORT_STAT 0, NET_PORT_STAT 1] s (setBlockOpen o s) := by
  intro a ha
  obtain ⟨h0, h1⟩ : a ≠ NET_PORT_STAT 0 ∧ a ≠ NET_PORT_STAT 1 := by simpa using ha
  rw [setBlockOpen_eq, blockPort_regs o 1 _ a (by simpa using h1), blockPort_regs o 0 s a (by simpa using h0)]

theorem setBlockOpen_net (o : Bool) (s : State) : (setBlockOpen o s).net = s.net := by
  rw [setBlockOpen_eq, blockPort, blockPort]
  split <;> split <;> rfl

theorem setBlockOpen_recorder (o : Bool) (s : State) : (setBlockOpen o s).recorder = s.recorder := by
  rw [setBlockOpen_eq, blockPort, blockPort]
  split <;> split <;> rfl

theorem noteReturn_bit (a : Nat) (f : Fld) : (noteReturn s).bit a f = s.bit a f := rfl

@[simp] theorem blockOpen_record (k : RecKind) (sev kind idx : Nat) (params : List Nat) :
    (record k sev kind idx params s).blockOpen = s.blockOpen := (rfl)

theorem blockOpen_iff : s.blockOpen = true ↔ ∃ m : Fin 2, s.bit (NET_PORT_STAT m) NET_PORT_STAT_BLOCK_OPEN = true := by
  simp [State.blockOpen, Fin.exists_fin_two]

/-- The third own heartbeat in a row to return closes an open block (R29). -/
theorem heartbeatReturned_closes (hr : 2 ≤ s.net.returns) (ho : s.net.hbOut = true) (hb : s.blockOpen = true)
    (hm : ∀ m : Fin 2, s.bit (NET_PORT_STAT m) NET_PORT_STAT_BLOCK_OPEN = true → s.bit (NET_PORT_CTRL m) NET_PORT_CTRL_BLOCK = true) :
    (heartbeatReturned s).blockOpen = false ∧ (heartbeatReturned s).net.lastReturn = s.up ∧
      Logs s (heartbeatReturned s) (.dev .ringKeeper) 4 0 := by
  have third : 3 ≤ (noteReturn s).net.returns := by simpa [noteReturn, ho] using hr
  have closes : heartbeatReturned s = record .ringKeeper 0 4 0 [0] (setBlockOpen false (noteReturn s)) := if_pos ⟨hb, third⟩
  have shut (m : Fin 2) : (setBlockOpen false (noteReturn s)).bit (NET_PORT_STAT m) NET_PORT_STAT_BLOCK_OPEN = false := by
    rw [setBlockOpen_open, noteReturn_bit, noteReturn_bit]
    split
    next => rfl
    next unblocked => exact Bool.eq_false_iff.2 fun e => unblocked (hm m e)
  rw [closes, blockOpen_record, net_record, setBlockOpen_net]
  refine ⟨Bool.eq_false_iff.2 fun e => ?_, rfl,
    Grows.logs (.of_recorder (t := setBlockOpen false (noteReturn s)) (setBlockOpen_recorder false (noteReturn s)))
      (record_logs ..)⟩
  obtain ⟨m, hm⟩ := blockOpen_iff.1 e
  rw [shut m] at hm
  cases hm

/-- The count of the heartbeats that came back begins again (R29). -/
def restartReturns (s : State) : State := s.modNet fun x => { x with returns := 0 }

/-- The block of the keeper opens after 3 intervals without a return (R29). -/
theorem ringKeeperOpen_opens (hk : s.keeper = true) (hb : s.blockOpen = false) (h : s.net.lastReturn + 3 * s.hbNs ≤ s.up) :
    (ringKeeperOpen s).blockOpen = true ∧ (ringKeeperOpen s).net.returns = 0 ∧ Logs s (ringKeeperOpen s) (.dev .ringKeeper) 4 0 ∧
      RegsBut [NET_PORT_STAT 0, NET_PORT_STAT 1] s (ringKeeperOpen s) := by
  have opens : ringKeeperOpen s = record .ringKeeper 1 4 0 [1] (setBlockOpen true (restartReturns s)) :=
    if_pos ⟨hk, by simp [hb], h⟩
  obtain ⟨m, hm⟩ : ∃ m : Fin 2, s.bit (NET_PORT_CTRL m) NET_PORT_CTRL_BLOCK = true := by
    simpa [State.keeper, Fin.exists_fin_two] using hk
  rw [opens, blockOpen_record, net_record, setBlockOpen_net]
  refine ⟨blockOpen_iff.2 ⟨m, ?_⟩, rfl,
    Grows.logs (.of_recorder (t := setBlockOpen true (restartReturns s))
      (setBlockOpen_recorder true (restartReturns s))) (record_logs ..),
    RegsBut.congr (setBlockOpen_regs true (restartReturns s)) rfl⟩
  rw [setBlockOpen_open]
  exact if_pos hm

/-! ## Missed -/

/-- A source silent for 3 of its intervals is accepted no more (R36). -/
theorem heartbeatTimeout_refuses {src : Nat} {y : HbSource} (hf : (s.net.sources.find? fun z => z.dev == src) = some y)
    (h : y.heardAt + 3 * y.interval < s.up) :
    (heartbeatTimeout src s).sourceOk src = false ∧ RegsBut [NET_LF_VER] s (heartbeatTimeout src s) := by
  have dev := List.find?_some hf
  have silent : heartbeatTimeout src s = followVersion s :=
    if_pos (List.any_eq_true.2 ⟨y, List.mem_of_find?_eq_some hf, by simpa [h] using dev⟩)
  rw [silent]
  refine ⟨?_, followVersion_regs s⟩
  simp only [State.sourceOk, followVersion_net, hf, followVersion_up]
  simp [Nat.not_le.2 h]

end

end Sys2Proof.Machine
end

section
/-! SUPPORT. O48: the links and the self-tests of the network ports (R319), and the statement. -/

namespace Sys2Proof.Machine

section
variable {s : State} {n : Fin 2}

theorem networkStat_ne_retired (n : Nat) (h : n < 2) : GLB_RET_CNT2 ≠ NET_PORT_STAT n := by
  simp only [GLB_RET_CNT2, NET_PORT_STAT]
  omega

/-- The instant at which the link of a port went down is noted, or forgotten (R319). -/
def setDown (n : Fin 2) (d : Option Nat) (s : State) : State := s.modNet fun x => { x with downAt := x.downAt.set n.1 d }

/-- A link that comes up, quickly or not, and one that goes down (R319). -/
theorem linkChange_up (h : s.net.retired[n] = false) :
    linkChange n true s =
      let z := setDown n none (s.setBit (NET_PORT_STAT n) NET_PORT_STAT_LINK true)
      if (s.net.downAt[n]).any (fun d => decide (s.up ≤ d + 1000000000)) then record .linkTransient 0 6 n [] z.transient else z := by
  rw [linkChange, if_neg (by simp [h])]
  rfl

theorem linkChange_down (h : s.net.retired[n] = false) :
    linkChange n false s = setDown n (some s.up) (s.setBit (NET_PORT_STAT n) NET_PORT_STAT_LINK false) := by
  rw [linkChange, if_neg (by simp [h])]
  rfl

/-- NETWORK_LINK_CHANGE of a port that is not retired (R319). -/
theorem linkChange_shows (up : Bool) (h : s.net.retired[n] = false) :
    (linkChange n up s).bit (NET_PORT_STAT n) NET_PORT_STAT_LINK = up ∧
      (up = false → (linkChange n up s).net.downAt[n] = some s.up ∧ (linkChange n up s).recorder = s.recorder) ∧
      (∀ d, up = true → s.net.downAt[n] = some d → s.up ≤ d + 1000000000 → Logs s (linkChange n up s) (.dev .linkTransient) 6 n.1) ∧
      RegsBut [NET_PORT_STAT n] s (linkChange n up s) := by
  have shown := State.bit_setBit_same s (NET_PORT_STAT n) NET_PORT_STAT_LINK up (by decide) rfl
  have regs : RegsBut [NET_PORT_STAT n] s (s.setBit (NET_PORT_STAT n) NET_PORT_STAT_LINK up) :=
    regsBut_setFld s _ _ (List.mem_singleton_self _)
  cases up with
  | false =>
    rw [linkChange_down h]
    exact ⟨shown, fun _ => ⟨by simp [setDown], rfl⟩, nofun, regs⟩
  | true =>
    rw [linkChange_up h]
    dsimp only
    refine ⟨?_, nofun, fun d _ hd quick => ?_, ?_⟩
    · split <;> exact shown
    · rw [if_pos (by simp [hd, quick])]
      exact Grows.logs (.of_recorder rfl) (record_logs ..)
    · split <;> exact regs

/-! ## Self-tests -/

/-- The failed self-tests of a port within the last 10 s (R319). -/
def State.recentFails (s : State) (n : Fin 2) : List Nat := s.net.selfTest[n].filter fun y => decide (s.up ≤ y + 10000000000)

/-- A failed self-test is noted (R319). -/
def noteFail (n : Fin 2) (s : State) : State :=
  s.modNet fun x => { x with selfTest := x.selfTest.set n.1 (s.up :: s.recentFails n) }

/-- A port is retired: down for good, and counted (R319). -/
def retirePort (n : Fin 2) (s : State) : State :=
  ((s.modNet fun x => { x with retired := x.retired.set n.1 true }).setBit (NET_PORT_STAT n) NET_PORT_STAT_LINK false).count
    GLB_RET_CNT2 GLB_RET_CNT2_NET_PORTS

theorem selfTestFail_eq (h : s.net.retired[n] = false) : selfTestFail n s =
    if 2 ≤ (s.recentFails n).length then linkParent n (record .netRetired 1 6 n [] (retirePort n (noteFail n s)))
    else record .netSelfTest 0 6 n [(s.recentFails n).length + 1] (noteFail n s).transient := by
  have recent : (s.up :: s.net.selfTest[n]).filter (fun x => decide (s.up ≤ x + 10000000000)) = s.up :: s.recentFails n :=
    List.filter_cons_of_pos (by simp)
  have third : 3 ≤ (s.up :: s.recentFails n).length ↔ 2 ≤ (s.recentFails n).length := by simp
  rw [selfTestFail, if_neg (by simp [h]), recent]
  simp only [third]
  rfl

section
variable (n : Fin 2) (s : State)

theorem followParent_fld (a : Nat) (f : Fld) (hf : f.lo + f.width ≤ 32) (h : NET_PORT_STAT_PARENT.apart f = true) :
    (followParent s).fld a f = s.fld a f :=
  (State.fld_setFld_apart _ _ a _ f _ (by decide) hf h).trans (State.fld_setFld_apart s _ a _ f _ (by decide) hf h)

theorem linkParent_cases : linkParent n s = s ∨
    linkParent n s = followParent (s.modNet fun x => { x with parent := none, lastAnnounce := none }) := by
  unfold linkParent
  split
  · split
    · exact .inr rfl
    · exact .inl rfl
  · exact .inl rfl

/-- Where the parent is lost nothing else of a port changes (R26). -/
theorem linkParent_fld (a : Nat) (f : Fld) (hf : f.lo + f.width ≤ 32) (h : NET_PORT_STAT_PARENT.apart f = true) :
    (linkParent n s).fld a f = s.fld a f := by
  rcases linkParent_cases n s with e | e <;> rw [e]
  exact followParent_fld _ a f hf h

theorem followParent_regs : RegsBut [NET_PORT_STAT 0, NET_PORT_STAT 1] s (followParent s) :=
  (regsBut_setFld s _ _ (List.mem_cons_self ..)).trans (regsBut_setFld _ _ _ (List.mem_cons_of_mem _ (List.mem_cons_self ..)))

theorem linkParent_regs : RegsBut [NET_PORT_STAT 0, NET_PORT_STAT 1] s (linkParent n s) := by
  rcases linkParent_cases n s with e | e <;> rw [e]
  · exact .refl _ s
  · exact RegsBut.trans ((RegsBut.refl _ s).congr rfl) (followParent_regs _)

theorem linkParent_retired : (linkParent n s).net.retired = s.net.retired := by
  rcases linkParent_cases n s with e | e <;> rw [e]
  rfl

theorem linkParent_recorder : (linkParent n s).recorder = s.recorder := by
  rcases linkParent_cases n s with e | e <;> rw [e]
  rfl

theorem noteFail_regs : (noteFail n s).regs = s.regs := rfl

end

/-- The third failed self-test within 10 s retires the port (R319). -/
theorem selfTestFail_third (h : s.net.retired[n] = false) (h3 : 2 ≤ (s.recentFails n).length) :
    (selfTestFail n s).net.retired[n] = true ∧ (selfTestFail n s).bit (NET_PORT_STAT n) NET_PORT_STAT_LINK = false ∧
      Counts s (selfTestFail n s) GLB_RET_CNT2 GLB_RET_CNT2_NET_PORTS ∧ Logs s (selfTestFail n s) (.dev .netRetired) 6 n.1 := by
  rw [selfTestFail_eq h, if_pos h3]
  have far := networkStat_ne_retired n n.2
  have link : (retirePort n (noteFail n s)).bit (NET_PORT_STAT n) NET_PORT_STAT_LINK = false := by
    rw [retirePort, (regsBut_count _ _ _).bit (by simpa using far.symm)]
    exact State.bit_setBit_same _ _ _ _ (by decide) rfl
  have counts : Counts s (retirePort n (noteFail n s)) GLB_RET_CNT2 GLB_RET_CNT2_NET_PORTS := by
    refine (counts_count _ GLB_RET_CNT2 GLB_RET_CNT2_NET_PORTS (by decide)).congr ?_ rfl
    exact (State.fld_setFld_far (noteFail n s) _ _ _ _ _ far.symm).symm
  refine ⟨?_, ?_, counts.congr rfl ?_, ?_⟩
  · rw [linkParent_retired]
    simp [retirePort]
  · rw [State.bit, linkParent_fld n _ _ _ (by decide) (by decide)]
    exact link
  · rw [(linkParent_regs n _).fld (by decide)]
    rfl
  · have grown : Grows (record .netRetired 1 6 n [] (retirePort n (noteFail n s))) (linkParent n _) :=
      .of_recorder (linkParent_recorder n _)
    exact Logs.grows (Grows.logs (t := retirePort n (noteFail n s)) (.of_recorder rfl) (record_logs ..)) grown

/-- An earlier one leaves an info record (R319). -/
theorem selfTestFail_earlier (h : s.net.retired[n] = false) (h3 : (s.recentFails n).length < 2) :
    (selfTestFail n s).net.retired[n] = false ∧ Logs s (selfTestFail n s) (.dev .netSelfTest) 6 n.1 ∧
      (selfTestFail n s).regs = s.regs := by
  rw [selfTestFail_eq h, if_neg (by omega)]
  exact ⟨h, Grows.logs (t := (noteFail n s).transient) (.of_recorder rfl) (record_logs ..), rfl⟩

end

/-- Settles O48: a frame on its way by whether the duplicate filter knows it, the heartbeats by what a sent, returned or missed one
notes, the keeper and the ports by the registers they set. -/
theorem lineFramesAreForwardedAndHeard : Obligations.LineFramesAreForwardedAndHeard := by
  intro s t n
  refine ⟨fun f src k q hd hn hm hb hc hk hp => ⟨fun fresh => ?_, fun again => ?_⟩,
    fun ht hn due => ⟨heartbeatTx (s.reach t), rfl, heartbeatTx_sends (s.reach t) n ht hn due⟩,
    fun h b hc => ⟨heartbeatReceive n h b (s.reach t), rfl, heartbeatReceive_copy hc⟩,
    fun h b hn hc hs hv => ⟨fun other => ?_, fun own hr ho hk hb hm => ?_⟩,
    fun src y hf hy => ⟨heartbeatTimeout src (s.reach t), rfl, heartbeatTimeout_refuses hf hy⟩,
    fun hk hb hl => ⟨ringKeeperOpen (s.reach t), rfl, ringKeeperOpen_opens hk hb hl⟩,
    fun up hr => ⟨linkChange n up (s.reach t), rfl, linkChange_shows up hr⟩,
    fun hr => ⟨fun h3 => ⟨selfTestFail n (s.reach t), rfl, selfTestFail_third hr h3⟩,
      fun h3 => ⟨selfTestFail n (s.reach t), rfl, selfTestFail_earlier hr h3⟩⟩⟩
  · have unseen : (s.reach t).seen src k q = false :=
      Bool.eq_false_iff.2 fun e => by
        obtain ⟨d, hd, hsrc, hkind, hseq, recent⟩ := seen_iff.1 e
        exact Nat.not_le.2 recent (fresh d hd hsrc hkind hseq)
    refine ⟨frameForward n f (s.reach t), rfl, ?_⟩
    rw [frameForward_known (s := s.reach t) hd hn hb hm hc hk hp]
    exact relay_noted_new unseen
  · refine ⟨frameForward n f (s.reach t), rfl, ?_⟩
    rw [frameForward_known (s := s.reach t) hd hn hb hm hc hk hp]
    exact relay_noted_again (seen_iff.2 again)
  · refine ⟨heartbeatReceive n h b (s.reach t), rfl, ?_⟩
    rw [(heartbeatReceive_first (s := s.reach t) hn hc hs hv).1 other]
    exact heartbeatFrom_refreshes h b (s.reach t)
  · refine ⟨heartbeatReceive n h b (s.reach t), rfl, ?_⟩
    rw [(heartbeatReceive_first (s := s.reach t) hn hc hs hv).2 own]
    exact heartbeatReturned_closes hr ho hb hm

end Sys2Proof.Machine
end

section
/-! SUPPORT. O50: the tiles that hold, free or commit a mode (R44, R46). Each of these changes one tile and its LT_TILE_MODE; carried
out on a list of tiles it changes those tiles and their registers. -/

namespace Sys2Proof.Machine

/-- An operation on a tile that changes of the tile `f` and of its LT_TILE_MODE `w`, and nothing else. -/
structure OnTile (g : Fin 4 → State → State) (f : Tile → Tile) (w : Word → Word) : Prop where
  tile : ∀ t s u, (g t s).tile u = if t = u then f (s.tile u) else s.tile u
  reg : ∀ t s a, (g t s).reg a = if LT_TILE_MODE t = a then w (s.reg a) else s.reg a
  rest : ∀ t s, Ok (keepBut [.regs, .tiles] s) (g t s)

theorem modeReg_inj (t u : Fin 4) : LT_TILE_MODE t = LT_TILE_MODE u ↔ t = u := by
  simp only [LT_TILE_MODE, Fin.ext_iff]
  omega

theorem modeReg_range (t : Fin 4) : 0x200000 ≤ LT_TILE_MODE t := by
  simp only [LT_TILE_MODE]
  omega

/-- What is kept twice in turn is kept. -/
theorem kept_trans {ps : List Part} {s t u : State} (h : Ok (keepBut ps s) t) (h' : Ok (keepBut ps t) u) : Ok (keepBut ps s) u := by
  obtain ⟨wf, queue, sent, ctr, parts⟩ := h
  obtain ⟨wf', queue', sent', ctr', parts'⟩ := h'
  exact ⟨fun w => wf' (wf w), queue'.trans queue, sent.trans sent', ctr.trans ctr',
    fun p hp => Part.same_trans (parts p hp) (parts' p hp)⟩

/-- An operation carried out on the tiles of a list. -/
def onTiles (g : Fin 4 → State → State) (l : List (Fin 4)) (s : State) : State := l.foldl (fun s t => g t s) s

section
variable {g : Fin 4 → State → State} {f : Tile → Tile} {w : Word → Word} (h : OnTile g f w)
include h

theorem OnTile.tiles {l : List (Fin 4)} (nodup : l.Nodup) (s : State) (u : Fin 4) :
    (onTiles g l s).tile u = if u ∈ l then f (s.tile u) else s.tile u := by
  induction l generalizing s with
  | nil => simp [onTiles]
  | cons t l ih =>
    obtain ⟨ht, hl⟩ := List.nodup_cons.1 nodup
    rw [show onTiles g (t :: l) s = onTiles g l (g t s) from rfl, ih hl, h.tile]
    by_cases e : t = u
    · subst e; simp [ht]
    · simp [e, Ne.symm e]

theorem OnTile.modeReg {l : List (Fin 4)} (nodup : l.Nodup) (s : State) (u : Fin 4) :
    (onTiles g l s).reg (LT_TILE_MODE u) = if u ∈ l then w (s.reg (LT_TILE_MODE u)) else s.reg (LT_TILE_MODE u) := by
  induction l generalizing s with
  | nil => simp [onTiles]
  | cons t l ih =>
    obtain ⟨ht, hl⟩ := List.nodup_cons.1 nodup
    rw [show onTiles g (t :: l) s = onTiles g l (g t s) from rfl, ih hl, h.reg]
    simp only [modeReg_inj]
    by_cases e : t = u
    · subst e; simp [ht]
    · simp [e, Ne.symm e]

theorem OnTile.reg_far (l : List (Fin 4)) (s : State) (a : Nat) (ha : ∀ t : Fin 4, LT_TILE_MODE t ≠ a) :
    (onTiles g l s).reg a = s.reg a := by
  induction l generalizing s with
  | nil => rfl
  | cons t l ih => rw [show onTiles g (t :: l) s = onTiles g l (g t s) from rfl, ih, h.reg, if_neg (ha t)]

theorem OnTile.sameNet (l : List (Fin 4)) (s : State) : SameNet s (onTiles g l s) := fun a ha _ =>
  h.reg_far l s a fun t => by have := modeReg_range t; omega

theorem OnTile.keeps (l : List (Fin 4)) (s : State) : Ok (keepBut [.regs, .tiles] s) (onTiles g l s) := by
  induction l generalizing s with
  | nil => exact keepBut_start _ s
  | cons t l ih => exact kept_trans (h.rest t s) (ih _)

theorem OnTile.net (l : List (Fin 4)) (s : State) : (onTiles g l s).net = s.net := kept_part (h.keeps l s) .net (by decide)

theorem OnTile.now (l : List (Fin 4)) (s : State) : (onTiles g l s).now = s.now := kept_part (h.keeps l s) .now (by decide)

theorem OnTile.out (l : List (Fin 4)) (s : State) : (onTiles g l s).out = s.out := kept_part (h.keeps l s) .out (by decide)

theorem OnTile.recorder (l : List (Fin 4)) (s : State) : (onTiles g l s).recorder = s.recorder :=
  kept_part (h.keeps l s) .recorder (by decide)

end

/-! ## Holding, freeing, committing -/

/-- LT_TILE_MODE with a pending request and its mode. -/
def showPending (id mode : Nat) (v : Word) : Word := LT_TILE_MODE_PENDING.put (LT_TILE_MODE_REQ_ID.put v id) mode

/-- A tile that holds a mode, committed or not. -/
def Tile.hold (m : Option TileMode) (x : Tile) : Tile := { x with mode := m }

/-- A tile whose pending mode is committed. -/
def Tile.commit (x : Tile) : Tile := { x with mode := x.mode.map fun m => { m with committed := true } }

/-- A tile takes a mode and its register shows the request. -/
theorem onTile_put (m : Option TileMode) (id mode : Nat) :
    OnTile (fun t s => ((s.modTile t (Tile.hold m)).setFld (LT_TILE_MODE t) LT_TILE_MODE_REQ_ID id).setFld (LT_TILE_MODE t)
      LT_TILE_MODE_PENDING mode) (Tile.hold m) (showPending id mode) where
  tile t s u := by rw [State.tile_setFld, State.tile_setFld, State.tile_modTile]
  reg t s a := by
    simp only [State.setFld, State.reg_setReg, State.reg_modTile]
    by_cases e : LT_TILE_MODE t = a
    · simp [e, showPending]
    · simp [e]
  rest t s := State.setFld_ok _ _ _ _ (State.setFld_ok _ _ _ _ (State.modTile_ok s t _ (keepBut_start _ s) (by simp [keepBut]))
    (by simp [keepBut])) (by simp [keepBut])

theorem onTile_holdMode (id mode lc : Nat) :
    OnTile (holdMode id mode lc) (Tile.hold (some ⟨mode, lc, false⟩)) (showPending id mode) := onTile_put _ _ _

theorem onTile_freeMode : OnTile freeMode (Tile.hold none) (showPending 0 0) := onTile_put _ _ _

theorem onTile_commitMode : OnTile commitMode Tile.commit id where
  tile t s u := State.tile_modTile s t u Tile.commit
  reg t s a := (ite_self _).symm
  rest t s := State.modTile_ok s t _ (keepBut_start _ s) (by simp [keepBut])

theorem showPending_reads (id mode : Nat) (v : Word) (hi : id < 65536) (hm : mode < 256) :
    LT_TILE_MODE_REQ_ID.get (showPending id mode v) = id ∧ LT_TILE_MODE_PENDING.get (showPending id mode v) = mode := by
  have pending := Fld.get_put_same LT_TILE_MODE_PENDING (LT_TILE_MODE_REQ_ID.put v id) mode (by decide)
  have other := Fld.get_put_other LT_TILE_MODE_PENDING LT_TILE_MODE_REQ_ID (LT_TILE_MODE_REQ_ID.put v id) mode (by decide)
    (by decide) (by decide)
  have request := Fld.get_put_same LT_TILE_MODE_REQ_ID v id (by decide)
  have wide : (2 : Nat) ^ LT_TILE_MODE_REQ_ID.width = 65536 ∧ (2 : Nat) ^ LT_TILE_MODE_PENDING.width = 256 := by decide
  exact ⟨other.trans (request.trans (by rw [wide.1]; omega)), pending.trans (by rw [wide.2]; omega)⟩

theorem scopeTiles_nodup (scope mask : Nat) : (scopeTiles scope mask).Nodup := by
  unfold scopeTiles
  split
  · exact List.Nodup.filter _ (by decide)
  · decide

theorem heldTiles_nodup (s : State) (r : OwnRequest) : (s.heldTiles r).Nodup := List.Nodup.filter _ (scopeTiles_nodup _ _)

end Sys2Proof.Machine
end

section
/-! SUPPORT. O50: the originator decides its request (R45, R46). -/

namespace Sys2Proof.Machine

/-- The originator's request is kept as it now is. -/
def setOwn (r : OwnRequest) (s : State) : State := s.modNet fun x => { x with own := some r }

/-- A request decided at an instant. -/
def OwnRequest.decide (r : OwnRequest) (commit : Bool) (now : Nat) : OwnRequest :=
  { r with decision := some commit, lastTx := now }

/-- A tile commits its mode, or is free of it. -/
def decideTile (commit : Bool) (t : Fin 4) (s : State) : State := if commit then commitMode t s else freeMode t s

/-- What a decision makes of a tile that holds the request. -/
def Tile.decided (commit : Bool) (x : Tile) : Tile := if commit then x.commit else x.hold none

/-- What a decision makes of its LT_TILE_MODE. -/
def decidedWord (commit : Bool) (v : Word) : Word := if commit then v else showPending 0 0 v

theorem onTile_decideTile (commit : Bool) : OnTile (decideTile commit) (Tile.decided commit) (decidedWord commit) := by
  cases commit with
  | true => exact onTile_commitMode
  | false => exact onTile_freeMode

section
variable (r : OwnRequest) (s : State)

theorem decisionFrame_sends_line : ∃ fields, decisionFrame r s = sendLine 5 0 fields (followVersion s) := ⟨_, rfl⟩

theorem decisionFrame_regs : RegsBut [NET_LF_VER] s (decisionFrame r s) := by
  obtain ⟨fields, e⟩ := decisionFrame_sends_line r s
  rw [e]
  exact (followVersion_regs s).trans (sendLine_regs 5 0 fields (followVersion s))

theorem decisionFrame_net : ∃ q, (decisionFrame r s).net = { s.net with txSeq := q } := by
  obtain ⟨fields, e⟩ := decisionFrame_sends_line r s
  rw [e]
  exact sendLine_net ..

theorem decisionFrame_keeps : Ok (keepBut [.regs, .net, .out] s) (decisionFrame r s) :=
  decisionFrame_ok r s (keepBut_start _ s) (by simp [keepBut]) (by simp [keepBut]) (by simp [keepBut])

/-- The decision frame leaves on each serving port (R43). -/
theorem decisionFrame_sends (n : Fin 2) (ht : s.mayTalk = true) (hn : s.netPortUp n = true) :
    ∃ fields, Sends s (decisionFrame r s) (.frame n 5 (s.nextSeq 5) (s.lineTag n) fields) := by
  obtain ⟨fields, e⟩ := decisionFrame_sends_line r s
  have same := SameNet.of_version (followVersion_regs s)
  have sends := sendLine_sends 5 0 fields (followVersion s) n (same.mayTalk.trans ht) ((same.netPortUp rfl n).trans hn)
  rw [same.lineTag n] at sends
  exact ⟨_, e ▸ sends⟩

end

section
variable {r : OwnRequest} {s : State}

/-- A decision: the request is decided now, its tiles get the decision, and for the line the frame goes out (R45, R46). -/
theorem decideOwn_undecided (commit : Bool) (ho : s.net.own = some r) (hd : r.decision = none) : decideOwn commit s =
    let z := onTiles (decideTile commit) (s.heldTiles r) (setOwn (r.decide commit s.now) s)
    if r.scope = 2 then decisionFrame (r.decide commit s.now) z else z := by
  unfold decideOwn
  rw [ho]
  simp only [hd, Option.isSome_none, Bool.false_eq_true, if_false]
  rfl

/-- What a decision leaves (R45, R46). -/
structure Decided (s x : State) (r : OwnRequest) (commit : Bool) : Prop where
  net : ∃ q, x.net = { s.net with own := some (r.decide commit s.now), txSeq := q }
  tile : ∀ t, x.tile t = if t ∈ s.heldTiles r then (s.tile t).decided commit else s.tile t
  modeReg : ∀ t : Fin 4, x.reg (LT_TILE_MODE t) = if t ∈ s.heldTiles r then decidedWord commit (s.reg (LT_TILE_MODE t)) else
    s.reg (LT_TILE_MODE t)
  sent : s.out <:+ x.out

theorem decideOwn_decides (commit : Bool) (ho : s.net.own = some r) (hd : r.decision = none) :
    Decided s (decideOwn commit s) r commit := by
  have act := onTile_decideTile commit
  have nodup := heldTiles_nodup s r
  rw [decideOwn_undecided commit ho hd]
  dsimp only
  have tile := act.tiles nodup (setOwn (r.decide commit s.now) s)
  have mode := act.modeReg nodup (setOwn (r.decide commit s.now) s)
  have net := act.net (s.heldTiles r) (setOwn (r.decide commit s.now) s)
  have out := act.out (s.heldTiles r) (setOwn (r.decide commit s.now) s)
  generalize onTiles (decideTile commit) (s.heldTiles r) (setOwn (r.decide commit s.now) s) = z at *
  split
  · have kept := decisionFrame_keeps (r.decide commit s.now) z
    have tiles : (decisionFrame (r.decide commit s.now) z).tiles = z.tiles := kept_part kept .tiles (by decide)
    obtain ⟨q, hq⟩ := decisionFrame_net (r.decide commit s.now) z
    refine ⟨⟨q, by rw [hq, net]; rfl⟩, fun t => ?_, fun t => ?_, ?_⟩
    · rw [State.tile, tiles]; exact tile t
    · have ne : LT_TILE_MODE t ∉ [NET_LF_VER] := by
        have := modeReg_range t
        simp only [List.mem_singleton, NET_LF_VER]
        omega
      rw [decisionFrame_regs _ _ _ ne]; exact mode t
    · exact out ▸ kept_sent kept
  · exact ⟨⟨s.net.txSeq, by rw [net]; rfl⟩, tile, mode, by rw [out]; exact List.suffix_rfl⟩

theorem tryCommit_eq (ho : s.net.own = some r) : tryCommit s =
    if r.decision = none ∧ s.allAcked r = true ∧ (r.auto = true ∨ r.asked = true) then decideOwn true s else s := by
  unfold tryCommit
  rw [ho]
  simp only [Option.isNone_iff_eq_none]

theorem Decided.own {x : State} {commit : Bool} (h : Decided s x r commit) :
    x.net.own = some (r.decide commit s.now) := by
  obtain ⟨q, e⟩ := h.net
  rw [e]

/-- A committed tile. -/
theorem Decided.commits {x : State} (h : Decided s x r true) {t : Fin 4} (ht : t ∈ s.heldTiles r) :
    (x.tile t).mode = (s.tile t).mode.map fun m => { m with committed := true } := by
  rw [h.tile, if_pos ht]
  rfl

/-- A freed tile. -/
theorem Decided.frees {x : State} (h : Decided s x r false) {t : Fin 4} (ht : t ∈ s.heldTiles r) :
    (x.tile t).mode = none ∧ x.fld (LT_TILE_MODE t) LT_TILE_MODE_REQ_ID = 0 := by
  rw [h.tile, State.fld, h.modeReg, if_pos ht, if_pos ht]
  obtain ⟨request, -⟩ := showPending_reads 0 0 (s.reg (LT_TILE_MODE t)) (by omega) (by omega)
  exact ⟨rfl, request⟩

end

end Sys2Proof.Machine
end

section
/-! SUPPORT. O50: a descriptor that came over a ring is accepted and completes (R233): its status is sent, and beside the cabinets and
their registers nothing changes. -/

namespace Sys2Proof.Machine

/-! ## Registers beside those of the cabinets -/

theorem sameNet_of_beyond {s t : State} (h : t.beyond = s.beyond) : SameNet s t :=
  fun a ha _ => reg_of_beyond h (by omega)

theorem ringStat_range (c : Fin 4) (n : Nat) (h : n < 16) : 0x40000 ≤ HIF_RING_STAT c n ∧ HIF_RING_STAT c n < 0x44000 := by
  simp only [HIF_RING_STAT]
  omega

section
variable (d : Desc) (st flags land : Nat) (s : State)

theorem beyond_followCredit (c : Fin 4) : (followCredit c s).beyond = s.beyond :=
  beyond_foldl _ _ (fun z n hn => beyond_setFld z _ _ _ (ringStat_range c n (List.mem_range.1 hn))) s

theorem beyond_writeCompletion : (writeCompletion d st flags land s).beyond = s.beyond := by
  simp [writeCompletion]

theorem beyond_releaseHeld (c : Fin 4) (n : Fin 16) (k : Nat) : (releaseHeld c n k s).beyond = s.beyond := by
  induction k generalizing s with
  | zero => rfl
  | succ k ih =>
    unfold releaseHeld
    dsimp only
    split
    · rw [ih, beyond_writeCompletion, beyond_modRing]
    · rfl

/-! ## A completion -/

/-- A completion sends its status. -/
theorem writeCompletion_answers : Answers d st flags land s (writeCompletion d st flags land s) := by
  refine (sends_emit s (.status d.cab d.ring d.tag d.opcode d.target st flags land)).grows ?_
  suffices kept : Ok (keepBut [.regs, .cabs, .out] (s.emit (.status d.cab d.ring d.tag d.opcode d.target st flags land)))
      (writeCompletion d st flags land s) from kept_sent kept
  have regs : ¬ (keepBut [.regs, .cabs, .out] (s.emit (.status d.cab d.ring d.tag d.opcode d.target st flags land))).fixed .regs := by
    simp [keepBut]
  have cabs : ¬ (keepBut [.regs, .cabs, .out] (s.emit (.status d.cab d.ring d.tag d.opcode d.target st flags land))).fixed .cabs := by
    simp [keepBut]
  have out : ¬ (keepBut [.regs, .cabs, .out] (s.emit (.status d.cab d.ring d.tag d.opcode d.target st flags land))).fixed .out := by
    simp [keepBut]
  have start := keepBut_start [.regs, .cabs, .out] (s.emit (.status d.cab d.ring d.tag d.opcode d.target st flags land))
  have counted := ok_ite (c := isRefused st = true) (State.count_ok _ (HIF_RING_CNT d.cab d.ring) HIF_RING_CNT_CNT start regs) start
  have open_ := State.modRing_ok _ d.cab d.ring
    (fun r => { r with open_ := r.open_.filter fun o => o != (d.index, d.kind, d.target) })
    (State.modRing_ok _ d.cab d.cpl (fun r => { r with reserved := r.reserved - 1 }) counted cabs) cabs
  exact ok_ite (writeEntry_ok _ _ _ _ _ open_ regs cabs out) open_

/-- The status of a descriptor that came over a ring and whose result can return is decided (R233). -/
theorem complete_plain (hp : d.plain) : complete d st flags land s =
    let z := writeCompletion d st flags land s
    followCredit d.cab (releaseHeld d.cab d.ring (z.ring d.cab d.ring).waitCpl.length z) := by
  obtain ⟨engine, confirmed, heard⟩ := hp
  unfold complete
  simp only [engine, confirmed, heard, Bool.false_eq_true, if_false]

theorem complete_keeps : Ok (keepBut [.regs, .engines, .cabs, .out] s) (complete d st flags land s) :=
  complete_ok d st flags land s (keepBut_start _ s) (by simp [keepBut]) (by simp [keepBut]) (by simp [keepBut]) (by simp [keepBut])

theorem complete_answers (hp : d.plain) : Answers d st flags land s (complete d st flags land s) := by
  rw [complete_plain d st flags land s hp]
  refine (writeCompletion_answers d st flags land s).grows ?_
  generalize writeCompletion d st flags land s = z
  have ring := releaseHeld_ok d.cab d.ring (z.ring d.cab d.ring).waitCpl.length z (keepBut_start [.regs, .cabs, .out] z)
    (by simp [keepBut]) (by simp [keepBut]) (by simp [keepBut])
  exact kept_sent (followCredit_ok d.cab _ ring (by simp [keepBut]))

theorem complete_beyond (hp : d.plain) : (complete d st flags land s).beyond = s.beyond := by
  rw [complete_plain d st flags land s hp]
  dsimp only
  rw [beyond_followCredit, beyond_releaseHeld, beyond_writeCompletion]

/-! ## Acceptance -/

/-- A descriptor as it is accepted and admitted: its slot reserved, line time at its acceptance (R233, R239). -/
def State.accepted (s : State) (d : Desc) : State := openDesc d (s.reach d.accept)

theorem submit_admitted (land : State → State) (ha : s.admits d = true) : submit d land s = land (s.accepted d) := by
  obtain ⟨slot, check⟩ : s.freeSlots d.cab d.cpl ≠ 0 ∧ s.deskCheck d = none := by simpa [State.admits] using ha
  have slot' : (s.reach d.accept).freeSlots d.cab d.cpl ≠ 0 := slot
  have check' : (openDesc d (s.reach d.accept)).deskCheck d = none := check
  rw [submit, if_neg slot']
  dsimp only
  rw [check']
  rfl

theorem accepted_regs : (s.accepted d).regs = s.regs := rfl
theorem accepted_net : (s.accepted d).net = s.net := rfl
theorem accepted_tiles : (s.accepted d).tiles = s.tiles := rfl
theorem accepted_now : (s.accepted d).now = (s.reach d.accept).now := rfl
theorem accepted_out : (s.accepted d).out = s.out := rfl

end

end Sys2Proof.Machine
end

section
/-! SUPPORT. O50: MODE_PREPARE and MODE_COMMIT of a cabinet (R42–R45). -/

namespace Sys2Proof.Machine

/-- The request that a MODE_PREPARE asks for (R43). -/
def requestOf (d : Desc) : OwnRequest :=
  ⟨d.cab, d.tag, pay16 d.payload 0, payByte d.payload 2, payByte d.payload 3, payByte d.payload 4, payBit d.payload 5 0,
    pay64 d.payload 8, pay64 d.payload 16, [], [], none, false, false, 0, 0⟩

/-- A MODE_PREPARE that is in order and that the state can take: the tiles are the cabinet's, no request is open, and its instants
leave the time that R42 asks for. -/
structure Preparable (s : State) (d : Desc) (ts : List (Fin 4)) : Prop where
  good : prepareBad d.payload = false
  scope : ts = scopeTiles (payByte d.payload 2) (payByte d.payload 3)
  owned : ∀ t ∈ ts, s.ownerTile t = d.cab
  mode : payByte d.payload 4 ≠ 255
  idle : s.net.own = none
  instants : instantsOk (payByte d.payload 2) (s.slowest ts) d.accept (pay64 d.payload 8) (pay64 d.payload 16) = true

/-- The originator's own tiles take the request (R44). -/
def holdAll (r : OwnRequest) (ts : List (Fin 4)) (s : State) : State := onTiles (holdMode r.id r.mode r.lc) ts s

/-- A request taken up: no earlier one is left undecided. -/
def takeOwn (r : OwnRequest) (s : State) : State := s.modNet fun x => { x with own := some r, undecided := false }

/-- The frame of a prepared request goes out in the scope of the line (R43). -/
def prepareLine (r : OwnRequest) (s : State) : State :=
  if r.scope = 2 then sendLine 3 0 [(r.id : Int), s.fld NET_SEG NET_SEG_DEVNUM, r.mode, r.lc, r.ld] s else s

theorem payByte_lt (p : Payload) (i : Nat) : payByte p i < 256 :=
  (p.toArray.getD i 0).isLt

section
variable {s : State} {d : Desc} {ts : List (Fin 4)}

/-- A request that can be taken is taken up and answered ACCEPTED; the last acknowledgement decides it (R43–R45). -/
theorem landModePrepare_accepts (h : Preparable s d ts) {r : OwnRequest} {z : State} (hr : ownAcks (requestOf d) s = (r, z))
    (hs : r.scope = payByte d.payload 2) :
    landModePrepare d s = tryCommit (complete d stACCEPTED 0 (prepareLine r (takeOwn r z)).now (prepareLine r (takeOwn r z))) := by
  obtain ⟨good, scope, owned, mode, idle, instants⟩ := h
  subst scope
  have mine : ((scopeTiles (payByte d.payload 2) (payByte d.payload 3)).any fun t => s.ownerTile t != d.cab) = false := by
    simpa using owned
  have free : ¬ (payByte d.payload 4 = 255 ∨ s.net.own.isSome = true ∨ (!instantsOk (payByte d.payload 2)
      (s.slowest (scopeTiles (payByte d.payload 2) (payByte d.payload 3))) d.accept (pay64 d.payload 8)
      (pay64 d.payload 16)) = true) := by
    simp [mode, idle, instants]
  unfold landModePrepare
  simp only [good, mine, if_neg free, Bool.false_eq_true, if_false, ← requestOf.eq_def]
  rw [hr]
  unfold prepareLine
  rw [hs]
  rfl

/-- Tiles that all acknowledge refuse for no reason. -/
theorem acknowledging {l : List (Fin 4)} (hg : ∀ t ∈ l, s.tileReason t = 0) :
    l.filter (fun t => s.tileReason t = 0) = l ∧ l.filter (fun t => s.tileReason t ≠ 0) = [] :=
  ⟨List.filter_eq_self.2 fun t ht => by simp [hg t ht], List.filter_eq_nil_iff.2 fun t ht => by simp [hg t ht]⟩

/-- In a local scope each tile acknowledges for itself (R44). -/
theorem ownAcks_local {r : OwnRequest} (hs : r.scope ≠ 2) (hg : ∀ t ∈ scopeTiles r.scope r.mask, s.tileReason t = 0) :
    ownAcks r s = ({ r with acks := (scopeTiles r.scope r.mask).map fun t => t.1, refusals := [] },
      holdAll r (scopeTiles r.scope r.mask) s) := by
  obtain ⟨good, bad⟩ := acknowledging hg
  unfold ownAcks
  simp only [good, bad, if_neg hs, List.map_nil]
  rfl

/-- In the scope of the line the device acknowledges as one unit (R44). -/
theorem ownAcks_line {r : OwnRequest} (hs : r.scope = 2) (hg : ∀ t, s.tileReason t = 0) :
    ownAcks r s = ({ r with acks := [s.fld NET_SEG NET_SEG_DEVNUM] }, holdAll r allTiles s) := by
  obtain ⟨-, bad⟩ := acknowledging (l := allTiles) fun t _ => hg t
  have all : scopeTiles r.scope r.mask = allTiles := by rw [scopeTiles, if_neg (by omega)]
  unfold ownAcks
  simp only [all, bad, if_pos hs, List.map_nil, if_true]
  rfl

end

end Sys2Proof.Machine
end

section
/-! SUPPORT. O50: what an accepted MODE_PREPARE leaves, in a local scope and in that of the line (R42–R45). -/

namespace Sys2Proof.Machine

section
variable {s : State} {d : Desc} {st flags land : Nat}

theorem complete_net : (complete d st flags land s).net = s.net := kept_part (complete_keeps ..) .net (by decide)
theorem complete_now : (complete d st flags land s).now = s.now := kept_part (complete_keeps ..) .now (by decide)
theorem complete_tiles : (complete d st flags land s).tiles = s.tiles := kept_part (complete_keeps ..) .tiles (by decide)

theorem complete_tile (t : Fin 4) : (complete d st flags land s).tile t = s.tile t := by
  rw [State.tile, complete_tiles, State.tile]

theorem complete_modeReg (hp : d.plain) (t : Fin 4) :
    (complete d st flags land s).reg (LT_TILE_MODE t) = s.reg (LT_TILE_MODE t) :=
  reg_of_beyond (complete_beyond d st flags land s hp) (by have := modeReg_range t; omega)

theorem complete_same (hp : d.plain) : SameNet s (complete d st flags land s) :=
  sameNet_of_beyond (complete_beyond d st flags land s hp)

end

theorem tryCommit_sent (s : State) : s.out <:+ (tryCommit s).out :=
  kept_sent (tryCommit_ok s (keepBut_start [.regs, .tiles, .net, .out] s) (by simp [keepBut]) (by simp [keepBut])
    (by simp [keepBut]) (by simp [keepBut]))

/-- Which tiles hold a request, in states whose LT_TILE_MODE and NET_SEG read the same. -/
theorem heldTiles_congr {s t : State} (h : SameNet s t) (hm : ∀ u : Fin 4, t.reg (LT_TILE_MODE u) = s.reg (LT_TILE_MODE u))
    (r : OwnRequest) : t.heldTiles r = s.heldTiles r := by
  have request (u : Fin 4) : t.fld (LT_TILE_MODE u) LT_TILE_MODE_REQ_ID = s.fld (LT_TILE_MODE u) LT_TILE_MODE_REQ_ID := by
    rw [State.fld, hm, State.fld]
  simp only [State.heldTiles, h.seg, request]

theorem allAcked_congr {s t : State} (h : SameNet s t) (r : OwnRequest) : t.allAcked r = s.allAcked r := by
  have units : t.units r = s.units r := by
    simp only [State.units, h.member, h.seg]
  rw [State.allAcked, units, State.allAcked]

theorem tileReason_accepted (s : State) (d : Desc) (t : Fin 4) : (s.accepted d).tileReason t = (s.reach d.accept).tileReason t := rfl

/-- The tiles that have taken a request hold its mode, and their registers show it. -/
theorem holdAll_holds (r : OwnRequest) {ts : List (Fin 4)} (nodup : ts.Nodup) (s : State) (hi : r.id < 65536) (hm : r.mode < 256)
    {t : Fin 4} (ht : t ∈ ts) : ((holdAll r ts s).tile t).mode = some ⟨r.mode, r.lc, false⟩ ∧
      (holdAll r ts s).fld (LT_TILE_MODE t) LT_TILE_MODE_REQ_ID = r.id ∧
      (holdAll r ts s).fld (LT_TILE_MODE t) LT_TILE_MODE_PENDING = r.mode := by
  have act := onTile_holdMode r.id r.mode r.lc
  obtain ⟨request, pending⟩ := showPending_reads r.id r.mode (s.reg (LT_TILE_MODE t)) hi hm
  rw [holdAll, State.fld, State.fld, act.tiles nodup, act.modeReg nodup, if_pos ht, if_pos ht]
  exact ⟨rfl, request, pending⟩

/-- A request that is held and taken up sends nothing yet. -/
theorem takeOwn_out (r q : OwnRequest) (ts : List (Fin 4)) (s : State) : (takeOwn q (holdAll r ts s)).out = s.out :=
  (onTile_holdMode r.id r.mode r.lc).out ts s

theorem pay16_lt (p : Payload) (i : Nat) : pay16 p i < 65536 := by
  have low := payByte_lt p i
  have high := payByte_lt p (i + 1)
  simp only [pay16, payLE]
  omega

/-- The request of a local scope whose tiles have all acknowledged. -/
def localRequest (d : Desc) (ts : List (Fin 4)) : OwnRequest :=
  { requestOf d with acks := ts.map fun t => t.1, refusals := [] }

/-- A request is taken up and held by tiles, and its status is decided at once. -/
def prepared (d : Desc) (r : OwnRequest) (ts : List (Fin 4)) (s : State) : State :=
  prepareLine r (takeOwn r (holdAll (requestOf d) ts s))

/-- What stands when the status of a prepared request has been answered. -/
structure Answered (s c : State) (d : Desc) (r : OwnRequest) (ts : List (Fin 4)) : Prop where
  own : c.net.own = some r
  answers : Answers d stACCEPTED 0 (s.reach d.accept).now s c
  holds : ∀ t ∈ ts, (c.tile t).mode = some ⟨payByte d.payload 4, pay64 d.payload 8, false⟩ ∧
    c.fld (LT_TILE_MODE t) LT_TILE_MODE_REQ_ID = pay16 d.payload 0 ∧
    c.fld (LT_TILE_MODE t) LT_TILE_MODE_PENDING = payByte d.payload 4
  others : TilesBut ts s c
  same : SameNet s c

section
variable {s : State} {d : Desc} {ts : List (Fin 4)} {r : OwnRequest}

theorem prepareLine_regs : RegsBut [NET_LF_VER] s (prepareLine r s) := by
  unfold prepareLine
  split
  · exact sendLine_regs 3 0 _ s
  · exact .refl _ s

theorem prepareLine_keeps : Ok (keepBut [.regs, .net, .out] s) (prepareLine r s) := by
  unfold prepareLine
  split
  · exact sendLine_keeps 3 0 _ s
  · exact keepBut_start _ s

theorem prepareLine_own : (prepareLine r s).net.own = s.net.own := by
  unfold prepareLine
  split
  · obtain ⟨q, e⟩ := sendLine_net 3 0 [(r.id : Int), s.fld NET_SEG NET_SEG_DEVNUM, r.mode, r.lc, r.ld] s
    rw [e]
  · rfl

/-- An accepted request is held by the tiles that have acknowledged it and answered ACCEPTED. -/
theorem answered_prepared (hp : d.plain) (nodup : ts.Nodup) :
    Answered s (complete d stACCEPTED 0 (prepared d r ts (s.accepted d)).now (prepared d r ts (s.accepted d))) d r ts := by
  have act := onTile_holdMode (requestOf d).id (requestOf d).mode (requestOf d).lc
  have kept := prepareLine_keeps (s := takeOwn r (holdAll (requestOf d) ts (s.accepted d))) (r := r)
  have line := prepareLine_regs (s := takeOwn r (holdAll (requestOf d) ts (s.accepted d))) (r := r)
  have tiles : (prepared d r ts (s.accepted d)).tiles = (holdAll (requestOf d) ts (s.accepted d)).tiles :=
    kept_part kept .tiles (by decide)
  have mode (t : Fin 4) : (prepared d r ts (s.accepted d)).reg (LT_TILE_MODE t) =
      (holdAll (requestOf d) ts (s.accepted d)).reg (LT_TILE_MODE t) :=
    line _ (by have := modeReg_range t; simp only [List.mem_singleton, NET_LF_VER]; omega)
  have tile (t : Fin 4) : (prepared d r ts (s.accepted d)).tile t = (holdAll (requestOf d) ts (s.accepted d)).tile t := by
    rw [State.tile, tiles, State.tile]
  have sent : s.out <:+ (prepared d r ts (s.accepted d)).out := takeOwn_out (requestOf d) r ts (s.accepted d) ▸ kept_sent kept
  have now : (prepared d r ts (s.accepted d)).now = (s.reach d.accept).now :=
    (kept_part kept .now (by decide)).trans (act.now ts (s.accepted d))
  have same : SameNet s (prepared d r ts (s.accepted d)) :=
    ((SameNet.of_regs (accepted_regs d s)).trans (act.sameNet ts (s.accepted d))).trans (.of_version line)
  have own : (prepared d r ts (s.accepted d)).net.own = some r := prepareLine_own
  generalize prepared d r ts (s.accepted d) = y at *
  refine ⟨?_, ?_, fun t ht => ?_, fun t ht => ?_, same.trans (complete_same hp)⟩
  · rw [complete_net, own]
  · rw [← now]
    exact (complete_answers d stACCEPTED 0 y.now y hp).after sent
  · obtain ⟨held, request, pending⟩ := holdAll_holds (requestOf d) nodup (s.accepted d) (pay16_lt _ _) (payByte_lt _ _) ht
    rw [complete_tile, State.fld, State.fld, complete_modeReg hp, tile, mode]
    exact ⟨held, request, pending⟩
  · rw [complete_tile, tile, holdAll, act.tiles nodup, if_neg ht]
    rfl

/-- MODE_PREPARE in a local scope (R42, R44, R45). -/
theorem prepare_local (hp : d.plain) (ha : s.admits d = true) (h : Preparable (s.accepted d) d ts)
    (hl : payByte d.payload 2 ≠ 2) (hr : ∀ t ∈ ts, (s.reach d.accept).tileReason t = 0) :
    let x := submit d (landModePrepare d) s
    Answers d stACCEPTED 0 (s.reach d.accept).now s x ∧ x.net.own.map (·.id) = some (pay16 d.payload 0) ∧
      (∀ t ∈ ts, (x.tile t).mode = some ⟨payByte d.payload 4, pay64 d.payload 8, payBit d.payload 5 0⟩ ∧
        x.fld (LT_TILE_MODE t) LT_TILE_MODE_REQ_ID = pay16 d.payload 0 ∧
        x.fld (LT_TILE_MODE t) LT_TILE_MODE_PENDING = payByte d.payload 4) ∧ TilesBut ts s x := by
  have scope := h.scope
  have nodup : ts.Nodup := scope ▸ scopeTiles_nodup _ _
  have acks := ownAcks_local (s := s.accepted d) (r := requestOf d) hl fun t ht => hr t (scope ▸ ht)
  rw [show scopeTiles (requestOf d).scope (requestOf d).mask = ts from scope.symm] at acks
  have answered := answered_prepared (s := s) (r := localRequest d ts) hp nodup
  have land : landModePrepare d (s.accepted d) = tryCommit (complete d stACCEPTED 0
      (prepared d (localRequest d ts) ts (s.accepted d)).now (prepared d (localRequest d ts) ts (s.accepted d))) :=
    landModePrepare_accepts h acks rfl
  dsimp only
  rw [submit_admitted d s _ ha, land]
  generalize complete d stACCEPTED 0 (prepared d (localRequest d ts) ts (s.accepted d)).now
    (prepared d (localRequest d ts) ts (s.accepted d)) = c at *
  obtain ⟨own, answers, holds, others, -⟩ := answered
  have all : c.allAcked (localRequest d ts) = true := by
    have units : c.units (localRequest d ts) = ts.map fun t => t.1 := by rw [scope]; exact if_neg hl
    rw [State.allAcked, units, List.all_eq_true]
    exact fun u hu => List.contains_iff_mem.2 hu
  have held (t : Fin 4) : t ∈ c.heldTiles (localRequest d ts) ↔ t ∈ ts := by
    rw [State.heldTiles, List.mem_filter, show scopeTiles (localRequest d ts).scope (localRequest d ts).mask = ts from scope.symm]
    refine and_iff_left_of_imp fun ht => ?_
    rw [if_neg (show (localRequest d ts).scope ≠ 2 from hl), (holds t ht).2.1]
    simpa [localRequest, requestOf] using ⟨t, ht, rfl⟩
  refine ⟨answers.grows (tryCommit_sent c), ?_⟩
  rw [tryCommit_eq own]
  by_cases auto : payBit d.payload 5 0 = true
  · rw [if_pos ⟨rfl, all, .inl auto⟩]
    have decided := decideOwn_decides true own rfl
    refine ⟨by rw [decided.own]; rfl, fun t ht => ?_, fun t ht => ?_⟩
    · obtain ⟨mode, request, pending⟩ := holds t ht
      rw [decided.commits ((held t).2 ht), mode, auto, State.fld, State.fld, decided.modeReg, if_pos ((held t).2 ht)]
      exact ⟨rfl, request, pending⟩
    · rw [decided.tile, if_neg fun e => ht ((held t).1 e)]
      exact others t ht
  · rw [if_neg (by simp [localRequest, requestOf, auto])]
    refine ⟨by rw [own]; rfl, fun t ht => ?_, others⟩
    rw [Bool.eq_false_iff.2 auto]
    exact holds t ht

end

end Sys2Proof.Machine
end

section
/-! SUPPORT. O50: MODE_PREPARE in the scope of the line, and MODE_COMMIT (R42–R45). -/

namespace Sys2Proof.Machine

/-- The request of the line that the originator has acknowledged for itself. -/
def lineRequest (s : State) (d : Desc) : OwnRequest :=
  { requestOf d with acks := [s.fld NET_SEG NET_SEG_DEVNUM] }

/-- The fields of a prepare frame (R43). -/
def prepareFields (s : State) (r : OwnRequest) : List Int :=
  [(r.id : Int), s.fld NET_SEG NET_SEG_DEVNUM, r.mode, r.lc, r.ld]

section
variable {s : State} {d : Desc} {r : OwnRequest}

/-- A line request waits for the acknowledgement of each other member (R45). -/
theorem line_waits {c : State} (same : SameNet s c) (hl : payByte d.payload 2 = 2)
    (hu : ∃ u, u < 64 ∧ s.member u = true ∧ u ≠ s.fld NET_SEG NET_SEG_DEVNUM) : c.allAcked (lineRequest s d) = false := by
  obtain ⟨u, small, member, other⟩ := hu
  rw [allAcked_congr same, State.allAcked, State.units, if_pos (show (lineRequest s d).scope = 2 from hl), List.all_eq_false]
  refine ⟨u, List.mem_filter.2 ⟨List.mem_range.2 small, by simp [member]⟩, ?_⟩
  simpa [lineRequest] using other

/-- The prepare frame of a request of the line leaves on each serving port (R43). -/
theorem prepareLine_sends {z : State} (same : SameNet s z) (net : z.net = s.net) (hl : r.scope = 2) (n : Fin 2)
    (ht : s.mayTalk = true) (hn : s.netPortUp n = true) : ∃ hdr, Sends (takeOwn r z) (prepareLine r (takeOwn r z))
      (.frame n 3 (s.nextSeq 3) (s.lineTag n) (hdr ++ prepareFields s r)) := by
  have same' : SameNet s (takeOwn r z) := same.trans (.of_regs rfl)
  have retired : (takeOwn r z).net.retired = s.net.retired := show z.net.retired = _ from congrArg Net.retired net
  have txSeq : (takeOwn r z).net.txSeq = s.net.txSeq := show z.net.txSeq = _ from congrArg Net.txSeq net
  have seq : (takeOwn r z).nextSeq 3 = s.nextSeq 3 := by rw [State.nextSeq, txSeq, State.nextSeq]
  have fields : prepareFields (takeOwn r z) r = prepareFields s r := by rw [prepareFields, same'.seg, prepareFields]
  have line : prepareLine r (takeOwn r z) = sendLine 3 0 (prepareFields (takeOwn r z) r) (takeOwn r z) := if_pos hl
  have sends := sendLine_sends 3 0 (prepareFields (takeOwn r z) r) (takeOwn r z) n (same'.mayTalk.trans ht)
    ((same'.netPortUp retired n).trans hn)
  rw [line]
  rw [fields, seq, same'.lineTag] at *
  exact ⟨_, sends⟩

/-- MODE_PREPARE in the scope of the line (R42–R44). -/
theorem prepare_line (n : Fin 2) (hp : d.plain) (ha : s.admits d = true) (h : Preparable (s.accepted d) d allTiles)
    (hl : payByte d.payload 2 = 2) (hr : ∀ t, (s.reach d.accept).tileReason t = 0)
    (hu : ∃ u, u < 64 ∧ s.member u = true ∧ u ≠ s.fld NET_SEG NET_SEG_DEVNUM) (ht : s.mayTalk = true)
    (hn : s.netPortUp n = true) :
    let x := submit d (landModePrepare d) s
    Answers d stACCEPTED 0 (s.reach d.accept).now s x ∧ x.net.own.map (·.acks) = some [s.fld NET_SEG NET_SEG_DEVNUM] ∧
      (∀ t, (x.tile t).mode = some ⟨payByte d.payload 4, pay64 d.payload 8, false⟩) ∧
      ∃ hdr, Sends s x (.frame n 3 (s.nextSeq 3) (s.lineTag n) (hdr ++
        [(pay16 d.payload 0 : Int), s.fld NET_SEG NET_SEG_DEVNUM, payByte d.payload 4, pay64 d.payload 8, pay64 d.payload 16])) := by
  have acks : ownAcks (requestOf d) (s.accepted d) = (lineRequest s d, holdAll (requestOf d) allTiles (s.accepted d)) :=
    ownAcks_line hl hr
  have answered := answered_prepared (s := s) (r := lineRequest s d) (ts := allTiles) hp (by decide)
  have land : landModePrepare d (s.accepted d) = tryCommit (complete d stACCEPTED 0
      (prepared d (lineRequest s d) allTiles (s.accepted d)).now (prepared d (lineRequest s d) allTiles (s.accepted d))) :=
    landModePrepare_accepts h acks rfl
  have act := onTile_holdMode (requestOf d).id (requestOf d).mode (requestOf d).lc
  have held : SameNet s (holdAll (requestOf d) allTiles (s.accepted d)) :=
    (SameNet.of_regs (accepted_regs d s)).trans (act.sameNet allTiles (s.accepted d))
  obtain ⟨hdr, sends⟩ := prepareLine_sends (r := lineRequest s d) held (act.net allTiles (s.accepted d)) hl n ht hn
  have out := takeOwn_out (requestOf d) (lineRequest s d) allTiles (s.accepted d)
  have before : s.out <:+ (takeOwn (lineRequest s d) (holdAll (requestOf d) allTiles (s.accepted d))).out := by
    rw [out]
    exact List.suffix_rfl
  have frame := (sends.after before).grows (kept_sent (complete_keeps d stACCEPTED 0
    (prepared d (lineRequest s d) allTiles (s.accepted d)).now (prepared d (lineRequest s d) allTiles (s.accepted d))))
  dsimp only
  rw [submit_admitted d s _ ha, land]
  generalize complete d stACCEPTED 0 (prepared d (lineRequest s d) allTiles (s.accepted d)).now
    (prepared d (lineRequest s d) allTiles (s.accepted d)) = c at *
  obtain ⟨own, answers, holds, -, same⟩ := answered
  have waits : tryCommit c = c := by
    rw [tryCommit_eq own, if_neg]
    simp [line_waits same hl hu]
  rw [waits]
  exact ⟨answers, by rw [own]; rfl, fun t => (holds t (by fin_cases t <;> decide)).1, hdr, frame⟩

end

/-! ## MODE_COMMIT -/

/-- A well-formed MODE_COMMIT of the request that a cabinet's host has open. -/
structure Commits (s : State) (d : Desc) (r : OwnRequest) : Prop where
  flags : payByte d.payload 2 < 2
  zero : payZero d.payload 3 48 = true
  own : s.net.own = some r
  id : r.id = pay16 d.payload 0
  undecided : r.decision = none

section
variable {s : State} {d : Desc} {r : OwnRequest}

/-- A MODE_COMMIT of an undecided request (R45). -/
theorem landModeCommit_open (h : Commits s d r) : landModeCommit d s =
    if r.cab ≠ d.cab then complete d stREFUSED_OWNER 0 s.now s
    else if payBit d.payload 2 0 then decideOwn false (setOwn { r with hostAbort := true } (complete d stACCEPTED 0 s.now s))
    else if d.accept + 400000 ≤ r.lc then tryCommit (setOwn { r with asked := true } (complete d stACCEPTED 0 s.now s))
    else complete d stACCEPTED 0 s.now s := by
  obtain ⟨flags, zero, own, id, undecided⟩ := h
  unfold landModeCommit
  rw [if_neg (by simp [zero, flags]), own]
  simp only [id, undecided, if_true, Option.isSome_none, Bool.false_eq_true, if_false]
  rfl

theorem Commits.accepted (h : Commits s d r) : Commits (s.accepted d) d r :=
  ⟨h.flags, h.zero, h.own, h.id, h.undecided⟩

/-- A request that is noted after an answer, in a state that reads as before of the tiles and the network. -/
theorem heldTiles_answered (hp : d.plain) (q : OwnRequest) :
    (setOwn q (complete d stACCEPTED 0 (s.accepted d).now (s.accepted d))).heldTiles q = s.heldTiles q :=
  heldTiles_congr (s := s) ((complete_same (s := s.accepted d) hp).trans (.of_regs rfl))
    (fun u => complete_modeReg (s := s.accepted d) hp u) q

/-- MODE_COMMIT of another cabinet's request. -/
theorem commit_foreign (hp : d.plain) (ha : s.admits d = true) (h : Commits s d r) (hc : r.cab ≠ d.cab) :
    let x := submit d (landModeCommit d) s
    Answers d stREFUSED_OWNER 0 (s.reach d.accept).now s x ∧ x.net = s.net ∧ x.tiles = s.tiles := by
  have land := landModeCommit_open h.accepted
  dsimp only
  rw [submit_admitted d s _ ha, land, if_pos hc]
  exact ⟨complete_answers d stREFUSED_OWNER 0 (s.accepted d).now (s.accepted d) hp, complete_net, complete_tiles⟩

/-- What an answered descriptor that notes a request leaves of a state. -/
theorem answered_noted (hp : d.plain) (q : OwnRequest) :
    Answers d stACCEPTED 0 (s.reach d.accept).now s (setOwn q (complete d stACCEPTED 0 (s.accepted d).now (s.accepted d))) :=
  complete_answers d stACCEPTED 0 (s.accepted d).now (s.accepted d) hp

/-- MODE_COMMIT of the own request in time (R45). -/
theorem commit_asked (hp : d.plain) (ha : s.admits d = true) (h : Commits s d r) (hc : r.cab = d.cab)
    (hb : payBit d.payload 2 0 = false) (hl : d.accept + 400000 ≤ r.lc) :
    let x := submit d (landModeCommit d) s
    Answers d stACCEPTED 0 (s.reach d.accept).now s x ∧
      (s.allAcked r = true → (∃ q, x.net.own = some q ∧ q.id = r.id ∧ q.decision = some true) ∧
        ∀ t, t ∈ s.heldTiles r → (x.tile t).mode = (s.tile t).mode.map fun m => { m with committed := true }) ∧
      (s.allAcked r = false → x.net.own = some { r with asked := true } ∧ x.tiles = s.tiles) := by
  have land := landModeCommit_open h.accepted
  have undecided := h.undecided
  dsimp only
  rw [submit_admitted d s _ ha, land, if_neg (not_not_intro hc), if_neg (by simp [hb]), if_pos hl]
  have held := heldTiles_answered (s := s) hp { r with asked := true }
  have answers := answered_noted (s := s) hp { r with asked := true }
  have acked : (setOwn { r with asked := true } (complete d stACCEPTED 0 (s.accepted d).now (s.accepted d))).allAcked
      { r with asked := true } = s.allAcked r :=
    allAcked_congr (s := s) ((complete_same (s := s.accepted d) hp).trans (.of_regs rfl)) _
  have tiles : (setOwn { r with asked := true } (complete d stACCEPTED 0 (s.accepted d).now (s.accepted d))).tiles = s.tiles :=
    complete_tiles
  have own : (setOwn { r with asked := true } (complete d stACCEPTED 0 (s.accepted d).now (s.accepted d))).net.own =
    some { r with asked := true } := rfl
  generalize setOwn { r with asked := true } (complete d stACCEPTED 0 (s.accepted d).now (s.accepted d)) = c at *
  refine ⟨answers.grows (tryCommit_sent c), fun all => ?_, fun some => ?_⟩
  · rw [tryCommit_eq own, if_pos ⟨undecided, acked.trans all, .inr rfl⟩]
    have decided := decideOwn_decides true own undecided
    refine ⟨⟨_, decided.own, rfl, rfl⟩, fun t ht => ?_⟩
    rw [decided.commits (held ▸ ht), State.tile, tiles, State.tile]
  · rw [tryCommit_eq own, if_neg (by simp [acked, some])]
    exact ⟨own, tiles⟩

/-- MODE_COMMIT with ABORT of the own request (R45). -/
theorem commit_aborted (hp : d.plain) (ha : s.admits d = true) (h : Commits s d r) (hc : r.cab = d.cab)
    (hb : payBit d.payload 2 0 = true) :
    let x := submit d (landModeCommit d) s
    Answers d stACCEPTED 0 (s.reach d.accept).now s x ∧ (∃ q, x.net.own = some q ∧ q.id = r.id ∧ q.decision = some false) ∧
      ∀ t, t ∈ s.heldTiles r → (x.tile t).mode = none ∧ x.fld (LT_TILE_MODE t) LT_TILE_MODE_REQ_ID = 0 := by
  have land := landModeCommit_open h.accepted
  have undecided := h.undecided
  dsimp only
  rw [submit_admitted d s _ ha, land, if_neg (not_not_intro hc), if_pos hb]
  have held := heldTiles_answered (s := s) hp { r with hostAbort := true }
  have answers := answered_noted (s := s) hp { r with hostAbort := true }
  have own : (setOwn { r with hostAbort := true } (complete d stACCEPTED 0 (s.accepted d).now (s.accepted d))).net.own =
    some { r with hostAbort := true } := rfl
  generalize setOwn { r with hostAbort := true } (complete d stACCEPTED 0 (s.accepted d).now (s.accepted d)) = c at *
  have decided := decideOwn_decides false own undecided
  exact ⟨answers.grows decided.sent, ⟨_, decided.own, rfl, rfl⟩, fun t ht => decided.frees (held ▸ ht)⟩

end

end Sys2Proof.Machine
end

section
/-! SUPPORT. O50: the mode frames as a device receives them (R43–R46). -/

namespace Sys2Proof.Machine

theorem allTiles_nodup : allTiles.Nodup := by decide

theorem mem_allTiles (t : Fin 4) : t ∈ allTiles := by fin_cases t <;> decide

section
variable {g : Fin 4 → State → State} {f : Tile → Tile} {w : Word → Word} (h : OnTile g f w) (s : State) (t : Fin 4)
include h

/-- What every tile does, each does. -/
theorem OnTile.everyTile : (onTiles g allTiles s).tile t = f (s.tile t) := by
  rw [h.tiles allTiles_nodup, if_pos (mem_allTiles t)]

theorem OnTile.everyModeReg : (onTiles g allTiles s).reg (LT_TILE_MODE t) = w (s.reg (LT_TILE_MODE t)) := by
  rw [h.modeReg allTiles_nodup, if_pos (mem_allTiles t)]

end

/-- A tile that holds no mode, in a state whose register shows none. -/
theorem everyTile_freed (s : State) (t : Fin 4) : ((onTiles freeMode allTiles s).tile t).mode = none ∧
    (onTiles freeMode allTiles s).fld (LT_TILE_MODE t) LT_TILE_MODE_REQ_ID = 0 := by
  obtain ⟨request, -⟩ := showPending_reads 0 0 (s.reg (LT_TILE_MODE t)) (by omega) (by omega)
  rw [State.fld, onTile_freeMode.everyTile, onTile_freeMode.everyModeReg]
  exact ⟨rfl, request⟩

/-- A frame of a source that is accepted, as it reaches the device. -/
structure Heard (s : State) (u : Nat) (k : Fin 2) (ty : Nat) (h : LineHdr) : Prop where
  takes : s.netTakes k = true
  seg : h.seg = s.fld NET_SEG NET_SEG_SEG_ID
  ver : h.ver ≤ 2
  ok : (s.reach u).sourceOk h.src = true
  first : (s.reach u).isCopy k h.src ty h.seq = false

/-- A state at an instant, with a source noted as accepted. -/
def State.hears (s : State) (u src : Nat) : State := noteAccepted src true (s.reach u)

section
variable {s : State} {u ty : Nat} {k : Fin 2} {h : LineHdr} {f : State → State}

/-- A frame that is heard acts. -/
theorem Heard.acts (hh : Heard s u k ty h) : lineFrame k ty h (sourceTests h.src f) (s.reach u) = f (s.hears u h.src) := by
  obtain ⟨takes, seg, ver, ok, first⟩ := hh
  rw [lineFrame_first (s := s.reach u) takes first seg ver, sourceTests_pass ok]
  rfl

theorem hears_same (src : Nat) : SameNet s (s.hears u src) := .of_regs rfl
theorem hears_now (src : Nat) : (s.hears u src).now = (s.reach u).now := rfl
theorem hears_own (src : Nat) : (s.hears u src).net.own = s.net.own := rfl
theorem hears_peers (src : Nat) : (s.hears u src).net.peers = s.net.peers := rfl

end

/-! ## The prepare frame -/

/-- A request of another device as it is taken up (R44). -/
def takePeer (p : PeerRequest) (s : State) : State := s.modNet fun x => { x with peers := x.peers ++ [p], undecided := false }

section
variable {s : State} {id orig mode lc : Nat}

/-- A device whose tiles all can holds the mode and acknowledges (R44). -/
theorem prepareFrame_takes (hm : s.member orig = true) (ho : orig ≠ s.fld NET_SEG NET_SEG_DEVNUM) (hp : s.net.peers = [])
    (hx : mode < 255) (hr : ∀ t, s.tileReason t = 0) : prepareFrame id orig mode lc s =
      sendLine 4 0 [(id : Int), orig, 0, 0] (takePeer ⟨id, orig, mode, lc, true, false⟩
        (onTiles (holdMode id mode lc) allTiles s)) := by
  have reason : s.deviceReason mode = (0, 0) := by
    have reasons : (allTiles.map fun t => s.tileReason t) = [0, 0, 0, 0] := by simp only [hr]; rfl
    rw [State.deviceReason, if_neg (by omega), reasons]
    rfl
  unfold prepareFrame
  rw [if_neg (by simp [hm, ho, hp]), reason]
  generalize allTiles = l
  rfl

/-- A prepare of a request that is known changes nothing. -/
theorem prepareFrame_known (h : (s.net.peers.any fun p => p.id == id && p.orig == orig) = true) :
    prepareFrame id orig mode lc s = s := by
  unfold prepareFrame
  rw [if_pos (.inr (.inr h))]

/-- The acknowledgement of a request taken up, in a state whose tiles already hold it. -/
theorem takePeer_acknowledges {y : State} (p : PeerRequest) (fields : List Int) (n : Fin 2) (same : SameNet s y)
    (net : y.net = s.net) (out : y.out = s.out) (hp : s.net.peers = []) (ht : s.mayTalk = true) (hn : s.netPortUp n = true) :
    let x := sendLine 4 0 fields (takePeer p y)
    x.tiles = y.tiles ∧ x.net.peers = [p] ∧
      ∃ hdr, Sends s x (.frame n 4 (s.nextSeq 4) (s.lineTag n) (hdr ++ fields)) := by
  have same' : SameNet s (takePeer p y) := same.trans (.of_regs rfl)
  have retired : (takePeer p y).net.retired = s.net.retired := show y.net.retired = _ from congrArg _ net
  have seq : (takePeer p y).nextSeq 4 = s.nextSeq 4 := by
    rw [State.nextSeq, show (takePeer p y).net.txSeq = s.net.txSeq from show y.net.txSeq = _ from congrArg _ net, State.nextSeq]
  have peers : (takePeer p y).net.peers = [p] := by simp [takePeer, net, hp]
  have before : s.out <:+ (takePeer p y).out := out ▸ List.suffix_rfl
  have sends := sendLine_sends 4 0 fields (takePeer p y) n (same'.mayTalk.trans ht) ((same'.netPortUp retired n).trans hn)
  rw [seq, same'.lineTag] at sends
  obtain ⟨q, hq⟩ := sendLine_net 4 0 fields (takePeer p y)
  exact ⟨kept_part (sendLine_keeps 4 0 fields (takePeer p y)) .tiles (by decide), (congrArg Net.peers hq).trans peers, _,
    sends.after before⟩

/-- MODE_PREPARE_FRAME of a new request (R44). -/
theorem prepareFrame_holds (n : Fin 2) (hm : s.member orig = true) (ho : orig ≠ s.fld NET_SEG NET_SEG_DEVNUM)
    (hp : s.net.peers = []) (hx : mode < 255) (hr : ∀ t, s.tileReason t = 0) (ht : s.mayTalk = true)
    (hn : s.netPortUp n = true) :
    let x := prepareFrame id orig mode lc s
    (∀ t, (x.tile t).mode = some ⟨mode, lc, false⟩) ∧ x.net.peers = [⟨id, orig, mode, lc, true, false⟩] ∧
      ∃ hdr, Sends s x (.frame n 4 (s.nextSeq 4) (s.lineTag n) (hdr ++ [(id : Int), (orig : Int), 0, 0])) := by
  have act := onTile_holdMode id mode lc
  obtain ⟨tiles, peers, frame⟩ := takePeer_acknowledges ⟨id, orig, mode, lc, true, false⟩ [(id : Int), orig, 0, 0] n
    (act.sameNet allTiles s) (act.net allTiles s) (act.out allTiles s) hp ht hn
  dsimp only
  rw [prepareFrame_takes hm ho hp hx hr]
  refine ⟨fun t => ?_, peers, frame⟩
  rw [State.tile, tiles, ← State.tile, act.everyTile]
  rfl

end

/-! ## The acknowledgement frame -/

/-- A request with an acknowledgement of a unit (R45). -/
def OwnRequest.acked (r : OwnRequest) (src : Nat) : OwnRequest := { r with acks := src :: r.acks.filter (· != src) }

section
variable {s : State} {h : LineHdr} {id result : Nat} {r : OwnRequest}

/-- An acknowledgement of the open request of the line (R45). -/
theorem ackFrame_open (ho : s.net.own = some r) (hi : r.id = id) (hs : r.scope = 2) :
    ackFrame h id (s.fld NET_SEG NET_SEG_DEVNUM) result s =
      if r.ld < s.now then s.count NET_SAMPLE_CNT NET_SAMPLE_CNT_LATE_ACK
      else if result = 0 then tryCommit (setOwn (r.acked h.src) s)
      else setOwn { r with refusals := (h.src, result) :: r.refusals } s := by
  unfold ackFrame
  rw [if_neg (by simp), ho]
  exact (if_neg (not_not_intro hi)).trans (if_neg (not_not_intro hs))

/-- An acknowledgement after L_d counts (R45). -/
theorem ackFrame_late (ho : s.net.own = some r) (hi : r.id = id) (hs : r.scope = 2) (hl : r.ld < s.now) :
    let x := ackFrame h id (s.fld NET_SEG NET_SEG_DEVNUM) result s
    Counts s x NET_SAMPLE_CNT NET_SAMPLE_CNT_LATE_ACK ∧ x.net.own = s.net.own ∧ x.tiles = s.tiles := by
  dsimp only
  rw [ackFrame_open ho hi hs, if_pos hl]
  exact ⟨counts_count s _ _ (by decide), rfl, rfl⟩

theorem acked_contains (r : OwnRequest) (src u : Nat) : (r.acked src).acks.contains u = (src :: r.acks).contains u := by
  by_cases e : u = src
  · simp [OwnRequest.acked, e]
  · rw [Bool.eq_iff_iff, List.contains_iff_mem, List.contains_iff_mem]
    simp [OwnRequest.acked, e]

/-- An acknowledgement by L_d is noted, and the last one of a request that may commit decides it (R45). -/
theorem ackFrame_counts (ho : s.net.own = some r) (hi : r.id = id) (hs : r.scope = 2) (hl : s.now ≤ r.ld) (hz : result = 0) :
    ∃ q, (ackFrame h id (s.fld NET_SEG NET_SEG_DEVNUM) result s).net.own = some q ∧ q.id = id ∧ h.src ∈ q.acks ∧
      (r.decision = none → r.auto = true ∨ r.asked = true → s.allAcked { r with acks := h.src :: r.acks } = true →
        q.decision = some true) := by
  have own : (setOwn (r.acked h.src) s).net.own = some (r.acked h.src) := rfl
  have all : (setOwn (r.acked h.src) s).allAcked (r.acked h.src) = s.allAcked { r with acks := h.src :: r.acks } := by
    simp only [State.allAcked, acked_contains]
    rfl
  have mem : h.src ∈ (r.acked h.src).acks := List.mem_cons_self ..
  rw [ackFrame_open ho hi hs, if_neg (by omega), if_pos hz, tryCommit_eq own, all]
  split
  next ready =>
    exact ⟨_, (decideOwn_decides true own ready.1).own, hi, mem, fun _ _ _ => rfl⟩
  next waits =>
    exact ⟨_, own, hi, mem, fun undecided may acked => absurd ⟨undecided, acked, may⟩ waits⟩

end

/-! ## The decision frame -/

section
variable {s : State} {id orig decision : Nat} {p : PeerRequest}

/-- The decision on the one request that a device holds (R46). -/
theorem decisionReceive_held (hp : s.net.peers = [p]) (hi : p.id = id) (ho : p.orig = orig) (hd : p.decided = false) :
    decisionReceive id orig decision s =
      if p.lc < s.now then leaveUndecided p s
      else if decision = 1 then onTiles commitMode allTiles (s.modNet fun x => { x with peers := x.peers.map fun q =>
        if q.id == id && q.orig == orig then { q with decided := true } else q })
      else onTiles freeMode allTiles (dropPeer id orig s) := by
  have found : s.net.peers.find? (fun p => p.id == id && p.orig == orig && !p.decided) = some p := by
    simp [hp, hi, ho, hd]
  unfold decisionReceive
  rw [found]
  generalize allTiles = l
  rfl

theorem dropPeer_last (hp : s.net.peers = [p]) (hi : p.id = id) (ho : p.orig = orig) : (dropPeer id orig s).net.peers = [] := by
  simp [dropPeer, hp, hi, ho]

/-- A request is given up without a decision. -/
def noteUndecided (p : PeerRequest) (s : State) : State :=
  (dropPeer p.id p.orig s).modNet fun x => { x with undecided := true }

theorem leaveUndecided_eq (p : PeerRequest) (s : State) : leaveUndecided p s =
    record .modeUndecided 1 4 0 [p.id, p.orig, p.mode] (onTiles freeMode allTiles (noteUndecided p s)) := by
  unfold leaveUndecided
  generalize allTiles = l
  rfl

/-- A request that its device leaves undecided (R46). -/
theorem leaveUndecided_leaves (hp : s.net.peers = [p]) :
    let x := leaveUndecided p s
    x.net.peers = [] ∧ x.net.undecided = true ∧
      (∀ t, (x.tile t).mode = none ∧ x.fld (LT_TILE_MODE t) LT_TILE_MODE_REQ_ID = 0) ∧ Logs s x (.dev .modeUndecided) 4 0 := by
  have net := onTile_freeMode.net allTiles (noteUndecided p s)
  have recorder := onTile_freeMode.recorder allTiles (noteUndecided p s)
  have freed := everyTile_freed (noteUndecided p s)
  have logs := record_logs .modeUndecided 1 4 0 [p.id, p.orig, p.mode] (onTiles freeMode allTiles (noteUndecided p s))
  rw [Logs, recorder] at logs
  dsimp only
  rw [leaveUndecided_eq, net_record, net]
  refine ⟨dropPeer_last hp rfl rfl, rfl, fun t => ?_, logs⟩
  rw [record_tile, record_fld]
  exact freed t

/-- MODE_DECISION_FRAME by L_c (R46). -/
theorem decisionReceive_decides (hp : s.net.peers = [p]) (hi : p.id = id) (ho : p.orig = orig) (hd : p.decided = false)
    (hl : s.now ≤ p.lc) :
    let x := decisionReceive id orig decision s
    (decision = 1 → x.net.peers = [{ p with decided := true }] ∧
      ∀ t, (x.tile t).mode = (s.tile t).mode.map fun m => { m with committed := true }) ∧
    (decision ≠ 1 → x.net.peers = [] ∧
      ∀ t, (x.tile t).mode = none ∧ x.fld (LT_TILE_MODE t) LT_TILE_MODE_REQ_ID = 0) := by
  dsimp only
  rw [decisionReceive_held hp hi ho hd, if_neg (by omega)]
  refine ⟨fun commit => ?_, fun abort => ?_⟩
  · rw [if_pos commit, onTile_commitMode.net]
    refine ⟨by simp [hp, hi, ho], fun t => ?_⟩
    rw [onTile_commitMode.everyTile]
    rfl
  · rw [if_neg abort, onTile_freeMode.net]
    exact ⟨dropPeer_last hp hi ho, everyTile_freed _⟩

/-- A decision after L_c comes too late (R46). -/
theorem decisionReceive_late (hp : s.net.peers = [p]) (hi : p.id = id) (ho : p.orig = orig) (hd : p.decided = false)
    (hl : p.lc < s.now) : decisionReceive id orig decision s = leaveUndecided p s := by
  rw [decisionReceive_held hp hi ho hd, if_pos hl]

/-- MODE_UNDECIDED at L_c (R46). -/
theorem modeUndecided_due (hp : s.net.peers = [p]) (hd : p.decided = false) (hl : p.lc ≤ s.now) :
    modeUndecided s = leaveUndecided p s := by
  have found : s.net.peers.find? (fun p => !p.decided && decide (p.lc ≤ s.now)) = some p := by
    simp [hp, hd, hl]
  unfold modeUndecided
  rw [found]

end

end Sys2Proof.Machine
end

section
/-! SUPPORT. O50: the deadlines, the repeats and the outcome of a request (R45, R46), and an event that is told (R240). -/

namespace Sys2Proof.Machine

/-! ## An event that has room on its ring -/

theorem evSeq_ne (c : Fin 4) (n : Fin 16) : HIF_CAB_EVSEQ c ≠ HIF_RING_DEV c n ∧ HIF_CAB_EVSEQ c ≠ HIF_RING_HOST c n ∧
    HIF_CAB_EVSEQ c ≠ HIF_RING_CFG c n := by
  simp only [HIF_CAB_EVSEQ, HIF_RING_DEV, HIF_RING_HOST, HIF_RING_CFG]
  omega

theorem nextEvSeq_room (c : Fin 4) (n : Fin 16) (s : State) : (nextEvSeq c s).rRoom c n = s.rRoom c n := by
  obtain ⟨dev, host, cfg⟩ := evSeq_ne c n
  have other {a : Nat} (f : Fld) (h : HIF_CAB_EVSEQ c ≠ a) : (nextEvSeq c s).fld a f = s.fld a f :=
    State.fld_setFld_far s _ _ _ f _ h
  have size : (nextEvSeq c s).rSize c n = s.rSize c n := by simp only [State.rSize, other _ cfg]
  have used : (nextEvSeq c s).rUsed c n = s.rUsed c n := by
    simp only [State.rUsed, size, State.rDev, State.rHost, other _ dev, other _ host]
  rw [State.rRoom, used, size, State.rRoom]

theorem writeEntry_sends (c : Fin 4) (n : Fin 16) (e : Entry) (urgent : Bool) (s : State) :
    ∃ adr, Sends s (writeEntry c n e urgent s) (.entry c n adr e) := by
  refine ⟨s.rBase c n + 64 * (s.rDev c n % s.rSize c n), (sends_emit s _).grows ?_⟩
  suffices kept : Ok (keepBut [.regs, .cabs, .out] (s.emit (.entry c n (s.rBase c n + 64 * (s.rDev c n % s.rSize c n)) e)))
      (writeEntry c n e urgent s) from kept_sent kept
  exact requestIrq_ok c n urgent _ (State.setFld_ok _ _ _ _ (keepBut_start _ _) (by simp [keepBut])) (by simp [keepBut])
    (by simp [keepBut])

/-- An event that finds its ring, with room and none lost before it, is told (R240). -/
theorem raiseEvent_tells {s : State} {c : Fin 4} {n : Fin 16} (b : EvBody) (h : s.canTell c n b.sev) :
    Tells s (raiseEvent c b s) c n b.code (evParams b.params) := by
  obtain ⟨ring, room, none_lost⟩ := h
  have room' := (nextEvSeq_room c n s).trans room
  have told : raiseEvent c b s = writeEvent c n b (nextEvSeq c s) := by
    simp [raiseEvent, ring, eventsLostFirst, none_lost, room']
  rw [told]
  obtain ⟨adr, sends⟩ := writeEntry_sends c n (.event
    { code := b.code, sev := b.sev % 4, phase := (nextEvSeq c s).rPhase c n, kind := b.kind, idx := b.idx, tag := b.tag,
      time := b.time, seq := (nextEvSeq c s).fld (HIF_CAB_EVSEQ c) HIF_CAB_EVSEQ_SEQ, params := evParams b.params }) false
    (nextEvSeq c s)
  exact ⟨adr, _, sends, rfl, rfl⟩

theorem toBits_ofNat (w x : Nat) : toBits w (x : Int) = x % 2 ^ w := by
  rw [toBits, show ((2 : Int) ^ w) = ((2 ^ w : Nat) : Int) from by norm_cast, ← Int.natCast_mod, Int.toNat_natCast]

/-! ## The outcome -/

/-- A request whose outcome has been reported is open no more. -/
def endOwn (r : OwnRequest) (s : State) : State := s.modNet fun x => { x with own := none, ownDone := r.id :: x.ownDone }

/-- The units of a list, a bit for each. -/
def unitBits (l : List Nat) : Nat := l.foldl (fun b u => b ||| 2 ^ u) 0

/-- The status of an outcome and its bitmap (R45, R46). -/
def outcomeOf (s : State) (r : OwnRequest) : Nat × Nat :=
  if r.decision = some false then (stMODE_ABORTED, unitBits ((s.units r).filter fun u => !r.acks.contains u))
  else if (s.units r).filter (fun u => !s.reports r u) = [] then (stCOMMITTED, 0)
  else (stMODE_SPLIT, unitBits ((s.units r).filter fun u => !s.reports r u))

/-- The reasons of the units that refused. -/
def refusalsOf (r : OwnRequest) : Nat := (r.refusals.map fun x => x.2).foldl (fun (b x : Nat) => b * 8 + x) 0

/-- The event that reports an outcome (R241). -/
def outcomeEvent (s : State) (r : OwnRequest) : EvBody :=
  ⟨0x0502, plainSev 0x0502, 4, 0, r.tag, s.now, [((outcomeOf s r).1 : Int), ((outcomeOf s r).2 : Int), (refusalsOf r : Int),
    if r.decision = some false ∧ r.hostAbort then 1 else 0]⟩

section
variable {s : State} {r : OwnRequest}

/-- A due outcome is reported, and the request ends. -/
theorem modeOutcome_due (ho : s.net.own = some r) (hd : r.decision.isSome = true) (due : s.outcomeDue r = true) :
    modeOutcome s = raiseEvent (finCab r.cab) (outcomeEvent s r) (endOwn r s) := by
  unfold modeOutcome
  rw [ho]
  dsimp only
  rw [if_neg (by simp [due, Option.ne_none_iff_isSome.2 hd])]
  unfold outcomeEvent outcomeOf
  rfl

theorem outcome_aborted (h : r.decision = some false) : evParams (outcomeEvent s r).params =
    [stMODE_ABORTED, (outcomeOf s r).2 % 2 ^ 64, refusalsOf r % 2 ^ 64, if r.hostAbort then 1 else 0, 0] := by
  have status : (outcomeOf s r).1 = stMODE_ABORTED := by rw [outcomeOf, if_pos h]
  have flag (b : Bool) : toBits 64 (if b then 1 else 0) = if b then 1 else 0 := by cases b <;> decide
  have small : toBits 64 (stMODE_ABORTED : Int) = stMODE_ABORTED := by decide
  have zero : toBits 64 0 = 0 := by decide
  simp only [evParams, outcomeEvent, h, true_and, status, List.replicate, List.cons_append, List.nil_append, List.take_succ_cons,
    List.take_zero, List.map_cons, List.map_nil, toBits_ofNat 64 (outcomeOf s r).2, toBits_ofNat 64 (refusalsOf r), small, flag,
    zero]

theorem outcome_committed (h : r.decision = some true) (all : (s.units r).all (s.reports r) = true) :
    evParams (outcomeEvent s r).params = [stCOMMITTED, 0, refusalsOf r % 2 ^ 64, 0, 0] := by
  have missing : (s.units r).filter (fun u => !s.reports r u) = [] :=
    List.filter_eq_nil_iff.2 fun u hu => by simp [List.all_eq_true.1 all u hu]
  have outcome : outcomeOf s r = (stCOMMITTED, 0) := by rw [outcomeOf, if_neg (by simp [h]), if_pos missing]
  have zero : toBits 64 0 = 0 := by decide
  have small : toBits 64 (stCOMMITTED : Int) = stCOMMITTED := by decide
  simp only [evParams, outcomeEvent, h, outcome, Option.some.injEq, Bool.true_eq_false, false_and, if_false, List.replicate,
    List.cons_append, List.nil_append, List.take_succ_cons, List.take_zero, List.map_cons, List.map_nil,
    toBits_ofNat 64 (refusalsOf r), small, zero, Nat.cast_zero]

/-- MODE_OUTCOME of a due outcome (R45, R46). -/
theorem modeOutcome_reports (ho : s.net.own = some r) (hd : r.decision.isSome = true) (due : s.outcomeDue r = true) :
    let x := modeOutcome s
    x.net.own = none ∧ r.id ∈ x.net.ownDone ∧ ∀ n, s.canTell (finCab r.cab) n (plainSev 0x0502) → ∃ why,
      (r.decision = some false → ∃ bm, Tells s x (finCab r.cab) n 0x0502
        [stMODE_ABORTED, bm % 2 ^ 64, why % 2 ^ 64, if r.hostAbort then 1 else 0, 0]) ∧
      (r.decision = some true → (s.units r).all (s.reports r) = true →
        Tells s x (finCab r.cab) n 0x0502 [stCOMMITTED, 0, why % 2 ^ 64, 0, 0]) := by
  dsimp only
  rw [modeOutcome_due ho hd due]
  have kept : Ok (keepBut [.regs, .cabs, .recorder, .out] (endOwn r s)) (raiseEvent (finCab r.cab) (outcomeEvent s r) (endOwn r s)) :=
    raiseEvent_ok _ _ _ (keepBut_start _ _) (by simp [keepBut]) (by simp [keepBut]) (by simp [keepBut]) (by simp [keepBut])
  have net : (raiseEvent (finCab r.cab) (outcomeEvent s r) (endOwn r s)).net = (endOwn r s).net := kept_part kept .net (by decide)
  rw [net]
  refine ⟨rfl, List.mem_cons_self .., fun n can => ⟨refusalsOf r, fun aborted => ⟨(outcomeOf s r).2, ?_⟩, fun committed all => ?_⟩⟩
  · rw [← outcome_aborted aborted]
    exact raiseEvent_tells (s := endOwn r s) (outcomeEvent s r) can
  · rw [← outcome_committed committed all]
    exact raiseEvent_tells (s := endOwn r s) (outcomeEvent s r) can

/-! ## The deadlines and the repeats -/

/-- A request that lapses is decided against, and its tiles are free (R45). -/
theorem decideOwn_lapses (ho : s.net.own = some r) (hd : r.decision = none) :
    let x := decideOwn false s
    (∃ q, x.net.own = some q ∧ q.id = r.id ∧ q.decision = some false) ∧
      ∀ t, t ∈ s.heldTiles r → (x.tile t).mode = none ∧ x.fld (LT_TILE_MODE t) LT_TILE_MODE_REQ_ID = 0 := by
  have decided := decideOwn_decides false ho hd
  exact ⟨⟨_, decided.own, rfl, rfl⟩, fun t ht => decided.frees ht⟩

/-- A decision as it is repeated (R45). -/
def OwnRequest.again (r : OwnRequest) (now : Nat) : OwnRequest := { r with repeats := r.repeats + 1, lastTx := now }

/-- DECISION_REPEAT of a decision that is due again (R45). -/
theorem decisionRepeat_repeats (n : Fin 2) (ho : s.net.own = some r) (hd : r.decision.isSome = true) (hs : r.scope = 2)
    (hl : r.lastTx + 100000 ≤ s.now) (hc : s.now ≤ r.lc) (ht : s.mayTalk = true) (hn : s.netPortUp n = true) :
    let x := decisionRepeat s
    x.net.own = some (r.again s.now) ∧ ∃ fields, Sends s x (.frame n 5 (s.nextSeq 5) (s.lineTag n) fields) := by
  have again : decisionRepeat s = decisionFrame (r.again s.now) (setOwn (r.again s.now) s) := by
    unfold decisionRepeat
    rw [ho]
    exact if_pos ⟨hd, hs, hl, hc⟩
  dsimp only
  rw [again]
  obtain ⟨q, net⟩ := decisionFrame_net (r.again s.now) (setOwn (r.again s.now) s)
  rw [net]
  exact ⟨rfl, decisionFrame_sends (r.again s.now) (setOwn (r.again s.now) s) n ht hn⟩

end

end Sys2Proof.Machine
end

section
/-! O50: the agreement on a mode change (R42–R46). -/

namespace Sys2Proof.Machine

/-- MODE_PREPARE_FRAME of a request that is known, or a second copy of it: only its source may be noted as accepted. -/
theorem prepareFrame_ignored {s : State} {u : Nat} {k : Fin 2} {h : LineHdr} {id orig mode lc : Nat} (takes : s.netTakes k = true)
    (seg : h.seg = s.fld NET_SEG NET_SEG_SEG_ID) (ver : h.ver ≤ 2) (ok : (s.reach u).sourceOk h.src = true)
    (known : (s.net.peers.any fun p => p.id == id && p.orig == orig) = true) :
    let x := lineFrame k 3 h (sourceTests h.src (prepareFrame id orig mode lc)) (s.reach u)
    x.tiles = s.tiles ∧ x.regs = s.regs ∧ x.out = s.out ∧ x.net.peers = s.net.peers := by
  dsimp only
  cases copy : (s.reach u).isCopy k h.src 3 h.seq with
  | true =>
    rw [lineFrame_copy copy]
    exact ⟨rfl, rfl, rfl, rfl⟩
  | false =>
    rw [Heard.acts ⟨takes, seg, ver, ok, copy⟩, prepareFrame_known (s := s.hears u h.src) known]
    exact ⟨rfl, rfl, rfl, rfl⟩

/-- Settles O50: a prepare is held by the tiles that acknowledge it, the last acknowledgement decides it, and a decision, a deadline
or a frame of the originator commits or frees what is held. -/
theorem modeChangesAreAgreed : Obligations.ModeChangesAreAgreed := by
  refine ⟨?_, ?_, ?_, fun s u => ⟨fun k h takes seg ver ok => ⟨?_, ?_, ?_, ?_⟩, fun r own => ⟨?_, ?_, ?_, ?_⟩, ?_⟩⟩
  · intro s d ts hp ha good hl scope tiles mode idle instants
    exact ⟨_, rfl, prepare_local hp ha ⟨good, scope, fun t ht => (tiles t ht).1, mode, idle, instants⟩ hl
      fun t ht => (tiles t ht).2⟩
  · intro s d n hp ha good hl tiles mode idle instants member talk up
    have scope : allTiles = scopeTiles (payByte d.payload 2) (payByte d.payload 3) := by rw [hl]; rfl
    exact ⟨_, rfl, prepare_line n hp ha ⟨good, scope, fun t _ => (tiles t).1, mode, idle, hl.symm ▸ instants⟩ hl
      (fun t => (tiles t).2) member talk up⟩
  · intro s d r hp ha flags zero own id undecided
    have open_ : Commits s d r := ⟨flags, zero, own, id, undecided⟩
    exact ⟨fun foreign => ⟨_, rfl, commit_foreign hp ha open_ foreign⟩,
      fun mine keep intime => ⟨_, rfl, commit_asked hp ha open_ mine keep intime⟩,
      fun mine abort => ⟨_, rfl, commit_aborted hp ha open_ mine abort⟩⟩
  · intro id orig mode lc ld n first member other none_held valid can talk up
    refine ⟨_, rfl, ?_⟩
    rw [Heard.acts ⟨takes, seg, ver, ok, first⟩]
    exact prepareFrame_holds (s := s.hears u h.src) n member other none_held valid can talk up
  · intro id orig mode lc ld known
    exact ⟨_, rfl, prepareFrame_ignored takes seg ver ok known⟩
  · intro id result r first own same line
    refine ⟨fun late => ⟨_, rfl, ?_⟩, fun intime zero => ⟨_, rfl, ?_⟩⟩
    · rw [Heard.acts ⟨takes, seg, ver, ok, first⟩]
      exact ackFrame_late (s := s.hears u h.src) own same line late
    · rw [Heard.acts ⟨takes, seg, ver, ok, first⟩]
      exact ackFrame_counts (s := s.hears u h.src) own same line intime zero
  · intro id orig decision p first held same origin undecided
    refine ⟨fun intime => ⟨_, rfl, ?_⟩, fun late => ⟨_, rfl, ?_⟩⟩
    · rw [Heard.acts ⟨takes, seg, ver, ok, first⟩]
      exact decisionReceive_decides (s := s.hears u h.src) held same origin undecided intime
    · rw [Heard.acts ⟨takes, seg, ver, ok, first⟩, decisionReceive_late (s := s.hears u h.src) held same origin undecided late]
      exact leaveUndecided_leaves (s := s.hears u h.src) held
  · intro undecided past missing
    refine ⟨_, rfl, ?_⟩
    rw [show (s.reach u).net.own = some r from own]
    dsimp only
    rw [State.onlyIf, if_pos (by simp [undecided, past, show (s.reach u).allAcked r = false from missing])]
    exact decideOwn_lapses (s := s.reach u) own undecided
  · intro undecided manual past
    refine ⟨_, rfl, ?_⟩
    rw [show (s.reach u).net.own = some r from own]
    dsimp only
    rw [State.onlyIf, if_pos (by simp [undecided, manual, past])]
    exact decideOwn_lapses (s := s.reach u) own undecided
  · intro n decided line due before talk up
    exact ⟨_, rfl, decisionRepeat_repeats (s := s.reach u) n own decided line due before talk up⟩
  · intro decided due
    exact ⟨_, rfl, modeOutcome_reports (s := s.reach u) own decided due⟩
  · intro p held undecided past
    refine ⟨_, rfl, ?_⟩
    rw [modeUndecided_due (s := s.reach u) held undecided past]
    exact leaveUndecided_leaves (s := s.reach u) held

end Sys2Proof.Machine
end

section
/-! SUPPORT. O49: the profile of an axis carried on to an instant (R51, R61, R62, R66) reads no register below those of the axes and
tiles, so that the value that a channel publishes does not depend on what the network shows of itself. -/

namespace Sys2Proof.Machine

/-! ## States with the same axes -/

/-- Two states with the same axes and tiles, whose registers of axes and tiles read the same. -/
structure SameMotion (s t : State) : Prop where
  axes : t.axes = s.axes
  tiles : t.tiles = s.tiles
  reg : ∀ a, 0x44000 ≤ a → t.reg a = s.reg a

@[simp] theorem motion_range (a : Fin 32) : 0x44000 ≤ MP_STAT a ∧ 0x44000 ≤ MP_CTRL a ∧ 0x44000 ≤ MP_CNT a ∧
    0x44000 ≤ MP_VLIM_LO a ∧ 0x44000 ≤ MP_ALIM_LO a ∧ 0x44000 ≤ MP_EMERG_LO a ∧ 0x44000 ≤ MP_DERATE a ∧
    0x44000 ≤ MP_SLIM_NEG_LO a ∧ 0x44000 ≤ MP_SLIM_POS_LO a ∧ 0x44000 ≤ SF_WIN a := by
  simp only [MP_STAT, MP_CTRL, MP_CNT, MP_VLIM_LO, MP_ALIM_LO, MP_EMERG_LO, MP_DERATE, MP_SLIM_NEG_LO, MP_SLIM_POS_LO, SF_WIN]
  omega

@[simp] theorem tile_range (t : Fin 4) : 0x44000 ≤ LT_TILE_PERIOD t ∧ 0x44000 ≤ LT_TILE_MODE t := by
  simp only [LT_TILE_PERIOD, LT_TILE_MODE]
  omega

theorem SameMotion.refl (s : State) : SameMotion s s := ⟨rfl, rfl, fun _ _ => rfl⟩

theorem SameMotion.trans {s t u : State} (h : SameMotion s t) (h' : SameMotion t u) : SameMotion s u :=
  ⟨h'.axes.trans h.axes, h'.tiles.trans h.tiles, fun a ha => (h'.reg a ha).trans (h.reg a ha)⟩

theorem SameMotion.symm {s t : State} (h : SameMotion s t) : SameMotion t s :=
  ⟨h.axes.symm, h.tiles.symm, fun a ha => (h.reg a ha).symm⟩

/-- States that have not moved apart, seen from states that had not. -/
theorem SameMotion.between {s t s' t' : State} (h : SameMotion s t) (hs : SameMotion s s') (ht : SameMotion t t') :
    SameMotion s' t' := (hs.symm.trans h).trans ht

section
variable {s t : State} (h : SameMotion s t) (a : Fin 32)
include h

theorem SameMotion.axis : t.axis a = s.axis a := by rw [State.axis, h.axes, State.axis]
theorem SameMotion.prof : t.prof a = s.prof a := by rw [State.prof, h.axis, State.prof]
theorem SameMotion.tile (x : Fin 4) : t.tile x = s.tile x := by rw [State.tile, h.tiles, State.tile]

theorem SameMotion.fld {r : Nat} (hr : 0x44000 ≤ r) (f : Fld) : t.fld r f = s.fld r f := by
  rw [State.fld, h.reg r hr, State.fld]

theorem SameMotion.bit {r : Nat} (hr : 0x44000 ≤ r) (f : Fld) : t.bit r f = s.bit r f := by
  rw [State.bit, h.fld hr, State.bit]

theorem SameMotion.pair {r : Nat} (hr : 0x44000 ≤ r) : t.pair r = s.pair r := by
  rw [State.pair, h.reg r hr, h.reg (r + 4) (by omega), State.pair]

theorem SameMotion.pairI {r : Nat} (hr : 0x44000 ≤ r) : t.pairI r = s.pairI r := by
  rw [State.pairI, h.pair hr, State.pairI]

theorem SameMotion.axState : t.axState a = s.axState a := h.fld (by simp) _

theorem SameMotion.softOk (x : Int) : t.softOk a x = s.softOk a x := by
  have on : t.softOn a = s.softOn a := by
    rw [State.softOn, h.bit (by simp), State.homing, h.axis, ← State.homing, State.softOn]
  have neg : t.softNeg a = s.softNeg a := h.pairI (by simp)
  have pos : t.softPos a = s.softPos a := h.pairI (by simp)
  rw [State.softOk, on, neg, pos, State.softOk]

/-- The limits in force on an axis (R57, R66, R68). -/
theorem SameMotion.limits (l : Limits) : t.bankOf a = s.bankOf a ∧ t.vEff a l = s.vEff a l ∧ t.aEff a l = s.aEff a l ∧
    t.dEff a l = s.dEff a l ∧ t.emerg a = s.emerg a := by
  have bank : t.bankNo a = s.bankNo a := by rw [State.bankNo, h.fld (by simp), State.bankNo]
  have cap : t.vCap a = s.vCap a := h.pair (by simp)
  have emerg : t.emerg a = s.emerg a := h.pair (by simp)
  have acap : t.aCap a = s.aCap a := by
    simp only [State.aCap, h.pair (r := MP_ALIM_LO a) (by simp), h.pair (r := MP_EMERG_LO a) (by simp)]
  refine ⟨?_, ?_, ?_, ?_, emerg⟩
  · rw [State.bankOf, h.axis, bank, State.bankOf]
  · rw [State.vEff, cap, State.vEff]
  · simp only [State.aEff, acap, h.bit (r := MP_STAT a) (by simp), h.fld (r := MP_DERATE a) (by simp)]
  · rw [State.dEff, acap, State.dEff]

/-! ## What is done alike -/

theorem SameMotion.setReg (r : Nat) (x : Word) : SameMotion (s.setReg r x) (t.setReg r x) := by
  refine ⟨h.axes, h.tiles, fun b hb => ?_⟩
  rw [State.reg_setReg, State.reg_setReg, h.reg b hb]

theorem SameMotion.setFld {r : Nat} (hr : 0x44000 ≤ r) (f : Fld) (x : Nat) : SameMotion (s.setFld r f x) (t.setFld r f x) := by
  rw [State.setFld, State.setFld, h.reg r hr]
  exact h.setReg r _

theorem SameMotion.setBit {r : Nat} (hr : 0x44000 ≤ r) (f : Fld) (x : Bool) : SameMotion (s.setBit r f x) (t.setBit r f x) :=
  h.setFld hr f _

theorem SameMotion.count {r : Nat} (hr : 0x44000 ≤ r) (f : Fld) : SameMotion (s.count r f) (t.count r f) := by
  rw [State.count, State.count, State.countN, State.countN, h.fld hr]
  exact h.setFld hr f _

theorem SameMotion.setPair (r : Nat) (x : Int) : SameMotion (s.setPair r x) (t.setPair r x) := (h.setReg r _).setReg _ _

theorem SameMotion.modProf (f : Profile → Profile) : SameMotion (s.modProf a f) (t.modProf a f) := by
  refine ⟨?_, h.tiles, h.reg⟩
  show t.axes.set a.1 _ = s.axes.set a.1 _
  rw [h.axes, h.axis]

theorem SameMotion.setAxState (x : Nat) : SameMotion (s.setAxState a x) (t.setAxState a x) := h.setFld (by simp) _ _

end

/-! ## What no axis sees -/

/-- Registers below those of the axes and tiles. -/
theorem sameMotion_setFld {s : State} {r : Nat} (hr : r < 0x44000) (f : Fld) (x : Nat) : SameMotion s (s.setFld r f x) :=
  ⟨rfl, rfl, fun a ha => State.reg_setFld_far s r a f x (by omega)⟩

theorem sameMotion_of_beyond {s t : State} (h : t.beyond = s.beyond) (axes : t.axes = s.axes) (tiles : t.tiles = s.tiles) :
    SameMotion s t := ⟨axes, tiles, fun _ ha => reg_of_beyond h (by omega)⟩

section
variable (a : Fin 32) (s : State)

theorem sameMotion_record (k : RecKind) (sev kind idx : Nat) (params : List Nat) : SameMotion s (record k sev kind idx params s) :=
  ⟨rfl, rfl, fun _ _ => rfl⟩

theorem sameMotion_latchEvent (e : Fin 46) (bit param : Nat) : SameMotion s (latchEvent e bit param s) := by
  have latch : ENG_EVLATCH e < 0x44000 := by simp only [ENG_EVLATCH]; omega
  have counter : ENG_CNT e < 0x44000 := by simp only [ENG_CNT]; omega
  have step : SameMotion s (if (s.fld (ENG_EVLATCH e) ENG_EVLATCH_EV).testBit bit then s.count (ENG_CNT e) ENG_CNT_EVOVER
      else s.setFld (ENG_EVLATCH e) ENG_EVLATCH_EV (s.fld (ENG_EVLATCH e) ENG_EVLATCH_EV + 2 ^ bit)) := by
    split
    · exact sameMotion_setFld counter _ _
    · exact sameMotion_setFld latch _ _
  exact ⟨step.axes, step.tiles, step.reg⟩

theorem sameMotion_axisEvent (bit : Nat) (param : Int) : SameMotion s (axisEvent a bit param s) :=
  (sameMotion_latchEvent ..).trans (sameMotion_latchEvent ..)

theorem sameMotion_raiseAxis (code sev tag time : Nat) (params : List Int) :
    SameMotion s (raiseAxis a code sev tag time params s) := by
  have kept : Ok (keepBut [.regs, .cabs, .recorder, .out] s) (raiseAxis a code sev tag time params s) :=
    raiseAxis_ok a code sev tag time params s (keepBut_start _ s) (by simp [keepBut]) (by simp [keepBut]) (by simp [keepBut])
      (by simp [keepBut])
  exact sameMotion_of_beyond (beyond_raiseEvent ..) (kept_part kept .axes (by decide)) (kept_part kept .tiles (by decide))

theorem sameMotion_moveEnds (internal : Bool) (tag st : Nat) (target : Int) :
    SameMotion s (moveEnds a internal tag st target s) := by
  unfold moveEnds
  have event := sameMotion_axisEvent a s 4 st
  dsimp only
  split
  · exact event
  · exact event.trans (sameMotion_raiseAxis ..)

end

/-! ## The profile carried on -/

section
variable {s t : State} (h : SameMotion s t) (a : Fin 32)
include h

theorem SameMotion.moveEnds (internal : Bool) (tag st : Nat) (target : Int) :
    SameMotion (moveEnds a internal tag st target s) (moveEnds a internal tag st target t) :=
  h.between (sameMotion_moveEnds ..) (sameMotion_moveEnds ..)

theorem SameMotion.noteRaised (asked used : Nat) : SameMotion (noteRaised a asked used s) (noteRaised a asked used t) := by
  have noted := (h.setBit (r := MP_STAT a) (by simp) MP_STAT_DECEL_RAISED true).count (r := MP_CNT a) (by simp) MP_CNT_RAISED
  exact noted.between (sameMotion_record ..) (sameMotion_record ..)

theorem SameMotion.startMove (x : Rat) (k : Kin) (r : MoveReq) : SameMotion (startMove a x k r s) (startMove a x k r t) := by
  unfold Machine.startMove
  obtain ⟨bank, -⟩ := h.limits a Limits.zero
  dsimp only
  rw [bank]
  generalize (⟨r.v.getD (s.bankOf a).limits.v, r.a.getD (s.bankOf a).limits.a, r.d.getD (s.bankOf a).limits.d,
    r.j.getD (s.bankOf a).limits.j, r.v.isSome, r.a.isSome, r.d.isSome⟩ : Limits) = l
  obtain ⟨-, v, acc, d, emerg⟩ := h.limits a l
  rw [v, acc, d, emerg]
  generalize planMove x k r.target _ _ _ _ _ = out
  cases out with
  | none => exact h
  | some o =>
    dsimp only
    refine (SameMotion.setAxState (((SameMotion.modProf (SameMotion.modProf ?_ a _) a _).setFld (by simp) _ _).setBit (by simp) _ _)
      a _).setPair _ _
    split
    · exact h.noteRaised a _ _
    · exact h.setBit (by simp) _ _

theorem SameMotion.arrive (m : MoveRun) : SameMotion (arrive a m s) (arrive a m t) := by
  have cleared : SameMotion _ _ := ((h.modProf a fun x => { x with move := none }).setFld (r := MP_STAT a) (by simp)
    MP_STAT_HEAD_TAG 0).setBit (r := MP_STAT a) (by simp) MP_STAT_DECEL_RAISED false
  unfold Machine.arrive
  dsimp only
  rw [cleared.bit (by simp)]
  exact cleared.moveEnds a _ _ _ _

theorem SameMotion.nextOrRest (x : Rat) : SameMotion (nextOrRest a x s) (nextOrRest a x t) := by
  unfold Machine.nextOrRest
  rw [h.prof]
  split
  · exact (h.modProf a _).setAxState a _
  · exact (h.modProf a _).setAxState a _

theorem SameMotion.stopEnded : SameMotion (stopEnded a s) (stopEnded a t) := by
  unfold Machine.stopEnded
  rw [h.prof]
  have rest := ((h.modProf a fun x => { x with queue := resolveQueue (roundHalfAway (planEndPos (s.prof a).plan)) x.queue }).setBit
    (r := MP_STAT a) (by simp) MP_STAT_AT_SOFT (decide ((s.prof a).stopKind = .soft) && (s.prof a).softDir.isSome)).setBit
    (r := MP_STAT a) (by simp) MP_STAT_DECEL_RAISED false
  dsimp only
  rw [rest.prof]
  refine SameMotion.nextOrRest ?_ a _
  split
  · exact rest.between (sameMotion_axisEvent ..) (sameMotion_axisEvent ..)
  · exact rest

end

theorem SameMotion.startQueued {s t : State} (h : SameMotion s t) (a : Fin 32) (x : Rat) (n : Nat) :
    SameMotion (startQueued a x n s) (startQueued a x n t) := by
  induction n generalizing s t with
  | zero => exact (h.modProf a _).nextOrRest a x
  | succ n ih =>
    unfold Machine.startQueued
    rw [h.prof]
    cases (s.prof a).queue with
    | nil => exact (h.modProf a _).nextOrRest a x
    | cons r rest =>
      have taken := h.modProf a fun x => { x with queue := rest, dwellEnd := none }
      dsimp only
      rw [taken.softOk, taken.prof]
      split
      · split
        · exact (SameMotion.arrive (taken.setPair _ _) a _).nextOrRest a x
        · exact taken.startMove a x _ r
      · exact ih (taken.moveEnds a _ _ _ _)

/-- What has ended by an instant is carried out alike in states with the same axes. -/
theorem SameMotion.progress {s t : State} (h : SameMotion s t) (a : Fin 32) (x n : Nat) :
    SameMotion (progress a x n s) (progress a x n t) := by
  induction n generalizing s t with
  | zero => exact h
  | succ n ih =>
    unfold Machine.progress
    dsimp only
    rw [h.prof, h.axState]
    split
    · split
      · split
        · exact ih (h.startQueued a _ 9)
        · exact h
      · split
        · split
          · exact ih ((h.arrive a _).nextOrRest a _)
          · exact h
        · exact h
    · split
      · split
        · exact ih (h.stopEnded a)
        · exact h
      · split
        · exact h.setAxState a _
        · exact h

/-- The commanded position at an instant, in states with the same axes. -/
theorem SameMotion.posNow {s t : State} (h : SameMotion s t) (a : Fin 32) (x : Nat) : t.posNow a x = s.posNow a x := by
  have boundary : t.axB a = s.axB a := by rw [State.axB, State.boundary, h.tile, State.axB, State.boundary]
  have sf : t.sf a = s.sf a := by rw [State.sf, h.axis, State.sf]
  have gear : t.gear a = s.gear a := by rw [State.gear, h.axis, State.gear]
  have period : t.axT a = s.axT a := by rw [State.axT, State.period, h.fld (by simp), State.axT, State.period]
  have window : t.sfWin a = s.sfWin a := by rw [State.sfWin, h.fld (by simp), State.sfWin]
  have follow (y z : Nat) : t.sfAt a y z = s.sfAt a y z := by rw [State.sfAt, sf, period, window, State.sfAt]
  rw [State.posNow, State.kinAt, h.axState, boundary, sf, gear, follow, (h.progress a x 24).prof, State.posNow, State.kinAt]

end Sys2Proof.Machine
end

section
/-! SUPPORT. O49: a published sample (R37, R41). -/

namespace Sys2Proof.Machine

theorem pubCfg_range (v : Fin 8) : NET_PUB_CFG v < 0x20000 ∧ NET_PUB_CFG v ≠ NET_LF_VER := by
  simp only [NET_PUB_CFG, NET_LF_VER]
  omega

/-- The flags of a published sample (R37): two of them are free. -/
def State.pubFlags (s : State) : Nat :=
  let tq := if s.fld NET_LF_VER NET_LF_VER_USED = 2 then s.quality else 0
  (if Config.freeBool s.freeCtr then 1 else 0) + (if Config.freeBool (s.freeCtr + 1) then 2 else 0) + 4 * tq

/-- The sample of a channel: its sequence number is taken, and the free values of its flags are. -/
def takeSample (v : Fin 8) (s : State) : State :=
  s.fresh.fresh.modNet fun x => { x with pubSeq := x.pubSeq.setIfInBounds v ((s.net.pubSeq.toArray.getD v 0 + 1) % 65536) }

/-- The fields of a published sample (R37). -/
def State.pubFields (s : State) (v : Fin 8) (t : Nat) : List Int :=
  [(s.fld (NET_PUB_CFG v) NET_PUB_CFG_CHAN : Int), s.pubFlags, s.net.pubSeq.toArray.getD v 0, t, s.pubValue v t]

section
variable {s : State} {v : Fin 8} {t : Nat}

/-- A sample that is due is sent. -/
theorem publish_due (he : s.bit (NET_PUB_CFG v) NET_PUB_CFG_EN = true) (ht : s.mayTalk = true)
    (hi : t % ivlNs (s.fld (NET_PUB_CFG v) NET_PUB_CFG_IVL) = 0) :
    publish v t s = sendLine 2 1 ((followVersion s).pubFields v t) (takeSample v (followVersion s)) := by
  have due : (!s.bit (NET_PUB_CFG v) NET_PUB_CFG_EN || !s.mayTalk ||
      t % ivlNs (s.fld (NET_PUB_CFG v) NET_PUB_CFG_IVL) != 0) = false := by simp [he, ht, hi]
  unfold publish
  dsimp only
  rw [due]
  rfl

/-- What a channel publishes does not depend on the version shown. -/
theorem followVersion_pubFields : (followVersion s).pubFields v t = [(s.fld (NET_PUB_CFG v) NET_PUB_CFG_CHAN : Int),
    (followVersion s).pubFlags, (s.net.pubSeq[v] : Int), (t : Int), s.pubValue v t] := by
  obtain ⟨range, ne⟩ := pubCfg_range v
  have same := SameNet.of_version (followVersion_regs s)
  have motion : SameMotion s (followVersion s) := sameMotion_setFld (by decide) _ _
  have value : (followVersion s).pubValue v t = s.pubValue v t := by
    simp only [State.pubValue, State.bit, same.fld _ range ne, motion.posNow]
    rfl
  have seq : (followVersion s).net.pubSeq.toArray.getD v 0 = s.net.pubSeq[v] := by simp
  rw [State.pubFields, same.fld _ range ne, value, seq]

/-- PUBLISH_SAMPLE of a channel that is due (R41). -/
theorem publish_sends (port : Fin 2) (he : s.bit (NET_PUB_CFG v) NET_PUB_CFG_EN = true) (ht : s.mayTalk = true)
    (hi : t % ivlNs (s.fld (NET_PUB_CFG v) NET_PUB_CFG_IVL) = 0) (hn : s.netPortUp port = true) :
    let x := publish v t s
    x.net.pubSeq[v] = (s.net.pubSeq[v] + 1) % 65536 ∧ s.freeCtr < x.freeCtr ∧ RegsBut [NET_LF_VER] s x ∧
      ∃ hdr flags, Sends s x (.frame port 2 (s.nextSeq 2) (s.lineTag port)
        (hdr ++ [(s.fld (NET_PUB_CFG v) NET_PUB_CFG_CHAN : Int), flags, (s.net.pubSeq[v] : Int), (t : Int), s.pubValue v t])) := by
  have version := followVersion_regs s
  have same : SameNet s (takeSample v (followVersion s)) := (SameNet.of_version version).trans (.of_regs rfl)
  have sends := sendLine_sends 2 1 ((followVersion s).pubFields v t) (takeSample v (followVersion s)) port
    (same.mayTalk.trans ht) ((same.netPortUp rfl port).trans hn)
  obtain ⟨q, net⟩ := sendLine_net 2 1 ((followVersion s).pubFields v t) (takeSample v (followVersion s))
  have regs := sendLine_regs 2 1 ((followVersion s).pubFields v t) (takeSample v (followVersion s))
  have kept := sendLine_keeps 2 1 ((followVersion s).pubFields v t) (takeSample v (followVersion s))
  have free : (sendLine 2 1 ((followVersion s).pubFields v t) (takeSample v (followVersion s))).freeCtr = s.freeCtr + 1 + 1 :=
    kept_part kept .freeCtr (by decide)
  dsimp only
  rw [publish_due he ht hi]
  rw [followVersion_pubFields, same.lineTag] at *
  refine ⟨?_, by omega, version.trans (RegsBut.trans (.congr (.refl _ _) rfl) regs), _, _, sends⟩
  rw [net]
  simp [takeSample, Vector.setIfInBounds]
end

end Sys2Proof.Machine
end

section
/-! SUPPORT. O49: a sample of a virtual master (R38–R40): what it changes of its master, and that it leaves the others, the network and
every register but a few. -/

namespace Sys2Proof.Machine

/-! ## What samples leave -/

/-- What the samples of some virtual masters leave of a state. -/
structure Met (l : List (Fin 8)) (s t : State) : Prop where
  net : t.net = s.net
  now : t.now = s.now
  dev : t.dev = s.dev
  vm : ∀ w, w ∉ l → t.vm w = s.vm w
  reg : ∀ a, ¬ (0x40000 ≤ a ∧ a < 0x44000) → a ≠ NET_SAMPLE_CNT → (∀ w ∈ l, NET_VM_STAT w ≠ a) → t.reg a = s.reg a

theorem Met.refl (l : List (Fin 8)) (s : State) : Met l s s := ⟨rfl, rfl, rfl, fun _ _ => rfl, fun _ _ _ _ => rfl⟩

theorem Met.trans {l : List (Fin 8)} {s t u : State} (h : Met l s t) (h' : Met l t u) : Met l s u where
  net := h'.net.trans h.net
  now := h'.now.trans h.now
  dev := h'.dev.trans h.dev
  vm w hw := (h'.vm w hw).trans (h.vm w hw)
  reg a hc hn hv := (h'.reg a hc hn hv).trans (h.reg a hc hn hv)

theorem Met.mono {l m : List (Fin 8)} {s t : State} (h : Met l s t) (sub : ∀ w ∈ l, w ∈ m) : Met m s t where
  net := h.net
  now := h.now
  dev := h.dev
  vm w hw := h.vm w fun hl => hw (sub w hl)
  reg a hc hn hv := h.reg a hc hn fun w hw => hv w (sub w hw)

theorem vmCfg_range (v : Fin 8) : ¬ (0x40000 ≤ NET_VM_CFG v ∧ NET_VM_CFG v < 0x44000) ∧ NET_VM_CFG v ≠ NET_SAMPLE_CNT ∧
    ∀ w : Fin 8, NET_VM_STAT w ≠ NET_VM_CFG v := by
  simp only [NET_VM_CFG, NET_VM_STAT, NET_SAMPLE_CNT]
  exact ⟨by omega, by omega, fun w => by omega⟩

theorem vmStat_range (v : Fin 8) : ¬ (0x40000 ≤ NET_VM_STAT v ∧ NET_VM_STAT v < 0x44000) ∧ NET_VM_STAT v ≠ NET_SAMPLE_CNT := by
  simp only [NET_VM_STAT, NET_SAMPLE_CNT]
  omega

theorem vmStat_inj (v w : Fin 8) : NET_VM_STAT v = NET_VM_STAT w ↔ v = w := by
  simp only [NET_VM_STAT, Fin.ext_iff]
  omega

section
variable {l : List (Fin 8)} {s t : State} (h : Met l s t)
include h

theorem Met.cfg (v : Fin 8) : t.reg (NET_VM_CFG v) = s.reg (NET_VM_CFG v) := by
  obtain ⟨cabs, count, stat⟩ := vmCfg_range v
  exact h.reg _ cabs count fun w _ => stat w

theorem Met.cfgFld (v : Fin 8) (f : Fld) : t.fld (NET_VM_CFG v) f = s.fld (NET_VM_CFG v) f := by
  rw [State.fld, h.cfg, State.fld]

theorem Met.cfgBit (v : Fin 8) (f : Fld) : t.bit (NET_VM_CFG v) f = s.bit (NET_VM_CFG v) f := by
  rw [State.bit, h.cfgFld, State.bit]

theorem Met.stat {v : Fin 8} (hv : v ∉ l) : t.reg (NET_VM_STAT v) = s.reg (NET_VM_STAT v) := by
  obtain ⟨cabs, count⟩ := vmStat_range v
  exact h.reg _ cabs count fun w hw e => hv ((vmStat_inj w v).1 e ▸ hw)

theorem Met.vmIvl (v : Fin 8) : t.vmIvl v = s.vmIvl v := by rw [State.vmIvl, h.cfgFld, State.vmIvl]

theorem Met.entryOk {v : Fin 8} (hv : v ∉ l) (e : VmEntry) : t.entryOk v e = s.entryOk v e := by
  rw [State.entryOk, h.vm v hv, h.now, h.vmIvl, State.entryOk]

theorem Met.vmFreshTo {v : Fin 8} (hv : v ∉ l) : t.vmFreshTo v = s.vmFreshTo v := by
  rw [State.vmFreshTo, h.vm v hv, h.vmIvl, State.vmFreshTo]

end

/-! ## Staleness -/

section
variable (v : Fin 8) (s : State)

theorem beyond_raiseDevice (code sev time : Nat) (params : List Int) :
    (raiseDevice code sev time params s).beyond = s.beyond := beyond_foldl _ _ (fun z c _ => beyond_raiseEvent z c _) s

/-- An event that STALE has changed leaves the masters, and the registers beside those of the cabinets. -/
theorem raiseStale_keeps (stale : Bool) : Ok (keepBut [.regs, .cabs, .recorder, .out] s) (raiseStale v stale s) ∧
    (raiseStale v stale s).beyond = s.beyond :=
  ⟨raiseStale_ok v stale s (keepBut_start _ s) (by simp [keepBut]) (by simp [keepBut]) (by simp [keepBut]) (by simp [keepBut]),
    beyond_raiseDevice ..⟩

/-- STALE of a virtual master changes, with its event (R40). -/
def setStale (b : Bool) : State := raiseStale v b (s.setBit (NET_VM_STAT v) NET_VM_STAT_STALE b)

theorem setStale_vms (b : Bool) : (setStale v s b).vms = s.vms :=
  kept_part (raiseStale_keeps v _ b).1 .vms (by decide)

theorem setStale_met (b : Bool) : Met [v] s (setStale v s b) := by
  obtain ⟨kept, beyond⟩ := raiseStale_keeps v (s.setBit (NET_VM_STAT v) NET_VM_STAT_STALE b) b
  refine ⟨kept_part kept .net (by decide), kept_part kept .now (by decide), kept_part kept .dev (by decide), fun w _ => ?_,
    fun a hc _ hv => ?_⟩
  · rw [State.vm, setStale_vms, State.vm]
  · rw [setStale, reg_of_beyond beyond hc]
    exact State.reg_setFld_far s _ _ _ _ (hv v (List.mem_singleton_self v))

theorem setStale_shows (b : Bool) : (setStale v s b).bit (NET_VM_STAT v) NET_VM_STAT_STALE = b := by
  obtain ⟨-, beyond⟩ := raiseStale_keeps v (s.setBit (NET_VM_STAT v) NET_VM_STAT_STALE b) b
  rw [setStale, State.bit, State.fld, reg_of_beyond beyond (vmStat_range v).1]
  exact State.bit_setBit_same s _ _ b (by decide) rfl

end

section
variable {v : Fin 8} {s : State} {ts t : Nat}

/-- A master past its last fresh instant is shown stale, and nothing else changes of the masters (R40). -/
theorem staleAt_past (hf : s.vmFreshTo v = some ts) (he : s.bit (NET_VM_CFG v) NET_VM_CFG_EN = true) (hl : ts < t) :
    staleAt v t s = if s.bit (NET_VM_STAT v) NET_VM_STAT_STALE then s else setStale v s true := by
  unfold staleAt
  rw [hf]
  cases shown : s.bit (NET_VM_STAT v) NET_VM_STAT_STALE with
  | true => exact if_neg (by simp)
  | false => exact if_pos ⟨he, rfl, hl⟩

theorem staleAt_fresh (hf : s.vmFreshTo v = some ts) (hl : t ≤ ts) : staleAt v t s = s := by
  unfold staleAt
  rw [hf]
  exact if_neg fun ⟨_, _, past⟩ => absurd past (by omega)

theorem staleAt_cases (v : Fin 8) (t : Nat) (s : State) : staleAt v t s = s ∨ staleAt v t s = setStale v s true := by
  unfold staleAt
  split
  · split
    · exact .inr rfl
    · exact .inl rfl
  · exact .inl rfl

theorem staleAt_met (v : Fin 8) (t : Nat) (s : State) : Met [v] s (staleAt v t s) := by
  rcases staleAt_cases v t s with e | e <;> rw [e]
  · exact .refl _ s
  · exact setStale_met v s true

theorem staleAt_vms (v : Fin 8) (t : Nat) (s : State) : (staleAt v t s).vms = s.vms := by
  rcases staleAt_cases v t s with e | e <;> rw [e]
  exact setStale_vms v s true

theorem staleAt_shows (hf : s.vmFreshTo v = some ts) (he : s.bit (NET_VM_CFG v) NET_VM_CFG_EN = true) (hl : ts < t) :
    (staleAt v t s).bit (NET_VM_STAT v) NET_VM_STAT_STALE = true := by
  rw [staleAt_past hf he hl]
  split
  next shown => exact shown
  next => exact setStale_shows v s true

end

/-! ## An accepted sample -/

/-- A master that takes a sample, as the first of its order or behind those it holds (R38–R40). -/
def VMaster.take (m : VMaster) (e : VmEntry) (again stale : Bool) (ivl : Nat) : VMaster :=
  { samples := ((e.time, e.pos) :: (if again then [] else m.samples)).take 3, fresh := if again then 1 else min (m.fresh + 1) 3,
    lastSeq := e.seq, stales := if stale then m.stales + 1 else m.stales, coast := if stale then coastLine m ivl else m.coast }

/-- NET_VM_STAT of a sample that has been taken, but for STALE. -/
def showSample (v : Fin 8) (e : VmEntry) (tq fresh : Nat) (s : State) : State :=
  ((s.setFld (NET_VM_STAT v) NET_VM_STAT_LAST_SEQ e.seq).setFld (NET_VM_STAT v) NET_VM_STAT_SRC_TQ tq).setBit (NET_VM_STAT v)
    NET_VM_STAT_ORDER2 (fresh = 3)

/-- A master takes a sample and its register shows it. -/
def takeAt (v : Fin 8) (e : VmEntry) (tq : Nat) (s : State) : State :=
  let stale := s.bit (NET_VM_STAT v) NET_VM_STAT_STALE
  let m := (s.vm v).take e (e.restart || stale) stale (s.vmIvl v)
  showSample v e tq m.fresh (s.modVm v fun _ => m)

section
variable (v : Fin 8) (e : VmEntry) (tq : Nat) (s : State)

theorem takeAt_vm (w : Fin 8) : (takeAt v e tq s).vm w = if v = w then
    (s.vm v).take e (e.restart || s.bit (NET_VM_STAT v) NET_VM_STAT_STALE) (s.bit (NET_VM_STAT v) NET_VM_STAT_STALE) (s.vmIvl v)
    else s.vm w := by
  show (s.vms.set v.1 _)[w] = _
  by_cases h : v = w
  · subst h; simp
  · simp [h, State.vm, Fin.val_ne_of_ne h]

theorem takeAt_regs : RegsBut [NET_VM_STAT v] s (takeAt v e tq s) := by
  have mem := List.mem_singleton_self (NET_VM_STAT v)
  unfold takeAt showSample
  exact (((RegsBut.refl _ s).congr rfl).trans (regsBut_setFld _ _ _ mem)).trans ((regsBut_setFld _ _ _ mem).trans
    (regsBut_setFld _ _ _ mem))

theorem takeAt_met : Met [v] s (takeAt v e tq s) := by
  refine ⟨rfl, rfl, rfl, fun w hw => ?_, fun a _ _ hv => takeAt_regs v e tq s a ?_⟩
  · rw [takeAt_vm, if_neg fun e => hw (by simp [e])]
  · simpa [eq_comm] using hv v (List.mem_singleton_self v)

theorem takeAt_stale : (takeAt v e tq s).bit (NET_VM_STAT v) NET_VM_STAT_STALE = s.bit (NET_VM_STAT v) NET_VM_STAT_STALE := by
  have apart (z : State) (f : Fld) (x : Nat) (hf : f.lo + f.width ≤ 32) (h : f.apart NET_VM_STAT_STALE = true) :
      (z.setFld (NET_VM_STAT v) f x).bit (NET_VM_STAT v) NET_VM_STAT_STALE = z.bit (NET_VM_STAT v) NET_VM_STAT_STALE := by
    rw [State.bit, State.fld_setFld_apart z _ _ f _ x hf (by decide) h, State.bit]
  unfold takeAt showSample
  dsimp only [State.setBit]
  rw [apart _ _ _ (by decide) (by decide), apart _ _ _ (by decide) (by decide), apart _ _ _ (by decide) (by decide)]
  rfl

/-- A master that line time has carried past its last fresh instant has been stale; the sample it then takes makes it fresh. -/
theorem acceptSample_eq : acceptSample v e tq s =
    let z := staleAt v s.now s
    if z.bit (NET_VM_STAT v) NET_VM_STAT_STALE then setStale v (takeAt v e tq z) false else takeAt v e tq z := rfl

theorem acceptSample_met : Met [v] s (acceptSample v e tq s) := by
  have stale := staleAt_met v s.now s
  rw [acceptSample_eq]
  dsimp only
  split
  · exact stale.trans ((takeAt_met v e tq _).trans (setStale_met v _ false))
  · exact stale.trans (takeAt_met v e tq _)

end

/-- What a master holds when it has taken a sample. -/
structure Sampled (s x : State) (v : Fin 8) (e : VmEntry) : Prop where
  newest : (x.vm v).samples.head? = some (e.time, e.pos)
  lastSeq : (x.vm v).lastSeq = e.seq
  behind : (x.vm v).samples.tail <+: (s.vm v).samples
  restarted : ∀ ts : Nat, s.vmFreshTo v = some ts → ts < s.now → (x.vm v).samples = [(e.time, e.pos)] ∧ (x.vm v).fresh = 1
  fresh : x.bit (NET_VM_STAT v) NET_VM_STAT_STALE = false

theorem take_holds (m : VMaster) (e : VmEntry) (again stale : Bool) (ivl : Nat) :
    (m.take e again stale ivl).samples.head? = some (e.time, e.pos) ∧ (m.take e again stale ivl).samples.tail <+: m.samples ∧
      (again = true → (m.take e again stale ivl).samples = [(e.time, e.pos)] ∧ (m.take e again stale ivl).fresh = 1) := by
  refine ⟨rfl, ?_, fun h => by subst h; exact ⟨rfl, rfl⟩⟩
  cases again with
  | true => exact List.nil_prefix
  | false => exact List.take_prefix 2 m.samples

/-- A sample that an enabled master accepts (R38–R40). -/
theorem acceptSample_sampled {v : Fin 8} {e : VmEntry} {s : State} (tq : Nat) (he : s.bit (NET_VM_CFG v) NET_VM_CFG_EN = true) :
    Sampled s (acceptSample v e tq s) v e := by
  have vms := staleAt_vms v s.now s
  have past (ts : Nat) (hf : s.vmFreshTo v = some ts) (hl : ts < s.now) := staleAt_shows hf he hl
  rw [acceptSample_eq]
  dsimp only
  generalize staleAt v s.now s = z at *
  have held : z.vm v = s.vm v := by rw [State.vm, vms, State.vm]
  have same (x : State) (hx : x.vms = (takeAt v e tq z).vms) : x.vm v = (s.vm v).take e
      (e.restart || z.bit (NET_VM_STAT v) NET_VM_STAT_STALE) (z.bit (NET_VM_STAT v) NET_VM_STAT_STALE) (z.vmIvl v) := by
    rw [State.vm, hx, ← State.vm, takeAt_vm, if_pos rfl, held]
  have sampled (x : State) (hx : x.vms = (takeAt v e tq z).vms) (fresh : x.bit (NET_VM_STAT v) NET_VM_STAT_STALE = false) :
      Sampled s x v e := by
    obtain ⟨newest, behind, again⟩ := take_holds (s.vm v) e (e.restart || z.bit (NET_VM_STAT v) NET_VM_STAT_STALE)
      (z.bit (NET_VM_STAT v) NET_VM_STAT_STALE) (z.vmIvl v)
    have taken := same x hx
    exact ⟨taken ▸ newest, taken ▸ rfl, taken ▸ behind, fun ts hf hl => taken ▸ again (by simp [past ts hf hl]), fresh⟩
  cases shown : z.bit (NET_VM_STAT v) NET_VM_STAT_STALE with
  | true =>
    rw [if_pos rfl]
    exact sampled _ (setStale_vms v _ false) (setStale_shows v _ false)
  | false =>
    rw [if_neg Bool.false_ne_true]
    exact sampled _ rfl ((takeAt_stale v e tq z).trans shown)

end Sys2Proof.Machine
end

section
/-! SUPPORT. O49: a frame of samples meets the virtual masters one after another (R36, R38). -/

namespace Sys2Proof.Machine

/-! ## One entry and one master -/

/-- The time quality that an entry gives its master: a header of version 1 has none (R37). -/
def entryTq (h : LineHdr) (e : VmEntry) : Nat := if h.ver = 1 then 0 else e.tq

/-- One entry meets one virtual master: where it is bound to it, it takes the sample, or counts it as refused (R38). -/
def meetVm (h : LineHdr) (e : VmEntry) (s : State) (v : Fin 8) : State :=
  if s.bit (NET_VM_CFG v) NET_VM_CFG_EN ∧ s.fld (NET_VM_CFG v) NET_VM_CFG_SRC = h.src ∧
      s.fld (NET_VM_CFG v) NET_VM_CFG_CHAN = e.chan then
    if s.entryOk v e then acceptSample v e (entryTq h e) s else s.count NET_SAMPLE_CNT NET_SAMPLE_CNT_REJECT
  else s

theorem vmEntry_eq (h : LineHdr) (e : VmEntry) (s : State) : vmEntry h e s = (List.finRange 8).foldl (meetVm h e) s := by
  rw [show List.finRange 8 = (List.range 8).map (Fin.ofNat 8) from by decide, List.foldl_map]
  rfl

section
variable (h : LineHdr) (e : VmEntry) (s : State)

theorem meetVm_disabled {v : Fin 8} (hv : s.bit (NET_VM_CFG v) NET_VM_CFG_EN = false) : meetVm h e s v = s :=
  if_neg (by simp [hv])

theorem count_met (l : List (Fin 8)) (f : Fld) : Met l s (s.count NET_SAMPLE_CNT f) :=
  ⟨rfl, rfl, rfl, fun _ _ => rfl, fun a _ ha _ => regsBut_count s _ _ a (by simpa using ha)⟩

theorem meetVm_met (v : Fin 8) : Met [v] s (meetVm h e s v) := by
  unfold meetVm
  split
  · split
    · exact acceptSample_met v e _ s
    · exact count_met s _ _
  · exact .refl _ s

/-- The entry meets the masters of a list: what it leaves. -/
theorem meets_met (l : List (Fin 8)) : Met l s (l.foldl (meetVm h e) s) := by
  induction l generalizing s with
  | nil => exact .refl _ s
  | cons v l ih =>
    exact ((meetVm_met h e s v).mono (by simp)).trans ((ih (meetVm h e s v)).mono fun w hw => List.mem_cons_of_mem v hw)

/-- An entry that meets only disabled masters changes nothing. -/
theorem meets_disabled {l : List (Fin 8)} (hl : ∀ w ∈ l, s.bit (NET_VM_CFG w) NET_VM_CFG_EN = false) :
    l.foldl (meetVm h e) s = s := by
  induction l with
  | nil => rfl
  | cons w l ih =>
    rw [List.foldl_cons, meetVm_disabled h e s (hl w (List.mem_cons_self ..))]
    exact ih fun u hu => hl u (List.mem_cons_of_mem w hu)

/-- A disabled master keeps what it holds. -/
theorem meets_keeps_disabled (l : List (Fin 8)) {w : Fin 8} (hw : s.bit (NET_VM_CFG w) NET_VM_CFG_EN = false) :
    (l.foldl (meetVm h e) s).vm w = s.vm w := by
  induction l generalizing s with
  | nil => rfl
  | cons v l ih =>
    have met := meetVm_met h e s v
    rw [List.foldl_cons, ih (meetVm h e s v) ((met.cfgBit w _).trans hw)]
    by_cases same : v = w
    · rw [same, meetVm_disabled h e s hw]
    · exact met.vm w (by simpa [eq_comm] using same)

/-- The masters before and behind one of them, each other than it. -/
theorem vms_split (v : Fin 8) : ∃ l m : List (Fin 8), List.finRange 8 = l ++ v :: m ∧ v ∉ l ∧ v ∉ m := by
  obtain ⟨l, m, split⟩ := List.append_of_mem (List.mem_finRange v)
  have nodup := split ▸ List.nodup_finRange 8
  rw [List.nodup_append] at nodup
  obtain ⟨-, tail, apart⟩ := nodup
  exact ⟨l, m, split, fun mem => apart v mem v (List.mem_cons_self ..) rfl, (List.nodup_cons.1 tail).1⟩

end

/-- What a master took stands when the entry has met the others. -/
theorem Sampled.framed {s z x y : State} {v : Fin 8} {e : VmEntry} {l m : List (Fin 8)} (h : Sampled z x v e) (before : Met l s z)
    (hl : v ∉ l) (after : Met m x y) (hm : v ∉ m) : Sampled s y v e := by
  obtain ⟨newest, lastSeq, behind, restarted, fresh⟩ := h
  rw [before.vm v hl] at behind
  rw [before.vmFreshTo hl, before.now] at restarted
  have stale : y.bit (NET_VM_STAT v) NET_VM_STAT_STALE = x.bit (NET_VM_STAT v) NET_VM_STAT_STALE := by
    rw [State.bit, State.fld, after.stat hm, State.bit, State.fld]
  rw [← after.vm v hm] at newest lastSeq behind restarted
  exact ⟨newest, lastSeq, behind, restarted, stale.trans fresh⟩

section
variable {h : LineHdr} {e : VmEntry} {s : State} {v : Fin 8}

/-- An entry that passes the tests of a master bound to it is its latest sample (R38). -/
theorem vmEntry_sampled (he : s.bit (NET_VM_CFG v) NET_VM_CFG_EN = true) (hs : s.fld (NET_VM_CFG v) NET_VM_CFG_SRC = h.src)
    (hc : s.fld (NET_VM_CFG v) NET_VM_CFG_CHAN = e.chan) (ok : s.entryOk v e = true) : Sampled s (vmEntry h e s) v e := by
  obtain ⟨l, m, split, hl, hm⟩ := vms_split v
  rw [vmEntry_eq, split, List.foldl_append, List.foldl_cons]
  have before := meets_met h e s l
  generalize l.foldl (meetVm h e) s = z at *
  have enabled := (before.cfgBit v NET_VM_CFG_EN).trans he
  have taken : meetVm h e z v = acceptSample v e (entryTq h e) z := by
    rw [meetVm, if_pos ⟨enabled, (before.cfgFld v _).trans hs, (before.cfgFld v _).trans hc⟩,
      if_pos ((before.entryOk hl e).trans ok)]
  rw [taken]
  exact (acceptSample_sampled (entryTq h e) enabled).framed before hl (meets_met h e _ m) hm

/-- An entry that only one enabled master could take, and that fails its tests, is counted once (R38). -/
theorem vmEntry_rejected (he : s.bit (NET_VM_CFG v) NET_VM_CFG_EN = true) (hs : s.fld (NET_VM_CFG v) NET_VM_CFG_SRC = h.src)
    (hc : s.fld (NET_VM_CFG v) NET_VM_CFG_CHAN = e.chan) (bad : s.entryOk v e = false)
    (only : ∀ w : Fin 8, w ≠ v → s.bit (NET_VM_CFG w) NET_VM_CFG_EN = false) :
    vmEntry h e s = s.count NET_SAMPLE_CNT NET_SAMPLE_CNT_REJECT := by
  obtain ⟨l, m, split, hl, hm⟩ := vms_split v
  have counted : meetVm h e s v = s.count NET_SAMPLE_CNT NET_SAMPLE_CNT_REJECT := by
    rw [meetVm, if_pos ⟨he, hs, hc⟩, if_neg (by simp [bad])]
  have met := count_met s [] NET_SAMPLE_CNT_REJECT
  rw [vmEntry_eq, split, List.foldl_append, List.foldl_cons,
    meets_disabled h e s fun w hw => only w fun same => hl (same ▸ hw), counted]
  exact meets_disabled h e _ fun w hw => (met.cfgBit w _).trans (only w fun same => hm (same ▸ hw))

end

/-! ## The frame -/

/-- The entries of a frame meet the masters in turn (R38). -/
def meetEntries (h : LineHdr) (es : List VmEntry) (s : State) : State := es.foldl (fun s e => vmEntry h e s) s

theorem meetEntries_met (h : LineHdr) (es : List VmEntry) (s : State) : Met (List.finRange 8) s (meetEntries h es s) := by
  induction es generalizing s with
  | nil => exact .refl _ s
  | cons e es ih =>
    have first : Met (List.finRange 8) s (vmEntry h e s) := vmEntry_eq h e s ▸ meets_met h e s (List.finRange 8)
    exact first.trans (ih (vmEntry h e s))

/-- A source as it is noted, accepted or not. -/
def noted (src : Nat) (ok : Bool) (y : HbSource) : HbSource := if y.dev == src then { y with accepted := ok } else y

theorem noteAccepted_sources (src : Nat) (ok : Bool) (s : State) :
    (noteAccepted src ok s).net.sources = s.net.sources.map (noted src ok) := rfl

theorem noted_keeps (src : Nat) (ok : Bool) (y : HbSource) : (noted src ok y).dev = y.dev ∧ (noted src ok y).epoch = y.epoch ∧
    (noted src ok y).heardAt = y.heardAt ∧ (noted src ok y).interval = y.interval := by
  unfold noted
  split <;> exact ⟨rfl, rfl, rfl, rfl⟩

theorem noted_again (src : Nat) (ok : Bool) (y : HbSource) : noted src ok (noted src ok y) = noted src ok y := by
  cases same : y.dev == src with
  | true => simp [noted, same]
  | false => simp [noted, same]

/-- A source noted as accepted or not is judged as before. -/
theorem sourceOk_noteAccepted (src x : Nat) (ok : Bool) (s : State) : (noteAccepted src ok s).sourceOk x = s.sourceOk x := by
  have found : (noteAccepted src ok s).net.sources.find? (fun y => y.dev == x) =
      (s.net.sources.find? fun y => y.dev == x).map (noted src ok) := by
    rw [noteAccepted_sources, List.find?_map]
    congr 2
    funext y
    rw [Function.comp, (noted_keeps src ok y).1]
  rw [State.sourceOk, found, State.sourceOk]
  cases s.net.sources.find? fun y => y.dev == x with
  | none => rfl
  | some y =>
    obtain ⟨-, epoch, heard, interval⟩ := noted_keeps src ok y
    dsimp only [Option.map]
    rw [epoch, heard, interval]
    rfl

/-- A source that has been noted is noted again without a change. -/
theorem noteAccepted_again {src : Nat} {ok : Bool} {s t : State} (h : t.net = (noteAccepted src ok s).net) :
    noteAccepted src ok t = t := by
  have sources : t.net.sources.map (noted src ok) = t.net.sources := by
    rw [h, noteAccepted_sources, List.map_map]
    exact List.map_congr_left fun y _ => noted_again src ok y
  show { t with net := { t.net with sources := t.net.sources.map (noted src ok) } } = t
  rw [sources]

section
variable {s t : State} {h : LineHdr} {k : Fin 2}

theorem portStat_range (k : Fin 2) : (¬ (0x40000 ≤ NET_PORT_CTRL k ∧ NET_PORT_CTRL k < 0x44000) ∧ NET_PORT_CTRL k ≠ NET_SAMPLE_CNT ∧
    ∀ w : Fin 8, NET_VM_STAT w ≠ NET_PORT_CTRL k) ∧ ¬ (0x40000 ≤ NET_PORT_STAT k ∧ NET_PORT_STAT k < 0x44000) ∧
    NET_PORT_STAT k ≠ NET_SAMPLE_CNT ∧ ∀ w : Fin 8, NET_VM_STAT w ≠ NET_PORT_STAT k := by
  simp only [NET_PORT_CTRL, NET_PORT_STAT, NET_VM_STAT, NET_SAMPLE_CNT]
  exact ⟨⟨by omega, by omega, fun w => by omega⟩, by omega, by omega, fun w => by omega⟩

theorem vmStat_beside : ∀ w : Fin 8, NET_VM_STAT w ≠ NET_SEG ∧ NET_VM_STAT w ≠ LT_EPOCH_LO ∧ NET_VM_STAT w ≠ LT_EPOCH_LO + 4 := by
  intro w
  simp only [NET_VM_STAT, NET_SEG, LT_EPOCH_LO]
  omega

/-- What samples leave passes and refuses the frames that passed and were refused before. -/
theorem Met.hears {l : List (Fin 8)} (m : Met l s t) : t.netTakes k = s.netTakes k ∧
    t.fld NET_SEG NET_SEG_SEG_ID = s.fld NET_SEG NET_SEG_SEG_ID ∧ (∀ src ty seq, t.isCopy k src ty seq = s.isCopy k src ty seq) ∧
    ∀ src, t.sourceOk src = s.sourceOk src := by
  obtain ⟨⟨ctrl1, ctrl2, ctrl3⟩, stat1, stat2, stat3⟩ := portStat_range k
  have ctrl (f : Fld) : t.bit (NET_PORT_CTRL k) f = s.bit (NET_PORT_CTRL k) f := by
    rw [State.bit, State.fld, m.reg _ ctrl1 ctrl2 fun w _ => ctrl3 w, State.bit, State.fld]
  have stat (f : Fld) : t.bit (NET_PORT_STAT k) f = s.bit (NET_PORT_STAT k) f := by
    rw [State.bit, State.fld, m.reg _ stat1 stat2 fun w _ => stat3 w, State.bit, State.fld]
  have seg : t.reg NET_SEG = s.reg NET_SEG := m.reg _ (by decide) (by decide) fun w _ => (vmStat_beside w).1
  have epochLo : t.reg LT_EPOCH_LO = s.reg LT_EPOCH_LO := m.reg _ (by decide) (by decide) fun w _ => (vmStat_beside w).2.1
  have epochHi : t.reg (LT_EPOCH_LO + 4) = s.reg (LT_EPOCH_LO + 4) :=
    m.reg _ (by decide) (by decide) fun w _ => (vmStat_beside w).2.2
  have epoch : t.epoch = s.epoch := by rw [State.epoch, State.pair, epochLo, epochHi, State.epoch, State.pair]
  have up : t.up = s.up := by rw [State.up, m.now, m.dev, State.up]
  refine ⟨?_, by rw [State.fld, seg, State.fld], fun src ty seq => ?_, fun src => ?_⟩
  · rw [State.netTakes, State.netPortUp, State.blocked, ctrl, ctrl, stat, m.net, State.netTakes, State.netPortUp, State.blocked]
  · rw [State.isCopy, m.net, up, State.isCopy]
  · rw [State.sourceOk, m.net, epoch, up, State.sourceOk]

/-- A frame of samples whose source is accepted, as it is received (R36, R38). -/
theorem samples_heard (takes : s.netTakes k = true) (seg : h.seg = s.fld NET_SEG NET_SEG_SEG_ID) (ver : h.ver ≤ 2)
    (ok : s.sourceOk h.src = true) (first : s.isCopy k h.src 2 h.seq = false) (es : List VmEntry) :
    lineFrame k 2 h (sourceTests h.src fun s => es.foldl (fun s e => vmEntry h e s) s) s =
      meetEntries h es (noteAccepted h.src true s) := by
  rw [lineFrame_first takes first seg ver, sourceTests_pass ok]
  rfl

/-- Entries act one after another: a frame of one entry more does what that entry does behind the others. -/
theorem samples_in_turn (takes : s.netTakes k = true) (seg : h.seg = s.fld NET_SEG NET_SEG_SEG_ID) (ver : h.ver ≤ 2)
    (ok : s.sourceOk h.src = true) (first : s.isCopy k h.src 2 h.seq = false) (es : List VmEntry) (e : VmEntry) :
    let y := meetEntries h es (noteAccepted h.src true s)
    meetEntries h (es ++ [e]) (noteAccepted h.src true s) =
      lineFrame k 2 h (sourceTests h.src fun s => [e].foldl (fun s e => vmEntry h e s) s) y := by
  have met := meetEntries_met h es (noteAccepted h.src true s)
  have append : meetEntries h (es ++ [e]) (noteAccepted h.src true s) = vmEntry h e (meetEntries h es (noteAccepted h.src true s)) := by
    rw [meetEntries, List.foldl_append, meetEntries]
    rfl
  dsimp only
  rw [append]
  generalize meetEntries h es (noteAccepted h.src true s) = y at *
  obtain ⟨takes', seg', copy', ok'⟩ := met.hears (k := k)
  rw [samples_heard (takes'.trans takes) (seg.trans seg'.symm) ver ((ok' h.src).trans ((sourceOk_noteAccepted ..).trans ok))
    ((copy' ..).trans first), noteAccepted_again met.net]
  rfl

/-- A frame of samples whose source is not accepted is counted once, and reaches no master (R36). -/
theorem samples_refused (takes : s.netTakes k = true) (seg : h.seg = s.fld NET_SEG NET_SEG_SEG_ID) (ver : h.ver ≤ 2)
    (bad : s.sourceOk h.src = false) (first : s.isCopy k h.src 2 h.seq = false) (f : State → State) :
    let x := lineFrame k 2 h (sourceTests h.src f) s
    x.vms = s.vms ∧ Counts s x NET_FRAME_CNT NET_FRAME_CNT_EPOCH_DROP ∧ RegsBut [NET_FRAME_CNT] s x := by
  have counts := counts_count s NET_FRAME_CNT NET_FRAME_CNT_EPOCH_DROP (by decide)
  have regs := regsBut_count s NET_FRAME_CNT NET_FRAME_CNT_EPOCH_DROP
  dsimp only
  rw [lineFrame_first takes first seg ver, sourceTests, if_neg (by simp [bad])]
  dsimp only
  split
  · exact ⟨rfl, counts, regs.congr rfl⟩
  · exact ⟨rfl, counts, regs.congr rfl⟩

end

end Sys2Proof.Machine
end

section
/-! O49: virtual masters and published samples (R36–R41). -/

namespace Sys2Proof.Machine

/-- VM_STALE by the last fresh instant of its master (R40). -/
theorem vmStale_shows {s : State} {v : Fin 8} {ts : Nat} (hf : s.vmFreshTo v = some ts)
    (he : s.bit (NET_VM_CFG v) NET_VM_CFG_EN = true) :
    (ts < s.now → (vmStale v s).bit (NET_VM_STAT v) NET_VM_STAT_STALE = true ∧ (vmStale v s).vms = s.vms) ∧
      (s.now ≤ ts → vmStale v s = s) :=
  ⟨fun past => ⟨staleAt_shows hf he past, staleAt_vms v s.now s⟩, fun fresh => staleAt_fresh hf fresh⟩

/-- A frame of one entry that its master accepts: its latest sample, and what the disabled masters keep (R38). -/
theorem entry_accepted {s : State} {h : LineHdr} {e : VmEntry} {v : Fin 8} (he : s.bit (NET_VM_CFG v) NET_VM_CFG_EN = true)
    (hs : s.fld (NET_VM_CFG v) NET_VM_CFG_SRC = h.src) (hc : s.fld (NET_VM_CFG v) NET_VM_CFG_CHAN = e.chan)
    (ok : s.entryOk v e = true) :
    let x := meetEntries h [e] s
    (x.vm v).samples.head? = some (e.time, e.pos) ∧ (x.vm v).lastSeq = e.seq ∧ (x.vm v).samples.tail <+: (s.vm v).samples ∧
      (∀ ts : Nat, s.vmFreshTo v = some ts → ts < s.now → (x.vm v).samples = [(e.time, e.pos)] ∧ (x.vm v).fresh = 1) ∧
      x.bit (NET_VM_STAT v) NET_VM_STAT_STALE = false ∧
      ∀ w : Fin 8, s.bit (NET_VM_CFG w) NET_VM_CFG_EN = false → x.vm w = s.vm w := by
  obtain ⟨newest, lastSeq, behind, restarted, fresh⟩ := vmEntry_sampled (h := h) he hs hc ok
  refine ⟨newest, lastSeq, behind, restarted, fresh, fun w off => ?_⟩
  show (vmEntry h e s).vm w = s.vm w
  rw [vmEntry_eq]
  exact meets_keeps_disabled h e s _ off

/-- Settles O49: the entries of a frame meet the masters one after another, each changing its own master only; a published value
reads the axes and tiles, which the sending of a frame leaves. -/
theorem virtualMastersFollowTheirSource : Obligations.VirtualMastersFollowTheirSource := by
  intro s t v
  refine ⟨fun h n es copy => ⟨_, rfl, lineFrame_copy copy⟩, fun h n es e takes first seg ver => ⟨?_, ?_, ?_⟩,
    fun ts fresh enabled => ?_, fun port enabled talk due up => ?_⟩
  · intro ok y hy
    have heard := samples_heard (s := s.reach t) takes seg ver ok first es
    have y_eq : y = meetEntries h es (noteAccepted h.src true (s.reach t)) := by
      rw [← heard]
      exact (Host.Outcome.next.inj hy).symm
    have reached : y.reach t = y := State.reach_reached (by
      rw [y_eq, (meetEntries_met h es (noteAccepted h.src true (s.reach t))).now]
      exact Nat.le_max_right s.now t)
    refine congrArg Host.Outcome.next ?_
    rw [samples_heard (s := s.reach t) takes seg ver ok first (es ++ [e]), reached, y_eq]
    exact samples_in_turn (s := s.reach t) takes seg ver ok first es e
  · intro bad
    exact ⟨_, rfl, samples_refused (s := s.reach t) takes seg ver bad first _⟩
  · intro ok enabled source channel
    refine ⟨fun good => ⟨_, rfl, ?_⟩, fun bad only => ⟨_, rfl, ?_⟩⟩
    · rw [samples_heard (s := s.reach t) takes seg ver ok first]
      exact entry_accepted (s := noteAccepted h.src true (s.reach t)) enabled source channel good
    · rw [samples_heard (s := s.reach t) takes seg ver ok first]
      rw [show meetEntries h [e] (noteAccepted h.src true (s.reach t)) =
          (noteAccepted h.src true (s.reach t)).count NET_SAMPLE_CNT NET_SAMPLE_CNT_REJECT from
        vmEntry_rejected (s := noteAccepted h.src true (s.reach t)) enabled source channel bad only]
      exact ⟨rfl, counts_count (noteAccepted h.src true (s.reach t)) _ _ (by decide),
        regsBut_count (noteAccepted h.src true (s.reach t)) _ _⟩
  · obtain ⟨past, still⟩ := vmStale_shows (s := s.reach t) fresh enabled
    exact ⟨fun late => ⟨_, rfl, past late⟩, fun early => ⟨_, rfl, still early⟩⟩
  · exact ⟨_, rfl, publish_sends (s := s.reach t) port enabled talk due up⟩

end Sys2Proof.Machine
end

section
/-! SUPPORT. O18: the duration of a ramp under jerk (R58). An integer root brackets the root of a rational to less than 1, so that
the least number of ns is one of three. -/

namespace Sys2Proof.Machine

/-! ## The integer root -/

/-- The bits below `2 ^ b` complete a root that lacks no higher one. -/
theorem isqrtGo_brackets (b r n : Nat) (below : r * r ≤ n) (above : n < (r + 2 ^ b) * (r + 2 ^ b)) :
    isqrtGo b r n * isqrtGo b r n ≤ n ∧ n < (isqrtGo b r n + 1) * (isqrtGo b r n + 1) := by
  induction b generalizing r with
  | zero => exact ⟨below, above⟩
  | succ b ih =>
    unfold isqrtGo
    dsimp only
    split
    case isTrue bit =>
      refine ih _ bit ?_
      rwa [Nat.add_assoc, ← Nat.two_mul, ← Nat.pow_succ']
    case isFalse bit => exact ih _ below (Nat.lt_of_not_le bit)

theorem isqrt_eq_sqrt (n : Nat) : isqrt n = n.sqrt := by
  have above : n < (0 + 2 ^ (n.log2 / 2 + 1)) * (0 + 2 ^ (n.log2 / 2 + 1)) :=
    calc n < 2 ^ (n.log2 + 1) := Nat.lt_log2_self
      _ ≤ 2 ^ (n.log2 / 2 + 1 + (n.log2 / 2 + 1)) := Nat.pow_le_pow_right (by decide) (by omega)
      _ = _ := by rw [Nat.zero_add, Nat.pow_add]
  exact Nat.eq_sqrt.2 (isqrtGo_brackets _ 0 n (Nat.zero_le n) above)

/-! ## The root of a rational -/

/-- The root of a rational to less than 1, from below. -/
def rootBelow (q : Rat) : Rat := (isqrt (q.num.toNat * q.den) : Rat) / q.den

theorem rootBelow_nonneg (q : Rat) : 0 ≤ rootBelow q := by
  unfold rootBelow
  positivity

theorem rootBelow_brackets {q : Rat} (hq : 0 ≤ q) :
    rootBelow q * rootBelow q ≤ q ∧ q < (rootBelow q + 1) * (rootBelow q + 1) := by
  have den : (1 : Rat) ≤ q.den := by exact_mod_cast q.den_pos
  have num : ((q.num.toNat : Nat) : Rat) = q * q.den := by
    rw [Rat.mul_den_eq_num]
    exact_mod_cast Int.toNat_of_nonneg (Rat.num_nonneg.2 hq)
  have below : ((q.num.toNat * q.den).sqrt : Rat) * (q.num.toNat * q.den).sqrt ≤ q * q.den * q.den := by
    rw [← num]
    exact_mod_cast Nat.sqrt_le (q.num.toNat * q.den)
  have above : q * q.den * q.den < ((q.num.toNat * q.den).sqrt + 1) * ((q.num.toNat * q.den).sqrt + 1) := by
    rw [← num]
    exact_mod_cast Nat.lt_succ_sqrt (q.num.toNat * q.den)
  rw [rootBelow, isqrt_eq_sqrt]
  have root : (0 : Rat) ≤ (q.num.toNat * q.den).sqrt := Nat.cast_nonneg _
  generalize ((q.num.toNat * q.den).sqrt : Rat) = m at below above root
  generalize (q.den : Rat) = d at den below above
  have pos : 0 < d * d := by positivity
  constructor
  · rw [div_mul_div_comm, div_le_iff₀ pos, ← mul_assoc]
    exact below
  · rw [div_add_one (by positivity), div_mul_div_comm, lt_div_iff₀ pos, ← mul_assoc]
    exact above.trans_le (mul_self_le_mul_self (by positivity) (by linarith))

/-! ## The search -/

/-- `n` ns, at `k` ns to a unit of acceleration, reach √r − b (R58). -/
def reaches (r b k : Rat) (n : Nat) : Bool :=
  decide (0 ≤ (n : Rat) / k + b) && decide (r ≤ ((n : Rat) / k + b) * ((n : Rat) / k + b))

/-- The number of ns that the search of R58 tries first. -/
def rootStart (r b k : Rat) : Nat := (rootBelow (k * k * r) - k * b).floor.toNat

/-- Of a number and the two after it the first that passes a test, the last of them without it. -/
def firstOfThree (ok : Nat → Bool) (n : Nat) : Nat := if ok n then n else if ok (n + 1) then n + 1 else n + 2

theorem rootNs_eq (r b j : Rat) : rootNs r b j = firstOfThree (reaches r b (1000000 / j)) (rootStart r b (1000000 / j)) := rfl

theorem firstOfThree_least {ok : Nat → Bool} {n : Nat} (earlier : ∀ m, m < n → ok m = false) (last : ok (n + 2) = true) :
    ok (firstOfThree ok n) = true ∧ ∀ m, ok m = true → firstOfThree ok n ≤ m := by
  have start (m : Nat) (hm : ok m = true) : n ≤ m := Nat.le_of_not_lt fun h => by simp [earlier m h] at hm
  unfold firstOfThree
  split
  case isTrue first => exact ⟨first, start⟩
  case isFalse first =>
    have next (m : Nat) (hm : ok m = true) : n < m := Nat.lt_of_le_of_ne (start m hm) fun e => first (e ▸ hm)
    split
    case isTrue second => exact ⟨second, next⟩
    case isFalse second => exact ⟨last, fun m hm => Nat.lt_of_le_of_ne (next m hm) fun e => second (e ▸ hm)⟩

section
variable {r b k : Rat} {n : Nat} (hk : 0 < k)
include hk

/-- Reaching in units of the jerk: n + k b reaches the root of k² r. -/
theorem reaches_iff : reaches r b k n = true ↔ 0 ≤ n + k * b ∧ k * k * r ≤ (n + k * b) * (n + k * b) := by
  have scaled : (n : Rat) / k + b = (n + k * b) / k := by field_simp
  rw [reaches, Bool.and_eq_true, decide_eq_true_eq, decide_eq_true_eq, scaled, div_mul_div_comm, le_div_iff₀ (mul_pos hk hk),
    le_div_iff₀ hk, zero_mul, mul_comm r]

variable (hr : 0 ≤ r)
include hr

theorem reaches_below_start (h : n < rootStart r b k) : reaches r b k n = false := by
  obtain ⟨below, -⟩ := rootBelow_brackets (q := k * k * r) (by positivity)
  have short : (n : Rat) + 1 ≤ rootBelow (k * k * r) - k * b := by
    have := Int.lt_toNat.1 h
    exact_mod_cast Rat.le_floor_iff.1 (Int.add_one_le_iff.2 this)
  rw [← Bool.not_eq_true, reaches_iff hk]
  rintro ⟨positive, square⟩
  nlinarith

theorem reaches_after_start : reaches r b k (rootStart r b k + 2) = true := by
  obtain ⟨-, above⟩ := rootBelow_brackets (q := k * k * r) (by positivity)
  have root := rootBelow_nonneg (k * k * r)
  have long : rootBelow (k * k * r) + 1 ≤ ((rootStart r b k + 2 : Nat) : Rat) + k * b := by
    have floor : rootBelow (k * k * r) - k * b < ((rootBelow (k * k * r) - k * b).floor + 1 : Int) := Rat.lt_floor_add_one _
    have start : ((rootBelow (k * k * r) - k * b).floor : Rat) ≤ rootStart r b k := by
      exact_mod_cast Int.self_le_toNat _
    push_cast at floor ⊢
    linarith
  rw [reaches_iff hk]
  exact ⟨by linarith, above.le.trans (mul_self_le_mul_self (by linarith) long)⟩

end

/-- Settles O18: an integer root brackets the root, so that no number before the first one tried reaches it and the third does. -/
theorem rampDurationsAreLeast : Obligations.RampDurationsAreLeast := by
  intro r b j hj hr _
  have hk : 0 < 1000000 / j := by positivity
  obtain ⟨reached, least⟩ := firstOfThree_least (fun m hm => reaches_below_start (b := b) hk hr hm) (reaches_after_start hk hr)
  rw [← rootNs_eq] at reached least
  refine ⟨by simpa [reaches] using reached, fun n positive square => least n ?_⟩
  simp [reaches, positive, square]

end Sys2Proof.Machine
end

section
/-! SUPPORT. O45 fails: an encoder port that leaves OFF has its signal, and with it the estimate of an axis that uses the port becomes
usable, which OB_STAT of the axis shows. -/

namespace Sys2Proof.Machine

/-- A device in RUN. Axis 0 stands still in ENCODER mode on encoder port 0, which is OFF, so that its estimate is not usable (R126,
R128). -/
def standsOnEncoder : State :=
  ((State.reset.setFld GLB_STATE GLB_STATE_STATE dRUN).setFld (OB_CFG 0) OB_CFG_MODE 3).setAxState 0 axSTANDSTILL

/-- Cabinet 0 takes encoder port 0 to QUAD. -/
def quadWritten : State :=
  busWrite (.host 0) (GLB_ENC_CFG 0) (GLB_ENC_CFG_MODE.put (standsOnEncoder.reg (GLB_ENC_CFG 0)) 1) (standsOnEncoder.reach 0)

/-- The estimate of the axis becomes usable: OB_STAT.VALID follows the signal of its encoder (R126, R355). -/
theorem quadWritten_valid : standsOnEncoder.bit (OB_STAT 0) OB_STAT_VALID = false ∧ quadWritten.bit (OB_STAT 0) OB_STAT_VALID = true := by
  decide +kernel

/-- Refutes O45: ENC_MODE_WRITE is said to leave every register but GLB_ENC_CFG and GLB_ENC_STAT of the port, but the model carries
the new signal on to OB_STAT.VALID of an axis in ENCODER mode on the port. -/
theorem not_writesWithEffectsTakeThem : ¬ Obligations.WritesWithEffectsTakeThem := by
  unfold Obligations.WritesWithEffectsTakeThem
  intro h
  obtain ⟨-, -, -, -, -, -, -, -, leavesOff, -⟩ := h standsOnEncoder 0 (.host 0) 0 0
  have writer : standsOnEncoder.mayBus (.host 0) (GLB_ENC_CFG 0) := by
    refine ⟨by decide +kernel, fun c e => ?_⟩
    obtain rfl : 0 = c := Writer.host.inj e
    decide +kernel
  have unlocked : standsOnEncoder.bit GLB_LOCK GLB_LOCK_GLOBAL_LOCK = false := by decide +kernel
  have off : standsOnEncoder.encMode 0 = 0 := by decide +kernel
  have silent : standsOnEncoder.bit (GLB_ENC_STAT 0) GLB_ENC_STAT_SIG = false := by decide +kernel
  have range : encRange (GLB_ENC_CFG_MODE.put (standsOnEncoder.reg (GLB_ENC_CFG 0)) (1 : BitVec 2).toNat) = true := by decide +kernel
  have runs := leavesOff 0 1 writer unlocked off silent (by decide) (by decide) range
  obtain ⟨-, -, -, -, others, -⟩ := runs.holds (t := quadWritten) rfl
  obtain ⟨was, is⟩ := quadWritten_valid
  have same := RegsBut.bit others (a := OB_STAT 0) (by decide) OB_STAT_VALID
  rw [was, is] at same
  exact absurd same (by decide)

end Sys2Proof.Machine
end

section
/-! SUPPORT. O14, O15, O16: the course of an axis, which is what its motion follows, and what gearing, step following, homing, events and
completions leave of it. -/

namespace Sys2Proof.Machine

/-! ## The course of an axis -/

/-- A register beside the course of an axis: one below those of the axes and tiles, or the status of its gearing, of its step following,
of its homing or of its faults. -/
def aside (a : Fin 32) (r : Nat) : Bool :=
  decide (r < 0x44000) || [GR_STAT a, SF_STAT a, SF_HOME_STAT a, MP_FLT_STAT a].contains r

/-- The course of an axis: its profile and its banks, the tiles, and the registers that are not aside. -/
def State.course (s : State) (a : Fin 32) : Profile × Vector Bank 4 × Vector Tile 4 × (Nat → Word) :=
  (s.prof a, (s.axis a).bank, s.tiles, fun r => if aside a r then 0 else s.reg r)

theorem aside_iff {a : Fin 32} {r : Nat} : aside a r = true ↔
    r < 0x44000 ∨ r = GR_STAT a ∨ r = SF_STAT a ∨ r = SF_HOME_STAT a ∨ r = MP_FLT_STAT a := by
  simp [aside]

@[simp] theorem aside_status (a : Fin 32) : aside a (GR_STAT a) = true ∧ aside a (SF_STAT a) = true ∧
    aside a (SF_HOME_STAT a) = true ∧ aside a (MP_FLT_STAT a) = true := by
  simp [aside]

@[simp] theorem aside_engine (a : Fin 32) (e : Fin 46) : aside a (ENG_STAT e) = true := by
  simp only [aside_iff, ENG_STAT]
  omega

/-- The registers of the profile and of its limits, and the mode of the tile, are not aside. -/
theorem not_aside_course (a : Fin 32) : aside a (MP_STAT a) = false ∧ aside a (MP_VLIM_LO a) = false ∧
    aside a (MP_VLIM_LO a + 4) = false ∧ aside a (MP_ALIM_LO a) = false ∧ aside a (MP_ALIM_LO a + 4) = false ∧
    aside a (MP_EMERG_LO a) = false ∧ aside a (MP_EMERG_LO a + 4) = false ∧ aside a (MP_DERATE a) = false ∧
    aside a (LT_TILE_MODE (tileOf a)) = false := by
  simp only [← Bool.not_eq_true, aside_iff, GR_STAT, SF_STAT, SF_HOME_STAT, MP_FLT_STAT, MP_STAT, MP_VLIM_LO, MP_ALIM_LO,
    MP_EMERG_LO, MP_DERATE, LT_TILE_MODE]
  omega

section
variable {s t : State} {a : Fin 32}

theorem prof_of_course (h : t.course a = s.course a) : t.prof a = s.prof a := congrArg (·.1) h

theorem reg_of_course (h : t.course a = s.course a) {r : Nat} (hr : aside a r = false) : t.reg r = s.reg r := by
  have regs : (if aside a r = true then 0 else t.reg r) = if aside a r = true then 0 else s.reg r :=
    congrFun (congrArg (·.2.2.2) h) r
  simpa only [hr, Bool.false_eq_true, if_false] using regs

theorem axState_of_course (h : t.course a = s.course a) : t.axState a = s.axState a := by
  obtain ⟨stat, -⟩ := not_aside_course a
  rw [State.axState, State.fld, reg_of_course h stat]
  rfl

/-- The limits in force on an axis are those of its course (R57, R66, R68). -/
theorem limits_of_course (h : t.course a = s.course a) (l : Limits) : t.bankOf a = s.bankOf a ∧ t.vEff a l = s.vEff a l ∧
    t.aEff a l = s.aEff a l ∧ t.dEff a l = s.dEff a l ∧ t.emerg a = s.emerg a := by
  obtain ⟨stat, vlim, vlim', alim, alim', emerg, emerg', derate, mode⟩ := not_aside_course a
  have banks : (t.axis a).bank = (s.axis a).bank := congrArg (·.2.1) h
  have bank : t.bankOf a = s.bankOf a := by
    rw [State.bankOf, State.bankNo, State.fld, banks, reg_of_course h mode]
    rfl
  have vcap : t.vCap a = s.vCap a := by
    rw [State.vCap, State.pair, reg_of_course h vlim, reg_of_course h vlim']
    rfl
  have decel : t.emerg a = s.emerg a := by
    rw [State.emerg, State.pair, reg_of_course h emerg, reg_of_course h emerg']
    rfl
  have acap : t.aCap a = s.aCap a := by
    have cap : t.pair (MP_ALIM_LO a) = s.pair (MP_ALIM_LO a) := by
      rw [State.pair, reg_of_course h alim, reg_of_course h alim']
      rfl
    rw [State.aCap, cap, ← State.emerg, decel]
    rfl
  have derated : t.bit (MP_STAT a) MP_STAT_DERATED = s.bit (MP_STAT a) MP_STAT_DERATED := by
    rw [State.bit, State.fld, reg_of_course h stat]
    rfl
  have factor : t.fld (MP_DERATE a) MP_DERATE_FACTOR = s.fld (MP_DERATE a) MP_DERATE_FACTOR := by
    rw [State.fld, reg_of_course h derate]
    rfl
  refine ⟨bank, ?_, ?_, ?_, decel⟩
  · rw [State.vEff, vcap, State.vEff]
  · rw [State.aEff, acap, derated, factor, State.aEff]
  · rw [State.dEff, acap, State.dEff]

theorem course_of_motion (h : SameMotion s t) (a : Fin 32) : t.course a = s.course a := by
  refine Prod.ext (h.prof a) (Prod.ext ?_ (Prod.ext h.tiles (funext fun r => ?_)))
  · show (t.axis a).bank = (s.axis a).bank
    rw [h.axis]
  · show (if aside a r = true then 0 else t.reg r) = if aside a r = true then 0 else s.reg r
    split
    · rfl
    · next far =>
      refine h.reg r ?_
      rw [aside_iff] at far
      omega

end

/-! ## The named updates -/

section
variable (s : State) (a : Fin 32)

theorem course_setReg {r : Nat} (v : Word) (h : aside a r = true) : (s.setReg r v).course a = s.course a := by
  refine Prod.ext rfl (Prod.ext rfl (Prod.ext rfl (funext fun b => ?_)))
  show (if aside a b = true then 0 else (s.setReg r v).reg b) = if aside a b = true then 0 else s.reg b
  split
  · rfl
  · next far => exact State.reg_setReg_other s r b v fun e => far (e ▸ h)

@[simp] theorem course_setFld {r : Nat} (f : Fld) (x : Nat) (h : aside a r = true) : (s.setFld r f x).course a = s.course a :=
  course_setReg s a _ h

@[simp] theorem course_setBit {r : Nat} (f : Fld) (b : Bool) (h : aside a r = true) : (s.setBit r f b).course a = s.course a :=
  course_setReg s a _ h

/-- An axis updated beside its profile and its banks. -/
theorem course_modAxis (f : Axis → Axis) (prof : ∀ x, (f x).prof = x.prof) (bank : ∀ x, (f x).bank = x.bank) :
    (s.modAxis a f).course a = s.course a := by
  simp [State.course, State.prof, prof, bank]

@[simp] theorem course_modGear (f : Gear → Gear) : (s.modGear a f).course a = s.course a :=
  course_modAxis s a _ (fun _ => rfl) fun _ => rfl

@[simp] theorem course_modSf (f : StepFollow → StepFollow) : (s.modSf a f).course a = s.course a :=
  course_modAxis s a _ (fun _ => rfl) fun _ => rfl

@[simp] theorem course_modEng (e : Fin 46) (f : Engine → Engine) : (s.modEng e f).course a = s.course a := rfl

@[simp] theorem course_record (k : RecKind) (sev kind idx : Nat) (params : List Nat) :
    (record k sev kind idx params s).course a = s.course a := rfl

@[simp] theorem course_axisEvent (bit : Nat) (param : Int) : (axisEvent a bit param s).course a = s.course a :=
  course_of_motion (sameMotion_axisEvent ..) a

@[simp] theorem course_raiseAxis (code sev tag time : Nat) (params : List Int) :
    (raiseAxis a code sev tag time params s).course a = s.course a :=
  course_of_motion (sameMotion_raiseAxis ..) a

@[simp] theorem course_ite (c : Prop) [Decidable c] (s t : State) : (if c then s else t).course a = if c then s.course a else t.course a :=
  apply_ite (State.course · a) c s t

theorem course_foldl {α : Type} (l : List α) (g : State → α → State) (h : ∀ s x, (g s x).course a = s.course a) :
    (l.foldl g s).course a = s.course a := by
  induction l generalizing s with
  | nil => rfl
  | cons x l ih => rw [List.foldl_cons, ih, h]

/-! ## Gearing, step following and homing end -/

@[simp] theorem course_flushArmed : (flushArmed a s).course a = s.course a := by
  simp [flushArmed, course_foldl]

@[simp] theorem course_cancelEngage : (cancelEngage a s).course a = s.course a := by
  cases h : (s.gear a).engPend <;> simp [cancelEngage, gearEngaged, h]

@[simp] theorem course_cancelRelease : (cancelRelease a s).course a = s.course a := by
  cases h : (s.gear a).relPend <;> simp [cancelRelease, h]

@[simp] theorem course_leaveFollowing : (leaveFollowing a s).course a = s.course a := by
  unfold leaveFollowing
  simp only [course_ite]
  simp [leaveGear, leaveFollow]

@[simp] theorem course_endHoming : (endHoming a s).course a = s.course a := by
  simp [endHoming, course_modAxis]

@[simp] theorem course_failHoming (reason : Nat) : (failHoming a reason s).course a = s.course a := by
  cases h : (s.axis a).home <;> simp [failHoming, homeDone, h]

@[simp] theorem course_stopSides : (stopSides a s).course a = s.course a := by
  simp [stopSides]

end

end Sys2Proof.Machine
end

section
/-! SUPPORT. O14, O15, O16: what each step of a motion makes of the profile of its axis (R52, R54, R55), and the descriptor that brings it,
from its acceptance to its completion (R233). -/

namespace Sys2Proof.Machine

/-! ## The profile, step by step -/

section
variable (s : State) (a : Fin 32)

@[simp] theorem prof_modProf (f : Profile → Profile) : (s.modProf a f).prof a = f (s.prof a) := by
  simp [State.modProf, State.prof]

@[simp] theorem prof_setFld (r : Nat) (f : Fld) (x : Nat) : (s.setFld r f x).prof a = s.prof a := rfl
@[simp] theorem prof_setBit (r : Nat) (f : Fld) (b : Bool) : (s.setBit r f b).prof a = s.prof a := rfl
@[simp] theorem prof_setPair (r : Nat) (x : Int) : (s.setPair r x).prof a = s.prof a := rfl
@[simp] theorem prof_setAxState (x : Nat) : (s.setAxState a x).prof a = s.prof a := rfl

@[simp] theorem axState_setAxState (x : Nat) (h : x < 8) : (s.setAxState a x).axState a = x := by
  rw [State.axState, State.setAxState, State.fld_setFld_same _ _ _ _ (by decide)]
  exact Nat.mod_eq_of_lt h

theorem axState_setPair {lo : Nat} (x : Int) (h : lo ≠ MP_STAT a) (h4 : lo + 4 ≠ MP_STAT a) : (s.setPair lo x).axState a = s.axState a :=
  (State.fld_setReg_far _ _ _ _ _ h4).trans (State.fld_setReg_far _ _ _ _ _ h)

theorem axState_setBit (f : Fld) (b : Bool) (h : f.lo + f.width ≤ 32) (apart : f.apart MP_STAT_STATE = true) :
    (s.setBit (MP_STAT a) f b).axState a = s.axState a :=
  State.fld_setFld_other _ _ _ _ _ h (by decide) apart

/-- The pairs that report the position of an axis lie apart from its status. -/
theorem position_pairs : MP_CMD_POS_LO a ≠ MP_STAT a ∧ MP_CMD_POS_LO a + 4 ≠ MP_STAT a ∧ MP_TARGET_LO a ≠ MP_STAT a ∧
    MP_TARGET_LO a + 4 ≠ MP_STAT a ∧ OB_EST_POS_LO a ≠ MP_STAT a ∧ OB_EST_POS_LO a + 4 ≠ MP_STAT a := by
  simp only [MP_CMD_POS_LO, MP_STAT, MP_TARGET_LO, OB_EST_POS_LO]
  omega

@[simp] theorem prof_keepBase : (keepBase a s).prof a = { s.prof a with base := some (s.baseOf a) } := prof_modProf ..

@[simp] theorem prof_showRaised (raised : Bool) : (showRaised a raised s).prof a = s.prof a := by
  cases raised <;> rfl

@[simp] theorem prof_moveEnds (internal : Bool) (tag st : Nat) (target : Int) :
    (moveEnds a internal tag st target s).prof a = s.prof a := (sameMotion_moveEnds ..).prof a

@[simp] theorem prof_endMove (st : Nat) : (endMove a st s).prof a = { s.prof a with move := none } := by
  unfold endMove
  split
  · next none => exact congrArg (fun m => { s.prof a with move := m }) none
  · simp

@[simp] theorem prof_flushQueue (st : Nat) :
    (flushQueue a st s).prof a = { s.prof a with queue := [], dwellEnd := none } := by
  have ends (l : List MoveReq) (z : State) :
      (l.foldl (fun (s : State) r => moveEnds a r.internal r.tag st r.target s) z).prof a = z.prof a := by
    induction l generalizing z with
    | nil => rfl
    | cons r l ih => rw [List.foldl_cons, ih, prof_moveEnds]
  simp [flushQueue, followQueue, ends]

@[simp] theorem prof_layPlan (t : Rat) (l : List Seg) :
    (layPlan a t l s).prof a = { s.prof a with plan := splice t (s.prof a).plan l } := prof_modProf ..

@[simp] theorem prof_leaveFollowing : (leaveFollowing a s).prof a = s.prof a := prof_of_course (course_leaveFollowing s a)

@[simp] theorem prof_cancelEngage : (cancelEngage a s).prof a = s.prof a := prof_of_course (course_cancelEngage s a)

/-! ## Stops (R55, R66) -/

/-- The stop ramp from the exact state at the last boundary. -/
def State.stopRamp (kind : StopKind) : List Seg :=
  if kind = .estop ∨ kind = .limit then planStop (s.axB a) (s.kinB a) (q16 (s.emerg a)) 0
  else planStop (s.axB a) (s.kinB a) (q16 (s.dEff a (s.bankOf a).limits)) (q16 (s.bankOf a).j)

theorem beginStop_prof (kind : StopKind) : ((beginStop a kind s).prof a).plan = splice (s.axB a) (s.prof a).plan (s.stopRamp a kind) ∧
    ((beginStop a kind s).prof a).move = none ∧ ((beginStop a kind s).prof a).queue = [] := by
  simp [beginStop, State.stopRamp, Bank.limits]

theorem beginStop_axState (kind : StopKind) : (beginStop a kind s).axState a = axSTOPPING :=
  axState_setAxState _ a axSTOPPING (by decide)

/-! ## Homing -/

theorem endHoming_homing : (endHoming a s).homing a = false := by
  simp [State.homing, endHoming, apply_ite (State.axis · a)]

theorem failHoming_homing (reason : Nat) : (failHoming a reason s).homing a = false := by
  unfold failHoming
  split
  · next none => simp [State.homing, none]
  · rw [State.homing, homeDone, (sameMotion_raiseAxis ..).axis a]
    exact endHoming_homing _ a

theorem stopSides_homing : (stopSides a s).homing a = false := failHoming_homing ..

/-- A stop as it has begun, what else moved the axis ended. -/
theorem stop_begun (kind : StopKind) :
    (stopSides a (beginStop a kind s)).axState a = axSTOPPING ∧
    ((stopSides a (beginStop a kind s)).prof a).plan = splice (s.axB a) (s.prof a).plan (s.stopRamp a kind) ∧
    ((stopSides a (beginStop a kind s)).prof a).move = none ∧ ((stopSides a (beginStop a kind s)).prof a).queue = [] ∧
    (stopSides a (beginStop a kind s)).homing a = false := by
  have sides := course_stopSides (beginStop a kind s) a
  rw [axState_of_course sides, prof_of_course sides, stopSides_homing, beginStop_axState]
  obtain ⟨plan, move, queue⟩ := beginStop_prof s a kind
  exact ⟨rfl, plan, move, queue, rfl⟩

end

/-! ## From the acceptance to the completion -/

section
variable {s y z : State} {d : Desc} {st flags land : Nat}

theorem finAx_of {n : Nat} {a : Fin 32} (h : n = a.1) : finAx n = a := by
  subst h
  exact Fin.ext (Nat.mod_eq_of_lt a.2)

/-- A descriptor that is admitted comes to what its landing makes of the state at its acceptance. -/
theorem runs_admitted {c : Instr} {f : State → State} {P : State → Prop} (hc : exec c s = .next (submit d f s))
    (ha : s.admits d = true) (h : P (f (s.accepted d))) : Runs c s P :=
  ⟨_, hc, by rw [submit_admitted d s f ha]; exact h⟩

theorem complete_motion (hp : d.plain) : SameMotion y (complete d st flags land y) :=
  sameMotion_of_beyond (complete_beyond d st flags land y hp) (kept_part (complete_keeps d st flags land y) .axes (by decide))
    complete_tiles

/-- A motion that may change the registers, the axes, the engines, the cabinets, the recorder and what is sent answers the status of its
completion. -/
theorem answers_after (hp : d.plain) (h : ∀ q : Kept, Ok q z → ¬ q.fixed .regs → ¬ q.fixed .axes → ¬ q.fixed .engines →
    ¬ q.fixed .cabs → ¬ q.fixed .recorder → ¬ q.fixed .out → Ok q y) :
    Answers d st flags land z (complete d st flags land y) := by
  have kept : Ok (keepBut [.regs, .axes, .engines, .cabs, .recorder, .out] z) y :=
    h _ (keepBut_start _ z) (by simp [keepBut]) (by simp [keepBut]) (by simp [keepBut]) (by simp [keepBut]) (by simp [keepBut])
      (by simp [keepBut])
  exact (complete_answers d st flags land y hp).after (kept_sent kept)

end

end Sys2Proof.Machine
end

section
/-! SUPPORT. O15: VELOCITY, STOP and ESTOP (R51, R54, R55, R66). -/

namespace Sys2Proof.Machine

/-! ## VELOCITY (R54) -/

/-- The limits that a VELOCITY copies: what the payload gives, clamped, and of the bank the rest (R54, R57). -/
def State.velLimits (s : State) (d : Desc) (a : Fin 32) : Limits :=
  ⟨(s.bankOf a).v, (capped d.payload 6 (payBit d.payload 24 0) (s.aCap a)).getD (s.bankOf a).a,
    (capped d.payload 12 (payBit d.payload 24 1) (s.aCap a)).getD (s.bankOf a).d,
    if payBit d.payload 24 2 then pay48 d.payload 18 else (s.bankOf a).j, false, payBit d.payload 24 0, payBit d.payload 24 1⟩

/-- A velocity, an acceleration or a deceleration of a VELOCITY is clamped (R54, flag LIMITED). -/
def State.velLimited (s : State) (d : Desc) (a : Fin 32) (c : Int) : Bool :=
  c != payI48 d.payload 0 || limited d.payload 6 (payBit d.payload 24 0) (s.aCap a) ||
    limited d.payload 12 (payBit d.payload 24 1) (s.aCap a)

theorem velLimits_of_bank {s : State} {d : Desc} {a : Fin 32} (h : payByte d.payload 24 = 0) :
    s.velLimits d a = (s.bankOf a).limits := by
  simp [State.velLimits, Bank.limits, payBit, h, capped]

theorem startVelocity_axState (a : Fin 32) (c : Int) (l : Limits) (s : State) : (startVelocity a c l s).axState a = axVELOCITY :=
  axState_setAxState _ a axVELOCITY (by decide)

theorem startVelocity_prof (a : Fin 32) (c : Int) (l : Limits) (s : State) :
    ((startVelocity a c l s).prof a).velTarget = q16 c ∧ ((startVelocity a c l s).prof a).lim = l ∧
    ((startVelocity a c l s).prof a).plan = splice (s.axB a) (s.prof a).plan
      (planVelocity (s.axB a) (s.kinB a) (q16 c) (s.aEff a l) (q16 (s.dEff a l)) (q16 l.j)) := by
  simp [startVelocity]

theorem startVelocity_landOf (a : Fin 32) (c : Int) (l : Limits) (s : State) (d : Desc) :
    (startVelocity a c l s).landOf d = s.landOf d := by
  have tiles : (startVelocity a c l s).tiles = s.tiles := congrArg (·.2.2.1) (course_cancelEngage (keepBase a s) a)
  rw [State.landOf, State.boundary, State.tile, tiles]
  rfl

section
variable {z : State} {d : Desc} {a : Fin 32} (ht : finAx d.target = a)
include ht

theorem landVelocity_starts {c : Int} (hc : c = clampInt (-(z.vCap a : Int)) (z.vCap a) (payI48 d.payload 0)) (moves : c ≠ 0)
    (good : velocityBad d.payload = false) (calm : z.rxOf a < 3) (home : z.homing a = false)
    (state : z.axState a = axSTANDSTILL ∨ z.axState a = axVELOCITY) (free : z.velForbidden a c = false) :
    landVelocity d z = complete d stSTARTED (if z.velLimited d a c then 1 else 0) (z.landOf d)
      (startVelocity a c (z.velLimits d a) z) := by
  subst ht hc
  have ready : ¬ (3 ≤ z.rxOf (finAx d.target) ∨ z.homing (finAx d.target) = true ∨
      (z.axState (finAx d.target) ≠ axSTANDSTILL ∧ z.axState (finAx d.target) ≠ axVELOCITY)) := by
    rw [home]
    rcases state with h | h <;> simp [h, calm]
  unfold landVelocity
  dsimp only
  rw [good, if_neg Bool.false_ne_true, if_neg ready, free, if_neg Bool.false_ne_true]
  rw [if_neg (c := _ ∧ _) fun h => moves h.2, startVelocity_landOf]
  rfl

/-! ## STOP and ESTOP (R55) -/

theorem landStop_stops (flags : payByte d.payload 0 < 2) (zero : payZero d.payload 1 48 = true) (moving : z.moving a = true) :
    landStop d z = complete d stSTARTED 0 (z.landOf d) (stopSides a (beginStop a .stop z)) := by
  subst ht
  have state : z.axState (finAx d.target) ≠ axDISABLED ∧ z.axState (finAx d.target) ≠ axHOLD := by
    constructor <;> intro h <;> simp [State.moving, h] at moving <;> revert moving <;> decide
  obtain ⟨enabled, loose⟩ := state
  unfold landStop
  dsimp only
  rw [if_neg (by simp [zero, flags]), if_neg enabled, if_neg loose, if_pos moving]

theorem landStop_releases (flags : payByte d.payload 0 = 1) (zero : payZero d.payload 1 48 = true) (held : z.axState a = axHOLD)
    (gone : z.causePresent a = false) : landStop d z = complete d stDONE 0 (z.landOf d) (releaseHold a z) := by
  subst ht
  have release : payBit d.payload 0 0 = true := by simp [payBit, flags]
  unfold landStop
  dsimp only
  rw [if_neg (by simp [zero, flags]), if_neg (by rw [held]; decide), if_pos held, if_pos (by simp [release, gone])]

theorem landEstop_stops (moving : z.moving a = true ∨ z.axState a = axSTOPPING) :
    landEstop d z = complete d stSTARTED 0 (z.landOf d) (stopSides a (beginStop a .estop z)) := by
  subst ht
  exact if_pos moving

theorem landEstop_rests (still : z.moving a = false) (state : z.axState a ≠ axSTOPPING) :
    landEstop d z = complete d stNO_CHANGE 0 (z.landOf d) (stopSides a z) := by
  subst ht
  exact if_neg (by simp [still, state])

end

/-! ## HOLD is left (R51, R313) -/

section
variable (s : State) (a : Fin 32)

theorem course_followEpisode : (followEpisode a s).course a = s.course a := by
  unfold followEpisode
  simp

theorem course_report : (report a s).course a = s.course a := by
  unfold report
  simp [course_followEpisode, course_modAxis]

/-- What changes a limit of an axis at rest changes nothing that runs (R63). -/
theorem applyChange_rests (c : Chg) (f : Limits → Limits) (h : s.axState a = axSTANDSTILL) : applyChange a c f s = (s, false) := by
  simp [applyChange, h, axSTANDSTILL, axPOSITION, axVELOCITY, axSTOPPING]

theorem setDerated_axState (on : Bool) (h : s.axState a = axSTANDSTILL) : (setDerated a on s).axState a = axSTANDSTILL := by
  have shown : (s.setBit (MP_STAT a) MP_STAT_DERATED on).axState a = axSTANDSTILL :=
    (State.fld_setFld_other _ _ _ _ _ (by decide) (by decide) (by decide)).trans h
  unfold setDerated
  split
  · exact h
  · rw [applyChange_rests _ a _ _ shown]
    exact shown

theorem endEpisode_axState (h : s.axState a = axSTANDSTILL) : (endEpisode a s).axState a = axSTANDSTILL := by
  refine setDerated_axState _ a false ((axState_of_course ?_).trans h)
  refine (course_modAxis _ a _ ?_ ?_).trans (course_setReg s a 0 (aside_status a).2.2.2) <;> exact fun _ => rfl

theorem releaseHold_axState : (releaseHold a s).axState a = axSTANDSTILL := by
  have left : (s.setAxState a axSTANDSTILL).axState a = axSTANDSTILL := axState_setAxState _ a axSTANDSTILL (by decide)
  unfold releaseHold
  dsimp only
  split
  · exact endEpisode_axState _ a ((axState_of_course (course_report _ a)).trans left)
  · exact left

end

/-- A stop that has begun, as its descriptor completes. -/
theorem stop_completes {z : State} {d : Desc} (plain : d.plain) (a : Fin 32) (kind : StopKind) (land : Nat) :
    let x := complete d stSTARTED 0 land (stopSides a (beginStop a kind z))
    Answers d stSTARTED 0 land z x ∧ x.axState a = axSTOPPING ∧
      (x.prof a).plan = splice (z.axB a) (z.prof a).plan (z.stopRamp a kind) ∧ (x.prof a).move = none ∧ (x.prof a).queue = [] ∧
      x.homing a = false := by
  have same := complete_motion (y := stopSides a (beginStop a kind z)) (st := stSTARTED) (flags := 0) (land := land) plain
  dsimp only
  rw [same.axState, same.prof, State.homing, same.axis, ← State.homing]
  exact ⟨answers_after plain fun q h _ _ _ _ _ _ => stopSides_ok a _ (beginStop_ok a kind z h), stop_begun z a kind⟩

/-! ## The statement -/

/-- Settles O15: each of the commands lands on the state at its acceptance, whose motion is that of the state before; what it brings
sets the profile and the state of the axis, and its completion leaves both. -/
theorem velocityRampsAndStops : Obligations.VelocityRampsAndStops := by
  intro s d a plain admitted target
  have axis : finAx d.target = a := finAx_of target
  have lands : (s.accepted d).landOf d = s.axB a := by rw [← axis]; rfl
  refine ⟨fun c hc moves good calm home state free => ?_, fun flags zero moving => ?_, fun flags zero held gone => ?_,
    fun moving => ?_, fun still state => ?_⟩
  · refine runs_admitted (f := landVelocity d) rfl admitted ?_
    rw [landVelocity_starts (z := s.accepted d) axis hc moves good calm home state free, lands]
    have same := complete_motion (y := startVelocity a c ((s.accepted d).velLimits d a) (s.accepted d)) (st := stSTARTED)
      (flags := if (s.accepted d).velLimited d a c then 1 else 0) (land := s.axB a) plain
    obtain ⟨velocity, limits, plan⟩ := startVelocity_prof a c ((s.accepted d).velLimits d a) (s.accepted d)
    rw [same.axState, same.prof, startVelocity_axState, limits]
    exact ⟨⟨_, by split <;> decide, answers_after (z := s.accepted d) plain fun q h _ _ _ _ _ _ => startVelocity_ok a c _ _ h⟩, rfl,
      velocity, velLimits_of_bank, plan⟩
  · refine runs_admitted (f := landStop d) rfl admitted ?_
    rw [landStop_stops (z := s.accepted d) axis flags zero moving, lands]
    exact stop_completes (z := s.accepted d) plain a .stop _
  · refine runs_admitted (f := landStop d) rfl admitted ?_
    rw [landStop_releases (z := s.accepted d) axis flags zero held gone, lands]
    refine ⟨answers_after (z := s.accepted d) plain fun q h _ _ _ _ _ _ => releaseHold_ok a _ h, ?_⟩
    rw [(complete_motion plain).axState, releaseHold_axState]
  · refine runs_admitted (f := landEstop d) rfl admitted ?_
    rw [landEstop_stops (z := s.accepted d) axis moving, lands]
    exact stop_completes (z := s.accepted d) plain a .estop _
  · refine runs_admitted (f := landEstop d) rfl admitted ?_
    rw [landEstop_rests (z := s.accepted d) axis still state, lands]
    have sides := course_stopSides (s.accepted d) a
    refine ⟨answers_after (z := s.accepted d) plain fun q h _ _ _ _ _ _ => stopSides_ok a _ h, ?_⟩
    rw [(complete_motion plain).axState, (complete_motion plain).prof, axState_of_course sides, prof_of_course sides]
    exact ⟨rfl, rfl⟩

end Sys2Proof.Machine
end

section
/-! SUPPORT. O16: SET_POS and SET_PARAM (R56, R57). -/

namespace Sys2Proof.Machine

/-! ## Positions in whole ticks -/

theorem signedOf_range (n : Nat) : -(2 : Int) ^ 63 ≤ signedOf 64 n ∧ signedOf 64 n < (2 : Int) ^ 63 := by
  have wrapped : n % 2 ^ 64 < 2 ^ 64 := Nat.mod_lt _ (by decide)
  unfold signedOf
  dsimp only
  split <;> omega

theorem roundHalfAway_intCast (v : Int) : roundHalfAway (v : Rat) = v := by
  have half (x : Int) : ((x : Rat) + 1 / 2).floor = x := by
    show ⌊(x : Rat) + 1 / 2⌋ = x
    rw [Int.floor_eq_iff]
    constructor <;> linarith
  unfold roundHalfAway
  split
  · rw [← Int.cast_neg, half, neg_neg]
  · exact half v

/-- A position moved so that another becomes `v`: what wraps the one wraps the other to `v` (R68). -/
theorem wrapPos_shift (p : Rat) {v : Int} (low : -(2 : Int) ^ 63 ≤ v) (high : v < (2 : Int) ^ 63) : wrapPos (p + (v - wrapPos p)) = v := by
  have low : (-9223372036854775808 : Rat) ≤ v := by exact_mod_cast low
  have high : (v : Rat) < 9223372036854775808 := by exact_mod_cast high
  have turns (m : Int) : ((v + 18446744073709551616 * (m : Rat) + 9223372036854775808) / 18446744073709551616).floor = m := by
    show ⌊((v : Rat) + 18446744073709551616 * m + 9223372036854775808) / 18446744073709551616⌋ = m
    rw [Int.floor_eq_iff]
    constructor
    · rw [le_div_iff₀ (by norm_num)]
      linarith
    · rw [div_lt_iff₀ (by norm_num)]
      linarith
  have moved (m : Int) : p + (v - (p - ((18446744073709551616 * m : Int) : Rat))) = v + 18446744073709551616 * (m : Rat) := by
    push_cast
    ring
  unfold wrapPos
  rw [moved, turns]
  push_cast
  ring

/-! ## A plan moved -/

/-- A segment moved by an offset. -/
def Seg.shift (o : Rat) (g : Seg) : Seg := { g with p := g.p + o }

theorem segAt_shift (plan : List Seg) (o t : Rat) (h : plan ≠ []) : segAt (plan.map (Seg.shift o)) t = (segAt plan t).shift o := by
  have go (l : List Seg) (c : Seg) : (l.map (Seg.shift o)).foldl (fun cur g => if g.start ≤ t then g else cur) (c.shift o) =
      (l.foldl (fun cur g => if g.start ≤ t then g else cur) c).shift o := by
    induction l generalizing c with
    | nil => rfl
    | cons g l ih =>
      rw [List.map_cons, List.foldl_cons, List.foldl_cons, ← ih, apply_ite (Seg.shift o)]
      rfl
  cases plan with
  | nil => exact absurd rfl h
  | cons g l => exact go (g :: l) g

theorem planAt_shift (plan : List Seg) (o t : Rat) (h : plan ≠ []) : (planAt (plan.map (Seg.shift o)) t).p = (planAt plan t).p + o := by
  rw [planAt, segAt_shift plan o t h]
  simp only [planAt, Seg.at, Seg.shift]
  ring

/-! ## SET_POS (R56) -/

section
variable (s : State) (a : Fin 32)

theorem shiftAxis_axState (o : Rat) : (shiftAxis a o s).axState a = s.axState a := by
  obtain ⟨pos, pos', target, target', est, est'⟩ := position_pairs a
  unfold shiftAxis
  dsimp only
  rw [axState_setPair _ a _ est est']
  split
  · rw [axState_setPair _ a _ target target', axState_setPair _ a _ pos pos']
    rfl
  · rw [axState_setBit _ a _ _ (by decide) (by decide), axState_setPair _ a _ target target', axState_setPair _ a _ pos pos']
    rfl

/-- What an axis holds beside its registers, moved with its position by an offset: by `oi` whole ticks, and by `oq` units of 2^−16. -/
def moveHeld (a : Fin 32) (o : Rat) (oi oq : Int) (s : State) : State :=
  ((s.modProf a fun x =>
    { x with
      plan := x.plan.map (Seg.shift o)
      base := x.base.map fun y => { y with kin := { y.kin with p := y.kin.p + o } } }).modIo a fun x =>
    { x with tripP := x.tripP + o, tripN := x.tripN + o }).modObs a fun x =>
    { x with inj := x.inj.shift oq, bemf := x.bemf.shift oq, est := x.est.shift oq, encOfs := x.encOfs + o
             qOut := wrapInt 64 (x.qOut + oi) }

theorem shiftAxis_axes (o : Rat) : (shiftAxis a o s).axes =
    (moveHeld a o (roundHalfAway ((s.kinB a).p + o) - roundHalfAway (s.kinB a).p) (roundHalfAway (65536 * o)) s).axes := by
  unfold shiftAxis
  dsimp only
  split <;> rfl

theorem shiftAxis_prof (o : Rat) : (shiftAxis a o s).prof a =
    { s.prof a with
      plan := (s.prof a).plan.map (Seg.shift o)
      base := (s.prof a).base.map fun y => { y with kin := { y.kin with p := y.kin.p + o } } } := by
  rw [State.prof, State.axis, shiftAxis_axes, ← State.axis]
  simp [moveHeld, State.modProf, State.modIo, State.modObs, State.prof]

theorem shiftAxis_others (o : Rat) : AxesBut [a] s (shiftAxis a o s) := by
  intro i hi
  have apart : a ≠ i := fun e => hi (by simp [e])
  rw [State.axis, shiftAxis_axes, ← State.axis, moveHeld, State.modObs, State.modIo, State.modProf, State.axis_modAxis_other _ _ _ _ apart,
    State.axis_modAxis_other _ _ _ _ apart, State.axis_modAxis_other _ _ _ _ apart]

theorem shiftAxis_axB (o : Rat) : (shiftAxis a o s).axB a = s.axB a := by
  have tiles : (shiftAxis a o s).tiles = s.tiles :=
    kept_part (shiftAxis_ok a o s (keepBut_start [.regs, .axes] s) (by simp [keepBut]) (by simp [keepBut])) .tiles (by decide)
  rw [State.axB, State.boundary, State.tile, tiles]
  rfl

/-- Without gearing and step following, the exact position at the boundary is the one kept for its changes, or that of the plan. -/
theorem kinB_p_of_plan (geared : s.axState a ≠ axGEARED) (follows : s.axState a ≠ axSTEPFOLLOW) :
    (s.kinB a).p = ((s.prof a).base.map (·.kin.p)).getD (wrapPos (planAt (s.prof a).plan (s.axB a)).p) := by
  unfold State.kinB
  cases (s.prof a).base with
  | none => simp [State.kinSample, State.kinSampleAt, geared, follows]
  | some x => rfl

theorem setPosition_kinB {v : Int} (low : -(2 : Int) ^ 63 ≤ v) (high : v < (2 : Int) ^ 63) (plan : (s.prof a).plan ≠ [])
    (geared : s.axState a ≠ axGEARED) (follows : s.axState a ≠ axSTEPFOLLOW) : ((setPosition a v s).kinB a).p = v := by
  have state := shiftAxis_axState s a ((v : Rat) - (s.kinB a).p)
  have was := kinB_p_of_plan s a geared follows
  rw [setPosition, kinB_p_of_plan _ a (state ▸ geared) (state ▸ follows), shiftAxis_axB, shiftAxis_prof,
    planAt_shift _ _ _ plan, was]
  cases (s.prof a).base with
  | none => exact wrapPos_shift _ low high
  | some x => simp

/-- The commanded position becomes the value. -/
theorem setPosition_posB {v : Int} (low : -(2 : Int) ^ 63 ≤ v) (high : v < (2 : Int) ^ 63) (plan : (s.prof a).plan ≠ [])
    (settable : s.posSettable a = true) : (setPosition a v s).posB a = v := by
  have states : s.axState a = axDISABLED ∨ s.axState a = axSTANDSTILL ∨ s.axState a = axVELOCITY := by
    simpa [State.posSettable, or_assoc] using (Bool.and_eq_true_iff.1 settable).1
  have apart : s.axState a ≠ axGEARED ∧ s.axState a ≠ axSTEPFOLLOW := by
    rcases states with h | h | h <;> rw [h] <;> decide
  rw [State.posB, setPosition_kinB s a low high plan apart.1 apart.2, roundHalfAway_intCast]

end

theorem SameMotion.posB {s t : State} (h : SameMotion s t) (a : Fin 32) : t.posB a = s.posB a := by
  simp only [State.posB, State.kinB, State.kinSample, State.kinSampleAt, State.axB, State.boundary, State.gear, State.sf, h.prof,
    h.axState, h.axis, h.tile]

theorem landSetPos_sets {z : State} {d : Desc} {a : Fin 32} (ht : finAx d.target = a) (zero : payZero d.payload 8 48 = true)
    (settable : z.posSettable a = true) (soft : z.softOk a (payI64 d.payload 0) = true) :
    landSetPos d z = complete d stDONE 0 (z.landOf d) (setPosition a (payI64 d.payload 0) z) := by
  subst ht
  simp [landSetPos, zero, settable, soft]

/-! ## SET_PARAM (R57) -/

/-- A parameter stored into a bank. -/
def storeParam (a : Fin 32) (id v n : Nat) (s : State) : State :=
  s.modAxis a fun x => { x with bank := x.bank.setIfInBounds n ((x.bank.getD n Bank.init).put id v) }

theorem putParam_stores (a : Fin 32) (id v bank : Nat) (s : State) :
    putParam a id v bank true false s = (storeParam a id v (if bank = 0xFF then s.bankNo a else bank) s, false) := rfl

theorem storeParam_landOf (a : Fin 32) (id v n : Nat) (s : State) (d : Desc) : (storeParam a id v n s).landOf d = s.landOf d := rfl

theorem storeParam_bank (a : Fin 32) (id v k : Nat) (s : State) (n : Fin 4) : ((storeParam a id v k s).axis a).bank[n] =
    if n.1 = k then ((s.axis a).bank[n]).put id v else (s.axis a).bank[n] := by
  rw [storeParam, State.axis_modAxis_same]
  show ((s.axis a).bank.setIfInBounds k _)[n.1] = _
  rw [Vector.getElem_setIfInBounds]
  by_cases h : k = n.1
  · subst h
    simp [Vector.getD]
  · rw [if_neg h, if_neg (Ne.symm h)]
    rfl

theorem landSetParam_stores {z : State} {d : Desc} {a : Fin 32} (ht : finAx d.target = a) {id v cap bank : Nat}
    (hid : id = pay16 d.payload 0) (low : 0x0100 ≤ id) (high : id ≤ 0x0103) (hv : v = pay48 d.payload 8) (small : v < 2 ^ 47)
    (zero : id = 0x0103 ∨ v ≠ 0) (hcap : cap = (if id = 0x0100 then z.vCap a else if id = 0x0103 then 2 ^ 47 else z.aCap a))
    (good : paramBad d.payload 6 = false) (store : payByte d.payload 3 = 1)
    (hbank : bank = (if payByte d.payload 2 = 0xFF then z.bankNo a else payByte d.payload 2)) :
    landSetParam d z = complete d stDONE (if cap < v then 1 else 0) (z.landOf d) (storeParam a id (min v cap) bank z) := by
  subst ht hid hv hcap hbank
  have value : (decide (pay16 d.payload 0 ≠ 0x0103) && pay48 d.payload 8 == 0) = false := by
    rcases zero with h | h <;> simp [h]
  have stored : payBit d.payload 3 0 = true ∧ payBit d.payload 3 1 = false := by
    simp only [payBit, store]
    decide
  unfold landSetParam
  dsimp only
  rw [if_pos ⟨low, high⟩]
  unfold profileParam
  dsimp only
  rw [good, store, value, stored.1, stored.2, putParam_stores, if_neg (by simpa using small)]
  dsimp only
  rw [storeParam_landOf, if_neg Bool.false_ne_true, Nat.add_zero]

/-! ## The statement -/

/-- Settles O16: SET_POS moves the plan, or the state kept for the boundary, by what the value lies off the position there; SET_PARAM
stores one value of one bank. -/
theorem positionsAndParametersAreSet : Obligations.PositionsAndParametersAreSet := by
  intro s d a plain admitted target
  have axis : finAx d.target = a := finAx_of target
  have lands : (s.accepted d).landOf d = s.axB a := by rw [← axis]; rfl
  refine ⟨fun zero settable soft plan => ?_, fun id v cap bank hid low high hv small zero hcap good store hbank => ?_⟩
  · refine runs_admitted (f := landSetPos d) rfl admitted ?_
    rw [landSetPos_sets (z := s.accepted d) axis zero settable soft, lands]
    have same := complete_motion (y := setPosition a (payI64 d.payload 0) (s.accepted d)) (st := stDONE) (flags := 0)
      (land := s.axB a) plain
    obtain ⟨least, most⟩ := signedOf_range (pay64 d.payload 0)
    refine ⟨answers_after (z := s.accepted d) plain fun q h _ _ _ _ _ _ => setPosition_ok a _ _ h, ?_, ?_, fun i hi => ?_⟩
    · exact (same.posB a).trans (setPosition_posB (s.accepted d) a least most plan settable)
    · exact (same.axState a).trans (shiftAxis_axState (s.accepted d) a _)
    · exact (same.axis i).trans (shiftAxis_others (s.accepted d) a _ i hi)
  · refine runs_admitted (f := landSetParam d) rfl admitted ?_
    rw [landSetParam_stores (z := s.accepted d) axis hid low high hv small zero hcap good store hbank, lands]
    have same := complete_motion (y := storeParam a id (min v cap) bank (s.accepted d)) (st := stDONE)
      (flags := if cap < v then 1 else 0) (land := s.axB a) plain
    refine ⟨answers_after (z := s.accepted d) plain fun q h _ _ _ _ _ _ => State.modAxis_ok _ a _ h, fun n hn => ?_, fun n hn => ?_,
      ?_, fun i hi => ?_⟩
    · rw [same.axis, storeParam_bank, if_pos hn]
      rfl
    · rw [same.axis, storeParam_bank, if_neg hn]
      rfl
    · rw [same.prof, State.prof, storeParam, State.axis_modAxis_same]
      rfl
    · rw [same.axis]
      exact State.axis_modAxis_other _ _ _ _ fun e => hi (by simp [e])

end Sys2Proof.Machine
end

section
/-! SUPPORT. O14: MOVE (R52, R53, R57, R59). -/

namespace Sys2Proof.Machine

/-! ## What a MOVE asks for, and behind what (R52, R53) -/

/-- The entry that a MOVE makes: a relative target is added to that of the entry ahead, and stays a distance where that is a stop. -/
def State.entryOf (s : State) (d : Desc) (a : Fin 32) : MoveReq :=
  let r := s.moveReq d a
  { r with rel := r.rel && (s.aheadOf a).2
           target := if r.rel && !(s.aheadOf a).2 then (s.aheadOf a).1 + r.target else r.target }

/-- The distance of a MOVE from the entry ahead. -/
def State.distOf (s : State) (d : Desc) (a : Fin 32) : Int :=
  let r := s.moveReq d a
  if r.rel then r.target else r.target - (s.aheadOf a).1

/-- The limits that a move copies: those of its descriptor, and of the bank the rest (R57). -/
def State.moveLimits (s : State) (r : MoveReq) (a : Fin 32) : Limits :=
  let b := s.bankOf a
  ⟨r.v.getD b.v, r.a.getD b.a, r.d.getD b.d, r.j.getD b.j, r.v.isSome, r.a.isSome, r.d.isSome⟩

section
variable {s : State} {a : Fin 32}

theorem aheadOf_queued {r : MoveReq} (last : (s.prof a).queue.getLast? = some r) (known : r.rel = false) :
    s.aheadOf a = (r.target, false) := by
  simp [State.aheadOf, last, known]

theorem aheadOf_moving {m : MoveRun} (queue : (s.prof a).queue = []) (move : (s.prof a).move = some m) :
    s.aheadOf a = (m.target, false) := by
  simp [State.aheadOf, queue, move]

theorem aheadOf_stopping (queue : (s.prof a).queue = []) (move : (s.prof a).move = none) (stopping : s.axState a = axSTOPPING) :
    s.aheadOf a = (roundHalfAway (planEndPos (s.prof a).plan), true) := by
  simp [State.aheadOf, queue, move, stopping]

theorem aheadOf_resting (queue : (s.prof a).queue = []) (move : (s.prof a).move = none) (rests : s.axState a = axSTANDSTILL) :
    s.aheadOf a = (s.posB a, false) := by
  simp [State.aheadOf, queue, move, rests, axSTANDSTILL, axSTOPPING]

end

/-! ## MOVE at its landing (R53) -/

section
variable {z : State} {d : Desc} {a : Fin 32} (ht : finAx d.target = a) (good : moveBad d.payload = false) (calm : z.rxOf a < 3)
  (home : z.homing a = false) (room : (z.prof a).queue.length < 8)
include ht good calm home room

/-- A good MOVE that no reaction, homing or full queue refuses. -/
theorem landMove_ready : landMove d z =
    if ¬ (z.axState a = axSTANDSTILL ∧ (z.prof a).queue = []) ∧
        ¬ ((z.axState a = axPOSITION ∨ (z.axState a = axSTOPPING ∧ (z.prof a).stopKind = .stop)) ∧ payBit d.payload 36 1) then
      refuseMotion d a stREFUSED_STATE z
    else if 2 ^ 62 ≤ (z.distOf d a).natAbs ∨ (!(z.entryOf d a).rel ∧
        (!z.softOk a (z.entryOf d a).target ∨ z.lockForbids a (z.entryOf d a).target)) then
      refuseMotion d a stREFUSED_RANGE z
    else if z.axState a = axSTANDSTILL ∧ (z.prof a).queue = [] then
      complete d stSTARTED (if z.moveLimited d a then 1 else 0) (z.landOf d) (startNow a (z.entryOf d a) z)
    else complete d stQUEUED (if z.moveLimited d a then 1 else 0) (z.landOf d) (queueMove a (z.entryOf d a) z) := by
  subst ht
  rcases ahead : z.aheadOf (finAx d.target) with ⟨position, unknown⟩
  unfold landMove State.entryOf State.distOf
  simp only [ahead]
  rw [good, if_neg Bool.false_ne_true, if_neg (by simp [home, calm]), if_neg (Nat.not_le.2 room)]

theorem landMove_refuses (state : z.axState a ≠ axSTANDSTILL)
    (queues : z.axState a = axPOSITION ∨ z.axState a = axSTOPPING ∧ (z.prof a).stopKind = .stop → payBit d.payload 36 1 = false) :
    landMove d z = refuseMotion d a stREFUSED_STATE z := by
  rw [landMove_ready ht good calm home room, if_pos]
  refine ⟨fun still => state still.1, fun h => ?_⟩
  rw [queues h.1] at h
  exact Bool.false_ne_true h.2

/-- A target that the limits and the locks allow: that of a distance behind a stop is not known yet. -/
theorem landMove_allowed (near : (z.distOf d a).natAbs < 2 ^ 62)
    (free : (z.entryOf d a).rel = false → z.softOk a (z.entryOf d a).target = true ∧ z.lockForbids a (z.entryOf d a).target = false) :
    landMove d z =
      if ¬ (z.axState a = axSTANDSTILL ∧ (z.prof a).queue = []) ∧
          ¬ ((z.axState a = axPOSITION ∨ (z.axState a = axSTOPPING ∧ (z.prof a).stopKind = .stop)) ∧ payBit d.payload 36 1) then
        refuseMotion d a stREFUSED_STATE z
      else if z.axState a = axSTANDSTILL ∧ (z.prof a).queue = [] then
        complete d stSTARTED (if z.moveLimited d a then 1 else 0) (z.landOf d) (startNow a (z.entryOf d a) z)
      else complete d stQUEUED (if z.moveLimited d a then 1 else 0) (z.landOf d) (queueMove a (z.entryOf d a) z) := by
  have allowed : ¬ (2 ^ 62 ≤ (z.distOf d a).natAbs ∨ (!(z.entryOf d a).rel ∧
      (!z.softOk a (z.entryOf d a).target ∨ z.lockForbids a (z.entryOf d a).target))) := by
    rintro (far | ⟨known, forbidden⟩)
    · exact absurd far (Nat.not_le.2 near)
    · simp [free (by simpa using known)] at forbidden
  rw [landMove_ready ht good calm home room, if_neg allowed]

theorem landMove_starts (near : (z.distOf d a).natAbs < 2 ^ 62)
    (free : (z.entryOf d a).rel = false → z.softOk a (z.entryOf d a).target = true ∧ z.lockForbids a (z.entryOf d a).target = false)
    (state : z.axState a = axSTANDSTILL) (queue : (z.prof a).queue = []) :
    landMove d z = complete d stSTARTED (if z.moveLimited d a then 1 else 0) (z.landOf d) (startNow a (z.entryOf d a) z) := by
  rw [landMove_allowed ht good calm home room near free, if_neg (by simp [state, queue]), if_pos ⟨state, queue⟩]

theorem landMove_queues (near : (z.distOf d a).natAbs < 2 ^ 62)
    (free : (z.entryOf d a).rel = false → z.softOk a (z.entryOf d a).target = true ∧ z.lockForbids a (z.entryOf d a).target = false)
    (state : z.axState a = axPOSITION ∨ z.axState a = axSTOPPING ∧ (z.prof a).stopKind = .stop) (queue : payBit d.payload 36 1 = true) :
    landMove d z = complete d stQUEUED (if z.moveLimited d a then 1 else 0) (z.landOf d) (queueMove a (z.entryOf d a) z) := by
  have moves : z.axState a ≠ axSTANDSTILL := by
    intro still
    rw [still] at state
    revert state
    simp [axSTANDSTILL, axPOSITION, axSTOPPING]
  rw [landMove_allowed ht good calm home room near free, if_neg fun h => h.2 ⟨state, queue⟩, if_neg fun still => moves still.1]

end

/-! ## A move starts (R53, R59) -/

theorem pairI_setPair_same (s : State) (lo : Nat) (x : Int) : (s.setPair lo x).pairI lo = signedOf 64 (toBits 64 x) := by
  have bound : toBits 64 x < 2 ^ 64 := by
    unfold toBits
    omega
  have pair : (s.setPair lo x).pair lo = toBits 64 x := by
    simp only [State.pair, State.setPair, State.reg_setReg_same, State.reg_setReg_other _ (lo + 4) lo _ (by omega),
      BitVec.toNat_ofNat]
    omega
  rw [State.pairI, pair]

section
variable (s : State) (a : Fin 32)

theorem arrive_prof (m : MoveRun) : ((arrive a m s).prof a).plan = (s.prof a).plan := by
  unfold arrive
  dsimp only
  rw [prof_moveEnds, prof_setBit, prof_setFld, prof_modProf]

theorem arrive_axState (m : MoveRun) : (arrive a m s).axState a = s.axState a := by
  unfold arrive
  dsimp only
  rw [(sameMotion_moveEnds ..).axState, axState_setBit _ a _ _ (by decide) (by decide)]
  exact State.fld_setFld_other _ _ _ _ _ (by decide) (by decide) (by decide)

/-- At distance 0 the move has arrived (R53). -/
theorem startNow_arrives {r : MoveReq} (h : r.target = s.posB a) :
    (startNow a r s).axState a = s.axState a ∧ ((startNow a r s).prof a).plan = (s.prof a).plan := by
  obtain ⟨-, -, target, target', -, -⟩ := position_pairs a
  rw [startNow, if_pos h, arrive_prof, arrive_axState]
  exact ⟨axState_setPair s a _ target target', rfl⟩

theorem startMove_plans {t : Rat} {k : Kin} {r : MoveReq} {l : Limits} {o : PlanOut} (hl : l = s.moveLimits r a)
    (plan : planMove t k r.target (s.vEff a l) (s.aEff a l) (s.dEff a l) (s.emerg a) (q16 l.j) = some o) :
    (startMove a t k r s).axState a = axPOSITION ∧
    ((startMove a t k r s).prof a).plan = splice t (s.prof a).plan o.segs ∧
    ((startMove a t k r s).prof a).move.map (fun m => (m.tag, m.target)) = some (r.tag, r.target) ∧
    (startMove a t k r s).pairI (MP_TARGET_LO a) = signedOf 64 (toBits 64 r.target) := by
  subst hl
  obtain ⟨-, -, target, target', -, -⟩ := position_pairs a
  have noted (d : Nat) : (if o.raised then noteRaised a d o.dUsed s else s.setBit (MP_STAT a) MP_STAT_DECEL_RAISED false).prof a =
      s.prof a := by
    split <;> rfl
  unfold startMove
  dsimp only
  simp only [State.moveLimits] at plan
  simp only [Bank.limits, plan]
  rw [showTarget, axState_setPair _ a _ target target', axState_setAxState _ a _ (by decide), pairI_setPair_same]
  simp [noted]

end

/-- Off the position at the boundary, a move starts from the exact state there (R53). -/
theorem startNow_moves {s : State} {a : Fin 32} {r : MoveReq} {l : Limits} {o : PlanOut} (far : r.target ≠ s.posB a)
    (hl : l = s.moveLimits r a)
    (plan : planMove (s.axB a) (s.kinB a) r.target (s.vEff a l) (s.aEff a l) (s.dEff a l) (s.emerg a) (q16 l.j) = some o) :
    (startNow a r s).axState a = axPOSITION ∧
    ((startNow a r s).prof a).plan = splice (s.axB a) (s.prof a).plan o.segs ∧
    ((startNow a r s).prof a).move.map (fun m => (m.tag, m.target)) = some (r.tag, r.target) ∧
    (startNow a r s).pairI (MP_TARGET_LO a) = signedOf 64 (toBits 64 r.target) := by
  subst hl
  have bank : (keepBase a s).bankOf a = s.bankOf a := by
    simp [State.bankOf, State.bankNo, keepBase, State.modProf]
  obtain ⟨engaged, v, acc, dec, emerg⟩ := limits_of_course (course_cancelEngage (keepBase a s) a) (s.moveLimits r a)
  have limits : s.moveLimits r a = (cancelEngage a (keepBase a s)).moveLimits r a := by
    rw [State.moveLimits, State.moveLimits, engaged, bank]
  rw [startNow, if_neg far]
  have starts := startMove_plans (cancelEngage a (keepBase a s)) a limits (t := s.axB a) (k := s.kinB a) (r := r) (o := o)
    (by rw [v, acc, dec, emerg]; exact plan)
  rwa [prof_cancelEngage, prof_keepBase] at starts

/-! ## A move queues (R53) -/

theorem followQueue_axState (s : State) (a : Fin 32) : (followQueue a s).axState a = s.axState a := by
  unfold followQueue
  rw [axState_setBit _ a _ _ (by decide) (by decide)]
  exact State.fld_setFld_other _ _ _ _ _ (by decide) (by decide) (by decide)

theorem queueMove_axState (s : State) (a : Fin 32) (r : MoveReq) : (queueMove a r s).axState a = s.axState a :=
  followQueue_axState _ a

theorem queueMove_prof (s : State) (a : Fin 32) (r : MoveReq) :
    (queueMove a r s).prof a = { s.prof a with queue := (s.prof a).queue ++ [r] } :=
  prof_modProf s a fun x => { x with queue := x.queue ++ [r] }

/-! ## A move is refused (R53) -/

/-- A refusal is counted and leaves the profile and the state of the axis. -/
theorem refuseMotion_keeps {z : State} {d : Desc} (plain : d.plain) (a : Fin 32) (st : Nat) :
    Answers d st 0 (z.landOf d) z (refuseMotion d a st z) ∧ (refuseMotion d a st z).axState a = z.axState a ∧
    (refuseMotion d a st z).prof a = z.prof a ∧ Counts z (refuseMotion d a st z) (MP_CNT a) MP_CNT_REFUSED := by
  have same := complete_motion (y := z.count (MP_CNT a) MP_CNT_REFUSED) (st := st) (flags := 0) (land := z.landOf d) plain
  have apart : MP_CNT a ≠ MP_STAT a := by
    simp only [MP_CNT, MP_STAT]
    omega
  refine ⟨answers_after plain fun q h _ _ _ _ _ _ => State.count_ok _ _ _ h, ?_, same.prof a, ?_⟩
  · exact (same.axState a).trans (State.fld_setFld_far _ _ _ _ _ _ apart)
  · exact (counts_count z (MP_CNT a) MP_CNT_REFUSED (by decide)).congr rfl (same.fld (by simp) _)

/-! ## The statement -/

/-- Settles O14: the landing of a MOVE on the state at its acceptance, by the state of the axis; what it starts, queues or refuses is
read off its steps, and its completion leaves the motion. -/
theorem movesStartAndQueue : Obligations.MovesStartAndQueue := by
  intro s d a plain admitted target good calm home
  have axis : finAx d.target = a := finAx_of target
  have lands : (s.accepted d).landOf d = s.axB a := by rw [← axis]; rfl
  refine ⟨fun tgt state queue move htgt near soft locks => ?_, fun state flag room => ⟨⟨fun r => aheadOf_queued, fun m => aheadOf_moving,
    aheadOf_stopping⟩, fun rel hrel tgt htgt near free => ?_⟩, fun room state queues => ?_⟩
  · have ahead : s.aheadOf a = (s.posB a, false) := aheadOf_resting queue move state
    have goal : (s.entryOf d a).target = tgt := by
      simp [State.entryOf, State.moveReq, ahead, htgt]
    have dist : s.distOf d a = if payBit d.payload 36 0 then payI64 d.payload 0 else tgt - s.posB a := by
      by_cases h : payBit d.payload 36 0 = true <;> simp [State.distOf, State.moveReq, ahead, htgt, h]
    refine runs_admitted (f := landMove d) rfl admitted ?_
    rw [landMove_starts (z := s.accepted d) axis good calm home (show (s.prof a).queue.length < 8 by simp [queue])
      (dist ▸ near) (fun _ => goal ▸ ⟨soft, locks⟩) state queue, lands]
    have same := complete_motion (y := startNow a ((s.accepted d).entryOf d a) (s.accepted d)) (st := stSTARTED)
      (flags := if (s.accepted d).moveLimited d a then 1 else 0) (land := s.axB a) plain
    rw [same.axState, same.prof, same.pairI (by simp only [MP_TARGET_LO]; omega)]
    refine ⟨answers_after (z := s.accepted d) plain fun q h _ _ _ _ _ _ => startNow_ok a _ _ h, fun here => ?_, fun o far plan => ?_⟩
    · obtain ⟨stays, kept⟩ := startNow_arrives (s.accepted d) a (r := (s.accepted d).entryOf d a) (goal.trans here)
      exact ⟨stays.trans state, kept⟩
    · have starts := startNow_moves (s := s.accepted d) (a := a) (r := (s.accepted d).entryOf d a) (o := o)
        (fun here => far (goal.symm.trans here)) rfl (show planMove _ _ (s.entryOf d a).target _ _ _ _ _ = _ from goal ▸ plan)
      rwa [show ((s.accepted d).entryOf d a).target = tgt from goal] at starts
  · have goal : (s.entryOf d a).target = tgt := by
      simp [State.entryOf, State.moveReq, htgt, hrel]
    have open_ : (s.entryOf d a).rel = (rel && (s.aheadOf a).2) := by rw [hrel]; rfl
    have dist : (s.distOf d a).natAbs < 2 ^ 62 := by
      subst hrel
      by_cases h : payBit d.payload 36 0 = true <;> simpa [State.distOf, State.moveReq, htgt, h] using near
    refine runs_admitted (f := landMove d) rfl admitted ?_
    rw [landMove_queues (z := s.accepted d) axis good calm home room dist (fun known => goal ▸ free (open_ ▸ known)) state flag, lands]
    have same := complete_motion (y := queueMove a ((s.accepted d).entryOf d a) (s.accepted d)) (st := stQUEUED)
      (flags := if (s.accepted d).moveLimited d a then 1 else 0) (land := s.axB a) plain
    rw [same.axState, same.prof, queueMove_axState, queueMove_prof]
    exact ⟨answers_after (z := s.accepted d) plain fun q h _ _ _ _ _ _ => queueMove_ok a _ _ h, rfl,
      ⟨_, rfl, rfl, goal, open_, rfl, rfl⟩, rfl, rfl⟩
  · refine runs_admitted (f := landMove d) rfl admitted ?_
    rw [landMove_refuses (z := s.accepted d) axis good calm home room state queues, ← lands]
    exact refuseMotion_keeps (z := s.accepted d) plain a stREFUSED_STATE

end Sys2Proof.Machine
end

section
/-! SUPPORT. O19: what a fault leaves of the motion of the axes: the tiles, what the axes hold but for their episodes, and the registers of
their motion. -/

namespace Sys2Proof.Machine

/-! ## The drive of the axes -/

/-- A register of the motion of an axis, or the mode of a tile. -/
def driving (r : Nat) : Bool :=
  (decide (0x100000 ≤ r) && decide (r < 0x110000) && decide (r % 0x800 < 0x380)) ||
    (decide (0x200000 ≤ r) && decide (r % 0x40000 = 0x18))

/-- The drive of an axis: its profile, its gearing, its homing and its banks, the tiles, and the registers of the motion. -/
def State.drive (s : State) (a : Fin 32) : Profile × Gear × Option HomeRun × Vector Bank 4 × Vector Tile 4 × (Nat → Word) :=
  (s.prof a, s.gear a, (s.axis a).home, (s.axis a).bank, s.tiles, fun r => if driving r then s.reg r else 0)

theorem driving_iff {r : Nat} : driving r = true ↔
    (0x100000 ≤ r ∧ r < 0x110000 ∧ r % 0x800 < 0x380) ∨ (0x200000 ≤ r ∧ r % 0x40000 = 0x18) := by
  simp [driving, and_assoc]

theorem reg_of_drive {s t : State} {a : Fin 32} (h : t.drive a = s.drive a) {r : Nat} (hr : driving r = true) :
    t.reg r = s.reg r := by
  have regs : (if driving r = true then t.reg r else 0) = if driving r = true then s.reg r else 0 :=
    congrFun (congrArg (·.2.2.2.2.2) h) r
  simpa only [hr, if_true] using regs

@[simp] theorem driving_port (p : Fin 64) :
    driving (pwmStat p) = false ∧ driving (gdStat p) = false ∧ driving (GD_STAT (pT p) (pI p)) = false ∧
    driving (GD_ACODE (pT p) (pI p)) = false ∧ driving (GD_CNT2 (pT p) (pI p)) = false ∧
    driving (PWM_CNT (pT p) (pI p)) = false ∧ driving (PWM_CNT2 (pT p) (pI p)) = false ∧
    driving (PWM_CARRY (pT p) (pI p)) = false ∧ driving (CMP_STAT (pT p) (pI p)) = false ∧
    driving (CR_DUTY (pT p) (pI p)) = false ∧ driving (CR_INTEG (pT p) (pI p)) = false := by
  simp only [← Bool.not_eq_true, driving_iff, pwmStat, gdStat, GD_STAT, GD_ACODE,
    GD_CNT2, PWM_STAT, PWM_CNT, PWM_CNT2, PWM_CARRY, CMP_STAT, CR_DUTY, CR_INTEG, pT, pI]
  omega

theorem driving_low {r : Nat} (h : r < 0x100000) : driving r = false := by
  simp only [← Bool.not_eq_true, driving_iff]
  omega

@[simp] theorem driving_event (e : Fin 46) : driving (ENG_EVLATCH e) = false ∧ driving (ENG_CNT e) = false :=
  ⟨driving_low (by simp only [ENG_EVLATCH]; omega), driving_low (by simp only [ENG_CNT]; omega)⟩

@[simp] theorem driving_device : driving GLB_STATE = false := driving_low (by decide)

@[simp] theorem driving_fault (a : Fin 32) : driving (MP_FLT_STAT a) = false ∧ driving (MP_FLT_CNT a) = false := by
  simp only [← Bool.not_eq_true, driving_iff, MP_FLT_STAT, MP_FLT_CNT]
  omega

/-! ## The named updates -/

section
variable (s : State) (o : Fin 32)

@[simp] theorem drive_setReg {r : Nat} (v : Word) (h : driving r = false) : (s.setReg r v).drive o = s.drive o := by
  refine Prod.ext rfl (Prod.ext rfl (Prod.ext rfl (Prod.ext rfl (Prod.ext rfl (funext fun b => ?_)))))
  show (if driving b = true then (s.setReg r v).reg b else 0) = if driving b = true then s.reg b else 0
  split
  · next near => exact State.reg_setReg_other s r b v fun e => absurd (e ▸ near) (by simp [h])
  · rfl

@[simp] theorem drive_setFld {r : Nat} (f : Fld) (x : Nat) (h : driving r = false) : (s.setFld r f x).drive o = s.drive o :=
  drive_setReg s o _ h

@[simp] theorem drive_setBit {r : Nat} (f : Fld) (b : Bool) (h : driving r = false) : (s.setBit r f b).drive o = s.drive o :=
  drive_setReg s o _ h

@[simp] theorem drive_count {r : Nat} (f : Fld) (h : driving r = false) : (s.count r f).drive o = s.drive o := drive_setReg s o _ h

@[simp] theorem drive_modPort (p : Fin 64) (f : Port → Port) : (s.modPort p f).drive o = s.drive o := (rfl)
@[simp] theorem drive_modPwm (p : Fin 64) (f : Pwm → Pwm) : (s.modPwm p f).drive o = s.drive o := (rfl)
@[simp] theorem drive_modGd (p : Fin 64) (f : GateDrive → GateDrive) : (s.modGd p f).drive o = s.drive o := (rfl)
@[simp] theorem drive_modLoop (p : Fin 64) (f : Loop → Loop) : (s.modLoop p f).drive o = s.drive o := (rfl)
@[simp] theorem drive_modLeg (p : Fin 64) (b : Bool) (f : LegGen → LegGen) : (s.modLeg p b f).drive o = s.drive o := (rfl)
@[simp] theorem drive_modEng (e : Fin 46) (f : Engine → Engine) : (s.modEng e f).drive o = s.drive o := (rfl)
@[simp] theorem drive_emit (x : Out) : (s.emit x).drive o = s.drive o := (rfl)

@[simp] theorem drive_record (k : RecKind) (sev kind idx : Nat) (params : List Nat) :
    (record k sev kind idx params s).drive o = s.drive o := (rfl)

@[simp] theorem drive_recordVar (k : RecKind) (sev kind idx : Nat) (words : List Nat) :
    (recordVar k sev kind idx words s).drive o = s.drive o := (rfl)

@[simp] theorem drive_ite (c : Prop) [Decidable c] (s t : State) :
    (if c then s else t).drive o = if c then s.drive o else t.drive o := apply_ite (State.drive · o) c s t

theorem drive_foldl {α : Type} (l : List α) (g : State → α → State) (h : ∀ s x, (g s x).drive o = s.drive o) :
    (l.foldl g s).drive o = s.drive o := by
  induction l generalizing s with
  | nil => rfl
  | cons x l ih => rw [List.foldl_cons, ih, h]

@[simp] theorem drive_raiseEvent (c : Fin 4) (b : EvBody) : (raiseEvent c b s).drive o = s.drive o := by
  have kept : Ok (keepBut [.regs, .cabs, .recorder, .out] s) (raiseEvent c b s) :=
    raiseEvent_ok c b s (keepBut_start _ s) (by simp [keepBut]) (by simp [keepBut]) (by simp [keepBut]) (by simp [keepBut])
  have axis : (raiseEvent c b s).axis o = s.axis o := by
    rw [State.axis, show (raiseEvent c b s).axes = s.axes from kept_part kept .axes (by decide), State.axis]
  have tiles : (raiseEvent c b s).tiles = s.tiles := kept_part kept .tiles (by decide)
  have regs : (raiseEvent c b s).beyond = s.beyond := beyond_raiseEvent ..
  simp only [State.drive, State.prof, State.gear, axis, tiles]
  refine congrArg (fun f => (_, _, _, _, _, f)) (funext fun r => ?_)
  show (if driving r = true then _ else _) = if driving r = true then _ else _
  split
  · next near =>
    refine reg_of_beyond regs fun low => ?_
    rw [driving_low (by omega)] at near
    exact Bool.false_ne_true near
  · rfl

/-! ## A port that settles and is protected -/

@[simp] theorem drive_raiseDevice (code sev time : Nat) (params : List Int) :
    (raiseDevice code sev time params s).drive o = s.drive o := by
  simp [raiseDevice, drive_foldl]

@[simp] theorem drive_setDevState (new cause : Nat) : (setDevState new cause s).drive o = s.drive o := by
  simp [setDevState]

@[simp] theorem drive_followPorts : (followPorts s).drive o = s.drive o := by
  simp [followPorts]

@[simp] theorem drive_selectMask (p : Fin 64) (x : Rat) (rank m : Nat) : (selectMask p x rank m s).drive o = s.drive o := by
  simp [selectMask]

@[simp] theorem drive_trimRefresh (p : Fin 64) : (trimRefresh p s).drive o = s.drive o := by
  simp [trimRefresh, drive_foldl]

@[simp] theorem drive_followRefreshing (p : Fin 64) : (followRefreshing p s).drive o = s.drive o := by
  simp [followRefreshing]

@[simp] theorem drive_insertPulse (p : Fin 64) (v : Nat) (l : Fin 2) : (insertPulse p v s l).drive o = s.drive o := by
  cases h : (s.gd p).refreshAt[l] <;> simp [insertPulse, h]

@[simp] theorem drive_pinValley (p : Fin 64) (v : Nat) : (pinValley p v s).drive o = s.drive o := by
  simp [pinValley]

@[simp] theorem drive_setCarry (p : Fin 64) (b : Bool) (c : Nat) : (s.setCarry p b c).drive o = s.drive o := by
  simp [State.setCarry]

@[simp] theorem drive_noteClamp (p : Fin 64) : (noteClamp p s).drive o = s.drive o := by
  simp [noteClamp]

@[simp] theorem drive_decidePulse (p : Fin 64) (b : Bool) (r : Planned) : (decidePulse p b r s).drive o = s.drive o := by
  simp [decidePulse]

@[simp] theorem drive_decideLeg (p : Fin 64) (b : Bool) (z : Rat) (l : List Planned) :
    (decideLeg p b z l s).drive o = s.drive o := by
  induction l generalizing s with
  | nil => simp [decideLeg]
  | cons r rs ih => simp [decideLeg, ih]

@[simp] theorem drive_walkPins (p : Fin 64) (z : Rat) : (walkPins p z s).drive o = s.drive o := by
  simp [walkPins]

@[simp] theorem drive_settlePins (p : Fin 64) (z : Rat) : (settlePins p z s).drive o = s.drive o := by
  cases h : (s.pwm p).valleyAt <;> simp [settlePins, h]

theorem drive_pinChangeAt (p : Fin 64) (soft : Bool) (y : Rat) (f : State → State) (hf : ∀ s, (f s).drive o = s.drive o) :
    (pinChangeAt p soft y f s).drive o = s.drive o := by
  simp [pinChangeAt, movePins, hf]

@[simp] theorem drive_setPortState (p : Fin 64) (x : Nat) : (s.setPortState p x).drive o = s.drive o := by
  simp [State.setPortState]

@[simp] theorem drive_unpower (p : Fin 64) : (unpower p s).drive o = s.drive o := by
  simp [unpower]

@[simp] theorem drive_leaveRun (p : Fin 64) : (leaveRun p s).drive o = s.drive o := by
  simp [leaveRun]

@[simp] theorem drive_movePort (p : Fin 64) (x : Nat) : (movePort p x s).drive o = s.drive o := by
  simp [movePort]

@[simp] theorem drive_followPartner (p : Fin 64) (x : Nat) (loopRan : Bool) (y : Rat) :
    (followPartner p x loopRan y s).drive o = s.drive o := by
  cases h : s.partner p <;> simp [followPartner, drive_pinChangeAt, h]

@[simp] theorem drive_protectPort (p : Fin 64) : (protectPort p s).drive o = s.drive o := by
  simp [protectPort, State.enterPort, State.enterPortBy, pinChange, drive_pinChangeAt]

@[simp] theorem drive_latchEvent (e : Fin 46) (bit param : Nat) : (latchEvent e bit param s).drive o = s.drive o := by
  simp [latchEvent]

/-! ## A fault is raised -/

/-- An axis updated in its episode. -/
@[simp] theorem drive_modEpisode (a : Fin 32) (f : Axis → Episode) :
    (s.modAxis a fun x => { x with ep := f x }).drive o = s.drive o := by
  by_cases h : a = o
  · subst h
    simp [State.drive, State.prof, State.gear]
  · simp [State.drive, State.prof, State.gear, State.axis_modAxis_other _ _ _ _ h]

/-- A fault drives no axis: it opens or joins an episode, and protects ports. -/
theorem drive_raiseFault (cls : Nat) (sc : FaultScope) (detail : Nat) (a : Fin 32) :
    (raiseFault cls sc detail a s).drive o = s.drive o := by
  simp [raiseFault, raiseFaultRx]

end

end Sys2Proof.Machine
end

section
/-! SUPPORT. O19: gearing does alike in states with the same axes: what it takes up, gives up and comes to at a sample (R72–R83). -/

namespace Sys2Proof.Machine

@[simp] theorem gear_range (a : Fin 32) : 0x44000 ≤ GR_CFG a ∧ 0x44000 ≤ GR_STAT a ∧ 0x44000 ≤ GR_NUM a ∧ 0x44000 ≤ GR_DEN a ∧
    0x44000 ≤ GR_LAG a ∧ 0x44000 ≤ GR_LAGPEAK a ∧ 0x44000 ≤ GR_CATCHUP_LO a ∧ 0x44000 ≤ GR_LAGWARN a ∧ 0x44000 ≤ GR_LAGMAX a ∧
    0x44000 ≤ GR_CNT a := by
  simp only [GR_CFG, GR_STAT, GR_NUM, GR_DEN, GR_LAG, GR_LAGPEAK, GR_CATCHUP_LO, GR_LAGWARN, GR_LAGMAX, GR_CNT]
  omega

/-! ## Reads and updates -/

section
variable {s t : State} (h : SameMotion s t) (a : Fin 32)
include h

theorem SameMotion.gear : t.gear a = s.gear a := by rw [State.gear, h.axis, State.gear]

theorem SameMotion.axB : t.axB a = s.axB a := by rw [State.axB, State.boundary, h.tile, State.axB, State.boundary]

theorem SameMotion.axT : t.axT a = s.axT a := by rw [State.axT, State.period, h.fld (by simp), State.axT, State.period]

theorem SameMotion.kinB : t.kinB a = s.kinB a := by
  simp only [State.kinB, State.kinSample, State.kinSampleAt, h.axB, h.gear, State.sf, h.prof, h.axState, h.axis]

theorem SameMotion.baseOf : t.baseOf a = s.baseOf a := by
  simp only [State.baseOf, State.downB, h.kinB, h.prof, h.axState, h.axB, h.bit (r := MP_STAT a) (by simp),
    h.fld (r := MP_CNT a) (by simp)]

theorem SameMotion.modGear (f : Gear → Gear) : SameMotion (s.modGear a f) (t.modGear a f) := by
  refine ⟨?_, h.tiles, h.reg⟩
  show t.axes.set a.1 _ = s.axes.set a.1 _
  rw [h.axes, h.axis]

theorem SameMotion.setFldI {r : Nat} (hr : 0x44000 ≤ r) (f : Fld) (x : Int) : SameMotion (s.setFldI r f x) (t.setFldI r f x) :=
  h.setFld hr f _

theorem SameMotion.peak {r : Nat} (hr : 0x44000 ≤ r) (f : Fld) (x : Nat) : SameMotion (s.peak r f x) (t.peak r f x) := by
  unfold State.peak
  rw [h.fld hr]
  split
  · exact h.setFld hr f _
  · exact h

theorem SameMotion.layPlan (x : Rat) (l : List Seg) : SameMotion (layPlan a x l s) (layPlan a x l t) := h.modProf a _

theorem SameMotion.keepBase : SameMotion (keepBase a s) (keepBase a t) := by
  unfold Machine.keepBase
  rw [h.baseOf]
  exact h.modProf a _

/-- Events of an axis, whatever they carry, are seen by no axis. -/
theorem SameMotion.raiseAxis {code sev tag code' sev' tag' : Nat} {time time' : Nat} {params params' : List Int} :
    SameMotion (raiseAxis a code sev tag time params s) (raiseAxis a code' sev' tag' time' params' t) :=
  h.between (sameMotion_raiseAxis ..) (sameMotion_raiseAxis ..)

theorem SameMotion.axisEvent {bit bit' : Nat} {param param' : Int} :
    SameMotion (axisEvent a bit param s) (axisEvent a bit' param' t) :=
  h.between (sameMotion_axisEvent ..) (sameMotion_axisEvent ..)

/-- An event that is raised only where a condition holds. -/
theorem SameMotion.mayRaise (c : Prop) [Decidable c] {code sev tag : Nat} {time time' : Nat} {params params' : List Int} :
    SameMotion (if c then Machine.raiseAxis a code sev tag time params s else s)
      (if c then Machine.raiseAxis a code sev tag time' params' t else t) := by
  split
  · exact h.raiseAxis a
  · exact h

theorem SameMotion.ite {s' t' : State} (h' : SameMotion s' t') (c : Prop) [Decidable c] :
    SameMotion (if c then s else s') (if c then t else t') := by
  split
  · exact h
  · exact h'

end

/-! ## Gearing is given up (R81) -/

/-- An entry flushed reports its end, whatever the instant. -/
def reportFlushed (a : Fin 32) (s : State) (e : ArmEntry) : State :=
  axisEvent a 11 e.a (raiseAxis a 0x0203 0 e.tag s.now [stFLUSHED, e.a, s.flushAt a] s)

theorem SameMotion.reportAll {s t : State} (h : SameMotion s t) (a : Fin 32) (l : List ArmEntry) :
    SameMotion (l.foldl (reportFlushed a) s) (l.foldl (reportFlushed a) t) := by
  induction l generalizing s t with
  | nil => exact h
  | cons e l ih => exact ih ((h.raiseAxis a).axisEvent a)

section
variable {s t : State} (h : SameMotion s t) (a : Fin 32)

include h

theorem SameMotion.flushArmed : SameMotion (flushArmed a s) (flushArmed a t) := by
  unfold Machine.flushArmed
  rw [h.gear]
  exact SameMotion.setFld ((h.modGear a _).reportAll a _) (by simp) _ _

theorem SameMotion.cancelRelease : SameMotion (cancelRelease a s) (cancelRelease a t) := by
  unfold Machine.cancelRelease
  rw [h.gear]
  cases (s.gear a).relPend with
  | none => exact h
  | some r => exact ((h.modGear a _).setBit (by simp) _ _).raiseAxis a

theorem SameMotion.leaveGear : SameMotion (leaveGear a s) (leaveGear a t) := by
  unfold Machine.leaveGear
  have given := (h.flushArmed a).cancelRelease a
  exact (((given.setBit (by simp) _ _).setBit (by simp) _ _).setBit (by simp) _ _).modGear a _

end

/-- Gearing is given up for a release: the state of the boundary is kept, the request is taken off, and the entries are flushed (R81). -/
def unmesh (a : Fin 32) (s : State) : State :=
  leaveGear a (((keepBase a s).modGear a fun x => { x with relPend := none }).setBit (GR_STAT a) GR_STAT_REL_PEND false)

/-- The axis goes on without gearing from the exact state at the last boundary: it stands, or keeps its velocity, or ramps to rest
(R81). -/
def coastOff (a : Fin 32) (halt : Bool) (s : State) : State :=
  let k := s.kinB a
  let l := (s.bankOf a).limits
  let c : Rat := if halt then 0 else k.v
  let z := unmesh a s
  if k.v = 0 then (layPlan a (s.axB a) (restAt (s.axB a) k.p) (z.modProf a fun x => { x with stopKind := .none })).setAxState a axSTANDSTILL
  else
    (layPlan a (s.axB a) (planVelocity (s.axB a) k c (z.aEff a l) (q16 (z.dEff a l)) (q16 l.j))
      (z.modProf a fun x => { x with lim := l, velTarget := c, stopKind := .none })).setAxState a axVELOCITY

theorem release_eq (a : Fin 32) (r : RelReq) (land : Nat) (s : State) : release a r land s =
    if r.event then
      raiseAxis a 0x0202 0 r.tag (coastOff a r.halt s).now [stDONE, land, roundHalfAway ((s.kinB a).v * 65536)] (coastOff a r.halt s)
    else coastOff a r.halt s := rfl

section
variable {s t : State} (h : SameMotion s t) (a : Fin 32)
include h

theorem SameMotion.unmesh : SameMotion (unmesh a s) (unmesh a t) :=
  (((h.keepBase a).modGear a _).setBit (by simp) _ _).leaveGear a

theorem SameMotion.coastOff (halt : Bool) : SameMotion (coastOff a halt s) (coastOff a halt t) := by
  have left := h.unmesh a
  obtain ⟨bank, -⟩ := h.limits a Limits.zero
  obtain ⟨-, -, acc, dec, -⟩ := left.limits a (s.bankOf a).limits
  unfold Machine.coastOff
  dsimp only
  rw [h.kinB, h.axB, bank, acc, dec]
  split
  · exact ((left.modProf a _).layPlan a _ _).setAxState a _
  · exact ((left.modProf a _).layPlan a _ _).setAxState a _

theorem SameMotion.release (r : RelReq) (x : Nat) : SameMotion (release a r x s) (release a r x t) := by
  rw [release_eq, release_eq]
  exact (h.coastOff a _).mayRaise a _

/-! ## Armed entries are taken (R75–R78) -/

theorem SameMotion.showLaw : SameMotion (showLaw a s) (showLaw a t) := by
  unfold Machine.showLaw
  rw [h.gear]
  exact ((((h.setFldI (by simp) _ _).setFld (by simp) _ _).setFld (by simp) _ _).setFld (by simp) _ _).setBit (by simp) _ _

theorem SameMotion.showArmed : SameMotion (showArmed a s) (showArmed a t) := by
  unfold Machine.showArmed
  rw [h.gear]
  exact h.setFld (by simp) _ _

theorem SameMotion.takeEntry (e : ArmEntry) (rest : List ArmEntry) (x : Nat) :
    SameMotion (takeEntry a e rest x s) (takeEntry a e rest x t) := by
  unfold Machine.takeEntry
  dsimp only
  rw [h.gear]
  have taken := ((((h.modGear a fun y => if e.blend = 0 then
      { y with queue := rest, law := ⟨e.num, e.den, e.a, (s.gear a).lawAt e.a + e.dOfs⟩ }
    else { y with queue := rest, blend := some ⟨e, (s.gear a).lawAt e.a⟩ }).count (r := GR_CNT a) (by simp)
    GR_CNT_TAKEN).showArmed a).showLaw a).axisEvent a (bit := 11) (bit' := 11) (param := e.a) (param' := e.a)
  rw [taken.bit (by simp)]
  exact taken.mayRaise a _

theorem SameMotion.completeBlend (b : BlendRun) (x : Nat) : SameMotion (completeBlend a b x s) (completeBlend a b x t) := by
  unfold Machine.completeBlend
  dsimp only
  rw [h.gear]
  exact (((h.modGear a _).showLaw a).axisEvent a).mayRaise a _

theorem SameMotion.blendOut (m : Int) (x : Nat) : SameMotion (blendOut a m x s).1 (blendOut a m x t).1 ∧
    (blendOut a m x t).2 = (blendOut a m x s).2 := by
  unfold Machine.blendOut
  rw [h.gear]
  cases (s.gear a).blend with
  | none => exact ⟨h, rfl⟩
  | some b =>
    dsimp only
    split
    · exact ⟨h.completeBlend a b x, rfl⟩
    · exact ⟨h, rfl⟩

end

theorem SameMotion.takeEntries {s t : State} (h : SameMotion s t) (a : Fin 32) (m : Int) (x n : Nat) (frm : Int) (incl : Bool) :
    SameMotion (takeEntries a m x n frm incl s) (takeEntries a m x n frm incl t) := by
  induction n generalizing s t frm incl with
  | zero => exact h
  | succ n ih =>
    obtain ⟨out, resume⟩ := h.blendOut a m x
    unfold Machine.takeEntries
    rw [h.gear]
    cases running : (s.gear a).blend with
    | some b =>
      simp only [running]
      rcases e : Machine.blendOut a m x s with ⟨z, _ | y⟩ <;> rcases e' : Machine.blendOut a m x t with ⟨z', _ | y'⟩ <;>
        simp only [e, e', reduceCtorEq, Option.some.injEq] at out resume
      · exact out
      · subst resume
        exact ih out _ _
    | none =>
      simp only [running]
      cases (s.gear a).queue with
      | nil => exact h
      | cons e rest =>
        dsimp only
        split
        · exact ih (h.takeEntry a e rest x) _ _
        · exact h

/-! ## A sample begins (R82, R83) -/

section
variable {s t : State} (h : SameMotion s t) (a : Fin 32)
include h

theorem SameMotion.coastOn (m : Master) (x : Nat) : SameMotion (coastOn a m x s) (coastOn a m x t) := by
  unfold Machine.coastOn
  split
  · exact h
  · exact (h.setBit (by simp) _ _).modGear a _

theorem SameMotion.resync (m : Master) (x : Nat) : SameMotion (resync a m x s) (resync a m x t) := by
  have fresh := (h.setBit (r := GR_STAT a) (by simp) GR_STAT_COAST false).modGear a fun x => { x with coastFrom := none, lost := false }
  unfold Machine.resync
  dsimp only
  rw [h.gear, fresh.bit (by simp)]
  cases m.coast with
  | none => exact fresh
  | some c =>
    dsimp only
    split
    · have moved := SameMotion.modGear fresh a fun x => match x.blend with
        | some b => { x with blend := some { b with ga := b.ga + ((s.gear a).lawAt c - (s.gear a).lawAt m.m) } }
        | none => { x with law := { x.law with offset := x.law.offset + ((s.gear a).lawAt c - (s.gear a).lawAt m.m) } }
      exact (moved.between (sameMotion_record ..) (sameMotion_record ..)).raiseAxis a
    · exact fresh

theorem SameMotion.releaseDue (frm m : Int) : t.releaseDue a frm m = s.releaseDue a frm m := by
  rw [State.releaseDue, h.gear, State.releaseDue]

end

end Sys2Proof.Machine
end

section
/-! SUPPORT. O19: the commanded position that a sample comes to, and the state it leaves the axis in, in states with the same axes: a fault
that the sample raises, and the ports it protects, are seen by neither (R71, R79–R83). -/

namespace Sys2Proof.Machine

/-- The state of an axis and its commanded position as a sample shows them. -/
def State.shown (s : State) (a : Fin 32) : Nat × Int := (s.axState a, s.pairI (MP_CMD_POS_LO a))

theorem SameMotion.shown {s t : State} (h : SameMotion s t) (a : Fin 32) : t.shown a = s.shown a := by
  rw [State.shown, h.axState, h.pairI (by simp only [MP_CMD_POS_LO]; omega), State.shown]

/-! ## States with the same drive -/

theorem drive_of_motion {s t : State} (h : SameMotion s t) (a : Fin 32) : t.drive a = s.drive a := by
  simp only [State.drive, h.prof, h.gear, h.axis, h.tiles]
  refine congrArg (fun f => (_, _, _, _, _, f)) (funext fun r => ?_)
  split
  · next near =>
    rw [driving_iff] at near
    exact h.reg r (by omega)
  · rfl

theorem driving_motion (a : Fin 32) : driving (MP_STAT a) = true ∧ driving (MP_CTRL a) = true ∧
    driving (MP_ALIM_LO a) = true ∧ driving (MP_ALIM_LO a + 4) = true ∧ driving (MP_EMERG_LO a) = true ∧
    driving (MP_EMERG_LO a + 4) = true ∧ driving (MP_SLIM_NEG_LO a) = true ∧ driving (MP_SLIM_NEG_LO a + 4) = true ∧
    driving (MP_SLIM_POS_LO a) = true ∧ driving (MP_SLIM_POS_LO a + 4) = true ∧
    driving (LT_TILE_MODE (tileOf a)) = true := by
  simp only [driving_iff, MP_STAT, MP_CTRL, MP_ALIM_LO, MP_EMERG_LO, MP_SLIM_NEG_LO, MP_SLIM_POS_LO, LT_TILE_MODE]
  omega

section
variable {s t : State} {a : Fin 32} (h : t.drive a = s.drive a)
include h

theorem drive_setReg_congr (r : Nat) (v : Word) : (t.setReg r v).drive a = (s.setReg r v).drive a := by
  have parts : (t.prof a, t.gear a, (t.axis a).home, (t.axis a).bank, t.tiles) =
      (s.prof a, s.gear a, (s.axis a).home, (s.axis a).bank, s.tiles) :=
    congrArg (fun d => (d.1, d.2.1, d.2.2.1, d.2.2.2.1, d.2.2.2.2.1)) h
  simp only [Prod.mk.injEq] at parts
  obtain ⟨prof, gear, home, bank, tiles⟩ := parts
  refine Prod.ext prof (Prod.ext gear (Prod.ext home (Prod.ext bank (Prod.ext tiles (funext fun b => ?_)))))
  show (if driving b = true then _ else _) = if driving b = true then _ else _
  split
  · next near => rw [State.reg_setReg, State.reg_setReg, reg_of_drive h near]
  · rfl

theorem fld_of_drive {r : Nat} (hr : driving r = true) (f : Fld) : t.fld r f = s.fld r f := by
  rw [State.fld, reg_of_drive h hr, State.fld]

theorem pair_of_drive {r : Nat} (hr : driving r = true) (hr' : driving (r + 4) = true) : t.pair r = s.pair r := by
  rw [State.pair, reg_of_drive h hr, reg_of_drive h hr', State.pair]

theorem axState_of_drive : t.axState a = s.axState a := fld_of_drive h (driving_motion a).1 _

/-- The limits that the soft-limit watch reads (R69). -/
theorem limits_of_drive (l : Limits) : t.bankOf a = s.bankOf a ∧ t.dEff a l = s.dEff a l ∧ t.softOn a = s.softOn a ∧
    t.softNeg a = s.softNeg a ∧ t.softPos a = s.softPos a := by
  obtain ⟨stat, ctrl, alim, alim', emerg, emerg', neg, neg', pos, pos', mode⟩ := driving_motion a
  have home : (t.axis a).home = (s.axis a).home := congrArg (·.2.2.1) h
  have bank : (t.axis a).bank = (s.axis a).bank := congrArg (·.2.2.2.1) h
  refine ⟨?_, ?_, ?_, ?_, ?_⟩
  · rw [State.bankOf, State.bankNo, bank, fld_of_drive h mode, State.bankOf, State.bankNo]
  · rw [State.dEff, State.aCap, pair_of_drive h alim alim', pair_of_drive h emerg emerg', State.dEff, State.aCap]
  · rw [State.softOn, State.bit, State.homing, home, fld_of_drive h ctrl, State.softOn, State.bit, State.homing]
  · rw [State.softNeg, State.pairI, pair_of_drive h neg neg', State.softNeg, State.pairI]
  · rw [State.softPos, State.pairI, pair_of_drive h pos pos', State.softPos, State.pairI]

theorem drive_setBit_congr {r : Nat} (hr : driving r = true) (f : Fld) (b : Bool) :
    (t.setBit r f b).drive a = (s.setBit r f b).drive a := by
  rw [State.setBit, State.setFld, reg_of_drive h hr, State.setBit, State.setFld]
  exact drive_setReg_congr h _ _

theorem drive_showKin (k : Kin) : (showKin a k t).drive a = (showKin a k s).drive a := by
  have pair {s t : State} (h : t.drive a = s.drive a) (lo : Nat) (x : Int) : (t.setPair lo x).drive a = (s.setPair lo x).drive a :=
    drive_setReg_congr (drive_setReg_congr h _ _) _ _
  exact drive_setBit_congr (pair (pair (pair h _ _) _ _) _ _) (driving_motion a).1 _ _

end

/-! ## The soft-limit watch (R69) -/

section
variable (s : State) (a : Fin 32)

theorem softStop_axState (t : Rat) (k : Kin) (pos : Bool) (limit : Int) : (softStop a t k pos limit s).axState a = axSTOPPING := by
  unfold softStop noteSoft
  dsimp only
  rw [(sameMotion_raiseAxis ..).axState, (sameMotion_record ..).axState]
  exact axState_setAxState _ a axSTOPPING (by decide)

/-- The registers of the commanded position. -/
theorem position_apart (a : Fin 32) : aside a (MP_CMD_POS_LO a) = false ∧ aside a (MP_CMD_POS_LO a + 4) = false := by
  simp only [← Bool.not_eq_true, aside_iff, MP_CMD_POS_LO, GR_STAT, SF_STAT, SF_HOME_STAT, MP_FLT_STAT]
  omega

theorem softStop_reg (t : Rat) (k : Kin) (pos : Bool) (limit : Int) {r : Nat} (hr : aside a r = false) (stat : MP_STAT a ≠ r)
    (cnt : MP_CNT a ≠ r) : (softStop a t k pos limit s).reg r = s.reg r := by
  have noted (d o : Nat) : (noteRaised a d o s).reg r = s.reg r := by
    rw [noteRaised, recordRaised, record_reg, State.count, State.countN, State.reg_setFld_far _ _ _ _ _ cnt, State.setBit,
      State.reg_setFld_far _ _ _ _ _ stat]
  have far : ¬ r < 0x44000 := fun low => by simp [aside, low] at hr
  have left (z : State) : (leaveFollowing a z).reg r = z.reg r := reg_of_course (course_leaveFollowing z a) hr
  unfold softStop noteSoft
  dsimp only
  rw [(sameMotion_raiseAxis ..).reg r (by omega), record_reg, State.setAxState, State.reg_setFld_far _ _ _ _ _ stat]
  simp only [layPlan, State.modProf, State.reg_modAxis, left]
  split
  · split
    · exact noted _ _
    · rfl
  · rfl

theorem softWatch_pairI (t : Rat) (k : Kin) : (softWatch a t k s).pairI (MP_CMD_POS_LO a) = s.pairI (MP_CMD_POS_LO a) := by
  obtain ⟨pos, pos', -⟩ := position_pairs a
  obtain ⟨low, high⟩ := position_apart a
  have cnt : MP_CNT a ≠ MP_CMD_POS_LO a ∧ MP_CNT a ≠ MP_CMD_POS_LO a + 4 := by
    simp only [MP_CNT, MP_CMD_POS_LO]
    omega
  have stopped (b : Bool) (limit : Int) (k : Kin) :
      (softStop a t k b limit s).pairI (MP_CMD_POS_LO a) = s.pairI (MP_CMD_POS_LO a) := by
    rw [State.pairI, State.pair, softStop_reg s a t k b limit low pos.symm cnt.1, softStop_reg s a t k b limit high pos'.symm cnt.2]
    rfl
  unfold softWatch
  dsimp only
  split_ifs
  · exact stopped ..
  · exact stopped ..
  · rfl
  · rfl

end

theorem softWatch_axState {s t : State} {a : Fin 32} (h : t.drive a = s.drive a) (x : Rat) (k : Kin) :
    (softWatch a x k t).axState a = (softWatch a x k s).axState a := by
  obtain ⟨bank, -, on, neg, pos⟩ := limits_of_drive h Limits.zero
  obtain ⟨-, dec, -⟩ := limits_of_drive h (s.bankOf a).limits
  have state := axState_of_drive h
  unfold softWatch
  dsimp only
  rw [state, on, bank, dec, neg, pos]
  simp only [apply_ite (State.axState · a), softStop_axState, state]

/-! ## A profile sample (R49) -/

section
variable (s : State) (a : Fin 32) (k : Kin)

theorem pairI_setReg_far {r lo : Nat} (v : Word) (low : r ≠ lo) (high : r ≠ lo + 4) : (s.setReg r v).pairI lo = s.pairI lo := by
  rw [State.pairI, State.pair, State.reg_setReg_other _ _ _ _ low, State.reg_setReg_other _ _ _ _ high]
  rfl

theorem showKin_pairI : (showKin a k s).pairI (MP_CMD_POS_LO a) = signedOf 64 (toBits 64 (roundHalfAway k.p)) := by
  obtain ⟨pos, pos', -⟩ := position_pairs a
  have apart : MP_CMD_VEL_LO a ≠ MP_CMD_POS_LO a ∧ MP_CMD_VEL_LO a ≠ MP_CMD_POS_LO a + 4 ∧
      MP_CMD_VEL_LO a + 4 ≠ MP_CMD_POS_LO a ∧ MP_CMD_VEL_LO a + 4 ≠ MP_CMD_POS_LO a + 4 ∧ MP_CMD_ACC_LO a ≠ MP_CMD_POS_LO a ∧
      MP_CMD_ACC_LO a ≠ MP_CMD_POS_LO a + 4 ∧ MP_CMD_ACC_LO a + 4 ≠ MP_CMD_POS_LO a ∧
      MP_CMD_ACC_LO a + 4 ≠ MP_CMD_POS_LO a + 4 := by
    simp only [MP_CMD_VEL_LO, MP_CMD_POS_LO, MP_CMD_ACC_LO]
    omega
  obtain ⟨vel, vel4, velHi, velHi4, acc, acc4, accHi, accHi4⟩ := apart
  unfold showKin
  dsimp only
  rw [State.setBit, State.setFld, pairI_setReg_far _ _ pos.symm pos'.symm, State.setPair, pairI_setReg_far _ _ accHi accHi4,
    pairI_setReg_far _ _ acc acc4, State.setPair, pairI_setReg_far _ _ velHi velHi4, pairI_setReg_far _ _ vel vel4,
    pairI_setPair_same]

theorem showKin_axState : (showKin a k s).axState a = s.axState a := by
  obtain ⟨pos, pos', -⟩ := position_pairs a
  have apart : MP_CMD_VEL_LO a ≠ MP_STAT a ∧ MP_CMD_VEL_LO a + 4 ≠ MP_STAT a ∧ MP_CMD_ACC_LO a ≠ MP_STAT a ∧
      MP_CMD_ACC_LO a + 4 ≠ MP_STAT a := by
    simp only [MP_CMD_VEL_LO, MP_CMD_ACC_LO, MP_STAT]
    omega
  obtain ⟨vel, vel', acc, acc'⟩ := apart
  unfold showKin
  dsimp only
  rw [axState_setBit _ a _ _ (by decide) (by decide), axState_setPair _ a _ acc acc', axState_setPair _ a _ vel vel',
    axState_setPair _ a _ pos pos']

/-- The last steps of a sample of the profile leave the state and the position shown. -/
theorem followSoft_shown (p : Rat) : (followSoft a p (followQueue a s)).shown a = s.shown a := by
  obtain ⟨pos, pos', -⟩ := position_pairs a
  have queue : (followQueue a s).shown a = s.shown a := by
    rw [State.shown, followQueue_axState]
    unfold followQueue
    rw [State.setBit, State.setFld, pairI_setReg_far _ _ pos.symm pos'.symm, State.setFld, pairI_setReg_far _ _ pos.symm pos'.symm]
    rfl
  unfold followSoft
  dsimp only
  split_ifs
  · rw [State.shown, axState_setBit _ a _ _ (by decide) (by decide), State.setBit, State.setFld,
      pairI_setReg_far _ _ pos.symm pos'.symm]
    exact queue
  · exact queue

end

theorem SameMotion.sampleProfile {s t : State} (h : SameMotion s t) (a : Fin 32) (x : Nat) :
    (sampleProfile a x t).shown a = (sampleProfile a x s).shown a := by
  have carried := h.progress a x 24
  unfold Machine.sampleProfile
  dsimp only
  rw [followSoft_shown, followSoft_shown, State.shown, State.shown, showKin_axState, showKin_axState, showKin_pairI, showKin_pairI,
    carried.prof, softWatch_axState (drive_of_motion carried a)]

/-! ## A geared sample (R79, R80, R83) -/

/-- What the limiter makes of a geared sample at a master value (R79). -/
def State.gearLimited (s : State) (a : Fin 32) (m : Int) : Limited :=
  let s := rebaseLaw a m s
  let g := s.gear a
  let l := (s.bankOf a).limits
  limiter (roundHalfAway (g.lawAt m)) g.gPrev g.pPrev g.uPrev ((s.axT a : Rat) / 1000000) (q16 (s.pair (GR_CATCHUP_LO a))) (s.aEff a l)
    (q16 (s.vEff a l))

/-- The commanded state of a geared sample. -/
def State.gearKin (s : State) (a : Fin 32) (m : Int) : Kin :=
  let o := s.gearLimited a m
  ⟨o.p, o.u, (o.u - ((rebaseLaw a m s).gear a).uPrev) / (((rebaseLaw a m s).axT a : Rat) / 1000000)⟩

/-- A geared sample with its checks made and its position not yet shown. -/
def gearChecked (a : Fin 32) (m : Int) (t : Nat) (s : State) : State :=
  let o := s.gearLimited a m
  let k := s.gearKin a m
  let s := rebaseLaw a m s
  let g := s.gear a
  let gN := roundHalfAway (g.lawAt m)
  let s := layPlan a (s.axB a)
    [⟨s.axB a, none, g.pPrev, ((o.p - g.pPrev : Int) : Rat) / ((s.axT a : Rat) / 1000000), 0, 0, .cruise⟩] s
  let s := s.modGear a fun x => { x with gPrev := gN, pPrev := o.p, uPrev := o.u, acc := k.a, smpAt := t }
  let s := s.setPair (GR_MPOS_LO a) m
  lagChecks a (gN - o.p) t (noteLimited a o.locked (gN - o.p) t s)

/-- The lag shown and its warning (R80). -/
def lagShown (a : Fin 32) (lag : Int) (t : Nat) (s : State) : State :=
  let s := (s.setFldI (GR_LAG a) GR_LAG_LAG (sat31 lag)).peak (GR_LAGPEAK a) GR_LAGPEAK_PEAK lag.natAbs
  let warn := decide (s.fld (GR_LAGWARN a) GR_LAGWARN_WARN < lag.natAbs)
  let s := if warn ∧ !s.bit (GR_STAT a) GR_STAT_LAG_WARN then raiseAxis a 0x0207 1 0 s.now [stDONE, t, lag] s else s
  s.setBit (GR_STAT a) GR_STAT_LAG_WARN warn

theorem lagChecks_eq (a : Fin 32) (lag : Int) (t : Nat) (s : State) : lagChecks a lag t s =
    let s := lagShown a lag t s
    let far := decide (s.fld (GR_LAGMAX a) GR_LAGMAX_MAX < lag.natAbs)
    let z := s.modGear a fun x => { x with lagOver := far }
    if far ∧ !(s.gear a).lagOver then raiseFault 4 ⟨2, a⟩ (toBits 32 (sat31 lag)) a z else z := rfl

theorem gearOutput_eq (a : Fin 32) (m : Int) (t : Nat) (s : State) : gearOutput a m t s =
    softWatch a t (s.gearKin a m) (showKin a { s.gearKin a m with p := wrapPos (s.gearKin a m).p } (gearChecked a m t s)) := rfl

section
variable {s t : State} (h : SameMotion s t) (a : Fin 32)
include h

theorem SameMotion.rebaseLaw (m : Int) : SameMotion (rebaseLaw a m s) (rebaseLaw a m t) := h.modGear a _

theorem SameMotion.gearLimited (m : Int) : t.gearLimited a m = s.gearLimited a m := by
  have based := h.rebaseLaw a m
  obtain ⟨bank, -⟩ := based.limits a Limits.zero
  obtain ⟨-, vel, acc, -⟩ := based.limits a ((Machine.rebaseLaw a m s).bankOf a).limits
  unfold State.gearLimited
  dsimp only
  rw [based.gear, based.axT, based.pair (by simp), bank, vel, acc]

theorem SameMotion.gearKin (m : Int) : t.gearKin a m = s.gearKin a m := by
  have based := h.rebaseLaw a m
  rw [State.gearKin, State.gearKin, h.gearLimited, based.gear, based.axT]

theorem SameMotion.noteLimited (locked : Bool) (lag : Int) (x : Nat) :
    SameMotion (noteLimited a locked lag x s) (noteLimited a locked lag x t) := by
  unfold Machine.noteLimited
  dsimp only
  rw [h.gear, h.bit (by simp)]
  split
  · exact ((h.setBit (by simp) _ _).mayRaise a _).modGear a _
  · exact (((h.setBit (by simp) _ _).count (by simp) _).mayRaise a _).modGear a _

theorem SameMotion.lagShown (lag : Int) (x : Nat) : SameMotion (lagShown a lag x s) (lagShown a lag x t) := by
  have peak := (h.setFldI (r := GR_LAG a) (by simp) GR_LAG_LAG (sat31 lag)).peak (r := GR_LAGPEAK a) (by simp) GR_LAGPEAK_PEAK
    lag.natAbs
  unfold Machine.lagShown
  dsimp only
  rw [peak.fld (r := GR_LAGWARN a) (by simp), peak.bit (r := GR_STAT a) (by simp)]
  exact (peak.mayRaise a _).setBit (by simp) _ _

/-- The lag checks drive the axis alike, whatever a fault finds (R80). -/
theorem SameMotion.lagChecks (lag : Int) (x : Nat) : (lagChecks a lag x t).drive a = (lagChecks a lag x s).drive a := by
  have shown := h.lagShown a lag x
  rw [lagChecks_eq, lagChecks_eq]
  dsimp only
  rw [shown.fld (by simp), shown.gear]
  simp only [drive_ite, drive_raiseFault, ite_self]
  exact drive_of_motion (shown.modGear a _) a

theorem SameMotion.gearChecked (m : Int) (x : Nat) : (gearChecked a m x t).drive a = (gearChecked a m x s).drive a := by
  have based := h.rebaseLaw a m
  unfold Machine.gearChecked
  dsimp only
  rw [h.gearLimited, h.gearKin, based.gear, based.axT, based.axB]
  exact ((((based.layPlan a _ _).modGear a _).setPair _ _).noteLimited a _ _ x).lagChecks a _ x

theorem SameMotion.gearOutput (m : Int) (x : Nat) : (gearOutput a m x t).shown a = (gearOutput a m x s).shown a := by
  have drive := drive_showKin (h.gearChecked a m x) { s.gearKin a m with p := wrapPos (s.gearKin a m).p }
  rw [gearOutput_eq, gearOutput_eq, h.gearKin, State.shown, State.shown, softWatch_pairI, softWatch_pairI, showKin_pairI, showKin_pairI,
    softWatch_axState drive]

end

/-! ## A sample of gearing, and of an engagement that waits (R74, R83) -/

/-- The gearing that an engagement lands with, from a position at a boundary (R74). -/
def engagedGear (r : EngReq) (mref offset m : Int) (gen : Nat) (p : Int) (b : Nat) (x : Gear) : Gear :=
  { x with
    engPend := none, kind := r.kind, idx := r.idx, law := ⟨r.num, r.den, mref, offset⟩, blend := none, mFresh := m
    gPrev := p, pPrev := p, uPrev := 0, acc := 0, smpAt := b, limited := false, lagMax := 0
    lagOver := false, coastFrom := none, lost := false, seen := gen }

/-- An axis as an engagement leaves it (R74). -/
def meshed (a : Fin 32) (r : EngReq) (mref offset m : Int) (gen : Nat) (s : State) : State :=
  let z := (keepBase a s).modGear a (engagedGear r mref offset m gen (s.posB a) (s.axB a))
  let z := ((z.setBit (GR_STAT a) GR_STAT_ENG_PEND false).setBit (GR_STAT a) GR_STAT_ENGAGED true).setBit (GR_STAT a) GR_STAT_COAST false
  let z := (z.modProf a fun x => { x with softDir := none }).setBit (MP_STAT a) MP_STAT_AT_SOFT false
  showLaw a (z.setAxState a axGEARED)

theorem engage_eq (a : Fin 32) (r : EngReq) (mref offset m : Int) (gen t : Nat) (s : State) : engage a r mref offset m gen t s =
    if r.event then gearEngaged a r.tag stDONE t mref offset (meshed a r mref offset m gen s) else meshed a r mref offset m gen s := rfl

section
variable {s t : State} (h : SameMotion s t) (a : Fin 32)
include h

theorem SameMotion.gearSample (x : Nat) (frm : Int) (incl : Bool) (m : Master) :
    (gearSample a x frm incl m t).shown a = (gearSample a x frm incl m s).shown a := by
  unfold Machine.gearSample
  dsimp only
  split
  · exact ((h.coastOn a m x).blendOut a m.m x).1.gearOutput a m.m x
  · rw [h.gear]
    have begun := SameMotion.ite ((h.resync a m x)) h ((s.gear a).coastFrom.isSome = true ∨ m.gen ≠ (s.gear a).seen)
    have taken := begun.takeEntries a m.m x 40 frm incl
    have passed := taken.modGear a fun y => { y with mFresh := m.m, seen := m.gen }
    rw [taken.releaseDue]
    cases State.releaseDue _ a frm m.m with
    | none => exact passed.gearOutput a m.m x
    | some r => exact (passed.release a r x).sampleProfile a x

theorem SameMotion.meshed (r : EngReq) (mref offset m : Int) (gen : Nat) :
    SameMotion (meshed a r mref offset m gen s) (meshed a r mref offset m gen t) := by
  unfold Machine.meshed
  rw [h.posB, h.axB]
  have law := SameMotion.modGear (h.keepBase a) a (engagedGear r mref offset m gen (s.posB a) (s.axB a))
  have bits := ((law.setBit (r := GR_STAT a) (by simp) GR_STAT_ENG_PEND false).setBit (r := GR_STAT a) (by simp)
    GR_STAT_ENGAGED true).setBit (r := GR_STAT a) (by simp) GR_STAT_COAST false
  exact (((bits.modProf a _).setBit (by simp) _ _).setAxState a _).showLaw a

theorem SameMotion.engage (r : EngReq) (mref offset m : Int) (gen x : Nat) :
    SameMotion (engage a r mref offset m gen x s) (engage a r mref offset m gen x t) := by
  rw [engage_eq, engage_eq, gearEngaged, gearEngaged]
  exact (h.meshed a r mref offset m gen).mayRaise a _

theorem SameMotion.pendingWith (r : EngReq) (m : Master) (x : Nat) :
    (pendingWith a r m x t).shown a = (pendingWith a r m x s).shown a := by
  unfold Machine.pendingWith
  dsimp only
  rw [h.gear, h.posB]
  split
  · exact h.shown a
  · by_cases hit : crosses (if r.neg then 1 else 0) r.value (s.gear a).mFresh m.m false = true
    · rw [if_pos hit, if_pos hit]
      have landed := h.engage a r (if r.refCur then r.value else r.mref) (if r.ofsCur then s.posB a else r.offset) r.value m.gen x
      exact landed.gearSample a x r.value true m
    · rw [if_neg hit, if_neg hit]
      exact (h.modGear a _).shown a

/-! ## The commanded position at an instant (R70, R71) -/

omit h in
/-- The position that a sample of a geared axis shows, in states that show the same. -/
theorem positionShown {a : Fin 32} (shown : t.shown a = s.shown a) (p : Int) :
    (if t.axState a = axGEARED then t.pairI (MP_CMD_POS_LO a) else p) =
      if s.axState a = axGEARED then s.pairI (MP_CMD_POS_LO a) else p := by
  obtain ⟨state, position⟩ := Prod.mk.inj shown
  rw [state, position]

theorem SameMotion.kinAt (x y : Nat) : t.kinAt a x y = s.kinAt a x y := by
  have period : t.axT a = s.axT a := h.axT a
  have window : t.sfWin a = s.sfWin a := by rw [State.sfWin, h.fld (by simp), State.sfWin]
  have sf : t.sf a = s.sf a := by rw [State.sf, h.axis, State.sf]
  have follow : t.sfAt a x y = s.sfAt a x y := by rw [State.sfAt, sf, period, window, State.sfAt]
  rw [State.kinAt, h.axState, h.axB, sf, h.gear, follow, (h.progress a x 24).prof, State.kinAt]

theorem SameMotion.posAt (outer : ∀ a kind idx x, t.outerMaster a kind idx x = s.outerMaster a kind idx x) (n x y : Nat) :
    t.posAt n a x y = s.posAt n a x y := by
  induction n generalizing a x y with
  | zero => rw [State.posAt, h.gear, State.posAt]
  | succ n ih =>
    unfold State.posAt
    dsimp only
    simp only [h.axState, h.gear, h.axB, ih, outer, h.kinAt]
    refine ite_congr rfl (fun _ => ?_) fun _ => ?_
    · exact ite_congr rfl (fun _ => rfl) fun _ => congrArg Prod.snd (h.gearSample a x _ _ _)
    · cases (s.gear a).engPend with
      | none => exact positionShown (h.shown a) _
      | some r =>
        by_cases late : s.axB a < x
        · simp only [if_pos late]
          exact positionShown (h.pendingWith a r _ x) _
        · simp only [if_neg late]
          exact positionShown (h.shown a) _

theorem SameMotion.masterAt (outer : ∀ a kind idx x, t.outerMaster a kind idx x = s.outerMaster a kind idx x) (kind idx x : Nat) :
    t.masterAt a kind idx x = s.masterAt a kind idx x := by
  rw [State.masterAt, h.posAt _ outer, h.axB, outer, State.masterAt]

end

end Sys2Proof.Machine
end

section
/-! SUPPORT. O19: GEAR_ENGAGE, GEAR_ARM and GEAR_RELEASE at their landing, and GR_MASTER_LOST (R73–R75, R81, R82). -/

namespace Sys2Proof.Machine

/-! ## What gearing holds and shows -/

section
variable (s : State) (a : Fin 32)

@[simp] theorem gear_modGear (f : Gear → Gear) : (s.modGear a f).gear a = f (s.gear a) := by
  simp [State.modGear, State.gear]

@[simp] theorem gear_modProf (f : Profile → Profile) : (s.modProf a f).gear a = s.gear a := by
  simp [State.modProf, State.gear]

@[simp] theorem gear_setFld (r : Nat) (f : Fld) (x : Nat) : (s.setFld r f x).gear a = s.gear a := (rfl)
@[simp] theorem gear_setBit (r : Nat) (f : Fld) (b : Bool) : (s.setBit r f b).gear a = s.gear a := (rfl)
@[simp] theorem gear_setAxState (x : Nat) : (s.setAxState a x).gear a = s.gear a := (rfl)
@[simp] theorem gear_showLaw : (showLaw a s).gear a = s.gear a := (rfl)
@[simp] theorem gear_showArmed : (showArmed a s).gear a = s.gear a := (rfl)
@[simp] theorem gear_keepBase : (keepBase a s).gear a = s.gear a := gear_modProf ..
@[simp] theorem gear_layPlan (t : Rat) (l : List Seg) : (layPlan a t l s).gear a = s.gear a := gear_modProf ..

/-- The flushed entries report beside the gearing. -/
theorem flushArmed_motion :
    SameMotion ((s.modGear a fun x => { x with queue := [] }).setFld (GR_STAT a) GR_STAT_QDEPTH 0) (flushArmed a s) := by
  have reports (l : List ArmEntry) (z : State) : SameMotion z (l.foldl (reportFlushed a) z) := by
    induction l generalizing z with
    | nil => exact .refl z
    | cons e l ih => exact ((sameMotion_raiseAxis ..).trans (sameMotion_axisEvent ..)).trans (ih _)
  exact SameMotion.setFld (reports (s.gear a).queue _) (by simp) _ _

@[simp] theorem gear_flushArmed : (flushArmed a s).gear a = { s.gear a with queue := [] } := by
  rw [(flushArmed_motion s a).gear, gear_setFld, gear_modGear]

theorem flushArmed_waits : (flushArmed a s).bit (GR_STAT a) GR_STAT_ENG_PEND = s.bit (GR_STAT a) GR_STAT_ENG_PEND := by
  rw [(flushArmed_motion s a).bit (by simp), State.bit, State.fld_setFld_other _ _ _ _ _ (by decide) (by decide) (by decide), ← State.bit,
    State.modGear, State.bit_modAxis]

theorem cancelRelease_queue : ((cancelRelease a s).gear a).queue = (s.gear a).queue := by
  unfold cancelRelease
  split
  · rfl
  · rw [(sameMotion_raiseAxis ..).gear, gear_setBit, gear_modGear]

theorem leaveGear_queue : ((leaveGear a s).gear a).queue = [] := by
  unfold leaveGear
  rw [gear_modGear]
  dsimp only
  rw [gear_setBit, gear_setBit, gear_setBit, cancelRelease_queue, gear_flushArmed]

/-- The status of gearing lies apart from that of the profile. -/
theorem gear_status_apart : MP_STAT a ≠ GR_STAT a := by
  simp only [MP_STAT, GR_STAT]
  omega

theorem bit_setAxState_gear (x : Nat) (f : Fld) : (s.setAxState a x).bit (GR_STAT a) f = s.bit (GR_STAT a) f := by
  rw [State.bit, State.setAxState, State.fld_setFld_far _ _ _ _ _ _ (gear_status_apart a), State.bit]

theorem leaveGear_engaged : (leaveGear a s).bit (GR_STAT a) GR_STAT_ENGAGED = false := by
  unfold leaveGear State.modGear
  dsimp only
  rw [State.bit_modAxis, State.bit_setBit_other _ _ _ _ _ (by decide) (by decide) (by decide),
    State.bit_setBit_other _ _ _ _ _ (by decide) (by decide) (by decide), State.bit_setBit_same _ _ _ _ (by decide) rfl]

/-! ## A release lands (R81) -/

theorem coastOff_axState (halt : Bool) : (coastOff a halt s).axState a = if (s.kinB a).v = 0 then axSTANDSTILL else axVELOCITY := by
  unfold coastOff
  dsimp only
  split
  · exact axState_setAxState _ a axSTANDSTILL (by decide)
  · exact axState_setAxState _ a axVELOCITY (by decide)

theorem coastOff_gear (halt : Bool) : (coastOff a halt s).gear a = (unmesh a s).gear a := by
  unfold coastOff
  dsimp only
  split <;> rw [gear_setAxState, gear_layPlan, gear_modProf]

theorem coastOff_bit (halt : Bool) (f : Fld) : (coastOff a halt s).bit (GR_STAT a) f = (unmesh a s).bit (GR_STAT a) f := by
  unfold coastOff
  dsimp only
  split <;> rw [bit_setAxState_gear] <;> simp only [layPlan, State.modProf, State.bit_modAxis]

theorem release_motion (r : RelReq) (land : Nat) : SameMotion (coastOff a r.halt s) (release a r land s) := by
  rw [release_eq]
  split
  · exact sameMotion_raiseAxis ..
  · exact .refl _

/-- An axis released goes on at its velocity, or stands, with no entry armed (R81). -/
theorem release_ends (r : RelReq) (land : Nat) :
    (release a r land s).axState a = (if (s.kinB a).v = 0 then axSTANDSTILL else axVELOCITY) ∧
    ((release a r land s).gear a).queue = [] ∧ (release a r land s).bit (GR_STAT a) GR_STAT_ENGAGED = false := by
  have same := release_motion s a r land
  rw [same.axState, same.gear, same.bit (by simp), coastOff_axState, coastOff_gear, coastOff_bit]
  exact ⟨rfl, leaveGear_queue _ a, leaveGear_engaged _ a⟩

/-! ## An engagement lands, waits, and is cancelled (R74) -/

theorem showLaw_axState : (showLaw a s).axState a = s.axState a := by
  have stat := (gear_status_apart a).symm
  have num : GR_NUM a ≠ MP_STAT a ∧ GR_DEN a ≠ MP_STAT a := by
    simp only [GR_NUM, GR_DEN, MP_STAT]
    omega
  simp only [State.axState, showLaw, State.setBit, State.setFldI, State.fld_setFld_far _ _ _ _ _ _ stat,
    State.fld_setFld_far _ _ _ _ _ _ num.1, State.fld_setFld_far _ _ _ _ _ _ num.2]

theorem showLaw_engaged : (showLaw a s).bit (GR_STAT a) GR_STAT_ENGAGED = s.bit (GR_STAT a) GR_STAT_ENGAGED := by
  have num : GR_NUM a ≠ GR_STAT a ∧ GR_DEN a ≠ GR_STAT a := by
    simp only [GR_NUM, GR_DEN, GR_STAT]
    omega
  unfold showLaw
  dsimp only
  rw [State.bit_setBit_other _ _ _ _ _ (by decide) (by decide) (by decide)]
  simp only [State.bit, State.setFldI, State.fld_setFld_other _ _ GR_STAT_SRC_IDX GR_STAT_ENGAGED _ (by decide) (by decide) (by decide),
    State.fld_setFld_other _ _ GR_STAT_SRC_KIND GR_STAT_ENGAGED _ (by decide) (by decide) (by decide),
    State.fld_setFld_far _ _ _ _ _ _ num.1, State.fld_setFld_far _ _ _ _ _ _ num.2]

theorem meshed_gear (r : EngReq) (mref offset m : Int) (gen : Nat) :
    (meshed a r mref offset m gen s).gear a = engagedGear r mref offset m gen (s.posB a) (s.axB a) (s.gear a) := by
  unfold meshed
  dsimp only
  simp

theorem meshed_shows (r : EngReq) (mref offset m : Int) (gen : Nat) :
    (meshed a r mref offset m gen s).axState a = axGEARED ∧
    (meshed a r mref offset m gen s).bit (GR_STAT a) GR_STAT_ENGAGED = true := by
  unfold meshed
  dsimp only
  rw [showLaw_axState, showLaw_engaged, axState_setAxState _ a axGEARED (by decide), bit_setAxState_gear]
  refine ⟨rfl, ?_⟩
  rw [State.bit, State.setBit, State.fld_setFld_far _ _ _ _ _ _ (gear_status_apart a), ← State.bit, State.modProf, State.bit_modAxis,
    State.bit_setBit_other _ _ _ _ _ (by decide) (by decide) (by decide), State.bit_setBit_same _ _ _ _ (by decide) rfl]

theorem engage_motion (r : EngReq) (mref offset m : Int) (gen t : Nat) :
    SameMotion (meshed a r mref offset m gen s) (engage a r mref offset m gen t s) := by
  rw [engage_eq, gearEngaged]
  split
  · exact sameMotion_raiseAxis ..
  · exact .refl _

/-- An axis engaged is GEARED to the source, with the ratio of its engagement (R74). -/
theorem engageAtBoundary_gears (r : EngReq) :
    let x := engageAtBoundary a r s
    x.axState a = axGEARED ∧ (x.gear a).kind = r.kind ∧ (x.gear a).idx = r.idx ∧ (x.gear a).law.num = r.num ∧
    (x.gear a).law.den = r.den ∧ x.bit (GR_STAT a) GR_STAT_ENGAGED = true := by
  unfold engageAtBoundary
  dsimp only
  have same := engage_motion s a r (if r.refCur then (s.masterAt a r.kind r.idx (s.axB a)).m else r.mref)
    (if r.ofsCur then s.posB a else r.offset) (s.masterAt a r.kind r.idx (s.axB a)).m (s.masterAt a r.kind r.idx (s.axB a)).gen (s.axB a)
  rw [same.axState, same.gear, same.bit (by simp), meshed_gear, (meshed_shows ..).1, (meshed_shows ..).2]
  exact ⟨rfl, rfl, rfl, rfl, rfl, rfl⟩

theorem pendEngage_waits (r : EngReq) :
    ((pendEngage a r s).gear a).engPend = some r ∧ (pendEngage a r s).bit (GR_STAT a) GR_STAT_ENG_PEND = true ∧
    (pendEngage a r s).axState a = s.axState a := by
  unfold pendEngage
  dsimp only
  rw [gear_setBit, gear_modGear, State.bit_setBit_same _ _ _ _ (by decide) rfl]
  exact ⟨rfl, rfl, State.fld_setFld_far _ _ _ _ _ _ (gear_status_apart a).symm⟩

theorem cancelEngage_cancels {r : EngReq} (h : (s.gear a).engPend = some r) :
    ((cancelEngage a s).gear a).engPend = none ∧ (cancelEngage a s).bit (GR_STAT a) GR_STAT_ENG_PEND = false := by
  unfold cancelEngage
  simp only [h, gearEngaged]
  rw [gear_flushArmed, flushArmed_waits, (sameMotion_raiseAxis ..).gear, (sameMotion_raiseAxis ..).bit (by simp), gear_setBit,
    gear_modGear, State.bit_setBit_same _ _ _ _ (by decide) rfl]
  exact ⟨rfl, rfl⟩

/-! ## A master is lost (R82) -/

theorem raiseFault_gear (cls : Nat) (sc : FaultScope) (detail : Nat) : (raiseFault cls sc detail a s).gear a = s.gear a :=
  congrArg (·.2.1) (drive_raiseFault s a cls sc detail a)

theorem modGear_recorder (f : Gear → Gear) : (s.modGear a f).recorder = s.recorder := State.modAxis_recorder ..

section
variable {u : Nat} (coasts : (s.gear a).coastFrom = some u) (geared : s.axState a = axGEARED) (first : (s.gear a).lost = false)
  (due : u + 1000000 * s.fld (GR_CFG a) GR_CFG_COAST_MS ≤ s.now)
include coasts geared first due

theorem masterLost_due : masterLost a s =
    raiseFault 5 ⟨2, a⟩ ((s.gear a).kind * 32 + (s.gear a).idx) a (s.modGear a fun x => { x with lost := true }) := by
  unfold masterLost
  rw [coasts]
  exact if_pos ⟨geared, by rw [first]; rfl, due⟩

theorem masterLost_raises : Faults s (masterLost a s) 5 a ∧ ((masterLost a s).gear a).lost = true := by
  rw [masterLost_due s a coasts geared first due, raiseFault_gear, gear_modGear]
  have marked : Grows s (s.modGear a fun x => { x with lost := true }) := .of_recorder (modGear_recorder ..)
  exact ⟨marked.logs (raiseFault_faults ..), rfl⟩

end

end

/-! ## The landings -/

section
variable {z : State} {d : Desc} {a : Fin 32} (ht : finAx d.target = a)
include ht

/-- A good GEAR_ENGAGE on an axis that stands, that no reaction, homing or lock refuses. -/
theorem landGearEngage_ready (good : z.engageBad a d.payload = false) (state : z.axState a = axSTANDSTILL)
    (idle : (z.gear a).engPend = none) (home : z.homing a = false) (calm : z.rxOf a < 3)
    (value : ¬ ((engReqOf d).kind = 1 ∧ (z.vm (Fin.ofNat 8 (engReqOf d).idx)).samples = []))
    (lockp : z.bit (SF_IO_STAT a) SF_IO_STAT_LOCKP = false) (lockn : z.bit (SF_IO_STAT a) SF_IO_STAT_LOCKN = false) :
    landGearEngage d z =
      if (engReqOf d).cond = 0 then complete d stSTARTED 0 (z.landOf d) (engageAtBoundary a (engReqOf d) z)
      else if (engReqOf d).cond = 2 ∧ instantPassed (engReqOf d).value (z.axB a) then
        complete d stARMED 0 (z.landOf d) (engageAtBoundary a (engReqOf d) (pendEngage a (engReqOf d) z))
      else complete d stARMED 0 (z.landOf d) (pendEngage a (engReqOf d) z) := by
  subst ht
  unfold landGearEngage
  dsimp only
  rw [good, if_neg Bool.false_ne_true, if_neg (by simp [state, idle, home, calm]; exact fun h => by simpa using fun e => value ⟨h, e⟩),
    if_neg (by simp [lockp, lockn])]

theorem landGearArm_queues (good : armBad d.payload = false) (state : z.axState a = axGEARED) (idle : (z.gear a).engPend = none)
    (room : (z.gear a).queue.length < 16)
    (ahead : armRange (z.masterAt a (z.gear a).kind (z.gear a).idx (z.axB a)).m (z.gear a).queue.getLast? (armOf d) = false) :
    landGearArm d z = complete d stQUEUED 0 (z.landOf d)
      (showArmed a (z.modGear a fun x => { x with queue := x.queue ++ [armOf d] })) := by
  subst ht
  unfold landGearArm
  simp only [idle]
  rw [good, if_neg Bool.false_ne_true, if_neg (by simp [state]), if_neg (Nat.not_le.2 room), ahead, if_neg Bool.false_ne_true]

/-- The release that a payload asks for (R81). -/
def relReqOf (d : Desc) : RelReq :=
  let p := d.payload
  ⟨d.tag, payByte p 0, payBit p 1 0, payBit p 1 1, payBit p 1 2, payI64 p 8⟩

theorem landGearRelease_cancels (good : releaseBad d.payload = false) (free : (z.gear a).relPend = none) {r : EngReq}
    (waits : (z.gear a).engPend = some r) : landGearRelease d z = complete d stDONE 0 (z.landOf d) (cancelEngage a z) := by
  subst ht
  have allowed : ¬ ((z.axState (finAx d.target) ≠ axGEARED ∧ (z.gear (finAx d.target)).engPend = none) ∨
      (z.gear (finAx d.target)).relPend.isSome = true) := by simp [free, waits]
  have pending : (z.gear (finAx d.target)).engPend.isSome = true := by simp [waits]
  unfold landGearRelease
  simp only [good, if_neg allowed, if_pos pending, Bool.false_eq_true, if_false]

section
variable (good : releaseBad d.payload = false) (free : (z.gear a).relPend = none) (idle : (z.gear a).engPend = none)
  (state : z.axState a = axGEARED)
include good free idle state

theorem landGearRelease_now (cond : payByte d.payload 0 = 0) :
    landGearRelease d z = complete d stSTARTED 0 (z.landOf d) (release a (relReqOf d) (z.axB a) z) := by
  subst ht
  have allowed : ¬ ((z.axState (finAx d.target) ≠ axGEARED ∧ (z.gear (finAx d.target)).engPend = none) ∨
      (z.gear (finAx d.target)).relPend.isSome = true) := by simp [free, state]
  have pending : ¬ (z.gear (finAx d.target)).engPend.isSome = true := by simp [idle]
  unfold landGearRelease relReqOf
  simp only [good, if_neg allowed, if_neg pending, Bool.false_eq_true, if_false, if_pos cond]

theorem landGearRelease_waits (cond : payByte d.payload 0 = 1) :
    landGearRelease d z = complete d stARMED 0 (z.landOf d)
      ((z.modGear a fun x => { x with relPend := some (relReqOf d) }).setBit (GR_STAT a) GR_STAT_REL_PEND true) := by
  subst ht
  have allowed : ¬ ((z.axState (finAx d.target) ≠ axGEARED ∧ (z.gear (finAx d.target)).engPend = none) ∨
      (z.gear (finAx d.target)).relPend.isSome = true) := by simp [free, state]
  have pending : ¬ (z.gear (finAx d.target)).engPend.isSome = true := by simp [idle]
  have now : ¬ payByte d.payload 0 = 0 := by omega
  have timed : ¬ (payByte d.payload 0 = 2 ∧ instantPassed (payI64 d.payload 8) (z.axB (finAx d.target))) := by omega
  unfold landGearRelease relReqOf
  simp only [good, if_neg allowed, if_neg pending, Bool.false_eq_true, if_false, if_neg now, if_neg timed]

end

end

/-! ## The statement -/

/-- What no axis sees of the acceptance of a descriptor: its slot, and line time. -/
theorem accepted_motion (s : State) (d : Desc) : SameMotion s (s.accepted d) := ⟨rfl, rfl, fun _ _ => rfl⟩

theorem accepted_engageBad (s : State) (d : Desc) (a : Fin 32) (p : Payload) : (s.accepted d).engageBad a p = s.engageBad a p := rfl

theorem accepted_masterAt (s : State) (d : Desc) (a : Fin 32) (kind idx t : Nat) :
    (s.accepted d).masterAt a kind idx t = s.masterAt a kind idx t :=
  (accepted_motion s d).masterAt a (fun _ _ _ _ => rfl) kind idx t

section
variable {s : State} {d : Desc} {a : Fin 32} (plain : d.plain) (admitted : s.admits d = true) (target : d.target = a.1)
include target

theorem accepted_landOf : (s.accepted d).landOf d = s.axB a := by
  have axis : finAx d.target = a := finAx_of target
  rw [← axis]
  rfl

include plain admitted

theorem gearEngage_runs (good : s.engageBad a d.payload = false) (state : s.axState a = axSTANDSTILL)
    (idle : (s.gear a).engPend = none) (home : s.homing a = false) (calm : s.rxOf a < 3)
    (value : ¬ ((engReqOf d).kind = 1 ∧ (s.vm (Fin.ofNat 8 (engReqOf d).idx)).samples = []))
    (lockp : s.bit (SF_IO_STAT a) SF_IO_STAT_LOCKP = false) (lockn : s.bit (SF_IO_STAT a) SF_IO_STAT_LOCKN = false) :
    Runs (.gearEngage d) s fun x =>
      ((engReqOf d).cond = 0 → Answers d stSTARTED 0 (s.axB a) s x ∧ x.axState a = axGEARED ∧
        (x.gear a).kind = (engReqOf d).kind ∧ (x.gear a).idx = (engReqOf d).idx ∧ (x.gear a).law.num = (engReqOf d).num ∧
        (x.gear a).law.den = (engReqOf d).den ∧ x.bit (GR_STAT a) GR_STAT_ENGAGED = true) ∧
      ((engReqOf d).cond = 1 → Answers d stARMED 0 (s.axB a) s x ∧ (x.gear a).engPend = some (engReqOf d) ∧
        x.bit (GR_STAT a) GR_STAT_ENG_PEND = true ∧ x.axState a = axSTANDSTILL) := by
  refine runs_admitted (f := landGearEngage d) rfl admitted ?_
  rw [landGearEngage_ready (z := s.accepted d) (finAx_of target) ((accepted_engageBad ..).trans good) state idle home calm value lockp
    lockn, accepted_landOf target]
  refine ⟨fun cond => ?_, fun cond => ?_⟩
  · have same := complete_motion (y := engageAtBoundary a (engReqOf d) (s.accepted d)) (st := stSTARTED) (flags := 0) (land := s.axB a)
      plain
    rw [if_pos cond, same.axState, same.gear, same.bit (by simp)]
    exact ⟨answers_after (z := s.accepted d) plain fun q h _ _ _ _ _ _ => engageAtBoundary_ok a _ _ h,
      engageAtBoundary_gears (s.accepted d) a (engReqOf d)⟩
  · have same := complete_motion (y := pendEngage a (engReqOf d) (s.accepted d)) (st := stARMED) (flags := 0) (land := s.axB a) plain
    obtain ⟨waits, shown, stays⟩ := pendEngage_waits (s.accepted d) a (engReqOf d)
    rw [if_neg (by omega), if_neg (by omega), same.axState, same.gear, same.bit (by simp)]
    exact ⟨answers_after (z := s.accepted d) plain fun q h _ _ _ _ _ _ => pendEngage_ok a _ _ h, waits, shown, stays.trans state⟩

theorem gearArm_runs (good : armBad d.payload = false) (state : s.axState a = axGEARED) (idle : (s.gear a).engPend = none)
    (room : (s.gear a).queue.length < 16)
    (ahead : armRange (s.masterAt a (s.gear a).kind (s.gear a).idx (s.axB a)).m (s.gear a).queue.getLast? (armOf d) = false) :
    Runs (.gearArm d) s fun x => Answers d stQUEUED 0 (s.axB a) s x ∧ (x.gear a).queue = (s.gear a).queue ++ [armOf d] ∧
      (x.gear a).law = (s.gear a).law := by
  refine runs_admitted (f := landGearArm d) rfl admitted ?_
  rw [landGearArm_queues (z := s.accepted d) (finAx_of target) good state idle room ((accepted_masterAt ..).symm ▸ ahead),
    accepted_landOf target]
  have same := complete_motion (y := showArmed a ((s.accepted d).modGear a fun x => { x with queue := x.queue ++ [armOf d] }))
    (st := stQUEUED) (flags := 0) (land := s.axB a) plain
  rw [same.gear, gear_showArmed, gear_modGear]
  exact ⟨answers_after (z := s.accepted d) plain fun q h _ _ _ _ _ _ => showArmed_ok a _ (State.modGear_ok _ a _ h), rfl, rfl⟩

variable (good : releaseBad d.payload = false) (free : (s.gear a).relPend = none)
include good free

theorem gearRelease_runs_pending {r : EngReq} (waits : (s.gear a).engPend = some r) :
    Runs (.gearRelease d) s fun x => Answers d stDONE 0 (s.axB a) s x ∧ (x.gear a).engPend = none ∧
      x.bit (GR_STAT a) GR_STAT_ENG_PEND = false := by
  refine runs_admitted (f := landGearRelease d) rfl admitted ?_
  rw [landGearRelease_cancels (z := s.accepted d) (finAx_of target) good free waits, accepted_landOf target]
  have same := complete_motion (y := cancelEngage a (s.accepted d)) (st := stDONE) (flags := 0) (land := s.axB a) plain
  rw [same.gear, same.bit (by simp)]
  exact ⟨answers_after (z := s.accepted d) plain fun q h _ _ _ _ _ _ => cancelEngage_ok a _ h,
    cancelEngage_cancels (s.accepted d) a waits⟩

variable (idle : (s.gear a).engPend = none) (state : s.axState a = axGEARED)
include idle state

theorem gearRelease_runs_armed (cond : payByte d.payload 0 = 1) :
    Runs (.gearRelease d) s fun x => Answers d stARMED 0 (s.axB a) s x ∧ x.axState a = axGEARED ∧
      (x.gear a).relPend.map (fun r => (r.tag, r.value)) = some (d.tag, payI64 d.payload 8) := by
  refine runs_admitted (f := landGearRelease d) rfl admitted ?_
  rw [landGearRelease_waits (z := s.accepted d) (finAx_of target) good free idle state cond, accepted_landOf target]
  have same := complete_motion (y := ((s.accepted d).modGear a fun x => { x with relPend := some (relReqOf d) }).setBit (GR_STAT a)
    GR_STAT_REL_PEND true) (st := stARMED) (flags := 0) (land := s.axB a) plain
  rw [same.axState, same.gear, gear_setBit, gear_modGear]
  refine ⟨answers_after (z := s.accepted d) plain fun q h _ _ _ _ _ _ => State.setBit_ok _ _ _ _ (State.modGear_ok _ a _ h), ?_, ?_⟩
  · exact (State.fld_setFld_far _ _ _ _ _ _ (gear_status_apart a).symm).trans state
  · simp only [Option.map_some, relReqOf]

theorem gearRelease_runs_now (cond : payByte d.payload 0 = 0) :
    Runs (.gearRelease d) s fun x => Answers d stSTARTED 0 (s.axB a) s x ∧
      x.axState a = (if (s.kinB a).v = 0 then axSTANDSTILL else axVELOCITY) ∧ (x.gear a).queue = [] ∧
      x.bit (GR_STAT a) GR_STAT_ENGAGED = false := by
  refine runs_admitted (f := landGearRelease d) rfl admitted ?_
  rw [landGearRelease_now (z := s.accepted d) (finAx_of target) good free idle state cond, accepted_landOf target]
  have same := complete_motion (y := release a (relReqOf d) ((s.accepted d).axB a) (s.accepted d)) (st := stSTARTED) (flags := 0)
    (land := s.axB a) plain
  rw [same.axState, same.gear, same.bit (by simp)]
  exact ⟨answers_after (z := s.accepted d) plain fun q h _ _ _ _ _ _ => release_ok a _ _ _ h,
    release_ends (s.accepted d) a (relReqOf d) ((s.accepted d).axB a)⟩

end

theorem grMasterLost_runs {s : State} {a : Fin 32} {t u : Nat} (coasts : (s.gear a).coastFrom = some u) (geared : s.axState a = axGEARED)
    (first : (s.gear a).lost = false) (due : u + 1000000 * s.fld (GR_CFG a) GR_CFG_COAST_MS ≤ (s.reach t).now) :
    Runs (.grMasterLost t a) s fun x => Faults s x 5 a ∧ (x.gear a).lost = true := by
  refine ⟨masterLost a (s.reach t), rfl, ?_⟩
  obtain ⟨raised, lost⟩ := masterLost_raises (s.reach t) a coasts geared first due
  have waited : Grows s (s.reach t) := .of_recorder (State.reach_recorder ..)
  exact ⟨waited.logs raised, lost⟩

/-- Settles O19: each descriptor lands on the state at its acceptance, whose master reads what it reads in the state before; what it brings
sets the gearing, and its completion leaves the axes. A lost master raises its fault, which leaves the gearing. -/
theorem gearingEngagesArmsAndReleases : Obligations.GearingEngagesArmsAndReleases := fun _ _ =>
  ⟨fun _ plain admitted target =>
    ⟨gearEngage_runs plain admitted target, gearArm_runs plain admitted target, fun good free =>
      ⟨fun _ => gearRelease_runs_pending plain admitted target good free, gearRelease_runs_armed plain admitted target good free,
        gearRelease_runs_now plain admitted target good free⟩⟩,
    fun _ _ => grMasterLost_runs⟩

end Sys2Proof.Machine
end

section
/-! SUPPORT. O20: FOLLOW_STEP and STEP_PULSE (R86, R87, R89). -/

namespace Sys2Proof.Machine

/-! ## Step following under the named updates -/

section
variable (s : State) (a : Fin 32)

@[simp] theorem sf_modSf (f : StepFollow → StepFollow) : (s.modSf a f).sf a = f (s.sf a) := by
  simp [State.modSf, State.sf]

@[simp] theorem sf_modProf (f : Profile → Profile) : (s.modProf a f).sf a = s.sf a := by
  simp [State.modProf, State.sf]

@[simp] theorem sf_setBit (r : Nat) (f : Fld) (b : Bool) : (s.setBit r f b).sf a = s.sf a := (rfl)
@[simp] theorem sf_setPair (r : Nat) (x : Int) : (s.setPair r x).sf a = s.sf a := (rfl)
@[simp] theorem sf_setAxState (x : Nat) : (s.setAxState a x).sf a = s.sf a := (rfl)
@[simp] theorem sf_countN (r : Nat) (f : Fld) (n : Nat) : (s.countN r f n).sf a = s.sf a := (rfl)
@[simp] theorem sf_record (k : RecKind) (sev kind idx : Nat) (params : List Nat) : (record k sev kind idx params s).sf a = s.sf a := (rfl)

@[simp] theorem record_axis (k : RecKind) (sev kind idx : Nat) (params : List Nat) (b : Fin 32) :
    (record k sev kind idx params s).axis b = s.axis b := (rfl)

end

theorem SameMotion.sf {s t : State} (h : SameMotion s t) (a : Fin 32) : t.sf a = s.sf a := by
  rw [State.sf, h.axis, State.sf]

theorem AxesBut.trans {as : List (Fin 32)} {s t u : State} (h : AxesBut as s t) (h' : AxesBut as t u) : AxesBut as s u :=
  fun a ha => (h' a ha).trans (h a ha)

theorem AxesBut.of_axes {as : List (Fin 32)} {s t : State} (h : t.axes = s.axes) : AxesBut as s t := fun a _ => by
  rw [State.axis, h, State.axis]

theorem axesBut_modAxis (s : State) (a : Fin 32) (f : Axis → Axis) : AxesBut [a] s (s.modAxis a f) :=
  fun b hb => State.axis_modAxis_other s a b f fun e => hb (List.mem_singleton.2 e.symm)

theorem axesBut_modSf (s : State) (a : Fin 32) (f : StepFollow → StepFollow) : AxesBut [a] s (s.modSf a f) := axesBut_modAxis s a _

/-! ## FOLLOW_STEP (R89) -/

/-- Following begins with no pulse counted, at the commanded position of the last boundary. -/
theorem startFollow_follows (a : Fin 32) (s : State) :
    (startFollow a s).axState a = axSTEPFOLLOW ∧ ((startFollow a s).sf a).q = 0 ∧ ((startFollow a s).sf a).pulses = [] ∧
    ((startFollow a s).sf a).pBase = (s.kinB a).p := by
  unfold startFollow
  dsimp only
  rw [axState_setAxState _ a axSTEPFOLLOW (by decide), sf_setAxState, sf_setPair, sf_setBit, sf_modProf, sf_modSf]
  exact ⟨rfl, rfl, rfl, rfl⟩

section
variable {z : State} {d : Desc} {a : Fin 32} (ht : finAx d.target = a) (zero : payZero d.payload 1 48 = true)
include ht zero

theorem landFollowStep_starts (flags : payByte d.payload 0 = 0 ∨ payByte d.payload 0 = 2) (state : z.axState a = axSTANDSTILL)
    (enabled : z.bit (SF_CFG a) SF_CFG_EN = true) (home : z.homing a = false) (calm : z.rxOf a < 3)
    (lockp : z.bit (SF_IO_STAT a) SF_IO_STAT_LOCKP = false) (lockn : z.bit (SF_IO_STAT a) SF_IO_STAT_LOCKN = false) :
    landFollowStep d z = complete d stSTARTED 0 (z.landOf d) (startFollow a z) := by
  subst ht
  have small : payByte d.payload 0 < 4 := by omega
  have start : payBit d.payload 0 0 = false := by rcases flags with h | h <;> simp [payBit, h]
  unfold landFollowStep
  dsimp only
  rw [if_neg (by simp [zero, small]), start, if_neg Bool.false_ne_true, if_neg (by simp [state, enabled, home, calm]),
    if_neg (by simp [lockp, lockn])]

theorem landFollowStep_drains (flags : payByte d.payload 0 = 1 ∨ payByte d.payload 0 = 3) (state : z.axState a = axSTEPFOLLOW)
    (free : (z.sf a).drain = none) :
    landFollowStep d z = complete d stSTARTED 0 (z.landOf d)
      ((z.modSf a fun x => { x with drain := some (z.axB a, payBit d.payload 0 1, d.tag) }).setBit (SF_STAT a) SF_STAT_DRAIN true) := by
  subst ht
  have small : payByte d.payload 0 < 4 := by omega
  have ends : payBit d.payload 0 0 = true := by rcases flags with h | h <;> simp [payBit, h]
  unfold landFollowStep
  dsimp only
  rw [if_neg (by simp [zero, small]), if_pos ends, if_neg (by simp [state, free])]

end

section
variable {s : State} {d : Desc} {a : Fin 32} (plain : d.plain) (admitted : s.admits d = true) (target : d.target = a.1)
  (zero : payZero d.payload 1 48 = true)
include plain admitted target zero

theorem followStep_runs_start (flags : payByte d.payload 0 = 0 ∨ payByte d.payload 0 = 2) (state : s.axState a = axSTANDSTILL)
    (enabled : s.bit (SF_CFG a) SF_CFG_EN = true) (home : s.homing a = false) (calm : s.rxOf a < 3)
    (lockp : s.bit (SF_IO_STAT a) SF_IO_STAT_LOCKP = false) (lockn : s.bit (SF_IO_STAT a) SF_IO_STAT_LOCKN = false) :
    Runs (.followStep d) s fun x => Answers d stSTARTED 0 (s.axB a) s x ∧ x.axState a = axSTEPFOLLOW ∧ (x.sf a).q = 0 ∧
      (x.sf a).pulses = [] ∧ (x.sf a).pBase = (s.kinB a).p := by
  refine runs_admitted (f := landFollowStep d) rfl admitted ?_
  rw [landFollowStep_starts (z := s.accepted d) (finAx_of target) zero flags state enabled home calm lockp lockn, accepted_landOf target]
  have same := complete_motion (y := startFollow a (s.accepted d)) (st := stSTARTED) (flags := 0) (land := s.axB a) plain
  rw [same.axState, same.sf]
  exact ⟨answers_after (z := s.accepted d) plain fun q h _ _ _ _ _ _ => startFollow_ok a _ h, startFollow_follows a (s.accepted d)⟩

theorem followStep_runs_drain (flags : payByte d.payload 0 = 1 ∨ payByte d.payload 0 = 3) (state : s.axState a = axSTEPFOLLOW)
    (free : (s.sf a).drain = none) :
    Runs (.followStep d) s fun x => Answers d stSTARTED 0 (s.axB a) s x ∧ x.axState a = axSTEPFOLLOW ∧
      (x.sf a).drain = some (s.axB a, payBit d.payload 0 1, d.tag) ∧ x.bit (SF_STAT a) SF_STAT_DRAIN = true := by
  refine runs_admitted (f := landFollowStep d) rfl admitted ?_
  rw [landFollowStep_drains (z := s.accepted d) (finAx_of target) zero flags state free, accepted_landOf target]
  have same := complete_motion (y := ((s.accepted d).modSf a fun x =>
    { x with drain := some ((s.accepted d).axB a, payBit d.payload 0 1, d.tag) }).setBit (SF_STAT a) SF_STAT_DRAIN true)
    (st := stSTARTED) (flags := 0) (land := s.axB a) plain
  have stat : 0x44000 ≤ SF_STAT a ∧ SF_STAT a ≠ MP_STAT a := by
    simp only [SF_STAT, MP_STAT]
    omega
  rw [same.axState, same.sf, same.bit stat.1, sf_setBit, sf_modSf, State.bit_setBit_same _ _ _ _ (by decide) rfl]
  exact ⟨answers_after (z := s.accepted d) plain fun q h _ _ _ _ _ _ => State.setBit_ok _ _ _ _ (State.modSf_ok _ a _ h),
    (State.fld_setFld_far _ _ _ _ _ _ stat.2).trans state, rfl, rfl⟩

end

/-! ## Levels of STEP (R86) -/

/-- The levels that came and went are counted where they did not hold for MINPW clocks. -/
def glitches (a : Fin 32) (short : List Nat) (s : State) : State :=
  s.countN (SF_CNT a) SF_CNT_GLITCH ((short.filter fun n => !s.levelOk a n).length)

/-- The new level is the accepted one. -/
def levelTaken (a : Fin 32) (high : Bool) (short : List Nat) (s : State) : State :=
  (glitches a short s).modSf a fun x => { x with level := high }

section
variable (s : State) (a : Fin 32) (short : List Nat)

/-- The counts of the levels lie apart from what following reads. -/
theorem pulse_registers : SF_CNT a ≠ SF_CFG a ∧ SF_CNT a ≠ MP_STAT a := by
  simp only [SF_CNT, SF_CFG, MP_STAT]
  omega

theorem regsBut_glitches : RegsBut [SF_CNT a] s (glitches a short s) := regsBut_setFld s _ _ (List.mem_singleton_self _)

theorem glitches_reads : (∀ f, (glitches a short s).fld (SF_CFG a) f = s.fld (SF_CFG a) f) ∧
    (∀ f, (glitches a short s).bit (SF_CFG a) f = s.bit (SF_CFG a) f) ∧ (glitches a short s).axState a = s.axState a := by
  obtain ⟨cfg, stat⟩ := pulse_registers a
  have others := regsBut_glitches s a short
  exact ⟨others.fld (by simpa using cfg.symm), others.bit (by simpa using cfg.symm), others.fld (by simpa using stat.symm) _⟩

theorem glitches_levelOk (n : Nat) : (glitches a short s).levelOk a n = s.levelOk a n := by
  rw [State.levelOk, (glitches_reads s a short).1, State.levelOk]

theorem glitches_fld : (glitches a short s).fld (SF_CNT a) SF_CNT_GLITCH =
    min (s.fld (SF_CNT a) SF_CNT_GLITCH + (short.filter fun n => decide (n < s.fld (SF_CFG a) SF_CFG_MINPW)).length)
      (2 ^ SF_CNT_GLITCH.width - 1) := by
  have brief : (fun n => !s.levelOk a n) = fun n => decide (n < s.fld (SF_CFG a) SF_CFG_MINPW) := by
    funext n
    rw [State.levelOk, ← decide_not]
    exact decide_eq_decide.2 Nat.not_le
  have room := Nat.two_pow_pos SF_CNT_GLITCH.width
  rw [glitches, State.countN, State.fld_setFld_same _ _ _ _ (by decide), Nat.mod_eq_of_lt (by omega), brief]

theorem levelTaken_sf (high : Bool) : (levelTaken a high short s).sf a = { s.sf a with level := high } := sf_modSf ..

theorem levelTaken_reads (high : Bool) : (levelTaken a high short s).axState a = s.axState a ∧
    (∀ f, (levelTaken a high short s).fld (SF_CFG a) f = s.fld (SF_CFG a) f) ∧
    (∀ f, (levelTaken a high short s).bit (SF_CFG a) f = s.bit (SF_CFG a) f) ∧
    (levelTaken a high short s).fld (SF_CNT a) SF_CNT_OVERRATE = s.fld (SF_CNT a) SF_CNT_OVERRATE := by
  obtain ⟨cfg, bits, stays⟩ := glitches_reads s a short
  refine ⟨stays, cfg, bits, ?_⟩
  rw [levelTaken, State.modSf, State.fld_modAxis, glitches, State.countN]
  exact State.fld_setFld_other _ _ _ _ _ (by decide) (by decide) (by decide)

theorem axesBut_levelTaken (high : Bool) : AxesBut [a] s (levelTaken a high short s) := axesBut_modAxis (glitches a short s) a _

variable {t held : Nat} {high dir : Bool}

/-- A level that has not held, or is the accepted one, moves nothing. -/
theorem stepLevel_ignored (h : s.levelOk a held = false ∨ high = (s.sf a).level) :
    stepLevel a t high dir short held s = glitches a short s := by
  refine if_pos ?_
  rw [← glitches, glitches_levelOk, glitches, sf_countN]
  simpa using h

variable (holds : s.levelOk a held = true) (new : high ≠ (s.sf a).level)
include holds new

/-- A level that becomes the accepted one is a pulse along the edge that EDGE selects. -/
theorem stepLevel_accepted : stepLevel a t high dir short held s =
    if high = s.bit (SF_CFG a) SF_CFG_EDGE then levelTaken a high short s
    else activeEdge a (t - 5 * held) (t - 5 * held + 5 * s.fld (SF_CFG a) SF_CFG_MINPW) dir (levelTaken a high short s) := by
  obtain ⟨cfg, edge, -⟩ := glitches_reads s a short
  have new' : high ≠ ((glitches a short s).sf a).level := new
  unfold stepLevel
  dsimp only
  rw [← glitches, if_neg (by simp [glitches_levelOk, holds, new']), ← levelTaken, levelTaken, State.modSf,
    State.bit_modAxis, State.fld_modAxis, edge, cfg]

end

/-! ## Pulses (R86, R87) -/

section
variable (s : State) (a : Fin 32) (edge accepted : Nat)

/-- A counted pulse moves the pulse position by SCALE + 1 ticks, and is the latest one. -/
theorem countPulse_sf (pos : Bool) :
    let n : Int := s.fld (SF_CFG a) SF_CFG_SCALE + 1
    let q := if pos then (s.sf a).q + n else (s.sf a).q - n
    (countPulse a edge accepted pos s).sf a =
      { s.sf a with q := q, pulses := (⟨edge, accepted, q⟩ :: (s.sf a).pulses).take 8192 } := by
  unfold countPulse
  dsimp only
  rw [sf_setPair, sf_modSf]

theorem axesBut_countPulse (pos : Bool) : AxesBut [a] s (countPulse a edge accepted pos s) := by
  intro b hb
  unfold countPulse
  dsimp only
  rw [State.axis_setPair, axesBut_modSf s a _ b hb]

/-- A dropped pulse counts, and marks the period in which it was dropped. -/
theorem overrate_counts : Counts s (overrate a s) (SF_CNT a) SF_CNT_OVERRATE := by
  unfold overrate
  dsimp only
  split <;> exact counts_count s _ _ (by decide)

theorem overrate_sf : ∃ k, (overrate a s).sf a = { s.sf a with overPeriod := k } := by
  unfold overrate
  dsimp only
  split
  · exact ⟨_, rfl⟩
  · rw [sf_record, sf_modSf]
    exact ⟨_, rfl⟩

theorem axesBut_overrate : AxesBut [a] s (overrate a s) := by
  unfold overrate
  dsimp only
  split
  · exact .of_axes rfl
  · intro b hb
    rw [record_axis, axesBut_modSf _ a _ b hb, State.axis_count]

section
variable {s a edge accepted} {dir : Bool} (state : s.axState a = axSTEPFOLLOW) (free : (s.sf a).drain = none)
  (landed : (s.sf a).landAt ≤ accepted)
include state free landed

theorem activeEdge_follows : activeEdge a edge accepted dir s =
    let z := s.modSf a fun x => { x with lastEdge := some edge }
    if (s.sf a).lastEdge.any fun e => decide (edge < e + 125) then overrate a z
    else countPulse a edge accepted (dir != s.bit (SF_CFG a) SF_CFG_DIRINV) z := by
  have follows : ¬ ((s.modSf a fun x => { x with lastEdge := some edge }).axState a ≠ axSTEPFOLLOW ∨ (s.sf a).drain.isSome = true ∨
      accepted < (s.sf a).landAt) := by
    rintro (h | h | h)
    · exact h state
    · simp [free] at h
    · omega
  unfold activeEdge
  dsimp only
  rw [if_neg follows]
  cases (s.sf a).lastEdge <;> rfl

/-- A pulse that comes 125 ns after the previous one, or is the first, is counted. -/
theorem activeEdge_counts (apart : ∀ e, (s.sf a).lastEdge = some e → e + 125 ≤ edge) :
    let n : Int := s.fld (SF_CFG a) SF_CFG_SCALE + 1
    let q := (s.sf a).q + if dir = s.bit (SF_CFG a) SF_CFG_DIRINV then -n else n
    (activeEdge a edge accepted dir s).sf a =
      { s.sf a with lastEdge := some edge, q := q, pulses := (⟨edge, accepted, q⟩ :: (s.sf a).pulses).take 8192 } := by
  have far : ((s.sf a).lastEdge.any fun e => decide (edge < e + 125)) = false := by
    cases last : (s.sf a).lastEdge with
    | none => rfl
    | some e => simpa using apart e last
  dsimp only
  rw [activeEdge_follows state free landed, far, if_neg Bool.false_ne_true, countPulse_sf, sf_modSf, State.modSf, State.fld_modAxis]
  by_cases way : dir = s.bit (SF_CFG a) SF_CFG_DIRINV <;> simp [way, sub_eq_add_neg]

/-- A pulse closer to the previous one is dropped. -/
theorem activeEdge_drops {e : Nat} (last : (s.sf a).lastEdge = some e) (near : edge < e + 125) :
    (∃ k, (activeEdge a edge accepted dir s).sf a = { s.sf a with lastEdge := some edge, overPeriod := k }) ∧
    Counts s (activeEdge a edge accepted dir s) (SF_CNT a) SF_CNT_OVERRATE := by
  have close : ((s.sf a).lastEdge.any fun e => decide (edge < e + 125)) = true := by simpa [last] using near
  rw [activeEdge_follows state free landed, if_pos close]
  obtain ⟨k, dropped⟩ := overrate_sf (s.modSf a fun x => { x with lastEdge := some edge }) a
  exact ⟨⟨k, by rw [dropped, sf_modSf]⟩, overrate_counts _ a⟩

theorem axesBut_activeEdge : AxesBut [a] s (activeEdge a edge accepted dir s) := by
  rw [activeEdge_follows state free landed]
  dsimp only
  split
  · exact (axesBut_modSf s a _).trans (axesBut_overrate _ a)
  · exact (axesBut_modSf s a _).trans (axesBut_countPulse _ a _ _ _)

end

end

section
variable {s : State} {a : Fin 32} {t held : Nat} {high dir : Bool} {short : List Nat}

/-- A level that has not held, or is the accepted one, counts its glitches alone. -/
theorem stepPulse_runs_ignored (h : s.levelOk a held = false ∨ high = (s.sf a).level) :
    Runs (.stepPulse t a high dir short held) s fun x => x.axes = s.axes ∧ RegsBut [SF_CNT a] s x ∧
      x.fld (SF_CNT a) SF_CNT_GLITCH =
        min (s.fld (SF_CNT a) SF_CNT_GLITCH + (short.filter fun n => decide (n < s.fld (SF_CFG a) SF_CFG_MINPW)).length)
          (2 ^ SF_CNT_GLITCH.width - 1) := by
  refine ⟨stepLevel a t high dir short held (s.reach t), rfl, ?_⟩
  rw [stepLevel_ignored (s.reach t) a short h]
  exact ⟨rfl, regsBut_glitches (s.reach t) a short, glitches_fld (s.reach t) a short⟩

variable (holds : s.levelOk a held = true) (new : high ≠ (s.sf a).level)
include holds new

/-- A pulse while following: the accepted level changes along the edge that EDGE selects. -/
theorem stepPulse_runs_pulse {edge : Nat} (began : edge = t - 5 * held) (selected : high ≠ s.bit (SF_CFG a) SF_CFG_EDGE)
    (state : s.axState a = axSTEPFOLLOW) (free : (s.sf a).drain = none)
    (landed : (s.sf a).landAt ≤ edge + 5 * s.fld (SF_CFG a) SF_CFG_MINPW) :
    Runs (.stepPulse t a high dir short held) s fun x =>
      (x.sf a).level = high ∧ (x.sf a).lastEdge = some edge ∧
      ((∀ e, (s.sf a).lastEdge = some e → e + 125 ≤ edge) →
        (x.sf a).q = (s.sf a).q +
          (if dir = s.bit (SF_CFG a) SF_CFG_DIRINV then -(s.fld (SF_CFG a) SF_CFG_SCALE + 1 : Int)
           else (s.fld (SF_CFG a) SF_CFG_SCALE + 1 : Int)) ∧
        (x.sf a).pulses.head? = some ⟨edge, edge + 5 * s.fld (SF_CFG a) SF_CFG_MINPW, (x.sf a).q⟩) ∧
      (∀ e, (s.sf a).lastEdge = some e → edge < e + 125 →
        (x.sf a).q = (s.sf a).q ∧ (x.sf a).pulses = (s.sf a).pulses ∧ Counts s x (SF_CNT a) SF_CNT_OVERRATE) ∧
      AxesBut [a] s x := by
  subst began
  refine ⟨stepLevel a t high dir short held (s.reach t), rfl, ?_⟩
  rw [stepLevel_accepted (s.reach t) a short holds new]
  obtain ⟨stays, cfg, bits, overs⟩ := levelTaken_reads (s.reach t) a short high
  have taken := levelTaken_sf (s.reach t) a short high
  have others := axesBut_levelTaken (s.reach t) a short high
  rw [State.bit_reach, State.fld_reach, if_neg selected]
  generalize levelTaken a high short (s.reach t) = z at *
  have following : z.axState a = axSTEPFOLLOW := stays.trans state
  have undrained : (z.sf a).drain = none := by rw [taken]; exact free
  have begun : (z.sf a).landAt ≤ t - 5 * held + 5 * s.fld (SF_CFG a) SF_CFG_MINPW := by rw [taken]; exact landed
  have last : (z.sf a).lastEdge = (s.sf a).lastEdge := by rw [taken]; rfl
  have alone := others.trans (axesBut_activeEdge (edge := t - 5 * held) (dir := dir) following undrained begun)
  by_cases near : ∃ e, (s.sf a).lastEdge = some e ∧ t - 5 * held < e + 125
  · obtain ⟨e, was, close⟩ := near
    obtain ⟨⟨k, dropped⟩, counted⟩ := activeEdge_drops (dir := dir) following undrained begun (last.trans was) close
    rw [dropped, taken]
    exact ⟨rfl, rfl, fun apart => absurd (apart e was) (by omega), fun _ _ _ => ⟨rfl, rfl, counted.congr overs.symm rfl⟩, alone⟩
  · have apart (e : Nat) (was : (z.sf a).lastEdge = some e) : e + 125 ≤ t - 5 * held :=
      Nat.not_lt.1 fun close => near ⟨e, last.symm.trans was, close⟩
    rw [activeEdge_counts following undrained begun apart, taken, bits, cfg]
    exact ⟨rfl, rfl, fun _ => ⟨rfl, rfl⟩, fun e was close => absurd ⟨e, was, close⟩ near, alone⟩

/-- A level accepted along the other edge moves nothing. -/
theorem stepPulse_runs_other (other : high = s.bit (SF_CFG a) SF_CFG_EDGE) :
    Runs (.stepPulse t a high dir short held) s fun x =>
      x.sf a = { s.sf a with level := high } ∧ AxesBut [a] s x ∧ RegsBut [SF_CNT a] s x := by
  refine ⟨levelTaken a high short (s.reach t), ?_, levelTaken_sf (s.reach t) a short high, axesBut_levelTaken (s.reach t) a short high,
    regsBut_glitches (s.reach t) a short⟩
  exact congrArg Host.Outcome.next ((stepLevel_accepted (s.reach t) a short holds new).trans (if_pos other))

end

/-- Settles O20: FOLLOW_STEP lands on the state at its acceptance, and its completion leaves the axes. A level of STEP counts its glitches;
accepted along the selected edge it is a pulse, counted or dropped by its distance from the previous one. -/
theorem stepPulsesAreFollowed : Obligations.StepPulsesAreFollowed := fun _ _ =>
  ⟨fun _ plain admitted target zero =>
    ⟨followStep_runs_start plain admitted target zero, followStep_runs_drain plain admitted target zero⟩,
    fun _ _ _ _ _ =>
      ⟨fun _ began holds new => stepPulse_runs_pulse holds new began, stepPulse_runs_other, stepPulse_runs_ignored⟩⟩

end Sys2Proof.Machine
end

section
/-! SUPPORT. O21, O22: the setting of an axis, which is what it holds beside its profile, its gearing and its step following, and what its
inputs show; a stop that begins leaves it. -/

namespace Sys2Proof.Machine

/-- An axis beside its profile, its gearing and its step following. -/
def Axis.setting (x : Axis) : Axis := { x with prof := .init, gear := .init, sf := .init }

/-- The setting of an axis, and the register of its inputs. -/
def State.setting (s : State) (a : Fin 32) : Axis × Word := ((s.axis a).setting, s.reg (SF_IO_STAT a))

theorem home_of_setting {s t : State} {a : Fin 32} (h : t.setting a = s.setting a) : (t.axis a).home = (s.axis a).home :=
  congrArg (·.1.home) h

/-- The registers of the motion lie apart from that of the inputs. -/
@[simp] theorem inputs_apart (a : Fin 32) : MP_STAT a ≠ SF_IO_STAT a ∧ MP_CNT a ≠ SF_IO_STAT a ∧ GR_STAT a ≠ SF_IO_STAT a ∧
    SF_STAT a ≠ SF_IO_STAT a ∧ SF_HOME_STAT a ≠ SF_IO_STAT a := by
  simp only [MP_STAT, MP_CNT, GR_STAT, SF_STAT, SF_HOME_STAT, SF_IO_STAT]
  omega

section
variable (s : State) (a : Fin 32)

theorem setting_of_motion {s t : State} (h : SameMotion s t) (a : Fin 32) : t.setting a = s.setting a := by
  rw [State.setting, h.axis, h.reg _ (by simp only [SF_IO_STAT]; omega), State.setting]

@[simp] theorem setting_setFld {r : Nat} (f : Fld) (x : Nat) (h : r ≠ SF_IO_STAT a) : (s.setFld r f x).setting a = s.setting a :=
  congrArg ((s.axis a).setting, ·) (State.reg_setFld_far s r _ f x h)

@[simp] theorem setting_setBit {r : Nat} (f : Fld) (b : Bool) (h : r ≠ SF_IO_STAT a) : (s.setBit r f b).setting a = s.setting a :=
  setting_setFld s a f _ h

@[simp] theorem setting_count {r : Nat} (f : Fld) (h : r ≠ SF_IO_STAT a) : (s.count r f).setting a = s.setting a :=
  setting_setFld s a f _ h

theorem setting_modAxis (f : Axis → Axis) (h : ∀ x, (f x).setting = x.setting) : (s.modAxis a f).setting a = s.setting a := by
  rw [State.setting, State.axis_modAxis_same, h, State.reg_modAxis, State.setting]

@[simp] theorem setting_modProf (f : Profile → Profile) : (s.modProf a f).setting a = s.setting a := setting_modAxis s a _ fun _ => rfl
@[simp] theorem setting_modGear (f : Gear → Gear) : (s.modGear a f).setting a = s.setting a := setting_modAxis s a _ fun _ => rfl
@[simp] theorem setting_modSf (f : StepFollow → StepFollow) : (s.modSf a f).setting a = s.setting a := setting_modAxis s a _ fun _ => rfl

@[simp] theorem setting_raiseAxis (code sev tag time : Nat) (params : List Int) :
    (raiseAxis a code sev tag time params s).setting a = s.setting a := setting_of_motion (sameMotion_raiseAxis ..) a

@[simp] theorem setting_axisEvent (bit : Nat) (param : Int) : (axisEvent a bit param s).setting a = s.setting a :=
  setting_of_motion (sameMotion_axisEvent ..) a

@[simp] theorem setting_moveEnds (internal : Bool) (tag st : Nat) (target : Int) :
    (moveEnds a internal tag st target s).setting a = s.setting a := setting_of_motion (sameMotion_moveEnds ..) a

@[simp] theorem setting_ite (c : Prop) [Decidable c] (s t : State) :
    (if c then s else t).setting a = if c then s.setting a else t.setting a := apply_ite (State.setting · a) c s t

theorem setting_foldl {α : Type} (l : List α) (g : State → α → State) (h : ∀ s x, (g s x).setting a = s.setting a) :
    (l.foldl g s).setting a = s.setting a := by
  induction l generalizing s with
  | nil => rfl
  | cons x l ih => rw [List.foldl_cons, ih, h]

@[simp] theorem setting_flushArmed : (flushArmed a s).setting a = s.setting a := by
  simp [flushArmed, setting_foldl]

@[simp] theorem setting_cancelEngage : (cancelEngage a s).setting a = s.setting a := by
  cases h : (s.gear a).engPend <;> simp [cancelEngage, gearEngaged, h]

@[simp] theorem setting_cancelRelease : (cancelRelease a s).setting a = s.setting a := by
  cases h : (s.gear a).relPend <;> simp [cancelRelease, h]

@[simp] theorem setting_leaveFollowing : (leaveFollowing a s).setting a = s.setting a := by
  unfold leaveFollowing
  simp only [setting_ite]
  simp [leaveGear, leaveFollow]

@[simp] theorem setting_endMove (st : Nat) : (endMove a st s).setting a = s.setting a := by
  cases h : (s.prof a).move <;> simp [endMove, h]

@[simp] theorem setting_flushQueue (st : Nat) : (flushQueue a st s).setting a = s.setting a := by
  simp [flushQueue, followQueue, setting_foldl]

/-- A stop that begins changes the motion of its axis alone. -/
theorem setting_beginStop (kind : StopKind) : (beginStop a kind s).setting a = s.setting a := by
  simp [beginStop, layPlan, showRaised, keepBase, State.setAxState]

end

end Sys2Proof.Machine
end

section
/-! SUPPORT. O21: HOME and HOMING_TIMEOUT (R93, R96). -/

namespace Sys2Proof.Machine

/-! ## The reference (R94) -/

section
variable (s : State) (a : Fin 32)

/-- The registers of a homing lie apart from each other and from the status of the axis. -/
theorem homing_registers : SF_HOME_STAT a ≠ MP_STAT a ∧ SF_HOME_REF_LO a ≠ MP_STAT a ∧ SF_HOME_REF_LO a + 4 ≠ MP_STAT a ∧
    SF_HOME_REF_LO a ≠ SF_HOME_STAT a ∧ SF_HOME_REF_LO a + 4 ≠ SF_HOME_STAT a ∧ 0x44000 ≤ SF_HOME_STAT a := by
  simp only [SF_HOME_STAT, MP_STAT, SF_HOME_REF_LO]
  omega

theorem takeRef_axis (p : Int) (b : Fin 32) : (takeRef a p s).axis b = (s.modHome a fun h => { h with ref := some p }).axis b := (rfl)

theorem axesBut_takeRef (p : Int) : AxesBut [a] s (takeRef a p s) := fun b hb => by
  rw [takeRef_axis, State.modHome, axesBut_modAxis s a _ b hb]

theorem takeRef_axState (p : Int) : (takeRef a p s).axState a = s.axState a := by
  obtain ⟨-, low, high, -⟩ := homing_registers a
  exact axState_setPair _ a p low high

theorem takeRef_fld (p : Int) (f : Fld) : (takeRef a p s).fld (SF_HOME_STAT a) f = s.fld (SF_HOME_STAT a) f := by
  obtain ⟨-, -, -, low, high, -⟩ := homing_registers a
  exact (State.fld_setReg_far _ _ _ _ _ high).trans (State.fld_setReg_far _ _ _ _ _ low)

/-! ## A homing starts (R93) -/

theorem cancelEngage_idle : ((cancelEngage a s).gear a).engPend = none := by
  cases waits : (s.gear a).engPend with
  | none => simp [cancelEngage, waits]
  | some r => exact (cancelEngage_cancels s a waits).1

theorem axesBut_cancelEngage : AxesBut [a] s (cancelEngage a s) := by
  have flushed (z : State) : AxesBut [a] z (flushArmed a z) := fun b hb => by
    rw [(flushArmed_motion z a).axis, State.axis_setFld]
    exact axesBut_modAxis z a _ b hb
  unfold cancelEngage
  split
  · exact fun _ _ => rfl
  · refine AxesBut.trans (fun b hb => ?_) (flushed _)
    rw [gearEngaged, (sameMotion_raiseAxis ..).axis, State.axis_setBit]
    exact axesBut_modAxis s a _ b hb

/-- What a HOME asks for (R93). -/
def homeRunOf (d : Desc) (a : Fin 32) (s : State) : HomeRun :=
  let p := d.payload
  { tag := d.tag, method := payByte p 0, neg := payBit p 1 0, event := payBit p 1 1, encPort := payByte p 2
    search := min (pay48 p 4) (s.vCap a), creep := min (pay48 p 10) (s.vCap a), value := payI64 p 16, maxDist := pay64 p 24
    timeout := pay32 p 32, backoff := pay64 p 36, phase := 0, curNeg := payBit p 1 0, startAt := s.now
    startPos := (s.kinB a).p, indexFrom := 0, ref := none, nextPhase := 0, landB := s.axB a
    k := Vector.replicate 16 0, payload := p, data := [] }

/-- A homing is in force and shown, before its method begins. -/
def homingShown (a : Fin 32) (h : HomeRun) (s : State) : State :=
  let s := (cancelEngage a s).modAxis a fun x => { x with home := some h }
  ((s.setReg (SF_HOME_STAT a) 0).setBit (SF_HOME_STAT a) SF_HOME_STAT_HOMING true).setFld (SF_HOME_STAT a) SF_HOME_STAT_METHOD h.method

/-- The same, with the reference of the method that takes the axis where it stands. -/
def homingStarts (a : Fin 32) (h : HomeRun) (s : State) : State :=
  let s := homingShown a h s
  if h.method = 4 then takeRef a (s.posB a) s else s

variable (h : HomeRun)

theorem homingShown_axis (b : Fin 32) :
    (homingShown a h s).axis b = ((cancelEngage a s).modAxis a fun x => { x with home := some h }).axis b := (rfl)

theorem homingShown_axState : (homingShown a h s).axState a = s.axState a := by
  obtain ⟨apart, -⟩ := homing_registers a
  have cancelled : (cancelEngage a s).axState a = s.axState a := axState_of_course (course_cancelEngage s a)
  unfold homingShown
  dsimp only
  rw [State.axState, State.fld_setFld_far _ _ _ _ _ _ apart, State.setBit, State.fld_setFld_far _ _ _ _ _ _ apart,
    State.fld_setReg_far _ _ _ _ _ apart, State.fld_modAxis]
  exact cancelled

theorem homingShown_status (method : h.method < 256) : (homingShown a h s).bit (SF_HOME_STAT a) SF_HOME_STAT_HOMING = true ∧
    (homingShown a h s).fld (SF_HOME_STAT a) SF_HOME_STAT_METHOD = h.method ∧
    (homingShown a h s).bit (SF_HOME_STAT a) SF_HOME_STAT_HOMED = false := by
  unfold homingShown
  dsimp only
  refine ⟨?_, (State.fld_setFld_same _ _ _ _ (by decide)).trans (Nat.mod_eq_of_lt method), ?_⟩
  · rw [State.bit, State.fld_setFld_other _ _ _ _ _ (by decide) (by decide) (by decide), ← State.bit,
      State.bit_setBit_same _ _ _ _ (by decide) rfl]
  · rw [State.bit, State.fld_setFld_other _ _ _ _ _ (by decide) (by decide) (by decide), ← State.bit,
      State.bit_setBit_other _ _ _ _ _ (by decide) (by decide) (by decide), State.bit, State.fld, State.reg_setReg_same]
    rfl

/-- A homing that starts leaves the state of its axis, and the other axes. -/
theorem homingStarts_shows (method : h.method < 256) :
    let x := homingStarts a h s
    x.axState a = s.axState a ∧ (x.gear a).engPend = none ∧
    (x.home a).map (fun r => (r.tag, r.method)) = some (h.tag, h.method) ∧
    x.bit (SF_HOME_STAT a) SF_HOME_STAT_HOMING = true ∧ x.fld (SF_HOME_STAT a) SF_HOME_STAT_METHOD = h.method ∧
    x.bit (SF_HOME_STAT a) SF_HOME_STAT_HOMED = false ∧ AxesBut [a] s x := by
  have state := homingShown_axState s a h
  obtain ⟨homing, shown, homed⟩ := homingShown_status s a h method
  have idle : ((homingShown a h s).gear a).engPend = none := by
    rw [State.gear, homingShown_axis, State.axis_modAxis_same]
    exact cancelEngage_idle s a
  have home : (homingShown a h s).home a = some h := by rw [State.home, homingShown_axis, State.axis_modAxis_same]
  have others : AxesBut [a] s (homingShown a h s) := fun b hb => by
    rw [homingShown_axis, axesBut_modAxis _ a _ b hb, axesBut_cancelEngage s a b hb]
  unfold homingStarts
  dsimp only
  generalize homingShown a h s = z at *
  split
  · rw [takeRef_axState, State.gear, State.home, takeRef_axis, State.modHome, State.axis_modAxis_same, State.bit, takeRef_fld,
      takeRef_fld, State.bit, takeRef_fld]
    exact ⟨state, idle, by rw [show (z.axis a).home = some h from home]; rfl, homing, shown, homed,
      others.trans (axesBut_takeRef z a _)⟩
  · exact ⟨state, idle, by rw [home]; rfl, homing, shown, homed, others⟩

end

theorem homingStarts_ok {q : Kept} (a : Fin 32) (h : HomeRun) (s : State) (ok : Ok q s) (regs : ¬ q.fixed .regs)
    (axes : ¬ q.fixed .axes) (cabs : ¬ q.fixed .cabs) (engines : ¬ q.fixed .engines) (recorder : ¬ q.fixed .recorder)
    (out : ¬ q.fixed .out) : Ok q (homingStarts a h s) := by
  have shown : Ok q (homingShown a h s) := State.setFld_ok _ _ _ _ (State.setBit_ok _ _ _ _ (State.setReg_ok _ _ _
    (State.modAxis_ok _ a _ (cancelEngage_ok a s ok))))
  exact ok_ite (takeRef_ok a _ _ shown) shown

theorem method_of_good {s : State} {p : Payload} (good : s.homeBad p = false) : payByte p 0 ≤ 4 := by
  simp only [State.homeBad, Bool.or_eq_false_iff, decide_eq_false_iff_not] at good
  omega

theorem landHome_starts {z : State} {d : Desc} {a : Fin 32} (ht : finAx d.target = a) (good : z.homeBad d.payload = false)
    (state : z.axState a = axSTANDSTILL) (home : z.homing a = false) (calm : z.rxOf a < 3) (stays : (z.axis a).mig = none) :
    landHome d z = complete d stSTARTED (if z.vCap a < pay48 d.payload 4 ∨ z.vCap a < pay48 d.payload 10 then 1 else 0) (z.landOf d)
      (homingStarts a (homeRunOf d a z) z) := by
  subst ht
  unfold landHome
  dsimp only
  rw [good, if_neg Bool.false_ne_true, if_neg (by simp [state, home, calm, stays])]
  rfl

/-- A good HOME on an axis that stands, that no reaction, homing or migration refuses. -/
theorem home_runs {s : State} {d : Desc} {a : Fin 32} (plain : d.plain) (admitted : s.admits d = true) (target : d.target = a.1)
    (good : s.homeBad d.payload = false) (state : s.axState a = axSTANDSTILL) (home : s.homing a = false) (calm : s.rxOf a < 3)
    (stays : (s.axis a).mig = none) :
    Runs (.home d) s fun x =>
      (∃ f, f ≤ 1 ∧ Answers d stSTARTED f (s.axB a) s x) ∧ x.axState a = axSTANDSTILL ∧ (x.gear a).engPend = none ∧
      (x.home a).map (fun h => (h.tag, h.method)) = some (d.tag, payByte d.payload 0) ∧
      x.bit (SF_HOME_STAT a) SF_HOME_STAT_HOMING = true ∧ x.fld (SF_HOME_STAT a) SF_HOME_STAT_METHOD = payByte d.payload 0 ∧
      x.bit (SF_HOME_STAT a) SF_HOME_STAT_HOMED = false ∧ AxesBut [a] s x := by
  have method := method_of_good good
  refine runs_admitted (f := landHome d) rfl admitted ?_
  rw [landHome_starts (z := s.accepted d) (finAx_of target) good state home calm stays, accepted_landOf target]
  generalize flagged : (if (s.accepted d).vCap a < pay48 d.payload 4 ∨ (s.accepted d).vCap a < pay48 d.payload 10 then 1 else 0) = f
  have same := complete_motion (y := homingStarts a (homeRunOf d a (s.accepted d)) (s.accepted d)) (st := stSTARTED) (flags := f)
    (land := s.axB a) plain
  obtain ⟨stands, idle, run, homing, shown, homed, others⟩ :=
    homingStarts_shows (s.accepted d) a (homeRunOf d a (s.accepted d)) (by show payByte d.payload 0 < 256; omega)
  obtain ⟨-, -, -, -, -, range⟩ := homing_registers a
  have kept : State.home (complete d stSTARTED f (s.axB a) (homingStarts a (homeRunOf d a (s.accepted d)) (s.accepted d))) a =
    (homingStarts a (homeRunOf d a (s.accepted d)) (s.accepted d)).home a := congrArg Axis.home (same.axis a)
  rw [same.axState, same.gear, kept, same.bit range, same.fld range, same.bit range]
  refine ⟨⟨f, by subst flagged; split <;> decide, ?_⟩, stands.trans state, idle, run, homing, shown, homed, fun b hb => ?_⟩
  · exact answers_after (z := s.accepted d) plain fun q h regs axes engines cabs recorder out =>
      homingStarts_ok a _ _ h regs axes cabs engines recorder out
  · rw [same.axis, others b hb]
    rfl

/-! ## A homing fails (R96) -/

section
variable (s : State) (a : Fin 32)

/-- The stop of a failed homing, now at a boundary or due at the next one. -/
def stopAsked (a : Fin 32) (s : State) : State :=
  if s.moving a ∧ (s.axis a).io.stopPend = none then
    if (s.tile (tileOf a)).stepping then beginStop a .homing s else s.modProf a fun x => { x with stopDue := true }
  else s

theorem failHome_eq (reason : Nat) : failHome a reason s = failHoming a reason (stopAsked a s) := rfl

theorem setting_stopAsked : (stopAsked a s).setting a = s.setting a := by
  unfold stopAsked
  split
  · split
    · exact setting_beginStop s a .homing
    · exact setting_modProf s a _
  · rfl

theorem stopAsked_due (moves : s.moving a = true) (free : (s.axis a).io.stopPend = none)
    (within : (s.tile (tileOf a)).stepping = false) : ((stopAsked a s).prof a).stopDue = true := by
  rw [stopAsked, if_pos ⟨moves, free⟩, within, if_neg Bool.false_ne_true, prof_modProf]

/-- A homing that ends keeps the other fields of its status. -/
theorem endHoming_status : (endHoming a s).bit (SF_HOME_STAT a) SF_HOME_STAT_HOMING = false ∧
    (∀ f : Fld, f.lo + f.width ≤ 32 → SF_HOME_STAT_HOMING.apart f = true → SF_HOME_STAT_PHASE.apart f = true →
      (endHoming a s).fld (SF_HOME_STAT a) f = s.fld (SF_HOME_STAT a) f) := by
  have engine (e : Fin 46) : ENG_STAT e ≠ SF_HOME_STAT a := by
    simp only [ENG_STAT, SF_HOME_STAT]
    omega
  have ended (f : Fld) : (endHoming a s).fld (SF_HOME_STAT a) f =
      ((s.setBit (SF_HOME_STAT a) SF_HOME_STAT_HOMING false).setFld (SF_HOME_STAT a) SF_HOME_STAT_PHASE 0).fld (SF_HOME_STAT a) f := by
    unfold endHoming
    dsimp only
    rw [State.fld_modEng]
    split
    · exact State.fld_setFld_far _ _ _ _ _ _ (engine _)
    · rfl
  refine ⟨?_, fun f fits homing phase => ?_⟩
  · rw [State.bit, ended, State.fld_setFld_other _ _ _ _ _ (by decide) (by decide) (by decide), ← State.bit,
      State.bit_setBit_same _ _ _ _ (by decide) rfl]
  · rw [ended, State.fld_setFld_other _ _ _ _ _ (by decide) fits phase, State.setBit,
      State.fld_setFld_other _ _ _ _ _ (by decide) fits homing]

/-- A homing that fails shows its reason. -/
theorem failHoming_shows {h : HomeRun} (runs : s.home a = some h) (reason : Nat) (small : reason < 256) :
    (failHoming a reason s).home a = none ∧ (failHoming a reason s).fld (SF_HOME_STAT a) SF_HOME_STAT_REASON = reason ∧
    (failHoming a reason s).bit (SF_HOME_STAT a) SF_HOME_STAT_HOMING = false ∧
    (failHoming a reason s).bit (SF_HOME_STAT a) SF_HOME_STAT_HOMED = false := by
  have ended := failHoming_homing s a reason
  obtain ⟨-, -, -, -, -, range⟩ := homing_registers a
  have same : SameMotion (endHoming a ((s.setFld (SF_HOME_STAT a) SF_HOME_STAT_REASON reason).setBit (SF_HOME_STAT a)
      SF_HOME_STAT_HOMED false)) (failHoming a reason s) := by
    have run : (s.axis a).home = some h := runs
    unfold failHoming
    rw [run]
    exact (sameMotion_record ..).trans (sameMotion_raiseAxis ..)
  obtain ⟨homing, others⟩ := endHoming_status ((s.setFld (SF_HOME_STAT a) SF_HOME_STAT_REASON reason).setBit (SF_HOME_STAT a)
    SF_HOME_STAT_HOMED false) a
  refine ⟨by simpa [State.homing, State.home] using ended, ?_, (same.bit range _).trans homing, ?_⟩
  · rw [same.fld range, others _ (by decide) (by decide) (by decide), State.setBit,
      State.fld_setFld_other _ _ _ _ _ (by decide) (by decide) (by decide), State.fld_setFld_same _ _ _ _ (by decide)]
    exact Nat.mod_eq_of_lt small
  · rw [same.bit range, State.bit, others _ (by decide) (by decide) (by decide), ← State.bit,
      State.bit_setBit_same _ _ _ _ (by decide) rfl]

end

theorem homingTimeout_due {s : State} {a : Fin 32} {h : HomeRun} (runs : s.home a = some h) (limited : h.timeout ≠ 0)
    (due : h.startAt + 1000000 * h.timeout ≤ s.now) : homingTimeout a s = failHome a 4 s := by
  unfold homingTimeout
  rw [runs]
  exact if_pos ⟨limited, due⟩

theorem homingTimeout_runs {s : State} {a : Fin 32} {t : Nat} {h : HomeRun} (runs : s.home a = some h) (limited : h.timeout ≠ 0)
    (due : h.startAt + 1000000 * h.timeout ≤ (s.reach t).now) :
    Runs (.homingTimeout t a) s fun x =>
      x.home a = none ∧ x.fld (SF_HOME_STAT a) SF_HOME_STAT_REASON = 4 ∧
      x.bit (SF_HOME_STAT a) SF_HOME_STAT_HOMING = false ∧ x.bit (SF_HOME_STAT a) SF_HOME_STAT_HOMED = false ∧
      (s.moving a = true → (s.axis a).io.stopPend = none → (s.tile (tileOf a)).stepping = false → (x.prof a).stopDue = true) := by
  refine ⟨homingTimeout a (s.reach t), rfl, ?_⟩
  rw [homingTimeout_due (s := s.reach t) runs limited due, failHome_eq]
  have asked : (stopAsked a (s.reach t)).home a = some h := (home_of_setting (setting_stopAsked (s.reach t) a)).trans runs
  obtain ⟨ended, shown, homing, homed⟩ := failHoming_shows _ a asked 4 (by decide)
  refine ⟨ended, shown, homing, homed, fun moves free within => ?_⟩
  rw [prof_of_course (course_failHoming ..)]
  exact stopAsked_due (s.reach t) a moves free within

/-- Settles O21: HOME lands on the state at its acceptance, and its completion leaves the axes; the timeout fails the homing, which leaves
the stop that it asked for. -/
theorem homingStartsAndTimesOut : Obligations.HomingStartsAndTimesOut := fun _ _ =>
  ⟨fun _ => home_runs, fun _ _ => homingTimeout_runs⟩

end Sys2Proof.Machine
end

section
/-! SUPPORT. O22: the path of an axis, which is what its commanded position follows: neither what its inputs show nor what they hold bears on
it (R48, R61, R62, R66). -/

namespace Sys2Proof.Machine

/-! ## States in which an axis is on the same path -/

/-- A register that bears on the path of an axis, alone or as the low one of a pair: of the axes and tiles, but for that of the inputs. -/
def onPath (a : Fin 32) (r : Nat) : Prop := 0x44000 ≤ r ∧ r ≠ SF_IO_STAT a ∧ r + 4 ≠ SF_IO_STAT a

@[simp] theorem onPath_axis (a : Fin 32) : onPath a (MP_STAT a) ∧ onPath a (MP_CTRL a) ∧ onPath a (MP_CNT a) ∧ onPath a (MP_DERATE a) ∧
    onPath a (MP_VLIM_LO a) ∧ onPath a (MP_ALIM_LO a) ∧ onPath a (MP_EMERG_LO a) ∧ onPath a (MP_SLIM_NEG_LO a) ∧
    onPath a (MP_SLIM_POS_LO a) ∧ onPath a (SF_WIN a) := by
  simp only [onPath, SF_IO_STAT, MP_STAT, MP_CTRL, MP_CNT, MP_DERATE, MP_VLIM_LO, MP_ALIM_LO, MP_EMERG_LO, MP_SLIM_NEG_LO,
    MP_SLIM_POS_LO, SF_WIN]
  omega

@[simp] theorem onPath_tile (a : Fin 32) (t : Fin 4) : onPath a (LT_TILE_PERIOD t) ∧ onPath a (LT_TILE_MODE t) := by
  simp only [onPath, SF_IO_STAT, LT_TILE_PERIOD, LT_TILE_MODE]
  omega

/-- An axis beside its inputs. -/
def Axis.path (x : Axis) : Axis := { x with io := .init }

/-- Two states in which an axis is on the same path: it differs in its inputs alone, and the tiles and the registers of the path are the
same. -/
structure SamePath (a : Fin 32) (s t : State) : Prop where
  axis : (t.axis a).path = (s.axis a).path
  tiles : t.tiles = s.tiles
  reg : ∀ r, 0x44000 ≤ r → r ≠ SF_IO_STAT a → t.reg r = s.reg r

section
variable {s t : State} {a : Fin 32}

theorem SameMotion.samePath (h : SameMotion s t) (a : Fin 32) : SamePath a s t :=
  ⟨by rw [h.axis], h.tiles, fun r hr _ => h.reg r hr⟩

theorem SamePath.trans {u : State} (h : SamePath a s t) (h' : SamePath a t u) : SamePath a s u :=
  ⟨h'.axis.trans h.axis, h'.tiles.trans h.tiles, fun r hr hi => (h'.reg r hr hi).trans (h.reg r hr hi)⟩

theorem SamePath.symm (h : SamePath a s t) : SamePath a t s :=
  ⟨h.axis.symm, h.tiles.symm, fun r hr hi => (h.reg r hr hi).symm⟩

/-- The inputs of an axis change. -/
theorem samePath_modIo (s : State) (a : Fin 32) (f : AxisIo → AxisIo) : SamePath a s (s.modIo a f) :=
  ⟨by rw [State.modIo, State.axis_modAxis_same]; rfl, rfl, fun _ _ _ => rfl⟩

/-- What the inputs show changes. -/
theorem samePath_setBit (s : State) (a : Fin 32) (f : Fld) (b : Bool) : SamePath a s (s.setBit (SF_IO_STAT a) f b) :=
  ⟨rfl, rfl, fun r _ hi => State.reg_setFld_far s _ r f _ hi.symm⟩

variable (h : SamePath a s t)
include h

/-- States on the same path, seen from states that have moved on alike. -/
theorem SamePath.between {s' t' : State} (hs : SameMotion s s') (ht : SameMotion t t') : SamePath a s' t' :=
  ((hs.samePath a).symm.trans h).trans (ht.samePath a)

theorem SamePath.prof : t.prof a = s.prof a := (congrArg Axis.prof h.axis :)
theorem SamePath.gear : t.gear a = s.gear a := (congrArg Axis.gear h.axis :)
theorem SamePath.sf : t.sf a = s.sf a := (congrArg Axis.sf h.axis :)
theorem SamePath.home : (t.axis a).home = (s.axis a).home := (congrArg Axis.home h.axis :)
theorem SamePath.bank : (t.axis a).bank = (s.axis a).bank := (congrArg Axis.bank h.axis :)

theorem SamePath.fld {r : Nat} (hr : onPath a r) (f : Fld) : t.fld r f = s.fld r f := by
  rw [State.fld, h.reg r hr.1 hr.2.1, State.fld]

theorem SamePath.bit {r : Nat} (hr : onPath a r) (f : Fld) : t.bit r f = s.bit r f := by
  rw [State.bit, h.fld hr, State.bit]

theorem SamePath.pair {r : Nat} (hr : onPath a r) : t.pair r = s.pair r := by
  obtain ⟨range, low, high⟩ := hr
  rw [State.pair, h.reg r range low, h.reg (r + 4) (by omega) high, State.pair]

theorem SamePath.axState : t.axState a = s.axState a := h.fld (by simp) _

theorem SamePath.axB : t.axB a = s.axB a := by rw [State.axB, State.boundary, State.tile, h.tiles, State.axB, State.boundary, State.tile]

theorem SamePath.axT : t.axT a = s.axT a := by rw [State.axT, State.period, h.fld (by simp), State.axT, State.period]

theorem SamePath.softOk (x : Int) : t.softOk a x = s.softOk a x := by
  have on : t.softOn a = s.softOn a := by
    rw [State.softOn, h.bit (by simp), State.homing, h.home, State.softOn, State.homing]
  have neg : t.softNeg a = s.softNeg a := by rw [State.softNeg, State.pairI, h.pair (by simp), State.softNeg, State.pairI]
  have pos : t.softPos a = s.softPos a := by rw [State.softPos, State.pairI, h.pair (by simp), State.softPos, State.pairI]
  rw [State.softOk, on, neg, pos, State.softOk]

/-- The limits in force on an axis (R57, R66, R68). -/
theorem SamePath.limits (l : Limits) : t.bankOf a = s.bankOf a ∧ t.vEff a l = s.vEff a l ∧ t.aEff a l = s.aEff a l ∧
    t.dEff a l = s.dEff a l ∧ t.emerg a = s.emerg a := by
  have emerg : t.emerg a = s.emerg a := h.pair (by simp)
  have acap : t.aCap a = s.aCap a := by
    rw [State.aCap, h.pair (by simp), ← State.emerg, emerg, State.emerg, ← State.aCap]
  refine ⟨?_, ?_, ?_, ?_, emerg⟩
  · rw [State.bankOf, State.bankNo, h.bank, h.fld (by simp), State.bankOf, State.bankNo]
  · rw [State.vEff, State.vCap, h.pair (by simp), State.vEff, State.vCap]
  · rw [State.aEff, acap, h.bit (by simp), h.fld (by simp), State.aEff]
  · rw [State.dEff, acap, State.dEff]

/-! ## What is done alike -/

theorem SamePath.setReg (r : Nat) (x : Word) : SamePath a (s.setReg r x) (t.setReg r x) := by
  refine ⟨h.axis, h.tiles, fun b hb hi => ?_⟩
  rw [State.reg_setReg, State.reg_setReg, h.reg b hb hi]

theorem SamePath.setFld {r : Nat} (hr : onPath a r) (f : Fld) (x : Nat) : SamePath a (s.setFld r f x) (t.setFld r f x) := by
  rw [State.setFld, State.setFld, h.reg r hr.1 hr.2.1]
  exact h.setReg r _

theorem SamePath.setBit {r : Nat} (hr : onPath a r) (f : Fld) (x : Bool) : SamePath a (s.setBit r f x) (t.setBit r f x) :=
  h.setFld hr f _

theorem SamePath.count {r : Nat} (hr : onPath a r) (f : Fld) : SamePath a (s.count r f) (t.count r f) := by
  rw [State.count, State.count, State.countN, State.countN, h.fld hr]
  exact h.setFld hr f _

theorem SamePath.setPair (r : Nat) (x : Int) : SamePath a (s.setPair r x) (t.setPair r x) := (h.setReg r _).setReg _ _

theorem SamePath.setAxState (x : Nat) : SamePath a (s.setAxState a x) (t.setAxState a x) := h.setFld (by simp) _ _

theorem SamePath.modProf (f : Profile → Profile) : SamePath a (s.modProf a f) (t.modProf a f) := by
  refine ⟨?_, h.tiles, h.reg⟩
  rw [State.modProf, State.modProf, State.axis_modAxis_same, State.axis_modAxis_same]
  exact congrArg (fun x : Axis => { x with prof := f x.prof }) h.axis

/-! ## The profile carried on -/

theorem SamePath.moveEnds (internal : Bool) (tag st : Nat) (target : Int) :
    SamePath a (moveEnds a internal tag st target s) (moveEnds a internal tag st target t) :=
  h.between (sameMotion_moveEnds ..) (sameMotion_moveEnds ..)

theorem SamePath.noteRaised (asked used : Nat) : SamePath a (noteRaised a asked used s) (noteRaised a asked used t) :=
  ((h.setBit (by simp) MP_STAT_DECEL_RAISED true).count (by simp) MP_CNT_RAISED).between (sameMotion_record ..) (sameMotion_record ..)

theorem SamePath.startMove (x : Rat) (k : Kin) (r : MoveReq) : SamePath a (startMove a x k r s) (startMove a x k r t) := by
  obtain ⟨bank, -⟩ := h.limits Limits.zero
  unfold Machine.startMove
  dsimp only
  rw [bank]
  generalize (⟨_, _, _, _, _, _, _⟩ : Limits) = l
  obtain ⟨-, v, acc, d, emerg⟩ := h.limits l
  rw [v, acc, d, emerg]
  generalize planMove x k r.target _ _ _ _ _ = out
  cases out with
  | none => exact h
  | some o =>
    have raised : SamePath a
        (if o.raised then Machine.noteRaised a (s.dEff a l) o.dUsed s else s.setBit (MP_STAT a) MP_STAT_DECEL_RAISED false)
        (if o.raised then Machine.noteRaised a (s.dEff a l) o.dUsed t else t.setBit (MP_STAT a) MP_STAT_DECEL_RAISED false) := by
      split
      · exact h.noteRaised _ _
      · exact h.setBit (by simp) _ _
    exact (((((raised.modProf _).modProf _).setFld (by simp) _ _).setBit (by simp) _ _).setAxState _).setPair _ _

theorem SamePath.arrive (m : MoveRun) : SamePath a (arrive a m s) (arrive a m t) := by
  have cleared := ((h.modProf fun x => { x with move := none }).setFld (r := MP_STAT a) (by simp) MP_STAT_HEAD_TAG 0).setBit
    (r := MP_STAT a) (by simp) MP_STAT_DECEL_RAISED false
  unfold Machine.arrive
  dsimp only
  rw [cleared.bit (by simp)]
  exact cleared.moveEnds _ _ _ _

theorem SamePath.nextOrRest (x : Rat) : SamePath a (nextOrRest a x s) (nextOrRest a x t) := by
  unfold Machine.nextOrRest
  rw [h.prof]
  split <;> exact (h.modProf _).setAxState _

theorem SamePath.stopEnded : SamePath a (stopEnded a s) (stopEnded a t) := by
  unfold Machine.stopEnded
  rw [h.prof]
  have rest := ((h.modProf fun x => { x with queue := resolveQueue (roundHalfAway (planEndPos (s.prof a).plan)) x.queue }).setBit
    (r := MP_STAT a) (by simp) MP_STAT_AT_SOFT (decide ((s.prof a).stopKind = .soft) && (s.prof a).softDir.isSome)).setBit
    (r := MP_STAT a) (by simp) MP_STAT_DECEL_RAISED false
  dsimp only
  rw [rest.prof]
  refine SamePath.nextOrRest ?_ _
  split
  · exact rest.between (sameMotion_axisEvent ..) (sameMotion_axisEvent ..)
  · exact rest

omit h in
theorem SamePath.startQueued (h : SamePath a s t) (x : Rat) (n : Nat) : SamePath a (startQueued a x n s) (startQueued a x n t) := by
  induction n generalizing s t with
  | zero => exact (h.modProf _).nextOrRest x
  | succ n ih =>
    unfold Machine.startQueued
    rw [h.prof]
    cases (s.prof a).queue with
    | nil => exact (h.modProf _).nextOrRest x
    | cons r rest =>
      have taken := h.modProf fun x => { x with queue := rest, dwellEnd := none }
      dsimp only
      rw [taken.softOk, taken.prof]
      split
      · split
        · exact ((taken.setPair _ _).arrive _).nextOrRest x
        · exact taken.startMove x _ r
      · exact ih (taken.moveEnds _ _ _ _)

omit h in
/-- What has ended by an instant is carried out alike. -/
theorem SamePath.progress (h : SamePath a s t) (x n : Nat) : SamePath a (progress a x n s) (progress a x n t) := by
  induction n generalizing s t with
  | zero => exact h
  | succ n ih =>
    unfold Machine.progress
    dsimp only
    rw [h.prof, h.axState]
    split
    · split
      · split
        · exact ih (h.startQueued _ 9)
        · exact h
      · split
        · split
          · exact ih ((h.arrive _).nextOrRest _)
          · exact h
        · exact h
    · split
      · split
        · exact ih h.stopEnded
        · exact h
      · split
        · exact h.setAxState _
        · exact h

/-- The commanded state at an instant. -/
theorem SamePath.kinAt (x y : Nat) : t.kinAt a x y = s.kinAt a x y := by
  have window : t.sfWin a = s.sfWin a := by rw [State.sfWin, h.fld (by simp), State.sfWin]
  have follow : t.sfAt a x y = s.sfAt a x y := by rw [State.sfAt, h.sf, h.axT, window, State.sfAt]
  rw [State.kinAt, h.axState, h.axB, h.sf, h.gear, follow, (h.progress x 24).prof, State.kinAt]

/-- An axis moves into a limit, or not (R91). -/
theorem SamePath.movesInto (neg : Bool) (x : Nat) : t.movesInto a neg x = s.movesInto a neg x := by
  rw [State.movesInto, h.axB, h.kinAt, State.movesInto]

end

end Sys2Proof.Machine
end

section
/-! SUPPORT. O22: the HOME and limit inputs (R84, R85, R91, R92). What a homing makes of an input leaves what the inputs show and hold. -/

namespace Sys2Proof.Machine

/-! ## The inputs of an axis -/

/-- What the inputs of an axis hold and show. -/
def State.inputs (s : State) (a : Fin 32) : AxisIo × Word := ((s.axis a).io, s.reg (SF_IO_STAT a))

section
variable {s t : State} {a : Fin 32}

theorem io_of_inputs (h : t.inputs a = s.inputs a) : (t.axis a).io = (s.axis a).io := congrArg (·.1) h

theorem bit_of_inputs (h : t.inputs a = s.inputs a) (f : Fld) : t.bit (SF_IO_STAT a) f = s.bit (SF_IO_STAT a) f := by
  have shown : t.reg (SF_IO_STAT a) = s.reg (SF_IO_STAT a) := congrArg (·.2) h
  rw [State.bit, State.fld, shown, State.bit, State.fld]

theorem inputs_of_setting (h : t.setting a = s.setting a) : t.inputs a = s.inputs a :=
  congrArg (fun x => (x.1.io, x.2)) h

theorem inputs_of_motion (h : SameMotion s t) : t.inputs a = s.inputs a := inputs_of_setting (setting_of_motion h a)

end

/-- The registers that a homing sets beside the motion lie apart from that of the inputs. -/
@[simp] theorem inputs_apart_homing (a : Fin 32) : SF_HOME_REF_LO a ≠ SF_IO_STAT a ∧ SF_HOME_REF_LO a + 4 ≠ SF_IO_STAT a ∧
    SF_IO_FILT a ≠ SF_IO_STAT a ∧ SF_IO_CNT a ≠ SF_IO_STAT a := by
  simp only [SF_HOME_REF_LO, SF_IO_STAT, SF_IO_FILT, SF_IO_CNT]
  omega

@[simp] theorem inputs_apart_engine (a : Fin 32) (e : Fin 46) : ENG_STAT e ≠ SF_IO_STAT a := by
  simp only [ENG_STAT, SF_IO_STAT]
  omega

section
variable (s : State) (a : Fin 32)

@[simp] theorem inputs_setFld {r : Nat} (f : Fld) (x : Nat) (h : r ≠ SF_IO_STAT a) : (s.setFld r f x).inputs a = s.inputs a :=
  inputs_of_setting (setting_setFld s a f x h)

@[simp] theorem inputs_setBit {r : Nat} (f : Fld) (b : Bool) (h : r ≠ SF_IO_STAT a) : (s.setBit r f b).inputs a = s.inputs a :=
  inputs_setFld s a f _ h

@[simp] theorem inputs_setPair {r : Nat} (x : Int) (low : r ≠ SF_IO_STAT a) (high : r + 4 ≠ SF_IO_STAT a) :
    (s.setPair r x).inputs a = s.inputs a :=
  congrArg ((s.axis a).io, ·) ((State.reg_setReg_other _ _ _ _ high).trans (State.reg_setReg_other s _ _ _ low))

@[simp] theorem inputs_modHome (f : HomeRun → HomeRun) : (s.modHome a f).inputs a = s.inputs a := by
  rw [State.inputs, State.modHome, State.axis_modAxis_same, State.reg_modAxis, State.inputs]

@[simp] theorem inputs_ite (c : Prop) [Decidable c] (s t : State) :
    (if c then s else t).inputs a = if c then s.inputs a else t.inputs a := apply_ite (State.inputs · a) c s t

@[simp] theorem inputs_takeRef (p : Int) : (takeRef a p s).inputs a = s.inputs a := by
  simp [takeRef]

@[simp] theorem inputs_homePhase (n : Nat) : (homePhase a n s).inputs a = s.inputs a := by
  simp [homePhase]

theorem inputs_endHoming : (endHoming a s).inputs a = s.inputs a := by
  have ended : (s.modAxis a fun x => { x with home := none }).inputs a = s.inputs a := by
    rw [State.inputs, State.axis_modAxis_same, State.reg_modAxis, State.inputs]
  have resumed (z : State) (e : Fin 46) (f : Engine → Engine) : (z.modEng e f).inputs a = z.inputs a := rfl
  unfold endHoming
  dsimp only
  rw [resumed]
  simp [ended]

@[simp] theorem inputs_failHoming (reason : Nat) : (failHoming a reason s).inputs a = s.inputs a := by
  unfold failHoming
  split
  · rfl
  · rw [homeDone, inputs_of_motion (sameMotion_raiseAxis ..), inputs_of_motion (sameMotion_record ..), inputs_endHoming]
    simp

@[simp] theorem inputs_failHome (reason : Nat) : (failHome a reason s).inputs a = s.inputs a := by
  rw [failHome_eq, inputs_failHoming, inputs_of_setting (setting_stopAsked s a)]

/-! ## What a homing makes of an input (R94, R95) -/

theorem inputs_homeSwitch (on : Bool) (p : Int) : (homeSwitch a on p s).inputs a = s.inputs a := by
  unfold homeSwitch
  split
  · rfl
  · simp

theorem inputs_homeLimit (neg : Bool) : (homeLimit a neg s).inputs a = s.inputs a := by
  unfold homeLimit
  split
  · rfl
  · simp

theorem homeLimitOff_leaves (neg : Bool) (p : Int) : (homeLimitOff a neg p s).inputs a = s.inputs a ∧
    (homeLimitOff a neg p s).axState a = s.axState a := by
  unfold homeLimitOff
  split
  · exact ⟨rfl, rfl⟩
  · split
    · exact ⟨inputs_takeRef s a p, takeRef_axState s a p⟩
    · exact ⟨rfl, rfl⟩

/-! ## A change inside the hold (R85) -/

/-- A change inside the hold is counted and suppressed. -/
theorem chatter_counts (t : Nat) : Counts s (chatter a (s.reach t)) (SF_IO_CNT a) SF_IO_CNT_CHATTER ∧
    RegsBut [SF_IO_CNT a] s (chatter a (s.reach t)) ∧ Touches [.now, .regs] s (chatter a (s.reach t)) := by
  refine ⟨counts_count (s.reach t) _ _ (by decide), regsBut_count (s.reach t) _ _, touches_of_keepBut ?_⟩
  exact State.count_ok _ _ _ (State.reach_ok s t (keepBut_start _ s) (by simp [keepBut])) (by simp [keepBut])

/-! ## The HOME input (R85) -/

variable {t : Nat} {on : Bool}

theorem homeInput_held (new : s.bit (SF_IO_STAT a) SF_IO_STAT_HOME ≠ on) (early : t < (s.axis a).io.holdHome) :
    homeInput a t on s = chatter a s := by
  unfold homeInput
  rw [if_neg new, if_pos early]

/-- Outside the hold the input shows its level, and holds it. -/
theorem homeInput_changes (new : s.bit (SF_IO_STAT a) SF_IO_STAT_HOME ≠ on) (late : (s.axis a).io.holdHome ≤ t) :
    (homeInput a t on s).bit (SF_IO_STAT a) SF_IO_STAT_HOME = on ∧
    ((homeInput a t on s).axis a).io.holdHome = t + s.ioHold a := by
  unfold homeInput
  rw [if_neg new, if_neg (Nat.not_lt.2 late)]
  dsimp only
  generalize s.posNow a (s.ioEdge a t) = p
  have same := (inputs_homeSwitch (axisEvent a (if on then 0 else 1) p ((s.setBit (SF_IO_STAT a) SF_IO_STAT_HOME on).modIo a
    fun x => { x with holdHome := t + s.ioHold a })) a on p).trans (inputs_of_motion (sameMotion_axisEvent ..))
  rw [bit_of_inputs same, io_of_inputs same, State.modIo, State.bit_modAxis, State.axis_modAxis_same]
  exact ⟨State.bit_setBit_same _ _ _ _ (by decide) rfl, rfl⟩

end

/-- HOME_INPUT_CHANGE at a level that differs from the one shown, outside the hold and inside it. -/
theorem homeInputChange_runs {s : State} {t : Nat} {a : Fin 32} {raw : BitVec 15} {on : Bool}
    (level : s.ioLevel a SF_IO_STAT_HOME SF_IO_FILT_POL_HOME raw t = on) :
    (s.bit (SF_IO_STAT a) SF_IO_STAT_HOME ≠ on → Runs (.homeInputChange t a raw) s fun x =>
      ((s.axis a).io.holdHome ≤ t → x.bit (SF_IO_STAT a) SF_IO_STAT_HOME = on ∧ (x.axis a).io.holdHome = t + s.ioHold a) ∧
      (t < (s.axis a).io.holdHome → Counts s x (SF_IO_CNT a) SF_IO_CNT_CHATTER ∧
        RegsBut [SF_IO_CNT a] s x ∧ Touches [.now, .regs] s x)) ∧
    (s.bit (SF_IO_STAT a) SF_IO_STAT_HOME = on → Runs (.homeInputChange t a raw) s fun x => x = s.reach t) := by
  subst level
  refine ⟨fun new => ⟨_, rfl, fun late => homeInput_changes (s.reach t) a new late, fun early => ?_⟩,
    fun shown => ⟨_, rfl, if_pos shown⟩⟩
  have held := homeInput_held (s.reach t) a new early
  have counted := chatter_counts s a t
  rw [← held] at counted
  exact counted

/-! ## The limit inputs (R85, R90, R91) -/

/-- The field of SF_IO_STAT that shows a limit, its lock, and its enable. -/
def limFld (neg : Bool) : Fld := if neg then SF_IO_STAT_LIMN else SF_IO_STAT_LIMP
def lockFld (neg : Bool) : Fld := if neg then SF_IO_STAT_LOCKN else SF_IO_STAT_LOCKP
def limEnFld (neg : Bool) : Fld := if neg then SF_IO_FILT_LIMN_EN else SF_IO_FILT_LIMP_EN

/-- The end of the hold of a limit, and the position at which it was hit. -/
def AxisIo.limHold (x : AxisIo) (neg : Bool) : Nat := if neg then x.holdN else x.holdP
def AxisIo.trip (x : AxisIo) (neg : Bool) : Rat := if neg then x.tripN else x.tripP

theorem limFld_fits (neg : Bool) : (limFld neg).lo + (limFld neg).width ≤ 32 ∧ (limFld neg).width = 1 := by
  cases neg <;> decide

theorem lockFld_fits (neg : Bool) : (lockFld neg).lo + (lockFld neg).width ≤ 32 ∧ (lockFld neg).width = 1 := by
  cases neg <;> decide

theorem limFld_apart_lockFld (n m : Bool) : (limFld n).apart (lockFld m) = true ∧ (lockFld m).apart (limFld n) = true := by
  cases n <;> cases m <;> decide

section
variable (s : State) (a : Fin 32) (neg : Bool)

theorem limitOn_eq : s.limitOn a neg = (s.bit (SF_IO_STAT a) (limFld neg) && s.bit (SF_IO_FILT a) (limEnFld neg)) := by
  cases neg <;> rfl

/-- A lock leaves the limits shown. -/
theorem bit_lock (m : Bool) : (s.setBit (SF_IO_STAT a) (lockFld m) true).bit (SF_IO_STAT a) (limFld neg) =
    s.bit (SF_IO_STAT a) (limFld neg) :=
  State.bit_setBit_other _ _ _ _ _ (lockFld_fits m).1 (limFld_fits neg).1 (limFld_apart_lockFld neg m).2

/-- A limit changes at `t`: its input shows it, and is held. -/
def limitShown (a : Fin 32) (neg : Bool) (t : Nat) (on : Bool) (s : State) : State :=
  (s.setBit (SF_IO_STAT a) (limFld neg) on).modIo a fun y =>
    if neg then { y with holdN := t + s.ioHold a } else { y with holdP := t + s.ioHold a }

theorem limitShown_bits (t : Nat) (on : Bool) : (limitShown a neg t on s).bit (SF_IO_STAT a) (limFld neg) = on ∧
    (limitShown a neg t on s).bit (SF_IO_STAT a) (lockFld neg) = s.bit (SF_IO_STAT a) (lockFld neg) ∧
    (limitShown a neg t on s).bit (SF_IO_FILT a) (limEnFld neg) = s.bit (SF_IO_FILT a) (limEnFld neg) ∧
    (limitShown a neg t on s).axState a = s.axState a := by
  have far : SF_IO_STAT a ≠ SF_IO_FILT a ∧ SF_IO_STAT a ≠ MP_STAT a := by
    simp only [SF_IO_STAT, SF_IO_FILT, MP_STAT]
    omega
  unfold limitShown
  rw [State.modIo, State.axState, State.fld_modAxis, State.bit_modAxis, State.bit_modAxis, State.bit_modAxis]
  exact ⟨State.bit_setBit_same _ _ _ _ (limFld_fits neg).1 (limFld_fits neg).2,
    State.bit_setBit_other _ _ _ _ _ (limFld_fits neg).1 (lockFld_fits neg).1 (limFld_apart_lockFld neg neg).1,
    State.bit_setBit_far _ _ _ _ _ _ far.1, State.fld_setFld_far _ _ _ _ _ _ far.2⟩

theorem samePath_limitShown (t : Nat) (on : Bool) : SamePath a s (limitShown a neg t on s) :=
  (samePath_setBit s a _ on).trans (samePath_modIo _ a _)

section
variable {s a neg} {t : Nat} {on : Bool} (new : s.bit (SF_IO_STAT a) (limFld neg) ≠ on)
include new

theorem limitInput_held (early : t < (s.axis a).io.limHold neg) : limitInput a neg t on s = chatter a s := by
  have shown : ¬ s.bit (SF_IO_STAT a) (if neg then SF_IO_STAT_LIMN else SF_IO_STAT_LIMP) = on := new
  unfold limitInput
  dsimp only
  rw [if_neg shown]
  exact if_pos early

variable (late : (s.axis a).io.limHold neg ≤ t)
include late

theorem limitInput_changes : limitInput a neg t on s =
    let trip := (s.kinAt a (s.ioEdge a t) (s.axB a)).p
    let z := limitShown a neg t on s
    if on then
      let z := axisEvent a (if neg then 3 else 2) (roundHalfAway trip) z
      if z.limitOn a neg then limitTrip a neg t trip z else z
    else homeLimitOff a neg (roundHalfAway trip) z := by
  have shown : ¬ s.bit (SF_IO_STAT a) (if neg then SF_IO_STAT_LIMN else SF_IO_STAT_LIMP) = on := new
  have free : ¬ t < if neg then (s.axis a).io.holdN else (s.axis a).io.holdP := Nat.not_lt.2 late
  unfold limitInput
  dsimp only
  rw [if_neg shown, if_neg free]
  rfl

end

/-! ## An enabled limit is hit (R91, R92) -/

/-- The lock of a direction is set, with its trip position. -/
def lockSet (a : Fin 32) (neg : Bool) (trip : Rat) (s : State) : State :=
  (s.setBit (SF_IO_STAT a) (lockFld neg) true).modIo a fun x => if neg then { x with tripN := trip } else { x with tripP := trip }

/-- Both directions are locked where the other limit is active too. -/
def bothLocked (a : Fin 32) (neg : Bool) (s : State) : State :=
  if s.limitOn a (!neg) then
    let s := (s.setBit (SF_IO_STAT a) SF_IO_STAT_LOCKN true).setBit (SF_IO_STAT a) SF_IO_STAT_LOCKP true
    raiseAxis a 0x0302 (plainSev 0x0302) 0 s.now [] (record .limitBoth 1 0 a [] s)
  else s

/-- A limit stop waits for its boundary where the axis moves into the limit. -/
def stopWaits (a : Fin 32) (neg : Bool) (t : Nat) (s : State) : State :=
  if s.movesInto a neg t then
    let s := (s.modIo a fun x => { x with stopPend := some (x.stopPend.getD t) }).count (SF_IO_CNT a) SF_IO_CNT_LIMTRIP
    raiseAxis a 0x0301 (plainSev 0x0301) 0 s.now [] (record .limitHit 1 0 a [if neg then 1 else 0] s)
  else s

theorem limitTrip_eq (t : Nat) (trip : Rat) :
    limitTrip a neg t trip s = homeLimit a neg (stopWaits a neg t (bothLocked a neg (lockSet a neg trip s))) := rfl

theorem lockSet_locks (trip : Rat) : (lockSet a neg trip s).bit (SF_IO_STAT a) (limFld neg) = s.bit (SF_IO_STAT a) (limFld neg) ∧
    (lockSet a neg trip s).bit (SF_IO_STAT a) (lockFld neg) = true ∧ ((lockSet a neg trip s).axis a).io.trip neg = trip ∧
    SamePath a s (lockSet a neg trip s) := by
  have path : SamePath a s (lockSet a neg trip s) := (samePath_setBit s a _ true).trans (samePath_modIo _ a _)
  refine ⟨?_, ?_, ?_, path⟩ <;> rw [lockSet, State.modIo]
  · exact (State.bit_modAxis ..).trans (bit_lock s a neg neg)
  · exact (State.bit_modAxis ..).trans (State.bit_setBit_same _ _ _ _ (lockFld_fits neg).1 (lockFld_fits neg).2)
  · rw [State.axis_modAxis_same]
    cases neg <;> rfl

theorem bothLocked_keeps (locked : s.bit (SF_IO_STAT a) (lockFld neg) = true) :
    (bothLocked a neg s).bit (SF_IO_STAT a) (limFld neg) = s.bit (SF_IO_STAT a) (limFld neg) ∧
    (bothLocked a neg s).bit (SF_IO_STAT a) (lockFld neg) = true ∧ ((bothLocked a neg s).axis a).io = (s.axis a).io ∧
    SamePath a s (bothLocked a neg s) := by
  unfold bothLocked
  split
  · have told (z : State) : SameMotion z (raiseAxis a 0x0302 (plainSev 0x0302) 0 z.now [] (record .limitBoth 1 0 a [] z)) :=
      (sameMotion_record ..).trans (sameMotion_raiseAxis ..)
    have same := told ((s.setBit (SF_IO_STAT a) SF_IO_STAT_LOCKN true).setBit (SF_IO_STAT a) SF_IO_STAT_LOCKP true)
    dsimp only
    rw [bit_of_inputs (inputs_of_motion same), bit_of_inputs (inputs_of_motion same), same.axis]
    refine ⟨(bit_lock _ a neg false).trans (bit_lock s a neg true), ?_, rfl,
      ((samePath_setBit s a _ true).trans (samePath_setBit _ a _ true)).trans (same.samePath a)⟩
    cases neg with
    | false => exact State.bit_setBit_same _ _ _ _ (by decide) rfl
    | true =>
      exact (State.bit_setBit_other _ _ _ _ _ (by decide) (by decide) (by decide)).trans (State.bit_setBit_same _ _ _ _ (by decide) rfl)
  · exact ⟨rfl, locked, rfl, (SameMotion.refl s).samePath a⟩

theorem stopWaits_stops (t : Nat) : (∀ f, (stopWaits a neg t s).bit (SF_IO_STAT a) f = s.bit (SF_IO_STAT a) f) ∧
    ((stopWaits a neg t s).axis a).io.trip neg = (s.axis a).io.trip neg ∧
    (s.movesInto a neg t = true → ((stopWaits a neg t s).axis a).io.stopPend.isSome = true) := by
  unfold stopWaits
  split
  · have told (z : State) : SameMotion z (raiseAxis a 0x0301 (plainSev 0x0301) 0 z.now []
        (record .limitHit 1 0 a [if neg then 1 else 0] z)) := (sameMotion_record ..).trans (sameMotion_raiseAxis ..)
    have same := inputs_of_motion (a := a) (told ((s.modIo a fun x => { x with stopPend := some (x.stopPend.getD t) }).count
      (SF_IO_CNT a) SF_IO_CNT_LIMTRIP))
    have io : (((s.modIo a fun x => { x with stopPend := some (x.stopPend.getD t) }).count (SF_IO_CNT a) SF_IO_CNT_LIMTRIP).axis a).io =
        { (s.axis a).io with stopPend := some ((s.axis a).io.stopPend.getD t) } := by
      rw [State.axis_count, State.modIo, State.axis_modAxis_same]
    dsimp only
    rw [io_of_inputs same, io]
    refine ⟨fun f => ?_, rfl, fun _ => rfl⟩
    rw [bit_of_inputs same, State.bit, State.count, State.countN, State.fld_setFld_far _ _ _ _ _ _ (inputs_apart_homing a).2.2.2]
    rfl
  · next still => exact ⟨fun _ => rfl, rfl, fun moves => absurd moves still⟩

/-- An enabled limit that is hit locks its direction at its trip position, and a stop waits where the axis moves into it. -/
theorem limitTrip_locks (t : Nat) (trip : Rat) : let x := limitTrip a neg t trip s
    x.bit (SF_IO_STAT a) (limFld neg) = s.bit (SF_IO_STAT a) (limFld neg) ∧ x.bit (SF_IO_STAT a) (lockFld neg) = true ∧
    (x.axis a).io.trip neg = trip ∧ (s.movesInto a neg t = true → (x.axis a).io.stopPend.isSome = true) := by
  obtain ⟨lim, lock, tripped, path⟩ := lockSet_locks s a neg trip
  obtain ⟨lim', lock', io, path'⟩ := bothLocked_keeps _ a neg lock
  obtain ⟨bits, tripped', stops⟩ := stopWaits_stops (bothLocked a neg (lockSet a neg trip s)) a neg t
  have same := inputs_homeLimit (stopWaits a neg t (bothLocked a neg (lockSet a neg trip s))) a neg
  dsimp only
  rw [limitTrip_eq, bit_of_inputs same, bit_of_inputs same, io_of_inputs same, bits, bits, tripped', io]
  rw [(path.trans path').movesInto] at stops
  exact ⟨lim'.trans lim, lock', tripped, stops⟩

variable {t : Nat}

/-- A limit that goes active shows, and an enabled one locks its direction. -/
theorem limitInput_active (was : s.bit (SF_IO_STAT a) (limFld neg) = false) (late : (s.axis a).io.limHold neg ≤ t) :
    let x := limitInput a neg t true s
    x.bit (SF_IO_STAT a) (limFld neg) = true ∧
    (s.bit (SF_IO_FILT a) (limEnFld neg) = true → x.bit (SF_IO_STAT a) (lockFld neg) = true ∧
      (x.axis a).io.trip neg = (s.kinAt a (s.ioEdge a t) (s.axB a)).p ∧
      (s.movesInto a neg t = true → (x.axis a).io.stopPend.isSome = true)) := by
  obtain ⟨shown, -, enable, -⟩ := limitShown_bits s a neg t true
  have path := samePath_limitShown s a neg t true
  have filt : 0x44000 ≤ SF_IO_FILT a := by simp only [SF_IO_FILT]; omega
  dsimp only
  rw [limitInput_changes (by rw [was]; decide) late]
  dsimp only
  rw [if_pos rfl]
  generalize (s.kinAt a (s.ioEdge a t) (s.axB a)).p = trip
  have same := sameMotion_axisEvent a (limitShown a neg t true s) (if neg then 3 else 2) (roundHalfAway trip)
  have shown' := (bit_of_inputs (inputs_of_motion (a := a) same) (limFld neg)).trans shown
  have enable' := (same.bit filt (limEnFld neg)).trans enable
  have path' := path.trans (same.samePath a)
  generalize axisEvent a (if neg then 3 else 2) (roundHalfAway trip) (limitShown a neg t true s) = z at *
  rw [limitOn_eq, shown', enable', Bool.true_and]
  split
  · next enabled =>
    obtain ⟨lim, lock, tripped, stops⟩ := limitTrip_locks z a neg t trip
    rw [path'.movesInto] at stops
    exact ⟨lim.trans shown', fun _ => ⟨lock, tripped, stops⟩⟩
  · next disabled => exact ⟨shown', fun enabled => absurd enabled disabled⟩

/-- A limit that goes inactive leaves its lock and the state of the axis. -/
theorem limitInput_inactive (was : s.bit (SF_IO_STAT a) (limFld neg) = true) (late : (s.axis a).io.limHold neg ≤ t) :
    let x := limitInput a neg t false s
    x.bit (SF_IO_STAT a) (limFld neg) = false ∧ x.bit (SF_IO_STAT a) (lockFld neg) = s.bit (SF_IO_STAT a) (lockFld neg) ∧
    x.axState a = s.axState a := by
  obtain ⟨shown, lock, -, state⟩ := limitShown_bits s a neg t false
  dsimp only
  rw [limitInput_changes (by rw [was]; decide) late]
  dsimp only
  rw [if_neg Bool.false_ne_true]
  obtain ⟨same, stays⟩ := homeLimitOff_leaves (limitShown a neg t false s) a neg (roundHalfAway (s.kinAt a (s.ioEdge a t) (s.axB a)).p)
  rw [bit_of_inputs same, bit_of_inputs same, stays]
  exact ⟨shown, lock, state⟩

end

/-! ## The statement -/

section
variable {s : State} {t : Nat} {a : Fin 32} {raw : BitVec 15} {neg : Bool}

theorem limitHit_runs (level : s.limitLevel a neg raw t = true) (was : s.bit (SF_IO_STAT a) (limFld neg) = false) :
    ((s.axis a).io.limHold neg ≤ t → Runs (.limitHit t a neg raw) s fun x =>
      x.bit (SF_IO_STAT a) (limFld neg) = true ∧
      (s.bit (SF_IO_FILT a) (limEnFld neg) = true → x.bit (SF_IO_STAT a) (lockFld neg) = true ∧
        (x.axis a).io.trip neg = (s.kinAt a (s.ioEdge a t) (s.axB a)).p ∧
        (s.movesInto a neg t = true → (x.axis a).io.stopPend.isSome = true))) ∧
    (t < (s.axis a).io.limHold neg → Runs (.limitHit t a neg raw) s fun x =>
      Counts s x (SF_IO_CNT a) SF_IO_CNT_CHATTER ∧ RegsBut [SF_IO_CNT a] s x ∧ Touches [.now, .regs] s x) := by
  have acts : exec (.limitHit t a neg raw) s = .next (limitInput a neg t true (s.reach t)) :=
    congrArg Host.Outcome.next (if_pos level)
  have reached : SameMotion s (s.reach t) := ⟨rfl, rfl, fun _ _ => rfl⟩
  refine ⟨fun late => ⟨_, acts, ?_⟩, fun early => ⟨_, acts, ?_⟩⟩
  · obtain ⟨shown, locks⟩ := limitInput_active (s.reach t) a neg was late
    rw [reached.axB, reached.kinAt, (reached.samePath a).movesInto] at locks
    exact ⟨shown, locks⟩
  · rw [limitInput_held (s := s.reach t) (by rw [State.bit_reach, was]; decide) early]
    exact chatter_counts s a t

theorem limitInactive_runs (level : s.limitLevel a neg raw t = false) (was : s.bit (SF_IO_STAT a) (limFld neg) = true) :
    ((s.axis a).io.limHold neg ≤ t → Runs (.limitInactive t a neg raw) s fun x =>
      x.bit (SF_IO_STAT a) (limFld neg) = false ∧ x.bit (SF_IO_STAT a) (lockFld neg) = s.bit (SF_IO_STAT a) (lockFld neg) ∧
      x.axState a = s.axState a) ∧
    (t < (s.axis a).io.limHold neg → Runs (.limitInactive t a neg raw) s fun x =>
      Counts s x (SF_IO_CNT a) SF_IO_CNT_CHATTER ∧ RegsBut [SF_IO_CNT a] s x ∧ Touches [.now, .regs] s x) := by
  have acts : exec (.limitInactive t a neg raw) s = .next (limitInput a neg t false (s.reach t)) :=
    congrArg Host.Outcome.next (if_pos (by rw [Bool.not_eq_true']; exact level))
  refine ⟨fun late => ⟨_, acts, limitInput_inactive (s.reach t) a neg was late⟩, fun early => ⟨_, acts, ?_⟩⟩
  rw [limitInput_held (s := s.reach t) (by rw [State.bit_reach, was]; decide) early]
  exact chatter_counts s a t

theorem limitHit_runs_idle (level : s.limitLevel a neg raw t = false) : Runs (.limitHit t a neg raw) s fun x => x = s.reach t :=
  ⟨_, rfl, if_neg (by rw [Bool.not_eq_true]; exact level)⟩

theorem limitInactive_runs_idle (level : s.limitLevel a neg raw t = true) :
    Runs (.limitInactive t a neg raw) s fun x => x = s.reach t :=
  ⟨_, rfl, if_neg (by rw [Bool.not_eq_true, Bool.not_eq_false']; exact level)⟩

end

/-- Settles O22: outside its hold an input shows its level, and an enabled limit locks its direction; what it takes up of its inputs does not
bear on whether the axis moves into the limit, and what a homing makes of it leaves the inputs. -/
theorem axisInputsLockAndRelease : Obligations.AxisInputsLockAndRelease := by
  refine fun s t a raw => ⟨fun on => homeInputChange_runs, fun neg lim en lock hold isLim isEn isLock isHold => ?_⟩
  subst isLim isEn isLock isHold
  exact ⟨limitHit_runs, limitInactive_runs, limitHit_runs_idle, limitInactive_runs_idle⟩

end Sys2Proof.Machine
end

section
/-! SUPPORT. O59: the quarter wave, the tables that carry it, and the references of the coils at a full step (R98–R104). -/

namespace Sys2Proof.Machine

/-! ## The quarter wave (R98) -/

theorem entry_last (t : Table) : t.entry 1024 = 65535 := if_pos rfl

theorem h64_end (t : Table) : t.h64 65536 = 65535 * 64 := by
  simp [Table.h64, entry_last]

theorem h64_zero (t : Table) : t.h64 0 = 64 * t.entry 0 := rfl

/-- At an entry, where nothing is left to interpolate, the interpolation is the entry. -/
theorem h64_eq (t : Table) (f : Nat) :
    t.h64 f = (t.entry (f / 64) : Int) * 64 + ((t.entry (f / 64 + 1) : Int) - t.entry (f / 64)) * (f % 64 : Nat) := by
  unfold Table.h64
  split
  · next whole => rw [whole, Nat.cast_zero, mul_zero, add_zero, mul_comm]
  · rfl

/-! ## The wave (R99) -/

/-- The wave in a quarter of the turn, at `f` ticks into it. -/
def Table.inQuarter (t : Table) (f : Nat) : Nat → Int
  | 0 => t.h64 f
  | 1 => t.h64 (65536 - f)
  | 2 => -t.h64 f
  | _ => -t.h64 (65536 - f)

theorem s64_inQuarter (t : Table) (n : Int) (q f : Nat) (hq : q < 4) (hf : f < 65536) :
    t.s64 (262144 * n + (65536 * q + f : Nat)) = t.inQuarter f q := by
  have angle : ((262144 * n + (65536 * q + f : Nat)) % 262144).toNat = 65536 * q + f := by omega
  have rest : (65536 * q + f) % 65536 = f := by omega
  have quarter : (65536 * q + f) / 65536 = q := by omega
  unfold Table.s64
  dsimp only
  rw [angle, rest, quarter]
  rfl

/-- The wave at a full step, where the table begins with 0: no current in an even quarter, the whole run current in an odd one. -/
theorem s64_fullStep (t : Table) (q : Nat) (zero : t.entry 0 = 0) :
    t.s64 (65536 * q : Nat) = if q % 2 = 0 then 0 else if q % 4 = 1 then 65535 * 64 else -(65535 * 64) := by
  have turns : ((65536 * q : Nat) : Int) = 262144 * (q / 4 : Nat) + (65536 * (q % 4) + 0 : Nat) := by omega
  have begins : t.h64 0 = 0 := by rw [h64_zero, zero]; rfl
  rw [turns, s64_inQuarter t _ (q % 4) 0 (by omega) (by omega)]
  rcases (by omega : q % 4 = 0 ∨ q % 4 = 1 ∨ q % 4 = 2 ∨ q % 4 = 3) with h | h | h | h
  · simp [h, Table.inQuarter, begins, show q % 2 = 0 by omega]
  · simp [h, Table.inQuarter, h64_end, show q % 2 = 1 by omega]
  · simp [h, Table.inQuarter, begins, show q % 2 = 0 by omega]
  · simp [h, Table.inQuarter, h64_end, show q % 2 = 1 by omega]

/-! ## A table from host memory (R98, R217) -/

theorem entriesOf_length (bs : List Byte) : (entriesOf bs).length = bs.length / 2 := by
  induction bs using entriesOf.induct with
  | case1 b0 b1 bs ih =>
    rw [entriesOf, List.length_cons, ih, List.length_cons, List.length_cons]
    omega
  | case2 bs short =>
    match bs, short with
    | [], _ => rfl
    | [b], _ => simp [entriesOf]
    | b0 :: b1 :: bs, short => exact absurd rfl (short b0 b1 bs)

theorem leNat_pair_lt (b0 b1 : Byte) : leNat [b0, b1] < 2 ^ 16 := by
  simp only [leNat]
  omega

theorem entriesOf_lt (bs : List Byte) : ∀ y ∈ entriesOf bs, y < 2 ^ 16 := by
  induction bs using entriesOf.induct with
  | case1 b0 b1 bs ih => exact List.forall_mem_cons.2 ⟨leNat_pair_lt b0 b1, ih⟩
  | case2 bs short =>
    rw [entriesOf]
    · exact fun y hy => absurd hy List.not_mem_nil
    · exact short

theorem parseTable_eq_some {bs : List Byte} {t : Table} (h : parseTable bs = some t) :
    bs.length = 2048 ∧ t = .data (entriesOf bs) := by
  unfold parseTable at h
  dsimp only at h
  split at h
  · cases h
  · next good =>
    rw [not_or, not_not] at good
    obtain ⟨size, -⟩ := good
    exact ⟨size, (Option.some.inj h).symm⟩

/-! ## The references at a full step (R102, R104) -/

/-- Outside the full-step mode a full step is taken as it stands. -/
theorem stepAngle_fullStep {mode : Nat} (h : mode ≠ 2) (q : Nat) (hq : q < 4) : stepAngle mode (65536 * q) = (65536 * q : Nat) := by
  unfold stepAngle
  split
  · have halves : (((65536 * q : Nat) : Rat) / 32768) = ((2 * q : Int) : Rat) := by
      push_cast
      ring
    rw [halves, roundHalfAway_intCast]
    omega
  · exact absurd rfl h
  · rfl

/-- The reference of a coil outside the full-step mode, at an electrical angle (R102). -/
def coilAt (t : Table) (run : Int) (phi : Int) : Int := roundHalfAway ((run * t.s64 phi : Int) / (65535 * 64 : Rat))

theorem coilRefs_fullStep (s : State) (a : Fin 32) (q : Nat) (hq : q < 4) (mode : s.fld (CR_CFG a) CR_CFG_STEPMODE ≠ 2) :
    let one := coilAt (s.activeTable a) (s.fld (CR_IRUN a) CR_IRUN_IRUN : Nat)
    s.coilRefs a (65536 * q) = (one (65536 * q : Nat),
      if s.bit (CR_CFG a) CR_CFG_PHINV then -one (65536 * (q + 1) : Nat) else one (65536 * (q + 1) : Nat)) := by
  have next : ((65536 * q : Nat) : Int) + 65536 = (65536 * (q + 1) : Nat) := by omega
  simp only [State.coilRefs, stepAngle_fullStep mode q hq, mode, if_false, next, coilAt]

/-- A coil at a full step: without current in an even quarter, and with exactly the run current, in one direction or the other, in
an odd one. -/
theorem coilAt_fullStep (t : Table) (run : Int) (q : Nat) (zero : t.entry 0 = 0) :
    (q % 2 = 0 → coilAt t run (65536 * q : Nat) = 0) ∧
    (q % 2 = 1 → coilAt t run (65536 * q : Nat) = run ∨ coilAt t run (65536 * q : Nat) = -run) := by
  have scaled (x : Int) : roundHalfAway ((run * (x * (65535 * 64)) : Int) / (65535 * 64 : Rat)) = run * x := by
    rw [← roundHalfAway_intCast (run * x)]
    congr 1
    push_cast
    ring
  have wave := s64_fullStep t q zero
  unfold coilAt
  refine ⟨fun even => ?_, fun odd => ?_⟩
  · rw [wave, if_pos even]
    simpa using scaled 0
  · rw [wave, if_neg (by omega)]
    split
    · rw [← one_mul (65535 * 64), scaled, mul_one]
      exact Or.inl rfl
    · rw [← neg_one_mul (65535 * 64), scaled, mul_neg_one]
      exact Or.inr rfl

theorem coilRefs_oneCoil (s : State) (a : Fin 32) (q : Nat) (hq : q < 4) (zero : (s.activeTable a).entry 0 = 0)
    (mode : s.fld (CR_CFG a) CR_CFG_STEPMODE ≠ 2) :
    let r := s.coilRefs a (65536 * q)
    let run : Int := s.fld (CR_IRUN a) CR_IRUN_IRUN
    (r.1 = 0 ∧ (r.2 = run ∨ r.2 = -run)) ∨ (r.2 = 0 ∧ (r.1 = run ∨ r.1 = -run)) := by
  have refs := coilRefs_fullStep s a q hq mode
  obtain ⟨restA, fullA⟩ := coilAt_fullStep (s.activeTable a) (s.fld (CR_IRUN a) CR_IRUN_IRUN : Nat) q zero
  obtain ⟨restB, fullB⟩ := coilAt_fullStep (s.activeTable a) (s.fld (CR_IRUN a) CR_IRUN_IRUN : Nat) (q + 1) zero
  dsimp only at refs ⊢
  rw [refs]
  rcases Nat.mod_two_eq_zero_or_one q with even | odd
  · refine Or.inl ⟨restA even, ?_⟩
    have full := fullB (by omega)
    split <;> omega
  · refine Or.inr ⟨?_, fullA odd⟩
    have rest := restB (by omega)
    split <;> omega

/-- Settles O59: the interpolation as it is defined, the four quarters one by one, a parsed table by its entries, and a full step by the
quarter its two coils stand in. -/
theorem theWaveFollowsItsTable : Obligations.TheWaveFollowsItsTable := by
  refine ⟨fun t => ⟨entry_last t, h64_end t, fun f _ => h64_eq t f, fun f hf => ?_⟩, fun bs t parsed => ?_, coilRefs_oneCoil⟩
  · have quarter (q : Nat) (hq : q < 4) := s64_inQuarter t 0 q f hq hf
    simp only [mul_zero, zero_add] at quarter
    have first : t.s64 f = t.inQuarter f 0 := by simpa using quarter 0 (by omega)
    exact ⟨first, quarter 1 (by omega), quarter 2 (by omega), quarter 3 (by omega)⟩
  · obtain ⟨size, rfl⟩ := parseTable_eq_some parsed
    exact ⟨_, rfl, by rw [entriesOf_length, size], entriesOf_lt bs⟩

end Sys2Proof.Machine
end

section
/-! SUPPORT. O24: what a fault that is raised, and an axis that is frozen, leave: the current loops of the ports but for the note that a
mask held the integrator, and the registers of the device below those of the engines but for its state. -/

namespace Sys2Proof.Machine

/-! ## What lasts -/

/-- A register below those of the engines, other than the state of the device. -/
def lastingReg (r : Nat) : Bool := decide (r < 0x30000) && r != GLB_STATE

/-- What lasts: the loops of the ports but for MASKED (R110), and the registers that last. -/
def State.lasting (s : State) : (Fin 64 → Loop) × (Nat → Word) :=
  (fun p => { s.loop p with masked := false }, fun r => if lastingReg r then s.reg r else 0)

theorem reg_of_lasting {s t : State} (h : t.lasting = s.lasting) {r : Nat} (hr : lastingReg r = true) : t.reg r = s.reg r := by
  have regs : (if lastingReg r = true then t.reg r else 0) = if lastingReg r = true then s.reg r else 0 :=
    congrFun (congrArg Prod.snd h) r
  simpa only [hr, if_true] using regs

theorem loop_of_lasting {s t : State} (h : t.lasting = s.lasting) (p : Fin 64) :
    { t.loop p with masked := false } = { s.loop p with masked := false } := congrFun (congrArg Prod.fst h) p

theorem lastingReg_high {r : Nat} (h : 0x30000 ≤ r) : lastingReg r = false := by
  simp only [lastingReg, Bool.and_eq_false_iff, decide_eq_false_iff_not]
  omega

@[simp] theorem lastingReg_state : lastingReg GLB_STATE = false := by decide

@[simp] theorem lastingReg_port (p : Fin 64) :
    lastingReg (pwmStat p) = false ∧ lastingReg (gdStat p) = false ∧ lastingReg (GD_STAT (pT p) (pI p)) = false ∧
    lastingReg (GD_CNT2 (pT p) (pI p)) = false ∧ lastingReg (PWM_CNT (pT p) (pI p)) = false ∧
    lastingReg (PWM_CNT2 (pT p) (pI p)) = false ∧ lastingReg (PWM_CARRY (pT p) (pI p)) = false ∧
    lastingReg (CMP_STAT (pT p) (pI p)) = false ∧ lastingReg (CR_DUTY (pT p) (pI p)) = false ∧
    lastingReg (CR_INTEG (pT p) (pI p)) = false := by
  and_intros <;> apply lastingReg_high <;>
    simp only [pwmStat, gdStat, GD_STAT, GD_CNT2, PWM_STAT, PWM_CNT, PWM_CNT2, PWM_CARRY, CMP_STAT, CR_DUTY, CR_INTEG] <;> omega

@[simp] theorem lastingReg_axis (a : Fin 32) :
    lastingReg (MP_STAT a) = false ∧ lastingReg (MP_CNT a) = false ∧ lastingReg (MP_CMD_POS_LO a) = false ∧
    lastingReg (MP_CMD_VEL_LO a) = false ∧ lastingReg (MP_CMD_ACC_LO a) = false ∧ lastingReg (MP_CMD_POS_LO a + 4) = false ∧
    lastingReg (MP_CMD_VEL_LO a + 4) = false ∧ lastingReg (MP_CMD_ACC_LO a + 4) = false ∧ lastingReg (GR_STAT a) = false ∧
    lastingReg (SF_STAT a) = false ∧ lastingReg (SF_HOME_STAT a) = false ∧ lastingReg (MP_FLT_STAT a) = false ∧
    lastingReg (MP_FLT_CNT a) = false := by
  and_intros <;> apply lastingReg_high <;>
    simp only [MP_STAT, MP_CNT, MP_CMD_POS_LO, MP_CMD_VEL_LO, MP_CMD_ACC_LO, GR_STAT, SF_STAT, SF_HOME_STAT, MP_FLT_STAT,
      MP_FLT_CNT] <;> omega

@[simp] theorem lastingReg_engine (e : Fin 46) :
    lastingReg (ENG_EVLATCH e) = false ∧ lastingReg (ENG_CNT e) = false ∧ lastingReg (ENG_STAT e) = false := by
  and_intros <;> apply lastingReg_high <;> simp only [ENG_EVLATCH, ENG_CNT, ENG_STAT] <;> omega

/-! ## The named updates -/

section
variable (s : State)

@[simp] theorem lasting_setReg {r : Nat} (v : Word) (h : lastingReg r = false) : (s.setReg r v).lasting = s.lasting := by
  refine Prod.ext rfl (funext fun b => ?_)
  show (if lastingReg b = true then (s.setReg r v).reg b else 0) = if lastingReg b = true then s.reg b else 0
  split
  · next lasts => exact State.reg_setReg_other s r b v fun e => absurd (e ▸ lasts) (by simp [h])
  · rfl

@[simp] theorem lasting_setFld {r : Nat} (f : Fld) (x : Nat) (h : lastingReg r = false) :
    (s.setFld r f x).lasting = s.lasting := lasting_setReg s _ h

@[simp] theorem lasting_setBit {r : Nat} (f : Fld) (b : Bool) (h : lastingReg r = false) :
    (s.setBit r f b).lasting = s.lasting := lasting_setReg s _ h

@[simp] theorem lasting_count {r : Nat} (f : Fld) (h : lastingReg r = false) : (s.count r f).lasting = s.lasting :=
  lasting_setReg s _ h

@[simp] theorem lasting_setPair {lo : Nat} (x : Int) (h : lastingReg lo = false) (h4 : lastingReg (lo + 4) = false) :
    (s.setPair lo x).lasting = s.lasting := (lasting_setReg _ _ h4).trans (lasting_setReg s _ h)

/-- A port updated beside its loop, or in MASKED. -/
theorem lasting_modPort (p : Fin 64) (f : Port → Port)
    (h : ∀ x, { (f x).loop with masked := false } = { x.loop with masked := false }) : (s.modPort p f).lasting = s.lasting := by
  refine Prod.ext (funext fun o => ?_) rfl
  show { ((s.modPort p f).port o).loop with masked := false } = { (s.port o).loop with masked := false }
  rw [State.port_modPort]
  split
  · exact h (s.port o)
  · rfl

@[simp] theorem lasting_modPwm (p : Fin 64) (f : Pwm → Pwm) : (s.modPwm p f).lasting = s.lasting :=
  lasting_modPort s p _ fun _ => rfl

@[simp] theorem lasting_modGd (p : Fin 64) (f : GateDrive → GateDrive) : (s.modGd p f).lasting = s.lasting :=
  lasting_modPort s p _ fun _ => rfl

@[simp] theorem lasting_modLeg (p : Fin 64) (b : Bool) (f : LegGen → LegGen) : (s.modLeg p b f).lasting = s.lasting :=
  lasting_modPwm ..

@[simp] theorem lasting_modAxis (a : Fin 32) (f : Axis → Axis) : (s.modAxis a f).lasting = s.lasting := (rfl)
@[simp] theorem lasting_modProf (a : Fin 32) (f : Profile → Profile) : (s.modProf a f).lasting = s.lasting := (rfl)
@[simp] theorem lasting_modGear (a : Fin 32) (f : Gear → Gear) : (s.modGear a f).lasting = s.lasting := (rfl)
@[simp] theorem lasting_modSf (a : Fin 32) (f : StepFollow → StepFollow) : (s.modSf a f).lasting = s.lasting := (rfl)
@[simp] theorem lasting_modEng (e : Fin 46) (f : Engine → Engine) : (s.modEng e f).lasting = s.lasting := (rfl)
@[simp] theorem lasting_emit (x : Out) : (s.emit x).lasting = s.lasting := (rfl)

@[simp] theorem lasting_record (k : RecKind) (sev kind idx : Nat) (params : List Nat) :
    (record k sev kind idx params s).lasting = s.lasting := (rfl)

@[simp] theorem lasting_recordVar (k : RecKind) (sev kind idx : Nat) (words : List Nat) :
    (recordVar k sev kind idx words s).lasting = s.lasting := (rfl)

@[simp] theorem lasting_ite (c : Prop) [Decidable c] (s t : State) :
    (if c then s else t).lasting = if c then s.lasting else t.lasting := apply_ite State.lasting c s t

theorem lasting_foldl {α : Type} (l : List α) (g : State → α → State) (h : ∀ s x, (g s x).lasting = s.lasting) :
    (l.foldl g s).lasting = s.lasting := by
  induction l generalizing s with
  | nil => rfl
  | cons x l ih => rw [List.foldl_cons, ih, h]

end

end Sys2Proof.Machine
end

section
/-! SUPPORT. O24: what lasts through an event, through a port that settles and is protected, and through a fault that is raised. -/

namespace Sys2Proof.Machine

section
variable (s : State)

/-! ## Events -/

@[simp] theorem lasting_raiseEvent (c : Fin 4) (b : EvBody) : (raiseEvent c b s).lasting = s.lasting := by
  have kept : Ok (keepBut [.regs, .cabs, .recorder, .out] s) (raiseEvent c b s) :=
    raiseEvent_ok c b s (keepBut_start _ s) (by simp [keepBut]) (by simp [keepBut]) (by simp [keepBut]) (by simp [keepBut])
  have ports : (raiseEvent c b s).ports = s.ports := kept_part kept .ports (by decide)
  refine Prod.ext (funext fun p => ?_) (funext fun r => ?_)
  · show { ((raiseEvent c b s).port p).loop with masked := false } = { (s.port p).loop with masked := false }
    rw [State.port, ports, State.port]
  · show (if lastingReg r = true then _ else _) = if lastingReg r = true then _ else _
    split
    · next lasts =>
      refine reg_of_beyond (beyond_raiseEvent ..) fun inside => ?_
      rw [lastingReg_high (by omega)] at lasts
      exact Bool.false_ne_true lasts
    · rfl

@[simp] theorem lasting_raiseDevice (code sev time : Nat) (params : List Int) :
    (raiseDevice code sev time params s).lasting = s.lasting := by
  simp [raiseDevice, lasting_foldl]

@[simp] theorem lasting_raiseAxis (a : Fin 32) (code sev tag time : Nat) (params : List Int) :
    (raiseAxis a code sev tag time params s).lasting = s.lasting := lasting_raiseEvent ..

@[simp] theorem lasting_latchEvent (e : Fin 46) (bit param : Nat) : (latchEvent e bit param s).lasting = s.lasting := by
  simp [latchEvent]

@[simp] theorem lasting_axisEvent (a : Fin 32) (bit : Nat) (param : Int) : (axisEvent a bit param s).lasting = s.lasting := by
  simp [axisEvent]

/-! ## A port that settles and is protected -/

@[simp] theorem lasting_setDevState (new cause : Nat) : (setDevState new cause s).lasting = s.lasting := by
  simp [setDevState]

@[simp] theorem lasting_followPorts : (followPorts s).lasting = s.lasting := by
  simp [followPorts]

@[simp] theorem lasting_masked (p : Fin 64) : (s.modLoop p fun l => { l with masked := true }).lasting = s.lasting :=
  lasting_modPort s p _ fun _ => rfl

@[simp] theorem lasting_selectMask (p : Fin 64) (x : Rat) (rank m : Nat) : (selectMask p x rank m s).lasting = s.lasting := by
  simp [selectMask]

@[simp] theorem lasting_trimRefresh (p : Fin 64) : (trimRefresh p s).lasting = s.lasting := by
  simp [trimRefresh, lasting_foldl]

@[simp] theorem lasting_followRefreshing (p : Fin 64) : (followRefreshing p s).lasting = s.lasting := by
  simp [followRefreshing]

@[simp] theorem lasting_insertPulse (p : Fin 64) (v : Nat) (l : Fin 2) : (insertPulse p v s l).lasting = s.lasting := by
  cases h : (s.gd p).refreshAt[l] <;> simp [insertPulse, h]

@[simp] theorem lasting_pinValley (p : Fin 64) (v : Nat) : (pinValley p v s).lasting = s.lasting := by
  simp [pinValley]

@[simp] theorem lasting_setCarry (p : Fin 64) (b : Bool) (c : Nat) : (s.setCarry p b c).lasting = s.lasting := by
  simp [State.setCarry]

@[simp] theorem lasting_noteClamp (p : Fin 64) : (noteClamp p s).lasting = s.lasting := by
  simp [noteClamp]

@[simp] theorem lasting_decidePulse (p : Fin 64) (b : Bool) (r : Planned) : (decidePulse p b r s).lasting = s.lasting := by
  simp [decidePulse]

@[simp] theorem lasting_decideLeg (p : Fin 64) (b : Bool) (z : Rat) (l : List Planned) :
    (decideLeg p b z l s).lasting = s.lasting := by
  induction l generalizing s with
  | nil => simp [decideLeg]
  | cons r rs ih => simp [decideLeg, ih]

@[simp] theorem lasting_walkPins (p : Fin 64) (z : Rat) : (walkPins p z s).lasting = s.lasting := by
  simp [walkPins]

@[simp] theorem lasting_settlePins (p : Fin 64) (z : Rat) : (settlePins p z s).lasting = s.lasting := by
  cases h : (s.pwm p).valleyAt <;> simp [settlePins, h]

theorem lasting_pinChangeAt (p : Fin 64) (soft : Bool) (y : Rat) (f : State → State) (hf : ∀ s, (f s).lasting = s.lasting) :
    (pinChangeAt p soft y f s).lasting = s.lasting := by
  simp [pinChangeAt, movePins, hf]

@[simp] theorem lasting_setPortState (p : Fin 64) (x : Nat) : (s.setPortState p x).lasting = s.lasting := by
  simp [State.setPortState]

@[simp] theorem lasting_unpower (p : Fin 64) : (unpower p s).lasting = s.lasting := by
  simp [unpower, lasting_modPort]

@[simp] theorem lasting_leaveRun (p : Fin 64) : (leaveRun p s).lasting = s.lasting := by
  simp [leaveRun]

@[simp] theorem lasting_movePort (p : Fin 64) (x : Nat) : (movePort p x s).lasting = s.lasting := by
  simp [movePort]

@[simp] theorem lasting_followPartner (p : Fin 64) (x : Nat) (loopRan : Bool) (y : Rat) :
    (followPartner p x loopRan y s).lasting = s.lasting := by
  cases h : s.partner p <;> simp [followPartner, lasting_pinChangeAt, h]

@[simp] theorem lasting_protectPort (p : Fin 64) : (protectPort p s).lasting = s.lasting := by
  simp [protectPort, State.enterPort, State.enterPortBy, pinChange, lasting_pinChangeAt]

/-! ## A fault is raised -/

@[simp] theorem lasting_raiseFault (cls : Nat) (sc : FaultScope) (detail : Nat) (a : Fin 32) :
    (raiseFault cls sc detail a s).lasting = s.lasting := by
  simp [raiseFault, raiseFaultRx]

@[simp] theorem lasting_raisePortFault (cls : Nat) (p : Fin 64) (detail : Nat) :
    (raisePortFault cls p detail s).lasting = s.lasting := by
  cases h : s.axisOfPort p <;> simp [raisePortFault, h]

end

end Sys2Proof.Machine
end

section
/-! SUPPORT. O24: what lasts while an axis enters HOLD (R51). -/

namespace Sys2Proof.Machine

section
variable (s : State)

/-! ## What the axis gives up -/

@[simp] theorem lasting_showRaised (a : Fin 32) (raised : Bool) : (showRaised a raised s).lasting = s.lasting := by
  simp [showRaised]

@[simp] theorem lasting_keepBase (a : Fin 32) : (keepBase a s).lasting = s.lasting := (rfl)

@[simp] theorem lasting_moveEnds (a : Fin 32) (internal : Bool) (tag st : Nat) (target : Int) :
    (moveEnds a internal tag st target s).lasting = s.lasting := by
  simp [moveEnds, moveDone]

@[simp] theorem lasting_flushQueue (a : Fin 32) (st : Nat) : (flushQueue a st s).lasting = s.lasting := by
  simp [flushQueue, followQueue, lasting_foldl]

@[simp] theorem lasting_endMove (a : Fin 32) (st : Nat) : (endMove a st s).lasting = s.lasting := by
  cases h : (s.prof a).move <;> simp [endMove, h]

@[simp] theorem lasting_endHoming (a : Fin 32) : (endHoming a s).lasting = s.lasting := by
  simp [endHoming]

@[simp] theorem lasting_failHoming (a : Fin 32) (reason : Nat) : (failHoming a reason s).lasting = s.lasting := by
  cases h : (s.axis a).home <;> simp [failHoming, homeDone, h]

@[simp] theorem lasting_cancelRelease (a : Fin 32) : (cancelRelease a s).lasting = s.lasting := by
  cases h : (s.gear a).relPend <;> simp [cancelRelease, h]

@[simp] theorem lasting_flushArmed (a : Fin 32) : (flushArmed a s).lasting = s.lasting := by
  simp [flushArmed, lasting_foldl]

@[simp] theorem lasting_cancelEngage (a : Fin 32) : (cancelEngage a s).lasting = s.lasting := by
  cases h : (s.gear a).engPend <;> simp [cancelEngage, gearEngaged, h]

@[simp] theorem lasting_leaveFollowing (a : Fin 32) : (leaveFollowing a s).lasting = s.lasting := by
  unfold leaveFollowing
  simp only [lasting_ite]
  simp [leaveGear, leaveFollow]

/-! ## HOLD -/

@[simp] theorem lasting_freezeAxis (a : Fin 32) (st : Nat) : (freezeAxis a st s).lasting = s.lasting := by
  simp [freezeAxis, layPlan, showKin, State.setAxState]

@[simp] theorem lasting_enterHold (a : Fin 32) : (enterHold a s).lasting = s.lasting := by
  simp [enterHold]

end

end Sys2Proof.Machine
end

section
/-! O24: the faults of the current windows and of missed results (R18, R107). -/

namespace Sys2Proof.Machine

/-! ## A fault of a port (R315) -/

theorem axisOfPort_of_still {s t : State} (h : t.still = s.still) (p : Fin 64) : t.axisOfPort p = s.axisOfPort p := by
  simp only [State.axisOfPort, portOf_of_still h]

theorem raisePortFault_eq {s : State} {p : Fin 64} {a : Fin 32} {b : Bool} (h : s.axisOfPort p = some (a, b)) (cls detail : Nat) :
    raisePortFault cls p detail s = raiseFault cls ⟨1, p⟩ detail a s := by
  rw [raisePortFault, h]

theorem loop_modLoop_same (s : State) (p : Fin 64) (f : Loop → Loop) : (s.modLoop p f).loop p = f (s.loop p) := by
  rw [State.modLoop, State.loop, State.port_modPort_same, State.loop]

/-- A fault that is noted in the loop of its port and raised against the axis of the port. -/
theorem noted_fault_raises (s : State) (p : Fin 64) (f : Loop → Loop) (cls detail : Nat) :
    let x := raisePortFault cls p detail (s.modLoop p f)
    { x.loop p with masked := false } = { f (s.loop p) with masked := false } ∧
    ∀ a b, s.axisOfPort p = some (a, b) → Faults s x cls a := by
  refine ⟨?_, fun a b mapped => ?_⟩
  · rw [loop_of_lasting (lasting_raisePortFault ..), loop_modLoop_same]
  · have mapped : (s.modLoop p f).axisOfPort p = some (a, b) := (axisOfPort_of_still (still_modLoop s p f) p).trans mapped
    rw [raisePortFault_eq mapped]
    exact (Grows.of_recorder (State.modLoop_recorder ..)).logs (raiseFault_faults ..)

/-! ## Bad windows (R107) -/

/-- A fault that a period of the tile found, noted and raised as `g` does it in states with the loop of the state before. -/
theorem onPeriod_raises {s : State} {t : Nat} {p : Fin 64} {g : State → State} {f : Loop → Loop} {cls : Nat}
    (due : ∀ y : State, y.loop p = s.loop p → ∃ detail, g y = raisePortFault cls p detail (y.modLoop p f)) :
    let x := onPeriod (tileOfPort p) g (s.reach t)
    { x.loop p with masked := false } = { f (s.loop p) with masked := false } ∧
    ∀ a b, s.axisOfPort p = some (a, b) → Faults s x cls a := by
  let z := s.reach t
  let y := z.modTile (tileOfPort p) fun x => { x with closing := some (z.boundary (tileOfPort p)) }
  obtain ⟨detail, raised⟩ := due y rfl
  obtain ⟨loop, faults⟩ := noted_fault_raises y p f cls detail
  have acts : onPeriod (tileOfPort p) g z =
      (g y).modTile (tileOfPort p) fun x => { x with closing := (z.tile (tileOfPort p)).closing } := rfl
  dsimp only
  rw [acts, raised]
  exact ⟨loop, faults⟩

section
variable {s : State} {t : Nat} {p : Fin 64}

theorem overRange_due (run : 16 ≤ (s.loop p).ovrRun) (once : (s.loop p).ovrRaised = false) :
    overRange p s = raisePortFault 8 p (toBits 32 (s.fldI (CR_MEAS (pT p) (pI p)) CR_MEAS_IM))
      (s.modLoop p fun l => { l with ovrRaised := true }) :=
  if_pos ⟨run, by rw [once]; rfl⟩

theorem noSample_due (run : 3 ≤ (s.loop p).noRun) (once : (s.loop p).noRaised = false) :
    noSample p s = raisePortFault 9 p (toBits 32 (s.fldI (CR_MEAS (pT p) (pI p)) CR_MEAS_IM))
      (s.modLoop p fun l => { l with noRaised := true }) :=
  if_pos ⟨run, by rw [once]; rfl⟩

theorem crOverrange_runs (run : 16 ≤ (s.loop p).ovrRun) (once : (s.loop p).ovrRaised = false) :
    Runs (.crOverrange t p) s fun x =>
      (x.loop p).ovrRaised = true ∧ ∀ a b, s.axisOfPort p = some (a, b) → Faults s x 8 a := by
  obtain ⟨loop, faults⟩ := onPeriod_raises (t := t) (g := overRange p) fun y same =>
    ⟨_, overRange_due (same ▸ run) (same ▸ once)⟩
  exact ⟨_, rfl, congrArg Loop.ovrRaised loop, faults⟩

theorem crNosample_runs (run : 3 ≤ (s.loop p).noRun) (once : (s.loop p).noRaised = false) :
    Runs (.crNosample t p) s fun x =>
      (x.loop p).noRaised = true ∧ ∀ a b, s.axisOfPort p = some (a, b) → Faults s x 9 a := by
  obtain ⟨loop, faults⟩ := onPeriod_raises (t := t) (g := noSample p) fun y same =>
    ⟨_, noSample_due (same ▸ run) (same ▸ once)⟩
  exact ⟨_, rfl, congrArg Loop.noRaised loop, faults⟩

/-! ## Missed results (R18) -/

theorem missResults_first (first : (s.loop p).missed = false) : missResults p s =
    (s.count (GLB_XING_CNT (pT p)) GLB_XING_CNT_MISSED).modLoop p fun l => { l with missed := true, missRun := l.missRun + 1 } :=
  if_neg (by rw [first]; exact Bool.false_ne_true)

theorem missedResults_runs (first : (s.loop p).missed = false) : Runs (.missedResults t p) s fun x =>
    (x.loop p).missed = true ∧ (x.loop p).missRun = (s.loop p).missRun + 1 ∧
    Counts s x (GLB_XING_CNT (pT p)) GLB_XING_CNT_MISSED ∧ RegsBut [GLB_XING_CNT (pT p)] s x ∧ PortsBut [p] s x := by
  refine ⟨missResults p (s.reach t), rfl, ?_⟩
  rw [missResults_first (s := s.reach t) first]
  have loop := loop_modLoop_same ((s.reach t).count (GLB_XING_CNT (pT p)) GLB_XING_CNT_MISSED) p fun l =>
    { l with missed := true, missRun := l.missRun + 1 }
  exact ⟨congrArg Loop.missed loop, congrArg Loop.missRun loop, counts_count (s.reach t) _ _ (by decide), regsBut_count (s.reach t) _ _,
    fun q other => State.port_modPort_other _ p q _ fun e => other (by simp [e])⟩

/-! ## The third missed period (R18) -/

theorem mem_tilePorts (p : Fin 64) : p ∈ tilePorts (tileOfPort p) := by
  revert p
  decide

theorem followMissed_fault (late : 3 ≤ (s.loop p).missRun) :
    (followMissed (tileOfPort p) s).bit GLB_HEDGE_STAT (GLB_HEDGE_STAT_XING_FAULT (tileOfPort p).1) = true := by
  have any : ((tilePorts (tileOfPort p)).any fun p => decide (3 ≤ (s.loop p).missRun)) = true :=
    List.any_eq_true.2 ⟨p, mem_tilePorts p, decide_eq_true late⟩
  rw [followMissed, any]
  refine State.bit_setBit_same _ _ _ _ ?_ rfl
  simp only [GLB_HEDGE_STAT_XING_FAULT]
  omega

theorem followMissed_axState (u : Fin 4) (a : Fin 32) : (followMissed u s).axState a = s.axState a :=
  State.fld_setFld_far _ _ _ _ _ _ (by simp only [GLB_HEDGE_STAT, MP_STAT]; omega)

theorem followMissed_still (u : Fin 4) : (followMissed u s).still = s.still :=
  still_setBit s _ _ _ (by and_intros <;> simp only [GLB_HEDGE_STAT] <;> omega)

theorem enterHold_axState {a : Fin 32} (enabled : s.axState a ≠ axDISABLED) : (enterHold a s).axState a = axHOLD := by
  unfold enterHold
  split
  · next stays => exact stays.resolve_left enabled
  · unfold freezeAxis
    dsimp only
    rw [showKin_axState, axState_setAxState _ _ _ (by decide)]

theorem enterHold_still (a : Fin 32) : (enterHold a s).still = s.still := by
  simp [enterHold]

theorem blind_enterHold (a : Fin 32) : Blind (enterHold a) := fun q s => by
  simp [enterHold]

section
variable {a : Fin 32} {b : Bool} (third : (s.loop p).missRun = 3) (mapped : s.axisOfPort p = some (a, b))
include third mapped

theorem missedHold_third :
    missedHold p s = raiseFault 26 ⟨1, p⟩ 0 a (enterHold a (followMissed (tileOfPort p) s)) := by
  have marked : (followMissed (tileOfPort p) s).axisOfPort p = some (a, b) :=
    (axisOfPort_of_still (followMissed_still _) p).trans mapped
  have held : (enterHold a (followMissed (tileOfPort p) s)).axisOfPort p = some (a, b) :=
    (axisOfPort_of_still (enterHold_still a) p).trans marked
  unfold missedHold
  simp only [third, if_true, marked]
  exact raisePortFault_eq held 26 0

theorem missedHold_freezes (enabled : s.axState a ≠ axDISABLED) :
    (missedHold p s).axState a = axHOLD ∧ Faults s (missedHold p s) 26 a ∧
    (missedHold p s).bit GLB_HEDGE_STAT (GLB_HEDGE_STAT_XING_FAULT (tileOfPort p).1) = true := by
  rw [missedHold_third third mapped]
  refine ⟨?_, ?_, ?_⟩
  · rw [axState_of_drive (drive_raiseFault ..)]
    exact enterHold_axState (by rw [followMissed_axState]; exact enabled)
  · have marked : Grows s (followMissed (tileOfPort p) s) := .of_recorder rfl
    exact (marked.trans ((blind_enterHold a).grows _)).logs (raiseFault_faults ..)
  · have kept := (lasting_raiseFault (enterHold a (followMissed (tileOfPort p) s)) 26 ⟨1, p⟩ 0 a).trans
      (lasting_enterHold (followMissed (tileOfPort p) s) a)
    rw [State.bit, State.fld, reg_of_lasting kept (by decide)]
    exact followMissed_fault (by omega)

end

end

/-- Settles O24: a window fault notes its run and has its record, in the period that found it; a missed period is noted and counted; the
third in a row freezes the axis, whose entry to HOLD and whose fault leave XING_FAULT as it was set. -/
theorem currentWindowsRaiseTheirFaults : Obligations.CurrentWindowsRaiseTheirFaults := by
  refine fun s t p => ⟨crOverrange_runs, crNosample_runs, missedResults_runs, fun a b third mapped enabled => ?_⟩
  exact ⟨missedHold p (s.reach t), rfl, missedHold_freezes (s := s.reach t) third mapped enabled⟩

end Sys2Proof.Machine
end

section
/-! SUPPORT. O28: a mask that is selected on a port, and what of any other port it leaves (R148). -/

namespace Sys2Proof.Machine

/-! ## A selection put in its place -/

theorem mem_addMask (x : MaskSel) (l : List MaskSel) : x ∈ addMask x l := by
  induction l with
  | nil => simp [addMask]
  | cons y ys ih => by_cases first : x.before y = true <;> simp [addMask, first, ih]

theorem length_addMask (x : MaskSel) (l : List MaskSel) : (addMask x l).length = l.length + 1 := by
  induction l with
  | nil => rfl
  | cons y ys ih => by_cases first : x.before y = true <;> simp [addMask, first, ih]

theorem le_ratMax (p q : Rat) : p ≤ ratMax p q := by
  unfold ratMax
  split
  · next below => exact below
  · exact le_rfl

/-! ## A mask is selected -/

section
variable (s : State) (p : Fin 64) (x : Rat) (rank m : Nat)

theorem pwmStat_ne_count : pwmStat p ≠ PWM_CNT2 (pT p) (pI p) := by
  simp only [pwmStat, PWM_STAT, PWM_CNT2, pT, pI]
  omega

theorem pwm_modPwm_same (f : Pwm → Pwm) : (s.modPwm p f).pwm p = f (s.pwm p) := by
  rw [State.modPwm, State.pwm, State.port_modPort_same, State.pwm]

theorem pwm_modLoop (f : Loop → Loop) : (s.modLoop p f).pwm p = s.pwm p := by
  rw [State.modLoop, State.pwm, State.port_modPort_same, State.pwm]

/-- What the mask does to the integrator is noted in the loop of the port alone (R110). -/
theorem noteMasked_keeps (c : Prop) [Decidable c] (f : Loop → Loop) : let z := if c then s else s.modLoop p f
    z.regs = s.regs ∧ z.pwm p = s.pwm p ∧ ∀ q, p ≠ q → z.port q = s.port q := by
  dsimp only
  split
  · exact ⟨rfl, rfl, fun _ _ => rfl⟩
  · exact ⟨rfl, pwm_modLoop s p f, fun q apart => State.port_modPort_other s p q _ apart⟩

/-- The selection joins those of its port, at its own instant or at the first port valley of RUN. -/
theorem selectMask_masks : ∃ y, x ≤ y ∧
    ((selectMask p x rank m s).pwm p).masks = (addMask ⟨y, rank, m⟩ (s.pwm p).masks).take 16 := by
  have shown (z : State) (v : Nat) : (z.setFld (pwmStat p) PWM_STAT_MASK v).pwm p = z.pwm p := rfl
  unfold selectMask
  dsimp only
  rw [shown, (noteMasked_keeps ..).2.1, pwm_modPwm_same]
  refine ⟨_, ?_, rfl⟩
  split
  · exact le_ratMax ..
  · exact le_rfl

theorem selectMask_regs : RegsBut [PWM_CNT2 (pT p) (pI p), pwmStat p] s (selectMask p x rank m s) := by
  have counted : RegsBut [PWM_CNT2 (pT p) (pI p), pwmStat p] s (s.count (PWM_CNT2 (pT p) (pI p)) PWM_CNT2_MASKEV) :=
    regsBut_setFld s _ _ (List.mem_cons_self ..)
  unfold selectMask
  dsimp only
  refine RegsBut.trans ?_ (regsBut_setFld _ _ _ (by simp))
  exact counted.congr ((noteMasked_keeps _ p _ _).1.trans rfl)

theorem selectMask_counts : Counts s (selectMask p x rank m s) (PWM_CNT2 (pT p) (pI p)) PWM_CNT2_MASKEV := by
  refine (counts_count s (PWM_CNT2 (pT p) (pI p)) PWM_CNT2_MASKEV (by decide)).congr rfl ?_
  unfold selectMask
  dsimp only
  rw [State.fld_setFld_far _ _ _ _ _ _ (pwmStat_ne_count p), State.fld, State.reg, (noteMasked_keeps _ p _ _).1]
  rfl

theorem selectMask_ports : PortsBut [p] s (selectMask p x rank m s) := fun q other => by
  have apart : p ≠ q := fun e => other (by simp [e])
  have shown (z : State) (v : Nat) : (z.setFld (pwmStat p) PWM_STAT_MASK v).port q = z.port q := rfl
  unfold selectMask
  dsimp only
  rw [shown, (noteMasked_keeps _ p _ _).2.2 q apart, State.modPwm, State.port_modPort_other _ _ _ _ apart]
  rfl

end

end Sys2Proof.Machine
end

section
/-! O28: a commutation event on the ports of its axis (R132, R148). -/

namespace Sys2Proof.Machine

/-- A port, with its status, its count of masks and its mapping of the events to masks, is the same in two states. -/
def SameMasks (q : Fin 64) (s t : State) : Prop :=
  t.port q = s.port q ∧ ∀ r ∈ [pwmStat q, PWM_CNT2 (pT q) (pI q), PWM_MASKEV (pT q) (pI q)], t.reg r = s.reg r

/-- A port takes the mask of an event code from an instant on: it counts, and joins the selections where there is room. -/
def TakesMask (q : Fin 64) (code n : Nat) (s t : State) : Prop :=
  Counts s t (PWM_CNT2 (pT q) (pI q)) PWM_CNT2_MASKEV ∧
  ((s.pwm q).masks.length < 16 → ∃ m ∈ (t.pwm q).masks, m.rank = code + 1 ∧
    m.mask = s.fld (PWM_MASKEV (pT q) (pI q)) (PWM_MASKEV_SEL code) ∧ (n : Rat) ≤ m.time)

/-- A port is in RUN, and its mapping of a code is enabled (R148). -/
def State.masksOn (s : State) (q : Fin 64) (code : Nat) : Prop :=
  s.portState q = pRUN ∧ code < 7 ∧ s.bit (PWM_MASKEV (pT q) (pI q)) (PWM_MASKEV_EN code) = true

section
variable {q : Fin 64} {code n : Nat} {s t u : State}

theorem SameMasks.fld (h : SameMasks q s t) (f : Fld) : t.fld (pwmStat q) f = s.fld (pwmStat q) f ∧
    t.fld (PWM_CNT2 (pT q) (pI q)) f = s.fld (PWM_CNT2 (pT q) (pI q)) f ∧
    t.fld (PWM_MASKEV (pT q) (pI q)) f = s.fld (PWM_MASKEV (pT q) (pI q)) f := by
  obtain ⟨-, regs⟩ := h
  simp [State.fld, regs]

theorem SameMasks.pwm (h : SameMasks q s t) : t.pwm q = s.pwm q := congrArg Port.pwm h.1

theorem SameMasks.masksOn (h : SameMasks q s t) (on : s.masksOn q code) : t.masksOn q code := by
  obtain ⟨runs, small, enabled⟩ := on
  obtain ⟨stat, -, -⟩ := h.fld PWM_STAT_STATE
  obtain ⟨-, -, mapped⟩ := h.fld (PWM_MASKEV_EN code)
  exact ⟨stat.trans runs, small, by rw [State.bit, mapped]; exact enabled⟩

theorem TakesMask.before (h : TakesMask q code n t u) (same : SameMasks q s t) : TakesMask q code n s u := by
  obtain ⟨counts, joins⟩ := h
  obtain ⟨-, count, -⟩ := same.fld PWM_CNT2_MASKEV
  obtain ⟨-, -, mapped⟩ := same.fld (PWM_MASKEV_SEL code)
  rw [same.pwm, mapped] at joins
  exact ⟨counts.congr count.symm rfl, joins⟩

theorem TakesMask.after (h : TakesMask q code n s t) (same : SameMasks q t u) : TakesMask q code n s u := by
  obtain ⟨counts, joins⟩ := h
  obtain ⟨-, count, -⟩ := same.fld PWM_CNT2_MASKEV
  rw [← same.pwm] at joins
  exact ⟨counts.congr rfl count, joins⟩

theorem portEvent_takes (s : State) (on : s.masksOn q code) : TakesMask q code n s (portEvent q code n s) := by
  have acts : portEvent q code n s =
      selectMask q n (code + 1) (s.fld (PWM_MASKEV (pT q) (pI q)) (PWM_MASKEV_SEL code)) s := if_pos on
  rw [acts]
  refine ⟨selectMask_counts .., fun room => ?_⟩
  obtain ⟨y, late, masks⟩ := selectMask_masks s q n (code + 1) (s.fld (PWM_MASKEV (pT q) (pI q)) (PWM_MASKEV_SEL code))
  rw [masks, List.take_of_length_le (by rw [length_addMask]; omega)]
  exact ⟨_, mem_addMask .., rfl, rfl, late⟩

/-- An event on a port leaves every other one. -/
theorem portEvent_beside (s : State) {p : Fin 64} (apart : p ≠ q) : SameMasks q s (portEvent p code n s) := by
  unfold portEvent
  dsimp only
  split
  · refine ⟨selectMask_ports s p _ _ _ q (by simpa using apart.symm), fun r hr => selectMask_regs s p _ _ _ r ?_⟩
    have apart : p.1 ≠ q.1 := fun e => apart (Fin.ext e)
    simp only [List.mem_cons, List.not_mem_nil, or_false, pwmStat, PWM_STAT, PWM_CNT2, PWM_MASKEV, pT, pI] at hr ⊢
    omega
  · exact ⟨rfl, fun _ _ => rfl⟩

theorem portEvent_axes (p : Fin 64) (s : State) : (portEvent p code n s).axes = s.axes :=
  kept_part (ps := [.regs, .ports]) (portEvent_ok p code n s (keepBut_start _ s) (by simp [keepBut]) (by simp [keepBut])) .axes
    (by decide)

end

/-- The crossing is taken: it acts once. -/
def takeCrossing (a : Fin 32) (c : Nat × Nat) (s : State) : State :=
  s.modObs a fun o => { o with crossings := o.crossings.erase c }

theorem commutation_due {s : State} {a : Fin 32} {code : Nat} {c : Nat × Nat}
    (due : dueCrossing (s.obs a).crossings code s.now = some c) : commutation a code s =
      portEvent (s.portOf a true) code c.2 (portEvent (s.portOf a false) code c.2 (takeCrossing a c s)) := by
  unfold commutation
  rw [due]
  rfl

/-- A crossing that is due is taken, and each port of the axis that follows its code takes the mask; nothing else of the axes and
ports changes. -/
theorem commutation_acts {s : State} {a : Fin 32} {code : Nat} {c : Nat × Nat}
    (due : dueCrossing (s.obs a).crossings code s.now = some c) (apart : s.portOf a false ≠ s.portOf a true) :
    let x := commutation a code s
    (x.obs a).crossings = (s.obs a).crossings.erase c ∧
    (∀ b, s.masksOn (s.portOf a b) code → TakesMask (s.portOf a b) code c.2 s x) ∧
    AxesBut [a] s x ∧ PortsBut [s.portOf a false, s.portOf a true] s x := by
  have taken (q : Fin 64) : SameMasks q s (takeCrossing a c s) := ⟨rfl, fun _ _ => rfl⟩
  have axes : (commutation a code s).axes = (takeCrossing a c s).axes := by
    rw [commutation_due due, portEvent_axes, portEvent_axes]
  refine ⟨?_, fun b on => ?_, ?_, fun q other => ?_⟩
  · rw [State.obs, State.axis, axes]
    exact congrArg (fun x : Axis => x.obs.crossings) (State.axis_modAxis_same ..)
  · rw [commutation_due due]
    cases b with
    | false =>
      exact ((portEvent_takes _ ((taken _).masksOn on)).before (taken _)).after (portEvent_beside _ apart.symm)
    | true =>
      have first := portEvent_beside (code := code) (n := c.2) (takeCrossing a c s) apart
      exact ((portEvent_takes _ (first.masksOn ((taken _).masksOn on))).before first).before (taken _)
  · exact (axesBut_modAxis s a _).trans (.of_axes axes)
  · obtain ⟨notA, notB⟩ : q ≠ s.portOf a false ∧ q ≠ s.portOf a true := by simpa using other
    rw [commutation_due due, (portEvent_beside _ notB.symm).1, (portEvent_beside _ notA.symm).1, (taken q).1]

/-- Settles O28: the ports that settle keep the crossbar, so that the event finds the ports of the axis; on one of them it leaves the
other. -/
theorem commutationSelectsMasks : Obligations.CommutationSelectsMasks := by
  intro s t a code z settled c due apart
  have mapped (b : Bool) : z.portOf a b = s.portOf a b := by
    rw [settled]
    exact portOf_of_still ((still_settlePort ..).trans (still_settlePort ..)) a b
  obtain ⟨crossings, takes, axes, ports⟩ := commutation_acts due (by rwa [mapped, mapped])
  refine ⟨commutation a code z, by rw [settled]; rfl, crossings, ?_, axes, ?_⟩
  · rintro b q rfl runs small enabled
    rw [← mapped b] at runs enabled ⊢
    exact takes b ⟨runs, small, enabled⟩
  · rwa [mapped, mapped] at ports

end Sys2Proof.Machine
end

section
/-! SUPPORT. O23: what the observer of an axis holds and shows, and the episode of the axis; a stop that begins and a homing that fails
leave them. -/

namespace Sys2Proof.Machine

/-! ## The watch of an axis -/

/-- A register of an observer. -/
def observing (r : Nat) : Bool :=
  decide (0x100000 ≤ r) && decide (r < 0x110000) && decide (0x280 ≤ r % 0x800) && decide (r % 0x800 < 0x300)

/-- The watch of an axis: its observer but for the crossings that wait, its episode, and the registers of the observers. -/
def State.watch (s : State) (a : Fin 32) : Observer × Episode × (Nat → Word) :=
  ({ s.obs a with crossings := [] }, (s.axis a).ep, fun r => if observing r then s.reg r else 0)

theorem observing_iff {r : Nat} : observing r = true ↔ 0x100000 ≤ r ∧ r < 0x110000 ∧ 0x280 ≤ r % 0x800 ∧ r % 0x800 < 0x300 := by
  simp [observing, and_assoc]

@[simp] theorem observing_observer (a : Fin 32) : observing (OB_STAT a) = true ∧ observing (OB_CNT a) = true ∧
    observing (OB_CFG a) = true := by
  simp only [observing_iff, OB_STAT, OB_CNT, OB_CFG]
  omega

@[simp] theorem not_observing_motion (a : Fin 32) : observing (MP_STAT a) = false ∧ observing (MP_CNT a) = false ∧
    observing (GR_STAT a) = false ∧ observing (SF_STAT a) = false ∧ observing (SF_HOME_STAT a) = false ∧
    observing (SF_HOME_REF_LO a) = false ∧ observing (SF_HOME_REF_LO a + 4) = false := by
  simp only [← Bool.not_eq_true, observing_iff, MP_STAT, MP_CNT, GR_STAT, SF_STAT, SF_HOME_STAT, SF_HOME_REF_LO]
  omega

@[simp] theorem not_observing_engine (e : Fin 46) : observing (ENG_STAT e) = false := by
  simp only [← Bool.not_eq_true, observing_iff, ENG_STAT]
  omega

section
variable {s t : State} {a : Fin 32}

theorem obs_of_watch (h : t.watch a = s.watch a) : { t.obs a with crossings := [] } = { s.obs a with crossings := [] } :=
  congrArg (·.1) h

theorem ep_of_watch (h : t.watch a = s.watch a) : (t.axis a).ep = (s.axis a).ep := congrArg (·.2.1) h

theorem reg_of_watch (h : t.watch a = s.watch a) {r : Nat} (hr : observing r = true) : t.reg r = s.reg r := by
  have regs : (if observing r = true then t.reg r else 0) = if observing r = true then s.reg r else 0 :=
    congrFun (congrArg (·.2.2) h) r
  simpa only [hr, if_true] using regs

theorem watch_of_motion (h : SameMotion s t) (a : Fin 32) : t.watch a = s.watch a := by
  refine Prod.ext ?_ (Prod.ext ?_ (funext fun r => ?_))
  · simp only [State.watch, State.obs, h.axis]
  · exact congrArg Axis.ep (h.axis a)
  · show (if observing r = true then t.reg r else 0) = if observing r = true then s.reg r else 0
    split
    · next near =>
      rw [observing_iff] at near
      exact h.reg r (by omega)
    · rfl

end

section
variable (s : State) (a : Fin 32)

theorem watch_setReg {r : Nat} (v : Word) (h : observing r = false) : (s.setReg r v).watch a = s.watch a := by
  refine Prod.ext rfl (Prod.ext rfl (funext fun b => ?_))
  show (if observing b = true then (s.setReg r v).reg b else 0) = if observing b = true then s.reg b else 0
  split
  · next near => exact State.reg_setReg_other s r b v fun e => absurd (e ▸ near) (by simp [h])
  · rfl

@[simp] theorem watch_setFld {r : Nat} (f : Fld) (x : Nat) (h : observing r = false) : (s.setFld r f x).watch a = s.watch a :=
  watch_setReg s a _ h

@[simp] theorem watch_setBit {r : Nat} (f : Fld) (b : Bool) (h : observing r = false) : (s.setBit r f b).watch a = s.watch a :=
  watch_setReg s a _ h

@[simp] theorem watch_count {r : Nat} (f : Fld) (h : observing r = false) : (s.count r f).watch a = s.watch a :=
  watch_setReg s a _ h

@[simp] theorem watch_setPair {lo : Nat} (x : Int) (low : observing lo = false) (high : observing (lo + 4) = false) :
    (s.setPair lo x).watch a = s.watch a := (watch_setReg _ a _ high).trans (watch_setReg s a _ low)

/-- An axis updated beside its observer and its episode. -/
theorem watch_modAxis (f : Axis → Axis) (obs : ∀ x, { (f x).obs with crossings := [] } = { x.obs with crossings := [] })
    (ep : ∀ x, (f x).ep = x.ep) : (s.modAxis a f).watch a = s.watch a := by
  simp [State.watch, State.obs, obs, ep]

@[simp] theorem watch_modProf (f : Profile → Profile) : (s.modProf a f).watch a = s.watch a :=
  watch_modAxis s a _ (fun _ => rfl) fun _ => rfl

@[simp] theorem watch_modGear (f : Gear → Gear) : (s.modGear a f).watch a = s.watch a :=
  watch_modAxis s a _ (fun _ => rfl) fun _ => rfl

@[simp] theorem watch_modSf (f : StepFollow → StepFollow) : (s.modSf a f).watch a = s.watch a :=
  watch_modAxis s a _ (fun _ => rfl) fun _ => rfl

@[simp] theorem watch_modHome (f : HomeRun → HomeRun) : (s.modHome a f).watch a = s.watch a :=
  watch_modAxis s a _ (fun _ => rfl) fun _ => rfl

@[simp] theorem watch_modEng (e : Fin 46) (f : Engine → Engine) : (s.modEng e f).watch a = s.watch a := (rfl)

@[simp] theorem watch_record (k : RecKind) (sev kind idx : Nat) (params : List Nat) :
    (record k sev kind idx params s).watch a = s.watch a := (rfl)

@[simp] theorem watch_ite (c : Prop) [Decidable c] (s t : State) :
    (if c then s else t).watch a = if c then s.watch a else t.watch a := apply_ite (State.watch · a) c s t

theorem watch_foldl {α : Type} (l : List α) (g : State → α → State) (h : ∀ s x, (g s x).watch a = s.watch a) :
    (l.foldl g s).watch a = s.watch a := by
  induction l generalizing s with
  | nil => rfl
  | cons x l ih => rw [List.foldl_cons, ih, h]

@[simp] theorem watch_axisEvent (bit : Nat) (param : Int) : (axisEvent a bit param s).watch a = s.watch a :=
  watch_of_motion (sameMotion_axisEvent ..) a

@[simp] theorem watch_raiseAxis (code sev tag time : Nat) (params : List Int) :
    (raiseAxis a code sev tag time params s).watch a = s.watch a := watch_of_motion (sameMotion_raiseAxis ..) a

@[simp] theorem watch_moveEnds (internal : Bool) (tag st : Nat) (target : Int) :
    (moveEnds a internal tag st target s).watch a = s.watch a := watch_of_motion (sameMotion_moveEnds ..) a

/-! ## A stop begins (R51) -/

@[simp] theorem watch_flushArmed : (flushArmed a s).watch a = s.watch a := by
  simp [flushArmed, watch_foldl]

@[simp] theorem watch_cancelEngage : (cancelEngage a s).watch a = s.watch a := by
  cases h : (s.gear a).engPend <;> simp [cancelEngage, gearEngaged, h]

@[simp] theorem watch_cancelRelease : (cancelRelease a s).watch a = s.watch a := by
  cases h : (s.gear a).relPend <;> simp [cancelRelease, h]

@[simp] theorem watch_leaveFollowing : (leaveFollowing a s).watch a = s.watch a := by
  unfold leaveFollowing
  simp only [watch_ite]
  simp [leaveGear, leaveFollow]

@[simp] theorem watch_endMove (st : Nat) : (endMove a st s).watch a = s.watch a := by
  cases h : (s.prof a).move <;> simp [endMove, h]

@[simp] theorem watch_flushQueue (st : Nat) : (flushQueue a st s).watch a = s.watch a := by
  simp [flushQueue, followQueue, watch_foldl]

@[simp] theorem watch_beginStop (kind : StopKind) : (beginStop a kind s).watch a = s.watch a := by
  simp [beginStop, layPlan, showRaised, keepBase, State.setAxState]

/-! ## A homing meets a stall (R94, R96) -/

theorem watch_endHoming : (endHoming a s).watch a = s.watch a := by
  simp [endHoming, watch_modAxis]

@[simp] theorem watch_failHoming (reason : Nat) : (failHoming a reason s).watch a = s.watch a := by
  cases h : (s.axis a).home <;> simp [failHoming, homeDone, watch_endHoming, h]

@[simp] theorem watch_failHome (reason : Nat) : (failHome a reason s).watch a = s.watch a := by
  simp [failHome_eq, stopAsked]

@[simp] theorem watch_takeRef (p : Int) : (takeRef a p s).watch a = s.watch a := by
  simp [takeRef]

theorem watch_homeStall (t : Nat) (lambda : Int) : (homeStall a t lambda s).watch a = s.watch a := by
  cases h : s.home a <;> simp [homeStall, h]

/-- A homing that meets a stall does not come to HOMED by it. -/
theorem homeStall_unhomed (t : Nat) (lambda : Int) (open_ : s.bit (SF_HOME_STAT a) SF_HOME_STAT_HOMED = false) :
    (homeStall a t lambda s).bit (SF_HOME_STAT a) SF_HOME_STAT_HOMED = false := by
  unfold homeStall
  split
  · exact open_
  · next h runs =>
    split
    · rw [State.bit, State.modHome, State.fld_modAxis, takeRef_fld]
      exact open_
    · split
      · exact open_
      · rw [failHome_eq]
        have asked : (stopAsked a s).home a = some h := (home_of_setting (setting_stopAsked s a)).trans runs
        obtain ⟨-, -, -, unhomed⟩ := failHoming_shows _ a asked 7 (by decide)
        exact unhomed

end

end Sys2Proof.Machine
end

section
/-! SUPPORT. O23: a fault at a reaction below PORT_OFF (R309, R311), and an event that the owner of an axis is told (R209, R241). -/

namespace Sys2Proof.Machine

/-! ## A fault at a given reaction -/

section
variable (s : State) (a : Fin 32) (cls rx : Nat) (sc : FaultScope) (detail : Nat)

theorem drive_raiseFaultRx (o : Fin 32) : (raiseFaultRx cls rx sc detail a s).drive o = s.drive o := by
  simp [raiseFaultRx]

theorem driving_observer : driving (OB_STAT a) = true ∧ driving (OB_CNT a) = true ∧ driving (SF_HOME_STAT a) = true := by
  simp only [driving_iff, OB_STAT, OB_CNT, SF_HOME_STAT]
  omega

theorem latchEvent_axis (e : Fin 46) (bit param : Nat) : (latchEvent e bit param s).axis a = s.axis a :=
  (sameMotion_latchEvent ..).axis a

/-- A fault with a reaction that leaves the ports waits in the episode of its axis, and the observer stands. -/
theorem raiseFaultRx_pends (reacts : rx ≠ 0) (leaves : rx < 5) :
    (raiseFaultRx cls rx sc detail a s).obs a = s.obs a ∧
    ∃ r ∈ ((raiseFaultRx cls rx sc detail a s).axis a).ep.pend, r.cls = cls ∧ r.rx = rx := by
  unfold raiseFaultRx
  dsimp only
  rw [if_neg (show ¬ 5 ≤ rx by omega), if_neg (show ¬ 5 ≤ rx by omega), if_neg reacts]
  split <;> simp [State.obs, latchEvent_axis]

end

/-! ## What the events of an axis leave of the registers -/

theorem latchEvent_reg (s : State) (e : Fin 46) (bit param : Nat) {r : Nat} (far : r < 0x30000 ∨ 0x40000 ≤ r) :
    (latchEvent e bit param s).reg r = s.reg r := by
  have latch : ENG_EVLATCH e ≠ r := by simp only [ENG_EVLATCH]; omega
  have counter : ENG_CNT e ≠ r := by simp only [ENG_CNT]; omega
  unfold latchEvent
  dsimp only
  rw [State.reg_modEng]
  split
  · exact State.reg_setFld_far s _ _ _ _ counter
  · exact State.reg_setFld_far s _ _ _ _ latch

theorem axisEvent_reg (s : State) (a : Fin 32) (bit : Nat) (param : Int) {r : Nat} (far : r < 0x30000 ∨ 0x40000 ≤ r) :
    (axisEvent a bit param s).reg r = s.reg r :=
  (latchEvent_reg _ _ _ _ far).trans (latchEvent_reg s _ _ _ far)

/-! ## Who is told (R224, R241) -/

section
variable {s t : State}

theorem ownerAx_congr (regs : ∀ r, r < 0x30000 → t.reg r = s.reg r) (a : Fin 32) : t.ownerAx a = s.ownerAx a := by
  rw [State.ownerAx, State.fld, regs _ (by simp only [HIF_OWN_AX]; omega)]
  rfl

theorem eventRing_range (c : Fin 4) (n : Fin 16) : (0x40000 ≤ HIF_RING_CFG c n ∧ HIF_RING_CFG c n < 0x44000) ∧
    (0x40000 ≤ HIF_RING_STAT c n ∧ HIF_RING_STAT c n < 0x44000) ∧ (0x40000 ≤ HIF_RING_DEV c n ∧ HIF_RING_DEV c n < 0x44000) ∧
    0x40000 ≤ HIF_RING_HOST c n ∧ HIF_RING_HOST c n < 0x44000 := by
  simp only [HIF_RING_CFG, HIF_RING_STAT, HIF_RING_DEV, HIF_RING_HOST]
  omega

theorem canTell_congr (regs : ∀ r, 0x40000 ≤ r → r < 0x44000 → t.reg r = s.reg r) (cabs : t.cabs = s.cabs) {c : Fin 4} {n : Fin 16}
    {sev : Nat} (h : s.canTell c n sev) : t.canTell c n sev := by
  have same {r : Nat} (range : 0x40000 ≤ r ∧ r < 0x44000) (f : Fld) : t.fld r f = s.fld r f := by
    rw [State.fld, regs r range.1 range.2, State.fld]
  have cabinet (f : Fld) : t.fld (HIF_CAB_CTRL c) f = s.fld (HIF_CAB_CTRL c) f := same (by simp only [HIF_CAB_CTRL]; omega) f
  have kind (m : Fin 16) (ty : Nat) : t.rIs c m ty = s.rIs c m ty := by
    obtain ⟨cfg, stat, -, -⟩ := eventRing_range c m
    have state : t.rState c m = s.rState c m := same stat _
    have type : t.rType c m = s.rType c m := same cfg _
    rw [State.rIs, state, type, State.rIs]
  obtain ⟨names, room, none_lost⟩ := h
  refine ⟨?_, ?_, by rw [State.cab, cabs]; exact none_lost⟩
  · simpa only [State.eventRing, cabinet, kind] using names
  · obtain ⟨cfg, -, dev, host⟩ := eventRing_range c n
    have size : t.rSize c n = s.rSize c n := by rw [State.rSize, same cfg, State.rSize]
    have used : t.rUsed c n = s.rUsed c n := by
      rw [State.rUsed, size, State.rDev, State.rHost, same dev, same host]
      rfl
    rw [State.rRoom, used, size]
    exact room

theorem Tells.between {s t u v : State} {c : Fin 4} {n : Fin 16} {code : Nat} {params : List Nat} (h : Tells t u c n code params)
    (before : s.out <:+ t.out) (later : u.out <:+ v.out) : Tells s v c n code params := by
  obtain ⟨adr, ev, sends, named⟩ := h
  exact ⟨adr, ev, (sends.after before).grows later, named⟩

end

end Sys2Proof.Machine
end

section
/-! O23: STALL (R130, R131). -/

namespace Sys2Proof.Machine

/-! ## The steps of a declared stall -/

/-- The stall is shown and counted, and is no longer due. -/
def stallShown (a : Fin 32) (s : State) : State :=
  let s := s.modObs a fun o => { o with stallDue := false }
  ((s.setBit (OB_STAT a) OB_STAT_STALLED true).count (OB_CNT a) OB_CNT_STALLS).setBit (SF_HOME_STAT a) SF_HOME_STAT_HOMED false

/-- The stall is told to the engines of the axis and to its owner. -/
def stallTold (a : Fin 32) (lam : Int) (s : State) : State :=
  raiseAxis a 0x0401 (plainSev 0x0401) 0 s.now [lam] (axisEvent a 7 lam s)

/-- The mask event of a stall waits for the boundary where it is enabled (R132). -/
def stallMasks (a : Fin 32) (s : State) : State :=
  if s.evOn a 4 then s.modObs a fun o => { o with crossings := o.crossings ++ [(4, s.axB a)] } else s

/-- The stall up to the reaction of the axis. -/
def stallTaken (a : Fin 32) (s : State) : State :=
  let z := stallMasks a (stallTold a (s.obs a).lambda (stallShown a s))
  homeStall a z.now (s.obs a).lambda z

/-- Homing method 3 seeks its stop, and suspends the reaction to a stall (R94, R131). -/
def State.seeksStop (s : State) (a : Fin 32) : Bool :=
  match s.home a with
  | some h => h.method == 3 && decide (1 ≤ h.phase ∧ h.phase ≤ 3)
  | none => false

/-- The reaction to a stall (R131). -/
def State.stallEntry (s : State) (a : Fin 32) : Nat := stallRx (s.fld (OB_CFG a) OB_CFG_STALL_RX)

section
variable {s : State} {a : Fin 32}

theorem stall_due (due : (s.obs a).stallDue = true) : stall a s = if s.seeksStop a then stallTaken a s else
    raiseFaultRx 32 ((stallTaken a s).stallEntry a) ⟨2, a⟩ (toBits 32 (sat31 (s.obs a).lambda)) a (stallTaken a s) := by
  unfold stall
  rw [due]
  rfl

theorem stallRx_eq (n : Nat) : stallRx n = if n = 0 then 1 else if n = 1 then 3 else 4 := by
  unfold stallRx
  split <;> simp_all

theorem stallEntry_range : s.stallEntry a ≠ 0 ∧ s.stallEntry a < 5 := by
  unfold State.stallEntry stallRx
  split <;> decide

/-! ## What is shown -/

theorem stallShown_axis : (stallShown a s).axis a = { s.axis a with obs := { s.obs a with stallDue := false } } :=
  State.axis_modAxis_same s a fun x => { x with obs := { x.obs with stallDue := false } }

theorem stallShown_shows : (stallShown a s).bit (OB_STAT a) OB_STAT_STALLED = true ∧
    Counts s (stallShown a s) (OB_CNT a) OB_CNT_STALLS ∧ (stallShown a s).bit (SF_HOME_STAT a) SF_HOME_STAT_HOMED = false ∧
    ((stallShown a s).obs a).stallDue = false ∧ ((stallShown a s).axis a).ep = (s.axis a).ep ∧
    RegsBut [OB_STAT a, OB_CNT a, SF_HOME_STAT a] s (stallShown a s) := by
  have count : OB_STAT a ≠ OB_CNT a ∧ OB_CNT a ≠ OB_STAT a := by simp only [OB_STAT, OB_CNT]; omega
  have home : SF_HOME_STAT a ≠ OB_STAT a ∧ SF_HOME_STAT a ≠ OB_CNT a := by simp only [OB_STAT, OB_CNT, SF_HOME_STAT]; omega
  refine ⟨?_, ?_, State.bit_setBit_same _ _ _ _ (by decide) rfl, (congrArg (fun x : Axis => x.obs.stallDue) stallShown_axis :),
    (congrArg Axis.ep stallShown_axis :), ?_⟩ <;> unfold stallShown <;> dsimp only
  · rw [State.bit_setBit_far _ _ _ _ _ _ home.1, State.bit, State.count, State.countN, State.fld_setFld_far _ _ _ _ _ _ count.2]
    exact State.bit_setBit_same _ _ _ _ (by decide) rfl
  · refine (counts_count _ (OB_CNT a) OB_CNT_STALLS (by decide)).congr ?_ (State.fld_setFld_far _ _ _ _ _ _ home.2)
    exact (State.fld_setFld_far _ _ _ _ _ _ count.1).symm
  · exact ((regsBut_setFld _ _ _ (by simp)).trans (regsBut_setFld _ _ _ (by simp))).trans (regsBut_setFld _ _ _ (by simp))

theorem watch_stallMasks : (stallMasks a s).watch a = s.watch a := by
  have appended (l : List (Nat × Nat)) : (s.modObs a fun o => { o with crossings := o.crossings ++ l }).watch a = s.watch a :=
    watch_modAxis s a _ (fun _ => rfl) fun _ => rfl
  simp [stallMasks, appended]

theorem stallMasks_keeps : (stallMasks a s).regs = s.regs ∧ (stallMasks a s).out = s.out ∧
    (stallMasks a s).recorder = s.recorder ∧ (stallMasks a s).home a = s.home a := by
  unfold stallMasks
  split
  · exact ⟨rfl, rfl, rfl, (congrArg Axis.home (State.axis_modAxis_same s a _) :)⟩
  · exact ⟨rfl, rfl, rfl, rfl⟩

theorem watch_stallTaken : (stallTaken a s).watch a = (stallShown a s).watch a := by
  rw [stallTaken, watch_homeStall, watch_stallMasks, stallTold, watch_raiseAxis, watch_axisEvent]

/-- What a stall shows stands until the reaction of the axis. -/
theorem stallTaken_shows : (stallTaken a s).bit (OB_STAT a) OB_STAT_STALLED = true ∧
    Counts s (stallTaken a s) (OB_CNT a) OB_CNT_STALLS ∧ (stallTaken a s).bit (SF_HOME_STAT a) SF_HOME_STAT_HOMED = false ∧
    ((stallTaken a s).obs a).stallDue = false ∧ ((stallTaken a s).axis a).ep = (s.axis a).ep ∧
    (stallTaken a s).stallEntry a = s.stallEntry a := by
  obtain ⟨shows, counts, unhomed, once, ep, regs⟩ := stallShown_shows (s := s) (a := a)
  have kept := watch_stallTaken (s := s) (a := a)
  obtain ⟨stat, cnt, cfg⟩ := observing_observer a
  have told : (stallMasks a (stallTold a (s.obs a).lambda (stallShown a s))).reg (SF_HOME_STAT a) =
      (stallShown a s).reg (SF_HOME_STAT a) := by
    obtain ⟨-, -, -, -, -, range⟩ := homing_registers a
    rw [State.reg, stallMasks_keeps.1]
    exact ((sameMotion_raiseAxis ..).reg _ range).trans ((sameMotion_axisEvent ..).reg _ range)
  refine ⟨?_, counts.congr rfl ?_, homeStall_unhomed _ a _ _ ?_, ?_, (ep_of_watch kept).trans ep, ?_⟩
  · rw [State.bit, State.fld, reg_of_watch kept stat]
    exact shows
  · rw [State.fld, reg_of_watch kept cnt, State.fld]
  · rw [State.bit, State.fld, told]
    exact unhomed
  · exact (congrArg Observer.stallDue (obs_of_watch kept)).trans once
  · rw [State.stallEntry, State.fld, reg_of_watch kept cfg, regs _ (by simp [OB_CFG, OB_STAT, OB_CNT, SF_HOME_STAT])]
    rfl

/-! ## The event (R131, R241) -/

theorem stallTold_tells {n : Fin 16} (room : s.canTell (s.ownerAx a) n (plainSev 0x0401)) (lam : Int) :
    Tells s (stallTold a lam (stallShown a s)) (s.ownerAx a) n 0x0401 (evParams [lam]) := by
  obtain ⟨-, -, -, -, -, shown⟩ := stallShown_shows (s := s) (a := a)
  have regs {r : Nat} (low : r < 0x30000 ∨ 0x40000 ≤ r) (high : r < 0x44000) :
      (axisEvent a 7 lam (stallShown a s)).reg r = s.reg r := by
    refine (axisEvent_reg _ _ _ _ low).trans (shown r ?_)
    simp only [List.mem_cons, List.not_mem_nil, or_false, OB_STAT, OB_CNT, SF_HOME_STAT]
    omega
  have kept : Ok (keepBut [.regs, .axes, .engines] s) (axisEvent a 7 lam (stallShown a s)) :=
    axisEvent_ok a 7 lam (stallShown a s)
      (State.setBit_ok _ _ _ _ (State.count_ok _ _ _ (State.setBit_ok _ _ _ _ (State.modObs_ok s a _ (keepBut_start _ s)
        (by simp [keepBut])) (by simp [keepBut])) (by simp [keepBut])) (by simp [keepBut])) (by simp [keepBut]) (by simp [keepBut])
  have owner : (axisEvent a 7 lam (stallShown a s)).ownerAx a = s.ownerAx a :=
    ownerAx_congr (fun r hr => regs (.inl hr) (by omega)) a
  have told := raiseEvent_tells (s := axisEvent a 7 lam (stallShown a s))
    ⟨0x0401, plainSev 0x0401, 0, a, 0, (stallShown a s).now, [lam]⟩
    (canTell_congr (fun r low high => regs (.inr low) high) (kept_part kept .cabs (by decide)) room)
  rw [stallTold, raiseAxis, owner]
  exact told.between (kept_sent kept) List.suffix_rfl

theorem stallTaken_sent : (stallTold a (s.obs a).lambda (stallShown a s)).out <:+ (stallTaken a s).out := by
  obtain ⟨-, out, -⟩ := stallMasks_keeps (s := stallTold a (s.obs a).lambda (stallShown a s)) (a := a)
  rw [← out]
  exact kept_sent (ps := [.regs, .axes, .engines, .cabs, .recorder, .out]) (homeStall_ok a _ _ _ (keepBut_start _ _)
    (by simp [keepBut]) (by simp [keepBut]) (by simp [keepBut]) (by simp [keepBut]) (by simp [keepBut]) (by simp [keepBut]))

/-! ## The reaction (R131) -/

theorem stallTold_grows (lam : Int) : Grows s (stallTold a lam s) := by
  have event : Grows s (axisEvent a 7 lam s) := Blind.grows (fun q z => Veil.axisEvent q z a 7 lam) s
  exact event.trans (Blind.grows (fun q z => Veil.raiseAxis q z a 0x0401 (plainSev 0x0401) 0 s.now [lam]) _)

/-- Where no homing runs, a stall that is shown and told is taken. -/
theorem stallTaken_idle (idle : s.home a = none) :
    stallTaken a s = stallMasks a (stallTold a (s.obs a).lambda (stallShown a s)) := by
  have shown : (stallShown a s).home a = none := (congrArg Axis.home stallShown_axis :).trans idle
  have told : (stallTold a (s.obs a).lambda (stallShown a s)).home a = none :=
    (congrArg Axis.home (((sameMotion_axisEvent ..).trans (sameMotion_raiseAxis ..)).axis a)).trans shown
  obtain ⟨-, -, -, home⟩ := stallMasks_keeps (s := stallTold a (s.obs a).lambda (stallShown a s)) (a := a)
  unfold stallTaken homeStall
  dsimp only
  rw [home, told]

theorem stallTaken_grows (idle : s.home a = none) : Grows s (stallTaken a s) := by
  obtain ⟨-, -, recorder, -⟩ := stallMasks_keeps (s := stallTold a (s.obs a).lambda (stallShown a s)) (a := a)
  have shown : Grows s (stallShown a s) := .of_recorder rfl
  rw [stallTaken_idle idle]
  exact (shown.trans (stallTold_grows _)).trans (.of_recorder recorder)

/-- The reaction leaves what the stall has shown. -/
theorem stall_shows (due : (s.obs a).stallDue = true) : (stall a s).bit (OB_STAT a) OB_STAT_STALLED = true ∧
    Counts s (stall a s) (OB_CNT a) OB_CNT_STALLS ∧ (stall a s).bit (SF_HOME_STAT a) SF_HOME_STAT_HOMED = false ∧
    ((stall a s).obs a).stallDue = false := by
  obtain ⟨shows, counts, unhomed, once, -, -⟩ := stallTaken_shows (s := s) (a := a)
  rw [stall_due due]
  split
  · exact ⟨shows, counts, unhomed, once⟩
  · obtain ⟨reacts, leaves⟩ := stallEntry_range (s := stallTaken a s) (a := a)
    have drives := drive_raiseFaultRx (stallTaken a s) a 32 ((stallTaken a s).stallEntry a) ⟨2, a⟩
      (toBits 32 (sat31 (s.obs a).lambda)) a
    obtain ⟨stat, cnt, home⟩ := driving_observer a
    obtain ⟨obs, -⟩ := raiseFaultRx_pends (stallTaken a s) a 32 _ ⟨2, a⟩ (toBits 32 (sat31 (s.obs a).lambda)) reacts leaves
    refine ⟨?_, counts.congr rfl ?_, ?_, by rw [obs]; exact once⟩
    · rw [State.bit, State.fld, reg_of_drive drives stat]
      exact shows
    · rw [State.fld, reg_of_drive drives cnt, State.fld]
    · rw [State.bit, State.fld, reg_of_drive drives home]
      exact unhomed

theorem stall_tells (due : (s.obs a).stallDue = true) {n : Fin 16} (room : s.canTell (s.ownerAx a) n (plainSev 0x0401)) :
    Tells s (stall a s) (s.ownerAx a) n 0x0401 (evParams [(s.obs a).lambda]) := by
  refine (stallTold_tells room _).between List.suffix_rfl (stallTaken_sent.trans ?_)
  rw [stall_due due]
  split
  · exact List.suffix_rfl
  · exact kept_sent (ps := [.regs, .axes, .ports, .engines, .cabs, .recorder, .out]) (raiseFaultRx_ok _ _ _ _ a _ (keepBut_start _ _)
      (by simp [keepBut]) (by simp [keepBut]) (by simp [keepBut]) (by simp [keepBut]) (by simp [keepBut]) (by simp [keepBut])
      (by simp [keepBut]))

theorem stall_raises (due : (s.obs a).stallDue = true) (idle : s.home a = none) : Faults s (stall a s) 32 a ∧
    ∃ r ∈ ((stall a s).axis a).ep.pend, r.cls = 32 ∧ r.rx = s.stallEntry a := by
  have seeks : s.seeksStop a = false := by
    unfold State.seeksStop
    rw [idle]
  obtain ⟨-, -, -, -, -, entry⟩ := stallTaken_shows (s := s) (a := a)
  obtain ⟨reacts, leaves⟩ := stallEntry_range (s := s) (a := a)
  rw [stall_due due, seeks, if_neg Bool.false_ne_true, entry]
  exact ⟨(stallTaken_grows idle).logs (raiseFaultRx_faults ..), (raiseFaultRx_pends _ a 32 _ _ _ reacts leaves).2⟩

theorem stall_spares (due : (s.obs a).stallDue = true) (seeks : s.seeksStop a = true) :
    ((stall a s).axis a).ep = (s.axis a).ep := by
  obtain ⟨-, -, -, -, ep, -⟩ := stallTaken_shows (s := s) (a := a)
  rw [stall_due due, if_pos seeks]
  exact ep

end

theorem stall_runs {s : State} {t : Nat} {a : Fin 32} (due : (s.obs a).stallDue = true) : Runs (.stall t a) s fun x =>
    x.bit (OB_STAT a) OB_STAT_STALLED = true ∧ Counts s x (OB_CNT a) OB_CNT_STALLS ∧
    x.bit (SF_HOME_STAT a) SF_HOME_STAT_HOMED = false ∧ (x.obs a).stallDue = false ∧
    (∀ n, s.canTell (s.ownerAx a) n (plainSev 0x0401) →
      Tells s x (s.ownerAx a) n 0x0401 (evParams [(s.obs a).lambda])) ∧
    (s.home a = none → Faults s x 32 a ∧ ∃ r ∈ (x.axis a).ep.pend, r.cls = 32 ∧ r.rx = s.stallEntry a) ∧
    (s.seeksStop a = true → (x.axis a).ep = (s.axis a).ep) := by
  let y := (s.reach t).modTile (tileOf a) fun x => { x with closing := some ((s.reach t).boundary (tileOf a)) }
  have dueY : (y.obs a).stallDue = true := due
  obtain ⟨shows, counts, unhomed, once⟩ := stall_shows dueY
  exact ⟨_, rfl, shows, counts, unhomed, once, fun n room => stall_tells (s := y) dueY room,
    fun idle => stall_raises (s := y) dueY idle, fun seeks => stall_spares (s := y) dueY seeks⟩

end Sys2Proof.Machine
end

section
/-! O23: OB_SLIP, WEAK and ESTIMATE_TIMEOUT (R126, R131). -/

namespace Sys2Proof.Machine

/-! ## A slip is booked (R131) -/

theorem signedOf_toBits_word {x : Int} (low : -2147483648 ≤ x) (high : x ≤ 2147483647) : signedOf 32 (toBits 32 x % 2 ^ 32) = x := by
  unfold signedOf toBits
  dsimp only
  split <;> omega

theorem clampInt_range {lo hi : Int} (h : lo ≤ hi) (x : Int) : lo ≤ clampInt lo hi x ∧ clampInt lo hi x ≤ hi := by
  unfold clampInt
  split
  · omega
  · split <;> omega

/-- The observer with a slip of `n` cycles booked. -/
def Observer.booked (n : Int) (o : Observer) : Observer :=
  { o with
    est := o.est.shift (65536 * (n * 262144)), inj := o.inj.shift (65536 * (n * 262144))
    bemf := o.bemf.shift (65536 * (n * 262144)), encOfs := o.encOfs + (n * 262144 : Int), slipRun := 0, slipN := 0 }

section
variable {s : State} {t : Nat} {a : Fin 32}

theorem obs_modObs_same (s : State) (a : Fin 32) (f : Observer → Observer) : (s.modObs a f).obs a = f (s.obs a) := by
  rw [State.obs, State.modObs, State.axis_modAxis_same, State.obs]

theorem bookSlip_due (held : 16 ≤ (s.obs a).slipRun) : bookSlip a s =
    let z := s.modObs a (Observer.booked (s.obs a).slipN)
    record .slip 0 0 a [toBits 32 (s.obs a).slipN] (z.setFldI (OB_SLIP a) OB_SLIP_CYC
      (clampInt (-2147483648) 2147483647 (z.fldI (OB_SLIP a) OB_SLIP_CYC + (s.obs a).slipN))) :=
  if_neg (by omega)

theorem bookSlip_books (held : 16 ≤ (s.obs a).slipRun) : (bookSlip a s).obs a = (s.obs a).booked (s.obs a).slipN ∧
    (bookSlip a s).fldI (OB_SLIP a) OB_SLIP_CYC =
      clampInt (-2147483648) 2147483647 (s.fldI (OB_SLIP a) OB_SLIP_CYC + (s.obs a).slipN) ∧
    Logs s (bookSlip a s) (.dev .slip) 0 a.1 ∧ AxesBut [a] s (bookSlip a s) ∧ RegsBut [OB_SLIP a] s (bookSlip a s) := by
  rw [bookSlip_due held]
  have cycles : (s.modObs a (Observer.booked (s.obs a).slipN)).fldI (OB_SLIP a) OB_SLIP_CYC =
      s.fldI (OB_SLIP a) OB_SLIP_CYC := State.fldI_modAxis ..
  have booked := obs_modObs_same s a (Observer.booked (s.obs a).slipN)
  have logs : Grows s (s.modObs a (Observer.booked (s.obs a).slipN)) := .of_recorder rfl
  dsimp only
  rw [cycles]
  obtain ⟨low, high⟩ := clampInt_range (lo := -2147483648) (hi := 2147483647) (by decide)
    (s.fldI (OB_SLIP a) OB_SLIP_CYC + (s.obs a).slipN)
  generalize clampInt (-2147483648) 2147483647 (s.fldI (OB_SLIP a) OB_SLIP_CYC + (s.obs a).slipN) = n at low high ⊢
  have others := axesBut_modAxis s a fun x => { x with obs := x.obs.booked (s.obs a).slipN }
  refine ⟨?_, ?_, ?_, fun b hb => ?_, fun r hr => ?_⟩
  · rw [State.obs, record_axis, State.axis_setFldI]
    exact booked
  · rw [State.fldI, State.fld, record_reg, ← State.fld, State.setFldI, State.fld_setFld_same _ _ _ _ (by decide)]
    exact signedOf_toBits_word low high
  · exact (logs.trans (.of_recorder rfl)).logs (record_logs ..)
  · rw [record_axis, State.axis_setFldI]
    exact others b hb
  · rw [record_reg, State.setFldI, State.reg_setFld_far _ _ _ _ _ (by simpa using Ne.symm (by simpa using hr))]
    exact State.reg_modAxis ..

theorem obSlip_runs (held : 16 ≤ (s.obs a).slipRun) : Runs (.obSlip t a) s fun x =>
    (x.obs a).est = (s.obs a).est.shift (65536 * (262144 * (s.obs a).slipN)) ∧ (x.obs a).slipRun = 0 ∧ (x.obs a).slipN = 0 ∧
    x.fldI (OB_SLIP a) OB_SLIP_CYC =
      clampInt (-2147483648) 2147483647 (s.fldI (OB_SLIP a) OB_SLIP_CYC + (s.obs a).slipN) ∧
    Logs s x (.dev .slip) 0 a.1 ∧ AxesBut [a] s x ∧ RegsBut [OB_SLIP a] s x := by
  obtain ⟨booked, rest⟩ := bookSlip_books (s := s.reach t) held
  refine ⟨bookSlip a (s.reach t), rfl, ?_, ?_, ?_, rest⟩ <;> rw [booked]
  · rw [Int.mul_comm 262144]
    rfl
  · rfl
  · rfl

/-! ## The estimate is lost (R126) -/

/-- An estimate that is lost shows so, with no correction, and leaves the other fields of its status. -/
theorem loseValid_shows (s : State) (a : Fin 32) : (loseValid a s).bit (OB_STAT a) OB_STAT_VALID = false ∧
    ((loseValid a s).obs a).corr = 0 ∧ ((loseValid a s).obs a).timedOut = (s.obs a).timedOut ∧
    (loseValid a s).bit (OB_STAT a) OB_STAT_WEAK = s.bit (OB_STAT a) OB_STAT_WEAK ∧
    AxesBut [a] s (loseValid a s) ∧ RegsBut [OB_STAT a] s (loseValid a s) := by
  let z := (s.setBit (OB_STAT a) OB_STAT_VALID false).setBit (OB_STAT a) OB_STAT_CORR false
  have obs : (loseValid a s).obs a = { z.obs a with corr := 0, crossings := (z.obs a).crossings.filter fun c => 4 ≤ c.1 } :=
    obs_modObs_same z a _
  have corr (f : Fld) (fits : f.lo + f.width ≤ 32) (apart : OB_STAT_CORR.apart f = true) :
      (loseValid a s).bit (OB_STAT a) f = (s.setBit (OB_STAT a) OB_STAT_VALID false).bit (OB_STAT a) f :=
    (State.bit_modAxis z a _ _ f).trans (State.bit_setBit_other _ _ _ _ _ (by decide) fits apart)
  refine ⟨?_, congrArg Observer.corr obs, (congrArg Observer.timedOut obs :), ?_, axesBut_modAxis z a _, ?_⟩
  · exact (corr OB_STAT_VALID (by decide) (by decide)).trans (State.bit_setBit_same _ _ _ _ (by decide) rfl)
  · exact (corr OB_STAT_WEAK (by decide) (by decide)).trans
      (State.bit_setBit_other s _ OB_STAT_VALID OB_STAT_WEAK _ (by decide) (by decide) (by decide))
  · have shown : RegsBut [OB_STAT a] s z := .trans (regsBut_setFld _ _ _ (by simp)) (regsBut_setFld _ _ _ (by simp))
    exact shown.congr rfl

theorem weak_runs (run : 256 ≤ (s.obs a).weakRun) (strong : s.bit (OB_STAT a) OB_STAT_WEAK = false) : Runs (.weak t a) s fun x =>
    x.bit (OB_STAT a) OB_STAT_WEAK = true ∧ x.bit (OB_STAT a) OB_STAT_VALID = false ∧ (x.obs a).corr = 0 ∧
    Logs s x (.dev .weakSaliency) 0 a.1 ∧ RegsBut [OB_STAT a] s x := by
  let z := (s.reach t).setBit (OB_STAT a) OB_STAT_WEAK true
  have acts : setWeak a (s.reach t) = record .weakSaliency 1 0 a [(loseValid a z).fld (OB_SAL a) OB_SAL_SAL] (loseValid a z) :=
    if_pos (c := 256 ≤ ((s.reach t).obs a).weakRun ∧ (!(s.reach t).bit (OB_STAT a) OB_STAT_WEAK) = true) ⟨run, by simp [strong]⟩
  obtain ⟨lost, corr, -, weak, -, regs⟩ := loseValid_shows z a
  refine ⟨setWeak a (s.reach t), rfl, ?_⟩
  rw [acts]
  refine ⟨weak.trans (State.bit_setBit_same _ _ _ _ (by decide) rfl), lost, corr, ?_, ?_⟩
  · exact (Grows.of_recorder rfl).logs (record_logs ..)
  · exact (regsBut_setFld (s.reach t) OB_STAT_WEAK _ (by simp)).trans regs

theorem estimateTimeout_runs (run : 64 ≤ (s.obs a).noMeas) (injects : s.regime a = 1 ∨ s.regime a = 2) :
    Runs (.estimateTimeout t a) s fun x =>
      (x.obs a).timedOut = true ∧ x.bit (OB_STAT a) OB_STAT_VALID = false ∧ (x.obs a).corr = 0 ∧ AxesBut [a] s x ∧
      RegsBut [OB_STAT a] s x := by
  let z := (s.reach t).modObs a fun o => { o with timedOut := true }
  have acts : estimateTimeout a (s.reach t) = loseValid a z := if_pos ⟨run, injects⟩
  obtain ⟨lost, corr, timed, -, axes, regs⟩ := loseValid_shows z a
  refine ⟨estimateTimeout a (s.reach t), rfl, ?_⟩
  rw [acts]
  exact ⟨timed.trans (congrArg Observer.timedOut (obs_modObs_same ..)), lost, corr, (axesBut_modAxis (s.reach t) a _).trans axes, regs⟩

end

/-- Settles O23: a stall is shown and told before its reaction, which a homing that seeks its stop suspends; a slip, a weak saliency and a
timeout each act on their observer alone. -/
theorem observerReportsStallsAndSlips : Obligations.ObserverReportsStallsAndSlips := by
  refine fun s t a => ⟨fun due => ?_, obSlip_runs, weak_runs, estimateTimeout_runs⟩
  obtain ⟨x, runs, shows, counts, unhomed, once, tells, raises, spares⟩ := stall_runs (t := t) due
  refine ⟨x, runs, shows, counts, unhomed, once, tells, fun idle => ?_, fun h homes method first last => ?_⟩
  · obtain ⟨faults, r, waits, cls, rx⟩ := raises idle
    exact ⟨faults, r, waits, cls, rx.trans (stallRx_eq _)⟩
  · have seeks : s.seeksStop a = true := by
      unfold State.seeksStop
      rw [homes]
      simp [method, first, last]
    exact ⟨congrArg Episode.pend (spares seeks), congrArg Episode.classes (spares seeks)⟩

end Sys2Proof.Machine
end

section
/-! SUPPORT. O27: the registers of the tiles and of their ports, which an axis that is disabled, the device state and an event leave. -/

namespace Sys2Proof.Machine

/-- The registers of the tiles and of their ports. -/
def State.tileRegs (s : State) (r : Nat) : Word := if 0x200000 ≤ r then s.reg r else 0

theorem reg_of_tileRegs {s t : State} (h : t.tileRegs = s.tileRegs) {r : Nat} (hr : 0x200000 ≤ r) : t.reg r = s.reg r := by
  simpa only [State.tileRegs, hr, if_true] using congrFun h r

theorem tileRegs_of_regs {s t : State} (h : ∀ r, 0x200000 ≤ r → t.reg r = s.reg r) : t.tileRegs = s.tileRegs :=
  funext fun r => ite_congr rfl (fun hr => h r hr) fun _ => rfl

theorem tileRegs_of_motion {s t : State} (h : SameMotion s t) : t.tileRegs = s.tileRegs :=
  tileRegs_of_regs fun r hr => h.reg r (by omega)

theorem tileRegs_of_course {s t : State} {a : Fin 32} (h : t.course a = s.course a) : t.tileRegs = s.tileRegs :=
  tileRegs_of_regs fun r hr => reg_of_course h (by
    simp only [← Bool.not_eq_true, aside_iff, GR_STAT, SF_STAT, SF_HOME_STAT, MP_FLT_STAT]
    omega)

@[simp] theorem axis_below_tiles (a : Fin 32) : MP_STAT a < 0x200000 ∧ MP_CNT a < 0x200000 ∧ MP_CMD_POS_LO a < 0x200000 ∧
    MP_CMD_VEL_LO a < 0x200000 ∧ MP_CMD_ACC_LO a < 0x200000 ∧ MP_CMD_POS_LO a + 4 < 0x200000 ∧ MP_CMD_VEL_LO a + 4 < 0x200000 ∧
    MP_CMD_ACC_LO a + 4 < 0x200000 ∧ SF_HOME_STAT a < 0x200000 ∧ MP_FLT_STAT a < 0x200000 ∧ MP_FLT_CNT a < 0x200000 := by
  simp only [MP_STAT, MP_CNT, MP_CMD_POS_LO, MP_CMD_VEL_LO, MP_CMD_ACC_LO, SF_HOME_STAT, MP_FLT_STAT, MP_FLT_CNT]
  omega

section
variable (s : State)

/-! ## The named updates -/

@[simp] theorem tileRegs_setReg {r : Nat} (v : Word) (h : r < 0x200000) : (s.setReg r v).tileRegs = s.tileRegs :=
  tileRegs_of_regs fun b hb => State.reg_setReg_other s r b v (by omega)

@[simp] theorem tileRegs_setFld {r : Nat} (f : Fld) (x : Nat) (h : r < 0x200000) : (s.setFld r f x).tileRegs = s.tileRegs :=
  tileRegs_setReg s _ h

@[simp] theorem tileRegs_setBit {r : Nat} (f : Fld) (b : Bool) (h : r < 0x200000) : (s.setBit r f b).tileRegs = s.tileRegs :=
  tileRegs_setReg s _ h

@[simp] theorem tileRegs_count {r : Nat} (f : Fld) (h : r < 0x200000) : (s.count r f).tileRegs = s.tileRegs :=
  tileRegs_setReg s _ h

@[simp] theorem tileRegs_setPair {lo : Nat} (x : Int) (h : lo < 0x200000) (h4 : lo + 4 < 0x200000) :
    (s.setPair lo x).tileRegs = s.tileRegs := (tileRegs_setReg _ _ h4).trans (tileRegs_setReg s _ h)

@[simp] theorem tileRegs_modAxis (a : Fin 32) (f : Axis → Axis) : (s.modAxis a f).tileRegs = s.tileRegs := (rfl)
@[simp] theorem tileRegs_modProf (a : Fin 32) (f : Profile → Profile) : (s.modProf a f).tileRegs = s.tileRegs := (rfl)
@[simp] theorem tileRegs_emit (o : Out) : (s.emit o).tileRegs = s.tileRegs := (rfl)

@[simp] theorem tileRegs_record (k : RecKind) (sev kind idx : Nat) (params : List Nat) :
    (record k sev kind idx params s).tileRegs = s.tileRegs := (rfl)

@[simp] theorem tileRegs_recordVar (k : RecKind) (sev kind idx : Nat) (words : List Nat) :
    (recordVar k sev kind idx words s).tileRegs = s.tileRegs := (rfl)

@[simp] theorem tileRegs_ite (c : Prop) [Decidable c] (s t : State) :
    (if c then s else t).tileRegs = if c then s.tileRegs else t.tileRegs := apply_ite State.tileRegs c s t

theorem tileRegs_foldl {α : Type} (l : List α) (g : State → α → State) (h : ∀ s x, (g s x).tileRegs = s.tileRegs) :
    (l.foldl g s).tileRegs = s.tileRegs := by
  induction l generalizing s with
  | nil => rfl
  | cons x l ih => rw [List.foldl_cons, ih, h]

/-! ## Events and the device state -/

@[simp] theorem tileRegs_latchEvent (e : Fin 46) (bit param : Nat) : (latchEvent e bit param s).tileRegs = s.tileRegs :=
  tileRegs_of_motion (sameMotion_latchEvent ..)

@[simp] theorem tileRegs_moveEnds (a : Fin 32) (internal : Bool) (tag st : Nat) (target : Int) :
    (moveEnds a internal tag st target s).tileRegs = s.tileRegs := tileRegs_of_motion (sameMotion_moveEnds ..)

@[simp] theorem tileRegs_raiseEvent (c : Fin 4) (b : EvBody) : (raiseEvent c b s).tileRegs = s.tileRegs :=
  tileRegs_of_regs fun _ hr => reg_of_beyond (beyond_raiseEvent ..) (by omega)

@[simp] theorem tileRegs_followPorts : (followPorts s).tileRegs = s.tileRegs := by
  have state (new : Nat) : (setDevState new 0 s).tileRegs = s.tileRegs := by
    simp [setDevState, raiseDevice, tileRegs_foldl, show GLB_STATE < 0x200000 by decide]
  simp [followPorts, state]

/-! ## An axis is disabled (R51) -/

@[simp] theorem tileRegs_showRaised (a : Fin 32) (raised : Bool) : (showRaised a raised s).tileRegs = s.tileRegs := by
  simp [showRaised]

@[simp] theorem tileRegs_endMove (a : Fin 32) (st : Nat) : (endMove a st s).tileRegs = s.tileRegs := by
  cases h : (s.prof a).move <;> simp [endMove, h]

@[simp] theorem tileRegs_flushQueue (a : Fin 32) (st : Nat) : (flushQueue a st s).tileRegs = s.tileRegs := by
  simp [flushQueue, followQueue, tileRegs_foldl]

@[simp] theorem tileRegs_leaveFollowing (a : Fin 32) : (leaveFollowing a s).tileRegs = s.tileRegs :=
  tileRegs_of_course (course_leaveFollowing ..)

@[simp] theorem tileRegs_failHoming (a : Fin 32) (reason : Nat) : (failHoming a reason s).tileRegs = s.tileRegs :=
  tileRegs_of_course (course_failHoming ..)

@[simp] theorem tileRegs_enterDisabled (a : Fin 32) : (enterDisabled a s).tileRegs = s.tileRegs := by
  simp [enterDisabled, freezeAxis, keepBase, layPlan, showKin, State.setAxState]

end

end Sys2Proof.Machine
end

section
/-! SUPPORT. O27: what surrounds the pins of a port, and stays as it is while they settle: the other ports, the registers but those in
which the edges of the port show, its valley, the trip of its period, and its state (R138–R149, R156). -/

namespace Sys2Proof.Machine

/-! ## Ports but one -/

theorem PortsBut.trans {ps : List (Fin 64)} {s t u : State} (h : PortsBut ps s t) (h' : PortsBut ps t u) : PortsBut ps s u :=
  fun q hq => (h' q hq).trans (h q hq)

theorem portsBut_of_ports {s t : State} (ps : List (Fin 64)) (h : t.ports = s.ports) : PortsBut ps s t := fun q _ => by
  rw [State.port, h, State.port]

theorem portsBut_modPort (s : State) (p : Fin 64) (f : Port → Port) : PortsBut [p] s (s.modPort p f) := fun q other =>
  State.port_modPort_other s p q f fun e => other (by simp [e])

theorem pwm_of_ports {s t : State} (p : Fin 64) (h : t.ports = s.ports) : t.pwm p = s.pwm p := by
  rw [State.pwm, State.port, h, State.pwm, State.port]

/-! ## What surrounds the pins -/

/-- The registers in which the pulses, the masks and the refresh pulses of a port show. -/
def edgeRegs (p : Fin 64) : List Nat :=
  [pwmStat p, gdStat p, GD_CNT2 (pT p) (pI p), PWM_CNT (pT p) (pI p), PWM_CNT2 (pT p) (pI p), PWM_CARRY (pT p) (pI p)]

/-- What surrounds the pins of a port. Of PWM_STAT and PWM_CNT these are the state and the trips. -/
def State.around (s : State) (p : Fin 64) :
    (Fin 64 → Option Port) × (Nat → Option Word) × (Option Nat × Bool × Bool) × Nat × Nat :=
  (fun q => if q = p then none else some (s.port q), fun r => if r ∈ edgeRegs p then none else some (s.reg r),
    ((s.pwm p).valleyAt, (s.pwm p).valleyDone, (s.pwm p).tripSeen), s.portState p,
    s.fld (PWM_CNT (pT p) (pI p)) PWM_CNT_TRIPS)

/-- What surrounds the pins of a port is the same in two states, but that its valley may have come between them. -/
structure SameAround (p : Fin 64) (s t : State) : Prop where
  ports : PortsBut [p] s t
  regs : RegsBut (edgeRegs p) s t
  valleyAt : (t.pwm p).valleyAt = (s.pwm p).valleyAt
  tripSeen : (t.pwm p).tripSeen = (s.pwm p).tripSeen
  state : t.portState p = s.portState p
  trips : t.fld (PWM_CNT (pT p) (pI p)) PWM_CNT_TRIPS = s.fld (PWM_CNT (pT p) (pI p)) PWM_CNT_TRIPS
  done : (s.pwm p).valleyDone = true → (t.pwm p).valleyDone = true

theorem SameAround.trans {p : Fin 64} {s t u : State} (h : SameAround p s t) (h' : SameAround p t u) : SameAround p s u :=
  ⟨h.ports.trans h'.ports, h.regs.trans h'.regs, h'.valleyAt.trans h.valleyAt, h'.tripSeen.trans h.tripSeen,
    h'.state.trans h.state, h'.trips.trans h.trips, fun x => h'.done (h.done x)⟩

theorem valleyDone_of_around {s t : State} {p : Fin 64} (h : t.around p = s.around p) :
    (t.pwm p).valleyDone = (s.pwm p).valleyDone := congrArg (·.2.2.1.2.1) h

theorem sameAround_of_around {s t : State} {p : Fin 64} (h : t.around p = s.around p) : SameAround p s t where
  ports q other := by
    have apart : q ≠ p := by simpa using other
    simpa [State.around, apart] using congrFun (congrArg (·.1) h) q
  regs r other := by simpa [State.around, other] using congrFun (congrArg (·.2.1) h) r
  valleyAt := congrArg (·.2.2.1.1) h
  tripSeen := congrArg (·.2.2.1.2.2) h
  state := congrArg (·.2.2.2.1) h
  trips := congrArg (·.2.2.2.2) h
  done x := (valleyDone_of_around h).trans x

section
variable (s : State) (p : Fin 64)

/-! ## The named updates -/

theorem edgeRegs_apart : pwmStat p ≠ PWM_CNT (pT p) (pI p) ∧
    ∀ r ∈ [gdStat p, GD_CNT2 (pT p) (pI p), PWM_CNT2 (pT p) (pI p), PWM_CARRY (pT p) (pI p)],
      r ∈ edgeRegs p ∧ r ≠ pwmStat p ∧ r ≠ PWM_CNT (pT p) (pI p) := by
  simp [edgeRegs, pwmStat, gdStat, PWM_STAT, GD_STAT, GD_CNT2, PWM_CNT, PWM_CNT2, PWM_CARRY, pT, pI]

/-- A register in which the edges show, updated beside the state and the trips. -/
theorem around_setFld {r : Nat} (f : Fld) (x : Nat) (shows : r ∈ edgeRegs p)
    (state : (s.setFld r f x).fld (pwmStat p) PWM_STAT_STATE = s.fld (pwmStat p) PWM_STAT_STATE)
    (trips : (s.setFld r f x).fld (PWM_CNT (pT p) (pI p)) PWM_CNT_TRIPS = s.fld (PWM_CNT (pT p) (pI p)) PWM_CNT_TRIPS) :
    (s.setFld r f x).around p = s.around p := by
  refine Prod.ext rfl (Prod.ext (funext fun b => ite_congr rfl (fun _ => rfl) fun other => ?_) (Prod.ext rfl (Prod.ext state trips)))
  exact congrArg some (State.reg_setFld_far s r b f x fun e => other (e ▸ shows))

theorem around_setFld_count {r : Nat} (f : Fld) (x : Nat)
    (h : r ∈ [gdStat p, GD_CNT2 (pT p) (pI p), PWM_CNT2 (pT p) (pI p), PWM_CARRY (pT p) (pI p)]) :
    (s.setFld r f x).around p = s.around p := by
  obtain ⟨-, apart⟩ := edgeRegs_apart p
  obtain ⟨shows, stat, count⟩ := apart r h
  exact around_setFld s p f x shows (State.fld_setFld_far _ _ _ _ _ _ stat) (State.fld_setFld_far _ _ _ _ _ _ count)

@[simp] theorem around_refreshing (b : Bool) : (s.setBit (gdStat p) GD_STAT_REFRESHING b).around p = s.around p :=
  around_setFld_count s p _ _ (by simp)

@[simp] theorem around_countRefresh : (s.count (GD_CNT2 (pT p) (pI p)) GD_CNT2_REFRESH).around p = s.around p :=
  around_setFld_count s p _ _ (by simp)

@[simp] theorem around_countEdge (f : Fld) : (s.count (PWM_CNT2 (pT p) (pI p)) f).around p = s.around p :=
  around_setFld_count s p _ _ (by simp)

@[simp] theorem around_setCarry (b : Bool) (c : Nat) : (s.setCarry p b c).around p = s.around p :=
  around_setFld_count s p _ _ (by simp)

@[simp] theorem around_countClamp : (s.count (PWM_CNT (pT p) (pI p)) PWM_CNT_CLAMP).around p = s.around p :=
  around_setFld s p _ _ (by simp [edgeRegs]) (State.fld_setFld_far _ _ _ _ _ _ (edgeRegs_apart p).1.symm)
    (State.fld_setFld_other _ _ _ _ _ (by decide) (by decide) (by decide))

/-- PWM_STAT updated beside the state. -/
@[simp] theorem around_setStat (f : Fld) (x : Nat) (fits : f.lo + f.width ≤ 32) (apart : f.apart PWM_STAT_STATE = true) :
    (s.setFld (pwmStat p) f x).around p = s.around p :=
  around_setFld s p _ _ (by simp [edgeRegs]) (State.fld_setFld_other _ _ _ _ _ fits (by decide) apart)
    (State.fld_setFld_far _ _ _ _ _ _ (edgeRegs_apart p).1)

@[simp] theorem around_clamped (b : Bool) : (s.setBit (pwmStat p) PWM_STAT_CLAMPED b).around p = s.around p :=
  around_setStat s p _ _ (by decide) (by decide)

/-- The port updated beside its valley and its trip. -/
theorem around_modPort (f : Port → Port)
    (h : ∀ x, ((f x).pwm.valleyAt, (f x).pwm.valleyDone, (f x).pwm.tripSeen) = (x.pwm.valleyAt, x.pwm.valleyDone, x.pwm.tripSeen)) :
    (s.modPort p f).around p = s.around p := by
  refine Prod.ext (funext fun q => ite_congr rfl (fun _ => rfl) fun other => ?_) (Prod.ext rfl (Prod.ext ?_ rfl))
  · exact congrArg some (State.port_modPort_other s p q f (Ne.symm other))
  · simp only [State.around, State.pwm, State.port_modPort_same]
    exact h _

@[simp] theorem around_modPwm (f : Pwm → Pwm)
    (h : ∀ w, (f w).valleyAt = w.valleyAt ∧ (f w).valleyDone = w.valleyDone ∧ (f w).tripSeen = w.tripSeen) :
    (s.modPwm p f).around p = s.around p :=
  around_modPort s p _ fun x => by
    obtain ⟨valley, done, trip⟩ := h x.pwm
    rw [valley, done, trip]

@[simp] theorem around_modLeg (b : Bool) (f : LegGen → LegGen) : (s.modLeg p b f).around p = s.around p :=
  around_modPwm s p _ fun _ => ⟨rfl, rfl, rfl⟩

@[simp] theorem around_modGd (f : GateDrive → GateDrive) : (s.modGd p f).around p = s.around p := around_modPort s p _ fun _ => rfl
@[simp] theorem around_modLoop (f : Loop → Loop) : (s.modLoop p f).around p = s.around p := around_modPort s p _ fun _ => rfl

@[simp] theorem around_record (k : RecKind) (sev kind idx : Nat) (params : List Nat) :
    (record k sev kind idx params s).around p = s.around p := (rfl)

@[simp] theorem around_ite (c : Prop) [Decidable c] (s t : State) :
    (if c then s else t).around p = if c then s.around p else t.around p := apply_ite (State.around · p) c s t

theorem around_foldl {α : Type} (l : List α) (g : State → α → State) (h : ∀ s x, (g s x).around p = s.around p) :
    (l.foldl g s).around p = s.around p := by
  induction l generalizing s with
  | nil => rfl
  | cons x l ih => rw [List.foldl_cons, ih, h]

/-! ## Settling -/

@[simp] theorem around_trimRefresh : (trimRefresh p s).around p = s.around p := by
  simp [trimRefresh, around_foldl]

@[simp] theorem around_followRefreshing : (followRefreshing p s).around p = s.around p := by
  simp [followRefreshing]

@[simp] theorem around_selectMask (x : Rat) (rank m : Nat) : (selectMask p x rank m s).around p = s.around p := by
  simp [selectMask, show PWM_STAT_MASK.lo + PWM_STAT_MASK.width ≤ 32 by decide, show PWM_STAT_MASK.apart PWM_STAT_STATE = true by decide]

@[simp] theorem around_insertPulse (v : Nat) (l : Fin 2) : (insertPulse p v s l).around p = s.around p := by
  cases h : (s.gd p).refreshAt[l] <;> simp [insertPulse, h]

@[simp] theorem around_noteClamp : (noteClamp p s).around p = s.around p := by
  simp [noteClamp]

@[simp] theorem around_decidePulse (b : Bool) (r : Planned) : (decidePulse p b r s).around p = s.around p := by
  simp [decidePulse]

@[simp] theorem around_decideLeg (b : Bool) (z : Rat) (l : List Planned) : (decideLeg p b z l s).around p = s.around p := by
  induction l generalizing s with
  | nil => simp [decideLeg]
  | cons r rs ih => simp [decideLeg, ih]

@[simp] theorem around_walkPins (z : Rat) : (walkPins p z s).around p = s.around p := by
  simp [walkPins, Pwm.putLeg]

@[simp] theorem around_movePins (soft : Bool) (y : Rat) : (movePins p soft y s).around p = s.around p := by
  simp [movePins, Pwm.putLeg]

/-- The port valley that has come. -/
def comeValley (p : Fin 64) (s : State) : State := s.modPwm p fun w => { w with valleyDone := true }

theorem comeValley_done : ((comeValley p s).pwm p).valleyDone = true := by
  rw [comeValley, pwm_modPwm_same]

theorem sameAround_comeValley : SameAround p s (comeValley p s) where
  ports := portsBut_modPort s p _
  regs _ _ := rfl
  valleyAt := by rw [comeValley, pwm_modPwm_same]
  tripSeen := by rw [comeValley, pwm_modPwm_same]
  state := rfl
  trips := rfl
  done _ := comeValley_done s p

theorem around_pinValley (v : Nat) : (pinValley p v s).around p = (comeValley p s).around p := by
  have come : (s.modPwm p fun w => { w with valleyDone := true, selDue := false }) =
      (comeValley p s).modPwm p fun w => { w with selDue := false } := by
    simp [comeValley, State.modPwm, State.modPort, State.setPort, State.port]
  simp [pinValley, come]

/-- Settled pins: the valley that has come by then has brought what it brings, and the pins are followed. -/
theorem settlePins_cases (z : Rat) : ∃ y, settlePins p z s = walkPins p z y ∧ SameAround p s y ∧
    ∀ v, (y.pwm p).valleyAt = some v → (v : Rat) ≤ z → (y.pwm p).valleyDone = true := by
  unfold settlePins
  cases valley : (s.pwm p).valleyAt with
  | none => exact ⟨s, rfl, sameAround_of_around rfl, by simp [valley]⟩
  | some v =>
    by_cases comes : (v : Rat) ≤ z ∧ (!(s.pwm p).valleyDone) = true
    · have around := around_pinValley (walkPins p v s) p v
      refine ⟨pinValley p v (walkPins p v s), congrArg (walkPins p z) (if_pos comes), ?_, fun _ _ _ => ?_⟩
      · exact (sameAround_of_around (around_walkPins s p v)).trans ((sameAround_comeValley _ p).trans (sameAround_of_around around))
      · rw [valleyDone_of_around around, comeValley_done]
    · refine ⟨s, congrArg (walkPins p z) (if_neg comes), sameAround_of_around rfl, fun u at_ due => ?_⟩
      obtain rfl : v = u := Option.some.inj (valley.symm.trans at_)
      simpa [due] using comes

theorem sameAround_settlePins (z : Rat) : SameAround p s (settlePins p z s) := by
  obtain ⟨y, settles, around, -⟩ := settlePins_cases s p z
  rw [settles]
  exact around.trans (sameAround_of_around (around_walkPins y p z))

end

end Sys2Proof.Machine
end

section
/-! SUPPORT. O27: the pins of a port settled up to an instant. What is planned for a leg turns on at that instant or later, so that to
settle them again up to it decides no pulse, and shows nothing (R138, R149). -/

namespace Sys2Proof.Machine

/-- The registers by which the pulses of a port are shaped (R137, R141). -/
def laneRegs (p : Fin 64) : List Nat := [PWM_CTRL (pT p) (pI p), PWM_DT (pT p) (pI p), PWM_CARRY (pT p) (pI p)]

/-- The lane of a leg: its planned pulses, and what they are shaped by (R140, R141). -/
def State.lane (s : State) (p : Fin 64) (b : Bool) : List Planned × Word × Word × Nat :=
  ((s.leg p b).planned, s.reg (PWM_CTRL (pT p) (pI p)), s.reg (PWM_DT (pT p) (pI p)), s.carry p b)

/-- No pulse planned for a leg turns on before an instant. -/
def State.waits (s : State) (p : Fin 64) (b : Bool) (z : Rat) : Prop :=
  ∀ r ∈ (s.leg p b).planned.head?, ¬ s.turnOn p b r < z

/-- A port that drives no gate. -/
def State.gatesRest (s : State) (p : Fin 64) : Prop :=
  s.portState p ≠ pRUN ∧ (s.pwm p).tail = none ∧ (s.pwm p).on[0] = 0 ∧ (s.pwm p).on[1] = 0

/-- The pins of a port have been followed up to an instant. -/
def State.followed (s : State) (p : Fin 64) (z : Rat) : Prop :=
  z < (s.pwm p).pinAt ∨ s.gatesRest p ∨ ∀ b, s.waits p b z

/-- The pins of a port are settled up to an instant, its valley with them. -/
structure State.Settled (s : State) (p : Fin 64) (z : Rat) : Prop where
  valley : ∀ v, (s.pwm p).valleyAt = some v → (v : Rat) ≤ z → (s.pwm p).valleyDone = true
  pins : s.followed p z

theorem waits_of_lane {s t : State} {p : Fin 64} {b : Bool} {z : Rat} (h : t.lane p b = s.lane p b) (waits : s.waits p b z) :
    t.waits p b z := by
  simp only [State.lane, Prod.mk.injEq] at h
  obtain ⟨planned, ctrl, dt, carry⟩ := h
  have shaped (r : Planned) : t.shaped p b r = s.shaped p b r := by
    simp only [State.shaped, State.deadTime, State.minPulse, State.fld, ctrl, dt, carry]
  intro r next
  rw [planned] at next
  rw [State.turnOn, shaped]
  exact waits r next

section
variable (s : State) (p : Fin 64)

/-! ## The named updates -/

theorem legIdx_ne {b c : Bool} (h : b ≠ c) : (legIdx b).1 ≠ (legIdx c).1 := by
  cases b <;> cases c <;> simp_all [legIdx]

theorem leg_modLeg_same (b : Bool) (f : LegGen → LegGen) : (s.modLeg p b f).leg p b = f (s.leg p b) := by
  simp [State.leg, State.modLeg, pwm_modPwm_same]

theorem leg_modLeg_other {b c : Bool} (h : b ≠ c) (f : LegGen → LegGen) : (s.modLeg p b f).leg p c = s.leg p c := by
  simp [State.leg, State.modLeg, pwm_modPwm_same, Vector.getElem_set_ne _ _ (legIdx_ne h)]

theorem lane_modPwm (b : Bool) (f : Pwm → Pwm) (h : (f (s.pwm p)).leg = (s.pwm p).leg) : (s.modPwm p f).lane p b = s.lane p b := by
  refine Prod.ext ?_ rfl
  simp only [State.lane, State.leg, pwm_modPwm_same, h]

/-- The pins that the legs have come to are none of their lanes. -/
theorem lane_putPins (c : Bool) (keep z : Rat) (l m : LegPins) :
    (s.modPwm p fun w => { (w.putLeg false keep l).putLeg true keep m with pinAt := z }).lane p c = s.lane p c :=
  lane_modPwm s p c _ rfl

/-- The high intervals of a leg are none of its lane. -/
theorem lane_modHigh (b c : Bool) (f : LegGen → LegGen) (h : ∀ l, (f l).planned = l.planned) :
    (s.modLeg p b f).lane p c = s.lane p c := by
  refine Prod.ext ?_ rfl
  by_cases same : b = c
  · subst same
    exact (congrArg LegGen.planned (leg_modLeg_same s p b f)).trans (h _)
  · exact congrArg LegGen.planned (leg_modLeg_other s p same f)

theorem lane_modLeg_other {b c : Bool} (h : b ≠ c) (f : LegGen → LegGen) : (s.modLeg p b f).lane p c = s.lane p c :=
  Prod.ext (congrArg LegGen.planned (leg_modLeg_other s p h f)) rfl

theorem lane_setReg {r : Nat} (b : Bool) (v : Word) (h : r ∉ laneRegs p) : (s.setReg r v).lane p b = s.lane p b := by
  simp only [laneRegs, List.mem_cons, List.not_mem_nil, or_false, not_or] at h
  obtain ⟨ctrl, dt, carry⟩ := h
  exact Prod.ext rfl (Prod.ext (State.reg_setReg_other s _ _ v ctrl) (Prod.ext (State.reg_setReg_other s _ _ v dt)
    (State.fld_setReg_far s _ _ v _ carry)))

theorem lane_setCarry_other {b c : Bool} (h : b ≠ c) (x : Nat) : (s.setCarry p b x).lane p c = s.lane p c := by
  have ctrl : PWM_CARRY (pT p) (pI p) ≠ PWM_CTRL (pT p) (pI p) := by simp only [PWM_CARRY, PWM_CTRL, pT, pI]; omega
  have dt : PWM_CARRY (pT p) (pI p) ≠ PWM_DT (pT p) (pI p) := by simp only [PWM_CARRY, PWM_DT, pT, pI]; omega
  have fields : (carryFld b).lo + (carryFld b).width ≤ 32 ∧ (carryFld c).lo + (carryFld c).width ≤ 32 ∧
      (carryFld b).apart (carryFld c) = true := by
    revert b c
    decide
  obtain ⟨fits, fits', apart⟩ := fields
  have carry : (s.setCarry p b x).carry p c = s.carry p c := by
    rw [State.carry, State.setCarry, State.fld_setFld_other s _ _ _ _ fits fits' apart, State.carry]
  have ports : (s.setCarry p b x).ports = s.ports := State.setFld_ports ..
  rw [State.lane, carry, State.leg, State.pwm, State.port, ports, State.setCarry, State.reg_setFld_far s _ _ _ _ ctrl,
    State.reg_setFld_far s _ _ _ _ dt]
  rfl

/-! ## A pulse of one leg leaves the lane of the other -/

theorem lane_foldl {α : Type} (c : Bool) (l : List α) (g : State → α → State) (h : ∀ s x, (g s x).lane p c = s.lane p c) :
    (l.foldl g s).lane p c = s.lane p c := by
  induction l generalizing s with
  | nil => rfl
  | cons x l ih => rw [List.foldl_cons, ih, h]

theorem lane_trimRefresh (c : Bool) : (trimRefresh p s).lane p c = s.lane p c :=
  lane_foldl s p c _ _ fun z b => lane_foldl z p c _ _ fun y _ => lane_modHigh y p b c _ fun _ => rfl

theorem lane_ite (q : Prop) [Decidable q] (c : Bool) (s t : State) :
    (if q then s else t).lane p c = if q then s.lane p c else t.lane p c := apply_ite (State.lane · p c) q s t

theorem counters_beside_lanes : PWM_CNT (pT p) (pI p) ∉ laneRegs p ∧ PWM_CNT2 (pT p) (pI p) ∉ laneRegs p ∧
    pwmStat p ∉ laneRegs p := by
  simp [laneRegs, PWM_CNT, PWM_CNT2, PWM_CTRL, PWM_DT, PWM_CARRY, pwmStat, PWM_STAT, pT, pI]

theorem lane_noteClamp (c : Bool) : (noteClamp p s).lane p c = s.lane p c := by
  obtain ⟨clamps, -, stat⟩ := counters_beside_lanes p
  unfold noteClamp
  split
  · rfl
  · exact (lane_setReg _ p c _ stat).trans ((lane_setReg _ p c _ clamps).trans (lane_modPwm s p c _ rfl))

theorem lane_decidePulse_other {b c : Bool} (h : b ≠ c) (r : Planned) : (decidePulse p b r s).lane p c = s.lane p c := by
  obtain ⟨-, shorts, -⟩ := counters_beside_lanes p
  have count (z : State) : (z.count (PWM_CNT2 (pT p) (pI p)) PWM_CNT2_SHORT).lane p c = z.lane p c := lane_setReg z p c _ shorts
  simp [decidePulse, lane_ite, lane_trimRefresh, lane_modHigh, lane_noteClamp, count, lane_setCarry_other s p h]

theorem lane_decideLeg_other {b c : Bool} (h : b ≠ c) (z : Rat) (l : List Planned) :
    (decideLeg p b z l s).lane p c = s.lane p c := by
  induction l generalizing s with
  | nil => exact lane_modLeg_other s p h _
  | cons r rs ih =>
    rw [decideLeg]
    split
    · rw [ih, lane_decidePulse_other s p h]
    · exact lane_modLeg_other s p h _

/-! ## Pins that are followed -/

/-- The pulses that are left once those before an instant are decided turn on at it or later. -/
theorem decideLeg_waits (b : Bool) (z : Rat) (l : List Planned) : (decideLeg p b z l s).waits p b z := by
  induction l generalizing s with
  | nil =>
    intro r next
    rw [decideLeg, leg_modLeg_same] at next
    cases next
  | cons r rs ih =>
    rw [decideLeg]
    split
    · exact ih _
    · next late =>
      intro q next
      rw [leg_modLeg_same] at next
      obtain rfl : r = q := Option.some.inj next
      exact late

/-- The legs of a port followed up to an instant wait for it. -/
theorem walkPins_followed (z : Rat) : (walkPins p z s).followed p z := by
  unfold walkPins
  dsimp only
  split
  · next rests => exact rests.imp id .inl
  · refine .inr (.inr fun b => ?_)
    refine waits_of_lane (lane_putPins ..) ?_
    cases b with
    | false => exact waits_of_lane (lane_decideLeg_other _ p (by decide) z _) (decideLeg_waits s p false z _)
    | true => exact decideLeg_waits _ p true z _

/-- Of pulses that all turn on later none is decided. -/
theorem decideLeg_regs {b : Bool} {z : Rat} (waits : s.waits p b z) :
    ∃ f, decideLeg p b z (s.leg p b).planned s = s.modLeg p b f := by
  cases planned : (s.leg p b).planned with
  | nil => exact ⟨_, rfl⟩
  | cons r rs => exact ⟨_, if_neg (waits r (by rw [planned]; rfl))⟩

/-- Pins that have been followed up to an instant show nothing new in the registers. -/
theorem walkPins_regs {z : Rat} (h : s.followed p z) : (walkPins p z s).regs = s.regs := by
  unfold walkPins
  dsimp only
  split
  · rfl
  · next moves =>
    obtain before | rests | waits := h
    · exact absurd (.inl before) moves
    · exact absurd (.inr rests) moves
    · obtain ⟨f, first⟩ := decideLeg_regs s p (waits false)
      have second : (s.modLeg p false f).waits p true z := waits_of_lane (lane_modLeg_other s p (by decide) f) (waits true)
      obtain ⟨g, second⟩ := decideLeg_regs _ p second
      rw [first, second]
      rfl

/-! ## Pins that are settled -/

theorem settlePins_settled (z : Rat) : (settlePins p z s).Settled p z := by
  obtain ⟨y, settles, -, valley⟩ := settlePins_cases s p z
  have around := sameAround_of_around (around_walkPins y p z)
  rw [settles]
  exact ⟨fun v at_ due => around.done (valley v (around.valleyAt ▸ at_) due), walkPins_followed y p z⟩

/-- Settled pins that are settled again show nothing new in the registers. -/
theorem State.Settled.regs {s : State} {p : Fin 64} {z : Rat} (h : s.Settled p z) : (settlePins p z s).regs = s.regs := by
  unfold settlePins
  cases valley : (s.pwm p).valleyAt with
  | none => exact walkPins_regs s p h.pins
  | some v =>
    have done : ¬ ((v : Rat) ≤ z ∧ (!(s.pwm p).valleyDone) = true) := fun ⟨due, open_⟩ => by simp [h.valley v valley due] at open_
    exact (congrArg (fun y => (walkPins p z y).regs) (if_neg done)).trans (walkPins_regs s p h.pins)

end

end Sys2Proof.Machine
end

section
/-! SUPPORT. O27: the face of a port, which is what it holds and the registers that its pulses follow, beside another port that settles,
changes its state, or is protected, and beside a fault that is raised. -/

namespace Sys2Proof.Machine

/-! ## The face of a port -/

/-- The registers that the pulses of a port follow: its state, its settings, and the carry of its legs. -/
def pulseRegs (o : Fin 64) : List Nat := pwmStat o :: laneRegs o

/-- The face of a port: what it holds, and the registers that its pulses follow. -/
def State.face (s : State) (o : Fin 64) : Port × (Nat → Word) := (s.port o, fun r => if r ∈ pulseRegs o then s.reg r else 0)

section
variable {s t : State} {o : Fin 64}

theorem face_of (port : t.port o = s.port o) (regs : ∀ r ∈ pulseRegs o, t.reg r = s.reg r) : t.face o = s.face o :=
  Prod.ext port (funext fun r => ite_congr rfl (fun hr => regs r hr) fun _ => rfl)

theorem port_of_face (h : t.face o = s.face o) : t.port o = s.port o := congrArg (·.1) h

theorem reg_of_face (h : t.face o = s.face o) {r : Nat} (hr : r ∈ pulseRegs o) : t.reg r = s.reg r := by
  simpa [State.face, hr] using congrFun (congrArg (·.2) h) r

theorem portState_of_face (h : t.face o = s.face o) : t.portState o = s.portState o := by
  rw [State.portState, State.fld, reg_of_face h (by simp [pulseRegs, laneRegs]), State.portState, State.fld]

theorem face_of_tileRegs (ports : t.ports = s.ports) (regs : t.tileRegs = s.tileRegs) : t.face o = s.face o := by
  refine face_of (by rw [State.port, ports, State.port]) fun r hr => reg_of_tileRegs regs ?_
  simp only [pulseRegs, laneRegs, List.mem_cons, List.not_mem_nil, or_false, pwmStat, PWM_STAT, PWM_CTRL, PWM_DT, PWM_CARRY] at hr
  omega

/-- The pins of a port stay settled while its face stays as it is. -/
theorem State.Settled.of_face {z : Rat} (settled : s.Settled o z) (h : t.face o = s.face o) : t.Settled o z := by
  have pwm : t.pwm o = s.pwm o := congrArg Port.pwm (port_of_face h)
  have lane (b : Bool) : t.lane o b = s.lane o b := by
    have carry : t.carry o b = s.carry o b := by
      rw [State.carry, State.fld, reg_of_face h (by simp [pulseRegs, laneRegs]), State.carry, State.fld]
    rw [State.lane, State.leg, pwm, reg_of_face h (by simp [pulseRegs, laneRegs]), reg_of_face h (by simp [pulseRegs, laneRegs]), carry]
    rfl
  refine ⟨by rw [pwm]; exact settled.valley, ?_⟩
  obtain before | rests | waits := settled.pins
  · exact .inl (by rwa [pwm])
  · exact .inr (.inl (by rwa [State.gatesRest, portState_of_face h, pwm]))
  · exact .inr (.inr fun b => waits_of_lane (lane b) (waits b))

end

/-! ## Beside another port -/

section
variable (s : State) {p o : Fin 64} (apart : p ≠ o)
include apart

@[simp] theorem pulseRegs_apart : pwmStat p ∉ pulseRegs o ∧ gdStat p ∉ pulseRegs o ∧ GD_STAT (pT p) (pI p) ∉ pulseRegs o ∧
    GD_CNT2 (pT p) (pI p) ∉ pulseRegs o ∧ PWM_CNT (pT p) (pI p) ∉ pulseRegs o ∧ PWM_CNT2 (pT p) (pI p) ∉ pulseRegs o ∧
    PWM_CARRY (pT p) (pI p) ∉ pulseRegs o ∧ CR_DUTY (pT p) (pI p) ∉ pulseRegs o ∧ CR_INTEG (pT p) (pI p) ∉ pulseRegs o ∧
    CMP_STAT (pT p) (pI p) ∉ pulseRegs o ∧ GD_ACODE (pT p) (pI p) ∉ pulseRegs o := by
  have apart : p.1 ≠ o.1 := fun e => apart (Fin.ext e)
  simp only [pulseRegs, laneRegs, List.mem_cons, List.not_mem_nil, or_false, pwmStat, gdStat, PWM_STAT, PWM_CTRL, PWM_DT, PWM_CARRY,
    GD_STAT, GD_CNT2, PWM_CNT, PWM_CNT2, CR_DUTY, CR_INTEG, CMP_STAT, GD_ACODE, pT, pI]
  omega

omit apart in
theorem switchTime_not_pulse {k : Nat} (h : k < 4) : GD_TSW (pT p) (pI p) k ∉ pulseRegs o := by
  simp only [pulseRegs, laneRegs, List.mem_cons, List.not_mem_nil, or_false, pwmStat, PWM_STAT, PWM_CTRL, PWM_DT, PWM_CARRY, GD_TSW, pT, pI]
  omega

theorem face_of_around {t : State} (h : SameAround p s t) : t.face o = s.face o := by
  refine face_of (h.ports o (by simpa using apart.symm)) fun r hr => h.regs r fun edge => ?_
  simp only [edgeRegs, List.mem_cons, List.not_mem_nil, or_false] at edge
  obtain rfl | rfl | rfl | rfl | rfl | rfl := edge <;> simp [apart] at hr

@[simp] theorem face_modPort (f : Port → Port) : (s.modPort p f).face o = s.face o :=
  face_of (State.port_modPort_other s p o f apart) fun _ _ => rfl

@[simp] theorem face_modPwm (f : Pwm → Pwm) : (s.modPwm p f).face o = s.face o := face_modPort s apart _
@[simp] theorem face_modGd (f : GateDrive → GateDrive) : (s.modGd p f).face o = s.face o := face_modPort s apart _

end

section
variable (s : State) (o : Fin 64)

@[simp] theorem face_setReg {r : Nat} (v : Word) (h : r ∉ pulseRegs o) : (s.setReg r v).face o = s.face o :=
  face_of (congrArg (fun x => x[o]) (State.setReg_ports s r v)) fun b hb => State.reg_setReg_other s r b v fun e => h (e ▸ hb)

@[simp] theorem face_setFld {r : Nat} (f : Fld) (x : Nat) (h : r ∉ pulseRegs o) : (s.setFld r f x).face o = s.face o :=
  face_setReg s o _ h

@[simp] theorem face_setBit {r : Nat} (f : Fld) (b : Bool) (h : r ∉ pulseRegs o) : (s.setBit r f b).face o = s.face o :=
  face_setReg s o _ h

@[simp] theorem face_countN {r : Nat} (f : Fld) (n : Nat) (h : r ∉ pulseRegs o) : (s.countN r f n).face o = s.face o :=
  face_setReg s o _ h

@[simp] theorem face_ite (c : Prop) [Decidable c] (s t : State) :
    (if c then s else t).face o = if c then s.face o else t.face o := apply_ite (State.face · o) c s t

@[simp] theorem face_followPorts : (followPorts s).face o = s.face o :=
  face_of_tileRegs (kept_part (ps := [.regs, .cabs, .recorder, .out]) (followPorts_ok s (keepBut_start _ s) (by simp [keepBut])
    (by simp [keepBut]) (by simp [keepBut]) (by simp [keepBut])) .ports (by decide)) (tileRegs_followPorts s)

@[simp] theorem face_enterDisabled (a : Fin 32) : (enterDisabled a s).face o = s.face o :=
  face_of_tileRegs (kept_part (ps := [.regs, .axes, .engines, .cabs, .recorder, .out]) (enterDisabled_ok a s (keepBut_start _ s)
    (by simp [keepBut]) (by simp [keepBut]) (by simp [keepBut]) (by simp [keepBut]) (by simp [keepBut]) (by simp [keepBut])) .ports
    (by decide)) (tileRegs_enterDisabled s a)

end

/-! ## Beside a port that settles or changes its state -/

section
variable (s : State) {p o : Fin 64} (apart : p ≠ o)
include apart

@[simp] theorem face_settlePins (z : Rat) : (settlePins p z s).face o = s.face o :=
  face_of_around s apart (sameAround_settlePins s p z)

@[simp] theorem face_movePins (soft : Bool) (y : Rat) : (movePins p soft y s).face o = s.face o := face_modPwm s apart _

theorem face_pinChangeAt (soft : Bool) (y : Rat) (f : State → State) (hf : ∀ s, (f s).face o = s.face o) :
    (pinChangeAt p soft y f s).face o = s.face o := by
  simp [pinChangeAt, apart, hf]

@[simp] theorem face_unpower : (unpower p s).face o = s.face o := by
  simp [unpower, apart]

@[simp] theorem face_leaveRun : (leaveRun p s).face o = s.face o := by
  unfold leaveRun
  simp [apart]

@[simp] theorem face_movePort (x : Nat) : (movePort p x s).face o = s.face o := by
  have stat : (s.setPortState p x).face o = s.face o := by simp [State.setPortState, apart]
  have powered (c : Prop) [Decidable c] : (if c then s.setPortState p x else unpower p (s.setPortState p x)).face o = s.face o := by
    simp [stat, apart]
  unfold movePort
  dsimp only
  split
  · rw [face_leaveRun _ apart, powered]
  · rw [powered]

@[simp] theorem face_gateValley (v : Nat) : (gateValley p v s).face o = s.face o := by
  have times (z : State) : (showTsw p z).face o = z.face o :=
    List.foldlRecOn (motive := fun y : State => y.face o = z.face o) _ _ rfl fun y hy k hk =>
      (face_setReg y o _ (switchTime_not_pulse (List.mem_range.1 hk))).trans hy
  simp [gateValley, setCodes, adapt, followAdapt, times, apart]

@[simp] theorem face_endTail : (endTail p s).face o = s.face o := by
  cases h : (s.pwm p).tail <;> simp [endTail, endLatches, h, apart]

end

end Sys2Proof.Machine
end

section
/-! SUPPORT. O27: a port that changes its state, and its partner that follows it to ARMED (R144); a port once settled is settled to that
instant whatever another one brings it. -/

namespace Sys2Proof.Machine

section
variable (s : State) (p : Fin 64)

/-! ## A port changes its state (R144) -/

theorem unpower_pwm : (unpower p s).pwm p = s.pwm p := by
  rw [unpower, State.pwm, State.port_modPort_same]
  exact pwm_of_ports p (State.setReg_ports ..)

/-- A leg that has left RUN. -/
def LegGen.left (l : LegGen) : LegGen := { l with endHalf := 0, alone := false, built := false, planned := [] }

theorem leaveRun_pwm : (leaveRun p s).pwm p = { s.pwm p with leg := (s.pwm p).leg.map LegGen.left } := by
  have gate (z : State) (f : GateDrive → GateDrive) : (z.modGd p f).pwm p = z.pwm p := by
    rw [State.modGd, State.pwm, State.port_modPort_same, State.pwm]
  have regs (z : State) (r : Nat) (v : Word) : (z.setReg r v).pwm p = z.pwm p := pwm_of_ports p (State.setReg_ports ..)
  have flag (z : State) (r : Nat) (f : Fld) (b : Bool) : (z.setBit r f b).pwm p = z.pwm p := pwm_of_ports p (State.setBit_ports ..)
  unfold leaveRun
  dsimp only
  rw [regs, regs, pwm_modPwm_same, gate, flag]
  split
  · rw [regs]; rfl
  · rw [flag, regs]; rfl

theorem movePort_pwm_left {x : Nat} (ran : s.portState p = pRUN) (leaves : x ≠ pRUN) :
    (movePort p x s).pwm p = { s.pwm p with leg := (s.pwm p).leg.map LegGen.left } := by
  have stat : (s.setPortState p x).pwm p = s.pwm p := pwm_of_ports p (State.setFld_ports ..)
  have powered (c : Prop) [Decidable c] : (if c then s.setPortState p x else unpower p (s.setPortState p x)).pwm p = s.pwm p := by
    split
    · exact stat
    · rw [unpower_pwm, stat]
  have acts : movePort p x s = leaveRun p _ := if_pos ⟨ran, leaves⟩
  rw [acts, leaveRun_pwm, powered]

theorem portState_setReg {r : Nat} (v : Word) (h : r ≠ pwmStat p) : (s.setReg r v).portState p = s.portState p :=
  State.fld_setReg_far s _ _ v _ h

theorem portState_of_regs {s t : State} (h : t.regs = s.regs) : t.portState p = s.portState p := by
  rw [State.portState, State.fld, State.reg, h, State.portState, State.fld, State.reg]

theorem status_apart : PWM_CARRY (pT p) (pI p) ≠ pwmStat p ∧ GD_STAT (pT p) (pI p) ≠ pwmStat p ∧
    CR_DUTY (pT p) (pI p) ≠ pwmStat p ∧ CR_INTEG (pT p) (pI p) ≠ pwmStat p ∧ CMP_STAT (pT p) (pI p) ≠ pwmStat p := by
  simp only [PWM_CARRY, GD_STAT, CR_DUTY, CR_INTEG, CMP_STAT, pwmStat, PWM_STAT, pT, pI]
  omega

theorem leaveRun_portState : (leaveRun p s).portState p = s.portState p := by
  obtain ⟨carry, gate, duty, integ, -⟩ := status_apart p
  have trip (z : State) : (z.setBit (pwmStat p) PWM_STAT_TRIPPING false).portState p = z.portState p :=
    State.fld_setFld_other _ _ _ _ _ (by decide) (by decide) (by decide)
  have flag (z : State) : (z.setBit (GD_STAT (pT p) (pI p)) GD_STAT_REFRESHING false).portState p = z.portState p :=
    portState_setReg z p _ gate
  unfold leaveRun
  dsimp only
  rw [portState_setReg _ p _ integ, portState_setReg _ p _ duty, portState_of_regs p (State.modPwm_regs ..),
    portState_of_regs p (State.modGd_regs ..), flag]
  split
  · exact portState_setReg s p _ carry
  · rw [trip, portState_setReg s p _ carry]

theorem movePort_portState (x : Nat) : (movePort p x s).portState p = x % 8 := by
  obtain ⟨-, -, -, -, comps⟩ := status_apart p
  have set : (s.setPortState p x).portState p = x % 8 := State.fld_setFld_same _ _ _ _ (by decide)
  have powered (c : Prop) [Decidable c] : (if c then s.setPortState p x else unpower p (s.setPortState p x)).portState p = x % 8 := by
    split
    · exact set
    · rw [unpower, portState_of_regs p (State.modPort_regs ..), portState_setReg _ p _ comps, set]
  unfold movePort
  dsimp only
  split
  · rw [leaveRun_portState, powered]
  · exact powered _

/-! ## Its partner follows -/

/-- A partner that follows leaves RUN for ARMED. -/
theorem followPartner_cases (x : Nat) (loopRan : Bool) (y : Rat) : followPartner p x loopRan y s = s ∨
    ∃ q, q ≠ p ∧ s.portState q = pRUN ∧ followPartner p x loopRan y s = pinChangeAt q false y (movePort q pARMED) s := by
  unfold followPartner
  cases s.partner p with
  | none => exact .inl rfl
  | some q =>
    dsimp only
    split
    · next follows =>
      obtain ⟨-, -, other, ran, -⟩ := follows
      exact .inr ⟨q, other, ran, rfl⟩
    · exact .inl rfl

/-- A port that is not in RUN is no partner that follows. -/
theorem followPartner_face {o : Fin 64} (rests : s.portState o ≠ pRUN) (x : Nat) (loopRan : Bool) (y : Rat) :
    (followPartner p x loopRan y s).face o = s.face o := by
  obtain same | ⟨q, -, ran, follows⟩ := followPartner_cases s p x loopRan y
  · rw [same]
  · have apart : q ≠ o := fun e => rests (e ▸ ran)
    rw [follows, face_pinChangeAt s apart _ _ _ fun z => face_movePort z apart _]

end

/-- A port that goes from RUN to ARMED plans no more pulses, and its valley is as it was. -/
theorem State.Settled.armed {s : State} {p : Fin 64} {z : Rat} (h : s.Settled p z) (ran : s.portState p = pRUN) (y : Rat) :
    (pinChangeAt p false y (movePort p pARMED) s).Settled p z := by
  have around := sameAround_settlePins s p y
  have moved := movePort_pwm_left (settlePins p y s) p (x := pARMED) (around.state.trans ran) (by decide)
  have pins := sameAround_of_around (around_movePins (movePort p pARMED (settlePins p y s)) p false y)
  refine ⟨fun v at_ due => ?_, .inr (.inr fun b r next => ?_)⟩
  · have at_ : ((movePort p pARMED (settlePins p y s)).pwm p).valleyAt = some v := pins.valleyAt ▸ at_
    rw [moved] at at_
    refine pins.done ?_
    rw [moved]
    exact around.done (h.valley v (around.valleyAt ▸ at_) due)
  · have left : ((pinChangeAt p false y (movePort p pARMED) s).leg p b).planned = [] := by
      rw [pinChangeAt, movePins, State.leg, pwm_modPwm_same]
      simp [Pwm.putLeg, moved, LegGen.left]
    rw [left] at next
    cases next

/-! ## A port settles beside another one -/

section
variable {s : State} {p o : Fin 64} {z : Rat}

theorem State.Settled.followPartner (h : s.Settled o z) (x : Nat) (loopRan : Bool) (y : Rat) :
    (followPartner p x loopRan y s).Settled o z := by
  obtain same | ⟨q, -, ran, follows⟩ := followPartner_cases s p x loopRan y
  · rwa [same]
  · rw [follows]
    by_cases own : q = o
    · subst own
      exact h.armed ran y
    · exact h.of_face (face_pinChangeAt s own _ _ _ fun t => face_movePort t own _)

variable (h : s.Settled o z) (apart : p ≠ o)
include h apart

theorem State.Settled.enterOff (v : Nat) : (enterOff p v s).Settled o z := by
  have waits : (s.modPwm p fun w => { w with offDue := false }).Settled o z := h.of_face (face_modPwm s apart _)
  have ended (c : Prop) [Decidable c] (t : State) (ht : t.Settled o z) :
      (if c then t.modPwm p fun w => { w with tail := some (v : Rat) } else endLatches p t).Settled o z :=
    ht.of_face (by simp [endLatches, apart])
  have off (ran : Bool) (t : State) (ht : t.Settled o z) : (((followPorts (Machine.followPartner p pOFF ran v
      (movePort p pOFF t))).setFld (pwmStat p) PWM_STAT_REFUSE 0).setReg (GD_ACODE (pT p) (pI p)) 0).Settled o z :=
    ((ht.of_face (face_movePort t apart pOFF)).followPartner (p := p) pOFF ran v).of_face (by simp [apart])
  unfold Machine.enterOff
  dsimp only
  split
  · exact waits
  · split
    · split
      · exact off _ _ (ended _ _ waits)
      · exact (off _ _ (ended _ _ waits)).of_face (face_enterDisabled ..)
    · exact off _ _ (ended _ _ waits)

theorem State.Settled.portValley (v : Nat) : (portValley p v s).Settled o z := by
  have shown : (Machine.gateValley p v s).Settled o z := h.of_face (face_gateValley s apart v)
  unfold Machine.portValley
  dsimp only
  split
  · refine State.Settled.enterOff (shown.of_face ?_) apart v
    simp [apart]
  · refine shown.of_face ?_
    simp [apart]

/-- A port that settles leaves another one settled, even where it brings it to ARMED (R144). -/
theorem State.Settled.beside (y : Rat) : (settleTo p y s).Settled o z := by
  have rest (t : State) (ht : t.Settled o z) : (endTail p (settlePins p y t)).Settled o z :=
    ht.of_face ((face_endTail _ apart).trans (face_settlePins t apart y))
  unfold settleTo
  dsimp only
  split
  · split
    · exact rest _ (State.Settled.portValley (h.of_face (face_settlePins s apart _)) apart _)
    · exact rest s h
  · exact rest s h

end

/-! ## A port settles -/

/-- A port whose last carrier has ended. -/
def endedTail (p : Fin 64) (s : State) : State :=
  unpower p ((endLatches p (s.modPwm p fun w => { w with tail := none })).setBit (pwmStat p) PWM_STAT_TRIPPING false)

theorem endedTail_pwm (s : State) (p : Fin 64) : (endedTail p s).pwm p = { s.pwm p with tail := none } := by
  have stat (t : State) : (t.setBit (pwmStat p) PWM_STAT_TRIPPING false).pwm p = t.pwm p := pwm_of_ports p (State.setBit_ports ..)
  have latch (t : State) : (t.setFld (GD_STAT (pT p) (pI p)) GD_STAT_LATCH 0).pwm p = t.pwm p := pwm_of_ports p (State.setFld_ports ..)
  rw [endedTail, unpower_pwm, stat, endLatches, State.modGd, State.pwm, State.port_modPort_same]
  exact (latch _).trans (pwm_modPwm_same ..)

theorem endedTail_lane (s : State) (p : Fin 64) (b : Bool) : (endedTail p s).lane p b = s.lane p b := by
  have legs : (endedTail p s).leg p b = s.leg p b := by rw [State.leg, endedTail_pwm, State.leg]
  have regs {r : Nat} (h : r ∈ laneRegs p) :
      (endedTail p s).reg r = s.reg r := by
    have far : CMP_STAT (pT p) (pI p) ≠ r ∧ pwmStat p ≠ r ∧ GD_STAT (pT p) (pI p) ≠ r := by
      simp only [laneRegs, List.mem_cons, List.not_mem_nil, or_false, PWM_CTRL, PWM_DT, PWM_CARRY, CMP_STAT, pwmStat, PWM_STAT, GD_STAT, pT,
        pI] at h ⊢
      omega
    obtain ⟨comps, stat, latch⟩ := far
    have port (t : State) (f : Port → Port) : (t.modPort p f).reg r = t.reg r := rfl
    rw [endedTail, unpower, port, State.reg_setReg_other _ _ r _ comps, State.setBit, State.reg_setFld_far _ _ r _ _ stat, endLatches,
      State.modGd, port, State.reg_setFld_far _ _ r _ _ latch, State.modPwm, port]
  have carry : (endedTail p s).carry p b = s.carry p b := by
    rw [State.carry, State.fld, regs (by simp [laneRegs]), State.carry, State.fld]
  rw [State.lane, legs, regs (by simp [laneRegs]), regs (by simp [laneRegs]), carry, State.lane]

theorem State.Settled.endedTail {s : State} {p : Fin 64} {z : Rat} {v : Rat} (h : s.Settled p z) (runs : (s.pwm p).tail = some v) :
    (endedTail p s).Settled p z := by
  have pwm := endedTail_pwm s p
  refine ⟨by rw [pwm]; exact h.valley, ?_⟩
  obtain before | ⟨-, ended, -⟩ | waits := h.pins
  · exact .inl (by rwa [pwm])
  · rw [runs] at ended
    cases ended
  · exact .inr (.inr fun b => waits_of_lane (endedTail_lane s p b) (waits b))

/-- The end of a carrier leaves the pins settled (R145). -/
theorem State.Settled.endTail {s : State} {p : Fin 64} {z : Rat} (h : s.Settled p z) : (endTail p s).Settled p z := by
  unfold Machine.endTail
  cases tail : (s.pwm p).tail with
  | none => exact h
  | some v =>
    dsimp only
    split
    · exact h
    · exact h.endedTail tail

theorem settleTo_settled (s : State) (p : Fin 64) (z : Rat) : (settleTo p z s).Settled p z :=
  (settlePins_settled _ p z).endTail

theorem settleTo_now (s : State) (p : Fin 64) (z : Rat) : (settleTo p z s).now = s.now :=
  kept_part (ps := [.regs, .axes, .ports, .engines, .cabs, .recorder, .out]) (settleTo_ok p z s (keepBut_start _ s) (by simp [keepBut])
    (by simp [keepBut]) (by simp [keepBut]) (by simp [keepBut]) (by simp [keepBut]) (by simp [keepBut]) (by simp [keepBut])) .now
    (by decide)

/-- A port that has settled is settled to the present line time. -/
theorem settlePort_settled (s : State) (p : Fin 64) : (settlePort p s).Settled p (settlePort p s).now := by
  unfold settlePort
  cases s.partner p with
  | none =>
    rw [settleTo_now]
    exact settleTo_settled s p s.now
  | some q =>
    have both (first : Bool) (other : q ≠ p) (t : State) (ht : t = if first then settleTo q s.now (settleTo p s.now s) else
        settleTo p s.now (settleTo q s.now s)) : t.Settled p t.now := by
      subst ht
      cases first with
      | false =>
        rw [if_neg Bool.false_ne_true, settleTo_now, settleTo_now]
        exact settleTo_settled _ p s.now
      | true =>
        rw [if_pos rfl, settleTo_now, settleTo_now]
        exact (settleTo_settled s p s.now).beside other _
    dsimp only
    split
    · next lands => exact both _ lands.1 _ rfl
    · rw [settleTo_now]
      exact settleTo_settled s p s.now

end Sys2Proof.Machine
end

section
/-! SUPPORT. O27: the steps of the cycle-by-cycle trip (R147): a comparator that shows, the trip that counts and reaches the pins, and the
carrier that ends it. -/

namespace Sys2Proof.Machine

section
variable (s : State) (p : Fin 64)

/-! ## A comparator shows (R176, R178) -/

/-- A register of a port that is none of its comparators: below those of the comparators and of the converters of its tile. -/
def bridgeReg (r : Nat) : Prop := 0x200000 ≤ r ∧ r % 0x40000 < 0x3000

theorem bridgeReg_trip : bridgeReg (pwmStat p) ∧ bridgeReg (GD_PROT (pT p) (pI p)) ∧ bridgeReg (PWM_TRIPSTAT (pT p) (pI p)) ∧
    bridgeReg (PWM_CNT (pT p) (pI p)) := by
  simp only [bridgeReg, pwmStat, PWM_STAT, GD_PROT, PWM_TRIPSTAT, PWM_CNT, pT, pI]
  omega

theorem injCompare_reg (t : Fin 4) (c : Nat) {r : Nat} (h : bridgeReg r) : (injCompare t c s).reg r = s.reg r := by
  obtain ⟨above, bridge⟩ := h
  have far (x : Fin 2) : ADC_INJ t x ≠ r ∧ ADC_CNT t x ≠ r := by
    simp only [ADC_INJ, ADC_CNT]
    omega
  have tile (z : State) (f : Tile → Tile) : (z.modTile t f).reg r = z.reg r := rfl
  have trigger (x : Fin 2) (z : State) : (injTrigger t x z).reg r = z.reg r := by
    unfold injTrigger
    dsimp only
    split
    · exact State.reg_count_other z _ _ _ (far x).2
    · rw [tile, State.modConv, tile, State.setBit, State.reg_setFld_far z _ _ _ _ (far x).1]
  refine List.foldlRecOn (motive := fun z : State => z.reg r = s.reg r) _ _ rfl fun z hz x _ => ?_
  split
  · rw [trigger, hz]
  · exact hz

theorem showComp_reg (i : Nat) (on : Bool) {r : Nat} (h : bridgeReg r) : (showComp p i on s).reg r = s.reg r := by
  have far : CMP_STAT (pT p) (pI p) ≠ r := by
    obtain ⟨above, bridge⟩ := h
    simp only [CMP_STAT, pT, pI]
    omega
  have shown (z : State) (f : Fld) (b : Bool) : (z.setBit (CMP_STAT (pT p) (pI p)) f b).reg r = z.reg r :=
    State.reg_setFld_far z _ _ _ _ far
  have known (c : Prop) [Decidable c] (z : State) (f g : Fld) (b : Bool) : (if c then (z.setBit (CMP_STAT (pT p) (pI p)) f b).setBit
      (CMP_STAT (pT p) (pI p)) g false else z.setBit (CMP_STAT (pT p) (pI p)) f b).reg r = z.reg r := by
    split <;> simp only [shown]
  unfold showComp
  dsimp only
  split
  · rfl
  · split
    · rw [injCompare_reg _ _ _ h, known]
    · rw [known]

/-- What a comparator shows is none of what a trip looks at. -/
theorem showComp_keeps (i : Nat) (on : Bool) : let y := showComp p i on s
    y.ports = s.ports ∧ y.now = s.now ∧ ∀ r, bridgeReg r → y.reg r = s.reg r := by
  have kept := showComp_ok p i on s (keepBut_start [.regs, .tiles] s) (by simp [keepBut]) (by simp [keepBut])
  exact ⟨kept_part kept .ports (by decide), kept_part kept .now (by decide), fun r hr => showComp_reg s p i on hr⟩

/-- An output that is not active shows alone. -/
theorem showComp_inactive (i : Nat) : (showComp p i false s).ports = s.ports ∧
    RegsBut [CMP_STAT (pT p) (pI p)] s (showComp p i false s) := by
  refine ⟨(showComp_keeps s p i false).1, ?_⟩
  unfold showComp
  split
  · exact .refl _ s
  · exact regsBut_setFld s _ _ (List.mem_singleton_self _)

/-! ## The trip (R147, R161) -/

theorem itBlanked_congr {s t : State} {p : Fin 64} (ports : t.ports = s.ports)
    (prot : t.reg (GD_PROT (pT p) (pI p)) = s.reg (GD_PROT (pT p) (pI p))) (n : Nat) : t.itBlanked p n = s.itBlanked p n := by
  have edge (b : Bool) (y : Rat) : t.lastEdge p b y = s.lastEdge p b y := by rw [State.lastEdge, pwm_of_ports p ports, State.lastEdge]
  simp only [State.itBlanked, State.fld, prot, edge]
  rfl

theorem gatesLive_congr {s t : State} {p : Fin 64} (ports : t.ports = s.ports) (stat : t.reg (pwmStat p) = s.reg (pwmStat p)) (y : Rat) :
    t.gatesLive p y = s.gatesLive p y := by
  rw [State.gatesLive, State.portState, State.fld, stat, pwm_of_ports p ports]
  rfl

/-- The trip acts where its output is active, the gates are driven, no trip is on, and no edge blanks it. -/
theorem cycleTrip_active {low : Bool} {raw : BitVec 15} (active : s.portLevel p (if low then 3 else 2) raw = true)
    (live : s.gatesLive p s.now = true) (idle : s.bit (pwmStat p) PWM_STAT_TRIPPING = false) (open_ : s.itBlanked p s.now = false) :
    cycleTrip p low raw s = pinChange p false (fun x => x.setBit (pwmStat p) PWM_STAT_TRIPPING true)
      (countTrip p ((showComp p (if low then 3 else 2) true s).modLoop p fun l => { l with tripped := true })) := by
  obtain ⟨ports, now, regs⟩ := showComp_keeps s p (if low then 3 else 2) true
  obtain ⟨stat, prot, -, -⟩ := bridgeReg_trip p
  unfold cycleTrip
  dsimp only
  rw [active, now, gatesLive_congr ports (regs _ stat), itBlanked_congr ports (regs _ prot), State.bit, State.fld, regs _ stat,
    ← State.fld, ← State.bit, live, idle, open_]
  rfl

/-- An output that is not active trips nothing. -/
theorem cycleTrip_inactive {low : Bool} {raw : BitVec 15} (inactive : s.portLevel p (if low then 3 else 2) raw = false) :
    cycleTrip p low raw s = showComp p (if low then 3 else 2) false s := by
  unfold cycleTrip
  dsimp only
  rw [inactive]
  exact if_pos (.inl rfl)

/-- A trip counts on the way from `s` to `x`: in TRIP_CNT and TRIPS, and CLEAN is 0 again (R147). -/
def CountsTrip (p : Fin 64) (s x : State) : Prop :=
  Counts s x (PWM_TRIPSTAT (pT p) (pI p)) PWM_TRIPSTAT_TRIP_CNT ∧ Counts s x (PWM_CNT (pT p) (pI p)) PWM_CNT_TRIPS ∧
  x.fld (PWM_TRIPSTAT (pT p) (pI p)) PWM_TRIPSTAT_CLEAN = 0

/-- A trip counted in TRIP_CNT and TRIPS, with CLEAN back to 0 (R147). -/
def tripCounted (p : Fin 64) (s : State) : State :=
  ((s.count (PWM_TRIPSTAT (pT p) (pI p)) PWM_TRIPSTAT_TRIP_CNT).setFld (PWM_TRIPSTAT (pT p) (pI p)) PWM_TRIPSTAT_CLEAN 0).count
    (PWM_CNT (pT p) (pI p)) PWM_CNT_TRIPS

theorem tripCounted_counts : CountsTrip p s (tripCounted p s) := by
  have apart : PWM_CNT (pT p) (pI p) ≠ PWM_TRIPSTAT (pT p) (pI p) := by simp only [PWM_CNT, PWM_TRIPSTAT, pT, pI]; omega
  refine ⟨?_, ?_, ?_⟩
  · refine (counts_count s _ _ (by decide)).congr rfl ((State.fld_setFld_far _ _ _ _ _ _ apart).trans ?_)
    exact State.fld_setFld_other _ _ _ _ _ (by decide) (by decide) (by decide)
  · refine (counts_count _ _ _ (by decide)).congr (Eq.symm ?_) rfl
    rw [State.fld_setFld_far _ _ _ _ _ _ apart.symm]
    exact State.fld_setFld_far _ _ _ _ _ _ apart.symm
  · exact (State.fld_setFld_far _ _ _ _ _ _ apart).trans (State.fld_setFld_same _ _ _ _ (by decide))

theorem tripCounted_regs : RegsBut [PWM_TRIPSTAT (pT p) (pI p), PWM_CNT (pT p) (pI p)] s (tripCounted p s) :=
  ((regsBut_setFld s _ _ (by simp)).trans (regsBut_setFld _ _ _ (by simp))).trans (regsBut_setFld _ _ _ (by simp))

/-- The first trip of a period counts (R147). -/
theorem countTrip_shows : let x := countTrip p s
    (x.pwm p).tripSeen = true ∧ x.portState p = s.portState p ∧ PortsBut [p] s x ∧
    ((s.pwm p).tripSeen = false → CountsTrip p s x) := by
  dsimp only
  cases seen : (s.pwm p).tripSeen with
  | true =>
    have acts : countTrip p s = s := if_pos seen
    rw [acts]
    exact ⟨seen, rfl, fun _ _ => rfl, nofun⟩
  | false =>
    have acts : countTrip p s = (tripCounted p s).modPwm p fun w => { w with tripSeen := true } := if_neg (by simp [seen])
    have regs : (countTrip p s).regs = (tripCounted p s).regs := by rw [acts, State.modPwm_regs]
    have fld (r : Nat) (f : Fld) : (countTrip p s).fld r f = (tripCounted p s).fld r f := by
      rw [State.fld, State.reg, regs, State.fld, State.reg]
    obtain ⟨trip, trips, clean⟩ := tripCounted_counts s p
    refine ⟨by rw [acts, pwm_modPwm_same], ?_, ?_, fun _ => ⟨trip.congr rfl (fld ..), trips.congr rfl (fld ..), ?_⟩⟩
    · rw [portState_of_regs p regs]
      exact (tripCounted_regs s p).fld (by simp [pwmStat, PWM_STAT, PWM_TRIPSTAT, PWM_CNT, pT, pI]) _
    · have ports : (tripCounted p s).ports = s.ports := by
        rw [tripCounted, State.count_ports, State.setFld_ports, State.count_ports]
      rw [acts]
      exact (portsBut_of_ports _ ports).trans (portsBut_modPort _ p _)
    · rw [fld, clean]

theorem movePins_regs (soft : Bool) (y : Rat) : (movePins p soft y s).regs = s.regs := State.modPwm_regs ..

/-- A trip reaches the pins (R149). -/
theorem tripPins_shows (on : Bool) : let x := pinChange p false (fun x => x.setBit (pwmStat p) PWM_STAT_TRIPPING on) s
    x.bit (pwmStat p) PWM_STAT_TRIPPING = on ∧ SameAround p s x := by
  have set : ((settlePins p s.now s).setBit (pwmStat p) PWM_STAT_TRIPPING on).around p = (settlePins p s.now s).around p :=
    around_setStat _ p _ _ (by decide) (by decide)
  refine ⟨?_, (sameAround_settlePins s p s.now).trans (sameAround_of_around ((around_movePins ..).trans set))⟩
  rw [pinChange, pinChangeAt, State.bit, State.fld, State.reg, movePins_regs, ← State.reg, ← State.fld, ← State.bit]
  exact State.bit_setBit_same _ _ _ _ (by decide) rfl

/-- A trip that acts: the port trips, and the first trip of its period counts (R147). -/
theorem cycleTrip_trips {low : Bool} {raw : BitVec 15} (active : s.portLevel p (if low then 3 else 2) raw = true)
    (live : s.gatesLive p s.now = true) (idle : s.bit (pwmStat p) PWM_STAT_TRIPPING = false) (open_ : s.itBlanked p s.now = false) :
    let x := cycleTrip p low raw s
    x.bit (pwmStat p) PWM_STAT_TRIPPING = true ∧ (x.pwm p).tripSeen = true ∧ x.portState p = s.portState p ∧
    ((s.pwm p).tripSeen = false → CountsTrip p s x) ∧ PortsBut [p] s x := by
  dsimp only
  rw [cycleTrip_active s p active live idle open_]
  obtain ⟨ports, -, regs⟩ := showComp_keeps s p (if low then 3 else 2) true
  obtain ⟨stat, -, trip, count⟩ := bridgeReg_trip p
  generalize showComp p (if low then 3 else 2) true s = y at ports regs ⊢
  let u := y.modLoop p fun l => { l with tripped := true }
  obtain ⟨seen, state, others, counts⟩ := countTrip_shows u p
  obtain ⟨trips, around⟩ := tripPins_shows (countTrip p u) p true
  have far : PWM_TRIPSTAT (pT p) (pI p) ∉ edgeRegs p := by
    simp [edgeRegs, PWM_TRIPSTAT, pwmStat, PWM_STAT, gdStat, GD_STAT, GD_CNT2, PWM_CNT, PWM_CNT2, PWM_CARRY, pT, pI]
  have same {r : Nat} (hr : bridgeReg r) (f : Fld) : u.fld r f = s.fld r f := congrArg f.get (regs r hr)
  refine ⟨trips, around.tripSeen.trans seen, ?_, fun first => ?_, ?_⟩
  · exact (around.state.trans state).trans (same stat _)
  · have once : (u.pwm p).tripSeen = false := by rw [pwm_modLoop, pwm_of_ports p ports, first]
    obtain ⟨tripCnt, tripsCnt, clean⟩ := counts once
    refine ⟨tripCnt.congr (same trip _).symm (around.regs.fld far _), tripsCnt.congr (same count _).symm around.trips, ?_⟩
    rw [around.regs.fld far, clean]
  · exact ((portsBut_of_ports _ ports).trans (portsBut_modPort y p _)).trans (others.trans around.ports)

/-! ## TRIP_CNT is cleared (R147) -/

theorem tripClear_clears
    (clean : s.fld (PWM_TRIP (pT p) (pI p)) PWM_TRIP_MCLEAN ≤ s.fld (PWM_TRIPSTAT (pT p) (pI p)) PWM_TRIPSTAT_CLEAN) :
    let x := tripClear p s
    x.fld (PWM_TRIPSTAT (pT p) (pI p)) PWM_TRIPSTAT_TRIP_CNT = 0 ∧
    x.fld (PWM_TRIPSTAT (pT p) (pI p)) PWM_TRIPSTAT_CLEAN = s.fld (PWM_TRIPSTAT (pT p) (pI p)) PWM_TRIPSTAT_CLEAN ∧
    RegsBut [PWM_TRIPSTAT (pT p) (pI p)] s x ∧ x.ports = s.ports := by
  have acts : tripClear p s = s.setFld (PWM_TRIPSTAT (pT p) (pI p)) PWM_TRIPSTAT_TRIP_CNT 0 := if_pos clean
  dsimp only
  rw [acts]
  exact ⟨State.fld_setFld_same _ _ _ _ (by decide), State.fld_setFld_other _ _ _ _ _ (by decide) (by decide) (by decide),
    regsBut_setFld s _ _ (List.mem_singleton_self _), State.setFld_ports ..⟩

/-! ## A carrier begins (R147, R159) -/

/-- A port period that ends at the pins is none of what they follow. -/
theorem State.Settled.nextPeriod {s : State} {p : Fin 64} {z : Rat} (h : s.Settled p z) (k : Nat) :
    (s.modPwm p fun w => { w with carK := k, tripSeen := false }).Settled p z := by
  have pwm := pwm_modPwm_same s p fun w => { w with carK := k, tripSeen := false }
  refine ⟨by rw [pwm]; exact h.valley, ?_⟩
  obtain before | rests | waits := h.pins
  · exact .inl (by rwa [pwm])
  · exact .inr (.inl (by rwa [State.gatesRest, pwm, portState_of_regs p (State.modPwm_regs ..)]))
  · exact .inr (.inr fun b => waits_of_lane (lane_modPwm s p b _ rfl) (waits b))

/-- The end of a port period at the pins leaves them settled: it counts in PWM_TRIPSTAT alone. -/
theorem endPinPeriod_keeps (k : Nat) (settled : s.Settled p s.now) : let y := endPinPeriod p k s
    y.now = s.now ∧ y.Settled p y.now ∧ RegsBut [PWM_TRIPSTAT (pT p) (pI p)] s y ∧ PortsBut [p] s y := by
  have clean (c : Prop) [Decidable c] : ∃ y, (if c then s else s.count (PWM_TRIPSTAT (pT p) (pI p)) PWM_TRIPSTAT_CLEAN) = y ∧
      y.now = s.now ∧ y.face p = s.face p ∧ RegsBut [PWM_TRIPSTAT (pT p) (pI p)] s y ∧ y.ports = s.ports := by
    have far : PWM_TRIPSTAT (pT p) (pI p) ∉ pulseRegs p := by
      simp [pulseRegs, laneRegs, PWM_TRIPSTAT, pwmStat, PWM_STAT, PWM_CTRL, PWM_DT, PWM_CARRY, pT, pI]
    by_cases h : c
    · exact ⟨s, if_pos h, rfl, rfl, .refl _ s, rfl⟩
    · exact ⟨_, if_neg h, State.count_now .., face_setFld s p _ _ far, regsBut_count _ _ _, State.count_ports ..⟩
  unfold endPinPeriod
  dsimp only
  split
  · obtain ⟨y, hy, now, face, regs, ports⟩ := clean ((s.pwm p).tripSeen = true ∨ s.portState p ≠ pRUN)
    rw [hy]
    have same : y.Settled p s.now := settled.of_face face
    refine ⟨now, ?_, regs, (portsBut_of_ports _ ports).trans (portsBut_modPort y p _)⟩
    rw [State.modPwm_now, now]
    exact same.nextPeriod k
  · exact ⟨rfl, settled, .refl _ s, fun _ _ => rfl⟩

/-- A carrier that begins on settled pins: the trip ends, released switches rejoin, and no other register changes. -/
theorem carrierStart_shows (settled : s.Settled p s.now) : let x := carrierStart p s
    x.bit (pwmStat p) PWM_STAT_TRIPPING = false ∧ (x.gd p).rejoin = Vector.replicate 4 false ∧
    RegsBut [pwmStat p, PWM_TRIPSTAT (pT p) (pI p)] s x ∧ PortsBut [p] s x := by
  obtain ⟨-, again, counted, period⟩ := endPinPeriod_keeps s p (s.pinK p s.now) settled
  unfold carrierStart pinChange pinChangeAt
  dsimp only
  generalize endPinPeriod p (s.pinK p s.now) s = y at again counted period ⊢
  have quiet : (settlePins p y.now y).regs = y.regs := again.regs
  have around := sameAround_settlePins y p y.now
  generalize settlePins p y.now y = w at quiet around ⊢
  let u := w.setBit (pwmStat p) PWM_STAT_TRIPPING false
  have regs : (movePins p false y.now (u.modGd p fun g => { g with rejoin := Vector.replicate 4 false })).regs = u.regs := by
    rw [movePins_regs, State.modGd_regs]
  refine ⟨?_, ?_, ?_, ?_⟩
  · rw [State.bit, State.fld, State.reg, regs, ← State.reg, ← State.fld, ← State.bit]
    exact State.bit_setBit_same _ _ _ _ (by decide) rfl
  · rw [movePins, State.gd, State.modPwm, State.port_modPort_same, State.modGd, State.port_modPort_same]
  · have shown : RegsBut [pwmStat p, PWM_TRIPSTAT (pT p) (pI p)] w u := regsBut_setFld w _ _ (by simp)
    have before : RegsBut [pwmStat p, PWM_TRIPSTAT (pT p) (pI p)] s w := fun r hr => by
      rw [State.reg, quiet]
      exact counted r fun one => hr (List.mem_cons_of_mem _ one)
    exact (before.trans shown).congr regs
  · have moved : PortsBut [p] w u := portsBut_of_ports _ (State.setBit_ports ..)
    exact (period.trans around.ports).trans (moved.trans ((portsBut_modPort u p _).trans (portsBut_modPort _ p _)))

end

end Sys2Proof.Machine
end

section
/-! SUPPORT. O27: a port that leaves RUN at once, and the state of a port that rests beside a fault that is raised (R144, R147, R309). -/

namespace Sys2Proof.Machine

/-! ## A port rests -/

/-- Whichever port is protected, one that is neither ARMED nor in RUN stays in its state, as no partner takes it along (R144). -/
theorem protectPort_portState {s : State} {o : Fin 64} (rests : s.portSafe o) (p : Fin 64) :
    (protectPort p s).portState o = s.portState o := by
  obtain ⟨unarmed, stopped⟩ := rests
  unfold protectPort
  split
  · next acts =>
    have apart : p ≠ o := by
      rintro rfl
      obtain armed | runs := acts.1
      · exact unarmed armed
      · exact stopped runs
    have moved : (pinChange p false (movePort p pPROTECTED) s).face o = s.face o :=
      face_pinChangeAt s apart _ _ _ fun t => face_movePort t apart _
    have stopped : (pinChange p false (movePort p pPROTECTED) s).portState o ≠ pRUN := by rwa [portState_of_face moved]
    exact portState_of_face ((face_followPorts ..).trans ((followPartner_face _ p stopped ..).trans moved))
  · rfl

theorem protectPorts_portState {s : State} {o : Fin 64} (rests : s.portSafe o) (a : Fin 32) (c : Prop) [Decidable c] :
    (if c then protectPort (s.portOf a true) (protectPort (s.portOf a false) s) else s).portState o = s.portState o := by
  have first := protectPort_portState rests (s.portOf a false)
  split
  · rw [protectPort_portState (by rwa [State.portSafe, first]), first]
  · rfl

theorem portState_of_tileRegs {s t : State} (h : t.tileRegs = s.tileRegs) (o : Fin 64) : t.portState o = s.portState o := by
  have stat : t.reg (pwmStat o) = s.reg (pwmStat o) := reg_of_tileRegs h (by simp only [pwmStat, PWM_STAT]; omega)
  rw [State.portState, State.fld, stat, State.portState, State.fld]

/-- A fault leaves a port that rests as it is (R309). -/
theorem raiseFault_portState {s : State} {o : Fin 64} (rests : s.portSafe o) (cls : Nat) (sc : FaultScope) (detail : Nat) (a : Fin 32) :
    (raiseFault cls sc detail a s).portState o = s.portState o := by
  have protect {y : State} (noted : y.tileRegs = s.tileRegs) (c : Prop) [Decidable c] :
      (if c then protectPort (y.portOf a true) (protectPort (y.portOf a false) y) else y).portState o = s.portState o := by
    have same := portState_of_tileRegs noted o
    rw [protectPorts_portState (by rwa [State.portSafe, same]), same]
  unfold raiseFault raiseFaultRx
  dsimp only
  split
  · exact protect (by simp) _
  · split
    · exact portState_of_tileRegs (by simp) o
    · exact protect (by simp) _

theorem raisePortFault_portState {s : State} {o : Fin 64} (rests : s.portSafe o) (cls : Nat) (p : Fin 64) (detail : Nat) :
    (raisePortFault cls p detail s).portState o = s.portState o := by
  unfold raisePortFault
  split
  · exact raiseFault_portState rests ..
  · rfl

/-! ## A port leaves RUN -/

/-- A port that goes to a state other than RUN is in it at once. -/
theorem enterPort_portState {x : Nat} (fits : x < 8) (leaves : x ≠ pRUN) (s : State) (p : Fin 64) :
    (s.enterPort p x).portState p = x := by
  have moved : (pinChange p false (movePort p x) s).portState p = x := by
    rw [pinChange, pinChangeAt, portState_of_regs p (movePins_regs ..), movePort_portState, Nat.mod_eq_of_lt fits]
  have partner := followPartner_face (pinChange p false (movePort p x) s) p (by rwa [moved]) x
    (s.portState p == pRUN && !s.direct p) s.now
  exact (portState_of_face ((face_followPorts ..).trans partner)).trans moved

theorem still_enterPort (x : Nat) (s : State) (p : Fin 64) : (s.enterPort p x).still = s.still := by
  rw [State.enterPort, State.enterPortBy, still_followPorts, still_followPartner, pinChange, still_pinChangeAt _ _ _ _ _ fun t =>
    still_movePort t p x]

/-- The trip that reaches NTRIP latches the port and raises its class (R147). -/
theorem tripLatch_latches {s : State} {p : Fin 64} (runs : s.portState p = pRUN)
    (reached : s.fld (PWM_TRIP (pT p) (pI p)) PWM_TRIP_NTRIP ≤ s.fld (PWM_TRIPSTAT (pT p) (pI p)) PWM_TRIPSTAT_TRIP_CNT) :
    let x := tripLatch p s
    x.portState p = pLATCHED ∧ x.portSafe p ∧ ∀ a b, s.axisOfPort p = some (a, b) → Faults s x 10 a := by
  have acts : tripLatch p s = raisePortFault 10 p 0 (s.enterPort p pLATCHED) := if_pos ⟨runs, reached⟩
  have latched : (s.enterPort p pLATCHED).portState p = pLATCHED := enterPort_portState (by decide) (by decide) s p
  have safe : (s.enterPort p pLATCHED).portSafe p := by
    rw [State.portSafe, latched]
    decide
  have mapped : (s.enterPort p pLATCHED).axisOfPort p = s.axisOfPort p := axisOfPort_of_still (still_enterPort ..) p
  have stays : (tripLatch p s).portState p = pLATCHED := by
    rw [acts, raisePortFault_portState safe, latched]
  refine ⟨stays, by rw [State.portSafe, stays]; decide, fun a b axis => ?_⟩
  rw [acts, raisePortFault_eq (mapped.trans axis)]
  have latches : Blind fun t => t.enterPort p pLATCHED := fun q t => Veil.enterPort q t p pLATCHED
  have raised := raiseFault_faults 10 ⟨1, p⟩ 0 a (s.enterPort p pLATCHED)
  exact (latches.grows s).logs raised

end Sys2Proof.Machine
end

section
/-! O27: the cycle-by-cycle trip, its latch, its clearing, and a new carrier (R147, R159, R161). -/

namespace Sys2Proof.Machine

/-- Settles O27: each command acts on its port settled to its line time; as it is settled, a carrier that begins finds nothing left to
settle, so that no more than the trip and the released switches change. -/
theorem tripsCountLatchAndClear : Obligations.TripsCountLatchAndClear := by
  intro s t p z settled
  have mapped : z.axisOfPort p = s.axisOfPort p := by
    rw [settled]
    exact axisOfPort_of_still (still_settlePort ..) p
  have pins : z.Settled p z.now := by
    rw [settled]
    exact settlePort_settled ..
  refine ⟨?_, fun runs reached => ?_, fun clean => ?_, ?_⟩
  · rintro low raw on rfl
    refine ⟨fun active live idle open_ => ?_, fun inactive => ?_⟩
    · exact ⟨cycleTrip p low raw z, by rw [settled]; rfl, cycleTrip_trips z p active live idle open_⟩
    · refine ⟨cycleTrip p low raw z, by rw [settled]; rfl, ?_⟩
      rw [cycleTrip_inactive z p inactive]
      exact showComp_inactive z p _
  · rw [← mapped]
    exact ⟨tripLatch p z, by rw [settled]; rfl, tripLatch_latches runs reached⟩
  · exact ⟨tripClear p z, by rw [settled]; rfl, tripClear_clears z p clean⟩
  · exact ⟨carrierStart p z, by rw [settled]; rfl, carrierStart_shows z p pins⟩

end Sys2Proof.Machine
end
